-- ==== Sys2Proof/Word.lean ====
section
/-! DEFINITION. The words of the OZ-9600: bytes, 32-bit register words, 52-bit virtual addresses (R5, R185). -/

namespace Sys2Proof

/-- A byte of memory. -/
abbrev Byte := BitVec 8

/-- A 32-bit register word (R2, R5). -/
abbrev Word := BitVec 32

/-- A 64-bit value, held in an even pair of registers (R5, R56). -/
abbrev DWord := BitVec 64

/-- A `.g` virtual address, and the address of a clause header: 52 bits (R2, R81, R185). -/
abbrev VAddr := BitVec 52

end Sys2Proof
end

