-- ==== Sys2Proof/Machine/Crypto.lean ====
section
/-! DEFINITION. The codes and ciphers that the spec names: AES-128 (R79), CRC-32C (R326), CRC-12 (R299), SHAKE256 (R348). -/

namespace Sys2Proof.Machine

open Sys2Proof

/-! ## AES-128, on lists of 16 bytes in the order of FIPS 197 -/

/-- The rows of the substitution box, byte c of row r for input 16 r + c. -/
def sboxRows : List Nat :=
  [0x76ABD7FE2B670130C56F6BF27B777C63, 0xC072A49CAFA2D4ADF04759FA7DC982CA, 0x1531D871F1E5A534CCF73F362693FDB7,
   0x75B227EBE28012079A059618C323C704, 0x842FE329B3D63B52A05A6E1B1A2C8309, 0xCF584C4A39BECB6A5BB1FC20ED00D153,
   0xA89F3C507F02F94585334D43FBAAEFD0, 0xD2F3FF1021DAB6BCF5389D928F40A351, 0x73195D643D7EA7C41744975FEC130CCD,
   0xDB0B5EDE14B8EE4688902A22DC4F8160, 0x79E4959162ACD3C25C2406490A3A32E0, 0x08AE7A65EAF4566CA94ED58D6D37C8E7,
   0x8A8BBD4B1F74DDE8C6B4A61C2E2578BA, 0x9E1DC186B95735610EF6034866B53E70, 0xDF2855CEE9871E9B948ED9691198F8E1,
   0x16BB54B00F2D99416842E6BF0D89A18C]

/-- The substitution of a byte. -/
def sbox (b : Nat) : Nat := (sboxRows.getD (b / 16) 0) / 2 ^ (8 * (b % 16)) % 256

/-- A byte times x in the field of AES. -/
def xtime (b : Nat) : Nat := if b < 128 then 2 * b else (2 * b) ^^^ 0x11B

/-- Two lists of bytes added. -/
def xorBytes (a b : List Nat) : List Nat := List.zipWith (fun x y => x ^^^ y) a b

/-- The next round key, with its round constant. -/
def nextKey (k : List Nat) (rcon : Nat) : List Nat :=
  let g (i : Nat) : Nat := k.getD i 0
  let t := [sbox (g 13) ^^^ rcon, sbox (g 14), sbox (g 15), sbox (g 12)]
  let w0 := xorBytes (k.take 4) t
  let w1 := xorBytes ((k.drop 4).take 4) w0
  let w2 := xorBytes ((k.drop 8).take 4) w1
  w0 ++ w1 ++ w2 ++ xorBytes (k.drop 12) w2

/-- Substitution and shift of the rows: byte r + 4 c of the result is that of column c + r. -/
def subShift (s : List Nat) : List Nat :=
  (List.range 16).map (fun i => sbox (s.getD ((i + 4 * (i % 4)) % 16) 0))

/-- The mixing of one column. -/
def mixColumn (c : List Nat) : List Nat :=
  let g (i : Nat) : Nat := c.getD (i % 4) 0
  (List.range 4).map (fun r => xtime (g r) ^^^ xtime (g (r + 1)) ^^^ g (r + 1) ^^^ g (r + 2) ^^^ g (r + 3))

/-- The mixing of all columns. -/
def mixColumns (s : List Nat) : List Nat :=
  (List.range 4).flatMap (fun c => mixColumn ((s.drop (4 * c)).take 4))

/-- The rounds after the first key addition: the state, the key, the round constants to come. -/
def aesRounds : List Nat → List Nat → List Nat → List Nat
  | s, _, [] => s
  | s, k, [rc] => xorBytes (subShift s) (nextKey k rc)
  | s, k, rc :: rcs =>
    let k1 := nextKey k rc
    aesRounds (xorBytes (mixColumns (subShift s)) k1) k1 rcs

/-- AES-128 encryption of a block under a key. -/
def aes128 (key block : List Nat) : List Nat :=
  aesRounds (xorBytes block key) key [1, 2, 4, 8, 16, 32, 64, 128, 27, 54]

/-- The bytes of a number, least significant first, as numbers. -/
def natBytes : Nat → Nat → List Nat
  | 0, _ => []
  | n + 1, v => v % 256 :: natBytes n (v / 256)

/-- The number of a list of bytes, least significant first. -/
def bytesNat : List Nat → Nat
  | [] => 0
  | b :: bs => b + 256 * bytesNat bs

/-! ## Cyclic codes -/

/-- Eight steps of the reflected code of R326. -/
def crcBits : Nat → Nat → Nat
  | 0, c => c
  | n + 1, c => crcBits n (if c % 2 = 1 then c / 2 ^^^ 0x82F63B78 else c / 2)

/-- CRC-32C of bytes (R326): reflected, first value and last XOR all ones. -/
def crc32c (bs : List Byte) : Nat :=
  (bs.foldl (fun c b => crcBits 8 (c ^^^ b.toNat)) 0xFFFFFFFF) ^^^ 0xFFFFFFFF

/-- One bit fed to the code of R299. -/
def crc12Step (c : Nat) (bit : Bool) : Nat :=
  let top := (c / 2048 % 2 = 1) != bit
  let c1 := c * 2 % 4096
  if top then c1 ^^^ 0x80F else c1

/-- CRC-12 of bits 63 down to 12 of a caravan header (R299). -/
def crc12 (h : DWord) : Nat :=
  (List.range 52).foldl (fun c i => crc12Step c (h.getLsbD (63 - i))) 0

/-! ## SHAKE256 -/

/-- The round constants of Keccak-f[1600]. -/
def keccakRc : List Nat :=
  [0x1, 0x8082, 0x800000000000808A, 0x8000000080008000,
   0x808B, 0x80000001, 0x8000000080008081, 0x8000000000008009,
   0x8A, 0x88, 0x80008009, 0x8000000A,
   0x8000808B, 0x800000000000008B, 0x8000000000008089, 0x8000000000008003,
   0x8000000000008002, 0x8000000000000080, 0x800A, 0x800000008000000A,
   0x8000000080008081, 0x8000000000008080, 0x80000001, 0x8000000080008008]

/-- The rotations of the 25 lanes, lane x + 5 y. -/
def keccakRot : List Nat :=
  [0, 1, 62, 28, 27, 36, 44, 6, 55, 20, 3, 10, 43,
   25, 39, 41, 45, 15, 21, 8, 18, 2, 61, 56, 14]

/-- A 64-bit rotation to the left. -/
def rotl64 (v n : Nat) : Nat := (v * 2 ^ n % 2 ^ 64) ||| (v / 2 ^ (64 - n))

/-- One round of Keccak on 25 lanes. -/
def keccakRound (a : List Nat) (rc : Nat) : List Nat :=
  let g (l : List Nat) (i : Nat) : Nat := l.getD i 0
  let c := (List.range 5).map (fun x => g a x ^^^ g a (x + 5) ^^^ g a (x + 10) ^^^ g a (x + 15) ^^^ g a (x + 20))
  let d := (List.range 5).map (fun x => g c ((x + 4) % 5) ^^^ rotl64 (g c ((x + 1) % 5)) 1)
  let e := (List.range 25).map (fun i => rotl64 (g a i ^^^ g d (i % 5)) (g keccakRot i))
  let b := (List.range 25).map (fun i =>
    let x := i % 5
    let y := i / 5
    g e ((x + 3 * y) % 5 + 5 * x))
  (List.range 25).map (fun i =>
    let y := i / 5 * 5
    let v := g b i ^^^ ((2 ^ 64 - 1 - g b (y + (i % 5 + 1) % 5)) &&& g b (y + (i % 5 + 2) % 5))
    if i = 0 then v ^^^ rc else v)

/-- Keccak-f[1600]. -/
def keccakF (a : List Nat) : List Nat := keccakRc.foldl keccakRound a

/-- A block of 136 bytes added to the lanes. -/
def absorbBlock (a : List Nat) (b : List Nat) : List Nat :=
  keccakF ((List.range 25).map (fun i => a.getD i 0 ^^^ bytesNat ((b.drop (8 * i)).take 8)))

/-- All whole blocks of a padded message, `n` of them, absorbed. -/
def absorbAll : Nat → List Nat → List Nat → List Nat
  | 0, a, _ => a
  | n + 1, a, m => absorbAll n (absorbBlock a (m.take 136)) (m.drop 136)

/-- SHAKE256 of a message, with an output of at most 136 bytes. -/
def shake256 (m : List Byte) (out : Nat) : List Byte :=
  let msg := m.map (fun b => b.toNat)
  let blocks := msg.length / 136 + 1
  let gap := blocks * 136 - msg.length
  let padded := msg ++ (if gap = 1 then [0x9F] else 0x1F :: List.replicate (gap - 2) 0 ++ [0x80])
  let a := absorbAll blocks (List.replicate 25 0) padded
  ((a.flatMap (natBytes 8)).take out).map (BitVec.ofNat 8)

end Sys2Proof.Machine
end

