-- ==== Sys2Proof/Config.lean ====
section
/-! DEFINITION. What one implementation fixes, and the free values: constants with no body, of which nothing can be
proved, for every value that the spec grants as unpredictable or does not state. -/

namespace Sys2Proof.Config

open Sys2Proof

/-! ## Free values -/

/-- The byte that the `n`-th unpredictable byte receives (R8). -/
opaque freeByte : Nat → Byte

/-- The word that the `n`-th unpredictable register word receives (R8). -/
opaque freeWord : Nat → Word

/-- The special functions within the bound of R163, before the special cases of R164: the argument is the FP32 operand. -/
opaque approx : Nat → Word → Word

/-- Whether a signature of a firmware image verifies under SLH-DSA, parameter set SHAKE256-256s (R348): public key,
message, signature. The algorithm is named, not given, by the spec. -/
opaque slhVerify : List Byte → List Byte → List Byte → Bool

/-- The signature that the device identity key gives a report (R349). -/
opaque slhSign : List Byte → List Byte

/-- The fused digest of the root public key (R348): 64 bytes. -/
opaque fusedDigest : List Byte

/-- The device identity public key (R349): 64 bytes. -/
opaque deviceKey : List Byte

/-- The measurement register that the image of a number extends (R348). -/
opaque measureRegister : Nat → Nat

/-- The firmware's layout tag of saved group records (R372). -/
opaque layoutTag : Word

/-- How a margin review marks an operating point's word unavailable, over the guard found (R347): the mark's form is not given. -/
opaque unavailable : Word → Word

/-- The bytes of the sections of a saved group record whose layout is the firmware's (R372), by record and offset. -/
opaque groupStateByte : Nat → Nat → Byte

/-- The bit that a hash function of a stack's refresh filter selects (R344): function number, bank, row. -/
opaque refreshHash : Nat → Nat → Nat → Nat

/-! ## Figures that the spec leaves to the part -/

/-- Frames of 64 KiB in one stack's HBM, and in its LPDDR (R2, R13): 80 GB and 192 GB in whole frames. -/
def hbmFrames : Nat := 1220703
/-- See `hbmFrames`. -/
def lpddrFrames : Nat := 2929687

/-- The clock periods of OP0 to OP7 in 1/1008 ns (R345). -/
def period (op : Nat) : Nat :=
  match op with
  | 7 => 252 | 6 => 280 | 5 => 315 | 4 => 360 | 3 => 420 | 2 => 504 | 1 => 630 | _ => 840

/-- One nanosecond in the unit of time. -/
def ns : Nat := 1008

end Sys2Proof.Config
end

