-- ==== Sys2Proof/Syntax.lean ====
section
/-! DEFINITION. The syntax of the part: register names, modifiers, and one constructor of `Instr` for every row of
spec/opcode_table.json: the instructions (R96, R97), and the steps that the units of the part and its surroundings take
(95_what_each_step_holds.md), which carry as arguments whatever those surroundings decide. -/

namespace Sys2Proof

/-- A register code of R94: window-relative, fixed, the zero register, or one of the codes 640 to 1022, which name no
register and raise the illegal-operand trap. -/
inductive Reg where
  | v (k : Fin 608)
  | x (k : Fin 32)
  | vz
  | illegal (k : Fin 383)
  deriving DecidableEq, Repr, Inhabited

/-- The conditions of R65. -/
inductive Cond where
  | al | eq | ne | cs | cc | mi | pl | vs | vc | hi | ls | ge | lt | gt | le | nv
  deriving DecidableEq, Repr, Inhabited

/-- A guard: a condition on one of c0 to c3 (R65). -/
structure Guard where
  cc : Fin 4
  cond : Cond
  deriving DecidableEq, Repr, Inhabited

/-- The rounding codes of R75. -/
inductive Rnd where
  | rne | rz | ru | rd | sr
  deriving DecidableEq, Repr, Inhabited

/-- The scopes of R116 and R230, from narrowest to widest. -/
inductive Scope where
  | fibre | group | die | device | system
  deriving DecidableEq, Repr, Inhabited

/-- The addressed spaces of R185. -/
inductive Space where
  | g | s | d | k
  deriving DecidableEq, Repr, Inhabited

/-- The three spaces that WAITW, ATOM and RED may name (R116, R205). -/
inductive Space3 where
  | g | s | d
  deriving DecidableEq, Repr, Inhabited

/-- An operand that the 96-bit form may supply as its literal (R92). -/
inductive Src where
  | reg (r : Reg)
  | lit (w : Word)
  deriving DecidableEq, Repr, Inhabited

/-- The CC register that `.cc cN` writes, if any (R64, R146). -/
abbrev CcW := Option (Fin 4)

/-- A branch offset in units of 8 bytes: 20 bits, or the 32-bit literal (R103). -/
inductive Off where
  | short (o : BitVec 20)
  | long (o : Word)
  deriving DecidableEq, Repr, Inhabited

/-- A memory offset in bytes: 10 bits, or the 32-bit literal (R203). -/
inductive MemOff where
  | short (o : BitVec 10)
  | long (o : Word)
  deriving DecidableEq, Repr, Inhabited

/-- A shift count: a register, or the uint10 of `.imm` (R151). -/
inductive ShiftSrc where
  | reg (r : Reg)
  | imm (n : BitVec 10)
  deriving DecidableEq, Repr, Inhabited

/-- A lane operand: a register, or an immediate 0 to 31 (R172). -/
inductive LaneSrc where
  | reg (r : Reg)
  | imm (n : BitVec 5)
  deriving DecidableEq, Repr, Inhabited

/-- MOVI's immediate: 10 bits sign-extended, or the 32-bit literal (R156). -/
inductive MovImm where
  | short (i : BitVec 10)
  | long (w : Word)
  deriving DecidableEq, Repr, Inhabited

/-- WAITW's comparisons (R116). -/
inductive WaitCmp where
  | eq | ne | geu | ltu | ge | lt
  deriving DecidableEq, Repr, Inhabited

/-- TMASK's operations (R365, R367). -/
inductive TmaskOp where
  | vec (pair : Reg)
  | en (r : Reg)
  | hold
  | release
  deriving DecidableEq, Repr, Inhabited

/-- CVP's formats (R167): two 16-bit elements, four 8-bit elements, or four E2M1 elements into a half. -/
inductive CvpSel where
  | h2 (bf16 : Bool) (b : Reg)
  | q4 (e5m2 : Bool)
  | e2m1 (half : Bool)
  deriving DecidableEq, Repr, Inhabited

/-- CVU's formats (R168). -/
inductive CvuSel where
  | h2 (bf16 : Bool)
  | q4 (e5m2 : Bool)
  | e2m1 (half : Bool)
  deriving DecidableEq, Repr, Inhabited

/-- DOT4's element types and rounding (R169). -/
inductive Dot4Mode where
  | flt (aE5m2 bE5m2 : Bool) (rnd : Rnd)
  | int (aUns bUns : Bool) (sat : Bool)
  deriving DecidableEq, Repr, Inhabited

/-- DOT8's element types and rounding (R169): the float element is E2M1. -/
inductive Dot8Mode where
  | flt (rnd : Rnd)
  | int (aUns bUns : Bool) (sat : Bool)
  deriving DecidableEq, Repr, Inhabited

/-- RAND's forms (R171). -/
inductive RandMode where
  | plain | f | w64
  deriving DecidableEq, Repr, Inhabited

/-- SHFL's modes; `.clip` stands only with `.add` and `.sub` (R173). -/
inductive ShflMode where
  | at
  | add (clip : Bool)
  | sub (clip : Bool)
  | xor
  deriving DecidableEq, Repr, Inhabited

/-- SHFL's spans (R172). -/
inductive Span where
  | w32 | w16 | w8 | w4
  deriving DecidableEq, Repr, Inhabited

/-- VOTE's operations (R173). -/
inductive VoteOp where
  | mask | anyTrue | allTrue | same | count
  deriving DecidableEq, Repr, Inhabited

/-- The integer operations of REDL and SCANL (R173). -/
inductive RedIntOp where
  | add | min | max | and | or | xor
  deriving DecidableEq, Repr, Inhabited

/-- The float operations of REDL and SCANL (R173). -/
inductive RedFltOp where
  | add | min | max
  deriving DecidableEq, Repr, Inhabited

/-- Type and operation of REDL and SCANL (R173): `.ftz` stands only with `.f32`. -/
inductive RedSel where
  | s32 (op : RedIntOp)
  | u32 (op : RedIntOp)
  | f32 (op : RedFltOp) (ftz : Bool)
  deriving DecidableEq, Repr, Inhabited

/-- TOPK's types (R173). -/
inductive TopkType where
  | f32 | s32 | u32
  deriving DecidableEq, Repr, Inhabited

/-- The access widths of LD (R204); ST uses the first five. -/
inductive Width where
  | b8 | b16 | b32 | b64 | b128 | s8 | s16
  deriving DecidableEq, Repr, Inhabited

/-- The operations of ATOM and RED, in the order of their codes (R210). -/
inductive AtomOp where
  | addB32 | addB64 | minS32 | minU32 | maxS32 | maxU32 | minS64 | minU64 | maxS64 | maxU64
  | andB32 | orB32 | xorB32 | andB64 | orB64 | xorB64 | exchB32 | exchB64 | casB32 | casB64 | casB128
  | faddF32 | faddBf16x2 | fmaxabsF32
  deriving DecidableEq, Repr, Inhabited

/-- The order field of ATOM and RED (R205). -/
inductive MemOrder where
  | rlx | acq | rel | acqRel
  deriving DecidableEq, Repr, Inhabited

/-- FENCE's kinds (R204, R214). -/
inductive FenceKind where
  | acq | rel | acqRel | sc
  deriving DecidableEq, Repr, Inhabited

/-- The copy directions, destination space first (R217). -/
inductive CopyDir where
  | sg | gs | dg | gd | gg | sd | ds | srec
  deriving DecidableEq, Repr, Inhabited

/-- RNFRESH's tier code (R204, R228). -/
inductive FreshTier where
  | asEntry | hbm | lpddr
  deriving DecidableEq, Repr, Inhabited

/-- The matrix formats (R268). -/
inductive MmaFmt where
  | bf16 | fp16 | e4m3 | e5m2 | e2m1 | int8 | int4
  deriving DecidableEq, Repr, Inhabited

/-- The block scaling of an MMA: its scale pair, byte select and block lengths (R267, R268, R273). -/
structure MmaScale where
  pair : Reg
  p : Fin 4
  sa : Fin 4
  sb : Fin 4
  deriving DecidableEq, Repr, Inhabited

/-- The memory formats of ACCST and ACCLD (R268). -/
inductive TileFmt where
  | f32 | bf16 | fp16
  deriving DecidableEq, Repr, Inhabited

/-- KVAPPEND's D codes (R337). -/
inductive KvD where
  | d64 | d128 | d256
  deriving DecidableEq, Repr, Inhabited

/-! ## Arguments of the steps that the surroundings take -/

/-- A firmware image offered at boot, with its public key and its signature (R348). -/
structure FirmwareImage where
  image : List Byte
  key : List Byte
  sig : List Byte
  deriving DecidableEq, Repr, Inhabited

/-- One row that the retention test of boot bins into a stricter class (R344). -/
structure RowBin where
  stack : Nat
  bank : Nat
  row : Nat
  class32 : Bool
  deriving DecidableEq, Repr, Inhabited

/-- One turn of a matrix operation in flight: the operation, and the units of an ACCST that it writes ahead of its end;
with none named it ends (R240). -/
structure MatrixTurn where
  id : Nat
  early : List Nat := []
  deriving DecidableEq, Repr, Inhabited

/-- A reading of the scrubber or of a demand read: what the storage code found (R398, R399). -/
inductive EccFinding where
  | clean | correctable | uncorrectable
  deriving DecidableEq, Repr, Inhabited

/-- Core storage that an uncorrectable error hit (R400). -/
inductive CoreStorage where
  | register (quad : Nat) (addr : Nat)
  | scratch (offset : Nat)
  | tile (n : Nat)
  | residual (wid : Nat)
  deriving DecidableEq, Repr, Inhabited

/-- The failing unit that a margin review found in a slot (R397). -/
inductive FailingUnit where
  | registerBlock (quad : Nat)
  | quadrant (quad : Nat)
  | scratchSegment
  | accBank
  | other
  deriving DecidableEq, Repr, Inhabited

/-- One slot repaired by a margin review: the slot is `core` of 0 to 63 or 64 for the engine slot of `die`, the unit
found, and whether the scan after the action passed (R397). -/
structure Repair where
  die : Nat
  slot : Nat
  unit : FailingUnit
  pass : Bool
  deriving DecidableEq, Repr, Inhabited

/-- An access that the host makes through one of its ports (R246, R339, R340). -/
inductive HostAccess where
  | write (ctx : Nat) (va : VAddr) (bytes : List Byte)
  | atomicAdd (ctx : Nat) (va : VAddr) (v : Word)
  | atomic (ctx : Nat) (va : VAddr) (op : AtomOp) (operand : List Word)
  | readMem (ctx : Nat) (va : VAddr) (len : Nat)
  | writeHost (addr : Nat) (bytes : List Byte)
  | pageResponse (frame : Nat) (granted : Bool)
  deriving DecidableEq, Repr, Inhabited

/-- An access that arrives from a peer module, to a frame of this module (R342, R212). -/
inductive PeerAccess where
  | load (addr : Nat) (len : Nat)
  | store (addr : Nat) (key : Nat) (bytes : List Byte)
  | atomic (addr : Nat) (key : Nat) (op : AtomOp) (operand : List Word)
  deriving DecidableEq, Repr, Inhabited

/-- What the top root of a channel on a peer module sends to every opening module's device root: a record with its status, a
correction, a counter of the correction area, by its offset, or a contribution rejected (R315 to R317). -/
inductive TopMessage where
  | record (round status : Word) (ids : List Nat) (vector : List Word)
  | correction (round status : Word) (ids : List Nat) (vector : List Word)
  | counter (off : Fin 3)
  | reject
  deriving DecidableEq, Repr, Inhabited

/-- Where a Wadi arrival comes from: a contribution in flight of this module's fibres, a packet in transit between two
nodes of this module, a packet that a peer module's device root sent, with the block by which that module opened the channel,
a counter raised or a contribution rejected (`none`) at another module's node, or what the channel's top root on a peer module
sends (R306, R308, R310, R314 to R317). -/
inductive WadiSource where
  | contribution (op : Nat)
  | transit (id : Nat)
  | peer (module channel : Nat) (round : Word) (ids : List Nat) (vector : List Word) (expiredDie expiredRoot late : Bool)
      (block : List Byte)
  | peerCounter (module channel : Nat) (off : Option (Fin 3))
  | fromTop (channel : Nat) (what : TopMessage)
  deriving DecidableEq, Repr, Inhabited

/-- Where an arriving caravan comes from: a command of this module, with its header as received and the 16-byte units of its
slot that become visible before the others, or a peer module (R240, R301, R304). -/
inductive CaravanSource where
  | op (id : Nat) (header : DWord) (early : List Nat)
  | peer (desc : Nat) (key : Nat) (header : DWord) (row : List Byte) (attempt : Nat)
  deriving DecidableEq, Repr, Inhabited

/-- The level of a Wadi node (R306). -/
inductive WadiLevel where
  | die (n : Nat) | root | top
  deriving DecidableEq, Repr, Inhabited

/-! ## The instructions and steps -/

/-- Every row of spec/opcode_table.json. -/
inductive Instr where
  -- control, fibre and synchronisation instructions (R103)
  | nop (g : Guard)
  | bra (g : Guard) (off : Off)
  | brx (g : Guard) (a : Reg)
  | call (g : Guard) (k : BitVec 10) (off : Off)
  | callx (g : Guard) (a : Reg) (k : BitVec 10)
  | ret (g : Guard)
  | enter (g : Guard) (n : BitVec 10)
  | fork (g : Guard) (d : Reg) (off : Off) (w : CcW)
  | exit (g : Guard)
  | yieldI (g : Guard)
  | mode (g : Guard) (policy : Option Bool) (defer : Option Bool)
  | fwait (g : Guard) (mask : BitVec 12)
  | tmset (g : Guard) (delta : Src)
  | phase (g : Guard) (count : Src) (margin : Reg)
  | sread (g : Guard) (d : Reg) (idx : BitVec 8) (w64 : Bool)
  | swrite (g : Guard) (a : Reg) (idx : BitVec 8) (w64 : Bool)
  | rjen (g : Guard) (jm : Fin 8)
  | rjwait (g : Guard) (jm : Fin 8)
  | rjstrike (g : Guard) (jm : Fin 8)
  | cvset (g : Guard) (a : Reg) (cv : Fin 16)
  | cvsign (g : Guard) (a b : Reg) (cv : Fin 16)
  | bara (g : Guard) (cnt : Reg) (bar : Fin 16)
  | barw (g : Guard) (bar : Fin 16)
  | bars (g : Guard) (cnt : Reg) (bar : Fin 16)
  | waitw (g : Guard) (a b : Reg) (off : BitVec 10) (scope : Scope) (space : Space3) (cmp : WaitCmp)
  | waitwRecheck (wid lane : Nat)
  | trap (g : Guard) (imm : BitVec 10)
  | tret (g : Guard)
  | tmask (g : Guard) (op : TmaskOp)
  | rinj (g : Guard) (a : Reg) (load : Bool)
  -- integer and address instructions (R145)
  | iadd (g : Guard) (d a : Reg) (b : Src) (sat : Bool) (w : CcW)
  | isub (g : Guard) (d a : Reg) (b : Src) (sat : Bool) (w : CcW)
  | imul (g : Guard) (d a : Reg) (b : Src) (w : CcW)
  | imulh (g : Guard) (d a : Reg) (b : Src) (u : Bool) (w : CcW)
  | imad (g : Guard) (d a : Reg) (b : Src) (c : Reg) (w : CcW)
  | iadd64 (g : Guard) (d a : Reg) (b : Src) (w : CcW)
  | imad64 (g : Guard) (d a : Reg) (b : Src) (c : Reg) (u : Bool) (w : CcW)
  | ishl (g : Guard) (d a : Reg) (b : ShiftSrc) (w : CcW)
  | ishr (g : Guard) (d a : Reg) (b : ShiftSrc) (w : CcW)
  | ishra (g : Guard) (d a : Reg) (b : ShiftSrc) (w : CcW)
  | bool3 (g : Guard) (d a : Reg) (b : Src) (c : Reg) (table : BitVec 8)
  | imin (g : Guard) (d a : Reg) (b : Src) (u : Bool) (w : CcW)
  | imax (g : Guard) (d a : Reg) (b : Src) (u : Bool) (w : CcW)
  | iabs (g : Guard) (d a : Reg) (sat : Bool) (w : CcW)
  | popc (g : Guard) (d a : Reg) (w : CcW)
  | clz (g : Guard) (d a : Reg) (w : CcW)
  | bfe (g : Guard) (d a b : Reg) (sx : Bool) (w : CcW)
  | bfi (g : Guard) (d a b c : Reg) (w : CcW)
  | icmp (g : Guard) (d a : Reg) (b : Src) (cond : Cond) (w : CcW)
  | isel (g : Guard) (d a : Reg) (b : Src) (cond : Cond) (cn : Fin 4)
  | mov (g : Guard) (d a : Reg) (w64 : Bool)
  | movi (g : Guard) (d : Reg) (imm : MovImm)
  -- floating point, special functions, conversions (R145)
  | fadd (g : Guard) (d a : Reg) (b : Src) (rnd : Rnd) (ftz sat : Bool) (w : CcW)
  | fsub (g : Guard) (d a : Reg) (b : Src) (rnd : Rnd) (ftz sat : Bool) (w : CcW)
  | fmul (g : Guard) (d a : Reg) (b : Src) (rnd : Rnd) (ftz sat : Bool) (w : CcW)
  | ffma (g : Guard) (d a : Reg) (b : Src) (c : Reg) (rnd : Rnd) (ftz sat : Bool) (w : CcW)
  | fmin (g : Guard) (d a : Reg) (b : Src) (nan ftz : Bool) (w : CcW)
  | fmax (g : Guard) (d a : Reg) (b : Src) (nan ftz : Bool) (w : CcW)
  | fcmp (g : Guard) (d a : Reg) (b : Src) (cond : Cond) (ftz : Bool) (w : CcW)
  | fclass (g : Guard) (d a : Reg)
  | hadd2 (g : Guard) (d a : Reg) (b : Src) (rnd : Rnd) (ftz bf16 : Bool)
  | hmul2 (g : Guard) (d a : Reg) (b : Src) (rnd : Rnd) (ftz bf16 : Bool)
  | hfma2 (g : Guard) (d a : Reg) (b : Src) (c : Reg) (rnd : Rnd) (ftz bf16 : Bool)
  | rcp (g : Guard) (d a : Reg) (ftz : Bool) (w : CcW)
  | rsq (g : Guard) (d a : Reg) (ftz : Bool) (w : CcW)
  | sqrt (g : Guard) (d a : Reg) (ftz : Bool) (w : CcW)
  | exp2 (g : Guard) (d a : Reg) (ftz : Bool) (w : CcW)
  | log2 (g : Guard) (d a : Reg) (ftz : Bool) (w : CcW)
  | sin (g : Guard) (d a : Reg) (ftz : Bool) (w : CcW)
  | cos (g : Guard) (d a : Reg) (ftz : Bool) (w : CcW)
  | tanh (g : Guard) (d a : Reg) (ftz : Bool) (w : CcW)
  | f2i (g : Guard) (d a : Reg) (rnd : Rnd) (u : Bool) (w : CcW)
  | i2f (g : Guard) (d a : Reg) (rnd : Rnd) (u : Bool) (w : CcW)
  | cvp (g : Guard) (d a : Reg) (sel : CvpSel) (rnd : Rnd) (sat : Bool)
  | cvu (g : Guard) (d a : Reg) (sel : CvuSel)
  | dot4 (g : Guard) (d a b c : Reg) (m : Dot4Mode)
  | dot8 (g : Guard) (d a b c : Reg) (m : Dot8Mode)
  | scale (g : Guard) (d a b : Reg) (rnd : Rnd) (byte : Fin 4) (w : CcW)
  | rand (g : Guard) (d : Reg) (m : RandMode)
  -- cross-lane instructions (R172)
  | shfl (g : Guard) (d a : Reg) (b : LaneSrc) (m : ShflMode) (span : Span) (w : CcW)
  | lpush (g : Guard) (d a : Reg) (b : LaneSrc) (w : CcW)
  | matchKeys (g : Guard) (d a : Reg) (w64 : Bool) (w : CcW)
  | vote (g : Guard) (d a : Reg) (op : VoteOp) (w : CcW)
  | redl (g : Guard) (d a : Reg) (sel : RedSel)
  | scanl (g : Guard) (d a : Reg) (sel : RedSel) (excl : Bool)
  | topk (g : Guard) (dv di vs : Reg) (n : Fin 4) (k : BitVec 5) (ty : TopkType)
  | regroup (g : Guard) (a : Reg)
  | regroupRelease (gid core : Nat)
  -- memory, copy, stage-ring and rename instructions (R203)
  | ld (g : Guard) (d a : Reg) (off : MemOff) (fs : Bool) (width : Width) (space : Space) (na : Bool)
      (acq : Option Scope)
  | st (g : Guard) (a data : Reg) (off : MemOff) (fs : Bool) (width : Width) (space : Space) (rel : Bool)
      (scope : Scope)
  | atom (g : Guard) (d a : Reg) (b : Src) (fs : Bool) (op : AtomOp) (order : MemOrder) (scope : Scope)
      (space : Space3)
  | red (g : Guard) (a : Reg) (b : Src) (fs : Bool) (op : AtomOp) (order : MemOrder) (scope : Scope) (space : Space3)
  | fence (g : Guard) (scope : Scope) (kind : FenceKind)
  | pref (g : Guard) (a : Reg) (off : MemOff) (dieCache : Bool)
  | tcopy (g : Guard) (d a desc : Reg) (fs : Bool) (dir : CopyDir) (post : Option (Fin 8 × Reg))
  | copya (g : Guard) (d a len : Reg) (fs : Bool) (dir : CopyDir) (scope : Scope)
  | srinit (g : Guard) (a b c : Reg) (ring : Fin 8)
  | srwait (g : Guard) (stage : Reg) (phase : Bool) (empty : Bool) (ring : Fin 8)
  | srpost (g : Guard) (stage : Reg) (empty : Bool) (ring : Fin 8)
  | rnmove (g : Guard) (dst src len : Reg) (fs : Bool) (scope : Scope)
  | rnswap (g : Guard) (dst src len : Reg) (fs : Bool) (scope : Scope)
  | rnalias (g : Guard) (dst src len : Reg) (fs : Bool) (scope : Scope)
  | rnperm (g : Guard) (n dst src idx : Reg) (fs : Bool) (scope : Scope)
  | rndrop (g : Guard) (va len : Reg) (fs : Bool) (scope : Scope)
  | rnfresh (g : Guard) (va len : Reg) (fs : Bool) (scope : Scope) (tier : FreshTier)
  | rnquery (g : Guard) (d va : Reg) (fs : Bool)
  -- matrix instructions (R267)
  | mma (g : Guard) (tile : BitVec 8) (a b : Reg) (sc : Option MmaScale) (ck : Bool) (fmt : MmaFmt)
  | mmaJ (g : Guard) (tile : BitVec 8) (m64 : Bool) (cv : Fin 16) (ck : Bool) (fmt : MmaFmt)
  | accz (g : Guard) (tile : BitVec 8) (tiles : BitVec 8)
  | accmv (g : Guard) (d : Reg) (amax : Option Reg) (tile : BitVec 8) (z fs : Bool)
  | accst (g : Guard) (amax : Option Reg) (a : Reg) (tile : BitVec 8) (pitch : Reg) (z : Bool) (inS : Bool) (wf : TileFmt)
      (fs : Bool)
  | accld (g : Guard) (a : Reg) (tile : BitVec 8) (pitch : Reg) (inS : Bool) (wf : TileFmt) (fs : Bool)
  | mwait (g : Guard) (tile : Option (BitVec 8))
  | opfence (g : Guard)
  | matrixEngineStart (core : Nat)
  | matrixOpFinish (turn : MatrixTurn)
  -- node, sort-count, caravan, Wadi and attention instructions (R261, R295, R303, R322, R337)
  | nrel (g : Guard) (a : Reg) (fs : Bool)
  | nwait (g : Guard) (d a : Reg) (prov : Bool)
  | nstat (g : Guard) (d a : Reg) (fs : Bool)
  | sortcnt (g : Guard) (a : Reg) (fs : Bool) (scope : Scope)
  | carsend (g : Guard) (len row hdr buf : Reg) (fs : Bool) (inS : Bool)
  | wopen (g : Guard) (a : Reg) (ch : BitVec 8) (fs : Bool)
  | wred (g : Guard) (vs vi vr : Reg) (ch : BitVec 8) (n : BitVec 5) (fs : Bool)
  | wwait (g : Guard) (d vr : Reg) (ch : BitVec 8)
  | wcorr (g : Guard) (d vr vb : Reg) (ch : BitVec 8)
  | wclose (g : Guard) (ch : BitVec 8) (fs : Bool)
  | attn (g : Guard) (a : Reg) (fs : Bool) (scope : Scope)
  | kvappend (g : Guard) (t blk k v : Reg) (fs : Bool) (scope : Scope) (dim : KvD)
  | kvxlate (g : Guard) (d dir va : Reg) (fs : Bool)
  | pfxfind (g : Guard) (d a b tab : Reg) (fs : Bool) (cn : Fin 4)
  | pfxins (g : Guard) (hash blk tab : Reg) (fs : Bool) (scope : Scope)
  /-- An instruction position that holds no instruction (R95, R96, R100), with its words as fetched. -/
  | undefinedInstruction (w0 w1 w2 : Word)
  -- short forms (R97)
  | nopShort
  | movShort (d a : Reg)
  | moviShort (d : Reg) (imm : BitVec 14)
  | iaddShort (d a : Reg)
  | isubShort (d a : Reg)
  | iaddImmShort (d a : Reg) (i : BitVec 4)
  | isubImmShort (d a : Reg) (i : BitVec 4)
  | ishlImmShort (d a : Reg) (i : BitVec 4)
  | ishrImmShort (d a : Reg) (i : BitVec 4)
  | ishraImmShort (d a : Reg) (i : BitVec 4)
  | ishlImm16Short (d a : Reg) (i : BitVec 4)
  | ishrImm16Short (d a : Reg) (i : BitVec 4)
  | ishraImm16Short (d a : Reg) (i : BitVec 4)
  | imulShort (d a : Reg)
  | andShort (d a : Reg)
  | orShort (d a : Reg)
  | xorShort (d a : Reg)
  | notShort (d a : Reg)
  | iminShort (d a : Reg)
  | imaxShort (d a : Reg)
  | faddShort (d a : Reg)
  | fsubShort (d a : Reg)
  | fmulShort (d a : Reg)
  | fminShort (d a : Reg)
  | fmaxShort (d a : Reg)
  | hadd2Short (d a : Reg)
  | hmul2Short (d a : Reg)
  | ldSB32Short (d a : Reg) (i : BitVec 4)
  | stSB32Short (d a : Reg) (i : BitVec 4)
  | ldSB64Short (d a : Reg) (i : BitVec 4)
  | stSB64Short (d a : Reg) (i : BitVec 4)
  -- issue, windows, deferral and traps
  | clauseStart (core quad : Nat)
  | fairnessSwitch (wid : Nat)
  | warpStarvationPriority (wid : Nat)
  | windowOverflowTrap (wid : Nat)
  | windowUnderflowTrap (wid : Nat)
  | residualReplay (wid lane : Nat)
  | loadReturn (id : Nat) (late : Bool)
  | storePerformed (id : Nat)
  | atomicComplete (id : Nat)
  | userTimerTrap (wid : Nat)
  | phaseTrap (wid : Nat)
  | trapEntry (wid : Nat)
  -- placement and the task graph
  | groupPlacement
  | groupRetire (gid : Nat)
  | hostNodeRelease (port : Nat) (ctx : Nat) (addr : VAddr)
  | nodeStart (ctx : Nat) (addr : VAddr)
  | stagePage (ctx : Nat) (addr page : VAddr)
  | nodeComplete (ctx : Nat) (addr : VAddr)
  | nodeCommit (ctx : Nat) (addr : VAddr)
  | nodeRollback (ctx : Nat) (addr : VAddr)
  | nodeFail (ctx : Nat) (addr : VAddr) (code : BitVec 8)
  -- engines and the walker
  | copyCommandStart (core : Nat) (early : List Nat)
  | copyCommandComplete (id : Nat)
  | renameApply (id : Nat)
  | renamePerformed (id : Nat)
  | sortcntRequestStart (die : Nat)
  | sortcntRequestComplete (id : Nat)
  | caravanArrive (src : CaravanSource)
  | wadiArrival (src : WadiSource)
  | wadiBudgetExpiry (ch : Nat) (level : WadiLevel)
  | wcorrTimeout (wid lane : Nat)
  | attnRequestStart (die : Nat)
  | attnRequestComplete (id : Nat)
  -- faults, codes and the scan
  | faultResolve (id : Nat)
  | faultBoundExpiry (id : Nat)
  | eccUncorrectable (addr : Nat) (bank row : Nat) (demand : Bool)
  | poisonRepair (id : Nat)
  | coreStorageUncorrectable (core : Nat) (what : CoreStorage)
  | scrubRead (stack : Nat) (addr : Nat) (bank row : Nat) (found : EccFinding)
  | refresh (stack bank row : Nat)
  | stackTemperatureChange (stack : Nat) (celsius : Nat)
  | thermalTrip (die : Nat) (celsius : Nat)
  | scanDrainStart (die : Nat)
  | scanTest (die : Nat)
  | scanComplete (die : Nat) (pass : Bool)
  | scanOverdue (die : Nat)
  | kvScrubCheck (die : Nat) (ctx : Nat)
  -- pre-emption
  | preemptRequest (ctx : Nat)
  | resumeRequest (ctx : Nat)
  | killRequest (ctx : Nat)
  | groupEvict (gid : Nat)
  | groupRestore (ctx : Nat)
  -- boot, power, trust and the management map
  | boot (images : List FirmwareImage)
  | bootHoldRelease (bins : List RowBin)
  | bootComplete (failedCores failedEngines linksUp : List Nat)
  | opcmdOperatingPoint (code : Fin 8)
  | opcmdIdleHot
  | opcmdIdleCold
  | opcmdParked
  | opcmdOff
  | powerTransitionComplete
  | marginReview
  | marginReviewComplete (guards : List Nat) (unavailable : List Nat) (repairs : List Repair)
  | keyRetire (k : BitVec 10)
  | tlbInvalidate (pages : Word)
  | invalidationComplete
  | attestationRequest
  | attestationComplete
  | registerWrite (off : Nat) (value : Word)
  | fabricLinkChange (port : Nat) (up : Bool)
  -- operations performed at their home, and the outside world
  | kvappendAtHome (id : Nat)
  | pfxinsAtHome (id : Nat)
  | resultLands (id : Nat)
  | nrelDecrementPerformed (id : Nat)
  | wopenStatusWritten (id : Nat)
  | wcloseChannelFree (id : Nat)
  | hostPortAccess (port : Nat) (acc : HostAccess)
  | peerAccessArrival (acc : PeerAccess)
  | dieScratchpadGrantChange (ctx die units : Nat)
  | framePoolGrant (ctx : Nat) (tier : Nat) (frames : List Nat)
  | contextDestroy (ctx : Nat)
  deriving DecidableEq, Repr, Inhabited

end Sys2Proof
end

