-- ==== Sys2Proof/Machine/Float.lean ====
section
/-! DEFINITION. Floating point: the formats of R70 to R73, exact values, rounding (R75, R76), the arithmetic of R157 to
R171, and the special functions within the bounds of R163. -/

namespace Sys2Proof.Machine

open Sys2Proof

/-! ## Formats (R70) -/

/-- A floating-point format: its widths, bias, whether it has infinities and NaNs as FP32 has, its canonical NaN and its
largest finite value (R70, R71). -/
structure FFmt where
  ebits : Nat
  fbits : Nat
  bias : Nat
  ieee : Bool
  canon : Nat
  maxBits : Nat
  deriving DecidableEq, Repr

/-- FP32. -/
def fp32 : FFmt := { ebits := 8, fbits := 23, bias := 127, ieee := true, canon := 0x7FC00000, maxBits := 0x7F7FFFFF }
/-- FP16. -/
def fp16 : FFmt := { ebits := 5, fbits := 10, bias := 15, ieee := true, canon := 0x7E00, maxBits := 0x7BFF }
/-- BF16. -/
def bf16 : FFmt := { ebits := 8, fbits := 7, bias := 127, ieee := true, canon := 0x7FC0, maxBits := 0x7F7F }
/-- E5M2. -/
def e5m2 : FFmt := { ebits := 5, fbits := 2, bias := 15, ieee := true, canon := 0x7E, maxBits := 0x7B }
/-- E4M3. -/
def e4m3 : FFmt := { ebits := 4, fbits := 3, bias := 7, ieee := false, canon := 0x7F, maxBits := 0x7E }
/-- E2M1, which has no NaN. -/
def e2m1 : FFmt := { ebits := 2, fbits := 1, bias := 1, ieee := false, canon := 0, maxBits := 0x7 }

/-- The value of a code: a NaN, signalling or quiet; an infinity; or (−1)^s × m × 2^e, with s as the sign of zero. -/
inductive FV where
  | nan (sig : Bool)
  | inf (s : Bool)
  | num (s : Bool) (m : Nat) (e : Int)
  deriving DecidableEq, Repr

/-- The value of a code of a format (R70 to R72). -/
def FFmt.read (f : FFmt) (b : Nat) : FV :=
  let s : Bool := b / 2 ^ (f.ebits + f.fbits) % 2 = 1
  let x := b / 2 ^ f.fbits % 2 ^ f.ebits
  let m := b % 2 ^ f.fbits
  if f.ieee && x = 2 ^ f.ebits - 1 then (if m = 0 then .inf s else .nan (m < 2 ^ (f.fbits - 1)))
  else if f.canon ≠ 0 && !f.ieee && x = 2 ^ f.ebits - 1 && m = 2 ^ f.fbits - 1 then .nan false
  else if x = 0 then .num s m (1 - f.bias - f.fbits)
  else .num s (2 ^ f.fbits + m) (x - f.bias - f.fbits)

/-- An input with `.ftz`: a subnormal becomes zero of its sign (R77). -/
def FFmt.input (f : FFmt) (ftz : Bool) (b : Nat) : FV :=
  match f.read b with
  | .num s m e => if ftz && m < 2 ^ f.fbits then .num s 0 e else .num s m e
  | v => v

/-! ## Exceptions (R69) -/

/-- Invalid. -/
def fNV : BitVec 5 := 1
/-- Divide by zero. -/
def fDZ : BitVec 5 := 2
/-- Overflow. -/
def fOF : BitVec 5 := 4
/-- Underflow. -/
def fUF : BitVec 5 := 8
/-- Inexact. -/
def fNX : BitVec 5 := 16

/-- A result code with the exceptions that it raises. -/
structure FRes where
  bits : Nat
  fl : BitVec 5 := 0
  deriving DecidableEq, Repr

/-- An exception raised if a condition holds. -/
def raiseIf (p : Bool) (x : BitVec 5) : BitVec 5 := if p then x else 0

/-! ## Rounding (R75, R76) -/

/-- The bits of a number. -/
def bitLen (n : Nat) : Nat := if n = 0 then 0 else Nat.log2 n + 1

/-- m / 2^k rounded to an integer for a value of sign `s`, with the draw `q` of SR, and whether it was inexact. -/
def roundShift (rnd : Rnd) (s : Bool) (q m : Nat) (k : Int) : Nat × Bool :=
  if k ≤ 0 then (m * 2 ^ (-k).toNat, false)
  else
    let d := 2 ^ k.toNat
    let t := m / d
    let r := m % d
    let up := match rnd with
      | .rne => d < 2 * r || (2 * r = d && t % 2 = 1)
      | .rz => false
      | .ru => !s && r ≠ 0
      | .rd => s && r ≠ 0
      | .sr => 2 ^ 23 ≤ r * 2 ^ 23 / d + q % 2 ^ 23
    (if up then t + 1 else t, r ≠ 0)

/-- The sign bit of a format. -/
def FFmt.sign (f : FFmt) (s : Bool) : Nat := if s then 2 ^ (f.ebits + f.fbits) else 0

/-- The infinity of a format, its NaN where it has none, or its largest value where it has neither (R78). -/
def FFmt.infinity (f : FFmt) (s : Bool) : Nat :=
  if f.ieee then f.sign s + (2 ^ f.ebits - 1) * 2 ^ f.fbits
  else if f.canon ≠ 0 then f.canon
  else f.sign s + f.maxBits

/-- Whether a rounding leaves an overflowing value at the largest finite one (R78). -/
def towardSide (rnd : Rnd) (s : Bool) : Bool :=
  match rnd with
  | .rz => true
  | .ru => s
  | .rd => !s
  | _ => false

/-- A nonzero exact value m × 2^e rounded once to a format (R75, R76, R78). -/
def FFmt.round (f : FFmt) (rnd : Rnd) (q : Nat) (s : Bool) (m : Nat) (e : Int) : FRes :=
  if m = 0 then { bits := f.sign s }
  else
    let top : Int := bitLen m - 1 + e
    let emin : Int := 1 - f.bias
    let un := roundShift rnd s q m (top - f.fbits - e)
    let bd := roundShift rnd s q m (max top emin - f.fbits - e)
    let tiny := decide (top - f.fbits + bitLen un.1 - 1 < emin)
    let maxM := f.maxBits % 2 ^ f.fbits + 2 ^ f.fbits
    let maxE : Int := (f.maxBits / 2 ^ f.fbits : Nat) - f.bias - f.fbits
    let tooBig := emin ≤ top && (maxE < top - f.fbits || (maxE = top - f.fbits && maxM < un.1))
    if tooBig then
      { bits := if towardSide rnd s then f.sign s + f.maxBits else f.infinity s, fl := fOF ||| fNX }
    else
      { bits := f.sign s + bd.1 + (max top emin - emin).toNat * 2 ^ f.fbits,
        fl := raiseIf bd.2 fNX ||| raiseIf (tiny && bd.2) fUF }

/-- A result with `.ftz`: a subnormal is flushed, with underflow and inexact (R77). -/
def FFmt.output (f : FFmt) (ftz : Bool) (r : FRes) : FRes :=
  let a := r.bits % 2 ^ (f.ebits + f.fbits)
  if ftz && a ≠ 0 && a < 2 ^ f.fbits then { bits := r.bits - a, fl := r.fl ||| fUF ||| fNX } else r

/-! ## Exact sums and products -/

/-- Whether a value is a NaN, and whether a signalling one. -/
def FV.isNan : FV → Bool
  | .nan _ => true
  | _ => false
/-- See `isNan`. -/
def FV.isSig : FV → Bool
  | .nan s => s
  | _ => false
/-- The value of the other sign. -/
def FV.neg : FV → FV
  | .num s m e => .num (!s) m e
  | .inf s => .inf (!s)
  | v => v

/-- A signed integer with sign and size. -/
def signed (s : Bool) (m : Nat) : Int := if s then -(m : Int) else m

/-- The exact product of two values that are no NaNs; `none` for ∞ × 0. -/
def FV.mul (a b : FV) : Option FV :=
  match a, b with
  | .num s m e, .num t n g => some (.num (s != t) (m * n) (e + g))
  | .inf s, .inf t => some (.inf (s != t))
  | .inf s, .num t n _ => if n = 0 then none else some (.inf (s != t))
  | .num s m _, .inf t => if m = 0 then none else some (.inf (s != t))
  | .nan x, _ => some (.nan x)
  | _, .nan x => some (.nan x)

/-- The exact sum of two finite values; `rd` gives the sign of an exact zero of opposite signs (R158). -/
def addNum (rd : Bool) (s : Bool) (m : Nat) (e : Int) (t : Bool) (n : Nat) (g : Int) : FV :=
  let lo := min e g
  let v := signed s (m * 2 ^ (e - lo).toNat) + signed t (n * 2 ^ (g - lo).toNat)
  if v = 0 then .num (if s = t then s else rd) 0 lo else .num (v < 0) v.natAbs lo

/-- The exact sum of two values that are no NaNs; `none` for infinities of opposite sign. -/
def FV.add (rd : Bool) (a b : FV) : Option FV :=
  match a, b with
  | .num s m e, .num t n g => some (addNum rd s m e t n g)
  | .inf s, .inf t => if s = t then some (.inf s) else none
  | .inf s, _ => some (.inf s)
  | _, .inf t => some (.inf t)
  | .nan x, _ => some (.nan x)
  | _, .nan x => some (.nan x)

/-- A value rounded to a format: a NaN is the canonical one. -/
def FFmt.pack (f : FFmt) (rnd : Rnd) (q : Nat) (v : FV) : FRes :=
  match v with
  | .nan _ => { bits := f.canon }
  | .inf s => { bits := f.infinity s }
  | .num s m e => f.round rnd q s m e

/-- a × b + c, rounded once (R158), with `.ftz` (R77). -/
def FFmt.fma (f : FFmt) (rnd : Rnd) (ftz : Bool) (q : Nat) (a b c : FV) : FRes :=
  let sig := a.isSig || b.isSig || c.isSig
  let p := if a.isNan || b.isNan then some (FV.nan false) else a.mul b
  match p with
  | none => { bits := f.canon, fl := fNV }
  | some p =>
    if p.isNan || c.isNan then { bits := f.canon, fl := raiseIf sig fNV }
    else match p.add (rnd == .rd) c with
      | none => { bits := f.canon, fl := fNV }
      | some v => f.output ftz (f.pack rnd q v)

/-- a × b, rounded once (R158). -/
def FFmt.fmul (f : FFmt) (rnd : Rnd) (ftz : Bool) (q : Nat) (a b : FV) : FRes :=
  if a.isNan || b.isNan then { bits := f.canon, fl := raiseIf (a.isSig || b.isSig) fNV }
  else match a.mul b with
    | none => { bits := f.canon, fl := fNV }
    | some v => f.output ftz (f.pack rnd q v)

/-- The value one. -/
def fvOne : FV := .num false 1 0

/-- a + b, rounded once (R158). -/
def FFmt.fadd (f : FFmt) (rnd : Rnd) (ftz : Bool) (q : Nat) (a b : FV) : FRes := f.fma rnd ftz q a fvOne b

/-- `.sat`: clamped to [+0, 1.0], a NaN to +0 (R158). -/
def satUnit (b : Nat) : Nat :=
  match fp32.read b with
  | .nan _ => 0
  | .inf s => if s then 0 else 0x3F800000
  | .num s m _ => if s || m = 0 then 0 else min b 0x3F800000

/-! ## Comparison (R159 to R161) -/

/-- Whether a code of a sign-and-magnitude format lies below another, with −0 below +0. -/
def codeBelow (a b : Nat) : Bool :=
  let key (x : Nat) : Int := if 2 ^ 31 ≤ x then -(x - 2 ^ 31 : Nat) - 1 else x
  key a < key b

/-- A code with `.ftz` applied (R77). -/
def flushCode (ftz : Bool) (b : Nat) : Nat :=
  if ftz && b % 2 ^ 31 < 2 ^ 23 then b / 2 ^ 31 * 2 ^ 31 else b

/-- FMIN, or FMAX with `max` (R159). -/
def fminmax (max nan ftz : Bool) (x y : Nat) : FRes :=
  let a := flushCode ftz x
  let b := flushCode ftz y
  let va := fp32.read a
  let vb := fp32.read b
  let fl := raiseIf (va.isSig || vb.isSig) fNV
  let bits :=
    if va.isNan && vb.isNan then 0x7FC00000
    else if nan && (va.isNan || vb.isNan) then 0x7FC00000
    else if va.isNan then b else if vb.isNan then a
    else if codeBelow a b != max then a else b
  { bits := bits, fl := fl }

/-- How two values compare: S, Z, C and V of R160. -/
def fcompare (ftz : Bool) (x y : Nat) : Bool × Bool × Bool × Bool :=
  let a := flushCode ftz x
  let b := flushCode ftz y
  if (fp32.read a).isNan || (fp32.read b).isNan then (false, false, true, true)
  else if a = b || (a % 2 ^ 31 = 0 && b % 2 ^ 31 = 0) then (false, true, true, false)
  else if codeBelow a b then (true, false, false, false)
  else (false, false, true, false)

/-- The one-hot class of a value (R161). -/
def fclassOf (b : Nat) : Nat :=
  match fp32.read b with
  | .nan true => 1
  | .nan false => 2
  | .inf s => if s then 4 else 512
  | .num s m _ =>
    if m = 0 then (if s then 32 else 64)
    else if m < 2 ^ 23 then (if s then 16 else 128)
    else (if s then 8 else 256)

/-! ## Conversions (R78, R165 to R168, R170) -/

/-- FP32 to a narrower format (R78, R167). -/
def FFmt.narrow (f : FFmt) (rnd : Rnd) (sat : Bool) (q b : Nat) : FRes :=
  match fp32.read b with
  | .nan sig => { bits := f.canon, fl := raiseIf (sig || f.canon = 0) fNV }
  | .inf s =>
    if f.canon = 0 then { bits := f.sign s + f.maxBits, fl := fNV }
    else if f.ieee then { bits := if sat then f.sign s + f.maxBits else f.infinity s }
    else { bits := if sat then f.sign s + f.maxBits else f.canon, fl := fNV }
  | .num s m e =>
    let r := f.round rnd q s m e
    if sat && r.fl &&& fOF ≠ 0 then { r with bits := f.sign s + f.maxBits } else r

/-- A code of a narrower format widened to FP32 (R71, R168). -/
def FFmt.widen (f : FFmt) (b : Nat) : FRes :=
  match f.read b with
  | .nan sig =>
    if sig || !f.ieee then { bits := 0x7FC00000, fl := raiseIf sig fNV }
    else { bits := b / 2 ^ (f.ebits + f.fbits) % 2 * 2 ^ 31 + 0x7F800000 + b % 2 ^ f.fbits * 2 ^ (23 - f.fbits) }
  | .inf s => { bits := fp32.infinity s }
  | .num s m e => fp32.round .rne 0 s m e

/-- F2I (R165): the result, its exceptions and whether NV is raised. -/
def f2iOf (rnd : Rnd) (u : Bool) (q b : Nat) : FRes :=
  let lo : Int := if u then 0 else -2 ^ 31
  let hi : Int := if u then 2 ^ 32 - 1 else 2 ^ 31 - 1
  let give (i : Int) : Nat := (i.emod (2 ^ 32)).toNat
  match fp32.read b with
  | .nan _ => { bits := 0, fl := fNV }
  | .inf s => { bits := give (if s then lo else hi), fl := fNV }
  | .num s m e =>
    let r := roundShift rnd s q m (-e)
    let i := signed s r.1
    if i < lo then { bits := give lo, fl := fNV }
    else if hi < i then { bits := give hi, fl := fNV }
    else { bits := give i, fl := raiseIf r.2 fNX }

/-- I2F (R166). -/
def i2fOf (rnd : Rnd) (u : Bool) (q : Nat) (w : Word) : FRes :=
  let v : Int := if u then w.toNat else w.toInt
  fp32.round rnd q (v < 0) v.natAbs 0

/-- SCALE (R170). -/
def scaleOf (rnd : Rnd) (q a e : Nat) : FRes :=
  match fp32.read a with
  | .nan sig => { bits := 0x7FC00000, fl := raiseIf sig fNV }
  | v =>
    if e = 255 then { bits := 0x7FC00000 }
    else match v with
      | .num s m x => fp32.round rnd q s m (x + e - 127)
      | _ => { bits := a }

/-! ## Dot products (R169) -/

/-- The exact sum of products and a last term, rounded once, with the NaN rules of R169. Of the sign of an exact zero R169 says nothing: the
model forms it term by term as R158 gives it for a sum of two (log 86). -/
def dotOf (rnd : Rnd) (q : Nat) (ps : List (FV × FV)) (c : FV) : FRes :=
  let prods := ps.map (fun p => if p.1.isNan || p.2.isNan then some (FV.nan false) else p.1.mul p.2)
  let terms := c :: prods.filterMap id
  let bad := prods.any (fun p => p.isNone)
  let plus := terms.any (fun v => v == .inf false)
  let minus := terms.any (fun v => v == .inf true)
  let nv := c.isSig || bad || (plus && minus)
  if nv || terms.any FV.isNan then { bits := 0x7FC00000, fl := raiseIf nv fNV }
  else
    let sum := terms.tail.foldl (fun (acc : FV) v => (acc.add (rnd == .rd) v).getD acc) c
    fp32.pack rnd q sum

/-! ## Special functions (R163, R164) -/

/-- Fixed-point precision of the reference values. -/
def kFix : Nat := 300

/-- π × 2^400, rounded down. -/
def piFix : Nat :=
  0x3243F6A8885A308D313198A2E03707344A4093822299F31D0082EFA98EC4E6C89452821E638D01377BE5466CF34E90C6CC0AC

/-- ln 2 × 2^300, rounded down. -/
def ln2Fix : Nat := 0xB17217F7D1CF79ABC9E3B39803F2F6AF40F343267298B62D8A0D175B8BAAFA2BE7B876206DE

/-- The square root of `n`, rounded down, from bit `b` on. -/
def isqrtFrom : Nat → Nat → Nat → Nat
  | 0, _, r => r
  | b + 1, n, r => isqrtFrom b n (if (r + 2 ^ b) * (r + 2 ^ b) ≤ n then r + 2 ^ b else r)

/-- The square root of a number, rounded down. -/
def isqrt (n : Nat) : Nat := isqrtFrom (bitLen n / 2 + 1) n 0

/-- A reference value v × 2^x. -/
structure Ref where
  v : Int
  x : Int
  deriving DecidableEq, Repr

/-- Terms of e^y − 1 in fixed point: `n` more terms after `t`, the k-th. -/
def expGo : Nat → Int → Int → Int → Int → Int
  | 0, _, _, _, acc => acc
  | n + 1, y, k, t, acc =>
    let t1 := t * y / 2 ^ kFix / k
    expGo n y (k + 1) t1 (acc + t1)

/-- e^y − 1 in fixed point. -/
def expm1 (y : Int) : Int := expGo 140 y 1 (2 ^ kFix) 0

/-- Terms of the series of atanh w: w² and the power so far. -/
def atanhGo : Nat → Int → Int → Int → Int → Int
  | 0, _, _, _, acc => acc
  | n + 1, w2, k, t, acc => atanhGo n w2 (k + 2) (t * w2 / 2 ^ kFix) (acc + t / k)

/-- Terms of sine or cosine in fixed point of 400 bits: r², the next divisor, the last term. -/
def trigGo : Nat → Int → Int → Int → Int → Int
  | 0, _, _, _, acc => acc
  | n + 1, r2, k, t, acc =>
    let t1 := -(t * r2 / 2 ^ 400) / (k * (k + 1))
    trigGo n r2 (k + 2) t1 (acc + t1)

/-- The eight functions of the special-function unit. -/
inductive SfuFn where
  | rcp | rsq | sqrt | exp2 | log2 | sin | cos | tanh
  deriving DecidableEq, Repr

/-- 2^x for x of sign s and size m × 2^e. -/
def refExp2 (s : Bool) (m : Nat) (e : Int) : Ref :=
  let x := signed s (m * 2 ^ (e + kFix).toNat)
  let n := x / 2 ^ kFix
  if n < -400 then { v := 1, x := -500 }
  else
    let f := x - n * 2 ^ kFix
    { v := 2 ^ kFix + expm1 (f * ln2Fix / 2 ^ kFix), x := n - kFix }

/-- log₂ (m × 2^e). -/
def refLog2 (m : Nat) (e : Int) : Ref :=
  let top : Int := bitLen m - 1
  let z : Int := m * 2 ^ (kFix - top.toNat)
  let w := (z - 2 ^ kFix) * 2 ^ kFix / (z + 2 ^ kFix)
  let ln := 2 * atanhGo 110 (w * w / 2 ^ kFix) 1 w 0
  { v := ln * 2 ^ kFix / ln2Fix + (top + e) * 2 ^ kFix, x := -kFix }

/-- sin or cos of x of sign s and size m × 2^e, the argument reduced exactly. -/
def refTrig (cosine s : Bool) (m : Nat) (e : Int) : Ref :=
  let r : Int := (m * 2 ^ (e + 400).toNat) % (2 * piFix) - piFix
  let r2 := r * r / 2 ^ 400
  if cosine then { v := -(trigGo 60 r2 1 (2 ^ 400) (2 ^ 400)), x := -400 }
  else
    let v := -(trigGo 60 r2 2 r r)
    { v := if s then -v else v, x := -400 }

/-- tanh of x of sign s and size m × 2^e. -/
def refTanh (s : Bool) (m : Nat) (e : Int) : Ref :=
  let em := expm1 (2 * (m * 2 ^ (e + kFix).toNat : Nat))
  let v := em * 2 ^ kFix / (em + 2 * 2 ^ kFix)
  { v := if s then -v else v, x := -kFix }

/-- 1/√(m × 2^e). -/
def refRsq (m : Nat) (e : Int) : Ref :=
  let odd := e % 2 ≠ 0
  let m1 := if odd then 2 * m else m
  let e1 := if odd then e - 1 else e
  { v := (isqrt (2 ^ (2 * kFix) / m1) : Nat), x := -kFix - e1 / 2 }

/-- Whether y × 2^yx lies within b × 2^bx of a reference value. -/
def within (y yx : Int) (t : Ref) (b bx : Int) : Bool :=
  let lo := min yx (min t.x bx)
  let d := y * 2 ^ (yx - lo).toNat - t.v * 2 ^ (t.x - lo).toNat
  (d.natAbs : Int) ≤ b * 2 ^ (bx - lo).toNat

/-- The exponent of the ulp of a reference value in FP32's binades, subnormal spacing included (R163). -/
def ulpOf (t : Ref) : Int := max ((bitLen t.v.natAbs : Int) - 1 + t.x) (-126) - 23

/-- The free value of a function for an operand, kept where it meets the bound; else the value nearest the reference. -/
def bounded (fn : Nat) (w : Word) (t : Ref) (b bx : Int) : Nat :=
  let y := (Config.approx fn w).toNat
  match fp32.read y with
  | .num s m e => if within (signed s m) e t b bx then y else (fp32.round .rne 0 (t.v < 0) t.v.natAbs t.x).bits
  | _ => (fp32.round .rne 0 (t.v < 0) t.v.natAbs t.x).bits

/-- 1/(m × 2^e), correctly rounded. -/
def rcpOf (s : Bool) (m : Nat) (e : Int) : FRes :=
  let q := 2 ^ 80 / m
  fp32.round .rne 0 s (2 * q + (if 2 ^ 80 % m = 0 then 0 else 1)) (-81 - e)

/-- √(m × 2^e), correctly rounded. -/
def sqrtOf (m : Nat) (e : Int) : FRes :=
  let odd := e % 2 ≠ 0
  let n := (if odd then 2 * m else m) * 2 ^ 60
  let r := isqrt n
  fp32.round .rne 0 false (2 * r + (if r * r = n then 0 else 1)) ((if odd then e - 1 else e) / 2 - 31)

/-- A function of the special-function unit for an operand already flushed by `.ftz`: the specials of R164 first. EXP2 of an
integer from −149 to −127 is exact and tiny: of the two sentences of R163 the model follows the one that frees exact results
from NX, and raises no flag (log 87). -/
def sfuCore (fn : SfuFn) (b : Nat) : FRes :=
  let w : Word := BitVec.ofNat 32 b
  let nan : FRes := { bits := 0x7FC00000, fl := fNV }
  match fn, fp32.read b with
  | _, .nan sig => { bits := 0x7FC00000, fl := raiseIf sig fNV }
  | .rcp, .inf s => { bits := fp32.sign s }
  | .rcp, .num s m e => if m = 0 then { bits := fp32.infinity s, fl := fDZ } else rcpOf s m e
  | .rsq, .inf s => if s then nan else { bits := 0 }
  | .rsq, .num s m e =>
    if m = 0 then { bits := fp32.infinity s, fl := fDZ }
    else if s then nan
    else if b = 0x3F800000 then { bits := b }
    else
      let t := refRsq m e
      { bits := bounded 0 w t 1 (ulpOf t), fl := fNX }
  | .sqrt, .inf s => if s then nan else { bits := b }
  | .sqrt, .num s m e => if m = 0 then { bits := b } else if s then nan else sqrtOf m e
  | .exp2, .inf s => { bits := if s then 0 else fp32.infinity false }
  | .exp2, .num s m e =>
    if m = 0 then { bits := 0x3F800000 }
    else
      let x := signed s (m * 2 ^ (e + kFix).toNat)
      let n := x / 2 ^ kFix
      if 128 ≤ n then { bits := fp32.infinity false, fl := fOF ||| fNX }
      else if x % 2 ^ kFix = 0 && -149 ≤ n then fp32.round .rne 0 false 1 n
      else
        let t := refExp2 s m e
        let y := bounded 1 w t 2 (ulpOf t)
        { bits := y, fl := fNX ||| raiseIf (y % 2 ^ 31 < 2 ^ 23) fUF }
  | .log2, .inf s => if s then nan else { bits := b }
  | .log2, .num s m e =>
    if m = 0 then { bits := fp32.infinity true, fl := fDZ }
    else if s then nan
    else if m = 2 ^ (bitLen m - 1) then
      let n : Int := bitLen m - 1 + e
      fp32.round .rne 0 (n < 0) n.natAbs 0
    else
      let t := refLog2 m e
      if 0x3F000000 ≤ b && b ≤ 0x40000000 then { bits := bounded 2 w t 1 (-22), fl := fNX }
      else { bits := bounded 2 w t 2 (ulpOf t), fl := fNX }
  | .sin, .inf _ => nan
  | .sin, .num s m e => if m = 0 then { bits := b } else { bits := bounded 3 w (refTrig false s m e) 1 (-21), fl := fNX }
  | .cos, .inf _ => nan
  | .cos, .num s m e =>
    if m = 0 then { bits := 0x3F800000 } else { bits := bounded 4 w (refTrig true s m e) 1 (-21), fl := fNX }
  | .tanh, .inf s => { bits := fp32.sign s + 0x3F800000 }
  | .tanh, .num s m e =>
    if m = 0 then { bits := b }
    else if 0x41100000 ≤ b % 2 ^ 31 then { bits := fp32.sign s + 0x3F800000, fl := fNX }
    else
      let t := refTanh s m e
      { bits := bounded 5 w t 2 (ulpOf t), fl := fNX }

/-- A function of the special-function unit (R163, R164), with `.ftz` (R157). -/
def sfuOf (fn : SfuFn) (ftz : Bool) (w : Word) : FRes := fp32.output ftz (sfuCore fn (flushCode ftz w.toNat))

end Sys2Proof.Machine
end

