-- ==== Sys2Proof/WellFormed.lean ====
section
/-! DEFINITION. Which terms of `Instr` are encodings of an instruction: the constraints between fields that the types of
Syntax.lean do not already say, one named check for each. A pattern that breaks one of them raises the
undefined-instruction trap (R95), so the decoder never yields such a term. -/

namespace Sys2Proof

/-- The reasons for which a term is no well-formed instruction. -/
inductive IllFormed where
  /-- A compare or select with condition AL or NV (R146). -/
  | condition
  /-- MODE with no write bit set (R120). -/
  | modeWritesNothing
  /-- `.na` on a space other than `.g` and `.k` (R204). -/
  | loadNoAllocateSpace
  /-- `.acq` on a load from `.k` (R204). -/
  | loadAcquireConstant
  /-- A store of width `.s8` or `.s16` (R204). -/
  | storeWidth
  /-- `.rel` on a store to `.k` (R204). -/
  | storeReleaseConstant
  /-- A literal operand for an operation that does not take one 32-bit operand (R203). -/
  | atomicLiteral
  /-- An exchange or compare-and-swap as RED (R210). -/
  | reductionOperation
  /-- An acquiring order on RED (R205). -/
  | reductionOrder
  /-- The `.s.rec` direction on COPYA (R204). -/
  | asynchronousCopyDirection
  /-- `.post` on a copy that does not write the scratchpad of the group (R220). -/
  | copyPostDirection
  /-- A scale pair or `.ck` in an integer format (R268). -/
  | matrixIntegerFormat
  /-- A scale field of 1023, which means no scaling (R267). -/
  | matrixScalePair
  /-- A step of the units or of the surroundings, or a position that holds no instruction: neither has an encoding. -/
  | noEncoding
  deriving DecidableEq, Repr

/-- The conditions that ICMP, ISEL and FCMP encode: codes 1 to 14 (R146). -/
def Cond.comparable : Cond → Bool
  | .al | .nv => false
  | _ => true

/-- The operations of R210 with one 32-bit operand: those whose operand a literal may supply (R203). -/
def AtomOp.single32 : AtomOp → Bool
  | .addB32 | .minS32 | .minU32 | .maxS32 | .maxU32 | .andB32 | .orB32 | .xorB32 | .exchB32 | .faddF32 | .faddBf16x2
  | .fmaxabsF32 => true
  | _ => false

/-- Codes 16 to 20 of R210, which are undefined for RED. -/
def AtomOp.returnsOnly : AtomOp → Bool
  | .exchB32 | .exchB64 | .casB32 | .casB64 | .casB128 => true
  | _ => false

/-- The integer formats of R268. -/
def MmaFmt.isInt : MmaFmt → Bool
  | .int8 | .int4 => true
  | _ => false

/-- A source operand that is a literal. -/
def Src.isLit : Src → Bool
  | .lit _ => true
  | .reg _ => false

/-- The first of a list of failed checks. -/
def firstFailure (checks : List (Bool × IllFormed)) : Option IllFormed :=
  (checks.find? (fun c => !c.1)).map Prod.snd

/-- The check of a term: `none` for a well-formed instruction, else the first reason against it. -/
def Instr.check : Instr → Option IllFormed
  | .icmp _ _ _ _ c _ | .isel _ _ _ _ c _ | .fcmp _ _ _ _ c _ _ => firstFailure [(c.comparable, .condition)]
  | .mode _ p d => firstFailure [(p.isSome || d.isSome, .modeWritesNothing)]
  | .ld _ _ _ _ _ _ sp na acq =>
    firstFailure [(!na || sp == .g || sp == .k, .loadNoAllocateSpace), (acq.isNone || sp != .k, .loadAcquireConstant)]
  | .st _ _ _ _ _ w sp rel _ =>
    firstFailure [(w != .s8 && w != .s16, .storeWidth), (!rel || sp != .k, .storeReleaseConstant)]
  | .atom _ _ _ b _ op _ _ _ => firstFailure [(!b.isLit || op.single32, .atomicLiteral)]
  | .red _ _ b _ op o _ _ =>
    firstFailure [(!op.returnsOnly, .reductionOperation), (o == .rlx || o == .rel, .reductionOrder),
      (!b.isLit || op.single32, .atomicLiteral)]
  | .tcopy _ _ _ _ _ dir post =>
    firstFailure [(post.isNone || dir == .sg || dir == .sd || dir == .srec, .copyPostDirection)]
  | .copya _ _ _ _ _ dir _ => firstFailure [(dir != .srec, .asynchronousCopyDirection)]
  | .mma _ _ _ _ sc ck f =>
    firstFailure [(!f.isInt || (sc.isNone && !ck), .matrixIntegerFormat),
      ((sc.map MmaScale.pair) != some .vz, .matrixScalePair)]
  | .mmaJ _ _ _ _ ck f => firstFailure [(!f.isInt || !ck, .matrixIntegerFormat)]
  | .waitwRecheck .. | .regroupRelease .. | .matrixEngineStart .. | .matrixOpFinish .. | .undefinedInstruction ..
  | .clauseStart .. | .fairnessSwitch .. | .warpStarvationPriority .. | .windowOverflowTrap ..
  | .windowUnderflowTrap .. | .residualReplay .. | .loadReturn .. | .storePerformed .. | .atomicComplete ..
  | .userTimerTrap .. | .phaseTrap .. | .trapEntry .. | .groupPlacement | .groupRetire .. | .hostNodeRelease ..
  | .nodeStart .. | .stagePage .. | .nodeComplete .. | .nodeCommit .. | .nodeRollback .. | .nodeFail ..
  | .copyCommandStart .. | .copyCommandComplete .. | .renameApply .. | .renamePerformed .. | .sortcntRequestStart ..
  | .sortcntRequestComplete .. | .caravanArrive .. | .wadiArrival .. | .wadiBudgetExpiry .. | .wcorrTimeout ..
  | .attnRequestStart .. | .attnRequestComplete .. | .faultResolve .. | .faultBoundExpiry .. | .eccUncorrectable ..
  | .poisonRepair .. | .coreStorageUncorrectable .. | .scrubRead .. | .refresh .. | .stackTemperatureChange ..
  | .thermalTrip .. | .scanDrainStart .. | .scanTest .. | .scanComplete .. | .scanOverdue .. | .kvScrubCheck ..
  | .preemptRequest .. | .resumeRequest .. | .killRequest .. | .groupEvict .. | .groupRestore .. | .boot ..
  | .bootHoldRelease .. | .bootComplete .. | .opcmdOperatingPoint .. | .opcmdIdleHot | .opcmdIdleCold | .opcmdParked
  | .opcmdOff | .powerTransitionComplete | .marginReview | .marginReviewComplete .. | .keyRetire .. | .tlbInvalidate ..
  | .invalidationComplete | .attestationRequest | .attestationComplete | .registerWrite .. | .fabricLinkChange ..
  | .kvappendAtHome .. | .pfxinsAtHome .. | .resultLands .. | .nrelDecrementPerformed .. | .wopenStatusWritten ..
  | .wcloseChannelFree .. | .hostPortAccess .. | .peerAccessArrival .. | .dieScratchpadGrantChange ..
  | .framePoolGrant .. | .contextDestroy .. => some .noEncoding
  | .nop .. | .bra .. | .brx .. | .call .. | .callx .. | .ret .. | .enter .. | .fork .. | .exit .. | .yieldI ..
  | .fwait .. | .tmset .. | .phase .. | .sread .. | .swrite .. | .rjen .. | .rjwait .. | .rjstrike .. | .cvset ..
  | .cvsign .. | .bara .. | .barw .. | .bars .. | .waitw .. | .trap .. | .tret .. | .tmask .. | .rinj .. | .iadd ..
  | .isub .. | .imul .. | .imulh .. | .imad .. | .iadd64 .. | .imad64 .. | .ishl .. | .ishr .. | .ishra .. | .bool3 ..
  | .imin .. | .imax .. | .iabs .. | .popc .. | .clz .. | .bfe .. | .bfi .. | .mov .. | .movi .. | .fadd .. | .fsub ..
  | .fmul .. | .ffma .. | .fmin .. | .fmax .. | .fclass .. | .hadd2 .. | .hmul2 .. | .hfma2 .. | .rcp .. | .rsq ..
  | .sqrt .. | .exp2 .. | .log2 .. | .sin .. | .cos .. | .tanh .. | .f2i .. | .i2f .. | .cvp .. | .cvu .. | .dot4 ..
  | .dot8 .. | .scale .. | .rand .. | .shfl .. | .lpush .. | .matchKeys .. | .vote .. | .redl .. | .scanl .. | .topk ..
  | .regroup .. | .fence .. | .pref .. | .srinit .. | .srwait .. | .srpost .. | .rnmove .. | .rnswap ..
  | .rnalias .. | .rnperm .. | .rndrop .. | .rnfresh .. | .rnquery .. | .accz .. | .accmv .. | .accst .. | .accld ..
  | .mwait .. | .opfence .. | .nrel .. | .nwait .. | .nstat .. | .sortcnt .. | .carsend .. | .wopen .. | .wred ..
  | .wwait .. | .wcorr .. | .wclose .. | .attn .. | .kvappend .. | .kvxlate .. | .pfxfind .. | .pfxins ..
  | .nopShort | .movShort .. | .moviShort .. | .iaddShort .. | .isubShort .. | .iaddImmShort .. | .isubImmShort ..
  | .ishlImmShort .. | .ishrImmShort .. | .ishraImmShort .. | .ishlImm16Short .. | .ishrImm16Short ..
  | .ishraImm16Short .. | .imulShort .. | .andShort .. | .orShort .. | .xorShort .. | .notShort .. | .iminShort ..
  | .imaxShort .. | .faddShort .. | .fsubShort .. | .fmulShort .. | .fminShort .. | .fmaxShort .. | .hadd2Short ..
  | .hmul2Short .. | .ldSB32Short .. | .stSB32Short .. | .ldSB64Short .. | .stSB64Short .. => none

/-- A well-formed instruction: one that has an encoding. -/
def Instr.wf (i : Instr) : Bool := i.check.isNone

end Sys2Proof
end

