-- ==== Sys2Proof/Decode.lean ====
section
/-! DEFINITION. Decoding: from bytes to an instruction (R90 to R97, R100), and the encoder, from the same tables. A pattern
that R95, R96 or R100 makes undefined decodes to `undefinedInstruction` with its words, which raises the
undefined-instruction trap when it is reached; a position whose low bits are the header marker is refused by name
(R90, R99). -/

namespace Sys2Proof

/-- Why the decoder gives no instruction. -/
inductive DecodeError where
  /-- Bits [1:0] of the first word are 0b01, the marker of a clause header (R90). -/
  | headerMarker
  /-- Fewer bytes than the instruction's length (R81). -/
  | truncated
  deriving DecidableEq, Repr

/-! ## Registers and guards -/

/-- The register that a 10-bit code names (R94). -/
def Reg.ofCode (c : BitVec 10) : Reg :=
  if h : c.toNat < 608 then .v ⟨c.toNat, h⟩
  else if h : c.toNat < 640 then .x ⟨c.toNat - 608, by omega⟩
  else if h : c.toNat < 1023 then .illegal ⟨c.toNat - 640, by omega⟩
  else .vz

/-- The code of a register (R94). -/
def Reg.code : Reg → BitVec 10
  | .v k => BitVec.ofNat 10 k.val
  | .x k => BitVec.ofNat 10 (608 + k.val)
  | .vz => 1023#10
  | .illegal k => BitVec.ofNat 10 (640 + k.val)

/-- The condition of a 4-bit code (R65). -/
def Cond.ofCode (n : Nat) : Cond :=
  match n with
  | 0 => .al | 1 => .eq | 2 => .ne | 3 => .cs | 4 => .cc | 5 => .mi | 6 => .pl | 7 => .vs | 8 => .vc | 9 => .hi
  | 10 => .ls | 11 => .ge | 12 => .lt | 13 => .gt | 14 => .le | _ => .nv

/-- The code of a condition (R65). -/
def Cond.code : Cond → Nat
  | .al => 0 | .eq => 1 | .ne => 2 | .cs => 3 | .cc => 4 | .mi => 5 | .pl => 6 | .vs => 7 | .vc => 8 | .hi => 9
  | .ls => 10 | .ge => 11 | .lt => 12 | .gt => 13 | .le => 14 | .nv => 15

/-- The guard of a 6-bit field (R65). -/
def Guard.ofCode (c : BitVec 6) : Guard :=
  { cc := ⟨c.toNat / 16, by omega⟩, cond := Cond.ofCode (c.toNat % 16) }

/-- The 6-bit field of a guard (R65). -/
def Guard.code (g : Guard) : BitVec 6 := BitVec.ofNat 6 (g.cc.val * 16 + g.cond.code)

/-- The guard that is always true: c0 with AL, code 0. -/
def Guard.always : Guard := { cc := 0, cond := .al }

/-! ## Codes of the modifier fields -/

/-- A rounding code (R75). -/
def Rnd.ofCode : Nat → Option Rnd
  | 0 => some .rne | 1 => some .rz | 2 => some .ru | 3 => some .rd | 4 => some .sr | _ => none

/-- The code of a rounding (R75). -/
def Rnd.code : Rnd → Nat
  | .rne => 0 | .rz => 1 | .ru => 2 | .rd => 3 | .sr => 4

/-- A scope code (R116). -/
def Scope.ofCode : Nat → Option Scope
  | 0 => some .fibre | 1 => some .group | 2 => some .die | 3 => some .device | 4 => some .system | _ => none

/-- The code of a scope (R116). -/
def Scope.code : Scope → Nat
  | .fibre => 0 | .group => 1 | .die => 2 | .device => 3 | .system => 4

/-- A two-bit space code (R204). -/
def Space.ofCode : Nat → Space
  | 0 => .g | 1 => .s | 2 => .d | _ => .k

/-- The code of a space (R204). -/
def Space.code : Space → Nat
  | .g => 0 | .s => 1 | .d => 2 | .k => 3

/-- A space code where 3 is undefined (R116, R205). -/
def Space3.ofCode : Nat → Option Space3
  | 0 => some .g | 1 => some .s | 2 => some .d | _ => none

/-- The code of such a space. -/
def Space3.code : Space3 → Nat
  | .g => 0 | .s => 1 | .d => 2

/-- A comparison code of WAITW (R116). -/
def WaitCmp.ofCode : Nat → Option WaitCmp
  | 0 => some .eq | 1 => some .ne | 2 => some .geu | 3 => some .ltu | 4 => some .ge | 5 => some .lt | _ => none

/-- The code of a comparison (R116). -/
def WaitCmp.code : WaitCmp → Nat
  | .eq => 0 | .ne => 1 | .geu => 2 | .ltu => 3 | .ge => 4 | .lt => 5

/-- A span code of SHFL (R172). -/
def Span.ofCode : Nat → Span
  | 0 => .w32 | 1 => .w16 | 2 => .w8 | _ => .w4

/-- The code of a span (R172). -/
def Span.code : Span → Nat
  | .w32 => 0 | .w16 => 1 | .w8 => 2 | .w4 => 3

/-- A SHFL mode with its clip bit: `.clip` is undefined with `.at` and `.xor` (R173). -/
def ShflMode.ofCode (n : Nat) (clip : Bool) : Option ShflMode :=
  match n, clip with
  | 0, false => some .at | 1, c => some (.add c) | 2, c => some (.sub c) | 3, false => some .xor | _, _ => none

/-- The mode code and the clip bit of a SHFL mode. -/
def ShflMode.code : ShflMode → Nat × Bool
  | .at => (0, false) | .add c => (1, c) | .sub c => (2, c) | .xor => (3, false)

/-- A VOTE operation (R173). -/
def VoteOp.ofCode : Nat → Option VoteOp
  | 0 => some .mask | 1 => some .anyTrue | 2 => some .allTrue | 3 => some .same | 4 => some .count | _ => none

/-- The code of a VOTE operation. -/
def VoteOp.code : VoteOp → Nat
  | .mask => 0 | .anyTrue => 1 | .allTrue => 2 | .same => 3 | .count => 4

/-- An integer operation of REDL and SCANL (R173). -/
def RedIntOp.ofCode : Nat → Option RedIntOp
  | 0 => some .add | 1 => some .min | 2 => some .max | 3 => some .and | 4 => some .or | 5 => some .xor | _ => none

/-- Its code. -/
def RedIntOp.code : RedIntOp → Nat
  | .add => 0 | .min => 1 | .max => 2 | .and => 3 | .or => 4 | .xor => 5

/-- A float operation of REDL and SCANL (R173). -/
def RedFltOp.ofCode : Nat → Option RedFltOp
  | 0 => some .add | 1 => some .min | 2 => some .max | _ => none

/-- Its code. -/
def RedFltOp.code : RedFltOp → Nat
  | .add => 0 | .min => 1 | .max => 2

/-- Type, operation and `.ftz` of REDL and SCANL (R173). -/
def RedSel.ofCode (ty op : Nat) (ftz : Bool) : Option RedSel :=
  match ty, ftz with
  | 0, false => (RedIntOp.ofCode op).map .s32
  | 1, false => (RedIntOp.ofCode op).map .u32
  | 2, z => (RedFltOp.ofCode op).map (fun o => .f32 o z)
  | _, _ => none

/-- The modifier bits [63:58] of a selection of REDL and SCANL. -/
def RedSel.code : RedSel → Nat
  | .s32 o => o.code
  | .u32 o => 8 + o.code
  | .f32 o z => z.toNat * 32 + 16 + o.code

/-- A TOPK type (R173). -/
def TopkType.ofCode : Nat → Option TopkType
  | 0 => some .f32 | 1 => some .s32 | 2 => some .u32 | _ => none

/-- Its code. -/
def TopkType.code : TopkType → Nat
  | .f32 => 0 | .s32 => 1 | .u32 => 2

/-- An access width (R204). -/
def Width.ofCode : Nat → Option Width
  | 0 => some .b8 | 1 => some .b16 | 2 => some .b32 | 3 => some .b64 | 4 => some .b128 | 5 => some .s8 | 6 => some .s16
  | _ => none

/-- Its code. -/
def Width.code : Width → Nat
  | .b8 => 0 | .b16 => 1 | .b32 => 2 | .b64 => 3 | .b128 => 4 | .s8 => 5 | .s16 => 6

/-- An operation of ATOM and RED (R210). -/
def AtomOp.ofCode : Nat → Option AtomOp
  | 0 => some .addB32 | 1 => some .addB64 | 2 => some .minS32 | 3 => some .minU32 | 4 => some .maxS32
  | 5 => some .maxU32 | 6 => some .minS64 | 7 => some .minU64 | 8 => some .maxS64 | 9 => some .maxU64
  | 10 => some .andB32 | 11 => some .orB32 | 12 => some .xorB32 | 13 => some .andB64 | 14 => some .orB64
  | 15 => some .xorB64 | 16 => some .exchB32 | 17 => some .exchB64 | 18 => some .casB32 | 19 => some .casB64
  | 20 => some .casB128 | 21 => some .faddF32 | 22 => some .faddBf16x2 | 23 => some .fmaxabsF32 | _ => none

/-- Its code. -/
def AtomOp.code : AtomOp → Nat
  | .addB32 => 0 | .addB64 => 1 | .minS32 => 2 | .minU32 => 3 | .maxS32 => 4 | .maxU32 => 5 | .minS64 => 6
  | .minU64 => 7 | .maxS64 => 8 | .maxU64 => 9 | .andB32 => 10 | .orB32 => 11 | .xorB32 => 12 | .andB64 => 13
  | .orB64 => 14 | .xorB64 => 15 | .exchB32 => 16 | .exchB64 => 17 | .casB32 => 18 | .casB64 => 19 | .casB128 => 20
  | .faddF32 => 21 | .faddBf16x2 => 22 | .fmaxabsF32 => 23

/-- An order code of ATOM and RED (R205). -/
def MemOrder.ofCode : Nat → MemOrder
  | 0 => .rlx | 1 => .acq | 2 => .rel | _ => .acqRel

/-- Its code. -/
def MemOrder.code : MemOrder → Nat
  | .rlx => 0 | .acq => 1 | .rel => 2 | .acqRel => 3

/-- A kind of FENCE (R204). -/
def FenceKind.ofCode : Nat → FenceKind
  | 0 => .acq | 1 => .rel | 2 => .acqRel | _ => .sc

/-- Its code. -/
def FenceKind.code : FenceKind → Nat
  | .acq => 0 | .rel => 1 | .acqRel => 2 | .sc => 3

/-- A copy direction (R217). -/
def CopyDir.ofCode : Nat → CopyDir
  | 0 => .sg | 1 => .gs | 2 => .dg | 3 => .gd | 4 => .gg | 5 => .sd | 6 => .ds | _ => .srec

/-- Its code. -/
def CopyDir.code : CopyDir → Nat
  | .sg => 0 | .gs => 1 | .dg => 2 | .gd => 3 | .gg => 4 | .sd => 5 | .ds => 6 | .srec => 7

/-- A tier code of RNFRESH (R204). -/
def FreshTier.ofCode : Nat → Option FreshTier
  | 0 => some .asEntry | 1 => some .hbm | 2 => some .lpddr | _ => none

/-- Its code. -/
def FreshTier.code : FreshTier → Nat
  | .asEntry => 0 | .hbm => 1 | .lpddr => 2

/-- A matrix format (R268). -/
def MmaFmt.ofCode : Nat → Option MmaFmt
  | 0 => some .bf16 | 1 => some .fp16 | 2 => some .e4m3 | 3 => some .e5m2 | 4 => some .e2m1 | 5 => some .int8
  | 6 => some .int4 | _ => none

/-- Its code. -/
def MmaFmt.code : MmaFmt → Nat
  | .bf16 => 0 | .fp16 => 1 | .e4m3 => 2 | .e5m2 => 3 | .e2m1 => 4 | .int8 => 5 | .int4 => 6

/-- A memory format of tiles (R268). -/
def TileFmt.ofCode : Nat → Option TileFmt
  | 0 => some .f32 | 1 => some .bf16 | 2 => some .fp16 | _ => none

/-- Its code. -/
def TileFmt.code : TileFmt → Nat
  | .f32 => 0 | .bf16 => 1 | .fp16 => 2

/-- A D code of KVAPPEND (R337). -/
def KvD.ofCode : Nat → Option KvD
  | 0 => some .d64 | 1 => some .d128 | 2 => some .d256 | _ => none

/-- Its code. -/
def KvD.code : KvD → Nat
  | .d64 => 0 | .d128 => 1 | .d256 => 2

/-! ## The 64-bit and 96-bit formats (R91, R92) -/

/-- The fields of R91, with the literal word of the 96-bit form. -/
structure F64 where
  gd : BitVec 6
  op : BitVec 8
  d : BitVec 10
  a : BitVec 10
  b : BitVec 10
  c : BitVec 10
  m : BitVec 8
  lit : Option Word
  deriving DecidableEq, Repr

/-- The fields of the two words of an instruction (R91). -/
def F64.ofWords (w0 w1 : Word) (lit : Option Word) : F64 :=
  let w := w1 ++ w0
  { gd := w.extractLsb' 2 6, op := w.extractLsb' 8 8, d := w.extractLsb' 16 10, a := w.extractLsb' 26 10,
    b := w.extractLsb' 36 10, c := w.extractLsb' 46 10, m := w.extractLsb' 56 8, lit := lit }

/-- The two words of an instruction with their length code (R90, R91). -/
def F64.dword (f : F64) : DWord :=
  f.m ++ f.c ++ f.b ++ f.a ++ f.d ++ f.op ++ f.gd ++ (if f.lit.isSome then 3#2 else 2#2)

/-- The words of an instruction, in memory order. -/
def F64.words (f : F64) : List Word :=
  f.dword.extractLsb' 0 32 :: f.dword.extractLsb' 32 32 :: f.lit.toList

/-- The guard of an instruction. -/
def F64.guard (f : F64) : Guard := Guard.ofCode f.gd

/-- `w` bits of the modifier byte from bit `lo`: bit 0 here is instruction bit 56. -/
def F64.mods (f : F64) (lo w : Nat) : Nat := f.m.toNat / 2 ^ lo % 2 ^ w

/-- One bit of the modifier byte. -/
def F64.bit (f : F64) (i : Nat) : Bool := f.mods i 1 == 1

/-- A condition that the encoding must meet. -/
def req (p : Bool) : Option Unit := if p then some () else none

/-- The instruction is in its 64-bit form. -/
def F64.bare (f : F64) : Option Unit := req f.lit.isNone

/-- Source B, or the literal in its place (R92). -/
def F64.srcB (f : F64) : Option Src :=
  match f.lit with
  | none => some (.reg (Reg.ofCode f.b))
  | some l => if f.b == 0#10 then some (.lit l) else none

/-- Source A, or the literal in its place (R103). -/
def F64.srcA (f : F64) : Option Src :=
  match f.lit with
  | none => some (.reg (Reg.ofCode f.a))
  | some l => if f.a == 0#10 then some (.lit l) else none

/-- A branch offset (R103). -/
def F64.offset (f : F64) : Option Off :=
  match f.lit with
  | none => some (.short (f.c ++ f.b))
  | some l => if f.b == 0#10 && f.c == 0#10 then some (.long l) else none

/-- A memory offset (R203). -/
def F64.memOff (f : F64) : Option MemOff :=
  match f.lit with
  | none => some (.short f.c)
  | some l => if f.c == 0#10 then some (.long l) else none

/-- The cc bit and the CC register of [63:61] (R146): the register bits are 0 when cc is 0. -/
def F64.ccw (f : F64) : Option CcW :=
  match f.mods 5 3 with
  | 0 => some none
  | 4 => some (some 0)
  | 5 => some (some 1)
  | 6 => some (some 2)
  | 7 => some (some 3)
  | _ => none

/-- A number of `w` bits in a 10-bit field whose other bits are 0. -/
def small (w : Nat) (x : BitVec 10) : Option (BitVec w) :=
  if x.toNat < 2 ^ w then some (x.setWidth w) else none

/-- A number below `n` in a 10-bit field. -/
def smallFin (n : Nat) (x : BitVec 10) : Option (Fin n) :=
  if h : x.toNat < n then some ⟨x.toNat, h⟩ else none

/-- The Fin of two modifier bits. -/
def F64.two (f : F64) (lo : Nat) : Fin 4 := ⟨f.mods lo 2, Nat.mod_lt _ (by decide)⟩

/-- The Fin of the three ring bits [58:56] (R204). -/
def F64.ring (f : F64) : Fin 8 := ⟨f.mods 0 3, Nat.mod_lt _ (by decide)⟩

/-- The cc bit of FORK in [58] and its register in [57:56] (R103). -/
def F64.forkCc (f : F64) : Option CcW :=
  match f.m.toNat with
  | 0 => some none
  | 4 => some (some 0)
  | 5 => some (some 1)
  | 6 => some (some 2)
  | 7 => some (some 3)
  | _ => none

/-- MODE's pair of a write bit and a value bit (R120): a value without its write bit is undefined. -/
def modeBit : Nat → Option (Option Bool)
  | 0 => some none | 2 => some (some false) | 3 => some (some true) | _ => none

/-- The register of a field. -/
abbrev F64.rd (f : F64) : Reg := Reg.ofCode f.d
/-- The register of a field. -/
abbrev F64.ra (f : F64) : Reg := Reg.ofCode f.a
/-- The register of a field. -/
abbrev F64.rb (f : F64) : Reg := Reg.ofCode f.b
/-- The register of a field. -/
abbrev F64.rc (f : F64) : Reg := Reg.ofCode f.c

/-- The fields named hold 0. -/
def F64.zeros (f : F64) (d a b c m : Bool) : Option Unit :=
  req ((!d || f.d == 0#10) && (!a || f.a == 0#10) && (!b || f.b == 0#10) && (!c || f.c == 0#10) && (!m || f.m == 0#8))

/-- Control and system instructions, opcodes 0x00 to 0x0F (R103). -/
def decodeControl0 (f : F64) : Option Instr :=
  match f.op.toNat with
  | 0x00 => do f.bare; f.zeros true true true true true; return .nop f.guard
  | 0x01 => do let o ← f.offset; f.zeros true true false false true; return .bra f.guard o
  | 0x02 => do f.bare; f.zeros true false true true true; return .brx f.guard f.ra
  | 0x03 => do let o ← f.offset; f.zeros true false false false true; return .call f.guard f.a o
  | 0x04 => do f.bare; f.zeros true false true false true; return .callx f.guard f.ra f.c
  | 0x05 => do f.bare; f.zeros true true true true true; return .ret f.guard
  | 0x06 => do f.bare; f.zeros true true true false true; return .enter f.guard f.c
  | 0x07 => do
    let o ← f.offset; let w ← f.forkCc; f.zeros false true false false false; return .fork f.guard f.rd o w
  | 0x08 => do f.bare; f.zeros true true true true true; return .exit f.guard
  | 0x09 => do f.bare; f.zeros true true true true true; return .yieldI f.guard
  | 0x0A => do
    f.bare; f.zeros true true true true false; req (f.mods 4 4 == 0)
    let p ← modeBit (f.mods 2 2); let d ← modeBit (f.mods 0 2)
    req (p.isSome || d.isSome); return .mode f.guard p d
  | 0x0B => do
    f.bare; f.zeros true true true false false; req (f.mods 2 6 == 0)
    return .fwait f.guard (BitVec.ofNat 2 (f.mods 0 2) ++ f.c)
  | 0x0C => do let a ← f.srcA; f.zeros true false true true true; return .tmset f.guard a
  | 0x0D => do let a ← f.srcA; f.zeros true false false true true; return .phase f.guard a f.rb
  | 0x0E => do
    f.bare; f.zeros false true true false false; req (f.mods 1 7 == 0); let i ← small 8 f.c
    return .sread f.guard f.rd i (f.bit 0)
  | 0x0F => do
    f.bare; f.zeros true false true false false; req (f.mods 1 7 == 0); let i ← small 8 f.c
    return .swrite f.guard f.ra i (f.bit 0)
  | _ => none

/-- Control and system instructions, opcodes 0x10 to 0x1F (R103, R365). -/
def decodeControl1 (f : F64) : Option Instr :=
  match f.op.toNat with
  | 0x10 => do f.bare; f.zeros true true true false true; let j ← smallFin 8 f.c; return .rjen f.guard j
  | 0x11 => do f.bare; f.zeros true true true false true; let j ← smallFin 8 f.c; return .rjwait f.guard j
  | 0x12 => do f.bare; f.zeros true true true false true; let j ← smallFin 8 f.c; return .rjstrike f.guard j
  | 0x13 => do f.bare; f.zeros true false true false true; let v ← smallFin 16 f.c; return .cvset f.guard f.ra v
  | 0x14 => do
    f.bare; f.zeros true false false false true; let v ← smallFin 16 f.c; return .cvsign f.guard f.ra f.rb v
  | 0x15 => do f.bare; f.zeros true false true false true; let v ← smallFin 16 f.c; return .bara f.guard f.ra v
  | 0x16 => do f.bare; f.zeros true true true false true; let v ← smallFin 16 f.c; return .barw f.guard v
  | 0x17 => do f.bare; f.zeros true false true false true; let v ← smallFin 16 f.c; return .bars f.guard f.ra v
  | 0x18 => do
    f.bare; f.zeros true false false false false
    let sc ← Scope.ofCode (f.mods 5 3); let sp ← Space3.ofCode (f.mods 3 2); let cmp ← WaitCmp.ofCode (f.mods 0 3)
    return .waitw f.guard f.ra f.rb f.c sc sp cmp
  | 0x19 => do f.bare; f.zeros true true true false true; return .trap f.guard f.c
  | 0x1A => do f.bare; f.zeros true true true true true; return .tret f.guard
  | 0x1B => do
    f.bare; f.zeros true false true true false
    match f.m.toNat with
    | 0 => return .tmask f.guard (.vec f.ra)
    | 1 => return .tmask f.guard (.en f.ra)
    | 2 => do req (f.a == 0#10); return .tmask f.guard .hold
    | 3 => do req (f.a == 0#10); return .tmask f.guard .release
    | _ => none
  | 0x1C => do f.bare; f.zeros true false true true false; req (f.mods 1 7 == 0); return .rinj f.guard f.ra (f.bit 0)
  | _ => none

/-- A shift (R145, R151). -/
def decodeShift (f : F64) (mk : Guard → Reg → Reg → ShiftSrc → CcW → Instr) : Option Instr := do
  f.bare; let w ← f.ccw; req (f.mods 0 4 == 0)
  if f.bit 4 then do
    req (f.b == 0#10); return mk f.guard f.rd f.ra (.imm f.c) w
  else do
    req (f.c == 0#10); return mk f.guard f.rd f.ra (.reg f.rb) w

/-- Integer instructions, opcodes 0x20 to 0x2F (R145, R146). -/
def decodeInteger0 (f : F64) : Option Instr :=
  match f.op.toNat with
  | 0x20 => do
    let b ← f.srcB; f.zeros false false false true false; let w ← f.ccw; req (f.mods 0 4 == 0)
    return .iadd f.guard f.rd f.ra b (f.bit 4) w
  | 0x21 => do
    let b ← f.srcB; f.zeros false false false true false; let w ← f.ccw; req (f.mods 0 4 == 0)
    return .isub f.guard f.rd f.ra b (f.bit 4) w
  | 0x22 => do
    let b ← f.srcB; f.zeros false false false true false; let w ← f.ccw; req (f.mods 0 5 == 0)
    return .imul f.guard f.rd f.ra b w
  | 0x23 => do
    let b ← f.srcB; f.zeros false false false true false; let w ← f.ccw; req (f.mods 0 4 == 0)
    return .imulh f.guard f.rd f.ra b (f.bit 4) w
  | 0x24 => do
    let b ← f.srcB; let w ← f.ccw; req (f.mods 0 5 == 0); return .imad f.guard f.rd f.ra b f.rc w
  | 0x25 => do
    let b ← f.srcB; f.zeros false false false true false; let w ← f.ccw; req (f.mods 0 5 == 0)
    return .iadd64 f.guard f.rd f.ra b w
  | 0x26 => do
    let b ← f.srcB; let w ← f.ccw; req (f.mods 0 4 == 0); return .imad64 f.guard f.rd f.ra b f.rc (f.bit 4) w
  | 0x27 => decodeShift f .ishl
  | 0x28 => decodeShift f .ishr
  | 0x29 => decodeShift f .ishra
  | 0x2A => do let b ← f.srcB; return .bool3 f.guard f.rd f.ra b f.rc f.m
  | 0x2B => do
    let b ← f.srcB; f.zeros false false false true false; let w ← f.ccw; req (f.mods 0 4 == 0)
    return .imin f.guard f.rd f.ra b (f.bit 4) w
  | 0x2C => do
    let b ← f.srcB; f.zeros false false false true false; let w ← f.ccw; req (f.mods 0 4 == 0)
    return .imax f.guard f.rd f.ra b (f.bit 4) w
  | 0x2D => do
    f.bare; f.zeros false false true true false; let w ← f.ccw; req (f.mods 0 4 == 0)
    return .iabs f.guard f.rd f.ra (f.bit 4) w
  | 0x2E => do
    f.bare; f.zeros false false true true false; let w ← f.ccw; req (f.mods 0 5 == 0); return .popc f.guard f.rd f.ra w
  | 0x2F => do
    f.bare; f.zeros false false true true false; let w ← f.ccw; req (f.mods 0 5 == 0); return .clz f.guard f.rd f.ra w
  | _ => none

/-- Integer instructions, opcodes 0x30 to 0x35 (R145, R146). -/
def decodeInteger1 (f : F64) : Option Instr :=
  match f.op.toNat with
  | 0x30 => do
    f.bare; f.zeros false false false true false; let w ← f.ccw; req (f.mods 0 4 == 0)
    return .bfe f.guard f.rd f.ra f.rb (f.bit 4) w
  | 0x31 => do f.bare; let w ← f.ccw; req (f.mods 0 5 == 0); return .bfi f.guard f.rd f.ra f.rb f.rc w
  | 0x32 => do
    let b ← f.srcB; f.zeros false false false true false; let w ← f.ccw
    req (f.mods 4 1 == 0 && (Cond.ofCode (f.mods 0 4)).comparable)
    return .icmp f.guard f.rd f.ra b (Cond.ofCode (f.mods 0 4)) w
  | 0x33 => do
    let b ← f.srcB; f.zeros false false false true false
    req (f.mods 7 1 == 0 && f.mods 4 1 == 0 && (Cond.ofCode (f.mods 0 4)).comparable)
    return .isel f.guard f.rd f.ra b (Cond.ofCode (f.mods 0 4)) (f.two 5)
  | 0x34 => do
    f.bare; f.zeros false false true true false; req (f.mods 5 3 == 0 && f.mods 0 4 == 0)
    return .mov f.guard f.rd f.ra (f.bit 4)
  | 0x35 => do
    f.zeros false true true false true
    match f.lit with
    | none => return .movi f.guard f.rd (.short f.c)
    | some l => do req (f.c == 0#10); return .movi f.guard f.rd (.long l)
  | _ => none

/-- Float instructions, opcodes 0x40 to 0x4F (R145, R146). -/
def decodeFloat0 (f : F64) : Option Instr :=
  match f.op.toNat with
  | 0x40 => do
    let b ← f.srcB; f.zeros false false false true false; let w ← f.ccw; let r ← Rnd.ofCode (f.mods 2 3)
    return .fadd f.guard f.rd f.ra b r (f.bit 1) (f.bit 0) w
  | 0x41 => do
    let b ← f.srcB; f.zeros false false false true false; let w ← f.ccw; let r ← Rnd.ofCode (f.mods 2 3)
    return .fsub f.guard f.rd f.ra b r (f.bit 1) (f.bit 0) w
  | 0x42 => do
    let b ← f.srcB; f.zeros false false false true false; let w ← f.ccw; let r ← Rnd.ofCode (f.mods 2 3)
    return .fmul f.guard f.rd f.ra b r (f.bit 1) (f.bit 0) w
  | 0x43 => do
    let b ← f.srcB; let w ← f.ccw; let r ← Rnd.ofCode (f.mods 2 3)
    return .ffma f.guard f.rd f.ra b f.rc r (f.bit 1) (f.bit 0) w
  | 0x44 => do
    let b ← f.srcB; f.zeros false false false true false; let w ← f.ccw; req (f.mods 2 2 == 0 && f.mods 0 1 == 0)
    return .fmin f.guard f.rd f.ra b (f.bit 4) (f.bit 1) w
  | 0x45 => do
    let b ← f.srcB; f.zeros false false false true false; let w ← f.ccw; req (f.mods 2 2 == 0 && f.mods 0 1 == 0)
    return .fmax f.guard f.rd f.ra b (f.bit 4) (f.bit 1) w
  | 0x46 => do
    let b ← f.srcB; f.zeros false false false true false; let w ← f.ccw
    req (Cond.ofCode (f.mods 0 4)).comparable
    return .fcmp f.guard f.rd f.ra b (Cond.ofCode (f.mods 0 4)) (f.bit 4) w
  | 0x47 => do f.bare; f.zeros false false true true true; return .fclass f.guard f.rd f.ra
  | 0x48 => do
    let b ← f.srcB; f.zeros false false false true false; req (f.mods 5 3 == 0); let r ← Rnd.ofCode (f.mods 2 3)
    return .hadd2 f.guard f.rd f.ra b r (f.bit 1) (f.bit 0)
  | 0x49 => do
    let b ← f.srcB; f.zeros false false false true false; req (f.mods 5 3 == 0); let r ← Rnd.ofCode (f.mods 2 3)
    return .hmul2 f.guard f.rd f.ra b r (f.bit 1) (f.bit 0)
  | 0x4A => do
    let b ← f.srcB; req (f.mods 5 3 == 0); let r ← Rnd.ofCode (f.mods 2 3)
    return .hfma2 f.guard f.rd f.ra b f.rc r (f.bit 1) (f.bit 0)
  | _ => none

/-- A special function (R145, R146). -/
def decodeSpecial (f : F64) (mk : Guard → Reg → Reg → Bool → CcW → Instr) : Option Instr := do
  f.bare; f.zeros false false true true false; let w ← f.ccw; req (f.mods 2 3 == 0 && f.mods 0 1 == 0)
  return mk f.guard f.rd f.ra (f.bit 1) w

/-- CVP's format, half and second source (R146, R167). -/
def decodeCvpSel (f : F64) : Option CvpSel :=
  match f.mods 5 3, f.bit 0 with
  | 0, false => some (.h2 false f.rb)
  | 1, false => some (.h2 true f.rb)
  | 2, false => if f.b == 0#10 then some (.q4 false) else none
  | 3, false => if f.b == 0#10 then some (.q4 true) else none
  | 4, h => if f.b == 0#10 then some (.e2m1 h) else none
  | _, _ => none

/-- CVU's format and half (R168). -/
def decodeCvuSel (f : F64) : Option CvuSel :=
  match f.mods 5 3, f.bit 0 with
  | 0, false => some (.h2 false)
  | 1, false => some (.h2 true)
  | 2, false => some (.q4 false)
  | 3, false => some (.q4 true)
  | 4, h => some (.e2m1 h)
  | _, _ => none

/-- DOT4's types (R146, R169): both float, with a rounding code, or both integer. -/
def decodeDot4 (f : F64) : Option Dot4Mode :=
  let ta := f.mods 6 2
  let tb := f.mods 4 2
  if ta < 2 && tb < 2 then (Rnd.ofCode (f.mods 1 3)).map (.flt (ta == 1) (tb == 1))
  else if ta ≥ 2 && tb ≥ 2 && f.mods 2 2 == 0 then some (.int (ta == 3) (tb == 3) (f.bit 1))
  else none

/-- DOT8's types (R146, R169). -/
def decodeDot8 (f : F64) : Option Dot8Mode :=
  let ta := f.mods 6 2
  let tb := f.mods 4 2
  if ta == 0 && tb == 0 then (Rnd.ofCode (f.mods 1 3)).map .flt
  else if ta ≥ 2 && tb ≥ 2 && f.mods 2 2 == 0 then some (.int (ta == 3) (tb == 3) (f.bit 1))
  else none

/-- RAND's form (R146, R171). -/
def decodeRand (f : F64) : Option RandMode :=
  match f.m.toNat with
  | 0 => some .plain | 1 => some .w64 | 2 => some .f | _ => none

/-- Float instructions, opcodes 0x50 to 0x5F (R145, R146). -/
def decodeFloat1 (f : F64) : Option Instr :=
  match f.op.toNat with
  | 0x50 => decodeSpecial f .rcp
  | 0x51 => decodeSpecial f .rsq
  | 0x52 => decodeSpecial f .sqrt
  | 0x53 => decodeSpecial f .exp2
  | 0x54 => decodeSpecial f .log2
  | 0x55 => decodeSpecial f .sin
  | 0x56 => decodeSpecial f .cos
  | 0x57 => decodeSpecial f .tanh
  | 0x58 => do
    f.bare; f.zeros false false true true false; let w ← f.ccw; let r ← Rnd.ofCode (f.mods 2 3)
    req (f.mods 1 1 == 0); return .f2i f.guard f.rd f.ra r (f.bit 0) w
  | 0x59 => do
    f.bare; f.zeros false false true true false; let w ← f.ccw; let r ← Rnd.ofCode (f.mods 2 3)
    req (f.mods 1 1 == 0); return .i2f f.guard f.rd f.ra r (f.bit 0) w
  | 0x5A => do
    f.bare; f.zeros false false false true false; let s ← decodeCvpSel f; let r ← Rnd.ofCode (f.mods 2 3)
    return .cvp f.guard f.rd f.ra s r (f.bit 1)
  | 0x5B => do
    f.bare; f.zeros false false true true false; let s ← decodeCvuSel f; req (f.mods 1 4 == 0)
    return .cvu f.guard f.rd f.ra s
  | 0x5C => do
    f.bare; req (f.mods 0 1 == 0); let m ← decodeDot4 f; return .dot4 f.guard f.rd f.ra f.rb f.rc m
  | 0x5D => do
    f.bare; req (f.mods 0 1 == 0); let m ← decodeDot8 f; return .dot8 f.guard f.rd f.ra f.rb f.rc m
  | 0x5E => do
    f.bare; f.zeros false false false true false; let w ← f.ccw; let r ← Rnd.ofCode (f.mods 2 3)
    return .scale f.guard f.rd f.ra f.rb r (f.two 0) w
  | 0x5F => do f.bare; f.zeros false true true true false; let m ← decodeRand f; return .rand f.guard f.rd m
  | _ => none

/-- The lane operand of SHFL and LPUSH: `imm` is the immediate's low five bits, already checked (R172). -/
def decodeLane (f : F64) (imm : Nat) : Option LaneSrc :=
  if f.bit 4 then (if f.b == 0#10 then some (.imm (BitVec.ofNat 5 imm)) else none)
  else if imm == 0 then some (.reg f.rb) else none

/-- Cross-lane instructions (R172, R173). -/
def decodeCross (f : F64) : Option Instr :=
  match f.op.toNat with
  | 0x60 => do
    f.bare; let w ← f.ccw; req (f.mods 0 1 == 0 && f.c.toNat / 32 % 8 == 0)
    let m ← ShflMode.ofCode (f.mods 2 2) (f.bit 1); let b ← decodeLane f (f.c.toNat % 32)
    return .shfl f.guard f.rd f.ra b m (Span.ofCode (f.c.toNat / 256)) w
  | 0x61 => do
    f.bare; let w ← f.ccw; req (f.mods 0 4 == 0 && f.c.toNat < 32)
    let b ← decodeLane f f.c.toNat; return .lpush f.guard f.rd f.ra b w
  | 0x62 => do
    f.bare; f.zeros false false true true false; let w ← f.ccw; req (f.mods 0 4 == 0)
    return .matchKeys f.guard f.rd f.ra (f.bit 4) w
  | 0x63 => do
    f.bare; f.zeros false false true true false; let w ← f.ccw; req (f.mods 4 1 == 0 && f.mods 0 1 == 0)
    let o ← VoteOp.ofCode (f.mods 1 3); return .vote f.guard f.rd f.ra o w
  | 0x64 => do
    f.bare; f.zeros false false true true false; req (f.mods 0 2 == 0)
    let s ← RedSel.ofCode (f.mods 5 2) (f.mods 2 3) (f.bit 7); return .redl f.guard f.rd f.ra s
  | 0x65 => do
    f.bare; f.zeros false false true true false; req (f.mods 0 1 == 0)
    let s ← RedSel.ofCode (f.mods 5 2) (f.mods 2 3) (f.bit 7); return .scanl f.guard f.rd f.ra s (f.bit 1)
  | 0x66 => do
    f.bare; req (f.c.toNat < 128 && f.mods 2 6 == 0); let t ← TopkType.ofCode (f.mods 0 2)
    return .topk f.guard f.rd f.rb f.ra ⟨f.c.toNat / 32 % 4, Nat.mod_lt _ (by decide)⟩ (BitVec.ofNat 5 (f.c.toNat % 32)) t
  | 0x67 => do f.bare; f.zeros true false true true true; return .regroup f.guard f.ra
  | _ => none

/-- The scope of `.acq` in LD's control field (R205). -/
def decodeAcq (f : F64) : Option (Option Scope) :=
  if f.bit 0 then (Scope.ofCode f.b.toNat).map some
  else if f.b == 0#10 then some none else none

/-- The stage register and ring of `.post` (R203, R204, R220). -/
def decodePost (f : F64) : Option (Option (Fin 8 × Reg)) :=
  if f.bit 3 then
    (if f.mods 4 3 == 0 || f.mods 4 3 == 5 || f.mods 4 3 == 7 then some (some (f.ring, f.rc)) else none)
  else if f.c == 0#10 && f.mods 0 3 == 0 then some none else none

/-- Memory, copy and ring instructions, opcodes 0x80 to 0x8A (R203 to R205). -/
def decodeMemory (f : F64) : Option Instr :=
  match f.op.toNat with
  | 0x80 => do
    let o ← f.memOff; let w ← Width.ofCode (f.mods 4 3); let q ← decodeAcq f
    let sp := Space.ofCode (f.mods 2 2)
    req ((!f.bit 1 || sp == .g || sp == .k) && (q.isNone || sp != .k))
    return .ld f.guard f.rd f.ra o (f.bit 7) w sp (f.bit 1) q
  | 0x81 => do
    let o ← f.memOff; req (f.mods 4 3 < 5 && f.mods 1 1 == 0); let w ← Width.ofCode (f.mods 4 3)
    let sc ← Scope.ofCode f.d.toNat
    let sp := Space.ofCode (f.mods 2 2)
    req (!f.bit 0 || sp != .k)
    return .st f.guard f.ra f.rb o (f.bit 7) w sp (f.bit 0) sc
  | 0x82 => do
    let b ← f.srcB; req (f.mods 0 2 == 0 && f.c.toNat < 128); let op ← AtomOp.ofCode (f.mods 2 5)
    req (!b.isLit || op.single32)
    let sc ← Scope.ofCode (f.c.toNat / 4 % 8); let sp ← Space3.ofCode (f.c.toNat % 4)
    return .atom f.guard f.rd f.ra b (f.bit 7) op (MemOrder.ofCode (f.c.toNat / 32 % 4)) sc sp
  | 0x83 => do
    let b ← f.srcB; f.zeros true false false false false
    req (f.mods 0 2 == 0 && f.c.toNat < 128); let op ← AtomOp.ofCode (f.mods 2 5)
    let o := MemOrder.ofCode (f.c.toNat / 32 % 4)
    req ((!b.isLit || op.single32) && !op.returnsOnly && (o == .rlx || o == .rel))
    let sc ← Scope.ofCode (f.c.toNat / 4 % 8); let sp ← Space3.ofCode (f.c.toNat % 4)
    return .red f.guard f.ra b (f.bit 7) op o sc sp
  | 0x84 => do
    f.bare; f.zeros true true true true false; req (f.mods 7 1 == 0 && f.mods 0 2 == 0)
    let sc ← Scope.ofCode (f.mods 4 3); return .fence f.guard sc (FenceKind.ofCode (f.mods 2 2))
  | 0x85 => do
    let o ← f.memOff; f.zeros true false true false false
    req (f.mods 3 5 == 0 && f.mods 0 2 == 0); return .pref f.guard f.ra o (f.bit 2)
  | 0x86 => do
    f.bare; let p ← decodePost f
    return .tcopy f.guard f.rd f.ra f.rb (f.bit 7) (CopyDir.ofCode (f.mods 4 3)) p
  | 0x87 => do
    f.bare; f.zeros false false false true false; req (f.mods 0 1 == 0 && f.mods 4 3 != 7)
    let sc ← Scope.ofCode (f.mods 1 3)
    return .copya f.guard f.rd f.ra f.rb (f.bit 7) (CopyDir.ofCode (f.mods 4 3)) sc
  | 0x88 => do f.bare; f.zeros true false false false false; req (f.mods 3 5 == 0)
               return .srinit f.guard f.ra f.rb f.rc f.ring
  | 0x89 => do f.bare; f.zeros true false true true false; req (f.mods 5 3 == 0)
               return .srwait f.guard f.ra (f.bit 4) (f.bit 3) f.ring
  | 0x8A => do f.bare; f.zeros true false true true false; req (f.mods 4 4 == 0)
               return .srpost f.guard f.ra (f.bit 3) f.ring
  | _ => none

/-- Rename instructions, opcodes 0x90 to 0x96 (R203, R204). -/
def decodeRename (f : F64) : Option Instr :=
  match f.op.toNat with
  | 0x90 => do f.bare; req (f.mods 0 4 == 0); let sc ← Scope.ofCode (f.mods 4 3)
               f.zeros true false false false false; return .rnmove f.guard f.ra f.rb f.rc (f.bit 7) sc
  | 0x91 => do f.bare; req (f.mods 0 4 == 0); let sc ← Scope.ofCode (f.mods 4 3)
               f.zeros true false false false false; return .rnswap f.guard f.ra f.rb f.rc (f.bit 7) sc
  | 0x92 => do f.bare; req (f.mods 0 4 == 0); let sc ← Scope.ofCode (f.mods 4 3)
               f.zeros true false false false false; return .rnalias f.guard f.ra f.rb f.rc (f.bit 7) sc
  | 0x93 => do f.bare; req (f.mods 0 4 == 0); let sc ← Scope.ofCode (f.mods 4 3)
               return .rnperm f.guard f.rd f.ra f.rb f.rc (f.bit 7) sc
  | 0x94 => do f.bare; req (f.mods 0 4 == 0); let sc ← Scope.ofCode (f.mods 4 3)
               f.zeros true false true false false; return .rndrop f.guard f.ra f.rc (f.bit 7) sc
  | 0x95 => do f.bare; req (f.mods 2 2 == 0); let sc ← Scope.ofCode (f.mods 4 3)
               let t ← FreshTier.ofCode (f.mods 0 2)
               f.zeros true false true false false; return .rnfresh f.guard f.ra f.rc (f.bit 7) sc t
  | 0x96 => do f.bare; req (f.mods 0 7 == 0); f.zeros false false true true false
               return .rnquery f.guard f.rd f.ra (f.bit 7)
  | _ => none

/-- The scaling of an MMA: 1023 in the scale field means none, and then p, sa and sb are 0 (R267, R268). -/
def decodeScale (f : F64) : Option (Option MmaScale) :=
  if f.c == 1023#10 then (if f.d.toNat < 256 && f.mods 0 4 == 0 then some none else none)
  else some (some { pair := f.rc, p := ⟨f.d.toNat / 256 % 4, Nat.mod_lt _ (by decide)⟩, sa := f.two 2, sb := f.two 0 })

/-- Matrix instructions (R267, R268). -/
def decodeMatrix (f : F64) : Option Instr :=
  match f.op.toNat with
  | 0xA0 => do
    f.bare; let fmt ← MmaFmt.ofCode (f.mods 4 3); let s ← decodeScale f
    req (!fmt.isInt || (s.isNone && !f.bit 7))
    return .mma f.guard (BitVec.ofNat 8 (f.d.toNat % 256)) f.ra f.rb s (f.bit 7) fmt
  | 0xA1 => do
    f.bare; f.zeros false false true false false; req (f.c == 1023#10 && f.mods 0 4 == 0 && f.a.toNat < 32)
    let fmt ← MmaFmt.ofCode (f.mods 4 3); req (!fmt.isInt || !f.bit 7); let t ← small 8 f.d
    return .mmaJ f.guard t (f.a.toNat / 16 == 1) ⟨f.a.toNat % 16, Nat.mod_lt _ (by decide)⟩ (f.bit 7) fmt
  | 0xA2 => do
    f.bare; f.zeros true true false false true; let t ← small 8 f.b; let n ← small 8 f.c; return .accz f.guard t n
  | 0xA3 => do
    f.bare; f.zeros false (!f.bit 6) false true false; req (f.mods 0 5 == 0); let t ← small 8 f.b
    return .accmv f.guard f.rd (if f.bit 6 then some f.ra else none) t (f.bit 5) (f.bit 7)
  | 0xA4 => do
    f.bare; f.zeros (!f.bit 6) false false false false; req (f.mods 0 2 == 0); let t ← small 8 f.b
    let wf ← TileFmt.ofCode (f.mods 2 2)
    return .accst f.guard (if f.bit 6 then some f.rd else none) f.ra t f.rc (f.bit 5) (f.bit 4) wf (f.bit 7)
  | 0xA5 => do
    f.bare; f.zeros true false false false false; req (f.mods 0 2 == 0 && f.mods 5 2 == 0); let t ← small 8 f.b
    let wf ← TileFmt.ofCode (f.mods 2 2); return .accld f.guard f.ra t f.rc (f.bit 4) wf (f.bit 7)
  | 0xA6 => do
    f.bare; f.zeros true true (!f.bit 0) true false; req (f.mods 1 7 == 0); let t ← small 8 f.b
    return .mwait f.guard (if f.bit 0 then some t else none)
  | 0xA7 => do f.bare; f.zeros true true true true true; return .opfence f.guard
  | _ => none

/-- Node, sort-count, caravan and Wadi instructions, opcodes 0xB0 to 0xBC (R261, R295, R303, R322). -/
def decodeAsync0 (f : F64) : Option Instr :=
  match f.op.toNat with
  | 0xB0 => do f.bare; f.zeros true false true true false; req (f.mods 0 7 == 0); return .nrel f.guard f.ra (f.bit 7)
  | 0xB1 => do
    f.bare; f.zeros false false true true false; req (f.mods 1 7 == 0); return .nwait f.guard f.rd f.ra (f.bit 0)
  | 0xB2 => do
    f.bare; f.zeros false false true true false; req (f.mods 0 7 == 0); return .nstat f.guard f.rd f.ra (f.bit 7)
  | 0xB3 => do
    f.bare; f.zeros true false true true false; req (f.mods 0 4 == 0); let sc ← Scope.ofCode (f.mods 4 3)
    return .sortcnt f.guard f.ra (f.bit 7) sc
  | 0xB4 => do
    f.bare; req (f.mods 0 6 == 0); return .carsend f.guard f.rd f.ra f.rb f.rc (f.bit 7) (f.bit 6)
  | 0xB8 => do
    f.bare; f.zeros true false true false false; req (f.mods 0 7 == 0); let ch ← small 8 f.c
    return .wopen f.guard f.ra ch (f.bit 7)
  | 0xB9 => do
    f.bare; req (f.mods 5 2 == 0); let ch ← small 8 f.d
    return .wred f.guard f.ra f.rb f.rc ch (BitVec.ofNat 5 (f.mods 0 5)) (f.bit 7)
  | 0xBA => do f.bare; f.zeros false false true false true; let ch ← small 8 f.c; return .wwait f.guard f.rd f.ra ch
  | 0xBB => do
    f.bare; f.zeros false false false false true; let ch ← small 8 f.c; return .wcorr f.guard f.rd f.ra f.rb ch
  | 0xBC => do
    f.bare; f.zeros true true true false false; req (f.mods 0 7 == 0); let ch ← small 8 f.c
    return .wclose f.guard ch (f.bit 7)
  | _ => none

/-- Attention, KV and prefix instructions, opcodes 0xC0 to 0xC4 (R337). -/
def decodeAsync1 (f : F64) : Option Instr :=
  match f.op.toNat with
  | 0xC0 => do
    f.bare; f.zeros true false true true false; req (f.mods 0 4 == 0); let sc ← Scope.ofCode (f.mods 4 3)
    return .attn f.guard f.ra (f.bit 7) sc
  | 0xC1 => do
    f.bare; req (f.mods 2 2 == 0); let sc ← Scope.ofCode (f.mods 4 3); let k ← KvD.ofCode (f.mods 0 2)
    return .kvappend f.guard f.rd f.ra f.rb f.rc (f.bit 7) sc k
  | 0xC2 => do
    f.bare; f.zeros false false false true false; req (f.mods 0 7 == 0)
    return .kvxlate f.guard f.rd f.ra f.rb (f.bit 7)
  | 0xC3 => do f.bare; req (f.mods 0 5 == 0); return .pfxfind f.guard f.rd f.ra f.rb f.rc (f.bit 7) (f.two 5)
  | 0xC4 => do
    f.bare; f.zeros true false false false false; req (f.mods 0 4 == 0); let sc ← Scope.ofCode (f.mods 4 3)
    return .pfxins f.guard f.ra f.rb f.rc (f.bit 7) sc
  | _ => none

/-- A 64- or 96-bit instruction (R91, R96): `none` where R95, R96 or R92 makes the pattern undefined. -/
def decode64 (f : F64) : Option Instr :=
  match f.op.toNat / 16 with
  | 0x0 => decodeControl0 f
  | 0x1 => decodeControl1 f
  | 0x2 => decodeInteger0 f
  | 0x3 => decodeInteger1 f
  | 0x4 => decodeFloat0 f
  | 0x5 => decodeFloat1 f
  | 0x6 => decodeCross f
  | 0x8 => decodeMemory f
  | 0x9 => decodeRename f
  | 0xA => decodeMatrix f
  | 0xB => decodeAsync0 f
  | 0xC => decodeAsync1 f
  | _ => none

/-- A 32-bit instruction (R93, R97): `none` where the pattern is undefined. -/
def decodeShort (w : Word) : Option Instr :=
  let i : BitVec 4 := w.extractLsb' 28 4
  let a := Reg.ofCode (w.extractLsb' 18 10)
  let d := Reg.ofCode (w.extractLsb' 8 10)
  let two (x : Instr) : Option Instr := if i == 0#4 then some x else none
  match (w.extractLsb' 2 6).toNat with
  | 0x00 => if w.extractLsb' 8 24 == 0#24 then some .nopShort else none
  | 0x01 => two (.movShort d a)
  | 0x02 => some (.moviShort d (w.extractLsb' 18 14))
  | 0x04 => two (.iaddShort d a)
  | 0x05 => two (.isubShort d a)
  | 0x06 => some (.iaddImmShort d a i)
  | 0x07 => some (.isubImmShort d a i)
  | 0x08 => some (.ishlImmShort d a i)
  | 0x09 => some (.ishrImmShort d a i)
  | 0x0A => some (.ishraImmShort d a i)
  | 0x0B => some (.ishlImm16Short d a i)
  | 0x0C => some (.ishrImm16Short d a i)
  | 0x0D => some (.ishraImm16Short d a i)
  | 0x0E => two (.imulShort d a)
  | 0x10 => two (.andShort d a)
  | 0x11 => two (.orShort d a)
  | 0x12 => two (.xorShort d a)
  | 0x13 => two (.notShort d a)
  | 0x14 => two (.iminShort d a)
  | 0x15 => two (.imaxShort d a)
  | 0x18 => two (.faddShort d a)
  | 0x19 => two (.fsubShort d a)
  | 0x1A => two (.fmulShort d a)
  | 0x1B => two (.fminShort d a)
  | 0x1C => two (.fmaxShort d a)
  | 0x1D => two (.hadd2Short d a)
  | 0x1E => two (.hmul2Short d a)
  | 0x28 => some (.ldSB32Short d a i)
  | 0x29 => some (.stSB32Short d a i)
  | 0x2A => some (.ldSB64Short d a i)
  | 0x2B => some (.stSB64Short d a i)
  | _ => none

/-- The length of an instruction in words, from bits [1:0] of its first word (R90); `none` for the header marker. -/
def wordCount (w : Word) : Option Nat :=
  match w.toNat % 4 with
  | 0 => some 1 | 2 => some 2 | 3 => some 3 | _ => none

/-- The instruction that starts with `w0` and goes on with `w1` and `w2` where its length takes them in (R90, R100):
`none` for the header marker. -/
def decodeWords (w0 w1 w2 : Word) : Option Instr :=
  match w0.toNat % 4 with
  | 0 => some ((decodeShort w0).getD (.undefinedInstruction w0 0#32 0#32))
  | 2 => some ((decode64 (.ofWords w0 w1 none)).getD (.undefinedInstruction w0 w1 0#32))
  | 3 => some ((decode64 (.ofWords w0 w1 (some w2))).getD (.undefinedInstruction w0 w1 w2))
  | _ => none

/-- The first instruction of a list of words, with the words after it. -/
def decodeWordList : List Word → Except DecodeError (Instr × List Word)
  | [] => .error .truncated
  | w0 :: ws =>
    match wordCount w0 with
    | none => .error .headerMarker
    | some n =>
      if ws.length + 1 < n then .error .truncated
      else match decodeWords w0 (ws.headD 0#32) (ws.getD 1 0#32) with
        | none => .error .headerMarker
        | some i => .ok (i, ws.drop (n - 1))

/-- The words of a list of bytes, little-endian (R5); a remainder of fewer than four bytes is no word. -/
def wordsOfBytes : List Byte → List Word
  | b0 :: b1 :: b2 :: b3 :: bs => (b3 ++ b2 ++ b1 ++ b0) :: wordsOfBytes bs
  | _ => []

/-- The bytes of a word, little-endian (R5). -/
def bytesOfWord (w : Word) : List Byte :=
  [w.extractLsb' 0 8, w.extractLsb' 8 8, w.extractLsb' 16 8, w.extractLsb' 24 8]

/-- The decoder: the first instruction of a list of bytes, with the bytes after it. -/
def decode (bs : List Byte) : Except DecodeError (Instr × List Byte) :=
  match decodeWordList (wordsOfBytes bs) with
  | .error e => .error e
  | .ok (i, ws) => .ok (i, bs.drop (4 * ((wordsOfBytes bs).length - ws.length)))

/-- The words of an instruction whose bits are `w`, with the bits above them 0 up to the longest instruction. -/
def tableWords (w : Nat) : List Word :=
  [BitVec.ofNat 32 w, BitVec.ofNat 32 (w / 2 ^ 32), BitVec.ofNat 32 (w / 2 ^ 64)]

/-- What the decoder reads from an instruction whose low `nbits` bits are `w` and whose other bits are 0. -/
def decodeTableWord (nbits w : Nat) : Option Instr :=
  match decode ((tableWords (w % 2 ^ nbits)).flatMap bytesOfWord) with
  | .ok (i, _) => some i
  | .error _ => none

/-! ## The encoder -/

/-- A source operand's field code and literal. -/
def Src.enc : Src → BitVec 10 × Option Word
  | .reg r => (r.code, none)
  | .lit w => (0#10, some w)

/-- The bits [63:61] of a CC write (R146). -/
def ccCode : CcW → Nat
  | none => 0
  | some n => 4 + n.val

/-- A modifier byte from its value. -/
def modByte (n : Nat) : BitVec 8 := BitVec.ofNat 8 n

/-- The fields of an instruction with no literal. -/
def enc64 (g : Guard) (op : Nat) (d a b c : BitVec 10) (m : BitVec 8) (lit : Option Word := none) : F64 :=
  { gd := g.code, op := BitVec.ofNat 8 op, d := d, a := a, b := b, c := c, m := m, lit := lit }

/-- The fields of an instruction with a branch offset. -/
def encOff (g : Guard) (op : Nat) (d a : BitVec 10) (o : Off) (m : BitVec 8) : F64 :=
  match o with
  | .short o => enc64 g op d a (o.extractLsb' 0 10) (o.extractLsb' 10 10) m
  | .long l => enc64 g op d a 0#10 0#10 m (some l)

/-- The fields of an instruction with a memory offset. -/
def encMem (g : Guard) (op : Nat) (d a b : BitVec 10) (o : MemOff) (m : BitVec 8) : F64 :=
  match o with
  | .short o => enc64 g op d a b o m
  | .long l => enc64 g op d a b 0#10 m (some l)

/-- The fields of an instruction whose source B may be a literal. -/
def encB (g : Guard) (op : Nat) (d a : BitVec 10) (b : Src) (c : BitVec 10) (m : BitVec 8) : F64 :=
  enc64 g op d a b.enc.1 c m b.enc.2

/-- The fields of a shift. -/
def encShift (g : Guard) (op : Nat) (d a : Reg) (b : ShiftSrc) (w : CcW) : F64 :=
  match b with
  | .reg r => enc64 g op d.code a.code r.code 0#10 (modByte (ccCode w * 32))
  | .imm n => enc64 g op d.code a.code 0#10 n (modByte (ccCode w * 32 + 16))

/-- Lane field [45:36], immediate and `.imm` bit of SHFL and LPUSH. -/
def LaneSrc.enc : LaneSrc → BitVec 10 × Nat × Nat
  | .reg r => (r.code, 0, 0)
  | .imm n => (0#10, n.toNat, 1)

/-- The code of MODE's pair of bits. -/
def modeCode : Option Bool → Nat
  | none => 0
  | some v => 2 + v.toNat

/-- The fields of a 64- or 96-bit instruction; `none` for a term of another kind. -/
def Instr.fields : Instr → Option F64
  | .nop g => some (enc64 g 0x00 0 0 0 0 0)
  | .bra g o => some (encOff g 0x01 0 0 o 0)
  | .brx g a => some (enc64 g 0x02 0 a.code 0 0 0)
  | .call g k o => some (encOff g 0x03 0 k o 0)
  | .callx g a k => some (enc64 g 0x04 0 a.code 0 k 0)
  | .ret g => some (enc64 g 0x05 0 0 0 0 0)
  | .enter g n => some (enc64 g 0x06 0 0 0 n 0)
  | .fork g d o w => some (encOff g 0x07 d.code 0 o (modByte (ccCode w)))
  | .exit g => some (enc64 g 0x08 0 0 0 0 0)
  | .yieldI g => some (enc64 g 0x09 0 0 0 0 0)
  | .mode g p d => some (enc64 g 0x0A 0 0 0 0 (modByte (modeCode p * 4 + modeCode d)))
  | .fwait g m => some (enc64 g 0x0B 0 0 0 (m.extractLsb' 0 10) ((m.extractLsb' 10 2).setWidth 8))
  | .tmset g a => some (enc64 g 0x0C 0 a.enc.1 0 0 0 a.enc.2)
  | .phase g a b => some (enc64 g 0x0D 0 a.enc.1 b.code 0 0 a.enc.2)
  | .sread g d i w => some (enc64 g 0x0E d.code 0 0 (i.setWidth 10) (modByte w.toNat))
  | .swrite g a i w => some (enc64 g 0x0F 0 a.code 0 (i.setWidth 10) (modByte w.toNat))
  | .rjen g j => some (enc64 g 0x10 0 0 0 (BitVec.ofNat 10 j.val) 0)
  | .rjwait g j => some (enc64 g 0x11 0 0 0 (BitVec.ofNat 10 j.val) 0)
  | .rjstrike g j => some (enc64 g 0x12 0 0 0 (BitVec.ofNat 10 j.val) 0)
  | .cvset g a v => some (enc64 g 0x13 0 a.code 0 (BitVec.ofNat 10 v.val) 0)
  | .cvsign g a b v => some (enc64 g 0x14 0 a.code b.code (BitVec.ofNat 10 v.val) 0)
  | .bara g a v => some (enc64 g 0x15 0 a.code 0 (BitVec.ofNat 10 v.val) 0)
  | .barw g v => some (enc64 g 0x16 0 0 0 (BitVec.ofNat 10 v.val) 0)
  | .bars g a v => some (enc64 g 0x17 0 a.code 0 (BitVec.ofNat 10 v.val) 0)
  | .waitw g a b off sc sp cmp =>
    some (enc64 g 0x18 0 a.code b.code off (modByte (sc.code * 32 + sp.code * 8 + cmp.code)))
  | .trap g n => some (enc64 g 0x19 0 0 0 n 0)
  | .tret g => some (enc64 g 0x1A 0 0 0 0 0)
  | .tmask g (.vec a) => some (enc64 g 0x1B 0 a.code 0 0 0)
  | .tmask g (.en a) => some (enc64 g 0x1B 0 a.code 0 0 1)
  | .tmask g .hold => some (enc64 g 0x1B 0 0 0 0 2)
  | .tmask g .release => some (enc64 g 0x1B 0 0 0 0 3)
  | .rinj g a l => some (enc64 g 0x1C 0 a.code 0 0 (modByte l.toNat))
  | .iadd g d a b s w => some (encB g 0x20 d.code a.code b 0 (modByte (ccCode w * 32 + s.toNat * 16)))
  | .isub g d a b s w => some (encB g 0x21 d.code a.code b 0 (modByte (ccCode w * 32 + s.toNat * 16)))
  | .imul g d a b w => some (encB g 0x22 d.code a.code b 0 (modByte (ccCode w * 32)))
  | .imulh g d a b u w => some (encB g 0x23 d.code a.code b 0 (modByte (ccCode w * 32 + u.toNat * 16)))
  | .imad g d a b c w => some (encB g 0x24 d.code a.code b c.code (modByte (ccCode w * 32)))
  | .iadd64 g d a b w => some (encB g 0x25 d.code a.code b 0 (modByte (ccCode w * 32)))
  | .imad64 g d a b c u w => some (encB g 0x26 d.code a.code b c.code (modByte (ccCode w * 32 + u.toNat * 16)))
  | .ishl g d a b w => some (encShift g 0x27 d a b w)
  | .ishr g d a b w => some (encShift g 0x28 d a b w)
  | .ishra g d a b w => some (encShift g 0x29 d a b w)
  | .bool3 g d a b c t => some (encB g 0x2A d.code a.code b c.code t)
  | .imin g d a b u w => some (encB g 0x2B d.code a.code b 0 (modByte (ccCode w * 32 + u.toNat * 16)))
  | .imax g d a b u w => some (encB g 0x2C d.code a.code b 0 (modByte (ccCode w * 32 + u.toNat * 16)))
  | .iabs g d a s w => some (enc64 g 0x2D d.code a.code 0 0 (modByte (ccCode w * 32 + s.toNat * 16)))
  | .popc g d a w => some (enc64 g 0x2E d.code a.code 0 0 (modByte (ccCode w * 32)))
  | .clz g d a w => some (enc64 g 0x2F d.code a.code 0 0 (modByte (ccCode w * 32)))
  | .bfe g d a b s w => some (enc64 g 0x30 d.code a.code b.code 0 (modByte (ccCode w * 32 + s.toNat * 16)))
  | .bfi g d a b c w => some (enc64 g 0x31 d.code a.code b.code c.code (modByte (ccCode w * 32)))
  | .icmp g d a b cond w => some (encB g 0x32 d.code a.code b 0 (modByte (ccCode w * 32 + cond.code)))
  | .isel g d a b cond n => some (encB g 0x33 d.code a.code b 0 (modByte (n.val * 32 + cond.code)))
  | .mov g d a w => some (enc64 g 0x34 d.code a.code 0 0 (modByte (w.toNat * 16)))
  | .movi g d (.short i) => some (enc64 g 0x35 d.code 0 0 i 0)
  | .movi g d (.long l) => some (enc64 g 0x35 d.code 0 0 0 0 (some l))
  | .fadd g d a b r z s w =>
    some (encB g 0x40 d.code a.code b 0 (modByte (ccCode w * 32 + r.code * 4 + z.toNat * 2 + s.toNat)))
  | .fsub g d a b r z s w =>
    some (encB g 0x41 d.code a.code b 0 (modByte (ccCode w * 32 + r.code * 4 + z.toNat * 2 + s.toNat)))
  | .fmul g d a b r z s w =>
    some (encB g 0x42 d.code a.code b 0 (modByte (ccCode w * 32 + r.code * 4 + z.toNat * 2 + s.toNat)))
  | .ffma g d a b c r z s w =>
    some (encB g 0x43 d.code a.code b c.code (modByte (ccCode w * 32 + r.code * 4 + z.toNat * 2 + s.toNat)))
  | .fmin g d a b n z w => some (encB g 0x44 d.code a.code b 0 (modByte (ccCode w * 32 + n.toNat * 16 + z.toNat * 2)))
  | .fmax g d a b n z w => some (encB g 0x45 d.code a.code b 0 (modByte (ccCode w * 32 + n.toNat * 16 + z.toNat * 2)))
  | .fcmp g d a b cond z w =>
    some (encB g 0x46 d.code a.code b 0 (modByte (ccCode w * 32 + z.toNat * 16 + cond.code)))
  | .fclass g d a => some (enc64 g 0x47 d.code a.code 0 0 0)
  | .hadd2 g d a b r z h => some (encB g 0x48 d.code a.code b 0 (modByte (r.code * 4 + z.toNat * 2 + h.toNat)))
  | .hmul2 g d a b r z h => some (encB g 0x49 d.code a.code b 0 (modByte (r.code * 4 + z.toNat * 2 + h.toNat)))
  | .hfma2 g d a b c r z h =>
    some (encB g 0x4A d.code a.code b c.code (modByte (r.code * 4 + z.toNat * 2 + h.toNat)))
  | .rcp g d a z w => some (enc64 g 0x50 d.code a.code 0 0 (modByte (ccCode w * 32 + z.toNat * 2)))
  | .rsq g d a z w => some (enc64 g 0x51 d.code a.code 0 0 (modByte (ccCode w * 32 + z.toNat * 2)))
  | .sqrt g d a z w => some (enc64 g 0x52 d.code a.code 0 0 (modByte (ccCode w * 32 + z.toNat * 2)))
  | .exp2 g d a z w => some (enc64 g 0x53 d.code a.code 0 0 (modByte (ccCode w * 32 + z.toNat * 2)))
  | .log2 g d a z w => some (enc64 g 0x54 d.code a.code 0 0 (modByte (ccCode w * 32 + z.toNat * 2)))
  | .sin g d a z w => some (enc64 g 0x55 d.code a.code 0 0 (modByte (ccCode w * 32 + z.toNat * 2)))
  | .cos g d a z w => some (enc64 g 0x56 d.code a.code 0 0 (modByte (ccCode w * 32 + z.toNat * 2)))
  | .tanh g d a z w => some (enc64 g 0x57 d.code a.code 0 0 (modByte (ccCode w * 32 + z.toNat * 2)))
  | .f2i g d a r u w => some (enc64 g 0x58 d.code a.code 0 0 (modByte (ccCode w * 32 + r.code * 4 + u.toNat)))
  | .i2f g d a r u w => some (enc64 g 0x59 d.code a.code 0 0 (modByte (ccCode w * 32 + r.code * 4 + u.toNat)))
  | .cvp g d a (.h2 bf b) r s =>
    some (enc64 g 0x5A d.code a.code b.code 0 (modByte (bf.toNat * 32 + r.code * 4 + s.toNat * 2)))
  | .cvp g d a (.q4 e5) r s =>
    some (enc64 g 0x5A d.code a.code 0 0 (modByte ((2 + e5.toNat) * 32 + r.code * 4 + s.toNat * 2)))
  | .cvp g d a (.e2m1 h) r s =>
    some (enc64 g 0x5A d.code a.code 0 0 (modByte (128 + r.code * 4 + s.toNat * 2 + h.toNat)))
  | .cvu g d a (.h2 bf) => some (enc64 g 0x5B d.code a.code 0 0 (modByte (bf.toNat * 32)))
  | .cvu g d a (.q4 e5) => some (enc64 g 0x5B d.code a.code 0 0 (modByte ((2 + e5.toNat) * 32)))
  | .cvu g d a (.e2m1 h) => some (enc64 g 0x5B d.code a.code 0 0 (modByte (128 + h.toNat)))
  | .dot4 g d a b c (.flt x y r) =>
    some (enc64 g 0x5C d.code a.code b.code c.code (modByte (x.toNat * 64 + y.toNat * 16 + r.code * 2)))
  | .dot4 g d a b c (.int x y s) =>
    some (enc64 g 0x5C d.code a.code b.code c.code (modByte ((2 + x.toNat) * 64 + (2 + y.toNat) * 16 + s.toNat * 2)))
  | .dot8 g d a b c (.flt r) => some (enc64 g 0x5D d.code a.code b.code c.code (modByte (r.code * 2)))
  | .dot8 g d a b c (.int x y s) =>
    some (enc64 g 0x5D d.code a.code b.code c.code (modByte ((2 + x.toNat) * 64 + (2 + y.toNat) * 16 + s.toNat * 2)))
  | .scale g d a b r y w =>
    some (enc64 g 0x5E d.code a.code b.code 0 (modByte (ccCode w * 32 + r.code * 4 + y.val)))
  | .rand g d .plain => some (enc64 g 0x5F d.code 0 0 0 0)
  | .rand g d .w64 => some (enc64 g 0x5F d.code 0 0 0 1)
  | .rand g d .f => some (enc64 g 0x5F d.code 0 0 0 2)
  | .shfl g d a b m sp w =>
    some (enc64 g 0x60 d.code a.code b.enc.1 (BitVec.ofNat 10 (sp.code * 256 + b.enc.2.1))
      (modByte (ccCode w * 32 + b.enc.2.2 * 16 + m.code.1 * 4 + m.code.2.toNat * 2)))
  | .lpush g d a b w =>
    some (enc64 g 0x61 d.code a.code b.enc.1 (BitVec.ofNat 10 b.enc.2.1) (modByte (ccCode w * 32 + b.enc.2.2 * 16)))
  | .matchKeys g d a x w => some (enc64 g 0x62 d.code a.code 0 0 (modByte (ccCode w * 32 + x.toNat * 16)))
  | .vote g d a o w => some (enc64 g 0x63 d.code a.code 0 0 (modByte (ccCode w * 32 + o.code * 2)))
  | .redl g d a s => some (enc64 g 0x64 d.code a.code 0 0 (modByte (s.code * 4)))
  | .scanl g d a s x => some (enc64 g 0x65 d.code a.code 0 0 (modByte (s.code * 4 + x.toNat * 2)))
  | .topk g dv di vs n k t =>
    some (enc64 g 0x66 dv.code vs.code di.code (BitVec.ofNat 10 (n.val * 32 + k.toNat)) (modByte t.code))
  | .regroup g a => some (enc64 g 0x67 0 a.code 0 0 0)
  | .ld g d a o fs w sp na q =>
    some (encMem g 0x80 d.code a.code (match q with | none => 0#10 | some s => BitVec.ofNat 10 s.code) o
      (modByte (fs.toNat * 128 + w.code * 16 + sp.code * 4 + na.toNat * 2 + q.isSome.toNat)))
  | .st g a b o fs w sp rel sc =>
    some (encMem g 0x81 (BitVec.ofNat 10 sc.code) a.code b.code o
      (modByte (fs.toNat * 128 + w.code * 16 + sp.code * 4 + rel.toNat)))
  | .atom g d a b fs op o sc sp =>
    some (encB g 0x82 d.code a.code b (BitVec.ofNat 10 (o.code * 32 + sc.code * 4 + sp.code))
      (modByte (fs.toNat * 128 + op.code * 4)))
  | .red g a b fs op o sc sp =>
    some (encB g 0x83 0 a.code b (BitVec.ofNat 10 (o.code * 32 + sc.code * 4 + sp.code))
      (modByte (fs.toNat * 128 + op.code * 4)))
  | .fence g sc k => some (enc64 g 0x84 0 0 0 0 (modByte (sc.code * 16 + k.code * 4)))
  | .pref g a o lv => some (encMem g 0x85 0 a.code 0 o (modByte (lv.toNat * 4)))
  | .tcopy g d a b fs dir none => some (enc64 g 0x86 d.code a.code b.code 0 (modByte (fs.toNat * 128 + dir.code * 16)))
  | .tcopy g d a b fs dir (some (r, s)) =>
    some (enc64 g 0x86 d.code a.code b.code s.code (modByte (fs.toNat * 128 + dir.code * 16 + 8 + r.val)))
  | .copya g d a b fs dir sc =>
    some (enc64 g 0x87 d.code a.code b.code 0 (modByte (fs.toNat * 128 + dir.code * 16 + sc.code * 2)))
  | .srinit g a b c r => some (enc64 g 0x88 0 a.code b.code c.code (modByte r.val))
  | .srwait g a p e r => some (enc64 g 0x89 0 a.code 0 0 (modByte (p.toNat * 16 + e.toNat * 8 + r.val)))
  | .srpost g a e r => some (enc64 g 0x8A 0 a.code 0 0 (modByte (e.toNat * 8 + r.val)))
  | .rnmove g a b c fs sc => some (enc64 g 0x90 0 a.code b.code c.code (modByte (fs.toNat * 128 + sc.code * 16)))
  | .rnswap g a b c fs sc => some (enc64 g 0x91 0 a.code b.code c.code (modByte (fs.toNat * 128 + sc.code * 16)))
  | .rnalias g a b c fs sc => some (enc64 g 0x92 0 a.code b.code c.code (modByte (fs.toNat * 128 + sc.code * 16)))
  | .rnperm g n a b c fs sc =>
    some (enc64 g 0x93 n.code a.code b.code c.code (modByte (fs.toNat * 128 + sc.code * 16)))
  | .rndrop g a c fs sc => some (enc64 g 0x94 0 a.code 0 c.code (modByte (fs.toNat * 128 + sc.code * 16)))
  | .rnfresh g a c fs sc t =>
    some (enc64 g 0x95 0 a.code 0 c.code (modByte (fs.toNat * 128 + sc.code * 16 + t.code)))
  | .rnquery g d a fs => some (enc64 g 0x96 d.code a.code 0 0 (modByte (fs.toNat * 128)))
  | .mma g t a b none ck f =>
    some (enc64 g 0xA0 (t.setWidth 10) a.code b.code 1023 (modByte (ck.toNat * 128 + f.code * 16)))
  | .mma g t a b (some s) ck f =>
    some (enc64 g 0xA0 (BitVec.ofNat 10 (s.p.val * 256 + t.toNat)) a.code b.code s.pair.code
      (modByte (ck.toNat * 128 + f.code * 16 + s.sa.val * 4 + s.sb.val)))
  | .mmaJ g t m cv ck f =>
    some (enc64 g 0xA1 (t.setWidth 10) (BitVec.ofNat 10 (m.toNat * 16 + cv.val)) 0 1023
      (modByte (ck.toNat * 128 + f.code * 16)))
  | .accz g t n => some (enc64 g 0xA2 0 0 (t.setWidth 10) (n.setWidth 10) 0)
  | .accmv g d none t z fs => some (enc64 g 0xA3 d.code 0 (t.setWidth 10) 0 (modByte (fs.toNat * 128 + z.toNat * 32)))
  | .accmv g d (some a) t z fs =>
    some (enc64 g 0xA3 d.code a.code (t.setWidth 10) 0 (modByte (fs.toNat * 128 + 64 + z.toNat * 32)))
  | .accst g none a t p z s wf fs =>
    some (enc64 g 0xA4 0 a.code (t.setWidth 10) p.code
      (modByte (fs.toNat * 128 + z.toNat * 32 + s.toNat * 16 + wf.code * 4)))
  | .accst g (some x) a t p z s wf fs =>
    some (enc64 g 0xA4 x.code a.code (t.setWidth 10) p.code
      (modByte (fs.toNat * 128 + 64 + z.toNat * 32 + s.toNat * 16 + wf.code * 4)))
  | .accld g a t p s wf fs =>
    some (enc64 g 0xA5 0 a.code (t.setWidth 10) p.code (modByte (fs.toNat * 128 + s.toNat * 16 + wf.code * 4)))
  | .mwait g none => some (enc64 g 0xA6 0 0 0 0 0)
  | .mwait g (some t) => some (enc64 g 0xA6 0 0 (t.setWidth 10) 0 1)
  | .opfence g => some (enc64 g 0xA7 0 0 0 0 0)
  | .nrel g a fs => some (enc64 g 0xB0 0 a.code 0 0 (modByte (fs.toNat * 128)))
  | .nwait g d a p => some (enc64 g 0xB1 d.code a.code 0 0 (modByte p.toNat))
  | .nstat g d a fs => some (enc64 g 0xB2 d.code a.code 0 0 (modByte (fs.toNat * 128)))
  | .sortcnt g a fs sc => some (enc64 g 0xB3 0 a.code 0 0 (modByte (fs.toNat * 128 + sc.code * 16)))
  | .carsend g len row hdr buf fs s =>
    some (enc64 g 0xB4 len.code row.code hdr.code buf.code (modByte (fs.toNat * 128 + s.toNat * 64)))
  | .wopen g a ch fs => some (enc64 g 0xB8 0 a.code 0 (ch.setWidth 10) (modByte (fs.toNat * 128)))
  | .wred g a b c ch n fs =>
    some (enc64 g 0xB9 (ch.setWidth 10) a.code b.code c.code (modByte (fs.toNat * 128 + n.toNat)))
  | .wwait g d a ch => some (enc64 g 0xBA d.code a.code 0 (ch.setWidth 10) 0)
  | .wcorr g d a b ch => some (enc64 g 0xBB d.code a.code b.code (ch.setWidth 10) 0)
  | .wclose g ch fs => some (enc64 g 0xBC 0 0 0 (ch.setWidth 10) (modByte (fs.toNat * 128)))
  | .attn g a fs sc => some (enc64 g 0xC0 0 a.code 0 0 (modByte (fs.toNat * 128 + sc.code * 16)))
  | .kvappend g t blk k v fs sc dim =>
    some (enc64 g 0xC1 t.code blk.code k.code v.code (modByte (fs.toNat * 128 + sc.code * 16 + dim.code)))
  | .kvxlate g d dir va fs => some (enc64 g 0xC2 d.code dir.code va.code 0 (modByte (fs.toNat * 128)))
  | .pfxfind g d a b tab fs n =>
    some (enc64 g 0xC3 d.code a.code b.code tab.code (modByte (fs.toNat * 128 + n.val * 32)))
  | .pfxins g h blk tab fs sc =>
    some (enc64 g 0xC4 0 h.code blk.code tab.code (modByte (fs.toNat * 128 + sc.code * 16)))
  | _ => none

/-- A 32-bit word of R93. -/
def shortWord (op : BitVec 6) (d a : Reg) (i : BitVec 4) : Word := i ++ a.code ++ d.code ++ op ++ 0#2

/-- The word of a short instruction (R97); `none` for a term of another kind. -/
def Instr.short : Instr → Option Word
  | .nopShort => some 0#32
  | .movShort d a => some (shortWord 0x01 d a 0)
  | .moviShort d imm => some (imm ++ d.code ++ 0x02#6 ++ 0#2)
  | .iaddShort d a => some (shortWord 0x04 d a 0)
  | .isubShort d a => some (shortWord 0x05 d a 0)
  | .iaddImmShort d a i => some (shortWord 0x06 d a i)
  | .isubImmShort d a i => some (shortWord 0x07 d a i)
  | .ishlImmShort d a i => some (shortWord 0x08 d a i)
  | .ishrImmShort d a i => some (shortWord 0x09 d a i)
  | .ishraImmShort d a i => some (shortWord 0x0A d a i)
  | .ishlImm16Short d a i => some (shortWord 0x0B d a i)
  | .ishrImm16Short d a i => some (shortWord 0x0C d a i)
  | .ishraImm16Short d a i => some (shortWord 0x0D d a i)
  | .imulShort d a => some (shortWord 0x0E d a 0)
  | .andShort d a => some (shortWord 0x10 d a 0)
  | .orShort d a => some (shortWord 0x11 d a 0)
  | .xorShort d a => some (shortWord 0x12 d a 0)
  | .notShort d a => some (shortWord 0x13 d a 0)
  | .iminShort d a => some (shortWord 0x14 d a 0)
  | .imaxShort d a => some (shortWord 0x15 d a 0)
  | .faddShort d a => some (shortWord 0x18 d a 0)
  | .fsubShort d a => some (shortWord 0x19 d a 0)
  | .fmulShort d a => some (shortWord 0x1A d a 0)
  | .fminShort d a => some (shortWord 0x1B d a 0)
  | .fmaxShort d a => some (shortWord 0x1C d a 0)
  | .hadd2Short d a => some (shortWord 0x1D d a 0)
  | .hmul2Short d a => some (shortWord 0x1E d a 0)
  | .ldSB32Short d a i => some (shortWord 0x28 d a i)
  | .stSB32Short d a i => some (shortWord 0x29 d a i)
  | .ldSB64Short d a i => some (shortWord 0x2A d a i)
  | .stSB64Short d a i => some (shortWord 0x2B d a i)
  | _ => none

/-- The words of a well-formed instruction; no word for a term that has no encoding. -/
def encode (i : Instr) : List Word :=
  match i.short with
  | some w => [w]
  | none =>
    match i.fields with
    | some f => f.words
    | none => []

end Sys2Proof
end

