-- ==== Sys2Proof/Machine/State.lean ====
section
/-! DEFINITION. The state of the part as plain data: every register, table, queue and mark that the spec names, the
model's own bookkeeping (the agenda of turns, the counter of the free values, the clock), the reasons for which a step can
stop, and the state after reset. -/

namespace Sys2Proof.Machine

open Sys2Proof

/-- A sparse table of values by number, in strictly rising order of the numbers, listing no default value. -/
abbrev Sparse (α : Type) := List (Nat × α)

/-- Memory: the bytes of every storage of the part by one address (see `Sys2Proof.Machine.tierBase`), strictly rising, and
listing no byte equal to what an unlisted address reads as. -/
abbrev Memory := List Host.Cell

/-! ## Fibres and warps (02, 03) -/

/-- A condition-code register (R64). -/
structure CC where
  s : Bool := false
  z : Bool := false
  c : Bool := false
  v : Bool := false
  deriving DecidableEq, Repr, Inhabited

/-- The role of a warp (R44). -/
inductive Role where
  | general | copy | matrix | vector
  deriving DecidableEq, Repr, Inhabited

/-- A link entry of a fibre's link stack (R58). -/
structure Link where
  pc : VAddr
  k : Nat
  nc : Nat
  deriving DecidableEq, Repr, Inhabited

/-- A place in the code: a clause header, the index of an instruction in the clause, and whether the clause has already
started there, so that it goes on with no new test of its wait mask and merges with no fibre at its header (R36, R81). -/
structure Pos where
  hdr : VAddr
  idx : Nat := 0
  mid : Bool := false
  deriving DecidableEq, Repr, Inhabited

/-- What a parked fibre waits for (R37, R371). -/
inductive Wait where
  /-- BARW or BARS: the phase of the barrier at which the fibre armed (R113). -/
  | barrier (bar : Nat) (phase : Nat)
  /-- RJWAIT on a rejoin mask (R38). -/
  | rejoin (jm : Nat)
  /-- WAITW: comparison, space, scope, value and address, and the earliest time of the next reading (R116). -/
  | word (cmp : WaitCmp) (space : Space3) (scope : Scope) (value : Word) (addr : Nat) (recheckAt : Nat)
  /-- NWAIT on a record; `dst` is the register position of the result, if it is kept (R262). -/
  | node (prov : Bool) (addr : VAddr) (dst : Option Nat)
  /-- WWAIT on a round of a channel (R318). -/
  | wadi (ch : Nat) (round : Word) (dst : Option Nat)
  /-- WCORR on a round of a channel, until the time `until_` (R319). -/
  | corr (ch : Nat) (round : Word) (until_ : Nat) (dst : Option Nat)
  /-- YIELD with a pre-emption request pending (R117). -/
  | yielding
  /-- REGROUP: arrived in the collective with this key (R40). -/
  | regroup (key : Word)
  /-- CVSIGN on a full convergence register, with the fragments that it will sign (R39). -/
  | sign (cv : Nat) (a b : List Nat)
  /-- An instruction in mid-clause that may not issue yet: for want of room in the residual reservation (R139), for a register
  whose access waits for service (R143), or for a pending guard (R105); with the no-defer bit of its clause. -/
  | stalled (i : Instr) (noDefer : Bool)
  deriving DecidableEq, Repr, Inhabited

/-- The parks that are no blocking point and no regroup collective: a trap does not end them (R122, R357). -/
def Wait.isOther : Wait → Bool
  | .stalled .. | .sign .. => true
  | _ => false

/-- A parked fibre: what it waits for, and its blocking instruction, at which it resumes after a trap (R122, R361). -/
structure Park where
  wait : Wait
  at_ : Pos
  deriving DecidableEq, Repr, Inhabited

/-- One fibre, in its warp (R25, R55 to R59, R64, R67, R79, R87, R113). -/
structure Fibre where
  /-- Physical lane, 0 to 31. -/
  lane : Nat
  /-- `%fibre` (R26, R27). -/
  id : Nat
  pos : Pos
  park : Option Park := none
  /-- Window base and frame size (R55). -/
  b : Nat := 0
  n : Nat := 0
  /-- The link stack, newest entry first (R58). -/
  links : List Link := []
  ksp : Word := 0
  depth : Word := 0
  c0 : CC := {}
  c1 : CC := {}
  c2 : CC := {}
  c3 : CC := {}
  /-- Completion flags f0 to f11, by number (R87). -/
  flags : Sparse Nat := []
  mcls : BitVec 2 := 1
  mdl : BitVec 12 := 0xFFF
  rngKey : BitVec 128 := 0
  rngCtr : DWord := 0
  /-- Ring position p at key p, fixed register K at key N + K (R55, R56). -/
  regs : Sparse Word := []
  /-- Armed barriers with the phase at which the fibre armed (R113). -/
  armed : List (Nat × Nat) := []
  /-- A trap has taken the fibre out of its wait at this barrier and phase, and at this place (R122). -/
  barred : Option (Nat × Nat × Pos) := none
  /-- The later of the moment the fibre's bundle became ready and the end of its last hold (R31), in clocks. -/
  waitFrom : Nat := 0
  /-- Whether the fibre stood in a ready bundle when readiness was last examined (R31). -/
  wasReady : Bool := false
  deriving DecidableEq, Repr, Inhabited

/-- A clause that a bundle has started: its lanes, header and words as fetched, and how far it has issued (R82, R86). -/
structure Active where
  lanes : List Nat
  hdr : VAddr
  header : DWord
  words : List Word
  idx : Nat := 0
  /-- Words already issued. -/
  off : Nat := 0
  /-- Lanes whose command or request the instruction reached has already been enqueued, while the queue has no room for the
  others (R21, R216, R296), and the number of that issue. -/
  sent : List Nat := []
  part : Option Nat := none
  deriving DecidableEq, Repr, Inhabited

/-- A captured source word of a residual entry, for one fibre (R128). -/
structure Capture where
  src : Nat
  lane : Nat
  value : Word
  deriving DecidableEq, Repr, Inhabited

/-- The service fields that one fibre of an entry carries (R128, R200). -/
structure Service where
  lane : Nat
  mcls : BitVec 2
  mdl : BitVec 12
  deriving DecidableEq, Repr, Inhabited

/-- An entry of a warp's residual queue (R128), or a re-injected operation in flight (R144, R376). -/
structure Entry where
  /-- Its number, which no other entry of the queue has. -/
  seq : Nat
  /-- Its place in program order, where that is not its number: a replayed operation in flight keeps the place of the entry
  that it replays (R131). -/
  ord : Option Nat := none
  instr : Instr
  words : List Word
  hdr : VAddr
  idx : Nat
  base : Nat
  /-- The window base of each deferred lane whose base is not `base`: only in a handler, whose bundles form by PC alone
  (R358). -/
  laneBase : List (Nat × Nat) := []
  /-- The deferred fibres, by physical lane; `left` are those for which it has not yet replayed. -/
  mask : List Nat
  left : List Nat
  gpend : List Nat
  caps : List Capture
  flag : Option Nat
  service : List Service
  /-- An operation in flight that issues again first, with no second flag increment (R376). -/
  inflight : Bool := false
  /-- Destinations that were operands of an open matrix operation when the entry was appended: lane and position (R245). -/
  spoil : List (Nat × Nat) := []
  /-- Lanes whose access was known at append to count on no flag (R207). -/
  uncounted : List Nat := []
  deriving DecidableEq, Repr, Inhabited

/-- A trap's cause (R355, R360). -/
structure Cause where
  cls : Nat
  sub : Nat := 0
  detail : Nat := 0
  addr : Nat := 0
  deriving DecidableEq, Repr, Inhabited

/-- A fault that an entry raised at replay, waiting for the warp's next issue point (R142). -/
structure ReplayTrap where
  cause : Cause
  /-- The entry, if the fault is an entry's. -/
  seq : Option Nat
  lanes : List Nat
  deriving DecidableEq, Repr, Inhabited

/-- Handler mode of a warp (R357, R362): the frame's address, its queue as (sequence, offset) by frame index, the number
from which issues and appends belong to the handler, whether replays stop until TRET, the lanes live at entry with their
frame sizes, and the lanes that run the handler. -/
structure Handler where
  frame : Nat
  queue : List (Nat × Nat)
  since : Nat
  stopReplays : Bool
  live : List (Nat × Nat)
  lanes : List Nat
  deriving DecidableEq, Repr, Inhabited

/-- A rejoin mask (R38): the enrolled and the arrived lanes. -/
structure JMask where
  enr : List Nat := []
  arr : List Nat := []
  deriving DecidableEq, Repr, Inhabited

/-- A warp in its slot: slot number 48 × core + 12 × quadrant + slot (R19, R21). -/
structure Warp where
  wid : Nat
  gid : Nat
  /-- `%warp`, the index in the group. -/
  idx : Nat
  /-- The clock of its placement (R32). -/
  age : Nat
  role : Role
  /-- First register of the warp's run in its quadrant's slice (R50). -/
  run : Nat
  /-- Physical lane of each virtual lane (R42). -/
  remap : List Nat
  fibres : List Fibre
  /-- Lanes of the holding bundle, and the clock from which it holds the warp (R31, R34). -/
  holder : Option (List Nat) := none
  heldFrom : Nat := 0
  /-- The bundle that last gave the warp up while no other has taken it, with the clocks that it held the warp (R34). -/
  last : Option (List Nat × Nat) := none
  /-- Clause wait of the last clause ended: its exempt and yield bits (R35, R88). -/
  exempt : Bool := false
  offered : Bool := false
  fair : Nat := 4
  /-- Clocks for which a startable clause was passed over, and the priority of R32. -/
  passed : Nat := 0
  prio : Bool := false
  /-- `%mode` in force and as last written: bit 0 defer, bit 1 policy (R68). -/
  mode : BitVec 2 := 0
  modeNext : BitVec 2 := 0
  fpst : BitVec 5 := 0
  /-- `%cyc` is the clock plus this, modulo 2^64 (R67). -/
  cycOff : Nat := 0
  tmcmp : Word := 0
  phlim : Word := 0
  /-- `%phcnt`: held while the limit is 0, otherwise counted from the clock `phFrom` (R121). -/
  phHeld : Word := 0
  phFrom : Nat := 0
  spill : VAddr := 0
  spillsz : Word := 0
  jms : Sparse JMask := []
  queue : List Entry := []
  active : Option Active := none
  vec : VAddr := 0
  enMask : BitVec 10 := 0
  holdTraps : Bool := false
  handler : Option Handler := none
  replayTrap : Option ReplayTrap := none
  deriving DecidableEq, Repr, Inhabited

/-! ## Groups (R39, R113, R223) -/

/-- A barrier (R113). -/
structure Barrier where
  phase : Nat := 0
  arrivals : Nat := 0
  expect : Nat := 0
  deriving DecidableEq, Repr, Inhabited

/-- The two sides of a stage: phase bits and arrival counts (R223). -/
structure Stage where
  full : Bool := false
  empty : Bool := false
  fullCnt : Nat := 0
  emptyCnt : Nat := 0
  deriving DecidableEq, Repr, Inhabited

/-- A stage ring (R223). -/
structure Ring where
  base : Nat := 0
  size : Nat := 0
  pf : Nat := 0
  pe : Nat := 0
  /-- One per stage; none while the ring is uninitialised. -/
  stages : List Stage := []
  deriving DecidableEq, Repr, Inhabited

/-- A signature on a convergence register: the fibre's warp and lane and its fragments, as register positions (R276). -/
structure Signature where
  fid : Nat
  wid : Nat
  lane : Nat
  vlane : Nat
  a : List Nat
  b : List Nat
  /-- The scale pair (R273). -/
  sc : List Nat := []
  deriving DecidableEq, Repr, Inhabited

/-- The MMA.j that armed a convergence register, and the fibres that issued it: warp and `%fibre` (R277). -/
structure Arming where
  tile : Nat
  m64 : Bool
  fmt : MmaFmt
  ck : Bool
  by_ : List (Nat × Nat)
  deriving DecidableEq, Repr, Inhabited

/-- A convergence register (R39): size 0 while unset. -/
structure Conv where
  size : Nat := 0
  sigs : List Signature := []
  arming : Option Arming := none
  deriving DecidableEq, Repr, Inhabited

/-- The storage that a group holds on one core: its scratchpad granules of 8 KiB in share order, and its tiles (R49). -/
structure Share where
  core : Nat
  granules : List Nat
  tiles : List Nat
  deriving DecidableEq, Repr, Inhabited

/-- The span from an operation's operand-ready point to the fibre's matching MWAIT, OPFENCE or join (R245): the fibre, its
core and slot, the tiles, the operand registers as positions, and whether a forbidden access has made the tiles
unpredictable. -/
structure TileUse where
  fid : Nat
  wid : Nat
  core : Nat
  cv : Option Nat
  tiles : List Nat
  regs : List Nat
  spoiled : Bool := false
  deriving DecidableEq, Repr, Inhabited

/-- A resident group. -/
structure Group where
  gid : Nat
  ctx : Nat
  node : VAddr
  index : Nat
  /-- Groups of the grid, and fibres at launch. -/
  ngroup : Nat
  size : Nat
  depth : Nat
  forkCtr : Nat
  warps : Nat
  a : Nat
  f : Nat
  resid : Nat
  scratch : Nat
  shares : List Share
  bars : Sparse Barrier := []
  rings : Sparse Ring := []
  convs : Sparse Conv := []
  /-- The REGROUP that collects on a core: core, place, and the clock of the last arrival (R40, R43). -/
  regroups : List (Nat × Pos × Nat) := []
  uses : List TileUse := []
  /-- Its record did not fit in the save area, so it stays until the next request or drain (R370, R391). -/
  noRoom : Bool := false
  deriving DecidableEq, Repr, Inhabited

/-! ## Operations in flight (R87, R207) -/

/-- A copy of rows: TCOPY, COPYA, and the copy of a COPY node (R216 to R222). With `.s.rec`, `row0` is the first row index
within the expert, and once the record has been read the number of rows that lie inside it (R220). -/
structure CopyCmd where
  dir : CopyDir
  dst : Nat
  src : Nat
  rows : Nat
  rowBytes : Nat
  dstPitch : Nat
  srcPitch : Nat
  row0 : Nat := 0
  post : Option (Nat × Nat) := none
  /-- A verify copy of a COPY node, and the CRC-32C of its source bytes as read (R254). -/
  verify : Bool := false
  crc : Nat := 0
  /-- The bytes that are already written and counted, by their number in the command, with the source bytes as read (R216,
  R222, R240). -/
  moved : List (Nat × Byte) := []
  deriving DecidableEq, Repr, Inhabited

/-- A rename as the walker receives it (R194, R228); `idx` holds RNPERM's table. -/
inductive Rename where
  | move (dst src len : Nat)
  | swap (a b len : Nat)
  | copyLeaves (dst src len : Nat)
  | perm (dst src : Nat) (idx : List Nat)
  | drop (va len : Nat)
  | fresh (va len : Nat) (tier : FreshTier)
  deriving DecidableEq, Repr, Inhabited

/-- A member of a KVXLATE: fibre, lane, virtual lane, its source words and its destinations (R329). -/
structure KvMember where
  fid : Nat
  lane : Nat
  vlane : Nat
  srcs : List Word
  dst : List Nat
  mcls : BitVec 2
  mdl : BitVec 12
  base : Nat := 0
  deriving DecidableEq, Repr, Inhabited

/-- A matrix operation in its queue (R287). -/
inductive MatOp where
  /-- MMA, or with `side` 2 or 4 a joint operation: the fragments of each signer or member (R269, R277). -/
  | mma (tile : Nat) (fmt : MmaFmt) (ck : Bool) (side : Nat) (frags : List Signature) (scale : Option MmaScale)
  | accz (tile count : Nat)
  /-- ACCMV: each member's destinations, and once the tile has been read its words; `.amax`'s address and value. -/
  | accmv (tile : Nat) (z : Bool) (dst : List (Nat × List Nat)) (amax : Option Nat) (words : List (Nat × List Word)) (m : Word)
  /-- ACCST: once the tile has been read, the bytes to be written by their addresses. -/
  | accst (tile : Nat) (z : Bool) (s : Bool) (wf : TileFmt) (addr : Nat) (pitch : Nat) (amax : Option Nat)
      (bytes : List (Nat × Byte)) (m : Word)
  | accld (tile : Nat) (s : Bool) (wf : TileFmt) (addr : Nat) (pitch : Nat)
  deriving DecidableEq, Repr, Inhabited

/-- What an operation does when it is performed. -/
inductive OpKind where
  /-- A load: space, address in it, width, destination positions, `.na`, `.acq` (R208). -/
  | load (space : Space) (addr : Nat) (width : Width) (dst : List Nat) (na : Bool) (acq : Option Scope)
  /-- A store: the bytes that it writes, at offsets from its address (R209). -/
  | store (space : Space) (addr : Nat) (width : Nat) (bytes : List (Nat × Byte)) (rel : Bool)
  /-- An atomic or a reduction: operand words; destinations of an atomic (R211, R213). -/
  | atomic (space : Space) (addr : Nat) (op : AtomOp) (operand : List Word) (order : MemOrder) (dst : Option (List Nat))
  | copy (cmd : CopyCmd)
  | rename (r : Rename)
  /-- RNQUERY, NSTAT, KVXLATE and PFXFIND: a result computed when it lands (R229, R262, R329, R331). -/
  | query (va : VAddr) (dst : List Nat)
  | nstat (addr : VAddr) (dst : List Nat)
  | kvxlate (dir : VAddr) (members : List KvMember)
  /-- PFXFIND of one member: hash and parent, token ids' offset, table, destinations, and whether it is the instruction's
  lowest member. -/
  | pfxfind (hash : List Word) (tokens : Nat) (tab : VAddr) (dst : List Nat) (cn : Nat) (lead : Bool)
  | nrel (addr : VAddr)
  /-- SORTCNT: its request block once the engine has read it; once taken, the output bytes still to be written, the status
  word, the completion word's address, the biases to be published with their page and the number of pairs, and the page whose
  leaf the request has replaced (R290 to R294). -/
  | sort (block : VAddr) (req : List Byte) (out : List (Nat × Byte)) (status : Nat) (done : Nat)
      (bias : Option (Nat × List Word × Nat)) (page : Option Nat)
  /-- ATTN, with its request block once the engine has taken it (R333). -/
  | attn (block : VAddr) (req : List Byte)
  | caravan (space : Space) (row : Nat) (len : Nat) (header : DWord) (desc : VAddr) (bytes : List Byte) (attempt : Nat)
  /-- WRED holds the words that its members supply for each element, none where no member does (R309). -/
  | wopen (ch : Nat) (cfg : VAddr)
  | wred (ch : Nat) (round : Word) (id : Nat) (elems : List (Option Word))
  | wclose (ch : Nat)
  | kvappend (t : Word) (blk : VAddr) (k v : List Word) (dim : KvD)
  | pfxins (hash : DWord) (blk tab : VAddr)
  | matrix (m : MatOp)
  deriving DecidableEq, Repr, Inhabited

/-- How far an operation has gone. -/
inductive OpStage where
  /-- In its queue or on its way. -/
  | issued
  /-- Taken by its engine, or applied by the walker. -/
  | started
  /-- Every write performed, waiting only for its completion step. -/
  | done
  deriving DecidableEq, Repr, Inhabited

/-- An operation in flight: one for each executing fibre of a long-latency instruction, or a matrix operation. -/
structure Op where
  id : Nat
  /-- The issue that made it, shared by the fibres of one issue, and for a replay the place of its entry in program order. -/
  issue : Nat
  entry : Option Nat := none
  /-- The fibre: group and `%fibre`; an operation of the walker for a node has group 0 and the node's record. -/
  gid : Nat
  fid : Nat
  wid : Nat
  lane : Nat
  vlane : Nat
  core : Nat
  ctx : Nat
  node : VAddr
  flag : Option Nat
  scope : Scope
  mcls : BitVec 2
  mdl : BitVec 12
  pos : Pos
  base : Nat
  instr : Instr
  words : List Word
  /-- The source words as captured, for the replay queue of R144. -/
  srcs : List Word
  /-- The time at which the request was made (R200). -/
  since : Nat
  /-- The clock at which the operation was issued. -/
  clock : Nat
  stage : OpStage := .issued
  /-- The fault record that the access waits for (R378), and whether its bundle parks. -/
  record : Option Nat := none
  parks : Bool := false
  /-- Whether its access is in flight in deferring mode (R378, R379). -/
  deferring : Bool := false
  /-- The pages that the operation has translated: first virtual byte, first physical byte, key (R197). -/
  pins : List (Nat × Nat × Nat) := []
  /-- As `pins`, for the pages that an engine writes. -/
  wpins : List (Nat × Nat × Nat) := []
  /-- The fibres whose operation a matrix operation is (R284). -/
  fids : List Nat := []
  /-- The die whose engines serve it (R394). -/
  server : Nat := 0
  /-- Destinations that were operands of an open matrix operation at issue: `%fibre` and position (R245). -/
  spoil : List (Nat × Nat) := []
  /-- The clock at which a request for an engine of a die arrived in its queue (R296, R336). -/
  arrived : Option Nat := none
  /-- A caravan that its port is writing: its slot's address, the fill word as read, and the bytes still to be written (R240,
  R301). -/
  drain : Option (Nat × Nat × List (Nat × Byte)) := none
  kind : OpKind
  deriving DecidableEq, Repr, Inhabited

/-! ## Contexts and nodes (09, 12, 22) -/

/-- A page that a running node has staged: its page address, its pre-image frame (tier and number), key and table level
entry before staging (R256). -/
structure Staged where
  node : VAddr
  page : Nat
  tier : Nat
  frame : Nat
  oldLeaf : DWord
  deriving DecidableEq, Repr, Inhabited

/-- A shadow of one table page or the host image of one frame (R384): first physical byte and bytes. -/
structure Image where
  addr : Nat
  bytes : List Byte
  deriving DecidableEq, Repr, Inhabited

/-- A context (R25): its tables, pools and control. -/
structure Ctx where
  num : Nat
  /-- Physical address of the level-0 table (R190). -/
  root : Nat
  /-- Key identity that the context's fresh frames take (R194, R201). -/
  key : Nat
  nodeBase : Nat
  nodeSize : Nat
  /-- Free frames of tiers 0 and 1 (R192). -/
  pool0 : List Nat
  pool1 : List Nat
  /-- Reference counts of frame units, by tier × 2^32 + frame (R192). -/
  counts : Sparse Nat
  /-- Free table pages of the reserve, as physical addresses (R417). -/
  reserve : List Nat
  staged : List Staged
  /-- Grants of die scratchpad in 16 MiB units: die, and the units held (R17). -/
  grants : List (Nat × List Nat)
  /-- `.k` area base that the runtime gives a warp slot, by slot number, for this context (R63). -/
  spillBase : Sparse Nat
  /-- Control block state (R369, R418). -/
  state : Nat := 0
  evicted : Nat := 0
  restored : Nat := 0
  /-- Bytes of the save area already used (R370, R418). -/
  saveUsed : Nat := 0
  /-- Next entry of the KV scrub list that each die takes up (R401). -/
  scrubAt : Sparse Nat := []
  shadows : List Image := []
  images : List Image := []
  deriving DecidableEq, Repr, Inhabited

/-- Memory with the marks of its keys as it stood at one moment (R101). -/
structure MemImage where
  mem : Memory
  unitKey : Sparse Nat
  scrambled : List Nat
  deriving DecidableEq, Repr, Inhabited

/-- States of a node (R249). -/
inductive NodeState where
  | waiting | ready | running | complete | committed | failed | killed
  deriving DecidableEq, Repr, Inhabited

/-- Work of a node on a slot: core number, or 512 + die for an engine slot; when its last work there ended, none while it
goes on (R393). -/
structure Work where
  slot : Nat
  first : Nat
  last : Option Nat
  deriving DecidableEq, Repr, Inhabited

/-- The walker's own copy of a node (R247, R251). -/
structure Node where
  addr : VAddr
  ctx : Nat
  state : NodeState
  code : Nat := 0
  u : Bool := false
  bad : Bool := false
  depth : Nat := 0
  parent : Option VAddr := none
  children : Nat := 0
  /-- The record as read once (R251); empty while it has not been read. -/
  record : List Byte := []
  /-- Groups placed so far and groups retired (R48, R52). -/
  placed : Nat := 0
  retired : Nat := 0
  /-- The pred word as the walker left it at or after a terminal transition (R252). -/
  leftPred : Nat := 0
  /-- Successors decremented (R258, R259), and predecessors that have decremented it. -/
  released : List VAddr := []
  preds : List VAddr := []
  works : List Work := []
  /-- Order in which the node became ready (R52, R394). -/
  readyAt : Nat := 0
  attempts : Nat := 0
  /-- A COPY node's kvcheck has been made (R338). -/
  checked : Bool := false
  /-- A placement of the node's next group is to be tried (R53). -/
  tryPlace : Bool := false
  /-- Memory as it stood when the node was released, and when it started to run (R101). -/
  codeRel : Option MemImage := none
  codeRun : Option MemImage := none
  deriving DecidableEq, Repr, Inhabited

/-- A saved group (R372): its record's place, and the architectural content that the record carries. -/
structure SavedGroup where
  ctx : Nat
  /-- Where the record stands: virtual address in the context's save area, or none for the die's scan save area. -/
  at_ : Option Nat
  die : Nat
  /-- Physical address and length of the record. -/
  addr : Nat
  len : Nat
  group : Group
  warps : List Warp
  /-- Scratchpad and tiles in offset order: bytes that differ from 0. -/
  scratch : Memory
  tiles : Memory
  /-- Set when a scan drain evicted it: the core it leaves (R391). -/
  drained : Option Nat
  /-- The fault record that the reading of the saved record waits for (R373). -/
  record : Option Nat := none
  deriving DecidableEq, Repr, Inhabited

/-! ## Caches, faults and marks (09, 24) -/

/-- A line of a core's L1: physical line address and its 128 bytes as last filled (R188, R234). A line that a `.k` store
has written carries the owner tag of that context, as context + 1; 0 without one (R202). -/
structure L1Line where
  core : Nat
  addr : Nat
  key : Nat
  bytes : List Byte
  owner : Nat := 0
  deriving DecidableEq, Repr, Inhabited

/-- A line of a core's instruction cache: the context and node whose clause it holds, the virtual address of the line and
its 64 bytes as fetched (R20, R101). -/
structure ILine where
  core : Nat
  ctx : Nat
  node : VAddr
  addr : Nat
  bytes : List Byte
  deriving DecidableEq, Repr, Inhabited

/-- A holder of cached translations: a core, a die, or a hub's ATS cache (R193, R197, R339). -/
inductive TlbPlace where
  | core (n : Nat) | die (n : Nat) | hub (n : Nat)
  deriving DecidableEq, Repr, Inhabited

/-- A cached translation: the leaf of a page of a context, and its level (R190, R193). -/
structure TlbEntry where
  place : TlbPlace
  ctx : Nat
  page : Nat
  leaf : DWord
  level : Nat
  deriving DecidableEq, Repr, Inhabited

/-- A fault record (R379). -/
structure FaultRec where
  id : Nat
  ctx : Nat
  /-- The page; of a `.d` address, which has none, a number of its own (R379, R398; log 94). -/
  page : Nat
  cause : Nat
  access : Nat
  addr : Nat
  engine : Bool
  deferred : Bool
  key : Nat
  place : Nat
  node : VAddr
  waiters : Nat
  level : Nat
  /-- The time of its posting (R380). -/
  since : Nat
  /-- The event that resolves the record has come about (R380). -/
  due : Bool := false
  /-- The bundle that waits at a clause start for its fetch: warp and lanes (R378). -/
  fetchers : List (Nat × List Nat)
  deriving DecidableEq, Repr, Inhabited

/-! ## Cores, stacks and the scan (01, 21, 25) -/

/-- A core's own registers and figures (R11, R19, R20, R50, R54, R67, R216, R397). -/
structure Core where
  quadPtr : Nat := 0
  fragw : Word := 0
  mdmiss0 : Word := 0
  mdmiss1 : Word := 0
  mdmiss2 : Word := 0
  mdmiss3 : Word := 0
  copyBytes : DWord := 0
  present : Bool := true
  inService : Bool := true
  draining : Bool := false
  overdue : Bool := false
  /-- Quadrants fused off, and registers lost in each quadrant's slice. -/
  fusedQuads : List Nat := []
  lostRegs : Sparse Nat := []
  scratchKiB : Nat := 3072
  tiles : Nat := 256
  /-- Start of the drain of the last passed scan (R394). -/
  passedAt : Nat := 0
  deriving DecidableEq, Repr, Inhabited

/-- What a scan controller does (R390). -/
inductive ScanPhase where
  | idle
  | draining (from_ : Nat)
  | testing (from_ until_ : Nat)
  deriving DecidableEq, Repr, Inhabited

/-- The scan controller of a die: its slot, 0 to 63 or 64 for the engine slot (R390), its save area (R391), and the
service of its engine slot. -/
structure Scan where
  slot : Nat := 0
  phase : ScanPhase := .idle
  saveBase : Nat := 0
  engInService : Bool := true
  engOverdue : Bool := false
  engPassedAt : Nat := 0
  /-- The core to be scanned next after an uncorrectable error (R400). -/
  next : Option Nat := none
  deriving DecidableEq, Repr, Inhabited

/-- A memory stack (R13, R14, R344, R399). -/
structure MemStack where
  /-- CACHE mode, or PEER (R14). -/
  cache : Bool := false
  /-- Rows (bank, row) in the two filters (R344). -/
  need32 : List (Nat × Nat) := []
  need64 : List (Nat × Nat) := []
  hot : Bool := false
  /-- Time of the last refresh of each row that has been refreshed: bank, row, time. -/
  refreshed : List (Nat × Nat × Nat) := []
  deriving DecidableEq, Repr, Inhabited

/-! ## The Wadi (18) -/

/-- A round buffered at a Wadi node (R312, R313). -/
structure Round where
  round : Word
  vector : List Word
  ids : List Nat
  /-- The time of its first arrival. -/
  first : Nat
  expDie : Bool := false
  expRoot : Bool := false
  deriving DecidableEq, Repr, Inhabited

/-- A partial, packet or contribution in transit to a Wadi node (R310 to R314). -/
structure Packet where
  id : Nat
  /-- The level that sent it: 0 to 7 a die node, 8 the device root, 100 + m the device root of module m. -/
  src : Nat
  /-- The level it travels to. -/
  dest : Nat
  round : Word
  vector : List Word
  ids : List Nat
  late : Bool
  expDie : Bool := false
  expRoot : Bool := false
  /-- It has reached its node and waits at the input (R312). -/
  waiting : Bool := false
  deriving DecidableEq, Repr, Inhabited

/-- A node of a channel at one level: last forwarded round, none before the first arrival (R312). -/
structure WNode where
  lvl : Nat
  last : Option Word := none
  rounds : List Round := []
  /-- The contributions that have arrived at a die node for rounds that it has not forwarded, as round and id (R311). -/
  seen : List (Word × Nat) := []
  /-- The time of the first arrival of each round that it has not forwarded and for which an arrival has waited (R312). -/
  firsts : List (Word × Nat) := []
  /-- The clock of the last arrival taken, and its id (R313). -/
  taken : Option (Nat × Nat) := none
  deriving DecidableEq, Repr, Inhabited

/-- An open channel (R306 to R317). -/
structure Chan where
  ch : Nat
  ctx : Nat
  op : Nat
  span : Nat
  top : Nat
  elems : Nat
  dieBudget : Nat
  devBudget : Nat
  fabBudget : Nat
  slots : Nat
  result : Nat
  corr : Nat
  cap : Nat
  word : Nat
  map : List Nat
  block : List Byte
  nodes : List WNode
  transit : List Packet
  rejects : Nat := 0
  /-- Rounds whose record has been written, newest first, with status and ids (R315, R318). -/
  written : List (Word × Word × List Nat)
  excluded : List Nat := []
  /-- Modules whose block has been compared (R308). -/
  compared : List Nat := []
  closing : Bool := false
  deriving DecidableEq, Repr, Inhabited

/-! ## The device (21, 25) -/

/-- Where boot stands (R351). -/
inductive BootPhase where
  | before | stopped | hold | released | ready
  deriving DecidableEq, Repr, Inhabited

/-- Device-wide registers and units. -/
structure Device where
  boot : BootPhase := .before
  bootFailed : Bool := false
  measures : List (List Byte) := List.replicate 16 (List.replicate 64 0)
  modnum : Nat := 0
  tiermode : BitVec 12 := 0
  opcmd : Nat := 7
  opstate : Nat := 7
  opTarget : Nat := 7
  busy : Bool := false
  result : Nat := 0
  trip : Bool := false
  /-- The change under way was commanded during the trip, which it ends (R346). -/
  tripEnds : Bool := false
  /-- Temperatures of the eight core dies and the two hub dies, in °C (R10, R346, R353). -/
  temps : List Nat := List.replicate 10 25
  opsOut : List Nat := []
  /-- Bit 0 of MREVIEW and of ATTCMD, as last written (R6, R352). -/
  mreview : Bool := false
  attcmd : Bool := false
  reviewBusy : Bool := false
  reviewResult : Nat := 0
  reviewReport : List Word := List.replicate 8 0
  keyret : Nat := 0
  invctx : Nat := 0
  invva : Word := 0
  invvah : Word := 0
  invpages : Word := 0
  invdone : Bool := false
  /-- The invalidation that runs and those that wait: context, first page, pages (0 for all), and the operations in flight
  that translated through an entry that it dropped (R354). -/
  invs : List (Nat × Nat × Nat × List Nat) := []
  elog : DWord := 0
  route0 : List Byte := List.replicate 64 0xFF
  route1 : List Byte := List.replicate 64 0xFF
  links : List Nat := []
  nonce : List Byte := List.replicate 32 0
  attbuf : DWord := 0
  /-- The nonce and the buffer that the attestation that runs took with its request (R349). -/
  attNonceIn : List Byte := List.replicate 32 0
  attBufIn : DWord := 0
  attBusy : Bool := false
  attFailed : Bool := false
  /-- Quarantine counts of the dies' caravan ports (R402). -/
  quarantine : Sparse Nat := []
  /-- Host frames reported absent until the host grants them (R340). -/
  absent : List Nat := []
  /-- On-chip storage has lost its contents: a granule that nothing has written since reads unpredictable bytes (R345). -/
  chipLost : Bool := false
  deriving DecidableEq, Repr, Inhabited

/-! ## The state -/

/-- Whose move comes next (the model's own): a step of a unit, the next instruction of a warp, or clocks that pass. -/
inductive Turn where
  | unit (e : Instr)
  | issue (wid : Nat)
  | idle (clocks : Nat)
  deriving DecidableEq, Repr, Inhabited

/-- The whole machine. -/
structure State where
  /-- The model's own: the order of the agents' moves to come; empty for the default order of `step`. -/
  agenda : List Turn
  /-- The model's own: the number of the next free value. -/
  freeCtr : Nat
  /-- The model's own: the warp whose clause issues. -/
  cur : Option Nat
  /-- Clocks since reset. -/
  clock : Nat
  /-- Time since boot in 1/1008 ns: `time` stands still during a thermal trip, `wall` does not (R346, R405). -/
  time : Nat
  wall : Nat
  /-- The model's own: the next number of an operation, a group or a record. -/
  nextId : Nat
  mem : Memory
  /-- Key generation that last wrote each 16-byte unit of DRAM: identity + 1024 × generation + 1 (R13, R201, R350). -/
  unitKey : Sparse Nat
  /-- Frames of DRAM, by physical address / 65536, handed out with unpredictable contents: a unit of one that nothing has
  written since reads unpredictable bytes (R194, R201, R256). -/
  scrambled : List Nat
  /-- Owner tags of 256-byte granules of on-chip storage: context + 1 (R202). -/
  owner : Sparse Nat
  /-- Poisoned 256-byte granules (R383). -/
  poison : List Nat
  /-- Frames with their device-written bit set, by physical address / 65536 (R384). -/
  devWritten : List Nat
  /-- Generation of each key identity (R350). -/
  keyGen : Sparse Nat
  l1 : List L1Line
  icache : List ILine
  tlb : List TlbEntry
  ctxs : List Ctx
  nodes : List Node
  groups : List Group
  warps : List Warp
  ops : List Op
  cores : Sparse Core
  wadi : List Chan
  faults : List FaultRec
  saved : List SavedGroup
  scans : Sparse Scan
  memStacks : Sparse MemStack
  dev : Device
  deriving DecidableEq, Repr, Inhabited

/-- The reasons for which a step stops with a fault. -/
inductive Fault where
  /-- Raised by `exec` of an instruction while no bundle has a started clause on the current warp: the part issues no
  instruction there (R86). Safe: no behaviour of the part is lost. -/
  | noBundle
  deriving DecidableEq, Repr

/-- The reasons for which a step is refused. -/
inductive Refusal where
  /-- Raised by `exec` for an instruction that has no meaning yet, by its mnemonic. Safe. -/
  | notModelled (mnemonic : String)
  deriving DecidableEq, Repr

/-- The machine right after reset: before boot (R351), nothing resident, every register at its reset value. -/
def State.reset : State where
  agenda := []
  freeCtr := 0
  cur := none
  clock := 0
  time := 0
  wall := 0
  nextId := 1
  mem := []
  unitKey := []
  scrambled := []
  owner := []
  poison := []
  devWritten := []
  keyGen := []
  l1 := []
  icache := []
  tlb := []
  ctxs := []
  nodes := []
  groups := []
  warps := []
  ops := []
  cores := []
  wadi := []
  faults := []
  saved := []
  scans := []
  memStacks := []
  dev := {}

end Sys2Proof.Machine
end

