-- ==== Sys2Proof/Machine/Ops.lean ====
section
/-! DEFINITION. The named operations over the state: sparse tables, memory with its keys, owner tags and poison, the
parts of the state by name, registers through the window, and time. -/

namespace Sys2Proof.Machine

open Sys2Proof

/-! ## Sparse tables -/

/-- The value at `k`, `d` where none is listed. -/
def sget {α : Type} (d : α) : Sparse α → Nat → α
  | [], _ => d
  | (k', v) :: t, k => if k' = k then v else sget d t k

/-- The table with `v` at `k`, in canonical form: the default value is not listed. -/
def sset {α : Type} [DecidableEq α] (d : α) : Sparse α → Nat → α → Sparse α
  | [], k, v => if v = d then [] else [(k, v)]
  | (k', v') :: t, k, v =>
    if k < k' then (if v = d then (k', v') :: t else (k, v) :: (k', v') :: t)
    else if k = k' then (if v = d then t else (k, v) :: t)
    else (k', v') :: sset d t k v

/-- Every listed number is above `lo`, the numbers rise strictly, and no default value is listed. -/
def swfFrom {α : Type} [DecidableEq α] (d : α) : Option Nat → Sparse α → Bool
  | _, [] => true
  | none, (k, v) :: t => v ≠ d && swfFrom d (some k) t
  | some lo, (k, v) :: t => lo < k && v ≠ d && swfFrom d (some k) t

/-- The canonical form of a sparse table. -/
def swf {α : Type} [DecidableEq α] (d : α) (l : Sparse α) : Bool := swfFrom d none l

/-- What a byte of memory that nothing has written reads as. -/
def unlistedByte : Byte := 0

/-- The canonical form of memory. -/
def Memory.wf (m : Memory) : Bool := swf unlistedByte m

/-- A number added to a rising list without repeats. -/
def addNat (k : Nat) : List Nat → List Nat
  | [] => [k]
  | h :: t => if k < h then k :: h :: t else if k = h then h :: t else h :: addNat k t

/-! ## Physical addresses (the model's own numbering of the storages of R185 and R191) -/

/-- First address of tier `t`: 0 HBM, 1 LPDDR, 2 host, 3 the memory of peer module `m` (R191). -/
def tierBase (t m : Nat) : Nat := (if t < 3 then t else 3 + m) * 2 ^ 48

/-- First address of a die's scratchpad SRAM (R17). -/
def dieBase (die : Nat) : Nat := 2 ^ 56 + die * 2 ^ 27

/-- First address of a core's scratchpad (R20). -/
def coreBase (core : Nat) : Nat := 2 ^ 57 + core * 2 ^ 22

/-- First address of a tile of a core's accumulator memory (R20). -/
def tileBase (core tile : Nat) : Nat := 2 ^ 58 + core * 2 ^ 18 + tile * 1024

/-- The kinds of storage behind a physical address. -/
inductive Storage where
  | dram | host | peer (m : Nat) | chip
  deriving DecidableEq, Repr

/-- The storage of a physical address. -/
def storage (a : Nat) : Storage :=
  if a < 2 * 2 ^ 48 then .dram else if a < 3 * 2 ^ 48 then .host
  else if a < 2 ^ 56 then .peer (a / 2 ^ 48 - 3) else .chip

/-- The stack that holds a DRAM address (R13). -/
def stackOf (a : Nat) : Nat :=
  let f := a % 2 ^ 48 / 65536
  min 11 (if a < 2 ^ 48 then f / Config.hbmFrames else f / Config.lpddrFrames)

/-- The core die to which a stack attaches (R12). -/
def stackDie (stack : Nat) : Nat :=
  match stack with
  | 0 => 0 | 1 => 0 | 2 => 1 | 3 => 2 | 4 => 3 | 5 => 3 | 6 => 4 | 7 => 4 | 8 => 5 | 9 => 6 | _ => 7

/-! ## Free values -/

/-- The next free byte. -/
def State.freeByte (s : State) : Byte × State := (Config.freeByte s.freeCtr, { s with freeCtr := s.freeCtr + 1 })

/-- The next free word. -/
def State.freeWord (s : State) : Word × State := (Config.freeWord s.freeCtr, { s with freeCtr := s.freeCtr + 1 })

/-- The next `n` free bytes. -/
def State.freeBytes : Nat → State → List Byte × State
  | 0, s => ([], s)
  | n + 1, s =>
    let (b, s1) := s.freeByte
    let (bs, s2) := State.freeBytes n s1
    (b :: bs, s2)

/-- The next `n` free words. -/
def State.freeWords : Nat → State → List Word × State
  | 0, s => ([], s)
  | n + 1, s =>
    let (b, s1) := s.freeWord
    let (bs, s2) := State.freeWords n s1
    (b :: bs, s2)

/-! ## Memory bytes with their keys and owner tags (R13, R201, R202) -/

/-- The mark that a write under key identity `k` leaves on a DRAM unit: identity and generation. -/
def State.keyMark (s : State) (k : Nat) : Nat := k + 1024 * sget 0 s.keyGen k + 1

/-- The stored byte at a physical address. -/
def State.rawByte (s : State) (a : Nat) : Byte := sget unlistedByte s.mem a

/-- The state with a stored byte. -/
def State.setRaw (s : State) (a : Nat) (b : Byte) : State := { s with mem := sset unlistedByte s.mem a b }

/-- One byte read by an access that carries `who`: a key identity for DRAM (R201), a context for on-chip storage (R202).
Bytes last written under another key are unpredictable; bytes that another context owns read 0. -/
def State.readByte (s : State) (who a : Nat) : Byte × State :=
  match storage a with
  | .dram =>
    let t := sget 0 s.unitKey (a / 16)
    if t = s.keyMark who ∨ (t = 0 ∧ !s.scrambled.contains (a / 65536)) then (s.rawByte a, s) else s.freeByte
  | .host | .peer _ => (s.rawByte a, s)
  | .chip =>
    let t := sget 0 s.owner (a / 256)
    if t = who + 1 ∨ (t = 0 ∧ !s.dev.chipLost) then (s.rawByte a, s) else if t = 0 then s.freeByte else (0, s)

/-- `n` bytes read from a physical address. -/
def State.readBytes (s : State) (who a : Nat) : Nat → List Byte × State
  | 0 => ([], s)
  | n + 1 =>
    let (b, s1) := s.readByte who a
    let (bs, s2) := s1.readBytes who (a + 1) n
    (b :: bs, s2)

/-- `n` bytes set to one value each, from address `a`. -/
def State.setRaws (s : State) (a : Nat) : List Byte → State
  | [] => s
  | b :: bs => (s.setRaw a b).setRaws (a + 1) bs

/-- The state in which the unit or granule of `a` belongs to `who`: where it belonged to another, the other bytes of a DRAM
unit become unpredictable (R201) and those of an on-chip granule become 0 (R202). -/
def State.claim (s : State) (who a : Nat) : State :=
  match storage a with
  | .dram =>
    let t := sget 0 s.unitKey (a / 16)
    let m := s.keyMark who
    if t = m then s
    else
      let s1 := { s with unitKey := sset 0 s.unitKey (a / 16) m }
      if t = 0 ∧ !s.scrambled.contains (a / 65536) then s1
      else
        let (bs, s2) := State.freeBytes 16 s1
        s2.setRaws (a / 16 * 16) bs
  | .host | .peer _ => s
  | .chip =>
    let t := sget 0 s.owner (a / 256)
    if t = who + 1 then s
    else
      let s1 := { s with owner := sset 0 s.owner (a / 256) (who + 1) }
      if t ≠ 0 then s1.setRaws (a / 256 * 256) (List.replicate 256 0)
      else if s.dev.chipLost then
        let (bs, s2) := State.freeBytes 256 s1
        s2.setRaws (a / 256 * 256) bs
      else s1

/-- One byte written by an access that carries `who`. -/
def State.writeByte (s : State) (who a : Nat) (b : Byte) : State := (s.claim who a).setRaw a b

/-- Bytes written from address `a`. -/
def State.writeBytes (s : State) (who a : Nat) : List Byte → State
  | [] => s
  | b :: bs => (s.writeByte who a b).writeBytes who (a + 1) bs

/-- The bytes of a number, little-endian (R5). -/
def bytesOf : Nat → Nat → List Byte
  | 0, _ => []
  | n + 1, v => BitVec.ofNat 8 v :: bytesOf n (v / 256)

/-- The number of a list of bytes, little-endian (R5). -/
def natOf : List Byte → Nat
  | [] => 0
  | b :: bs => b.toNat + 256 * natOf bs

/-- A number of `n` bytes read from a physical address. -/
def State.readNat (s : State) (who a n : Nat) : Nat × State :=
  let (bs, s1) := s.readBytes who a n
  (natOf bs, s1)

/-- A number of `n` bytes written to a physical address. -/
def State.writeNat (s : State) (who a n v : Nat) : State := s.writeBytes who a (bytesOf n v)

/-- Whether any of `n` bytes from `a` lies in a poisoned granule (R383). -/
def State.poisoned (s : State) (a n : Nat) : Bool := s.poison.any (fun g => a < g * 256 + 256 && g * 256 < a + n)

/-- The device-written bit of a frame set (R384). -/
def State.markWritten (s : State) (a : Nat) : State :=
  match storage a with
  | .dram => { s with devWritten := addNat (a / 65536) s.devWritten }
  | _ => s

/-! ## Parts of the state by name -/

/-- The warp of a slot. -/
def State.warp? (s : State) (wid : Nat) : Option Warp := s.warps.find? (fun w => w.wid = wid)

/-- The state with a warp in place of the one of its slot. -/
def State.setWarp (s : State) (w : Warp) : State :=
  { s with warps := s.warps.map (fun x => if x.wid = w.wid then w else x) }

/-- A fibre of a warp, by physical lane. -/
def Warp.fibre? (w : Warp) (lane : Nat) : Option Fibre := w.fibres.find? (fun f => f.lane = lane)

/-- The warp with a fibre in place of the one in its lane. -/
def Warp.setFibre (w : Warp) (f : Fibre) : Warp :=
  { w with fibres := w.fibres.map (fun x => if x.lane = f.lane then f else x) }

/-- A fibre of the machine, by slot and physical lane. -/
def State.fibre? (s : State) (wid lane : Nat) : Option Fibre := (s.warp? wid).bind (fun w => w.fibre? lane)

/-- The state with one warp changed. -/
def State.onWarp (s : State) (wid : Nat) (u : Warp → Warp) : State :=
  { s with warps := s.warps.map (fun x => if x.wid = wid then u x else x) }

/-- The state with one fibre changed. -/
def State.onFibre (s : State) (wid lane : Nat) (u : Fibre → Fibre) : State :=
  s.onWarp wid (fun w => { w with fibres := w.fibres.map (fun f => if f.lane = lane then u f else f) })

/-- The fibre with a number in a group, with its warp (R26, R41). -/
def State.fibreOf? (s : State) (gid fid : Nat) : Option (Warp × Fibre) :=
  (s.warps.filter (fun w => w.gid = gid)).findSome? (fun w => (w.fibres.find? (fun f => f.id = fid)).map (fun f => (w, f)))

/-- The state with the fibre of a number changed. -/
def State.onFibreOf (s : State) (gid fid : Nat) (u : Fibre → Fibre) : State :=
  { s with warps := s.warps.map (fun w =>
      if w.gid = gid then { w with fibres := w.fibres.map (fun f => if f.id = fid then u f else f) } else w) }

/-- A resident group. -/
def State.group? (s : State) (gid : Nat) : Option Group := s.groups.find? (fun g => g.gid = gid)

/-- The state with one group changed. -/
def State.onGroup (s : State) (gid : Nat) (u : Group → Group) : State :=
  { s with groups := s.groups.map (fun g => if g.gid = gid then u g else g) }

/-- A context. -/
def State.ctx? (s : State) (c : Nat) : Option Ctx := s.ctxs.find? (fun x => x.num = c)

/-- The state with one context changed. -/
def State.onCtx (s : State) (c : Nat) (u : Ctx → Ctx) : State :=
  { s with ctxs := s.ctxs.map (fun x => if x.num = c then u x else x) }

/-- A node that the walker knows. -/
def State.node? (s : State) (c : Nat) (addr : VAddr) : Option Node :=
  s.nodes.find? (fun n => n.ctx = c && n.addr = addr)

/-- The state with one node changed. -/
def State.onNode (s : State) (c : Nat) (addr : VAddr) (u : Node → Node) : State :=
  { s with nodes := s.nodes.map (fun n => if n.ctx = c && n.addr = addr then u n else n) }

/-- An operation in flight. -/
def State.op? (s : State) (id : Nat) : Option Op := s.ops.find? (fun o => o.id = id)

/-- The state with one operation changed. -/
def State.onOp (s : State) (id : Nat) (u : Op → Op) : State :=
  { s with ops := s.ops.map (fun o => if o.id = id then u o else o) }

/-- The state without an operation. -/
def State.dropOp (s : State) (id : Nat) : State := { s with ops := s.ops.filter (fun o => o.id ≠ id) }

/-- A core's registers and figures. -/
def State.core (s : State) (c : Nat) : Core := sget {} s.cores c

/-- The state with one core changed. -/
def State.onCore (s : State) (c : Nat) (u : Core → Core) : State :=
  { s with cores := sset {} s.cores c (u (s.core c)) }

/-- A die's scan controller. -/
def State.scan (s : State) (d : Nat) : Scan := sget {} s.scans d

/-- The state with one scan controller changed. -/
def State.onScan (s : State) (d : Nat) (u : Scan → Scan) : State :=
  { s with scans := sset {} s.scans d (u (s.scan d)) }

/-- A memory stack. -/
def State.stack (s : State) (k : Nat) : MemStack := sget {} s.memStacks k

/-- The state with one stack changed. -/
def State.onStack (s : State) (k : Nat) (u : MemStack → MemStack) : State :=
  { s with memStacks := sset {} s.memStacks k (u (s.stack k)) }

/-- A fresh number of the model's own. -/
def State.fresh (s : State) : Nat × State := (s.nextId, { s with nextId := s.nextId + 1 })

/-- The core, quadrant and slot of a warp slot (R11, R19). -/
def coreOf (wid : Nat) : Nat := wid / 48
/-- See `coreOf`. -/
def quadOf (wid : Nat) : Nat := wid % 48 / 12
/-- The die of a core (R11). -/
def dieOf (core : Nat) : Nat := core / 64

/-- The virtual lane of a physical lane (R42). -/
def Warp.vlane (w : Warp) (lane : Nat) : Nat := w.remap.idxOf lane

/-- The physical lane of a virtual lane (R42). -/
def Warp.plane (w : Warp) (v : Nat) : Nat := w.remap.getD v v

/-- A list of numbers without its repeats: each at its first place. -/
def distinct : List Nat → List Nat
  | [] => []
  | k :: t => k :: (distinct t).filter (fun j => j ≠ k)

/-- Physical lanes in ascending virtual lane (R42); each lane has one virtual lane. -/
def Warp.byVlane (w : Warp) (lanes : List Nat) : List Nat := distinct (w.remap.filter (fun l => lanes.contains l))

/-! ## Registers through the window (R55, R56) -/

/-- Ring registers of a fibre: N = A − F (R55). -/
def Group.ring (g : Group) : Nat := g.a - g.f

/-- Register `i` of the run that starts at `r` (R56): every register of a run of vz is vz. -/
def regPlus (r : Reg) (i : Nat) : Reg :=
  match r with
  | .v k => if h : k.val + i < 608 then .v ⟨k.val + i, h⟩ else .illegal 0
  | .x k => if h : k.val + i < 32 then .x ⟨k.val + i, h⟩ else .illegal 0
  | r => r

/-- The position of a register in a fibre's storage, for a window base; none for vz and for no register (R56). -/
def Group.place (g : Group) (base : Nat) (r : Reg) : Option Nat :=
  match r with
  | .v k => some ((base + k.val) % g.ring)
  | .x k => some (g.ring + k.val)
  | _ => none

/-- Whether a name is legal for a fibre (R56). -/
def Fibre.legal (f : Fibre) (g : Group) (r : Reg) : Bool :=
  match r with
  | .v k => k.val < f.n
  | .x k => k.val < g.f
  | .vz => true
  | .illegal _ => false

/-- Whether the first register of a pair or even run may stand there (R56). -/
def evenFirst (r : Reg) : Bool :=
  match r with
  | .v k => k.val % 2 = 0
  | .x k => k.val % 2 = 0
  | .vz => true
  | .illegal _ => false

/-- The register at a position of a fibre. -/
def Fibre.at (f : Fibre) (pos : Nat) : Word := sget 0 f.regs pos

/-- The fibre with a register written. -/
def Fibre.put (f : Fibre) (pos : Nat) (w : Word) : Fibre := { f with regs := sset 0 f.regs pos w }

/-- The value of a register name for a window base; vz reads 0 (R56). -/
def Fibre.readAt (f : Fibre) (g : Group) (base : Nat) (r : Reg) : Word :=
  match g.place base r with
  | some p => f.at p
  | none => 0

/-- The fibre with a register name written; a write to vz is discarded (R56). -/
def Fibre.writeAt (f : Fibre) (g : Group) (base : Nat) (r : Reg) (w : Word) : Fibre :=
  match g.place base r with
  | some p => f.put p w
  | none => f

/-- One of the four CC registers (R64). -/
def Fibre.cc (f : Fibre) (n : Fin 4) : CC :=
  match n with
  | 0 => f.c0 | 1 => f.c1 | 2 => f.c2 | 3 => f.c3

/-- The fibre with a CC register written (R64). -/
def Fibre.setCc (f : Fibre) (n : Fin 4) (c : CC) : Fibre :=
  match n with
  | 0 => { f with c0 := c } | 1 => { f with c1 := c } | 2 => { f with c2 := c } | 3 => { f with c3 := c }

/-- The count of a completion flag (R87). -/
def Fibre.flag (f : Fibre) (i : Nat) : Nat := sget 0 f.flags i

/-- The fibre with a flag's count raised by 1 (R87). -/
def Fibre.raise (f : Fibre) (i : Nat) : Fibre := { f with flags := sset 0 f.flags i (f.flag i + 1) }

/-- The fibre with a flag's count lowered by 1 (R87). -/
def Fibre.fall (f : Fibre) (i : Nat) : Fibre := { f with flags := sset 0 f.flags i (f.flag i - 1) }

/-! ## Time (R3, R67, R121, R345, R346) -/

/-- `%cyc` (R67). -/
def State.cyc (s : State) (w : Warp) : DWord := BitVec.ofNat 64 (s.clock + w.cycOff)

/-- `%phcnt` (R121): held while the limit is 0, else counting every clock and saturating. -/
def State.phcnt (s : State) (w : Warp) : Word :=
  if w.phlim = 0 then w.phHeld else BitVec.ofNat 32 (min (s.clock - w.phFrom) 0xFFFFFFFF)

/-- Clocks pass: the arithmetic clock, and time at the period of the operating point (R345). -/
def State.advanceClock (s : State) (n : Nat) : State :=
  { s with clock := s.clock + n, time := s.time + n * Config.period s.dev.opstate,
           wall := s.wall + n * Config.period s.dev.opstate }

end Sys2Proof.Machine
end

