-- ==== Sys2Proof/Machine/Operands.lean ====
section
/-! DEFINITION. The operands of every instruction: which registers it reads and writes, in the order of R363, its guard and
CC registers, its opcode, and the classes that follow from the opcode: family (R83), roles (R45), treatment in deferring
mode (R134, R137), issue clocks (R147, R175, R416). -/

namespace Sys2Proof

open Machine

/-- A run of registers that an instruction names: its first register, its length, and whether that must be even (R56). -/
structure Run where
  r : Reg
  len : Nat
  even : Bool
  deriving DecidableEq, Repr

/-- What an instruction names. -/
structure Shape where
  guard : Guard
  /-- Major opcode; a short form has the one of the major instruction of the same name (R97, R416). -/
  op : Nat
  /-- Source runs in the order [35:26], [45:36], [55:46], [25:16] (R363). -/
  srcs : List Run
  dsts : List Run
  /-- The CC register that it writes, and the one that ISEL reads (R146). -/
  ccw : CcW := none
  ccr : Option (Fin 4) := none
  /-- Long-latency with this flag select (R87); none where the instruction has no select. -/
  fs : Option Bool := none
  deriving DecidableEq, Repr

/-- One register. -/
def one (r : Reg) : Run := { r := r, len := 1, even := false }
/-- An even run. -/
def evenRun (r : Reg) (n : Nat) : Run := { r := r, len := n, even := n ≠ 1 }
/-- A pair where `p` holds, else one register. -/
def pairIf (p : Bool) (r : Reg) : Run := evenRun r (if p then 2 else 1)
/-- Source B, if it is a register. -/
def srcRun : Src → List Run
  | .reg r => [one r]
  | .lit _ => []
/-- The registers of a width (R208). -/
def Width.regs : Width → Nat
  | .b64 => 2 | .b128 => 4 | _ => 1
/-- The bytes of a width (R208). -/
def Width.bytes : Width → Nat
  | .b8 => 1 | .s8 => 1 | .b16 => 2 | .s16 => 2 | .b32 => 4 | .b64 => 8 | .b128 => 16
/-- Operand registers of an atomic (R210). -/
def AtomOp.operandRegs : AtomOp → Nat
  | .addB64 | .minS64 | .minU64 | .maxS64 | .maxU64 | .andB64 | .orB64 | .xorB64 | .exchB64 | .casB32 => 2
  | .casB64 => 4
  | .casB128 => 8
  | _ => 1
/-- Bytes that an atomic acts on (R210). -/
def AtomOp.bytes : AtomOp → Nat
  | .addB64 | .minS64 | .minU64 | .maxS64 | .maxU64 | .andB64 | .orB64 | .xorB64 | .exchB64 | .casB64 => 8
  | .casB128 => 16
  | _ => 4
/-- An atomic's operand: registers, or the literal. -/
def atomRun (op : AtomOp) : Src → List Run
  | .reg r => [evenRun r op.operandRegs]
  | .lit _ => []
/-- The source space of a copy direction is `.g` (R217). -/
def CopyDir.srcG : CopyDir → Bool
  | .sg | .dg | .gg | .srec => true
  | _ => false
/-- The destination space of a copy direction is `.g` (R217). -/
def CopyDir.dstG : CopyDir → Bool
  | .gs | .gd | .gg => true
  | _ => false
/-- Registers of keys or of values in one lane of a KVAPPEND (R327). -/
def KvD.regs : KvD → Nat
  | .d64 => 2 | .d128 => 4 | .d256 => 8
/-- TOPK's n (R172). -/
def topkN (n : Fin 4) : Nat := 2 ^ n.val

/-- The always-true guard with the operands of an integer or float instruction of three registers. -/
def shortShape (op : Nat) (d : List Reg) (s : List Reg) : Shape :=
  { guard := .always, op := op, srcs := s.map one, dsts := d.map one }

/-- The operands of an instruction (R103, R145, R172, R203, R261, R267, R295, R303, R322, R337, R365, R97). A step of the
units has none. -/
def Instr.shape : Instr → Shape
  | .nop g => { guard := g, op := 0x00, srcs := [], dsts := [] }
  | .bra g _ => { guard := g, op := 0x01, srcs := [], dsts := [] }
  | .brx g a => { guard := g, op := 0x02, srcs := [evenRun a 2], dsts := [] }
  | .call g _ _ => { guard := g, op := 0x03, srcs := [], dsts := [] }
  | .callx g a _ => { guard := g, op := 0x04, srcs := [evenRun a 2], dsts := [] }
  | .ret g => { guard := g, op := 0x05, srcs := [], dsts := [] }
  | .enter g _ => { guard := g, op := 0x06, srcs := [], dsts := [] }
  | .fork g d _ w => { guard := g, op := 0x07, srcs := [], dsts := [one d], ccw := w }
  | .exit g => { guard := g, op := 0x08, srcs := [], dsts := [] }
  | .yieldI g => { guard := g, op := 0x09, srcs := [], dsts := [] }
  | .mode g _ _ => { guard := g, op := 0x0A, srcs := [], dsts := [] }
  | .fwait g _ => { guard := g, op := 0x0B, srcs := [], dsts := [] }
  | .tmset g a => { guard := g, op := 0x0C, srcs := srcRun a, dsts := [] }
  | .phase g a b => { guard := g, op := 0x0D, srcs := srcRun a ++ [one b], dsts := [] }
  | .sread g d _ w => { guard := g, op := 0x0E, srcs := [], dsts := [pairIf w d] }
  | .swrite g a _ w => { guard := g, op := 0x0F, srcs := [pairIf w a], dsts := [] }
  | .rjen g _ => { guard := g, op := 0x10, srcs := [], dsts := [] }
  | .rjwait g _ => { guard := g, op := 0x11, srcs := [], dsts := [] }
  | .rjstrike g _ => { guard := g, op := 0x12, srcs := [], dsts := [] }
  | .cvset g a _ => { guard := g, op := 0x13, srcs := [one a], dsts := [] }
  | .cvsign g a b _ => { guard := g, op := 0x14, srcs := [evenRun a 4, evenRun b 4], dsts := [] }
  | .bara g a _ => { guard := g, op := 0x15, srcs := [one a], dsts := [] }
  | .barw g _ => { guard := g, op := 0x16, srcs := [], dsts := [] }
  | .bars g a _ => { guard := g, op := 0x17, srcs := [one a], dsts := [] }
  | .waitw g a b _ _ sp _ => { guard := g, op := 0x18, srcs := [pairIf (sp == .g) a, one b], dsts := [] }
  | .trap g _ => { guard := g, op := 0x19, srcs := [], dsts := [] }
  | .tret g => { guard := g, op := 0x1A, srcs := [], dsts := [] }
  | .tmask g (.vec a) => { guard := g, op := 0x1B, srcs := [evenRun a 2], dsts := [] }
  | .tmask g (.en a) => { guard := g, op := 0x1B, srcs := [one a], dsts := [] }
  | .tmask g .hold => { guard := g, op := 0x1B, srcs := [], dsts := [] }
  | .tmask g .release => { guard := g, op := 0x1B, srcs := [], dsts := [] }
  | .rinj g a _ => { guard := g, op := 0x1C, srcs := [one a], dsts := [] }
  | .iadd g d a b _ w => { guard := g, op := 0x20, srcs := one a :: srcRun b, dsts := [one d], ccw := w }
  | .isub g d a b _ w => { guard := g, op := 0x21, srcs := one a :: srcRun b, dsts := [one d], ccw := w }
  | .imul g d a b w => { guard := g, op := 0x22, srcs := one a :: srcRun b, dsts := [one d], ccw := w }
  | .imulh g d a b _ w => { guard := g, op := 0x23, srcs := one a :: srcRun b, dsts := [one d], ccw := w }
  | .imad g d a b c w => { guard := g, op := 0x24, srcs := one a :: srcRun b ++ [one c], dsts := [one d], ccw := w }
  | .iadd64 g d a (.reg b) w =>
    { guard := g, op := 0x25, srcs := [evenRun a 2, evenRun b 2], dsts := [evenRun d 2], ccw := w }
  | .iadd64 g d a (.lit _) w => { guard := g, op := 0x25, srcs := [evenRun a 2], dsts := [evenRun d 2], ccw := w }
  | .imad64 g d a b c _ w =>
    { guard := g, op := 0x26, srcs := one a :: srcRun b ++ [evenRun c 2], dsts := [evenRun d 2], ccw := w }
  | .ishl g d a (.reg b) w => { guard := g, op := 0x27, srcs := [one a, one b], dsts := [one d], ccw := w }
  | .ishl g d a (.imm _) w => { guard := g, op := 0x27, srcs := [one a], dsts := [one d], ccw := w }
  | .ishr g d a (.reg b) w => { guard := g, op := 0x28, srcs := [one a, one b], dsts := [one d], ccw := w }
  | .ishr g d a (.imm _) w => { guard := g, op := 0x28, srcs := [one a], dsts := [one d], ccw := w }
  | .ishra g d a (.reg b) w => { guard := g, op := 0x29, srcs := [one a, one b], dsts := [one d], ccw := w }
  | .ishra g d a (.imm _) w => { guard := g, op := 0x29, srcs := [one a], dsts := [one d], ccw := w }
  | .bool3 g d a b c _ => { guard := g, op := 0x2A, srcs := one a :: srcRun b ++ [one c], dsts := [one d] }
  | .imin g d a b _ w => { guard := g, op := 0x2B, srcs := one a :: srcRun b, dsts := [one d], ccw := w }
  | .imax g d a b _ w => { guard := g, op := 0x2C, srcs := one a :: srcRun b, dsts := [one d], ccw := w }
  | .iabs g d a _ w => { guard := g, op := 0x2D, srcs := [one a], dsts := [one d], ccw := w }
  | .popc g d a w => { guard := g, op := 0x2E, srcs := [one a], dsts := [one d], ccw := w }
  | .clz g d a w => { guard := g, op := 0x2F, srcs := [one a], dsts := [one d], ccw := w }
  | .bfe g d a b _ w => { guard := g, op := 0x30, srcs := [one a, one b], dsts := [one d], ccw := w }
  | .bfi g d a b c w => { guard := g, op := 0x31, srcs := [one a, one b, one c], dsts := [one d], ccw := w }
  | .icmp g d a b _ w => { guard := g, op := 0x32, srcs := one a :: srcRun b, dsts := [one d], ccw := w }
  | .isel g d a b _ n => { guard := g, op := 0x33, srcs := one a :: srcRun b, dsts := [one d], ccr := some n }
  | .mov g d a w => { guard := g, op := 0x34, srcs := [pairIf w a], dsts := [pairIf w d] }
  | .movi g d _ => { guard := g, op := 0x35, srcs := [], dsts := [one d] }
  | .fadd g d a b _ _ _ w => { guard := g, op := 0x40, srcs := one a :: srcRun b, dsts := [one d], ccw := w }
  | .fsub g d a b _ _ _ w => { guard := g, op := 0x41, srcs := one a :: srcRun b, dsts := [one d], ccw := w }
  | .fmul g d a b _ _ _ w => { guard := g, op := 0x42, srcs := one a :: srcRun b, dsts := [one d], ccw := w }
  | .ffma g d a b c _ _ _ w =>
    { guard := g, op := 0x43, srcs := one a :: srcRun b ++ [one c], dsts := [one d], ccw := w }
  | .fmin g d a b _ _ w => { guard := g, op := 0x44, srcs := one a :: srcRun b, dsts := [one d], ccw := w }
  | .fmax g d a b _ _ w => { guard := g, op := 0x45, srcs := one a :: srcRun b, dsts := [one d], ccw := w }
  | .fcmp g d a b _ _ w => { guard := g, op := 0x46, srcs := one a :: srcRun b, dsts := [one d], ccw := w }
  | .fclass g d a => { guard := g, op := 0x47, srcs := [one a], dsts := [one d] }
  | .hadd2 g d a b _ _ _ => { guard := g, op := 0x48, srcs := one a :: srcRun b, dsts := [one d] }
  | .hmul2 g d a b _ _ _ => { guard := g, op := 0x49, srcs := one a :: srcRun b, dsts := [one d] }
  | .hfma2 g d a b c _ _ _ => { guard := g, op := 0x4A, srcs := one a :: srcRun b ++ [one c], dsts := [one d] }
  | .rcp g d a _ w => { guard := g, op := 0x50, srcs := [one a], dsts := [one d], ccw := w }
  | .rsq g d a _ w => { guard := g, op := 0x51, srcs := [one a], dsts := [one d], ccw := w }
  | .sqrt g d a _ w => { guard := g, op := 0x52, srcs := [one a], dsts := [one d], ccw := w }
  | .exp2 g d a _ w => { guard := g, op := 0x53, srcs := [one a], dsts := [one d], ccw := w }
  | .log2 g d a _ w => { guard := g, op := 0x54, srcs := [one a], dsts := [one d], ccw := w }
  | .sin g d a _ w => { guard := g, op := 0x55, srcs := [one a], dsts := [one d], ccw := w }
  | .cos g d a _ w => { guard := g, op := 0x56, srcs := [one a], dsts := [one d], ccw := w }
  | .tanh g d a _ w => { guard := g, op := 0x57, srcs := [one a], dsts := [one d], ccw := w }
  | .f2i g d a _ _ w => { guard := g, op := 0x58, srcs := [one a], dsts := [one d], ccw := w }
  | .i2f g d a _ _ w => { guard := g, op := 0x59, srcs := [one a], dsts := [one d], ccw := w }
  | .cvp g d a (.h2 _ b) _ _ => { guard := g, op := 0x5A, srcs := [one a, one b], dsts := [one d] }
  | .cvp g d a (.q4 _) _ _ => { guard := g, op := 0x5A, srcs := [evenRun a 4], dsts := [one d] }
  | .cvp g d a (.e2m1 _) _ _ => { guard := g, op := 0x5A, srcs := [evenRun a 4, one d], dsts := [one d] }
  | .cvu g d a (.h2 _) => { guard := g, op := 0x5B, srcs := [one a], dsts := [evenRun d 2] }
  | .cvu g d a (.q4 _) => { guard := g, op := 0x5B, srcs := [one a], dsts := [evenRun d 4] }
  | .cvu g d a (.e2m1 _) => { guard := g, op := 0x5B, srcs := [one a], dsts := [evenRun d 4] }
  | .dot4 g d a b c _ => { guard := g, op := 0x5C, srcs := [one a, one b, one c], dsts := [one d] }
  | .dot8 g d a b c _ => { guard := g, op := 0x5D, srcs := [one a, one b, one c], dsts := [one d] }
  | .scale g d a b _ _ w => { guard := g, op := 0x5E, srcs := [one a, one b], dsts := [one d], ccw := w }
  | .rand g d m => { guard := g, op := 0x5F, srcs := [], dsts := [pairIf (m == .w64) d] }
  | .shfl g d a (.reg b) _ _ w => { guard := g, op := 0x60, srcs := [one a, one b], dsts := [one d], ccw := w }
  | .shfl g d a (.imm _) _ _ w => { guard := g, op := 0x60, srcs := [one a], dsts := [one d], ccw := w }
  | .lpush g d a (.reg b) w => { guard := g, op := 0x61, srcs := [one a, one b], dsts := [one d], ccw := w }
  | .lpush g d a (.imm _) w => { guard := g, op := 0x61, srcs := [one a], dsts := [one d], ccw := w }
  | .matchKeys g d a x w => { guard := g, op := 0x62, srcs := [pairIf x a], dsts := [one d], ccw := w }
  | .vote g d a _ w => { guard := g, op := 0x63, srcs := [one a], dsts := [one d], ccw := w }
  | .redl g d a _ => { guard := g, op := 0x64, srcs := [one a], dsts := [one d] }
  | .scanl g d a _ _ => { guard := g, op := 0x65, srcs := [one a], dsts := [one d] }
  | .topk g dv di vs n _ _ =>
    { guard := g, op := 0x66, srcs := [{ r := vs, len := topkN n, even := false }], dsts := [one dv, one di] }
  | .regroup g a => { guard := g, op := 0x67, srcs := [one a], dsts := [] }
  | .ld g d a _ fs w sp _ _ =>
    { guard := g, op := 0x80, srcs := [pairIf (sp == .g) a], dsts := [evenRun d w.regs], fs := some fs }
  | .st g a b _ fs w sp _ _ =>
    { guard := g, op := 0x81, srcs := [pairIf (sp == .g) a, evenRun b w.regs], dsts := [], fs := some fs }
  | .atom g d a b fs op _ _ sp =>
    { guard := g, op := 0x82, srcs := pairIf (sp == .g) a :: atomRun op b, dsts := [evenRun d (op.bytes / 4)],
      fs := some fs }
  | .red g a b fs op _ _ sp =>
    { guard := g, op := 0x83, srcs := pairIf (sp == .g) a :: atomRun op b, dsts := [], fs := some fs }
  | .fence g _ _ => { guard := g, op := 0x84, srcs := [], dsts := [] }
  | .pref g a _ _ => { guard := g, op := 0x85, srcs := [evenRun a 2], dsts := [] }
  | .tcopy g d a b fs dir none =>
    { guard := g, op := 0x86, srcs := [pairIf dir.srcG a, evenRun b 2, pairIf dir.dstG d], dsts := [], fs := some fs }
  | .tcopy g d a b fs dir (some (_, q)) =>
    { guard := g, op := 0x86, srcs := [pairIf dir.srcG a, evenRun b 2, one q, pairIf dir.dstG d], dsts := [],
      fs := some fs }
  | .copya g d a b fs dir _ =>
    { guard := g, op := 0x87, srcs := [pairIf dir.srcG a, one b, pairIf dir.dstG d], dsts := [], fs := some fs }
  | .srinit g a b c _ => { guard := g, op := 0x88, srcs := [one a, one b, one c], dsts := [] }
  | .srwait g a _ _ _ => { guard := g, op := 0x89, srcs := [one a], dsts := [] }
  | .srpost g a _ _ => { guard := g, op := 0x8A, srcs := [one a], dsts := [] }
  | .rnmove g a b c fs _ =>
    { guard := g, op := 0x90, srcs := [evenRun a 2, evenRun b 2, evenRun c 2], dsts := [], fs := some fs }
  | .rnswap g a b c fs _ =>
    { guard := g, op := 0x91, srcs := [evenRun a 2, evenRun b 2, evenRun c 2], dsts := [], fs := some fs }
  | .rnalias g a b c fs _ =>
    { guard := g, op := 0x92, srcs := [evenRun a 2, evenRun b 2, evenRun c 2], dsts := [], fs := some fs }
  | .rnperm g n a b c fs _ =>
    { guard := g, op := 0x93, srcs := [evenRun a 2, evenRun b 2, one c, one n], dsts := [], fs := some fs }
  | .rndrop g a c fs _ => { guard := g, op := 0x94, srcs := [evenRun a 2, evenRun c 2], dsts := [], fs := some fs }
  | .rnfresh g a c fs _ _ => { guard := g, op := 0x95, srcs := [evenRun a 2, evenRun c 2], dsts := [], fs := some fs }
  | .rnquery g d a fs => { guard := g, op := 0x96, srcs := [evenRun a 2], dsts := [evenRun d 4], fs := some fs }
  | .mma g _ a b none _ _ => { guard := g, op := 0xA0, srcs := [evenRun a 4, evenRun b 4], dsts := [] }
  | .mma g _ a b (some s) _ _ =>
    { guard := g, op := 0xA0, srcs := [evenRun a 4, evenRun b 4, evenRun s.pair 2], dsts := [] }
  | .mmaJ g .. => { guard := g, op := 0xA1, srcs := [], dsts := [] }
  | .accz g _ _ => { guard := g, op := 0xA2, srcs := [], dsts := [] }
  | .accmv g d none _ _ fs => { guard := g, op := 0xA3, srcs := [], dsts := [evenRun d 8], fs := some fs }
  | .accmv g d (some m) _ _ fs =>
    { guard := g, op := 0xA3, srcs := [evenRun m 2], dsts := [evenRun d 8], fs := some fs }
  | .accst g none a _ p _ s _ fs => { guard := g, op := 0xA4, srcs := [pairIf (!s) a, one p], dsts := [], fs := some fs }
  | .accst g (some m) a _ p _ s _ fs =>
    { guard := g, op := 0xA4, srcs := [pairIf (!s) a, one p, evenRun m 2], dsts := [], fs := some fs }
  | .accld g a _ p s _ fs => { guard := g, op := 0xA5, srcs := [pairIf (!s) a, one p], dsts := [], fs := some fs }
  | .mwait g _ => { guard := g, op := 0xA6, srcs := [], dsts := [] }
  | .opfence g => { guard := g, op := 0xA7, srcs := [], dsts := [] }
  | .nrel g a fs => { guard := g, op := 0xB0, srcs := [evenRun a 2], dsts := [], fs := some fs }
  | .nwait g d a _ => { guard := g, op := 0xB1, srcs := [evenRun a 2], dsts := [one d] }
  | .nstat g d a fs => { guard := g, op := 0xB2, srcs := [evenRun a 2], dsts := [one d], fs := some fs }
  | .sortcnt g a fs _ => { guard := g, op := 0xB3, srcs := [evenRun a 2], dsts := [], fs := some fs }
  | .carsend g len row hdr buf fs s =>
    { guard := g, op := 0xB4, srcs := [pairIf (!s) row, evenRun hdr 2, evenRun buf 2, one len], dsts := [],
      fs := some fs }
  | .wopen g a _ fs => { guard := g, op := 0xB8, srcs := [evenRun a 2], dsts := [], fs := some fs }
  | .wred g a b c _ n fs =>
    { guard := g, op := 0xB9, srcs := [{ r := a, len := n.toNat + 1, even := false }, one b, one c], dsts := [],
      fs := some fs }
  | .wwait g d a _ => { guard := g, op := 0xBA, srcs := [one a], dsts := [one d] }
  | .wcorr g d a b _ => { guard := g, op := 0xBB, srcs := [one a, one b], dsts := [one d] }
  | .wclose g _ fs => { guard := g, op := 0xBC, srcs := [], dsts := [], fs := some fs }
  | .attn g a fs _ => { guard := g, op := 0xC0, srcs := [evenRun a 2], dsts := [], fs := some fs }
  | .kvappend g t blk k v fs _ dim =>
    { guard := g, op := 0xC1, srcs := [evenRun blk 2, { r := k, len := dim.regs, even := false },
        { r := v, len := dim.regs, even := false }, one t], dsts := [], fs := some fs }
  | .kvxlate g d dir va fs =>
    { guard := g, op := 0xC2, srcs := [evenRun dir 2, evenRun va 2], dsts := [evenRun d 4], fs := some fs }
  | .pfxfind g d a b tab fs n =>
    { guard := g, op := 0xC3, srcs := [evenRun a 4, one b, evenRun tab 2], dsts := [evenRun d 2], ccw := some n,
      fs := some fs }
  | .pfxins g h blk tab fs _ =>
    { guard := g, op := 0xC4, srcs := [evenRun h 2, evenRun blk 2, evenRun tab 2], dsts := [], fs := some fs }
  | .undefinedInstruction .. => shortShape 0xFF [] []
  | .nopShort => shortShape 0x00 [] []
  | .movShort d a => shortShape 0x34 [d] [a]
  | .moviShort d _ => shortShape 0x35 [d] []
  | .iaddShort d a => shortShape 0x20 [d] [a, d]
  | .isubShort d a => shortShape 0x21 [d] [a, d]
  | .iaddImmShort d a _ => shortShape 0x20 [d] [a]
  | .isubImmShort d a _ => shortShape 0x21 [d] [a]
  | .ishlImmShort d a _ => shortShape 0x27 [d] [a]
  | .ishrImmShort d a _ => shortShape 0x28 [d] [a]
  | .ishraImmShort d a _ => shortShape 0x29 [d] [a]
  | .ishlImm16Short d a _ => shortShape 0x27 [d] [a]
  | .ishrImm16Short d a _ => shortShape 0x28 [d] [a]
  | .ishraImm16Short d a _ => shortShape 0x29 [d] [a]
  | .imulShort d a => shortShape 0x22 [d] [a, d]
  | .andShort d a => shortShape 0x2A [d] [a, d]
  | .orShort d a => shortShape 0x2A [d] [a, d]
  | .xorShort d a => shortShape 0x2A [d] [a, d]
  | .notShort d a => shortShape 0x2A [d] [a]
  | .iminShort d a => shortShape 0x2B [d] [a, d]
  | .imaxShort d a => shortShape 0x2C [d] [a, d]
  | .faddShort d a => shortShape 0x40 [d] [a, d]
  | .fsubShort d a => shortShape 0x41 [d] [a, d]
  | .fmulShort d a => shortShape 0x42 [d] [a, d]
  | .fminShort d a => shortShape 0x44 [d] [a, d]
  | .fmaxShort d a => shortShape 0x45 [d] [a, d]
  | .hadd2Short d a => shortShape 0x48 [d] [a, d]
  | .hmul2Short d a => shortShape 0x49 [d] [a, d]
  | .ldSB32Short d a _ => { guard := .always, op := 0x80, srcs := [one a], dsts := [one d], fs := some false }
  | .stSB32Short d a _ => { guard := .always, op := 0x81, srcs := [one a, one d], dsts := [], fs := some false }
  | .ldSB64Short d a _ => { guard := .always, op := 0x80, srcs := [one a], dsts := [evenRun d 2], fs := some false }
  | .stSB64Short d a _ => { guard := .always, op := 0x81, srcs := [one a, evenRun d 2], dsts := [], fs := some false }
  | .waitwRecheck .. | .regroupRelease .. | .matrixEngineStart .. | .matrixOpFinish .. | .clauseStart ..
  | .fairnessSwitch .. | .warpStarvationPriority .. | .windowOverflowTrap .. | .windowUnderflowTrap ..
  | .residualReplay .. | .loadReturn .. | .storePerformed .. | .atomicComplete .. | .userTimerTrap .. | .phaseTrap ..
  | .trapEntry .. | .groupPlacement | .groupRetire .. | .hostNodeRelease .. | .nodeStart .. | .stagePage ..
  | .nodeComplete .. | .nodeCommit .. | .nodeRollback .. | .nodeFail .. | .copyCommandStart .. | .copyCommandComplete ..
  | .renameApply .. | .renamePerformed .. | .sortcntRequestStart .. | .sortcntRequestComplete .. | .caravanArrive ..
  | .wadiArrival .. | .wadiBudgetExpiry .. | .wcorrTimeout .. | .attnRequestStart .. | .attnRequestComplete ..
  | .faultResolve .. | .faultBoundExpiry .. | .eccUncorrectable .. | .poisonRepair .. | .coreStorageUncorrectable ..
  | .scrubRead .. | .refresh .. | .stackTemperatureChange .. | .thermalTrip .. | .scanDrainStart .. | .scanTest ..
  | .scanComplete .. | .scanOverdue .. | .kvScrubCheck .. | .preemptRequest .. | .resumeRequest .. | .killRequest ..
  | .groupEvict .. | .groupRestore .. | .boot .. | .bootHoldRelease .. | .bootComplete .. | .opcmdOperatingPoint ..
  | .opcmdIdleHot | .opcmdIdleCold | .opcmdParked | .opcmdOff | .powerTransitionComplete | .marginReview
  | .marginReviewComplete .. | .keyRetire .. | .tlbInvalidate .. | .invalidationComplete | .attestationRequest
  | .attestationComplete | .registerWrite .. | .fabricLinkChange .. | .kvappendAtHome .. | .pfxinsAtHome ..
  | .resultLands .. | .nrelDecrementPerformed .. | .wopenStatusWritten .. | .wcloseChannelFree .. | .hostPortAccess ..
  | .peerAccessArrival .. | .dieScratchpadGrantChange .. | .framePoolGrant .. | .contextDestroy .. =>
    shortShape 0xFF [] []

/-- Whether a term is an instruction of the part, and no step of the units or the surroundings. -/
def Instr.isInstruction (i : Instr) : Bool :=
  match i with
  | .undefinedInstruction .. => true
  | _ => i.shape.op ≠ 0xFF

/-- The registers of a run, in order. -/
def Run.regs (r : Run) : List Reg := (List.range r.len).map (regPlus r.r)

/-- Source and destination registers, in order. -/
def Shape.srcRegs (s : Shape) : List Reg := s.srcs.flatMap Run.regs
/-- See `srcRegs`. -/
def Shape.dstRegs (s : Shape) : List Reg := s.dsts.flatMap Run.regs

/-- Whether a run is legal for a fibre (R56). -/
def Run.legal (r : Run) (g : Group) (f : Fibre) : Bool :=
  (!r.even || evenFirst r.r) && r.regs.all (f.legal g)

/-- Whether every operand of an instruction is legal for a fibre (R56, R100). -/
def Shape.legal (s : Shape) (g : Group) (f : Fibre) : Bool :=
  s.srcs.all (fun r => r.legal g f) && s.dsts.all (fun r => r.legal g f)

/-! ## Classes by opcode -/

/-- The families of R83. -/
inductive Family where
  | control | system | integer | float | cross | memory | matrix | async
  deriving DecidableEq, Repr

/-- The family of a major opcode (R83). -/
def family (op : Nat) : Option Family :=
  if op ≤ 0x09 || op = 0x0B || (0x10 ≤ op && op ≤ 0x19) then some .control
  else if op ≤ 0x1C then some .system
  else if 0x20 ≤ op && op ≤ 0x35 then some .integer
  else if 0x40 ≤ op && op ≤ 0x5F then some .float
  else if 0x60 ≤ op && op ≤ 0x67 then some .cross
  else if 0x80 ≤ op && op ≤ 0x96 then some .memory
  else if 0xA0 ≤ op && op ≤ 0xA7 then some .matrix
  else if 0xB0 ≤ op && op ≤ 0xC4 then some .async
  else none

/-- Whether a clause of an engine class may hold a family (R83). -/
def classAdmits (cls : Nat) (f : Family) : Bool :=
  match cls, f with
  | 0, _ => true
  | 1, .control | 1, .integer | 1, .float | 1, .cross => true
  | 2, .control | 2, .integer | 2, .memory => true
  | 3, .control | 3, .integer | 3, .float | 3, .matrix => true
  | 4, .control | 4, .integer | 4, .memory | 4, .async => true
  | 5, .control | 5, .integer | 5, .system => true
  | _, _ => false

/-- The instructions that end a clause (R84), by major opcode. -/
def endsClause (op : Nat) : Bool :=
  [0x01, 0x02, 0x03, 0x04, 0x05, 0x08, 0x67, 0x19, 0x1A, 0x11, 0x16, 0x17, 0x18, 0x09, 0xB1, 0xBA, 0xBB].contains op

/-- Whether a role may issue an instruction (R45), by major opcode. -/
def rolePermits (r : Role) (op : Nat) : Bool :=
  if op = 0x14 then r == .general || r == .matrix
  else if op ≤ 0x1C then true
  else match family op with
    | some .float | some .cross => r != .copy
    | some .memory =>
      if op = 0x86 || op = 0x87 then r == .general || r == .copy
      else if 0x90 ≤ op then r != .matrix
      else true
    | some .matrix => r == .general || r == .matrix
    | some .async => if op ≤ 0xB2 then r != .matrix else r == .general || r == .vector
    | _ => true

/-- The ordered instructions of R134. -/
def isOrdered (op : Nat) : Bool :=
  [0x81, 0x82, 0x83, 0x84, 0x86, 0x87, 0x90, 0x91, 0x92, 0x93, 0x94, 0x95, 0x88, 0x8A, 0xB0, 0xB3, 0xB4, 0xB8, 0xB9,
   0xBC, 0xC0, 0xC1, 0xC4].contains op

/-- The deferrable instructions of R137. -/
def isDeferrable (op : Nat) : Bool :=
  (0x20 ≤ op && op ≤ 0x35) || (0x40 ≤ op && op ≤ 0x5F) || isOrdered op || [0x80, 0xB2, 0x96, 0xC2, 0xC3].contains op

/-- The drain points of R137. -/
def isDrain (op : Nat) : Bool :=
  (0x60 ≤ op && op ≤ 0x67) || (0xA0 ≤ op && op ≤ 0xA7) || [0x14, 0x89, 0xB1, 0xBA, 0xBB, 0x1A, 0x1B, 0x1C].contains op

/-- Memory accesses and commands, which R135 and R136 order: loads, stores, atomics, fences, engine commands, renames and
the reads of R137. -/
def isAccess (op : Nat) : Bool := isOrdered op || [0x80, 0x96, 0xB2, 0xC2, 0xC3].contains op

/-- The engine commands and renames of R135, and RNQUERY, which count as accesses of unknown bytes in every space. -/
def isCommand (op : Nat) : Bool := (isOrdered op && !([0x81, 0x82, 0x83, 0x84].contains op)) || op = 0x96

/-- The instructions of "Control, Fibre and Synchronisation Instructions" (R105). -/
def isControl (op : Nat) : Bool := op ≤ 0x19 && op ≠ 0x14

/-- The slots that an entry takes: a third of its source words, rounded up, at least one (R129). -/
def Shape.slots (s : Shape) : Nat := max 1 ((s.srcRegs.length + 2) / 3)

/-- The clocks for which an instruction holds its port (R147, R175, R416); `n` is TOPK's n. -/
def issueClocks (op n : Nat) : Nat :=
  if op = 0x25 || op = 0x26 then 2
  else if 0x50 ≤ op && op ≤ 0x57 then 4
  else if op = 0x5F then 4
  else if op = 0x64 || op = 0x65 then 2
  else if op = 0x66 then 4 * n
  else 1

/-! ## Accesses -/

/-- The signed bytes of a memory offset (R203). -/
def MemOff.toInt : MemOff → Int
  | .short o => o.toInt
  | .long o => o.toInt

/-- A space of R116 and R205 among those of R204. -/
def Space3.space : Space3 → Space
  | .g => .g | .s => .s | .d => .d

/-- Whether a space is reached through the tables (R185). -/
def Space.translated : Space → Bool
  | .g | .k => true
  | _ => false

/-- Whether an order field has acquire semantics (R211). -/
def MemOrder.acq? (o : MemOrder) : Bool := o == .acq || o == .acqRel
/-- Whether an order field has release semantics (R211). -/
def MemOrder.rel? (o : MemOrder) : Bool := o == .rel || o == .acqRel

/-- The space, offset and bytes of a load, store, atomic or reduction; its address words are its first sources. -/
structure AccessForm where
  space : Space
  off : Int
  bytes : Nat
  deriving DecidableEq, Repr

/-- The access that an instruction makes through the load/store path. -/
def Instr.accessForm (i : Instr) : Option AccessForm :=
  match i with
  | .ld _ _ _ off _ w sp _ _ => some { space := sp, off := off.toInt, bytes := w.bytes }
  | .st _ _ _ off _ w sp _ _ => some { space := sp, off := off.toInt, bytes := w.bytes }
  | .atom _ _ _ _ _ op _ _ sp => some { space := sp.space, off := 0, bytes := op.bytes }
  | .red _ _ _ _ op _ _ sp => some { space := sp.space, off := 0, bytes := op.bytes }
  | .ldSB32Short _ _ n => some { space := .s, off := 4 * n.toNat, bytes := 4 }
  | .stSB32Short _ _ n => some { space := .s, off := 4 * n.toNat, bytes := 4 }
  | .ldSB64Short _ _ n => some { space := .s, off := 8 * n.toNat, bytes := 8 }
  | .stSB64Short _ _ n => some { space := .s, off := 8 * n.toNat, bytes := 8 }
  | _ => none

/-- The number of address words (R203). -/
def AccessForm.addrWords (a : AccessForm) : Nat := if a.space == .g then 2 else 1

/-- The 52-bit value of an address pair: bits [63:52] are ignored (R185). -/
def pairAddr (lo hi : Word) : Nat := (lo.toNat + hi.toNat * 2 ^ 32) % 2 ^ 52

/-- The address that an access forms from its address words (R206). -/
def AccessForm.address (a : AccessForm) (ws : List Word) : Nat :=
  if a.space == .g then ((pairAddr (ws.getD 0 0) (ws.getD 1 0) : Int) + a.off).emod (2 ^ 52) |>.toNat
  else (((ws.getD 0 0).toNat : Int) + a.off).emod (2 ^ 32) |>.toNat

/-- The acquire loads, atomics and fences of R135. -/
def Instr.acquires (i : Instr) : Bool :=
  match i with
  | .ld _ _ _ _ _ _ _ _ acq => acq.isSome
  | .atom _ _ _ _ _ _ o _ _ => o == .acq || o == .acqRel
  | .fence _ _ k => k != .rel
  | _ => false

/-- The releases of R136: release stores and atomics, NREL, and a FENCE of any kind. -/
def Instr.releases (i : Instr) : Bool :=
  match i with
  | .st _ _ _ _ _ _ _ rel _ => rel
  | .atom _ _ _ _ _ _ o _ _ => o == .rel || o == .acqRel
  | .red _ _ _ _ _ o _ _ => o == .rel || o == .acqRel
  | .nrel .. => true
  | .fence .. => true
  | _ => false

/-- The instructions that access memory as their fibre, which queued accesses and acquires of the fibre hold back: those of
`isAccess`, WAITW, ACCST, ACCLD and an ACCMV that merges an amax (R235, R244). -/
def Instr.isFibreAccess (i : Instr) : Bool :=
  match i with
  | .waitw .. | .accst .. | .accld .. => true
  | .accmv _ _ amax _ _ _ => amax.isSome
  | _ => isAccess i.shape.op

end Sys2Proof
end

