-- ==== Sys2Proof/Machine/Translate.lean ====
section
/-! DEFINITION. The error log (R404 to R406), the walk of the page tables and the cached translations (R190, R191, R193),
the frame pools and reference counts (R192, R385), and the edits of tables (R194, R195, R417). -/

namespace Sys2Proof.Machine

open Sys2Proof

/-! ## The error log -/

/-- What a record of the error log says (R405). -/
structure LogRec where
  type : Nat
  severity : Nat
  source : Nat := 8
  ctx : Option Nat := none
  place : Nat := 0
  node : Nat := 0
  addr : Nat := 0
  detail : List Nat := []
  deriving DecidableEq, Repr

/-- The 64 bytes of a record (R405); the time is in ns since boot. -/
def LogRec.bytes (r : LogRec) (seq wall : Nat) : List Byte :=
  bytesOf 4 seq ++ bytesOf 2 r.type ++ bytesOf 1 r.severity ++ bytesOf 1 r.source ++ bytesOf 8 (wall / Config.ns)
    ++ bytesOf 4 (match r.ctx with | some c => c % 1024 + 32768 | none => 0) ++ bytesOf 4 r.place ++ bytesOf 8 r.node
    ++ bytesOf 8 r.addr ++ ((r.detail ++ List.replicate 6 0).take 6).flatMap (bytesOf 4)

/-- The physical address of a host I/O address. -/
def hostAddr (a : Nat) : Nat := tierBase 2 0 + a % 2 ^ 48

/-- Bytes written to host memory from a host I/O address. -/
def State.setHosts (s : State) (a : Nat) : List Byte → State
  | [] => s
  | b :: bs => (s.setRaw (hostAddr a) b).setHosts (a + 1) bs

/-- Host memory as the part reads it: a number of `n` bytes. -/
def State.hostNat (s : State) (a n : Nat) : Nat := natOf ((List.range n).map (fun i => s.rawByte (hostAddr (a + i))))

/-- A record added to the error log, or counted as dropped (R404). -/
def State.log (s : State) (r : LogRec) : State :=
  let base := s.dev.elog.toNat
  let cap := s.hostNat base 4
  if base = 0 ∨ cap = 0 ∨ 65535 < cap then s
  else
    let head := s.hostNat (base + 4) 4
    let tail := s.hostNat (base + 8) 4
    if (head + 2 ^ 32 - tail) % 2 ^ 32 < cap then
      (s.setHosts (base + 64 + 64 * (head % cap)) (r.bytes head s.wall)).setHosts (base + 4) (bytesOf 4 (head + 1))
    else s.setHosts (base + 12) (bytesOf 4 (s.hostNat (base + 12) 4 + 1))

/-- The place field of a warp slot (R379): core, quadrant, slot. -/
def placeOf (wid : Nat) : Nat := coreOf wid + 512 * quadOf wid + 2048 * (wid % 12)

/-! ## Table entries (R191) -/

/-- Bits `lo` to `lo + w − 1` of a word. -/
def bitsOf {n : Nat} (e : BitVec n) (lo w : Nat) : Nat := e.toNat / 2 ^ lo % 2 ^ w
/-- The fields of an entry. -/
def pteValid (e : DWord) : Bool := bitsOf e 0 1 = 1
/-- Bit 2. -/
def pteLeaf (e : DWord) : Bool := bitsOf e 2 1 = 1
/-- Permissions R, W, X. -/
def pteR (e : DWord) : Bool := bitsOf e 3 1 = 1
/-- See `pteR`. -/
def pteW (e : DWord) : Bool := bitsOf e 4 1 = 1
/-- See `pteR`. -/
def pteX (e : DWord) : Bool := bitsOf e 5 1 = 1
/-- Tier, staged bit, key identity, frame, module. -/
def pteTier (e : DWord) : Nat := bitsOf e 6 2
/-- See `pteTier`. -/
def pteStaged (e : DWord) : Bool := bitsOf e 8 1 = 1
/-- See `pteTier`. -/
def pteKey (e : DWord) : Nat := bitsOf e 10 10
/-- See `pteTier`. -/
def pteFrame (e : DWord) : Nat := bitsOf e 20 32
/-- See `pteTier`. -/
def pteModule (e : DWord) : Nat := bitsOf e 52 6
/-- The reserved bits [63:58] and [1]. -/
def pteReserved (e : DWord) : Nat := bitsOf e 58 6 + bitsOf e 1 1

/-- An entry with a field of `w` bits at `lo` replaced. -/
def pteSet (e : DWord) (lo w v : Nat) : DWord :=
  BitVec.ofNat 64 (e.toNat - bitsOf e lo w * 2 ^ lo + v % 2 ^ w * 2 ^ lo)

/-- The bytes that one leaf of a level maps (R190). -/
def levelSize (level : Nat) : Nat := 2 ^ (43 - 9 * level)

/-- The index into the table of a level (R190). -/
def levelIndex (va level : Nat) : Nat := va / levelSize level % 512

/-- The physical byte of an address that a leaf of a level maps. -/
def leafAddr (e : DWord) (level va : Nat) : Nat :=
  tierBase (pteTier e) (pteModule e) + pteFrame e * 65536 + va % levelSize level

/-- The table to which a pointer entry leads: 4 KiB units of its tier (R191). -/
def tableOf (e : DWord) : Nat := tierBase (pteTier e) 0 + pteFrame e * 4096

/-- The entry at a physical address, as the walker reads it under key identity 0 (R13, R201): the free value of an entry that
was written under another key, or before identity 0 was retired, stands at the counter without raising it. -/
def State.entryAt (s : State) (a : Nat) : DWord := BitVec.ofNat 64 (s.readNat 0 a 8).1

/-- How a walk ends: at a leaf, with its level and its entry's address, or with a cause of R380 at a level. -/
inductive Walk where
  | leaf (e : DWord) (level at_ : Nat)
  | stop (cause level : Nat)
  deriving DecidableEq, Repr

/-- The walk from a table through the levels named (R190, R191); a poisoned table granule is consumed (R383). -/
def State.walkFrom (s : State) (va : Nat) : List Nat → Nat → Walk
  | [], _ => .stop 2 3
  | l :: ls, t =>
    let a := t + 8 * levelIndex va l
    let e := s.entryAt a
    if s.poisoned a 8 then .stop 7 l
    else if !pteValid e then .stop 1 l
    else if pteReserved e ≠ 0 || (l = 0 && pteLeaf e) || (l = 3 && !pteLeaf e) then .stop 2 l
    else if pteLeaf e then .leaf e l a
    else s.walkFrom va ls (tableOf e)

/-- The walk of an address of a context. -/
def State.walk (s : State) (c : Ctx) (va : Nat) : Walk := s.walkFrom (va % 2 ^ 52) [0, 1, 2, 3] c.root

/-- The kinds of access, by their codes (R379). -/
inductive Access where
  | read | write | atomic | fetch
  deriving DecidableEq, Repr

/-- The code of an access (R379). -/
def Access.code : Access → Nat
  | .read => 0 | .write => 1 | .atomic => 2 | .fetch => 3

/-- Whether a leaf permits an access (R191): W permits an atomic. -/
def Access.permitted (a : Access) (e : DWord) : Bool :=
  match a with
  | .read => pteR e
  | .write => pteW e
  | .atomic => pteW e
  | .fetch => pteX e

/-- Whether a route to a peer module is set on a hub with its link up (R341, R342). -/
def State.reachable (s : State) (m : Nat) : Bool :=
  let p0 := (s.dev.route0.getD m 0xFF).toNat
  let p1 := (s.dev.route1.getD m 0xFF).toNat
  (p0 < 9 && s.dev.links.contains p0) || (9 ≤ p1 && p1 < 18 && s.dev.links.contains p1)

/-- The cause for which a found leaf does not serve an access, if any (R191, R340, R342, R343). -/
def State.leafCause (s : State) (e : DWord) (level : Nat) (va : Nat) (a : Access) : Option Nat :=
  let pa := leafAddr e level va
  if pteTier e = 0 && (s.stack (stackOf pa)).cache then some 1
  else if !a.permitted e then some 3
  else if pteTier e = 2 && s.dev.absent.contains (pa % 2 ^ 48 / 65536) then some 4
  else if pteTier e = 3 && !s.reachable (pteModule e) then some 5
  else none

/-- A cached translation of a page (R193). -/
def State.cached (s : State) (places : List TlbPlace) (c va : Nat) : Option TlbEntry :=
  s.tlb.find? (fun t => places.contains t.place && t.ctx = c && t.page = va / 65536)

/-- The entries that a cache of translations holds at most (R193, R339). -/
def tlbSize : TlbPlace → Nat
  | .core _ => 2048
  | .die _ => 32768
  | .hub _ => 4096

/-- Whether a cache is that of a hub. -/
def TlbPlace.isHub : TlbPlace → Bool
  | .hub _ => true
  | _ => false

/-- A translation put into a cache: a full cache gives up one of its entries, which the spec does not name (log 6). -/
def State.fillTlb (s : State) (t : TlbEntry) : State :=
  let mine := s.tlb.filter (fun x => x.place = t.place)
  if tlbSize t.place ≤ mine.length then
    let (w, s1) := s.freeWord
    { s1 with tlb := s1.tlb.erase (mine.getD (w.toNat % mine.length) t) ++ [t] }
  else { s with tlb := s.tlb ++ [t] }

/-- A translation put into those of some caches that do not hold it. -/
def State.fillTlbs (s : State) (places : List TlbPlace) (c page : Nat) (leaf : DWord) (level : Nat) : State :=
  places.foldl (fun s p =>
    if s.tlb.any (fun t => t.place = p && t.ctx = c && t.page = page) then s
    else s.fillTlb { place := p, ctx := c, page := page, leaf := leaf, level := level }) s

/-- A page's translation as an agent at `places` finds it: from the caches there, else by the walk, and either fills the
caches that lack it. The result is the leaf and its level, or the cause and the level at which the walk stopped. -/
def State.lookup (s : State) (places : List TlbPlace) (c : Ctx) (va : Nat) : Except (Nat × Nat) (DWord × Nat) × State :=
  match s.cached places c.num va with
  | some t => (.ok (t.leaf, t.level), s.fillTlbs places c.num (va / 65536) t.leaf t.level)
  | none =>
    match s.walk c va with
    | .stop cause level => (.error (cause, level), s)
    | .leaf e level _ => (.ok (e, level), s.fillTlbs places c.num (va / 65536) e level)

/-- Whether the hub of a context's port holds the translation of a host page (R339, R340). -/
def State.atsHit (s : State) (cn va : Nat) (e : DWord) : Bool := (s.cached [.hub (cn % 2)] cn va).any (fun t => t.leaf = e)

/-- The translation of one address for an access: physical byte and key identity, or cause and level. -/
def State.translate (s : State) (places : List TlbPlace) (cn va : Nat) (a : Access) :
    Except (Nat × Nat) (Nat × Nat) × State :=
  match s.ctx? cn with
  | none => (.error (1, 0), s)
  | some c =>
    match s.lookup places c va with
    | (.error x, s1) => (.error x, s1)
    | (.ok (e, level), s1) =>
      match s1.leafCause e level va a with
      | some cause => if cause = 4 && s1.atsHit cn va e then (.ok (leafAddr e level va, pteKey e), s1) else (.error (cause, level), s1)
      | none => (.ok (leafAddr e level va, pteKey e), if pteTier e = 2 then s1.fillTlbs [.hub (cn % 2)] cn (va / 65536) e level else s1)

/-- The caches that a core's accesses use (R193). -/
def corePlaces (core : Nat) : List TlbPlace := [.core core, .die (dieOf core)]

/-! ## Frame pools and counts (R192, R385, R417) -/

/-- The number under which a frame's count is kept. -/
def unitOf (tier frame : Nat) : Nat := tier * 2 ^ 32 + frame

/-- The reference count of a frame unit. -/
def Ctx.count (c : Ctx) (tier frame : Nat) : Nat := sget 0 c.counts (unitOf tier frame)

/-- The context with a frame's count set. -/
def Ctx.setCount (c : Ctx) (tier frame n : Nat) : Ctx := { c with counts := sset 0 c.counts (unitOf tier frame) n }

/-- The context with frames added to a pool (R192). -/
def Ctx.addFrames (c : Ctx) (tier : Nat) (fs : List Nat) : Ctx :=
  if tier = 0 then { c with pool0 := fs.foldl (fun l f => addNat f l) c.pool0 }
  else { c with pool1 := fs.foldl (fun l f => addNat f l) c.pool1 }

/-- The free frames of a tier. -/
def Ctx.pool (c : Ctx) (tier : Nat) : List Nat := if tier = 0 then c.pool0 else c.pool1

/-- The context with the lowest free frame of a tier taken (R192). -/
def Ctx.takeFrame (c : Ctx) (tier : Nat) : Option (Nat × Ctx) :=
  match c.pool tier with
  | [] => none
  | f :: fs => some (f, if tier = 0 then { c with pool0 := fs } else { c with pool1 := fs })

/-- A free table page taken from the reserve, which takes a frame of the HBM pool, or of the LPDDR pool, when it is empty
(R417). -/
def Ctx.takePage (c : Ctx) : Option (Nat × Ctx) :=
  match c.reserve with
  | p :: ps => some (p, { c with reserve := ps })
  | [] =>
    match c.takeFrame 0 with
    | some (f, c1) => some (tierBase 0 0 + f * 65536, { c1 with reserve := (List.range 15).map (fun i =>
        tierBase 0 0 + f * 65536 + (i + 1) * 4096) })
    | none =>
      match c.takeFrame 1 with
      | some (f, c1) => some (tierBase 1 0 + f * 65536, { c1 with reserve := (List.range 15).map (fun i =>
          tierBase 1 0 + f * 65536 + (i + 1) * 4096) })
      | none => none

/-- Whether any granule of a unit of `n` frames is poisoned (R385). -/
def State.framePoisoned (s : State) (tier frame n : Nat) : Bool := s.poisoned (tierBase tier 0 + frame * 65536) (n * 65536)

/-- Frames given back to their pool, or retired where they hold a poisoned granule (R192, R385). -/
def State.freeFrames (s : State) (cn tier frame : Nat) : Nat → State
  | 0 => s
  | n + 1 =>
    let s1 := s.freeFrames cn tier frame n
    if s1.framePoisoned tier (frame + n) 1 then
      s1.log { type := 0x08, severity := 1, ctx := some cn, addr := tierBase tier 0 + (frame + n) * 65536, detail := [tier] }
    else s1.onCtx cn (fun c => c.addFrames tier [frame + n])

/-- Pages of one leaf of a level. -/
def levelPages (level : Nat) : Nat := levelSize level / 65536

/-- The counted units of some frames, as (first frame, frames): one unit, or the units of the levels below it where a leaf of
the same frames has been split (R192, R195). -/
def Ctx.unitsIn (c : Ctx) (tier : Nat) : List Nat → Nat → Nat → List (Nat × Nat)
  | [], frame, n => [(frame, n)]
  | l :: ls, frame, n =>
    if (List.range 511).any (fun i => c.count tier (frame + (i + 1) * levelPages l) ≠ 0) then
      (List.range 512).flatMap (fun i => c.unitsIn tier ls (frame + i * levelPages l) (levelPages l))
    else [(frame, n)]

/-- The counted units that a leaf of a level maps; frames of tiers 2 and 3 carry no count (R192). -/
def Ctx.units (c : Ctx) (e : DWord) (level : Nat) : List (Nat × Nat) :=
  if 2 ≤ pteTier e then []
  else c.unitsIn (pteTier e) ([2, 3].filter (fun l => level < l)) (pteFrame e) (levelPages level)

/-- The context with the count of every unit of a new leaf raised (R192). -/
def Ctx.gain (c : Ctx) (e : DWord) (level : Nat) : Ctx :=
  (c.units e level).foldl (fun c u => c.setCount (pteTier e) u.1 (c.count (pteTier e) u.1 + 1)) c

/-- One leaf's share of a unit given up: at count 0 its frames return to the pool, unless the unit is held as a
pre-image (R192). -/
def State.loseUnit (s : State) (cn tier : Nat) (u : Nat × Nat) : State :=
  match s.ctx? cn with
  | none => s
  | some c =>
    let n := c.count tier u.1
    let s1 := s.onCtx cn (fun c => c.setCount tier u.1 (n - 1))
    if n ≤ 1 && !(c.staged.any (fun g => g.tier = tier && g.frame = u.1)) then s1.freeFrames cn tier u.1 u.2 else s1

/-- One leaf's share of its units given up (R192). -/
def State.loseCount (s : State) (cn : Nat) (e : DWord) (level : Nat) : State :=
  match s.ctx? cn with
  | none => s
  | some c => (c.units e level).foldl (fun s u => s.loseUnit cn (pteTier e) u) s

/-! ## Table edits -/

/-- An entry written by the walker, under key identity 0, with its shadow (R201, R384, R417). -/
def State.setEntry (s : State) (cn a : Nat) (e : DWord) : State :=
  let s1 := s.writeNat 0 a 8 e.toNat
  s1.onCtx cn (fun c => { c with shadows := c.shadows.map (fun i =>
    if i.addr ≤ a && a < i.addr + 4096 then
      { i with bytes := i.bytes.take (a - i.addr) ++ bytesOf 8 e.toNat ++ i.bytes.drop (a - i.addr + 8) } else i) })

/-- A fresh table page, all entries invalid, with its shadow. -/
def State.clearPage (s : State) (cn a : Nat) : State :=
  (s.writeBytes 0 a (List.replicate 4096 0)).onCtx cn (fun c =>
    { c with shadows := { addr := a, bytes := List.replicate 4096 0 } :: c.shadows })

/-- The pointer entry to a table page (R191). -/
def pointerTo (page : Nat) : DWord :=
  let tier := if page < 2 ^ 48 then 0 else 1
  BitVec.ofNat 64 (1 + tier * 64 + (page - tierBase tier 0) / 4096 * 2 ^ 20)

/-- The shared bits of all leaves of a unit: set while its count is 2 or more (R191). -/
def shareBit (c : Ctx) (e : DWord) : DWord :=
  if 2 ≤ pteTier e then pteSet e 9 1 0
  else pteSet e 9 1 (if 2 ≤ c.count (pteTier e) (pteFrame e) then 1 else 0)

/-- A leaf split into 512 leaves of the next level (R195): none where no table page can be supplied (R387). Each new unit
counts the leaves that map it, those of the unsplit frames among them, unless another split has made it a unit before
(R192). -/
def State.splitLeaf (s : State) (cn : Nat) (e : DWord) (level at_ : Nat) : Option State :=
  match (s.ctx? cn).bind Ctx.takePage with
  | none => none
  | some (page, c1) =>
    let s1 := (s.onCtx cn (fun _ => c1)).clearPage cn page
    let step := levelSize (level + 1) / 65536
    let sub (i : Nat) : DWord := pteSet e 20 32 (pteFrame e + i * step)
    let s2 := (List.range 512).foldl (fun s i => s.setEntry cn (page + 8 * i) (sub i)) s1
    let n := (c1.count (pteTier e) (pteFrame e))
    let s3 := if 2 ≤ pteTier e || 1 < (c1.units e level).length then s2 else s2.onCtx cn (fun c =>
      (List.range 512).foldl (fun c i => c.setCount (pteTier e) (pteFrame e + i * step) n) c)
    some (s3.setEntry cn at_ (pointerTo page))

/-- Tables made down to the entry of `va` at `level`, from a table of level `l`: the entry's address, and the state; no
address where a table page cannot be supplied, with the tables made until then. A leaf above `level` is split on the way
(R194, R195). -/
def State.descend (s : State) (cn va level : Nat) : List Nat → Nat → Option Nat × State
  | [], _ => (none, s)
  | l :: ls, t =>
    let a := t + 8 * levelIndex va l
    if l = level then (some a, s)
    else
      let e := s.entryAt a
      if pteValid e && pteLeaf e then
        match s.splitLeaf cn e l a with
        | none => (none, s)
        | some s1 => s1.descend cn va level ls (tableOf (s1.entryAt a))
      else if pteValid e then s.descend cn va level ls (tableOf e)
      else
        match (s.ctx? cn).bind Ctx.takePage with
        | none => (none, s)
        | some (page, c1) =>
          let s1 := ((s.onCtx cn (fun _ => c1)).clearPage cn page).setEntry cn a (pointerTo page)
          s1.descend cn va level ls page

/-- The address of the entry of `va` at `level`, with every table above it (R194, R195). -/
def State.entryFor (s : State) (cn va level : Nat) : Option Nat × State :=
  match s.ctx? cn with
  | none => (none, s)
  | some c => s.descend cn (va % 2 ^ 52) level [0, 1, 2, 3] c.root

/-- The valid leaves below a table, as (entry's address, level, entry). -/
def State.leavesFrom (s : State) : List Nat → Nat → List (Nat × Nat × DWord)
  | [], _ => []
  | l :: ls, t => (List.range 512).flatMap (fun i =>
      let a := t + 8 * i
      let e := s.entryAt a
      if !pteValid e then []
      else if pteLeaf e then [(a, l, e)]
      else s.leavesFrom ls (tableOf e))

/-- The shared bits of every leaf of some frame units set as their counts say (R191). -/
def State.reshare (s : State) (cn : Nat) (units : List Nat) : State :=
  match s.ctx? cn with
  | none => s
  | some c =>
    if units.isEmpty then s
    else (s.leavesFrom [0, 1, 2, 3] c.root).foldl (fun s x =>
      let (a, _, e) := x
      if pteTier e < 2 && units.contains (unitOf (pteTier e) (pteFrame e)) && shareBit c e ≠ e then s.setEntry cn a (shareBit c e)
      else s) s

/-! ## Dropping translations (R188, R195, R197, R354) -/

/-- The cached translations of a range of pages of a context dropped at the places named, with the L1 lines of the cores
that a change reached (R188). -/
def State.dropTlb (s : State) (reach : TlbPlace → Bool) (cn page n : Nat) : State :=
  { s with
    tlb := s.tlb.filter (fun t => !(reach t.place && t.ctx = cn && page ≤ t.page && t.page < page + n))
    l1 := s.l1.filter (fun x => !reach (.core x.core)) }

end Sys2Proof.Machine
end

