-- ==== Sys2Proof/Machine/Graph.lean ====
section
/-! DEFINITION. The task graph: the walker's reading and writing of node records (R247 to R251), and the transitions of a
node with their effects on its successors, predecessors, children, staged pages and resident groups (R252, R258 to R260,
R395, R396). One transition can cause others; they are worked off in order from a list. -/

namespace Sys2Proof.Machine

open Sys2Proof

/-! ## The walker's accesses -/

/-- The physical byte of a virtual address as the walker finds it, whatever the permissions; none without a valid leaf. -/
def State.walkerByte? (s : State) (cn va : Nat) : Option (Nat × Nat) :=
  match s.ctx? cn with
  | none => none
  | some c =>
    match s.walk c va with
    | .leaf e level _ => some (leafAddr e level (va % 2 ^ 52), pteKey e)
    | .stop .. => none

/-- Bytes that the walker reads through the tables; a byte without a valid leaf reads 0. -/
def State.walkerRead (s : State) (cn va : Nat) : Nat → List Byte × State
  | 0 => ([], s)
  | n + 1 =>
    let (b, s1) := match s.walkerByte? cn va with
      | some (pa, k) => s.readByte k pa
      | none => (0, s)
    let (bs, s2) := s1.walkerRead cn (va + 1) n
    (b :: bs, s2)

/-- Bytes that the walker writes through the tables; a byte without a valid leaf is not written. -/
def State.walkerWrite (s : State) (cn va : Nat) : List Byte → State
  | [] => s
  | b :: bs =>
    (match s.walkerByte? cn va with
      | some (pa, k) => (s.writeByte k pa b).markWritten pa
      | none => s).walkerWrite cn (va + 1) bs

/-- A number that the walker reads. -/
def State.walkerNat (s : State) (cn va n : Nat) : Nat × State :=
  let (bs, s1) := s.walkerRead cn va n
  (natOf bs, s1)

/-! ## Fields of a record (R247, R248, R250) -/

/-- A number of `n` bytes at an offset of a record. -/
def recNat (r : List Byte) (off n : Nat) : Nat := natOf ((r.drop off).take n)

/-- Kind, REPL and UNST of the control word (R248). -/
def Node.kind (n : Node) : Nat := recNat n.record 0 4 % 16
/-- See `kind`. -/
def Node.repl (n : Node) : Bool := recNat n.record 0 4 / 2 ^ 8 % 2 = 1
/-- See `kind`. -/
def Node.unst (n : Node) : Bool := recNat n.record 0 4 / 2 ^ 9 % 2 = 1

/-- The code of a state (R249). -/
def NodeState.code : NodeState → Nat
  | .waiting => 0 | .ready => 1 | .running => 2 | .complete => 3 | .committed => 4 | .failed => 5 | .killed => 6

/-- COMMITTED, FAILED and KILLED are terminal (R249). -/
def NodeState.terminal (n : NodeState) : Bool := 4 ≤ n.code

/-- The status word (R249). -/
def Node.status (n : Node) : Word :=
  BitVec.ofNat 32 (n.state.code + (if n.state = .failed then n.code * 2 ^ 8 else 0) + n.u.toNat * 2 ^ 16
    + n.bad.toNat * 2 ^ 17 + (if (n.state = .failed || n.state = .killed) && n.u then 2 ^ 18 else 0))

/-- A region of a node: kind, first page and pages (R256); none while unused or with UNST set. -/
def Node.region (n : Node) (i : Nat) : Option (Nat × Nat × Nat) :=
  let a := recNat n.record (0xB8 + 8 * i) 8
  if a % 4 = 0 || n.unst then none
  else some (a % 4, a / 65536 % 2 ^ 36, recNat n.record (0xE8 + 4 * i) 4)

/-- The kind of the region that holds a page, if any (R256). -/
def Node.regionOf (n : Node) (page : Nat) : Option Nat :=
  (List.range 6).findSome? (fun i => match n.region i with
    | some (k, p, c) => if p ≤ page && page < p + c then some k else none
    | none => none)

/-- A GRID's launch, rounded to granules (R49, R250). -/
structure Launch where
  code : Nat
  groups : Nat
  fibres : Nat
  warps : Nat
  a : Nat
  f : Nat
  resid : Nat
  scratch : Nat
  tiles : Nat
  mode : Nat
  kbytes : Nat
  roles : Nat
  seed : Nat
  deriving DecidableEq, Repr

/-- `n` rounded up to a multiple of `m`. -/
def roundUp (n m : Nat) : Nat := (n + m - 1) / m * m

/-- The launch of a GRID record (R49, R250). R49 gives no effect of a request for 0 registers, which no multiple of 16 in
its range is rounded up from: the model raises it to 16 (log 75). -/
def Node.launch (n : Node) : Launch :=
  let p (off len : Nat) := recNat n.record (0x38 + off) len
  { code := p 0 8 % 2 ^ 52, groups := p 8 4, fibres := p 0xC 4 % 2 ^ 12, warps := (p 0xC 4 % 2 ^ 12 + 31) / 32,
    a := roundUp (max 16 (p 0x10 4 % 2 ^ 10)) 16, f := roundUp (p 0x10 4 / 2 ^ 10 % 2 ^ 6) 8,
    resid := roundUp (p 0x10 4 / 2 ^ 16 % 2 ^ 6) 4, scratch := p 0x14 4, tiles := roundUp (p 0x18 4 % 2 ^ 9) 16,
    mode := p 0x18 4 / 2 ^ 16 % 4, kbytes := p 0x1C 4, roles := p 0x20 16, seed := p 0x30 16 }

/-- A group's scratchpad rounded for `c` cores (R49). -/
def Launch.scratchFor (l : Launch) (c : Nat) : Nat := roundUp l.scratch (8192 * c)

/-- A group's tiles on each of `c` cores (R49): the group's granules divided evenly, and where they do not divide so, the
least that holds them (log 76). -/
def Launch.tilesFor (l : Launch) (c : Nat) : Nat := (l.tiles + c - 1) / c

/-- Whether each share of `c` idle cores can hold the group (R49 to R51). -/
def Launch.fitsIdle (l : Launch) (c : Nat) : Bool :=
  let w := (l.warps + c - 1) / c
  w ≤ 4 * min 12 (32768 / (32 * l.a)) && l.scratchFor c / c ≤ 3072 * 1024 && l.tilesFor c ≤ 256 && w * l.resid ≤ 320

/-- The number of cores that a group needs (R51). -/
def Launch.cores (l : Launch) : Option Nat := [1, 2, 3, 4].find? (fun c => l.fitsIdle c)

/-- Whether a launch is within the ranges of R49 and fits (R51). -/
def Launch.ok (l : Launch) : Bool := l.a ≤ 640 && l.f ≤ 32 && l.f + 16 ≤ l.a && l.resid ≤ 32 && l.cores.isSome

/-- What makes a record invalid: the causes of code 0x07 (R253, R338). -/
def Node.invalid (n : Node) : Bool :=
  let p (off len : Nat) := recNat n.record (0x38 + off) len
  4 < n.kind || 65536 < recNat n.record 0xC 4 || (List.range 6).any (fun i => recNat n.record (0xB8 + 8 * i) 8 % 4 = 3)
    || (n.kind = 0 && (p 0xC 4 % 2 ^ 12 = 0 || 2048 < p 0xC 4 % 2 ^ 12 || p 8 4 = 0 || 2 ^ 24 < p 8 4 || p 0 8 % 8 ≠ 0))
    || (n.kind = 2 && p 0 8 % 128 ≠ 0) || (n.kind = 3 && p 0 8 % 256 ≠ 0)
    || (n.kind = 1 && p 0x20 4 / 4 % 2 = 1 && (p 0x20 4 % 4 ≠ 2 || p 0 8 % 256 ≠ 0 || p 8 8 % 256 ≠ 0))

/-! ## Waking the fibres that wait on a status (R249, R262) -/

/-- The registers of a fibre that open matrix operations of it read, as positions (R245). -/
def Group.openRegs (g : Group) (fid : Nat) : List Nat := (g.uses.filter (fun u => u.fid = fid)).flatMap TileUse.regs

/-- The fibre that receives a result where it waits and goes on at the clause after its blocking instruction. -/
def Fibre.wake (f : Fibre) (dst : Option Nat) (v : Word) : Fibre :=
  let f1 := match dst with
    | some p => f.put p v
    | none => f
  { f1 with park := none }

/-- A waiting fibre that receives its result and goes on; an operand register of an open matrix operation receives an
unpredictable one (R245). -/
def State.wakeFibre (s : State) (w : Warp) (f : Fibre) (dst : Option Nat) (v : Word) : State :=
  let marked := match dst, s.group? w.gid with
    | some p, some g => (g.openRegs f.id).contains p
    | _, _ => false
  let (v1, s1) := if marked then s.freeWord else (v, s)
  s1.onFibre w.wid f.lane (fun f => f.wake dst v1)

/-- Whether a status ends a wait of NWAIT (R262). -/
def nwaitEnds (prov : Bool) (st : NodeState) : Bool := st.terminal || (prov && st = .complete)

/-- The lines of a core's L1 dropped (R188). -/
def State.dropL1 (s : State) (core : Nat) : State := { s with l1 := s.l1.filter (fun x => x.core ≠ core) }

/-- The fibres of a context that wait for a node's status, released by it: an acquire at `.device` (R235, R262). -/
def State.wakeNwait (s : State) (n : Node) : State :=
  let mine (w : Warp) : Bool := (s.group? w.gid).any (fun g => g.ctx = n.ctx)
  let ends (f : Fibre) : Option (Option Nat) :=
    match f.park with
    | some { wait := .node prov addr dst, at_ := _ } =>
      if addr = n.addr && nwaitEnds prov n.state then some dst else none
    | _ => none
  (s.warps.filter mine).foldl (fun s w => w.fibres.foldl (fun s f =>
    match ends f with
    | some dst => (s.wakeFibre w f dst n.status).dropL1 (coreOf w.wid)
    | none => s) s) s

/-! ## Status writes and the state of a node -/

/-- The walker's entry for a record, made when the record is first named. A record rewritten and released anew is a new node:
it stands no longer for the terminal one as a predecessor (R252, R255). -/
def State.ensureNode (s : State) (cn : Nat) (addr : VAddr) : State :=
  match s.node? cn addr with
  | some n =>
    if n.state.terminal then
      let s1 := { s with nodes := s.nodes.map (fun (k : Node) =>
        if k.ctx = cn then { k with preds := k.preds.filter (fun a => a ≠ addr) } else k) }
      s1.onNode cn addr (fun n => { addr := n.addr, ctx := n.ctx, state := .waiting })
    else s
  | none => { s with nodes := s.nodes ++ [{ addr := addr, ctx := cn, state := .waiting }] }

/-- The status word of a node written to its record, to its notify word at a terminal transition, and to the fibres that
wait for it (R249). -/
def State.writeStatus (s : State) (cn : Nat) (addr : VAddr) : State :=
  match s.node? cn addr with
  | none => s
  | some n =>
    let s1 := s.walkerWrite cn (addr.toNat + 4) (bytesOf 4 n.status.toNat)
    let notify := recNat n.record 0x30 8 % 2 ^ 52
    let s2 := if n.state.terminal && notify ≠ 0 then s1.walkerWrite cn notify (bytesOf 4 n.status.toNat) else s1
    let s3 :=
      if n.state.terminal then
        let (p, s3) := s2.walkerNat cn (addr.toNat + 8) 4
        s3.onNode cn addr (fun n => { n with leftPred := p })
      else s2
    s3.wakeNwait n

/-- Whether a record stands as the walker left it at its terminal transition, so that no software has rewritten it: its status
and pred words (R252). -/
def State.asLeft (s : State) (cn : Nat) (addr : VAddr) : Bool × State :=
  match s.node? cn addr with
  | none => (false, s)
  | some n =>
    let (st, s1) := s.walkerNat cn (addr.toNat + 4) 4
    let (p, s2) := s1.walkerNat cn (addr.toNat + 8) 4
    (n.state.terminal && st = n.status.toNat && p = n.leftPred, s2)

/-- A node's state changed, with its status written. -/
def State.setNode (s : State) (cn : Nat) (addr : VAddr) (u : Node → Node) : State :=
  (s.onNode cn addr u).writeStatus cn addr

/-- The parent's children count lowered by 1 when a child becomes terminal (R260). -/
def State.childDone (s : State) (cn : Nat) (addr : VAddr) : State :=
  match (s.node? cn addr).bind Node.parent with
  | none => s
  | some p =>
    let s1 := s.onNode cn p (fun n => { n with children := n.children - 1 })
    match s1.node? cn p with
    | some n => s1.walkerWrite cn (p.toNat + 0x2C) (bytesOf 4 n.children)
    | none => s1

/-! ## Staged pages (R256, R258) -/

/-- The pages that a node has staged, put back to their pre-images as a rename at `.device`: every pre-image gains the count
of its page, then every live frame loses one, and the translations of the pages are dropped everywhere (R258). -/
def State.unstage (s : State) (cn : Nat) (addr : VAddr) : State :=
  match s.ctx? cn with
  | none => s
  | some c =>
    let mine := c.staged.filter (fun g => g.node = addr)
    let s0 := s.onCtx cn (fun c => { c with staged := c.staged.filter (fun g => g.node ≠ addr) })
    let (live, s1) := mine.foldl (fun (acc : List DWord × State) g =>
      match acc.2.entryFor cn (g.page * 65536) 3 with
      | (none, s') => (acc.1, s')
      | (some a, s') =>
        (acc.1 ++ [s'.entryAt a],
          ((s'.setEntry cn a g.oldLeaf).onCtx cn (fun c => c.setCount g.tier g.frame (c.count g.tier g.frame + 1))).dropTlb
            (fun _ => true) cn g.page 1)) ([], s0)
    let s2 := (live.filter (fun e => pteValid e)).foldl (fun s e => s.loseCount cn e 3) s1
    s2.reshare cn ((mine.map (fun g => unitOf g.tier g.frame)) ++ live.map (fun e => unitOf (pteTier e) (pteFrame e)))

/-- The pre-images of a node freed at its commit: those that no leaf maps return to their pool (R252, R256). -/
def State.freePreimages (s : State) (cn : Nat) (addr : VAddr) : State :=
  match s.ctx? cn with
  | none => s
  | some c =>
    let mine := c.staged.filter (fun g => g.node = addr)
    let s0 := s.onCtx cn (fun c => { c with staged := c.staged.filter (fun g => g.node ≠ addr) })
    mine.foldl (fun s g =>
      let s1 := match s.walk c (g.page * 65536) with
        | .leaf e _ a => s.setEntry cn a (pteSet e 8 1 0)
        | .stop .. => s
      if c.count g.tier g.frame = 0 then s1.freeFrames cn g.tier g.frame 1 else s1) s0

/-! ## Ending a node's agents -/

/-- Whether a node's masks name a core (R247). -/
def Node.masks (n : Node) (core : Nat) : Bool :=
  recNat n.record 0x28 1 / 2 ^ (core / 64) % 2 = 1 && recNat n.record 0x20 8 / 2 ^ (core % 64) % 2 = 1

/-- The nodes whose masks name one of some cores try the placement of their next group again (R53). -/
def State.retryPlacement (s : State) (cores : List Nat) : State :=
  { s with nodes := s.nodes.map (fun (n : Node) =>
      if cores.any n.masks then { n with tryPlace := true } else n) }

/-- Every node tries the placement of its next group again: a core has come back to service, or a node has become ready
(R53). -/
def State.retryAll (s : State) : State := { s with nodes := s.nodes.map (fun (n : Node) => { n with tryPlace := true }) }

/-- A node's resident groups, warps, operations and saved records removed, with its waiters in the fault records (R258,
R259, R374, R380). The resources they held are free from then on (R29). -/
def State.stopNode (s : State) (cn : Nat) (addr : VAddr) : State :=
  let mineG := s.groups.filter (fun (g : Group) => g.ctx = cn && g.node = addr)
  let gs := mineG.map Group.gid
  let s := s.retryPlacement (mineG.flatMap (fun (g : Group) => g.shares.map Share.core))
  let mine (o : Op) : Bool := o.ctx = cn && o.node = addr
  let gone := s.ops.filter mine
  let held := s.saved.filter (fun v => v.ctx = cn && v.group.node = addr)
  { s with
    groups := s.groups.filter (fun g => !gs.contains g.gid)
    warps := s.warps.filter (fun w => !gs.contains w.gid)
    cur := match s.cur with
      | some wid => if s.warps.any (fun w => w.wid = wid && gs.contains w.gid) then none else some wid
      | none => none
    ops := s.ops.filter (fun o => !mine o)
    saved := s.saved.filter (fun v => !(v.ctx = cn && v.group.node = addr))
    faults := (s.faults.map (fun r =>
      { r with waiters := r.waiters - (gone.filter (fun o => o.record = some r.id)).length
                 - (held.filter (fun v => v.record = some r.id)).length
                 - (r.fetchers.filter (fun x => s.warps.any (fun w => w.wid = x.1 && gs.contains w.gid))).length
               fetchers := r.fetchers.filter (fun x => !s.warps.any (fun w => w.wid = x.1 && gs.contains w.gid)) })).filter
      (fun r => r.waiters ≠ 0)
    nodes := s.nodes.map (fun n => if n.ctx = cn && n.addr = addr then
      { n with works := n.works.map (fun w => if w.last = none then { w with last := some s.time } else w) } else n) }

/-! ## The code of a node (R101) -/

/-- Memory as it stands. -/
def State.image (s : State) : MemImage := { mem := s.mem, unitKey := s.unitKey, scrambled := s.scrambled }

/-- A node that starts to run: RUNNING, with its code as it stands (R101, R252). -/
def State.startNode (s : State) (cn : Nat) (addr : VAddr) (u : Node → Node) : State :=
  s.setNode cn addr (fun n => { u n with state := .running, codeRun := some s.image })

/-! ## Transitions -/

/-- A transition to be made. -/
inductive Act where
  /-- A decrement of a record's pred count, by a predecessor or by a releaser; with B set for a lost predecessor. -/
  | dec (addr : VAddr) (by_ : Option VAddr) (bad : Bool) (place : Nat)
  /-- The walker takes a node whose count has reached 0 (R251). -/
  | take (addr : VAddr)
  /-- The node's work has ended (R252). -/
  | complete (addr : VAddr)
  | fail (addr : VAddr) (code : Nat) (cause : Nat)
  | kill (addr : VAddr)
  /-- A rollback as R258 gives, or of a successor reached from one (R395). -/
  | roll (addr : VAddr) (reached bad : Bool)
  deriving DecidableEq, Repr

/-- The addresses of a node's successors, read from its array (R247). A number above 65,536, which makes the record invalid,
names no array. -/
def State.successors (s : State) (n : Node) : List VAddr × State :=
  let base := recNat n.record 0x10 8 % 2 ^ 52
  let nsucc := recNat n.record 0xC 4
  (List.range (if 65536 < nsucc then 0 else nsucc)).foldl (fun (acc : List VAddr × State) i =>
    let (v, s1) := acc.2.walkerNat n.ctx (base + 8 * i) 8
    (acc.1 ++ [BitVec.ofNat 52 v], s1)) ([], s)

/-- The record of a node read once (R251). -/
def State.readRecord (s : State) (cn : Nat) (addr : VAddr) : State :=
  let (bs, s1) := s.walkerRead cn addr.toNat 256
  s1.onNode cn addr (fun n => { n with record := bs })

/-- The failure code that the walker's checks give a record, if any, in the order of R251. -/
def Node.refusal (n : Node) : Option Nat :=
  if n.invalid then some 0x07
  else if 11 ≤ n.depth then some 0x01
  else if n.kind = 0 && !n.launch.ok then some 0x02
  else none

/-- Children of a node that are not terminal. -/
def State.liveChildren (s : State) (cn : Nat) (addr : VAddr) : List VAddr :=
  (s.nodes.filter (fun n => n.ctx = cn && n.parent = some addr && !n.state.terminal)).map Node.addr

/-- What a lost or rolled-back predecessor does to a successor that it had already decremented (R258, R259, R395). -/
def State.reachSuccessor (s : State) (cn : Nat) (x : VAddr) (y : VAddr) (lost : Bool) : List Act × State :=
  match s.node? cn y with
  | none => ([], s)
  | some n =>
    match n.state with
    | .waiting =>
      if lost then ([], s.onNode cn y (fun n => { n with bad := true }))
      else
        let (p, s1) := s.walkerNat cn (y.toNat + 8) 4
        ([], (s1.walkerWrite cn (y.toNat + 8) (bytesOf 4 (p + 1))).onNode cn y (fun n =>
          { n with preds := n.preds.filter (fun a => a ≠ x) }))
    | .ready | .running | .complete =>
      if n.repl && !n.u then ([.roll y true lost], s)
      else ([.fail y 0x06 0], s.onNode cn y (fun n => { n with bad := true }))
    | .committed | .failed | .killed => ([], s)

/-- The successors of a lost node: those not yet decremented are decremented with B set, the others reached (R259). -/
def State.loseSuccessors (s : State) (n : Node) : List Act × State :=
  let (ys, s1) := s.successors n
  ys.foldl (fun (acc : List Act × State) y =>
    if n.released.contains y then
      let (as, s2) := acc.2.reachSuccessor n.ctx n.addr y true
      (acc.1 ++ as, s2)
    else (acc.1 ++ [.dec y (some n.addr) true 0], acc.2)) ([], s1)

/-- One transition of a context's nodes, with the transitions that it causes (R396: one at a time, in order). -/
def State.act (s : State) (cn : Nat) : Act → List Act × State
  | .dec addr by_ bad place =>
    let (p, s0) := s.walkerNat cn (addr.toNat + 8) 4
    if p = 0 then
      ([], s0.log { type := 0x0C, severity := 0, ctx := some cn, node := addr.toNat, addr := addr.toNat, detail := [place] })
    else
      let (old, s1) := s0.asLeft cn addr
      if old then
        ([], (s1.onNode cn addr (fun n => { n with leftPred := p - 1 })).walkerWrite cn (addr.toNat + 8) (bytesOf 4 (p - 1)))
      else
        let s2 := (s1.ensureNode cn addr).onNode cn addr (fun n =>
          { n with bad := n.bad || bad, preds := match by_ with | some p => n.preds ++ [p] | none => n.preds })
        let s3 := s2.walkerWrite cn (addr.toNat + 8) (bytesOf 4 (p - 1))
        if p = 1 && (s3.node? cn addr).any (fun n => n.state == .waiting) then ([.take addr], s3) else ([], s3)
  | .take addr =>
    let s1 := s.readRecord cn addr
    match s1.node? cn addr with
    | none => ([], s1)
    | some n0 =>
      let depth := match n0.parent with
        | some p => match s1.node? cn p with | some q => q.depth + 1 | none => 0
        | none => 0
      let n := { n0 with depth := depth }
      let s2 := s1.onNode cn addr (fun n => { n with depth := depth, codeRel := some s1.image })
      match n.refusal with
      | some code => ([.fail addr code 0], s2)
      | none =>
        let (k, s3) := { s2 with icache := s2.icache.filter (fun x => !(x.ctx = cn && x.node = addr)) }.fresh
        let s4 := s3.walkerWrite cn (addr.toNat + 0x2A) (bytesOf 1 depth)
        if n.kind = 4 then ([.complete addr], s4)
        else ([], (s4.setNode cn addr (fun n => { n with state := .ready, readyAt := k, placed := 0, retired := 0,
                                                         attempts := 0, checked := false })).retryAll)
  | .complete addr =>
    match s.node? cn addr with
    | none => ([], s)
    | some n =>
      let (ys, s1) := s.successors n
      let s2 := s1.setNode cn addr (fun n => { n with state := .complete, released := ys })
      (ys.map (fun y => .dec y (some addr) false 0), s2)
  | .fail addr code cause =>
    match s.node? cn addr with
    | none => ([], s)
    | some n =>
      if n.state.terminal then ([], s)
      else
        let kids := s.liveChildren cn addr
        let s1 := (s.stopNode cn addr).unstage cn addr
        let s2 := (s1.setNode cn addr (fun n => { n with state := .failed, code := code })).childDone cn addr
        let st := match s2.node? cn addr with | some n => n.status.toNat | none => 0
        let s3 := s2.log { type := 0x0A, severity := 3, ctx := some cn, node := addr.toNat, detail := [st, cause] }
        let (as, s4) := s3.loseSuccessors n
        (kids.map .kill ++ as, s4)
  | .kill addr =>
    match s.node? cn addr with
    | none => ([], s)
    | some n =>
      if n.state.terminal then ([], s)
      else
        let kids := s.liveChildren cn addr
        let s0 := if n.state = .waiting then s.readRecord cn addr else s
        let s1 := (s0.stopNode cn addr).unstage cn addr
        let s2 := (s1.setNode cn addr (fun n => { n with state := .killed })).childDone cn addr
        match s2.node? cn addr with
        | some n1 =>
          let (as, s3) := s2.loseSuccessors { n1 with released := n.released }
          (kids.map .kill ++ as, s3)
        | none => (kids.map .kill, s2)
  | .roll addr reached bad =>
    match s.node? cn addr with
    | none => ([], s)
    | some n =>
      if n.state.terminal || n.state = .waiting || (n.state = .ready && !reached) then ([], s)
      else if !reached && (!n.repl || n.u) then ([.fail addr 0x05 0], s)
      else
        let kids := s.liveChildren cn addr
        let s1 := (s.stopNode cn addr).unstage cn addr
        let s2 := s1.onNode cn addr (fun n => { n with bad := n.bad || bad, children := 0, u := false, placed := 0,
                                                       retired := 0, released := [], attempts := 0, checked := false,
                                                       works := [] })
        let s2 := { s2 with nodes := s2.nodes.map (fun (k : Node) =>
          if k.ctx = cn && kids.contains k.addr then { k with parent := none } else k) }
        let s2 := s2.walkerWrite cn (addr.toNat + 0x2C) (bytesOf 4 0)
        let (as, s3) := n.released.foldl (fun (acc : List Act × State) y =>
          let (bs, s') := acc.2.reachSuccessor cn addr y false
          (acc.1 ++ bs, s')) ([], s2)
        if !reached then
          let (k, s4) := s3.fresh
          (kids.map .kill ++ as, (s4.setNode cn addr (fun n => { n with state := .ready, readyAt := k })).retryAll)
        else
          let open_ := n.preds.filter (fun p => match s3.node? cn p with
            | some q => q.state = .waiting || q.state = .ready || q.state = .running
            | none => false)
          let s4 := s3.walkerWrite cn (addr.toNat + 8) (bytesOf 4 open_.length)
          let s5 := s4.setNode cn addr (fun n =>
            { n with state := .waiting, preds := n.preds.filter (fun p => !open_.contains p) })
          (kids.map .kill ++ as ++ (if open_.isEmpty then [.take addr] else []), s5)

/-- Transitions worked off in order, each followed by the ones that it causes. -/
def State.actAll (cn : Nat) : Nat → List Act → State → State
  | 0, _, s => s
  | _, [], s => s
  | n + 1, a :: as, s =>
    let (more, s1) := s.act cn a
    State.actAll cn n (as ++ more) s1

/-- A bound on the transitions that one event can cause: every node can be reached once by each kind from each other. -/
def State.actBound (s : State) : Nat := 2 ^ 20 + 8 * (s.nodes.length + 1) * (s.nodes.length + 1)

/-- Transitions of a context and all that they cause. -/
def State.acts (s : State) (cn : Nat) (as : List Act) : State := State.actAll cn s.actBound as s

end Sys2Proof.Machine
end

