-- ==== Sys2Proof/Machine/Access.lean ====
section
/-! DEFINITION. Accesses to memory by the agents of a node: fault records (R378 to R380), pages pinned for an access (R197),
staging before a first write (R199, R256), unstaged writes (R257), the L1 (R188, R234), and the byte addresses of the
spaces (R63, R185, R187). -/

namespace Sys2Proof.Machine

open Sys2Proof

/-- Who makes an access: context, node, core, the caches its translations use, its place for records, and whether an engine
makes it, or an access in flight in deferring mode (R379). -/
structure Agent where
  ctx : Nat
  node : VAddr
  core : Nat
  places : List TlbPlace
  place : Nat
  engine : Bool
  deferred : Bool
  deriving DecidableEq, Repr

/-! ## Fault records -/

/-- The code that an unresolved fault of a cause gives its node (R380). -/
def faultCode (cause : Nat) : Nat :=
  match cause with
  | 6 => 0x08 | 7 => 0x0A | c => 0x1F + c

/-- The number under which a fault at a `.d` address goes: beyond the virtual addresses, so that its record is of no page of `.g`
(R379, R398; log 94). -/
def dieVa (a : Nat) : Nat := 2 ^ 52 + a

/-- The key identity of a fault record: that of the page's leaf, or the context's where the page has none (R201, R379). -/
def State.faultKey (s : State) (cn va : Nat) : Nat :=
  match s.ctx? cn with
  | none => 0
  | some c => match (if va < 2 ^ 52 then s.walk c va else .stop 7 0) with
    | .leaf e _ _ => pteKey e
    | .stop .. => c.key

/-- A fault posted, or joined to the open record of the same context, page, cause and access (R379); none while the hub's
256 records are all open. A fault of cause 2 fails the node at once (R380). -/
def State.postFault (s : State) (ag : Agent) (va cause level : Nat) (access : Access) : Option Nat × State :=
  let page := va / 65536
  let key := s.faultKey ag.ctx va
  match s.faults.find? (fun r => r.ctx = ag.ctx && r.page = page && r.cause = cause && r.access = access.code) with
  | some r =>
    (some r.id, { s with faults := s.faults.map (fun x => if x.id = r.id then { x with waiters := x.waiters + 1 } else x) })
  | none =>
    if 256 ≤ (s.faults.filter (fun r => r.ctx % 2 = ag.ctx % 2)).length then (none, s)
    else
      let (k, s1) := s.fresh
      let r : FaultRec :=
        { id := k, ctx := ag.ctx, page := page, cause := cause, access := access.code, addr := va % 2 ^ 52, engine := ag.engine,
          deferred := ag.deferred, key := key, place := ag.place, node := ag.node, waiters := 1, level := level,
          since := s.time, fetchers := [] }
      let s2 := { s1 with faults := s1.faults ++ [r] }
      let control := cause + access.code * 16 + ag.engine.toNat * 64 + ag.deferred.toNat * 128 + ag.ctx * 256
        + key * 2 ^ 18
      let s3 := s2.log { type := 0x09, severity := 0, source := dieOf ag.core, ctx := some ag.ctx, place := ag.place,
                         node := ag.node.toNat, addr := va % 2 ^ 52, detail := [control, level] }
      let s4 := if cause = 2 then s3.acts ag.ctx [.fail ag.node 0x21 0] else s3
      (some k, s4)

/-- Fault records closed: every access and every clause start that waited on them goes on (R381). -/
def State.closeFaults (s : State) (p : FaultRec → Bool) : State :=
  let ids := (s.faults.filter p).map FaultRec.id
  { s with
    faults := s.faults.filter (fun r => !ids.contains r.id)
    ops := s.ops.map (fun o => if o.record.any (fun k => ids.contains k) then { o with record := none } else o)
    saved := s.saved.map (fun v => if v.record.any (fun k => ids.contains k) then { v with record := none } else v) }

/-- Fault records whose resolving event has come about (R380). -/
def State.dueFaults (s : State) (p : FaultRec → Bool) : State :=
  { s with faults := s.faults.map (fun r => if p r then { r with due := true } else r) }

/-! ## The pages of a rename (R194, R195) -/

/-- The first whole page of a range and the number of whole pages in it (R195). -/
def wholePages (va len : Nat) : Nat × Nat :=
  let p := (va + 65535) / 65536
  (p, (va + len) / 65536 - p)

/-- The pages whose leaves a rename may change, as (first page, pages). -/
def Rename.ranges : Rename → List (Nat × Nat)
  | .move d q n => [wholePages d n, wholePages q n]
  | .swap a b n => [wholePages a n, wholePages b n]
  | .copyLeaves d _ n => [wholePages d n]
  | .perm d _ idx => [(d / 65536, idx.length)]
  | .drop va n => [wholePages va n]
  | .fresh va n _ => [wholePages va n]

/-- Whether a rename's ranges touch a page. -/
def Rename.touches (r : Rename) (page : Nat) : Bool :=
  let byte (va n : Nat) : Bool := n ≠ 0 && va / 65536 ≤ page && page ≤ (va + n - 1) / 65536
  match r with
  | .move d q n => byte d n || byte q n
  | .swap a b n => byte a n || byte b n
  | .copyLeaves d _ n => byte d n
  | .perm d _ idx => byte d (65536 * idx.length)
  | .drop va n => byte va n
  | .fresh va n _ => byte va n

/-! ## Raw copies of frames -/

/-- The listed entries of a table from `lo` on, `n` of them by number, moved by `at_` − `lo`, in place of what stood there. -/
def copyRange {α : Type} (l : Sparse α) (lo at_ n : Nat) : Sparse α :=
  let moved := (l.filter (fun e => lo ≤ e.1 && e.1 < lo + n)).map (fun e => (e.1 - lo + at_, e.2))
  l.filter (fun e => e.1 < at_) ++ moved ++ l.filter (fun e => at_ + n ≤ e.1)

/-- A whole 64 KiB frame copied by an engine that reads and writes it under one key (R13, R201): a unit that the key does
not decrypt is unpredictable in the copy. -/
def State.copyFrame (s : State) (key src dst : Nat) : State :=
  let m := s.keyMark key
  let listed := s.unitKey.filter (fun e => src / 16 ≤ e.1 && e.1 < src / 16 + 4096)
  let good : List Nat :=
    if s.scrambled.contains (src / 65536) then (listed.filter (fun e => e.2 = m)).map (fun e => e.1 - src / 16)
    else (List.range 4096).filter (fun i => !(listed.filter (fun e => e.2 ≠ m)).any (fun e => e.1 = src / 16 + i))
  { s with
    mem := copyRange s.mem src dst 65536
    unitKey := s.unitKey.filter (fun e => e.1 < dst / 16) ++ good.map (fun i => (dst / 16 + i, m))
      ++ s.unitKey.filter (fun e => dst / 16 + 4096 ≤ e.1)
    scrambled := if good.length < 4096 then addNat (dst / 65536) s.scrambled
                 else s.scrambled.filter (fun f => f ≠ dst / 65536)
    devWritten := addNat (dst / 65536) s.devWritten }

/-- A frame handed out with unpredictable contents (R194, R201). -/
def State.scramble (s : State) (pa : Nat) : State :=
  match storage pa with
  | .dram =>
    { s with unitKey := s.unitKey.filter (fun e => !(pa / 16 ≤ e.1 && e.1 < pa / 16 + 4096))
             scrambled := addNat (pa / 65536) s.scrambled }
  | _ => s

/-! ## Staging (R199, R256) -/

/-- Whether a write of a node to a page must stage it first: the page lies in a region of the running node, has a valid
leaf of tier 0 or 1, and no running node has staged it. -/
def State.mustStage (s : State) (cn : Nat) (node : VAddr) (page : Nat) : Option Nat :=
  match s.node? cn node, s.ctx? cn with
  | some n, some c =>
    if n.state ≠ .running then none
    else match n.regionOf page with
      | none => none
      | some kind =>
        if c.staged.any (fun g => g.page = page) then none
        else match s.walk c (page * 65536) with
          | .leaf e _ _ => if pteTier e < 2 then some kind else none
          | .stop .. => none
  | _, _ => none

/-- Pinned pages with one moved to a new frame. -/
def repin (page old new : Nat) (pins : List (Nat × Nat × Nat)) : List (Nat × Nat × Nat) :=
  pins.map (fun p => if p.1 = page * 65536 && p.2.1 = old then (p.1, new, p.2.2) else p)

/-- A staged page's writes in flight turned to its new frame, by whatever party they are made: they reach the live
leaf (R256). -/
def State.turnWrites (s : State) (cn page old new : Nat) : State :=
  { s with ops := s.ops.map (fun o =>
      if o.ctx = cn then
        { o with wpins := repin page old new o.wpins
                 pins := match o.kind with
                   | .store .. | .atomic .. => repin page old new o.pins
                   | _ => o.pins }
      else o) }

/-- The page staged (R256): a large leaf split, a frame of the leaf's tier taken, COPYFIRST contents copied by the copy
engine of the agent's core, and the new frame mapped with the old key and permissions and the staged bit; none where the
pool cannot supply the frame or a table page. -/
def State.stageNow (s : State) (cn : Nat) (node : VAddr) (core page kind : Nat) : Option State :=
  match s.entryFor cn (page * 65536) 3 with
  | (none, _) => none
  | (some a, s1) =>
    let e := s1.entryAt a
    let tier := pteTier e
    match (s1.ctx? cn).bind (fun c => c.takeFrame tier) with
    | none => none
    | some (f, c1) =>
      let old := tierBase tier 0 + pteFrame e * 65536
      let new := tierBase tier 0 + f * 65536
      let n := c1.count tier (pteFrame e)
      let s2 := s1.onCtx cn (fun _ =>
        { (c1.setCount tier f 1).setCount tier (pteFrame e) (n - 1) with
          staged := c1.staged ++ [{ node := node, page := page, tier := tier, frame := pteFrame e, oldLeaf := e }] })
      let s3 := if kind = 1 then
          (s2.copyFrame (pteKey e) old new).onCore core (fun k => { k with copyBytes := k.copyBytes + 65536 })
        else s2.scramble new
      let leaf := pteSet (pteSet (pteSet e 20 32 f) 8 1 1) 9 1 0
      let s4 := (s3.setEntry cn a leaf).reshare cn (if n = 2 then [unitOf tier (pteFrame e)] else [])
      some ((s4.turnWrites cn page old new).dropTlb (fun _ => true) cn page 1)

/-- A write's page staged if it must be; none where the pool is empty (R256). -/
def State.stageFor (s : State) (ag : Agent) (page : Nat) : Option State :=
  match s.mustStage ag.ctx ag.node page with
  | none => some s
  | some kind => s.stageNow ag.ctx ag.node ag.core page kind

/-! ## Pinned pages -/

/-- The pages of `n` bytes from `va`, as (first byte, bytes in the page). -/
def pieces (va n : Nat) : List (Nat × Nat) :=
  if n = 0 then []
  else (List.range ((va % 65536 + n + 65535) / 65536)).map (fun i =>
    let lo := max va ((va / 65536 + i) * 65536)
    (lo, min (va + n) ((va / 65536 + i + 1) * 65536) - lo))

/-- A page translated and pinned for an access, staged first where it is a write that must stage it: (page address,
physical page, key), or cause and level. The copy of a COPYFIRST page consumes poison as an engine read does (R383). `.k`
accesses and the part's own frames never stage a page (R256). -/
def State.pinPage (s : State) (ag : Agent) (va : Nat) (access : Access) (stage : Bool) :
    Except (Nat × Nat) (Nat × Nat × Nat) × State :=
  let go (s : State) : Except (Nat × Nat) (Nat × Nat × Nat) × State :=
    match s.translate ag.places ag.ctx va access with
    | (.error x, s1) => (.error x, s1)
    | (.ok (pa, k), s1) => (.ok (va / 65536 * 65536, pa / 65536 * 65536, k), s1)
  if stage && (access = .write || access = .atomic) then
    match go s with
    | (.error x, s1) => (.error x, s1)
    | (.ok p, s1) =>
      match s1.mustStage ag.ctx ag.node (va / 65536) with
      | none => (.ok p, s1)
      | some kind =>
        if kind = 1 && s1.poisoned p.2.1 65536 then (.error (7, 3), s1)
        else match s1.stageNow ag.ctx ag.node ag.core (va / 65536) kind with
        | none => (.error (6, 3), s1)
        | some s2 => go s2
  else go s

/-- All pages of a list of ranges pinned; the first that fails gives its address, cause and level. -/
def State.pinAll (s : State) (ag : Agent) (access : Access) (stage : Bool) :
    List Nat → Except (Nat × Nat × Nat) (List (Nat × Nat × Nat)) × State
  | [] => (.ok [], s)
  | va :: vas =>
    match s.pinPage ag (va % 2 ^ 52) access stage with
    | (.error (c, l), s1) => (.error (va % 2 ^ 52, c, l), s1)
    | (.ok p, s1) =>
      match s1.pinAll ag access stage vas with
      | (.error x, s2) => (.error x, s2)
      | (.ok ps, s2) => (.ok (if ps.contains p then ps else p :: ps), s2)

/-- The `n` addresses from `va` on. -/
def rangeOf (va n : Nat) : List Nat := (List.range n).map (fun i => va + i)

/-- The physical byte and key of a virtual byte under pinned pages. -/
def pinned (pins : List (Nat × Nat × Nat)) (va : Nat) : Option (Nat × Nat) :=
  (pins.find? (fun p => p.1 = va / 65536 * 65536)).map (fun p => (p.2.1 + va % 65536, p.2.2))

/-- Bytes read under pinned pages. -/
def State.readPinned (s : State) (pins : List (Nat × Nat × Nat)) : List Nat → List Byte × State
  | [] => ([], s)
  | va :: vas =>
    let (b, s1) := match pinned pins (va % 2 ^ 52) with
      | some (pa, k) => s.readByte k pa
      | none => (0, s)
    let (bs, s2) := s1.readPinned pins vas
    (b :: bs, s2)

/-- The pages of pinned addresses that hold poison: the first address whose granule is poisoned (R383). -/
def State.poisonAt (s : State) (pins : List (Nat × Nat × Nat)) (vas : List Nat) : Option Nat :=
  vas.find? (fun va => match pinned pins (va % 2 ^ 52) with
    | some (pa, _) => s.poisoned pa 1
    | none => false)

/-! ## Writes of agents -/

/-- The U bit of a node set by an unstaged write to a virtual address (R257). -/
def State.noteWrite (s : State) (cn : Nat) (node : VAddr) (va pa : Nat) : State :=
  match s.node? cn node, s.ctx? cn with
  | some n, some c =>
    let page := va / 65536
    let staged := c.staged.any (fun g => g.page = page && g.node = node)
    if storage pa = .dram && (n.regionOf page).isSome && staged then s
    else s.onNode cn node (fun n => { n with u := true })
  | _, _ => s

/-- The U bit of a node set by a write to `.d` (R257). -/
def State.noteUnstaged (s : State) (cn : Nat) (node : VAddr) : State := s.onNode cn node (fun n => { n with u := true })

/-- The lines of a core's L1 in the granule of an address that another context's `.k` stores own, taken over with every byte
0 (R202). -/
def State.claimL1 (s : State) (core cn pa : Nat) : State :=
  { s with l1 := s.l1.map (fun x =>
      if x.core = core && x.addr / 256 = pa / 256 && x.owner ≠ 0 && x.owner ≠ cn + 1 then
        { x with owner := cn + 1, bytes := List.replicate 128 0 } else x) }

/-- One byte of a core's own L1 lines updated by a store of a context (R234); a `.k` store leaves its owner tag (R202). -/
def State.updateL1 (s : State) (core cn pa : Nat) (k : Bool) (b : Byte) : State :=
  let s1 := s.claimL1 core cn pa
  { s1 with l1 := s1.l1.map (fun x => if x.core = core && x.addr = pa / 128 * 128 then
      { x with bytes := x.bytes.set (pa % 128) b, owner := if k then cn + 1 else x.owner } else x) }

/-- Bytes at virtual addresses written under pinned pages by a node's agent: through to their homes, and in the L1 of the
agent's core (R188, R234, R257, R384). A write that never counts as unstaged is a `.k` write (R257). -/
def State.writePinned (s : State) (ag : Agent) (pins : List (Nat × Nat × Nat)) (note : Bool) : List (Nat × Byte) → State
  | [] => s
  | (va, b) :: rest =>
    match pinned pins (va % 2 ^ 52) with
    | none => s.writePinned ag pins note rest
    | some (pa, k) =>
      let s0 := s.writeByte k pa b
      let s1 := (s0.updateL1 ag.core ag.ctx pa (!note) b).markWritten pa
      let s2 := if note then s1.noteWrite ag.ctx ag.node (va % 2 ^ 52) pa else s1
      s2.writePinned ag pins note rest

/-! ## The L1 (R188, R234) -/

/-- Lines that the L1 of a core holds (R20): 128 KiB. -/
def l1Lines : Nat := 1024

/-- One byte of a plain load of a context through the L1: a hit reads the line as it was filled, and 0 where another context's
`.k` stores own it (R202); a miss reads the home, and allocates the line unless `.na` forbids it. -/
def State.l1Byte (s : State) (core cn key pa : Nat) (allocate : Bool) : Byte × State :=
  match s.l1.find? (fun x => x.core = core && x.addr = pa / 128 * 128 && x.key = key) with
  | some x => (if x.owner = 0 || x.owner = cn + 1 then x.bytes.getD (pa % 128) 0 else 0, s)
  | none =>
    if allocate then
      let (bs, s1) := s.readBytes key (pa / 128 * 128) 128
      let mine := s1.l1.filter (fun x => x.core = core)
      let kept := if mine.length < l1Lines then s1.l1 else
        s1.l1.erase (mine.getLastD { core := core, addr := 0, key := 0, bytes := [] })
      (bs.getD (pa % 128) 0, { s1 with l1 := { core := core, addr := pa / 128 * 128, key := key, bytes := bs } :: kept })
    else s.readByte key pa

/-- Bytes of a plain load of a context under pinned pages, through the core's L1. -/
def State.loadL1 (s : State) (core cn : Nat) (pins : List (Nat × Nat × Nat)) (allocate : Bool) :
    List Nat → List Byte × State
  | [] => ([], s)
  | va :: vas =>
    let (b, s1) := match pinned pins (va % 2 ^ 52) with
      | some (pa, k) => s.l1Byte core cn k pa allocate
      | none => (0, s)
    let (bs, s2) := s1.loadL1 core cn pins allocate vas
    (b :: bs, s2)

/-! ## Addresses of the spaces -/

/-- The virtual address of byte `o` of a lane's `.k` space (R63). -/
def kAddr (w : Warp) (vlane o : Nat) : Nat := (w.spill.toNat + 128 * (o / 4) + 4 * vlane + o % 4) % 2 ^ 52

/-- The core and physical byte of an offset in a group's scratchpad (R51): the share that holds it. -/
def Group.scratchAt (g : Group) (o : Nat) : Option (Nat × Nat) :=
  let per := g.scratch / g.shares.length
  if g.scratch ≤ o then none
  else (g.shares[o / per]?).map (fun sh =>
    (sh.core, coreBase sh.core + (sh.granules.getD (o % per / 8192) 0) * 8192 + o % 8192))

/-- The physical byte of a `.d` address for a context (R17, R187); none outside the grant. -/
def Ctx.dieAt (c : Ctx) (a : Nat) : Option Nat :=
  let die := a / 2 ^ 27 % 8
  let o := a % 2 ^ 27
  match c.grants.find? (fun g => g.1 = die) with
  | none => none
  | some g => if a < 2 ^ 30 then (g.2[o / 2 ^ 24]?).map (fun u => dieBase die + u * 2 ^ 24 + o % 2 ^ 24) else none

/-- The first of `n` bytes from a `.d` address that lies in a poisoned granule, by its number in records (R383, R398). -/
def State.diePoison (s : State) (c : Ctx) (a n : Nat) : Option Nat :=
  ((List.range n).find? (fun i => (c.dieAt (a + i)).any (fun pa => s.poisoned pa 1))).map (fun i => dieVa (a + i))

/-- Whether `n` bytes from `a` lie in a context's `.d` space (R187). -/
def Ctx.dieHolds (c : Ctx) (a n : Nat) : Bool :=
  n = 0 || ((c.dieAt a).isSome && (c.dieAt (a + n - 1)).isSome && a / 2 ^ 27 = (a + n - 1) / 2 ^ 27)

/-- Scratchpad bytes of a group read from offset `o`; beyond its size they read 0. -/
def State.readScratch (s : State) (g : Group) (o : Nat) : Nat → List Byte × State
  | 0 => ([], s)
  | n + 1 =>
    let (b, s1) := match g.scratchAt o with
      | some (_, pa) => s.readByte g.ctx pa
      | none => (0, s)
    let (bs, s2) := s1.readScratch g (o + 1) n
    (b :: bs, s2)

/-- Scratchpad bytes of a group written from offset `o`. -/
def State.writeScratch (s : State) (g : Group) (o : Nat) : List Byte → State
  | [] => s
  | b :: bs =>
    (match g.scratchAt o with
      | some (_, pa) => s.writeByte g.ctx pa b
      | none => s).writeScratch g (o + 1) bs

/-- Die scratchpad bytes of a context read from address `a`. -/
def State.readDie (s : State) (c : Ctx) (a : Nat) : Nat → List Byte × State
  | 0 => ([], s)
  | n + 1 =>
    let (b, s1) := match c.dieAt a with
      | some pa => s.readByte c.num pa
      | none => (0, s)
    let (bs, s2) := s1.readDie c (a + 1) n
    (b :: bs, s2)

/-- Die scratchpad bytes of a context written from address `a`. -/
def State.writeDie (s : State) (c : Ctx) (a : Nat) : List Byte → State
  | [] => s
  | b :: bs =>
    (match c.dieAt a with
      | some pa => s.writeByte c.num pa b
      | none => s).writeDie c (a + 1) bs

end Sys2Proof.Machine
end

