-- ==== Sys2Proof/Machine/Defer.lean ====
section
/-! DEFINITION. Pending registers (R125), what an instruction reads and writes of them (R126, R127), residual entries and
their order (R128 to R136), and the landing of results, also while a handler runs (R358). -/

namespace Sys2Proof.Machine

open Sys2Proof

/-! ## Producers of pending registers -/

/-- What will write registers of one fibre: its place in program order (the number of the entry that it is, or is the replay
of; else of its own issue), and its destinations. -/
structure Producer where
  order : Nat
  regs : List Nat
  ccs : List (Fin 4)
  deriving DecidableEq, Repr

/-- A CC register by number. -/
def ccOf (n : Nat) : Fin 4 := ⟨n % 4, Nat.mod_lt _ (by decide)⟩

/-- The fragments that a matrix operation reads. -/
def Op.frags (o : Op) : List Signature :=
  match o.kind with
  | .matrix (.mma _ _ _ _ frags _) => frags
  | _ => []

/-- The register positions that an operation will write in the fibre of a number (R125). -/
def Op.dsts (o : Op) (fid : Nat) : List Nat :=
  match o.kind with
  | .load _ _ _ dst _ _ => if o.fid = fid then dst else []
  | .atomic _ _ _ _ _ (some dst) => if o.fid = fid then dst else []
  | .query _ dst => if o.fid = fid then dst else []
  | .nstat _ dst => if o.fid = fid then dst else []
  | .kvxlate _ ms => ((ms.filter (fun m => m.fid = fid)).flatMap (fun m => m.dst))
  | .pfxfind _ _ _ dst _ _ => if o.fid = fid then dst else []
  | .matrix (.accmv _ _ dst _ _ _) => (dst.filter (fun m => m.1 = fid)).flatMap Prod.snd
  | _ => []

/-- The CC registers that an operation will write in the fibre of a number (R125). -/
def Op.ccs (o : Op) (fid : Nat) : List (Fin 4) :=
  match o.kind with
  | .pfxfind _ _ _ _ cn _ => if o.fid = fid then [ccOf cn] else []
  | _ => []

/-- Whether an operation writes only registers: those of which R144 makes entries. A tile move is first brought to finish
with its tiles (R288). -/
def Op.registersOnly (o : Op) : Bool :=
  match o.kind with
  | .load .. | .query .. | .nstat .. | .kvxlate .. | .pfxfind .. => true
  | _ => false

/-- Operations that a release point waits for: loads, those of KVXLATE and PFXFIND among them, stores, atomics, reductions,
queries and renames (R214, R243, R329, R331). -/
def Op.isAccess (o : Op) : Bool :=
  match o.kind with
  | .load .. | .store .. | .atomic .. | .rename .. | .query .. | .nstat .. | .nrel .. | .kvxlate .. | .pfxfind .. => true
  | .matrix (.accst ..) | .matrix (.accld ..) => true
  | .matrix (.accmv _ _ _ amax _ _) => amax.isSome
  | _ => false

/-- An entry's place in the program order of its fibres (R131). -/
def Entry.order (e : Entry) : Nat := e.ord.getD e.seq

/-- The window base of a lane of an entry: the bundle's, but in a handler each fibre's own (R128, R358). -/
def Entry.baseOf (e : Entry) (lane : Nat) : Nat := ((e.laneBase.find? (fun b => b.1 = lane)).map Prod.snd).getD e.base

/-- The registers of a lane that an entry writes, as positions (R128, R130). -/
def Entry.dsts (e : Entry) (g : Group) (lane : Nat) : List Nat := e.instr.shape.dstRegs.filterMap (g.place (e.baseOf lane))

/-- The CC registers that an entry writes. -/
def Entry.ccs (e : Entry) : List (Fin 4) := e.instr.shape.ccw.toList

/-- The position that holds saved register j of the frame for a fibre in a handler (R359), as j. -/
def savedPlace (g : Group) (f : Fibre) (p : Nat) : Option Nat :=
  if p < g.ring then
    let j := (p + g.ring - f.b) % g.ring
    if j < 16 then some j else none
  else none

/-- Whether work with a number in the order of issues and appends belongs to the context that a handler interrupted in a
lane (R358). -/
def Warp.trapped (w : Warp) (lane : Nat) (seq : Option Nat) : Bool :=
  match w.handler, seq with
  | some h, some q => h.live.any (fun l => l.1 = lane) && q < h.since
  | _, _ => false

/-- The number under which an operation lands: that of the entry that it replays, else its own issue. -/
def Op.order (o : Op) : Nat := o.entry.getD o.issue

/-- A producer as the running fibre sees it: the handler's saved positions and its CC registers are not pending on the
trapped context's work (R358). -/
def Producer.seen (p : Producer) (w : Warp) (g : Group) (f : Fibre) : Producer :=
  if w.trapped f.lane (some p.order) then
    { p with regs := p.regs.filter (fun r => (savedPlace g f r).isNone), ccs := [] } else p

/-- Everything that will write registers of a fibre: its operations in flight and its queued entries (R125). -/
def State.producers (s : State) (w : Warp) (g : Group) (f : Fibre) : List Producer :=
  (s.ops.filter (fun o => o.gid = w.gid)).map (fun o =>
      { order := o.order, regs := o.dsts f.id, ccs := o.ccs f.id })
    ++ (w.queue.filter (fun e => e.left.contains f.lane)).map (fun e =>
      { order := e.order, regs := e.dsts g f.lane, ccs := e.ccs })

/-- Whether any of some positions or CC registers is pending on a list of producers. -/
def hits (ps : List Producer) (regs : List Nat) (ccs : List (Fin 4)) : Bool :=
  ps.any (fun p => p.regs.any (fun r => regs.contains r) || p.ccs.any (fun c => ccs.contains c))

/-! ## What an instruction reads and writes -/

/-- The CC register of a guard, unless it is AL or NV (R65). -/
def guardReads (g : Guard) : List (Fin 4) :=
  match g.cond with
  | .al | .nv => []
  | _ => [g.cc]

/-- Whether a condition holds on flags (R65). -/
def condHolds (c : Cond) (x : CC) : Bool :=
  match c with
  | .al => true | .eq => x.z | .ne => !x.z | .cs => x.c | .cc => !x.c | .mi => x.s | .pl => !x.s | .vs => x.v
  | .vc => !x.v | .hi => x.c && !x.z | .ls => !x.c || x.z | .ge => x.s == x.v | .lt => x.s != x.v
  | .gt => !x.z && x.s == x.v | .le => x.z || x.s != x.v | .nv => false

/-- Whether a guard is true for a fibre (R65). -/
def Fibre.guarded (f : Fibre) (g : Guard) : Bool := condHolds g.cond (f.cc g.cc)

/-- The positions of a list of registers for a window base. -/
def Group.places (g : Group) (base : Nat) (rs : List Reg) : List Nat := rs.filterMap (g.place base)

/-- The sources of an entry that were not captured for a lane, as positions, and the CC registers that it will read: no
instruction may write them before the entry has replayed (R128). -/
def Entry.opens (e : Entry) (g : Group) (lane : Nat) : Producer :=
  let rs := e.instr.shape.srcRegs
  { order := e.order,
    regs := (List.range rs.length).filterMap (fun j =>
      if e.caps.any (fun c => c.src = j && c.lane = lane) then none else (rs[j]?).bind (g.place (e.baseOf lane))),
    ccs := (if e.gpend.contains lane then guardReads e.instr.shape.guard else []) ++ e.instr.shape.ccr.toList }

/-- Whether an instruction meets a pending register of a fibre: one that it reads or writes is pending, or it writes one
that a queued entry has still to read (R126 to R128). -/
def State.meetsPending (s : State) (w : Warp) (g : Group) (f : Fibre) (sh : Shape) : Bool :=
  let ps := (s.producers w g f).map (fun p => p.seen w g f)
  let os := (w.queue.filter (fun e => e.left.contains f.lane)).map (fun e => (e.opens g f.lane).seen w g f)
  let dst := g.places f.b sh.dstRegs
  hits ps (g.places f.b sh.srcRegs ++ dst) (sh.ccr.toList ++ sh.ccw.toList) || hits os dst sh.ccw.toList

/-- Whether an instruction's guard reads a pending CC register of a fibre. -/
def State.guardPending (s : State) (w : Warp) (g : Group) (f : Fibre) (sh : Shape) : Bool :=
  !(guardReads sh.guard).isEmpty && hits ((s.producers w g f).map (fun p => p.seen w g f)) [] (guardReads sh.guard)

/-- Whether any register of a fibre's frame or fixed part, or any of its CC registers, is pending (R105). -/
def State.anyPending (s : State) (w : Warp) (g : Group) (f : Fibre) : Bool :=
  (s.producers w g f).any (fun p => let q := p.seen w g f; !q.regs.isEmpty || !q.ccs.isEmpty)

/-! ## Order among memory accesses (R134 to R136) -/

/-- The bytes of an access, as (space, first byte, bytes), with `.k` as `.g` addresses (R135). -/
def footprint (w : Warp) (vlane : Nat) (a : AccessForm) (addr : Nat) : List (Nat × Nat × Nat) :=
  match a.space with
  | .g => [(0, addr, a.bytes)]
  | .s => [(1, addr, a.bytes)]
  | .d => [(2, addr, a.bytes)]
  | .k =>
    if a.bytes ≤ 4 then [(0, kAddr w vlane addr, a.bytes)]
    else (List.range (a.bytes / 4)).map (fun i => (0, kAddr w vlane (addr + 4 * i), 4))

/-- Whether two lists of bytes share one. -/
def overlap (a b : List (Nat × Nat × Nat)) : Bool :=
  a.any (fun x => b.any (fun y => x.1 = y.1 && x.2.1 < y.2.1 + y.2.2 && y.2.1 < x.2.1 + x.2.2))

/-- The captured value of a source word of an entry for a lane. -/
def Entry.captured (e : Entry) (lane j : Nat) : Option Word :=
  (e.caps.find? (fun c => c.src = j && c.lane = lane)).map Capture.value

/-- The whole of `.g`: the bytes of an instruction that reads tables there (R135). -/
def allOfG : Nat × Nat × Nat := (0, 0, 2 ^ 52)

/-- The bytes of an instruction's access for a lane, from its source words by number; none while they are unknown (R135).
KVXLATE and PFXFIND read tables of `.g`, PFXFIND token ids of `.s` besides (R329, R331); a FENCE reads and writes none. -/
def accessBytes (i : Instr) (w : Warp) (vlane : Nat) (src : Nat → Option Word) : Option (List (Nat × Nat × Nat)) :=
  match i.accessForm with
  | some a =>
    match src 0, (if a.addrWords = 2 then src 1 else some 0) with
    | some lo, some hi => some (footprint w vlane a (a.address [lo, hi]))
    | _, _ => none
  | none =>
    match i with
    | .waitw _ _ _ off _ sp _ =>
      match sp, src 0, src 1 with
      | .g, some lo, some hi => some [(0, ((((pairAddr lo hi : Nat) : Int) + 4 * off.toInt).emod (2 ^ 52)).toNat, 4)]
      | .s, some a, _ => some [(1, (((a.toNat : Int) + 4 * off.toInt).emod (2 ^ 32)).toNat, 4)]
      | .d, some a, _ => some [(2, (((a.toNat : Int) + 4 * off.toInt).emod (2 ^ 32)).toNat, 4)]
      | _, _, _ => none
    | .nstat .. =>
      match src 0, src 1 with
      | some lo, some hi => some [(0, pairAddr lo hi + 4, 4)]
      | _, _ => none
    | .kvxlate .. => if (List.range 4).all (fun j => (src j).isSome) then some [allOfG] else none
    | .pfxfind .. =>
      match src 4 with
      | some t => if (List.range 7).all (fun j => (src j).isSome) then some [allOfG, (1, t.toNat, 64)] else none
      | none => none
    | .fence .. => some []
    | _ => none

/-- The known bytes of an entry for a lane; none while unknown (R135). -/
def Entry.bytes (e : Entry) (w : Warp) (lane : Nat) : Option (List (Nat × Nat × Nat)) :=
  accessBytes e.instr w (w.vlane lane) (e.captured lane)

/-- Whether a queued entry blocks an access of the same fibre (R134 to R136); `mine` are the access's bytes, if known. -/
def Entry.blocks (e : Entry) (w : Warp) (lane : Nat) (i : Instr) (mine : Option (List (Nat × Nat × Nat))) : Bool :=
  let op := i.shape.op
  let eop := e.instr.shape.op
  (isOrdered op && isOrdered eop)
    || (i.isFibreAccess && (isCommand eop || e.instr.acquires
        || (isAccess eop && (match mine, e.bytes w lane with
            | some a, some b => overlap a b
            | none, some b => !b.isEmpty
            | _, _ => true))))
    || (i.releases && isAccess eop)

/-- Whether an access of a fibre is order_blocked by its queued entries (R127). Of the entries of the context that a handler
has interrupted the spec does not say that they block the handler's own: the model lets them not (log 80). ACCST waits for
every memory entry of its fibre (R137), and so does ACCLD, whose bytes are rows that no entry's are compared with. -/
def Warp.orderBlocked (w : Warp) (g : Group) (f : Fibre) (i : Instr) : Bool :=
  let mine := accessBytes i w (w.vlane f.lane) (fun j => (i.shape.srcRegs[j]?).map (f.readAt g f.b))
  i.isFibreAccess && (w.queue.filter (fun e => e.left.contains f.lane && !w.trapped f.lane (some e.order))).any
    (fun e => e.blocks w f.lane i mine)

/-- The slots of a warp's reservation in use (R129). -/
def Warp.slotsUsed (w : Warp) : Nat :=
  ((w.queue.filter (fun e => !e.inflight)).map (fun e => e.instr.shape.slots)).sum

/-! ## The trap frame's words (R358, R359) -/

/-- First byte of a warp's trap frame area (R359). -/
def Warp.frameAddr (w : Warp) : Nat := (w.spill.toNat + 32 * w.spillsz.toNat) % 2 ^ 52

/-- Bytes written to a trap frame area by the part, through the tables and the core's L1. -/
def State.frameWrite (s : State) (core cn va : Nat) : List Byte → State
  | [] => s
  | b :: bs =>
    (match s.walkerByte? cn (va % 2 ^ 52) with
      | some (pa, k) => ((s.writeByte k pa b).updateL1 core cn pa false b).markWritten pa
      | none => s).frameWrite core cn (va + 1) bs

/-- A word of a trap frame area as the part reads it. -/
def State.frameWord (s : State) (cn va : Nat) : Word × State :=
  let (v, s1) := s.walkerNat cn (va % 2 ^ 52) 4
  (BitVec.ofNat 32 v, s1)

/-- Address of the saved word of a position, for a fibre in a handler. -/
def Warp.savedWord (w : Warp) (lane j : Nat) : Nat := w.frameAddr + 0x500 + 64 * lane + 4 * j

/-- The four flags of a CC register as in a frame: S, Z, C and V from high to low (R361). -/
def CC.nibble (c : CC) : Nat := 8 * c.s.toNat + 4 * c.z.toNat + 2 * c.c.toNat + c.v.toNat

/-- The CC register of a nibble. -/
def CC.ofNibble (n : Nat) : CC :=
  { s := n / 8 % 2 = 1, z := n / 4 % 2 = 1, c := n / 2 % 2 = 1, v := n % 2 = 1 }

/-! ## Landing -/

/-- A result word written to a position of a fibre, or to the frame's saved word where the result belongs to the context
that the fibre's handler interrupted (R358). -/
def State.landWord (s : State) (wid lane : Nat) (seq : Option Nat) (p : Nat) (v : Word) : State :=
  match s.warp? wid with
  | none => s
  | some w =>
    match w.fibre? lane, s.group? w.gid with
    | some f, some g =>
      match (if w.trapped lane seq then savedPlace g f p else none) with
      | some j => s.frameWrite (coreOf wid) g.ctx (w.savedWord lane j) (bytesOf 4 v.toNat)
      | none => s.onFibre wid lane (fun f => f.put p v)
    | _, _ => s

/-- Result words written to positions in order. -/
def State.landWords (s : State) (wid lane : Nat) (seq : Option Nat) : List (Nat × Word) → State
  | [] => s
  | (p, v) :: rest => (s.landWord wid lane seq p v).landWords wid lane seq rest

/-- Flags written to a CC register of a fibre, or to its lane record in the frame. -/
def State.landCc (s : State) (wid lane : Nat) (seq : Option Nat) (n : Fin 4) (c : CC) : State :=
  match s.warp? wid with
  | none => s
  | some w =>
    match s.group? w.gid with
    | none => s
    | some g =>
      if w.trapped lane seq then
        let at_ := w.frameAddr + 0x100 + 32 * lane + 0xC
        let (v, s1) := s.walkerNat g.ctx (at_ % 2 ^ 52) 2
        let old := v / 2 ^ (4 * n.val) % 16
        s1.frameWrite (coreOf wid) g.ctx at_ (bytesOf 2 (v - old * 2 ^ (4 * n.val) + c.nibble * 2 ^ (4 * n.val)))
      else s.onFibre wid lane (fun f => f.setCc n c)

/-- A source word of an entry for a lane: as captured, or as the register reads now (R133, R358). -/
def State.entrySource (s : State) (w : Warp) (g : Group) (f : Fibre) (e : Entry) (j : Nat) (r : Reg) : Word × State :=
  match e.captured f.lane j with
  | some v => (v, s)
  | none =>
    match g.place (e.baseOf f.lane) r with
    | none => (0, s)
    | some p =>
      match (if w.trapped f.lane (some e.order) then savedPlace g f p else none) with
      | some k => s.frameWord g.ctx (w.savedWord f.lane k)
      | none => (f.at p, s)

/-- All source words of an entry for a lane. -/
def State.entrySources (s : State) (w : Warp) (g : Group) (f : Fibre) (e : Entry) : List Word × State :=
  let rs := e.instr.shape.srcRegs
  (List.range rs.length).foldl (fun (acc : List Word × State) j =>
    let (v, s1) := acc.2.entrySource w g f e j (rs.getD j .vz)
    (acc.1 ++ [v], s1)) ([], s)

/-! ## Heads of the queue (R131, R376) -/

/-- Operations of a fibre still in flight. -/
def State.opsOf (s : State) (gid fid : Nat) : List Op :=
  s.ops.filter (fun o => o.gid = gid && (o.fid = fid || !(o.dsts fid).isEmpty))

/-- Whether a fibre still waits for an acquire that it has issued before a place in its program order (R208, R211). -/
def State.acquiring (s : State) (gid fid order : Nat) : Bool :=
  (s.opsOf gid fid).any (fun o => o.instr.acquires && o.order < order)

/-- Whether an entry must wait for an earlier access of its fibre: one re-injected and not yet issued again that blocks it, an
acquire that has not returned, or for a release any access not yet performed (R135, R136, R208, R376). -/
def State.headHeld (s : State) (w : Warp) (f : Fibre) (e : Entry) : Bool :=
  w.queue.any (fun x => x.inflight && x.left.contains f.lane && x.order < e.order
      && x.blocks w f.lane e.instr (e.bytes w f.lane))
    || (e.instr.isFibreAccess && s.acquiring w.gid f.id e.order)
    || (e.instr.releases && (s.opsOf w.gid f.id).any (fun o => o.isAccess && o.order < e.order))

/-- Whether an entry is the ready head of a lane (R131); a re-injected operation is ready at once (R376). A handler's own
entry does not wait for what the interrupted context writes to the saved registers (R358). In a handler that a fault at replay
entered, the replays of the interrupted context stop until TRET (R142, R357); the handler's own entries, of which the spec does
not say whether they stop too, go on, since TRET waits for them (log 83). -/
def State.headReady (s : State) (w : Warp) (g : Group) (e : Entry) (lane : Nat) : Bool :=
  match w.fibre? lane with
  | none => false
  | some f =>
    let stop := w.handler.any (fun h => h.stopReplays)
    let mine := w.queue.filter (fun x => x.left.contains lane && !x.inflight && !(stop && w.trapped lane (some x.order)))
    let older := ((s.producers w g f).filter (fun p => p.order < e.order)).map (fun p =>
      if w.trapped lane (some e.order) then p else p.seen w g f)
    e.left.contains lane && !(stop && w.trapped lane (some e.order)) &&
      (e.inflight ||
        (mine.head? = some e
          && !hits older ((e.opens g lane).regs ++ e.dsts g lane) ((e.opens g lane).ccs ++ e.ccs)
          && !s.headHeld w f e))

/-- The lanes for which an entry is the ready head. -/
def State.readyLanes (s : State) (w : Warp) (g : Group) (e : Entry) : List Nat :=
  e.left.filter (s.headReady w g e)

/-- The queue with an entry finished for some lanes; it leaves when none is left (R131). -/
def Warp.finish (w : Warp) (seq : Nat) (lanes : List Nat) : Warp :=
  let q := w.queue.map (fun e =>
    if e.seq = seq then { e with left := e.left.filter (fun l => !lanes.contains l) } else e)
  { w with queue := q.filter (fun e => !e.left.isEmpty) }

end Sys2Proof.Machine
end

