-- ==== Sys2Proof/Machine/Trap.lean ====
section
/-! DEFINITION. Taking a trap and returning from one: the replay queue that captures a warp's unfinished work (R144), the
trap frame (R359 to R363), routing to the user handler or to the runtime (R356, R357), TRET (R366), and RINJ (R368). -/

namespace Sys2Proof.Machine

open Sys2Proof

/-! ## Capturing a warp's work (R144) -/

/-- Operations with memory or engine effects of a warp's fibres, and its matrix operations, which must complete before the
warp's state is captured (R144, R288). An access that waits for service with its bundle parked stays as it is (R357). -/
def State.effectsOut (s : State) (w : Warp) : List Op :=
  s.ops.filter (fun o => o.gid = w.gid && !o.registersOnly && !o.parks
    && w.fibres.any (fun f => f.id = o.fid || o.fids.contains f.id))

/-- The operations of a warp's fibres that write only registers and are not parked. -/
def State.registerOps (s : State) (w : Warp) : List Op :=
  s.ops.filter (fun o => o.gid = w.gid && o.registersOnly && !o.parks && w.fibres.any (fun f => f.id = o.fid))

/-- A lane of an operation as an entry keeps it: its source words, service and window base. -/
structure Member where
  srcs : List Word
  service : Service
  base : Nat
  deriving DecidableEq, Repr

/-- The lanes of an operation. -/
def Op.members (o : Op) : List Member :=
  match o.kind with
  | .kvxlate _ ms => ms.map (fun m =>
      { srcs := m.srcs, service := { lane := m.lane, mcls := m.mcls, mdl := m.mdl }, base := m.base })
  | _ => [{ srcs := o.srcs, service := { lane := o.lane, mcls := o.mcls, mdl := o.mdl }, base := o.base }]

/-- The entry that stands for the operations of one issue (R144): all sources captured, in the place in program order that
they have (R131). -/
def entryOfOps (seq : Nat) (os : List Op) (o : Op) : Entry :=
  let ms := os.flatMap Op.members
  let lanes := ms.map (fun m => m.service.lane)
  { seq := seq, ord := some o.order, instr := o.instr, words := o.words, hdr := o.pos.hdr, idx := o.pos.idx, base := o.base,
    laneBase := (ms.filter (fun m => m.base ≠ o.base)).map (fun m => (m.service.lane, m.base)),
    mask := lanes, left := lanes, gpend := [],
    caps := ms.flatMap (fun m => (List.range m.srcs.length).map (fun j =>
      { src := j, lane := m.service.lane, value := m.srcs.getD j 0 })),
    flag := o.flag, service := ms.map Member.service, inflight := true }

/-- The waiters of fault records that a list of operations gives up. -/
def State.leaveRecords (s : State) (gone : List Op) : State :=
  let fs := s.faults.map (fun r =>
    { r with waiters := r.waiters - (gone.filter (fun o => o.record = some r.id)).length })
  { s with faults := fs.filter (fun r => r.waiters ≠ 0) }

/-- The replay queue formed: the residual queue, then the warp's operations that write only registers (R144). -/
def State.captureQueue (s : State) (w : Warp) : State :=
  let gone := s.registerOps w
  let issues := (gone.map Op.issue).eraseDups
  let es := issues.filterMap (fun k =>
    let os := gone.filter (fun o => o.issue = k)
    os.head?.map (entryOfOps k os))
  let s1 := { s with ops := s.ops.filter (fun o => !gone.contains o) }
  (s1.leaveRecords gone).onWarp w.wid (fun w => { w with queue := w.queue ++ es })

/-! ## The trap frame (R359 to R363) -/

/-- A mask of physical lanes. -/
def laneMask (lanes : List Nat) : Nat := lanes.foldl (fun m l => m ||| 2 ^ l) 0

/-- A queue entry as a frame holds it (R363). -/
def Entry.frameBytes (e : Entry) : List Byte :=
  let n := e.instr.shape.srcRegs.length
  let held (j : Nat) : List Nat := e.left.filter (fun l => (e.captured l j).isSome)
  let full := (List.range n).filter (fun j => (held j).length = e.left.length)
  let service (l : Nat) : Nat :=
    match e.service.find? (fun v => v.lane = l) with
    | some v => if e.left.contains l then v.mdl.toNat + 4096 * v.mcls.toNat else 0
    | none => 0
  bytesOf 8 e.hdr.toNat ++ bytesOf 4 (e.words.getD 0 0).toNat ++ bytesOf 4 (e.words.getD 1 0).toNat
    ++ bytesOf 4 (e.words.getD 2 0).toNat ++ bytesOf 1 (e.idx + 16 * e.inflight.toNat) ++ bytesOf 1 (e.flag.getD 15)
    ++ bytesOf 2 e.base ++ bytesOf 4 (laneMask e.left) ++ bytesOf 4 (laneMask (e.gpend.filter (fun l => e.left.contains l)))
    ++ bytesOf 4 (n + full.foldl (fun m j => m + 2 ^ (4 + j)) 0) ++ bytesOf 4 (0x70 + 132 * n)
    ++ (List.range 32).flatMap (fun l => bytesOf 2 (service l)) ++ bytesOf 8 0
    ++ (List.range n).flatMap (fun j => (List.range 32).flatMap (fun l =>
        bytesOf 4 (if e.left.contains l then ((e.captured l j).getD 0).toNat else 0)))
    ++ (List.range n).flatMap (fun j => bytesOf 4 (laneMask (held j)))

/-- The length of an entry in a frame (R363). -/
def Entry.frameLen (e : Entry) : Nat := 0x70 + 132 * e.instr.shape.srcRegs.length

/-- The offsets at which entries stand end to end. -/
def offsetsFrom : Nat → List Entry → List (Nat × Nat)
  | _, [] => []
  | o, e :: es => (e.seq, o) :: offsetsFrom (o + e.frameLen) es

/-- A fibre's lane record (R361). -/
def Fibre.record (f : Fibre) (trapping parked : Bool) : List Byte :=
  let counts := (List.range 12).foldl (fun m i => m + f.flag i * 2 ^ (6 * i)) 0
  bytesOf 8 f.pos.hdr.toNat
    ++ bytesOf 4 (f.b + f.n * 2 ^ 10 + f.links.length * 2 ^ 20 + f.pos.idx * 2 ^ 25 + 2 ^ 29 + trapping.toNat * 2 ^ 30
        + parked.toNat * 2 ^ 31)
    ++ bytesOf 2 (f.c0.nibble + 16 * f.c1.nibble + 256 * f.c2.nibble + 4096 * f.c3.nibble) ++ bytesOf 2 0
    ++ bytesOf 9 counts ++ bytesOf 7 0

/-- A link entry in a frame (R359). -/
def Link.frameBytes (l : Link) : List Byte := bytesOf 8 l.pc.toNat ++ bytesOf 4 (l.k + l.nc * 2 ^ 16) ++ bytesOf 4 0

/-- What a trap records: its cause, the trapping bundle, the trapping clause, index and instruction, and the faulting
entry (R360). -/
structure TrapInfo where
  cause : Cause
  mask : List Nat
  hdr : VAddr := 0
  idx : Nat := 0
  words : List Word := []
  entry : Option Nat := none
  deriving DecidableEq, Repr

/-- The cause word (R360). -/
def Cause.word (c : Cause) : Nat := c.cls + 256 * c.sub + 65536 * c.detail

/-- Whether a fibre is in a non-blocking park: an access of its own, or of a fibre of its bundle, waits for service
(R357, R378). -/
def State.serviceParked (s : State) (w : Warp) (f : Fibre) : Bool :=
  s.ops.any (fun o => o.parks && o.gid = w.gid && w.fibres.any (fun x => x.id = o.fid && x.pos = f.pos && x.b = f.b))
    || s.faults.any (fun r => r.fetchers.any (fun x => x.1 = w.wid && x.2.contains f.lane))

/-- Whether a fibre is in a park that a trap does not end: for service, before an instruction that may not issue yet, or at
CVSIGN (R122, R357). -/
def State.otherParked (s : State) (w : Warp) (f : Fibre) : Bool :=
  s.serviceParked w f || f.park.any (fun p => p.wait.isOther)

/-- The bytes of the header of a frame (R360). -/
def TrapInfo.header (t : TrapInfo) (q : List (Nat × Nat)) (bytes : Nat) (preempt : Bool) : List Byte :=
  let qi := match t.entry with
    | some k => (q.findIdx? (fun e => e.1 = k)).getD 0xFFFF
    | none => 0xFFFF
  bytesOf 4 t.cause.word ++ bytesOf 4 (laneMask t.mask) ++ bytesOf 8 t.cause.addr ++ bytesOf 8 t.hdr.toNat
    ++ bytesOf 4 (t.idx + 65536 * qi) ++ bytesOf 4 q.length ++ bytesOf 4 bytes ++ bytesOf 4 preempt.toNat
    ++ bytesOf 4 (t.words.getD 0 0).toNat ++ bytesOf 4 (t.words.getD 1 0).toNat ++ bytesOf 4 (t.words.getD 2 0).toNat
    ++ List.replicate 0xCC 0

/-- The frame written for a stopped warp whose queue has been formed (R357 step 2 and 3). -/
def State.writeFrame (s : State) (w : Warp) (g : Group) (t : TrapInfo) (q : List (Nat × Nat)) : State :=
  let core := coreOf w.wid
  let at_ := w.frameAddr
  let len := (w.queue.map Entry.frameLen).sum
  let preempt := (s.ctx? g.ctx).any (fun c => c.state = 1)
  let s1 := s.frameWrite core g.ctx at_ (t.header q len preempt)
  let s2 := s1.frameWrite core g.ctx (at_ + 0x100) ((List.range 32).flatMap (fun l =>
    match w.fibre? l with
    | some f => f.record (t.mask.contains l) (s.otherParked w f)
    | none => List.replicate 32 0))
  let s3 := w.fibres.foldl (fun s f =>
    let s4 := s.frameWrite core g.ctx (w.savedWord f.lane 0)
      ((List.range 16).flatMap (fun j => bytesOf 4 (f.at ((f.b + j) % g.ring)).toNat))
    s4.frameWrite core g.ctx (at_ + 0xD00 + 256 * f.lane) (f.links.reverse.flatMap Link.frameBytes)) s2
  s3.frameWrite core g.ctx (at_ + 0x2D00) (w.queue.flatMap Entry.frameBytes)

/-! ## Taking a trap (R356, R357) -/

/-- Whether a trap of a class goes to the warp's user handler (R356). -/
def Warp.toUser (w : Warp) (cls : Nat) : Bool := w.vec ≠ 0 && w.enMask.toNat / 2 ^ (cls - 1) % 2 = 1

/-- The node code of a trap that goes to the runtime: 0x1F for a trap in handler mode, else 0x10 + class (R356). -/
def Warp.failCode (w : Warp) (cls : Nat) : Nat := if w.handler.isSome && cls ≤ 8 then 0x1F else 0x10 + cls

/-- The active bundle of a warp stopped before the instruction that it has reached; lanes that have already enqueued that
instruction's command are past it. -/
def Warp.stopBundle (w : Warp) : Warp :=
  match w.active with
  | none => w
  | some a =>
    { w with active := none, fibres := w.fibres.map (fun f =>
        if a.lanes.contains f.lane then
          { f with pos := { hdr := a.hdr, idx := if a.sent.contains f.lane then a.idx + 1 else a.idx, mid := true } }
        else f) }

/-- The holder gives the warp up: the clocks for which it held it stay noted while no other bundle takes the warp (R31,
R34). -/
def Warp.release (w : Warp) (clock : Nat) : Warp :=
  match w.holder with
  | none => w
  | some h => { w with holder := none, last := some (h, clock - w.heldFrom),
                       fibres := w.fibres.map (fun f => if h.contains f.lane then { f with waitFrom := clock } else f) }

/-- The barrier and phase of a wait that a trap ends, with the place of the blocking instruction (R122). -/
def Park.barred (p : Park) : Option (Nat × Nat × Pos) :=
  match p.wait with
  | .barrier bar phase => some (bar, phase, p.at_)
  | _ => none

/-- The fibres that wait at a blocking point or a regroup collective taken out of their waits (R122, R357); those in another
park stay in it. -/
def Warp.leaveWaits (w : Warp) : Warp :=
  { w with fibres := w.fibres.map (fun f => match f.park with
      | some p => if p.wait.isOther then f else { f with pos := p.at_, park := none, barred := p.barred }
      | none => f) }

/-- Handler mode entered: frame sizes 16, every fibre that stays in no park at the user vector (R357). -/
def Warp.enterHandler (w : Warp) (parked : List Nat) (q : List (Nat × Nat)) (since : Nat) (stop : Bool) : Warp :=
  { w with
    handler := some
      { frame := w.frameAddr, queue := q, since := since, stopReplays := stop,
        live := w.fibres.map (fun f => (f.lane, f.n)),
        lanes := (w.fibres.map Fibre.lane).filter (fun l => !parked.contains l) }
    fibres := w.fibres.map (fun f =>
      if parked.contains f.lane then { f with n := 16 } else { f with n := 16, pos := { hdr := w.vec } })
    holder := none
    active := none
    mode := w.modeNext
    replayTrap := none }

/-- A trap taken by a warp whose bundle has stopped (R356, R357): routed to the user handler, or to the runtime, which
fails the node. `none` while operations with effects outside the registers must first complete (R144). -/
def State.takeTrap (s : State) (wid : Nat) (t : TrapInfo) : Option State :=
  match s.warp? wid with
  | none => some s
  | some w =>
    match s.group? w.gid with
    | none => some s
    | some g =>
      if w.handler.isNone && w.toUser t.cause.cls then
        if !(s.effectsOut w).isEmpty then none
        else
          let s1 := (s.setWarp (w.stopBundle.leaveWaits)).captureQueue w
          match s1.warp? wid with
          | none => some s1
          | some w1 =>
            let q := offsetsFrom 0x2D00 w1.queue
            let parked := (w1.fibres.filter (fun f => s1.otherParked w1 f)).map Fibre.lane
            let s2 := s1.writeFrame w1 g t q
            let (k, s3) := s2.fresh
            some (s3.onWarp wid (fun w => (w.release s3.clock).enterHandler parked q k t.entry.isSome))
      else some (s.acts g.ctx [.fail g.node (w.failCode t.cause.cls) t.cause.word])

/-! ## Returning (R366) -/

/-- A number that the part reads from a warp's frame, at an offset. -/
def State.frameNat (s : State) (cn : Nat) (w : Warp) (off n : Nat) : Nat × State :=
  s.walkerNat cn ((w.frameAddr + off) % 2 ^ 52) n

/-- One fibre brought back from its saved registers and its lane record. -/
def State.restoreFibre (s : State) (w : Warp) (g : Group) (lane n : Nat) : State :=
  let (hdr, s1) := s.frameNat g.ctx w (0x100 + 32 * lane) 8
  let (sizes, s2) := s1.frameNat g.ctx w (0x108 + 32 * lane) 4
  let (ccs, s3) := s2.frameNat g.ctx w (0x10C + 32 * lane) 2
  let idx := sizes / 2 ^ 25 % 16
  let (ws, s4) := (List.range 16).foldl (fun (acc : List Word × State) j =>
    let (v, s') := acc.2.frameWord g.ctx (w.savedWord lane j)
    (acc.1 ++ [v], s')) ([], s3)
  s4.onFibre w.wid lane (fun f =>
    let f1 := (List.range 16).foldl (fun (f : Fibre) j => f.put ((f.b + j) % g.ring) (ws.getD j 0)) f
    let back : Pos := { hdr := BitVec.ofNat 52 hdr, idx := idx, mid := idx ≠ 0 }
    let kept := f.pos.hdr = back.hdr && f.pos.idx = idx
    { f1 with n := n, pos := if kept then f.pos else back, park := if kept then f.park else none,
              barred := f.barred.filter (fun b => b.2.2.hdr = back.hdr && b.2.2.idx = idx),
              c0 := CC.ofNibble (ccs % 16), c1 := CC.ofNibble (ccs / 16 % 16), c2 := CC.ofNibble (ccs / 256 % 16),
              c3 := CC.ofNibble (ccs / 4096 % 16) })

/-- Handler mode left (R366): every lane that is live goes on at the resume point of its lane record; one that the handler
has forked takes the frame size of its record. -/
def State.trapReturn (s : State) (wid : Nat) : State :=
  match s.warp? wid with
  | none => s
  | some w =>
    match w.handler, s.group? w.gid with
    | some h, some g =>
      let s1 := w.fibres.foldl (fun s f =>
        match h.live.find? (fun l => l.1 = f.lane) with
        | some l => s.restoreFibre w g l.1 l.2
        | none =>
          let (sizes, s1) := s.frameNat g.ctx w (0x108 + 32 * f.lane) 4
          s1.restoreFibre w g f.lane (sizes / 2 ^ 10 % 2 ^ 10)) s
      s1.onWarp wid (fun w => { w.release s1.clock with handler := none, active := none })
    | _, _ => s

/-! ## Editing the queue (R368) -/

/-- A flag that an entry counted on falls by 1 in each of some lanes. -/
def State.fallFlags (s : State) (wid : Nat) (flag : Option Nat) (lanes : List Nat) : State :=
  match flag with
  | none => s
  | some i => lanes.foldl (fun s l => s.onFibre wid l (fun f => f.fall i)) s

/-- An entry dropped for some lanes: its registers stop being pending and its flag falls (R133, R368). -/
def State.dropEntry (s : State) (wid : Nat) (e : Entry) (lanes : List Nat) : State :=
  (s.fallFlags wid e.flag (lanes.filter (fun l => !e.uncounted.contains l))).onWarp wid (fun w => w.finish e.seq lanes)

/-- An entry's captures and mask taken from the frame at an offset (R368). -/
def State.loadEntry (s : State) (w : Warp) (g : Group) (e : Entry) (off : Nat) : State :=
  let n := e.instr.shape.srcRegs.length
  let (mask, s1) := s.frameNat g.ctx w (off + 0x18) 4
  let lanes := e.left.filter (fun l => mask / 2 ^ l % 2 = 1)
  let (caps, s2) := (List.range n).foldl (fun (acc : List Capture × State) j =>
    let (held, s') := acc.2.frameNat g.ctx w (off + 0x70 + 128 * n + 4 * j) 4
    (lanes.filter (fun l => held / 2 ^ l % 2 = 1)).foldl (fun (acc : List Capture × State) l =>
      let (v, s'') := acc.2.frameNat g.ctx w (off + 0x70 + 128 * j + 4 * l) 4
      (acc.1 ++ [{ src := j, lane := l, value := BitVec.ofNat 32 v }], s'')) (acc.1, s')) ([], s1)
  s2.onWarp w.wid (fun w =>
    let q := w.queue.map (fun x => if x.seq = e.seq then { x with caps := caps, left := lanes } else x)
    { w with queue := q.filter (fun x => !x.left.isEmpty) })

/-- RINJ on entry `i` of the frame (R368). -/
def State.reinject (s : State) (wid i : Nat) (load : Bool) : State :=
  match s.warp? wid with
  | none => s
  | some w =>
    match w.handler, s.group? w.gid with
    | some h, some g =>
      match h.queue[i]? with
      | none => s
      | some (seq, off) =>
        match w.queue.find? (fun e => e.seq = seq) with
        | none => s
        | some e => if load then s.loadEntry w g e off else s.dropEntry wid e e.left
    | _, _ => s

end Sys2Proof.Machine
end

