-- ==== Sys2Proof/Machine/Issue.lean ====
section
/-! DEFINITION. How a bundle issues an instruction: the checks of R100, the stalls and deferrals of R126, R127 and R137, the
capacity policy (R139), flags (R87), and the advance through the clause (R86). A meaning says what the instruction does;
`State.issue` says when it does it. -/

namespace Sys2Proof.Machine

open Sys2Proof

/-- One executing fibre of an instruction, with its source words in the order of R363. -/
structure LaneIn where
  f : Fibre
  vlane : Nat
  src : List Word
  base : Nat
  mcls : BitVec 2
  mdl : BitVec 12
  deriving DecidableEq, Repr

/-- One issue of an instruction, or one replay of an entry, by the fibres that execute it, in ascending virtual lane. -/
structure Exec where
  w : Warp
  g : Group
  instr : Instr
  lanes : List LaneIn
  pos : Pos
  words : List Word
  flag : Option Nat
  /-- The number of the entry that replays. -/
  entry : Option Nat
  /-- The number of this issue. -/
  issue : Nat
  /-- Its place in program order: its number, or the place of the entry that replays (R131). -/
  place : Nat
  deriving DecidableEq, Repr

/-- What an instruction does: checks made for every fibre of the bundle before the guard, checks of each executing fibre
before any effect (R206), how many fibres a queue has room for, where it is a queue that takes them, and the effect, `none`
while the instruction waits. -/
structure Meaning where
  static : Warp → Group → Fibre → Option Cause := fun _ _ _ => none
  check : State → Exec → LaneIn → Option Cause := fun _ _ _ => none
  room : State → Exec → Option Nat := fun _ _ => none
  perform : Exec → State → Option State

/-! ## Fields of the running clause -/

/-- The number of instructions of the clause (R82). -/
def Active.count (a : Active) : Nat := bitsOf a.header 5 4 + 1

/-- Whether the clause is marked no-defer (R89). -/
def Active.noDefer (a : Active) : Bool := bitsOf a.header 30 1 = 1

/-- The header after the clause (R85). -/
def clauseAfter (hdr : VAddr) (header : DWord) : VAddr :=
  BitVec.ofNat 52 ((hdr.toNat + 4 * bitsOf header 32 6 + 7) / 8 * 8)

/-- The flag that a flag select names in the clause (R82, R87). -/
def Active.flag (a : Active) (b : Bool) : Option Nat :=
  let n := if b then bitsOf a.header 25 4 else bitsOf a.header 21 4
  if n < 12 then some n else none

/-- Whether the bundle runs in deferring mode (R68, R89). -/
def Warp.deferring (w : Warp) (a : Active) : Bool := w.mode.toNat % 2 = 1 && !a.noDefer

/-- The words that an instruction occupies where the clause has got to. -/
def Active.here (a : Active) : List Word := (a.words.drop a.off).take ((wordCount (a.words.getD a.off 0)).getD 1)

/-- The warp after an instruction of its clause: at the next one, or at a clause boundary, where a change of mode takes
effect (R68, R86). -/
def Warp.advance (w : Warp) : Warp :=
  match w.active with
  | none => w
  | some a =>
    if a.idx + 1 < a.count then
      { w with active := some { a with idx := a.idx + 1, off := a.off + a.here.length, sent := [], part := none } }
    else
      { w with active := none, mode := w.modeNext, exempt := bitsOf a.header 31 1 = 1,
               offered := w.offered || bitsOf a.header 29 1 = 1 }

/-! ## Results of a lane -/

/-- What a vector or special-function instruction gives one fibre: destination words, CC, FP exceptions, draws taken. -/
structure LaneOut where
  dst : List Word
  cc : Option CC := none
  fp : BitVec 5 := 0
  draws : Nat := 0
  deriving DecidableEq, Repr

/-- The destination registers of an instruction for a window base with their words; those of vz are discarded. -/
def Exec.writes (x : Exec) (base : Nat) (ws : List Word) : List (Nat × Word) :=
  (x.instr.shape.dstRegs.zip ws).filterMap (fun rw => (x.g.place base rw.1).map (fun p => (p, rw.2)))

/-- A fibre with words at positions. -/
def Fibre.puts (f : Fibre) (ws : List (Nat × Word)) : Fibre := ws.foldl (fun f pw => f.put pw.1 pw.2) f

/-- A fibre with results: words at positions, flags in a CC register, draws taken. -/
def Fibre.result (f : Fibre) (ws : List (Nat × Word)) (n : CcW) (c : Option CC) (draws : Nat) : Fibre :=
  let f1 := { f.puts ws with rngCtr := f.rngCtr + BitVec.ofNat 64 draws }
  match n, c with
  | some n, some c => f1.setCc n c
  | _, _ => f1

/-! ## Operands of matrix operations still open (R245) -/

/-- A core's tiles of a group (R189). -/
def Group.tilesOn (g : Group) (core : Nat) : List Nat :=
  ((g.shares.find? (fun h => h.core = core)).map Share.tiles).getD []

/-- Unpredictable contents given to a tile of a group. -/
def State.freeTile (s : State) (g : Group) (core n : Nat) : State :=
  match (g.tilesOn core)[n]? with
  | none => s
  | some t =>
    let (bs, s1) := State.freeBytes 1024 s
    s1.writeBytes g.ctx (tileBase core t) bs

/-- A fibre's write to operand registers of its open operations: their tiles are unpredictable from then on. -/
def State.foul (s : State) (gid fid : Nat) (regs : List Nat) : State :=
  match s.group? gid with
  | none => s
  | some g =>
    let hit (u : TileUse) : Bool := u.fid = fid && u.regs.any (fun r => regs.contains r)
    let s1 := s.onGroup gid (fun g => { g with uses := g.uses.map (fun u => if hit u then { u with spoiled := true } else u) })
    (g.uses.filter hit).foldl (fun s u => u.tiles.foldl (fun s t => s.freeTile g u.core t) s) s1

/-- Result words of a fibre, of which those for marked positions are unpredictable. -/
def State.fouled (s : State) (marks : List Nat) : List (Nat × Word) → List (Nat × Word) × State
  | [] => ([], s)
  | (p, v) :: rest =>
    let (v1, s1) := if marks.contains p then s.freeWord else (v, s)
    let (rest1, s2) := s1.fouled marks rest
    ((p, v1) :: rest1, s2)

/-- The positions whose writes by an executing fibre are unpredictable: at an issue, the operands of its open operations; at
a replay, those that were when the entry was appended. -/
def Exec.marks (x : Exec) (s : State) (l : LaneIn) : List Nat :=
  match x.entry with
  | none => x.g.openRegs l.f.id
  | some q =>
    match (s.warp? x.w.wid).bind (fun w => w.queue.find? (fun e => e.seq = q)) with
    | none => []
    | some e => (e.spoil.filter (fun p => p.1 = l.f.lane)).map Prod.snd

/-- The words that an executing fibre writes, with the effect of a write to operands of an open matrix operation. -/
def State.landing (s : State) (x : Exec) (l : LaneIn) (ws : List (Nat × Word)) : List (Nat × Word) × State :=
  let marks := x.marks s l
  if ws.all (fun p => !marks.contains p.1) then (ws, s)
  else
    let s1 := if x.entry.isNone then s.foul x.w.gid l.f.id (ws.map Prod.fst) else s
    s1.fouled marks ws

/-- One fibre's results written: FP exceptions and draws at once (R69, R80), registers and CC as they land (R358). -/
def State.landLane (s : State) (x : Exec) (l : LaneIn) (o : LaneOut) : State :=
  let (ws, s) := s.landing x l (x.writes l.base o.dst)
  if x.entry.isNone then
    s.onWarp x.w.wid (fun w =>
      { w with fpst := w.fpst ||| o.fp,
               fibres := w.fibres.map (fun f =>
                 if f.lane = l.f.lane then f.result ws x.instr.shape.ccw o.cc o.draws else f) })
  else
    let s1 := s.onWarp x.w.wid (fun w => { w with fpst := w.fpst ||| o.fp })
    let s2 := s1.onFibre x.w.wid l.f.lane (fun f => f.result [] none none o.draws)
    let s3 := s2.landWords x.w.wid l.f.lane (some x.place) ws
    match x.instr.shape.ccw, o.cc with
    | some n, some c => s3.landCc x.w.wid l.f.lane (some x.place) n c
    | _, _ => s3

/-- The meaning of an instruction that computes each fibre's results from that fibre's operands alone. -/
def vec (u : LaneIn → LaneOut) : Meaning where
  perform x s := some (x.lanes.foldl (fun s l => s.landLane x l (u l)) s)

/-- The meaning of an instruction that computes all results together from the operands of all executing fibres. -/
def cross (u : List LaneIn → List LaneOut) : Meaning where
  perform x s := some ((x.lanes.zip (u x.lanes)).foldl (fun s lo => s.landLane x lo.1 lo.2) s)

/-! ## Issue -/

/-- The lanes of a clause's bundle, as fibres in ascending virtual lane. -/
def Warp.bundle (w : Warp) (a : Active) : List Fibre := (w.byVlane a.lanes).filterMap w.fibre?

/-- One fibre's operands at issue. -/
def Warp.laneIn (w : Warp) (g : Group) (sh : Shape) (f : Fibre) : LaneIn :=
  { f := f, vlane := w.vlane f.lane, src := sh.srcRegs.map (f.readAt g f.b), base := f.b, mcls := f.mcls, mdl := f.mdl }

/-- A trap taken at the instruction that a bundle has reached, or a clock in which it waits to be taken (R144). -/
def State.trapHere (s : State) (w : Warp) (a : Active) (lanes : List Nat) (c : Cause) : State :=
  match s.takeTrap w.wid { cause := c, mask := lanes, hdr := a.hdr, idx := a.idx, words := a.here } with
  | some s1 => s1
  | none => s.advanceClock 1

/-- A pending replay fault taken at the warp's issue point (R142). -/
def State.takeReplayTrap (s : State) (w : Warp) (r : ReplayTrap) : Option State :=
  match w.active, w.queue.find? (fun e => r.seq = some e.seq) with
  | some a, _ =>
    s.takeTrap w.wid { cause := r.cause, mask := r.lanes, hdr := a.hdr, idx := a.idx, words := a.here, entry := r.seq }
  | none, some e =>
    s.takeTrap w.wid { cause := r.cause, mask := r.lanes, hdr := e.hdr, idx := e.idx, words := e.words,
                       entry := r.seq }
  | none, none => s.takeTrap w.wid { cause := r.cause, mask := r.lanes, entry := r.seq }

/-- The first cause that a check finds. -/
def firstCause {α : Type} (l : List α) (c : α → Option Cause) : Option Cause := l.findSome? c

/-- The illegal-operand trap at issue (R355). -/
def illegalOperand (addr : Nat := 0) : Cause := { cls := 3, addr := addr }

/-- The decode checks of R100 after the role check: an illegal operand in any fibre of the bundle. -/
def Meaning.decode (m : Meaning) (w : Warp) (g : Group) (sh : Shape) (f : Fibre) : Option Cause :=
  if sh.legal g f then m.static w g f else some (illegalOperand)

/-- Whether an instruction can count on its flag: every long-latency instruction but a load or store to a scratchpad that
lies whole on the core (R207). -/
def countsFlag (g : Group) (i : Instr) : Bool :=
  i.shape.fs.isSome && !((i.shape.op = 0x80 || i.shape.op = 0x81) && i.accessForm.any (fun a => a.space == .s)
    && g.shares.length ≤ 1)

/-- Whether the sources that form an instruction's address are known for a fibre, and lie in its core's own share of `.s`: a
load or store there counts on no flag (R207). -/
def State.ownShare (s : State) (w : Warp) (g : Group) (i : Instr) (f : Fibre) : Bool :=
  match i.accessForm with
  | none => false
  | some a =>
    let rs := i.shape.srcRegs.take a.addrWords
    (i.shape.op = 0x80 || i.shape.op = 0x81) && a.space == .s
      && !hits ((s.producers w g f).map (fun p => p.seen w g f)) (g.places f.b rs) []
      && (g.scratchAt (a.address (rs.map (f.readAt g f.b)))).any (fun p => p.1 = coreOf w.wid)

/-- The fibres of some for which an instruction counts on its flag at issue or at append (R87, R130, R207). -/
def State.counting (s : State) (w : Warp) (g : Group) (i : Instr) (fs : List Fibre) : List Fibre :=
  if countsFlag g i then fs.filter (fun f => !s.ownShare w g i f) else []

/-- Whether a core has no request slot, or a warp no room in its trap frame, for `n` further long-latency operations (R21,
R359). -/
def State.noSlot (s : State) (w : Warp) (i : Instr) (n : Nat) : Bool :=
  n ≠ 0 && i.shape.fs.isSome &&
    (4096 < (s.ops.filter (fun o => o.core = coreOf w.wid)).length + n
      || (!i.shape.dsts.isEmpty
          && 64 ≤ ((s.ops.filter (fun o => o.gid = w.gid && o.wid = w.wid && o.registersOnly)).map Op.issue).eraseDups.length))

/-- What becomes of an issue attempt. -/
inductive Issue where
  /-- The bundle waits at the instruction. -/
  | stall
  /-- The bundle parks before the instruction (R105, R139, R143). -/
  | park
  | trap (c : Cause)
  /-- The instruction issues for `x` and is deferred for `e`, of which `g` have an undecided guard (R127). -/
  | go (x e g : List Fibre)
  deriving DecidableEq, Repr

/-- Whether a register or CC register that an instruction meets in a fibre, as a source, a destination or its guard, is pending
on an access that waits for service (R143). -/
def State.awaitsService (s : State) (w : Warp) (g : Group) (f : Fibre) (sh : Shape) : Bool :=
  hits ((s.ops.filter (fun o => o.gid = w.gid && o.record.isSome)).map (fun o =>
      { order := o.order, regs := o.dsts f.id, ccs := o.ccs f.id }))
    (g.places f.b (sh.srcRegs ++ sh.dstRegs)) (guardReads sh.guard ++ sh.ccr.toList ++ sh.ccw.toList)

/-- Whether RET or EXIT waits in a fibre for an access that waits for service: EXIT for any, RET where residual entries are
left (R105, R143). -/
def State.leavesService (s : State) (w : Warp) (f : Fibre) (op : Nat) : Bool :=
  (op = 0x08 || (op = 0x05 && w.queue.any (fun e => e.left.contains f.lane)))
    && s.ops.any (fun o => o.gid = w.gid && o.record.isSome && !(o.dsts f.id).isEmpty)

/-- The treatment of an instruction for some fibres in deferring mode, with the TRAP policy or without it (R127, R137, R139;
PREF: notes/assumptions/74.md), or in waiting mode (R126). -/
def State.classifyOf (s : State) (w : Warp) (g : Group) (i : Instr) (deferring trapFull : Bool) (fs : List Fibre) : Issue :=
  let sh := i.shape
  let gp := fs.filter (fun f => s.guardPending w g f sh)
  let ex := fs.filter (fun f => f.guarded sh.guard)
  let wait (fs : List Fibre) : Issue := if deferring && fs.any (fun f => s.awaitsService w g f sh) then .park else .stall
  if deferring && sh.op = 0x85 then
    .go (ex.filter (fun f => !gp.contains f && !s.meetsPending w g f sh)) [] []
  else if deferring && isDeferrable sh.op then
    let open_ := ex.filter (fun f => !gp.contains f)
    let late := open_.filter (fun f => s.meetsPending w g f sh || w.orderBlocked g f i)
    let e := fs.filter (fun f => gp.contains f || late.contains f)
    if !e.isEmpty && g.resid < w.slotsUsed + sh.slots then (if trapFull then .trap { cls := 5 } else .park)
    else .go (open_.filter (fun f => !late.contains f)) e gp
  else if !gp.isEmpty then (if deferring && isControl sh.op then .park else wait gp)
  else if deferring && ex.any (fun f => s.leavesService w f sh.op) then .park
  else if deferring && isDrain sh.op then
    if fs.any (fun f => s.meetsPending w g f sh || (i.isFibreAccess && w.orderBlocked g f i)) then wait fs else .go ex [] []
  else if ex.any (fun f => s.meetsPending w g f sh || w.orderBlocked g f i) then wait ex
  else .go ex [] []

/-- The treatment of the instruction that a bundle has reached, for its fibres that have not enqueued its command. -/
def State.classify (s : State) (w : Warp) (a : Active) (g : Group) (i : Instr) : Issue :=
  s.classifyOf w g i (w.deferring a) (w.mode.toNat / 2 = 1) ((w.bundle a).filter (fun f => !a.sent.contains f.lane))

/-- The bundle parks before the instruction that it has reached and gives the warp up (R37, R105, R139, R143). -/
def Warp.parkAt (w : Warp) (a : Active) (i : Instr) (clock : Nat) : Warp :=
  let w1 := w.stopBundle.release clock
  { w1 with fibres := w1.fibres.map (fun f =>
      if a.lanes.contains f.lane then { f with park := some { wait := .stalled i a.noDefer, at_ := f.pos } } else f) }

/-- Whether a fibre parked before an instruction must still wait there: its bundle may not yet issue or defer it. -/
def State.stillStalled (s : State) (w : Warp) (g : Group) (f : Fibre) : Bool :=
  match f.park with
  | some { wait := .stalled i noDefer, at_ := p } =>
    let mates := w.fibres.filter (fun x => x.park = f.park && x.pos = f.pos && x.b = f.b)
    let fs := (w.byVlane (mates.map Fibre.lane)).filterMap w.fibre?
    p = f.pos && s.classifyOf w g i (w.modeNext.toNat % 2 = 1 && !noDefer) (w.modeNext.toNat / 2 = 1) fs = .park
  | _ => false

/-- The entry appended for the fibres that defer (R128, R130): one whose access is known to lie in its core's own share of
`.s` counts on no flag (R207), and in a handler each names its registers against its own window base (R358). -/
def State.append (s : State) (w : Warp) (a : Active) (g : Group) (i : Instr) (e gp : List Fibre) : State :=
  match e with
  | [] => s
  | f0 :: _ =>
    let sh := i.shape
    let (seq, s1) := s.fresh
    let counted := s.counting w g i e
    let flag := if counted.isEmpty then none else sh.fs.bind a.flag
    let caps := e.flatMap (fun f =>
      let ps := (s.producers w g f).map (fun p => p.seen w g f)
      (List.range sh.srcRegs.length).filterMap (fun j =>
        let r := sh.srcRegs.getD j .vz
        let pending := match g.place f.b r with
          | some p => hits ps [p] []
          | none => false
        if pending then none else some ({ src := j, lane := f.lane, value := f.readAt g f.b r } : Capture)))
    let entry : Entry :=
      { seq := seq, instr := i, words := a.here, hdr := a.hdr, idx := a.idx, base := f0.b, mask := e.map Fibre.lane,
        left := e.map Fibre.lane, laneBase := (e.filter (fun f => f.b ≠ f0.b)).map (fun f => (f.lane, f.b)),
        uncounted := (e.filter (fun f => !counted.contains f)).map Fibre.lane, gpend := (gp.filter (fun f => e.contains f)).map Fibre.lane, caps := caps, flag := flag,
        service := e.map (fun f => { lane := f.lane, mcls := f.mcls, mdl := f.mdl }),
        spoil := e.flatMap (fun f => ((g.places f.b sh.dstRegs).filter (fun p => (g.openRegs f.id).contains p)).map (fun p =>
          (f.lane, p))) }
    let s1 := e.foldl (fun (s : State) f =>
      let ps := (entry.spoil.filter (fun p => p.1 = f.lane)).map Prod.snd
      if ps.isEmpty then s else s.foul w.gid f.id ps) s1
    let s2 := match flag with
      | none => s1
      | some n => counted.foldl (fun (s : State) (f : Fibre) => s.onFibre w.wid f.lane (fun h => h.raise n)) s1
    s2.onWarp w.wid (fun w => { w with queue := w.queue ++ [entry] })

/-- Clocks for which an instruction holds its port. -/
def portClocks (i : Instr) : Nat :=
  match i with
  | .topk _ _ _ _ n _ _ => issueClocks 0x66 (topkN n)
  | _ => issueClocks i.shape.op 0

/-- A warp whose instruction has enqueued the commands of some of its lanes, under the number of an issue. -/
def Warp.noteSent (w : Warp) (lanes : List Nat) (issue : Nat) : Warp :=
  { w with active := w.active.map (fun a => { a with sent := a.sent ++ lanes, part := some issue }) }

/-- An instruction that passed its decode checks (R100): it waits, traps, or issues and advances its clause. -/
def State.issueBody (s : State) (w : Warp) (a : Active) (g : Group) (i : Instr) (m : Meaning) : State :=
  let sh := i.shape
  match s.classify w a g i with
  | .stall => s.advanceClock 1
  | .park => if a.sent.isEmpty then (s.onWarp w.wid (fun w => w.parkAt a i s.clock)).advanceClock 1 else s.advanceClock 1
  | .trap c => s.trapHere w a a.lanes c
  | .go x e gp =>
    let flag := sh.fs.bind a.flag
    let full := flag.any (fun n => (s.counting w g i (x ++ e)).any (fun f => 63 ≤ f.flag n))
    let late := i.isFibreAccess && x.any (fun f => s.acquiring g.gid f.id s.nextId)
    if full || late || s.noSlot w i (x.filter (fun f => !s.ownShare w g i f)).length then s.advanceClock 1
    else
      let (k, s1) := s.fresh
      let ex : Exec :=
        { w := w, g := g, instr := i, lanes := x.map (w.laneIn g sh), pos := { hdr := a.hdr, idx := a.idx, mid := true },
          words := a.here, flag := flag, entry := none, issue := a.part.getD k, place := a.part.getD k }
      match firstCause ex.lanes (m.check s1 ex) with
      | some c => s.trapHere w a a.lanes c
      | none =>
        let n := (m.room s1 ex).getD x.length
        if !x.isEmpty && n = 0 then s.advanceClock 1
        else match (if x.isEmpty then some s1 else m.perform { ex with lanes := ex.lanes.take n } s1) with
          | none => s.advanceClock 1
          | some s2 =>
            if n < x.length then
              (s2.onWarp w.wid (fun w => w.noteSent ((x.take n).map Fibre.lane) ex.issue)).advanceClock (portClocks i)
            else ((s2.append w a g i e gp).onWarp w.wid Warp.advance).advanceClock (portClocks i)

/-- One attempt of a bundle to issue the instruction that it has reached. -/
def State.issueAt (s : State) (w : Warp) (a : Active) (g : Group) (i : Instr) (m : Meaning) : State :=
  let fs := w.bundle a
  if s.ops.any (fun o => o.parks && o.gid = w.gid && fs.any (fun f => f.id = o.fid)) then
    s.onWarp w.wid (fun w => w.stopBundle.release s.clock)
  else match w.replayTrap with
  | some r => (s.takeReplayTrap w r).getD (s.advanceClock 1)
  | none =>
    if !rolePermits w.role i.shape.op then s.trapHere w a a.lanes { cls := 4, detail := i.shape.op }
    else match firstCause fs (m.decode w g i.shape) with
      | some c => s.trapHere w a a.lanes c
      | none => s.issueBody w a g i m

/-- An instruction issued by the bundle whose clause runs on the current warp. -/
def State.issue (s : State) (i : Instr) (m : Meaning) : Host.Outcome State Fault Refusal :=
  match s.cur.bind s.warp? with
  | none => .fault .noBundle
  | some w =>
    match w.active, s.group? w.gid with
    | some a, some g => .next (s.issueAt w a g i m)
    | _, _ => .fault .noBundle

/-! ## Replay (R133) -/

/-- A fibre as an entry sees it: in a handler, its CC registers are those of its lane record (R358). -/
def State.entryFibre (s : State) (w : Warp) (g : Group) (f : Fibre) (seq : Nat) : Fibre × State :=
  if w.trapped f.lane (some seq) then
    let (c, s1) := s.frameNat g.ctx w (0x10C + 32 * f.lane) 2
    ({ f with c0 := CC.ofNibble (c % 16), c1 := CC.ofNibble (c / 16 % 16), c2 := CC.ofNibble (c / 256 % 16),
              c3 := CC.ofNibble (c / 4096 % 16) }, s1)
  else (f, s)

/-- The operands of one fibre of an entry. -/
def State.replayLane (s : State) (w : Warp) (g : Group) (e : Entry) (f : Fibre) : LaneIn × State :=
  let (f1, s1) := s.entryFibre w g f e.order
  let (ws, s2) := s1.entrySources w g f e
  let sv := e.service.find? (fun v => v.lane = f.lane)
  ({ f := f1, vlane := w.vlane f.lane, src := ws, base := e.baseOf f.lane,
     mcls := (sv.map Service.mcls).getD f.mcls, mdl := (sv.map Service.mdl).getD f.mdl }, s2)

/-- An entry replayed for the lanes for which it is the ready head (R131 to R133): fibres whose guard proves false drop it,
a fault is kept for the warp's next issue point (R142), and the others perform it, once the core has slots for their requests
(R21). -/
def State.replayEntry (s : State) (w : Warp) (g : Group) (e : Entry) (m : Meaning) : State :=
  let lanes := w.byVlane (s.readyLanes w g e)
  let (ls, s1) := (lanes.filterMap w.fibre?).foldl (fun (acc : List LaneIn × State) f =>
    let (l, s') := acc.2.replayLane w g e f
    (acc.1 ++ [l], s')) ([], s)
  let off := ls.filter (fun l => e.gpend.contains l.f.lane && !l.f.guarded e.instr.shape.guard)
  let on := ls.filter (fun l => !off.contains l)
  let (k, s2) := s1.fresh
  let x : Exec := { w := w, g := g, instr := e.instr, lanes := on, pos := { hdr := e.hdr, idx := e.idx, mid := true },
                    words := e.words, flag := e.flag, entry := some e.seq, issue := k, place := e.order }
  let bad := on.filter (fun l => (m.check s2 x l).isSome)
  let able := on.filter (fun l => !bad.contains l)
  let good := able.take ((m.room s2 { x with lanes := able }).getD able.length)
  let s3 := s2.dropEntry w.wid e (off.map (fun l => l.f.lane))
  let long := good.filter (fun l => !(s.ownShare w g e.instr { l.f with b := l.base }))
  let done := if able.isEmpty then some s3
    else if good.isEmpty || (!e.inflight && s.noSlot w e.instr long.length) then none else m.perform { x with lanes := good } s3
  match done with
  | none => s
  | some s4 =>
    let s5 := s4.onWarp w.wid (fun w => w.finish e.seq (good.map (fun l => l.f.lane)))
    let s6 := match bad with
      | [] => s5
      | l :: _ => s5.onWarp w.wid (fun w => { w with replayTrap := (m.check s2 x l).map (fun (c : Cause) =>
          { cause := { c with sub := if c.cls = 3 then 1 else c.sub }, seq := some e.seq, lanes := bad.map (fun (l : LaneIn) => l.f.lane) }) })
    s6.advanceClock (portClocks e.instr)

end Sys2Proof.Machine
end

