-- ==== Sys2Proof/Machine/Flags.lean ====
section
/-! DEFINITION. The flags that instructions write to a CC register (R148, R149, R151, R155, R157, R160, R165), the operands
of one fibre, and the draws of its generator (R79). -/

namespace Sys2Proof.Machine

open Sys2Proof

/-! ## Operands of a lane -/

/-- Source word `k` of a fibre. -/
def LaneIn.s (l : LaneIn) (k : Nat) : Word := l.src.getD k 0

/-- An operand that a literal may supply; `k` is its place among the sources where a register supplies it. -/
def LaneIn.opt (l : LaneIn) (b : Src) (k : Nat) : Word :=
  match b with
  | .lit v => v
  | .reg _ => l.s k

/-- The place among the sources of the operand after one that a literal may supply. -/
def afterOpt (b : Src) (k : Nat) : Nat :=
  match b with
  | .lit _ => k
  | .reg _ => k + 1

/-- The pair of source words from `k` on, as a 64-bit value (R5). -/
def LaneIn.s64 (l : LaneIn) (k : Nat) : DWord := l.s (k + 1) ++ l.s k

/-- The two words of a 64-bit value, low word first (R5). -/
def words64 (v : DWord) : List Word := [v.setWidth 32, (v >>> 32).setWidth 32]

/-! ## Flags -/

/-- S and Z of a result, with C and V as given (R148). -/
def ccWord (r : Word) (c v : Bool) : CC := { s := r.msb, z := r = 0, c := c, v := v }

/-- S and Z of a 64-bit result, with C and V as given (R148). -/
def ccDWord (r : DWord) (c v : Bool) : CC := { s := r.msb, z := r = 0, c := c, v := v }

/-- The flags of an FP32 result (R157). -/
def ccFloat (b : Word) : CC :=
  { s := b.msb, z := b &&& 0x7FFFFFFF#32 = 0, c := false, v := (fp32.read b.toNat).isNan }

/-- Signed overflow of a sum. -/
def addOverflow {n : Nat} (a b : BitVec n) : Bool :=
  let v := a.toInt + b.toInt
  v < -(2 ^ (n - 1)) || 2 ^ (n - 1) - 1 < v

/-- Signed overflow of a difference. -/
def subOverflow {n : Nat} (a b : BitVec n) : Bool :=
  let v := a.toInt - b.toInt
  v < -(2 ^ (n - 1)) || 2 ^ (n - 1) - 1 < v

/-- IADD's result and flags (R149). -/
def iaddOf (sat : Bool) (a b : Word) : Word × CC :=
  let ovf := addOverflow a b
  let r := if sat && ovf then (if a.toInt + b.toInt < 0 then 0x80000000#32 else 0x7FFFFFFF#32) else a + b
  (r, ccWord r (2 ^ 32 ≤ a.toNat + b.toNat) ovf)

/-- ISUB's result and flags (R149). -/
def isubOf (sat : Bool) (a b : Word) : Word × CC :=
  let ovf := subOverflow a b
  let r := if sat && ovf then (if a.toInt - b.toInt < 0 then 0x80000000#32 else 0x7FFFFFFF#32) else a - b
  (r, ccWord r (b.toNat ≤ a.toNat) ovf)

/-- IADD64's result and flags (R150). -/
def iadd64Of (a b : DWord) : DWord × CC :=
  (a + b, ccDWord (a + b) (2 ^ 64 ≤ a.toNat + b.toNat) (addOverflow a b))

/-- ISHL's result and flags (R151). -/
def ishlOf (a : Word) (n : Nat) : Word × CC :=
  let r := if 32 ≤ n then 0 else a <<< n
  (r, ccWord r (1 ≤ n && n ≤ 32 && a.getLsbD (32 - n)) false)

/-- ISHR's result and flags (R151). -/
def ishrOf (a : Word) (n : Nat) : Word × CC :=
  let r := if 32 ≤ n then 0 else a >>> n
  (r, ccWord r (1 ≤ n && n ≤ 32 && a.getLsbD (n - 1)) false)

/-- ISHRA's result and flags (R151). -/
def ishraOf (a : Word) (n : Nat) : Word × CC :=
  let r := a.sshiftRight (min n 32)
  (r, ccWord r (if 32 < n then a.msb else 1 ≤ n && a.getLsbD (n - 1)) false)

/-- The flags that ICMP forms (R155). -/
def icmpFlags (a b : Word) : CC := (isubOf false a b).2

/-- The word of a truth value of a comparison (R155, R160). -/
def truth (p : Bool) : Word := if p then 0xFFFFFFFF#32 else 0

/-! ## Results -/

/-- A lane's result of one word with its flags. -/
def out1 (r : Word × CC) : LaneOut := { dst := [r.1], cc := some r.2 }

/-- A lane's FP32 result: the word, its flags and the exceptions (R157). -/
def outF (r : FRes) (draws : Nat) : LaneOut :=
  let w : Word := BitVec.ofNat 32 r.bits
  { dst := [w], cc := some (ccFloat w), fp := r.fl, draws := draws }

/-! ## Draws (R79) -/

/-- The `k`-th draw from now on of a fibre's generator (R79). -/
def Fibre.draw (f : Fibre) (g : Group) (k : Nat) : Word :=
  let c := f.rngCtr + BitVec.ofNat 64 k
  let block := natBytes 8 (c.toNat / 4) ++ natBytes 4 f.id ++ natBytes 4 g.index
  let out := aes128 (natBytes 16 f.rngKey.toNat) block
  BitVec.ofNat 32 (bytesNat ((out.drop (4 * (c.toNat % 4))).take 4))

/-- The draw that an SR rounding of result element `k` uses; 0 where the rounding draws none (R76). -/
def srDraw (rnd : Rnd) (g : Group) (l : LaneIn) (k : Nat) : Nat :=
  if rnd == .sr then (l.f.draw g k).toNat else 0

/-- The draws that `n` result elements take (R76). -/
def srTaken (rnd : Rnd) (n : Nat) : Nat := if rnd == .sr then n else 0

/-- The meaning of an instruction that computes each fibre's results from that fibre's operands and its group's index. -/
def vecG (u : Group → LaneIn → LaneOut) : Meaning where
  perform x s := some (x.lanes.foldl (fun s l => s.landLane x l (u x.g l)) s)

end Sys2Proof.Machine
end

