-- ==== Sys2Proof/Machine/Window.lean ====
section
/-! DEFINITION. The register window: the effects of ENTER, CALL and RET on a fibre (R57, R58), the check of a clause's
window effects (R108), and the window handlers that spill and fill link entries (R59 to R62, R138). -/

namespace Sys2Proof.Machine

open Sys2Proof

/-! ## The window of a fibre -/

/-- The sum of k over the resident link entries. -/
def Fibre.sumK (f : Fibre) : Nat := (f.links.map Link.k).sum

/-- Whether the window fits in the ring (R59). -/
def Fibre.fits (f : Fibre) (g : Group) : Bool := f.sumK + f.n ≤ g.ring

/-- CALL's action on the window (R58). -/
def Fibre.pushLink (f : Fibre) (g : Group) (ret : VAddr) (k : Nat) : Fibre :=
  { f with links := { pc := ret, k := k, nc := f.n } :: f.links, b := (f.b + k) % g.ring, n := f.n - k }

/-- RET's action on the window, with the jump to the pushed address (R58). -/
def Fibre.popLink (f : Fibre) (g : Group) : Fibre :=
  match f.links with
  | [] => f
  | l :: ls => { f with links := ls, b := (f.b + g.ring - l.k % g.ring) % g.ring, n := l.nc, pos := { hdr := l.pc } }

/-- The greatest frame size that ENTER may set (R57). -/
def Group.maxFrame (g : Group) : Nat := min g.ring 608

/-- Whether `n` is a frame size that ENTER may set (R57). -/
def Group.frameOk (g : Group) (n : Nat) : Bool := 1 ≤ n && n ≤ g.maxFrame

/-! ## Window effects of a clause (R108) -/

/-- A window effect. -/
inductive WinOp where
  | enter (n : Nat)
  | call (k : Nat)
  | ret
  deriving DecidableEq, Repr

/-- The window effect of an instruction. -/
def winOp (i : Instr) : Option WinOp :=
  match i with
  | .enter _ n => some (.enter n.toNat)
  | .call _ k _ => some (.call k.toNat)
  | .callx _ _ k => some (.call k.toNat)
  | .ret _ => some .ret
  | _ => none

/-- The window effects of a clause's instructions that hold on a fibre: an instruction guarded on a CC register that an
earlier one of the clause writes counts as though its guard were true (R108); `ws` are the CC registers written so far. -/
def winOps (f : Fibre) : List (Fin 4) → List Instr → List WinOp
  | _, [] => []
  | ws, i :: is =>
    let sh := i.shape
    let holds := f.guarded sh.guard || (guardReads sh.guard).any (fun c => ws.contains c)
    (if holds then (winOp i).toList else []) ++ winOps f (sh.ccw.toList ++ ws) is

/-- Whether every ENTER and CALL of a list of effects fits (R59, R108). An effect that a decode check will stop, and a RET
that underflows, end the list. -/
def Fibre.allFit (f : Fibre) (g : Group) : List WinOp → Bool
  | [] => true
  | .enter n :: ops =>
    !g.frameOk n || (let f1 := { f with n := n }; f1.fits g && f1.allFit g ops)
  | .call k :: ops =>
    f.n < k || (f.links.length < 16 && (f.pushLink g 0 k).allFit g ops)
  | .ret :: ops => f.links.isEmpty || (f.popLink g).allFit g ops

/-- How many of the oldest link entries must be spilled for the effects to fit (R59). -/
def Fibre.spillCount (f : Fibre) (g : Group) (ops : List WinOp) : Nat → Nat
  | 0 => 0
  | n + 1 => if f.allFit g ops || f.links.isEmpty then 0 else
      1 + Fibre.spillCount { f with links := f.links.dropLast } g ops n

/-- The ring positions of the `m` oldest link entries, which a spill writes to memory (R59). -/
def Fibre.spillPlaces (f : Fibre) (g : Group) : Nat → List Nat
  | 0 => []
  | m + 1 =>
    match f.links.getLast? with
    | none => []
    | some l =>
      let b0 := (f.b + f.links.length * g.ring * 2 ^ 10 - f.sumK) % g.ring
      (List.range l.k).map (fun i => (b0 + i) % g.ring)
        ++ Fibre.spillPlaces { f with links := f.links.dropLast } g m

/-! ## Faults (R378) -/

/-- A fault of a clause fetch, or of a `.k` access of the window handler: its record, which the bundle's fibres wait for (R378);
where no record is free, the bundle tries again later (R379). -/
def State.fetchFault (s : State) (w : Warp) (g : Group) (lanes : List Nat) (va cause level : Nat) (access : Access) :
    State :=
  let ag : Agent := { ctx := g.ctx, node := g.node, core := coreOf w.wid, places := corePlaces (coreOf w.wid),
                      place := placeOf w.wid, engine := false, deferred := false }
  match s.postFault ag va cause level access with
  | (some k, s1) => { s1 with faults := s1.faults.map (fun r =>
      if r.id = k then { r with fetchers := r.fetchers ++ [(w.wid, lanes)] } else r) }
  | (none, s1) => s1

/-- The first of some bytes of a context at which an access of the window handler faults, with cause and level (R191, R378); a
load faults where it would consume poison as well (R383). -/
def State.handlerFault (s : State) (cn : Nat) (k : Access) (vas : List Nat) : Option (Nat × Nat × Nat) :=
  (s.ctx? cn).bind (fun c => vas.findSome? (fun a =>
    let va := a % 2 ^ 52
    match s.walk c va with
    | .stop cause level => some (va, cause, level)
    | .leaf e level _ =>
      match s.leafCause e level va k with
      | some cause => if cause = 4 && s.atsHit cn va e then none else some (va, cause, level)
      | none => if k = .read && s.poisoned (leafAddr e level va) 1 then some (va, 7, 3) else none))

/-- The window handler of a bundle parked for a fault: a bundle in mid-clause stops before the instruction that ran the handler,
and runs it again after service (R62, R378). -/
def State.parkHandler (s : State) (w : Warp) (g : Group) (lanes : List Nat) (fault : Nat × Nat × Nat) (k : Access) : State :=
  (s.onWarp w.wid (fun v => v.stopBundle.release s.clock)).fetchFault w g lanes fault.1 fault.2.1 fault.2.2 k

/-! ## Overflow (R59, R60) -/

/-- The address of byte `o` of a fibre's `.k` space (R63). -/
def Warp.spillAddr (w : Warp) (f : Fibre) (o : Nat) : Nat := kAddr w (w.vlane f.lane) o

/-- The bytes of `n` words of a fibre's `.k` space from offset `o`. -/
def Warp.spillBytes (w : Warp) (f : Fibre) (o n : Nat) : List Nat :=
  (List.range n).flatMap (fun j => rangeOf (w.spillAddr f (o + 4 * j)) 4)

/-- The bytes that a fibre's `m` oldest link entries take as records, as far as `%spillsz` goes (R60, R63). -/
def Warp.spillRange (w : Warp) (f : Fibre) (m : Nat) : List Nat :=
  let n := ((f.links.reverse.take m).map (fun l => l.k + 4)).sum
  w.spillBytes f f.ksp.toNat (min n ((w.spillsz.toNat - f.ksp.toNat) / 4))

/-- Words written to a fibre's `.k` space by the window handler. Where a handler has left `%ksp` at a value that is no multiple
of 4 (R67), the spec does not say where the bytes of a word lie: the model writes and reads its 4 bytes as they follow from the
address of its first, and does not map each by R63 (log 84). -/
def State.spillWords (s : State) (w : Warp) (cn : Nat) (f : Fibre) (o : Nat) : List Word → State
  | [] => s
  | v :: vs => (s.frameWrite (coreOf w.wid) cn (w.spillAddr f o) (bytesOf 4 v.toNat)).spillWords w cn f (o + 4) vs

/-- The spill record of a fibre's oldest link entry (R60). -/
def Fibre.spillRecord (f : Fibre) (g : Group) (l : Link) : List Word :=
  (Fibre.spillPlaces f g 1).map f.at
    ++ [l.pc.setWidth 32, (l.pc >>> 32).setWidth 32, BitVec.ofNat 32 (l.k + l.nc * 2 ^ 16), BitVec.ofNat 32 (l.k + 4)]

/-- One step of the handler for one fibre: its oldest link entry spilled; none where the record would pass `%spillsz`. -/
def State.spillOne (s : State) (w : Warp) (g : Group) (lane : Nat) : Option State :=
  match (s.fibre? w.wid lane) with
  | none => some s
  | some f =>
    match f.links.getLast? with
    | none => some s
    | some l =>
      if w.spillsz.toNat < f.ksp.toNat + 4 * (l.k + 4) then none
      else some ((s.spillWords w g.ctx f f.ksp.toNat (f.spillRecord g l)).onFibre w.wid lane (fun f =>
        { f with links := f.links.dropLast, ksp := f.ksp + BitVec.ofNat 32 (4 * (l.k + 4)), depth := f.depth + 1 }))

/-- The handler's rounds: in each, one record for every fibre that has one left to write (R62); `todo` holds lanes with
their counts. The result is the state, the clocks taken, and whether the spill area sufficed. -/
def State.spillRounds (s : State) (w : Warp) (g : Group) : Nat → List (Nat × Nat) → State × Nat × Bool
  | 0, _ => (s, 0, true)
  | fuel + 1, todo =>
    let now := todo.filter (fun t => t.2 ≠ 0)
    if now.isEmpty then (s, 0, true)
    else
      let ks := now.filterMap (fun t => (s.fibre? w.wid t.1).bind (fun f => f.links.getLast?.map Link.k))
      let (s1, ok) := now.foldl (fun (acc : State × Bool) t =>
        if acc.2 then
          match acc.1.spillOne w g t.1 with
          | some s' => (s', true)
          | none => (acc.1, false)
        else acc) (s, true)
      let cost := 8 + (ks.foldl max 0 + 4 + 3) / 4
      if !ok then (s1, cost, false)
      else
        let (s2, c, b) := s1.spillRounds w g fuel (now.map (fun t => (t.1, t.2 - 1)))
        (s2, cost + c, b)

/-- The window-overflow trap of a bundle whose window effects are `ops f` (R59 to R63): `none` while a queued entry or an
operation in flight, a matrix operation that has still to read its fragments among them, writes, or reads uncaptured, a
position that will be spilled (R138). Where a store of the handler would fault, no record is written and the handler parks
(R378; log 19). -/
def State.windowOverflow (s : State) (w : Warp) (g : Group) (fs : List Fibre) (ops : Fibre → List WinOp) : Option State :=
  let todo := fs.map (fun f => (f, f.spillCount g (ops f) 16))
  let busy := todo.any (fun t =>
    let ps := t.1.spillPlaces g t.2
    s.ops.any (fun o => o.gid = g.gid && o.stage = .issued
      && o.frags.any (fun q => q.fid = t.1.id && (q.a ++ q.b ++ q.sc).any ps.contains)) ||
    hits (s.producers w g t.1) ps [] ||
      hits ((w.queue.filter (fun e => e.left.contains t.1.lane)).map (fun e => e.opens g t.1.lane)) ps [])
  if busy then none
  else match s.handlerFault g.ctx .write (todo.flatMap (fun t => w.spillRange t.1 t.2)) with
  | some x => some ((s.parkHandler w g ((w.active.map Active.lanes).getD (fs.map Fibre.lane)) x .write).advanceClock 1)
  | none =>
    let (s1, cost, ok) := s.spillRounds w g 17 (todo.map (fun t => (t.1.lane, t.2)))
    let s2 := s1.advanceClock (48 + cost)
    some (if ok then s2 else s2.acts g.ctx [.fail g.node 0x03 0])

/-! ## Underflow (R61) -/

/-- A word of a fibre's `.k` space as the handler reads it. -/
def State.fillWord (s : State) (w : Warp) (cn : Nat) (f : Fibre) (o : Nat) : Word × State :=
  s.frameWord cn (w.spillAddr f (o % 2 ^ 32))

/-- Words read in order. -/
def State.fillWords (s : State) (w : Warp) (cn : Nat) (f : Fibre) (o : Nat) : Nat → List Word × State
  | 0 => ([], s)
  | n + 1 =>
    let (v, s1) := s.fillWord w cn f o
    let (vs, s2) := s1.fillWords w cn f (o + 4) n
    (v :: vs, s2)

/-- The record that ends at a fibre's `%ksp` brought back, with its k; the RET then pops the entry (R61). -/
def State.fillOne (s : State) (w : Warp) (g : Group) (f : Fibre) : Nat × State :=
  let (len, s1) := s.fillWord w g.ctx f (f.ksp.toNat + 2 ^ 32 - 4)
  let k := min (len.toNat - 4) 608
  let base := f.ksp.toNat + 2 ^ 32 - 4 * (k + 4)
  let (ws, s2) := s1.fillWords w g.ctx f base (k + 4)
  let pc : Nat := (ws.getD k 0).toNat + (ws.getD (k + 1) 0).toNat % 2 ^ 20 * 2 ^ 32
  let kn := ws.getD (k + 2) 0
  let l : Link := { pc := BitVec.ofNat 52 pc, k := kn.toNat % 1024, nc := kn.toNat / 2 ^ 16 % 1024 }
  (k, s2.onFibre w.wid f.lane (fun f =>
    let f1 := (List.range k).foldl (fun (f : Fibre) i => f.put ((f.b + g.ring - k % g.ring + i) % g.ring) (ws.getD i 0)) f
    { f1 with links := [l], ksp := f1.ksp - BitVec.ofNat 32 (4 * (k + 4)), depth := f1.depth - 1 }))

/-- The first fault of the handler's loads for a fibre: of the record's length, or of the record (R61, R378). -/
def State.fillFault (s : State) (w : Warp) (cn : Nat) (f : Fibre) : Option (Nat × Nat × Nat) :=
  let at_ (n : Nat) : Nat := (f.ksp.toNat + 2 ^ 32 - 4 * n) % 2 ^ 32
  match s.handlerFault cn .read (w.spillBytes f (at_ 1) 1) with
  | some x => some x
  | none =>
    let k := min ((s.fillWord w cn f (at_ 1)).1.toNat - 4) 608
    s.handlerFault cn .read ((List.range (k + 4)).flatMap (fun j => w.spillBytes f (at_ (k + 4 - j)) 1))

/-- The window-underflow trap at a RET for its executing fibres: the fills of those with no link entry, and the clocks of
R62; where a load faults, nothing is filled and the handler parks (R378). -/
def State.windowUnderflow (s : State) (w : Warp) (g : Group) (fs : List Fibre) : State :=
  let todo := fs.filter (fun f => f.links.isEmpty)
  match todo.findSome? (s.fillFault w g.ctx) with
  | some x => s.parkHandler w g ((w.active.map Active.lanes).getD []) x .read
  | none =>
    let (kmax, s1) := todo.foldl (fun (acc : Nat × State) f =>
      let (k, s') := acc.2.fillOne w g f
      (max acc.1 k, s')) (0, s)
    s1.advanceClock (56 + (kmax + 4 + 3) / 4)

end Sys2Proof.Machine
end

