-- ==== Sys2Proof/Machine/Control.lean ====
section
/-! DEFINITION. The control, fibre, synchronisation and system instructions (R103 to R124, R38, R123, R365 to R368), but for
WAITW and the convergence instructions. -/

namespace Sys2Proof.Machine

open Sys2Proof

/-! ## Shared operations -/

/-- Every executing fibre changed. -/
def Exec.each (x : Exec) (s : State) (u : LaneIn → Fibre → Fibre) : State :=
  x.lanes.foldl (fun s l => s.onFibre x.w.wid l.f.lane (u l)) s

/-- The executing fibres changed after the window handler has run; not where it has parked (R378). -/
def Exec.after (x : Exec) (s : State) (u : LaneIn → Fibre → Fibre) : State :=
  if (s.warp? x.w.wid).any (fun w => w.active.isSome) then x.each s u else s

/-- An executing fibre parked at its instruction (R37, R122). -/
def Exec.park (x : Exec) (s : State) (l : LaneIn) (wt : Wait) : State :=
  s.onFibre x.w.wid l.f.lane (fun f => { f with park := some { wait := wt, at_ := x.pos } })

/-- The executing fibre of the highest virtual lane, which gives a warp's value (R118). -/
def Exec.top (x : Exec) : Option LaneIn := x.lanes.getLast?

/-- The executing fibre of the lowest virtual lane (R365). -/
def Exec.bottom (x : Exec) : Option LaneIn := x.lanes.head?

/-- A branch offset in bytes (R85, R106). -/
def offBytes : Off → Int
  | .short o => 8 * o.toInt
  | .long o => 8 * o.toInt

/-- The header that an offset names from the branching clause (R85). -/
def Pos.target (p : Pos) (o : Off) : VAddr := BitVec.ofInt 52 (p.hdr.toNat + offBytes o)

/-- The header that a pair of source words names (R106): bits [63:52] are ignored. -/
def LaneIn.header (l : LaneIn) : VAddr := BitVec.ofNat 52 (pairAddr (l.s 0) (l.s 1))

/-- An illegal operand of an instruction that handler mode forbids (R358). -/
def notInHandler (w : Warp) : Option Cause := if w.handler.isSome then some (illegalOperand) else none

/-- The lines of a core's L1 dropped at an acquire point of a scope, for a fibre of a group (R188). -/
def State.acquireAt (s : State) (core : Nat) (g : Group) (sc : Scope) : State :=
  match sc with
  | .fibre => s
  | .group => if 1 < g.shares.length then s.dropL1 core else s
  | .die | .device | .system => s.dropL1 core

/-- Whether every earlier access of a fibre has been performed: none is queued and none is in flight (R114). -/
def State.allPerformed (s : State) (w : Warp) (f : Fibre) : Bool :=
  (w.queue.all (fun e => !(e.left.contains f.lane && Sys2Proof.isAccess e.instr.shape.op)))
    && (s.opsOf w.gid f.id).all (fun o => !o.isAccess)

/-- Whether a fibre has no entry in the queue, residual or re-injected. -/
def Warp.drained (w : Warp) (f : Fibre) : Bool := w.queue.all (fun e => !e.left.contains f.lane)

/-- Whether a fibre has residual entries: entries of the queue that are no operations in flight (R40, R128, R376). -/
def Warp.residual (w : Warp) (f : Fibre) : Bool := w.queue.any (fun e => !e.inflight && e.left.contains f.lane)

/-- The fibres of a group that have not exited (R113). -/
def State.liveFibres (s : State) (gid : Nat) : Nat :=
  ((s.warps.filter (fun w => w.gid = gid)).map (fun w => w.fibres.length)).sum

/-! ## Rejoin masks (R38) -/

/-- A rejoin mask of a warp. -/
def Warp.jm (w : Warp) (n : Nat) : JMask := sget {} w.jms n

/-- The release check of a mask: where the arrived set equals a non-empty enrolled set, its fibres go on and it becomes
idle. -/
def Warp.rejoin (w : Warp) (n : Nat) : Warp :=
  let m := w.jm n
  if !m.enr.isEmpty && m.enr.all (fun l => m.arr.contains l) then
    { w with jms := sset {} w.jms n {}, fibres := w.fibres.map (fun f =>
      match f.park with
      | some { wait := .rejoin k, at_ := _ } => if k = n && m.arr.contains f.lane then { f with park := none } else f
      | _ => f) }
  else w

/-- RJEN on a lane. -/
def Warp.enrol (w : Warp) (n lane : Nat) : Warp :=
  let m := w.jm n
  { w with jms := sset {} w.jms n { m with enr := addNat lane m.enr } }

/-- RJSTRIKE on a lane. -/
def Warp.strike (w : Warp) (n lane : Nat) : Warp :=
  let m := w.jm n
  { w with jms := sset {} w.jms n { enr := m.enr.filter (fun l => l ≠ lane), arr := m.arr.filter (fun l => l ≠ lane) } }

/-- RJWAIT on a lane that is enrolled: it arrives. -/
def Warp.arriveJm (w : Warp) (n lane : Nat) : Warp :=
  let m := w.jm n
  { w with jms := sset {} w.jms n { m with arr := addNat lane m.arr } }

/-! ## Barriers (R113, R114) -/

/-- A barrier of a group. -/
def Group.bar (g : Group) (b : Nat) : Barrier := sget {} g.bars b

/-- The phase at which a fibre is armed at a barrier. -/
def Fibre.armedAt (f : Fibre) (b : Nat) : Option Nat := (f.armed.find? (fun a => a.1 = b)).map Prod.snd

/-- A fibre disarmed at a barrier. -/
def Fibre.disarm (f : Fibre) (b : Nat) : Fibre := { f with armed := f.armed.filter (fun a => a.1 ≠ b) }

/-- Fibres of a warp that leave their wait on an old phase of a barrier. -/
def Warp.leaveBar (w : Warp) (b phase : Nat) : Warp :=
  { w with fibres := w.fibres.map (fun f =>
      match f.park with
      | some { wait := .barrier k p, at_ := _ } =>
        if k = b && p = phase then { f.disarm b with park := none } else f
      | _ => f) }

/-- The completion check of a barrier: the phase ends when the arrivals reach the needed count, and its waiting fibres
leave, each an acquire at group scope. -/
def State.barCheck (s : State) (gid b : Nat) : State :=
  match s.group? gid with
  | none => s
  | some g =>
    let k := g.bar b
    let need := if k.expect = 0 then s.liveFibres gid else k.expect
    if k.arrivals = 0 || k.arrivals < need then s
    else
      let s1 := s.onGroup gid (fun g => { g with bars := sset {} g.bars b { k with phase := k.phase + 1, arrivals := 0 } })
      let s2 := { s1 with warps := s1.warps.map (fun w => if w.gid = gid then w.leaveBar b k.phase else w) }
      (s1.warps.filter (fun w => w.gid = gid)).foldl (fun s w => s.acquireAt (coreOf w.wid) g .group) s2

/-- One fibre's arrival at a barrier. -/
def State.barArrive (s : State) (gid wid lane b cnt : Nat) : State :=
  match s.group? gid, s.fibre? wid lane with
  | some g, some f =>
    let k := g.bar b
    if f.armedAt b = some k.phase then s
    else
      let k1 : Barrier := { k with expect := if k.arrivals = 0 then cnt else k.expect, arrivals := k.arrivals + 1 }
      let s1 := s.onGroup gid (fun g => { g with bars := sset {} g.bars b k1 })
      let s2 := s1.onFibre wid lane (fun f => { f.disarm b with armed := (f.disarm b).armed ++ [(b, k.phase)] })
      s2.barCheck gid b
  | _, _ => s

/-- Whether a fibre executes again, after a trap, the BARS of a wait whose phase has ended in the handler: it does not arrive
a second time, and its wait is over (R122). -/
def Group.barOver (g : Group) (f : Fibre) (p : Pos) (b : Nat) : Bool :=
  f.barred.any (fun x => x.1 = b && x.2.1 ≠ (g.bar b).phase && x.2.2.hdr = p.hdr && x.2.2.idx = p.idx)

/-- The arrivals of a bundle's executing fibres, in ascending virtual lane. -/
def Exec.barArrivals (x : Exec) (s : State) (b : Nat) : State :=
  x.lanes.foldl (fun s l =>
    if (s.group? x.w.gid).any (fun g => g.barOver l.f x.pos b) then s
    else s.barArrive x.w.gid x.w.wid l.f.lane b ((l.s 0).toNat % 2 ^ 12)) s

/-- The waits of a bundle's executing fibres: a fibre armed in the current phase parks, any other goes on. -/
def Exec.barWaits (x : Exec) (s : State) (b : Nat) : State :=
  x.lanes.foldl (fun s l =>
    let s := s.onFibre x.w.wid l.f.lane (fun f => { f with barred := none })
    match s.group? x.w.gid, s.fibre? x.w.wid l.f.lane with
    | some g, some f =>
      if f.armedAt b = some (g.bar b).phase then x.park s l (.barrier b (g.bar b).phase)
      else (s.onFibre x.w.wid l.f.lane (fun f => f.disarm b)).acquireAt (coreOf x.w.wid) g .group
    | _, _ => s) s

/-! ## NOP, branches, calls -/

/-- NOP (R117). -/
def meanNop : Meaning where
  perform _ s := some s

/-- NOP (R117). -/
def execNop (g : Guard) (s : State) : Host.Outcome State Fault Refusal := s.issue (.nop g) meanNop

/-- The short NOP (R97, R103). -/
def execNopShort (s : State) : Host.Outcome State Fault Refusal := s.issue .nopShort meanNop

/-- BRA (R106). -/
def meanBra (o : Off) : Meaning where
  perform x s := some (x.each s (fun _ f => { f with pos := { hdr := x.pos.target o } }))

/-- BRA (R106). -/
def execBra (g : Guard) (o : Off) (s : State) : Host.Outcome State Fault Refusal := s.issue (.bra g o) (meanBra o)

/-- BRX (R106). -/
def meanBrx : Meaning where
  perform x s := some (x.each s (fun l f => { f with pos := { hdr := l.header } }))

/-- BRX (R106). -/
def execBrx (g : Guard) (a : Reg) (s : State) : Host.Outcome State Fault Refusal := s.issue (.brx g a) meanBrx

/-- The decode checks of CALL and CALLX: k within the frame (R58, R108), no handler (R358). -/
def callCheck (k : Nat) (w : Warp) (f : Fibre) : Option Cause :=
  if f.n < k then some (illegalOperand) else notInHandler w

/-- The address of the clause that follows the one in which an instruction issues: what CALL and CALLX push (R85, R107). -/
def Exec.follow (x : Exec) : VAddr := (x.w.active.map (fun a => clauseAfter a.hdr a.header)).getD 0

/-- CALL and CALLX for targets by fibre (R58, R107); the window-overflow handler runs where a link stack is full. -/
def callWith (k : Nat) (target : Exec → LaneIn → VAddr) : Meaning where
  static w _ f := callCheck k w f
  perform x s :=
    let fs := x.lanes.map LaneIn.f
    if fs.any (fun f => 16 ≤ f.links.length) then
      (s.windowOverflow x.w x.g fs (fun _ => [.call k])).map (fun s1 =>
        x.after s1 (fun l f => { f.pushLink x.g x.follow k with pos := { hdr := target x l } }))
    else some (x.each s (fun l f => { f.pushLink x.g x.follow k with pos := { hdr := target x l } }))

/-- CALL (R58, R107). -/
def meanCall (k : BitVec 10) (o : Off) : Meaning := callWith k.toNat (fun x _ => x.pos.target o)

/-- CALL (R58, R107). -/
def execCall (g : Guard) (k : BitVec 10) (o : Off) (s : State) : Host.Outcome State Fault Refusal :=
  s.issue (.call g k o) (meanCall k o)

/-- CALLX (R58, R107). -/
def meanCallx (k : BitVec 10) : Meaning := callWith k.toNat (fun _ l => l.header)

/-- CALLX (R58, R107). -/
def execCallx (g : Guard) (a : Reg) (k : BitVec 10) (s : State) : Host.Outcome State Fault Refusal :=
  s.issue (.callx g a k) (meanCallx k)

/-- RET (R58, R61, R105): it waits for the fibre's residual entries; where a link stack is empty, the window-underflow
handler fills it and performs the RET. -/
def meanRet : Meaning where
  static w _ f := if f.links.isEmpty && f.depth = 0 then some (illegalOperand) else notInHandler w
  perform x s :=
    let fs := x.lanes.map LaneIn.f
    if fs.any (fun f => !x.w.drained f) then none
    else
      let s1 := if fs.any (fun f => f.links.isEmpty) then s.windowUnderflow x.w x.g fs else s
      some (x.after s1 (fun _ f => f.popLink x.g))

/-- RET (R58, R61, R105). -/
def execRet (g : Guard) (s : State) : Host.Outcome State Fault Refusal := s.issue (.ret g) meanRet

/-- ENTER (R57, R109); the window-overflow handler runs where the frame does not fit. -/
def meanEnter (n : BitVec 10) : Meaning where
  static w g _ := if g.frameOk n.toNat then notInHandler w else some (illegalOperand)
  perform x s :=
    let fs := x.lanes.map LaneIn.f
    if fs.any (fun f => !{ f with n := n.toNat }.fits x.g) then
      (s.windowOverflow x.w x.g fs (fun _ => [.enter n.toNat])).map (fun s1 =>
        x.after s1 (fun _ f => { f with n := n.toNat }))
    else some (x.each s (fun _ f => { f with n := n.toNat }))

/-- ENTER (R57, R109). -/
def execEnter (g : Guard) (n : BitVec 10) (s : State) : Host.Outcome State Fault Refusal :=
  s.issue (.enter g n) (meanEnter n)

/-! ## FORK and EXIT -/

/-- The first vacant lane for a fork: warp slot and physical lane (R27). -/
def State.vacantLane (s : State) (w : Warp) : Option (Nat × Nat) :=
  let ws := s.warps.filter (fun v => v.gid = w.gid && coreOf v.wid = coreOf w.wid && v.role == w.role)
  (List.range 64).findSome? (fun i => (ws.find? (fun v => v.idx = i)).bind (fun v =>
    (v.remap.find? (fun l => (v.fibre? l).isNone)).map (fun l => (v.wid, l))))

/-- A created fibre (R27, R110): the forker's frame at ring position 0, its fixed registers, and unpredictable contents in
the rest of the ring. -/
def Fibre.child (f : Fibre) (g : Group) (lane id : Nat) (target : VAddr) (clock : Nat) (rest : List Word) : Fibre :=
  let frame := (List.range f.n).map (fun i => (i, f.at ((f.b + i) % g.ring)))
  let fixed := (List.range g.f).map (fun i => (g.ring + i, f.at (g.ring + i)))
  let other := (List.range rest.length).map (fun i => (f.n + i, rest.getD i 0))
  Fibre.puts { lane := lane, id := id, pos := { hdr := target }, n := f.n, mcls := f.mcls, mdl := f.mdl, rngKey := f.rngKey,
               waitFrom := clock } (frame ++ fixed ++ other)

/-- FORK by one fibre: the number of the child, none where none is created (R27, R110). -/
def State.forkOne (s : State) (x : Exec) (l : LaneIn) (target : VAddr) : Option Nat × State :=
  match s.vacantLane x.w, s.group? x.w.gid, s.fibre? x.w.wid l.f.lane with
  | some (wid, lane), some g, some f =>
    if 0xFFFFFFFF ≤ g.forkCtr then (none, s)
    else
      let (rest, s1) := State.freeWords (g.ring - f.n) s
      let c := f.child g lane g.forkCtr target s.clock rest
      let s2 := s1.onWarp wid (fun w => { w with fibres := w.fibres ++ [c] })
      (some g.forkCtr, s2.onGroup x.w.gid (fun g => { g with forkCtr := g.forkCtr + 1 }))
  | _, _, _ => (none, s)

/-- The register positions of a fibre's frame and fixed part. -/
def Fibre.framePlaces (f : Fibre) (g : Group) : List Nat :=
  (List.range f.n).map (fun i => (f.b + i) % g.ring) ++ (List.range g.f).map (fun i => g.ring + i)

/-- FORK (R27, R105, R110). -/
def meanFork (o : Off) : Meaning where
  perform x s :=
    if x.lanes.any (fun l => hits ((s.producers x.w x.g l.f).map (fun p => p.seen x.w x.g l.f)) (l.f.framePlaces x.g) []) then
      none
    else
      some (x.lanes.foldl (fun s l =>
        let (k, s1) := s.forkOne x l (x.pos.target o)
        let v : Word := BitVec.ofNat 32 (k.getD 0xFFFFFFFF)
        s1.landLane x l { dst := [v], cc := some { z := k.isNone } }) s)

/-- FORK (R27, R105, R110). -/
def execFork (g : Guard) (d : Reg) (o : Off) (w : CcW) (s : State) : Host.Outcome State Fault Refusal :=
  s.issue (.fork g d o w) (meanFork o)

/-- Whether a fibre has signed a convergence register whose operation has not started. -/
def Group.signed (g : Group) (f : Fibre) : Bool := g.convs.any (fun c => c.2.sigs.any (fun x => x.fid = f.id))

/-- Whether a matrix operation that reads registers of a fibre, or will once its convergence register is full, has still to
complete (R105). -/
def State.fragmentsOut (s : State) (g : Group) (f : Fibre) : Bool :=
  s.ops.any (fun o => o.gid = g.gid && o.frags.any (fun x => x.fid = f.id)) || g.signed f

/-- Whether the engine has still to read the operand registers of an MMA or a joint operation of a fibre, or of a signature
that it made; a joint operation is also that of a fibre that has only armed its register (R277, R284, R285). -/
def State.operandsOut (s : State) (g : Group) (f : Fibre) : Bool :=
  s.ops.any (fun o => o.gid = g.gid && o.stage = .issued && !o.frags.isEmpty
    && (o.fids.contains f.id || o.frags.any (fun x => x.fid = f.id)))
  || g.signed f || g.convs.any (fun c => c.2.arming.any (fun a => a.by_.any (fun b => b.2 = f.id)))

/-- A fibre ended (R28, R111): out of every rejoin mask, its lane vacant, the barriers' counts checked again. -/
def State.exitFibre (s : State) (gid wid lane : Nat) : State :=
  let s1 := s.onWarp wid (fun w =>
    let w1 := (List.range 8).foldl (fun (w : Warp) n =>
      if (w.jm n).enr.contains lane then (w.strike n lane).rejoin n else w) w
    { w1 with fibres := w1.fibres.filter (fun f => f.lane ≠ lane) })
  (List.range 16).foldl (fun s b => s.barCheck gid b) s1

/-- EXIT (R28, R105, R111). -/
def meanExit : Meaning where
  perform x s :=
    if x.lanes.any (fun l => !x.w.drained l.f || s.anyPending x.w x.g l.f || s.fragmentsOut x.g l.f) then none
    else some (x.lanes.foldl (fun s l => s.exitFibre x.w.gid x.w.wid l.f.lane) s)

/-- EXIT (R28, R105, R111). -/
def execExit (g : Guard) (s : State) : Host.Outcome State Fault Refusal := s.issue (.exit g) meanExit

/-! ## YIELD, MODE, FWAIT, TMSET, PHASE -/

/-- YIELD (R88, R117): the warp is offered at the clause's end; with a pre-emption request pending, the fibres stand at a
blocking point until they go on. -/
def meanYieldI : Meaning where
  perform x s :=
    let s1 := s.onWarp x.w.wid (fun w => { w with offered := true })
    let pending := (s.ctx? x.g.ctx).any (fun c => c.state = 1) && x.w.handler.isNone
    some (if pending then x.lanes.foldl (fun s l => x.park s l .yielding) s1 else s1)

/-- YIELD (R88, R117). -/
def execYieldI (g : Guard) (s : State) : Host.Outcome State Fault Refusal := s.issue (.yieldI g) meanYieldI

/-- A mode word with its policy and defer bits replaced where they are given (R68, R120). -/
def modeWith (m : BitVec 2) (policy defer : Option Bool) : BitVec 2 :=
  BitVec.ofNat 2 (2 * (policy.getD (m.toNat / 2 = 1)).toNat + (defer.getD (m.toNat % 2 = 1)).toNat)

/-- MODE (R68, R118, R120): the change takes effect at the warp's next clause boundary. -/
def meanMode (policy defer : Option Bool) : Meaning where
  perform x s := some (s.onWarp x.w.wid (fun w => { w with modeNext := modeWith w.modeNext policy defer }))

/-- MODE (R68, R118, R120). -/
def execMode (g : Guard) (policy defer : Option Bool) (s : State) : Host.Outcome State Fault Refusal :=
  s.issue (.mode g policy defer) (meanMode policy defer)

/-- The flags of a mask. -/
def flagsOf (m : BitVec 12) : List Nat := (List.range 12).filter (fun i => m.toNat / 2 ^ i % 2 = 1)

/-- FWAIT (R115): it stalls until the named flags of every executing fibre are clear; finding them clear is an acquire
(R235). -/
def meanFwait (m : BitVec 12) : Meaning where
  perform x s :=
    if x.lanes.all (fun l => (flagsOf m).all (fun i => l.f.flag i = 0)) then
      some (if m = 0 then s else s.dropL1 (coreOf x.w.wid))
    else none

/-- FWAIT (R115). -/
def execFwait (g : Guard) (m : BitVec 12) (s : State) : Host.Outcome State Fault Refusal :=
  s.issue (.fwait g m) (meanFwait m)

/-- The comparator that TMSET sets (R119). -/
def timerAt (cyc : DWord) (delta : Word) : Word :=
  let t := cyc.setWidth 32 + delta
  if delta = 0 then 0 else if t = 0 then 1 else t

/-- TMSET (R118, R119). -/
def meanTmset (a : Src) : Meaning where
  perform x s := x.top.map (fun l =>
    s.onWarp x.w.wid (fun w => { w with tmcmp := timerAt (s.cyc w) (l.opt a 0) }))

/-- TMSET (R118, R119). -/
def execTmset (g : Guard) (a : Src) (s : State) : Host.Outcome State Fault Refusal := s.issue (.tmset g a) (meanTmset a)

/-- The phase limit of a count and a margin (R121). -/
def phaseLimit (count margin : Word) : Word := BitVec.ofNat 32 (min (count.toNat + margin.toNat) 0xFFFFFFFF)

/-- PHASE (R118, R121). -/
def meanPhase (a : Src) : Meaning where
  perform x s := x.top.map (fun l =>
    s.onWarp x.w.wid (fun w =>
      { w with phlim := phaseLimit (l.opt a 0) (l.s (afterOpt a 0)), phHeld := 0, phFrom := s.clock }))

/-- PHASE (R118, R121). -/
def execPhase (g : Guard) (a : Src) (b : Reg) (s : State) : Host.Outcome State Fault Refusal :=
  s.issue (.phase g a b) (meanPhase a)

/-! ## Special registers (R67, R124) -/

/-- How a special register may be accessed. -/
inductive SrAccess where
  | ro | rw | w1c | handler
  deriving DecidableEq, Repr

/-- The access of an index; none where it is not listed (R67). -/
def srAccess (i : Nat) : Option SrAccess :=
  if i ≤ 0x0C then some .ro
  else if 0x10 ≤ i && i ≤ 0x14 then some .handler
  else if i = 0x18 then some .w1c
  else if 0x19 ≤ i && i ≤ 0x1C then some .rw
  else if i = 0x22 then some .rw
  else if 0x20 ≤ i && i ≤ 0x24 then some .ro
  else if 0x28 ≤ i && i ≤ 0x2D then some .rw
  else if 0x30 ≤ i && i ≤ 0x34 then some .ro
  else none

/-- Whether an access code lets SWRITE write (R67). -/
def SrAccess.writable (a : SrAccess) (w : Warp) : Bool :=
  match a with
  | .ro => false
  | .rw | .w1c => true
  | .handler => w.handler.isSome

/-- The indices at which SREAD and SWRITE may transfer 64 bits (R124). -/
def srPairs (write : Bool) : List Nat := if write then [0x10, 0x28, 0x2A, 0x2C] else [0x0A, 0x10, 0x20, 0x28, 0x2A, 0x2C]

/-- The code of a role (R44). -/
def Role.code : Role → Nat
  | .general => 0 | .copy => 1 | .matrix => 2 | .vector => 3

/-- A special register as a fibre reads it (R67). -/
def State.special (s : State) (w : Warp) (g : Group) (f : Fibre) (i : Nat) : Word :=
  match i with
  | 0x00 => BitVec.ofNat 32 (w.vlane f.lane)
  | 0x01 => BitVec.ofNat 32 f.id
  | 0x02 => BitVec.ofNat 32 g.index
  | 0x03 => BitVec.ofNat 32 g.ngroup
  | 0x04 => BitVec.ofNat 32 g.size
  | 0x05 => BitVec.ofNat 32 w.idx
  | 0x06 => BitVec.ofNat 32 (coreOf w.wid)
  | 0x07 => BitVec.ofNat 32 (dieOf (coreOf w.wid))
  | 0x08 => BitVec.ofNat 32 (quadOf w.wid)
  | 0x09 => BitVec.ofNat 32 w.role.code
  | 0x0A => g.node.setWidth 32
  | 0x0B => (g.node >>> 32).setWidth 32
  | 0x0C => BitVec.ofNat 32 g.depth
  | 0x10 => w.spill.setWidth 32
  | 0x11 => (w.spill >>> 32).setWidth 32
  | 0x12 => w.spillsz
  | 0x13 => f.ksp
  | 0x14 => f.depth
  | 0x18 => w.fpst.setWidth 32
  | 0x19 => BitVec.ofNat 32 w.fair
  | 0x1A => w.mode.setWidth 32
  | 0x1B => f.mcls.setWidth 32
  | 0x1C => f.mdl.setWidth 32
  | 0x20 => (s.cyc w).setWidth 32
  | 0x21 => (s.cyc w >>> 32).setWidth 32
  | 0x22 => w.tmcmp
  | 0x23 => s.phcnt w
  | 0x24 => w.phlim
  | 0x28 => f.rngKey.setWidth 32
  | 0x29 => (f.rngKey >>> 32).setWidth 32
  | 0x2A => (f.rngKey >>> 64).setWidth 32
  | 0x2B => (f.rngKey >>> 96).setWidth 32
  | 0x2C => f.rngCtr.setWidth 32
  | 0x2D => (f.rngCtr >>> 32).setWidth 32
  | 0x30 => (s.core (coreOf w.wid)).fragw
  | 0x31 => (s.core (coreOf w.wid)).mdmiss0
  | 0x32 => (s.core (coreOf w.wid)).mdmiss1
  | 0x33 => (s.core (coreOf w.wid)).mdmiss2
  | 0x34 => (s.core (coreOf w.wid)).mdmiss3
  | _ => 0

/-- A word of a wider value replaced: word `k` from the low end. -/
def setWordOf {n : Nat} (v : BitVec n) (k : Nat) (w : Word) : BitVec n :=
  BitVec.ofNat n (v.toNat - v.toNat / 2 ^ (32 * k) % 2 ^ 32 * 2 ^ (32 * k) + w.toNat * 2 ^ (32 * k))

/-- `%fair` as SWRITE leaves it (R34). -/
def fairOf (v : Word) : Nat := if v.toNat = 0 then 1 else min v.toNat 64

/-- A warp-scope special register written (R67). -/
def Warp.setSpecial (w : Warp) (i : Nat) (v : Word) : Warp :=
  match i with
  | 0x10 => { w with spill := setWordOf w.spill 0 v }
  | 0x11 => { w with spill := setWordOf w.spill 1 (v &&& 0xFFFFF) }
  | 0x12 => { w with spillsz := v }
  | 0x18 => { w with fpst := w.fpst &&& ~~~(v.setWidth 5) }
  | 0x19 => { w with fair := fairOf v }
  | 0x1A => { w with modeNext := v.setWidth 2 }
  | 0x22 => { w with tmcmp := v }
  | _ => w

/-- A fibre-scope special register written (R67). -/
def Fibre.setSpecial (f : Fibre) (i : Nat) (v : Word) : Fibre :=
  match i with
  | 0x13 => { f with ksp := v }
  | 0x14 => { f with depth := v }
  | 0x1B => { f with mcls := v.setWidth 2 }
  | 0x1C => { f with mdl := v.setWidth 12 }
  | 0x28 => { f with rngKey := setWordOf f.rngKey 0 v }
  | 0x29 => { f with rngKey := setWordOf f.rngKey 1 v }
  | 0x2A => { f with rngKey := setWordOf f.rngKey 2 v }
  | 0x2B => { f with rngKey := setWordOf f.rngKey 3 v }
  | 0x2C => { f with rngCtr := setWordOf f.rngCtr 0 v }
  | 0x2D => { f with rngCtr := setWordOf f.rngCtr 1 v }
  | _ => f

/-- Whether SREAD or SWRITE of an index is legal (R124). -/
def srLegal (write w64 : Bool) (i : Nat) (w : Warp) : Bool :=
  match srAccess i with
  | none => false
  | some a => (!write || a.writable w) && (!w64 || (srPairs write).contains i)

/-- SREAD (R67, R124). -/
def meanSread (idx : BitVec 8) (w64 : Bool) : Meaning where
  static w _ _ := if srLegal false w64 idx.toNat w then none else some (illegalOperand)
  perform x s := some (x.lanes.foldl (fun (s : State) l =>
    let v (k : Nat) := s.special x.w x.g l.f (idx.toNat + k)
    s.landLane x l { dst := if w64 then [v 0, v 1] else [v 0] }) s)

/-- SREAD (R67, R124). -/
def execSread (g : Guard) (d : Reg) (idx : BitVec 8) (w64 : Bool) (s : State) : Host.Outcome State Fault Refusal :=
  s.issue (.sread g d idx w64) (meanSread idx w64)

/-- One word written to a special register by a bundle: a fibre's own for each, a warp's by the highest virtual lane. -/
def Exec.setSpecials (x : Exec) (s : State) (i k : Nat) : State :=
  let s1 := x.each s (fun l f => f.setSpecial i (l.s k))
  match x.top with
  | some l => s1.onWarp x.w.wid (fun w => w.setSpecial i (l.s k))
  | none => s1

/-- Whether an instruction takes draws (R80). -/
def drawsOf (i : Instr) : Bool :=
  match i with
  | .fadd _ _ _ _ .sr _ _ _ | .fsub _ _ _ _ .sr _ _ _ | .fmul _ _ _ _ .sr _ _ _ | .ffma _ _ _ _ _ .sr _ _ _
  | .hadd2 _ _ _ _ .sr _ _ | .hmul2 _ _ _ _ .sr _ _ | .hfma2 _ _ _ _ _ .sr _ _ | .f2i _ _ _ .sr _ _ | .i2f _ _ _ .sr _ _
  | .cvp _ _ _ _ .sr _ | .dot4 _ _ _ _ _ (.flt _ _ .sr) | .dot8 _ _ _ _ _ (.flt .sr) | .scale _ _ _ _ .sr _ _
  | .rand .. => true
  | _ => false

/-- Whether a fibre has a queued entry that will take draws. -/
def Warp.drawsOwed (w : Warp) (f : Fibre) : Bool :=
  w.queue.any (fun e => e.left.contains f.lane && drawsOf e.instr
    && !(w.handler.any (fun h => h.stopReplays) && w.trapped f.lane (some e.order)))

/-- SWRITE (R6, R67, R118, R124): a write to the key or the counter waits for the draws of the entries before it in program
order (R80, R171). -/
def meanSwrite (idx : BitVec 8) (w64 : Bool) : Meaning where
  static w _ _ := if srLegal true w64 idx.toNat w then none else some (illegalOperand)
  perform x s :=
    if 0x28 ≤ idx.toNat && x.lanes.any (fun l => x.w.drawsOwed l.f) then none
    else
      let s1 := x.setSpecials s idx.toNat 0
      some (if w64 then x.setSpecials s1 (idx.toNat + 1) 1 else s1)

/-- SWRITE (R6, R67, R118, R124). -/
def execSwrite (g : Guard) (a : Reg) (idx : BitVec 8) (w64 : Bool) (s : State) : Host.Outcome State Fault Refusal :=
  s.issue (.swrite g a idx w64) (meanSwrite idx w64)

/-! ## Rejoin instructions (R38, R112) -/

/-- RJEN (R38). -/
def meanRjen (jm : Fin 8) : Meaning where
  perform x s := some (s.onWarp x.w.wid (fun w => x.lanes.foldl (fun w l => w.enrol jm.val l.f.lane) w))

/-- RJEN (R38). -/
def execRjen (g : Guard) (jm : Fin 8) (s : State) : Host.Outcome State Fault Refusal := s.issue (.rjen g jm) (meanRjen jm)

/-- RJWAIT (R38, R112): enrolled fibres arrive and park, the others go on. -/
def meanRjwait (jm : Fin 8) : Meaning where
  perform x s :=
    let m := x.w.jm jm.val
    let inn := x.lanes.filter (fun l => m.enr.contains l.f.lane)
    let s1 := inn.foldl (fun s l => x.park s l (.rejoin jm.val)) s
    some (s1.onWarp x.w.wid (fun w => (inn.foldl (fun w l => w.arriveJm jm.val l.f.lane) w).rejoin jm.val))

/-- RJWAIT (R38, R112). -/
def execRjwait (g : Guard) (jm : Fin 8) (s : State) : Host.Outcome State Fault Refusal :=
  s.issue (.rjwait g jm) (meanRjwait jm)

/-- RJSTRIKE (R38). -/
def meanRjstrike (jm : Fin 8) : Meaning where
  perform x s := some (s.onWarp x.w.wid (fun w => (x.lanes.foldl (fun w l => w.strike jm.val l.f.lane) w).rejoin jm.val))

/-- RJSTRIKE (R38). -/
def execRjstrike (g : Guard) (jm : Fin 8) (s : State) : Host.Outcome State Fault Refusal :=
  s.issue (.rjstrike g jm) (meanRjstrike jm)

/-! ## Barrier instructions (R113, R114) -/

/-- BARA (R105, R113, R114): it waits until every access of its fibres before it has been performed. -/
def meanBara (b : Fin 16) : Meaning where
  perform x s :=
    if x.lanes.any (fun l => !s.allPerformed x.w l.f) then none else some (x.barArrivals s b.val)

/-- BARA (R105, R113, R114). -/
def execBara (g : Guard) (cnt : Reg) (b : Fin 16) (s : State) : Host.Outcome State Fault Refusal :=
  s.issue (.bara g cnt b) (meanBara b)

/-- BARW (R113, R114). -/
def meanBarw (b : Fin 16) : Meaning where
  perform x s := some (x.barWaits s b.val)

/-- BARW (R113, R114). -/
def execBarw (g : Guard) (b : Fin 16) (s : State) : Host.Outcome State Fault Refusal := s.issue (.barw g b) (meanBarw b)

/-- BARS (R105, R113, R114). -/
def meanBars (b : Fin 16) : Meaning where
  perform x s :=
    if x.lanes.any (fun l => !s.allPerformed x.w l.f) then none
    else some (x.barWaits (x.barArrivals s b.val) b.val)

/-- BARS (R105, R113, R114). -/
def execBars (g : Guard) (cnt : Reg) (b : Fin 16) (s : State) : Host.Outcome State Fault Refusal :=
  s.issue (.bars g cnt b) (meanBars b)

/-! ## TRAP and the handler's instructions -/

/-- TRAP (R123): its clause ends, and the executing fibres raise the user trap. -/
def meanTrap (imm : BitVec 10) : Meaning where
  perform x s :=
    (s.onWarp x.w.wid Warp.advance).takeTrap x.w.wid
      { cause := { cls := 8, detail := imm.toNat }, mask := x.lanes.map (fun l => l.f.lane), hdr := x.pos.hdr,
        idx := x.pos.idx, words := x.words }

/-- TRAP (R123). -/
def execTrap (g : Guard) (imm : BitVec 10) (s : State) : Host.Outcome State Fault Refusal :=
  s.issue (.trap g imm) (meanTrap imm)

/-- An illegal operand of an instruction that only handler mode permits (R365). -/
def onlyInHandler (w : Warp) : Option Cause := if w.handler.isSome then none else some (illegalOperand)

/-- Whether an access that a handler's fibre has made is still queued, or in flight and one of those that `p` takes. -/
def State.handlerOwes (s : State) (w : Warp) (f : Fibre) (p : Op → Bool) : Bool :=
  w.queue.any (fun e => e.left.contains f.lane && e.instr.isFibreAccess && !w.trapped f.lane (some e.order))
    || (s.opsOf w.gid f.id).any (fun o => p o && !w.trapped f.lane (some o.order))

/-- TRET (R122, R365, R366): it waits until the handler's earlier accesses, queued ones among them, have been performed. -/
def meanTret : Meaning where
  static w _ _ := onlyInHandler w
  perform x s :=
    if x.lanes.any (fun l => s.handlerOwes x.w l.f Op.isAccess) then none
    else some ((s.onWarp x.w.wid Warp.advance).trapReturn x.w.wid)

/-- TRET (R122, R365, R366). -/
def execTret (g : Guard) (s : State) : Host.Outcome State Fault Refusal := s.issue (.tret g) meanTret

/-- Whether TMASK's operand is legal (R367). -/
def tmaskLegal (op : TmaskOp) (l : LaneIn) : Bool :=
  match op with
  | .vec _ => l.header.toNat % 8 = 0
  | .en _ => l.s 0 &&& ~~~0x7FE#32 = 0
  | .hold | .release => true

/-- TMASK's effect on the warp (R364, R367). -/
def Warp.tmask (w : Warp) (op : TmaskOp) (l : LaneIn) : Warp :=
  match op with
  | .vec _ => { w with vec := l.header }
  | .en _ => { w with enMask := (l.s 0 >>> 1).setWidth 10 }
  | .hold => if w.handler.isSome then w else { w with holdTraps := true }
  | .release => if w.handler.isSome then w else { w with holdTraps := false }

/-- TMASK (R118, R364, R367): the operand of the highest virtual lane is the one that counts, and the one that must be
legal. -/
def meanTmask (op : TmaskOp) : Meaning where
  check _ x l := if tmaskLegal op l || x.top.any (fun t => t.f.lane ≠ l.f.lane) then none else some (illegalOperand)
  perform x s := x.top.map (fun l => s.onWarp x.w.wid (fun w => w.tmask op l))

/-- TMASK (R118, R364, R367). -/
def execTmask (g : Guard) (op : TmaskOp) (s : State) : Host.Outcome State Fault Refusal :=
  s.issue (.tmask g op) (meanTmask op)

/-- Whether an operation is a store or an atomic, which a later load of its fibre follows (R233). -/
def Op.stores (o : Op) : Bool :=
  match o.kind with
  | .store .. | .atomic .. => true
  | _ => false

/-- RINJ (R365, R368): the index is that of the lowest virtual lane. `.load` reads the frame as loads of that fibre, after the
stores that it has made before (R233). -/
def meanRinj (load : Bool) : Meaning where
  static w _ _ := onlyInHandler w
  perform x s :=
    if load && x.bottom.any (fun l => s.handlerOwes x.w l.f Op.stores) then none
    else x.bottom.map (fun l => s.reinject x.w.wid (l.s 0).toNat load)

/-- RINJ (R365, R368). -/
def execRinj (g : Guard) (a : Reg) (load : Bool) (s : State) : Host.Outcome State Fault Refusal :=
  s.issue (.rinj g a load) (meanRinj load)

/-! ## Undefined instructions (R95, R100) -/

/-- The detail of the undefined-instruction trap (R355): the major opcode, or the short opcode with the top bit set. -/
def undefinedDetail (w0 : Word) : Nat :=
  if w0.toNat % 4 = 0 then w0.toNat / 4 % 64 + 2 ^ 15 else w0.toNat / 256 % 256

/-- An instruction position that holds no instruction: the undefined-instruction trap, whatever the guard (R95, R100). -/
def meanUndefinedInstruction (w0 : Word) : Meaning where
  static _ _ _ := some { cls := 1, detail := undefinedDetail w0 }
  perform _ s := some s

/-- An instruction position that holds no instruction (R95, R100). -/
def execUndefinedInstruction (w0 w1 w2 : Word) (s : State) : Host.Outcome State Fault Refusal :=
  s.issue (.undefinedInstruction w0 w1 w2) (meanUndefinedInstruction w0)

/-! ## REGROUP (R40 to R43, R184) -/

/-- Whether a warp's fibres take part in its group's collective on a core (R184). -/
def Warp.regroups (w : Warp) (gid core : Nat) : Bool := w.gid = gid && coreOf w.wid = core && w.role != .copy

/-- The place at which a collective gathers, if any fibre has arrived. -/
def State.gathering (s : State) (gid core : Nat) : Option Pos :=
  (s.warps.filter (fun w => w.regroups gid core)).findSome? (fun w => w.fibres.findSome? (fun f =>
    match f.park with
    | some { wait := .regroup _, at_ := p } => some p
    | _ => none))

/-- Whether an arrival at a place keeps the conditions of R40. -/
def State.regroupOk (s : State) (x : Exec) (f : Fibre) : Bool :=
  (match s.gathering x.w.gid (coreOf x.w.wid) with
    | some p => p.hdr = x.pos.hdr && p.idx = x.pos.idx
    | none => true)
  && f.depth = 0
  && x.w.jms.isEmpty
  && !x.w.residual f
  && !x.g.signed f

/-- Whether a REGROUP waits before its fibres count as arrived: in deferring mode for their residual entries, and always for
operations in flight that are to issue again (R137, R184, R376). -/
def Exec.regroupWaits (x : Exec) : Bool :=
  x.lanes.any (fun l => !x.w.drained l.f && (x.w.active.any x.w.deferring || !x.w.residual l.f))

/-- REGROUP (R40, R137, R184): a fibre arrives once its residual entries have replayed, and parks; outside deferring mode
entries that are left break the precondition. -/
def meanRegroup : Meaning where
  check s x l := if x.regroupWaits || s.regroupOk x l.f then none else some { cls := 7 }
  perform x s :=
    if x.regroupWaits then none
    else
      let core := coreOf x.w.wid
      let s1 := x.lanes.foldl (fun s l => x.park s l (.regroup (l.s 0))) s
      some (s1.onGroup x.w.gid (fun g =>
        { g with regroups := (core, x.pos, s.clock) :: g.regroups.filter (fun r => r.1 ≠ core) }))

/-- REGROUP (R40, R137, R184). -/
def execRegroup (g : Guard) (a : Reg) (s : State) : Host.Outcome State Fault Refusal := s.issue (.regroup g a) meanRegroup

end Sys2Proof.Machine
end

