-- ==== Sys2Proof/Machine/Schedule.lean ====
section
/-! DEFINITION. Bundles and who holds a warp (R30 to R37), the start of a clause with the checks of R99 and R108, and the
steps CLAUSE_START, WARP_STARVATION_PRIORITY, WINDOW_OVERFLOW_TRAP, WINDOW_UNDERFLOW_TRAP and TRAP_ENTRY. -/

namespace Sys2Proof.Machine

open Sys2Proof

/-! ## A clause as it stands in memory -/

/-- The major opcodes that are assigned (R96). -/
def assignedMajor (op : Nat) : Bool :=
  op ≤ 0x1C || (0x20 ≤ op && op ≤ 0x35) || (0x40 ≤ op && op ≤ 0x4A) || (0x50 ≤ op && op ≤ 0x67)
    || (0x80 ≤ op && op ≤ 0x8A) || (0x90 ≤ op && op ≤ 0x96) || (0xA0 ≤ op && op ≤ 0xA7) || (0xB0 ≤ op && op ≤ 0xB4)
    || (0xB8 ≤ op && op ≤ 0xBC) || (0xC0 ≤ op && op ≤ 0xC4)

/-- The short opcodes that are assigned (R97). -/
def assignedShort (op : Nat) : Bool :=
  op ≤ 0x02 || (0x04 ≤ op && op ≤ 0x0E) || (0x10 ≤ op && op ≤ 0x15) || (0x18 ≤ op && op ≤ 0x1E)
    || (0x28 ≤ op && op ≤ 0x2B)

/-- The family of a short opcode (R83). -/
def shortFamily (op : Nat) : Family :=
  if op = 0 then .control else if op ≤ 0x17 then .integer else if op ≤ 0x1E then .float else .memory

/-- The family of the instruction whose first word is `w`, if its opcode is assigned (R83, R99). -/
def wordFamily (w : Word) : Option Family :=
  if w.toNat % 4 = 0 then
    let op := w.toNat / 4 % 64
    if assignedShort op then some (shortFamily op) else none
  else
    let op := w.toNat / 256 % 256
    if assignedMajor op then family op else none

/-- Whether the instruction whose first word is `w` ends a clause (R84). -/
def wordEnds (w : Word) : Bool := w.toNat % 4 ≠ 0 && assignedMajor (w.toNat / 256 % 256) && endsClause (w.toNat / 256 % 256)

/-- The first words of `n` instruction positions; none where the words end before them (R99). -/
def firstWords : Nat → List Word → Option (List Word × List Word)
  | 0, ws => some ([], ws)
  | n + 1, ws =>
    match ws with
    | [] => none
    | w :: _ =>
      let k := (wordCount w).getD 1
      if ws.length < k then none
      else (firstWords n (ws.drop k)).map (fun r => (w :: r.1, r.2))

/-- The sub-code for which a header alone is malformed (R82, R99); `none` where its instructions must be looked at. -/
def headerFault (hdr : VAddr) (h : DWord) : Option Nat :=
  if hdr.toNat % 8 ≠ 0 || bitsOf h 0 2 ≠ 1 then some 1
  else if 6 ≤ bitsOf h 2 3 then some 2
  else if [12, 13, 14].contains (bitsOf h 21 4) || [12, 13, 14].contains (bitsOf h 25 4) then some 3
  else if bitsOf h 38 26 ≠ 0 then some 4
  else if bitsOf h 32 6 < 3 || 50 < bitsOf h 32 6 then some 5
  else none

/-- The sub-code for which the instructions of a clause are malformed (R99). -/
def bodyFault (h : DWord) (ws : List Word) : Option Nat :=
  match firstWords (bitsOf h 5 4 + 1) ws with
  | none => some 5
  | some (fs, rest) =>
    if !rest.isEmpty then some 5
    else if fs.any (fun w => w.toNat % 4 = 1) then some 6
    else if fs.dropLast.any wordEnds then some 7
    else if fs.any (fun w => match wordFamily w with
        | some f => !classAdmits (bitsOf h 2 3) f
        | none => false) then some 8
    else none

/-- The instructions of a clause. -/
def clauseInstrs : Nat → List Word → List Instr
  | 0, _ => []
  | n + 1, ws =>
    match decodeWordList ws with
    | .ok (i, rest) => i :: clauseInstrs n rest
    | .error _ => []

/-- The words before instruction `i` of a clause. -/
def wordsBefore : Nat → List Word → Nat
  | 0, _ => 0
  | n + 1, ws =>
    let k := (wordCount (ws.headD 0)).getD 1
    k + wordsBefore n (ws.drop k)

/-! ## Fetching code (R85, R101) -/

/-- Lines that the instruction cache of a core holds (R20): 64 KiB. -/
def icacheLines : Nat := 1024

/-- The bytes of a line of code as memory held them at a moment, if its page was mapped then. -/
def State.imageLine (s : State) (cn : Nat) (m : MemImage) (line : Nat) : Option (List Byte) :=
  let old := { s with mem := m.mem, unitKey := m.unitKey, scrambled := m.scrambled }
  (old.walkerByte? cn (64 * line)).map (fun p => (old.readBytes p.2 p.1 64).1)

/-- A line of code put into a core's instruction cache, in place of the oldest line where it is full (log 6). -/
def State.keepLine (s : State) (l : ILine) : State :=
  let same (x : ILine) : Bool := x.core = l.core && x.ctx = l.ctx && x.node = l.node && x.addr = l.addr
  let rest := s.icache.filter (fun x => !same x)
  let mine := rest.filter (fun x => x.core = l.core)
  { s with icache := l :: (if mine.length < icacheLines then rest else rest.erase (mine.getLastD l)) }

/-- One aligned line of code as a core of a node fetches it (R101): as it stood when the node was released, unless it has been
written since the node started; then as it stood then, as the core's cache has kept it, or as it stands, which the spec
leaves open (log 21). A clause that has fetched the line already (`kept`) goes on with what it fetched. -/
def State.fetchLine (s : State) (w : Warp) (g : Group) (line : Nat) (now : List Byte) (kept : Bool) : List Byte × State :=
  let core := coreOf w.wid
  let held := (s.icache.find? (fun x => x.core = core && x.ctx = g.ctx && x.node = g.node && x.addr = line)).map ILine.bytes
  match (s.node? g.ctx g.node).bind (fun n => n.codeRel.bind (fun r => n.codeRun.map (fun t => (r, t)))) with
  | none => (now, s)
  | some (r, t) =>
    let keep (bs : List Byte) (s : State) : List Byte × State :=
      (bs, s.keepLine { core := core, ctx := g.ctx, node := g.node, addr := line, bytes := bs })
    match kept, held, s.imageLine g.ctx r line with
    | true, some bs, _ => (bs, s)
    | _, _, none => keep now s
    | _, _, some old =>
      let new := if s.imageLine g.ctx t line = some now then [] else [now]
      match (held.toList ++ new).filter (fun bs => bs ≠ old) with
      | [] => keep old s
      | bs =>
        let (k, s1) := s.freeWord
        keep ((old :: bs).getD (k.toNat % (bs.length + 1)) old) s1

/-- Lines of code from `line` on, `n` of them, given as they stand in memory. -/
def State.fetchLines (s : State) (w : Warp) (g : Group) (kept : Option Nat) : Nat → List (List Byte) → List Byte × State
  | _, [] => ([], s)
  | line, now :: rest =>
    let (bs, s1) := s.fetchLine w g line now (kept = some line)
    let (more, s2) := s1.fetchLines w g kept (line + 1) rest
    (bs ++ more, s2)

/-- `n` bytes of code fetched at an address (R85, R101), of which the clause has already fetched a line: the bytes, or the
address, cause and level of a fault. -/
def State.fetchBytes (s : State) (w : Warp) (g : Group) (va n : Nat) (kept : Option Nat) :
    Except (Nat × Nat × Nat) (List Byte) × State :=
  let ag : Agent := { ctx := g.ctx, node := g.node, core := coreOf w.wid, places := corePlaces (coreOf w.wid),
                      place := placeOf w.wid, engine := false, deferred := false }
  match s.pinAll ag .fetch false ((pieces va n).map Prod.fst) with
  | (.error e, s1) => (.error e, s1)
  | (.ok pins, s1) =>
    match s1.poisonAt pins (rangeOf va n) with
    | some a => (.error (a, 7, 3), s1)
    | none =>
      if (s1.node? g.ctx g.node).any (fun n => n.codeRel.isSome && n.codeRun.isSome) then
        let lo := va / 64
        let count := (va + n + 63) / 64 - lo
        let (bs, s2) := s1.readPinned pins (rangeOf (64 * lo) (64 * count))
        let (code, s3) := s2.fetchLines w g kept lo ((List.range count).map (fun i => (bs.drop (64 * i)).take 64))
        (.ok ((code.drop (va - 64 * lo)).take n), s3)
      else
        let (bs, s2) := s1.readPinned pins (rangeOf va n)
        (.ok bs, s2)

/-- A clause header as the warp would fetch it now, if it can. -/
def State.peekHeader (s : State) (w : Warp) (g : Group) (hdr : VAddr) : Option DWord :=
  match (s.fetchBytes w g hdr.toNat 8 none).1 with
  | .ok bs => some (BitVec.ofNat 64 (natOf bs))
  | .error _ => none

/-! ## Bundles (R30) -/

/-- Whether a fibre may run: it is not parked, no access of its bundle waits for service, and in a handler it is one that
entered it. A fibre at a YIELD with a pre-emption request pending may go on at any time (R37, R117), and one parked before an
instruction once that may issue or be deferred (R139). -/
def State.runnable (s : State) (w : Warp) (f : Fibre) : Bool :=
  (match f.park with
    | none => true
    | some p => p.wait == .yielding || (match p.wait, s.group? w.gid with
        | .stalled .., some g => !s.stillStalled w g f
        | _, _ => false))
  && !s.serviceParked w f
  && (match w.handler with
    | none => true
    | some h => h.lanes.contains f.lane || !h.live.any (fun l => l.1 = f.lane))

/-- Whether two fibres of a warp belong to one bundle (R30, R358). -/
def Warp.together (w : Warp) (a b : Fibre) : Bool := a.pos = b.pos && (w.handler.isSome || a.b = b.b)

/-- The bundles of a list of fibres. -/
def Warp.partition (w : Warp) : List Fibre → List (List Fibre)
  | [] => []
  | f :: fs =>
    let bs := w.partition fs
    if bs.any (fun b => b.any (w.together f)) then
      bs.map (fun b => if b.any (w.together f) then f :: b else b)
    else [f] :: bs

/-- The wait mask's flags of a header. -/
def waitFlags (h : DWord) : List Nat := (List.range 12).filter (fun i => bitsOf h (9 + i) 1 = 1)

/-- Whether the wait mask of a clause is honoured (R86, R89, R140). -/
def Warp.honours (w : Warp) (h : DWord) : Bool := w.modeNext.toNat % 2 = 0 || bitsOf h 30 1 = 1

/-- Whether the clause at which a bundle stands may start (R86): its flags are clear; a place in mid-clause and a clause
that cannot be read need no test. Whether a clause whose header is malformed (R99) first waits on the flags that its wait
mask names the spec does not say: the model tests those bits as they stand, whatever the rest of the header (log 81). -/
def State.mayStart (s : State) (w : Warp) (g : Group) (b : List Fibre) : Bool :=
  match b with
  | [] => false
  | f :: _ =>
    if f.pos.mid || f.pos.hdr.toNat % 8 ≠ 0 then true
    else match s.peekHeader w g f.pos.hdr with
      | none => true
      | some h => !w.honours h || b.all (fun f => (waitFlags h).all (fun i => f.flag i = 0))

/-- The ready bundles of a warp that stands at a clause boundary (R30). -/
def State.readyBundles (s : State) (w : Warp) : List (List Fibre) :=
  match s.group? w.gid with
  | none => []
  | some g =>
    let live := w.fibres.filter (fun f => s.runnable w f && !(w.active.any (fun a => a.lanes.contains f.lane)))
    (w.partition live).filter (s.mayStart w g)

/-- The moment from which a bundle has waited (R31). -/
def bundleSince (b : List Fibre) : Nat := (b.map Fibre.waitFrom).foldl max 0

/-- The lowest virtual lane of a bundle. -/
def Warp.lowest (w : Warp) (b : List Fibre) : Nat := (b.map (fun f => w.vlane f.lane)).foldl min 32

/-- The longest-waiting of some bundles (R31). -/
def Warp.longest (w : Warp) : List (List Fibre) → Option (List Fibre)
  | [] => none
  | b :: bs =>
    match w.longest bs with
    | none => some b
    | some c =>
      if bundleSince b < bundleSince c || (bundleSince b = bundleSince c && w.lowest b < w.lowest c) then some b else some c

/-- Whether a bundle takes in all that is left of the holder. -/
def Warp.holds (w : Warp) (b : List Fibre) : Bool :=
  match w.holder with
  | none => false
  | some h => h.any (fun l => (w.fibre? l).isSome)
      && h.all (fun l => (w.fibre? l).isNone || b.any (fun f => f.lane = l))

/-- The bundle that takes the warp, or keeps it, at a clause boundary (R31). -/
def State.nextBundle (s : State) (w : Warp) : Option (List Fibre) :=
  let bs := s.readyBundles w
  match bs.find? w.holds with
  | some b => some b
  | none => w.longest bs

/-- The clocks after which the fairness switch takes effect (R34, R35). -/
def Warp.fairLimit (w : Warp) (exempt : Bool) : Nat := 64 * w.fair + (if exempt then 64 else 0)

/-- The ready bundles of a warp other than its holder. -/
def State.others (s : State) (w : Warp) : List (List Fibre) :=
  (s.readyBundles w).filter (fun b => !b.any (fun f => w.holder.any (fun h => h.contains f.lane)))

/-- Whether a fairness switch is due at a clause boundary (R34, R35, R88). Whether the delay that R35 gives an exempt clause
puts off the offer of a yield as well the spec does not say: the model switches at once (log 82). -/
def State.switchDue (s : State) (w : Warp) : Bool :=
  w.active.isNone && !(s.others w).isEmpty
    && (s.readyBundles w).any (fun b => b.any (fun f => w.holder.any (fun h => h.contains f.lane)))
    && (w.offered || w.heldFrom + w.fairLimit w.exempt ≤ s.clock)

/-! ## Timers (R119, R121, R364) -/

/-- Whether the user timer has been reached (R119). -/
def State.timerDue (s : State) (w : Warp) : Bool :=
  w.handler.isNone && !w.holdTraps && w.tmcmp ≠ 0 && (((s.cyc w).setWidth 32 - w.tmcmp : Word).toNat < 2 ^ 31)

/-- Whether the phase limit has been passed (R121). -/
def State.phaseDue (s : State) (w : Warp) : Bool :=
  w.handler.isNone && !w.holdTraps && w.phlim ≠ 0 && decide (w.phlim.toNat < (s.phcnt w).toNat)

/-- Whether a warp stands where a timer or phase trap may be taken with no clause running: some fibre is in no
park but a blocking point or a regroup collective (R122). -/
def State.atBoundary (s : State) (w : Warp) : Bool := w.active.isNone && w.fibres.any (fun f => !s.otherParked w f)

/-! ## Starting a clause -/

/-- The malformed-clause trap of a bundle (R99). -/
def State.malformed (s : State) (w : Warp) (lanes : List Nat) (hdr : VAddr) (sub : Nat) : State :=
  (s.takeTrap w.wid { cause := { cls := 2, sub := sub, addr := hdr.toNat }, mask := lanes, hdr := hdr, idx := 0 }).getD
    (s.advanceClock 1)

/-- The clock from which a bundle counts as holding a warp that it takes or keeps: the timer starts anew when another bundle
takes it, and does not count the clocks for which the bundle had given it up (R34). -/
def Warp.heldSince (w : Warp) (lanes : List Nat) (clock : Nat) : Nat :=
  match w.holder, w.last with
  | some h, _ => if lanes.any (fun l => h.contains l) then w.heldFrom else clock
  | none, some (h, n) => if lanes.any (fun l => h.contains l) then clock - n else clock
  | none, none => clock

/-- A bundle takes a warp, or keeps it (R34). -/
def Warp.take (w : Warp) (b : List Fibre) (clock : Nat) : Warp :=
  let lanes := w.byVlane (b.map Fibre.lane)
  { w with holder := some lanes, heldFrom := w.heldSince lanes clock, last := none, offered := false, passed := 0, prio := false,
           mode := w.modeNext }

/-- A clause begun for a bundle at an instruction of it: every fibre's next clause is the one that follows, until a transfer
says otherwise (R85). An index beyond the last instruction goes on at the following clause (R366). -/
def State.beginClause (s : State) (w : Warp) (b : List Fibre) (p : Pos) (h : DWord) (ws : List Word) (acquire : Bool) :
    State :=
  let lanes := w.byVlane (b.map Fibre.lane)
  let next : Pos := { hdr := clauseAfter p.hdr h }
  let s1 := s.onWarp w.wid (fun w =>
    let w1 := { w with fibres := w.fibres.map (fun f =>
      if lanes.contains f.lane then
        { f with pos := next, park := none,
                 barred := if w.handler.isSome then f.barred
                           else f.barred.filter (fun x => x.2.2.hdr = p.hdr && x.2.2.idx = p.idx) }
      else f) }
    if bitsOf h 5 4 < p.idx then w1
    else { w1 with active := some { lanes := lanes, hdr := p.hdr, header := h, words := ws, idx := p.idx,
                                    off := wordsBefore p.idx ws } })
  (if acquire then s1.dropL1 (coreOf w.wid) else s1).advanceClock 1

/-- The window effects of a bundle's clause, by fibre. -/
def clauseWindow (h : DWord) (ws : List Word) (f : Fibre) : List WinOp :=
  winOps f [] (clauseInstrs (bitsOf h 5 4 + 1) ws)

/-- A bundle's next clause started (R81 to R86, R99, R108): fetched, checked, and begun. -/
def State.startClause (s : State) (w : Warp) (g : Group) (b : List Fibre) : State :=
  match b with
  | [] => s
  | f :: _ =>
    let p := f.pos
    let lanes := w.byVlane (b.map Fibre.lane)
    if p.hdr.toNat % 8 ≠ 0 then s.malformed w lanes p.hdr 1
    else match s.fetchBytes w g p.hdr.toNat 8 none with
      | (.error (va, c, l), s1) => s1.fetchFault w g lanes va c l .fetch
      | (.ok hb, s1) =>
        let h : DWord := BitVec.ofNat 64 (natOf hb)
        match headerFault p.hdr h with
        | some sub => s1.malformed w lanes p.hdr sub
        | none =>
          match s1.fetchBytes w g (p.hdr.toNat + 8) (4 * (bitsOf h 32 6 - 2)) (some (p.hdr.toNat / 64)) with
          | (.error (va, c, l), s2) => s2.fetchFault w g lanes va c l .fetch
          | (.ok bs, s2) =>
            let ws := wordsOfBytes bs
            match bodyFault h ws with
            | some sub => s2.malformed w lanes p.hdr sub
            | none =>
              if !p.mid && w.handler.isNone && b.any (fun f => !f.allFit g (clauseWindow h ws f)) then
                (s2.windowOverflow w g b (clauseWindow h ws)).getD (s2.advanceClock 1)
              else s2.beginClause w b p h ws (!p.mid && w.honours h && !(waitFlags h).isEmpty)

/-- Whether a quadrant may start a clause of a warp now. -/
def State.startable (s : State) (w : Warp) : Bool :=
  w.active.isNone && w.replayTrap.isNone && !s.timerDue w && !s.phaseDue w && !s.switchDue w && (s.nextBundle w).isSome

/-- Whether a warp is older than another: placed earlier, and of those placed in one clock the one of the lower group index,
then of the lower warp index (R32). -/
def State.olderWarp (s : State) (a b : Warp) : Bool :=
  let index (w : Warp) : Nat := ((s.group? w.gid).map Group.index).getD 0
  a.age < b.age || (a.age = b.age && (index a < index b || (index a = index b
    && (a.gid < b.gid || (a.gid = b.gid && a.idx ≤ b.idx)))))

/-- The warp of some whose clause a quadrant starts: one passed over for 256 clocks first, then the oldest (R32). -/
def State.pickWarp (s : State) : List Warp → Option Warp
  | [] => none
  | w :: ws =>
    match s.pickWarp ws with
    | none => some w
    | some v =>
      let pw := w.prio || 256 ≤ w.passed
      let pv := v.prio || 256 ≤ v.passed
      if (pw && !pv) || (pw == pv && s.olderWarp w v) then some w else some v

/-- A clause of a warp started for the bundle that takes it. -/
def State.startWarp (s : State) (w : Warp) : State :=
  match s.nextBundle w, s.group? w.gid with
  | some b, some g =>
    let s1 := s.onWarp w.wid (fun w => w.take b s.clock)
    s1.startClause (w.take b s.clock) g b
  | _, _ => s

/-- CLAUSE_START (R86): a quadrant of a core starts a clause of one of its warps. -/
def execClauseStart (core quad : Nat) (s : State) : Host.Outcome State Fault Refusal :=
  let ws := s.warps.filter (fun w => coreOf w.wid = core && quadOf w.wid = quad && s.startable w)
  match s.pickWarp ws with
  | none => .next s
  | some w => .next (s.startWarp w)

/-- WARP_STARVATION_PRIORITY (R32): a warp whose startable clause was passed over for 256 clocks goes ahead of the others. -/
def execWarpStarvationPriority (wid : Nat) (s : State) : Host.Outcome State Fault Refusal :=
  .next (s.onWarp wid (fun w => if 256 ≤ w.passed then { w with prio := true } else w))

/-! ## Window traps and pending traps -/

/-- WINDOW_OVERFLOW_TRAP (R59, R108, R138): taken at the start of a clause whose window effects do not fit. -/
def execWindowOverflowTrap (wid : Nat) (s : State) : Host.Outcome State Fault Refusal :=
  .next (match s.warp? wid with
    | none => s
    | some w =>
      match s.startable w, s.nextBundle w, s.group? w.gid with
      | true, some (f :: b), some g =>
        match s.fetchBytes w g f.pos.hdr.toNat 8 none with
        | (.error _, _) => s
        | (.ok hb, s1) =>
          let h : DWord := BitVec.ofNat 64 (natOf hb)
          match headerFault f.pos.hdr h, s1.fetchBytes w g (f.pos.hdr.toNat + 8) (4 * (bitsOf h 32 6 - 2)) (some (f.pos.hdr.toNat / 64)) with
          | none, (.ok bs, s2) =>
            let ops := clauseWindow h (wordsOfBytes bs)
            if f.pos.mid || w.handler.isSome || (bodyFault h (wordsOfBytes bs)).isSome
                || (f :: b).all (fun f => f.allFit g (ops f)) then s
            else (s2.windowOverflow w g (f :: b) ops).getD s
          | _, _ => s
      | _, _, _ => s)

/-- The instruction at which a warp's running clause stands. -/
def Active.instr? (a : Active) : Option Instr :=
  match decodeWordList (a.words.drop a.off) with
  | .ok (i, _) => some i
  | .error _ => none

/-- WINDOW_UNDERFLOW_TRAP (R61): taken at a RET of a fibre whose link stack is empty with spill records left; the handler
fills and performs the RET. -/
def execWindowUnderflowTrap (wid : Nat) (s : State) : Host.Outcome State Fault Refusal :=
  .next (match s.warp? wid with
    | none => s
    | some w =>
      match w.active, s.group? w.gid with
      | some a, some g =>
        match a.instr? with
        | some (.ret gd) =>
          if (w.bundle a).any (fun f => f.guarded gd && f.links.isEmpty && f.depth ≠ 0) && w.handler.isNone then
            { s with cur := some wid }.issueAt w a g (.ret gd) meanRet
          else s
        | _ => s
      | _, _ => s)

/-- TRAP_ENTRY (R142, R357): the pending trap of a fault at replay, taken at the warp's issue point. -/
def execTrapEntry (wid : Nat) (s : State) : Host.Outcome State Fault Refusal :=
  .next (match s.warp? wid with
    | none => s
    | some w =>
      match w.replayTrap with
      | none => s
      | some r => (s.takeReplayTrap w r).getD s)

/-! ## Readiness from step to step (R31, R32) -/

/-- A holder that has parked, or waits at the start of a clause, gives the warp up (R31). -/
def Warp.settleHolder (w : Warp) (ready : List Nat) (clock : Nat) : Warp :=
  if w.active.isNone && w.holder.any (fun h => !h.any (fun l => ready.contains l)) then w.release clock else w

/-- One warp after `elapsed` clocks: who still holds it, since when each fibre has waited, and for how long a startable clause
has been passed over. An offer of the warp that found no other ready bundle has no effect (R88). -/
def State.settleWarp (s : State) (w0 : Warp) (elapsed : Nat) : Warp :=
  let ready := (s.readyBundles w0).flatMap (fun b => b.map Fibre.lane)
  let w := w0.settleHolder ready s.clock
  let held (f : Fibre) : Bool := w.active.any (fun a => a.lanes.contains f.lane) || w.holder.any (fun h => h.contains f.lane)
  let fs := w.fibres.map (fun f =>
    let r := ready.contains f.lane
    { f with wasReady := r && !held f, waitFrom := if held f || (r && !f.wasReady) then s.clock else f.waitFrom })
  { w with
    fibres := fs
    offered := w.offered && (w.active.isSome || !(s.others w).isEmpty)
    passed := if s.startable w then min 256 (w.passed + elapsed) else 0 }

/-! ## On which slots a node works (R393) -/

/-- The slot on which an operation makes its node work, if any: its core's copy engine, or as 512 + die the engine slot of the
die whose engines have taken it. -/
def Op.slot (o : Op) : Option Nat :=
  match o.kind with
  | .copy c => if o.stage = .done && !c.verify then none else some o.core
  | .sort .. | .attn .. => if o.stage = .started then some (512 + o.server) else none
  | .pfxfind .. => some (512 + o.server)
  | _ => none

/-- The slots on which a node works now. -/
def State.worksOn (s : State) (n : Node) : List Nat :=
  (s.groups.filter (fun (g : Group) => g.ctx = n.ctx && g.node = n.addr)).flatMap (fun (g : Group) => g.shares.map Share.core)
    ++ (s.ops.filter (fun o => o.ctx = n.ctx && o.node = n.addr)).filterMap Op.slot

/-- A node's work kept up: open on each slot where it works now, and ended elsewhere. -/
def State.settleNode (s : State) (n : Node) : Node :=
  let now := (s.worksOn n).eraseDups
  let kept := n.works.map (fun (w : Work) =>
    if now.contains w.slot then { w with last := none }
    else match w.last with
      | none => { w with last := some s.time }
      | some _ => w)
  { n with works := kept ++ (now.filter (fun k => !n.works.any (fun (w : Work) => w.slot = k))).map (fun k =>
      { slot := k, first := s.time, last := none }) }

/-- Whether an operation writes memory as its fibre: a store, an atomic, a rename, ACCST's stores or an `.amax` merge (R241,
R245, R281, R283). -/
def Op.writesAsFibre (o : Op) : Bool :=
  match o.kind with
  | .store .. | .atomic .. | .rename .. | .matrix (.accst ..) => true
  | .matrix (.accmv _ _ _ amax _ _) => amax.isSome
  | _ => false

/-- Whether the writes and renames of an operation's fibre before it have all been performed, so that the command is sent to
its engine (R241). -/
def State.sent (s : State) (o : Op) : Bool :=
  s.ops.all (fun a => !(a.id ≠ o.id && a.gid = o.gid && a.fid = o.fid && a.order < o.order && a.writesAsFibre))

/-- An operation whose request has joined the queue of a die's sort-count or attention engines (R296, R336). -/
def State.settleOp (s : State) (o : Op) : Op :=
  match o.kind with
  | .sort .. | .attn .. => if o.arrived.isNone && s.sent o then { o with arrived := some s.clock } else o
  | _ => o

/-- The bookkeeping after a step that began at clock `c0`. -/
def State.settle (s : State) (c0 : Nat) : State :=
  { s with warps := s.warps.map (fun w => s.settleWarp w (s.clock - c0)), nodes := s.nodes.map s.settleNode,
           ops := s.ops.map s.settleOp }

end Sys2Proof.Machine
end

