-- ==== Sys2Proof/Machine/Memory.lean ====
section
/-! DEFINITION. Loads, stores, atomics, reductions, fences, prefetches and WAITW (R116, R205 to R215), and their completion:
LOAD_RETURN, STORE_PERFORMED, ATOMIC_COMPLETE and WAITW_RECHECK. -/

namespace Sys2Proof.Machine

open Sys2Proof

/-! ## Operations in flight: shared operations -/

/-- Whether the accesses of an issue that must wait for service park their bundle: in waiting mode, and in a no-defer clause
(R89, R378). -/
def Exec.parksFaults (x : Exec) : Bool := x.entry.isNone && !(x.w.active.any (fun a => x.w.deferring a))

/-- The operation of one executing fibre (R87). -/
def Exec.op (x : Exec) (s : State) (id : Nat) (l : LaneIn) (sc : Scope) (kind : OpKind) : Op :=
  { id := id, issue := x.issue, entry := x.entry.map (fun _ => x.place), gid := x.w.gid, fid := l.f.id, wid := x.w.wid, lane := l.f.lane,
    vlane := l.vlane, core := coreOf x.w.wid, ctx := x.g.ctx, node := x.g.node, flag := x.flag, scope := sc,
    mcls := l.mcls, mdl := l.mdl, pos := x.pos, base := l.base, instr := x.instr, words := x.words, srcs := l.src,
    since := s.time, clock := s.clock, server := dieOf (coreOf x.w.wid), deferring := !x.parksFaults, kind := kind }

/-- An operation put in flight; at an issue its flag rises by 1, for a replay it has risen at append (R87, R130). -/
def State.addOp (s : State) (x : Exec) (l : LaneIn) (o : Op) : State :=
  let marks := x.lanes.flatMap (fun l =>
    ((o.dsts l.f.id).filter (fun p => (x.marks s l).contains p)).map (fun p => (l.f.id, p)))
  let s0 := if x.entry.isNone then
      x.lanes.foldl (fun s l =>
        let ps := (marks.filter (fun p => p.1 = l.f.id)).map Prod.snd
        if ps.isEmpty then s else s.foul x.w.gid l.f.id ps) s
    else s
  let s1 := { s0 with ops := s0.ops ++ [{ o with spoil := marks }] }
  match x.entry, x.flag with
  | none, some n => s1.onFibre x.w.wid l.f.lane (fun f => f.raise n)
  | _, _ => s1

/-- The agent of a fibre's operation. -/
def Op.agent (o : Op) : Agent :=
  { ctx := o.ctx, node := o.node, core := o.core, places := corePlaces o.core, place := placeOf o.wid, engine := false,
    deferred := o.deferring }

/-- The group of an operation. One that writes no storage of its group may outlive it (R29), and then reads nothing of it. -/
def State.ownGroup (s : State) (o : Op) : Group := (s.group? o.gid).getD default

/-- The fibre's flag falls by 1 (R87). -/
def State.flagFall (s : State) (o : Op) : State :=
  match o.flag with
  | none => s
  | some n => s.onFibreOf o.gid o.fid (fun f => f.fall n)

/-- The end of an operation: its flag falls and it is gone. -/
def State.finishOp (s : State) (o : Op) : State := (s.flagFall o).dropOp o.id

/-- An operation that a bundle makes once put in flight, through its lowest virtual lane: at an issue it counts on the flag of
every executing fibre (R87, R207). -/
def Exec.bundleOp (x : Exec) (s : State) (sc : Scope) (kind : OpKind) : State :=
  match x.lanes with
  | [] => s
  | l :: _ =>
    let (k, s1) := s.fresh
    let o := x.op s1 k l sc kind
    let o := { o with fids := x.lanes.map (fun l => l.f.id), flag := x.instr.shape.fs.bind (fun _ => x.flag) }
    let s2 := s1.addOp { x with flag := none } l o
    match x.entry, o.flag with
    | none, some n => x.lanes.foldl (fun s l => s.onFibre x.w.wid l.f.lane (fun f => f.raise n)) s2
    | _, _ => s2

/-- An operation of a bundle ended: it is gone, and the flag of each of its fibres falls (R87). -/
def State.endBundleOp (s : State) (o : Op) : State :=
  let s1 := match o.flag with
    | none => s
    | some n => o.fids.foldl (fun s f => s.onFibreOf o.gid f (fun f => f.fall n)) s
  s1.dropOp o.id

/-- Result words written to the registers of an operation's fibre, wherever it stands now (R41, R358). -/
def State.landOp (s : State) (o : Op) (ws : List (Nat × Word)) : State :=
  match s.fibreOf? o.gid o.fid with
  | none => s
  | some (w, f) =>
    let (ws, s) := s.fouled ((o.spoil.filter (fun p => p.1 = o.fid)).map Prod.snd) ws
    s.landWords w.wid f.lane (some o.order) ws

/-- The virtual address, or the offset, of byte `i` of an access: the words of a `.k` access stand 128 bytes apart (R63). -/
def byteAddr (sp : Space) (addr i : Nat) : Nat :=
  match sp with
  | .k => (addr + 128 * (i / 4) + i % 4) % 2 ^ 52
  | _ => addr + i

/-- The addresses of the bytes of an access. -/
def byteAddrs (sp : Space) (addr n : Nat) : List Nat := (List.range n).map (byteAddr sp addr)

/-- Space, address, bytes and kind of the access of an operation through the load/store path. -/
def Op.access (o : Op) : Option (Space × Nat × Nat × Access) :=
  match o.kind with
  | .load sp a w _ _ _ => some (sp, a, w.bytes, .read)
  | .store sp a n _ _ => some (sp, a, n, .write)
  | .atomic sp a op _ _ _ => some (sp, a, op.bytes, .atomic)
  | .nrel a => some (.g, a.toNat, 256, .read)
  | .nstat a _ => some (.g, a.toNat, 256, .read)
  | _ => none

/-- The bytes of a memory element of ACCST and ACCLD (R281). -/
def tileBytes : TileFmt → Nat
  | .f32 => 4 | .bf16 => 2 | .fp16 => 2

/-- The addresses of the bytes of a tile's rows in memory (R281). -/
def rowAddrs (addr pitch n : Nat) : List Nat :=
  (List.range 16).flatMap (fun r => (List.range n).map (fun i => addr + r * pitch + i))

/-- The bytes that an operation reads or writes as accesses of its fibre: space and address. -/
def Op.touched (o : Op) : List (Space × Nat) :=
  let word (m : Option Nat) : List (Space × Nat) := (m.map (fun a => (byteAddrs .g a 4).map (fun v => (Space.g, v)))).getD []
  match o.kind with
  | .load sp a w _ _ _ => (byteAddrs sp a w.bytes).map (fun v => (sp, v))
  | .store sp a n _ _ => (byteAddrs sp a n).map (fun v => (sp, v))
  | .atomic sp a op _ _ _ => (byteAddrs sp a op.bytes).map (fun v => (sp, v))
  | .matrix (.accst _ _ s wf a p m _ _) =>
    (rowAddrs a p (16 * tileBytes wf)).map (fun v => (if s then Space.s else Space.g, v)) ++ word m
  | .matrix (.accld _ s wf a p) => (rowAddrs a p (16 * tileBytes wf)).map (fun v => (if s then Space.s else Space.g, v))
  | .matrix (.accmv _ _ _ m _ _) => word m
  | .pfxfind _ tokens _ _ _ _ => (byteAddrs .s tokens 64).map (fun v => (.s, v))
  | _ => []

/-- Whether an operation makes plain loads of its fibre at addresses that it finds in memory: KVXLATE and PFXFIND (R329,
R331). -/
def Op.readsTables (o : Op) : Bool :=
  match o.kind with
  | .kvxlate .. | .pfxfind .. => true
  | _ => false

/-- Whether an operation writes bytes of memory under translation as an access of its fibre. -/
def Op.writesMemory (o : Op) : Bool :=
  match o.kind with
  | .store sp .. => sp.translated
  | .atomic sp .. => sp.translated
  | .matrix (.accst _ _ s ..) => !s
  | .matrix (.accmv _ _ _ m _ _) => m.isSome
  | _ => false

/-- The bytes of an operation by physical address where its pages are pinned, and by its own address otherwise. -/
def Op.places (o : Op) : List (Nat × Nat) :=
  o.touched.map (fun b =>
    if b.1.translated then
      match pinned (o.pins ++ o.wpins) (b.2 % 2 ^ 52) with
      | some (pa, _) => (3, pa)
      | none => (0, b.2)
    else (if b.1 == Space.s then 1 else 2, b.2))

/-- Whether two operations touch a common byte: of one fibre by their addresses, of one issue by location as well (R233,
R266). A write of a fibre may touch any byte that an earlier KVXLATE or PFXFIND of it reads (log 77). -/
def Op.meets (a b : Op) : Bool :=
  (a.fid = b.fid && a.readsTables && b.writesMemory)
  || a.touched.any (fun p => b.touched.any (fun q =>
      (p.1.translated == q.1.translated) && (p.1.translated || p.1 == q.1) && p.2 = q.2))
  || (a.fid ≠ b.fid && a.places.any (fun p => p.1 = 3 && b.places.contains p))

/-- Whether an operation stands before another of the same group in an order of accesses: the same fibre's program order, or
one instruction's ascending virtual lanes (R211, R228, R233, R302). -/
def Op.before (a b : Op) : Bool :=
  a.gid = b.gid && ((a.fid = b.fid && a.order < b.order) || (a.order = b.order && a.fid ≠ b.fid && a.vlane < b.vlane))

/-- Whether an operation is an atomic at the core's own share of `.s`, whose banks take it as it is issued (R186). -/
def State.banked (s : State) (o : Op) : Bool :=
  match o.kind with
  | .atomic .s addr _ _ order _ =>
    !order.rel? && (s.group? o.gid).any (fun g => (g.scratchAt addr).any (fun p => p.1 = coreOf o.wid))
  | _ => false

/-- Whether two operations are loads of one instruction, which no order holds apart: members that read one location read it
together (R208). -/
def Op.loadsWith (a b : Op) : Bool :=
  a.order = b.order && (match a.kind, b.kind with
    | .load .., .load .. => true
    | _, _ => false)

/-- Whether an operation must still wait for an earlier access to a common byte (R233, R266), or for an atomic that the banks
serve first (R186). -/
def State.behind (s : State) (o : Op) : Bool :=
  s.ops.any (fun a => a.id ≠ o.id && !a.loadsWith o && a.meets o
    && (a.before o || (a.gid = o.gid && a.core = o.core && a.id < o.id && s.banked a && s.banked o)))

/-- Whether an own-share access of a fibre to bytes of `.s` must still wait: an access of the fibre to a common byte is in
flight (R233), or an atomic that the banks serve first (R186). -/
def State.bankBusy (s : State) (x : Exec) (l : LaneIn) (addr n : Nat) : Bool :=
  s.ops.any (fun a => a.gid = x.w.gid && a.touched.any (fun p => p.1 == Space.s && addr ≤ p.2 && p.2 < addr + n)
    && (a.fid = l.f.id || (a.core = coreOf x.w.wid && s.banked a)))

/-- Whether an access of a fibre to some bytes of a space must wait for an earlier one of its own to a common byte that is in
flight (R233). -/
def State.ownBusy (s : State) (x : Exec) (l : LaneIn) (sp : Space) (addr n : Nat) : Bool :=
  s.ops.any (fun a => a.gid = x.w.gid && a.fid = l.f.id && a.order < x.place && a.touched.any (fun p =>
    (p.1.translated == sp.translated) && (p.1.translated || p.1 == sp) && addr ≤ p.2 && p.2 < addr + n))

/-- Whether every earlier access and rename of an operation's fibre has been performed, for a release (R209, R243). -/
def State.releasable (s : State) (o : Op) : Bool :=
  s.ops.all (fun a => !(a.id ≠ o.id && a.gid = o.gid && a.fid = o.fid && a.isAccess && a.order < o.order))

/-- Whether a rename of a fibre before a place in its program order, and not yet performed, touches one of some addresses: an
access after it uses the new leaf (R243). -/
def State.renaming (s : State) (gid fid order : Nat) (vas : List Nat) : Bool :=
  s.ops.any (fun a => a.gid = gid && a.fid = fid && a.order < order && (match a.kind with
    | .rename r => vas.any (fun va => r.touches (va % 2 ^ 52 / 65536))
    | _ => false))

/-- Whether an operation stands behind an earlier access to a common byte that has no translation yet: it translates after
that one has (R197, R233, R381). -/
def State.behindUntranslated (s : State) (o : Op) : Bool :=
  s.ops.any (fun a => a.id ≠ o.id && a.before o && (match a.access with
    | some (sp, _, _, _) => sp.translated && a.pins.isEmpty
    | none => false) && a.meets o)

/-- The access of an operation translated and its pages pinned, or its fault posted or joined (R197, R378, R379). -/
def State.pinOp (s : State) (o : Op) : State :=
  match o.access with
  | some (sp, a, n, k) =>
    if !sp.translated || !o.pins.isEmpty || o.record.isSome || s.renaming o.gid o.fid o.order (byteAddrs sp a n)
        || s.behindUntranslated o then s
    else match s.pinAll o.agent k (sp == .g) (byteAddrs sp a n) with
      | (.ok ps, s1) => s1.onOp o.id (fun o => { o with pins := ps })
      | (.error (va, c, l), s1) =>
        let (r, s2) := s1.postFault o.agent va c l k
        s2.onOp o.id (fun o => { o with record := r })
  | none => s

/-- An operation ready to be performed: not waiting for service, its pages pinned, and behind no earlier access. -/
def State.readyOp? (s : State) (id : Nat) : Option Op × State :=
  match s.op? id with
  | none => (none, s)
  | some o =>
    if o.record.isSome then (none, s)
    else
      let s1 := s.pinOp o
      match s1.op? id with
      | none => (none, s1)
      | some o1 =>
        let open_ := match o1.access with
          | some (sp, _, _, _) => sp.translated && o1.pins.isEmpty
          | none => false
        if o1.record.isSome || open_ || s1.behind o1 then (none, s1) else (some o1, s1)

/-- Operations ready together; none while one of them is not. -/
def State.readyOps (s : State) : List Nat → Option (List Op) × State
  | [] => (some [], s)
  | id :: ids =>
    match s.readyOp? id with
    | (none, s1) => (none, s1)
    | (some o, s1) =>
      match s1.readyOps ids with
      | (none, s2) => (none, s2)
      | (some os, s2) => (some (o :: os), s2)

/-- An access that consumes poison: it waits for repair with a record of cause 7, and its translation and those of the
accesses behind it are made anew (R381, R383). -/
def State.consumePoison (s : State) (o : Op) (va : Nat) (k : Access) : State :=
  let (r, s1) := s.postFault o.agent va 7 3 k
  { s1 with ops := s1.ops.map (fun a =>
      if a.id = o.id then { a with record := r, pins := [] }
      else if a.access.isSome && o.before a then { a with pins := [] }
      else a) }

/-- Missed deadlines counted at a core in the counter of a class (R200). -/
def State.addMisses (s : State) (core cls n : Nat) : State :=
  let k := BitVec.ofNat 32 n
  s.onCore core (fun c =>
    match cls with
    | 0 => { c with mdmiss0 := c.mdmiss0 + k }
    | 1 => { c with mdmiss1 := c.mdmiss1 + k }
    | 2 => { c with mdmiss2 := c.mdmiss2 + k }
    | _ => { c with mdmiss3 := c.mdmiss3 + k })

/-- A missed deadline counted at the core, for an access that DRAM served (R200). -/
def State.countMiss (s : State) (o : Op) : State :=
  if o.pins.any (fun p => storage p.2.1 = .dram) then s.addMisses o.core o.mcls.toNat 1 else s

/-- Whether an operation's budget has passed since its request (R200). -/
def State.overdue (s : State) (o : Op) : Bool := o.since + 16 * o.mdl.toNat * Config.ns < s.time

/-! ## Address checks (R63, R185, R187, R206) -/

/-- The illegal operand of an access: misaligned, or outside its space. -/
def State.accessCause (s : State) (w : Warp) (g : Group) (sp : Space) (addr n : Nat) : Option Cause :=
  let bad :=
    addr % n ≠ 0 || (match sp with
      | .g => false
      | .s => g.scratch ≤ addr
      | .d => !((s.ctx? g.ctx).any (fun c => c.dieHolds addr n))
      | .k => w.spillsz.toNat < addr + n)
  if bad then some (illegalOperand addr) else none

/-- The address that an instruction's access forms for a fibre. -/
def LaneIn.access (l : LaneIn) (a : AccessForm) : Nat := a.address (l.src.take a.addrWords)

/-- The address under which an operation keeps an access: `.k` as its virtual address. -/
def opAddr (w : Warp) (l : LaneIn) (sp : Space) (addr : Nat) : Nat :=
  match sp with
  | .k => kAddr w l.vlane addr
  | _ => addr

/-- The check of an instruction's access. -/
def checkAccess (s : State) (x : Exec) (l : LaneIn) : Option Cause :=
  match x.instr.accessForm with
  | none => none
  | some a => s.accessCause x.w x.g a.space (l.access a) a.bytes

/-- Whether a `.s` offset lies in the core's own share (R51). -/
def Exec.local_ (x : Exec) (o : Nat) : Bool := (x.g.scratchAt o).any (fun p => p.1 = coreOf x.w.wid)

/-- A flag counted at append for an address then unknown falls where the replay finds an access that counts on none (R207). -/
def State.uncount (s : State) (x : Exec) (l : LaneIn) : State :=
  match x.entry with
  | none => s
  | some q =>
    if x.w.queue.any (fun e => e.seq = q && e.uncounted.contains l.f.lane) then s
    else s.fallFlags x.w.wid x.flag [l.f.lane]

/-! ## Loads (R208) -/

/-- The register words of a load's bytes. -/
def loadWords (w : Width) (bs : List Byte) : List Word :=
  match w with
  | .b8 | .b16 | .b32 => [BitVec.ofNat 32 (natOf bs)]
  | .s8 => [(BitVec.ofNat 8 (natOf bs)).signExtend 32]
  | .s16 => [(BitVec.ofNat 16 (natOf bs)).signExtend 32]
  | .b64 => (List.range 2).map (fun i => BitVec.ofNat 32 (natOf bs / 2 ^ (32 * i)))
  | .b128 => (List.range 4).map (fun i => BitVec.ofNat 32 (natOf bs / 2 ^ (32 * i)))

/-- The register positions of an instruction's destinations for a fibre, in order; none for vz. -/
def Exec.dstPlaces (x : Exec) (l : LaneIn) : List (Option Nat) := x.instr.shape.dstRegs.map (x.g.place l.base)

/-- The positions that an operation will write. -/
def Exec.dsts (x : Exec) (l : LaneIn) : List Nat := (x.dstPlaces l).filterMap id

/-- Whether some own-share access of an instruction waits at the banks. -/
def State.banksBusy (s : State) (x : Exec) (a : AccessForm) : Bool :=
  a.space == .s && x.lanes.any (fun l => x.local_ (l.access a) && s.bankBusy x l (l.access a) a.bytes)

/-- A load of any form (R186, R207, R208). -/
def loadWith (w : Width) (na : Bool) (acq : Option Scope) : Meaning where
  check := checkAccess
  perform x s := x.instr.accessForm.bind (fun a => if s.banksBusy x a then none else some (
    x.lanes.foldl (fun s l =>
      let addr := l.access a
      if a.space == .s && x.local_ addr then
        let (bs, s1) := s.readScratch x.g addr a.bytes
        let s2 := (s1.landLane x l { dst := loadWords w bs }).uncount x l
        match acq with
        | some sc => s2.acquireAt (coreOf x.w.wid) x.g sc
        | none => s2
      else
        let (k, s1) := s.fresh
        let o := x.op s1 k l (acq.getD .fibre) (.load a.space (opAddr x.w l a.space addr) w (x.dsts l) na acq)
        let o := { o with parks := x.parksFaults && a.space.translated }
        let s2 := (s1.addOp x l o).pinOp o
        s2.onOp k (fun o => { o with parks := o.parks && o.pins.isEmpty })) s))

/-- LD (R208). -/
def meanLd (width : Width) (na : Bool) (acq : Option Scope) : Meaning := loadWith width na acq

/-- LD (R208). -/
def execLd (g : Guard) (d a : Reg) (off : MemOff) (fs : Bool) (width : Width) (space : Space) (na : Bool)
    (acq : Option Scope) (s : State) : Host.Outcome State Fault Refusal :=
  s.issue (.ld g d a off fs width space na acq) (meanLd width na acq)

/-- The short LD.s.b32 (R97, R208). -/
def meanLdSB32Short : Meaning := loadWith .b32 false none

/-- The short LD.s.b32 (R97, R208). -/
def execLdSB32Short (d a : Reg) (i : BitVec 4) (s : State) : Host.Outcome State Fault Refusal :=
  s.issue (.ldSB32Short d a i) meanLdSB32Short

/-- The short LD.s.b64 (R97, R208). -/
def meanLdSB64Short : Meaning := loadWith .b64 false none

/-- The short LD.s.b64 (R97, R208). -/
def execLdSB64Short (d a : Reg) (i : BitVec 4) (s : State) : Host.Outcome State Fault Refusal :=
  s.issue (.ldSB64Short d a i) meanLdSB64Short

/-- Whether an acquire at a scope reads its location's home and has the L1 drop its lines (R208). -/
def wideAcquire (g : Group) (sc : Scope) : Bool :=
  match sc with
  | .fibre => false
  | .group => 1 < g.shares.length
  | .die | .device | .system => true

/-- The bytes that an operation's location holds at its home. -/
def State.readHome (s : State) (o : Op) (g : Group) (sp : Space) (addr n : Nat) : List Byte × State :=
  match sp with
  | .g | .k => s.readPinned o.pins (byteAddrs sp addr n)
  | .s => s.readScratch g addr n
  | .d =>
    match s.ctx? o.ctx with
    | some c => s.readDie c addr n
    | none => (List.replicate n 0, s)

/-- The first byte of a load or atomic whose data would come from a poisoned granule, at its home or the die's (R383, R398): an
L1 hit reads the line as it was filled. -/
def State.loadPoison (s : State) (o : Op) (home : Bool) (sp : Space) (addr n : Nat) : Option Nat :=
  match sp with
  | .s => none
  | .d => (s.ctx? o.ctx).bind (fun c => s.diePoison c addr n)
  | _ => (byteAddrs sp addr n).find? (fun va => match pinned o.pins va with
    | some (pa, k) => s.poisoned pa 1 && (home || !s.l1.any (fun x => x.core = o.core && x.addr = pa / 128 * 128 && x.key = k))
    | none => false)

/-- The words of an operation's destinations: positions with the values for them. -/
def zipDst (dst : List Nat) (ws : List Word) : List (Nat × Word) := dst.zip ws

/-- The members of a load's instruction that read its location: they return together and each receives the same value, the
load itself first (R208). -/
def State.mates (s : State) (o : Op) : List Nat :=
  o.id :: (s.ops.filter (fun a => a.id ≠ o.id && a.issue = o.issue && a.gid = o.gid && (match a.kind, o.kind with
    | .load sp addr w _ _ _, .load sp' addr' w' _ _ _ =>
      w = w' && ((sp = sp' && addr = addr') || (!o.pins.isEmpty && !a.pins.isEmpty && a.places = o.places))
    | _, _ => false))).map Op.id

/-- A load whose data is written to its registers, an acquire where it is one; its flag falls (R200, R208). -/
def State.landLoad (s : State) (o : Op) (late : Bool) (bs : List Byte) : State :=
  match o.kind with
  | .load _ _ w dst _ acq =>
    let s1 := s.landOp o (zipDst dst (loadWords w bs))
    let s2 := match acq with
      | some sc => s1.acquireAt o.core (s1.ownGroup o) sc
      | none => s1
    (if late then s2.countMiss o else s2).finishOp o
  | _ => s

/-- LOAD_RETURN (R200, R208): a load's data is read and written to its registers, and its flag falls. -/
def execLoadReturn (id : Nat) (late : Bool) (s : State) : Host.Outcome State Fault Refusal :=
  .next (match s.op? id with
    | none => s
    | some o0 =>
      match s.readyOps (s.mates o0) with
      | (some (o :: os), s1) =>
        match o.kind with
        | .load sp addr w _ na acq =>
          let g := s1.ownGroup o
          let home := acq.any (wideAcquire g)
          let vas := byteAddrs sp addr w.bytes
          match s1.loadPoison o home sp addr w.bytes with
          | some va => (o :: os).foldl (fun s o => s.consumePoison o va .read) s1
          | none =>
            let (bs, s2) := if sp.translated && !home then s1.loadL1 o.core o.ctx o.pins (!na) vas
              else s1.readHome o g sp addr w.bytes
            (o :: os).foldl (fun s o => s.landLoad o late bs) s2
        | _ => s1
      | (_, s1) => s1)

/-! ## Stores (R209) -/

/-- The bytes of a store's data words. -/
def storeBytes (n : Nat) (ws : List Word) : List Byte := (ws.flatMap bytesOfWord).take n

/-- The bytes of the stores of one issue: where several members write one byte, the highest virtual lane's is kept (R209). -/
def State.mergeStores (s : State) (issue : Nat) : State :=
  let mine := s.ops.filter (fun o => o.issue = issue)
  { s with ops := s.ops.map (fun o =>
      match o.kind with
      | .store sp a n bs rel =>
        let higher := (mine.filter (fun x => o.vlane < x.vlane)).flatMap (fun x => x.places)
        let own := o.places
        if o.issue = issue then
          { o with kind := .store sp a n (bs.filter (fun b => !higher.contains (own.getD b.1 (9, 0)))) rel }
        else o
      | _ => o) }

/-- A store of any form (R186, R207, R209). -/
def storeWith (n : Nat) (sc : Scope) (rel : Bool) : Meaning where
  check := checkAccess
  perform x s := x.instr.accessForm.bind (fun a =>
    if s.banksBusy x a then none
    else if rel && a.space == .s && x.lanes.any (fun l => x.local_ (l.access a) && !s.allPerformed x.w l.f && x.entry.isNone) then none
    else some ((x.lanes.foldl (fun (s : State) (l : LaneIn) =>
      let addr := l.access a
      let bs := storeBytes n (l.src.drop a.addrWords)
      if a.space == .s && x.local_ addr then (s.writeScratch x.g addr bs).uncount x l
      else
        let (k, s1) := s.fresh
        let o := x.op s1 k l sc (.store a.space (opAddr x.w l a.space addr) n ((List.range n).zip bs) rel)
        let o := { o with parks := x.parksFaults && a.space.translated }
        let s2 := (s1.addOp x l o).pinOp o
        s2.onOp k (fun o => { o with parks := o.parks && o.pins.isEmpty })) s).mergeStores x.issue))

/-- ST (R209). -/
def meanSt (width : Width) (rel : Bool) (scope : Scope) : Meaning := storeWith width.bytes scope rel

/-- ST (R209). -/
def execSt (g : Guard) (a data : Reg) (off : MemOff) (fs : Bool) (width : Width) (space : Space) (rel : Bool)
    (scope : Scope) (s : State) : Host.Outcome State Fault Refusal :=
  s.issue (.st g a data off fs width space rel scope) (meanSt width rel scope)

/-- The short ST.s.b32, at `.device` scope (R97, R209). -/
def meanStSB32Short : Meaning := storeWith 4 .device false

/-- The short ST.s.b32 (R97, R209). -/
def execStSB32Short (d a : Reg) (i : BitVec 4) (s : State) : Host.Outcome State Fault Refusal :=
  s.issue (.stSB32Short d a i) meanStSB32Short

/-- The short ST.s.b64, at `.device` scope (R97, R209). -/
def meanStSB64Short : Meaning := storeWith 8 .device false

/-- The short ST.s.b64 (R97, R209). -/
def execStSB64Short (d a : Reg) (i : BitVec 4) (s : State) : Host.Outcome State Fault Refusal :=
  s.issue (.stSB64Short d a i) meanStSB64Short

/-- Bytes written to an operation's location at its home. -/
def State.writeHome (s : State) (o : Op) (g : Group) (sp : Space) (addr : Nat) (bs : List (Nat × Byte)) : State :=
  match sp with
  | .g | .k => s.writePinned o.agent o.pins (sp == .g) (bs.map (fun b => (byteAddr sp addr b.1, b.2)))
  | .s => bs.foldl (fun s b => s.writeScratch g (addr + b.1) [b.2]) s
  | .d =>
    match s.ctx? o.ctx with
    | some c => (bs.foldl (fun s b => s.writeDie c (addr + b.1) [b.2]) s).noteUnstaged o.ctx o.node
    | none => s

/-! ## Atomics and reductions (R210 to R213) -/

/-- The FP32 word with its sign cleared. -/
def absWord (w : Word) : Word := w &&& 0x7FFFFFFF

/-- FMAXABS of two FP32 words (R211). -/
def fmaxabs (a b : Word) : Word :=
  if (fp32.read a.toNat).isNan || (fp32.read b.toNat).isNan then 0x7FC00000
  else if (absWord a).toNat < (absWord b).toNat then absWord b else absWord a

/-- A sum of two FP32 words, subnormals kept (R211). -/
def faddWord (a b : Word) : Word :=
  BitVec.ofNat 32 (fp32.fadd .rne false 0 (fp32.read a.toNat) (fp32.read b.toNat)).bits

/-- A sum of two BF16 halves, subnormals kept (R211). -/
def faddHalf (a b : Nat) : Nat := (bf16.fadd .rne false 0 (bf16.read a) (bf16.read b)).bits

/-- The lesser or greater of two numbers of `n` bytes, signed or unsigned. -/
def minmaxOf (n : Nat) (mx signed : Bool) (a b : Nat) : Nat :=
  let key (v : Nat) : Int := if signed && 2 ^ (8 * n - 1) ≤ v then (v : Int) - 2 ^ (8 * n) else v
  if key a < key b then (if mx then b else a) else if mx then a else b

/-- What an atomic writes for an old value and its operand words: none where an unequal compare writes nothing (R211). -/
def atomicNew (op : AtomOp) (old : Nat) (ws : List Word) : Option Nat :=
  let n := op.bytes
  let v := natOf ((ws.take (n / 4)).flatMap bytesOfWord)
  let cas := natOf ((ws.drop (n / 4)).flatMap bytesOfWord)
  match op with
  | .addB32 | .addB64 => some ((old + v) % 2 ^ (8 * n))
  | .minS32 | .minS64 => some (minmaxOf n false true old v)
  | .minU32 | .minU64 => some (minmaxOf n false false old v)
  | .maxS32 | .maxS64 => some (minmaxOf n true true old v)
  | .maxU32 | .maxU64 => some (minmaxOf n true false old v)
  | .andB32 | .andB64 => some (old &&& v)
  | .orB32 | .orB64 => some (old ||| v)
  | .xorB32 | .xorB64 => some (old ^^^ v)
  | .exchB32 | .exchB64 => some v
  | .casB32 | .casB64 | .casB128 => if old = v then some cas else none
  | .faddF32 => some (faddWord (BitVec.ofNat 32 old) (BitVec.ofNat 32 v)).toNat
  | .faddBf16x2 => some (faddHalf (old % 2 ^ 16) (v % 2 ^ 16) + faddHalf (old / 2 ^ 16) (v / 2 ^ 16) * 2 ^ 16)
  | .fmaxabsF32 => some (fmaxabs (BitVec.ofNat 32 old) (BitVec.ofNat 32 v)).toNat

/-- Whether an operation is allowed on host memory (R212). -/
def hostAllows (op : AtomOp) : Bool :=
  match op with
  | .addB32 | .addB64 | .exchB32 | .exchB64 | .casB32 | .casB64 => true
  | _ => false

/-- Whether an address of a context lies on a host page, as a core's accesses translate it now. -/
def State.onHostPage (s : State) (core cn va : Nat) : Bool :=
  match (s.translate (corePlaces core) cn va .atomic).1 with
  | .ok (pa, _) => storage pa = .host
  | .error _ => false

/-- The checks of an atomic: its address (R206), and its operation on host memory (R212). -/
def checkAtomic (op : AtomOp) (s : State) (x : Exec) (l : LaneIn) : Option Cause :=
  match checkAccess s x l, x.instr.accessForm with
  | some c, _ => some c
  | none, some a =>
    let addr := l.access a
    if a.space == .g && !hostAllows op && s.onHostPage (coreOf x.w.wid) x.g.ctx addr then some (illegalOperand addr) else none
  | none, none => none

/-- The operand words of an atomic: the registers after its address, or the literal (R203). -/
def LaneIn.atomOperand (l : LaneIn) (b : Src) (k : Nat) : List Word :=
  match b with
  | .lit v => [v]
  | .reg _ => l.src.drop k

/-- ATOM and RED (R207, R211, R213). -/
def atomWith (b : Src) (op : AtomOp) (order : MemOrder) (sc : Scope) (ret : Bool) : Meaning where
  check := checkAtomic op
  perform x s := x.instr.accessForm.map (fun a =>
    x.lanes.foldl (fun s l =>
      let (k, s1) := s.fresh
      let o := x.op s1 k l sc (.atomic a.space (l.access a) op (l.atomOperand b a.addrWords) order
        (if ret then some (x.dsts l) else none))
      let o := { o with parks := x.parksFaults && a.space.translated }
      let s2 := (s1.addOp x l o).pinOp o
      s2.onOp k (fun o => { o with parks := o.parks && o.pins.isEmpty })) s)

/-- ATOM (R210, R211). -/
def meanAtom (b : Src) (op : AtomOp) (order : MemOrder) (scope : Scope) : Meaning := atomWith b op order scope true

/-- ATOM (R210, R211). -/
def execAtom (g : Guard) (d a : Reg) (b : Src) (fs : Bool) (op : AtomOp) (order : MemOrder) (scope : Scope)
    (space : Space3) (s : State) : Host.Outcome State Fault Refusal :=
  s.issue (.atom g d a b fs op order scope space) (meanAtom b op order scope)

/-- RED (R213). -/
def meanRed (b : Src) (op : AtomOp) (order : MemOrder) (scope : Scope) : Meaning := atomWith b op order scope false

/-- RED (R213). -/
def execRed (g : Guard) (a : Reg) (b : Src) (fs : Bool) (op : AtomOp) (order : MemOrder) (scope : Scope) (space : Space3)
    (s : State) : Host.Outcome State Fault Refusal :=
  s.issue (.red g a b fs op order scope space) (meanRed b op order scope)

/-- An atomic that turned out to name a host page that does not allow it: an illegal operand, taken at the warp's next issue
point as a fault at replay is (R142, R212). -/
def State.refuseAtomic (s : State) (o : Op) (va : Nat) : State :=
  match s.fibreOf? o.gid o.fid with
  | none => s.finishOp o
  | some (w, f) =>
    let t : ReplayTrap := { cause := { cls := 3, sub := 1, addr := va }, seq := none, lanes := [f.lane] }
    (s.finishOp o).onWarp w.wid (fun w => { w with replayTrap := some t })

/-- One atomic or reduction performed at its home (R211): the read, the write and the result are indivisible. -/
def State.performAtomic (s : State) (id : Nat) : State :=
  match s.readyOp? id with
  | (none, s1) => s1
  | (some o, s1) =>
    match o.kind with
    | .atomic sp addr op operand order dst =>
      let g := s1.ownGroup o
      if order.rel? && !s1.releasable o then s1
      else if o.pins.any (fun p => storage p.2.1 = .host) && !hostAllows op then s1.refuseAtomic o addr
      else
        match s1.loadPoison o true sp addr op.bytes with
        | some va => s1.consumePoison o va .atomic
        | none =>
          let (bs, s2) := s1.readHome o g sp addr op.bytes
          let old := natOf bs
          let s3 := match atomicNew op old operand with
            | some v => s2.writeHome o g sp addr ((List.range op.bytes).zip (bytesOf op.bytes v))
            | none => s2
          let s4 := match dst with
            | some ds => s3.landOp o (zipDst ds ((List.range (op.bytes / 4)).map (fun i => BitVec.ofNat 32 (old / 2 ^ (32 * i)))))
            | none => s3
          let s5 := if order.acq? then s4.acquireAt o.core g o.scope else s4
          (if s1.overdue o then s5.countMiss o else s5).finishOp o
    | _ => s1

/-- STORE_PERFORMED (R209, R213, R231): a store or a reduction is performed at its scope. -/
def execStorePerformed (id : Nat) (s : State) : Host.Outcome State Fault Refusal :=
  .next (match (s.op? id).map Op.kind with
    | some (.atomic _ _ _ _ _ none) => s.performAtomic id
    | some (.store ..) =>
      match s.readyOp? id with
      | (none, s1) => s1
      | (some o, s1) =>
        match o.kind with
        | .store sp addr _ bs rel =>
          if rel && !s1.releasable o then s1
          else
            let s2 := s1.writeHome o (s1.ownGroup o) sp addr bs
            (if s1.overdue o then s2.countMiss o else s2).finishOp o
        | _ => s1
    | _ => s)

/-- ATOMIC_COMPLETE (R211): an atomic is performed and its old value is written. -/
def execAtomicComplete (id : Nat) (s : State) : Host.Outcome State Fault Refusal :=
  .next (match (s.op? id).map Op.kind with
    | some (.atomic _ _ _ _ _ (some _)) => s.performAtomic id
    | _ => s)

/-! ## FENCE and PREF -/

/-- Operations that an acquire fence waits for: loads, those of ACCLD, KVXLATE and PFXFIND among them, and returning atomics
(R214, R281, R329, R331). -/
def Op.returnsData (o : Op) : Bool :=
  match o.kind with
  | .load .. | .query .. | .nstat .. | .kvxlate .. | .pfxfind .. => true
  | .matrix (.accld ..) => true
  | .atomic _ _ _ _ _ (some _) => true
  | _ => false

/-- FENCE (R214, R238): it waits until its condition holds, and an acquire fence then drops the L1's lines. -/
def meanFence (sc : Scope) (k : FenceKind) : Meaning where
  perform x s :=
    let earlier (l : LaneIn) : List Op :=
      (s.opsOf x.w.gid l.f.id).filter (fun o => o.order < x.place)
    let waits (o : Op) : Bool := if k == .acq then o.returnsData else o.isAccess
    if x.lanes.any (fun l => (earlier l).any waits) then none
    else some (if k == .rel then s else s.acquireAt (coreOf x.w.wid) x.g sc)

/-- FENCE (R214, R238). -/
def execFence (g : Guard) (scope : Scope) (kind : FenceKind) (s : State) : Host.Outcome State Fault Refusal :=
  s.issue (.fence g scope kind) (meanFence scope kind)

/-- PREF (R215): a line that translates with R is brought into the L1; a prefetch to the die SRAM changes no state. -/
def meanPref (off : MemOff) (dieCache : Bool) : Meaning where
  perform x s := some (x.lanes.foldl (fun s l =>
    let va := (((pairAddr (l.s 0) (l.s 1) : Nat) : Int) + off.toInt).emod (2 ^ 52) |>.toNat
    match s.translate (corePlaces (coreOf x.w.wid)) x.g.ctx va .read with
    | (.error _, s1) => s1
    | (.ok (pa, k), s1) =>
      if dieCache || s1.poisoned (pa / 128 * 128) 128 then s1 else (s1.l1Byte (coreOf x.w.wid) x.g.ctx k pa true).2) s)

/-- PREF (R215). -/
def execPref (g : Guard) (a : Reg) (off : MemOff) (dieCache : Bool) (s : State) : Host.Outcome State Fault Refusal :=
  s.issue (.pref g a off dieCache) (meanPref off dieCache)

/-! ## WAITW (R116) -/

/-- Whether a word satisfies a comparison (R116). -/
def waitHolds (c : WaitCmp) (w v : Word) : Bool :=
  match c with
  | .eq => w = v
  | .ne => w ≠ v
  | .geu => v.toNat ≤ w.toNat
  | .ltu => w.toNat < v.toNat
  | .ge => v.toInt ≤ w.toInt
  | .lt => w.toInt < v.toInt

/-- WAITW's address for a fibre (R116). -/
def waitAddr (sp : Space3) (off : BitVec 10) (l : LaneIn) : Nat :=
  let o : Int := 4 * off.toInt
  match sp with
  | .g => ((((pairAddr (l.s 0) (l.s 1) : Nat) : Int) + o).emod (2 ^ 52)).toNat
  | _ => ((((l.s 0).toNat : Int) + o).emod (2 ^ 32)).toNat

/-- WAITW's value for a fibre. -/
def waitValue (sp : Space3) (l : LaneIn) : Word := if sp == .g then l.s 2 else l.s 1

/-- The word that a WAITW reads; none where its translation or poison must first be served, with the fault posted for the
fibre (R378, R383). -/
def State.waitRead (s : State) (w : Warp) (g : Group) (lane : Nat) (sp : Space3) (addr : Nat) : Option Word × State :=
  match sp with
  | .s =>
    let (bs, s1) := s.readScratch g addr 4
    (some (BitVec.ofNat 32 (natOf bs)), s1)
  | .d =>
    match s.ctx? g.ctx with
    | none => (some 0, s)
    | some c =>
      match s.diePoison c addr 4 with
      | some va => (none, s.fetchFault w g [lane] va 7 3 .read)
      | none =>
        let (bs, s1) := s.readDie c addr 4
        (some (BitVec.ofNat 32 (natOf bs)), s1)
  | .g =>
    match s.translate (corePlaces (coreOf w.wid)) g.ctx addr .read with
    | (.error (c, l), s1) => (none, s1.fetchFault w g [lane] addr c l .read)
    | (.ok (pa, k), s1) =>
      if s1.poisoned pa 4 then (none, s1.fetchFault w g [lane] addr 7 3 .read)
      else
        let (bs, s2) := s1.readBytes k pa 4
        (some (BitVec.ofNat 32 (natOf bs)), s2)

/-- The time until a waiting fibre reads its word again at the latest: 1 µs (R116). -/
def waitwPeriod : Nat := 1000 * Config.ns

/-- One reading of a WAITW by a fibre: it leaves the wait, an acquire, or stays parked (R116). -/
def State.waitTry (s : State) (w : Warp) (g : Group) (lane : Nat) (p : Pos) (cmp : WaitCmp) (sp : Space3) (sc : Scope)
    (v : Word) (addr : Nat) : State :=
  let (r, s1) := s.waitRead w g lane sp addr
  match r.map (fun x => waitHolds cmp x v) with
  | some true => (s1.onFibre w.wid lane (fun f => { f with park := none })).acquireAt (coreOf w.wid) g sc
  | _ => s1.onFibre w.wid lane (fun f =>
      { f with park := some { wait := .word cmp sp sc v addr (s.time + waitwPeriod), at_ := p } })

/-- WAITW (R116): its reading follows the fibre's own earlier accesses to the word, and its renames of the page (R233,
R243). -/
def meanWaitw (off : BitVec 10) (sc : Scope) (sp : Space3) (cmp : WaitCmp) : Meaning where
  check s x l := s.accessCause x.w x.g sp.space (waitAddr sp off l) 4
  perform x s :=
    if x.lanes.any (fun l => (sp == .g && s.renaming x.w.gid l.f.id x.issue [waitAddr sp off l])
        || s.ownBusy x l sp.space (waitAddr sp off l) 4) then none
    else some (x.lanes.foldl (fun s l => s.waitTry x.w x.g l.f.lane x.pos cmp sp sc (waitValue sp l) (waitAddr sp off l)) s)

/-- WAITW (R116). -/
def execWaitw (g : Guard) (a b : Reg) (off : BitVec 10) (scope : Scope) (space : Space3) (cmp : WaitCmp) (s : State) :
    Host.Outcome State Fault Refusal :=
  s.issue (.waitw g a b off scope space cmp) (meanWaitw off scope space cmp)

/-- WAITW_RECHECK (R116): a waiting fibre that waits for no service reads its word again: when 1 µs has passed since it last
did, or at a write to its line, which before then shows only where the wait is over. -/
def execWaitwRecheck (wid lane : Nat) (s : State) : Host.Outcome State Fault Refusal :=
  .next (match s.warp? wid with
    | none => s
    | some w =>
      match (w.fibre? lane).bind Fibre.park, s.group? w.gid with
      | some { wait := .word cmp sp sc v addr due, at_ := p }, some g =>
        if s.faults.any (fun r => r.fetchers.any (fun x => x.1 = wid && x.2.contains lane)) then s
        else
          let s1 := s.waitTry w g lane p cmp sp sc v addr
          if due ≤ s.time || ((s1.fibre? wid lane).bind Fibre.park).isNone then s1 else s
      | _, _ => s)

end Sys2Proof.Machine
end

