-- ==== Sys2Proof/Machine/Engine.lean ====
section
/-! DEFINITION. What the engines share: when a command is sent to its engine (R241), its pages translated once and pinned
(R197), faults and poison on them (R382, R383), and its reads and writes. -/

namespace Sys2Proof.Machine

open Sys2Proof

/-- The lowest-numbered core of a die that is present and in service (R256). -/
def State.firstCore (s : State) (die : Nat) : Nat :=
  ((List.range 64).find? (fun i => (s.core (64 * die + i)).present && (s.core (64 * die + i)).inService)).getD 0 + 64 * die

/-- Whether an operation is a command of a die's engine, and not of a core's. -/
def Op.onDie (o : Op) : Bool :=
  match o.kind with
  | .sort .. | .attn .. | .kvappend .. | .pfxins .. | .pfxfind .. | .caravan .. => true
  | _ => false

/-- The core whose copy engine copies for a command's first write of a page (R256). -/
def State.copyCore (s : State) (o : Op) : Nat :=
  match o.kind with
  | .sort .. | .attn .. => s.firstCore o.server
  | _ => o.core

/-- The die whose engines serve the requests of a die: its own, or while its engine slot is out of service the next in
ascending order whose engine slot is in service (R394). -/
def State.engineDie (s : State) (die : Nat) : Option Nat :=
  ((List.range 8).map (fun i => (die + i) % 8)).find? (fun d => (s.scan d).engInService)

/-- Whether a die's engines take requests: not while their slot is drained and tested (R390, R391). -/
def State.engineTakes (s : State) (die : Nat) : Bool := !((s.scan die).slot = 64 && (s.scan die).phase ≠ .idle)

/-- The agent of an engine command (R193, R256, R379). -/
def State.engineAgent (s : State) (o : Op) : Agent :=
  let die := o.server
  if o.onDie then
    { ctx := o.ctx, node := o.node, core := s.copyCore o, places := [.die die], place := 64 * die, engine := true,
      deferred := false }
  else
    { ctx := o.ctx, node := o.node, core := o.core, places := corePlaces o.core, place := o.core, engine := true,
      deferred := false }

/-- Whether a request joined its engine's queue no later than another; one that has not been seen to join yet comes last. -/
def Op.joined (a b : Op) : Bool :=
  match a.arrived, b.arrived with
  | some x, some y => x ≤ y
  | none, some _ => false
  | _, none => true

/-- A request put into a list in arrival order. -/
def Op.queueIn (o : Op) : List Op → List Op
  | [] => [o]
  | a :: as => if o.joined a then o :: a :: as else a :: o.queueIn as

/-- Requests in arrival order, those that arrived together in the order of issue (R296, R336). -/
def arrivalOrder (os : List Op) : List Op := os.foldr Op.queueIn []

/-- Whether a queued engine request may be taken: it waits for no record, it has been sent, and its context is not being
evicted (R241, R370, R382). -/
def State.mayBegin (s : State) (o : Op) : Bool :=
  o.record.isNone && s.sent o && (s.ctx? o.ctx).all (fun c => c.state = 0 || c.state = 3)

/-- Whether a page is pinned. -/
def isPinned (pins : List (Nat × Nat × Nat)) (va : Nat) : Bool := pins.any (fun p => p.1 = va / 65536 * 65536)

/-- Whether a pinned page stands on a leaf that the tables no longer hold. -/
def State.stalePin (s : State) (c : Ctx) (p : Nat × Nat × Nat) : Bool :=
  match s.walk c p.1 with
  | .leaf e level _ => leafAddr e level p.1 ≠ p.2.1 || pteKey e ≠ p.2.2
  | .stop .. => true

/-- A page that a command has translated for its other kind of access, where a rename has changed its leaf since: it is
translated once (R197). A page that has been staged since is no such page, for writes to it reach the live leaf (R256; log
93). -/
def State.heldPin (s : State) (o : Op) (va : Nat) : Option (Nat × Nat × Nat) :=
  match (o.pins ++ o.wpins).find? (fun p => p.1 = va / 65536 * 65536), s.ctx? o.ctx with
  | some p, some c => if s.stalePin c p && !c.staged.any (fun g => g.page = p.1 / 65536) then some p else none
  | _, _ => none

/-- One page translated and pinned for a command, once; a fault posts or joins a record, for which the command waits (R197,
R382). -/
def State.enginePin (s : State) (id : Nat) (va : Nat) (k : Access) (stage : Bool) : State :=
  match s.op? id with
  | none => s
  | some o =>
    let have_ := if k = .read then isPinned o.pins (va % 2 ^ 52) else isPinned o.wpins (va % 2 ^ 52)
    let put (s : State) (p : Nat × Nat × Nat) : State :=
      s.onOp id (fun o => if k = .read then { o with pins := p :: o.pins } else { o with wpins := p :: o.wpins })
    if o.record.isSome || have_ then s
    else match s.heldPin o (va % 2 ^ 52) with
      | some p => put s p
      | none =>
        let ag := s.engineAgent o
        match s.pinPage ag (va % 2 ^ 52) k stage with
        | (.ok p, s1) => put s1 p
        | (.error (c, l), s1) =>
          let (r, s2) := s1.postFault ag (va % 2 ^ 52) c l k
          s2.onOp id (fun o => { o with record := r })

/-- The pages of some ranges pinned: (first byte, bytes, access). -/
def State.enginePins (s : State) (id : Nat) (rs : List (Nat × Nat × Access)) : State :=
  rs.foldl (fun s r => (pieces r.1 r.2.1).foldl (fun s p => s.enginePin id p.1 r.2.2 true) s) s

/-- The bytes of some ranges of addresses. -/
def rangeBytes (va n : Nat) : List Nat := (List.range n).map (fun i => va + i)

/-- A command whose reads would consume poison waits for its repair (R382, R383). -/
def State.enginePoison (s : State) (id : Nat) (vas : List Nat) : State :=
  match s.op? id with
  | none => s
  | some o =>
    match (if o.record.isSome then none else s.poisonAt o.pins vas) with
    | none => s
    | some va =>
      let (r, s1) := s.postFault (s.engineAgent o) (va % 2 ^ 52) 7 3 .read
      s1.onOp id (fun o => { o with record := r })

/-- Whether a command may go on: it waits for no record, and every page of some ranges is pinned. -/
def State.engineReady (s : State) (id : Nat) (rs : List (Nat × Nat × Access)) : Bool :=
  match s.op? id with
  | none => false
  | some o => o.record.isNone && rs.all (fun r => (pieces r.1 r.2.1).all (fun p =>
      if r.2.2 = .read then isPinned o.pins (p.1 % 2 ^ 52) else isPinned o.wpins (p.1 % 2 ^ 52)))

/-- Ranges pinned and checked for poison: the state, and whether the command may go on. -/
def State.engineOpen (s : State) (id : Nat) (rs : List (Nat × Nat × Access)) : Bool × State :=
  let s1 := s.enginePins id rs
  let s2 := s1.enginePoison id ((rs.filter (fun r => r.2.2 = .read)).flatMap (fun r => rangeBytes r.1 r.2.1))
  (s2.engineReady id rs, s2)

/-- Requests of 64 bytes that some bytes from an address take (R22). -/
def requests (va n : Nat) : Nat := if n = 0 then 0 else (va + n - 1) / 64 - va / 64 + 1

/-- Missed deadlines of some requests of a command, once its budget has passed: how many of them DRAM serves late the spec
leaves open (log 92); they count at the issuing core, or at the die's first core for a SORT or ATTN node (R200, R389). -/
def State.engineMiss (s : State) (o : Op) (n : Nat) : State :=
  if s.overdue o && (o.pins ++ o.wpins).any (fun p => storage p.2.1 = .dram) then
    let (w, s1) := s.freeWord
    s1.addMisses o.core o.mcls.toNat (w.toNat % (n + 1))
  else s

/-- Bytes that a command reads. -/
def State.engineRead (s : State) (id va n : Nat) : List Byte × State :=
  match s.op? id with
  | none => ([], s)
  | some o => (s.engineMiss o (requests va n)).readPinned o.pins (rangeBytes va n)

/-- A number that a command reads. -/
def State.engineNat (s : State) (id va n : Nat) : Nat × State :=
  let (bs, s1) := s.engineRead id va n
  (natOf bs, s1)

/-- Bytes that a command writes, in the L1 of its core as well, so that the core's loads find them (R231, R240, R257, R384). -/
def State.engineWrite (s : State) (id va : Nat) (bs : List Byte) : State :=
  match s.op? id with
  | none => s
  | some o => (s.engineMiss o (requests va bs.length)).writePinned { s.engineAgent o with core := o.core } o.wpins true
      ((rangeBytes va bs.length).zip bs)

/-- Bytes by address that a command writes. -/
def State.engineBytes (s : State) (id : Nat) (bs : List (Nat × Byte)) : State :=
  match s.op? id with
  | none => s
  | some o => (s.engineMiss o ((bs.map (fun b => b.1 / 64)).eraseDups).length).writePinned
      { s.engineAgent o with core := o.core } o.wpins true bs

/-- A command that has ended: a node's stays until its node takes note (R252), a fibre's is gone with its flag. -/
def State.endCommand (s : State) (o : Op) : State :=
  if o.gid = 0 then s.onOp o.id (fun o => { o with stage := .done }) else s.finishOp o

end Sys2Proof.Machine
end

