-- ==== Sys2Proof/Machine/Copy.lean ====
section
/-! DEFINITION. The copy engine's commands TCOPY and COPYA, the stage rings, and the steps COPY_COMMAND_START and
COPY_COMMAND_COMPLETE (R216 to R226). -/

namespace Sys2Proof.Machine

open Sys2Proof

/-! ## Stage rings (R223 to R225) -/

/-- A stage ring of a group. -/
def Group.stageRing (g : Group) (r : Nat) : Ring := sget {} g.rings r

/-- One post to a side of a stage. -/
def Stage.post (st : Stage) (r : Ring) (empty : Bool) : Stage :=
  if empty then
    if st.emptyCnt + 1 = r.pe then { st with empty := !st.empty, emptyCnt := 0 } else { st with emptyCnt := st.emptyCnt + 1 }
  else
    if st.fullCnt + 1 = r.pf then { st with full := !st.full, fullCnt := 0 } else { st with fullCnt := st.fullCnt + 1 }

/-- A ring with one post to a stage. -/
def Ring.post (r : Ring) (i : Nat) (empty : Bool) : Ring :=
  match r.stages[i]? with
  | none => r
  | some st => { r with stages := r.stages.set i (st.post r empty) }

/-- A group's ring posted. -/
def State.postRing (s : State) (gid ring stage : Nat) (empty : Bool) : State :=
  s.onGroup gid (fun g => { g with rings := sset {} g.rings ring ((g.stageRing ring).post stage empty) })

/-- The ring that SRINIT's operands describe (R224); none where a field is out of range. -/
def ringOf (g : Group) (a b c : Word) : Option Ring :=
  let n := b.toNat % 16 + 1
  let size := 16 * (b.toNat / 16 % 2 ^ 16)
  let pf := c.toNat % 2 ^ 12
  let pe := c.toNat / 2 ^ 16 % 2 ^ 12
  if a.toNat % 16 ≠ 0 || size = 0 || b.toNat / 2 ^ 20 ≠ 0 || pf = 0 || 2048 < pf || pe = 0 || 2048 < pe
      || c.toNat / 2 ^ 28 ≠ 0 || c.toNat / 2 ^ 12 % 16 ≠ 0 || g.scratch < a.toNat + n * size then none
  else some { base := a.toNat, size := size, pf := pf, pe := pe, stages := List.replicate n {} }

/-- Whether a TCOPY whose post names a ring is queued or running in a group. -/
def State.postsOut (s : State) (gid ring : Nat) : Bool :=
  s.ops.any (fun o => o.gid = gid && (match o.kind with
    | .copy c => c.post.any (fun p => p.1 = ring)
    | _ => false))

/-- SRINIT (R224): it waits for copies that will post to the ring; the highest virtual lane's ring holds. -/
def meanSrinit (ring : Fin 8) : Meaning where
  check _ x l := if (ringOf x.g (l.s 0) (l.s 1) (l.s 2)).isSome then none else some (illegalOperand)
  perform x s :=
    if s.postsOut x.w.gid ring.val then none
    else (x.top.bind (fun l => ringOf x.g (l.s 0) (l.s 1) (l.s 2))).map (fun r =>
      s.onGroup x.w.gid (fun g => { g with rings := sset {} g.rings ring.val r }))

/-- SRINIT (R224). -/
def execSrinit (g : Guard) (a b c : Reg) (ring : Fin 8) (s : State) : Host.Outcome State Fault Refusal :=
  s.issue (.srinit g a b c ring) (meanSrinit ring)

/-- The illegal operand of a stage that a ring does not have (R226). -/
def checkStage (ring : Nat) (s : State) (x : Exec) (l : LaneIn) : Option Cause :=
  match s.group? x.w.gid with
  | none => none
  | some g => if (l.s 0).toNat < (g.stageRing ring).stages.length then none else some (illegalOperand)

/-- SRWAIT (R226): it stalls until the phase of every executing fibre's stage is the one named, then acquires. -/
def meanSrwait (phase empty : Bool) (ring : Fin 8) : Meaning where
  check := checkStage ring.val
  perform x s :=
    match s.group? x.w.gid with
    | none => none
    | some g =>
      let r := g.stageRing ring.val
      let at_ (l : LaneIn) : Bool :=
        (r.stages[(l.s 0).toNat]?).any (fun st => (if empty then st.empty else st.full) == phase)
      if x.lanes.all at_ then some (s.acquireAt (coreOf x.w.wid) g .group) else none

/-- SRWAIT (R226). -/
def execSrwait (g : Guard) (stage : Reg) (phase empty : Bool) (ring : Fin 8) (s : State) :
    Host.Outcome State Fault Refusal :=
  s.issue (.srwait g stage phase empty ring) (meanSrwait phase empty ring)

/-- Whether every access of an executing fibre before this issue has been performed (R225). -/
def Exec.released (x : Exec) (s : State) (l : LaneIn) : Bool :=
  (s.opsOf x.w.gid l.f.id).all (fun o => !(o.isAccess && o.order < x.place))

/-- SRPOST (R225): a release; one post for each executing fibre. -/
def meanSrpost (empty : Bool) (ring : Fin 8) : Meaning where
  check := checkStage ring.val
  perform x s :=
    if x.lanes.all (x.released s) then
      some (x.lanes.foldl (fun s l => s.postRing x.w.gid ring.val (l.s 0).toNat empty) s)
    else none

/-- SRPOST (R225). -/
def execSrpost (g : Guard) (stage : Reg) (empty : Bool) (ring : Fin 8) (s : State) : Host.Outcome State Fault Refusal :=
  s.issue (.srpost g stage empty ring) (meanSrpost empty ring)

/-! ## Copy commands -/

/-- The spaces of a direction: destination, source (R217). -/
def dirSpaces : CopyDir → Space × Space
  | .sg => (.s, .g) | .gs => (.g, .s) | .dg => (.d, .g) | .gd => (.g, .d)
  | .gg => (.g, .g) | .sd => (.s, .d) | .ds => (.d, .s) | .srec => (.s, .g)

/-- The bytes that a command copies. -/
def CopyCmd.bytes (c : CopyCmd) : Nat := c.rows * c.rowBytes

/-- The destination and source address of byte `i` of a command. -/
def CopyCmd.dstAt (c : CopyCmd) (i : Nat) : Nat := c.dst + i / c.rowBytes * c.dstPitch + i % c.rowBytes
/-- See `dstAt`. -/
def CopyCmd.srcAt (c : CopyCmd) (i : Nat) : Nat := c.src + i / c.rowBytes * c.srcPitch + i % c.rowBytes

/-- Whether byte `i` is read from the source: beyond an expert's rows, zeros are written (R220). -/
def CopyCmd.reads (c : CopyCmd) (i : Nat) : Bool := c.dir != .srec || i / c.rowBytes < c.row0

/-- Rows of a side of a tile in bounds of its space (R206, R219): the first address that is not. -/
def State.rowsCause (s : State) (g : Group) (sp : Space) (a rows bytes pitch : Nat) : Option Cause :=
  let ok := bytes = 0 || (match sp with
    | .s => a + (rows - 1) * pitch + bytes ≤ g.scratch
    | .d => (s.ctx? g.ctx).any (fun c => (List.range rows).all (fun j => c.dieHolds (a + j * pitch) bytes))
    | _ => true)
  if ok then none else some (illegalOperand a)

/-- The address that a side of a copy names: a pair or a register. -/
def sideAddr (sp : Space) (ws : List Word) : Nat :=
  if sp == .g then pairAddr (ws.getD 0 0) (ws.getD 1 0) else (ws.getD 0 0).toNat

/-- The words of a side. -/
def sideWords (sp : Space) : Nat := if sp == .g then 2 else 1

/-- A fibre's TCOPY: the command of its operands and its scope; none where the descriptor is illegal (R218). The sources stand
in the order source, descriptor, stage register, destination. -/
def tcopyOf (dir : CopyDir) (post : Option (Fin 8 × Reg)) (l : LaneIn) : Option (CopyCmd × Scope) :=
  let (ds, ss) := dirSpaces dir
  let k := sideWords ss
  let lo := (l.s k).toNat
  let hi := (l.s (k + 1)).toNat
  let stage := (l.s (k + 2)).toNat
  let rest := if post.isSome then k + 3 else k + 2
  let units := lo % 2 ^ 12
  match Scope.ofCode (lo / 2 ^ 24 % 8) with
  | none => none
  | some sc =>
    if units = 0 || 256 < units || lo / 2 ^ 27 ≠ 0 || lo / 2 ^ 20 % 16 ≠ 0 then none
    else some
      ({ dir := dir, dst := sideAddr ds (l.src.drop rest), src := sideAddr ss l.src, rows := lo / 2 ^ 12 % 2 ^ 8 + 1,
         rowBytes := 16 * units, dstPitch := 16 * (hi / 2 ^ 16),
         srcPitch := if dir == .srec then 0 else 16 * (hi % 2 ^ 16),
         row0 := if dir == .srec then hi % 2 ^ 16 else 0,
         post := post.map (fun p => (p.1.val, stage)) }, sc)

/-- Whether a tile lies wholly within the stage to which it posts (R219). -/
def stageHolds (g : Group) (c : CopyCmd) : Bool :=
  match c.post with
  | none => true
  | some (ring, stage) =>
    let r := g.stageRing ring
    stage < r.stages.length && r.base + stage * r.size ≤ c.dst
      && c.dst + (c.rows - 1) * c.dstPitch + c.rowBytes ≤ r.base + (stage + 1) * r.size

/-- The checks of a TCOPY at issue (R206, R218, R219). Where both the destination and the source break a check, the spec does
not say which address the cause holds: the model takes the destination's, here and for COPYA (log 85). -/
def checkTcopy (dir : CopyDir) (post : Option (Fin 8 × Reg)) (s : State) (x : Exec) (l : LaneIn) : Option Cause :=
  match tcopyOf dir post l, s.group? x.w.gid with
  | some (c, _), some g =>
    let (ds, ss) := dirSpaces dir
    if c.dst % 16 ≠ 0 then some (illegalOperand c.dst)
    else if c.src % 16 ≠ 0 then some (illegalOperand c.src)
    else match s.rowsCause g ds c.dst c.rows c.rowBytes c.dstPitch, s.rowsCause g ss c.src c.rows c.rowBytes c.srcPitch with
      | some e, _ => some e
      | none, some e => some e
      | none, none => if stageHolds g c then none else some (illegalOperand c.dst)
  | _, _ => some (illegalOperand)

/-- The commands queued at a core's copy engine. -/
def State.copyQueue (s : State) (core : Nat) : List Op :=
  s.ops.filter (fun o => o.core = core && o.stage = .issued && (match o.kind with | .copy _ => true | _ => false))

/-- The places of a core's copy queue that are free: a command that finds none stalls its bundle (R216). -/
def copyRoom (s : State) (x : Exec) : Option Nat := some (64 - (s.copyQueue (coreOf x.w.wid)).length)

/-- Commands enqueued at the copy engine, one for each executing fibre, in ascending virtual lane (R216). A command of length
0 completes at once (R221). -/
def Exec.enqueueCopies (x : Exec) (s : State) (cmd : LaneIn → Option (CopyCmd × Scope)) : Option State :=
  some (x.lanes.foldl (fun s l =>
    match cmd l with
    | none => s
    | some (c, sc) =>
      if c.bytes = 0 then s.uncount x l
      else
        let (k, s1) := s.fresh
        s1.addOp x l (x.op s1 k l sc (.copy c))) s)

/-- TCOPY (R218 to R220). -/
def meanTcopy (dir : CopyDir) (post : Option (Fin 8 × Reg)) : Meaning where
  check := checkTcopy dir post
  room := copyRoom
  perform x s := x.enqueueCopies s (tcopyOf dir post)

/-- TCOPY (R218 to R220). -/
def execTcopy (g : Guard) (d a desc : Reg) (fs : Bool) (dir : CopyDir) (post : Option (Fin 8 × Reg)) (s : State) :
    Host.Outcome State Fault Refusal :=
  s.issue (.tcopy g d a desc fs dir post) (meanTcopy dir post)

/-- A fibre's COPYA: sources in the order source, length, destination (R221). -/
def copyaOf (dir : CopyDir) (sc : Scope) (l : LaneIn) : CopyCmd × Scope :=
  let (ds, ss) := dirSpaces dir
  let k := sideWords ss
  let n := (l.s k).toNat
  ({ dir := dir, dst := sideAddr ds (l.src.drop (k + 1)), src := sideAddr ss l.src, rows := 1, rowBytes := n, dstPitch := 0,
     srcPitch := 0 }, sc)

/-- The checks of a COPYA at issue (R206, R221, R222). -/
def checkCopya (dir : CopyDir) (s : State) (x : Exec) (l : LaneIn) : Option Cause :=
  let (c, _) := copyaOf dir .fibre l
  let (ds, ss) := dirSpaces dir
  match s.rowsCause x.g ds c.dst 1 c.rowBytes 0 with
  | some e => some e
  | none => s.rowsCause x.g ss c.src 1 c.rowBytes 0

/-- COPYA (R221, R222). -/
def meanCopya (dir : CopyDir) (sc : Scope) : Meaning where
  check := checkCopya dir
  room := copyRoom
  perform x s := x.enqueueCopies s (fun l => some (copyaOf dir sc l))

/-- COPYA (R221, R222). -/
def execCopya (g : Guard) (d a len : Reg) (fs : Bool) (dir : CopyDir) (scope : Scope) (s : State) :
    Host.Outcome State Fault Refusal :=
  s.issue (.copya g d a len fs dir scope) (meanCopya dir scope)

/-! ## The engine -/

/-- The translated ranges of some bytes of a command, row by row. -/
def CopyCmd.ranges (c : CopyCmd) (is : List Nat) : List (Nat × Nat × Access) :=
  let (ds, ss) := dirSpaces c.dir
  is.flatMap (fun i =>
    (if ds == .g then [(c.dstAt i, 1, .write)] else []) ++ (if ss == .g && c.reads i then [(c.srcAt i, 1, .read)] else []))

/-- Whether a source row of a command holds a virtual byte. -/
def CopyCmd.covers (c : CopyCmd) (va : Nat) : Bool :=
  (List.range c.rows).any (fun j => c.src + j * c.srcPitch ≤ va && va < c.src + j * c.srcPitch + c.rowBytes)

/-- Whether a destination byte of a command is also one of its source bytes, by address or through another mapping of the
frame, given the pages that it reads and writes (R219, R221). -/
def CopyCmd.overlaps (c : CopyCmd) (pins wpins : List (Nat × Nat × Nat)) (va : Nat) : Bool :=
  c.dir == .gg && (c.covers va || (match pinned wpins (va % 2 ^ 52) with
    | some (pa, _) => pins.any (fun p => p.2.1 ≤ pa && pa < p.2.1 + 65536 && c.covers (p.1 + (pa - p.2.1)))
    | none => false))

/-- One byte that a command reads. -/
def State.copyRead (s : State) (o : Op) (c : CopyCmd) (i : Nat) : Byte × State :=
  let va := c.srcAt i
  if !c.reads i then (0, s)
  else match (dirSpaces c.dir).2 with
    | .s =>
      match s.group? o.gid with
      | some g =>
        let (bs, s1) := s.readScratch g va 1
        (bs.getD 0 0, s1)
      | none => s.freeByte
    | .d =>
      match s.ctx? o.ctx with
      | some x =>
        let (bs, s1) := s.readDie x va 1
        (bs.getD 0 0, s1)
      | none => (0, s)
    | _ =>
      let (bs, s1) := s.readPinned o.pins [va]
      (bs.getD 0 0, s1)

/-- One byte that a command writes. -/
def State.copyWrite (s : State) (o : Op) (c : CopyCmd) (i : Nat) (b : Byte) : State :=
  let va := c.dstAt i
  match (dirSpaces c.dir).1 with
  | .s =>
    match s.group? o.gid with
    | some g => s.writeScratch g va [b]
    | none => s
  | .d =>
    match s.ctx? o.ctx with
    | some x => (s.writeDie x va [b]).noteUnstaged o.ctx o.node
    | none => s
  | _ => s.writePinned { s.engineAgent o with core := o.core } o.wpins true [(va, b)]

/-- Bytes of a command read from its source, by number, in order. -/
def State.copyReads (s : State) (o : Op) (c : CopyCmd) : List Nat → List (Nat × Byte) × State
  | [] => ([], s)
  | i :: is =>
    let (b, s1) := s.copyRead o c i
    let (bs, s2) := s1.copyReads o c is
    ((i, b) :: bs, s2)

/-- Some bytes of a command copied: all read from the source, then written in order and counted (R216), those that overlap the
source unpredictable (R219, R221); with the bytes as read. -/
def State.copyBytesOf (s : State) (id : Nat) (c : CopyCmd) (is : List Nat) : List (Nat × Byte) × State :=
  match s.op? id with
  | none => ([], s)
  | some o =>
    let reads := if (dirSpaces c.dir).2 == .g then ((is.filter c.reads).map (fun i => c.srcAt i / 64)).eraseDups else []
    let writes := if (dirSpaces c.dir).1 == .g then (is.map (fun i => c.dstAt i / 64)).eraseDups else []
    let (bs, s1) := (s.engineMiss o (reads.length + writes.length)).copyReads o c is
    (bs, bs.foldl (fun s x =>
      let (v, s2) := if c.overlaps o.pins o.wpins (c.dstAt x.1) then s.freeByte else (x.2, s)
      (s2.copyWrite o c x.1 v).onCore o.core (fun k => { k with copyBytes := k.copyBytes + 1 })) s1)

/-- The pages of some bytes of a command pinned, and their sources checked for poison, in a die's SRAM as well (R382, R383, R398):
the state, and whether they may be copied. -/
def State.copyOpen (s : State) (id : Nat) (c : CopyCmd) (is : List Nat) : Bool × State :=
  let (ok, s1) := s.engineOpen id (c.ranges is)
  match s1.op? id with
  | none => (ok, s1)
  | some o =>
    let bad := if (dirSpaces c.dir).2 == .d && ok then
        (s1.ctx? o.ctx).bind (fun x => (is.filter c.reads).findSome? (fun i => s1.diePoison x (c.srcAt i) 1))
      else none
    match bad with
    | none => (ok, s1)
    | some va =>
      let (r, s2) := s1.postFault (s1.engineAgent o) va 7 3 .read
      (false, s2.onOp id (fun o => { o with record := r }))

/-- The bytes of a command that are still to be copied, by number. -/
def CopyCmd.left (c : CopyCmd) : List Nat := (List.range c.bytes).filter (fun i => !c.moved.any (fun m => m.1 = i))

/-- The bytes still to be copied that lie in some aligned 16-byte units of the destination, by the units' numbers. -/
def CopyCmd.unitBytes (c : CopyCmd) (us : List Nat) : List Nat := c.left.filter (fun i => us.contains (c.dstAt i / 16))

/-- The source bytes of a command in order, as it has read them. -/
def CopyCmd.readBytes (c : CopyCmd) (now : List (Nat × Byte)) : List Byte :=
  (List.range c.bytes).map (fun i => (((c.moved ++ now).find? (fun m => m.1 = i)).map Prod.snd).getD 0)

/-- The pages of some addresses as the tables map them. -/
def State.mappedPages (s : State) (cn : Nat) (vas : List Nat) : List (Nat × Nat × Nat) :=
  match s.ctx? cn with
  | none => []
  | some c => ((vas.map (fun va => va % 2 ^ 52 / 65536 * 65536)).eraseDups).filterMap (fun p =>
      match s.walk c p with
      | .leaf e level _ => some (p, leafAddr e level p, pteKey e)
      | .stop .. => none)

/-- Whether a command's destination and source share bytes: then none is written before all are read (R219, R221). -/
def State.copyOverlaps (s : State) (o : Op) (c : CopyCmd) : Bool :=
  c.dir == .gg && (let all := List.range c.bytes
    let src := s.mappedPages o.ctx (all.map c.srcAt)
    let dst := s.mappedPages o.ctx (all.map c.dstAt)
    all.any (fun i => c.overlaps (o.pins ++ src) (o.wpins ++ dst) (c.dstAt i)))

/-- Whether rows of a command's destination share bytes, so that the last row's must remain (R219). -/
def CopyCmd.folds (c : CopyCmd) : Bool := 1 < c.rows && c.dstPitch < c.rowBytes

/-- The shape record of a `.s.rec` command read: base, stride and the rows that M leaves (R220, R293). -/
def State.readShape (s : State) (id : Nat) (c : CopyCmd) : Option CopyCmd × State :=
  let (ok, s1) := s.engineOpen id [(c.src, 16, .read)]
  if !ok then (none, s1)
  else
    let (base, s2) := s1.engineNat id c.src 8
    let (stride, s3) := s2.engineNat id (c.src + 8) 4
    let (m, s4) := s3.engineNat id (c.src + 12) 4
    (some { c with src := (base + c.row0 * stride) % 2 ^ 52, srcPitch := stride, row0 := m - c.row0 }, s4)

/-- The commands that run at a core's copy engine. -/
def State.copiesRunning (s : State) (core : Nat) : Nat :=
  (s.ops.filter (fun o => o.core = core && o.stage = .started && (match o.kind with | .copy _ => true | _ => false))).length

/-- Units copied of a command that has started, where their pages can be had: they are written and counted once (R222). -/
def State.copyEarly (s : State) (o : Op) (c : CopyCmd) (early : List Nat) : State :=
  let is := if early.isEmpty || c.folds || s.copyOverlaps o c then [] else c.unitBytes early
  let (ok, s1) := s.copyOpen o.id c is
  if is.isEmpty then s
  else if !ok then s1
  else
    let (bs, s2) := s1.copyBytesOf o.id c is
    s2.onOp o.id (fun o => { o with kind := .copy { c with moved := c.moved ++ bs } })

/-- Whether the copy of a COPY node may begin: its kvcheck, if it has one, has been made (R338). -/
def State.sourceChecked (s : State) (o : Op) : Bool := o.gid ≠ 0 || (s.node? o.ctx o.node).any Node.checked

/-- COPY_COMMAND_START (R216, R241): the engine of a core starts the first queued command that has been sent to it, if fewer
than 16 run; the 16-byte units named become visible at once, the others at its completion (R240). -/
def execCopyCommandStart (core : Nat) (early : List Nat) (s : State) : Host.Outcome State Fault Refusal :=
  .next (if 16 ≤ s.copiesRunning core then s
    else match (s.copyQueue core).find? (fun o => o.record.isNone && s.sent o && s.sourceChecked o) with
      | none => s
      | some o =>
        match o.kind with
        | .copy c =>
          let (c1, s1) := if c.dir == .srec then s.readShape o.id c else (some c, s)
          match c1 with
          | none => s1
          | some c1 => (s1.onOp o.id (fun o => { o with stage := .started, kind := .copy c1 })).copyEarly o c1 early
        | _ => s)

/-- Whether two commands' destinations share a byte. -/
def CopyCmd.meets (a b : CopyCmd) : Bool :=
  (dirSpaces a.dir).1 == (dirSpaces b.dir).1
    && (List.range a.rows).any (fun i => (List.range b.rows).any (fun j =>
      a.dst + i * a.dstPitch < b.dst + j * b.dstPitch + b.rowBytes && b.dst + j * b.dstPitch < a.dst + i * a.dstPitch + a.rowBytes))

/-- Whether an earlier command of the engine with overlapping destination bytes has still to complete (R216). -/
def State.copyBehind (s : State) (o : Op) (c : CopyCmd) : Bool :=
  s.ops.any (fun a => a.core = o.core && a.id < o.id && a.stage ≠ .done && a.ctx = o.ctx && (match a.kind with
    | .copy d => d.meets c && ((dirSpaces c.dir).1 != .s || a.gid = o.gid)
    | _ => false))

/-- COPY_COMMAND_COMPLETE (R219, R222, R242): a running command's bytes that are left are all written; it posts to its stage and
its flag falls. -/
def execCopyCommandComplete (id : Nat) (s : State) : Host.Outcome State Fault Refusal :=
  .next (match s.op? id with
    | none => s
    | some o =>
      match o.stage, o.kind with
      | .started, .copy c =>
        if o.record.isSome || s.copyBehind o c then s
        else
          let is := c.left
          let (ok, s1) := s.copyOpen id c is
          if !ok then s1
          else
            let (bs, s2) := s1.copyBytesOf id c is
            let s3 := match c.post with
              | some (ring, stage) => s2.postRing o.gid ring stage false
              | none => if c.verify then s2.onOp id (fun o => { o with kind := .copy { c with crc := crc32c (c.readBytes bs) } }) else s2
            s3.endCommand o
      | _, _ => s)

end Sys2Proof.Machine
end

