-- ==== Sys2Proof/Machine/Rename.lean ====
section
/-! DEFINITION. The rename instructions and RNQUERY (R194 to R199, R227 to R229), and the steps RENAME_APPLY and
RENAME_PERFORMED (R196, R197, R386, R387, R417). -/

namespace Sys2Proof.Machine

open Sys2Proof

/-! ## At the instruction -/

/-- The misaligned-rename trap (R355). -/
def misaligned (addr : Nat) : Cause := { cls := 6, addr := addr }

/-- The three pairs of a rename's operands: destination, source, length. -/
def LaneIn.pair (l : LaneIn) (k : Nat) : Nat := pairAddr (l.s k) (l.s (k + 1))

/-- A 64-bit byte count in a pair. -/
def LaneIn.count64 (l : LaneIn) (k : Nat) : Nat := (l.s k).toNat + (l.s (k + 1)).toNat * 2 ^ 32

/-- A range that passes 2^52, or a length that is not below 2^52 (R227). -/
def longRange (va len : Nat) : Bool := 2 ^ 52 ≤ len || 2 ^ 52 < va + len

/-- Whether two ranges share a byte. -/
def rangesMeet (a b len : Nat) : Bool := a < b + len && b < a + len

/-- The misaligned rename of RNMOVE and RNSWAP: ranges not congruent modulo 64 KiB; RNSWAP's that overlap (R194). -/
def checkMove (swap : Bool) (_ : State) (_ : Exec) (l : LaneIn) : Option Cause :=
  let (a, b, n) := (l.pair 0, l.pair 2, l.count64 4)
  if a % 65536 ≠ b % 65536 || longRange a n then some (misaligned a)
  else if longRange b n then some (misaligned b)
  else if swap && rangesMeet a b n then some (misaligned a) else none

/-- The misaligned rename of RNALIAS: addresses and length in whole pages (R194). -/
def checkAlias (_ : State) (_ : Exec) (l : LaneIn) : Option Cause :=
  let (a, b, n) := (l.pair 0, l.pair 2, l.count64 4)
  if a % 65536 ≠ 0 || n % 65536 ≠ 0 || longRange a n then some (misaligned a)
  else if b % 65536 ≠ 0 || longRange b n then some (misaligned b) else none

/-- The misaligned rename of RNDROP and RNFRESH (R194). -/
def checkRange (_ : State) (_ : Exec) (l : LaneIn) : Option Cause :=
  let (a, n) := (l.pair 0, l.count64 2)
  if a % 65536 ≠ 0 || n % 65536 ≠ 0 || longRange a n then some (misaligned a) else none

/-- RNPERM's table: `n` words of the group's scratchpad, as page numbers. -/
def State.permTable (s : State) (g : Group) (at_ n : Nat) : List Nat :=
  let (bs, _) := s.readScratch g at_ (4 * n)
  (List.range n).map (fun i => natOf ((bs.drop (4 * i)).take 4))

/-- RNPERM's checks (R194, R227): the source words stand in the order dst, src, idx, n. -/
def checkPerm (s : State) (x : Exec) (l : LaneIn) : Option Cause :=
  let (d, b, at_, n) := (l.pair 0, l.pair 2, (l.s 4).toNat, (l.s 5).toNat)
  if d % 65536 ≠ 0 || 65536 < n || longRange d (65536 * n) then some (misaligned d)
  else if b % 65536 ≠ 0 then some (misaligned b)
  else if at_ % 4 ≠ 0 || x.g.scratch < at_ + 4 * n then some (illegalOperand at_)
  else match (s.permTable x.g at_ n).find? (fun i => 2 ^ 52 ≤ b + 65536 * i) with
    | some i => some (misaligned (b + 65536 * i))
    | none => none

/-- Renames put in flight, one for each executing fibre, in ascending virtual lane (R228). -/
def renameWith (sc : Scope) (chk : State → Exec → LaneIn → Option Cause) (r : State → Exec → LaneIn → Rename) : Meaning where
  check := chk
  perform x s := some (x.lanes.foldl (fun s l =>
    let (k, s1) := s.fresh
    s1.addOp x l (x.op s1 k l sc (.rename (r s1 x l)))) s)

/-- RNMOVE (R194). -/
def meanRnmove (sc : Scope) : Meaning :=
  renameWith sc (checkMove false) (fun _ _ l => .move (l.pair 0) (l.pair 2) (l.count64 4))

/-- RNMOVE (R194). -/
def execRnmove (g : Guard) (dst src len : Reg) (fs : Bool) (scope : Scope) (s : State) : Host.Outcome State Fault Refusal :=
  s.issue (.rnmove g dst src len fs scope) (meanRnmove scope)

/-- RNSWAP (R194). -/
def meanRnswap (sc : Scope) : Meaning :=
  renameWith sc (checkMove true) (fun _ _ l => .swap (l.pair 0) (l.pair 2) (l.count64 4))

/-- RNSWAP (R194). -/
def execRnswap (g : Guard) (dst src len : Reg) (fs : Bool) (scope : Scope) (s : State) : Host.Outcome State Fault Refusal :=
  s.issue (.rnswap g dst src len fs scope) (meanRnswap scope)

/-- RNALIAS (R194). -/
def meanRnalias (sc : Scope) : Meaning :=
  renameWith sc checkAlias (fun _ _ l => .copyLeaves (l.pair 0) (l.pair 2) (l.count64 4))

/-- RNALIAS (R194). -/
def execRnalias (g : Guard) (dst src len : Reg) (fs : Bool) (scope : Scope) (s : State) : Host.Outcome State Fault Refusal :=
  s.issue (.rnalias g dst src len fs scope) (meanRnalias scope)

/-- RNPERM (R194, R227, R228). -/
def meanRnperm (sc : Scope) : Meaning :=
  renameWith sc checkPerm (fun s x l => .perm (l.pair 0) (l.pair 2) (s.permTable x.g (l.s 4).toNat (l.s 5).toNat))

/-- RNPERM (R194, R227, R228). -/
def execRnperm (g : Guard) (n dst src idx : Reg) (fs : Bool) (scope : Scope) (s : State) :
    Host.Outcome State Fault Refusal :=
  s.issue (.rnperm g n dst src idx fs scope) (meanRnperm scope)

/-- RNDROP (R194). -/
def meanRndrop (sc : Scope) : Meaning := renameWith sc checkRange (fun _ _ l => .drop (l.pair 0) (l.count64 2))

/-- RNDROP (R194). -/
def execRndrop (g : Guard) (va len : Reg) (fs : Bool) (scope : Scope) (s : State) : Host.Outcome State Fault Refusal :=
  s.issue (.rndrop g va len fs scope) (meanRndrop scope)

/-- RNFRESH (R194, R228). -/
def meanRnfresh (sc : Scope) (tier : FreshTier) : Meaning :=
  renameWith sc checkRange (fun _ _ l => .fresh (l.pair 0) (l.count64 2) tier)

/-- RNFRESH (R194, R228). -/
def execRnfresh (g : Guard) (va len : Reg) (fs : Bool) (scope : Scope) (tier : FreshTier) (s : State) :
    Host.Outcome State Fault Refusal :=
  s.issue (.rnfresh g va len fs scope tier) (meanRnfresh scope tier)

/-- RNQUERY (R229): a result that lands later. -/
def meanRnquery : Meaning where
  perform x s := some (x.lanes.foldl (fun s l =>
    let (k, s1) := s.fresh
    s1.addOp x l (x.op s1 k l .fibre (.query (BitVec.ofNat 52 (l.pair 0)) (x.dsts l)))) s)

/-- RNQUERY (R229). -/
def execRnquery (g : Guard) (d va : Reg) (fs : Bool) (s : State) : Host.Outcome State Fault Refusal :=
  s.issue (.rnquery g d va fs) meanRnquery

/-! ## What stands at a level of the tables -/

/-- What the tables hold for an address at a level: a leaf above the level, a leaf at it, nothing, or a table. -/
inductive Side where
  | big | leaf (e : DWord) | absent | table
  deriving DecidableEq, Repr

/-- See `Side`. -/
def State.sideFrom (s : State) (va level : Nat) : List Nat → Nat → Side
  | [], _ => .absent
  | l :: ls, t =>
    let e := s.entryAt (t + 8 * levelIndex va l)
    if !pteValid e then .absent
    else if l = level then (if pteLeaf e then .leaf e else .table)
    else if pteLeaf e then .big
    else s.sideFrom va level ls (tableOf e)

/-- What stands for a page of a context at a level. -/
def State.side (s : State) (cn page level : Nat) : Side :=
  match s.ctx? cn with
  | none => .absent
  | some c => s.sideFrom (page * 65536) level [0, 1, 2, 3] c.root

/-- Whether some of `n` pages from `p` lie in a region of a running node, whose pages are changed one by one (R199). -/
def State.inRegion (s : State) (cn : Nat) (node : VAddr) (p n : Nat) : Bool :=
  match s.node? cn node with
  | none => false
  | some x => x.state = .running && (List.range 6).any (fun i => match x.region i with
      | some (_, q, c) => q < p + n && p < q + c
      | none => false)

/-- How the two sides of a rename of ranges change. -/
inductive PairKind where
  | move | swap | copy
  deriving DecidableEq, Repr

/-- A part of a rename: leaves of one level, at page `d` and page `q`, with the addresses of their entries where they have
one. -/
structure Part where
  level : Nat
  d : Nat
  q : Nat
  da : Option Nat := none
  qa : Option Nat := none
  deriving DecidableEq, Repr

/-- Whether a part may be renamed whole at a level (R195): both ranges hold it at one alignment, and what stands on the two
sides can be exchanged or replaced as one entry. Where a table stands on the destination's side, the leaf takes the place of
the entry that leads to it: R195 renames the leaf whole, and R417 says no more than that the table page is never freed (log
78). -/
def State.wholeAt (s : State) (cn : Nat) (node : VAddr) (k : PairKind) (d q n level : Nat) : Bool :=
  let m := levelPages level
  d % m = 0 && q % m = 0 && m ≤ n && !s.inRegion cn node d m && !s.inRegion cn node q m
    && (match k, s.side cn q level, s.side cn d level with
      | _, .table, .table => false
      | .swap, .table, .absent => false
      | .swap, .absent, .table => false
      | .swap, _, _ => true
      | _, .table, _ => false
      | _, .absent, .table => false
      | _, _, _ => true)

/-- The level at which the part at two pages is renamed. -/
def State.partLevel (s : State) (cn : Nat) (node : VAddr) (k : PairKind) (d q n : Nat) : Nat :=
  ([1, 2].find? (s.wholeAt cn node k d q n)).getD 3

/-- The tables of a part made down to its level, with every split that it needs: none where a table page is missing. -/
def State.openPart (s : State) (cn : Nat) (k : PairKind) (level d q : Nat) : Option Part × State :=
  let src := s.side cn q level
  let dst := s.side cn d level
  let p : Part := { level := level, d := d, q := q }
  let needD : Bool := match k, src with
    | _, .leaf _ => true | _, .big => true | _, .table => true
    | _, .absent => dst != .absent
  let needQ : Bool := match k with
    | .swap => src != .absent || dst != .absent
    | _ => src != .absent
  let (da, s1) := if needD then
      (match s.entryFor cn (d * 65536) level with
        | (some a, s') => (some (some a), s')
        | (none, s') => (none, s'))
    else (some none, s)
  match da with
  | none => (none, s1)
  | some da =>
    if !needQ then (some { p with da := da }, s1)
    else match s1.entryFor cn (q * 65536) level with
      | (none, s2) => (none, s2)
      | (some a, s2) => (some { p with da := da, qa := some a }, s2)

/-- The parts of a rename of `n` pages, at most `fuel` of them. -/
def State.openParts (s : State) (cn : Nat) (node : VAddr) (k : PairKind) : Nat → Nat → Nat → Nat → Option (List Part) × State
  | 0, _, _, _ => (some [], s)
  | fuel + 1, d, q, n =>
    if n = 0 then (some [], s)
    else
      let level := s.partLevel cn node k d q n
      match s.openPart cn k level d q with
      | (none, s1) => (none, s1)
      | (some p, s1) =>
        let m := levelPages level
        match s1.openParts cn node k fuel (d + m) (q + m) (n - m) with
        | (none, s2) => (none, s2)
        | (some ps, s2) => (some (p :: ps), s2)

/-- The parts of a rename whose ranges may overlap, found again until no further leaf is split. -/
def State.settleParts (s : State) (cn : Nat) (node : VAddr) (k : PairKind) (d q n : Nat) : Nat → Option (List Part) × State
  | 0 => s.openParts cn node k n d q n
  | fuel + 1 =>
    match s.openParts cn node k n d q n with
    | (none, s1) => (none, s1)
    | (some ps, s1) => if s1.mem = s.mem then (some ps, s1) else s1.settleParts cn node k d q n fuel

/-! ## Edits of entries -/

/-- A new value for an entry: its address, its page and level, and the value. -/
structure Edit where
  at_ : Nat
  page : Nat
  level : Nat
  e : DWord
  deriving DecidableEq, Repr

/-- Edits with one more, which replaces an earlier one of the same entry. -/
def putEdit (es : List Edit) (x : Edit) : List Edit := es.filter (fun y => y.at_ ≠ x.at_) ++ [x]

/-- The leaves below an entry that is a table, made invalid, as edits. -/
def State.clearBelow (s : State) (at_ page level : Nat) : List Edit :=
  let e := s.entryAt at_
  if pteValid e && !pteLeaf e then
    (s.leavesFrom ([1, 2, 3].filter (fun l => level < l)) (tableOf e)).map (fun x =>
      { at_ := x.1, page := page, level := x.2.1, e := 0 })
  else []

/-- What an entry holds; 0 where there is none. -/
def State.entryOr (s : State) (a : Option Nat) : DWord := (a.map s.entryAt).getD 0

/-- The edits of a rename of two ranges: first those of the sources, then those of the destinations, which hold (R194). -/
def State.pairEdits (s : State) (k : PairKind) (ps : List Part) : List Edit :=
  let src := ps.flatMap (fun p => match k, p.qa with
    | .move, some a => [({ at_ := a, page := p.q, level := p.level, e := 0 } : Edit)]
    | .swap, some a => [{ at_ := a, page := p.q, level := p.level, e := s.entryOr p.da }]
    | _, _ => [])
  let below := if k = .swap then [] else ps.flatMap (fun p => match p.da with
    | some a => s.clearBelow a p.d p.level
    | none => [])
  let dst := ps.filterMap (fun p => p.da.map (fun a =>
    ({ at_ := a, page := p.d, level := p.level, e := s.entryOr p.qa } : Edit)))
  (src ++ below ++ dst).foldl putEdit []

/-- Whether an entry is a valid leaf of tier 0 or 1, whose frame unit is counted. -/
def counted (e : DWord) : Bool := pteValid e && pteLeaf e && pteTier e < 2

/-- A change of a leaf by a node's rename outside the pages that the node has staged: an unstaged write (R257). -/
def State.noteEdit (s : State) (cn : Nat) (node : VAddr) (x : Edit) : State :=
  let inside := (s.node? cn node).any (fun n => (n.regionOf x.page).isSome)
  match s.ctx? cn with
  | some c =>
    if c.staged.any (fun g => g.page = x.page && g.node = node) || (inside && !pteValid (s.entryAt x.at_)) then s
    else s.noteUnstaged cn node
  | none => s

/-- The pages of some edits of which a node's rename is the first write staged as any first write stages them (R199, R256);
none where a pool cannot supply a frame. -/
def State.stageEdits (s : State) (cn : Nat) (node : VAddr) (core : Nat) : List Edit → Option State
  | [] => some s
  | x :: xs =>
    match (if s.entryAt x.at_ = x.e then none else s.mustStage cn node x.page) with
    | none => s.stageEdits cn node core xs
    | some kind => (s.stageNow cn node core x.page kind).bind (fun s1 => s1.stageEdits cn node core xs)

/-- The numbers of the units that some leaves, each with its level, map. -/
def Ctx.unitsOf (c : Ctx) (ls : List (DWord × Nat)) : List Nat :=
  ls.flatMap (fun x => (c.units x.1 x.2).map (fun u => unitOf (pteTier x.1) u.1))

/-- Entries edited together: every unit gains the counts of its new leaves before any loses those of its old ones, so that no
frame passes through the pool (R192, R194). -/
def State.applyEdits (s : State) (cn : Nat) (node : VAddr) (es : List Edit) : State :=
  let es := es.filter (fun x => s.entryAt x.at_ ≠ x.e)
  let old := (es.map (fun x => (s.entryAt x.at_, x.level))).filter (fun o => counted o.1)
  let new := (es.map (fun x => (x.e, x.level))).filter (fun o => counted o.1)
  let units := ((s.ctx? cn).map (fun c => c.unitsOf (old ++ new))).getD []
  let s1 := es.foldl (fun s x => s.noteEdit cn node x) s
  let s2 := new.foldl (fun s x => s.onCtx cn (fun c => c.gain x.1 x.2)) s1
  let s3 := es.foldl (fun s x => s.setEntry cn x.at_ x.e) s2
  (old.foldl (fun s o => s.loseCount cn o.1 o.2) s3).reshare cn units.eraseDups

/-- The tier of a unit of a context whose count is above 255, if any (R192). -/
def State.overCount (s : State) (cn : Nat) : Option Nat :=
  match s.ctx? cn with
  | none => none
  | some c => (c.counts.find? (fun x => 255 < x.2)).map (fun x => x.1 / 2 ^ 32)

/-! ## Fresh pages -/

/-- The tier of a page's fresh frame (R194, R228). -/
def freshTierOf (t : FreshTier) (e : DWord) : Nat :=
  match t with
  | .hbm => 0
  | .lpddr => 1
  | .asEntry => if counted e then pteTier e else 0

/-- The leaf of a fresh frame: R and W set, with the context's key. -/
def freshLeaf (tier frame key : Nat) : DWord :=
  BitVec.ofNat 64 (1 + 4 + 8 + 16 + tier * 2 ^ 6 + key % 1024 * 2 ^ 10 + frame * 2 ^ 20)

/-- The entries of `n` pages at level 3; none where a table page is missing. -/
def State.openPages (s : State) (cn : Nat) : Nat → Nat → Option (List Nat) × State
  | _, 0 => (some [], s)
  | p, n + 1 =>
    match s.entryFor cn (p * 65536) 3 with
    | (none, s1) => (none, s1)
    | (some a, s1) =>
      match s1.openPages cn (p + 1) n with
      | (none, s2) => (none, s2)
      | (some as, s2) => (some (a :: as), s2)

/-- A frame taken for each of some entries: the edits, and the tier that has none left. -/
def State.takeFresh (s : State) (cn : Nat) (t : FreshTier) : Nat → List Nat → Except Nat (List Edit) × State
  | _, [] => (.ok [], s)
  | page, a :: as =>
    let tier := freshTierOf t (s.entryAt a)
    match (s.ctx? cn).bind (fun c => (c.takeFrame tier).map (fun r => (r.1, r.2, c.key))) with
    | none => (.error tier, s)
    | some (f, c1, key) =>
      let s1 := (s.onCtx cn (fun _ => c1)).scramble (tierBase tier 0 + f * 65536)
      match s1.takeFresh cn t (page + 1) as with
      | (.error x, s2) => (.error x, s2)
      | (.ok es, s2) => (.ok ({ at_ := a, page := page, level := 3, e := freshLeaf tier f key } :: es), s2)

/-- The leaves of `n` pages made invalid, whole where they lie in the range: the edits (R194, R195). -/
def State.dropParts (s : State) (cn : Nat) (node : VAddr) : Nat → Nat → Nat → Option (List Edit) × State
  | 0, _, _ => (some [], s)
  | fuel + 1, p, n =>
    if n = 0 then (some [], s)
    else
      let fits (level : Nat) : Bool :=
        let m := levelPages level
        p % m = 0 && m ≤ n && !s.inRegion cn node p m && s.side cn p level != .table
      let level := ([1, 2].find? fits).getD 3
      let m := levelPages level
      if s.side cn p level = .absent then s.dropParts cn node fuel (p + m) (n - m)
      else match s.entryFor cn (p * 65536) level with
        | (none, s1) => (none, s1)
        | (some a, s1) =>
          match s1.dropParts cn node fuel (p + m) (n - m) with
          | (none, s2) => (none, s2)
          | (some es, s2) => (some ({ at_ := a, page := p, level := level, e := 0 } :: es), s2)

/-! ## RENAME_APPLY -/

/-- The bytes of a range outside its whole pages, as (offset, bytes): the head and the tail (R195). -/
def edgePieces (va len : Nat) : List (Nat × Nat) :=
  let head := min len ((65536 - va % 65536) % 65536)
  let tail := min (len - head) ((va + len) % 65536)
  [(0, head), (len - tail, tail)].filter (fun p => p.2 ≠ 0)

/-- The pieces that a rename copies: offset and bytes. -/
def Rename.pieces : Rename → List (Nat × Nat)
  | .move d _ n => edgePieces d n
  | .swap a _ n => edgePieces a n
  | _ => []

/-- The two sides of a rename's pieces, destination first. -/
def Rename.sides : Rename → Nat × Nat
  | .move d q _ => (d, q)
  | .swap a b _ => (a, b)
  | _ => (0, 0)

/-- The opcode of a rename and the start of its range, for the error log (R406). -/
def Rename.origin : Rename → Nat × Nat
  | .move d _ _ => (0x90, d)
  | .swap a _ _ => (0x91, a)
  | .copyLeaves d _ _ => (0x92, d)
  | .perm d _ _ => (0x93, d)
  | .drop va _ => (0x94, va)
  | .fresh va _ _ => (0x95, va)

/-- The leaves of a rename edited: the state, or the reason (1 pool empty, 2 count above 255) and tier of its failure, with
the splits and tables made until then (R386, R387). -/
def State.editTables (s : State) (cn : Nat) (node : VAddr) (core : Nat) (r : Rename) : Except (Nat × Nat) State × State :=
  let staged (s1 : State) (es : List Edit) (k : State → Except (Nat × Nat) State × State) :
      Except (Nat × Nat) State × State :=
    match s1.stageEdits cn node core es with
    | none => (.error (1, 0), s1)
    | some s2 =>
      match k s2 with
      | (.error x, _) => (.error x, s1)
      | ok => ok
  let finish (s1 : State) (es : List Edit) : Except (Nat × Nat) State × State :=
    let s2 := s1.applyEdits cn node es
    match s2.overCount cn with
    | some t => (.error (2, t), s1)
    | none => (.ok s2, s2)
  let pair (k : PairKind) (d q n : Nat) : Except (Nat × Nat) State × State :=
    match s.settleParts cn node k d q n n with
    | (none, s1) => (.error (1, 0), s1)
    | (some ps, s1) => staged s1 (s1.pairEdits k ps) (fun s2 => finish s2 (s2.pairEdits k ps))
  match r with
  | .move d q n => pair .move (wholePages d n).1 (wholePages q n).1 (wholePages d n).2
  | .swap a b n => pair .swap (wholePages a n).1 (wholePages b n).1 (wholePages a n).2
  | .copyLeaves d q n => pair .copy (d / 65536) (q / 65536) (n / 65536)
  | .perm d q idx =>
    match s.openPages cn (d / 65536) idx.length with
    | (none, s1) => (.error (1, 0), s1)
    | (some as, s1) =>
      let go := idx.foldl (fun (acc : Option (List (Option Nat)) × State) i =>
        match acc.1 with
        | none => acc
        | some qs =>
          if acc.2.side cn (q / 65536 + i) 3 = .absent then (some (qs ++ [none]), acc.2)
          else match acc.2.entryFor cn (q + 65536 * i) 3 with
            | (none, s') => (none, s')
            | (some a, s') => (some (qs ++ [some a]), s')) (some [], s1)
      match go with
      | (none, s2) => (.error (1, 0), s2)
      | (some qs, s2) =>
        let edits (s : State) : List Edit := ((List.range idx.length).zip (as.zip qs)).map (fun x =>
          { at_ := x.2.1, page := d / 65536 + x.1, level := 3, e := s.entryOr x.2.2 })
        staged s2 (edits s2) (fun s3 => finish s3 (edits s3))
  | .drop va n =>
    match s.dropParts cn node (n / 65536) (va / 65536) (n / 65536) with
    | (none, s1) => (.error (1, 0), s1)
    | (some es, s1) => staged s1 es (fun s2 => finish s2 es)
  | .fresh va n t =>
    match s.openPages cn (va / 65536) (n / 65536) with
    | (none, s1) => (.error (1, 0), s1)
    | (some as, s1) =>
      let pages : List Edit := ((List.range as.length).zip as).map (fun x =>
        { at_ := x.2, page := va / 65536 + x.1, level := 3, e := 0 })
      staged s1 pages (fun s2 =>
        match s2.takeFresh cn t (va / 65536) as with
        | (.error tier, s3) => (.error (1, tier), s3)
        | (.ok es, s3) => finish s3 es)

/-- Whether the walker may apply a rename: every earlier access of its fibre has been performed, and every earlier rename of
the fibre, and of a lower virtual lane of the same instruction, applied (R196, R228, R243). -/
def State.renameDue (s : State) (o : Op) : Bool :=
  s.ops.all (fun a => !(a.id ≠ o.id && a.before o && (match a.kind with
    | .rename _ => a.stage = .issued
    | _ => a.fid = o.fid && a.isAccess)))

/-- What a rename's pieces read and write (R195). -/
def Rename.pieceRanges (r : Rename) : List (Nat × Nat × Access) :=
  let (a, b) := r.sides
  match r with
  | .swap .. => r.pieces.flatMap (fun p =>
      [(a + p.1, p.2, .read), (b + p.1, p.2, .read), (a + p.1, p.2, .write), (b + p.1, p.2, .write)])
  | _ => r.pieces.flatMap (fun p => [(b + p.1, p.2, .read), (a + p.1, p.2, .write)])

/-- Bytes of pieces written and counted (R216). A piece of an overlapping RNMOVE can lie on a page that is also a whole source
page: R194 makes that leaf invalid and also says that the page stays mapped; the model takes the first, so that the moved
page keeps its bytes, and those of the piece go nowhere (log 79). -/
def State.writePieces (s : State) (id core : Nat) (r : Rename) (va : Nat) : List ((Nat × Nat) × List Byte) → State
  | [] => s
  | (p, bs) :: rest =>
    let at_ := va + p.1
    let changed := r.ranges.any (fun x => x.1 ≤ at_ / 65536 && at_ / 65536 < x.1 + x.2)
    let s1 := if changed then s else s.engineWrite id at_ bs
    (s1.onCore core (fun k => { k with copyBytes := k.copyBytes + BitVec.ofNat 64 p.2 })).writePieces id core r va rest

/-- The bytes of a rename's pieces on one side. -/
def State.readPieces (s : State) (id va : Nat) : List (Nat × Nat) → List ((Nat × Nat) × List Byte) × State
  | [] => ([], s)
  | p :: ps =>
    let (bs, s1) := s.engineRead id (va + p.1) p.2
    let (rest, s2) := s1.readPieces id va ps
    ((p, bs) :: rest, s2)

/-- One rename applied (R194 to R196): its pieces read, its leaves edited, and the pieces written; a rename that fails is
logged and leaves tables and bytes as they stood, but for the splits and tables that it had made (R386). -/
def State.applyRename (s : State) (o : Op) (r : Rename) : State :=
  let (a, b) := r.sides
  let (src, s1) := s.readPieces o.id b r.pieces
  let (dst, s2) := match r with
    | .swap .. => s1.readPieces o.id a r.pieces
    | _ => ([], s1)
  match s2.editTables o.ctx o.node o.core r with
  | (.ok s3, _) => ((s3.writePieces o.id o.core r a src).writePieces o.id o.core r b dst)
  | (.error (why, tier), s3) =>
    s3.log { type := 0x0B, severity := 0, source := dieOf o.core, ctx := some o.ctx, place := placeOf o.wid,
             node := o.node.toNat, addr := r.origin.2, detail := [r.origin.1, why, tier] }

/-- RENAME_APPLY (R196): the walker applies a rename whose pieces can be had. -/
def execRenameApply (id : Nat) (s : State) : Host.Outcome State Fault Refusal :=
  .next (match s.op? id with
    | none => s
    | some o =>
      match o.kind, o.stage with
      | .rename r, .issued =>
        if o.record.isSome || !s.renameDue o then s
        else
          let (ok, s1) := s.engineOpen id r.pieceRanges
          if !ok then s1
          else ((s1.applyRename o r).onOp id (fun o => { o with stage := .started })).advanceClock 1
      | _, _ => s)

/-! ## RENAME_PERFORMED -/

/-- The caches of translations that a scope takes in, for an operation (R197). The issuing die's cache is dropped at every
scope, so that no core of the scope takes the old leaf from it. -/
def State.scopeReach (s : State) (o : Op) (p : TlbPlace) : Bool :=
  match o.scope, p with
  | .fibre, .core n => n = o.core
  | .group, .core n => n = o.core || (s.group? o.gid).any (fun g => g.shares.any (fun h => h.core = n))
  | .die, .core n => dieOf n = dieOf o.core
  | .fibre, .die d => d = dieOf o.core
  | .group, .die d => d = dieOf o.core
  | .die, .die d => d = dieOf o.core
  | .device, .core _ => true
  | .device, .die _ => true
  | .system, _ => true
  | _, .hub _ => false

/-- Whether an access in flight still uses an old leaf of some pages of a context (R197). -/
def State.oldLeafUsed (s : State) (id cn : Nat) (rs : List (Nat × Nat)) : Bool :=
  match s.ctx? cn with
  | none => false
  | some c => s.ops.any (fun a => a.id ≠ id && a.ctx = cn && a.stage ≠ .done && (a.pins ++ a.wpins).any (fun p =>
      rs.any (fun r => r.1 ≤ p.1 / 65536 && p.1 / 65536 < r.1 + r.2) && s.stalePin c p))

/-- RENAME_PERFORMED (R197, R380): every earlier access of the fibre is performed and no access in flight uses an old leaf;
the caches of the scope drop the range, faults that the rename has served may be resolved, and the flag falls. -/
def execRenamePerformed (id : Nat) (s : State) : Host.Outcome State Fault Refusal :=
  .next (match s.op? id with
    | none => s
    | some o =>
      match o.kind, o.stage with
      | .rename r, .started =>
        if !s.releasable o || s.oldLeafUsed id o.ctx r.ranges then s
        else
          let s1 := r.ranges.foldl (fun s x => s.dropTlb (s.scopeReach o) o.ctx x.1 x.2) s
          let s2 := s1.dueFaults (fun f => f.ctx = o.ctx && (f.cause = 1 || f.cause = 3)
            && r.ranges.any (fun x => x.1 ≤ f.page && f.page < x.1 + x.2) && s.scopeReach o (.core (f.place % 512)))
          s2.endCommand o
      | _, _ => s)

end Sys2Proof.Machine
end

