-- ==== Sys2Proof/Machine/Matrix.lean ====
section
/-! DEFINITION. The matrix engine: CVSET, CVSIGN and the matrix instructions, the arithmetic of a piece, and the steps
MATRIX_ENGINE_START and MATRIX_OP_FINISH (R112, R245, R267 to R288). -/

namespace Sys2Proof.Machine

open Sys2Proof

/-! ## Elements and pieces (R268, R269, R271 to R275) -/

/-- Elements of a register (R268). -/
def fmtPer : MmaFmt → Nat
  | .bf16 => 2 | .fp16 => 2 | .e4m3 => 4 | .e5m2 => 4 | .e2m1 => 8 | .int8 => 4 | .int4 => 8

/-- The floating-point format of the elements; none for the integer formats. -/
def fmtFloat : MmaFmt → Option FFmt
  | .bf16 => some bf16 | .fp16 => some fp16 | .e4m3 => some e4m3 | .e5m2 => some e5m2 | .e2m1 => some e2m1
  | .int8 => none | .int4 => none

/-- The words of a fragment set: the lane at which they stand, and the words of A, B and the scale pair. -/
structure Frag where
  vlane : Nat
  a : List Word
  b : List Word
  sc : List Word
  deriving DecidableEq, Repr

/-- One word of a list of fragments: 0 where no fibre gives the lane. -/
def fragWord (fs : List Frag) (which : Frag → List Word) (lane j : Nat) : Word :=
  match fs.find? (fun f => f.vlane = lane) with
  | some f => (which f).getD j 0
  | none => 0

/-- Element `k` of row or column `i` of an operand (R269). -/
def element (fmt : MmaFmt) (fs : List Frag) (which : Frag → List Word) (i k : Nat) : Nat :=
  let p := fmtPer fmt
  let half := 4 * p
  let w := (fragWord fs which (i + 16 * (k / half)) (k % half / p)).toNat
  w / 2 ^ (32 / p * (k % p)) % 2 ^ (32 / p)

/-- An integer element (R74, R272). -/
def intElement (bits v : Nat) : Int := if 2 ^ (bits - 1) ≤ v then (v : Int) - 2 ^ bits else v

/-- The E8M0 scale of element `k` of row or column `i`, for blocks of `blk` elements (R273, R274): 1.0 at a lane that gives
none. -/
def scaleByte (fs : List Frag) (which p blk i k : Nat) : Nat :=
  let n := i + 16 * (k / blk)
  match fs.find? (fun f => f.vlane = n % 32) with
  | some f => (f.sc.getD which 0).toNat / 2 ^ (8 * ((p + n / 32) % 4)) % 256
  | none => 127

/-- The block length of a code (R268). -/
def blockOf (c : Fin 4) : Nat := 16 * 2 ^ c.val

/-- The exact scaled product of two elements: a NaN where a factor or a scale is one, or for ∞ × 0 (R271, R274). -/
def scaledProduct (f : FFmt) (a b : Nat) (sa sb : Nat) : FV :=
  if sa = 255 || sb = 255 then .nan false
  else match f.read a, f.read b with
    | .nan _, _ => .nan false
    | _, .nan _ => .nan false
    | x, y =>
      match x.mul y with
      | none => .nan false
      | some (.num s m e) => .num s m (e + sa - 127 + sb - 127)
      | some v => v

/-- The sum of terms as the engine forms it: each truncated to the grid of the largest, the exact sum rounded once
(R271). -/
def mmaSum (ts : List FV) : Word :=
  let plus := ts.any (fun v => v == .inf false)
  let minus := ts.any (fun v => v == .inf true)
  if ts.any FV.isNan || (plus && minus) then 0x7FC00000
  else if plus then 0x7F800000
  else if minus then 0xFF800000
  else
    let nz := ts.filterMap (fun v => match v with
      | .num s m e => if m = 0 then none else some (s, m, e)
      | _ => none)
    match nz with
    | [] => if ts.all (fun v => match v with | .num s _ _ => s | _ => false) then 0x80000000 else 0
    | (_, m0, e0) :: rest =>
      let top := rest.foldl (fun t x => max t ((bitLen x.2.1 : Int) - 1 + x.2.2)) ((bitLen m0 : Int) - 1 + e0)
      let q := top - 40
      let part (x : Bool × Nat × Int) : Int :=
        signed x.1 (if q ≤ x.2.2 then x.2.1 * 2 ^ (x.2.2 - q).toNat else x.2.1 / 2 ^ (q - x.2.2).toNat)
      let sum := nz.foldl (fun a x => a + part x) 0
      if sum = 0 then 0 else BitVec.ofNat 32 (fp32.round .rne 0 (sum < 0) sum.natAbs q).bits

/-- The scaled product of element k of A's row i and of B's column j. -/
def termOf (f : FFmt) (fmt : MmaFmt) (fa fb : List Frag) (sc : Option MmaScale) (i j k : Nat) : FV :=
  let (sa, sb) := match sc with
    | some s => (scaleByte fa 0 s.p.val (blockOf s.sa) i k, scaleByte fb 1 s.p.val (blockOf s.sb) j k)
    | none => (127, 127)
  scaledProduct f (element fmt fa Frag.a i k) (element fmt fb Frag.b j k) sa sb

/-- The depth of a piece (R268). -/
def fmtDepth (fmt : MmaFmt) : Nat := 8 * fmtPer fmt

/-- One piece: the tile's 256 words, by row, after it (R271, R272). -/
def mmaPiece (fmt : MmaFmt) (fa fb : List Frag) (sc : Option MmaScale) (c : List Word) : List Word :=
  (List.range 256).map (fun o =>
    let (i, j) := (o / 16, o % 16)
    match fmtFloat fmt with
    | some f => mmaSum (fp32.read (c.getD o 0).toNat :: (List.range (fmtDepth fmt)).map (termOf f fmt fa fb sc i j))
    | none =>
      BitVec.ofInt 32 ((List.range (fmtDepth fmt)).foldl (fun t k =>
        t + intElement (32 / fmtPer fmt) (element fmt fa Frag.a i k) * intElement (32 / fmtPer fmt) (element fmt fb Frag.b j k))
        ((c.getD o 0).toNat : Int)))

/-- The checksum tile of a piece after it (R275): row 0 takes the column sums of the product, row 1 the row sums. -/
def checkPiece (fmt : MmaFmt) (fa fb : List Frag) (sc : Option MmaScale) (c : List Word) : List Word :=
  match fmtFloat fmt with
  | none => c
  | some f =>
    (List.range 256).map (fun o =>
      let old := fp32.read (c.getD o 0).toNat
      let ks := List.range (fmtDepth fmt)
      if o / 16 = 0 then
        mmaSum (old :: (List.range 16).flatMap (fun i => ks.map (termOf f fmt fa fb sc i (o % 16))))
      else if o / 16 = 1 then
        mmaSum (old :: (List.range 16).flatMap (fun j => ks.map (termOf f fmt fa fb sc (o % 16) j)))
      else c.getD o 0)

/-! ## Tiles (R189, R202, R245) -/

/-- The 256 words of a group's tile on a core; a tile that it does not hold reads 0. -/
def State.readTile (s : State) (g : Group) (core n : Nat) : List Word × State :=
  match (g.tilesOn core)[n]? with
  | none => (List.replicate 256 0, s)
  | some t =>
    let (bs, s1) := s.readBytes g.ctx (tileBase core t) 1024
    (wordsOfBytes bs, s1)

/-- Words written to a group's tile; its contents are unpredictable while a forbidden access has spoiled it (R245). -/
def State.writeTile (s : State) (g : Group) (core n : Nat) (ws : List Word) : State :=
  match (g.tilesOn core)[n]? with
  | none => s
  | some t =>
    if g.uses.any (fun u => u.spoiled && u.core = core && u.tiles.contains n) then s.freeTile g core n
    else s.writeBytes g.ctx (tileBase core t) (ws.flatMap bytesOfWord)

/-- The tiles that an operation names (R270). -/
def MatOp.tiles : MatOp → List Nat
  | .mma n _ ck side _ _ =>
    let t := if side ≤ 1 then 1 else side * side
    (List.range (if ck then 2 * t else t)).map (fun i => n + i)
  | .accz n c => (List.range c).map (fun i => n + i)
  | .accmv n _ _ _ _ _ => [n]
  | .accst n _ _ _ _ _ _ _ _ => [n]
  | .accld n _ _ _ _ => [n]

/-- The illegal operand of a tile number at or beyond the group's tiles on the core (R189, R270). -/
def tileCheck (last : Nat) (w : Warp) (g : Group) (_ : Fibre) : Option Cause :=
  if last < (g.tilesOn (coreOf w.wid)).length then none else some (illegalOperand)

/-- Spans opened on tiles: where another warp's open span holds one of the tiles, both are spoiled and the tile is
unpredictable (R245, R286). -/
def State.openUses (s : State) (gid : Nat) (wids : List Nat) (new : List TileUse) : State :=
  match s.group? gid with
  | none => s
  | some g =>
    let other (u : TileUse) : Bool := !wids.contains u.wid && new.any (fun v => v.core = u.core && v.tiles.any u.tiles.contains)
    let bad := (g.uses.filter other).flatMap (fun u => u.tiles.filter (fun t => new.any (fun v => v.tiles.contains t)))
    let core := (new.head?.map TileUse.core).getD 0
    let spoil (u : TileUse) : TileUse := if u.core = core && u.tiles.any bad.contains then { u with spoiled := true } else u
    let s1 := s.onGroup gid (fun g => { g with uses := (g.uses ++ new).map spoil })
    bad.eraseDups.foldl (fun s t => s.freeTile g core t) s1

/-- The spans of some fibres closed. -/
def State.closeUses (s : State) (gid : Nat) (p : TileUse → Bool) : State :=
  s.onGroup gid (fun g => { g with uses := g.uses.filter (fun u => !p u) })

/-! ## The queue (R286, R287) -/

/-- Whether an operation is a matrix operation. -/
def Op.matrix? (o : Op) : Option MatOp :=
  match o.kind with
  | .matrix m => some m
  | _ => none

/-- Whether the queue of a warp's quadrant is full: 4 instructions (R287). -/
def State.quadFull (s : State) (wid : Nat) : Bool :=
  4 ≤ (s.ops.filter (fun o => o.matrix?.isSome && o.stage = .issued && coreOf o.wid = coreOf wid
    && quadOf o.wid = quadOf wid)).length

/-- The positions of a run of `n` registers for a fibre: none for vz. -/
def Group.runPlaces (g : Group) (base : Nat) (r : Reg) (n : Nat) : List Nat := g.places base ((List.range n).map (regPlus r))

/-- One matrix operation of a bundle put into the queue. -/
def Exec.enqueue (x : Exec) (s : State) (m : MatOp) : State := x.bundleOp s .device (.matrix m)

/-- The spans of an instruction's fibres on its tiles. -/
def Exec.spans (x : Exec) (tiles : List Nat) (regs : LaneIn → List Nat) : List TileUse :=
  x.lanes.map (fun l => { fid := l.f.id, wid := x.w.wid, core := coreOf x.w.wid, cv := none, tiles := tiles, regs := regs l })

/-- A join on tiles (R245): it closes its fibres' spans there, and opens its own. -/
def Exec.join (x : Exec) (s : State) (m : MatOp) : Option State :=
  if s.quadFull x.w.wid then none
  else
    let mine := x.lanes.map (fun l => l.f.id)
    let s1 := s.closeUses x.w.gid (fun u => mine.contains u.fid && u.tiles.any m.tiles.contains)
    some ((x.enqueue s1 m).openUses x.w.gid [x.w.wid] (x.spans m.tiles (fun _ => [])))

/-! ## MMA -/

/-- MMA (R270): the bundle's operation, with the fragments of its members. -/
def meanMma (tile : BitVec 8) (a b : Reg) (sc : Option MmaScale) (ck : Bool) (fmt : MmaFmt) : Meaning where
  static := tileCheck (tile.toNat + if ck then 1 else 0)
  perform x s :=
    if s.quadFull x.w.wid then none
    else
      let scale (l : LaneIn) : List Nat := match sc with
        | some p => x.g.runPlaces l.base p.pair 2
        | none => []
      let frag (l : LaneIn) : Signature :=
        { fid := l.f.id, wid := x.w.wid, lane := l.f.lane, vlane := l.vlane, a := x.g.runPlaces l.base a 4,
          b := x.g.runPlaces l.base b 4, sc := scale l }
      let frags := x.lanes.map frag
      let m : MatOp := .mma tile.toNat fmt ck 1 frags sc
      some ((x.enqueue s m).openUses x.w.gid [x.w.wid]
        (x.spans m.tiles (fun l => x.g.runPlaces l.base a 4 ++ x.g.runPlaces l.base b 4 ++ scale l)))

/-- MMA (R270 to R275). -/
def execMma (g : Guard) (tile : BitVec 8) (a b : Reg) (sc : Option MmaScale) (ck : Bool) (fmt : MmaFmt) (s : State) :
    Host.Outcome State Fault Refusal :=
  s.issue (.mma g tile a b sc ck fmt) (meanMma tile a b sc ck fmt)

/-! ## Convergence registers (R39, R112, R276 to R278) -/

/-- A convergence register of a group. -/
def Group.conv (g : Group) (cv : Nat) : Conv := sget {} g.convs cv

/-- The group with a convergence register changed. -/
def Group.setConv (g : Group) (cv : Nat) (c : Conv) : Group := { g with convs := sset {} g.convs cv c }

/-- The illegal operand of an unset register (R39), as the group stands now. -/
def checkSet (cv : Nat) (s : State) (x : Exec) (_ : LaneIn) : Option Cause :=
  match s.group? x.w.gid with
  | some g => if (g.conv cv).size = 0 then some (illegalOperand) else none
  | none => none

/-- CVSET (R112, R276): the set size of the highest virtual lane holds. -/
def meanCvset (cv : Fin 16) : Meaning where
  check s x l :=
    let n := (l.s 0).toNat % 4096
    let open_ := match s.group? x.w.gid with
      | some g => !(g.conv cv.val).sigs.isEmpty || (g.conv cv.val).arming.isSome
      | none => false
    if n = 0 || 2048 < n || open_ then some (illegalOperand) else none
  perform x s := x.top.map (fun l => s.onGroup x.w.gid (fun g =>
    let c := g.conv cv.val
    g.setConv cv.val { c with size := (l.s 0).toNat % 4096 }))

/-- CVSET (R112). -/
def execCvset (g : Guard) (a : Reg) (cv : Fin 16) (s : State) : Host.Outcome State Fault Refusal :=
  s.issue (.cvset g a cv) (meanCvset cv)

/-- A joint operation started from a full and armed register, or dropped with a trap in the warp that completed it (R277,
R278). -/
def State.jointStart (s : State) (x : Exec) (wid : Nat) (cv : Nat) (c : Conv) (a : Arming) : State :=
  let s0 := s.onGroup x.w.gid (fun g => g.setConv cv { size := c.size })
  let side := if a.m64 then 4 else 2
  let wids := (c.sigs.map Signature.wid).eraseDups
  let all := wids ++ a.by_.map Prod.fst
  let issuers := (c.sigs.map Signature.fid ++ a.by_.map Prod.snd).eraseDups
  if wids.length ≠ side || all.any (fun w => coreOf w ≠ coreOf wid) then
    let lanes := match s0.warp? wid with
      | some w => w.fibres.map Fibre.lane
      | none => []
    let s1 := s0.closeUses x.w.gid (fun u => u.cv = some cv && issuers.contains u.fid)
    let trap (w : Warp) : ReplayTrap :=
      { cause := illegalOperand, seq := none, lanes := (w.active.map Active.lanes).getD lanes }
    s1.onWarp wid (fun w => { w with replayTrap := some (trap w) })
  else
    let m : MatOp := .mma a.tile a.fmt a.ck side c.sigs none
    let (k, s1) := s0.fresh
    match x.lanes with
    | [] => s1
    | l :: _ =>
      let o := x.op s1 k l .device (.matrix m)
      let o := { o with wid := wid, fids := issuers, flag := none }
      let s2 := { s1 with ops := s1.ops ++ [o] }
      let s3 := s2.onGroup x.w.gid (fun g => { g with uses := g.uses.map (fun u =>
        if u.cv = some cv && issuers.contains u.fid then { u with cv := none, tiles := m.tiles } else u) })
      s3.openUses x.w.gid all (a.by_.map (fun b =>
        { fid := b.2, wid := b.1, core := coreOf wid, cv := none, tiles := m.tiles, regs := [] }))

/-- A signature added to a register that is not full (R39, R276). -/
def State.sign (s : State) (gid cv : Nat) (q : Signature) : State :=
  (s.onGroup gid (fun g =>
    let c := g.conv cv
    g.setConv cv { c with sigs := c.sigs ++ [q] })).onGroup gid (fun g =>
    { g with uses := g.uses ++ [{ fid := q.fid, wid := q.wid, core := coreOf q.wid, cv := some cv, tiles := [],
                                  regs := q.a ++ q.b }] })

/-- Whether the count of a register equals its size. -/
def Conv.full (c : Conv) : Bool := c.size ≤ c.sigs.length

/-- The fibres that wait to sign a register: warp, fibre and fragments, in the order of slots and lanes. -/
def State.signers (s : State) (gid cv : Nat) : List Signature :=
  (s.warps.filter (fun w => w.gid = gid)).flatMap (fun w => (w.byVlane (w.fibres.map Fibre.lane)).filterMap (fun l =>
    match (w.fibre? l).bind (fun f => f.park.map (fun p => (f, p.wait))) with
    | some (f, Wait.sign c a b) =>
      if c = cv then some { fid := f.id, wid := w.wid, lane := f.lane, vlane := w.vlane f.lane, a := a, b := b } else none
    | _ => none))

/-- What follows a signature or an arming: a full and armed register's operation starts, and fibres that waited sign the
next round (R39, R277). -/
def State.converge (x : Exec) (cv : Nat) : Nat → Nat → State → State
  | 0, _, s => s
  | fuel + 1, wid, s =>
    match s.group? x.w.gid with
    | none => s
    | some g =>
      let c := g.conv cv
      match (if c.full then c.arming else none) with
      | some a => State.converge x cv fuel wid (s.jointStart x wid cv c a)
      | none =>
        if c.full then s
        else match s.signers x.w.gid cv with
          | [] => s
          | q :: _ =>
            let s1 := (s.sign x.w.gid cv q).onFibre q.wid q.lane (fun f => { f with park := none })
            State.converge x cv fuel q.wid s1

/-- A bound on what one signature can cause. -/
def convergeBound : Nat := 8192

/-- A lane taken out of the running clause of its warp, with its place after the instruction that runs. -/
def Warp.leaveClause (w : Warp) (lane : Nat) (park : Park) : Warp :=
  match w.active with
  | none => w
  | some a =>
    let rest := a.lanes.filter (fun l => l ≠ lane)
    { w with
      fibres := w.fibres.map (fun f => if f.lane = lane then
        { f with park := some park, pos := { hdr := a.hdr, idx := a.idx + 1, mid := true } } else f)
      active := if rest.isEmpty then none else some { a with lanes := rest } }

/-- CVSIGN by one fibre: it signs, or waits for a full register to settle (R39). -/
def State.signOne (s : State) (x : Exec) (cv : Nat) (a b : Reg) (l : LaneIn) : State :=
  let q : Signature := { fid := l.f.id, wid := x.w.wid, lane := l.f.lane, vlane := l.vlane, a := x.g.runPlaces l.base a 4,
                         b := x.g.runPlaces l.base b 4 }
  match s.group? x.w.gid with
  | none => s
  | some g =>
    if (g.conv cv).full then
      s.onWarp x.w.wid (fun w => w.leaveClause l.f.lane { wait := .sign cv q.a q.b, at_ := x.pos })
    else State.converge x cv convergeBound x.w.wid (s.sign x.w.gid cv q)

/-- Whether a signature or arming of a warp could start an operation while its quadrant's queue is full (R287). -/
def Exec.crowded (x : Exec) (s : State) : Bool := s.quadFull x.w.wid

/-- CVSIGN (R39, R112, R276). -/
def meanCvsign (a b : Reg) (cv : Fin 16) : Meaning where
  check := checkSet cv.val
  perform x s := if x.crowded s then none else some (x.lanes.foldl (fun s l => s.signOne x cv.val a b l) s)

/-- CVSIGN (R39, R112, R276). -/
def execCvsign (g : Guard) (a b : Reg) (cv : Fin 16) (s : State) : Host.Outcome State Fault Refusal :=
  s.issue (.cvsign g a b cv) (meanCvsign a b cv)

/-- MMA.j's tiles: T for the outputs, and as many checksum tiles (R270, R275). -/
def jointTiles (m64 ck : Bool) : Nat := (if m64 then 16 else 4) * (if ck then 2 else 1)

/-- MMA.j (R277): it arms the register, once for each executing fibre. -/
def meanMmaJ (tile : BitVec 8) (m64 : Bool) (cv : Fin 16) (ck : Bool) (fmt : MmaFmt) : Meaning where
  static := tileCheck (tile.toNat + jointTiles m64 ck - 1)
  check s x l :=
    match checkSet cv.val s x l, s.group? x.w.gid with
    | some c, _ => some c
    | none, some g =>
      (match (g.conv cv.val).arming with
        | some a =>
          if a.tile = tile.toNat && a.m64 == m64 && a.fmt = fmt && a.ck == ck then none else some (illegalOperand)
        | none => none)
    | none, none => none
  perform x s :=
    if x.crowded s then none
    else
      let by_ := x.lanes.map (fun l => (x.w.wid, l.f.id))
      let s1 := s.onGroup x.w.gid (fun g =>
        let c := g.conv cv.val
        let old := match c.arming with
          | some a => a.by_
          | none => []
        g.setConv cv.val { c with arming := some { tile := tile.toNat, m64 := m64, fmt := fmt, ck := ck, by_ := old ++ by_ } })
      some (State.converge x cv.val convergeBound x.w.wid s1)

/-- MMA.j (R277, R278). -/
def execMmaJ (g : Guard) (tile : BitVec 8) (m64 : Bool) (cv : Fin 16) (ck : Bool) (fmt : MmaFmt) (s : State) :
    Host.Outcome State Fault Refusal :=
  s.issue (.mmaJ g tile m64 cv ck fmt) (meanMmaJ tile m64 cv ck fmt)

/-! ## Joins -/

/-- ACCZ (R279). -/
def meanAccz (tile tiles : BitVec 8) : Meaning where
  static := tileCheck (tile.toNat + tiles.toNat)
  perform x s := x.join s (.accz tile.toNat (tiles.toNat + 1))

/-- ACCZ (R279). -/
def execAccz (g : Guard) (tile tiles : BitVec 8) (s : State) : Host.Outcome State Fault Refusal :=
  s.issue (.accz g tile tiles) (meanAccz tile tiles)

/-- The address of `.amax`, of the lowest member: its pair stands at word `k` of the sources (R283). -/
def LaneIn.amax (l : LaneIn) (amax : Option Reg) (k : Nat) : Option Nat := amax.map (fun _ => pairAddr (l.s k) (l.s (k + 1)))

/-- The illegal operand of `.amax`'s address: not a multiple of 4, or a word of host memory, where its operation is not
allowed (R206, R212, R283). -/
def State.amaxCause (s : State) (x : Exec) (a : Option Nat) : Option Cause :=
  match a with
  | none => none
  | some a =>
    if a % 4 ≠ 0 || s.onHostPage (coreOf x.w.wid) x.g.ctx a then some (illegalOperand a) else none

/-- ACCMV (R280, R283). -/
def meanAccmv (d : Reg) (amax : Option Reg) (tile : BitVec 8) (z : Bool) : Meaning where
  static := tileCheck tile.toNat
  check s x l := if x.bottom = some l then s.amaxCause x (l.amax amax 0) else none
  perform x s :=
    x.bottom.bind (fun b => x.join s (.accmv tile.toNat z
      (x.lanes.map (fun l => (l.f.id, x.g.runPlaces l.base d 8))) (b.amax amax 0) [] 0))

/-- ACCMV (R280, R283). -/
def execAccmv (g : Guard) (d : Reg) (amax : Option Reg) (tile : BitVec 8) (z fs : Bool) (s : State) :
    Host.Outcome State Fault Refusal :=
  s.issue (.accmv g d amax tile z fs) (meanAccmv d amax tile z)

/-- The address of ACCST and ACCLD for the lowest member (R281). -/
def LaneIn.rowAddr (l : LaneIn) (sp : Bool) (k : Nat) : Nat := if sp then (l.s k).toNat else pairAddr (l.s k) (l.s (k + 1))

/-- The illegal operand of the rows of ACCST and ACCLD: an address or pitch that is no multiple of 16, or a byte out of
bounds (R281). -/
def rowsCheck (x : Exec) (sp : Bool) (addr pitch n : Nat) : Option Cause :=
  if addr % 16 ≠ 0 || pitch % 16 ≠ 0 then some (illegalOperand addr)
  else if sp && x.g.scratch < addr + 15 * pitch + n then some (illegalOperand addr) else none

/-- ACCST (R281, R283): sources in the order address, pitch, amax pair (R363). -/
def meanAccst (amax : Option Reg) (tile : BitVec 8) (z sp : Bool) (wf : TileFmt) : Meaning where
  static := tileCheck tile.toNat
  check s x l :=
    if x.bottom ≠ some l then none
    else
      match rowsCheck x sp (l.rowAddr sp 0) (l.s (if sp then 1 else 2)).toNat (16 * tileBytes wf) with
      | some c => some c
      | none => s.amaxCause x (l.amax amax (if sp then 2 else 3))
  perform x s :=
    x.bottom.bind (fun l =>
      x.join s (.accst tile.toNat z sp wf (l.rowAddr sp 0) (l.s (if sp then 1 else 2)).toNat
        (l.amax amax (if sp then 2 else 3)) [] 0))

/-- ACCST (R281, R283). -/
def execAccst (g : Guard) (amax : Option Reg) (a : Reg) (tile : BitVec 8) (pitch : Reg) (z : Bool) (sp : Bool) (wf : TileFmt)
    (fs : Bool) (s : State) : Host.Outcome State Fault Refusal :=
  s.issue (.accst g amax a tile pitch z sp wf fs) (meanAccst amax tile z sp wf)

/-- ACCLD (R282). -/
def meanAccld (tile : BitVec 8) (sp : Bool) (wf : TileFmt) : Meaning where
  static := tileCheck tile.toNat
  check _ x l :=
    if x.bottom ≠ some l then none
    else rowsCheck x sp (l.rowAddr sp 0) (l.s (if sp then 1 else 2)).toNat (16 * tileBytes wf)
  perform x s :=
    x.bottom.bind (fun l => x.join s (.accld tile.toNat sp wf (l.rowAddr sp 0) (l.s (if sp then 1 else 2)).toNat))

/-- ACCLD (R282). -/
def execAccld (g : Guard) (a : Reg) (tile : BitVec 8) (pitch : Reg) (sp : Bool) (wf : TileFmt) (fs : Bool) (s : State) :
    Host.Outcome State Fault Refusal :=
  s.issue (.accld g a tile pitch sp wf fs) (meanAccld tile sp wf)

/-! ## MWAIT and OPFENCE (R284, R285) -/

/-- Whether an operation has still to finish with its tiles. -/
def Op.tilesBusy (o : Op) : Bool :=
  match o.kind, o.stage with
  | .matrix (.accst ..), .started => false
  | .matrix _, _ => true
  | _, _ => false

/-- Whether a joint operation of which a fibre is an issuer is still to start, on a tile if one is named; a round that no MMA.j
has armed names no tile yet (R277, R284). -/
def Group.roundOpen (g : Group) (fid : Nat) (tile : Option Nat) : Bool :=
  g.convs.any (fun c =>
    (c.2.sigs.any (fun q => q.fid = fid) || c.2.arming.any (fun a => a.by_.any (fun b => b.2 = fid)))
      && (match tile, c.2.arming with
        | some t, some a => a.tile ≤ t && t < a.tile + jointTiles a.m64 a.ck
        | some _, none => false
        | none, _ => true))

/-- MWAIT (R284): it stalls until the operations of every executing fibre have finished with their tiles. -/
def meanMwait (tile : Option (BitVec 8)) : Meaning where
  static w g f := match tile with
    | some t => tileCheck t.toNat w g f
    | none => none
  perform x s :=
    let t := tile.map BitVec.toNat
    let named (ts : List Nat) : Bool := match t with
      | some n => ts.contains n
      | none => true
    let mine := x.lanes.map (fun l => l.f.id)
    let busy := s.ops.any (fun o => o.gid = x.w.gid && o.tilesBusy && o.fids.any mine.contains
      && named ((o.matrix?.map MatOp.tiles).getD []))
    let round := match s.group? x.w.gid with
      | some g => mine.any (fun f => g.roundOpen f t)
      | none => false
    if busy || round then none
    else some (s.closeUses x.w.gid (fun u => mine.contains u.fid && named u.tiles))

/-- MWAIT (R284). -/
def execMwait (g : Guard) (tile : Option (BitVec 8)) (s : State) : Host.Outcome State Fault Refusal :=
  s.issue (.mwait g tile) (meanMwait tile)

/-- OPFENCE (R285): it stalls until the engine has read the operand registers of every executing fibre. -/
def meanOpfence : Meaning where
  perform x s :=
    match s.group? x.w.gid with
    | none => none
    | some g =>
      if x.lanes.any (fun l => s.operandsOut g l.f) then none
      else
        let mine := x.lanes.map (fun l => l.f.id)
        some (s.onGroup x.w.gid (fun g => { g with uses := g.uses.map (fun u =>
          if mine.contains u.fid then { u with regs := [] } else u) }))

/-- OPFENCE (R285). -/
def execOpfence (g : Guard) (s : State) : Host.Outcome State Fault Refusal := s.issue (.opfence g) meanOpfence

/-! ## MATRIX_ENGINE_START -/

/-- The age of the warp in a slot. -/
def State.ageOf (s : State) (wid : Nat) : Nat := ((s.warp? wid).map Warp.age).getD 0

/-- Whether an operation stands before another in the engine's order: issue clock, then warp age, then issue. -/
def State.matrixBefore (s : State) (a b : Op) : Bool :=
  a.clock < b.clock || (a.clock = b.clock && (s.ageOf a.wid < s.ageOf b.wid || (s.ageOf a.wid = s.ageOf b.wid && a.id < b.id)))

/-- Whether an operation is a join, which waits for every operation on its tile (R245). -/
def MatOp.isJoin : MatOp → Bool
  | .mma .. => false
  | _ => true

/-- Whether a queued operation may start: no earlier operation of its warp that is still queued, and no ACCLD of it that has
not written its tile, names one of its tiles; a join waits so for the operations of every warp (R245, R286, R287). -/
def State.matrixStartable (s : State) (o : Op) : Bool :=
  let ts := (o.matrix?.map MatOp.tiles).getD []
  s.ops.all (fun a => !(a.id ≠ o.id && a.gid = o.gid && coreOf a.wid = coreOf o.wid
    && (a.wid = o.wid || o.matrix?.any MatOp.isJoin) && s.matrixBefore a o
    && (match a.kind, a.stage with
      | .matrix (.accld ..), .done => false
      | .matrix (.accld ..), _ => true
      | .matrix _, .issued => true
      | _, _ => false)
    && ((a.matrix?.map MatOp.tiles).getD []).any ts.contains))

/-- The queued operation of a core that starts next. -/
def State.nextMatrix (s : State) (core : Nat) : Option Op :=
  (s.ops.filter (fun o => o.matrix?.isSome && o.stage = .issued && coreOf o.wid = core && s.matrixStartable o)).foldl
    (fun best o => match best with
      | none => some o
      | some b => if s.matrixBefore o b then some o else best) none

/-- The words of a signature's operands as the registers stand at the start. -/
def State.fragOf (s : State) (gid : Nat) (q : Signature) : Frag :=
  match s.fibreOf? gid q.fid with
  | none => { vlane := q.vlane, a := [], b := [], sc := [] }
  | some (_, f) => { vlane := q.vlane, a := q.a.map f.at, b := q.b.map f.at, sc := q.sc.map f.at }

/-- The pieces of an operation applied to their tiles in order: (tile, checksum tile, A's and B's fragments). -/
def State.applyPieces (s : State) (g : Group) (core : Nat) (fmt : MmaFmt) (ck : Bool) (sc : Option MmaScale) :
    List (Nat × Nat × List Frag × List Frag) → State
  | [] => s
  | (t, k, fa, fb) :: rest =>
    let (c, s1) := s.readTile g core t
    let s2 := s1.writeTile g core t (mmaPiece fmt fa fb sc c)
    let s3 := if ck then
        let (c, s') := s2.readTile g core k
        s'.writeTile g core k (checkPiece fmt fa fb sc c)
      else s2
    s3.applyPieces g core fmt ck sc rest

/-- A tile's words in the elements of ACCMV for a virtual lane (R280). -/
def accmvWords (c : List Word) (vlane : Nat) : List Word :=
  (List.range 8).map (fun j => c.getD ((8 * (vlane / 16) + j) * 16 + vlane % 16) 0)

/-- The largest magnitude of a tile (R283). -/
def tileAmax (c : List Word) : Word := c.foldl fmaxabs 0

/-- A tile element in a memory format (R281). -/
def storeElement (wf : TileFmt) (w : Word) : List Byte :=
  match wf with
  | .f32 => bytesOfWord w
  | .bf16 => bytesOf 2 (bf16.narrow .rne false 0 w.toNat).bits
  | .fp16 => bytesOf 2 (fp16.narrow .rne false 0 w.toNat).bits

/-- A memory element widened (R282). -/
def loadElement (wf : TileFmt) (bs : List Byte) : Word :=
  match wf with
  | .f32 => BitVec.ofNat 32 (natOf bs)
  | .bf16 => BitVec.ofNat 32 (bf16.widen (natOf bs)).bits
  | .fp16 => BitVec.ofNat 32 (fp16.widen (natOf bs)).bits

/-- The virtual lane of a fibre where it stands. -/
def State.vlaneOf (s : State) (gid fid : Nat) : Nat := ((s.fibreOf? gid fid).map (fun wf => wf.1.vlane wf.2.lane)).getD 0

/-- The effect of an operation on its tiles, at its start (R271 to R275, R279 to R283). -/
def State.startMatrix (s : State) (o : Op) (g : Group) (m : MatOp) : MatOp × State :=
  let core := coreOf o.wid
  match m with
  | .mma n fmt ck side frags sc =>
    let idx (wid : Nat) : Nat := ((s.warp? wid).map Warp.idx).getD 0
    let wids := ((frags.map Signature.wid).eraseDups)
    let slots := (List.range 64).filterMap (fun i => wids.find? (fun w => idx w = i))
    let of (u : Nat) : List Frag :=
      (if side ≤ 1 then frags else frags.filter (fun q => some q.wid = slots[u]?)).map (s.fragOf o.gid)
    let side := max 1 side
    let t := side * side
    let ps := (List.range t).map (fun i => (n + i, n + t + i, of (i / side), of (i % side)))
    (m, s.applyPieces g core fmt ck sc ps)
  | .accz n c => (m, (List.range c).foldl (fun s i => s.writeTile g core (n + i) (List.replicate 256 0)) s)
  | .accmv n z dst amax _ _ =>
    let (c, s1) := s.readTile g core n
    let words := dst.map (fun d => (d.1, accmvWords c (s.vlaneOf o.gid d.1)))
    (.accmv n z dst amax words (tileAmax c), if z then s1.writeTile g core n (List.replicate 256 0) else s1)
  | .accst n z sp wf addr pitch amax _ _ =>
    let (c, s1) := s.readTile g core n
    let bytes := (List.range 256).flatMap (fun i =>
      let bs := storeElement wf (c.getD i 0)
      (List.range bs.length).map (fun j => (addr + i / 16 * pitch + i % 16 * tileBytes wf + j, bs.getD j 0)))
    (.accst n z sp wf addr pitch amax bytes (tileAmax c), if z then s1.writeTile g core n (List.replicate 256 0) else s1)
  | .accld .. => (m, s)

/-- MATRIX_ENGINE_START (R287): the engine of a core starts the startable operation with the earliest issue clock; its
operands are read and its tiles take their new values, but an ACCLD's. -/
def execMatrixEngineStart (core : Nat) (s : State) : Host.Outcome State Fault Refusal :=
  .next (match s.nextMatrix core with
    | none => s
    | some o =>
      match o.matrix?, s.group? o.gid with
      | some m, some g =>
        let (m1, s1) := s.startMatrix o g m
        s1.onOp o.id (fun o => { o with stage := .started, kind := .matrix m1 })
      | _, _ => s)

/-! ## MATRIX_OP_FINISH -/

/-- Pages of a fibre's access translated and pinned, or its fault posted (R197, R378). -/
def State.fibrePins (s : State) (id : Nat) (k : Access) (vas : List Nat) : Bool × State :=
  match s.op? id with
  | none => (false, s)
  | some o =>
    if o.record.isSome || s.renaming o.gid o.fid o.order vas then (false, s)
    else
      let need := vas.filter (fun va => !isPinned (if k = .read then o.pins else o.wpins) (va % 2 ^ 52))
      match s.pinAll { o.agent with deferred := true } k true need with
      | (.ok ps, s1) => (true, s1.onOp id (fun o =>
          if k = .read then { o with pins := o.pins ++ ps } else { o with wpins := o.wpins ++ ps }))
      | (.error (va, c, l), s1) =>
        let (r, s2) := s1.postFault o.agent va c l k
        (false, s2.onOp id (fun o => { o with record := r }))

/-- A poisoned granule among the bytes that a fibre's access reads: it waits for repair (R383). -/
def State.fibrePoison (s : State) (id : Nat) (pins : Op → List (Nat × Nat × Nat)) (k : Access) (vas : List Nat) : Bool × State :=
  match s.op? id with
  | none => (false, s)
  | some o =>
    match s.poisonAt (pins o) vas with
    | none => (true, s)
    | some va =>
      let (r, s1) := s.postFault o.agent (va % 2 ^ 52) 7 3 k
      (false, s1.onOp id (fun o => { o with record := r, pins := [], wpins := [] }))

/-- `.amax`'s merge at its word, if it can be made now (R211, R283). -/
def State.mergeAmax (s : State) (id : Nat) (a : Option Nat) (m : Word) : Bool × State :=
  match a with
  | none => (true, s)
  | some a =>
    let vas := rangeBytes a 4
    match s.fibrePins id .atomic vas with
    | (false, s1) => (false, s1)
    | (true, s1) =>
      match s1.fibrePoison id Op.wpins .atomic vas with
      | (false, s2) => (false, s2)
      | (true, s2) =>
        match s2.op? id with
        | none => (false, s2)
        | some o =>
          let (bs, s3) := s2.readPinned o.wpins vas
          (true, s3.writePinned o.agent o.wpins true (vas.zip (bytesOfWord (fmaxabs (BitVec.ofNat 32 (natOf bs)) m))))

/-- ACCST's bytes by address, with those that several rows write unpredictable (R281). -/
def State.foldRows (s : State) (pitch n : Nat) (bs : List (Nat × Byte)) : List (Nat × Byte) × State :=
  if n ≤ pitch then (bs, s)
  else bs.foldl (fun (acc : List (Nat × Byte) × State) b =>
    if 1 < (bs.filter (fun x => x.1 = b.1)).length then
      let (v, s1) := acc.2.freeByte
      (acc.1 ++ [(b.1, v)], s1)
    else (acc.1 ++ [b], acc.2)) ([], s)

/-- The bytes of an ACCST that are written now, given those units of 16 bytes that become visible before the others, by their
numbers: all that are left where none is named (R240). -/
def drainNow (early : List Nat) (bytes : List (Nat × Byte)) : List (Nat × Byte) :=
  if early.isEmpty then bytes else bytes.filter (fun b => early.contains (b.1 / 16))

/-- What an operation still has to do once it has started: registers, memory, or an ACCLD's tile. An ACCST drains the units of
16 bytes that are named, or where none is, all that are left, and ends (R240, R281). -/
def State.finishMatrix (s : State) (o : Op) (g : Group) (m : MatOp) (early : List Nat) : State :=
  match m with
  | .mma .. => s.endBundleOp o
  | .accz .. => s.endBundleOp o
  | .accmv _ _ dst amax words mx =>
    match s.mergeAmax o.id amax mx with
    | (false, s1) => s1
    | (true, s1) =>
      let s2 := dst.foldl (fun s d =>
        s.landOp { o with fid := d.1 } (zipDst d.2 ((words.find? (fun w => w.1 = d.1)).map Prod.snd |>.getD []))) s1
      s2.endBundleOp o
  | .accst n z sp wf addr pitch amax bytes mx =>
    let now := drainNow early bytes
    match (if sp then (true, s) else s.fibrePins o.id .write (now.map Prod.fst)) with
    | (false, s1) => s1
    | (true, s1) =>
      match (if early.isEmpty then s1.mergeAmax o.id amax mx else (true, s1)) with
      | (false, s2) => s2
      | (true, s2) =>
        let (bs, s3) := s2.foldRows pitch (16 * tileBytes wf) now
        let s4 := if sp then bs.foldl (fun s b => s.writeScratch g b.1 [b.2]) s3
          else match s3.op? o.id with
            | some o1 => s3.writePinned o1.agent o1.wpins true bs
            | none => s3
        if early.isEmpty then s4.endBundleOp o
        else
          let left := bytes.filter (fun b => !early.contains (b.1 / 16))
          s4.onOp o.id (fun o => { o with kind := .matrix (.accst n z sp wf addr pitch amax left mx) })
  | .accld n sp wf addr pitch =>
    let vas := rowAddrs addr pitch (16 * tileBytes wf)
    let write (bs : List Byte) (s : State) : State :=
      (s.writeTile g (coreOf o.wid) n ((List.range 256).map (fun i =>
        loadElement wf ((bs.drop (i * tileBytes wf)).take (tileBytes wf))))).endBundleOp o
    if sp then
      let (bs, s1) := vas.foldl (fun (acc : List Byte × State) va =>
        let (b, s') := acc.2.readScratch g va 1
        (acc.1 ++ b, s')) ([], s)
      write bs s1
    else match s.fibrePins o.id .read vas with
      | (false, s1) => s1
      | (true, s1) =>
        match s1.fibrePoison o.id Op.pins .read vas with
        | (false, s2) => s2
        | (true, s2) =>
          match s2.op? o.id with
          | none => s2
          | some o1 =>
            let (bs, s3) := s2.loadL1 o.core o.ctx o1.pins true vas
            write bs s3

/-- MATRIX_OP_FINISH (R280 to R284, R287): a started operation writes what it has still to write and ends; where units of an
ACCST are named, it writes these and goes on (R240). -/
def execMatrixOpFinish (turn : MatrixTurn) (s : State) : Host.Outcome State Fault Refusal :=
  .next (match s.op? turn.id with
    | none => s
    | some o =>
      match o.matrix?, o.stage, s.group? o.gid with
      | some m, .started, some g => if o.record.isSome || s.behind o then s else s.finishMatrix o g m turn.early
      | _, _, _ => s)

end Sys2Proof.Machine
end

