-- ==== Sys2Proof/Machine/Node.lean ====
section
/-! DEFINITION. NREL, NWAIT and NSTAT (R260 to R262), the step NREL_DECREMENT_PERFORMED, and how RNQUERY's and NSTAT's results
are computed (R229). -/

namespace Sys2Proof.Machine

open Sys2Proof

/-- The illegal operand of a record address: not a multiple of 256, outside the node area, or that of the control block (R262,
R369). -/
def checkRecord (s : State) (x : Exec) (l : LaneIn) : Option Cause :=
  let a := pairAddr (l.s 0) (l.s 1)
  let inside := (s.ctx? x.g.ctx).any (fun c => c.nodeBase + 256 ≤ a && a + 256 ≤ c.nodeBase + c.nodeSize)
  if a % 256 ≠ 0 || !inside then some (illegalOperand a) else none

/-- The record that a fibre names. -/
def LaneIn.node (l : LaneIn) : VAddr := BitVec.ofNat 52 (pairAddr (l.s 0) (l.s 1))

/-- Operations on records put in flight, one for each executing fibre. -/
def recordOps (kind : Exec → LaneIn → OpKind) (x : Exec) (s : State) : State :=
  x.lanes.foldl (fun s l =>
    let (k, s1) := s.fresh
    let o := x.op s1 k l .device (kind x l)
    let s2 := (s1.addOp x l { o with parks := x.parksFaults }).pinOp { o with parks := x.parksFaults }
    s2.onOp k (fun o => { o with parks := o.parks && o.pins.isEmpty })) s

/-- NREL (R260 to R262). -/
def meanNrel : Meaning where
  check := checkRecord
  perform x s := some (recordOps (fun _ l => .nrel l.node) x s)

/-- NREL (R262). -/
def execNrel (g : Guard) (a : Reg) (fs : Bool) (s : State) : Host.Outcome State Fault Refusal := s.issue (.nrel g a fs) meanNrel

/-- NSTAT (R262). -/
def meanNstat : Meaning where
  check := checkRecord
  perform x s := some (recordOps (fun x l => .nstat l.node (x.dsts l)) x s)

/-- NSTAT (R262). -/
def execNstat (g : Guard) (d a : Reg) (fs : Bool) (s : State) : Host.Outcome State Fault Refusal :=
  s.issue (.nstat g d a fs) meanNstat

/-- The walker's status word for a record; that of a record that it does not know is 0. -/
def State.statusOf (s : State) (cn : Nat) (a : VAddr) : Word := ((s.node? cn a).map Node.status).getD 0

/-- The state of a record's node. -/
def State.stateOf (s : State) (cn : Nat) (a : VAddr) : NodeState := ((s.node? cn a).map Node.state).getD .waiting

/-- The first executing fibre whose record does not translate, with the address, cause and level (R262). -/
def State.recordFault (s : State) (x : Exec) : List LaneIn → Option (Nat × Nat × Nat) × State
  | [] => (none, s)
  | l :: ls =>
    match s.translate (corePlaces (coreOf x.w.wid)) x.g.ctx l.node.toNat .read with
    | (.error (c, lv), s1) => (some (l.node.toNat, c, lv), s1)
    | (.ok _, s1) => s1.recordFault x ls

/-- A fibre that receives a waited-for word at once, an acquire at `.device`, or parks until it is there (R235, R245). -/
def Exec.answer (x : Exec) (s : State) (l : LaneIn) (r : Option Word) (wt : Option Nat → Wait) : State :=
  let dst := (x.dsts l).head?
  let mark := dst.any (fun p => (x.g.openRegs l.f.id).contains p)
  let s := if mark then s.foul x.w.gid l.f.id dst.toList else s
  match r with
  | some v =>
    let (ws, s) := s.fouled (if mark then dst.toList else []) (dst.toList.map (fun p => (p, v)))
    (s.landWords x.w.wid l.f.lane none ws).acquireAt (coreOf x.w.wid) x.g .device
  | none => x.park s l (wt dst)

/-- NWAIT (R262): every fibre takes its status if the wait is over, or parks; a fault on a record parks the bundle before the
instruction. -/
def meanNwait (prov : Bool) : Meaning where
  check s x l :=
    match checkRecord s x l with
    | some c => some c
    | none => if l.node = x.g.node then some (illegalOperand l.node.toNat) else none
  perform x s :=
    match s.recordFault x x.lanes with
    | (some (va, c, lv), s1) =>
      let lanes := (x.w.active.map Active.lanes).getD []
      some ((s1.fetchFault x.w x.g lanes va c lv .read).onWarp x.w.wid (fun w => w.stopBundle.release s1.clock))
    | (none, s1) =>
      some (x.lanes.foldl (fun s l =>
        let done := nwaitEnds prov (s.stateOf x.g.ctx l.node)
        x.answer s l (if done then some (s.statusOf x.g.ctx l.node) else none) (.node prov l.node)) s1)

/-- NWAIT (R262). -/
def execNwait (g : Guard) (d a : Reg) (prov : Bool) (s : State) : Host.Outcome State Fault Refusal :=
  s.issue (.nwait g d a prov) (meanNwait prov)

/-- Whether an NREL may be performed: every earlier access and rename of its fibre has been, and every lower virtual lane's
decrement of the same issue (R262). -/
def State.nrelDue (s : State) (o : Op) : Bool :=
  s.releasable o && s.ops.all (fun a => !(a.id ≠ o.id && a.before o && (match a.kind with
    | .nrel _ => true
    | _ => false)))

/-- The parent of a record set by the first NREL on it, with the parent's count (R260). -/
def State.adopt (s : State) (cn : Nat) (a parent : VAddr) : State :=
  match s.node? cn a with
  | none => s
  | some n =>
    if n.parent.isSome then s
    else
      let s1 := (s.onNode cn a (fun n => { n with parent := some parent })).walkerWrite cn (a.toNat + 0x18) (bytesOf 8 parent.toNat)
      let s2 := s1.onNode cn parent (fun n => { n with children := n.children + 1 })
      match s2.node? cn parent with
      | some p => s2.walkerWrite cn (parent.toNat + 0x2C) (bytesOf 4 p.children)
      | none => s2

/-- NREL_DECREMENT_PERFORMED (R251, R260, R262): the pred word falls by 1, and at 0 the walker takes the node. -/
def execNrelDecrementPerformed (id : Nat) (s : State) : Host.Outcome State Fault Refusal :=
  .next (match s.readyOp? id with
    | (none, s1) => s1
    | (some o, s1) =>
      match o.kind with
      | .nrel a =>
        if !s1.nrelDue o then s1
        else
          let (p, s2) := s1.walkerNat o.ctx (a.toNat + 8) 4
          let (old, s2') := s2.asLeft o.ctx a
          let s3 := if p = 0 || old then s2' else (s2'.ensureNode o.ctx a).adopt o.ctx a o.node
          (s3.finishOp o).acts o.ctx [.dec a none false o.core]
      | _ => s1)

/-- NSTAT's result lands (R262). -/
def State.landNstat (s : State) (id : Nat) : State :=
  match s.readyOp? id with
  | (none, s1) => s1
  | (some o, s1) =>
    match o.kind with
    | .nstat a dst => (s1.landOp o (zipDst dst [s1.statusOf o.ctx a])).finishOp o
    | _ => s1

/-- The four words of RNQUERY (R229). -/
def State.queryWords (s : State) (cn va : Nat) : List Word :=
  match s.ctx? cn with
  | none => [0, 0, 0, 0]
  | some c =>
    match s.walk c va with
    | .leaf e level _ =>
      let tier := pteTier e
      let count := if tier < 2 then c.count tier (pteFrame e) else 0
      let held := c.staged.any (fun g => g.page = va % 2 ^ 52 / 65536)
      [e.setWidth 32, (e >>> 32).setWidth 32, BitVec.ofNat 32 (count % 256 + level * 256 + held.toNat * 65536),
        BitVec.ofNat 32 (min (c.pool (if tier = 1 then 1 else 0)).length 0xFFFFFFFF)]
    | .stop .. => [0, 0, 0, BitVec.ofNat 32 (min c.pool0.length 0xFFFFFFFF)]

/-- RNQUERY's result lands once every earlier rename of its fibre has been applied (R229). -/
def State.landQuery (s : State) (id : Nat) : State :=
  match s.op? id with
  | none => s
  | some o =>
    match o.kind with
    | .query va dst =>
      let wait := s.ops.any (fun a => a.id ≠ id && a.gid = o.gid && a.fid = o.fid && a.order < o.order && (match a.kind with
        | .rename _ => a.stage = .issued
        | _ => false))
      if wait then s else (s.landOp o (zipDst dst (s.queryWords o.ctx va.toNat))).finishOp o
    | _ => s

end Sys2Proof.Machine
end

