-- ==== Sys2Proof/Machine/SortCount.lean ====
section
/-! DEFINITION. The sort-count engine: SORTCNT, and the steps SORTCNT_REQUEST_START and SORTCNT_REQUEST_COMPLETE (R289 to
R297). -/

namespace Sys2Proof.Machine

open Sys2Proof

/-- The requests queued at a die's sort-count engine. -/
def State.sortQueue (s : State) (die : Nat) : List Op :=
  s.ops.filter (fun o => dieOf o.core = die && o.stage = .issued && (match o.kind with | .sort .. => true | _ => false))

/-- SORTCNT (R296): one request for each executing fibre; it stalls while the queue of 16 has no room. -/
def meanSortcnt (sc : Scope) : Meaning where
  check _ _ l := let a := pairAddr (l.s 0) (l.s 1); if a % 128 ≠ 0 then some (illegalOperand a) else none
  room s x := some (16 - (s.sortQueue (dieOf (coreOf x.w.wid))).length)
  perform x s := some (x.lanes.foldl (fun s l =>
    let (k, s1) := s.fresh
    s1.addOp x l (x.op s1 k l sc (.sort (BitVec.ofNat 52 (pairAddr (l.s 0) (l.s 1))) [] [] 0 0 none none))) s)

/-- SORTCNT (R295, R296). -/
def execSortcnt (g : Guard) (a : Reg) (fs : Bool) (scope : Scope) (s : State) : Host.Outcome State Fault Refusal :=
  s.issue (.sortcnt g a fs scope) (meanSortcnt scope)

/-! ## The request block (R290, R291) -/

/-- A number of `n` bytes at an offset of a block. -/
def blk (b : List Byte) (off n : Nat) : Nat := recNat b off n

/-- A 52-bit address at an offset of a block. -/
def blkAddr (b : List Byte) (off : Nat) : Nat := blk b off 8 % 2 ^ 52

/-- The fields of a request. -/
structure SortReq where
  e : Nat
  t : Nat
  k : Nat
  bias : Bool
  ids : Nat
  counts : Nat
  offsets : Nat
  perm : Nat
  records : Nat
  rowBase : Nat
  rowStride : Nat
  cols : Nat
  wBase : Nat
  wStride : Nat
  page : Nat
  eta : Word
  done : Nat
  deriving DecidableEq, Repr

/-- The request of a block. -/
def sortReq (b : List Byte) : SortReq :=
  { e := blk b 0 4, t := blk b 4 4, k := blk b 8 4 % 16, bias := blk b 8 4 / 256 % 2 = 1, ids := blkAddr b 0x10,
    counts := blkAddr b 0x18, offsets := blkAddr b 0x20, perm := blkAddr b 0x28, records := blkAddr b 0x30,
    rowBase := blkAddr b 0x38, rowStride := blk b 0x40 4, cols := blk b 0x44 4, wBase := blkAddr b 0x48, wStride := blk b 0x50 8,
    page := blkAddr b 0x58, eta := BitVec.ofNat 32 (blk b 0x60 4), done := blkAddr b 0x68 }

/-- Whether every field of a block lies within its limits (R290, R291). R7 says that the part ignores the reserved bits of a
request block, and R291 that a nonzero reserved field is a bad field: the model follows R291, as it follows R334 for ATTN and
R308 for a channel's block (log 88). -/
def sortOk (b : List Byte) : Bool :=
  let r := sortReq b
  1 ≤ r.e && r.e ≤ 4096 && 1 ≤ r.t && r.t ≤ 2 ^ 21 && 1 ≤ r.k && r.k ≤ 8 && r.t * r.k ≤ 2 ^ 21
    && blk b 8 4 / 16 % 16 = 0 && blk b 8 4 / 512 = 0
    && r.ids % 2 = 0 && r.counts % 4 = 0 && r.offsets % 4 = 0 && r.perm % 4 = 0 && r.records % 64 = 0
    && r.rowBase % 16 = 0 && r.rowStride % 16 = 0 && 16 ≤ r.rowStride && r.rowStride ≤ 2 ^ 20
    && (if r.bias then r.page % 65536 = 0 else r.page = 0)
    && blk b 0x64 4 = 0 && r.done % 4 = 0 && blk b 0x70 16 = 0

/-! ## What a request writes (R289, R292 to R294) -/

/-- The pairs of an id array, in the order of tokens and slots: expert, token, slot. -/
def sortPairs (k : Nat) (ids : List Nat) : List (Nat × Nat × Nat) :=
  (List.range ids.length).filterMap (fun i =>
    let id := ids.getD i 0
    if id = 0xFFFF then none else some (id, i / k, i % k))

/-- The pairs of one expert. -/
def pairsOf (ps : List (Nat × Nat × Nat)) (e : Nat) : List (Nat × Nat × Nat) := ps.filter (fun p => p.1 = e)

/-- The number of pairs of every expert. -/
def sortCounts (e : Nat) (ps : List (Nat × Nat × Nat)) : List Nat := (List.range e).map (fun i => (pairsOf ps i).length)

/-- The first position of every expert, and the total. -/
def sortOffsets : List Nat → Nat → List Nat
  | [], o => [o]
  | c :: cs, o => o :: sortOffsets cs (o + c)

/-- The permutation in order (R292). -/
def sortPerm (e : Nat) (ps : List (Nat × Nat × Nat)) : List Nat :=
  (List.range e).flatMap (fun i => (pairsOf ps i).map (fun p => p.2.1 + p.2.2 * 2 ^ 21))

/-- A shape record (R293). -/
def shapeRecord (r : SortReq) (e count offset : Nat) : List Byte :=
  bytesOf 8 ((r.rowBase + offset * r.rowStride) % 2 ^ 52) ++ bytesOf 4 r.rowStride ++ bytesOf 4 count ++ bytesOf 4 r.cols
    ++ bytesOf 4 e ++ bytesOf 8 ((r.wBase + e * r.wStride) % 2 ^ 52) ++ bytesOf 4 (if count = 0 then 1 else 0)
    ++ List.replicate 28 0

/-- The new bias of an expert (R294). -/
def newBias (eta b : Word) (total e count : Nat) : Word :=
  let d : Int := (total : Int) - (e : Int) * count
  if d = 0 then (if (fp32.read b.toNat).isSig then 0x7FC00000 else b)
  else
    let step := fp32.read eta.toNat
    BitVec.ofNat 32 (fp32.fadd .rne false 0 (fp32.read b.toNat) (if 0 < d then step else step.neg)).bits

/-- The arrays of a request, as (first byte, bytes). -/
def SortReq.arrays (r : SortReq) (pairs : Nat) : List (Nat × Nat) :=
  [(r.counts, 4 * r.e), (r.offsets, 4 * (r.e + 1)), (r.perm, 4 * pairs), (r.records, 64 * r.e), (r.ids, 2 * r.t * r.k)]
    ++ (if r.bias then [(r.page, 65536)] else [])

/-- Whether a byte lies in one of the four output arrays of a request and in another of its arrays (R290). -/
def SortReq.shared (r : SortReq) (pairs va : Nat) : Bool :=
  let at_ (as : List (Nat × Nat)) : List (Nat × Nat) := as.filter (fun a => a.1 ≤ va && va < a.1 + a.2)
  1 < (at_ (r.arrays pairs)).length && !(at_ ((r.arrays pairs).take 4)).isEmpty

/-- The output bytes of a request for an id array, by address. -/
def SortReq.outputs (r : SortReq) (ids : List Nat) : List (Nat × Byte) :=
  let ps := sortPairs r.k ids
  let cs := sortCounts r.e ps
  let os := sortOffsets cs 0
  let at_ (va : Nat) (bs : List Byte) : List (Nat × Byte) := (rangeBytes va bs.length).zip bs
  at_ r.counts (cs.flatMap (bytesOf 4)) ++ at_ r.offsets (os.flatMap (bytesOf 4)) ++ at_ r.perm ((sortPerm r.e ps).flatMap (bytesOf 4))
    ++ at_ r.records ((List.range r.e).flatMap (fun e => shapeRecord r e (cs.getD e 0) (os.getD e 0)))

/-- Bytes of which those that several arrays share are unpredictable. -/
def State.clashed (s : State) (p : Nat → Bool) : List (Nat × Byte) → List (Nat × Byte) × State
  | [] => ([], s)
  | (va, b) :: rest =>
    let (v, s1) := if p va then s.freeByte else (b, s)
    let (bs, s2) := s1.clashed p rest
    ((va, v) :: bs, s2)

/-- The 16-byte units of some bytes that become visible early: a free choice for each (R240, R297). -/
def State.earlyUnits (s : State) : List Nat → List Nat × State
  | [] => ([], s)
  | u :: us =>
    let (b, s1) := s.freeByte
    let (es, s2) := s1.earlyUnits us
    (if b.toNat % 2 = 1 then u :: es else es, s2)

/-! ## Publishing biases (R294) -/

/-- The bias page's leaf replaced by that of a fresh frame which holds the new biases and the old page's other bytes; the frame
is of the page's tier as RNFRESH takes it, and the page is first staged where a running node's write must stage it (R194,
R199). The result says whether the pool could supply the frames; a split that was made holds in any case (R195). -/
def State.publishBias (s : State) (o : Op) (page : Nat) (ws : List Word) (clash : Nat → Bool) : Bool × State :=
  match s.entryFor o.ctx page 3 with
  | (none, s1) => (false, s1)
  | (some a, s1) =>
    match s1.stageEdits o.ctx o.node (s1.copyCore o) [{ at_ := a, page := page / 65536, level := 3, e := 0 }] with
    | none => (false, s1)
    | some s2 =>
      let e := s2.entryAt a
      let tier := freshTierOf .asEntry e
      match (s2.ctx? o.ctx).bind (fun c => c.takeFrame tier) with
      | none => (false, s1)
      | some (f, c1) =>
        let k := pteKey e
        let (old, s3) := (s2.onCtx o.ctx (fun _ => c1)).readBytes k (leafAddr e 3 page) 65536
        let new := ws.flatMap bytesOfWord ++ old.drop (4 * ws.length)
        let (bs, s4) := (s3.scramble (tierBase tier 0 + f * 65536)).clashed clash ((rangeBytes page 65536).zip new)
        let s5 := s4.writeBytes k (tierBase tier 0 + f * 65536) (bs.map Prod.snd)
        let leaf := pteSet (pteSet (pteSet (pteSet e 20 32 f) 9 1 0) 6 2 tier) 52 6 0
        (true, (s5.markWritten (tierBase tier 0 + f * 65536)).applyEdits o.ctx o.node
          [{ at_ := a, page := page / 65536, level := 3, e := leaf }])

/-- The pending biases of a request published, if there are any: the status takes code 0x03 where they cannot be. -/
def State.biasStep (s : State) (o : Op) : State :=
  match o.kind with
  | .sort b req out st done (some (page, ws, pairs)) _ =>
    match s.publishBias o page ws ((sortReq req).shared pairs) with
    | (true, s1) => s1.onOp o.id (fun o => { o with kind := .sort b req out st done none (some page) })
    | (false, s1) => s1.onOp o.id (fun o => { o with kind := .sort b req out (st + 0x300) done none none })
  | _ => s

/-! ## The steps -/

/-- Whether a die's sort-count engine works on a request that waits for no service (R296, R382). -/
def State.sortBusy (s : State) (die : Nat) : Bool :=
  s.ops.any (fun o => o.server = die && o.stage = .started && o.record.isNone
    && (match o.kind with | .sort .. => true | _ => false))

/-- A request taken with what it will write: some of the outputs become visible at once, and the biases perhaps. -/
def State.sortTake (s : State) (o : Op) (b : VAddr) (req : List Byte) (ids : List Nat) (biases : List Word) : State :=
  let r := sortReq req
  let ps := sortPairs r.k ids
  let cs := sortCounts r.e ps
  let (out, s1) := s.clashed (r.shared ps.length) (r.outputs ids)
  let (early, s2) := s1.earlyUnits ((out.map (fun x => x.1 / 16)).eraseDups)
  let (now, s3) := s2.freeByte
  let soon := out.filter (fun x => early.contains (x.1 / 16))
  let ws := (List.range r.e).map (fun e => newBias r.eta (biases.getD e 0) ps.length r.e (cs.getD e 0))
  let kind : OpKind := .sort b req (out.filter (fun x => !early.contains (x.1 / 16))) 1 r.done
    (if r.bias then some (r.page, ws, ps.length) else none) none
  let s4 := (s3.engineBytes o.id soon).onOp o.id (fun o => { o with stage := .started, kind := kind })
  if now.toNat % 2 = 1 then
    match s4.op? o.id with
    | some o1 => s4.biasStep o1
    | none => s4
  else s4

/-- A request that fails its checks: it will write only its status (R291). -/
def State.sortFail (s : State) (o : Op) (b : VAddr) (req : List Byte) (code done : Nat) : State :=
  s.onOp o.id (fun o => { o with stage := .started, kind := .sort b req [] (2 + 256 * code) done none none })

/-- The request block of an operation, read once (R290): none while its page must first be served. -/
def State.sortBlock (s : State) (o : Op) (b : VAddr) (req : List Byte) : Option (List Byte) × State :=
  if !req.isEmpty then (some req, s)
  else match s.engineOpen o.id [(b.toNat, 128, .read)] with
    | (false, s1) => (none, s1)
    | (true, s1) =>
      let (bs, s2) := s1.engineRead o.id b.toNat 128
      (some bs, s2.onOp o.id (fun o => { o with kind := .sort b bs [] 0 0 none none }))

/-- A request checked, its ids read, and taken; it waits while a page of it must first be served (R291 to R294). -/
def State.sortBegin (s : State) (o : Op) (b : VAddr) (bs : List Byte) : State :=
  let r := sortReq bs
  let denied := r.bias && (match (s.ctx? o.ctx).map (fun c => s.walk c r.page) with
    | some (.leaf e _ _) => !(pteR e && pteW e)
    | _ => false)
  if !sortOk bs || denied then s.sortFail o b bs 1 (if r.done % 4 = 0 then r.done else 0)
  else
    let inputs : List (Nat × Nat × Access) :=
      (r.ids, 2 * r.t * r.k, .read) :: (if r.bias then [(r.page, 65536, .read)] else [])
    match s.engineOpen o.id inputs with
    | (false, s1) => s1
    | (true, s1) =>
      let (ib, s2) := s1.engineRead o.id r.ids (2 * r.t * r.k)
      let ids := (List.range (r.t * r.k)).map (fun i => recNat ib (2 * i) 2)
      if ids.any (fun i => r.e ≤ i && i ≠ 0xFFFF) then s2.sortFail o b bs 2 r.done
      else
        let outs := (r.arrays (sortPairs r.k ids).length).take 4
        match s2.engineOpen o.id (outs.map (fun a => (a.1, a.2, Access.write))) with
        | (false, s3) => s3
        | (true, s3) =>
          let (bb, s4) := if r.bias then s3.engineRead o.id r.page (4 * r.e) else ([], s3)
          match s4.op? o.id with
          | some o1 => s4.sortTake o1 b bs ids (wordsOfBytes bb)
          | none => s4

/-- SORTCNT_REQUEST_START (R290 to R294, R296): the engine takes the first request of its queue that has been sent to it, reads
and checks its block and ids, and forms its outputs. -/
def execSortcntRequestStart (die : Nat) (s : State) : Host.Outcome State Fault Refusal :=
  .next (match s.engineDie die, (arrivalOrder (s.sortQueue die)).find? s.mayBegin with
    | some d, some o =>
      if s.sortBusy d || !s.engineTakes d then s
      else
        match o.kind with
        | .sort b req .. =>
          match (s.onOp o.id (fun o => { o with server := d })).sortBlock o b req with
          | (none, s1) => s1
          | (some bs, s1) => s1.sortBegin o b bs
        | _ => s
    | _, _ => s)

/-- SORTCNT_REQUEST_COMPLETE (R291, R296): the rest of the outputs is written and the biases are published; once the old page
is no longer used, the status word and the completion word are written and the flag falls. -/
def execSortcntRequestComplete (id : Nat) (s : State) : Host.Outcome State Fault Refusal :=
  .next (match s.op? id with
    | none => s
    | some o =>
      match o.kind, o.stage with
      | .sort b req out st done bias page, .started =>
        if o.record.isSome then s
        else
          let ends : List (Nat × Nat × Access) := (b.toNat + 0xC, 4, .write) :: (if done = 0 then [] else [(done, 4, .write)])
          match s.engineOpen id ends with
          | (false, s1) => s1
          | (true, s1) =>
            if bias.isSome || !out.isEmpty then
              let s2 := (s1.engineBytes id out).onOp id (fun o => { o with kind := .sort b req [] st done bias page })
              match s2.op? id with
              | some o2 => s2.biasStep o2
              | none => s2
            else if page.any (fun p => s1.oldLeafUsed id o.ctx [(p / 65536, 1)]) then s1
            else
              let s2 := match page with
                | some p => s1.dropTlb (s1.scopeReach o) o.ctx (p / 65536) 1
                | none => s1
              let s3 := s2.engineWrite id (b.toNat + 0xC) (bytesOf 4 st)
              let s4 := if done = 0 then s3 else s3.engineWrite id done (bytesOf 4 st)
              s4.endCommand o
      | _, _ => s)

end Sys2Proof.Machine
end

