-- ==== Sys2Proof/Machine/Caravan.lean ====
section
/-! DEFINITION. Caravans: CARSEND (R298 to R304), and the step CARAVAN_ARRIVE with quarantine and resends (R301, R402). -/

namespace Sys2Proof.Machine

open Sys2Proof

/-- The global die of a die of this module (R299). -/
def State.globalDie (s : State) (die : Nat) : Nat := 8 * s.dev.modnum + die

/-- A header as sent: the source die and the CRC put in (R299). -/
def carHeader (global : Nat) (h : DWord) : DWord :=
  let body := h.toNat / 2 ^ 12 % 2 ^ 43 * 2 ^ 12 + global % 2 ^ 9 * 2 ^ 55
  BitVec.ofNat 64 (body + crc12 (BitVec.ofNat 64 body))

/-- Whether the CRC of a header holds (R299). -/
def carIntact (h : DWord) : Bool := crc12 h = h.toNat % 2 ^ 12

/-! ## CARSEND (R303, R304) -/

/-- A fibre's operands: row bytes, row address, header, descriptor. The sources stand in the order row, header, buffer,
length. -/
def carOperands (s : Bool) (l : LaneIn) : Nat × Nat × DWord × Nat :=
  let k := if s then 1 else 2
  ((l.s (k + 4)).toNat, sideAddr (if s then .s else .g) l.src,
    BitVec.ofNat 64 ((l.s k).toNat + (l.s (k + 1)).toNat * 2 ^ 32), pairAddr (l.s (k + 2)) (l.s (k + 3)))

/-- The illegal operands of CARSEND (R206, R304). -/
def checkCarsend (inS : Bool) (s : State) (x : Exec) (l : LaneIn) : Option Cause :=
  let (len, r, _, d) := carOperands inS l
  if len % 16 ≠ 0 || len = 0 || 32768 < len then some (illegalOperand)
  else if r % 16 ≠ 0 || (inS && x.g.scratch < r + len) then some (illegalOperand r)
  else if d % 64 ≠ 0 then some (illegalOperand d)
  else match (s.translate [.die (dieOf (coreOf x.w.wid))] x.g.ctx d .write).1 with
    | .ok (pa, _) => if pa / 2 ^ 48 = 2 then some (illegalOperand d) else none
    | .error _ => none

/-- The caravans queued at a die's port. -/
def State.carQueue (s : State) (die : Nat) : List Op :=
  s.ops.filter (fun o => dieOf o.core = die && o.stage = .issued && (match o.kind with | .caravan .. => true | _ => false))

/-- A caravan's descriptor translated and pinned, as a write of its fibre after the renames before it (R243, R304): its bundle
stays parked until then. -/
def State.carPin (s : State) (id : Nat) : State :=
  match s.op? id with
  | none => s
  | some o =>
    match o.kind with
    | .caravan _ _ _ _ d _ _ =>
      if !o.wpins.isEmpty || s.renaming o.gid o.fid o.order [d.toNat] then s
      else (s.enginePin id d.toNat .write true).onOp id (fun o => { o with parks := o.parks && o.wpins.isEmpty })
    | _ => s

/-- A fibre's caravan put in flight: its descriptor is translated at once, and a fault there parks as for a load. -/
def carEnqueue (inS : Bool) (x : Exec) (s : State) (l : LaneIn) : State :=
  let (len, r, h, d) := carOperands inS l
  let (k, s1) := s.fresh
  let kind : OpKind := .caravan (if inS then .s else .g) r len (carHeader (s.globalDie (dieOf (coreOf x.w.wid))) h)
    (BitVec.ofNat 52 d) [] 0
  (s1.addOp x l { x.op s1 k l .system kind with parks := x.parksFaults }).carPin k

/-- CARSEND (R304): it stalls while the port's queue of 256 has no room. -/
def meanCarsend (inS : Bool) : Meaning where
  check := checkCarsend inS
  room s x := some (256 - (s.carQueue (dieOf (coreOf x.w.wid))).length)
  perform x s := some (x.lanes.foldl (carEnqueue inS x) s)

/-- CARSEND (R303, R304). -/
def execCarsend (g : Guard) (len row hdr buf : Reg) (fs : Bool) (s_ : Bool) (s : State) : Host.Outcome State Fault Refusal :=
  s.issue (.carsend g len row hdr buf fs s_) (meanCarsend s_)

/-! ## The sending port (R302) -/

/-- The row of a caravan as it stands. What a row in the scratchpad of a group that has retired since reads as (R29) the spec
does not say: free bytes (log 89). -/
def State.carRow (s : State) (o : Op) (sp : Space) (r len : Nat) : List Byte × State :=
  match sp with
  | .s =>
    match s.group? o.gid with
    | some g => s.readScratch g r len
    | none => State.freeBytes len s
  | _ => s.engineRead o.id r len

/-- The ranges that a caravan's port translates: descriptor and row. -/
def carRanges (sp : Space) (r len d : Nat) : List (Nat × Nat × Access) :=
  (d, 64, .write) :: (if sp == .g then [(r, len, .read)] else [])

/-- Whether a caravan's command may leave: the fibre's earlier writes are performed, and no caravan of the fibre before it,
nor of a lower virtual lane of its issue, is still to leave (R302, R304). -/
def State.carDue (s : State) (o : Op) : Bool :=
  s.sent o && s.ops.all (fun a => !(a.id ≠ o.id && a.before o && a.stage = .issued && (match a.kind with
    | .caravan .. => true
    | _ => false)))

/-- A caravan whose descriptor turned out, once its fault had been served, to lie in host memory: it has no effect, and its warp
takes the illegal-operand trap at its next issue point (R142, R304). -/
def State.carRefuse (s : State) (o : Op) (d : Nat) : State :=
  (s.finishOp o).onWarp o.wid (fun w => { w with replayTrap := w.replayTrap.orElse (fun _ =>
    some { cause := illegalOperand d, seq := none, lanes := [o.lane] }) })

/-- A caravan that leaves with its row: it stands behind every caravan that has left before it. -/
def State.carLeave (s : State) (o : Op) : State :=
  let s1 := s.carPin o.id
  match s1.op? o.id with
  | none => s1
  | some o1 =>
    match o1.kind with
    | .caravan sp r len h d _ n =>
      if (pinned o1.wpins d.toNat).any (fun p => p.1 / 2 ^ 48 = 2) then s1.carRefuse o1 d.toNat
      else if !s1.carDue o1 then s1
      else match s1.engineOpen o.id (carRanges sp r len d.toNat) with
        | (false, s2) => s2
        | (true, s2) =>
          let (bs, s3) := s2.carRow o1 sp r len
          match s3.op? o.id with
          | none => s3
          | some o2 =>
            let left := { o2 with stage := .started, parks := false, kind := .caravan sp r len h d bs n }
            { s3 with ops := s3.ops.filter (fun a => a.id ≠ o.id) ++ [left] }
    | _ => s1

/-! ## Arrival (R301, R402) -/

/-- The home of a physical address, as a number that tells dies and modules apart. -/
def carHome (pa : Nat) : Nat := (if pa < 3 * 2 ^ 48 then 0 else pa / 2 ^ 48 * 16) + stackDie (stackOf pa)

/-- The physical address and key of a caravan's descriptor. -/
def Op.carDesc (o : Op) : Option (Nat × Nat) :=
  match o.kind with
  | .caravan _ _ _ _ d _ _ => pinned o.wpins d.toNat
  | _ => none

/-- Whether a caravan of the same pair of dies that left earlier has not been written yet (R302). -/
def State.carBehind (s : State) (o : Op) : Bool :=
  (s.ops.takeWhile (fun a => a.id ≠ o.id)).any (fun a => a.stage = .started && dieOf a.core = dieOf o.core
    && (match a.carDesc, o.carDesc with
      | some p, some q => carHome p.1 = carHome q.1
      | _, _ => false))

/-- The units of a row, each as it left or as it stands now, by a free choice where they differ (R240, R304). -/
def State.carMix (s : State) : Nat → List Byte → List Byte → List Byte × State
  | 0, _, _ => ([], s)
  | n + 1, old, now =>
    let (b, s1) := if old.take 16 = now.take 16 then (0, s) else s.freeByte
    let (rest, s2) := s1.carMix n (old.drop 16) (now.drop 16)
    ((if b.toNat % 2 = 1 then now.take 16 else old.take 16) ++ rest, s2)

/-- The first field of a receive buffer's descriptor that is outside its limits, by its offset (R300); its reserved bytes are
ignored (R7). -/
def carMalformed (d : List Byte) : Option Nat :=
  if blk d 4 4 = 0 || 2 ^ 21 < blk d 4 4 then some 4
  else if blk d 8 4 % 16 ≠ 0 || blk d 8 4 < 32 || 32784 < blk d 8 4 then some 8
  else if blk d 0x10 8 % 16 ≠ 0 then some 0x10 else none

/-- The bytes of a slot that a caravan writes (R300). -/
def carSlot (h : DWord) (row : List Byte) : List Byte :=
  bytesOf 8 h.toNat ++ bytesOf 4 row.length ++ bytesOf 4 0 ++ row

/-- What an arriving caravan brings to its port: descriptor and key, context and node, header, row bytes, address for the
log. -/
structure CarIn where
  desc : Nat
  key : Nat
  ctx : Option Nat
  node : Nat
  header : DWord
  va : Nat
  deriving DecidableEq, Repr

/-- A record of the port in this module's log; a peer's port writes in the peer's. -/
def State.carLog (s : State) (c : CarIn) (type severity : Nat) (detail : List Nat) : State :=
  if storage c.desc = .dram then
    s.log { type := type, severity := severity, source := stackDie (stackOf c.desc), ctx := c.ctx,
            place := 64 * stackDie (stackOf c.desc), node := c.node, addr := c.va, detail := detail }
  else s

/-- A word of the descriptor raised by 1 at its home. -/
def State.carAdd (s : State) (c : CarIn) (off : Nat) : State :=
  let (v, s1) := s.readNat c.key (c.desc + off) 4
  (s1.writeNat c.key (c.desc + off) 4 (v + 1)).markWritten c.desc

/-- A caravan whose header fails its CRC: counted and recorded; after its fourth arrival it is lost (R402). -/
def State.carQuarantine (s : State) (c : CarIn) (attempt : Nat) : State :=
  let die := stackDie (stackOf c.desc)
  let q := (sget 0 s.dev.quarantine die + 1) % 2 ^ 32
  let hw := [c.header.toNat % 2 ^ 32, c.header.toNat / 2 ^ 32]
  let s0 := if storage c.desc = .dram then { s with dev := { s.dev with quarantine := sset 0 s.dev.quarantine die q } } else s
  let s1 := s0.carLog c 0x0D 1 (hw ++ [q])
  if attempt < 4 then s1 else (s1.carAdd c 0xC).carLog c 0x0E 3 (hw ++ [c.header.toNat / 2 ^ 55])

/-- What a port does with an intact caravan: drops it, or writes it to the slot at a virtual address. -/
inductive CarVerdict where
  | drop (malformed : Option Nat)
  | slot (va fill : Nat)
  deriving DecidableEq, Repr

/-- The verdict on a caravan of `len` row bytes by the descriptor's 64 bytes (R301). -/
def carVerdict (d : List Byte) (len : Nat) : CarVerdict :=
  match carMalformed d with
  | some f => .drop (some f)
  | none =>
    if blk d 4 4 ≤ blk d 0 4 || blk d 8 4 < len + 16 then .drop none
    else .slot ((blkAddr d 0x10 + blk d 0 4 * blk d 8 4) % 2 ^ 52) (blk d 0 4)

/-- A caravan dropped: counted at the buffer, and recorded where the descriptor is malformed. -/
def State.carDrop (s : State) (c : CarIn) (f : Option Nat) : State :=
  let s1 := s.carAdd c 0xC
  match f with
  | some off => s1.carLog c 0x0F 0 [off]
  | none => s1

/-- Whether a port is writing a slot of the buffer whose descriptor lies at a physical address: it takes the caravans of a buffer
one at a time (R301). -/
def State.carWriting (s : State) (pa : Nat) : Bool :=
  s.ops.any (fun a => a.drain.isSome && (a.carDesc.map Prod.fst) = some pa)

/-- The units of a caravan's slot that are named written, or where none is, all that are left, and then the fill word (R240,
R301). -/
def State.carDrain (s : State) (id : Nat) (early : List Nat) : State :=
  match s.op? id with
  | none => s
  | some o =>
    match o.kind, o.drain with
    | .caravan _ _ _ _ d _ _, some (va, fill, bytes) =>
      let s1 := s.engineBytes id (drainNow early bytes)
      if early.isEmpty then (s1.engineWrite id d.toNat (bytesOf 4 (fill + 1))).finishOp o
      else
        let left := bytes.filter (fun b => !early.contains (b.1 / 16))
        s1.onOp id (fun o => { o with drain := some (va, fill, left) })
    | _, _ => s

/-- A caravan of this module that has left, at its port, with its header as received and the units of its slot that become
visible first. -/
def State.carOpArrive (s : State) (o : Op) (h : DWord) (early : List Nat) : State :=
  match o.kind, o.carDesc with
  | .caravan sp r len hs d bs n, some (pa, k) =>
    if o.drain.isSome then s.carDrain o.id early
    else if s.carBehind o || o.record.isSome || s.carWriting pa then s
    else
      let c : CarIn := { desc := pa, key := k, ctx := some o.ctx, node := o.node.toNat, header := h, va := d.toNat }
      let (now, s1) := s.carRow o sp r len
      if !carIntact h then
        let s2 := s1.carQuarantine c (n + 1)
        if n + 1 < 4 then s2.onOp o.id (fun o => { o with kind := .caravan sp r len hs d now (n + 1) }) else s2.finishOp o
      else
        let (mixed, s2) := s1.carMix (len / 16) bs now
        let (db, s3) := s2.readBytes k pa 64
        match carVerdict db len with
        | .drop f => (s3.carDrop c f).finishOp o
        | .slot va fill =>
          match s3.engineOpen o.id [(va, len + 16, .write)] with
          | (false, _) => (s.engineOpen o.id [(va, len + 16, .write)]).2
          | (true, s4) =>
            let slot := (rangeBytes va (len + 16)).zip (carSlot h mixed)
            (s4.onOp o.id (fun o => { o with drain := some (va, fill, slot) })).carDrain o.id early
  | _, _ => s

/-- The context that a frame's key names, for an access from a peer (R342). -/
def State.ctxOfKey (s : State) (key : Nat) : Option Ctx := s.ctxs.find? (fun c => c.key = key)

/-- The pages of a range translated for a port: every byte's place, or none. -/
def State.carPlaces (s : State) (die cn : Nat) : List Nat → Option (List (Nat × Nat)) × State
  | [] => (some [], s)
  | va :: vas =>
    match s.translate [.die die] cn (va % 2 ^ 52) .write with
    | (.error _, s1) => (none, s1)
    | (.ok p, s1) =>
      match s1.carPlaces die cn vas with
      | (none, s2) => (none, s2)
      | (some ps, s2) => (some (p :: ps), s2)

/-- A caravan from a peer module at this module's port; it is written whole in one step (log 90). -/
def State.carPeerArrive (s : State) (desc key : Nat) (h : DWord) (row : List Byte) (attempt : Nat) : State :=
  let len := row.length
  if s.carWriting desc || desc % 64 ≠ 0 || storage desc ≠ .dram || len = 0 || len % 16 ≠ 0 || 32768 < len then s
  else
    let cx := s.ctxOfKey key
    let c : CarIn := { desc := desc, key := key, ctx := cx.map Ctx.num, node := 0, header := h, va := desc }
    if !carIntact h then s.carQuarantine c attempt
    else
      let (db, s1) := s.readBytes key desc 64
      match carVerdict db len, cx with
      | .drop f, _ => s1.carDrop c f
      | .slot va fill, some x =>
        match s1.carPlaces (stackDie (stackOf desc)) x.num (rangeBytes va (len + 16)) with
        | (none, s2) => s2
        | (some ps, s2) =>
          let s3 := (ps.zip (carSlot h row)).foldl (fun (s : State) e =>
            (s.writeByte e.1.2 e.1.1 e.2).markWritten e.1.1) s2
          (s3.writeNat key desc 4 (fill + 1)).markWritten desc
      | .slot .., none => s1

/-- CARAVAN_ARRIVE (R301, R302, R402): a command of this module first leaves its port with its row, then reaches the port of
its destination; a peer's caravan reaches a port of this module. -/
def execCaravanArrive (src : CaravanSource) (s : State) : Host.Outcome State Fault Refusal :=
  .next (match src with
    | .op id h early =>
      match s.op? id with
      | none => s
      | some o => if o.stage = .issued then s.carLeave o else s.carOpArrive o h early
    | .peer desc key h row attempt => s.carPeerArrive desc key h row attempt)

end Sys2Proof.Machine
end

