-- ==== Sys2Proof/Machine/Wadi.lean ====
section
/-! DEFINITION. The Wadi (R306 to R322): WOPEN, WRED, WWAIT, WCORR and WCLOSE, and the steps WADI_ARRIVAL,
WADI_BUDGET_EXPIRY, WCORR_TIMEOUT, WOPEN_STATUS_WRITTEN and WCLOSE_CHANNEL_FREE. Nodes are numbered by level: 0 to 7 the die
nodes, 8 the device root, 9 the top-root node of a channel of span `.system` on its top module. -/

namespace Sys2Proof.Machine

open Sys2Proof

/-! ## Channels -/

/-- An open or closing channel. -/
def State.chan? (s : State) (ch : Nat) : Option Chan := s.wadi.find? (fun c => c.ch = ch)

/-- A channel changed. -/
def State.onChan (s : State) (ch : Nat) (u : Chan → Chan) : State :=
  { s with wadi := s.wadi.map (fun c => if c.ch = ch then u c else c) }

/-- The node of a channel at a level. -/
def Chan.node? (c : Chan) (lvl : Nat) : Option WNode := c.nodes.find? (fun n => n.lvl = lvl)

/-- A node of a channel replaced. -/
def Chan.setNode (c : Chan) (n : WNode) : Chan := { c with nodes := c.nodes.map (fun m => if m.lvl = n.lvl then n else m) }

/-- The ids that a channel maps (R307). -/
def Chan.mapped (c : Chan) : List Nat := (List.range c.map.length).filter (fun i => c.map.getD i 0xFFFF ≠ 0xFFFF)

/-- Whether a level of a channel is the one that writes the records (R306). -/
def Chan.isTop (c : Chan) (lvl : Nat) : Bool :=
  match c.span with
  | 0 => lvl < 8
  | 1 => lvl = 8
  | _ => lvl = 9

/-- The expected set of a level (R306). -/
def Chan.expected (c : Chan) (module lvl : Nat) : List Nat :=
  c.mapped.filter (fun i =>
    let d := c.map.getD i 0xFFFF
    if lvl < 8 then d = 8 * module + lvl else if lvl = 8 then d / 8 = module else true)

/-- The budget of a level in time (R312). -/
def Chan.budget (c : Chan) (lvl : Nat) : Nat :=
  10 * Config.ns * (if lvl < 8 then c.dieBudget else if lvl = 8 then c.devBudget else c.fabBudget)

/-- The bytes of a record: 0x90 + 4E, rounded up (R315). -/
def Chan.recLen (c : Chan) : Nat := roundUp (0x90 + 4 * c.elems) 16

/-- Whether a round is later than another (R312). -/
def roundLater (a b : Word) : Bool := let d := (a - b).toNat; 1 ≤ d && d < 2 ^ 31

/-! ## WOPEN (R307, R308) -/

/-- WOPEN (R307): it acts once, through the lowest virtual lane. -/
def meanWopen (ch : BitVec 8) : Meaning where
  check _ x l :=
    let a := pairAddr (l.s 0) (l.s 1)
    if (x.bottom.map LaneIn.vlane) = some l.vlane && a % 64 ≠ 0 then some (illegalOperand a) else none
  perform x s := x.bottom.map (fun l => x.bundleOp s .device (.wopen ch.toNat (BitVec.ofNat 52 (pairAddr (l.s 0) (l.s 1)))))

/-- WOPEN (R307, R322). -/
def execWopen (g : Guard) (a : Reg) (ch : BitVec 8) (fs : Bool) (s : State) : Host.Outcome State Fault Refusal :=
  s.issue (.wopen g a ch fs) (meanWopen ch)

/-- The channel that a configuration block describes (R307). -/
def chanOf (ch ctx : Nat) (b : List Byte) (lvls : List Nat) : Chan :=
  { ch := ch, ctx := ctx, op := blk b 0 4 % 4, span := blk b 0 4 / 256 % 4, top := blk b 0 4 / 1024 % 64, elems := blk b 4 4,
    dieBudget := blk b 8 2, devBudget := blk b 0xA 2, fabBudget := blk b 0x10 2, slots := blk b 0x14 4,
    result := blkAddr b 0x18, corr := blkAddr b 0x20, cap := blk b 0x28 4, word := blkAddr b 0x30,
    map := (List.range 1024).map (fun i => blk b (0x40 + 2 * i) 2), block := b, nodes := lvls.map (fun l => { lvl := l }),
    transit := [], written := [] }

/-- Whether a block passes the checks of R308, for a fibre on a global die; of the reserved fields, log entry 88. -/
def State.blockOk (s : State) (die : Nat) (c : Chan) : Bool :=
  let b := c.block
  let named := c.mapped.map (fun i => c.map.getD i 0)
  blk b 0 4 / 4 % 64 = 0 && blk b 0 4 / 2 ^ 16 = 0 && c.span ≤ 2 && 1 ≤ c.elems && c.elems ≤ 1024 && 1 ≤ c.dieBudget
    && 1 ≤ c.devBudget && (if c.span = 2 then 1 ≤ c.fabBudget else c.fabBudget = 0) && blk b 0x12 2 = 0 && 1 ≤ c.slots
    && c.slots ≤ 256 && c.result % 16 = 0 && c.corr % 16 = 0 && c.cap ≤ 65535 && blk b 0x2C 4 = 0 && c.word % 4 = 0
    && blk b 0x38 8 = 0 && named.all (fun d => d < 512) && !named.isEmpty
    && (match c.span with
        | 0 => named.all (fun d => d = s.globalDie die)
        | 1 => named.all (fun d => d / 8 = s.dev.modnum)
        | _ => c.top = s.dev.modnum || s.reachable c.top)

/-- The levels at which a channel has nodes on this module (R306). -/
def State.levels (s : State) (die : Nat) (c : Chan) : List Nat :=
  match c.span with
  | 0 => [die]
  | 1 => List.range 9
  | _ => if c.top = s.dev.modnum then List.range 10 else List.range 9

/-- WOPEN_STATUS_WRITTEN (R308): the block is checked, the channel taken if it is free, and the status written. -/
def execWopenStatusWritten (id : Nat) (s : State) : Host.Outcome State Fault Refusal :=
  .next (match s.op? id with
    | none => s
    | some o =>
      match o.kind with
      | .wopen ch cfg =>
        if !s.sent o then s
        else match s.engineOpen id [(cfg.toNat, 2112, .read), (cfg.toNat + 0xC, 4, .write)] with
          | (false, s1) => s1
          | (true, s1) =>
            let (b, s2) := s1.engineRead id cfg.toNat 2112
            let die := dieOf o.core
            let c0 := chanOf ch o.ctx b []
            let c := { c0 with nodes := (s2.levels die c0).map (fun (l : Nat) => ({ lvl := l } : WNode)) }
            let ok := s2.blockOk die c
            let busy := (s2.chan? ch).isSome
            let st := if !ok then 3 else if busy then 2 else 1
            let s3 := if ok && !busy then { s2 with wadi := s2.wadi ++ [c] } else s2
            (s3.engineWrite id (cfg.toNat + 0xC) (bytesOf 4 st)).endBundleOp o
      | _ => s)

/-! ## WRED (R309) -/

/-- The words that members supply, element by element: element e is register e div 32 of virtual lane e mod 32. -/
def wredElems (n : Nat) (ls : List LaneIn) : List (Option Word) :=
  (List.range (32 * n)).map (fun e => (ls.find? (fun l => l.vlane = e % 32)).map (fun l => l.s (e / 32)))

/-- WRED (R309, R310): one contribution of the bundle. The sources stand in the order values, id, round. -/
def meanWred (ch : BitVec 8) (n : BitVec 5) : Meaning where
  perform x s := x.bottom.map (fun l =>
    x.bundleOp s .device (.wred ch.toNat (l.s (n.toNat + 2)) ((l.s (n.toNat + 1)).toNat % 1024) (wredElems (n.toNat + 1) x.lanes)))

/-- WRED (R309, R322). -/
def execWred (g : Guard) (vs vi vr : Reg) (ch : BitVec 8) (n : BitVec 5) (fs : Bool) (s : State) :
    Host.Outcome State Fault Refusal :=
  s.issue (.wred g vs vi vr ch n fs) (meanWred ch n)

/-- An element as a channel's operator reads it (R309). -/
def wadiElem (op : Nat) (w : Option Word) : Word :=
  match w with
  | none => if op = 1 then 0xFF800000 else if op = 2 then 0 else 0x80000000
  | some w =>
    if op = 3 then
      let x := w <<< 16
      if (fp32.read x.toNat).isSig then 0x7FC00000 else x
    else w

/-- Two elements combined (R313). -/
def wadiCombine (op : Nat) (a b : Word) : Word :=
  match op with
  | 1 => BitVec.ofNat 32 (fminmax true false false a.toNat b.toNat).bits
  | 2 => a + b
  | _ => faddWord a b

/-! ## Memory that the top root writes (R315 to R317) -/

/-- A counter of the correction area raised by `n`. -/
def State.wadiCount (s : State) (c : Chan) (off n : Nat) : State :=
  let (v, s1) := s.walkerNat c.ctx (c.corr + off) 4
  s1.walkerWrite c.ctx (c.corr + off) (bytesOf 4 (v + n))

/-- The bitmap of some ids (R315). -/
def bitmapOf (ids : List Nat) : List Byte := bytesOf 128 (laneMask ids)

/-- A record's bytes (R315). -/
def Chan.recordBytes (c : Chan) (round status : Word) (ids : List Nat) (v : List Word) : List Byte :=
  bytesOfWord round ++ bytesOf 4 ids.length ++ bytesOfWord status ++ bytesOf 4 c.elems ++ bitmapOf ids ++ v.flatMap bytesOfWord

/-- A late packet appended to the correction area, or counted lost (R316). -/
def State.correction (s : State) (c : Chan) (round status : Word) (ids : List Nat) (v : List Word) : State :=
  let (n, s1) := s.walkerNat c.ctx c.corr 4
  if c.cap ≤ n then s1.wadiCount c 4 1
  else (s1.walkerWrite c.ctx (c.corr + 16 + n * c.recLen) (c.recordBytes round status ids v)).walkerWrite c.ctx c.corr
    (bytesOf 4 (n + 1))

/-! ## Waiting (R318, R319) -/

/-- Whether a round's slot has been given to a later one (R318). -/
def Chan.overwritten (c : Chan) (r : Word) : Bool :=
  match c.written with
  | [] => false
  | (newest, _, _) :: _ => roundLater newest r && c.slots ≤ (newest - r).toNat

/-- What WWAIT returns for a round, once it returns (R318). -/
def Chan.answer (c : Chan) (r : Word) : Option Word :=
  if c.overwritten r then some 0xFFFFFFFF else (c.written.find? (fun w => w.1 = r)).map (fun w => w.2.1)

/-- A context's channel. -/
def State.chanFor (s : State) (cn ch : Nat) : Option Chan := (s.chan? ch).filter (fun c => c.ctx = cn)

/-- What WWAIT returns to a fibre of a context. -/
def State.wwaitAnswer (s : State) (cn ch : Nat) (r : Word) : Option Word := (s.chanFor cn ch).bind (fun c => c.answer r)

/-- The ids in the entries of a round in the correction area, from entry `i` on (R319). -/
def State.corrIds (s : State) (c : Chan) (r : Word) : Nat → Nat → List Nat × State
  | 0, _ => ([], s)
  | n + 1, i =>
    let a := c.corr + 16 + i * c.recLen
    let (round, s1) := s.walkerNat c.ctx a 4
    let (map, s2) := if round = r.toNat then s1.walkerNat c.ctx (a + 0x10) 128 else (0, s1)
    let mine := if round = r.toNat then (List.range 1024).filter (fun j => map / 2 ^ j % 2 = 1) else []
    let (rest, s3) := s2.corrIds c r n (i + 1)
    (mine ++ rest, s3)

/-- What WCORR returns to a fibre of a context whose budget ends at a time, once it returns (R319). -/
def State.wcorrAnswer (s : State) (cn ch : Nat) (r : Word) (until_ : Nat) : Option Word × State :=
  match s.chanFor cn ch with
  | none => (none, s)
  | some c =>
    if c.overwritten r then (some 0xFFFFFFFF, s)
    else match c.written.find? (fun w => w.1 = r) with
      | none => (none, s)
      | some (_, _, ids) =>
        let (n, s1) := s.walkerNat c.ctx c.corr 4
        let (more, s2) := s1.corrIds c r (min n c.cap) 0
        let union := (List.range 1024).filter (fun i => ids.contains i || more.contains i)
        let full := union = c.mapped
        if full || until_ ≤ s2.time then
          (some (BitVec.ofNat 32 (union.length + (if full then 2 ^ 31 else 0))), s2)
        else (none, s2)

/-- One fibre's wait on a channel tried: it receives its word and goes on, or stays parked. -/
def State.wadiTry (s : State) (w : Warp) (f : Fibre) : State :=
  match s.group? w.gid, f.park.map Park.wait with
  | some g, some (.wadi ch r dst) =>
    match s.wwaitAnswer g.ctx ch r with
    | some v => (s.wakeFibre w f dst v).acquireAt (coreOf w.wid) g .device
    | none => s
  | some g, some (.corr ch r until_ dst) =>
    match s.wcorrAnswer g.ctx ch r until_ with
    | (some v, s1) => (s1.wakeFibre w f dst v).acquireAt (coreOf w.wid) g .device
    | (none, s1) => s1
  | _, _ => s

/-- The fibres that wait on a channel tried again. -/
def State.wadiWake (s : State) (ch : Nat) : State :=
  let on (f : Fibre) : Bool :=
    match f.park.map Park.wait with
    | some (.wadi c _ _) => c = ch
    | some (.corr c _ _ _) => c = ch
    | _ => false
  s.warps.foldl (fun s w => (w.fibres.filter on).foldl (fun s f => s.wadiTry w f) s) s

/-- WWAIT (R318). -/
def meanWwait (ch : BitVec 8) : Meaning where
  perform x s := some (x.lanes.foldl (fun s l =>
    x.answer s l (s.wwaitAnswer x.g.ctx ch.toNat (l.s 0)) (.wadi ch.toNat (l.s 0))) s)

/-- WWAIT (R318, R322). -/
def execWwait (g : Guard) (d vr : Reg) (ch : BitVec 8) (s : State) : Host.Outcome State Fault Refusal :=
  s.issue (.wwait g d vr ch) (meanWwait ch)

/-- WCORR (R319): the budget runs from this execution. -/
def meanWcorr (ch : BitVec 8) : Meaning where
  perform x s := some (x.lanes.foldl (fun s l =>
    let until_ := s.time + 10 * Config.ns * (l.s 1).toNat
    let (r, s1) := s.wcorrAnswer x.g.ctx ch.toNat (l.s 0) until_
    x.answer s1 l r (.corr ch.toNat (l.s 0) until_)) s)

/-- WCORR (R319, R322). -/
def execWcorr (g : Guard) (d vr vb : Reg) (ch : BitVec 8) (s : State) : Host.Outcome State Fault Refusal :=
  s.issue (.wcorr g d vr vb ch) (meanWcorr ch)

/-- WCORR_TIMEOUT (R319): a fibre whose budget has run out, and whose round's record is written, leaves with the union as it
stands. -/
def execWcorrTimeout (wid lane : Nat) (s : State) : Host.Outcome State Fault Refusal :=
  .next (match s.warp? wid with
    | none => s
    | some w =>
      match w.fibre? lane with
      | none => s
      | some f =>
        match f.park.map Park.wait with
        | some (.corr _ _ until_ _) => if until_ ≤ s.time then s.wadiTry w f else s
        | _ => s)

/-! ## Arrival at a node (R311 to R314) -/

/-- What reaches a node: a round's vector with its ids, and the levels that expired on its way. -/
structure WIn where
  round : Word
  vector : List Word
  ids : List Nat
  expDie : Bool := false
  expRoot : Bool := false
  deriving DecidableEq, Repr

/-- A record written by the top root, with the completion word, and the waits that it ends (R315, R318). -/
def State.wadiRecord (s : State) (c : Chan) (round status : Word) (ids : List Nat) (v : List Word) : State :=
  let s1 := s.walkerWrite c.ctx (c.result + round.toNat % c.slots * c.recLen) (c.recordBytes round status ids v)
  let s2 := if c.word = 0 then s1 else s1.walkerWrite c.ctx c.word (bytesOfWord round)
  let kept := c.written.filter (fun w => (round - w.1).toNat < c.slots && w.1 ≠ round)
  (s2.onChan c.ch (fun c => { c with written := (round, status, ids) :: kept })).wadiWake c.ch

/-- A packet sent up from a level: to the device root, from there to the top root, or out of this module (R306). -/
def State.wadiSend (s : State) (c : Chan) (lvl : Nat) (p : WIn) (late : Bool) : State :=
  let (id, s1) := s.fresh
  let dest := if lvl < 8 then 8 else if c.top = s.dev.modnum then 9 else 100 + c.top
  let pk : Packet := { id := id, src := lvl, dest := dest, round := p.round, vector := p.vector, ids := p.ids, late := late, expDie := p.expDie,
                       expRoot := p.expRoot }
  if dest < 100 then s1.onChan c.ch (fun c => { c with transit := c.transit ++ [pk] }) else s1

/-- A node's oldest round forwarded (R312, R315), at its budget's end or when it is full. -/
def State.wadiForward (s : State) (ch lvl : Nat) (expired : Bool) : State :=
  match s.chan? ch with
  | none => s
  | some c =>
    match c.node? lvl with
    | none => s
    | some n =>
      match n.last with
      | none => s
      | some f =>
        match n.rounds.find? (fun r => r.round = f + 1) with
        | none => s
        | some r =>
          let n1 := { n with last := some (f + 1), rounds := n.rounds.filter (fun x => x.round ≠ f + 1)
                             seen := n.seen.filter (fun x => x.1 ≠ f + 1), firsts := n.firsts.filter (fun x => x.1 ≠ f + 1) }
          let s1 := s.onChan ch (fun c => c.setNode n1)
          let s2 := if expired then s1.wadiCount c 8 1 else s1
          if c.isTop lvl then
            let full := c.mapped.all r.ids.contains
            let st := full.toNat + 2 * r.expDie.toNat + 4 * r.expRoot.toNat + 8 * expired.toNat
            s2.wadiRecord c r.round (BitVec.ofNat 32 st) r.ids r.vector
          else
            let pin : WIn := { round := r.round, vector := r.vector, ids := r.ids, expDie := r.expDie || (expired && lvl < 8),
                               expRoot := r.expRoot || (expired && lvl = 8) }
            s2.wadiSend c lvl pin false

/-- Whether a node's oldest round holds every expected id. -/
def State.wadiFull (s : State) (ch lvl : Nat) : Bool :=
  match s.chan? ch with
  | none => false
  | some c =>
    match c.node? lvl with
    | none => false
    | some n =>
      match n.last.bind (fun f => n.rounds.find? (fun r => r.round = f + 1)) with
      | none => false
      | some r => (c.expected s.dev.modnum lvl).all r.ids.contains

/-- The full rounds of a node forwarded, of at most two that it buffers. -/
def State.wadiDrain (s : State) (ch lvl : Nat) : State :=
  let s1 := if s.wadiFull ch lvl then s.wadiForward ch lvl false else s
  if s1.wadiFull ch lvl then s1.wadiForward ch lvl false else s1

/-- An arrival that joins a round's buffer (R312, R313). -/
def WNode.join (n : WNode) (op : Nat) (p : WIn) (now : Nat) : WNode :=
  match n.rounds.find? (fun r => r.round = p.round) with
  | none =>
    let r : Round := { round := p.round, vector := p.vector, ids := (List.range 1024).filter p.ids.contains,
                       first := ((n.firsts.find? (fun x => x.1 = p.round)).map Prod.snd).getD now, expDie := p.expDie, expRoot := p.expRoot }
    { n with rounds := n.rounds ++ [r] }
  | some _ =>
    { n with rounds := n.rounds.map (fun r =>
        if r.round = p.round then
          { r with vector := r.vector.zipWith (wadiCombine op) p.vector
                   ids := (List.range 1024).filter (fun i => r.ids.contains i || p.ids.contains i)
                   expDie := r.expDie || p.expDie
                   expRoot := r.expRoot || p.expRoot }
        else r) }

/-- The node of a channel at a level. -/
def State.wnode? (s : State) (ch lvl : Nat) : Option WNode := (s.chan? ch).bind (fun c => c.node? lvl)

/-- A node changed. -/
def State.onWNode (s : State) (ch lvl : Nat) (u : WNode → WNode) : State :=
  s.onChan ch (fun c => { c with nodes := c.nodes.map (fun n => if n.lvl = lvl then u n else n) })

/-- The id by which arrivals of one clock are ordered: the lowest that it includes (R313). -/
def WIn.id (p : WIn) : Nat := p.ids.foldl min 1024

/-- Whether an arrival must leave the others of its clock first: one of a higher id has been taken in it (R313). It arrives in
a later clock then. -/
def WNode.after (n : WNode) (clock id : Nat) : Bool := n.taken.any (fun t => t.1 = clock && id < t.2)

/-- The rounds of the arrivals that wait at a node's input (R312). -/
def State.wadiWaiting (s : State) (ch lvl : Nat) : List Word :=
  (s.ops.filterMap (fun o => match o.kind with
    | .wred c r _ _ => if c = ch && dieOf o.core = lvl && o.stage = .started then some r else none
    | _ => none))
    ++ (((s.chan? ch).map Chan.transit).getD []).filterMap (fun p => if p.dest = lvl && p.waiting then some p.round else none)

/-- Whether a node would take an arrival of a round now, and not leave it at its input (R312). -/
def WNode.takes (n : WNode) (r : Word) : Bool := !n.last.any (fun f => roundLater r f && 2 < (r - f).toNat)

/-- Whether an arrival waits at a node's input that the node would now take: it goes before a new one and before the end of the
oldest round's budget. -/
def State.wadiAhead (s : State) (ch lvl : Nat) : Bool :=
  (s.wnode? ch lvl).any (fun n => (s.wadiWaiting ch lvl).any n.takes)

/-- Whether the budget of a node's oldest round has run out (R312). -/
def State.wadiExpired (s : State) (ch lvl : Nat) : Bool :=
  match s.chan? ch with
  | none => false
  | some c =>
    (c.node? lvl).any (fun n => n.last.any (fun f =>
      n.rounds.any (fun r => r.round = f + 1 && r.first + c.budget lvl ≤ s.time))) && !s.wadiAhead ch lvl

/-- The oldest round of a node forwarded if its budget has run out, and what is full after it (R312). -/
def State.wadiExpire (s : State) (ch lvl : Nat) : State :=
  if s.wadiExpired ch lvl then (s.wadiForward ch lvl true).wadiDrain ch lvl else s

/-- A node as an arrival finds it: the rounds whose budget has run out are forwarded, of at most two that it buffers (R312). -/
def State.wadiDue (s : State) (ch lvl : Nat) : State := (s.wadiExpire ch lvl).wadiExpire ch lvl

/-- An arrival handled at a node: none while it waits at the node's input (R312). -/
def State.wadiTake (s : State) (ch lvl : Nat) (p : WIn) : Option State :=
  match s.chan? ch with
  | none => none
  | some c =>
    match c.node? lvl with
    | none => none
    | some m =>
      let n := { m with taken := some (s.clock, p.id) }
      let f := n.last.getD (p.round - 1)
      if !roundLater p.round f then
        let s0 := s.onChan ch (fun c => c.setNode n)
        let s1 := if lvl < 8 then s0.wadiCount c 0xC 1 else s0
        let st := BitVec.ofNat 32 (16 + 2 * p.expDie.toNat + 4 * p.expRoot.toNat)
        some (if c.isTop lvl then (s1.correction c p.round st p.ids p.vector).wadiWake ch else s1.wadiSend c lvl p true)
      else if !m.takes p.round then none
      else some ((s.onChan ch (fun c => c.setNode ({ n with last := some f }.join c.op p s.time))).wadiDrain ch lvl)

/-- An arrival noted at the input of a node where it waits: its round's timer starts (R312). -/
def State.wadiHold (s : State) (ch lvl : Nat) (r : Word) : State :=
  s.onWNode ch lvl (fun n => if n.firsts.any (fun x => x.1 = r) || n.rounds.any (fun x => x.round = r) then n
    else { n with firsts := n.firsts ++ [(r, s.time)] })

/-- A record of type 0x10 (R406). -/
def State.wadiLog (s : State) (source : Nat) (ctx : Option Nat) (place node ch id : Nat) (round : Word) : State :=
  s.log { type := 0x10, severity := 0, source := source, ctx := ctx, place := place, node := node,
          detail := [ch, id, round.toNat] }

/-- The hub of a channel's device root, as the source of a record. -/
def hubSource (ch : Nat) : Nat := 8 + ch / 128

/-- Whether a contribution of an id has arrived at a node for a round that it has not forwarded (R311). One of a forwarded round
is late, whatever has arrived for it (R312, R321). -/
def WNode.holds (n : WNode) (round : Word) (id : Nat) : Bool :=
  !n.last.any (fun f => !roundLater round f) && (n.seen.contains (round, id) || n.rounds.any (fun r => r.round = round && r.ids.contains id))

/-- A contribution noted at a node, where its round is still to be forwarded (R311). -/
def WNode.see (n : WNode) (round : Word) (id : Nat) : WNode :=
  if n.last.any (fun f => !roundLater round f) then n else { n with seen := n.seen ++ [(round, id)] }

/-- A contribution rejected (R311): the channel's reject count stands at the top root, on another module for a channel of span
`.system` whose top module that is, which sends it back (R317; log entry 64). -/
def State.wadiReject (s : State) (c : Chan) : State :=
  if c.span = 2 && c.top ≠ s.dev.modnum then s else s.onChan c.ch (fun c => { c with rejects := c.rejects + 1 })

/-- A contribution at its die node (R310, R311): one that waits at the node's input has reached it (R312). -/
def State.wadiContribute (s0 : State) (o : Op) (ch : Nat) (round : Word) (id : Nat) (elems : List (Option Word)) : State :=
  let die := dieOf o.core
  let s := s0.wadiDue ch die
  match (s.chanFor o.ctx ch).filter (fun c => !c.closing) with
  | none => (s.wadiLog die (some o.ctx) (placeOf o.wid) o.node.toNat ch id round).endBundleOp o
  | some c =>
    let n := (c.node? die).getD { lvl := die }
    let held := o.stage = .started && n.seen.contains (round, id)
    if n.after s.clock id || (!held && s.wadiAhead ch die) then s
    else if c.map.getD id 0xFFFF ≠ s.globalDie die || (!held && n.holds round id) then (s.wadiReject c).endBundleOp o
    else
      let v := (List.range c.elems).map (fun e => wadiElem c.op (elems.getD e none))
      let s1 := if held then s else s.onWNode ch die (fun n => n.see round id)
      match s1.wadiTake ch die { round := round, vector := v, ids := [id] } with
      | none => (s1.wadiHold ch die round).onOp o.id (fun o => { o with stage := .started })
      | some s2 => s2.endBundleOp o

/-- A packet of this module that reaches its node, in the order in which its level sent it (R23, R313). -/
def State.wadiPacket (s0 : State) (ch : Nat) (p : Packet) : State :=
  let s := s0.wadiDue ch p.dest
  match s.chan? ch, s.wnode? ch p.dest with
  | some c, some n =>
    let pin : WIn := { round := p.round, vector := p.vector, ids := p.ids, expDie := p.expDie, expRoot := p.expRoot }
    let first := (c.transit.find? (fun q => q.src = p.src && q.dest = p.dest && !q.waiting)).any (fun q => q.id = p.id)
    if n.after s.clock pin.id || (!p.waiting && (!first || s.wadiAhead ch p.dest)) then s
    else
      match (s.onChan ch (fun c => { c with transit := c.transit.filter (fun q => q.id ≠ p.id) })).wadiTake ch p.dest pin with
      | some s1 => s1
      | none => (s.wadiHold ch p.dest p.round).onChan ch (fun c =>
          { c with transit := c.transit.map (fun q => if q.id = p.id then { q with waiting := true } else q) })
  | _, _ => s

/-- A block without the status and the three addresses: what a module's block must have in common with the top root's
(R308). -/
def blockKey (b : List Byte) : List Byte := b.take 0xC ++ (b.drop 0x10).take 8 ++ (b.drop 0x28).take 8 ++ b.drop 0x38

/-- A packet of a peer module at this module's top root (R308, R314): the module's block is compared with the top root's own
at the first. -/
def State.wadiPeer (s0 : State) (m ch : Nat) (p : WIn) (late : Bool) (block : List Byte) : State :=
  let s := s0.wadiDue ch 9
  match s.chan? ch with
  | none => s
  | some c =>
    if c.span ≠ 2 || c.top ≠ s.dev.modnum || m = s.dev.modnum || p.vector.length ≠ c.elems then s
    else if c.closing then s.onChan ch (fun c => { c with rejects := c.rejects + 1 })
    else
      let agrees := blockKey block = blockKey c.block
      let bad := if c.compared.contains m then c.excluded.contains m else !agrees
      let s1 := if c.compared.contains m then s else
        let s0 := s.onChan ch (fun c =>
          { c with compared := m :: c.compared, excluded := if agrees then c.excluded else m :: c.excluded })
        if agrees then s0 else s0.wadiLog (hubSource ch) (some c.ctx) 0 0 ch (p.ids.headD 0) p.round
      if bad then s1.onChan ch (fun c => { c with rejects := c.rejects + 1 })
      else if ((c.node? 9).any (fun n => n.after s.clock p.id)) || s.wadiAhead ch 9 then s
      else
        match s1.wadiTake ch 9 p with
        | some s2 => s2
        | none =>
          let (id, s2) := (s1.wadiHold ch 9 p.round).fresh
          let pk : Packet := { id := id, src := 100 + m, dest := 9, round := p.round, vector := p.vector, ids := p.ids, late := late,
                               expDie := p.expDie, expRoot := p.expRoot, waiting := true }
          s2.onChan ch (fun c => { c with transit := c.transit ++ [pk] })

/-- An expiry, a late packet or a lost one counted at another module's node, or a contribution rejected there, at this module's
top root (R316, R317). -/
def State.wadiPeerCounter (s : State) (m ch : Nat) (off : Option (Fin 3)) : State :=
  match s.chan? ch with
  | none => s
  | some c =>
    if c.span ≠ 2 || c.top ≠ s.dev.modnum || m = s.dev.modnum || c.closing || c.excluded.contains m then s
    else match off with
      | some k => s.wadiCount c (4 + 4 * k.val) 1
      | none => s.onChan ch (fun c => { c with rejects := c.rejects + 1 })

/-- What a peer's top root sends to this module (R315 to R317). -/
def State.wadiFromTop (s : State) (ch : Nat) (t : TopMessage) : State :=
  match s.chan? ch with
  | none => s
  | some c =>
    if c.span ≠ 2 || c.top = s.dev.modnum || c.closing then s
    else match t with
      | .record r st ids v => if v.length = c.elems then s.wadiRecord c r st ids v else s
      | .correction r st ids v => if v.length = c.elems then (s.correction c r st ids v).wadiWake ch else s
      | .counter off => s.wadiCount c (4 + 4 * off.val) 1
      | .reject => s.onChan ch (fun c => { c with rejects := c.rejects + 1 })

/-- WADI_ARRIVAL (R310 to R314): a contribution, a packet of this module in transit, or one from a peer module. -/
def execWadiArrival (src : WadiSource) (s : State) : Host.Outcome State Fault Refusal :=
  .next (match src with
    | .contribution id =>
      match s.op? id with
      | none => s
      | some o =>
        match o.kind with
        | .wred ch round i es =>
          let earlier := s.ops.any (fun a => a.gid = o.gid && a.order < o.order && a.fids.any o.fids.contains && (match a.kind with
            | .wred c r _ _ => a.stage = .issued || (c = ch && r = round)
            | _ => false))
          if earlier then s else s.wadiContribute o ch round i es
        | _ => s
    | .transit id =>
      match s.wadi.find? (fun c => c.transit.any (fun p => p.id = id)) with
      | none => s
      | some c =>
        match c.transit.find? (fun p => p.id = id) with
        | none => s
        | some p => s.wadiPacket c.ch p
    | .peer m ch round ids v ed er late block =>
      s.wadiPeer m ch { round := round, vector := v, ids := ids, expDie := ed, expRoot := er } late block
    | .peerCounter m ch off => s.wadiPeerCounter m ch off
    | .fromTop ch t => s.wadiFromTop ch t)

/-- The number of a level. -/
def levelNumber : WadiLevel → Nat
  | .die n => n % 8 | .root => 8 | .top => 9

/-- WADI_BUDGET_EXPIRY (R312): a node whose oldest round has stood for the node's budget forwards it as it is. -/
def execWadiBudgetExpiry (ch : Nat) (level : WadiLevel) (s : State) : Host.Outcome State Fault Refusal :=
  .next (s.wadiExpire ch (levelNumber level))

/-! ## Closing (R321) -/

/-- WCLOSE (R321): it acts once, through the lowest virtual lane. -/
def meanWclose (ch : BitVec 8) : Meaning where
  perform x s := x.bottom.map (fun _ => x.bundleOp s .device (.wclose ch.toNat))

/-- WCLOSE (R321, R322). -/
def execWclose (g : Guard) (ch : BitVec 8) (fs : Bool) (s : State) : Host.Outcome State Fault Refusal :=
  s.issue (.wclose g ch fs) (meanWclose ch)

/-- A channel that begins to close: every node discards what it has not forwarded. -/
def State.wadiClosing (s : State) (ch : Nat) : State :=
  s.onChan ch (fun c => { c with closing := true, transit := [], nodes := c.nodes.map (fun n => { n with rounds := [], seen := [], firsts := [] }) })

/-- A channel set free, its rejects added to the lost word (R317, R321). -/
def State.wadiFree (s : State) (c : Chan) : State :=
  let s1 := s.wadiCount c 4 c.rejects
  { s1 with wadi := s1.wadi.filter (fun x => x.ch ≠ c.ch) }

/-- WCLOSE_CHANNEL_FREE (R321): a channel of the context first closes to arrivals, then becomes free and the command
completes; of another channel the command completes with no effect and leaves a record. -/
def execWcloseChannelFree (id : Nat) (s : State) : Host.Outcome State Fault Refusal :=
  .next (match s.op? id with
    | none => s
    | some o =>
      match o.kind with
      | .wclose ch =>
        match s.chanFor o.ctx ch with
        | none => (s.wadiLog (hubSource ch) (some o.ctx) (placeOf o.wid) o.node.toNat ch 0 0).endBundleOp o
        | some c => if c.closing then (s.wadiFree c).endBundleOp o else s.wadiClosing ch
      | _ => s)

end Sys2Proof.Machine
end

