-- ==== Sys2Proof/Machine/Attention.lean ====
section
/-! DEFINITION. The attention engine and the KV cache (R324 to R337): ATTN, KVAPPEND, KVXLATE, PFXFIND and PFXINS, and the
steps ATTN_REQUEST_START, ATTN_REQUEST_COMPLETE, KVAPPEND_AT_HOME, PFXINS_AT_HOME and RESULT_LANDS. -/

namespace Sys2Proof.Machine

open Sys2Proof

/-! ## Arithmetic (R328, R335) -/

/-- A quotient correctly rounded to FP32, specials as IEEE 754 gives them. -/
def fdiv (a b : FV) : Word :=
  BitVec.ofNat 32 (match a, b with
    | .nan _, _ => 0x7FC00000
    | _, .nan _ => 0x7FC00000
    | .inf _, .inf _ => 0x7FC00000
    | .inf s, .num t _ _ => fp32.infinity (s != t)
    | .num s _ _, .inf t => fp32.sign (s != t)
    | .num s m e, .num t n g =>
      if n = 0 then (if m = 0 then 0x7FC00000 else fp32.infinity (s != t))
      else
        let q := m * 2 ^ 300 / n
        (fp32.round .rne 0 (s != t) (2 * q + (if m * 2 ^ 300 % n = 0 then 0 else 1)) (e - g - 301)).bits)

/-- A product formed exactly as a term of a sum: a NaN for ∞ × 0 (R271). -/
def termMul (a b : FV) : FV := if a.isNan || b.isNan then .nan false else (a.mul b).getD (.nan false)

/-- The value of an FP32 word. -/
def fv (w : Word) : FV := fp32.read w.toNat

/-- FP32 +0. -/
def fvZero : FV := .num false 0 0

/-- A sum of two words, a difference and a product, rounded by RNE. -/
def fAdd (a b : Word) : Word := BitVec.ofNat 32 (fp32.fadd .rne false 0 (fv a) (fv b)).bits
/-- See `fAdd`. -/
def fSub (a b : Word) : Word := BitVec.ofNat 32 (fp32.fadd .rne false 0 (fv a) (fv b).neg).bits
/-- See `fAdd`. -/
def fMul (a b : Word) : Word := BitVec.ofNat 32 (fp32.fmul .rne false 0 (fv a) (fv b)).bits

/-- exp2r of R335. -/
def exp2r (x : Word) : Word :=
  if x = 0xFF800000 then 0 else BitVec.ofNat 32 (sfuOf .exp2 false (fMul x 0x3FB8AA3B)).bits

/-- The larger of two words. -/
def fMaxWord (a b : Word) : Word := BitVec.ofNat 32 (fminmax true false false a.toNat b.toNat).bits

/-! ## KV blocks (R324 to R326) -/

/-- D of a code (R324). -/
def kvDim (code : Nat) : Nat := 64 * 2 ^ code

/-- The size of a record (R325). -/
def kvRec (fmt d : Nat) : Nat :=
  match fmt with
  | 0 => 4 * d
  | 1 => 2 * d
  | _ => d + d / 8

/-- The size of a block (R325). -/
def kvSize (fmt d : Nat) : Nat := roundUp (128 + 16 * kvRec fmt d) 256

/-- The fields of a format word: fmt, D code, filled count. -/
def kvFmt (h : List Byte) : Nat := blk h 0 4 % 4
/-- See `kvFmt`. -/
def kvCode (h : List Byte) : Nat := blk h 0 4 / 256 % 4
/-- See `kvFmt`. -/
def kvFilled (h : List Byte) : Nat := blk h 0 4 / 65536 % 32

/-- A block whose format word holds fmt 3 or D code 3 (R325). -/
def kvBad (h : List Byte) : Bool := kvFmt h = 3 || kvCode h = 3

/-- The CRC of a block with `n` records filled (R326). -/
def kvCrc (b : List Byte) (fmt d n : Nat) : Nat := crc32c ((b.drop 8).take 8 ++ (b.drop 128).take (n * kvRec fmt d))

/-- Element `e` of the key, or of the value, of record `u` (R325). -/
def kvElem (b : List Byte) (fmt d u : Nat) (v : Bool) (e : Nat) : FV :=
  let at_ := 128 + kvRec fmt d * u
  match fmt with
  | 0 => bf16.read (blk b (at_ + 2 * e + (if v then 2 * d else 0)) 2)
  | 1 =>
    termMul (e4m3.read (blk b (at_ + e + (if v then d else 0)) 1)) (fp32.read (blk b (if v then 0xC else 8) 4))
  | _ =>
    let nib := blk b (at_ + e / 2 + (if v then d / 2 else 0)) 1 / 16 ^ (e % 2) % 16
    let sc := blk b (at_ + d + e / 16 + (if v then d / 16 else 0)) 1
    if sc = 255 then .nan false else termMul (e2m1.read nib) (.num false 1 (sc - 127))

/-! ## Quantisation (R328) -/

/-- ⌊log₂ a⌋ of a finite nonzero value. -/
def floorLog2 (m : Nat) (e : Int) : Int := (bitLen m : Int) - 1 + e

/-- Whether one magnitude exceeds another; a NaN counts as 0. -/
def magOver (a b : Word) : Bool :=
  let mag (w : Word) : Nat := if (fv w).isNan then 0 else w.toNat % 2 ^ 31
  mag b < mag a

/-- The scale byte of a group. -/
def e2m1Scale (xs : List Word) : Nat :=
  match fv (xs.foldl (fun a x => if magOver x a then x else a) 0) with
  | .inf _ => 254
  | .num _ m e => if m = 0 then 127 else (min 254 (max 0 (floorLog2 m e + 125))).toNat
  | .nan _ => 127

/-- An element of a group as E2M1. -/
def e2m1Elem (x : Word) (e : Nat) : Nat :=
  match fv x with
  | .num s m g =>
    let r := e2m1.round .rne 0 s m (g + 127 - e)
    if r.fl &&& fOF ≠ 0 then e2m1.sign s + e2m1.maxBits else r.bits
  | _ => (e2m1.narrow .rne true 0 x.toNat).bits

/-- The groups of 16 elements of a row. -/
def groups16 (xs : List Word) : List (List Word) := (List.range (xs.length / 16)).map (fun i => (xs.drop (16 * i)).take 16)

/-- Nibbles packed from the low end (R5). -/
def packNibbles : List Nat → List Byte
  | a :: b :: rest => BitVec.ofNat 8 (a + 16 * b) :: packNibbles rest
  | _ => []

/-- The bytes of a token record for the rows of a key and a value, under a header's scales (R325, R328). -/
def kvQuantise (fmt : Nat) (h : List Byte) (k v : List Word) : List Byte :=
  match fmt with
  | 0 => (k ++ v).flatMap (fun x => bytesOf 2 (bf16.narrow .rne false 0 x.toNat).bits)
  | 1 =>
    let row (s : Nat) (xs : List Word) : List Byte :=
      xs.map (fun x => BitVec.ofNat 8 (e4m3.narrow .rne true 0 (fdiv (fv x) (fp32.read s)).toNat).bits)
    row (blk h 8 4) k ++ row (blk h 0xC 4) v
  | _ =>
    let elems (xs : List Word) : List Byte := packNibbles ((groups16 xs).flatMap (fun g => g.map (fun x => e2m1Elem x (e2m1Scale g))))
    let scales (xs : List Word) : List Byte := (groups16 xs).map (fun g => BitVec.ofNat 8 (e2m1Scale g))
    elems k ++ elems v ++ scales k ++ scales v

/-! ## KVAPPEND (R327) -/

/-- The row that members supply from a run of registers that begins at source word `at_`: +0 where no member does. -/
def kvRow (at_ n : Nat) (ls : List LaneIn) : List Word :=
  (List.range (32 * n)).map (fun e => ((ls.find? (fun l => l.vlane = e % 32)).map (fun l => l.s (at_ + e / 32))).getD 0)

/-- KVAPPEND (R327): one command of the bundle. The sources stand in the order block, key run, value run, token. -/
def meanKvappend (sc : Scope) (dim : KvD) : Meaning where
  check _ x l :=
    let a := pairAddr (l.s 0) (l.s 1)
    if (x.bottom.map LaneIn.vlane) = some l.vlane && a % 256 ≠ 0 then some (illegalOperand a) else none
  perform x s := x.bottom.map (fun l =>
    let n := dim.regs
    x.bundleOp s sc (.kvappend (l.s (2 + 2 * n)) (BitVec.ofNat 52 (pairAddr (l.s 0) (l.s 1))) (kvRow 2 n x.lanes)
      (kvRow (2 + n) n x.lanes) dim))

/-- KVAPPEND (R327, R337). -/
def execKvappend (g : Guard) (t blk k v : Reg) (fs : Bool) (scope : Scope) (dim : KvD) (s : State) :
    Host.Outcome State Fault Refusal :=
  s.issue (.kvappend g t blk k v fs scope dim) (meanKvappend scope dim)

/-- KVAPPEND_AT_HOME (R327): the token is written, the CRC and the filled count with it; or the block marked overfilled. -/
def execKvappendAtHome (id : Nat) (s : State) : Host.Outcome State Fault Refusal :=
  .next (match s.op? id with
    | none => s
    | some o =>
      match o.kind with
      | .kvappend t b k v dim =>
        if !s.sent o then s
        else match s.engineOpen id [(b.toNat, 128, .read), (b.toNat, 128, .write)] with
          | (false, s1) => s1
          | (true, s1) =>
            let (h, s2) := s1.engineRead id b.toNat 128
            let d := 32 * dim.regs
            let fmt := kvFmt h
            let u := kvFilled h
            if kvBad h || kvDim (kvCode h) ≠ d || 16 ≤ u then
              (s2.engineWrite id b.toNat (bytesOf 4 (blk h 0 4 % 2 ^ 31 + 2 ^ 31))).endBundleOp o
            else
              let z := kvRec fmt d
              let at_ := b.toNat + 128 + z * u
              match s2.engineOpen id [(b.toNat + 128, z * u, .read), (at_, z, .write)] with
              | (false, s3) => s3
              | (true, s3) =>
                let row := kvQuantise fmt h k v
                let (old, s4) := s3.engineRead id (b.toNat + 128) (z * u)
                let crc := crc32c ((h.drop 8).take 8 ++ old ++ row)
                let s5 := (s4.engineWrite id at_ row).engineWrite id (b.toNat + 0x18 + 4 * u) (bytesOfWord t)
                let s6 := (s5.engineWrite id (b.toNat + 4) (bytesOf 4 crc)).engineWrite id b.toNat
                  (bytesOf 4 (blk h 0 4 + 65536))
                s6.endBundleOp o
      | _ => s)

/-! ## KVXLATE (R329) -/

/-- KVXLATE (R329): one operation for all members. The sources stand in the order directory, (sequence, position). -/
def meanKvxlate : Meaning where
  perform x s := x.bottom.map (fun l =>
    let ms := x.lanes.map (fun m =>
      ({ fid := m.f.id, lane := m.f.lane, vlane := m.vlane, srcs := m.src, dst := x.dsts m, mcls := m.mcls, mdl := m.mdl,
         base := m.base } : KvMember))
    x.bundleOp s .device (.kvxlate (BitVec.ofNat 52 (pairAddr (l.s 0) (l.s 1))) ms))

/-- KVXLATE (R329, R337). -/
def execKvxlate (g : Guard) (d dir va : Reg) (fs : Bool) (s : State) : Host.Outcome State Fault Refusal :=
  s.issue (.kvxlate g d dir va fs) meanKvxlate

/-- Plain loads of an engine command through its core's L1. -/
def State.engineLoad (s : State) (id va n : Nat) : List Byte × State :=
  match s.op? id with
  | none => ([], s)
  | some o => s.loadL1 o.core o.ctx o.pins true (rangeBytes va n)

/-- The directory entries of some sequences, as (sequence, table, entries). -/
def State.kvDirectory (s : State) (id dir : Nat) : List Nat → List (Nat × Nat × Nat) × State
  | [] => ([], s)
  | q :: qs =>
    let (bs, s1) := s.engineLoad id (dir + 16 * q) 16
    let (rest, s2) := s1.kvDirectory id dir qs
    ((q, blkAddr bs 0, blk bs 8 4) :: rest, s2)

/-- The entries of block tables at some addresses. -/
def State.kvTable (s : State) (id : Nat) : List Nat → List (Nat × Nat) × State
  | [] => ([], s)
  | a :: as =>
    let (bs, s1) := s.engineLoad id a 8
    let (rest, s2) := s1.kvTable id as
    ((a, blk bs 0 8 % 2 ^ 52 / 256 * 256) :: rest, s2)

/-- The block of a member: none where the table has no entry for its position. -/
def kvEntry (dirs : List (Nat × Nat × Nat)) (m : KvMember) : Option Nat :=
  let j := (m.srcs.getD 3 0).toNat / 16
  match dirs.find? (fun d => d.1 = (m.srcs.getD 2 0).toNat) with
  | some (_, tab, n) => if j < n then some ((tab + 8 * j) % 2 ^ 52) else none
  | none => none

/-- KVXLATE's results land together (R329). -/
def State.landKvxlate (s : State) (o : Op) (dir : VAddr) (ms : List KvMember) : State :=
  if !s.sent o then s
  else
    let seqs := (ms.map (fun m => (m.srcs.getD 2 0).toNat)).eraseDups
    match s.engineOpen o.id (seqs.map (fun q => ((dir.toNat + 16 * q) % 2 ^ 52, 16, .read))) with
    | (false, s1) => s1
    | (true, s1) =>
      let (dirs, s2) := s1.kvDirectory o.id dir.toNat seqs
      let at_ := (ms.filterMap (kvEntry dirs)).eraseDups
      match s2.engineOpen o.id (at_.map (fun a => (a, 8, .read))) with
      | (false, s3) => s3
      | (true, s3) =>
        let (tab, s4) := s3.kvTable o.id at_
        let block (m : KvMember) : Nat :=
          ((kvEntry dirs m).bind (fun a => (tab.find? (fun e => e.1 = a)).map Prod.snd)).getD 0
        let mask := laneMask ((ms.filter (fun m => block m = 0)).map KvMember.vlane)
        let s5 := ms.foldl (fun s m =>
          let b := block m
          s.landOp { o with fid := m.fid } (zipDst m.dst [BitVec.ofNat 32 b, BitVec.ofNat 32 (b / 2 ^ 32),
            BitVec.ofNat 32 ((m.srcs.getD 3 0).toNat % 16), BitVec.ofNat 32 mask])) s4
        s5.endBundleOp o

/-! ## The prefix index (R330 to R332) -/

/-- A number of two words. -/
def pairWord (lo hi : Word) : DWord := BitVec.ofNat 64 (lo.toNat + hi.toNat * 2 ^ 32)

/-- PFXFIND's check (R331): the sources stand in the order key run, token offset, table. -/
def checkPfxfind (_ : State) (x : Exec) (l : LaneIn) : Option Cause :=
  let o := (l.s 4).toNat
  if o % 16 ≠ 0 || x.g.scratch < o + 64 then some (illegalOperand o) else none

/-- PFXFIND (R331): one lookup for each member, in the lowest member's table. -/
def meanPfxfind (cn : Fin 4) : Meaning where
  check := checkPfxfind
  perform x s := x.bottom.map (fun lo =>
    let tab : VAddr := BitVec.ofNat 52 (pairAddr (lo.s 5) (lo.s 6))
    x.lanes.foldl (fun s l =>
      let (k, s1) := s.fresh
      s1.addOp x l (x.op s1 k l .device (.pfxfind (l.src.take 4) (l.s 4).toNat tab (x.dsts l) cn.val (l.vlane = lo.vlane)))) s)

/-- PFXFIND (R331, R337). -/
def execPfxfind (g : Guard) (d a b tab : Reg) (fs : Bool) (cn : Fin 4) (s : State) : Host.Outcome State Fault Refusal :=
  s.issue (.pfxfind g d a b tab fs cn) (meanPfxfind cn)

/-- A prefix table's base and number of buckets; none where its descriptor is bad (R330). -/
def pfxTable (d : List Byte) : Option (Nat × Nat) :=
  let b := blk d 8 4
  if 24 < b % 32 || b / 32 ≠ 0 || blk d 0 8 % 128 ≠ 0 then none else some (blkAddr d 0, 2 ^ (b % 32))

/-- The record for a bad descriptor (R330, R406). -/
def State.pfxLog (s : State) (o : Op) (tab : VAddr) (d : List Byte) : State :=
  s.log { type := 0x11, severity := 0, source := dieOf o.core, ctx := some o.ctx, place := placeOf o.wid,
          node := o.node.toNat, addr := tab.toNat, detail := [blk d 8 4] }

/-- The entries of a bucket that name a block and hold a hash. -/
def pfxCandidates (bucket : List Byte) (hash : Nat) : List Nat :=
  (List.range 8).filterMap (fun k =>
    let b := blkAddr bucket (16 * k + 8)
    if b ≠ 0 && blk bucket (16 * k) 8 = hash then some b else none)

/-- Whether a header is that of a full block with a parent and token ids (R331). -/
def pfxMatch (h : List Byte) (parent : Nat) (ids : List Byte) : Bool :=
  kvFilled h = 16 && blk h 0x10 8 = parent && (h.drop 0x18).take 64 = ids

/-- A lookup among the blocks of a bucket's matching entries, tested in order (R331): the block found, none where no header
matches, or nothing yet while a page or a repair is waited for. A header after the one that matches is not read. -/
def State.pfxSearch (s : State) (id parent : Nat) (ids : List Byte) : List Nat → Option (Option Nat) × State
  | [] => (some none, s)
  | b :: bs =>
    match s.engineOpen id [(b, 128, .read)] with
    | (false, s1) => (none, s1)
    | (true, s1) =>
      let (h, s2) := s1.engineRead id b 128
      if pfxMatch h parent ids then (some (some b), s2) else s2.pfxSearch id parent ids bs

/-- PFXFIND's result lands with its flags (R331). -/
def State.landPfxfind (s : State) (o : Op) (hash : List Word) (tokens : Nat) (tab : VAddr) (dst : List Nat) (cn : Nat)
    (lead : Bool) : State :=
  let give (s : State) (b : Nat) (miss : Bool) : State :=
    let s1 := s.landOp o (zipDst dst [BitVec.ofNat 32 b, BitVec.ofNat 32 (b / 2 ^ 32)])
    let s2 := match s1.fibreOf? o.gid o.fid with
      | some (w, f) => s1.landCc w.wid f.lane (some o.order) (ccOf cn) { s := false, z := b = 0, c := miss, v := false }
      | none => s1
    s2.finishOp o
  if !s.sent o then s
  else match s.engineOpen o.id [(tab.toNat, 16, .read)] with
    | (false, s1) => s1
    | (true, s1) =>
      let (d, s2) := s1.engineRead o.id tab.toNat 16
      match pfxTable d with
      | none => give (if lead then s2.pfxLog o tab d else s2) 0 false
      | some (base, n) =>
        let key := (pairWord (hash.getD 0 0) (hash.getD 1 0)).toNat
        let parent := (pairWord (hash.getD 2 0) (hash.getD 3 0)).toNat
        let bk := (base + 128 * (key % 2 ^ 32 % n)) % 2 ^ 52
        match s2.engineOpen o.id [(bk, 128, .read)] with
        | (false, s3) => s3
        | (true, s3) =>
          let (bucket, s4) := s3.engineRead o.id bk 128
          let cands := pfxCandidates bucket key
          let (ids, s5) := match s4.group? o.gid with
            | some g => s4.readScratch g tokens 64
            | none => ([], s4)
          match s5.pfxSearch o.id parent ids cands with
          | (none, s6) => s6
          | (some (some b), s6) => give s6 b (cands.head? ≠ some b)
          | (some none, s6) => give s6 0 (!cands.isEmpty)

/-- PFXINS's check: the block is a multiple of 256 (R332). The sources stand in the order hash, block, table. -/
def checkPfxins (_ : State) (_ : Exec) (l : LaneIn) : Option Cause :=
  if (l.s 2).toNat % 256 ≠ 0 then some (illegalOperand (pairAddr (l.s 2) (l.s 3))) else none

/-- PFXINS (R332). -/
def meanPfxins (sc : Scope) : Meaning where
  check := checkPfxins
  perform x s := some (x.lanes.foldl (fun s l =>
    let (k, s1) := s.fresh
    s1.addOp x l (x.op s1 k l sc (.pfxins (pairWord (l.s 0) (l.s 1)) (BitVec.ofNat 52 (pairAddr (l.s 2) (l.s 3)))
      (BitVec.ofNat 52 (pairAddr (l.s 4) (l.s 5)))))) s)

/-- PFXINS (R332, R337). -/
def execPfxins (g : Guard) (hash blk tab : Reg) (fs : Bool) (scope : Scope) (s : State) : Host.Outcome State Fault Refusal :=
  s.issue (.pfxins g hash blk tab fs scope) (meanPfxins scope)

/-- PFXINS_AT_HOME (R332): the entry is written in one write, unless the block is there already or the bucket is full. -/
def execPfxinsAtHome (id : Nat) (s : State) : Host.Outcome State Fault Refusal :=
  .next (match s.op? id with
    | none => s
    | some o =>
      match o.kind with
      | .pfxins hash b tab =>
        let earlier := s.ops.any (fun a => a.id ≠ id && a.before o && (match a.kind with | .pfxins .. => true | _ => false))
        if earlier || !s.sent o then s
        else match s.engineOpen id [(tab.toNat, 16, .read)] with
          | (false, s1) => s1
          | (true, s1) =>
            let (d, s2) := s1.engineRead id tab.toNat 16
            match pfxTable d with
            | none => (s2.pfxLog o tab d).finishOp o
            | some (base, n) =>
              let bk := (base + 128 * (hash.toNat % 2 ^ 32 % n)) % 2 ^ 52
              match s2.engineOpen id [(bk, 128, .read)] with
              | (false, s3) => s3
              | (true, s3) =>
                let (bucket, s4) := s3.engineRead id bk 128
                let held := (List.range 8).map (fun k => blkAddr bucket (16 * k + 8))
                if held.contains b.toNat then s4.finishOp o
                else match held.findIdx? (fun x => x = 0) with
                  | some k =>
                    match s4.engineOpen id [(bk + 16 * k, 16, .write)] with
                    | (false, s5) => s5
                    | (true, s5) =>
                      (s5.engineWrite id (bk + 16 * k) (bytesOf 8 hash.toNat ++ bytesOf 8 b.toNat)).finishOp o
                  | none =>
                    match s4.engineOpen id [(tab.toNat + 0xC, 4, .write)] with
                    | (false, s5) => s5
                    | (true, s5) => (s5.engineWrite id (tab.toNat + 0xC) (bytesOf 4 (blk d 0xC 4 + 1))).finishOp o
      | _ => s)

/-! ## Results computed when they land -/

/-- RESULT_LANDS (R229, R262, R329, R331): the result of RNQUERY, NSTAT, KVXLATE or PFXFIND is computed and written. -/
def execResultLands (id : Nat) (s : State) : Host.Outcome State Fault Refusal :=
  .next (match s.op? id with
    | none => s
    | some o =>
      match o.kind with
      | .query .. => s.landQuery id
      | .nstat .. => s.landNstat id
      | .kvxlate dir ms => s.landKvxlate o dir ms
      | .pfxfind hash tokens tab dst cn lead => s.landPfxfind o hash tokens tab dst cn lead
      | _ => s)

/-! ## ATTN (R333 to R336) -/

/-- The requests queued at a die's attention engines. -/
def State.attnQueue (s : State) (die : Nat) : List Op :=
  s.ops.filter (fun o => dieOf o.core = die && o.stage = .issued && (match o.kind with | .attn .. => true | _ => false))

/-- ATTN (R336): one request for each executing fibre; it stalls while the queue of 32 has no room. -/
def meanAttn (sc : Scope) : Meaning where
  check _ _ l := let a := pairAddr (l.s 0) (l.s 1); if a % 256 ≠ 0 then some (illegalOperand a) else none
  room s x := some (32 - (s.attnQueue (dieOf (coreOf x.w.wid))).length)
  perform x s := some (x.lanes.foldl (fun s l =>
    let (k, s1) := s.fresh
    s1.addOp x l (x.op s1 k l sc (.attn (BitVec.ofNat 52 (pairAddr (l.s 0) (l.s 1))) []))) s)

/-- ATTN (R336, R337). -/
def execAttn (g : Guard) (a : Reg) (fs : Bool) (scope : Scope) (s : State) : Host.Outcome State Fault Refusal :=
  s.issue (.attn g a fs scope) (meanAttn scope)

/-- The requests that run at a die's attention engines. -/
def State.attnRunning (s : State) (die : Nat) : Nat :=
  (s.ops.filter (fun o => o.server = die && o.stage = .started && (match o.kind with | .attn .. => true | _ => false))).length

/-- ATTN_REQUEST_START (R333, R336): an idle engine takes the request that joined the queue first, and reads its block. -/
def execAttnRequestStart (die : Nat) (s : State) : Host.Outcome State Fault Refusal :=
  .next (match s.engineDie die, (arrivalOrder (s.attnQueue die)).find? s.mayBegin with
    | some d, some o =>
      if 4 ≤ s.attnRunning d || !s.engineTakes d then s
      else match o.kind with
        | .attn b _ =>
          match (s.onOp o.id (fun o => { o with server := d })).engineOpen o.id [(b.toNat, 256, .read)] with
          | (false, s1) => s1
          | (true, s1) =>
            let (bs, s2) := s1.engineRead o.id b.toNat 256
            s2.onOp o.id (fun o => { o with stage := .started, kind := .attn b bs })
        | _ => s
    | _, _ => s)

/-- The fields of a request block (R333). -/
structure AttnReq where
  fmt : Nat
  dim : Nat
  causal : Bool
  tree : Bool
  q : Nat
  len : Nat
  n : Nat
  queries : Nat
  qPitch : Nat
  sigma : Word
  table : Nat
  blocks : Nat
  pos0 : Nat
  result : Nat
  rPitch : Nat
  lse : Nat
  anc : Nat
  done : Nat
  deriving DecidableEq, Repr

/-- The request of a block. -/
def attnReq (b : List Byte) : AttnReq :=
  let c := blk b 0 4
  { fmt := c % 4, dim := kvDim (c / 4 % 4), causal := c / 16 % 2 = 1, tree := c / 32 % 2 = 1, q := c / 256 % 64 + 1,
    len := blk b 8 4, n := blk b 0xC 4, queries := blkAddr b 0x10, qPitch := blk b 0x18 4, sigma := BitVec.ofNat 32 (blk b 0x1C 4),
    table := blkAddr b 0x20, blocks := blk b 0x28 4, pos0 := blk b 0x2C 4, result := blkAddr b 0x30, rPitch := blk b 0x38 4,
    lse := blkAddr b 0x40, anc := blkAddr b 0x48, done := blkAddr b 0x50 }

/-- Whether a request is within R333; of the reserved fields, log entry 88. -/
def attnOk (b : List Byte) : Bool :=
  let c := blk b 0 4
  let r := attnReq b
  r.fmt ≠ 3 && c / 4 % 4 ≠ 3 && !(r.causal && r.tree) && c / 64 % 4 = 0 && c / 2 ^ 14 = 0 && r.len ≤ 16 * r.blocks && r.n ≤ 64
    && r.n ≤ r.len && (r.tree || r.n = 0) && r.queries % 16 = 0 && r.qPitch % 16 = 0 && 2 * r.dim ≤ r.qPitch
    && r.sigma.toNat / 2 ^ 23 % 2 ^ 8 ≠ 255 && r.result % 16 = 0 && r.rPitch % 16 = 0 && 4 * r.dim ≤ r.rPitch && blk b 0x3C 4 = 0
    && r.lse % 4 = 0 && (!r.tree || r.anc % 8 = 0) && r.done % 4 = 0 && (b.drop 0x5C).all (fun x => x = 0)

/-- Whether position `t` is visible to a query row (R335). -/
def AttnReq.visible (r : AttnReq) (anc : List Nat) (i t : Nat) : Bool :=
  if r.causal then t ≤ r.pos0 + i
  else if r.tree then t < r.len - r.n || anc.getD i 0 / 2 ^ (t - (r.len - r.n)) % 2 = 1
  else true

/-- The positions of a table entry that a row sees. -/
def AttnReq.seen (r : AttnReq) (anc : List Nat) (i j : Nat) : List Nat :=
  ((List.range 16).map (fun u => 16 * j + u)).filter (fun t => t < r.len && r.visible anc i t)

/-- The positions of a table entry that any row sees. -/
def AttnReq.used (r : AttnReq) (anc : List Nat) (j : Nat) : List Nat :=
  ((List.range 16).map (fun u => 16 * j + u)).filter (fun t => (List.range r.q).any (fun i => t < r.len && r.visible anc i t))

/-- The table entries that hold a visible position. -/
def AttnReq.needed (r : AttnReq) (anc : List Nat) : List Nat :=
  (List.range ((r.len + 15) / 16)).filter (fun j => !(r.used anc j).isEmpty)

/-- A row's running maximum, sum and outputs. -/
structure Softmax where
  m : Word
  l : Word
  o : List Word
  deriving DecidableEq, Repr

/-- One block taken into a row (R335): `ts` are its visible slots. -/
def AttnReq.block (r : AttnReq) (q : List FV) (b : List Byte) (ts : List Nat) (a : Softmax) : Softmax :=
  let ss := ts.map (fun u =>
    fMul r.sigma (mmaSum (fvZero :: (List.range r.dim).map (fun e => termMul (q.getD e fvZero) (kvElem b r.fmt r.dim u false e)))))
  let m2 := ss.foldl fMaxWord a.m
  let c := exp2r (fSub a.m m2)
  let ps := ss.map (fun x => exp2r (fSub x m2))
  { m := m2
    l := mmaSum (termMul (fv a.l) (fv c) :: ps.map fv)
    o := (List.range r.dim).map (fun d =>
      mmaSum (termMul (fv (a.o.getD d 0)) (fv c)
        :: (ps.zip ts).map (fun p => termMul (fv p.1) (kvElem b r.fmt r.dim p.2 true d)))) }

/-- The result and the lse word of a row. -/
def Softmax.finish (a : Softmax) : List Word × Word :=
  if a.l.toNat % 2 ^ 31 = 0 then (a.o.map (fun _ => 0), 0xFF800000)
  else (a.o.map (fun x => fdiv (fv x) (fv a.l)),
    fAdd a.m (fMul (BitVec.ofNat 32 (sfuOf .log2 false a.l).bits) 0x3F317218))

/-- One row of a request over its blocks in ascending order. -/
def AttnReq.row (r : AttnReq) (anc : List Nat) (q : List FV) (bs : List (Nat × List Byte)) (i : Nat) : List Word × Word :=
  (bs.foldl (fun (a : Softmax) b =>
    let ts := (r.seen anc i b.1).map (fun t => t % 16)
    if ts.isEmpty then a else r.block q b.2 ts a) { m := 0xFF800000, l := 0, o := List.replicate r.dim 0 }).finish

/-- The outcome of reading a request's blocks: they wait, one of them ends the request, or all are there. -/
inductive KvRead where
  | wait
  | fail (code index : Nat)
  | blocks (bs : List (Nat × List Byte))
  deriving DecidableEq, Repr

/-- A part of a block read: nothing while its page is waited for, and no bytes where it is poisoned (R334). -/
def State.attnPart (s : State) (id a n : Nat) : Option (Option (List Byte)) × State :=
  let s1 := s.enginePins id [(a, n, .read)]
  match s1.op? id with
  | none => (none, s1)
  | some o =>
    if !s1.engineReady id [(a, n, .read)] then (none, s1)
    else if (s1.poisonAt o.pins (rangeBytes a n)).isSome then (some none, s1)
    else
      let (b, s2) := s1.engineRead id a n
      (some (some b), s2)

/-- The blocks of some table entries read, in ascending order: of each the format word, then the records that the request
reads (R334). -/
def State.attnBlocks (s : State) (id : Nat) (r : AttnReq) (anc : List Nat) (tab : Nat → Nat) : List Nat → KvRead × State
  | [] => (.blocks [], s)
  | j :: js =>
    let a := tab j
    if a = 0 then (.fail 2 j, s)
    else
      let top := ((r.used anc j).map (fun t => t % 16 + 1)).foldl max 0
      match s.attnPart id a 4 with
      | (none, s1) => (.wait, s1)
      | (some none, s1) => (.fail 3 j, s1)
      | (some (some h), s1) =>
        if kvFmt h ≠ r.fmt || kvDim (kvCode h) ≠ r.dim || kvFilled h < top then (.fail 4 j, s1)
        else match s1.attnPart id a (128 + kvRec r.fmt r.dim * top) with
          | (none, s2) => (.wait, s2)
          | (some none, s2) => (.fail 3 j, s2)
          | (some (some b), s2) =>
            match s2.attnBlocks id r anc tab js with
            | (.blocks bs, s3) => (.blocks ((j, b) :: bs), s3)
            | x => x

/-- A request's end: its status and lost index written, then its completion word, and its flag falls (R334, R336). -/
def State.attnEnd (s : State) (o : Op) (b : VAddr) (done code : Nat) (lost : Option Nat) : State :=
  let st := if code = 0 then 1 else 2 + 256 * code
  let s1 := match lost with
    | some j => s.engineWrite o.id (b.toNat + 0x58) (bytesOf 4 j)
    | none => s
  let s2 := s1.engineWrite o.id (b.toNat + 4) (bytesOf 4 st)
  (if done = 0 then s2 else s2.engineWrite o.id done (bytesOf 4 st)).endCommand o

/-- The entries of a request's block table at some addresses. -/
def State.attnTable (s : State) (id : Nat) : List Nat → List (Nat × Nat) × State
  | [] => ([], s)
  | a :: as =>
    let (bs, s1) := s.engineRead id a 8
    let (rest, s2) := s1.attnTable id as
    ((a, blk bs 0 8 % 2 ^ 52 / 256 * 256) :: rest, s2)

/-- Rows of words written at a pitch. -/
def State.writeRows (s : State) (id at_ pitch : Nat) : List (List Byte) → State
  | [] => s
  | x :: xs => (s.engineWrite id at_ x).writeRows id (at_ + pitch) pitch xs

/-- Unpredictable bytes for rows (R334). -/
def State.freeRows (s : State) (n : Nat) : Nat → List (List Byte) × State
  | 0 => ([], s)
  | k + 1 =>
    let (x, s1) := State.freeBytes n s
    let (xs, s2) := s1.freeRows n k
    (x :: xs, s2)

/-- The result rows and lse words of a request written. -/
def State.attnResults (s : State) (o : Op) (r : AttnReq) (rows : List (List Byte)) (lse : List Byte) : State :=
  let s1 := s.writeRows o.id r.result r.rPitch rows
  if r.lse = 0 then s1 else s1.engineWrite o.id r.lse lse

/-- Whether a command could write to a range now. -/
def State.engineWritable (s : State) (o : Op) (va n : Nat) : Bool :=
  (pieces va n).all (fun p => (s.pinPage (s.engineAgent o) (p.1 % 2 ^ 52) .write true).1.toOption.isSome)

/-- Rows that hold unpredictable values after a bad field, as those of any failed request do (R334): where the request's own
fields place them and the engine could write them. -/
def State.attnSpoil (s : State) (o : Op) (at_ pitch n rows : Nat) (placed : Bool) : State :=
  let rs := (List.range rows).map (fun i => (at_ + i * pitch, n, Access.write))
  if placed && rs.all (fun r => s.engineWritable o r.1 n) then
    let (free, s1) := (s.enginePins o.id rs).freeRows n rows
    s1.writeRows o.id at_ pitch free
  else s

/-- A request in service finished, where its pages can be had (R334, R335). -/
def State.attnFinish (s : State) (o : Op) (b : VAddr) (bs : List Byte) : State :=
  let r := attnReq bs
  let ends : List (Nat × Nat × Access) :=
    (b.toNat, 256, .write) :: (if r.done % 4 ≠ 0 || r.done = 0 then [] else [(r.done, 4, .write)])
  if !attnOk bs then
    match s.engineOpen o.id ends with
    | (false, s1) => s1
    | (true, s1) =>
      let s2 := s1.attnSpoil o r.result r.rPitch (4 * r.dim) r.q
        (blk bs 0 4 / 4 % 4 ≠ 3 && r.result % 16 = 0 && r.rPitch % 16 = 0 && 4 * r.dim ≤ r.rPitch)
      let s3 := s2.attnSpoil o r.lse 0 (4 * r.q) 1 (r.lse ≠ 0 && r.lse % 4 = 0)
      s3.attnEnd o b (if r.done % 4 = 0 then r.done else 0) 1 none
  else
    let is := List.range r.q
    let rows (k : Access) (at_ pitch n : Nat) : List (Nat × Nat × Access) := is.map (fun i => (at_ + i * pitch, n, k))
    let need := ends ++ rows .read r.queries r.qPitch (2 * r.dim) ++ rows .write r.result r.rPitch (4 * r.dim)
      ++ (if r.lse = 0 then [] else [(r.lse, 4 * r.q, Access.write)]) ++ (if r.tree then [(r.anc, 8 * r.q, Access.read)] else [])
    match s.engineOpen o.id need with
    | (false, s1) => s1
    | (true, s1) =>
      let (ab, s2) := if r.tree then s1.engineRead o.id r.anc (8 * r.q) else ([], s1)
      let anc := is.map (fun i => blk ab (8 * i) 8)
      let js := r.needed anc
      match s2.engineOpen o.id (js.map (fun j => (r.table + 8 * j, 8, .read))) with
      | (false, s3) => s3
      | (true, s3) =>
        let (tab, s4) := s3.attnTable o.id (js.map (fun j => r.table + 8 * j))
        let entry (j : Nat) : Nat := ((tab.find? (fun e => e.1 = r.table + 8 * j)).map Prod.snd).getD 0
        match s4.attnBlocks o.id r anc entry js with
        | (.wait, s5) => s5
        | (.fail code j, s5) =>
          let (free, s6) := s5.freeRows (4 * r.dim) r.q
          let (lse, s7) := State.freeBytes (4 * r.q) s6
          (s7.attnResults o r free lse).attnEnd o b r.done code (some j)
        | (.blocks kv, s5) =>
          let (qs, s6) := is.foldl (fun (acc : List (List FV) × State) i =>
            let (x, s') := acc.2.engineRead o.id (r.queries + i * r.qPitch) (2 * r.dim)
            (acc.1 ++ [(List.range r.dim).map (fun e => bf16.read (blk x (2 * e) 2))], s')) ([], s5)
          let out := is.map (fun i => r.row anc (qs.getD i []) kv i)
          (s6.attnResults o r (out.map (fun x => x.1.flatMap bytesOfWord)) (out.flatMap (fun x => bytesOfWord x.2))).attnEnd o b
            r.done 0 none

/-- ATTN_REQUEST_COMPLETE (R334 to R336). -/
def execAttnRequestComplete (id : Nat) (s : State) : Host.Outcome State Fault Refusal :=
  .next (match s.op? id with
    | none => s
    | some o =>
      match o.kind, o.stage with
      | .attn b bs, .started => if o.record.isSome then s else s.attnFinish o b bs
      | _, _ => s)

end Sys2Proof.Machine
end

