-- ==== Sys2Proof/Machine/Faults.lean ====
section
/-! DEFINITION. The service of fault records: FAULT_RESOLVE, FAULT_BOUND_EXPIRY and POISON_REPAIR (R380 to R385); errors that
the storage codes find: ECC_UNCORRECTABLE, SCRUB_READ and CORE_STORAGE_UNCORRECTABLE (R383, R398 to R400); and the refresh
planner: REFRESH and STACK_TEMPERATURE_CHANGE (R344). -/

namespace Sys2Proof.Machine

open Sys2Proof

/-! ## Resolving a record (R380, R381) -/

/-- The fault record of a number. -/
def State.fault? (s : State) (id : Nat) : Option FaultRec := s.faults.find? (fun r => r.id = id)

/-- Whether the free pool of the tier of a record's page has a frame (R380). -/
def State.poolServes (s : State) (r : FaultRec) : Bool :=
  match s.ctx? r.ctx with
  | none => false
  | some c =>
    match s.walk c (r.page * 65536) with
    | .leaf e _ _ => !(c.pool (pteTier e)).isEmpty
    | .stop .. => false

/-- Whether the peer module of a record's page can be reached (R342). -/
def State.peerServes (s : State) (r : FaultRec) : Bool :=
  match s.ctx? r.ctx with
  | none => false
  | some c =>
    match s.walk c (r.page * 65536) with
    | .leaf e _ _ => s.reachable (pteModule e)
    | .stop .. => false

/-- Whether a record is resolved (R380): by a rename or an invalidation that covers its page, by the host's grant, by a route
set with its link up, or by a frame in the pool. -/
def State.resolved (s : State) (r : FaultRec) : Bool :=
  match r.cause with
  | 1 | 3 | 4 => r.due
  | 5 => s.peerServes r
  | 6 => s.poolServes r
  | _ => false

/-- FAULT_RESOLVE (R380, R381): a record whose cause has gone is closed, and every access joined to it replays. -/
def execFaultResolve (id : Nat) (s : State) : Host.Outcome State Fault Refusal :=
  .next (match s.fault? id with
    | none => s
    | some r => if s.resolved r then s.closeFaults (fun x => x.id = id) else s)

/-! ## The fault bound (R380) -/

/-- The nodes of which an access, a clause fetch or a restore waits for a record. -/
def State.faultNodes (s : State) (r : FaultRec) : List VAddr :=
  let ops := (s.ops.filter (fun o => o.record = some r.id)).map Op.node
  let fetch := r.fetchers.filterMap (fun x => ((s.warp? x.1).bind (fun w => s.group? w.gid)).map Group.node)
  let saved := (s.saved.filter (fun v => v.record = some r.id)).map (fun (v : SavedGroup) => v.group.node)
  (ops ++ fetch ++ saved).eraseDups

/-- A record closed with the failure of every node that waits for it (R259, R380). -/
def State.failWaiters (s : State) (r : FaultRec) (code : Nat) : State :=
  (s.acts r.ctx ((s.faultNodes r).map (fun a => Act.fail a code 0))).closeFaults (fun x => x.id = r.id)

/-- The fault bound: 10 ms of time (R380). -/
def faultBound : Nat := 10000000 * Config.ns

/-! ## Poison (R383, R384) -/

/-- The address of the poisoned table entry at which the walk of an address stops, if it does. -/
def State.poisonedEntry (s : State) (va : Nat) : List Nat → Nat → Option Nat
  | [], _ => none
  | l :: ls, t =>
    let a := t + 8 * levelIndex va l
    let e := s.entryAt a
    if s.poisoned a 8 then some a
    else if !pteValid e || pteLeaf e then none
    else s.poisonedEntry va ls (tableOf e)

/-- The poisoned granules of 256 bytes among `n` bytes from an address. -/
def State.poisonIn (s : State) (a n : Nat) : List Nat := s.poison.filter (fun g => a < g * 256 + 256 && g * 256 < a + n)

/-- Granules rewritten from an image of what they held, under a key, with their marks cleared. -/
def State.rewrite (s : State) (key : Nat) (i : Image) (gs : List Nat) : State :=
  let s1 := gs.foldl (fun (s : State) g => s.writeBytes key (g * 256) ((i.bytes.drop (g * 256 - i.addr)).take 256)) s
  { s1 with poison := s1.poison.filter (fun g => !gs.contains g) }

/-- Whether some leaf with W of any context maps a frame of DRAM (R384). -/
def State.writable (s : State) (frame : Nat) : Bool :=
  s.ctxs.any (fun (c : Ctx) => (s.leavesFrom [0, 1, 2, 3] c.root).any (fun x =>
    let (_, l, e) := x
    let a := leafAddr e l 0
    pteW e && a ≤ frame && frame < a + levelSize l))

/-- The good copy of the granules that a record's accesses found poisoned, if there is one: the key, the copy, and the
granules (R384, step 1); a granule of a die's SRAM has none. -/
def State.goodCopy (s : State) (c : Ctx) (r : FaultRec) : Option (Nat × Image × List Nat) :=
  if 2 ^ 36 ≤ r.page then none
  else match s.poisonedEntry (r.page * 65536 % 2 ^ 52) [0, 1, 2, 3] c.root with
  | some a => (c.shadows.find? (fun i => i.addr ≤ a && a < i.addr + 4096)).map (fun i => (0, i, s.poisonIn a 8))
  | none =>
    match s.walk c (r.page * 65536) with
    | .stop .. => none
    | .leaf e l _ =>
      let f := leafAddr e l (r.page * 65536) / 65536 * 65536
      if s.devWritten.contains (f / 65536) || s.writable f then none
      else ((s.ctxs.flatMap Ctx.images).find? (fun i => i.addr = f)).map (fun i => (pteKey e, i, s.poisonIn f 65536))

/-- The replayable node, not yet COMMITTED, that has staged a page (R384, step 2). -/
def State.stagedBy (s : State) (c : Ctx) (page : Nat) : Option VAddr :=
  (c.staged.find? (fun g => g.page = page && (s.node? c.num g.node).any (fun n =>
    n.repl && !n.u && n.state ≠ .committed))).map Staged.node

/-- A record of cause 7 served by the first step of R384 that applies: from a good copy, by rollback of the node that staged
the page and of the consuming nodes, or by the failure of the consuming nodes. -/
def State.repairPoison (s : State) (r : FaultRec) : State :=
  match s.ctx? r.ctx with
  | none => s
  | some c =>
    match s.goodCopy c r with
    | some (k, i, gs) => (s.rewrite k i gs).closeFaults (fun x => x.id = r.id)
    | none =>
      match s.stagedBy c r.page with
      | some a =>
        let others := (s.faultNodes r).filter (fun b => b ≠ a)
        (s.acts r.ctx ((a :: others).map (fun b => Act.roll b false false))).closeFaults (fun x => x.id = r.id)
      | none => s.failWaiters r 0x0A

/-- POISON_REPAIR (R384, R385). -/
def execPoisonRepair (id : Nat) (s : State) : Host.Outcome State Fault Refusal :=
  .next (match s.fault? id with
    | none => s
    | some r => if r.cause = 7 then s.repairPoison r else s)

/-- FAULT_BOUND_EXPIRY (R380): a record still unresolved at the fault bound fails the nodes that wait for it; one of cause 7
is served as R384 gives. -/
def execFaultBoundExpiry (id : Nat) (s : State) : Host.Outcome State Fault Refusal :=
  .next (match s.fault? id with
    | none => s
    | some r =>
      if s.time < r.since + faultBound || s.resolved r then s
      else if r.cause = 7 then s.repairPoison r
      else s.failWaiters r (faultCode r.cause))

/-! ## Refresh (R344) -/

/-- Whether a row is in a filter into which some rows were inserted: each of the four hash functions selects a bit that some
row of the bank has set. -/
def inFilter (rows : List (Nat × Nat)) (bank row : Nat) : Bool :=
  (List.range 4).all (fun h => rows.any (fun r => r.1 = bank && (List.range 4).any (fun g =>
    Config.refreshHash g r.1 r.2 % 65536 = Config.refreshHash h bank row % 65536)))

/-- The class interval of a row in ms. -/
def MemStack.classOf (k : MemStack) (bank row : Nat) : Nat :=
  if inFilter k.need32 bank row then 32 else if inFilter k.need64 bank row then 64 else 128

/-- The interval in which a row is refreshed once, in units of time: halved while the stack is hot. -/
def MemStack.interval (k : MemStack) (bank row : Nat) : Nat :=
  k.classOf bank row * 1000000 * Config.ns / (if k.hot then 2 else 1)

/-- REFRESH (R344): a row is refreshed, once in each of its class intervals. -/
def execRefresh (stack bank row : Nat) (s : State) : Host.Outcome State Fault Refusal :=
  let k := s.stack stack
  let due := match k.refreshed.find? (fun r => r.1 = bank && r.2.1 = row) with
    | none => true
    | some r => decide (r.2.2 / k.interval bank row < s.wall / k.interval bank row)
  .next (if stack < 12 && due then
      s.onStack stack (fun k => { k with
        refreshed := (bank, row, s.wall) :: k.refreshed.filter (fun r => !(r.1 = bank && r.2.1 = row)) })
    else s)

/-- STACK_TEMPERATURE_CHANGE (R344): intervals are halved above 85 °C and return at 80 °C. -/
def execStackTemperatureChange (stack celsius : Nat) (s : State) : Host.Outcome State Fault Refusal :=
  .next (if stack < 12 then
      s.onStack stack (fun k => { k with hot := if 85 < celsius then true else if celsius ≤ 80 then false else k.hot })
    else s)

/-! ## Storage codes in memory (R383, R398, R399) -/

/-- A row inserted into the filter of the next stricter class, with its record; a row of the 32 ms filter stays (R344, R399). -/
def State.demote (s : State) (stack addr bank row : Nat) : State :=
  let c := (s.stack stack).classOf bank row
  if c = 32 then s
  else
    let s1 := s.onStack stack (fun k =>
      if c = 128 then { k with need64 := k.need64 ++ [(bank, row)] } else { k with need32 := k.need32 ++ [(bank, row)] })
    s1.log { type := 0x06, severity := 1, source := 16 + stack, addr := addr, detail := [bank, row, c / 2] }

/-- A granule of DRAM poisoned, with its record (R383, R399). -/
def State.poisonDram (s : State) (addr bank row : Nat) (demand : Bool) : State :=
  { s with poison := addNat (addr / 256) s.poison }.log
    { type := 0x07, severity := 1, source := 16 + stackOf addr, addr := addr, detail := [bank, row, demand.toNat] }

/-- Whether a physical address lies in a die's scratchpad SRAM. -/
def onDieSram (addr : Nat) : Bool := 2 ^ 56 ≤ addr && addr < dieBase 8

/-- ECC_UNCORRECTABLE (R383, R398): the granule of the failing bits is poisoned: of DRAM, with a record, or of die SRAM. -/
def execEccUncorrectable (addr bank row : Nat) (demand : Bool) (s : State) : Host.Outcome State Fault Refusal :=
  .next (if storage addr = .dram then s.poisonDram addr bank row demand
    else if onDieSram addr then { s with poison := addNat (addr / 256) s.poison } else s)

/-- SCRUB_READ (R399): a reading of a granule of a stack, by its scrubber or on demand, with what the code found. -/
def execScrubRead (stack addr bank row : Nat) (found : EccFinding) (s : State) : Host.Outcome State Fault Refusal :=
  .next (if storage addr ≠ .dram || stackOf addr ≠ stack then s
    else
      match found with
      | .clean => s
      | .correctable => s.demote stack addr bank row
      | .uncorrectable => s.poisonDram addr bank row false)

/-! ## Storage codes in a core (R400) -/

/-- The group whose allocation holds some storage of a core (R400). -/
def State.storageOwner (s : State) (core : Nat) (what : CoreStorage) : Option Group :=
  let share (p : Share → Bool) : Option Group := s.groups.find? (fun (g : Group) => g.shares.any (fun h => h.core = core && p h))
  match what with
  | .register quad a =>
    (s.warps.find? (fun w => coreOf w.wid = core && quadOf w.wid = quad && w.run ≤ a
      && a < w.run + 32 * ((s.group? w.gid).map Group.a).getD 0)).bind (fun w => s.group? w.gid)
  | .scratch o => share (fun h => h.granules.contains (o / 8192))
  | .tile n => share (fun h => h.tiles.contains n)
  | .residual wid => if coreOf wid = core then (s.warp? wid).bind (fun w => (s.group? w.gid).filter (fun g => g.resid ≠ 0)) else none

/-- The quadrant of some core storage, 0 where it belongs to no quadrant. -/
def storageQuad : CoreStorage → Nat
  | .register q _ => q
  | .residual wid => quadOf wid
  | _ => 0

/-- CORE_STORAGE_UNCORRECTABLE (R400): the node of the owning group is rolled back or fails, a record is written, and the
core is scanned next. Storage that no group owns is written before it is read. -/
def execCoreStorageUncorrectable (core : Nat) (what : CoreStorage) (s : State) : Host.Outcome State Fault Refusal :=
  .next (match s.storageOwner core what with
    | none => s
    | some g =>
      let again := (s.node? g.ctx g.node).any (fun n => n.repl && !n.u)
      let s1 := s.acts g.ctx [if again then .roll g.node false false else .fail g.node 0x0A 0]
      let (kind, s2) := s1.freeWord
      let s3 := s2.log { type := 0x05, severity := if again then 2 else 3, source := dieOf core, ctx := some g.ctx,
                         place := core + 512 * (storageQuad what), node := g.node.toNat, detail := [kind.toNat, (storageQuad what), g.index] }
      s3.onScan (dieOf core) (fun k => { k with next := some (core % 64) }))

end Sys2Proof.Machine
end

