-- ==== Sys2Proof/Machine/Placement.lean ====
section
/-! DEFINITION. Placement of groups on cores (R49 to R54), their retirement (R29), and the steps GROUP_PLACEMENT and
GROUP_RETIRE. -/

namespace Sys2Proof.Machine

open Sys2Proof

/-! ## What a core has free (R49, R50) -/

/-- Whether a core serves: present, in service and not drained for a scan (R52). -/
def State.coreServes (s : State) (core : Nat) : Bool :=
  (s.core core).present && (s.core core).inService && !(s.core core).draining

/-- Warp slots of a quadrant that are free, by number in the quadrant; none of a quadrant that is fused off (R397). -/
def State.freeSlots (s : State) (core quad : Nat) : List Nat :=
  if (s.core core).fusedQuads.contains quad then []
  else (List.range 12).filter (fun i => !s.warps.any (fun w => w.wid = 48 * core + 12 * quad + i))

/-- Free warp slots of a core. -/
def State.slotsFree (s : State) (core : Nat) : Nat := ((List.range 4).map (fun q => (s.freeSlots core q).length)).sum

/-- The register runs taken in a quadrant: first register and registers. -/
def State.runsIn (s : State) (core quad : Nat) : List (Nat × Nat) :=
  (s.warps.filter (fun w => coreOf w.wid = core && quadOf w.wid = quad)).map (fun w =>
    (w.run, 32 * ((s.group? w.gid).map Group.a).getD 0))

/-- Registers of a quadrant's slice (R19, R397). -/
def State.sliceSize (s : State) (core quad : Nat) : Nat := 32768 - sget 0 (s.core core).lostRegs quad

/-- The lowest address at which a run of `n` registers fits in a slice (R50). -/
def lowestRun (size n : Nat) (used : List (Nat × Nat)) : Option Nat :=
  let ok (a : Nat) : Bool := a + n ≤ size && used.all (fun u => a + n ≤ u.1 || u.1 + u.2 ≤ a)
  ((0 :: used.map (fun u => u.1 + u.2)).filter ok).min?

/-- Free granules of 8 KiB of a core's scratchpad (R20, R49). -/
def State.freeGranules (s : State) (core : Nat) : List Nat :=
  let taken := s.groups.flatMap (fun (g : Group) => (g.shares.filter (fun h => h.core = core)).flatMap Share.granules)
  (List.range ((s.core core).scratchKiB / 8)).filter (fun i => !taken.contains i)

/-- Free tiles of a core. -/
def State.freeTiles (s : State) (core : Nat) : List Nat :=
  let taken := s.groups.flatMap (fun (g : Group) => (g.shares.filter (fun h => h.core = core)).flatMap Share.tiles)
  (List.range (s.core core).tiles).filter (fun i => !taken.contains i)

/-- Residual entries of a core that are reserved (R49, R129). -/
def State.residTaken (s : State) (core : Nat) : Nat :=
  ((s.warps.filter (fun w => coreOf w.wid = core)).map (fun w => ((s.group? w.gid).map Group.resid).getD 0)).sum

/-! ## A share on a core (R50, R51) -/

/-- What a group asks of a core: warps by index, registers for each fibre, scratchpad bytes, tiles and residual entries for
each warp. -/
structure Demand where
  warps : List Nat
  a : Nat
  scratch : Nat
  tiles : Nat
  resid : Nat
  deriving DecidableEq, Repr

/-- A warp's seat on a core: index, slot and first register. -/
structure Seat where
  idx : Nat
  wid : Nat
  run : Nat
  deriving DecidableEq, Repr

/-- Where a warp may stand in a quadrant, with the seats already given out there. -/
def State.seatIn (s : State) (core a idx quad : Nat) (got : List Seat) : Option Seat :=
  let mine := got.filter (fun g => quadOf g.wid = quad)
  match (s.freeSlots core quad).find? (fun i => !mine.any (fun g => g.wid = 48 * core + 12 * quad + i)),
      lowestRun (s.sliceSize core quad) (32 * a) (s.runsIn core quad ++ mine.map (fun g => (g.run, 32 * a))) with
  | some i, some r => some { idx := idx, wid := 48 * core + 12 * quad + i, run := r }
  | _, _ => none

/-- Seats for warps in ascending index, each in the quadrant that the pointer names or the next in rotation that can take it,
with the pointer after them (R50). -/
def State.seatWarps (s : State) (core a : Nat) : List Nat → Nat → List Seat → Option (List Seat × Nat)
  | [], p, got => some (got, p)
  | i :: is, p, got =>
    match (List.range 4).findSome? (fun k => s.seatIn core a i ((p + k) % 4) got) with
    | none => none
    | some seat => s.seatWarps core a is ((quadOf seat.wid + 1) % 4) (got ++ [seat])

/-- The seats of a share on a core, if the core can hold it (R50). -/
def State.seatShare (s : State) (core : Nat) (d : Demand) : Option (List Seat × Nat) :=
  if d.scratch ≤ 8192 * (s.freeGranules core).length && d.tiles ≤ (s.freeTiles core).length
      && s.residTaken core + d.warps.length * d.resid ≤ 320 then
    s.seatWarps core d.a d.warps (s.core core).quadPtr []
  else none

/-- The share of index `i` of `c` (R51): warp w belongs to share w mod c. -/
def Launch.share (l : Launch) (c i : Nat) : Demand :=
  { warps := (List.range l.warps).filter (fun w => w % c = i), a := l.a, scratch := l.scratchFor c / c, tiles := l.tilesFor c,
    resid := l.resid }

/-! ## Which cores (R51, R52) -/

/-- Whether a core comes before another where groups are placed: more free slots, then the lower number (R52). -/
def State.roomier (s : State) (a b : Nat) : Bool :=
  s.slotsFree b < s.slotsFree a || (s.slotsFree a = s.slotsFree b && a < b)

/-- A core put into a list in the order of `roomier`. -/
def State.insertCore (s : State) (a : Nat) : List Nat → List Nat
  | [] => [a]
  | b :: bs => if s.roomier a b then a :: b :: bs else b :: s.insertCore a bs

/-- The eligible cores of a die for a share, the roomiest first (R52). -/
def State.eligible (s : State) (mask : Nat → Bool) (d : Demand) (die : Nat) : List Nat :=
  (((List.range 64).map (fun i => 64 * die + i)).filter (fun c => mask c && s.coreServes c && (s.seatShare c d).isSome)).foldl
    (fun l c => s.insertCore c l) []

/-- Whether some cores come before others: more free slots in total, then the lower lowest number (R52). -/
def State.roomierSet (s : State) (a b : List Nat) : Bool :=
  let n (l : List Nat) : Nat := (l.map s.slotsFree).sum
  n b < n a || (n a = n b && decide (a.foldl min 512 < b.foldl min 512))

/-- The cores for a group's `c` shares, share i to the i-th (R51, R52); none where no die has them. -/
def State.chooseCores (s : State) (mask : Nat → Bool) (d : Demand) (c : Nat) : Option (List Nat) :=
  let sets := ((List.range 8).map (fun die => (s.eligible mask d die).take c)).filter (fun l => l.length = c)
  sets.foldl (fun (best : Option (List Nat)) l =>
    match best with
    | none => some l
    | some b => if s.roomierSet l b then some l else some b) none

/-- Cores that fail a share only because no register run is contiguous: some quadrant has a free slot and enough free
registers in total (R54). -/
def State.fragmented (s : State) (mask : Nat → Bool) (d : Demand) (core : Nat) : Bool :=
  mask core && s.coreServes core && (s.seatShare core d).isNone
    && d.warps.length ≤ s.slotsFree core && d.scratch ≤ 8192 * (s.freeGranules core).length
    && d.tiles ≤ (s.freeTiles core).length && s.residTaken core + d.warps.length * d.resid ≤ 320
    && (List.range 4).any (fun q =>
        let free := s.sliceSize core q - ((s.runsIn core q).map Prod.snd).sum
        !(s.core core).fusedQuads.contains q && 32 * d.a ≤ free
          && (lowestRun (s.sliceSize core q) (32 * d.a) (s.runsIn core q)).isNone)

/-! ## Placing a group -/

/-- The role of a warp in a role map (R44). -/
def roleIn (roles w : Nat) : Role :=
  match roles / 2 ^ (2 * w) % 4 with
  | 0 => .general | 1 => .copy | 2 => .matrix | _ => .vector

/-- A fibre at launch (R26, R55, R67, R79). -/
def launchFibre (l : Launch) (clock i : Nat) : Fibre :=
  { lane := i % 32, id := i, pos := { hdr := BitVec.ofNat 52 l.code }, n := min (l.a - l.f) 608,
    rngKey := BitVec.ofNat 128 l.seed, waitFrom := clock }

/-- A warp at launch in its seat (R26, R44, R63, R67, R68). -/
def launchWarp (l : Launch) (c : Ctx) (gid clock : Nat) (seat : Seat) : Warp :=
  { wid := seat.wid, gid := gid, idx := seat.idx, age := clock, role := roleIn l.roles seat.idx, run := seat.run,
    remap := List.range 32,
    fibres := ((List.range 32).filter (fun i => 32 * seat.idx + i < l.fibres)).map (fun i => launchFibre l clock (32 * seat.idx + i)),
    mode := BitVec.ofNat 2 l.mode, modeNext := BitVec.ofNat 2 l.mode, cycOff := 2 ^ 64 - clock % 2 ^ 64,
    spill := BitVec.ofNat 52 (sget 0 c.spillBase seat.wid), spillsz := BitVec.ofNat 32 l.kbytes }

/-- One share taken on a core: its scratchpad granules and tiles, and the rotation pointer after it (R50). -/
def State.takeShare (s : State) (core : Nat) (d : Demand) (ptr : Nat) : Share × State :=
  ({ core := core, granules := (s.freeGranules core).take (d.scratch / 8192), tiles := (s.freeTiles core).take d.tiles },
    s.onCore core (fun k => { k with quadPtr := ptr }))

/-- The shares of a group on its cores, with the seats of its warps. -/
def State.takeShares (s : State) (share : Nat → Demand) : List (Nat × Nat) → Option (List Share × List Seat × State)
  | [] => some ([], [], s)
  | (i, core) :: rest =>
    match s.seatShare core (share i) with
    | none => none
    | some (seats, ptr) =>
      let (h, s1) := s.takeShare core (share i) ptr
      (s1.takeShares share rest).map (fun r => (h :: r.1, seats ++ r.2.1, r.2.2))

/-- The warps of a group in ascending index. -/
def inOrder (ws : List Warp) : List Warp := (List.range 64).filterMap (fun i => ws.find? (fun w => w.idx = i))

/-- A group of a node placed on its cores at launch (R49 to R52), whose L1 lines are dropped, so that its fibres' loads find
every write before the node's release (R251); the node's first makes it RUNNING (R252). -/
def State.placeOn (s : State) (n : Node) (c : Ctx) (cores : List Nat) : Option State :=
  let l := n.launch
  let k := cores.length
  match s.takeShares (l.share k) ((List.range k).zip cores) with
  | none => none
  | some (shares, seats, s1) =>
    let (gid, s2) := s1.fresh
    let g : Group :=
      { gid := gid, ctx := n.ctx, node := n.addr, index := n.placed, ngroup := l.groups, size := l.fibres, depth := n.depth,
        forkCtr := l.fibres, warps := l.warps, a := l.a, f := l.f, resid := l.resid, scratch := l.scratchFor k, shares := shares }
    let ws := inOrder (seats.map (launchWarp l c gid s.clock))
    let s4 := cores.foldl State.dropL1 { s2 with groups := s2.groups ++ [g], warps := s2.warps ++ ws }
    let s5 := s4.onNode n.ctx n.addr (fun n => { n with placed := n.placed + 1 })
    some (if n.state = .ready then s5.startNode n.ctx n.addr (fun n => n) else s5)

/-- Whether a saved group waits for its restore: its context restores, or it was drained from a core while the context ran
(R373, R391). -/
def SavedGroup.restorable (v : SavedGroup) (c : Ctx) : Bool := c.state = 3 || (v.drained.isSome && c.state = 0)

/-- Whether a node has a group to be placed now: no group of a context that is evicted, and none before the node's saved
groups (R52, R370, R373). -/
def State.wantsPlace (s : State) (n : Node) : Bool :=
  n.kind = 0 && (n.state = .ready || n.state = .running) && n.placed < n.launch.groups
    && (s.ctx? n.ctx).any (fun c => c.state = 0 || c.state = 3)
    && !s.saved.any (fun v => v.ctx = n.ctx && v.group.node = n.addr)

/-- An attempt to place a node's lowest unplaced group: placed, or waiting, which counts the cores that only lack a
contiguous run (R52, R54). -/
def State.tryGroup (s : State) (n : Node) : Bool × State :=
  let l := n.launch
  let k := l.cores.getD 1
  match s.ctx? n.ctx, s.chooseCores n.masks (l.share k 0) k with
  | some c, some cores =>
    match s.placeOn n c cores with
    | some s1 => (true, s1)
    | none => (false, s)
  | _, _ =>
    (false, ((List.range 512).filter (s.fragmented n.masks (l.share k 0))).foldl
      (fun s c => s.onCore c (fun k => { k with fragw := k.fragw + 1 })) s)

/-- A node put into a list in the order in which the nodes became ready. -/
def insertReady (n : Node) : List Node → List Node
  | [] => [n]
  | m :: ms => if n.readyAt < m.readyAt then n :: m :: ms else m :: insertReady n ms

/-- The nodes that try to place a group, in the order in which they became ready (R52, R53). -/
def State.placers (s : State) : List Node :=
  (s.nodes.filter (fun n => n.tryPlace && s.wantsPlace n)).foldl (fun l n => insertReady n l) []

/-- One pass: the lowest waiting group of each node tried once; a node whose group waits tries no more until a retry. -/
def State.placePass (s : State) : List Node → State
  | [] => s
  | n :: ns =>
    let (ok, s1) := match s.node? n.ctx n.addr with
      | some m => s.tryGroup m
      | none => (false, s)
    (if ok then s1 else s1.onNode n.ctx n.addr (fun n => { n with tryPlace := false })).placePass ns

/-- Passes while groups fit (R53). -/
def State.placeAll : Nat → State → State
  | 0, s => s
  | k + 1, s => if s.placers.isEmpty then s else State.placeAll k (s.placePass s.placers)

/-- Whether the part places groups and starts nodes: at an operating point, on the way to no other state, with no trip in
force (R345, R346). -/
def State.places (s : State) : Bool := s.dev.opstate ≤ 7 && !s.dev.trip && !(s.dev.busy && 8 ≤ s.dev.opTarget)

/-- GROUP_PLACEMENT (R52 to R54): the waiting groups whose placement is to be tried are placed while they fit. At most one
group can stand in each warp slot. -/
def execGroupPlacement (s : State) : Host.Outcome State Fault Refusal :=
  .next (if s.places then State.placeAll (512 * 48 + s.nodes.length + 1) s else s)

/-! ## Retirement (R29) -/

/-- Whether an operation writes registers, scratchpad or tiles of its group (R29). -/
def Op.writesGroup (o : Op) : Bool :=
  match o.kind with
  | .load .. | .query .. | .nstat .. | .kvxlate .. | .pfxfind .. | .matrix _ => true
  | .atomic sp _ _ _ _ dst => dst.isSome || sp == .s
  | .store sp .. => sp == .s
  | .copy c => c.dir == .sg || c.dir == .sd || c.dir == .srec
  | _ => false

/-- Whether every fibre of a group has exited and every operation that writes its resources has finished (R29). -/
def State.groupOver (s : State) (g : Group) : Bool :=
  (s.warps.filter (fun w => w.gid = g.gid)).all (fun w => w.fibres.isEmpty)
    && s.ops.all (fun o => !(o.gid = g.gid && o.writesGroup))

/-- GROUP_RETIRE (R29): all resources of a group return to its cores at once. -/
def execGroupRetire (gid : Nat) (s : State) : Host.Outcome State Fault Refusal :=
  .next (match s.group? gid with
    | none => s
    | some g =>
      if !s.groupOver g then s
      else
        let s1 := { s with groups := s.groups.filter (fun x => x.gid ≠ gid), warps := s.warps.filter (fun w => w.gid ≠ gid) }
        let s2 := s1.onNode g.ctx g.node (fun n => { n with retired := n.retired + 1 })
        s2.retryPlacement (g.shares.map Share.core))

end Sys2Proof.Machine
end

