-- ==== Sys2Proof/Machine/Scan.lean ====
section
/-! DEFINITION. The scan rotation of a die: SCAN_DRAIN_START, SCAN_TEST, SCAN_COMPLETE and SCAN_OVERDUE (R390 to R396); and
KV_SCRUB_CHECK (R401). -/

namespace Sys2Proof.Machine

open Sys2Proof

/-! ## Slots (R390) -/

/-- Whether a slot of a die takes part in the rotation: a core that is present and in service, or as slot 64 the engine slot
while it is in service. -/
def State.slotServes (s : State) (die slot : Nat) : Bool :=
  if slot = 64 then (s.scan die).engInService
  else (s.core (64 * die + slot)).present && (s.core (64 * die + slot)).inService

/-- The slot that a controller takes up: one that an error has named (R400), else the next of the rotation. -/
def State.nextSlot (s : State) (die : Nat) : Option Nat :=
  let rest := ((List.range 65).map (fun i => ((s.scan die).slot + i) % 65)).find? (s.slotServes die)
  match (s.scan die).next with
  | some c => if s.slotServes die c then some c else rest
  | none => rest

/-- Whether a slot holds no group and no request (R390, R391). -/
def State.slotEmpty (s : State) (die slot : Nat) : Bool :=
  if slot = 64 then
    !s.ops.any (fun o => o.server = die && o.stage = .started && (match o.kind with | .sort .. | .attn .. => true | _ => false))
  else
    !s.groups.any (fun (g : Group) => g.shares.any (fun h => h.core = 64 * die + slot))
      && !s.ops.any (fun o => o.core = 64 * die + slot && o.stage ≠ .done && (match o.kind with | .copy _ => true | _ => false))

/-- SCAN_DRAIN_START (R390): the controller stops placement on its next slot, or stops the engines taking requests. -/
def execScanDrainStart (die : Nat) (s : State) : Host.Outcome State Fault Refusal :=
  .next (if die < 8 && s.dev.boot = .ready && s.places && (s.scan die).phase = .idle then
      match s.nextSlot die with
      | none => s
      | some k =>
        let s1 := s.onScan die (fun c => { c with slot := k, phase := .draining s.time, next := none })
        if k = 64 then s1
        else
          let here (g : Group) : Bool := g.shares.any (fun h => h.core = 64 * die + k)
          let s2 := { s1 with groups := s1.groups.map (fun g => if here g then { g with noRoom := false } else g) }
          s2.onCore (64 * die + k) (fun c => { c with draining := true })
    else s)

/-- The test of a slot: 40 µs (R390). -/
def scanTime : Nat := 40000 * Config.ns

/-- SCAN_TEST (R390): the drained slot is tested. -/
def execScanTest (die : Nat) (s : State) : Host.Outcome State Fault Refusal :=
  .next (match (s.scan die).phase with
    | .draining t =>
      if s.slotEmpty die (s.scan die).slot then s.onScan die (fun c => { c with phase := .testing t (s.time + scanTime) }) else s
    | _ => s)

/-! ## The end of a scan (R390, R394) -/

/-- A controller moved on to the slot after its own, which goes back to work unless it has left service. -/
def State.moveOn (s : State) (die : Nat) : State :=
  let k := (s.scan die).slot
  let s1 := s.onScan die (fun c => { c with phase := .idle, slot := (c.slot + 1) % 65 })
  if k = 64 then s1
  else (s1.onCore (64 * die + k) (fun c => { c with draining := false })).retryAll

/-- The number under which a slot's work is kept: a core, or 512 + die. -/
def workSlot (die slot : Nat) : Nat := if slot = 64 then 512 + die else 64 * die + slot

/-- The start of the drain of a slot's last passed scan (R394). -/
def State.slotPassed (s : State) (die slot : Nat) : Nat :=
  if slot = 64 then (s.scan die).engPassedAt else (s.core (64 * die + slot)).passedAt

/-- Whether a node worked on a slot in its suspect window (R393, R394). -/
def State.suspect (s : State) (die slot : Nat) (n : Node) : Bool :=
  n.works.any (fun w => w.slot = workSlot die slot && (match w.last with
    | none => true
    | some t => decide (s.slotPassed die slot ≤ t)))

/-- The nodes that worked on a slot in its suspect window and have run, in the order in which they became ready (R394). -/
def State.suspects (s : State) (die slot : Nat) : List Node :=
  (s.nodes.filter (fun n => s.suspect die slot n && (n.state = .running || n.state = .complete))).foldl
    (fun l n => insertReady n l) []

/-- The suspect nodes taken one after another: each that still runs or is provisional is rolled back or fails; with how many
of each (R394). -/
def State.takeSuspects (s : State) : List Node → Nat → Nat → State × Nat × Nat
  | [], a, b => (s, a, b)
  | m :: ms, a, b =>
    match s.node? m.ctx m.addr with
    | none => s.takeSuspects ms a b
    | some n =>
      if n.state = .running || n.state = .complete then
        let s1 := s.acts n.ctx [.roll n.addr false false]
        if n.repl && !n.u then s1.takeSuspects ms (a + 1) b else s1.takeSuspects ms a (b + 1)
      else s.takeSuspects ms a b

/-- A failed scan (R394): the slot leaves service, the groups held for it are discarded, and the suspect nodes are withdrawn. -/
def State.scanFailed (s : State) (die slot : Nat) : State :=
  let s1 := if slot = 64 then s.onScan die (fun c => { c with engInService := false })
    else s.onCore (64 * die + slot) (fun c => { c with inService := false })
  let s2 := if slot = 64 then s1 else { s1 with saved := s1.saved.filter (fun v => v.drained ≠ some (64 * die + slot)) }
  let (s3, a, b) := s2.takeSuspects (s2.suspects die slot) 0 0
  s3.log { type := 0x01, severity := 2, source := die, detail := [slot, a, b] }

/-- A passed scan (R390, R392): the slot's last passed scan began with this drain, and it is no longer overdue. -/
def State.scanPassed (s : State) (die slot from_ : Nat) : State :=
  if slot = 64 then s.onScan die (fun c => { c with engPassedAt := from_, engOverdue := false })
  else s.onCore (64 * die + slot) (fun c => { c with passedAt := from_, overdue := false })

/-- SCAN_COMPLETE (R390, R394): after 40 µs the scan passes or fails, and the controller moves on. -/
def execScanComplete (die : Nat) (pass : Bool) (s : State) : Host.Outcome State Fault Refusal :=
  .next (match (s.scan die).phase with
    | .testing t until_ =>
      if s.time < until_ then s
      else (if pass then s.scanPassed die (s.scan die).slot t else s.scanFailed die (s.scan die).slot).moveOn die
    | _ => s)

/-- The time after which a drain is given up: 2 ms (R392). -/
def drainBound : Nat := 2000000 * Config.ns

/-- SCAN_OVERDUE (R392): a slot that its drain has not emptied is marked, recorded, and goes back to work untested. -/
def execScanOverdue (die : Nat) (s : State) : Host.Outcome State Fault Refusal :=
  .next (match (s.scan die).phase with
    | .draining t =>
      let k := (s.scan die).slot
      if s.time < t + drainBound || s.slotEmpty die k then s
      else
        let s1 := if k = 64 then s.onScan die (fun c => { c with engOverdue := true })
          else s.onCore (64 * die + k) (fun c => { c with overdue := true })
        let g := if k = 64 then none else s.groups.find? (fun (g : Group) => g.shares.any (fun h => h.core = 64 * die + k))
        let s2 := s1.log { type := 0x02, severity := 1, source := die, ctx := g.map Group.ctx,
                           node := (g.map (fun (g : Group) => g.node.toNat)).getD 0,
                           detail := [k, (g.map (fun (g : Group) => g.node.toNat)).getD 0, (g.map Group.index).getD 0] }
        s2.moveOn die
    | _ => s)

/-! ## KV_SCRUB_CHECK (R401) -/

/-- Whether a die's attention engines are all idle, in service and not being tested. -/
def State.enginesIdle (s : State) (die : Nat) : Bool :=
  die < 8 && (s.scan die).engInService && s.engineTakes die && s.attnRunning die = 0

/-- The die on which a virtual address of a context is homed; none where no leaf of DRAM maps it (R16, R401). -/
def State.homeDie (s : State) (cn va : Nat) : Option Nat :=
  match s.walkerByte? cn va with
  | some (pa, _) => if storage pa = .dram then some (stackDie (stackOf pa)) else none
  | none => none

/-- Whether any of `n` bytes of a context lies in a poisoned granule. -/
def State.poisonedVa (s : State) (cn va n : Nat) : Bool :=
  (List.range n).any (fun i => (s.walkerByte? cn (va + i)).any (fun p => s.poisoned p.1 1))

/-- Every granule that holds a byte of a range marked poisoned. -/
def State.poisonRange (s : State) (cn va n : Nat) : State :=
  (List.range n).foldl (fun s i => match s.walkerByte? cn (va + i) with
    | some (pa, _) => { s with poison := addNat (pa / 256) s.poison }
    | none => s) s

/-- The check of one block (R401): a block with no token is skipped, a malformed one recorded, and one whose CRC is wrong at
two readings poisoned, counted and recorded. -/
def State.scrubBlock (s : State) (c : Ctx) (die b : Nat) : State :=
  let (h, s1) := s.walkerRead c.num b 128
  let fmt := kvFmt h
  let d := kvDim (kvCode h)
  if kvFilled h = 0 then s1
  else if kvBad h then
    s1.log { type := 0x16, severity := 0, source := die, ctx := some c.num, addr := b, detail := [blk h 0 4] }
  else
    let n := kvSize fmt d
    let crc (x : List Byte) : Nat := kvCrc x fmt d (kvFilled x)
    if s1.poisonedVa c.num b n then s1
    else
      let (b1, s2) := s1.walkerRead c.num b n
      let (b2, s3) := if blk b1 4 4 = crc b1 then (b1, s2) else s2.walkerRead c.num b n
      if blk b2 4 4 = crc b2 then s3
      else
        let s4 := s3.poisonRange c.num b n
        let (k, s5) := s4.walkerNat c.num (c.nodeBase + 0x2C) 4
        (s5.walkerWrite c.num (c.nodeBase + 0x2C) (bytesOf 4 (k + 1))).log
          { type := 0x12, severity := 2, source := die, ctx := some c.num, addr := b, detail := [blk b2 4 4, crc b2] }

/-- KV_SCRUB_CHECK (R401): a die with idle attention engines takes up the next entry of a context's scrub list, and checks the
block if it is homed there and holds no poison. -/
def execKvScrubCheck (die ctx : Nat) (s : State) : Host.Outcome State Fault Refusal :=
  .next (match s.ctx? ctx with
    | none => s
    | some c =>
      let (list, s1) := s.walkerNat ctx (c.nodeBase + 0x20) 8
      let (n, s2) := s1.walkerNat ctx (c.nodeBase + 0x28) 4
      if !s.places || !s.enginesIdle die || list = 0 || list % 8 ≠ 0 || n = 0 || 2 ^ 20 < n then s
      else
        let i := sget 0 c.scrubAt die % n
        let (b, s3) := s2.walkerNat ctx (list % 2 ^ 52 + 8 * i) 8
        let s4 := s3.onCtx ctx (fun c => { c with scrubAt := sset 0 c.scrubAt die ((i + 1) % n) })
        if s4.homeDie ctx (b % 2 ^ 52) ≠ some die || s4.poisonedVa ctx (b % 2 ^ 52) 128 then s4
        else s4.scrubBlock c die (b % 2 ^ 52))

end Sys2Proof.Machine
end

