-- ==== Sys2Proof/Machine/Power.lean ====
section
/-! DEFINITION. Power states, the thermal trip and the margin review: the steps OPCMD_OPERATING_POINT, OPCMD_IDLE_HOT,
OPCMD_IDLE_COLD, OPCMD_PARKED, OPCMD_OFF, POWER_TRANSITION_COMPLETE, THERMAL_TRIP, MARGIN_REVIEW and MARGIN_REVIEW_COMPLETE
(R345 to R347, R353, R397). -/

namespace Sys2Proof.Machine

open Sys2Proof

/-- The state with the device's registers changed. -/
def State.onDev (s : State) (u : Device → Device) : State := { s with dev := u s.dev }

/-! ## OPCMD (R345, R346, R353) -/

/-- Whether no group is resident and no engine request runs: the condition of idle-hot and idle-cold (R345). -/
def State.quiet (s : State) : Bool :=
  s.groups.isEmpty && !s.ops.any (fun o => o.stage = .started && (match o.kind with
    | .sort .. | .attn .. | .copy _ => true
    | _ => false))

/-- Whether no traffic of the host ports and the fabric is outstanding besides (R345). -/
def State.silent (s : State) : Bool :=
  s.quiet && s.ops.isEmpty && s.wadi.all (fun c => c.transit.isEmpty) && !s.faults.any (fun r => r.cause = 4)

/-- Whether the entry condition of a state code holds (R345). -/
def State.mayEnter (s : State) (code : Nat) : Bool :=
  if code = 8 || code = 9 then s.quiet else if code = 10 then s.silent else true

/-- The result with which a command is refused, if it is: 2 in a transition, a review, or a trip that it may not end; 3 for a
code that is none or an operating point marked unavailable; 1 by its entry condition, or from off, which only boot ends (R345 to
R347, R353). -/
def State.opRefusal (s : State) (code : Nat) : Option Nat :=
  if s.dev.busy || s.dev.reviewBusy then some 2
  else if s.dev.trip && !(code ≤ 7 && s.dev.temps.all (fun t => t < 95)) then some 2
  else if 12 ≤ code || s.dev.opsOut.contains code then some 3
  else if !s.mayEnter code || (s.dev.opstate = 11 && code ≠ 11) then some 1
  else none

/-- A write of a state code to OPCMD (R345, R353). -/
def State.opCommand (s : State) (code : Nat) : State :=
  match s.opRefusal code with
  | some r => s.onDev (fun d => { d with opcmd := code, result := r })
  | none => s.onDev (fun d => { d with opcmd := code, opTarget := code, busy := true, tripEnds := d.trip })

/-- OPCMD_OPERATING_POINT (R24, R345, R353): codes 0 to 7. -/
def execOpcmdOperatingPoint (code : Fin 8) (s : State) : Host.Outcome State Fault Refusal := .next (s.opCommand code.val)

/-- OPCMD_IDLE_HOT (R345). -/
def execOpcmdIdleHot (s : State) : Host.Outcome State Fault Refusal := .next (s.opCommand 8)

/-- OPCMD_IDLE_COLD (R345). -/
def execOpcmdIdleCold (s : State) : Host.Outcome State Fault Refusal := .next (s.opCommand 9)

/-- OPCMD_PARKED (R345). -/
def execOpcmdParked (s : State) : Host.Outcome State Fault Refusal := .next (s.opCommand 10)

/-- OPCMD_OFF (R345). -/
def execOpcmdOff (s : State) : Host.Outcome State Fault Refusal := .next (s.opCommand 11)

/-! ## POWER_TRANSITION_COMPLETE -/

/-- Whether a physical address lies in on-chip storage. -/
def onChip (a : Nat) : Bool := storage a = .chip

/-- A core's counters lost: free values, from free value `n` on (log 48). -/
def Core.lose (k : Core) (n : Nat) : Core :=
  { k with fragw := Config.freeWord n, mdmiss0 := Config.freeWord (n + 1), mdmiss1 := Config.freeWord (n + 2),
           mdmiss2 := Config.freeWord (n + 3), mdmiss3 := Config.freeWord (n + 4),
           copyBytes := BitVec.ofNat 64 ((Config.freeWord (n + 5)).toNat + (Config.freeWord (n + 6)).toNat * 2 ^ 32) }

/-- The contents of on-chip storage lost, those of the caches, the Wadi's channels and the cores' counters (R345: idle-cold and
parked keep the contents of DRAM only). -/
def State.loseChip (s : State) : State :=
  { s with mem := s.mem.filter (fun c => !onChip c.1), owner := [], poison := s.poison.filter (fun g => !onChip (g * 256)),
           l1 := [], icache := [], tlb := [], wadi := [], dev := { s.dev with chipLost := true }, freeCtr := s.freeCtr + 7 * 512
           cores := ((List.range 512).map (fun c => (c, (s.core c).lose (s.freeCtr + 7 * c)))).filter (fun x => x.2 ≠ {}) }

/-- The part switched off: it keeps nothing, and only boot goes on from here (R345). What the model itself keeps, and the
memory of the host and of the peers, stay. -/
def State.switchOff (s : State) : State :=
  { State.reset with
    agenda := s.agenda, freeCtr := s.freeCtr, nextId := s.nextId
    mem := s.mem.filter (fun c => storage c.1 ≠ .dram && !onChip c.1)
    dev := { State.reset.dev with opcmd := 11, opstate := 11, opTarget := 11 } }

/-- POWER_TRANSITION_COMPLETE (R345, R353): the state commanded is entered. An operating point that was commanded
during a thermal trip ends it (R346). -/
def execPowerTransitionComplete (s : State) : Host.Outcome State Fault Refusal :=
  .next (if !s.dev.busy then s
    else
      let code := s.dev.opTarget
      if code = 11 then s.switchOff
      else
        let s1 := s.onDev (fun d => { d with opstate := code, busy := false, result := 0, trip := d.trip && !(code ≤ 7 && d.tripEnds) })
        if code = 9 || code = 10 then s1.loseChip else s1)

/-! ## THERMAL_TRIP (R346) -/

/-- THERMAL_TRIP (R346): a die's reading, 8 and 9 being the hubs (R10, R405); at 110 °C the protective stop comes into force,
with its record. -/
def execThermalTrip (die celsius : Nat) (s : State) : Host.Outcome State Fault Refusal :=
  .next (if 10 ≤ die then s
    else
      let s1 := s.onDev (fun d => { d with temps := d.temps.set die celsius, tripEnds := d.tripEnds && celsius < 110 })
      if celsius < 110 || s.dev.trip then s1
      else (s1.onDev (fun d => { d with trip := true })).log { type := 0x14, severity := 4, source := die, detail := [die, celsius] })

/-! ## The margin review (R347, R397) -/

/-- A request for a margin review: the result 2 during a trip or a review, 1 outside idle-hot, else the review runs (R347,
R352). -/
def State.reviewRequest (s : State) : State :=
  let s := s.onDev (fun d => { d with mreview := true })
  if s.dev.trip || s.dev.reviewBusy then s.onDev (fun d => { d with reviewResult := 2 })
  else if s.dev.opstate ≠ 8 || s.dev.busy then s.onDev (fun d => { d with reviewResult := 1 })
  else s.onDev (fun d => { d with reviewResult := 0, reviewBusy := true })

/-- MARGIN_REVIEW (R347). -/
def execMarginReview (s : State) : Host.Outcome State Fault Refusal := .next s.reviewRequest

/-- A core after the action on its failing unit (R397): four lost blocks take their quadrant, four lost quadrants the core. -/
def repairCore (k : Core) (u : FailingUnit) : Core :=
  let quads (k : Core) (q : Nat) : Core := { k with fusedQuads := addNat q k.fusedQuads }
  let k1 : Core := match u with
    | .registerBlock q =>
      let lost := sget 0 k.lostRegs q + 2048
      let k2 := { k with lostRegs := sset 0 k.lostRegs q lost }
      if 8192 ≤ lost then quads k2 q else k2
    | .quadrant q => quads k q
    | .scratchSegment => { k with scratchKiB := k.scratchKiB - 64 }
    | .accBank => { k with tiles := k.tiles - 16 }
    | .other => { k with present := false }
  if 4 ≤ k1.fusedQuads.length then { k1 with present := false } else k1

/-- The smallest slice of a core's quadrants that are not fused off, in registers. -/
def State.smallestSlice (s : State) (core : Nat) : Nat :=
  (((List.range 4).filter (fun q => !(s.core core).fusedQuads.contains q)).map (s.sliceSize core)).foldl min 32768

/-- One slot repaired (R397): a core goes back to service with its new figures when the scan after the action passes, and is
fused off otherwise; an engine slot stays out of service until boot. -/
def State.repairSlot (s : State) (r : Repair) : State :=
  let (unit_, s0) := s.freeWord
  if r.slot = 64 then s0.log { type := 0x03, severity := 2, source := r.die, detail := [64, unit_.toNat] }
  else
    let core := 64 * r.die + r.slot
    let s1 := s0.onCore core (fun k => repairCore k r.unit)
    if r.pass && (s1.core core).present then
      let s2 := (s1.onCore core (fun k => { k with inService := true, overdue := false, passedAt := s.time })).retryAll
      s2.log { type := 0x03, severity := 2, source := r.die,
               detail := [r.slot, unit_.toNat, s2.smallestSlice core, (s2.core core).scratchKiB, (s2.core core).tiles] }
    else
      (s1.onCore core (fun k => { k with present := false })).log
        { type := 0x04, severity := 4, source := r.die, detail := [r.slot, unit_.toNat] }

/-- Whether a slot is out of service and waits for a repair: a core that is not fused off, or an engine slot (R397). -/
def State.wantsRepair (s : State) (die slot : Nat) : Bool :=
  if slot = 64 then !(s.scan die).engInService
  else (s.core (64 * die + slot)).present && !(s.core (64 * die + slot)).inService

/-- The first repair given for each slot. -/
def firstRepairs : List Repair → List (Nat × Nat) → List Repair
  | [], _ => []
  | r :: rs, seen =>
    if seen.contains (r.die, r.slot) then firstRepairs rs seen else r :: firstRepairs rs ((r.die, r.slot) :: seen)

/-- The repairs of a review: those given for slots that are out of service, each slot once. -/
def State.repairs (s : State) (rs : List Repair) : State :=
  (firstRepairs rs []).foldl (fun s r => if r.die < 8 && r.slot < 65 && s.wantsRepair r.die r.slot then s.repairSlot r else s) s

/-- Whether a list of repairs names every slot that is out of service. -/
def State.repairsAll (s : State) (rs : List Repair) : Bool :=
  (List.range 8).all (fun d => (List.range 65).all (fun k => !s.wantsRepair d k || rs.any (fun r => r.die = d && r.slot = k)))

/-- MARGIN_REVIEW_COMPLETE (R347, R397): the guards are reported in mV, operating points that their voltage rules out are marked
there (log 91) and refused from then on, and every slot out of service has been repaired. -/
def execMarginReviewComplete (guards : List Nat) (unavailable : List Nat) (repairs : List Repair) (s : State) :
    Host.Outcome State Fault Refusal :=
  .next (if !s.dev.reviewBusy || !s.repairsAll repairs then s
    else (s.repairs repairs).onDev (fun d => { d with
      reviewBusy := false
      reviewReport := (List.range 8).map (fun i =>
        let g := BitVec.ofNat 32 (guards.getD i 0)
        if d.opsOut.contains i || unavailable.contains i then Config.unavailable g else g)
      opsOut := (d.opsOut ++ unavailable.filter (fun i => i < 8)).eraseDups }))

end Sys2Proof.Machine
end

