-- ==== Sys2Proof/Machine/Boot.lean ====
section
/-! DEFINITION. Boot, trust and the management map: the steps BOOT, BOOT_HOLD_RELEASE, BOOT_COMPLETE, KEY_RETIRE,
TLB_INVALIDATE, INVALIDATION_COMPLETE, ATTESTATION_REQUEST, ATTESTATION_COMPLETE, REGISTER_WRITE and FABRIC_LINK_CHANGE (R341,
R348 to R354), and what the registers of the map read as (R352). -/

namespace Sys2Proof.Machine

open Sys2Proof

/-! ## Boot (R348, R351) -/

/-- Whether an image is accepted: its public key has the fused digest, and its signature verifies under it (R348). -/
def imageAccepted (i : FirmwareImage) : Bool :=
  shake256 i.key Config.fusedDigest.length = Config.fusedDigest && Config.slhVerify i.key i.image i.sig

/-- A measurement register extended by the measurement of an image (R348). -/
def extendMeasure (old image : List Byte) : List Byte := shake256 (old ++ shake256 image 64) 64

/-- The images verified and measured in order, until one is not accepted: whether all were (R348, R351). -/
def State.measureAll (s : State) : List FirmwareImage → Nat → Bool × State
  | [], _ => (true, s)
  | i :: is, k =>
    if !imageAccepted i then (false, s)
    else
      let r := Config.measureRegister k % 16
      (s.onDev (fun d => { d with measures := d.measures.set r (extendMeasure (d.measures.getD r []) i.image) })).measureAll is (k + 1)

/-- BOOT (R348, R351): the firmware images are verified and measured; boot stops on a failure, or reaches the hold point. -/
def execBoot (images : List FirmwareImage) (s : State) : Host.Outcome State Fault Refusal :=
  .next (if s.dev.boot ≠ .before then s
    else
      let s1 := s.onDev (fun d => { d with measures := List.replicate 16 (List.replicate 64 0), opstate := 7, opcmd := 7, opTarget := 7 })
      let (ok, s2) := s1.measureAll images 0
      s2.onDev (fun d => if ok then { d with boot := .hold } else { d with boot := .stopped, bootFailed := true }))

/-- The rows of a stack in one of the two filters after the retention test (R344). -/
def binned (bins : List RowBin) (stack : Nat) (class32 : Bool) : List (Nat × Nat) :=
  (bins.filter (fun b => b.stack = stack && b.class32 == class32)).map (fun b => (b.bank, b.row))

/-- The hold point left (R14, R344, R351): the rows are binned and the stacks take their tier modes. -/
def State.leaveHold (s : State) (bins : List RowBin) : State :=
  if s.dev.boot ≠ .hold then s
  else
    let s1 := (List.range 12).foldl (fun (s : State) k => s.onStack k (fun m =>
      { m with cache := s.dev.tiermode.toNat / 2 ^ k % 2 = 1, need32 := binned bins k true, need64 := binned bins k false,
               refreshed := [] })) s
    s1.onDev (fun d => { d with boot := .released })

/-- BOOT_HOLD_RELEASE (R14, R344, R350, R351): the host writes 1 to BOOTCTL bit 0. -/
def execBootHoldRelease (bins : List RowBin) (s : State) : Host.Outcome State Fault Refusal := .next (s.leaveHold bins)

/-- A fresh key generated for an identity and loaded into every engine (R13, R350). -/
def State.newKey (s : State) (k : Nat) : State := { s with keyGen := sset 0 s.keyGen k (sget 0 s.keyGen k + 1) }

/-- BOOT_COMPLETE (R351, R390): every slot has had its boot scan, identity 0 has its key, the links are up, and the part is
ready; each rotation begins. -/
def execBootComplete (failedCores failedEngines linksUp : List Nat) (s : State) : Host.Outcome State Fault Refusal :=
  .next (if s.dev.boot ≠ .released then s
    else
      let s1 := (List.range 512).foldl (fun (s : State) c => s.onCore c (fun k =>
        { k with present := !failedCores.contains c, inService := true, draining := false, overdue := false, passedAt := s.time,
                 fusedQuads := [], lostRegs := [], scratchKiB := 3072, tiles := 256 })) s
      let s2 := (List.range 8).foldl (fun (s : State) d => s.onScan d (fun k =>
        { k with slot := 0, phase := .idle, engInService := !failedEngines.contains d, engOverdue := false, engPassedAt := s.time,
                 next := none })) s1
      (s2.newKey 0).onDev (fun d => { d with boot := .ready, links := (linksUp.filter (fun p => p < 18)).foldl (fun l p => addNat p l) [] }))

/-! ## Keys (R350) -/

/-- The retire of an identity: a fresh key in all engines; what was written under the old one is unpredictable afterwards. -/
def State.retireKey (s : State) (k : Nat) : State := (s.newKey k).onDev (fun d => { d with keyret := k })

/-- KEY_RETIRE (R350). -/
def execKeyRetire (k : BitVec 10) (s : State) : Host.Outcome State Fault Refusal := .next (s.retireKey k.toNat)

/-! ## Invalidation (R354) -/

/-- Whether a page lies in a range of an invalidation: 0 pages name every page. -/
def inRange (first n page : Nat) : Bool := n = 0 || (first ≤ page && page < first + n)

/-- An invalidation begun: every cached translation of its range is dropped, and the accesses that translated through one
are waited for. -/
def State.beginInvalidation (s : State) (cn first n : Nat) : State :=
  let users := (s.ops.filter (fun o => o.ctx = cn && (o.pins ++ o.wpins).any (fun p => inRange first n (p.1 / 65536)))).map Op.id
  let s1 := { s with tlb := s.tlb.filter (fun t => !(t.ctx = cn && inRange first n t.page)), l1 := [] }
  s1.onDev (fun d => { d with invs := match d.invs with
    | [] => [(cn, first, n, users)]
    | _ :: rest => (cn, first, n, users) :: rest })

/-- A write to INVPAGES: the invalidation begins, or waits for the one that runs. -/
def State.invalidate (s : State) (pages : Word) : State :=
  let s1 := s.onDev (fun d => { d with invpages := pages })
  let cn := s1.dev.invctx
  let first := s1.dev.invva.toNat / 65536 + s1.dev.invvah.toNat * 65536
  if s1.dev.invs.isEmpty then s1.beginInvalidation cn first pages.toNat
  else s1.onDev (fun d => { d with invs := d.invs ++ [(cn, first, pages.toNat, [])] })

/-- TLB_INVALIDATE (R354). -/
def execTlbInvalidate (pages : Word) (s : State) : Host.Outcome State Fault Refusal := .next (s.invalidate pages)

/-- INVALIDATION_COMPLETE (R354, R380): when every access through a dropped entry has finished, INVDONE is set, and the next
invalidation begins. -/
def execInvalidationComplete (s : State) : Host.Outcome State Fault Refusal :=
  .next (match s.dev.invs with
    | [] => s
    | (cn, first, n, users) :: rest =>
      if s.ops.any (fun o => users.contains o.id) then s
      else
        let s1 := (s.dueFaults (fun r => r.ctx = cn && (r.cause = 1 || r.cause = 3) && inRange first n r.page)).onDev (fun d =>
          { d with invdone := true, invs := rest })
        match rest with
        | [] => s1
        | (c2, f2, n2, _) :: _ => s1.beginInvalidation c2 f2 n2)

/-! ## Attestation (R349) -/

/-- A request for a report (R349): it takes the nonce and the buffer's address as they stand. -/
def State.attestRequest (s : State) : State :=
  if s.dev.attBusy then s
  else if s.dev.attbuf = 0 || s.dev.attbuf.toNat % 4096 ≠ 0 then s.onDev (fun d => { d with attcmd := true, attFailed := true })
  else s.onDev (fun d => { d with attcmd := true, attFailed := false, attBusy := true, attNonceIn := d.nonce, attBufIn := d.attbuf })

/-- ATTESTATION_REQUEST (R349). -/
def execAttestationRequest (s : State) : Host.Outcome State Fault Refusal := .next s.attestRequest

/-- The presence map of 32 cores from `c` (R11, R352). -/
def State.presentWord (s : State) (c : Nat) : Word :=
  BitVec.ofNat 32 ((List.range 32).foldl (fun m i => m + (s.core (c + i)).present.toNat * 2 ^ i) 0)

/-- The signed bytes of a report (R349). -/
def State.reportBody (s : State) : List Byte :=
  s.dev.attNonceIn ++ s.dev.measures.flatten ++ bytesOf 4 s.dev.modnum ++ bytesOf 4 s.dev.tiermode.toNat ++ bytesOf 24 0
    ++ (List.range 16).flatMap (fun i => bytesOf 4 (s.presentWord (32 * i)).toNat)
    ++ (Config.deviceKey ++ List.replicate 64 0).take 64

/-- A whole report: its body and the signature of 29,792 bytes over it (R349). -/
def State.report (s : State) : List Byte :=
  s.reportBody ++ (Config.slhSign s.reportBody ++ List.replicate 29792 0).take 29792

/-- ATTESTATION_COMPLETE (R349): the report is written through host port 0, then ATTCMD shows the request done. -/
def execAttestationComplete (s : State) : Host.Outcome State Fault Refusal :=
  .next (if s.dev.attBusy then (s.setHosts s.dev.attBufIn.toNat s.report).onDev (fun d => { d with attBusy := false }) else s)

/-! ## The management map (R352) -/

/-- A 64-bit register with one of its halves written. -/
def setHalf (d : DWord) (high : Bool) (v : Word) : DWord :=
  if high then BitVec.ofNat 64 (d.toNat % 2 ^ 32 + v.toNat * 2 ^ 32) else BitVec.ofNat 64 (d.toNat / 2 ^ 32 * 2 ^ 32 + v.toNat)

/-- Four bytes of a list replaced. -/
def setBytes4 (l : List Byte) (i : Nat) (v : Word) : List Byte := l.take i ++ bytesOf 4 v.toNat ++ l.drop (i + 4)

/-- A write to a register that is fixed after the hold point: ignored from then on, with a record (R351). -/
def State.bootWrite (s : State) (off : Nat) (v : Word) (u : Device → Device) : State :=
  if s.dev.boot = .released || s.dev.boot = .ready then
    s.log { type := 0x15, severity := 0, addr := off, detail := [v.toNat] }
  else s.onDev u

/-- A write of a word to the management map: the registers with an action take it, the others hold their fields, and every
other offset ignores it (R6, R7, R352). -/
def State.registerWrite (s : State) (off : Nat) (v : Word) : State :=
  let n := v.toNat
  if off = 0x0004 then
    if s.dev.boot = .hold && n % 2 = 1 then s.leaveHold [] else s.bootWrite off v id
  else if off = 0x0008 then s.bootWrite off v (fun d => { d with modnum := n % 64 })
  else if off = 0x000C then s.bootWrite off v (fun d => { d with tiermode := v.setWidth 12 })
  else if off = 0x0010 then s.opCommand (n % 16)
  else if off = 0x0018 then (if n % 2 = 1 then s.reviewRequest else s.onDev (fun d => { d with mreview := false }))
  else if off = 0x001C then s.retireKey (n % 1024)
  else if off = 0x0020 then s.onDev (fun d => { d with invctx := n % 1024 })
  else if off = 0x0024 then s.onDev (fun d => { d with invva := BitVec.ofNat 32 (n / 65536 * 65536) })
  else if off = 0x0028 then s.onDev (fun d => { d with invvah := BitVec.ofNat 32 (n % 2 ^ 20) })
  else if off = 0x002C then s.invalidate v
  else if off = 0x0030 then s.onDev (fun d => { d with invdone := d.invdone && n % 2 = 0 })
  else if off = 0x0040 then s.onDev (fun d => { d with elog := setHalf d.elog false v })
  else if off = 0x0044 then s.onDev (fun d => { d with elog := setHalf d.elog true v })
  else if 0x0100 ≤ off && off < 0x0140 && off % 4 = 0 then
    s.bootWrite off v (fun d => { d with route0 := setBytes4 d.route0 (off - 0x0100) v })
  else if 0x0140 ≤ off && off < 0x0180 && off % 4 = 0 then
    s.bootWrite off v (fun d => { d with route1 := setBytes4 d.route1 (off - 0x0140) v })
  else if 0x0500 ≤ off && off < 0x0520 && off % 4 = 0 then
    s.onDev (fun d => { d with nonce := setBytes4 d.nonce (off - 0x0500) v })
  else if off = 0x0520 then s.onDev (fun d => { d with attbuf := setHalf d.attbuf false v })
  else if off = 0x0524 then s.onDev (fun d => { d with attbuf := setHalf d.attbuf true v })
  else if off = 0x0528 then (if n % 2 = 1 then s.attestRequest else s.onDev (fun d => { d with attcmd := false }))
  else s

/-- REGISTER_WRITE (R352): a host write to BAR0. -/
def execRegisterWrite (off : Nat) (value : Word) (s : State) : Host.Outcome State Fault Refusal := .next (s.registerWrite off value)

/-- Half of a 64-bit value. -/
def halfOf (d : DWord) (high : Bool) : Word := BitVec.ofNat 32 (if high then d.toNat / 2 ^ 32 else d.toNat)

/-- OPSTAT (R353). -/
def State.opstat (s : State) : Word :=
  BitVec.ofNat 32 (s.dev.opstate % 16 + s.dev.busy.toNat * 2 ^ 8 + s.dev.trip.toNat * 2 ^ 9 + s.dev.result % 4 * 2 ^ 10
    + s.dev.temps.foldl max 0 % 256 * 2 ^ 16)

/-- What a word of the management map reads as (R352). -/
def State.registerRead (s : State) (off : Nat) : Word :=
  let d := s.dev
  if off = 0x0000 then BitVec.ofNat 32 (0x9600 + d.bootFailed.toNat * 2 ^ 31)
  else if off = 0x0004 then
    BitVec.ofNat 32 ((d.boot = .released || d.boot = .ready : Bool).toNat + (d.boot = .ready : Bool).toNat * 2 ^ 8)
  else if off = 0x0008 then BitVec.ofNat 32 d.modnum
  else if off = 0x000C then d.tiermode.setWidth 32
  else if off = 0x0010 then BitVec.ofNat 32 d.opcmd
  else if off = 0x0014 then s.opstat
  else if off = 0x0018 then BitVec.ofNat 32 (d.mreview.toNat + d.reviewResult * 2 ^ 8 + d.reviewBusy.toNat * 2 ^ 31)
  else if off = 0x001C then BitVec.ofNat 32 d.keyret
  else if off = 0x0020 then BitVec.ofNat 32 d.invctx
  else if off = 0x0024 then d.invva
  else if off = 0x0028 then d.invvah
  else if off = 0x002C then d.invpages
  else if off = 0x0030 then BitVec.ofNat 32 d.invdone.toNat
  else if off = 0x0040 then halfOf d.elog false
  else if off = 0x0044 then halfOf d.elog true
  else if 0x0080 ≤ off && off < 0x00C0 && off % 4 = 0 then s.presentWord (8 * (off - 0x0080))
  else if 0x0100 ≤ off && off < 0x0140 && off % 4 = 0 then BitVec.ofNat 32 (natOf ((d.route0.drop (off - 0x0100)).take 4))
  else if 0x0140 ≤ off && off < 0x0180 && off % 4 = 0 then BitVec.ofNat 32 (natOf ((d.route1.drop (off - 0x0140)).take 4))
  else if 0x0400 ≤ off && off < 0x0420 && off % 4 = 0 then d.reviewReport.getD ((off - 0x0400) / 4) 0
  else if 0x0500 ≤ off && off < 0x0520 && off % 4 = 0 then BitVec.ofNat 32 (natOf ((d.nonce.drop (off - 0x0500)).take 4))
  else if off = 0x0520 then halfOf d.attbuf false
  else if off = 0x0524 then halfOf d.attbuf true
  else if off = 0x0528 then BitVec.ofNat 32 (d.attcmd.toNat + d.attFailed.toNat * 2 ^ 30 + d.attBusy.toNat * 2 ^ 31)
  else if 0x1000 ≤ off && off < 0x2000 && off % 4 = 0 then halfOf (s.core ((off - 0x1000) / 8)).copyBytes (off % 8 = 4)
  else if 0x2000 ≤ off && off < 0x2800 && off % 4 = 0 then (s.core ((off - 0x2000) / 4)).fragw
  else 0

/-! ## Links (R341) -/

/-- FABRIC_LINK_CHANGE (R341, R342): a fabric port's link comes up or goes down. -/
def execFabricLinkChange (port : Nat) (up : Bool) (s : State) : Host.Outcome State Fault Refusal :=
  .next (if port < 18 then
      s.onDev (fun d => { d with links := if up then addNat port d.links else d.links.filter (fun p => p ≠ port) })
    else s)

end Sys2Proof.Machine
end

