-- ==== Sys2Proof/Machine/Cross.lean ====
section
/-! DEFINITION. The cross-lane instructions (R174 to R183), but for REGROUP. -/

namespace Sys2Proof.Machine

open Sys2Proof

/-- The meaning of an instruction that computes the results of all members together, in ascending virtual lane. -/
def crossG (u : Group → List LaneIn → List LaneOut) : Meaning where
  perform x s := some ((x.lanes.zip (u x.g x.lanes)).foldl (fun s lo => s.landLane x lo.1 lo.2) s)

/-- The member at a virtual lane. -/
def memberAt (ls : List LaneIn) (v : Nat) : Option LaneIn := ls.find? (fun l => l.vlane = v)

/-- The mask of virtual lanes of some members (R174). -/
def maskOf (ls : List LaneIn) : Word := BitVec.ofNat 32 (ls.foldl (fun m l => m + 2 ^ l.vlane) 0)

/-- The lane operand of SHFL and LPUSH: the immediate, or the second source. -/
def LaneIn.laneArg (l : LaneIn) (b : LaneSrc) : Nat :=
  match b with
  | .imm n => n.toNat
  | .reg _ => (l.s 1).toNat

/-- The lanes of a span (R176). -/
def spanOf : Span → Nat
  | .w32 => 32 | .w16 => 16 | .w8 => 8 | .w4 => 4

/-- The source rank of SHFL, none where `.clip` makes the source absent (R176). -/
def shflRank (m : ShflMode) (w r x : Nat) : Option Nat :=
  match m with
  | .at => some (x % w)
  | .add clip => if clip && w ≤ r + x then none else some ((r + x) % w)
  | .sub clip => if clip && r < x then none else some ((r + w - x % w) % w)
  | .xor => some (r ^^^ (x % w))

/-- SHFL (R176). -/
def meanShfl (b : LaneSrc) (m : ShflMode) (span : Span) : Meaning :=
  crossG (fun _ ls => ls.map (fun l =>
    let w := spanOf span
    let base := l.vlane / w * w
    let src := ((shflRank m w (l.vlane % w) (l.laneArg b)).bind (fun t => memberAt ls (base + t))).getD l
    let v := src.s 0
    out1 (v, ccWord v (src.vlane ≠ l.vlane) false)))

/-- SHFL (R176). -/
def execShfl (g : Guard) (d a : Reg) (b : LaneSrc) (m : ShflMode) (span : Span) (w : CcW) (s : State) :
    Host.Outcome State Fault Refusal :=
  s.issue (.shfl g d a b m span w) (meanShfl b m span)

/-- LPUSH (R177): S and Z are those of vd after the instruction, which reads 0 where it is vz (R56). -/
def meanLpush (d : Reg) (b : LaneSrc) : Meaning :=
  crossG (fun g ls => ls.map (fun l =>
    let pushes := ls.filter (fun x => x.laneArg b = l.vlane)
    match pushes.getLast? with
    | none =>
      let v := l.f.readAt g l.base d
      { dst := [], cc := some (ccWord v false true) }
    | some x =>
      let v : Word := if (g.place l.base d).isSome then x.s 0 else 0
      { dst := [x.s 0], cc := some (ccWord v (2 ≤ pushes.length) false) }))

/-- LPUSH (R177). -/
def execLpush (g : Guard) (d a : Reg) (b : LaneSrc) (w : CcW) (s : State) : Host.Outcome State Fault Refusal :=
  s.issue (.lpush g d a b w) (meanLpush d b)

/-- MATCH (R178). -/
def meanMatchKeys : Meaning :=
  crossG (fun _ ls => ls.map (fun l =>
    let same := ls.filter (fun x => x.src = l.src)
    out1 (maskOf same, { s := false, z := same.length = 1, c := same.length = ls.length, v := false })))

/-- MATCH (R178). -/
def execMatchKeys (g : Guard) (d a : Reg) (w64 : Bool) (w : CcW) (s : State) : Host.Outcome State Fault Refusal :=
  s.issue (.matchKeys g d a w64 w) meanMatchKeys

/-- VOTE's result over the members (R179). -/
def voteOf (op : VoteOp) (ls : List LaneIn) : Word :=
  let yes := ls.filter (fun l => l.s 0 ≠ 0)
  match op with
  | .mask => maskOf yes
  | .count => BitVec.ofNat 32 yes.length
  | .anyTrue => truth (!yes.isEmpty)
  | .allTrue => truth (yes.length = ls.length)
  | .same => truth (ls.all (fun l => ls.all (fun x => x.s 0 = l.s 0)))

/-- VOTE (R179). -/
def meanVote (op : VoteOp) : Meaning :=
  crossG (fun _ ls => ls.map (fun _ => out1 (voteOf op ls, ccWord (voteOf op ls) false false)))

/-- VOTE (R179). -/
def execVote (g : Guard) (d a : Reg) (op : VoteOp) (w : CcW) (s : State) : Host.Outcome State Fault Refusal :=
  s.issue (.vote g d a op w) (meanVote op)

/-- One combination of REDL and SCANL: the word and its exceptions (R180). -/
def combine (sel : RedSel) (a b : Word) : Word × BitVec 5 :=
  let int (u : Bool) (op : RedIntOp) : Word :=
    match op with
    | .add => a + b
    | .min => if (if u then b.toNat < a.toNat else b.toInt < a.toInt) then b else a
    | .max => if (if u then a.toNat < b.toNat else a.toInt < b.toInt) then b else a
    | .and => a &&& b
    | .or => a ||| b
    | .xor => a ^^^ b
  match sel with
  | .s32 op => (int false op, 0)
  | .u32 op => (int true op, 0)
  | .f32 op ftz =>
    let r := match op with
      | .add => fp32.fadd .rne ftz 0 (fp32.input ftz a.toNat) (fp32.input ftz b.toNat)
      | .min => fminmax false false ftz a.toNat b.toNat
      | .max => fminmax true false ftz a.toNat b.toNat
    (BitVec.ofNat 32 r.bits, r.fl)

/-- One level of the tree of R180: adjacent results combined, an empty child passed over. -/
def treeLevel (sel : RedSel) : List (Option Word) → List (Option Word) × BitVec 5
  | a :: b :: rest =>
    let (ts, fl) := treeLevel sel rest
    match a, b with
    | some x, some y =>
      let (v, f) := combine sel x y
      (some v :: ts, fl ||| f)
    | some x, none => (some x :: ts, fl)
    | none, y => (y :: ts, fl)
  | l => (l, 0)

/-- `n` levels of the tree. -/
def treeLevels (sel : RedSel) : Nat → List (Option Word) → List (Option Word) × BitVec 5
  | 0, l => (l, 0)
  | n + 1, l =>
    let (l1, f1) := treeLevel sel l
    let (l2, f2) := treeLevels sel n l1
    (l2, f1 ||| f2)

/-- REDL (R180): the result to every member, the exceptions once. -/
def meanRedl (sel : RedSel) : Meaning :=
  crossG (fun _ ls =>
    let (t, fl) := treeLevels sel 5 ((List.range 32).map (fun v => (memberAt ls v).map (fun l => l.s 0)))
    ls.map (fun _ => { dst := [(t.getD 0 none).getD 0], fp := fl }))

/-- REDL (R180). -/
def execRedl (g : Guard) (d a : Reg) (sel : RedSel) (s : State) : Host.Outcome State Fault Refusal :=
  s.issue (.redl g d a sel) (meanRedl sel)

/-- The identity of an operation (R181). -/
def scanIdentity : RedSel → Word
  | .s32 .add => 0 | .u32 .add => 0
  | .s32 .min => 0x7FFFFFFF | .u32 .min => 0xFFFFFFFF
  | .s32 .max => 0x80000000 | .u32 .max => 0
  | .s32 .and => 0xFFFFFFFF | .u32 .and => 0xFFFFFFFF
  | .s32 _ => 0 | .u32 _ => 0
  | .f32 .add _ => 0x80000000 | .f32 .min _ => 0x7F800000 | .f32 .max _ => 0xFF800000

/-- The prefixes of a list of words: the one so far is `acc`, none before the first. -/
def scanWords (sel : RedSel) (excl : Bool) : Option Word → List Word → List Word × BitVec 5
  | _, [] => ([], 0)
  | none, w :: ws =>
    let (rs, fl) := scanWords sel excl (some w) ws
    ((if excl then scanIdentity sel else w) :: rs, fl)
  | some acc, [w] =>
    if excl then ([acc], 0)
    else
      let (v, f) := combine sel acc w
      ([v], f)
  | some acc, w :: ws =>
    let (v, f) := combine sel acc w
    let (rs, fl) := scanWords sel excl (some v) ws
    ((if excl then acc else v) :: rs, f ||| fl)

/-- SCANL (R181). -/
def meanScanl (sel : RedSel) (excl : Bool) : Meaning :=
  crossG (fun _ ls =>
    let (rs, fl) := scanWords sel excl none (ls.map (fun l => l.s 0))
    rs.map (fun r => { dst := [r], fp := fl }))

/-- SCANL (R181). -/
def execScanl (g : Guard) (d a : Reg) (sel : RedSel) (excl : Bool) (s : State) : Host.Outcome State Fault Refusal :=
  s.issue (.scanl g d a sel excl) (meanScanl sel excl)

/-- The rank of a value in TOPK's order (R182). -/
def topkKey (ty : TopkType) (w : Word) : Int :=
  match ty with
  | .s32 => w.toInt
  | .u32 => w.toNat
  | .f32 =>
    if (fp32.read w.toNat).isNan then -2 ^ 40
    else if w.msb then -((w.toNat - 2 ^ 31 : Nat) : Int) else w.toNat

/-- An element placed in a list that is in TOPK's order, greatest first, ties by index (R182). -/
def topkInsert (ty : TopkType) (x : Nat × Word) : List (Nat × Word) → List (Nat × Word)
  | [] => [x]
  | y :: ys =>
    if topkKey ty y.2 < topkKey ty x.2 || (topkKey ty y.2 = topkKey ty x.2 && x.1 < y.1) then x :: y :: ys
    else y :: topkInsert ty x ys

/-- The candidates in order (R182). -/
def topkOrder (ty : TopkType) (n : Nat) (ls : List LaneIn) : List (Nat × Word) :=
  (ls.flatMap (fun l => (List.range n).map (fun j => (l.vlane + 32 * j, l.s j)))).foldr (topkInsert ty) []

/-- The fill value (R183). -/
def topkFill : TopkType → Word
  | .f32 => 0xFF800000 | .s32 => 0x80000000 | .u32 => 0

/-- TOPK (R182, R183). -/
def meanTopk (dv di : Reg) (n : Fin 4) (k : BitVec 5) (ty : TopkType) : Meaning where
  static _ _ _ := if dv = di then some (illegalOperand) else none
  perform := (crossG (fun _ ls =>
    let order := topkOrder ty (topkN n) ls
    ls.map (fun l =>
      match (if l.vlane ≤ k.toNat then order[l.vlane]? else none) with
      | none => { dst := [topkFill ty, 0xFFFF] }
      | some (e, w) =>
        let v : Word := if ty == .f32 && (fp32.read w.toNat).isNan then 0x7FC00000 else w
        { dst := [v, BitVec.ofNat 32 e] }))).perform

/-- TOPK (R182, R183). -/
def execTopk (g : Guard) (dv di vs : Reg) (n : Fin 4) (k : BitVec 5) (ty : TopkType) (s : State) :
    Host.Outcome State Fault Refusal :=
  s.issue (.topk g dv di vs n k ty) (meanTopk dv di n k ty)

end Sys2Proof.Machine
end

