-- ==== Sys2Proof/Machine/FloatFamily.lean ====
section
/-! DEFINITION. The floating-point, special-function and conversion instructions (R157 to R171) and their short forms
(R97, R162). -/

namespace Sys2Proof.Machine

open Sys2Proof

/-- The FP32 value of an operand, with `.ftz` applied (R157). -/
def inF (ftz : Bool) (w : Word) : FV := fp32.input ftz w.toNat

/-- A result with `.sat`: clamped after its exceptions are formed (R158). -/
def satF (sat : Bool) (r : FRes) : FRes := if sat then { r with bits := satUnit r.bits } else r

/-- The 16-bit element of a packed register (R162). -/
def half (w : Word) (i : Nat) : Nat := w.toNat / 2 ^ (16 * i) % 2 ^ 16

/-- The format of packed elements (R162). -/
def halfFmt (bf : Bool) : FFmt := if bf then bf16 else fp16

/-- Two 16-bit results packed, with the union of their exceptions (R162). -/
def out2 (r0 r1 : FRes) (draws : Nat) : LaneOut :=
  { dst := [BitVec.ofNat 32 (r0.bits + r1.bits * 2 ^ 16)], fp := r0.fl ||| r1.fl, draws := draws }

/-- FADD (R158). -/
def meanFadd (b : Src) (rnd : Rnd) (ftz sat : Bool) : Meaning :=
  vecG (fun g l => outF (satF sat (fp32.fadd rnd ftz (srDraw rnd g l 0) (inF ftz (l.s 0)) (inF ftz (l.opt b 1))))
    (srTaken rnd 1))

/-- FADD (R158). -/
def execFadd (g : Guard) (d a : Reg) (b : Src) (rnd : Rnd) (ftz sat : Bool) (w : CcW) (s : State) : Host.Outcome State Fault Refusal :=
  s.issue (.fadd g d a b rnd ftz sat w) (meanFadd b rnd ftz sat)

/-- FSUB (R158). -/
def meanFsub (b : Src) (rnd : Rnd) (ftz sat : Bool) : Meaning :=
  vecG (fun g l => outF (satF sat (fp32.fadd rnd ftz (srDraw rnd g l 0) (inF ftz (l.s 0)) (inF ftz (l.opt b 1)).neg))
    (srTaken rnd 1))

/-- FSUB (R158). -/
def execFsub (g : Guard) (d a : Reg) (b : Src) (rnd : Rnd) (ftz sat : Bool) (w : CcW) (s : State) : Host.Outcome State Fault Refusal :=
  s.issue (.fsub g d a b rnd ftz sat w) (meanFsub b rnd ftz sat)

/-- FMUL (R158). -/
def meanFmul (b : Src) (rnd : Rnd) (ftz sat : Bool) : Meaning :=
  vecG (fun g l => outF (satF sat (fp32.fmul rnd ftz (srDraw rnd g l 0) (inF ftz (l.s 0)) (inF ftz (l.opt b 1))))
    (srTaken rnd 1))

/-- FMUL (R158). -/
def execFmul (g : Guard) (d a : Reg) (b : Src) (rnd : Rnd) (ftz sat : Bool) (w : CcW) (s : State) : Host.Outcome State Fault Refusal :=
  s.issue (.fmul g d a b rnd ftz sat w) (meanFmul b rnd ftz sat)

/-- FFMA (R158). -/
def meanFfma (b : Src) (rnd : Rnd) (ftz sat : Bool) : Meaning :=
  vecG (fun g l => outF (satF sat (fp32.fma rnd ftz (srDraw rnd g l 0) (inF ftz (l.s 0)) (inF ftz (l.opt b 1))
    (inF ftz (l.s (afterOpt b 1))))) (srTaken rnd 1))

/-- FFMA (R158). -/
def execFfma (g : Guard) (d a : Reg) (b : Src) (c : Reg) (rnd : Rnd) (ftz sat : Bool) (w : CcW) (s : State) : Host.Outcome State Fault Refusal :=
  s.issue (.ffma g d a b c rnd ftz sat w) (meanFfma b rnd ftz sat)

/-- FMIN (R159). -/
def meanFmin (b : Src) (nan ftz : Bool) : Meaning :=
  vec (fun l => outF (fminmax false nan ftz (l.s 0).toNat (l.opt b 1).toNat) 0)

/-- FMIN (R159). -/
def execFmin (g : Guard) (d a : Reg) (b : Src) (nan ftz : Bool) (w : CcW) (s : State) : Host.Outcome State Fault Refusal :=
  s.issue (.fmin g d a b nan ftz w) (meanFmin b nan ftz)

/-- FMAX (R159). -/
def meanFmax (b : Src) (nan ftz : Bool) : Meaning :=
  vec (fun l => outF (fminmax true nan ftz (l.s 0).toNat (l.opt b 1).toNat) 0)

/-- FMAX (R159). -/
def execFmax (g : Guard) (d a : Reg) (b : Src) (nan ftz : Bool) (w : CcW) (s : State) : Host.Outcome State Fault Refusal :=
  s.issue (.fmax g d a b nan ftz w) (meanFmax b nan ftz)

/-- FCMP (R160). -/
def meanFcmp (b : Src) (cond : Cond) (ftz : Bool) : Meaning :=
  vec (fun l =>
    let x := (l.s 0).toNat
    let y := (l.opt b 1).toNat
    let (fs, fz, fc, fv) := fcompare ftz x y
    let c : CC := { s := fs, z := fz, c := fc, v := fv }
    { dst := [truth (condHolds cond c)], cc := some c,
      fp := raiseIf ((fp32.read x).isSig || (fp32.read y).isSig) fNV })

/-- FCMP (R160). -/
def execFcmp (g : Guard) (d a : Reg) (b : Src) (cond : Cond) (ftz : Bool) (w : CcW) (s : State) : Host.Outcome State Fault Refusal :=
  s.issue (.fcmp g d a b cond ftz w) (meanFcmp b cond ftz)

/-- FCLASS (R161). -/
def meanFclass : Meaning :=
  vec (fun l => { dst := [BitVec.ofNat 32 (fclassOf (l.s 0).toNat)] })

/-- FCLASS (R161). -/
def execFclass (g : Guard) (d a : Reg) (s : State) : Host.Outcome State Fault Refusal :=
  s.issue (.fclass g d a) meanFclass

/-- HADD2 (R162). -/
def meanHadd2 (b : Src) (rnd : Rnd) (ftz bf : Bool) : Meaning :=
  vecG (fun g l =>
    let f := halfFmt bf
    let one (i : Nat) : FRes := f.fadd rnd ftz (srDraw rnd g l i) (f.input ftz (half (l.s 0) i)) (f.input ftz (half (l.opt b 1) i))
    out2 (one 0) (one 1) (srTaken rnd 2))

/-- HADD2 (R162). -/
def execHadd2 (g : Guard) (d a : Reg) (b : Src) (rnd : Rnd) (ftz bf : Bool) (s : State) : Host.Outcome State Fault Refusal :=
  s.issue (.hadd2 g d a b rnd ftz bf) (meanHadd2 b rnd ftz bf)

/-- HMUL2 (R162). -/
def meanHmul2 (b : Src) (rnd : Rnd) (ftz bf : Bool) : Meaning :=
  vecG (fun g l =>
    let f := halfFmt bf
    let one (i : Nat) : FRes := f.fmul rnd ftz (srDraw rnd g l i) (f.input ftz (half (l.s 0) i)) (f.input ftz (half (l.opt b 1) i))
    out2 (one 0) (one 1) (srTaken rnd 2))

/-- HMUL2 (R162). -/
def execHmul2 (g : Guard) (d a : Reg) (b : Src) (rnd : Rnd) (ftz bf : Bool) (s : State) : Host.Outcome State Fault Refusal :=
  s.issue (.hmul2 g d a b rnd ftz bf) (meanHmul2 b rnd ftz bf)

/-- HFMA2 (R162). -/
def meanHfma2 (b : Src) (rnd : Rnd) (ftz bf : Bool) : Meaning :=
  vecG (fun g l =>
    let f := halfFmt bf
    let one (i : Nat) : FRes := f.fma rnd ftz (srDraw rnd g l i) (f.input ftz (half (l.s 0) i))
      (f.input ftz (half (l.opt b 1) i)) (f.input ftz (half (l.s (afterOpt b 1)) i))
    out2 (one 0) (one 1) (srTaken rnd 2))

/-- HFMA2 (R162). -/
def execHfma2 (g : Guard) (d a : Reg) (b : Src) (c : Reg) (rnd : Rnd) (ftz bf : Bool) (s : State) : Host.Outcome State Fault Refusal :=
  s.issue (.hfma2 g d a b c rnd ftz bf) (meanHfma2 b rnd ftz bf)

/-- RCP (R163, R164). -/
def meanRcp (ftz : Bool) : Meaning :=
  vec (fun l => outF (sfuOf .rcp ftz (l.s 0)) 0)

/-- RCP (R163, R164). -/
def execRcp (g : Guard) (d a : Reg) (ftz : Bool) (w : CcW) (s : State) : Host.Outcome State Fault Refusal :=
  s.issue (.rcp g d a ftz w) (meanRcp ftz)

/-- RSQ (R163, R164). -/
def meanRsq (ftz : Bool) : Meaning :=
  vec (fun l => outF (sfuOf .rsq ftz (l.s 0)) 0)

/-- RSQ (R163, R164). -/
def execRsq (g : Guard) (d a : Reg) (ftz : Bool) (w : CcW) (s : State) : Host.Outcome State Fault Refusal :=
  s.issue (.rsq g d a ftz w) (meanRsq ftz)

/-- SQRT (R163, R164). -/
def meanSqrt (ftz : Bool) : Meaning :=
  vec (fun l => outF (sfuOf .sqrt ftz (l.s 0)) 0)

/-- SQRT (R163, R164). -/
def execSqrt (g : Guard) (d a : Reg) (ftz : Bool) (w : CcW) (s : State) : Host.Outcome State Fault Refusal :=
  s.issue (.sqrt g d a ftz w) (meanSqrt ftz)

/-- EXP2 (R163, R164). -/
def meanExp2 (ftz : Bool) : Meaning :=
  vec (fun l => outF (sfuOf .exp2 ftz (l.s 0)) 0)

/-- EXP2 (R163, R164). -/
def execExp2 (g : Guard) (d a : Reg) (ftz : Bool) (w : CcW) (s : State) : Host.Outcome State Fault Refusal :=
  s.issue (.exp2 g d a ftz w) (meanExp2 ftz)

/-- LOG2 (R163, R164). -/
def meanLog2 (ftz : Bool) : Meaning :=
  vec (fun l => outF (sfuOf .log2 ftz (l.s 0)) 0)

/-- LOG2 (R163, R164). -/
def execLog2 (g : Guard) (d a : Reg) (ftz : Bool) (w : CcW) (s : State) : Host.Outcome State Fault Refusal :=
  s.issue (.log2 g d a ftz w) (meanLog2 ftz)

/-- SIN (R163, R164). -/
def meanSin (ftz : Bool) : Meaning :=
  vec (fun l => outF (sfuOf .sin ftz (l.s 0)) 0)

/-- SIN (R163, R164). -/
def execSin (g : Guard) (d a : Reg) (ftz : Bool) (w : CcW) (s : State) : Host.Outcome State Fault Refusal :=
  s.issue (.sin g d a ftz w) (meanSin ftz)

/-- COS (R163, R164). -/
def meanCos (ftz : Bool) : Meaning :=
  vec (fun l => outF (sfuOf .cos ftz (l.s 0)) 0)

/-- COS (R163, R164). -/
def execCos (g : Guard) (d a : Reg) (ftz : Bool) (w : CcW) (s : State) : Host.Outcome State Fault Refusal :=
  s.issue (.cos g d a ftz w) (meanCos ftz)

/-- TANH (R163, R164). -/
def meanTanh (ftz : Bool) : Meaning :=
  vec (fun l => outF (sfuOf .tanh ftz (l.s 0)) 0)

/-- TANH (R163, R164). -/
def execTanh (g : Guard) (d a : Reg) (ftz : Bool) (w : CcW) (s : State) : Host.Outcome State Fault Refusal :=
  s.issue (.tanh g d a ftz w) (meanTanh ftz)

/-- F2I (R165). -/
def meanF2i (rnd : Rnd) (u : Bool) : Meaning :=
  vecG (fun g l =>
    let r := f2iOf rnd u (srDraw rnd g l 0) (l.s 0).toNat
    let w : Word := BitVec.ofNat 32 r.bits
    { dst := [w], cc := some (ccWord w false (r.fl &&& fNV ≠ 0)), fp := r.fl, draws := srTaken rnd 1 })

/-- F2I (R165). -/
def execF2i (g : Guard) (d a : Reg) (rnd : Rnd) (u : Bool) (w : CcW) (s : State) : Host.Outcome State Fault Refusal :=
  s.issue (.f2i g d a rnd u w) (meanF2i rnd u)

/-- I2F (R166). -/
def meanI2f (rnd : Rnd) (u : Bool) : Meaning :=
  vecG (fun g l => outF (i2fOf rnd u (srDraw rnd g l 0) (l.s 0)) (srTaken rnd 1))

/-- I2F (R166). -/
def execI2f (g : Guard) (d a : Reg) (rnd : Rnd) (u : Bool) (w : CcW) (s : State) : Host.Outcome State Fault Refusal :=
  s.issue (.i2f g d a rnd u w) (meanI2f rnd u)

/-- The format of a list of narrow elements with its width, for CVP and CVU (R167). -/
def cvpFmt : CvpSel → FFmt × Nat
  | .h2 bf _ => (halfFmt bf, 16)
  | .q4 e5 => (if e5 then e5m2 else e4m3, 8)
  | .e2m1 _ => (e2m1, 4)

/-- The formats of CVU (R168). -/
def cvuFmt : CvuSel → FFmt × Nat
  | .h2 bf => (halfFmt bf, 16)
  | .q4 e5 => (if e5 then e5m2 else e4m3, 8)
  | .e2m1 _ => (e2m1, 4)

/-- CVP (R167). -/
def meanCvp (sel : CvpSel) (rnd : Rnd) (sat : Bool) : Meaning :=
  vecG (fun g l =>
    let (f, w) := cvpFmt sel
    let n := if w = 16 then 2 else 4
    let rs := (List.range n).map (fun i => f.narrow rnd sat (srDraw rnd g l i) (l.s i).toNat)
    let packed := ((List.range n).map (fun i => (rs.getD i { bits := 0 }).bits * 2 ^ (w * i))).sum
    let v : Nat := match sel with
      | .e2m1 h =>
        let old := (l.s 4).toNat
        if h then old % 2 ^ 16 + packed * 2 ^ 16 else old / 2 ^ 16 * 2 ^ 16 + packed
      | _ => packed
    { dst := [BitVec.ofNat 32 v], fp := rs.foldl (fun x r => x ||| r.fl) 0, draws := srTaken rnd n })

/-- CVP (R167). -/
def execCvp (g : Guard) (d a : Reg) (sel : CvpSel) (rnd : Rnd) (sat : Bool) (s : State) : Host.Outcome State Fault Refusal :=
  s.issue (.cvp g d a sel rnd sat) (meanCvp sel rnd sat)

/-- CVU (R168). -/
def meanCvu (sel : CvuSel) : Meaning :=
  vec (fun l =>
    let (f, w) := cvuFmt sel
    let n := if w = 16 then 2 else 4
    let base := match sel with
      | .e2m1 true => 16
      | _ => 0
    let rs := (List.range n).map (fun i => f.widen ((l.s 0).toNat / 2 ^ (base + w * i) % 2 ^ w))
    { dst := rs.map (fun r => BitVec.ofNat 32 r.bits), fp := rs.foldl (fun x r => x ||| r.fl) 0 })

/-- CVU (R168). -/
def execCvu (g : Guard) (d a : Reg) (sel : CvuSel) (s : State) : Host.Outcome State Fault Refusal :=
  s.issue (.cvu g d a sel) (meanCvu sel)

/-- A packed element as an integer (R74). -/
def packedInt (uns : Bool) (w : Nat) (x : Word) (i : Nat) : Int :=
  let v := x.toNat / 2 ^ (w * i) % 2 ^ w
  if !uns && 2 ^ (w - 1) ≤ v then (v : Int) - 2 ^ w else v

/-- A packed element as a float (R169). -/
def packedFloat (f : FFmt) (w : Nat) (x : Word) (i : Nat) : FV := f.read (x.toNat / 2 ^ (w * i) % 2 ^ w)

/-- The integer dot product of `n` elements of `w` bits (R169). -/
def dotInt (aUns bUns sat : Bool) (n w : Nat) (a b c : Word) : Word :=
  let v := c.toInt + ((List.range n).map (fun i => packedInt aUns w a i * packedInt bUns w b i)).sum
  if sat then BitVec.ofInt 32 (max (-2 ^ 31) (min v (2 ^ 31 - 1))) else BitVec.ofInt 32 v

/-- The float dot product of `n` elements of `w` bits (R169). -/
def dotFloat (fa fb : FFmt) (rnd : Rnd) (q n w : Nat) (a b c : Word) : FRes :=
  dotOf rnd q ((List.range n).map (fun i => (packedFloat fa w a i, packedFloat fb w b i))) (fp32.read c.toNat)

/-- The result of a float dot product: no CC is written. -/
def outDot (r : FRes) (draws : Nat) : LaneOut := { dst := [BitVec.ofNat 32 r.bits], fp := r.fl, draws := draws }

/-- DOT4 (R169). -/
def meanDot4 (m : Dot4Mode) : Meaning :=
  vecG (fun g l =>
    match m with
    | .flt a5 b5 rnd =>
      outDot (dotFloat (if a5 then e5m2 else e4m3) (if b5 then e5m2 else e4m3) rnd (srDraw rnd g l 0) 4 8 (l.s 0) (l.s 1)
        (l.s 2)) (srTaken rnd 1)
    | .int au bu sat => { dst := [dotInt au bu sat 4 8 (l.s 0) (l.s 1) (l.s 2)] })

/-- DOT4 (R169). -/
def execDot4 (g : Guard) (d a b c : Reg) (m : Dot4Mode) (s : State) : Host.Outcome State Fault Refusal :=
  s.issue (.dot4 g d a b c m) (meanDot4 m)

/-- DOT8 (R169). -/
def meanDot8 (m : Dot8Mode) : Meaning :=
  vecG (fun g l =>
    match m with
    | .flt rnd => outDot (dotFloat e2m1 e2m1 rnd (srDraw rnd g l 0) 8 4 (l.s 0) (l.s 1) (l.s 2)) (srTaken rnd 1)
    | .int au bu sat => { dst := [dotInt au bu sat 8 4 (l.s 0) (l.s 1) (l.s 2)] })

/-- DOT8 (R169). -/
def execDot8 (g : Guard) (d a b c : Reg) (m : Dot8Mode) (s : State) : Host.Outcome State Fault Refusal :=
  s.issue (.dot8 g d a b c m) (meanDot8 m)

/-- SCALE (R170). -/
def meanScale (rnd : Rnd) (byte : Fin 4) : Meaning :=
  vecG (fun g l => outF (scaleOf rnd (srDraw rnd g l 0) (l.s 0).toNat ((l.s 1).toNat / 2 ^ (8 * byte.val) % 256))
    (srTaken rnd 1))

/-- SCALE (R170). -/
def execScale (g : Guard) (d a b : Reg) (rnd : Rnd) (byte : Fin 4) (w : CcW) (s : State) : Host.Outcome State Fault Refusal :=
  s.issue (.scale g d a b rnd byte w) (meanScale rnd byte)

/-- RAND (R171). -/
def meanRand (m : RandMode) : Meaning :=
  vecG (fun g l =>
    match m with
    | .plain => { dst := [l.f.draw g 0], draws := 1 }
    | .w64 => { dst := [l.f.draw g 0, l.f.draw g 1], draws := 2 }
    | .f => { dst := [BitVec.ofNat 32 (fp32.round .rne 0 false ((l.f.draw g 0).toNat / 256) (-24)).bits], draws := 1 })

/-- RAND (R171). -/
def execRand (g : Guard) (d : Reg) (m : RandMode) (s : State) : Host.Outcome State Fault Refusal :=
  s.issue (.rand g d m) (meanRand m)

/-- The short FADD (R97, R158). -/
def meanFaddShort : Meaning :=
  vec (fun l => outF (fp32.fadd .rne false 0 (inF false (l.s 1)) (inF false (l.s 0))) 0)

/-- The short FADD (R97, R158). -/
def execFaddShort (d a : Reg) (s : State) : Host.Outcome State Fault Refusal :=
  s.issue (.faddShort d a) meanFaddShort

/-- The short FSUB (R97, R158). -/
def meanFsubShort : Meaning :=
  vec (fun l => outF (fp32.fadd .rne false 0 (inF false (l.s 1)) (inF false (l.s 0)).neg) 0)

/-- The short FSUB (R97, R158). -/
def execFsubShort (d a : Reg) (s : State) : Host.Outcome State Fault Refusal :=
  s.issue (.fsubShort d a) meanFsubShort

/-- The short FMUL (R97, R158). -/
def meanFmulShort : Meaning :=
  vec (fun l => outF (fp32.fmul .rne false 0 (inF false (l.s 1)) (inF false (l.s 0))) 0)

/-- The short FMUL (R97, R158). -/
def execFmulShort (d a : Reg) (s : State) : Host.Outcome State Fault Refusal :=
  s.issue (.fmulShort d a) meanFmulShort

/-- The short FMIN (R97, R159). -/
def meanFminShort : Meaning :=
  vec (fun l => outF (fminmax false false false (l.s 1).toNat (l.s 0).toNat) 0)

/-- The short FMIN (R97, R159). -/
def execFminShort (d a : Reg) (s : State) : Host.Outcome State Fault Refusal :=
  s.issue (.fminShort d a) meanFminShort

/-- The short FMAX (R97, R159). -/
def meanFmaxShort : Meaning :=
  vec (fun l => outF (fminmax true false false (l.s 1).toNat (l.s 0).toNat) 0)

/-- The short FMAX (R97, R159). -/
def execFmaxShort (d a : Reg) (s : State) : Host.Outcome State Fault Refusal :=
  s.issue (.fmaxShort d a) meanFmaxShort

/-- The short HADD2 (R97, R162). -/
def meanHadd2Short : Meaning :=
  vec (fun l =>
    let one (i : Nat) : FRes := fp16.fadd .rne false 0 (fp16.read (half (l.s 1) i)) (fp16.read (half (l.s 0) i))
    out2 (one 0) (one 1) 0)

/-- The short HADD2 (R97, R162). -/
def execHadd2Short (d a : Reg) (s : State) : Host.Outcome State Fault Refusal :=
  s.issue (.hadd2Short d a) meanHadd2Short

/-- The short HMUL2 (R97, R162). -/
def meanHmul2Short : Meaning :=
  vec (fun l =>
    let one (i : Nat) : FRes := fp16.fmul .rne false 0 (fp16.read (half (l.s 1) i)) (fp16.read (half (l.s 0) i))
    out2 (one 0) (one 1) 0)

/-- The short HMUL2 (R97, R162). -/
def execHmul2Short (d a : Reg) (s : State) : Host.Outcome State Fault Refusal :=
  s.issue (.hmul2Short d a) meanHmul2Short

end Sys2Proof.Machine
end

