-- ==== Sys2Proof/Machine/GraphSteps.lean ====
section
/-! DEFINITION. The steps of the task graph: HOST_NODE_RELEASE (R251), NODE_START (R252, R254, R338), STAGE_PAGE (R256),
NODE_COMPLETE (R48, R254), NODE_COMMIT (R255), NODE_ROLLBACK (R258) and NODE_FAIL (R259), and on which slots a node has
worked (R393). -/

namespace Sys2Proof.Machine

open Sys2Proof

/-! ## Release -/

/-- Whether an address is that of a record: a multiple of 256 in its context's node area, after the control block (R247,
R369). -/
def State.isRecord (s : State) (cn : Nat) (addr : VAddr) : Bool :=
  addr.toNat % 256 = 0
    && (s.ctx? cn).any (fun c => c.nodeBase + 256 ≤ addr.toNat && addr.toNat + 256 ≤ c.nodeBase + c.nodeSize)

/-- HOST_NODE_RELEASE (R251): the host's atomic add of 0xFFFF_FFFF to a pred word, once the part accepts releases (R351). -/
def execHostNodeRelease (port ctx : Nat) (addr : VAddr) (s : State) : Host.Outcome State Fault Refusal :=
  .next (if port < 2 && s.dev.boot = .ready && s.isRecord ctx addr then s.acts ctx [.dec addr none false port] else s)

/-! ## Starting a node on an engine (R254) -/

/-- Bit 0, 1 or 2 of a COPY node's options: shaped, verify, kvcheck (R250). -/
def Node.option (n : Node) (i : Nat) : Bool := recNat n.record (0x38 + 0x20) 4 / 2 ^ i % 2 = 1

/-- The copy of a COPY node (R250): the rows of its descriptor where it is shaped, else one row. -/
def Node.copy (n : Node) : CopyCmd :=
  let p (off len : Nat) := recNat n.record (0x38 + off) len
  let src := p 0 8 % 2 ^ 52
  let dst := p 8 8 % 2 ^ 52
  if n.option 0 then
    let lo := p 0x18 4
    let hi := p 0x1C 4
    { dir := .gg, dst := dst, src := src, rows := lo / 2 ^ 12 % 2 ^ 8 + 1, rowBytes := 16 * (lo % 2 ^ 12),
      dstPitch := 16 * (hi / 2 ^ 16), srcPitch := 16 * (hi % 2 ^ 16), verify := n.option 1 }
  else
    { dir := .gg, dst := dst, src := src, rows := 1, rowBytes := p 0x10 8, dstPitch := 0, srcPitch := 0, verify := n.option 1 }

/-- The core whose copy engine takes a COPY node: of the cores of the mask in service, the one with the fewest queued
commands, and the lowest of those (R254); a queue holds 64 (R216). -/
def State.copyEngineFor (s : State) (n : Node) : Option Nat :=
  let cs := (List.range 512).filter (fun c => n.masks c && s.coreServes c && (s.copyQueue c).length < 64)
  cs.foldl (fun (best : Option Nat) c =>
    match best with
    | none => some c
    | some b => if (s.copyQueue c).length < (s.copyQueue b).length then some c else some b) none

/-- The die of a node's mask whose sort-count engine takes it: the lowest whose engine is idle (R254). -/
def State.sortEngineFor (s : State) (n : Node) : Option Nat :=
  (List.range 8).find? (fun die => recNat n.record 0x28 1 / 2 ^ die % 2 = 1
    && (s.engineDie die).any (fun d => !s.sortBusy d && s.engineTakes d) && !(s.sortQueue die).any s.mayBegin)

/-- The lowest die of a node's mask with an idle attention engine (R254). -/
def State.attnEngineFor (s : State) (n : Node) : Option Nat :=
  (List.range 8).find? (fun die => recNat n.record 0x28 1 / 2 ^ die % 2 = 1
    && (s.engineDie die).any (fun d => s.attnRunning d + ((s.attnQueue die).filter s.mayBegin).length < 4 && s.engineTakes d))

/-- The request block of a SORT or ATTN node (R250). -/
def Node.block (n : Node) : VAddr := BitVec.ofNat 52 (recNat n.record 0x38 8)

/-- The command of a node, at the engine of a core or of a core's die; a SORT node's uses `.device` scope (R296). -/
def State.nodeOp (s : State) (n : Node) (id core : Nat) (kind : OpKind) : Op :=
  { id := id, issue := id, gid := 0, fid := 0, wid := 0, lane := 0, vlane := 0, core := core, ctx := n.ctx, node := n.addr,
    flag := none, scope := match kind with | .sort .. => .device | _ => .system, mcls := 1, mdl := 0xFFF, pos := { hdr := 0 }, base := 0, instr := .nodeStart n.ctx n.addr,
    words := [], srcs := [], since := s.time, clock := s.clock, server := dieOf core, kind := kind }

/-- The engine and the command with which a node starts, if an engine can take it now. -/
def State.nodeEngine (s : State) (n : Node) : Option (Nat × OpKind) :=
  match n.kind with
  | 1 => (s.copyEngineFor n).map (fun c => (c, .copy n.copy))
  | 2 => (s.sortEngineFor n).map (fun d => (64 * d, .sort n.block [] [] 0 0 none none))
  | 3 => (s.attnEngineFor n).map (fun d => (64 * d, .attn n.block []))
  | _ => none

/-- The command of a node that has started on an engine. -/
def State.commandOf (s : State) (n : Node) : Option Op :=
  s.ops.find? (fun o => o.gid = 0 && o.ctx = n.ctx && o.node = n.addr)

/-- Every granule that holds a byte of some virtual addresses of a command marked poisoned (R338, R383). -/
def State.poisonPinned (s : State) (pins : List (Nat × Nat × Nat)) (vas : List Nat) : State :=
  vas.foldl (fun s va => match pinned pins (va % 2 ^ 52) with
    | some (pa, _) => { s with poison := addNat (pa / 256) s.poison }
    | none => s) s

/-- The kvcheck of a COPY node (R338): its length is the block's size, and the CRC of the source as read is the stored one,
at the first or the second reading; that of a block with no records is never read (R326). -/
def State.kvcheck (s : State) (n : Node) (o : Op) : State :=
  let c := n.copy
  match s.engineOpen o.id [(c.src, 128, .read)] with
  | (false, s1) => s1
  | (true, s1) =>
    let (h, s2) := s1.engineRead o.id c.src 128
    let fmt := kvFmt h
    let d := kvDim (kvCode h)
    if kvBad h || c.rowBytes ≠ kvSize fmt d then s2.acts n.ctx [.fail n.addr 0x07 0]
    else match s2.engineOpen o.id [(c.src, c.rowBytes, .read)] with
      | (false, s3) => s3
      | (true, s3) =>
        let good (b : List Byte) : Bool := kvFilled b = 0 || blk b 4 4 = kvCrc b fmt d (kvFilled b)
        let (b1, s4) := s3.engineRead o.id c.src c.rowBytes
        let (b2, s5) := if good b1 then (b1, s4) else s4.engineRead o.id c.src c.rowBytes
        if good b2 then s5.onNode n.ctx n.addr (fun n => { n with checked := true })
        else
          let pins := ((s5.op? o.id).map Op.pins).getD []
          (s5.poisonPinned pins (rangeBytes c.src c.rowBytes)).acts n.ctx [.fail n.addr 0x09 0]

/-- NODE_START (R252, R254): an engine takes the request of a READY node of kind COPY, SORT or ATTN, which becomes RUNNING; a
kvcheck COPY then checks its source (R338). A GRID starts with the placement of its first group. -/
def execNodeStart (ctx : Nat) (addr : VAddr) (s : State) : Host.Outcome State Fault Refusal :=
  .next (match s.node? ctx addr with
    | none => s
    | some n =>
      if n.state = .ready then
        if s.places && (s.ctx? ctx).any (fun c => c.state = 0 || c.state = 3) then
          match s.nodeEngine n with
          | none => s
          | some (core, kind) =>
            let (k, s1) := s.fresh
            let s2 := { s1 with ops := s1.ops ++ [s1.nodeOp n k core kind] }
            s2.startNode ctx addr (fun n => { n with checked := !(n.kind = 1 && n.option 2) })
        else s
      else if n.state = .running && n.kind = 1 && !n.checked then
        match s.commandOf n with
        | some o => if o.record.isSome then s else s.kvcheck n o
        | none => s
      else s)

/-! ## Staging (R256) -/

/-- Whether an operation in flight will write a page. -/
def Op.writesPage (o : Op) (page : Nat) : Bool :=
  let meets (a n : Nat) : Bool := n ≠ 0 && a / 65536 ≤ page && page ≤ (a + n - 1) / 65536
  match o.kind with
  | .store .g a n _ _ => meets a n
  | .atomic .g a _ _ _ _ => meets a 1
  | .copy c => (dirSpaces c.dir).1 == .g && (List.range c.rows).any (fun j => meets (c.dst + j * c.dstPitch) c.rowBytes)
  | .kvappend _ b _ _ _ => meets b.toNat 1
  | .sort _ _ out _ _ _ _ => out.any (fun x => x.1 / 65536 = page)
  | .matrix (.accst _ _ false wf a pitch _ _ _) => (rowAddrs a pitch (16 * tileBytes wf)).any (fun x => x / 65536 = page)
  | _ => false

/-- STAGE_PAGE (R199, R256): before the first write of a running node to a page of its regions, the walker stages the page. -/
def execStagePage (ctx : Nat) (addr page : VAddr) (s : State) : Host.Outcome State Fault Refusal :=
  .next (match s.ops.find? (fun o => o.ctx = ctx && o.node = addr && o.writesPage (page.toNat / 65536)),
      s.mustStage ctx addr (page.toNat / 65536) with
    | some o, some kind => (s.stageNow ctx addr (s.copyCore o) (page.toNat / 65536) kind).getD s
    | _, _ => s)

/-! ## The end of a node's work (R48, R254) -/

/-- The verify step of a COPY whose bytes are all written: the destination is read back through the leaves by which it was
written, and its CRC compared with that of the source bytes as read; the whole copy starts again after a mismatch, and the
third fails the node (R254). -/
def State.verifyCopy (s : State) (n : Node) (o : Op) (c : CopyCmd) : State :=
  let is := List.range c.bytes
  match s.engineOpen o.id (is.map (fun i => (c.dstAt i, 1, .read))) with
  | (false, s1) => s1
  | (true, s1) =>
    let pins := ((s1.op? o.id).map Op.wpins).getD []
    match s1.poisonAt pins (is.map c.dstAt) with
    | some va =>
      let (r, s2) := s1.postFault (s1.engineAgent o) (va % 2 ^ 52) 7 3 .read
      s2.onOp o.id (fun o => { o with record := r })
    | none =>
    let (bs, s2) := s1.readPinned pins (is.map c.dstAt)
    let crc := crc32c bs
    if crc = c.crc then
      ((s2.dropOp o.id).walkerWrite n.ctx (n.addr.toNat + 0x5C) (bytesOf 4 crc)).acts n.ctx [.complete n.addr]
    else if 3 ≤ n.attempts + 1 then s2.acts n.ctx [.fail n.addr 0x09 0]
    else (s2.onOp o.id (fun o => { o with stage := .issued, kind := .copy { c with moved := [] } })).onNode n.ctx n.addr (fun n => { n with attempts := n.attempts + 1 })

/-- Whether the work of a GRID has ended: every group placed and retired, every operation of its fibres performed, and every
released child terminal (R48, R254). -/
def State.gridOver (s : State) (n : Node) : Bool :=
  n.placed = n.launch.groups && n.retired = n.launch.groups && n.children = 0
    && !s.ops.any (fun o => o.ctx = n.ctx && o.node = n.addr)

/-- NODE_COMPLETE (R252, R254): a node whose work has ended becomes COMPLETE and decrements its successors. -/
def execNodeComplete (ctx : Nat) (addr : VAddr) (s : State) : Host.Outcome State Fault Refusal :=
  .next (match s.node? ctx addr with
    | none => s
    | some n =>
      if n.state ≠ .running then s
      else if n.kind = 0 then (if s.gridOver n then s.acts ctx [.complete addr] else s)
      else match s.commandOf n with
        | none => s
        | some o =>
          if o.stage ≠ .done || o.record.isSome then s
          else match o.kind with
            | .copy c => if c.verify then s.verifyCopy n o c else (s.dropOp o.id).acts ctx [.complete addr]
            | _ => (s.dropOp o.id).acts ctx [.complete addr])

/-! ## Commit (R255, R393) -/

/-- Whether a slot has passed a scan that began after a node's last work there, and is not overdue: a core, or 512 + die for
an engine slot. -/
def State.scannedAfter (s : State) (w : Work) : Bool :=
  match w.last with
  | none => false
  | some t =>
    if w.slot < 512 then decide (t < (s.core w.slot).passedAt) && !(s.core w.slot).overdue
    else decide (t < (s.scan (w.slot - 512)).engPassedAt) && !(s.scan (w.slot - 512)).engOverdue

/-- The commit condition (R255). -/
def State.commits (s : State) (n : Node) : Bool :=
  n.works.all s.scannedAfter
    && n.preds.all (fun p => match s.node? n.ctx p with
        | some q => q.state.terminal
        | none => true)

/-- NODE_COMMIT (R252, R255, R260): a COMPLETE node commits, its pre-images are freed, and its parent counts one child less. -/
def execNodeCommit (ctx : Nat) (addr : VAddr) (s : State) : Host.Outcome State Fault Refusal :=
  .next (match s.node? ctx addr with
    | none => s
    | some n =>
      if n.state = .complete && s.commits n then
        ((s.freePreimages ctx addr).setNode ctx addr (fun n => { n with state := .committed })).childDone ctx addr
      else s)

/-! ## Rollback and failure from outside the graph -/

/-- NODE_ROLLBACK (R252, R258, R396): a node that is RUNNING or COMPLETE is rolled back, or fails where it is not replayable. -/
def execNodeRollback (ctx : Nat) (addr : VAddr) (s : State) : Host.Outcome State Fault Refusal :=
  .next (s.acts ctx [.roll addr false false])

/-- The failure codes that are written (R253). -/
def writtenCode (c : Nat) : Bool := (1 ≤ c && c ≤ 0x0A) || (0x10 ≤ c && c ≤ 0x1A) || c = 0x1F || (0x20 ≤ c && c ≤ 0x24)

/-- NODE_FAIL (R252, R259): the runtime reports an unrecoverable error of a READY or RUNNING node. -/
def execNodeFail (ctx : Nat) (addr : VAddr) (code : BitVec 8) (s : State) : Host.Outcome State Fault Refusal :=
  .next (match s.node? ctx addr with
    | none => s
    | some n =>
      if (n.state = .ready || n.state = .running) && writtenCode code.toNat then s.acts ctx [.fail addr code.toNat 0] else s)

end Sys2Proof.Machine
end

