-- ==== Sys2Proof/Machine/Integer.lean ====
section
/-! DEFINITION. The integer and address instructions (R149 to R156) and their short forms (R97). -/

namespace Sys2Proof.Machine

open Sys2Proof

/-- IADD (R149). -/
def meanIadd (b : Src) (sat : Bool) : Meaning :=
  vec (fun l => out1 (iaddOf sat (l.s 0) (l.opt b 1)))

/-- IADD (R149). -/
def execIadd (g : Guard) (d a : Reg) (b : Src) (sat : Bool) (w : CcW) (s : State) : Host.Outcome State Fault Refusal :=
  s.issue (.iadd g d a b sat w) (meanIadd b sat)

/-- ISUB (R149). -/
def meanIsub (b : Src) (sat : Bool) : Meaning :=
  vec (fun l => out1 (isubOf sat (l.s 0) (l.opt b 1)))

/-- ISUB (R149). -/
def execIsub (g : Guard) (d a : Reg) (b : Src) (sat : Bool) (w : CcW) (s : State) : Host.Outcome State Fault Refusal :=
  s.issue (.isub g d a b sat w) (meanIsub b sat)

/-- IMUL (R150). -/
def meanImul (b : Src) : Meaning :=
  vec (fun l =>
    let r := l.s 0 * l.opt b 1
    let p := (l.s 0).toInt * (l.opt b 1).toInt
    out1 (r, ccWord r false (p < -2 ^ 31 || 2 ^ 31 - 1 < p)))

/-- IMUL (R150). -/
def execImul (g : Guard) (d a : Reg) (b : Src) (w : CcW) (s : State) : Host.Outcome State Fault Refusal :=
  s.issue (.imul g d a b w) (meanImul b)

/-- IMULH (R150). -/
def meanImulh (b : Src) (u : Bool) : Meaning :=
  vec (fun l =>
    let x := l.s 0
    let y := l.opt b 1
    let r : Word := if u then BitVec.ofNat 32 (x.toNat * y.toNat / 2 ^ 32) else BitVec.ofInt 32 (x.toInt * y.toInt / 2 ^ 32)
    out1 (r, ccWord r false false))

/-- IMULH (R150). -/
def execImulh (g : Guard) (d a : Reg) (b : Src) (u : Bool) (w : CcW) (s : State) : Host.Outcome State Fault Refusal :=
  s.issue (.imulh g d a b u w) (meanImulh b u)

/-- IMAD (R150). -/
def meanImad (b : Src) : Meaning :=
  vec (fun l =>
    let r := l.s 0 * l.opt b 1 + l.s (afterOpt b 1)
    out1 (r, ccWord r false false))

/-- IMAD (R150). -/
def execImad (g : Guard) (d a : Reg) (b : Src) (c : Reg) (w : CcW) (s : State) : Host.Outcome State Fault Refusal :=
  s.issue (.imad g d a b c w) (meanImad b)

/-- IADD64 (R150): the literal is sign-extended. -/
def meanIadd64 (b : Src) : Meaning :=
  vec (fun l =>
    let y : DWord := match b with
      | .reg _ => l.s64 2
      | .lit v => v.signExtend 64
    let r := iadd64Of (l.s64 0) y
    { dst := words64 r.1, cc := some r.2 })

/-- IADD64 (R150). -/
def execIadd64 (g : Guard) (d a : Reg) (b : Src) (w : CcW) (s : State) : Host.Outcome State Fault Refusal :=
  s.issue (.iadd64 g d a b w) (meanIadd64 b)

/-- IMAD64 (R150). -/
def meanImad64 (b : Src) (u : Bool) : Meaning :=
  vec (fun l =>
    let x := l.s 0
    let y := l.opt b 1
    let p : DWord := if u then x.setWidth 64 * y.setWidth 64 else x.signExtend 64 * y.signExtend 64
    let r := p + l.s64 (afterOpt b 1)
    { dst := words64 r, cc := some (ccDWord r false false) })

/-- IMAD64 (R150). -/
def execImad64 (g : Guard) (d a : Reg) (b : Src) (c : Reg) (u : Bool) (w : CcW) (s : State) : Host.Outcome State Fault Refusal :=
  s.issue (.imad64 g d a b c u w) (meanImad64 b u)

/-- The count of a shift: the immediate, or the second source (R151). -/
def LaneIn.count (l : LaneIn) (b : ShiftSrc) : Nat :=
  match b with
  | .imm n => n.toNat
  | .reg _ => (l.s 1).toNat

/-- ISHL (R151). -/
def meanIshl (b : ShiftSrc) : Meaning :=
  vec (fun l => out1 (ishlOf (l.s 0) (l.count b)))

/-- ISHL (R151). -/
def execIshl (g : Guard) (d a : Reg) (b : ShiftSrc) (w : CcW) (s : State) : Host.Outcome State Fault Refusal :=
  s.issue (.ishl g d a b w) (meanIshl b)

/-- ISHR (R151). -/
def meanIshr (b : ShiftSrc) : Meaning :=
  vec (fun l => out1 (ishrOf (l.s 0) (l.count b)))

/-- ISHR (R151). -/
def execIshr (g : Guard) (d a : Reg) (b : ShiftSrc) (w : CcW) (s : State) : Host.Outcome State Fault Refusal :=
  s.issue (.ishr g d a b w) (meanIshr b)

/-- ISHRA (R151). -/
def meanIshra (b : ShiftSrc) : Meaning :=
  vec (fun l => out1 (ishraOf (l.s 0) (l.count b)))

/-- ISHRA (R151). -/
def execIshra (g : Guard) (d a : Reg) (b : ShiftSrc) (w : CcW) (s : State) : Host.Outcome State Fault Refusal :=
  s.issue (.ishra g d a b w) (meanIshra b)

/-- A bitwise function of three words by its table (R152). -/
def bool3Of (table : BitVec 8) (a b c : Word) : Word :=
  BitVec.ofNat 32 ((List.range 32).foldl (fun r i =>
    let k := (a.getLsbD i).toNat + 2 * (b.getLsbD i).toNat + 4 * (c.getLsbD i).toNat
    r + (table.getLsbD k).toNat * 2 ^ i) 0)

/-- BOOL3 (R152). -/
def meanBool3 (b : Src) (table : BitVec 8) : Meaning :=
  vec (fun l => { dst := [bool3Of table (l.s 0) (l.opt b 1) (l.s (afterOpt b 1))] })

/-- BOOL3 (R152). -/
def execBool3 (g : Guard) (d a : Reg) (b : Src) (c : Reg) (table : BitVec 8) (s : State) : Host.Outcome State Fault Refusal :=
  s.issue (.bool3 g d a b c table) (meanBool3 b table)

/-- Whether a word lies below another, as INT32 or as uint32 (R153). -/
def belowWord (u : Bool) (a b : Word) : Bool := if u then a.toNat < b.toNat else a.toInt < b.toInt

/-- IMIN's result (R153). -/
def iminOf (u : Bool) (a b : Word) : Word := if belowWord u b a then b else a

/-- IMAX's result (R153). -/
def imaxOf (u : Bool) (a b : Word) : Word := if belowWord u a b then b else a

/-- IMIN (R153). -/
def meanImin (b : Src) (u : Bool) : Meaning :=
  vec (fun l =>
    let r := iminOf u (l.s 0) (l.opt b 1)
    out1 (r, ccWord r false false))

/-- IMIN (R153). -/
def execImin (g : Guard) (d a : Reg) (b : Src) (u : Bool) (w : CcW) (s : State) : Host.Outcome State Fault Refusal :=
  s.issue (.imin g d a b u w) (meanImin b u)

/-- IMAX (R153). -/
def meanImax (b : Src) (u : Bool) : Meaning :=
  vec (fun l =>
    let r := imaxOf u (l.s 0) (l.opt b 1)
    out1 (r, ccWord r false false))

/-- IMAX (R153). -/
def execImax (g : Guard) (d a : Reg) (b : Src) (u : Bool) (w : CcW) (s : State) : Host.Outcome State Fault Refusal :=
  s.issue (.imax g d a b u w) (meanImax b u)

/-- IABS (R153). -/
def meanIabs (sat : Bool) : Meaning :=
  vec (fun l =>
    let x := l.s 0
    let low : Bool := x = 0x80000000#32
    let r := if low then (if sat then 0x7FFFFFFF#32 else x) else if x.msb then -x else x
    out1 (r, ccWord r false low))

/-- IABS (R153). -/
def execIabs (g : Guard) (d a : Reg) (sat : Bool) (w : CcW) (s : State) : Host.Outcome State Fault Refusal :=
  s.issue (.iabs g d a sat w) (meanIabs sat)

/-- The number of 1 bits (R153). -/
def popcOf (x : Word) : Nat := ((List.range 32).filter (fun i => x.getLsbD i)).length

/-- The number of leading 0 bits (R153). -/
def clzOf (x : Word) : Nat := 32 - bitLen x.toNat

/-- POPC (R153). -/
def meanPopc : Meaning :=
  vec (fun l =>
    let r : Word := BitVec.ofNat 32 (popcOf (l.s 0))
    out1 (r, ccWord r false false))

/-- POPC (R153). -/
def execPopc (g : Guard) (d a : Reg) (w : CcW) (s : State) : Host.Outcome State Fault Refusal :=
  s.issue (.popc g d a w) meanPopc

/-- CLZ (R153). -/
def meanClz : Meaning :=
  vec (fun l =>
    let r : Word := BitVec.ofNat 32 (clzOf (l.s 0))
    out1 (r, ccWord r false false))

/-- CLZ (R153). -/
def execClz (g : Guard) (d a : Reg) (w : CcW) (s : State) : Host.Outcome State Fault Refusal :=
  s.issue (.clz g d a w) meanClz

/-- BFE's result (R154). -/
def bfeOf (sx : Bool) (a ctl : Word) : Word :=
  let pos := ctl.toNat % 256
  let len := ctl.toNat / 256 % 256
  let hi := min (pos + len) 32
  if 32 ≤ pos || len = 0 then 0
  else
    let w := hi - pos
    let r := a.toNat / 2 ^ pos % 2 ^ w
    if sx && r / 2 ^ (w - 1) % 2 = 1 then BitVec.ofNat 32 (r + 2 ^ 32 - 2 ^ w) else BitVec.ofNat 32 r

/-- BFI's result (R154). -/
def bfiOf (a b ctl : Word) : Word :=
  let pos := ctl.toNat % 256
  let len := ctl.toNat / 256 % 256
  let hi := min (pos + len) 32
  if 32 ≤ pos || len = 0 then b
  else
    let w := hi - pos
    BitVec.ofNat 32 (b.toNat - b.toNat / 2 ^ pos % 2 ^ w * 2 ^ pos + a.toNat % 2 ^ w * 2 ^ pos)

/-- BFE (R154). -/
def meanBfe (sx : Bool) : Meaning :=
  vec (fun l =>
    let r := bfeOf sx (l.s 0) (l.s 1)
    out1 (r, ccWord r false false))

/-- BFE (R154). -/
def execBfe (g : Guard) (d a b : Reg) (sx : Bool) (w : CcW) (s : State) : Host.Outcome State Fault Refusal :=
  s.issue (.bfe g d a b sx w) (meanBfe sx)

/-- BFI (R154). -/
def meanBfi : Meaning :=
  vec (fun l =>
    let r := bfiOf (l.s 0) (l.s 1) (l.s 2)
    out1 (r, ccWord r false false))

/-- BFI (R154). -/
def execBfi (g : Guard) (d a b c : Reg) (w : CcW) (s : State) : Host.Outcome State Fault Refusal :=
  s.issue (.bfi g d a b c w) meanBfi

/-- ICMP (R155). -/
def meanIcmp (b : Src) (cond : Cond) : Meaning :=
  vec (fun l =>
    let c := icmpFlags (l.s 0) (l.opt b 1)
    out1 (truth (condHolds cond c), c))

/-- ICMP (R155). -/
def execIcmp (g : Guard) (d a : Reg) (b : Src) (cond : Cond) (w : CcW) (s : State) : Host.Outcome State Fault Refusal :=
  s.issue (.icmp g d a b cond w) (meanIcmp b cond)

/-- ISEL (R155). -/
def meanIsel (b : Src) (cond : Cond) (cn : Fin 4) : Meaning :=
  vec (fun l => { dst := [if condHolds cond (l.f.cc cn) then l.s 0 else l.opt b 1] })

/-- ISEL (R155). -/
def execIsel (g : Guard) (d a : Reg) (b : Src) (cond : Cond) (cn : Fin 4) (s : State) : Host.Outcome State Fault Refusal :=
  s.issue (.isel g d a b cond cn) (meanIsel b cond cn)

/-- MOV (R156). -/
def meanMov : Meaning :=
  vec (fun l => { dst := l.src })

/-- MOV (R156). -/
def execMov (g : Guard) (d a : Reg) (w64 : Bool) (s : State) : Host.Outcome State Fault Refusal :=
  s.issue (.mov g d a w64) meanMov

/-- MOVI (R156). -/
def meanMovi (imm : MovImm) : Meaning :=
  vec (fun _ => { dst := [match imm with
    | .short i => i.signExtend 32
    | .long v => v] })

/-- MOVI (R156). -/
def execMovi (g : Guard) (d : Reg) (imm : MovImm) (s : State) : Host.Outcome State Fault Refusal :=
  s.issue (.movi g d imm) (meanMovi imm)

/-- The short MOV (R97, R156). -/
def meanMovShort : Meaning :=
  vec (fun l => { dst := l.src })

/-- The short MOV (R97, R156). -/
def execMovShort (d a : Reg) (s : State) : Host.Outcome State Fault Refusal :=
  s.issue (.movShort d a) meanMovShort

/-- The short MOVI (R97, R156). -/
def meanMoviShort (imm : BitVec 14) : Meaning :=
  vec (fun _ => { dst := [imm.signExtend 32] })

/-- The short MOVI (R97, R156). -/
def execMoviShort (d : Reg) (imm : BitVec 14) (s : State) : Host.Outcome State Fault Refusal :=
  s.issue (.moviShort d imm) (meanMoviShort imm)

/-- The short IADD (R97, R149). -/
def meanIaddShort : Meaning :=
  vec (fun l => { dst := [(iaddOf false (l.s 1) (l.s 0)).1] })

/-- The short IADD (R97, R149). -/
def execIaddShort (d a : Reg) (s : State) : Host.Outcome State Fault Refusal :=
  s.issue (.iaddShort d a) meanIaddShort

/-- The short ISUB (R97, R149). -/
def meanIsubShort : Meaning :=
  vec (fun l => { dst := [(isubOf false (l.s 1) (l.s 0)).1] })

/-- The short ISUB (R97, R149). -/
def execIsubShort (d a : Reg) (s : State) : Host.Outcome State Fault Refusal :=
  s.issue (.isubShort d a) meanIsubShort

/-- The short IADD with an immediate (R97, R149). -/
def meanIaddImmShort (i : BitVec 4) : Meaning :=
  vec (fun l => { dst := [(iaddOf false (l.s 0) (i.setWidth 32)).1] })

/-- The short IADD with an immediate (R97, R149). -/
def execIaddImmShort (d a : Reg) (i : BitVec 4) (s : State) : Host.Outcome State Fault Refusal :=
  s.issue (.iaddImmShort d a i) (meanIaddImmShort i)

/-- The short ISUB with an immediate (R97, R149). -/
def meanIsubImmShort (i : BitVec 4) : Meaning :=
  vec (fun l => { dst := [(isubOf false (l.s 0) (i.setWidth 32)).1] })

/-- The short ISUB with an immediate (R97, R149). -/
def execIsubImmShort (d a : Reg) (i : BitVec 4) (s : State) : Host.Outcome State Fault Refusal :=
  s.issue (.isubImmShort d a i) (meanIsubImmShort i)

/-- The short ISHL by 0 to 15 (R97, R151). -/
def meanIshlImmShort (i : BitVec 4) : Meaning :=
  vec (fun l => { dst := [(ishlOf (l.s 0) i.toNat).1] })

/-- The short ISHL by 0 to 15 (R97, R151). -/
def execIshlImmShort (d a : Reg) (i : BitVec 4) (s : State) : Host.Outcome State Fault Refusal :=
  s.issue (.ishlImmShort d a i) (meanIshlImmShort i)

/-- The short ISHR by 0 to 15 (R97, R151). -/
def meanIshrImmShort (i : BitVec 4) : Meaning :=
  vec (fun l => { dst := [(ishrOf (l.s 0) i.toNat).1] })

/-- The short ISHR by 0 to 15 (R97, R151). -/
def execIshrImmShort (d a : Reg) (i : BitVec 4) (s : State) : Host.Outcome State Fault Refusal :=
  s.issue (.ishrImmShort d a i) (meanIshrImmShort i)

/-- The short ISHRA by 0 to 15 (R97, R151). -/
def meanIshraImmShort (i : BitVec 4) : Meaning :=
  vec (fun l => { dst := [(ishraOf (l.s 0) i.toNat).1] })

/-- The short ISHRA by 0 to 15 (R97, R151). -/
def execIshraImmShort (d a : Reg) (i : BitVec 4) (s : State) : Host.Outcome State Fault Refusal :=
  s.issue (.ishraImmShort d a i) (meanIshraImmShort i)

/-- The short ISHL by 16 to 31 (R97, R151). -/
def meanIshlImm16Short (i : BitVec 4) : Meaning :=
  vec (fun l => { dst := [(ishlOf (l.s 0) (i.toNat + 16)).1] })

/-- The short ISHL by 16 to 31 (R97, R151). -/
def execIshlImm16Short (d a : Reg) (i : BitVec 4) (s : State) : Host.Outcome State Fault Refusal :=
  s.issue (.ishlImm16Short d a i) (meanIshlImm16Short i)

/-- The short ISHR by 16 to 31 (R97, R151). -/
def meanIshrImm16Short (i : BitVec 4) : Meaning :=
  vec (fun l => { dst := [(ishrOf (l.s 0) (i.toNat + 16)).1] })

/-- The short ISHR by 16 to 31 (R97, R151). -/
def execIshrImm16Short (d a : Reg) (i : BitVec 4) (s : State) : Host.Outcome State Fault Refusal :=
  s.issue (.ishrImm16Short d a i) (meanIshrImm16Short i)

/-- The short ISHRA by 16 to 31 (R97, R151). -/
def meanIshraImm16Short (i : BitVec 4) : Meaning :=
  vec (fun l => { dst := [(ishraOf (l.s 0) (i.toNat + 16)).1] })

/-- The short ISHRA by 16 to 31 (R97, R151). -/
def execIshraImm16Short (d a : Reg) (i : BitVec 4) (s : State) : Host.Outcome State Fault Refusal :=
  s.issue (.ishraImm16Short d a i) (meanIshraImm16Short i)

/-- The short IMUL (R97, R150). -/
def meanImulShort : Meaning :=
  vec (fun l => { dst := [l.s 1 * l.s 0] })

/-- The short IMUL (R97, R150). -/
def execImulShort (d a : Reg) (s : State) : Host.Outcome State Fault Refusal :=
  s.issue (.imulShort d a) meanImulShort

/-- The short AND (R97, R152). -/
def meanAndShort : Meaning :=
  vec (fun l => { dst := [l.s 1 &&& l.s 0] })

/-- The short AND (R97, R152). -/
def execAndShort (d a : Reg) (s : State) : Host.Outcome State Fault Refusal :=
  s.issue (.andShort d a) meanAndShort

/-- The short OR (R97, R152). -/
def meanOrShort : Meaning :=
  vec (fun l => { dst := [l.s 1 ||| l.s 0] })

/-- The short OR (R97, R152). -/
def execOrShort (d a : Reg) (s : State) : Host.Outcome State Fault Refusal :=
  s.issue (.orShort d a) meanOrShort

/-- The short XOR (R97, R152). -/
def meanXorShort : Meaning :=
  vec (fun l => { dst := [l.s 1 ^^^ l.s 0] })

/-- The short XOR (R97, R152). -/
def execXorShort (d a : Reg) (s : State) : Host.Outcome State Fault Refusal :=
  s.issue (.xorShort d a) meanXorShort

/-- The short NOT (R97, R152). -/
def meanNotShort : Meaning :=
  vec (fun l => { dst := [~~~(l.s 0)] })

/-- The short NOT (R97, R152). -/
def execNotShort (d a : Reg) (s : State) : Host.Outcome State Fault Refusal :=
  s.issue (.notShort d a) meanNotShort

/-- The short IMIN (R97, R153). -/
def meanIminShort : Meaning :=
  vec (fun l => { dst := [iminOf false (l.s 1) (l.s 0)] })

/-- The short IMIN (R97, R153). -/
def execIminShort (d a : Reg) (s : State) : Host.Outcome State Fault Refusal :=
  s.issue (.iminShort d a) meanIminShort

/-- The short IMAX (R97, R153). -/
def meanImaxShort : Meaning :=
  vec (fun l => { dst := [imaxOf false (l.s 1) (l.s 0)] })

/-- The short IMAX (R97, R153). -/
def execImaxShort (d a : Reg) (s : State) : Host.Outcome State Fault Refusal :=
  s.issue (.imaxShort d a) meanImaxShort

end Sys2Proof.Machine
end

