-- ==== Sys2Proof/Machine/Preempt.lean ====
section
/-! DEFINITION. Pre-emption: the control block's requests PREEMPT_REQUEST, RESUME_REQUEST and KILL_REQUEST (R369, R374, R418),
GROUP_EVICT with the saved group record (R370 to R372, R391), and GROUP_RESTORE (R373, R376). -/

namespace Sys2Proof.Machine

open Sys2Proof

/-! ## The control block (R369) -/

/-- A word of a context's control block written by the part. -/
def State.control (s : State) (cn off v : Nat) : State :=
  match s.ctx? cn with
  | none => s
  | some c => s.walkerWrite cn (c.nodeBase + off) (bytesOf 4 v)

/-- A context's state changed, with its word. -/
def State.setCtxState (s : State) (cn st : Nat) : State := (s.onCtx cn (fun c => { c with state := st })).control cn 4 st

/-- PREEMPT_REQUEST (R370, R418): from running, the counts start anew and the save area is used from its start; from
restoring, what is saved stays. -/
def execPreemptRequest (ctx : Nat) (s : State) : Host.Outcome State Fault Refusal :=
  .next (match s.ctx? ctx with
    | none => s
    | some c =>
      let s0 := { s with groups := s.groups.map (fun (g : Group) => if g.ctx = ctx then { g with noRoom := false } else g) }
      if c.state = 0 then
        let s1 := s0.onCtx ctx (fun c => { c with evicted := 0, restored := 0, saveUsed := 0 })
        ((s1.control ctx 0x18 0).control ctx 0x1C 0).setCtxState ctx 1
      else if c.state = 3 then s0.setCtxState ctx 1
      else s)

/-- RESUME_REQUEST (R373, R418). -/
def execResumeRequest (ctx : Nat) (s : State) : Host.Outcome State Fault Refusal :=
  .next (match s.ctx? ctx with
    | none => s
    | some c => if c.state = 1 || c.state = 2 then s.setCtxState ctx 3 else s)

/-- Everything of a context ended: its nodes killed, its saved records and fault records gone, its channels closed (R321,
R374, R380). -/
def State.killCtx (s : State) (cn : Nat) : State :=
  let ns := (s.nodes.filter (fun n => n.ctx = cn && !n.state.terminal)).map (fun (n : Node) => Act.kill n.addr)
  let s1 := s.acts cn ns
  let s2 := { s1 with saved := s1.saved.filter (fun v => v.ctx ≠ cn), faults := s1.faults.filter (fun r => r.ctx ≠ cn) }
  (s2.wadi.filter (fun c => c.ctx = cn)).foldl (fun s c => s.wadiFree c) s2

/-- KILL_REQUEST (R374, R418). -/
def execKillRequest (ctx : Nat) (s : State) : Host.Outcome State Fault Refusal :=
  .next (match s.ctx? ctx with
    | none => s
    | some c => if c.state = 4 then s else (s.killCtx ctx).setCtxState ctx 4)

/-- A context's state brought on once nothing more is to be evicted, or restored (R370, R373). -/
def State.settleCtx (s : State) (c : Ctx) : State :=
  if c.state = 1 && !s.groups.any (fun g => g.ctx = c.num) then s.setCtxState c.num 2
  else if c.state = 3 && !s.saved.any (fun v => v.ctx = c.num) then s.setCtxState c.num 0
  else s

/-- The states of all contexts brought on. -/
def State.settleCtxs (s : State) : State := s.ctxs.foldl (fun s c => s.settleCtx c) s

/-! ## When a group may be evicted (R370) -/

/-- Whether a wait is at a blocking point (R371). -/
def Wait.blocking : Wait → Bool
  | .regroup _ | .sign .. | .stalled .. => false
  | _ => true

/-- Whether every live fibre of a group is parked at a blocking point with no warp in handler mode, and every operation with
memory or engine effects has completed (R370). -/
def State.evictable (s : State) (g : Group) : Bool :=
  (s.warps.filter (fun w => w.gid = g.gid)).all (fun w =>
      w.handler.isNone && w.active.isNone && w.replayTrap.isNone
        && w.fibres.all (fun f => f.park.any (fun p => p.wait.blocking) && !s.serviceParked w f))
    && s.ops.all (fun o => o.gid ≠ g.gid || o.registersOnly)

/-- Why a group is evicted now: its context's pre-emption, or the drain of a core of it (R370, R391). -/
def State.mustLeave (s : State) (g : Group) : Bool :=
  (s.ctx? g.ctx).any (fun c => c.state = 1) || g.shares.any (fun h => (s.core h.core).draining)

/-! ## The saved group record (R371, R372) -/

/-- A wake condition (R371): 16 bytes. -/
def Wait.saved (time : Nat) : Wait → List Byte
  | .barrier b _ => bytesOf 16 (1 + 16 * b)
  | .rejoin j => bytesOf 16 (2 + 16 * j)
  | .word cmp sp sc v a _ => bytesOf 4 (3 + 2 ^ 8 * cmp.code + 2 ^ 11 * sp.code + 2 ^ 13 * sc.code) ++ bytesOf 4 v.toNat ++ bytesOf 8 a
  | .node prov a _ => bytesOf 8 (4 + 2 ^ 24 * prov.toNat) ++ bytesOf 8 a.toNat
  | .wadi ch r _ => bytesOf 4 (5 + 2 ^ 16 * ch) ++ bytesOf 4 r.toNat ++ bytesOf 8 0
  | .corr ch r t _ => bytesOf 4 (6 + 2 ^ 16 * ch) ++ bytesOf 4 r.toNat ++ bytesOf 8 ((t - time) / (10 * Config.ns))
  | .yielding => bytesOf 16 7
  | .regroup _ | .sign .. | .stalled .. => bytesOf 16 0

/-- `n` bytes of a list, with zeros after its end. -/
def padTo (n : Nat) (bs : List Byte) : List Byte := (bs ++ List.replicate (n - bs.length) 0).take n

/-- A fibre as its lane record shows it: a parked one resumes at its blocking instruction, one at YIELD after it (R361, R371). -/
def Fibre.resting (f : Fibre) : Fibre :=
  match f.park with
  | some { wait := .yielding, at_ := _ } => f
  | some p => { f with pos := p.at_ }
  | none => f

/-- A warp's frame image: the frame of R359 with cause 0 and no saved registers. -/
def Warp.image (w : Warp) (preempt : Bool) : List Byte :=
  let t : TrapInfo := { cause := { cls := 0 }, mask := [] }
  let q := offsetsFrom 0x2D00 w.queue
  t.header q ((w.queue.map Entry.frameLen).sum) preempt
    ++ (List.range 32).flatMap (fun l => match w.fibre? l with
        | some f => f.resting.record false false
        | none => List.replicate 32 0)
    ++ List.replicate 0x800 0
    ++ (List.range 32).flatMap (fun l => padTo 256 (((w.fibre? l).map (fun f => f.links.reverse.flatMap Link.frameBytes)).getD []))
    ++ padTo 0x21300 (w.queue.flatMap Entry.frameBytes)

/-- A warp's section of a record; the layout of its control area is the firmware's. -/
def Warp.section_ (w : Warp) (g : Group) (id time : Nat) (preempt : Bool) : List Byte :=
  (List.range 0x100).map (fun i => Config.groupStateByte id (0x100000 * (w.idx + 1) + i))
    ++ w.image preempt
    ++ (List.range 32).flatMap (fun l => match (w.fibre? l).bind Fibre.park with
        | some p => p.wait.saved time
        | none => List.replicate 16 0)
    ++ (List.range g.a).flatMap (fun p => (List.range 32).flatMap (fun l =>
        bytesOf 4 (((w.fibre? l).map (fun (f : Fibre) => f.at p)).getD 0).toNat))

/-- Bytes that a record takes (R372). -/
def recordLen (g : Group) : Nat :=
  0x40 + 0x2000 + 4 * (g.convs.map (fun c => c.2.sigs.length)).sum + g.warps * (0x24300 + 128 * g.a) + g.scratch
    + 1024 * (g.shares.map (fun h => h.tiles.length)).sum

/-- The header of a record with a check word (R372). -/
def recordHeader (g : Group) (check : Nat) : List Byte :=
  bytesOf 8 g.node.toNat ++ bytesOf 4 g.index ++ bytesOf 4 (g.warps + 256 * g.shares.length)
    ++ bytesOf 4 (g.a + 2 ^ 10 * g.f + 2 ^ 16 * g.resid) ++ bytesOf 4 g.scratch
    ++ bytesOf 4 ((g.shares.head?.map (fun h => h.tiles.length)).getD 0) ++ bytesOf 4 g.forkCtr ++ bytesOf 8 (recordLen g)
    ++ bytesOf 4 check ++ bytesOf 4 Config.layoutTag.toNat ++ bytesOf 16 0

/-- A saved group record: its sections, with the check word over all of them (R372). -/
def groupRecord (g : Group) (ws : List Warp) (scratch tiles : List Byte) (id time : Nat) (preempt : Bool) : List Byte :=
  let body := (List.range (0x2000 + 4 * (g.convs.map (fun c => c.2.sigs.length)).sum)).map (Config.groupStateByte id)
    ++ ws.flatMap (fun w => w.section_ g id time preempt) ++ scratch ++ tiles
  recordHeader g (crc32c (recordHeader g 0 ++ body)) ++ body

/-- Bytes as a sparse table from 0. -/
def bytesFrom (bs : List Byte) : Memory :=
  ((List.range bs.length).zip bs).filter (fun x => x.2 ≠ unlistedByte)

/-- The first `n` bytes of a sparse table. -/
def bytesTo (m : Memory) (n : Nat) : List Byte := (List.range n).map (sget unlistedByte m)

/-- The tiles of every core of a group, in tile order. -/
def State.tilesOf (s : State) (g : Group) : List Byte × State :=
  g.shares.foldl (fun (acc : List Byte × State) h => h.tiles.foldl (fun (acc : List Byte × State) t =>
    let (bs, s1) := acc.2.readBytes g.ctx (tileBase h.core t) 1024
    (acc.1 ++ bs, s1)) acc) ([], s)

/-! ## GROUP_EVICT -/

/-- A warp with its clocks as lengths: `%cyc`, the phase, and what is left of each WCORR. -/
def Warp.freeze (w : Warp) (clock time : Nat) : Warp :=
  { w with cycOff := (clock + w.cycOff) % 2 ^ 64, phFrom := clock - w.phFrom, holder := none, last := none,
           fibres := w.fibres.map (fun f => match f.park with
             | some { wait := .corr ch r t d, at_ := p } => { f with park := some { wait := .corr ch r (t - time) d, at_ := p } }
             | _ => f) }

/-- The end of the records in a die's scan save area. -/
def State.scanSaveUsed (s : State) (die : Nat) : Nat :=
  ((s.saved.filter (fun v => v.at_.isNone && v.die = die)).map (fun v => v.addr + v.len - (s.scan die).saveBase)).foldl max 0

/-- Where a group's record goes: in the context's save area, by virtual address, while the context is evicting or evicted;
else in the die's scan save area, by physical address; none where it does not fit (R370, R391). -/
def State.saveAt (s : State) (c : Ctx) (die len : Nat) : Option (Option Nat × Nat) :=
  if c.state = 1 || c.state = 2 then
    let (area, s1) := s.walkerNat c.num (c.nodeBase + 8) 8
    let (size, _) := s1.walkerNat c.num (c.nodeBase + 0x10) 8
    let va := area % 2 ^ 52 + c.saveUsed
    let ok := (pieces va len).all (fun p => match s.walk c p.1 with
      | .leaf e _ _ => pteW e
      | .stop .. => false)
    if c.saveUsed + len ≤ size && ok then some (some va, 0) else none
  else
    let used := s.scanSaveUsed die
    if used + len ≤ 2 ^ 24 then some (none, (s.scan die).saveBase + used) else none

/-- A group's record written and its resources freed (R370, R372). -/
def State.evict (s : State) (g : Group) (c : Ctx) (at_ : Option Nat) (addr : Nat) : State :=
  let (id, s0) := s.fresh
  let s1 := (s0.warps.filter (fun w => w.gid = g.gid)).foldl (fun (s : State) w => s.captureQueue w) s0
  let ws := inOrder (s1.warps.filter (fun w => w.gid = g.gid))
  let (scratch, s2) := s1.readScratch g 0 g.scratch
  let (tiles, s3) := s2.tilesOf g
  let rec_ := groupRecord g ws scratch tiles id s.time (c.state = 1)
  let s4 := match at_ with
    | some va => s3.walkerWrite g.ctx va rec_
    | none => s3.writeBytes 0 addr rec_
  let v : SavedGroup :=
    { ctx := g.ctx, at_ := at_, die := dieOf ((g.shares.head?.map Share.core).getD 0), addr := addr, len := rec_.length, group := g,
      warps := ws.map (fun w => w.freeze s.clock s.time), scratch := bytesFrom scratch, tiles := bytesFrom tiles,
      drained := if at_.isSome then none else (g.shares.find? (fun h => (s.core h.core).draining)).map Share.core }
  let s5 := { s4 with
    groups := s4.groups.filter (fun x => x.gid ≠ g.gid)
    warps := s4.warps.filter (fun w => w.gid ≠ g.gid)
    ops := s4.ops.filter (fun o => o.gid ≠ g.gid)
    saved := s4.saved ++ [v] }
  let s6 := s5.retryPlacement (g.shares.map Share.core)
  match at_ with
  | none => s6
  | some _ =>
    (s6.onCtx g.ctx (fun c => { c with evicted := c.evicted + 1, saveUsed := c.saveUsed + rec_.length })).control g.ctx 0x18
      (c.evicted + 1)

/-- GROUP_EVICT (R370, R372, R391): a group at its blocking points is saved and leaves its cores; one whose record does not
fit stays, with a log record. -/
def execGroupEvict (gid : Nat) (s : State) : Host.Outcome State Fault Refusal :=
  .next (match s.group? gid with
    | none => s
    | some g =>
      match s.ctx? g.ctx with
      | none => s
      | some c =>
        if !s.mustLeave g || !s.evictable g || g.noRoom then s
        else
          let die := dieOf ((g.shares.head?.map Share.core).getD 0)
          match s.saveAt c die (recordLen g) with
          | some (at_, addr) => s.evict g c at_ addr
          | none =>
            let (area, s1) := if c.state = 1 || c.state = 2 then s.walkerNat c.num (c.nodeBase + 8) 8
              else ((s.scan die).saveBase, s)
            (s1.onGroup gid (fun g => { g with noRoom := true })).log
              { type := 0x13, severity := 1, source := die, ctx := some g.ctx, node := g.node.toNat, addr := area,
                detail := [g.index, recordLen g] })

/-! ## GROUP_RESTORE (R373, R376) -/

/-- What a saved group asks of a core for the share of index `i`. -/
def SavedGroup.demand (v : SavedGroup) (i : Nat) : Demand :=
  let c := v.group.shares.length
  { warps := (List.range v.group.warps).filter (fun w => w % c = i), a := v.group.a, scratch := v.group.scratch / c,
    tiles := (v.group.shares.head?.map (fun h => h.tiles.length)).getD 0, resid := v.group.resid }

/-- Whether a core that serves no one could hold a share (R373). -/
def State.couldHold (s : State) (core : Nat) (d : Demand) : Bool :=
  let k := s.core core
  let room := ((List.range 4).map (fun q =>
    if k.fusedQuads.contains q then 0 else min 12 (s.sliceSize core q / (32 * d.a)))).sum
  k.present && k.inService && d.warps.length ≤ room && d.scratch ≤ 1024 * k.scratchKiB && d.tiles ≤ k.tiles
    && d.warps.length * d.resid ≤ 320

/-- Whether the cores of some die in a node's mask could hold a saved group (R373). -/
def State.couldPlace (s : State) (n : Node) (v : SavedGroup) : Bool :=
  (List.range 8).any (fun die => v.group.shares.length ≤
    (((List.range 64).map (fun i => 64 * die + i)).filter (fun c => n.masks c && s.couldHold c (v.demand 0))).length)

/-- How the reading of a saved record ends: it waits for a fault record, it fails its node with a code, or it is whole. -/
inductive RecordRead where
  | waits | fails (code : Nat) | whole
  deriving DecidableEq, Repr

/-- Whether a record's check word and layout tag are right (R372). -/
def recordOk (bs : List Byte) : Bool :=
  blk bs 0x28 4 = crc32c (bs.take 0x28 ++ List.replicate 4 0 ++ bs.drop 0x2C) && blk bs 0x2C 4 = Config.layoutTag.toNat

/-- A fault on a page of a saved record, for which its restore waits (R373). -/
def State.restoreFault (s : State) (v : SavedGroup) (ag : Agent) (va cause level : Nat) : State :=
  let (r, s1) := s.postFault ag va cause level .read
  { s1 with saved := s1.saved.map (fun x => if x.group.gid = v.group.gid then { x with record := r } else x) }

/-- A saved record read as an engine reads memory, and checked (R373). -/
def State.readRecordOf (s : State) (v : SavedGroup) : RecordRead × State :=
  match v.at_ with
  | none =>
    if s.poisoned v.addr v.len then (.fails 0x0A, s)
    else
      let (bs, s1) := s.readBytes 0 v.addr v.len
      (if recordOk bs then .whole else .fails 0x10, s1)
  | some va =>
    let ag : Agent := { ctx := v.ctx, node := v.group.node, core := 64 * v.die, places := [.die v.die], place := 64 * v.die,
                        engine := true, deferred := false }
    match s.pinAll ag .read false ((pieces va v.len).map Prod.fst) with
    | (.error (a, c, l), s1) => (.waits, s1.restoreFault v ag a c l)
    | (.ok pins, s1) =>
      match s1.poisonAt pins (rangeBytes va v.len) with
      | some a => (.waits, s1.restoreFault v ag (a % 2 ^ 52) 7 3)
      | none =>
        let (bs, s2) := s1.readPinned pins (rangeBytes va v.len)
        (if recordOk bs then .whole else .fails 0x10, s2)

/-- A fibre as it goes on after a restore: WAITW reads at once, WCORR has its remaining budget, and a fibre at YIELD goes on
(R371). -/
def Fibre.thaw (f : Fibre) (clock time : Nat) : Fibre :=
  let park := match f.park with
    | some { wait := .word c sp sc v a _, at_ := p } => some { wait := .word c sp sc v a 0, at_ := p }
    | some { wait := .corr ch r t d, at_ := p } => some { wait := .corr ch r (time + t) d, at_ := p }
    | some { wait := .yielding, at_ := _ } => none
    | p => p
  { f with park := park, waitFrom := clock, wasReady := false }

/-- A warp restored in a seat, with its lanes, table and `.k` area (R373). -/
def Warp.thaw (w : Warp) (seat : Seat) (age clock time : Nat) : Warp :=
  { w with wid := seat.wid, run := seat.run, age := age, cycOff := (w.cycOff + (2 ^ 64 - clock % 2 ^ 64)) % 2 ^ 64,
           phFrom := clock - w.phFrom, passed := 0, prio := false, fibres := w.fibres.map (fun f => f.thaw clock time) }

/-- The slot that a warp of a saved group takes now. -/
def SavedGroup.newWid (v : SavedGroup) (seats : List Seat) (wid : Nat) : Nat :=
  match v.warps.find? (fun w => w.wid = wid) with
  | some w => ((seats.find? (fun t => t.idx = w.idx)).map Seat.wid).getD wid
  | none => wid

/-- The core that a share of a saved group stands on now. -/
def newCore (old new : List Share) (core : Nat) : Nat :=
  match old.findIdx? (fun h => h.core = core) with
  | some i => ((new[i]?).map Share.core).getD core
  | none => core

/-- A group restored on new shares: its signatures, armings and open operands name the new slots and cores. -/
def SavedGroup.moved (v : SavedGroup) (shares : List Share) (seats : List Seat) : Group :=
  let at_ := v.newWid seats
  let core := newCore v.group.shares shares
  { v.group with
    shares := shares
    regroups := []
    convs := v.group.convs.map (fun c => (c.1, { c.2 with
      sigs := c.2.sigs.map (fun q => { q with wid := at_ q.wid })
      arming := c.2.arming.map (fun a => { a with by_ := a.by_.map (fun b => (at_ b.1, b.2)) }) }))
    uses := v.group.uses.map (fun u => { u with wid := at_ u.wid, core := core u.core }) }

/-- The tiles of a group written back in tile order. -/
def State.putTiles (s : State) (ctx : Nat) : List (Nat × Nat) → List Byte → State
  | [], _ => s
  | (core, t) :: ts, bs => (s.writeBytes ctx (tileBase core t) (bs.take 1024)).putTiles ctx ts (bs.drop 1024)

/-- The fibres of a restored group that wait on a status, a record or a correction look again (R371). -/
def State.lookAgain (s : State) (gid : Nat) : State :=
  (s.warps.filter (fun w => w.gid = gid)).foldl (fun s w => w.fibres.foldl (fun s f =>
    match f.park.map Park.wait, s.group? gid with
    | some (.node prov a dst), some g =>
      if nwaitEnds prov (((s.node? g.ctx a).map Node.state).getD .waiting) then
        (s.wakeFibre w f dst (((s.node? g.ctx a).map Node.status).getD 0)).dropL1 (coreOf w.wid)
      else s
    | _, _ => s.wadiTry w f) s) s

/-- A saved group placed again (R373); none while no cores can hold it. Its new cores' L1 lines are dropped, so that no line
older than its fibres' own accesses is left there (R233). -/
def State.restoreOn (s : State) (n : Node) (v : SavedGroup) : Option State :=
  match s.chooseCores n.masks (v.demand 0) v.group.shares.length with
  | none => none
  | some cores =>
    match s.takeShares v.demand ((List.range cores.length).zip cores) with
    | none => none
    | some (shares, seats, s1) =>
      let (age, s2) := s1.fresh
      let g := v.moved shares seats
      let ws := v.warps.filterMap (fun w => (seats.find? (fun t => t.idx = w.idx)).map (fun t => w.thaw t age s.clock s.time))
      let s3 := cores.foldl State.dropL1 { s2 with groups := s2.groups ++ [g], warps := s2.warps ++ ws,
                                                   saved := s2.saved.filter (fun x => x.group.gid ≠ g.gid) }
      let s4 := s3.writeScratch g 0 (bytesTo v.scratch g.scratch)
      let tiles := shares.flatMap (fun h => h.tiles.map (fun t => (h.core, t)))
      let s5 := (s4.putTiles g.ctx tiles (bytesTo v.tiles (1024 * tiles.length))).lookAgain g.gid
      match v.at_, s5.ctx? g.ctx with
      | some _, some c =>
        some ((s5.onCtx g.ctx (fun c => { c with restored := c.restored + 1 })).control g.ctx 0x1C (c.restored + 1))
      | _, _ => some s5

/-- The restore of one saved group tried: none while it only waits. -/
def State.tryRestore (s : State) (v : SavedGroup) : Option State :=
  match s.node? v.ctx v.group.node with
  | none => some { s with saved := s.saved.filter (fun x => x.group.gid ≠ v.group.gid) }
  | some n =>
    if !s.couldPlace n v then some (s.acts v.ctx [.fail n.addr 0x04 0])
    else if (s.chooseCores n.masks (v.demand 0) v.group.shares.length).isNone then none
    else match s.readRecordOf v with
      | (.waits, s1) => some s1
      | (.fails code, s1) => some (s1.acts v.ctx [.fail n.addr code 0])
      | (.whole, s1) => s1.restoreOn n v

/-- The saved groups of a context that are next to be restored: of each node, in the order in which the nodes became ready, the
lowest that waits for no fault record (R373). -/
def State.restorers (s : State) (c : Ctx) : List SavedGroup :=
  let ns := (s.nodes.filter (fun n => n.ctx = c.num)).foldl (fun l n => insertReady n l) []
  ns.filterMap (fun n =>
    let vs := s.saved.filter (fun v => v.ctx = c.num && v.group.node = n.addr && v.record.isNone && v.restorable c)
    vs.find? (fun v => vs.all (fun u => v.group.index ≤ u.group.index)))

/-- GROUP_RESTORE (R373, R376): the next saved group of a context that can go on is read, checked and placed. -/
def execGroupRestore (ctx : Nat) (s : State) : Host.Outcome State Fault Refusal :=
  .next (match s.ctx? ctx with
    | none => s
    | some c => if s.places then ((s.restorers c).findSome? s.tryRestore).getD s else s)

end Sys2Proof.Machine
end

