-- ==== Sys2Proof/Machine/Outside.lean ====
section
/-! DEFINITION. What the host, the peers and the driver do to the part: the steps HOST_PORT_ACCESS, PEER_ACCESS_ARRIVAL,
DIE_SCRATCHPAD_GRANT_CHANGE, FRAME_POOL_GRANT and CONTEXT_DESTROY (R17, R192, R246, R321, R339, R340, R342, R369, R384). -/

namespace Sys2Proof.Machine

open Sys2Proof

/-! ## Images and shadows (R384) -/

/-- An image in which a byte has been replaced. -/
def Image.put (i : Image) (a : Nat) (b : Byte) : Image :=
  if i.addr ≤ a && a < i.addr + i.bytes.length then { i with bytes := i.bytes.set (a - i.addr) b } else i

/-- A byte that the driver writes also written to the host image of its frame, and to the shadow of a table page (R384). -/
def State.imageByte (s : State) (pa : Nat) (b : Byte) : State :=
  { s with ctxs := s.ctxs.map (fun (c : Ctx) =>
      { c with images := c.images.map (fun i => i.put pa b), shadows := c.shadows.map (fun i => i.put pa b) }) }

/-- Bytes that the host writes to a context's memory through the tables. -/
def State.hostWrite (s : State) (cn va : Nat) : List Byte → State
  | [] => s
  | b :: bs =>
    (match s.walkerByte? cn (va % 2 ^ 52) with
      | some (pa, k) => (s.writeByte k pa b).imageByte pa b
      | none => s).hostWrite cn (va + 1) bs

/-- A whole frame written from host memory: its device-written bit is cleared, and the bytes are its host image (R384). -/
def State.loadFrame (s : State) (cn pa : Nat) (bs : List Byte) : State :=
  let s1 := { s with devWritten := s.devWritten.filter (fun f => f ≠ pa / 65536) }
  s1.onCtx cn (fun c => { c with images := { addr := pa, bytes := bs } :: c.images.filter (fun i => i.addr ≠ pa) })

/-- The frames that a host write fills whole, noted as loaded. -/
def State.loadFrames (s : State) (cn va : Nat) (bs : List Byte) : State :=
  (pieces va bs.length).foldl (fun s p =>
    if p.2 = 65536 then
      match s.walkerByte? cn (p.1 % 2 ^ 52) with
      | some (pa, _) => if storage pa = .dram then s.loadFrame cn pa ((bs.drop (p.1 - va)).take 65536) else s
      | none => s
    else s) s

/-! ## The control block (R369, R418) -/

/-- What the walker does on a write of a request word. -/
def State.request (s : State) (cn v : Nat) : State :=
  let out : Host.Outcome State Fault Refusal :=
    if v = 1 then execPreemptRequest cn s else if v = 2 then execResumeRequest cn s else if v = 3 then execKillRequest cn s else .next s
  match out with
  | .next s1 => s1
  | .fault _ => s
  | .refused _ => s

/-- Whether a write covers the request word of a context's control block. -/
def Ctx.requestIn (c : Ctx) (va n : Nat) : Bool := va ≤ c.nodeBase && c.nodeBase + 4 ≤ va + n

/-! ## HOST_PORT_ACCESS -/

/-- A write by the host to a context's memory, with the request that it makes where it covers the request word. -/
def State.hostStore (s : State) (cn va : Nat) (bs : List Byte) : State :=
  let s1 := (s.hostWrite cn va bs).loadFrames cn va bs
  match s.ctx? cn with
  | none => s
  | some c =>
    if c.requestIn va bs.length then s1.request cn (natOf ((bs.drop (c.nodeBase - va)).take 4)) else s1

/-- The host's atomic add of a word: the release of a node where it names a pred word and adds 0xFFFF_FFFF, else an addition
in memory (R251, R339). -/
def State.hostAdd (s : State) (port cn va : Nat) (v : Word) : State :=
  if v = 0xFFFFFFFF && 8 ≤ va && s.isRecord cn (BitVec.ofNat 52 (va - 8)) then
    if s.dev.boot = .ready then s.acts cn [.dec (BitVec.ofNat 52 (va - 8)) none false port] else s
  else
    let (old, s1) := s.walkerNat cn va 4
    s1.hostWrite cn va (bytesOf 4 (old + v.toNat))

/-- The host's other atomics: FetchAdd of 64 bits, and Swap and CAS of 32 and 64 bits (R339); an operation that the ports do not
complete, or a word off its own size, is not performed. -/
def State.hostAtomic (s : State) (port cn va : Nat) (op : AtomOp) (ws : List Word) : State :=
  if !hostAllows op || va % op.bytes ≠ 0 then s
  else if op = .addB32 then s.hostAdd port cn va (ws.headD 0)
  else
    let (old, s1) := s.walkerNat cn va op.bytes
    match atomicNew op old ws with
    | some v => s1.hostWrite cn va (bytesOf op.bytes v)
    | none => s1

/-- The answer to a page request, or a page that the host reports absent (R340, R380): a grant resolves the records that
wait for the frame, and a refusal drops the hubs' entries for it and fails the nodes that wait. -/
def State.pageResponse (s : State) (frame : Nat) (granted : Bool) : State :=
  let waits (r : FaultRec) : Bool := r.cause = 4 && (match (s.ctx? r.ctx).map (fun c => s.walk c (r.page * 65536)) with
    | some (.leaf e l _) => leafAddr e l (r.page * 65536) % 2 ^ 48 / 65536 = frame
    | _ => false)
  if granted then
    (s.dueFaults waits).onDev (fun d => { d with absent := d.absent.filter (fun f => f ≠ frame) })
  else
    let s1 := { s with tlb := s.tlb.filter (fun t => !(t.place.isHub && leafAddr t.leaf t.level (t.page * 65536) % 2 ^ 48 / 65536 = frame)) }
    (s.faults.filter waits).foldl (fun s r => s.failWaiters r 0x23) (s1.onDev (fun d => { d with absent := addNat frame d.absent }))

/-- HOST_PORT_ACCESS (R246, R339, R340): an access by the host, performed as its port receives it. -/
def execHostPortAccess (port : Nat) (acc : HostAccess) (s : State) : Host.Outcome State Fault Refusal :=
  .next (if 2 ≤ port || s.dev.opstate = 11 then s
    else match acc with
      | .write cn va bs => s.hostStore cn va.toNat bs
      | .atomicAdd cn va v => s.hostAdd port cn va.toNat v
      | .atomic cn va op ws => s.hostAtomic port cn va.toNat op ws
      | .readMem .. => s
      | .writeHost a bs => s.setHosts a bs
      | .pageResponse f g => s.pageResponse f g)

/-! ## PEER_ACCESS_ARRIVAL (R212, R246, R342) -/

/-- A peer's bytes written at their home. -/
def State.peerWrite (s : State) (addr key : Nat) (bs : List Byte) : State :=
  (List.range ((bs.length + 65535) / 65536 + 1)).foldl (fun s i =>
    if addr / 65536 + i ≤ (addr + bs.length - 1) / 65536 then s.markWritten ((addr / 65536 + i) * 65536) else s)
    (s.writeBytes key addr bs)

/-- PEER_ACCESS_ARRIVAL (R212, R246, R342): a peer's access performed at its home in this module's DRAM. One that would
consume poison performs nothing here. -/
def execPeerAccessArrival (acc : PeerAccess) (s : State) : Host.Outcome State Fault Refusal :=
  .next (match acc with
    | .load .. => s
    | .store a k bs => if storage a = .dram && !bs.isEmpty then s.peerWrite a k bs else s
    | .atomic a k op ws =>
      if storage a ≠ .dram || s.poisoned a op.bytes then s
      else
        let (old, s1) := s.readNat k a op.bytes
        match atomicNew op old ws with
        | some v => s1.peerWrite a k (bytesOf op.bytes v)
        | none => s1)

/-! ## The driver -/

/-- Units of 16 MiB of a die's SRAM that contexts other than one hold. -/
def State.grantedTo (s : State) (die cn : Nat) : List Nat :=
  (s.ctxs.filter (fun c => c.num ≠ cn)).flatMap (fun c => (c.grants.filter (fun g => g.1 = die)).flatMap Prod.snd)

/-- DIE_SCRATCHPAD_GRANT_CHANGE (R17): a context's grant on a die changed, in units of 16 MiB; all grants together hold at most
7 units, and a change while a node of the context runs is refused. -/
def execDieScratchpadGrantChange (ctx die units : Nat) (s : State) : Host.Outcome State Fault Refusal :=
  .next (match s.ctx? ctx with
    | none => s
    | some c =>
      let others := s.grantedTo die ctx
      let mine := (c.grants.filter (fun g => g.1 = die)).flatMap Prod.snd
      if 8 ≤ die || 7 < others.length + units || s.nodes.any (fun n => n.ctx = ctx && n.state = .running) then s
      else
        let free := (List.range 7).filter (fun u => !others.contains u && !mine.contains u)
        let now := (mine ++ free).take units
        s.onCtx ctx (fun c => { c with
          grants := c.grants.filter (fun g => g.1 ≠ die) ++ (if units = 0 then [] else [(die, now)]) }))

/-- Whether a frame may enter a pool: one of the tier's frames, which no context maps or pools, and of HBM only on a stack in
PEER mode (R14, R192, R343). -/
def State.grantable (s : State) (tier f : Nat) : Bool :=
  f < 12 * (if tier = 0 then Config.hbmFrames else Config.lpddrFrames)
    && !(tier = 0 && (s.stack (stackOf (tierBase 0 0 + f * 65536))).cache)
    && !s.ctxs.any (fun c => (c.pool tier).contains f || c.count tier f ≠ 0 || c.staged.any (fun g => g.tier = tier && g.frame = f))

/-- FRAME_POOL_GRANT (R192): the driver grants free frames of a tier to a context's pool. -/
def execFramePoolGrant (ctx : Nat) (tier : Nat) (frames : List Nat) (s : State) : Host.Outcome State Fault Refusal :=
  .next (if tier < 2 then s.onCtx ctx (fun c => c.addFrames tier (frames.filter (s.grantable tier))) else s)

/-- CONTEXT_DESTROY (R25, R321): the driver destroys a context: what runs for it ends, its channels close, and what it held is
free. -/
def execContextDestroy (ctx : Nat) (s : State) : Host.Outcome State Fault Refusal :=
  .next (match s.ctx? ctx with
    | none => s
    | some _ =>
      let s1 := s.killCtx ctx
      { s1 with
        ctxs := s1.ctxs.filter (fun c => c.num ≠ ctx)
        nodes := s1.nodes.filter (fun n => n.ctx ≠ ctx)
        ops := s1.ops.filter (fun o => o.ctx ≠ ctx)
        tlb := s1.tlb.filter (fun t => t.ctx ≠ ctx) })

end Sys2Proof.Machine
end

