-- ==== Sys2Proof/Machine/Replay.lean ====
section
/-! DEFINITION. The residual engine: the step RESIDUAL_REPLAY (R131 to R133). -/

namespace Sys2Proof.Machine

open Sys2Proof

/-- The meaning under which an entry replays: that of its instruction, for the deferrable instructions of R137; no other
instruction makes an entry. -/
def replayMeaning (i : Instr) : Option Meaning :=
  match i with
  | .iadd _ _ _ b sat _ => some (meanIadd b sat)
  | .isub _ _ _ b sat _ => some (meanIsub b sat)
  | .imul _ _ _ b _ => some (meanImul b)
  | .imulh _ _ _ b u _ => some (meanImulh b u)
  | .imad _ _ _ b _ _ => some (meanImad b)
  | .iadd64 _ _ _ b _ => some (meanIadd64 b)
  | .imad64 _ _ _ b _ u _ => some (meanImad64 b u)
  | .ishl _ _ _ b _ => some (meanIshl b)
  | .ishr _ _ _ b _ => some (meanIshr b)
  | .ishra _ _ _ b _ => some (meanIshra b)
  | .bool3 _ _ _ b _ table => some (meanBool3 b table)
  | .imin _ _ _ b u _ => some (meanImin b u)
  | .imax _ _ _ b u _ => some (meanImax b u)
  | .iabs _ _ _ sat _ => some (meanIabs sat)
  | .popc _ _ _ _ => some meanPopc
  | .clz _ _ _ _ => some meanClz
  | .bfe _ _ _ _ sx _ => some (meanBfe sx)
  | .bfi _ _ _ _ _ _ => some meanBfi
  | .icmp _ _ _ b cond _ => some (meanIcmp b cond)
  | .isel _ _ _ b cond cn => some (meanIsel b cond cn)
  | .mov _ _ _ _ => some meanMov
  | .movi _ _ imm => some (meanMovi imm)
  | .movShort _ _ => some meanMovShort
  | .moviShort _ imm => some (meanMoviShort imm)
  | .iaddShort _ _ => some meanIaddShort
  | .isubShort _ _ => some meanIsubShort
  | .iaddImmShort _ _ i => some (meanIaddImmShort i)
  | .isubImmShort _ _ i => some (meanIsubImmShort i)
  | .ishlImmShort _ _ i => some (meanIshlImmShort i)
  | .ishrImmShort _ _ i => some (meanIshrImmShort i)
  | .ishraImmShort _ _ i => some (meanIshraImmShort i)
  | .ishlImm16Short _ _ i => some (meanIshlImm16Short i)
  | .ishrImm16Short _ _ i => some (meanIshrImm16Short i)
  | .ishraImm16Short _ _ i => some (meanIshraImm16Short i)
  | .imulShort _ _ => some meanImulShort
  | .andShort _ _ => some meanAndShort
  | .orShort _ _ => some meanOrShort
  | .xorShort _ _ => some meanXorShort
  | .notShort _ _ => some meanNotShort
  | .iminShort _ _ => some meanIminShort
  | .imaxShort _ _ => some meanImaxShort
  | .fadd _ _ _ b rnd ftz sat _ => some (meanFadd b rnd ftz sat)
  | .fsub _ _ _ b rnd ftz sat _ => some (meanFsub b rnd ftz sat)
  | .fmul _ _ _ b rnd ftz sat _ => some (meanFmul b rnd ftz sat)
  | .ffma _ _ _ b _ rnd ftz sat _ => some (meanFfma b rnd ftz sat)
  | .fmin _ _ _ b nan ftz _ => some (meanFmin b nan ftz)
  | .fmax _ _ _ b nan ftz _ => some (meanFmax b nan ftz)
  | .fcmp _ _ _ b cond ftz _ => some (meanFcmp b cond ftz)
  | .fclass _ _ _ => some meanFclass
  | .hadd2 _ _ _ b rnd ftz bf => some (meanHadd2 b rnd ftz bf)
  | .hmul2 _ _ _ b rnd ftz bf => some (meanHmul2 b rnd ftz bf)
  | .hfma2 _ _ _ b _ rnd ftz bf => some (meanHfma2 b rnd ftz bf)
  | .rcp _ _ _ ftz _ => some (meanRcp ftz)
  | .rsq _ _ _ ftz _ => some (meanRsq ftz)
  | .sqrt _ _ _ ftz _ => some (meanSqrt ftz)
  | .exp2 _ _ _ ftz _ => some (meanExp2 ftz)
  | .log2 _ _ _ ftz _ => some (meanLog2 ftz)
  | .sin _ _ _ ftz _ => some (meanSin ftz)
  | .cos _ _ _ ftz _ => some (meanCos ftz)
  | .tanh _ _ _ ftz _ => some (meanTanh ftz)
  | .f2i _ _ _ rnd u _ => some (meanF2i rnd u)
  | .i2f _ _ _ rnd u _ => some (meanI2f rnd u)
  | .cvp _ _ _ sel rnd sat => some (meanCvp sel rnd sat)
  | .cvu _ _ _ sel => some (meanCvu sel)
  | .dot4 _ _ _ _ _ m => some (meanDot4 m)
  | .dot8 _ _ _ _ _ m => some (meanDot8 m)
  | .scale _ _ _ _ rnd byte _ => some (meanScale rnd byte)
  | .rand _ _ m => some (meanRand m)
  | .faddShort _ _ => some meanFaddShort
  | .fsubShort _ _ => some meanFsubShort
  | .fmulShort _ _ => some meanFmulShort
  | .fminShort _ _ => some meanFminShort
  | .fmaxShort _ _ => some meanFmaxShort
  | .hadd2Short _ _ => some meanHadd2Short
  | .hmul2Short _ _ => some meanHmul2Short
  | .ld _ _ _ _ _ width _ na acq => some (meanLd width na acq)
  | .ldSB32Short _ _ _ => some meanLdSB32Short
  | .ldSB64Short _ _ _ => some meanLdSB64Short
  | .st _ _ _ _ _ width _ rel scope => some (meanSt width rel scope)
  | .stSB32Short _ _ _ => some meanStSB32Short
  | .stSB64Short _ _ _ => some meanStSB64Short
  | .atom _ _ _ b _ op order scope _ => some (meanAtom b op order scope)
  | .red _ _ b _ op order scope _ => some (meanRed b op order scope)
  | .fence _ scope kind => some (meanFence scope kind)
  | .srinit _ _ _ _ ring => some (meanSrinit ring)
  | .srpost _ _ empty ring => some (meanSrpost empty ring)
  | .tcopy _ _ _ _ _ dir post => some (meanTcopy dir post)
  | .copya _ _ _ _ _ dir scope => some (meanCopya dir scope)
  | .rnmove _ _ _ _ _ scope => some (meanRnmove scope)
  | .rnswap _ _ _ _ _ scope => some (meanRnswap scope)
  | .rnalias _ _ _ _ _ scope => some (meanRnalias scope)
  | .rnperm _ _ _ _ _ _ scope => some (meanRnperm scope)
  | .rndrop _ _ _ _ scope => some (meanRndrop scope)
  | .rnfresh _ _ _ _ scope tier => some (meanRnfresh scope tier)
  | .rnquery _ _ _ _ => some meanRnquery
  | .nrel _ _ _ => some meanNrel
  | .nstat _ _ _ _ => some meanNstat
  | .sortcnt _ _ _ scope => some (meanSortcnt scope)
  | .carsend _ _ _ _ _ _ s_ => some (meanCarsend s_)
  | .wopen _ _ ch _ => some (meanWopen ch)
  | .wred _ _ _ _ ch n _ => some (meanWred ch n)
  | .wclose _ ch _ => some (meanWclose ch)
  | .kvappend _ _ _ _ _ _ scope dim => some (meanKvappend scope dim)
  | .kvxlate _ _ _ _ _ => some meanKvxlate
  | .pfxfind _ _ _ _ _ _ cn => some (meanPfxfind cn)
  | .pfxins _ _ _ _ _ scope => some (meanPfxins scope)
  | .attn _ _ _ scope => some (meanAttn scope)
  | _ => none

/-- Whether a warp's entries may replay: none has left a fault to be taken (R142). -/
def Warp.replays (w : Warp) : Bool := w.replayTrap.isNone

/-- Whether an instruction goes to the vector unit, and not to another port of its quadrant (R132). -/
def onVector (op : Nat) : Bool := 0x20 ≤ op && op ≤ 0x5F && !(0x50 ≤ op && op ≤ 0x57)

/-- The entries of a warp that are the ready head of some lane (R131). -/
def State.readyEntries (s : State) (w : Warp) : List Entry :=
  match s.group? w.gid with
  | none => []
  | some g => if w.replays then w.queue.filter (fun e => !(s.readyLanes w g e).isEmpty) else []

/-- Whether an entry has its port of the quadrant before every other ready replay: that of an older warp, or an older entry of
its own warp (R32, R132). -/
def State.replayFirst (s : State) (w : Warp) (e : Entry) : Bool :=
  let port (x : Entry) : Bool := onVector x.instr.shape.op == onVector e.instr.shape.op
  !((s.warps.filter (fun v => v.wid / 12 = w.wid / 12 && v.wid ≠ w.wid && s.olderWarp v w)).any (fun v => (s.readyEntries v).any port))
    && !((s.readyEntries w).takeWhile (fun x => x.seq ≠ e.seq)).any port

/-- RESIDUAL_REPLAY (R131 to R133): the oldest entry that is the ready head of a lane replays, together with the other lanes
for which it is the ready head, unless a ready replay goes before it at its port. A replay issues one clock after its last
operand lands at the earliest, and the spec gives no latest: a clause instruction may issue before it. -/
def execResidualReplay (wid lane : Nat) (s : State) : Host.Outcome State Fault Refusal :=
  .next (match s.warp? wid with
    | none => s
    | some w =>
      match s.group? w.gid, w.replays with
      | some g, true =>
        match w.queue.find? (fun e => s.headReady w g e lane) with
        | none => s
        | some e =>
          match replayMeaning e.instr with
          | some m => if s.replayFirst w e then s.replayEntry w g e m else s
          | none => s
      | _, _ => s)

end Sys2Proof.Machine
end

