-- ==== Sys2Proof/Machine/Switch.lean ====
section
/-! DEFINITION. Steps of a warp that no instruction takes: FAIRNESS_SWITCH with suspension (R34 to R36, R88),
USER_TIMER_TRAP and PHASE_TRAP (R119, R121, R122), and REGROUP_RELEASE (R41 to R43). -/

namespace Sys2Proof.Machine

open Sys2Proof

/-! ## Bundles stalled in mid-clause (R36, R122) -/

/-- The meaning of an instruction at which a bundle may be suspended. -/
def waitMeaning (i : Instr) : Option Meaning :=
  match i with
  | .fwait _ mask => some (meanFwait mask)
  | .srwait _ _ phase empty ring => some (meanSrwait phase empty ring)
  | .mwait _ tile => some (meanMwait tile)
  | .opfence _ => some meanOpfence
  | _ => none

/-- Whether a warp's bundle is stalled at FWAIT, SRWAIT, MWAIT or OPFENCE: an attempt to issue it leaves it there. -/
def State.stalledInClause (s : State) (w : Warp) : Bool :=
  match w.active, s.group? w.gid with
  | some a, some g =>
    match a.instr?.bind (fun i => (waitMeaning i).map (fun m => (i, m))) with
    | some (i, m) =>
      match (s.issueAt w a g i m).warp? w.wid with
      | some v => v.active = some a
      | none => false
    | none => false
  | _, _ => false

/-! ## FAIRNESS_SWITCH -/

/-- The warp given to its longest-waiting ready bundle among some (R34); the old holder waits from now on (R31). -/
def Warp.switchTo (w : Warp) (bs : List (List Fibre)) (clock : Nat) : Warp :=
  match w.longest bs with
  | none => w
  | some b =>
    let old := w.holder.getD []
    { w with
      holder := some (w.byVlane (b.map Fibre.lane)), heldFrom := clock, offered := false
      fibres := w.fibres.map (fun f => if old.contains f.lane then { f with waitFrom := clock } else f) }

/-- FAIRNESS_SWITCH (R34 to R36, R88): at a clause boundary the longest-waiting ready bundle takes the warp; a bundle stalled
in mid-clause beyond the limit is suspended before its instruction. -/
def execFairnessSwitch (wid : Nat) (s : State) : Host.Outcome State Fault Refusal :=
  .next (match s.warp? wid with
    | none => s
    | some w =>
      match w.active with
      | none => if s.switchDue w then s.onWarp wid (fun w => w.switchTo (s.others w) s.clock) else s
      | some a =>
        let limit := w.fairLimit (bitsOf a.header 31 1 = 1)
        if !(s.others w).isEmpty && w.heldFrom + limit ≤ s.clock && s.stalledInClause w then
          s.onWarp wid (fun w => w.stopBundle.switchTo (s.others w) s.clock)
        else s)

/-! ## Timers -/

/-- Whether a warp stands where a timer or phase trap is taken: at a clause boundary, or stalled in mid-clause (R119, R121). -/
def State.timerPoint (s : State) (w : Warp) : Bool := s.atBoundary w || s.stalledInClause w

/-- USER_TIMER_TRAP (R119, R122): `%tmcmp` is cleared and the trap of class 9 taken. -/
def execUserTimerTrap (wid : Nat) (s : State) : Host.Outcome State Fault Refusal :=
  .next (match s.warp? wid with
    | none => s
    | some w =>
      if s.timerDue w && s.timerPoint w then
        ((s.onWarp wid (fun w => { w.stopBundle with tmcmp := 0 })).takeTrap wid { cause := { cls := 9 }, mask := [] }).getD s
      else s)

/-- PHASE_TRAP (R121, R122): `%phlim` is cleared, `%phcnt` holds its value, and the trap of class 10 is taken. -/
def execPhaseTrap (wid : Nat) (s : State) : Host.Outcome State Fault Refusal :=
  .next (match s.warp? wid with
    | none => s
    | some w =>
      if s.phaseDue w && s.timerPoint w then
        ((s.onWarp wid (fun w => { w.stopBundle with phHeld := s.phcnt w, phlim := 0 })).takeTrap wid
          { cause := { cls := 10 }, mask := [] }).getD s
      else s)

/-! ## REGROUP_RELEASE (R41 to R43) -/

/-- A fibre that regroups: its warp, itself and its key. -/
structure Arrival where
  w : Warp
  f : Fibre
  key : Nat
  deriving DecidableEq, Repr

/-- The fibres of some warps that have arrived at a collective. -/
def arrivals (ws : List Warp) : List Arrival :=
  ws.flatMap (fun w => w.fibres.filterMap (fun f =>
    match f.park.map Park.wait with
    | some (.regroup k) => some { w := w, f := f, key := k.toNat }
    | _ => none))

/-- An arrival put into a list sorted by key, then by `%fibre`. -/
def Arrival.insert (a : Arrival) : List Arrival → List Arrival
  | [] => [a]
  | b :: bs => if a.key < b.key || (a.key = b.key && a.f.id < b.f.id) then a :: b :: bs else b :: a.insert bs

/-- Arrivals sorted by key, then by `%fibre` (R41). -/
def sortArrivals (as : List Arrival) : List Arrival := as.foldl (fun bs a => a.insert bs) []

/-- The number of sorted arrivals with each distinct key, in order. -/
def keyCounts : List Arrival → List Nat
  | [] => []
  | a :: as =>
    match keyCounts as, as with
    | c :: cs, b :: _ => if a.key = b.key then (c + 1) :: cs else 1 :: c :: cs
    | cs, _ => 1 :: cs

/-- The seats of sorted arrivals, as warp index × 32 + virtual lane: each key from a fresh warp where the warps suffice,
else one after another (R41). -/
def seats (w : Nat) (counts : List Nat) : List Nat :=
  let need := (counts.map (fun c => (c + 31) / 32)).sum
  if need ≤ w then
    (counts.foldl (fun (acc : List Nat × Nat) c =>
      (acc.1 ++ (List.range c).map (fun i => 32 * acc.2 + i), acc.2 + (c + 31) / 32)) ([], 0)).1
  else List.range counts.sum

/-- The warps of a role in ascending index. -/
def warpsOfRole (ws : List Warp) (r : Role) : List Warp :=
  (List.range 64).filterMap (fun i => ws.find? (fun w => w.role == r && w.idx = i))

/-- The arrivals of a role with the warp to which each goes, and its virtual lane there. -/
def regroupMoves (ws : List Warp) (r : Role) : List (Arrival × Warp × Nat) :=
  let rs := warpsOfRole ws r
  let as := sortArrivals (arrivals rs)
  (as.zip (seats rs.length (keyCounts as))).filterMap (fun x => (rs[x.2 / 32]?).map (fun w => (x.1, w, x.2 % 32)))

/-- The bytes that a fibre carries through the crossbar: none where it keeps its warp (R43). -/
def carried (g : Group) (m : Arrival × Warp × Nat) : Nat := if m.1.w.wid = m.2.1.wid then 0 else 4 * (m.1.f.n + g.f)

/-- The most bytes that one quadrant sends or receives (R43). -/
def crossbarBytes (g : Group) (ms : List (Arrival × Warp × Nat)) : Nat :=
  ((List.range 4).flatMap (fun q =>
    [((ms.filter (fun m => quadOf m.1.w.wid = q)).map (carried g)).sum,
     ((ms.filter (fun m => quadOf m.2.1.wid = q)).map (carried g)).sum])).foldl max 0

/-- The physical lanes of the fibres that a warp receives, in the order of their virtual lanes: a fibre of the warp keeps its
own, the others take lanes that the crossbar chooses (R41). -/
def State.assignLanes (s : State) (wid : Nat) : List (Arrival × Warp × Nat) → List Nat → List (Nat × Nat) × State
  | [], _ => ([], s)
  | m :: ms, free =>
    if m.1.w.wid = wid then
      let (rest, s1) := s.assignLanes wid ms free
      ((m.2.2, m.1.f.lane) :: rest, s1)
    else
      let (v, s1) := s.freeWord
      let lane := free.getD (v.toNat % free.length) 0
      let (rest, s2) := s1.assignLanes wid ms (free.filter (fun l => l ≠ lane))
      ((m.2.2, lane) :: rest, s2)

/-- A fibre that moves to a lane of another warp: its register contents are unchanged (R41). -/
def Fibre.carry (f : Fibre) (lane : Nat) : Fibre := { f with lane := lane, park := none }

/-- One warp after a regroup: its fibres, and its remapping table with the vacant lanes last (R41). -/
def State.reseat (s : State) (w : Warp) (ms : List (Arrival × Warp × Nat)) : State :=
  let kept := (ms.filter (fun m => m.1.w.wid = w.wid)).map (fun m => m.1.f.lane)
  let (ls, s1) := s.assignLanes w.wid ms ((List.range 32).filter (fun l => !kept.contains l))
  let fs := (ms.zip ls).map (fun x => x.1.1.f.carry (if x.1.1.w.wid = w.wid then x.1.1.f.lane else x.2.2))
  let used := ls.map Prod.snd
  let rest := (List.range 32).filter (fun l => !used.contains l)
  let vacant := (List.range 32).filter (fun v => !ls.any (fun x => x.1 = v))
  let table := (List.range 32).map (fun v =>
    match ls.find? (fun x => x.1 = v) with
    | some x => x.2
    | none => rest.getD (vacant.idxOf v) 0)
  s1.onWarp w.wid (fun w => { w with fibres := fs, remap := table, holder := none, last := none })

/-- The roles that regroup. -/
def regroupRoles : List Role := [.general, .matrix, .vector]

/-- A complete collective released (R41). -/
def State.regroupNow (s : State) (g : Group) (core : Nat) (ws : List Warp) : State :=
  let moves := regroupRoles.map (fun r => (warpsOfRole ws r, regroupMoves ws r))
  let s1 := moves.foldl (fun (s : State) (m : List Warp × List (Arrival × Warp × Nat)) =>
    m.1.foldl (fun (s : State) (w : Warp) => s.reseat w (m.2.filter (fun (x : Arrival × Warp × Nat) => x.2.1.wid = w.wid))) s) s
  s1.onGroup g.gid (fun g => { g with regroups := g.regroups.filter (fun r => r.1 ≠ core) })

/-- REGROUP_RELEASE (R40 to R43): once every fibre of the collective has arrived and the crossbar has had its clocks, all are
released at the clause after REGROUP, in their new lanes. -/
def execRegroupRelease (gid core : Nat) (s : State) : Host.Outcome State Fault Refusal :=
  .next (match s.group? gid with
    | none => s
    | some g =>
      match g.regroups.find? (fun r => r.1 = core) with
      | none => s
      | some (_, _, last) =>
        let ws := s.warps.filter (fun w => w.regroups gid core)
        let all := ws.flatMap (fun w => w.fibres)
        let m := crossbarBytes g (regroupRoles.flatMap (regroupMoves ws))
        if all.isEmpty || (arrivals ws).length ≠ all.length || s.clock < last + 64 + (m + 1023) / 1024 then s
        else s.regroupNow g core ws)

end Sys2Proof.Machine
end

