-- ==== Sys2Proof/Machine/Dispatch.lean ====
section
/-! DEFINITION. One arm for every constructor of `Instr`: a direct call of its meaning. -/

namespace Sys2Proof.Machine

open Sys2Proof

/-- The meaning of an instruction, or of a step of the units, in a state. -/
def exec (i : Instr) (s : State) : Host.Outcome State Fault Refusal :=
  match i with
  | .nop g => Sys2Proof.Machine.execNop g s
  | .bra g off => Sys2Proof.Machine.execBra g off s
  | .brx g a => Sys2Proof.Machine.execBrx g a s
  | .call g k off => Sys2Proof.Machine.execCall g k off s
  | .callx g a k => Sys2Proof.Machine.execCallx g a k s
  | .ret g => Sys2Proof.Machine.execRet g s
  | .enter g n => Sys2Proof.Machine.execEnter g n s
  | .fork g d off w => Sys2Proof.Machine.execFork g d off w s
  | .exit g => Sys2Proof.Machine.execExit g s
  | .yieldI g => Sys2Proof.Machine.execYieldI g s
  | .mode g policy defer => Sys2Proof.Machine.execMode g policy defer s
  | .fwait g mask => Sys2Proof.Machine.execFwait g mask s
  | .tmset g delta => Sys2Proof.Machine.execTmset g delta s
  | .phase g count margin => Sys2Proof.Machine.execPhase g count margin s
  | .sread g d idx w64 => Sys2Proof.Machine.execSread g d idx w64 s
  | .swrite g a idx w64 => Sys2Proof.Machine.execSwrite g a idx w64 s
  | .rjen g jm => Sys2Proof.Machine.execRjen g jm s
  | .rjwait g jm => Sys2Proof.Machine.execRjwait g jm s
  | .rjstrike g jm => Sys2Proof.Machine.execRjstrike g jm s
  | .cvset g a cv => Sys2Proof.Machine.execCvset g a cv s
  | .cvsign g a b cv => Sys2Proof.Machine.execCvsign g a b cv s
  | .bara g cnt bar => Sys2Proof.Machine.execBara g cnt bar s
  | .barw g bar => Sys2Proof.Machine.execBarw g bar s
  | .bars g cnt bar => Sys2Proof.Machine.execBars g cnt bar s
  | .waitw g a b off scope space cmp => Sys2Proof.Machine.execWaitw g a b off scope space cmp s
  | .waitwRecheck wid lane => Sys2Proof.Machine.execWaitwRecheck wid lane s
  | .trap g imm => Sys2Proof.Machine.execTrap g imm s
  | .tret g => Sys2Proof.Machine.execTret g s
  | .tmask g op => Sys2Proof.Machine.execTmask g op s
  | .rinj g a load => Sys2Proof.Machine.execRinj g a load s
  | .iadd g d a b sat w => Sys2Proof.Machine.execIadd g d a b sat w s
  | .isub g d a b sat w => Sys2Proof.Machine.execIsub g d a b sat w s
  | .imul g d a b w => Sys2Proof.Machine.execImul g d a b w s
  | .imulh g d a b u w => Sys2Proof.Machine.execImulh g d a b u w s
  | .imad g d a b c w => Sys2Proof.Machine.execImad g d a b c w s
  | .iadd64 g d a b w => Sys2Proof.Machine.execIadd64 g d a b w s
  | .imad64 g d a b c u w => Sys2Proof.Machine.execImad64 g d a b c u w s
  | .ishl g d a b w => Sys2Proof.Machine.execIshl g d a b w s
  | .ishr g d a b w => Sys2Proof.Machine.execIshr g d a b w s
  | .ishra g d a b w => Sys2Proof.Machine.execIshra g d a b w s
  | .bool3 g d a b c table => Sys2Proof.Machine.execBool3 g d a b c table s
  | .imin g d a b u w => Sys2Proof.Machine.execImin g d a b u w s
  | .imax g d a b u w => Sys2Proof.Machine.execImax g d a b u w s
  | .iabs g d a sat w => Sys2Proof.Machine.execIabs g d a sat w s
  | .popc g d a w => Sys2Proof.Machine.execPopc g d a w s
  | .clz g d a w => Sys2Proof.Machine.execClz g d a w s
  | .bfe g d a b sx w => Sys2Proof.Machine.execBfe g d a b sx w s
  | .bfi g d a b c w => Sys2Proof.Machine.execBfi g d a b c w s
  | .icmp g d a b cond w => Sys2Proof.Machine.execIcmp g d a b cond w s
  | .isel g d a b cond cn => Sys2Proof.Machine.execIsel g d a b cond cn s
  | .mov g d a w64 => Sys2Proof.Machine.execMov g d a w64 s
  | .movi g d imm => Sys2Proof.Machine.execMovi g d imm s
  | .fadd g d a b rnd ftz sat w => Sys2Proof.Machine.execFadd g d a b rnd ftz sat w s
  | .fsub g d a b rnd ftz sat w => Sys2Proof.Machine.execFsub g d a b rnd ftz sat w s
  | .fmul g d a b rnd ftz sat w => Sys2Proof.Machine.execFmul g d a b rnd ftz sat w s
  | .ffma g d a b c rnd ftz sat w => Sys2Proof.Machine.execFfma g d a b c rnd ftz sat w s
  | .fmin g d a b nan ftz w => Sys2Proof.Machine.execFmin g d a b nan ftz w s
  | .fmax g d a b nan ftz w => Sys2Proof.Machine.execFmax g d a b nan ftz w s
  | .fcmp g d a b cond ftz w => Sys2Proof.Machine.execFcmp g d a b cond ftz w s
  | .fclass g d a => Sys2Proof.Machine.execFclass g d a s
  | .hadd2 g d a b rnd ftz bf16 => Sys2Proof.Machine.execHadd2 g d a b rnd ftz bf16 s
  | .hmul2 g d a b rnd ftz bf16 => Sys2Proof.Machine.execHmul2 g d a b rnd ftz bf16 s
  | .hfma2 g d a b c rnd ftz bf16 => Sys2Proof.Machine.execHfma2 g d a b c rnd ftz bf16 s
  | .rcp g d a ftz w => Sys2Proof.Machine.execRcp g d a ftz w s
  | .rsq g d a ftz w => Sys2Proof.Machine.execRsq g d a ftz w s
  | .sqrt g d a ftz w => Sys2Proof.Machine.execSqrt g d a ftz w s
  | .exp2 g d a ftz w => Sys2Proof.Machine.execExp2 g d a ftz w s
  | .log2 g d a ftz w => Sys2Proof.Machine.execLog2 g d a ftz w s
  | .sin g d a ftz w => Sys2Proof.Machine.execSin g d a ftz w s
  | .cos g d a ftz w => Sys2Proof.Machine.execCos g d a ftz w s
  | .tanh g d a ftz w => Sys2Proof.Machine.execTanh g d a ftz w s
  | .f2i g d a rnd u w => Sys2Proof.Machine.execF2i g d a rnd u w s
  | .i2f g d a rnd u w => Sys2Proof.Machine.execI2f g d a rnd u w s
  | .cvp g d a sel rnd sat => Sys2Proof.Machine.execCvp g d a sel rnd sat s
  | .cvu g d a sel => Sys2Proof.Machine.execCvu g d a sel s
  | .dot4 g d a b c m => Sys2Proof.Machine.execDot4 g d a b c m s
  | .dot8 g d a b c m => Sys2Proof.Machine.execDot8 g d a b c m s
  | .scale g d a b rnd byte w => Sys2Proof.Machine.execScale g d a b rnd byte w s
  | .rand g d m => Sys2Proof.Machine.execRand g d m s
  | .shfl g d a b m span w => Sys2Proof.Machine.execShfl g d a b m span w s
  | .lpush g d a b w => Sys2Proof.Machine.execLpush g d a b w s
  | .matchKeys g d a w64 w => Sys2Proof.Machine.execMatchKeys g d a w64 w s
  | .vote g d a op w => Sys2Proof.Machine.execVote g d a op w s
  | .redl g d a sel => Sys2Proof.Machine.execRedl g d a sel s
  | .scanl g d a sel excl => Sys2Proof.Machine.execScanl g d a sel excl s
  | .topk g dv di vs n k ty => Sys2Proof.Machine.execTopk g dv di vs n k ty s
  | .regroup g a => Sys2Proof.Machine.execRegroup g a s
  | .regroupRelease gid core => Sys2Proof.Machine.execRegroupRelease gid core s
  | .ld g d a off fs width space na acq => Sys2Proof.Machine.execLd g d a off fs width space na acq s
  | .st g a data off fs width space rel scope => Sys2Proof.Machine.execSt g a data off fs width space rel scope s
  | .atom g d a b fs op order scope space => Sys2Proof.Machine.execAtom g d a b fs op order scope space s
  | .red g a b fs op order scope space => Sys2Proof.Machine.execRed g a b fs op order scope space s
  | .fence g scope kind => Sys2Proof.Machine.execFence g scope kind s
  | .pref g a off dieCache => Sys2Proof.Machine.execPref g a off dieCache s
  | .tcopy g d a desc fs dir post => Sys2Proof.Machine.execTcopy g d a desc fs dir post s
  | .copya g d a len fs dir scope => Sys2Proof.Machine.execCopya g d a len fs dir scope s
  | .srinit g a b c ring => Sys2Proof.Machine.execSrinit g a b c ring s
  | .srwait g stage phase empty ring => Sys2Proof.Machine.execSrwait g stage phase empty ring s
  | .srpost g stage empty ring => Sys2Proof.Machine.execSrpost g stage empty ring s
  | .rnmove g dst src len fs scope => Sys2Proof.Machine.execRnmove g dst src len fs scope s
  | .rnswap g dst src len fs scope => Sys2Proof.Machine.execRnswap g dst src len fs scope s
  | .rnalias g dst src len fs scope => Sys2Proof.Machine.execRnalias g dst src len fs scope s
  | .rnperm g n dst src idx fs scope => Sys2Proof.Machine.execRnperm g n dst src idx fs scope s
  | .rndrop g va len fs scope => Sys2Proof.Machine.execRndrop g va len fs scope s
  | .rnfresh g va len fs scope tier => Sys2Proof.Machine.execRnfresh g va len fs scope tier s
  | .rnquery g d va fs => Sys2Proof.Machine.execRnquery g d va fs s
  | .mma g tile a b sc ck fmt => Sys2Proof.Machine.execMma g tile a b sc ck fmt s
  | .mmaJ g tile m64 cv ck fmt => Sys2Proof.Machine.execMmaJ g tile m64 cv ck fmt s
  | .accz g tile tiles => Sys2Proof.Machine.execAccz g tile tiles s
  | .accmv g d amax tile z fs => Sys2Proof.Machine.execAccmv g d amax tile z fs s
  | .accst g amax a tile pitch z inS wf fs => Sys2Proof.Machine.execAccst g amax a tile pitch z inS wf fs s
  | .accld g a tile pitch inS wf fs => Sys2Proof.Machine.execAccld g a tile pitch inS wf fs s
  | .mwait g tile => Sys2Proof.Machine.execMwait g tile s
  | .opfence g => Sys2Proof.Machine.execOpfence g s
  | .matrixEngineStart core => Sys2Proof.Machine.execMatrixEngineStart core s
  | .matrixOpFinish turn => Sys2Proof.Machine.execMatrixOpFinish turn s
  | .nrel g a fs => Sys2Proof.Machine.execNrel g a fs s
  | .nwait g d a prov => Sys2Proof.Machine.execNwait g d a prov s
  | .nstat g d a fs => Sys2Proof.Machine.execNstat g d a fs s
  | .sortcnt g a fs scope => Sys2Proof.Machine.execSortcnt g a fs scope s
  | .carsend g len row hdr buf fs inS => Sys2Proof.Machine.execCarsend g len row hdr buf fs inS s
  | .wopen g a ch fs => Sys2Proof.Machine.execWopen g a ch fs s
  | .wred g vs vi vr ch n fs => Sys2Proof.Machine.execWred g vs vi vr ch n fs s
  | .wwait g d vr ch => Sys2Proof.Machine.execWwait g d vr ch s
  | .wcorr g d vr vb ch => Sys2Proof.Machine.execWcorr g d vr vb ch s
  | .wclose g ch fs => Sys2Proof.Machine.execWclose g ch fs s
  | .attn g a fs scope => Sys2Proof.Machine.execAttn g a fs scope s
  | .kvappend g t blk k v fs scope dim => Sys2Proof.Machine.execKvappend g t blk k v fs scope dim s
  | .kvxlate g d dir va fs => Sys2Proof.Machine.execKvxlate g d dir va fs s
  | .pfxfind g d a b tab fs cn => Sys2Proof.Machine.execPfxfind g d a b tab fs cn s
  | .pfxins g hash blk tab fs scope => Sys2Proof.Machine.execPfxins g hash blk tab fs scope s
  | .undefinedInstruction w0 w1 w2 => Sys2Proof.Machine.execUndefinedInstruction w0 w1 w2 s
  | .nopShort => Sys2Proof.Machine.execNopShort s
  | .movShort d a => Sys2Proof.Machine.execMovShort d a s
  | .moviShort d imm => Sys2Proof.Machine.execMoviShort d imm s
  | .iaddShort d a => Sys2Proof.Machine.execIaddShort d a s
  | .isubShort d a => Sys2Proof.Machine.execIsubShort d a s
  | .iaddImmShort d a off => Sys2Proof.Machine.execIaddImmShort d a off s
  | .isubImmShort d a off => Sys2Proof.Machine.execIsubImmShort d a off s
  | .ishlImmShort d a off => Sys2Proof.Machine.execIshlImmShort d a off s
  | .ishrImmShort d a off => Sys2Proof.Machine.execIshrImmShort d a off s
  | .ishraImmShort d a off => Sys2Proof.Machine.execIshraImmShort d a off s
  | .ishlImm16Short d a off => Sys2Proof.Machine.execIshlImm16Short d a off s
  | .ishrImm16Short d a off => Sys2Proof.Machine.execIshrImm16Short d a off s
  | .ishraImm16Short d a off => Sys2Proof.Machine.execIshraImm16Short d a off s
  | .imulShort d a => Sys2Proof.Machine.execImulShort d a s
  | .andShort d a => Sys2Proof.Machine.execAndShort d a s
  | .orShort d a => Sys2Proof.Machine.execOrShort d a s
  | .xorShort d a => Sys2Proof.Machine.execXorShort d a s
  | .notShort d a => Sys2Proof.Machine.execNotShort d a s
  | .iminShort d a => Sys2Proof.Machine.execIminShort d a s
  | .imaxShort d a => Sys2Proof.Machine.execImaxShort d a s
  | .faddShort d a => Sys2Proof.Machine.execFaddShort d a s
  | .fsubShort d a => Sys2Proof.Machine.execFsubShort d a s
  | .fmulShort d a => Sys2Proof.Machine.execFmulShort d a s
  | .fminShort d a => Sys2Proof.Machine.execFminShort d a s
  | .fmaxShort d a => Sys2Proof.Machine.execFmaxShort d a s
  | .hadd2Short d a => Sys2Proof.Machine.execHadd2Short d a s
  | .hmul2Short d a => Sys2Proof.Machine.execHmul2Short d a s
  | .ldSB32Short d a off => Sys2Proof.Machine.execLdSB32Short d a off s
  | .stSB32Short d a off => Sys2Proof.Machine.execStSB32Short d a off s
  | .ldSB64Short d a off => Sys2Proof.Machine.execLdSB64Short d a off s
  | .stSB64Short d a off => Sys2Proof.Machine.execStSB64Short d a off s
  | .clauseStart core quad => Sys2Proof.Machine.execClauseStart core quad s
  | .fairnessSwitch wid => Sys2Proof.Machine.execFairnessSwitch wid s
  | .warpStarvationPriority wid => Sys2Proof.Machine.execWarpStarvationPriority wid s
  | .windowOverflowTrap wid => Sys2Proof.Machine.execWindowOverflowTrap wid s
  | .windowUnderflowTrap wid => Sys2Proof.Machine.execWindowUnderflowTrap wid s
  | .residualReplay wid lane => Sys2Proof.Machine.execResidualReplay wid lane s
  | .loadReturn id late => Sys2Proof.Machine.execLoadReturn id late s
  | .storePerformed id => Sys2Proof.Machine.execStorePerformed id s
  | .atomicComplete id => Sys2Proof.Machine.execAtomicComplete id s
  | .userTimerTrap wid => Sys2Proof.Machine.execUserTimerTrap wid s
  | .phaseTrap wid => Sys2Proof.Machine.execPhaseTrap wid s
  | .trapEntry wid => Sys2Proof.Machine.execTrapEntry wid s
  | .groupPlacement => Sys2Proof.Machine.execGroupPlacement s
  | .groupRetire gid => Sys2Proof.Machine.execGroupRetire gid s
  | .hostNodeRelease port ctx addr => Sys2Proof.Machine.execHostNodeRelease port ctx addr s
  | .nodeStart ctx addr => Sys2Proof.Machine.execNodeStart ctx addr s
  | .stagePage ctx addr page => Sys2Proof.Machine.execStagePage ctx addr page s
  | .nodeComplete ctx addr => Sys2Proof.Machine.execNodeComplete ctx addr s
  | .nodeCommit ctx addr => Sys2Proof.Machine.execNodeCommit ctx addr s
  | .nodeRollback ctx addr => Sys2Proof.Machine.execNodeRollback ctx addr s
  | .nodeFail ctx addr code => Sys2Proof.Machine.execNodeFail ctx addr code s
  | .copyCommandStart core early => Sys2Proof.Machine.execCopyCommandStart core early s
  | .copyCommandComplete id => Sys2Proof.Machine.execCopyCommandComplete id s
  | .renameApply id => Sys2Proof.Machine.execRenameApply id s
  | .renamePerformed id => Sys2Proof.Machine.execRenamePerformed id s
  | .sortcntRequestStart die => Sys2Proof.Machine.execSortcntRequestStart die s
  | .sortcntRequestComplete id => Sys2Proof.Machine.execSortcntRequestComplete id s
  | .caravanArrive src => Sys2Proof.Machine.execCaravanArrive src s
  | .wadiArrival src => Sys2Proof.Machine.execWadiArrival src s
  | .wadiBudgetExpiry ch level => Sys2Proof.Machine.execWadiBudgetExpiry ch level s
  | .wcorrTimeout wid lane => Sys2Proof.Machine.execWcorrTimeout wid lane s
  | .attnRequestStart die => Sys2Proof.Machine.execAttnRequestStart die s
  | .attnRequestComplete id => Sys2Proof.Machine.execAttnRequestComplete id s
  | .faultResolve id => Sys2Proof.Machine.execFaultResolve id s
  | .faultBoundExpiry id => Sys2Proof.Machine.execFaultBoundExpiry id s
  | .eccUncorrectable addr bank row demand => Sys2Proof.Machine.execEccUncorrectable addr bank row demand s
  | .poisonRepair id => Sys2Proof.Machine.execPoisonRepair id s
  | .coreStorageUncorrectable core what => Sys2Proof.Machine.execCoreStorageUncorrectable core what s
  | .scrubRead stack addr bank row found => Sys2Proof.Machine.execScrubRead stack addr bank row found s
  | .refresh stack bank row => Sys2Proof.Machine.execRefresh stack bank row s
  | .stackTemperatureChange stack celsius => Sys2Proof.Machine.execStackTemperatureChange stack celsius s
  | .thermalTrip die celsius => Sys2Proof.Machine.execThermalTrip die celsius s
  | .scanDrainStart die => Sys2Proof.Machine.execScanDrainStart die s
  | .scanTest die => Sys2Proof.Machine.execScanTest die s
  | .scanComplete die pass => Sys2Proof.Machine.execScanComplete die pass s
  | .scanOverdue die => Sys2Proof.Machine.execScanOverdue die s
  | .kvScrubCheck die ctx => Sys2Proof.Machine.execKvScrubCheck die ctx s
  | .preemptRequest ctx => Sys2Proof.Machine.execPreemptRequest ctx s
  | .resumeRequest ctx => Sys2Proof.Machine.execResumeRequest ctx s
  | .killRequest ctx => Sys2Proof.Machine.execKillRequest ctx s
  | .groupEvict gid => Sys2Proof.Machine.execGroupEvict gid s
  | .groupRestore ctx => Sys2Proof.Machine.execGroupRestore ctx s
  | .boot images => Sys2Proof.Machine.execBoot images s
  | .bootHoldRelease bins => Sys2Proof.Machine.execBootHoldRelease bins s
  | .bootComplete failedCores failedEngines linksUp => Sys2Proof.Machine.execBootComplete failedCores failedEngines linksUp s
  | .opcmdOperatingPoint code => Sys2Proof.Machine.execOpcmdOperatingPoint code s
  | .opcmdIdleHot => Sys2Proof.Machine.execOpcmdIdleHot s
  | .opcmdIdleCold => Sys2Proof.Machine.execOpcmdIdleCold s
  | .opcmdParked => Sys2Proof.Machine.execOpcmdParked s
  | .opcmdOff => Sys2Proof.Machine.execOpcmdOff s
  | .powerTransitionComplete => Sys2Proof.Machine.execPowerTransitionComplete s
  | .marginReview => Sys2Proof.Machine.execMarginReview s
  | .marginReviewComplete guards unavailable repairs => Sys2Proof.Machine.execMarginReviewComplete guards unavailable repairs s
  | .keyRetire k => Sys2Proof.Machine.execKeyRetire k s
  | .tlbInvalidate pages => Sys2Proof.Machine.execTlbInvalidate pages s
  | .invalidationComplete => Sys2Proof.Machine.execInvalidationComplete s
  | .attestationRequest => Sys2Proof.Machine.execAttestationRequest s
  | .attestationComplete => Sys2Proof.Machine.execAttestationComplete s
  | .registerWrite off value => Sys2Proof.Machine.execRegisterWrite off value s
  | .fabricLinkChange port up => Sys2Proof.Machine.execFabricLinkChange port up s
  | .kvappendAtHome id => Sys2Proof.Machine.execKvappendAtHome id s
  | .pfxinsAtHome id => Sys2Proof.Machine.execPfxinsAtHome id s
  | .resultLands id => Sys2Proof.Machine.execResultLands id s
  | .nrelDecrementPerformed id => Sys2Proof.Machine.execNrelDecrementPerformed id s
  | .wopenStatusWritten id => Sys2Proof.Machine.execWopenStatusWritten id s
  | .wcloseChannelFree id => Sys2Proof.Machine.execWcloseChannelFree id s
  | .hostPortAccess port acc => Sys2Proof.Machine.execHostPortAccess port acc s
  | .peerAccessArrival acc => Sys2Proof.Machine.execPeerAccessArrival acc s
  | .dieScratchpadGrantChange ctx die units => Sys2Proof.Machine.execDieScratchpadGrantChange ctx die units s
  | .framePoolGrant ctx tier frames => Sys2Proof.Machine.execFramePoolGrant ctx tier frames s
  | .contextDestroy ctx => Sys2Proof.Machine.execContextDestroy ctx s

end Sys2Proof.Machine
end

