-- ==== Sys2Proof/Machine/Turns.lean ====
section
/-! DEFINITION. Whose move comes next: the moves laid down in the agenda, or else the default order of the agents; one
move carried out; and an instruction placed where the next move finds it. -/

namespace Sys2Proof.Machine

open Sys2Proof

/-! ## One move -/

/-- Clocks in which nothing moves; during a thermal trip only the time since boot goes on (R346, R405). -/
def State.idle (s : State) (n : Nat) : State :=
  if s.dev.trip then { s with wall := s.wall + n * Config.period s.dev.opstate } else s.advanceClock n

/-- The steps that a thermal trip does not hold up: those of the hub's controllers and of the surroundings (R346). -/
def duringTrip (e : Instr) : Bool :=
  match e with
  | .opcmdOperatingPoint _ | .opcmdIdleHot | .opcmdIdleCold | .opcmdParked | .opcmdOff | .powerTransitionComplete | .marginReview
  | .thermalTrip .. | .stackTemperatureChange .. | .registerWrite .. | .attestationRequest | .attestationComplete
  | .fabricLinkChange .. => true
  | _ => false

/-- The next instruction of the clause that runs on a warp. -/
def State.nextInstr (s : State) (wid : Nat) : Option Instr := ((s.warp? wid).bind Warp.active).bind Active.instr?

/-- The outcome of one move: a step of a unit, the next instruction of a warp's clause, or clocks that pass. A term that is
no step of a unit moves nothing, and a warp with no clause running issues nothing. -/
def State.move (s : State) (t : Turn) : Host.Outcome State Fault Refusal :=
  match t with
  | .idle n => .next (s.idle n)
  | .unit e => if e.isInstruction || (s.dev.trip && !duringTrip e) then .next s else exec e s
  | .issue wid =>
    match (if s.dev.trip then none else s.nextInstr wid) with
    | some i => exec i { s with cur := some wid }
    | none => .next s

/-! ## The default order -/

/-- The step with which an operation in flight goes on. -/
def Op.steps (o : Op) : List Instr :=
  if o.stage = .done then []
  else
    let first := o.stage = .issued
    match o.kind with
    | .load .. => [.loadReturn o.id false]
    | .store .. => [.storePerformed o.id]
    | .atomic _ _ _ _ _ none => [.storePerformed o.id]
    | .atomic _ _ _ _ _ (some _) => [.atomicComplete o.id]
    | .copy _ => [if first then .copyCommandStart o.core [] else .copyCommandComplete o.id]
    | .rename _ => [if first then .renameApply o.id else .renamePerformed o.id]
    | .query .. | .nstat .. | .kvxlate .. | .pfxfind .. => [.resultLands o.id]
    | .nrel _ => [.nrelDecrementPerformed o.id]
    | .sort .. => [if first then .sortcntRequestStart (dieOf o.core) else .sortcntRequestComplete o.id]
    | .attn .. => [if first then .attnRequestStart (dieOf o.core) else .attnRequestComplete o.id]
    | .caravan _ _ _ h _ _ _ => [.caravanArrive (.op o.id h [])]
    | .wopen .. => [.wopenStatusWritten o.id]
    | .wred .. => [.wadiArrival (.contribution o.id)]
    | .wclose _ => [.wcloseChannelFree o.id]
    | .kvappend .. => [.kvappendAtHome o.id]
    | .pfxins .. => [.pfxinsAtHome o.id]
    | .matrix _ => [if first then .matrixEngineStart o.core else .matrixOpFinish ⟨o.id, []⟩]

/-- The steps of a warp that depend on no instruction: switches, due traps, replays, and a waiting fibre's next reading. -/
def Warp.steps (w : Warp) : List Instr :=
  [.trapEntry w.wid, .userTimerTrap w.wid, .phaseTrap w.wid, .fairnessSwitch w.wid]
    ++ w.fibres.map (fun f => .residualReplay w.wid f.lane)
    ++ w.fibres.filterMap (fun f => match f.park with
      | some { wait := .word .., at_ := _ } => some (.waitwRecheck w.wid f.lane)
      | some { wait := .corr .., at_ := _ } => some (.wcorrTimeout w.wid f.lane)
      | _ => none)

/-- The levels at which a channel's node may have a budget that runs out. -/
def Chan.levels (c : Chan) : List WadiLevel :=
  c.nodes.filterMap (fun n => if n.rounds.isEmpty then none
    else if n.lvl < 8 then some (.die n.lvl) else if n.lvl = 8 then some .root else some .top)

/-- The steps of the scan controller of a die. -/
def scanSteps (s : State) (die : Nat) : List Instr :=
  match (s.scan die).phase with
  | .idle => [.scanDrainStart die]
  | .draining _ => [.scanTest die, .scanOverdue die]
  | .testing .. => [.scanComplete die true]

/-- The steps of a node. -/
def Node.steps (n : Node) : List Instr :=
  match n.state with
  | .ready => [.nodeStart n.ctx n.addr]
  | .running => [.nodeComplete n.ctx n.addr] ++ (if n.kind = 1 && !n.checked then [.nodeStart n.ctx n.addr] else [])
  | .complete => [.nodeCommit n.ctx n.addr]
  | _ => []

/-- The warps with a clause running, those after the current one first. -/
def State.rotation (s : State) : List Nat :=
  let ws := (s.warps.filter (fun w => w.active.isSome)).map Warp.wid
  match s.cur with
  | some c => ws.filter (fun w => c < w) ++ ws.filter (fun w => w ≤ c)
  | none => ws

/-- The moves that the part may make with nothing from outside, in the default order: completions, packets under way, the
traps and switches that are due, clause starts, instructions, the nodes' transitions, evictions and restores, the service of
faults, the scan rotations, and the commands under way. -/
def State.moves (s : State) : List Turn :=
  let units : List Instr := s.ops.flatMap Op.steps
    ++ s.wadi.flatMap (fun (c : Chan) => c.transit.map (fun p => Instr.wadiArrival (.transit p.id)))
    ++ s.warps.flatMap Warp.steps
    ++ s.groups.flatMap (fun (g : Group) => g.regroups.map (fun r => Instr.regroupRelease g.gid r.1))
    ++ s.warps.map (fun (w : Warp) => Instr.clauseStart (coreOf w.wid) (quadOf w.wid))
  let graph : List Instr := s.groups.map (fun (g : Group) => Instr.groupRetire g.gid) ++ [Instr.groupPlacement]
    ++ s.nodes.flatMap Node.steps ++ s.groups.map (fun (g : Group) => Instr.groupEvict g.gid)
    ++ s.ctxs.map (fun (c : Ctx) => Instr.groupRestore c.num)
    ++ s.wadi.flatMap (fun (c : Chan) => c.levels.map (Instr.wadiBudgetExpiry c.ch))
    ++ s.faults.flatMap (fun (r : FaultRec) => [Instr.faultResolve r.id, .poisonRepair r.id, .faultBoundExpiry r.id])
    ++ (List.range 8).flatMap (scanSteps s) ++ [.invalidationComplete, .powerTransitionComplete, .attestationComplete]
  units.map Turn.unit ++ s.rotation.map Turn.issue ++ graph.map Turn.unit

/-- Whether a move changes anything. -/
def State.stirs (s : State) (t : Turn) : Bool :=
  match s.move t with
  | .next s1 => s1 ≠ s
  | .fault _ => false
  | .refused _ => false

/-- The next move by the default order: the first that changes anything, or one clock that passes. -/
def State.defaultTurn (s : State) : Turn := (s.moves.find? s.stirs).getD (.idle 1)

/-- The next move, and the state from which it is made: the head of the agenda, or the default. -/
def State.nextTurn (s : State) : Turn × State :=
  match s.agenda with
  | t :: ts => (t, { s with agenda := ts })
  | [] => (s.defaultTurn, s)

/-- An outcome with the bookkeeping of readiness made after it (R31, R32). -/
def settled (c0 : Nat) : Host.Outcome State Fault Refusal → Host.Outcome State Fault Refusal
  | .next s => .next (s.settle c0).settleCtxs
  | .fault f => .fault f
  | .refused r => .refused r

/-- One step of the machine: the next move made. -/
def State.advance (s : State) : Host.Outcome State Fault Refusal :=
  let (t, s1) := s.nextTurn
  settled s.clock (s1.move t)

/-! ## An instruction placed for the next step -/

/-- The role and the engine class under which an instruction may stand in a clause (R45, R83). -/
def seat (op : Nat) : Role := if op = 0x86 || op = 0x87 then .copy else .general

/-- The header of a clause of one instruction of `n` words: class 0, no flag for either select, no wait (R82). -/
def soloHeader (n : Nat) : DWord := BitVec.ofNat 64 (1 + 15 * 2 ^ 21 + 15 * 2 ^ 25 + (n + 2) * 2 ^ 32)

/-- A clause of one instruction, started. -/
def soloClause (ws : List Word) : Active :=
  let n := (wordCount (ws.headD 0)).getD 1
  { lanes := [0], hdr := 4096, header := soloHeader n, words := ws.take n }

/-- The fibre that runs a placed instruction: lane 0, with a frame of 24 registers. -/
def soloFibre : Fibre := { lane := 0, id := 0, pos := { hdr := 4352 }, n := 24 }

/-- The context, the node and the group of a placed instruction. -/
def soloCtx : Ctx :=
  { num := 0, root := 0, key := 0, nodeBase := 0, nodeSize := 0, pool0 := [], pool1 := [], counts := [], reserve := [],
    staged := [], grants := [], spillBase := [] }
/-- See `soloCtx`. -/
def soloNode : Node := { addr := 256, ctx := 0, state := .running }
/-- See `soloCtx`. -/
def soloGroup : Group :=
  { gid := 0, ctx := 0, node := 256, index := 0, ngroup := 1, size := 1, depth := 0, forkCtr := 1, warps := 1, a := 32, f := 8,
    resid := 4, scratch := 0, shares := [{ core := 0, granules := [], tiles := [] }] }

/-- The warp of a placed instruction, in slot 0, with the instruction as the next of its clause. -/
def soloWarp (ws : List Word) : Warp :=
  { wid := 0, gid := 0, idx := 0, age := 0, role := seat ((ws.headD 0).toNat / 256 % 256), run := 0,
    remap := List.range 32, fibres := [soloFibre], holder := some [0], active := some (soloClause ws) }

/-- The state in which the next step issues the instruction of some words: on a clause that runs on slot 0, whose group,
node and context stand in place of those of the same numbers; all else is as it was. -/
def State.placeWords (s : State) (ws : List Word) : State :=
  { s with
    agenda := .issue 0 :: s.agenda
    ctxs := soloCtx :: s.ctxs.filter (fun c => c.num ≠ 0)
    nodes := soloNode :: s.nodes.filter (fun n => !(n.ctx = 0 && n.addr = 256))
    groups := soloGroup :: s.groups.filter (fun g => g.gid ≠ 0)
    warps := soloWarp ws :: s.warps.filter (fun w => w.wid ≠ 0) }

end Sys2Proof.Machine
end

