-- ==== Sys2Proof/Machine/Step.lean ====
section
/-! DEFINITION. The step of the machine, and an instruction placed where the next step runs it. -/

namespace Sys2Proof.Machine

open Sys2Proof

/-- One step: the next move of the agenda, or of the default order. -/
def step (s : State) : Host.Outcome State Fault Refusal := s.advance

/-- The state with an instruction stored where `step` takes its next instruction: the low `nbits` bits are those of `w`, the
others 0. -/
def State.withFetchWord (s : State) (nbits w : Nat) : State := s.placeWords (tableWords (w % 2 ^ nbits))

end Sys2Proof.Machine
end

