-- ==== Sys2Proof/Safety.lean ====
section
/-! DEFINITION. The terms of the claims: when a bundle issues an instruction, what a fibre's operands and results are, and
what an instruction leaves as it was. -/

namespace Sys2Proof.Machine

open Sys2Proof

/-! ## When an instruction issues -/

/-- The bundle whose clause runs on the current warp `w` issues instruction `i` for the executing fibres `x`, and defers it
for `e`, of which `gp` have an undecided guard: no access of its fibres parks it (R378), no replay fault is pending (R142),
the warp's role permits the instruction (R45), its operands are legal for every fibre of the bundle (R56, R100), the mode
and the pending operations let it issue for these fibres (R126, R127, R137), no flag is at its limit (R87), no acquire holds
the access back (R208), and the core has room for a further operation (R21, R359). -/
structure Issues (s : State) (i : Instr) (w : Warp) (a : Active) (g : Group) (x e gp : List Fibre) : Prop where
  warp : s.cur.bind s.warp? = some w
  clause : w.active = some a
  group : s.group? w.gid = some g
  unparked : s.ops.any (fun o => o.parks && o.gid = w.gid && (w.bundle a).any (fun f => f.id = o.fid)) = false
  unfaulted : w.replayTrap = none
  role : rolePermits w.role i.shape.op = true
  operands : ∀ f ∈ w.bundle a, i.shape.legal g f = true
  fibres : s.classify w a g i = .go x e gp
  flags : ∀ n, i.shape.fs.bind a.flag = some n → ∀ f ∈ s.counting w g i (x ++ e), f.flag n < 63
  acquired : i.isFibreAccess = true → ∀ f ∈ x, s.acquiring g.gid f.id s.nextId = false
  room : s.noSlot w i (x.filter (fun f => !s.ownShare w g i f)).length = false

/-- No destination of an issue is an operand of an open matrix operation of its fibre (R245). -/
def NoOpenOperand (i : Instr) (g : Group) (x e : List Fibre) : Prop :=
  ∀ f ∈ x ++ e, ∀ p ∈ g.places f.b i.shape.dstRegs, p ∉ g.openRegs f.id

/-- The state after an instruction has had its effect: the entry of the fibres that defer appended, the clause advanced, and
the clocks of the port passed. -/
def State.after (s : State) (w : Warp) (a : Active) (g : Group) (i : Instr) (e gp : List Fibre) : State :=
  ((s.append w a g i e gp).onWarp w.wid Warp.advance).advanceClock (portClocks i)

/-- An issue of an instruction as its meaning sees it. -/
def State.issueExec (s : State) (w : Warp) (a : Active) (g : Group) (i : Instr) (x : List Fibre) : Exec :=
  { w := w, g := g, instr := i, lanes := x.map (w.laneIn g i.shape), pos := { hdr := a.hdr, idx := a.idx, mid := true },
    words := a.here, flag := i.shape.fs.bind a.flag, entry := none, issue := a.part.getD s.nextId, place := a.part.getD s.nextId }

/-! ## Operands and results of a fibre -/

/-- The word of a register (R56). -/
def Fibre.word (f : Fibre) (g : Group) (r : Reg) : Word := f.readAt g f.b r

/-- The word of a source operand, a register or the literal (R92). -/
def Fibre.operand (f : Fibre) (g : Group) (b : Src) : Word :=
  match b with
  | .reg r => f.word g r
  | .lit v => v

/-- The 64-bit value of a register pair, low word first (R5, R56). -/
def Fibre.pair (f : Fibre) (g : Group) (r : Reg) : DWord := f.word g (regPlus r 1) ++ f.word g r

/-- The fibre with a register written; a write to vz is discarded (R56). -/
def Fibre.gets (f : Fibre) (g : Group) (r : Reg) (v : Word) : Fibre := f.writeAt g f.b r v

/-- The fibre with a register pair written, low word first (R5, R56). -/
def Fibre.getsPair (f : Fibre) (g : Group) (r : Reg) (v : DWord) : Fibre :=
  (f.gets g r (v.extractLsb' 0 32)).gets g (regPlus r 1) (v.extractLsb' 32 32)

/-- The fibre with flags written to the CC register that the instruction names, if it names one (R64, R146). -/
def Fibre.flagged (f : Fibre) (n : CcW) (c : CC) : Fibre :=
  match n with
  | some n => f.setCc n c
  | none => f

/-- The fibre with draws of its generator taken (R79). -/
def Fibre.drew (f : Fibre) (n : Nat) : Fibre := { f with rngCtr := f.rngCtr + BitVec.ofNat 64 n }

/-- The word of the next draw where the rounding takes one (R76), and how many draws `n` elements take. -/
def Fibre.drawFor (f : Fibre) (g : Group) (rnd : Rnd) (k : Nat) : Nat := if rnd = .sr then (f.draw g k).toNat else 0
/-- See `drawFor`. -/
def drawsFor (rnd : Rnd) (n : Nat) : Nat := if rnd = .sr then n else 0

/-- The flags with S and Z of a 32-bit result (R148). -/
def wordFlags (r : Word) (c v : Bool) : CC := { s := r.toNat / 2 ^ 31 = 1, z := r.toNat = 0, c := c, v := v }

/-- The flags of an FP32 result (R157): its sign, whether it is a zero, and whether it is a NaN. -/
def floatFlags (bits : Nat) : CC :=
  { s := bits / 2 ^ 31 = 1, z := bits % 2 ^ 31 = 0, c := false, v := 0x7F800000 < bits % 2 ^ 31 }

/-- The fibre with an FP32 result written, its flags formed, and its draws taken (R76, R157). -/
def Fibre.getsFloat (f : Fibre) (g : Group) (d : Reg) (r : FRes) (n : CcW) (draws : Nat) : Fibre :=
  ((f.gets g d (BitVec.ofNat 32 r.bits)).drew draws).flagged n (floatFlags r.bits)

/-! ## What an instruction leaves as it was -/

/-- Every byte of memory reads as before, whoever reads it. -/
def SameMemory (s t : State) : Prop := ∀ who p, (t.readByte who p).1 = (s.readByte who p).1

/-- Every byte of memory outside the set `p` reads as before, whoever reads it. -/
def SameMemoryBut (p : Nat → Prop) (s t : State) : Prop := ∀ who q, ¬ p q → (t.readByte who q).1 = (s.readByte who q).1

/-- Reading the byte `p` draws no free value: the byte's contents are defined (R201, R202). -/
def State.defined (s : State) (who p : Nat) : Prop := (s.readByte who p).2 = s

/-- Every byte with defined contents reads as before, whoever reads it. -/
def SameDefined (s t : State) : Prop := ∀ who p, s.defined who p → t.readByte who p = ((s.readByte who p).1, t)

/-- Every byte with defined contents outside the set `p` reads as before, whoever reads it. -/
def SameDefinedBut (p : Nat → Prop) (s t : State) : Prop :=
  ∀ who q, ¬ p q → s.defined who q → t.readByte who q = ((s.readByte who q).1, t)

/-- The resident groups, contexts, nodes, operations in flight, cores, channels, fault records, saved groups, scan
controllers, memory stacks, device registers, caches and instruction caches are as before. -/
structure SameUnits (s t : State) : Prop where
  groups : t.groups = s.groups
  ctxs : t.ctxs = s.ctxs
  nodes : t.nodes = s.nodes
  ops : t.ops = s.ops
  cores : t.cores = s.cores
  wadi : t.wadi = s.wadi
  faults : t.faults = s.faults
  saved : t.saved = s.saved
  scans : t.scans = s.scans
  memStacks : t.memStacks = s.memStacks
  dev : t.dev = s.dev
  l1 : t.l1 = s.l1
  icache : t.icache = s.icache
  tlb : t.tlb = s.tlb

/-- From `s` to `t`, of the fibres of the warp `w` exactly the executing ones `x` changed, each into what `r` makes of it,
raising the floating-point exceptions `fp` (R69); the warp's registers are as before but for its place in the clause and the
mode, which changes at a clause boundary (R68, R86); every other warp, all memory and all units are as before. -/
structure Result (s t : State) (w : Warp) (x : List Fibre) (r : Fibre → Fibre) (fp : Fibre → BitVec 5) : Prop where
  executing : ∀ f ∈ x, t.fibre? w.wid f.lane = some (r f)
  others : ∀ l, (∀ f ∈ x, f.lane ≠ l) → t.fibre? w.wid l = s.fibre? w.wid l
  registers : ∃ v, t.warp? w.wid = some v ∧
    v = { w with fibres := v.fibres, active := v.active, queue := v.queue, mode := v.mode, exempt := v.exempt,
                 offered := v.offered, fpst := x.foldl (fun m f => m ||| fp f) w.fpst }
  warps : ∀ n, n ≠ w.wid → t.warp? n = s.warp? n
  memory : SameMemory s t
  units : SameUnits s t

/-- Instruction `i` completes, from every state in which a bundle issues it, with the results `r` and the floating-point
exceptions `fp` of each executing fibre, which may depend on the warp, the group and the other executing fibres: `exec`
answers a next state, in which exactly that has changed. -/
def CompletesWith (i : Instr) (r : Warp → Group → List Fibre → Fibre → Fibre)
    (fp : Warp → Group → List Fibre → Fibre → BitVec 5) : Prop :=
  ∀ (s : State) (w : Warp) (a : Active) (g : Group) (x e gp : List Fibre), Issues s i w a g x e gp → NoOpenOperand i g x e →
    ∃ t, exec i s = .next t ∧ Result s t w x (r w g x) (fp w g x)

/-- Instruction `i` completes with results that each executing fibre computes from its own operands, and raises no
floating-point exception. -/
def Completes (i : Instr) (r : Group → Fibre → Fibre) : Prop :=
  CompletesWith i (fun _ g _ => r g) (fun _ _ _ _ => 0)

/-- Instruction `i` completes with results and floating-point exceptions that each executing fibre computes from its own
operands. -/
def CompletesFp (i : Instr) (r : Group → Fibre → Fibre) (fp : Group → Fibre → BitVec 5) : Prop :=
  CompletesWith i (fun _ g _ => r g) (fun _ g _ => fp g)

/-! ## Instructions that change fibres, their warp, or a unit -/

/-- The flag on which an instruction of a clause counts, if any (R87). -/
def flagOf (i : Instr) (a : Active) : Option Nat := i.shape.fs.bind a.flag

/-- The fibre with the flag raised by 1, where the instruction counts on one (R87). -/
def Fibre.counted (f : Fibre) (n : Option Nat) : Fibre :=
  match n with
  | some n => f.raise n
  | none => f

/-- From `s` to `t`, of the fibres of the warp `w` exactly the executing ones `x` changed, each into what `r` makes of it, and of
those that defer the ones `d` that count on the flag `n` (R130); the warp's registers are what `u` makes of them, advanced
through the clause, but for its residual queue; every other warp is as before. -/
structure Changes (s t : State) (w : Warp) (x : List Fibre) (r : Fibre → Fibre) (u : Warp → Warp) (d : List Fibre := [])
    (n : Option Nat := none) : Prop where
  executing : ∀ f ∈ x, t.fibre? w.wid f.lane = some (r f)
  deferred : ∀ f ∈ d, t.fibre? w.wid f.lane = some (f.counted n)
  others : ∀ l, (∀ f ∈ x ++ d, f.lane ≠ l) → t.fibre? w.wid l = s.fibre? w.wid l
  registers : ∃ v, t.warp? w.wid = some v ∧ v = { (u w).advance with fibres := v.fibres, queue := v.queue }
  warps : ∀ n, n ≠ w.wid → t.warp? n = s.warp? n

/-- The fibres that defer an instruction and count on its flag (R130, R207). -/
def countedLate (s : State) (w : Warp) (i : Instr) (g : Group) (e : List Fibre) : List Fibre := s.counting w g i e

/-- What an instruction does where it is issued for at least one fibre: the condition under which it has this effect, each
executing fibre after it, the warp's registers after it, and the state whose units are those after it. -/
structure OwnEffect where
  ok : State → Warp → Active → Group → List Fibre → Prop := fun _ _ _ _ _ => True
  fibre : State → Warp → Active → Group → List Fibre → Fibre → Fibre := fun _ _ _ _ _ f => f
  warp : State → Warp → Active → Group → List Fibre → Warp → Warp := fun _ _ _ _ _ v => v
  units : State → Warp → Active → Group → List Fibre → State := fun s _ _ _ _ => s

/-- Instruction `i` completes with an effect: from every state in which a bundle issues it for at least one fibre, under the
effect's condition, `exec` answers a next state in which exactly that has changed. -/
def Acts (i : Instr) (act : OwnEffect) : Prop :=
  ∀ (s : State) (w : Warp) (a : Active) (g : Group) (x e gp : List Fibre), Issues s i w a g x e gp → NoOpenOperand i g x e →
    x ≠ [] → act.ok s w a g x →
    ∃ t, exec i s = .next t
      ∧ Changes s t w x (act.fibre s w a g x) (act.warp s w a g x) (countedLate s w i g e) (flagOf i a) ∧ SameMemory s t
      ∧ SameUnits (act.units s w a g x) t

/-! ## Accesses -/

/-- Every byte of an access of a warp's fibre translates as the fibre's core finds it, and a write to it has no page to stage
first (R193, R256). -/
def Serves (s : State) (w : Warp) (g : Group) (space : Space) (addr n : Nat) (k : Access) : Prop :=
  space.translated = true → ∀ va ∈ byteAddrs space addr n,
    (∃ p, s.translate (corePlaces (w.wid / 48)) g.ctx (va % 2 ^ 52) k = (.ok p, s)) ∧
    (k ≠ .read → s.mustStage g.ctx g.node (va % 2 ^ 52 / 65536) = none)

/-- What a long-latency instruction puts in flight for each executing fibre, and the condition under which it does so. -/
structure LaunchEffect where
  ok : State → Warp → Active → Group → List Fibre → Prop
  kind : State → Warp → Group → Fibre → OpKind

/-- Instruction `i` puts one operation in flight for each executing fibre and goes on: its fibre's flag rises by 1 (R207), no
fault record holds it, and nothing else changes but the flags of fibres that defer; the operations that were in flight stay. -/
def Launches (i : Instr) (l : LaunchEffect) : Prop :=
  ∀ (s : State) (w : Warp) (a : Active) (g : Group) (x e gp : List Fibre), Issues s i w a g x e gp → NoOpenOperand i g x e →
    x ≠ [] → l.ok s w a g x →
    ∃ (t : State) (new : List Op), exec i s = .next t
      ∧ Changes s t w x (fun f => f.counted (flagOf i a)) (fun v => v) (countedLate s w i g e) (flagOf i a) ∧ SameMemory s t
      ∧ SameUnits { s with ops := t.ops } t
      ∧ t.ops.filter (fun o => o.id < s.nextId) = s.ops.filter (fun o => o.id < s.nextId)
      ∧ t.ops.length = s.ops.length + new.length ∧ (∀ o ∈ new, o ∈ t.ops)
      ∧ new.map (fun (o : Op) => (o.gid, o.wid, o.fid, o.entry, o.record, o.flag, o.kind))
        = x.map (fun f => (w.gid, w.wid, f.id, none, none, flagOf i a, l.kind s w g f))

/-- The DRAM unit of 16 bytes or the on-chip granule of 256 bytes that two addresses share (R201, R202). -/
def sameUnit (p q : Nat) : Prop :=
  match storage p, storage q with
  | .dram, .dram => p / 16 = q / 16
  | .chip, .chip => p / 256 = q / 256
  | _, _ => False

/-- Memory, the key marks of its units and the owner tags of its granules are in canonical form. -/
def State.tidy (s : State) : Prop := s.mem.wf = true ∧ swf 0 s.unitKey = true ∧ swf 0 s.owner = true

/-- From `s` to `t`, the bytes `l` were written under key or context `who`, in order: each reads as it was last written, and
every other byte with defined contents reads as before, but for other readers of the units written. -/
def Stores (s t : State) (who : Nat) (l : List (Nat × Byte)) : Prop :=
  (∀ p b, l.reverse.find? (fun e => e.1 = p) = some (p, b) → t.readByte who p = (b, t)) ∧
  (∀ k q, (∀ e ∈ l, e.1 ≠ q) → s.defined k q → k = who ∨ (∀ e ∈ l, ¬ sameUnit e.1 q) → t.readByte k q = ((s.readByte k q).1, t))

end Sys2Proof.Machine
end

