-- ==== Sys2Proof/Certificates/Slice0/Obligations.lean ====
section
/-! DEFINITION. The statements about the machine, in the order of OBLIGATIONS.json. -/

section Statements

open Sys2Proof Sys2Proof.Machine

/-! ## Integer and address instructions -/

/-- R149: IADD and ISUB, and the short forms 0x04 to 0x07 of R97. -/
def Obligations.IntegerAddSubtract : Prop :=
  let clamp (sat : Bool) (v : Int) (r : Word) : Word :=
    if sat ∧ (v < -2 ^ 31 ∨ 2 ^ 31 - 1 < v) then (if v < 0 then 0x80000000#32 else 0x7FFFFFFF#32) else r
  let flags (sat : Bool) (v : Int) (r : Word) (carry : Bool) : CC :=
    wordFlags (clamp sat v r) carry (v < -2 ^ 31 ∨ 2 ^ 31 - 1 < v)
  let sum (x y : Word) : Word := BitVec.ofNat 32 (x.toNat + y.toNat)
  let diff (x y : Word) : Word := BitVec.ofInt 32 ((x.toNat : Int) - y.toNat)
  (∀ gd d ra b sat n, Completes (.iadd gd d ra b sat n) (fun g f =>
    let x := f.word g ra
    let y := f.operand g b
    (f.gets g d (clamp sat (x.toInt + y.toInt) (sum x y))).flagged n
      (flags sat (x.toInt + y.toInt) (sum x y) (2 ^ 32 ≤ x.toNat + y.toNat)))) ∧
  (∀ gd d ra b sat n, Completes (.isub gd d ra b sat n) (fun g f =>
    let x := f.word g ra
    let y := f.operand g b
    (f.gets g d (clamp sat (x.toInt - y.toInt) (diff x y))).flagged n
      (flags sat (x.toInt - y.toInt) (diff x y) (y.toNat ≤ x.toNat)))) ∧
  (∀ d ra, Completes (.iaddShort d ra) (fun g f => f.gets g d (sum (f.word g d) (f.word g ra)))) ∧
  (∀ d ra, Completes (.isubShort d ra) (fun g f => f.gets g d (diff (f.word g d) (f.word g ra)))) ∧
  (∀ d ra i, Completes (.iaddImmShort d ra i) (fun g f => f.gets g d (sum (f.word g ra) (i.setWidth 32)))) ∧
  (∀ d ra i, Completes (.isubImmShort d ra i) (fun g f => f.gets g d (diff (f.word g ra) (i.setWidth 32))))

/-- R150: the multiplies and the 64-bit sum, and the short IMUL of R97. -/
def Obligations.IntegerMultiply : Prop :=
  let wide (u : Bool) (x : Word) : Int := if u then x.toNat else x.toInt
  let lit64 (g : Group) (f : Fibre) (b : Src) : DWord := match b with
    | .reg r => f.pair g r
    | .lit v => BitVec.ofInt 64 v.toInt
  (∀ gd d ra b n, Completes (.imul gd d ra b n) (fun g f =>
    let x := f.word g ra
    let y := f.operand g b
    let r : Word := BitVec.ofNat 32 (x.toNat * y.toNat)
    (f.gets g d r).flagged n (wordFlags r false (x.toInt * y.toInt < -2 ^ 31 ∨ 2 ^ 31 ≤ x.toInt * y.toInt)))) ∧
  (∀ gd d ra b u n, Completes (.imulh gd d ra b u n) (fun g f =>
    let r : Word := BitVec.ofInt 32 (wide u (f.word g ra) * wide u (f.operand g b) / 2 ^ 32)
    (f.gets g d r).flagged n (wordFlags r false false))) ∧
  (∀ gd d ra b c n, Completes (.imad gd d ra b c n) (fun g f =>
    let r : Word := BitVec.ofNat 32 ((f.word g ra).toNat * (f.operand g b).toNat + (f.word g c).toNat)
    (f.gets g d r).flagged n (wordFlags r false false))) ∧
  (∀ gd d ra b c u n, Completes (.imad64 gd d ra b c u n) (fun g f =>
    let r : DWord := BitVec.ofInt 64 (wide u (f.word g ra) * wide u (f.operand g b) + (f.pair g c).toNat)
    (f.getsPair g d r).flagged n { s := r.toNat / 2 ^ 63 = 1, z := r.toNat = 0, c := false, v := false })) ∧
  (∀ gd d ra b n, Completes (.iadd64 gd d ra b n) (fun g f =>
    let x := f.pair g ra
    let y := lit64 g f b
    let r : DWord := BitVec.ofNat 64 (x.toNat + y.toNat)
    (f.getsPair g d r).flagged n { s := r.toNat / 2 ^ 63 = 1, z := r.toNat = 0, c := 2 ^ 64 ≤ x.toNat + y.toNat,
                                   v := x.toInt + y.toInt < -2 ^ 63 ∨ 2 ^ 63 ≤ x.toInt + y.toInt })) ∧
  (∀ d ra, Completes (.imulShort d ra) (fun g f =>
    f.gets g d (BitVec.ofNat 32 ((f.word g d).toNat * (f.word g ra).toNat))))

/-- R151: the shifts, with C the last bit shifted out, and the short shifts 0x08 to 0x0D of R97. -/
def Claims.IntegerShift : Prop :=
  let count (g : Group) (f : Fibre) (b : ShiftSrc) : Nat := match b with
    | .reg r => (f.word g r).toNat
    | .imm n => n.toNat
  let left (x : Word) (n : Nat) : Word := BitVec.ofNat 32 (x.toNat * 2 ^ n)
  let right (x : Word) (n : Nat) : Word := BitVec.ofNat 32 (x.toNat / 2 ^ n)
  let arith (x : Word) (n : Nat) : Word := BitVec.ofInt 32 (x.toInt / 2 ^ n)
  (∀ gd d ra b n, Completes (.ishl gd d ra b n) (fun g f =>
    let x := f.word g ra
    let k := count g f b
    let c : Bool := if 1 ≤ k ∧ k ≤ 32 then x.toNat / 2 ^ (32 - k) % 2 = 1 else false
    (f.gets g d (if 32 ≤ k then 0 else left x k)).flagged n (wordFlags (if 32 ≤ k then 0 else left x k) c false))) ∧
  (∀ gd d ra b n, Completes (.ishr gd d ra b n) (fun g f =>
    let x := f.word g ra
    let k := count g f b
    let c : Bool := if 1 ≤ k ∧ k ≤ 32 then x.toNat / 2 ^ (k - 1) % 2 = 1 else false
    (f.gets g d (if 32 ≤ k then 0 else right x k)).flagged n (wordFlags (if 32 ≤ k then 0 else right x k) c false))) ∧
  (∀ gd d ra b n, Completes (.ishra gd d ra b n) (fun g f =>
    let x := f.word g ra
    let k := count g f b
    let c : Bool := if 1 ≤ k ∧ k ≤ 32 then x.toNat / 2 ^ (k - 1) % 2 = 1 else if 32 < k then 2 ^ 31 ≤ x.toNat else false
    let r : Word := if k < 32 then arith x k else if 2 ^ 31 ≤ x.toNat then 0xFFFFFFFF#32 else 0
    (f.gets g d r).flagged n (wordFlags r c false))) ∧
  (∀ d ra i, Completes (.ishlImmShort d ra i) (fun g f => f.gets g d (left (f.word g ra) i.toNat))) ∧
  (∀ d ra i, Completes (.ishrImmShort d ra i) (fun g f => f.gets g d (right (f.word g ra) i.toNat))) ∧
  (∀ d ra i, Completes (.ishraImmShort d ra i) (fun g f => f.gets g d (arith (f.word g ra) i.toNat))) ∧
  (∀ d ra i, Completes (.ishlImm16Short d ra i) (fun g f => f.gets g d (left (f.word g ra) (i.toNat + 16)))) ∧
  (∀ d ra i, Completes (.ishrImm16Short d ra i) (fun g f => f.gets g d (right (f.word g ra) (i.toNat + 16)))) ∧
  (∀ d ra i, Completes (.ishraImm16Short d ra i) (fun g f => f.gets g d (arith (f.word g ra) (i.toNat + 16))))

/-- R152: BOOL3 reads each bit of its result from its table, the tables that the rule lists are the functions that it names, and the short
AND, OR, XOR and NOT are BOOL3 with those tables. -/
def Claims.BitwiseFunctions : Prop :=
  let bits (table : BitVec 8) (x y z r : Word) : Prop :=
    ∀ i, i < 32 → r.getLsbD i = table.getLsbD ((x.getLsbD i).toNat + 2 * (y.getLsbD i).toNat + 4 * (z.getLsbD i).toNat)
  (∃ fn : BitVec 8 → Word → Word → Word → Word,
    (∀ table x y z, bits table x y z (fn table x y z)) ∧
    (∀ gd d ra b c table, Completes (.bool3 gd d ra b c table) (fun g f =>
      f.gets g d (fn table (f.word g ra) (f.operand g b) (f.word g c)))) ∧
    (∀ d ra, Completes (.andShort d ra) (fun g f => f.gets g d (fn 0x88 (f.word g d) (f.word g ra) 0))) ∧
    (∀ d ra, Completes (.orShort d ra) (fun g f => f.gets g d (fn 0xEE (f.word g d) (f.word g ra) 0))) ∧
    (∀ d ra, Completes (.xorShort d ra) (fun g f => f.gets g d (fn 0x66 (f.word g d) (f.word g ra) 0))) ∧
    (∀ d ra, Completes (.notShort d ra) (fun g f => f.gets g d (fn 0x55 (f.word g ra) 0 0)))) ∧
  (∀ x y z r, (bits 0x88 x y z r → r = x &&& y) ∧ (bits 0xEE x y z r → r = x ||| y) ∧ (bits 0x66 x y z r → r = x ^^^ y) ∧
    (bits 0x55 x y z r → r = ~~~x) ∧ (bits 0x96 x y z r → r = x ^^^ y ^^^ z) ∧
    (bits 0xE8 x y z r → r = (x &&& y) ||| (x &&& z) ||| (y &&& z)) ∧
    (bits 0xCA x y z r → r = (z &&& y) ||| (~~~z &&& x)))

/-- R153: IMIN, IMAX, IABS, POPC and CLZ, and the short IMIN and IMAX of R97. -/
def Claims.IntegerSingle : Prop :=
  let value (u : Bool) (x : Word) : Int := if u then x.toNat else x.toInt
  let least (u : Bool) (x y : Word) : Word := if value u x ≤ value u y then x else y
  let most (u : Bool) (x y : Word) : Word := if value u y ≤ value u x then x else y
  (∀ gd d ra b u n, Completes (.imin gd d ra b u n) (fun g f =>
    let r := least u (f.word g ra) (f.operand g b)
    (f.gets g d r).flagged n (wordFlags r false false))) ∧
  (∀ gd d ra b u n, Completes (.imax gd d ra b u n) (fun g f =>
    let r := most u (f.word g ra) (f.operand g b)
    (f.gets g d r).flagged n (wordFlags r false false))) ∧
  (∀ gd d ra sat n, Completes (.iabs gd d ra sat n) (fun g f =>
    let x := f.word g ra
    let r : Word := if x = 0x80000000#32 then (if sat then 0x7FFFFFFF#32 else 0x80000000#32) else BitVec.ofNat 32 x.toInt.natAbs
    (f.gets g d r).flagged n (wordFlags r false (x = 0x80000000#32)))) ∧
  (∀ gd d ra n, Completes (.popc gd d ra n) (fun g f =>
    let r : Word := BitVec.ofNat 32 ((List.range 32).countP (fun i => (f.word g ra).getLsbD i))
    (f.gets g d r).flagged n (wordFlags r false false))) ∧
  (∀ gd d ra n, Completes (.clz gd d ra n) (fun g f =>
    let x := f.word g ra
    let r : Word := if x = 0 then 32 else BitVec.ofNat 32 (31 - Nat.log2 x.toNat)
    (f.gets g d r).flagged n (wordFlags r false false))) ∧
  (∀ d ra, Completes (.iminShort d ra) (fun g f => f.gets g d (least false (f.word g d) (f.word g ra)))) ∧
  (∀ d ra, Completes (.imaxShort d ra) (fun g f => f.gets g d (most false (f.word g d) (f.word g ra))))

/-- R154: BFE takes a field of its first source, BFI replaces one of its second; field bits above bit 31 are dropped. -/
def Claims.BitFields : Prop :=
  let pos (ctl : Word) : Nat := ctl.toNat % 256
  let len (ctl : Word) : Nat := ctl.toNat / 256 % 256
  let hi (ctl : Word) : Nat := min (pos ctl + len ctl) 32
  let empty (ctl : Word) : Prop := 32 ≤ pos ctl ∨ len ctl = 0
  let field (ctl x : Word) : Nat := x.toNat / 2 ^ pos ctl % 2 ^ (hi ctl - pos ctl)
  let extracted (sx : Bool) (ctl x r : Word) : Prop :=
    (empty ctl → r = 0) ∧
    (¬ empty ctl → r = if sx ∧ 2 ^ (hi ctl - pos ctl - 1) ≤ field ctl x then
        BitVec.ofInt 32 ((field ctl x : Int) - 2 ^ (hi ctl - pos ctl)) else BitVec.ofNat 32 (field ctl x))
  let inserted (ctl x y r : Word) : Prop :=
    (empty ctl → r = y) ∧
    (¬ empty ctl → ∀ i, i < 32 → r.getLsbD i = if pos ctl ≤ i ∧ i < hi ctl then x.getLsbD (i - pos ctl) else y.getLsbD i)
  ∃ (bfe : Bool → Word → Word → Word) (bfi : Word → Word → Word → Word),
    (∀ sx ctl x, extracted sx ctl x (bfe sx ctl x)) ∧ (∀ ctl x y, inserted ctl x y (bfi ctl x y)) ∧
    (∀ gd d ra b sx n, Completes (.bfe gd d ra b sx n) (fun g f =>
      let r := bfe sx (f.word g b) (f.word g ra)
      (f.gets g d r).flagged n (wordFlags r false false))) ∧
    (∀ gd d ra b c n, Completes (.bfi gd d ra b c n) (fun g f =>
      let r := bfi (f.word g c) (f.word g ra) (f.word g b)
      (f.gets g d r).flagged n (wordFlags r false false)))

/-- R155, with the conditions of R65: ICMP writes all ones where the condition holds on the flags of the difference, and with `.cc` those
flags; ISEL chooses by its CC register and writes none. -/
def Claims.CompareSelect : Prop :=
  let holds (c : Cond) (k : CC) : Bool := match c with
    | .al => true | .eq => k.z | .ne => !k.z | .cs => k.c | .cc => !k.c | .mi => k.s | .pl => !k.s | .vs => k.v
    | .vc => !k.v | .hi => k.c && !k.z | .ls => !k.c || k.z | .ge => k.s == k.v | .lt => k.s != k.v
    | .gt => !k.z && k.s == k.v | .le => k.z || k.s != k.v | .nv => false
  (∀ gd d ra b cond n, Completes (.icmp gd d ra b cond n) (fun g f =>
    let x := f.word g ra
    let y := f.operand g b
    let k : CC := { s := (BitVec.ofInt 32 (x.toInt - y.toInt)).toNat / 2 ^ 31 = 1, z := x = y, c := y.toNat ≤ x.toNat,
                    v := x.toInt - y.toInt < -2 ^ 31 ∨ 2 ^ 31 ≤ x.toInt - y.toInt }
    (f.gets g d (if holds cond k then 0xFFFFFFFF#32 else 0)).flagged n k)) ∧
  (∀ gd d ra b cond n, Completes (.isel gd d ra b cond n) (fun g f =>
    f.gets g d (if holds cond (f.cc n) then f.word g ra else f.operand g b)))

/-- R156: MOV and MOVI, with the short forms 0x01 and 0x02 of R97; none writes a CC register. -/
def Claims.Moves : Prop :=
  (∀ gd d ra, Completes (.mov gd d ra false) (fun g f => f.gets g d (f.word g ra))) ∧
  (∀ gd d ra, Completes (.mov gd d ra true) (fun g f => f.getsPair g d (f.pair g ra))) ∧
  (∀ gd d i, Completes (.movi gd d (.short i)) (fun g f => f.gets g d (BitVec.ofInt 32 i.toInt))) ∧
  (∀ gd d v, Completes (.movi gd d (.long v)) (fun g f => f.gets g d v)) ∧
  (∀ d ra, Completes (.movShort d ra) (fun g f => f.gets g d (f.word g ra))) ∧
  (∀ d i, Completes (.moviShort d i) (fun g f => f.gets g d (BitVec.ofInt 32 i.toInt)))

/-- Shifts, BOOL3, IMIN, IMAX, IABS, POPC, CLZ, BFE, BFI, ICMP, ISEL, MOV and MOVI, with their short forms (R97, R148, R151, R152, R153,
R154, R155, R156). -/
def Obligations.ShiftsFieldsAndSelects : Prop := Claims.IntegerShift ∧ Claims.BitwiseFunctions ∧ Claims.IntegerSingle ∧ Claims.BitFields ∧ Claims.CompareSelect ∧ Claims.Moves

/-! ## Floating point -/

/-- R157, R158: FADD, FSUB, FMUL and FFMA round one exact value of their operands, with `.ftz` and `.sat` as written, set the flags of the
value written, raise its exceptions, and under SR take one draw; and the short FADD, FSUB and FMUL. -/
def Obligations.FloatArithmetic : Prop :=
  let val (ftz : Bool) (x : Word) : FV := fp32.input ftz x.toNat
  let sat (p : Bool) (r : FRes) : FRes := if p then { r with bits := satUnit r.bits } else r
  let add (rnd : Rnd) (ftz p sub : Bool) (b : Src) (ra : Reg) (g : Group) (f : Fibre) : FRes :=
    let y := val ftz (f.operand g b)
    sat p (fp32.fadd rnd ftz (f.drawFor g rnd 0) (val ftz (f.word g ra)) (if sub then y.neg else y))
  let mul (rnd : Rnd) (ftz p : Bool) (b : Src) (ra : Reg) (g : Group) (f : Fibre) : FRes :=
    sat p (fp32.fmul rnd ftz (f.drawFor g rnd 0) (val ftz (f.word g ra)) (val ftz (f.operand g b)))
  let fma (rnd : Rnd) (ftz p : Bool) (b : Src) (ra rc : Reg) (g : Group) (f : Fibre) : FRes :=
    sat p (fp32.fma rnd ftz (f.drawFor g rnd 0) (val ftz (f.word g ra)) (val ftz (f.operand g b)) (val ftz (f.word g rc)))
  (∀ gd d ra b rnd ftz p n, CompletesFp (.fadd gd d ra b rnd ftz p n)
    (fun g f => f.getsFloat g d (add rnd ftz p false b ra g f) n (drawsFor rnd 1)) (fun g f => (add rnd ftz p false b ra g f).fl)) ∧
  (∀ gd d ra b rnd ftz p n, CompletesFp (.fsub gd d ra b rnd ftz p n)
    (fun g f => f.getsFloat g d (add rnd ftz p true b ra g f) n (drawsFor rnd 1)) (fun g f => (add rnd ftz p true b ra g f).fl)) ∧
  (∀ gd d ra b rnd ftz p n, CompletesFp (.fmul gd d ra b rnd ftz p n)
    (fun g f => f.getsFloat g d (mul rnd ftz p b ra g f) n (drawsFor rnd 1)) (fun g f => (mul rnd ftz p b ra g f).fl)) ∧
  (∀ gd d ra b c rnd ftz p n, CompletesFp (.ffma gd d ra b c rnd ftz p n)
    (fun g f => f.getsFloat g d (fma rnd ftz p b ra c g f) n (drawsFor rnd 1)) (fun g f => (fma rnd ftz p b ra c g f).fl)) ∧
  (∀ d ra, CompletesFp (.faddShort d ra)
    (fun g f => f.getsFloat g d (add .rne false false false (.reg ra) d g f) none 0)
    (fun g f => (add .rne false false false (.reg ra) d g f).fl)) ∧
  (∀ d ra, CompletesFp (.fsubShort d ra)
    (fun g f => f.getsFloat g d (add .rne false false true (.reg ra) d g f) none 0)
    (fun g f => (add .rne false false true (.reg ra) d g f).fl)) ∧
  (∀ d ra, CompletesFp (.fmulShort d ra)
    (fun g f => f.getsFloat g d (mul .rne false false (.reg ra) d g f) none 0)
    (fun g f => (mul .rne false false (.reg ra) d g f).fl))

/-- R159 to R161: FMIN and FMAX with their NaN rules, FCMP with the flags of its four relations, FCLASS; and the short FMIN and FMAX. -/
def Claims.FloatCompare : Prop :=
  let nan (x : Nat) : Bool := 0x7F800000 < x % 2 ^ 31
  let sig (x : Nat) : Bool := nan x && x / 2 ^ 22 % 2 = 0
  let flush (ftz : Bool) (x : Nat) : Nat := if ftz && x / 2 ^ 23 % 2 ^ 8 = 0 then x / 2 ^ 31 * 2 ^ 31 else x
  let order (x : Nat) : Int := if x / 2 ^ 31 = 1 then -((x % 2 ^ 31 : Nat) : Int) - 1 else x
  let size (x : Nat) : Int := if x / 2 ^ 31 = 1 then -((x % 2 ^ 31 : Nat) : Int) else x
  let pick (greatest propagate ftz : Bool) (x y : Word) : Nat :=
    let p := flush ftz x.toNat
    let q := flush ftz y.toNat
    if (nan p && nan q) || (propagate && (nan p || nan q)) then 0x7FC00000
    else if nan p then q else if nan q then p
    else if greatest then (if order q < order p then p else q) else (if order p < order q then p else q)
  let invalid (x y : Word) : BitVec 5 := if sig x.toNat || sig y.toNat then 1 else 0
  let relation (ftz : Bool) (x y : Word) : CC :=
    let p := flush ftz x.toNat
    let q := flush ftz y.toNat
    if nan p || nan q then { s := false, z := false, c := true, v := true }
    else if size p < size q then { s := true, z := false, c := false, v := false }
    else if size p = size q then { s := false, z := true, c := true, v := false }
    else { s := false, z := false, c := true, v := false }
  let cls (x : Nat) : Nat :=
    let neg := x / 2 ^ 31 = 1
    let m := x % 2 ^ 31
    if sig x then 0 else if nan x then 1
    else if m = 0x7F800000 then (if neg then 2 else 9)
    else if 0x800000 ≤ m then (if neg then 3 else 8)
    else if 0 < m then (if neg then 4 else 7) else (if neg then 5 else 6)
  (∀ gd d ra b propagate ftz n, CompletesFp (.fmin gd d ra b propagate ftz n)
    (fun g f => let r := pick false propagate ftz (f.word g ra) (f.operand g b)
                (f.gets g d (BitVec.ofNat 32 r)).flagged n (floatFlags r))
    (fun g f => invalid (f.word g ra) (f.operand g b))) ∧
  (∀ gd d ra b propagate ftz n, CompletesFp (.fmax gd d ra b propagate ftz n)
    (fun g f => let r := pick true propagate ftz (f.word g ra) (f.operand g b)
                (f.gets g d (BitVec.ofNat 32 r)).flagged n (floatFlags r))
    (fun g f => invalid (f.word g ra) (f.operand g b))) ∧
  (∀ gd d ra b cond ftz n, CompletesFp (.fcmp gd d ra b cond ftz n)
    (fun g f => let k := relation ftz (f.word g ra) (f.operand g b)
                (f.gets g d (if condHolds cond k then 0xFFFFFFFF#32 else 0)).flagged n k)
    (fun g f => invalid (f.word g ra) (f.operand g b))) ∧
  (∀ gd d ra, Completes (.fclass gd d ra) (fun g f => f.gets g d (BitVec.ofNat 32 (2 ^ cls (f.word g ra).toNat)))) ∧
  (∀ d ra, CompletesFp (.fminShort d ra)
    (fun g f => f.gets g d (BitVec.ofNat 32 (pick false false false (f.word g d) (f.word g ra))))
    (fun g f => invalid (f.word g d) (f.word g ra))) ∧
  (∀ d ra, CompletesFp (.fmaxShort d ra)
    (fun g f => f.gets g d (BitVec.ofNat 32 (pick true false false (f.word g d) (f.word g ra))))
    (fun g f => invalid (f.word g d) (f.word g ra)))

/-- R162: HADD2, HMUL2 and HFMA2 compute each 16-bit element from the same elements of the sources, element 0 taking its draw first, with
the union of the exceptions and no CC; and the short HADD2 and HMUL2. -/
def Claims.PackedHalves : Prop :=
  let el (x : Word) (i : Nat) : Nat := x.toNat / 2 ^ (16 * i) % 2 ^ 16
  let fmt (bf : Bool) : FFmt := if bf then bf16 else fp16
  let packed (d : Reg) (one : Nat → FRes) (g : Group) (f : Fibre) (draws : Nat) : Fibre :=
    (f.gets g d (BitVec.ofNat 32 ((one 0).bits + (one 1).bits * 2 ^ 16))).drew draws
  let add (bf ftz : Bool) (rnd : Rnd) (x y : Word) (g : Group) (f : Fibre) (i : Nat) : FRes :=
    (fmt bf).fadd rnd ftz (f.drawFor g rnd i) ((fmt bf).input ftz (el x i)) ((fmt bf).input ftz (el y i))
  let mul (bf ftz : Bool) (rnd : Rnd) (x y : Word) (g : Group) (f : Fibre) (i : Nat) : FRes :=
    (fmt bf).fmul rnd ftz (f.drawFor g rnd i) ((fmt bf).input ftz (el x i)) ((fmt bf).input ftz (el y i))
  let fma (bf ftz : Bool) (rnd : Rnd) (x y z : Word) (g : Group) (f : Fibre) (i : Nat) : FRes :=
    (fmt bf).fma rnd ftz (f.drawFor g rnd i) ((fmt bf).input ftz (el x i)) ((fmt bf).input ftz (el y i))
      ((fmt bf).input ftz (el z i))
  (∀ gd d ra b rnd ftz bf, CompletesFp (.hadd2 gd d ra b rnd ftz bf)
    (fun g f => packed d (add bf ftz rnd (f.word g ra) (f.operand g b) g f) g f (drawsFor rnd 2))
    (fun g f => (add bf ftz rnd (f.word g ra) (f.operand g b) g f 0).fl ||| (add bf ftz rnd (f.word g ra) (f.operand g b) g f 1).fl)) ∧
  (∀ gd d ra b rnd ftz bf, CompletesFp (.hmul2 gd d ra b rnd ftz bf)
    (fun g f => packed d (mul bf ftz rnd (f.word g ra) (f.operand g b) g f) g f (drawsFor rnd 2))
    (fun g f => (mul bf ftz rnd (f.word g ra) (f.operand g b) g f 0).fl ||| (mul bf ftz rnd (f.word g ra) (f.operand g b) g f 1).fl)) ∧
  (∀ gd d ra b c rnd ftz bf, CompletesFp (.hfma2 gd d ra b c rnd ftz bf)
    (fun g f => packed d (fma bf ftz rnd (f.word g ra) (f.operand g b) (f.word g c) g f) g f (drawsFor rnd 2))
    (fun g f => (fma bf ftz rnd (f.word g ra) (f.operand g b) (f.word g c) g f 0).fl
      ||| (fma bf ftz rnd (f.word g ra) (f.operand g b) (f.word g c) g f 1).fl)) ∧
  (∀ d ra, CompletesFp (.hadd2Short d ra)
    (fun g f => packed d (add false false .rne (f.word g d) (f.word g ra) g f) g f 0)
    (fun g f => (add false false .rne (f.word g d) (f.word g ra) g f 0).fl ||| (add false false .rne (f.word g d) (f.word g ra) g f 1).fl)) ∧
  (∀ d ra, CompletesFp (.hmul2Short d ra)
    (fun g f => packed d (mul false false .rne (f.word g d) (f.word g ra) g f) g f 0)
    (fun g f => (mul false false .rne (f.word g d) (f.word g ra) g f 0).fl ||| (mul false false .rne (f.word g d) (f.word g ra) g f 1).fl))

/-- R163, R164: each special function completes with a fixed function of the bits of its operand, flushed with `.ftz` as R157 gives, which
gives the special inputs their results and exceptions; RCP and SQRT are correctly rounded, with the exceptions of IEEE 754; EXP2 is exact
for integers and overflows from 128 on, LOG2 is exact for powers of two, TANH is ±1.0 from 9.0 on; and every other result is inexact. How
far the others may lie from the exact value is not stated here: that bound is built into their free values (log entry 32). That EXP2 of an
integer below −126 raises nothing is the model's reading (log entry 87). -/
def Obligations.SpecialFunctions : Prop :=
  let flush (ftz : Bool) (x : Word) : Word := if ftz && x.toNat / 2 ^ 23 % 2 ^ 8 = 0 then BitVec.ofNat 32 (x.toNat / 2 ^ 31 * 2 ^ 31) else x
  let out (ftz : Bool) (r : FRes) : FRes := if ftz && 0 < r.bits % 2 ^ 31 && r.bits % 2 ^ 31 < 2 ^ 23 then
    { bits := r.bits / 2 ^ 31 * 2 ^ 31, fl := r.fl ||| 0x18 } else r
  let nv : FRes := { bits := 0x7FC00000, fl := 1 }
  let dz (b : Nat) : FRes := { bits := b, fl := 2 }
  let special (fn : SfuFn) (x : Word) : Option FRes :=
    if 0x7F800000 < x.toNat % 2 ^ 31 then some { bits := 0x7FC00000, fl := if x.toNat / 2 ^ 22 % 2 = 0 then 1 else 0 }
    else if x = 0xFF800000 then some (match fn with
      | .rcp => { bits := 0x80000000 }
      | .exp2 => { bits := 0 }
      | .tanh => { bits := 0xBF800000 }
      | _ => nv)
    else if x = 0x7F800000 then some (match fn with
      | .rcp | .rsq => { bits := 0 }
      | .sqrt | .exp2 | .log2 => { bits := 0x7F800000 }
      | .sin | .cos => nv
      | .tanh => { bits := 0x3F800000 })
    else if x = 0 ∨ x = 0x80000000 then some (match fn with
      | .rcp | .rsq => dz (x.toNat + 0x7F800000)
      | .log2 => dz 0xFF800000
      | .sqrt | .sin | .tanh => { bits := x.toNat }
      | .exp2 | .cos => { bits := 0x3F800000 })
    else if 2 ^ 31 ≤ x.toNat ∧ fn ∈ [.rsq, .sqrt, .log2] then some nv
    else if x = 0x3F800000 ∧ fn ∈ [.rcp, .rsq, .sqrt] then some { bits := 0x3F800000 }
    else if x = 0x3F800000 ∧ fn = .exp2 then some { bits := 0x40000000 }
    else if x = 0x3F800000 ∧ fn = .log2 then some { bits := 0 }
    else none
  let low (n : Nat) (k : Int) : Nat := if n = 2 ^ 23 ∧ k ≠ -149 then 4 * n - 1 else 4 * n - 2
  let p2 (k : Int) : Nat := 2 ^ k.toNat
  let powerOf2 (n : Int) : Nat := if -126 ≤ n then p2 23 * (n + 127).toNat else p2 (n + 149)
  let results (fn : SfuFn) (h : SfuFn → Word → FRes) (i : Bool → Instr) (d ra : Reg) (n : CcW) : Prop := ∀ ftz, CompletesFp (i ftz)
    (fun g f => f.getsFloat g d (out ftz (h fn (flush ftz (f.word g ra)))) n 0) (fun g f => (out ftz (h fn (flush ftz (f.word g ra)))).fl)
  ∃ h : SfuFn → Word → FRes,
    (∀ gd d ra n, results .rcp h (.rcp gd d ra · n) d ra n ∧ results .rsq h (.rsq gd d ra · n) d ra n ∧ results .sqrt h (.sqrt gd d ra · n) d ra n ∧
      results .exp2 h (.exp2 gd d ra · n) d ra n ∧ results .log2 h (.log2 gd d ra · n) d ra n ∧ results .sin h (.sin gd d ra · n) d ra n ∧
      results .cos h (.cos gd d ra · n) d ra n ∧ results .tanh h (.tanh gd d ra · n) d ra n) ∧
    (∀ fn x r, special fn x = some r → h fn x = r) ∧
    (∀ (x : Word) s m e, fp32.read x.toNat = .num s m e → m ≠ 0 →
      let sign := if s then 2 ^ 31 else 0
      let size := x.toNat % 2 ^ 31
      let v : Int := signed s (m * p2 (e + 149))
      (size ≤ 0x200000 → h .rcp x = { bits := sign + 0x7F800000, fl := 0x14 }) ∧
      (0x200000 < size → ∃ n k, fp32.read (h .rcp x).bits = .num s n k ∧ let c := m * p2 (k + e + 400)
        low n k * c ≤ 4 * 2 ^ 400 ∧ 4 * 2 ^ 400 ≤ (4 * n + 2) * c ∧ (h .rcp x).fl = if n * c = 2 ^ 400 then 0 else if 0x7E800000 < size then 0x18 else 0x10) ∧
      (s = false → ∃ n k, fp32.read (h .sqrt x).bits = .num false n k ∧ let c := m * p2 (e + 600)
        low n k ^ 2 * p2 (2 * k + 596) ≤ c ∧ c ≤ (4 * n + 2) ^ 2 * p2 (2 * k + 596) ∧ (h .sqrt x).fl = if n ^ 2 * p2 (2 * k + 600) = c then 0 else 0x10) ∧
      (s = false → x ≠ 0x3F800000 → (h .rsq x).fl = 0x10) ∧
      (128 * 2 ^ 149 ≤ v → h .exp2 x = { bits := 0x7F800000, fl := 0x14 }) ∧
      (∀ n : Int, v = n * 2 ^ 149 → -149 ≤ n → n ≤ 127 → h .exp2 x = { bits := powerOf2 n }) ∧
      (v < 128 * 2 ^ 149 → (∀ n : Int, -149 ≤ n → v ≠ n * 2 ^ 149) → (h .exp2 x).fl = if (h .exp2 x).bits % 2 ^ 31 < 2 ^ 23 then 0x18 else 0x10) ∧
      (∀ n : Int, s = false → -149 ≤ n → m * p2 (e + 149) = p2 (n + 149) →
        (h .log2 x).fl = 0 ∧ ∃ t a b, fp32.read (h .log2 x).bits = .num t a b ∧ signed t (a * p2 (b + 149)) = n * 2 ^ 149) ∧
      (s = false → (∀ j, m * p2 (e + 149) ≠ 2 ^ j) → (h .log2 x).fl = 0x10) ∧ (h .sin x).fl = 0x10 ∧ (h .cos x).fl = 0x10 ∧
      (h .tanh x).fl = 0x10 ∧ (0x41100000 ≤ size → (h .tanh x).bits = sign + 0x3F800000))

/-- R165 to R168: F2I, I2F, and the conversions to and from the narrow formats. -/
def Claims.Conversions : Prop :=
  let cut (x : Word) (w i : Nat) : Nat := x.toNat / 2 ^ (w * i) % 2 ^ w
  let half (bf : Bool) : FFmt := if bf then bf16 else fp16
  let quarter (e5 : Bool) : FFmt := if e5 then e5m2 else e4m3
  let narrow (fm : FFmt) (rnd : Rnd) (sat : Bool) (g : Group) (f : Fibre) (r : Reg) (i : Nat) : FRes :=
    fm.narrow rnd sat (f.drawFor g rnd i) (f.word g r).toNat
  let four (fm : FFmt) (rnd : Rnd) (sat : Bool) (g : Group) (f : Fibre) (ra : Reg) (w : Nat) : Nat :=
    (narrow fm rnd sat g f ra 0).bits + (narrow fm rnd sat g f (regPlus ra 1) 1).bits * 2 ^ w
      + (narrow fm rnd sat g f (regPlus ra 2) 2).bits * 2 ^ (2 * w) + (narrow fm rnd sat g f (regPlus ra 3) 3).bits * 2 ^ (3 * w)
  let fourFp (fm : FFmt) (rnd : Rnd) (sat : Bool) (g : Group) (f : Fibre) (ra : Reg) : BitVec 5 :=
    (narrow fm rnd sat g f ra 0).fl ||| (narrow fm rnd sat g f (regPlus ra 1) 1).fl
      ||| (narrow fm rnd sat g f (regPlus ra 2) 2).fl ||| (narrow fm rnd sat g f (regPlus ra 3) 3).fl
  let wide4 (fm : FFmt) (w base : Nat) (x : Word) (g : Group) (f : Fibre) (d : Reg) : Fibre :=
    let v (i : Nat) : Word := BitVec.ofNat 32 (fm.widen (cut (x >>> base) w i)).bits
    (((f.gets g d (v 0)).gets g (regPlus d 1) (v 1)).gets g (regPlus d 2) (v 2)).gets g (regPlus d 3) (v 3)
  let wideFp (fm : FFmt) (w base : Nat) (x : Word) : BitVec 5 :=
    let e (i : Nat) : BitVec 5 := (fm.widen (cut (x >>> base) w i)).fl
    e 0 ||| e 1 ||| e 2 ||| e 3
  (∀ gd d ra rnd u n, CompletesFp (.f2i gd d ra rnd u n)
    (fun g f =>
      let r := f2iOf rnd u (f.drawFor g rnd 0) (f.word g ra).toNat
      let v : Word := BitVec.ofNat 32 r.bits
      ((f.gets g d v).drew (drawsFor rnd 1)).flagged n (wordFlags v false (r.fl.getLsbD 0)))
    (fun g f => (f2iOf rnd u (f.drawFor g rnd 0) (f.word g ra).toNat).fl)) ∧
  (∀ gd d ra rnd u n, CompletesFp (.i2f gd d ra rnd u n)
    (fun g f => f.getsFloat g d (i2fOf rnd u (f.drawFor g rnd 0) (f.word g ra)) n (drawsFor rnd 1))
    (fun g f => (i2fOf rnd u (f.drawFor g rnd 0) (f.word g ra)).fl)) ∧
  (∀ gd d ra bf b rnd sat, CompletesFp (.cvp gd d ra (.h2 bf b) rnd sat)
    (fun g f => (f.gets g d (BitVec.ofNat 32 ((narrow (half bf) rnd sat g f ra 0).bits
      + (narrow (half bf) rnd sat g f b 1).bits * 2 ^ 16))).drew (drawsFor rnd 2))
    (fun g f => (narrow (half bf) rnd sat g f ra 0).fl ||| (narrow (half bf) rnd sat g f b 1).fl)) ∧
  (∀ gd d ra e5 rnd sat, CompletesFp (.cvp gd d ra (.q4 e5) rnd sat)
    (fun g f => (f.gets g d (BitVec.ofNat 32 (four (quarter e5) rnd sat g f ra 8))).drew (drawsFor rnd 4))
    (fun g f => fourFp (quarter e5) rnd sat g f ra)) ∧
  (∀ gd d ra h rnd sat, CompletesFp (.cvp gd d ra (.e2m1 h) rnd sat)
    (fun g f => (f.gets g d (let old := (f.word g d).toNat
      BitVec.ofNat 32 (if h then old % 2 ^ 16 + four e2m1 rnd sat g f ra 4 * 2 ^ 16
        else old / 2 ^ 16 * 2 ^ 16 + four e2m1 rnd sat g f ra 4))).drew (drawsFor rnd 4))
    (fun g f => fourFp e2m1 rnd sat g f ra)) ∧
  (∀ gd d ra bf, CompletesFp (.cvu gd d ra (.h2 bf))
    (fun g f => (f.gets g d (BitVec.ofNat 32 ((half bf).widen (cut (f.word g ra) 16 0)).bits)).gets g (regPlus d 1)
      (BitVec.ofNat 32 ((half bf).widen (cut (f.word g ra) 16 1)).bits))
    (fun g f => ((half bf).widen (cut (f.word g ra) 16 0)).fl ||| ((half bf).widen (cut (f.word g ra) 16 1)).fl)) ∧
  (∀ gd d ra e5, CompletesFp (.cvu gd d ra (.q4 e5)) (fun g f => wide4 (quarter e5) 8 0 (f.word g ra) g f d)
    (fun g f => wideFp (quarter e5) 8 0 (f.word g ra))) ∧
  (∀ gd d ra h, CompletesFp (.cvu gd d ra (.e2m1 h))
    (fun g f => wide4 e2m1 4 (if h then 16 else 0) (f.word g ra) g f d)
    (fun g f => wideFp e2m1 4 (if h then 16 else 0) (f.word g ra)))

/-- FMIN, FMAX, FCMP, FCLASS, the packed half-precision instructions, F2I, I2F, CVP and CVU (R97, R159, R160, R161, R162, R165, R166, R167,
R168). -/
def Obligations.FloatCompareHalvesConvert : Prop := Claims.FloatCompare ∧ Claims.PackedHalves ∧ Claims.Conversions

/-- R169 to R171: DOT4 and DOT8, SCALE, and RAND with its draws. -/
def Obligations.DotScaleRand : Prop :=
  let cut (x : Word) (w i : Nat) : Nat := x.toNat / 2 ^ (w * i) % 2 ^ w
  let int (u : Bool) (w v : Nat) : Int := if u = false ∧ 2 ^ (w - 1) ≤ v then (v : Int) - 2 ^ w else v
  let ints (ua ub sat : Bool) (n w : Nat) (x y z : Word) : Word :=
    let v := z.toInt + ((List.range n).map (fun i => int ua w (cut x w i) * int ub w (cut y w i))).sum
    if sat ∧ v < -2 ^ 31 then 0x80000000#32 else if sat ∧ 2 ^ 31 ≤ v then 0x7FFFFFFF#32 else BitVec.ofInt 32 v
  let floats (fa fb : FFmt) (rnd : Rnd) (n w : Nat) (g : Group) (f : Fibre) (ra b c : Reg) : FRes :=
    dotOf rnd (f.drawFor g rnd 0) ((List.range n).map (fun i =>
      (fa.read (cut (f.word g ra) w i), fb.read (cut (f.word g b) w i)))) (fp32.read (f.word g c).toNat)
  let quarter (e5 : Bool) : FFmt := if e5 then e5m2 else e4m3
  (∀ gd d ra b c ea eb rnd, CompletesFp (.dot4 gd d ra b c (.flt ea eb rnd))
    (fun g f => (f.gets g d (BitVec.ofNat 32 (floats (quarter ea) (quarter eb) rnd 4 8 g f ra b c).bits)).drew (drawsFor rnd 1))
    (fun g f => (floats (quarter ea) (quarter eb) rnd 4 8 g f ra b c).fl)) ∧
  (∀ gd d ra b c ua ub sat, Completes (.dot4 gd d ra b c (.int ua ub sat))
    (fun g f => f.gets g d (ints ua ub sat 4 8 (f.word g ra) (f.word g b) (f.word g c)))) ∧
  (∀ gd d ra b c rnd, CompletesFp (.dot8 gd d ra b c (.flt rnd))
    (fun g f => (f.gets g d (BitVec.ofNat 32 (floats e2m1 e2m1 rnd 8 4 g f ra b c).bits)).drew (drawsFor rnd 1))
    (fun g f => (floats e2m1 e2m1 rnd 8 4 g f ra b c).fl)) ∧
  (∀ gd d ra b c ua ub sat, Completes (.dot8 gd d ra b c (.int ua ub sat))
    (fun g f => f.gets g d (ints ua ub sat 8 4 (f.word g ra) (f.word g b) (f.word g c)))) ∧
  (∀ gd d ra b rnd byte n, CompletesFp (.scale gd d ra b rnd byte n)
    (fun g f => f.getsFloat g d (scaleOf rnd (f.drawFor g rnd 0) (f.word g ra).toNat (cut (f.word g b) 8 byte.val)) n
      (drawsFor rnd 1))
    (fun g f => (scaleOf rnd (f.drawFor g rnd 0) (f.word g ra).toNat (cut (f.word g b) 8 byte.val)).fl)) ∧
  (∀ gd d, Completes (.rand gd d .plain) (fun g f => (f.gets g d (f.draw g 0)).drew 1)) ∧
  (∀ gd d, Completes (.rand gd d .w64)
    (fun g f => ((f.gets g d (f.draw g 0)).gets g (regPlus d 1) (f.draw g 1)).drew 2)) ∧
  (∀ gd d, Completes (.rand gd d .f) (fun g f =>
    let k := (f.draw g 0).toNat / 256
    let v : Word := if k = 0 then 0 else
      BitVec.ofNat 32 ((Nat.log2 k + 103) * 2 ^ 23 + (k * 2 ^ (23 - Nat.log2 k) - 2 ^ 23))
    (f.gets g d v).drew 1))

/-! ## Cross-lane -/

/-- R176 to R179: SHFL, LPUSH, MATCH and VOTE over the executing fibres of the bundle. -/
def Claims.CrossLaneExchange : Prop :=
  let lane (w : Warp) (f : Fibre) : Nat := w.vlane f.lane
  let argument (g : Group) (f : Fibre) (b : LaneSrc) : Nat := match b with
    | .reg r => (f.word g r).toNat
    | .imm n => n.toNat
  let width (sp : Span) : Nat := match sp with
    | .w32 => 32 | .w16 => 16 | .w8 => 8 | .w4 => 4
  let rank (m : ShflMode) (n r x : Nat) : Option Nat := match m with
    | .at => some (x % n)
    | .add false => some ((r + x) % n)
    | .add true => if r + x < n then some (r + x) else none
    | .sub false => some ((r + (n - x % n)) % n)
    | .sub true => if x ≤ r then some (r - x) else none
    | .xor => some (r ^^^ (x % n))
  let source (w : Warp) (g : Group) (x : List Fibre) (b : LaneSrc) (m : ShflMode) (sp : Span) (f : Fibre) : Fibre :=
    let n := width sp
    ((rank m n (lane w f % n) (argument g f b)).bind (fun t => x.find? (fun k => lane w k = lane w f / n * n + t))).getD f
  let mask (w : Warp) (l : List Fibre) : Word := BitVec.ofNat 32 (l.foldl (fun m f => m + 2 ^ lane w f) 0)
  let key (g : Group) (ra : Reg) (two : Bool) (f : Fibre) : DWord := if two then f.pair g ra else (f.word g ra).setWidth 64
  let vote (w : Warp) (g : Group) (x : List Fibre) (ra : Reg) (o : VoteOp) : Word :=
    let yes := x.filter (fun f => f.word g ra ≠ 0)
    let all (p : Bool) : Word := if p then 0xFFFFFFFF#32 else 0
    match o with
    | .mask => mask w yes
    | .count => BitVec.ofNat 32 yes.length
    | .anyTrue => all (x.any (fun f => f.word g ra ≠ 0))
    | .allTrue => all (x.all (fun f => f.word g ra ≠ 0))
    | .same => all (x.all (fun f => x.all (fun k => k.word g ra = f.word g ra)))
  (∀ gd d ra b m sp n, CompletesWith (.shfl gd d ra b m sp n)
    (fun w g x f =>
      let k := source w g x b m sp f
      (f.gets g d (k.word g ra)).flagged n (wordFlags (k.word g ra) (lane w k ≠ lane w f) false))
    (fun _ _ _ _ => 0)) ∧
  (∀ gd d ra b n, CompletesWith (.lpush gd d ra b n)
    (fun w g x f =>
      let from_ := x.filter (fun k => argument g k b = lane w f)
      match from_.getLast? with
      | none => f.flagged n (wordFlags (f.word g d) false true)
      | some k => (f.gets g d (k.word g ra)).flagged n (wordFlags ((f.gets g d (k.word g ra)).word g d) (2 ≤ from_.length) false))
    (fun _ _ _ _ => 0)) ∧
  (∀ gd d ra two n, CompletesWith (.matchKeys gd d ra two n)
    (fun w g x f =>
      let same := x.filter (fun k => key g ra two k = key g ra two f)
      (f.gets g d (mask w same)).flagged n { s := false, z := same.length = 1, c := same.length = x.length, v := false })
    (fun _ _ _ _ => 0)) ∧
  (∀ gd d ra o n, CompletesWith (.vote gd d ra o n)
    (fun w g x f => (f.gets g d (vote w g x ra o)).flagged n (wordFlags (vote w g x ra o) false false))
    (fun _ _ _ _ => 0))

/-- R180, R181: REDL's tree over the lane numbers and SCANL's prefixes in ascending lane, with the identities, and the exceptions of every
combination raised. -/
def Claims.LaneReductions : Prop :=
  let lane (w : Warp) (f : Fibre) : Nat := w.vlane f.lane
  let key (u : Bool) (x : Word) : Int := if u then x.toNat else x.toInt
  let integer (u : Bool) (o : RedIntOp) (x y : Word) : Word := match o with
    | .add => x + y
    | .min => if key u y < key u x then y else x
    | .max => if key u x < key u y then y else x
    | .and => x &&& y
    | .or => x ||| y
    | .xor => x ^^^ y
  let nan (x : Word) : Bool := 0x7F800000 < x.toNat % 2 ^ 31
  let invalid (x y : Word) : BitVec 5 :=
    if (nan x && x.toNat / 2 ^ 22 % 2 = 0) || (nan y && y.toNat / 2 ^ 22 % 2 = 0) then 1 else 0
  let order (x : Word) : Int := if x.toNat / 2 ^ 31 = 1 then -((x.toNat % 2 ^ 31 : Nat) : Int) - 1 else x.toNat
  let flush (ftz : Bool) (x : Word) : Word := if ftz && x.toNat / 2 ^ 23 % 2 ^ 8 = 0 then x &&& 0x80000000#32 else x
  let pick (greatest ftz : Bool) (x y : Word) : Word :=
    if nan x && nan y then 0x7FC00000#32 else if nan x then flush ftz y else if nan y then flush ftz x
    else if greatest then (if order (flush ftz y) < order (flush ftz x) then flush ftz x else flush ftz y)
    else if order (flush ftz x) < order (flush ftz y) then flush ftz x else flush ftz y
  let join (sel : RedSel) (x y : Word) : Word × BitVec 5 := match sel with
    | .s32 o => (integer false o x y, 0)
    | .u32 o => (integer true o x y, 0)
    | .f32 .add ftz =>
      let r := fp32.fadd .rne ftz 0 (fp32.input ftz x.toNat) (fp32.input ftz y.toNat)
      (BitVec.ofNat 32 r.bits, r.fl)
    | .f32 .min ftz => (pick false ftz x y, invalid x y)
    | .f32 .max ftz => (pick true ftz x y, invalid x y)
  let merge (sel : RedSel) (x y : Option (Word × BitVec 5)) : Option (Word × BitVec 5) := match x, y with
    | some x, some y => some ((join sel x.1 y.1).1, x.2 ||| y.2 ||| (join sel x.1 y.1).2)
    | some x, none => some x
    | none, y => y
  let leaf (w : Warp) (g : Group) (x : List Fibre) (ra : Reg) (v : Nat) : Option (Word × BitVec 5) :=
    (x.find? (fun f => lane w f = v)).map (fun f => (f.word g ra, 0))
  let level (sel : RedSel) (t : Nat → Option (Word × BitVec 5)) (v : Nat) : Option (Word × BitVec 5) :=
    merge sel (t (2 * v)) (t (2 * v + 1))
  let tree (sel : RedSel) (t : Nat → Option (Word × BitVec 5)) : Word × BitVec 5 :=
    (level sel (level sel (level sel (level sel (level sel t)))) 0).getD (0, 0)
  let identity (sel : RedSel) : Word := match sel with
    | .s32 .add | .u32 .add | .s32 .or | .u32 .or | .s32 .xor | .u32 .xor | .u32 .max => 0
    | .s32 .min => 0x7FFFFFFF#32
    | .s32 .max => 0x80000000#32
    | .u32 .min | .s32 .and | .u32 .and => 0xFFFFFFFF#32
    | .f32 .add _ => 0x80000000#32
    | .f32 .min _ => 0x7F800000#32
    | .f32 .max _ => 0xFF800000#32
  let prefix_ (sel : RedSel) (g : Group) (ra : Reg) (l : List Fibre) : Word × BitVec 5 :=
    (l.foldl (fun acc f => merge sel acc (some (f.word g ra, 0))) none).getD (identity sel, 0)
  (∀ gd d ra sel, CompletesWith (.redl gd d ra sel)
    (fun w g x f => f.gets g d (tree sel (leaf w g x ra)).1) (fun w g x _ => (tree sel (leaf w g x ra)).2)) ∧
  (∀ gd d ra sel, CompletesWith (.scanl gd d ra sel false)
    (fun w g x f => f.gets g d (prefix_ sel g ra (x.filter (fun k => lane w k ≤ lane w f))).1)
    (fun w g x f => (prefix_ sel g ra (x.filter (fun k => lane w k ≤ lane w f))).2)) ∧
  (∀ gd d ra sel, CompletesWith (.scanl gd d ra sel true)
    (fun w g x f => f.gets g d (prefix_ sel g ra (x.filter (fun k => lane w k < lane w f))).1)
    (fun w g x f => (prefix_ sel g ra (x.filter (fun k => lane w k < lane w f))).2))

/-- R182, R183: TOPK with two different destinations writes to each member the value and index of the candidate that stands at its lane in
the rule's order, or the fill; with one register for both it is an illegal operand. -/
def Claims.LaneSelection : Prop :=
  let lane (w : Warp) (f : Fibre) : Nat := w.vlane f.lane
  let nan (x : Word) : Bool := 0x7F800000 < x.toNat % 2 ^ 31
  let rank (ty : TopkType) (x : Word) : Int := match ty with
    | .s32 => x.toInt
    | .u32 => x.toNat
    | .f32 => if nan x then -2 ^ 40 else if x.toNat / 2 ^ 31 = 1 then -((x.toNat % 2 ^ 31 : Nat) : Int) else x.toNat
  let ahead (ty : TopkType) (p q : Nat × Word) : Bool :=
    rank ty q.2 < rank ty p.2 || (rank ty p.2 = rank ty q.2 && p.1 < q.1)
  let fill (ty : TopkType) : Word := match ty with
    | .f32 => 0xFF800000#32
    | .s32 => 0x80000000#32
    | .u32 => 0
  let candidates (w : Warp) (g : Group) (x : List Fibre) (vs : Reg) (n : Nat) : List (Nat × Word) :=
    x.flatMap (fun f => (List.range n).map (fun j => (lane w f + 32 * j, f.word g (regPlus vs j))))
  let clean (ty : TopkType) (v : Word) : Word := if ty = .f32 ∧ nan v then 0x7FC00000#32 else v
  (∀ gd dv di vs (n : Fin 4) k ty, dv ≠ di → ∃ result : Warp → Group → List Fibre → Fibre → Word × Word,
    CompletesWith (.topk gd dv di vs n k ty)
      (fun w g x f => (f.gets g dv (result w g x f).1).gets g di (result w g x f).2) (fun _ _ _ _ => 0) ∧
    ∀ (w : Warp) (a : Active) (g : Group) (x : List Fibre), x.Sublist (w.bundle a) → ∀ f ∈ x,
      let c := candidates w g x vs (2 ^ n.val)
      let p (q : Nat × Word) : Prop := q ∈ c ∧ (c.filter (fun q' => ahead ty q' q)).length = lane w f
      if k.toNat < lane w f ∨ c.length ≤ lane w f then result w g x f = (fill ty, 0xFFFF#32)
      else ∃ q, p q ∧ result w g x f = (clean ty q.2, BitVec.ofNat 32 q.1)) ∧
  (∀ (s : State) (w : Warp) (a : Active) (g : Group) (x e gp : List Fibre) gd d vs n k ty,
    Issues s (.topk gd d d vs n k ty) w a g x e gp → w.bundle a ≠ [] →
    exec (.topk gd d d vs n k ty) s = .next (s.trapHere w a a.lanes { cls := 3 }))

/-- SHFL, LPUSH, MATCH, VOTE, REDL's tree, SCANL's prefixes and TOPK's order over the executing fibres (R176, R177, R178, R179, R180, R181,
R182, R183). The trap of TOPK with both destinations vz is the model's choice (log entry 68). -/
def Obligations.CrossLane : Prop := Claims.CrossLaneExchange ∧ Claims.LaneReductions ∧ Claims.LaneSelection

/-! ## Control -/

/-- R97, R106, R117: NOP changes nothing but its place in the clause; BRA and BRX move each executing fibre to the header that the offset or
the fibre's pair names, and no other fibre. -/
def Claims.Branches : Prop :=
  let offset (o : Off) : Int := match o with
    | .short v => v.toInt
    | .long v => v.toInt
  (∀ gd, Acts (.nop gd) {}) ∧
  (Acts .nopShort {}) ∧
  (∀ gd o, Acts (.bra gd o) { fibre := fun _ _ a _ _ f =>
    { f with pos := { hdr := BitVec.ofInt 52 (a.hdr.toNat + 8 * offset o) } } }) ∧
  (∀ gd ra, Acts (.brx gd ra) { fibre := fun _ _ _ g _ f => { f with pos := { hdr := (f.pair g ra).setWidth 52 } } })

/-- R57, R58, R85, R107: ENTER, CALL, CALLX and RET where the window has room and the fibre's entries have drained. The address that CALL
and CALLX push is that of the clause that follows, at the header's address plus the clause's length, rounded up to 8 bytes. -/
def Claims.Windows : Prop :=
  let ring (g : Group) : Nat := g.a - g.f
  let offset (o : Off) : Int := match o with
    | .short v => v.toInt
    | .long v => v.toInt
  let follow (a : Active) : VAddr := BitVec.ofNat 52 ((a.hdr.toNat + 4 * (a.header.toNat / 2 ^ 32 % 64) + 7) / 8 * 8)
  let pushed (a : Active) (g : Group) (f : Fibre) (k : Nat) (target : VAddr) : Fibre :=
    { f with links := { pc := follow a, k := k, nc := f.n } :: f.links, b := (f.b + k) % ring g, n := f.n - k,
             pos := { hdr := target } }
  (∀ gd n, Acts (.enter gd n) {
    ok := fun _ w _ g x => w.handler = none ∧ 1 ≤ n.toNat ∧ n.toNat ≤ min (ring g) 608
      ∧ ∀ f ∈ x, (f.links.map Link.k).sum + n.toNat ≤ ring g
    fibre := fun _ _ _ _ _ f => { f with n := n.toNat } }) ∧
  (∀ gd k o, Acts (.call gd k o) {
    ok := fun _ w a _ x => w.handler = none ∧ (∀ f ∈ w.bundle a, k.toNat ≤ f.n) ∧ ∀ f ∈ x, f.links.length < 16
    fibre := fun _ _ a g _ f => pushed a g f k.toNat (BitVec.ofInt 52 (a.hdr.toNat + 8 * offset o)) }) ∧
  (∀ gd ra k, Acts (.callx gd ra k) {
    ok := fun _ w a _ x => w.handler = none ∧ (∀ f ∈ w.bundle a, k.toNat ≤ f.n) ∧ ∀ f ∈ x, f.links.length < 16
    fibre := fun _ _ a g _ f => pushed a g f k.toNat ((f.pair g ra).setWidth 52) }) ∧
  (∀ gd, Acts (.ret gd) {
    ok := fun _ w a _ x => w.handler = none ∧ (∀ f ∈ w.bundle a, f.links ≠ [] ∨ f.depth ≠ 0)
      ∧ ∀ f ∈ x, f.links ≠ [] ∧ ∀ q ∈ w.queue, f.lane ∉ q.left
    fibre := fun _ _ _ g _ f => match f.links with
      | [] => f
      | l :: ls => { f with links := ls, b := (f.b + ring g - l.k % ring g) % ring g, n := l.nc, pos := { hdr := l.pc } } })

/-- R56, R57, R58, R99, R358: an ENTER out of range, a CALL with k above a fibre's frame, a RET with nothing to return to, and any of them
in a handler, are illegal operands, whatever the guard. -/
def Claims.WindowTraps : Prop :=
  ∀ (s : State) (w : Warp) (a : Active) (g : Group) (x e gp : List Fibre) (i : Instr), Issues s i w a g x e gp →
    ∀ f ∈ w.bundle a,
    (match i with
      | .enter _ n => w.handler ≠ none ∨ n.toNat = 0 ∨ min (g.a - g.f) 608 < n.toNat
      | .call _ k _ => w.handler ≠ none ∨ f.n < k.toNat
      | .callx _ _ k => w.handler ≠ none ∨ f.n < k.toNat
      | .ret _ => w.handler ≠ none ∨ (f.links = [] ∧ f.depth = 0)
      | _ => False) →
    exec i s = .next (s.trapHere w a a.lanes { cls := 3 })

/-- ENTER, CALL, CALLX and RET: windows, targets and traps (R56, R57, R58, R99, R107, R108). -/
def Obligations.WindowInstructions : Prop := Claims.Windows ∧ Claims.WindowTraps

/-- R27, R28, R110, R111: FORK by one fibre takes the first vacant lane of its warp's role on the core, numbers the child from the group's
counter, and gives it the frame as it stood; with no vacant lane it reports failure. EXIT takes its fibres away, and where no rejoin mask
and no barrier is in use it changes no other. -/
def Claims.ForkAndExit : Prop :=
  let target (a : Active) (o : Off) : VAddr := BitVec.ofInt 52 (a.hdr.toNat + 8 * (match o with
    | .short v => v.toInt
    | .long v => v.toInt))
  (∀ (s : State) (w : Warp) (a : Active) (g : Group) (f : Fibre) (e gp : List Fibre) gd d o n,
    Issues s (.fork gd d o n) w a g [f] e gp → NoOpenOperand (.fork gd d o n) g [f] e →
    hits ((s.producers w g f).map (fun p => p.seen w g f))
      ((List.range f.n).map (fun k => (f.b + k) % (g.a - g.f)) ++ (List.range g.f).map (fun k => g.a - g.f + k)) [] = false →
    ∃ t, exec (.fork gd d o n) s = .next t ∧ SameDefined s t ∧
      match (if g.forkCtr < 0xFFFFFFFF then s.vacantLane w else none) with
      | some (wid, lane) =>
        t.fibre? w.wid f.lane = some ((f.gets g d (BitVec.ofNat 32 g.forkCtr)).flagged n {}) ∧
        (t.group? w.gid).map Group.forkCtr = some (g.forkCtr + 1) ∧
        (s.fibre? wid lane = none → f.n ≤ g.a - g.f → ∃ c, t.fibre? wid lane = some c ∧ c.id = g.forkCtr
          ∧ c.pos = { hdr := target a o } ∧ c.b = 0 ∧ c.n = f.n ∧ c.links = [] ∧ c.depth = 0 ∧ c.c0 = {} ∧ c.c1 = {} ∧ c.c2 = {}
          ∧ c.c3 = {} ∧ c.flags = [] ∧ c.rngKey = f.rngKey ∧ c.rngCtr = 0 ∧ c.mcls = f.mcls ∧ c.mdl = f.mdl ∧ c.armed = []
          ∧ c.park = none
          ∧ (∀ k, k < f.n → c.at k = f.at ((f.b + k) % (g.a - g.f)))
          ∧ (∀ k, k < g.f → c.at (g.a - g.f + k) = f.at (g.a - g.f + k)))
      | none => t.fibre? w.wid f.lane = some ((f.gets g d 0xFFFFFFFF).flagged n { z := true })
          ∧ t.group? w.gid = some g ∧ ∀ k l, (k ≠ w.wid ∨ l ≠ f.lane) → t.fibre? k l = s.fibre? k l) ∧
  (∀ (s : State) (w : Warp) (a : Active) (g : Group) (x e gp : List Fibre) gd, Issues s (.exit gd) w a g x e gp →
    (∀ f ∈ x, w.drained f = true ∧ s.anyPending w g f = false ∧ s.fragmentsOut g f = false) →
    ∃ t, exec (.exit gd) s = .next t ∧ SameMemory s t ∧ (∀ f ∈ x, t.fibre? w.wid f.lane = none) ∧
      (w.jms = [] → g.bars = [] → ∀ l, (∀ f ∈ x, f.lane ≠ l) → t.fibre? w.wid l = s.fibre? w.wid l))

/-- NOP, BRA and BRX: where each executing fibre goes on; FORK's child and EXIT's end of its fibres (R27, R28, R97, R106, R110, R111, R117).
-/
def Obligations.BranchesForkExit : Prop := Claims.Branches ∧ Claims.ForkAndExit

/-- R68, R69, R88, R117 to R121: YIELD offers the warp, and parks its fibres where a pre-emption request is pending; MODE changes the mode
word from the next clause boundary on; TMSET and PHASE set the timers by the highest virtual lane. -/
def Claims.WarpRegisters : Prop :=
  let pending (s : State) (w : Warp) (g : Group) : Bool := (s.ctx? g.ctx).any (fun c => c.state = 1) && w.handler.isNone
  let saturated (n : Nat) : Word := BitVec.ofNat 32 (min n 0xFFFFFFFF)
  let comparator (cyc delta : Word) : Word :=
    if delta = 0 then 0 else if cyc + delta = 0 then 1 else cyc + delta
  (∀ gd, Acts (.yieldI gd) {
    fibre := fun s w a g _ f =>
      if pending s w g then { f with park := some { wait := .yielding, at_ := { hdr := a.hdr, idx := a.idx, mid := true } } } else f
    warp := fun _ _ _ _ _ v => { v with offered := true } }) ∧
  (∀ gd policy defer, Acts (.mode gd policy defer) {
    warp := fun _ _ _ _ _ v =>
      { v with modeNext := BitVec.ofBool (policy.getD (v.modeNext.getLsbD 1)) ++ BitVec.ofBool (defer.getD (v.modeNext.getLsbD 0)) } }) ∧
  (∀ gd delta, Acts (.tmset gd delta) {
    warp := fun s _ _ g x v => match x.getLast? with
      | some f => { v with tmcmp := comparator (BitVec.ofNat 32 (s.clock + v.cycOff)) (f.operand g delta) }
      | none => v }) ∧
  (∀ gd count margin, Acts (.phase gd count margin) {
    warp := fun s _ _ g x v => match x.getLast? with
      | some f => { v with phlim := saturated ((f.operand g count).toNat + (f.word g margin).toNat), phHeld := 0, phFrom := s.clock }
      | none => v })

/-- R115, R235: FWAIT goes on when every named flag of every executing fibre is 0, and drops the core's L1 lines unless its mask is empty;
while a named flag is not 0 it holds the bundle for the clock. -/
def Claims.FlagWait : Prop :=
  let clear (m : BitVec 12) (f : Fibre) : Prop := ∀ n, n < 12 → m.getLsbD n = true → f.flag n = 0
  (∀ gd m, Acts (.fwait gd m) {
    ok := fun _ _ _ _ x => ∀ f ∈ x, clear m f
    units := fun s w _ _ _ => if m = 0 then s else { s with l1 := s.l1.filter (fun q => q.core ≠ w.wid / 48) } }) ∧
  (∀ (s : State) (w : Warp) (a : Active) (g : Group) (x e gp : List Fibre) gd m, Issues s (.fwait gd m) w a g x e gp →
    ∀ f ∈ x, ¬ clear m f → exec (.fwait gd m) s = .next (s.advanceClock 1))

/-- R67, R124: what SREAD of each listed index gives, one word or two from a permitted index. -/
def Claims.SpecialRegisterReads : Prop :=
  let low (v : Nat) : Word := BitVec.ofNat 32 v
  let value (s : State) (w : Warp) (g : Group) (f : Fibre) (i : Nat) : Word :=
    let core := s.core (w.wid / 48)
    ((([(0x00, low (w.remap.idxOf f.lane)), (0x01, low f.id), (0x02, low g.index), (0x03, low g.ngroup), (0x04, low g.size),
      (0x05, low w.idx), (0x06, low (w.wid / 48)), (0x07, low (w.wid / 3072)), (0x08, low (w.wid % 48 / 12)),
      (0x09, low (match w.role with | .general => 0 | .copy => 1 | .matrix => 2 | .vector => 3)),
      (0x0A, low g.node.toNat), (0x0B, low (g.node.toNat / 2 ^ 32)), (0x0C, low g.depth),
      (0x10, low w.spill.toNat), (0x11, low (w.spill.toNat / 2 ^ 32)), (0x12, w.spillsz), (0x13, f.ksp), (0x14, f.depth),
      (0x18, low w.fpst.toNat), (0x19, low w.fair), (0x1A, low w.mode.toNat), (0x1B, low f.mcls.toNat), (0x1C, low f.mdl.toNat),
      (0x20, low (s.clock + w.cycOff)), (0x21, low ((s.clock + w.cycOff) / 2 ^ 32)), (0x22, w.tmcmp),
      (0x23, if w.phlim = 0 then w.phHeld else low (min (s.clock - w.phFrom) 0xFFFFFFFF)), (0x24, w.phlim),
      (0x28, low f.rngKey.toNat), (0x29, low (f.rngKey.toNat / 2 ^ 32)), (0x2A, low (f.rngKey.toNat / 2 ^ 64)),
      (0x2B, low (f.rngKey.toNat / 2 ^ 96)), (0x2C, low f.rngCtr.toNat), (0x2D, low (f.rngCtr.toNat / 2 ^ 32)),
      (0x30, core.fragw), (0x31, core.mdmiss0), (0x32, core.mdmiss1), (0x33, core.mdmiss2), (0x34, core.mdmiss3)] : Sparse Word).find?
        (fun e => e.1 = i)).map Prod.snd).getD 0
  let listed (i : Nat) : Prop := i ≤ 0x0C ∨ (0x10 ≤ i ∧ i ≤ 0x14) ∨ (0x18 ≤ i ∧ i ≤ 0x1C) ∨ (0x20 ≤ i ∧ i ≤ 0x24)
    ∨ (0x28 ≤ i ∧ i ≤ 0x2D) ∨ (0x30 ≤ i ∧ i ≤ 0x34)
  (∀ gd d idx, Acts (.sread gd d idx false) {
    ok := fun _ _ _ _ _ => listed idx.toNat
    fibre := fun s w _ g _ f => f.gets g d (value s w g f idx.toNat) }) ∧
  (∀ gd d idx, Acts (.sread gd d idx true) {
    ok := fun _ _ _ _ _ => idx.toNat = 0x0A ∨ idx.toNat = 0x10 ∨ idx.toNat = 0x20 ∨ idx.toNat = 0x28 ∨ idx.toNat = 0x2A ∨ idx.toNat = 0x2C
    fibre := fun s w _ g _ f => (f.gets g d (value s w g f idx.toNat)).gets g (regPlus d 1) (value s w g f (idx.toNat + 1)) }) ∧
  (∀ (s : State) (w : Warp) (a : Active) (g : Group) (x e gp : List Fibre) gd d idx two, Issues s (.sread gd d idx two) w a g x e gp →
    w.bundle a ≠ [] → ¬ (listed idx.toNat ∧ (two = true → idx.toNat = 0x0A ∨ idx.toNat = 0x10 ∨ idx.toNat = 0x20 ∨ idx.toNat = 0x28 ∨ idx.toNat = 0x2A ∨ idx.toNat = 0x2C)) →
    exec (.sread gd d idx two) s = .next (s.trapHere w a a.lanes { cls := 3 }))

/-- R6, R34, R67 to R69, R80, R118, R124, R171: what SWRITE does to each register that it may write, and the illegal operand for every other
index: fibre registers for each executing fibre, warp registers by the highest virtual lane; and a write to the generator's key or counter
waits for the draws of the entries before it. -/
def Claims.SpecialRegisterWrites : Prop :=
  let replace {n : Nat} (v : BitVec n) (k : Nat) (x : Word) : BitVec n :=
    BitVec.ofNat n (v.toNat / 2 ^ (32 * (k + 1)) * 2 ^ (32 * (k + 1)) + x.toNat * 2 ^ (32 * k) + v.toNat % 2 ^ (32 * k))
  let own (i : Nat) (v : Word) (f : Fibre) : Fibre :=
    if i = 0x13 then { f with ksp := v } else if i = 0x14 then { f with depth := v }
    else if i = 0x1B then { f with mcls := v.setWidth 2 } else if i = 0x1C then { f with mdl := v.setWidth 12 }
    else if 0x28 ≤ i ∧ i ≤ 0x2B then { f with rngKey := replace f.rngKey (i - 0x28) v }
    else if 0x2C ≤ i ∧ i ≤ 0x2D then { f with rngCtr := replace f.rngCtr (i - 0x2C) v } else f
  let shared (i : Nat) (v : Word) (q : Warp) : Warp :=
    if i = 0x10 then { q with spill := replace q.spill 0 v } else if i = 0x11 then { q with spill := replace q.spill 1 (v &&& 0xFFFFF#32) }
    else if i = 0x12 then { q with spillsz := v } else if i = 0x18 then { q with fpst := q.fpst &&& ~~~(v.setWidth 5) }
    else if i = 0x19 then { q with fair := if v.toNat = 0 then 1 else if 64 < v.toNat then 64 else v.toNat }
    else if i = 0x1A then { q with modeNext := v.setWidth 2 } else if i = 0x22 then { q with tmcmp := v } else q
  let permitted (w : Warp) (i : Nat) : Prop := (0x18 ≤ i ∧ i ≤ 0x1C) ∨ i = 0x22 ∨ (0x28 ≤ i ∧ i ≤ 0x2D)
    ∨ (0x10 ≤ i ∧ i ≤ 0x14 ∧ w.handler ≠ none)
  let pair (i : Nat) : Prop := i = 0x10 ∨ i = 0x28 ∨ i = 0x2A ∨ i = 0x2C
  (∀ gd ra idx, Acts (.swrite gd ra idx false) {
    ok := fun _ w _ _ x => permitted w idx.toNat ∧ (0x28 ≤ idx.toNat → ∀ f ∈ x, w.drawsOwed f = false)
    fibre := fun _ _ _ g _ f => own idx.toNat (f.word g ra) f
    warp := fun _ _ _ g x v => match x.getLast? with
      | some f => shared idx.toNat (f.word g ra) v
      | none => v }) ∧
  (∀ gd ra idx, Acts (.swrite gd ra idx true) {
    ok := fun _ w _ _ x => permitted w idx.toNat ∧ pair idx.toNat ∧ (0x28 ≤ idx.toNat → ∀ f ∈ x, w.drawsOwed f = false)
    fibre := fun _ _ _ g _ f => own (idx.toNat + 1) (f.word g (regPlus ra 1)) (own idx.toNat (f.word g ra) f)
    warp := fun _ _ _ g x v => match x.getLast? with
      | some f => shared (idx.toNat + 1) (f.word g (regPlus ra 1)) (shared idx.toNat (f.word g ra) v)
      | none => v }) ∧
  (∀ (s : State) (w : Warp) (a : Active) (g : Group) (x e gp : List Fibre) gd ra idx two, Issues s (.swrite gd ra idx two) w a g x e gp →
    w.bundle a ≠ [] → ¬ (permitted w idx.toNat ∧ (two = true → pair idx.toNat)) →
    exec (.swrite gd ra idx two) s = .next (s.trapHere w a a.lanes { cls := 3 })) ∧
  (∀ (s : State) (w : Warp) (a : Active) (g : Group) (x e gp : List Fibre) gd ra idx two, Issues s (.swrite gd ra idx two) w a g x e gp →
    permitted w idx.toNat ∧ (two = true → pair idx.toNat) → 0x28 ≤ idx.toNat → ∀ f ∈ x, w.drawsOwed f = true →
    exec (.swrite gd ra idx two) s = .next (s.advanceClock 1))

/-- YIELD, MODE, TMSET, PHASE, FWAIT, SREAD and SWRITE (R6, R34, R67, R68, R69, R88, R115, R118, R119, R120, R121, R124). That FWAIT drops
the lines whether or not a load returned is the model's reading (log entry 20). -/
def Obligations.WarpAndSpecialRegisters : Prop := Claims.WarpRegisters ∧ Claims.FlagWait ∧ Claims.SpecialRegisterReads ∧ Claims.SpecialRegisterWrites

/-- R38, R112: RJEN enrols, RJWAIT lets enrolled fibres arrive and park and the others go on, RJSTRIKE strikes, and the moment the arrived
set holds all of a non-empty enrolled set its fibres are released and the mask is idle. -/
def Obligations.RejoinMasks : Prop :=
  let among (x : List Fibre) (l : Nat) : Prop := ∃ f ∈ x, f.lane = l
  let released (m : JMask) : Prop := m.enr ≠ [] ∧ ∀ l ∈ m.enr, l ∈ m.arr
  let freed (n : Nat) (arr : List Nat) (f : Fibre) : Fibre := match f.park with
    | some { wait := .rejoin k, at_ := _ } => if k = n ∧ f.lane ∈ arr then { f with park := none } else f
    | _ => f
  ∀ (s : State) (w : Warp) (a : Active) (g : Group) (x e gp : List Fibre) (jm : Fin 8), x ≠ [] → swf {} w.jms = true →
  (∀ gd, Issues s (.rjen gd jm) w a g x e gp → ∃ t v, exec (.rjen gd jm) s = .next t ∧ t.warp? w.wid = some v ∧
    swf {} v.jms = true ∧ (v.jm jm.val).arr = (w.jm jm.val).arr ∧
    (∀ l, l ∈ (v.jm jm.val).enr ↔ l ∈ (w.jm jm.val).enr ∨ among x l) ∧ (∀ k, k ≠ jm.val → v.jm k = w.jm k) ∧
    Changes s t w x (fun f => f) (fun q => { q with jms := v.jms }) ∧ SameMemory s t ∧ SameUnits s t) ∧
  (∀ gd, Issues s (.rjwait gd jm) w a g x e gp → ∃ t v m, exec (.rjwait gd jm) s = .next t ∧ t.warp? w.wid = some v ∧
    swf {} v.jms = true ∧ m.enr = (w.jm jm.val).enr ∧
    (∀ l, l ∈ m.arr ↔ l ∈ (w.jm jm.val).arr ∨ (among x l ∧ l ∈ m.enr)) ∧
    (∀ k, k ≠ jm.val → v.jm k = w.jm k) ∧ SameMemory s t ∧ SameUnits s t ∧ (∀ k, k ≠ w.wid → t.warp? k = s.warp? k) ∧
    let arrived (f : Fibre) : Fibre := if f ∈ x ∧ f.lane ∈ m.enr then
      { f with park := some { wait := .rejoin jm.val, at_ := { hdr := a.hdr, idx := a.idx, mid := true } } } else f
    (released m → v.jm jm.val = {} ∧ ∀ f ∈ w.fibres, w.fibre? f.lane = some f →
      t.fibre? w.wid f.lane = some (freed jm.val m.arr (arrived f))) ∧
    (¬ released m → v.jm jm.val = m ∧ ∀ f ∈ w.fibres, w.fibre? f.lane = some f → t.fibre? w.wid f.lane = some (arrived f))) ∧
  (∀ gd, Issues s (.rjstrike gd jm) w a g x e gp → ∃ t v m, exec (.rjstrike gd jm) s = .next t ∧ t.warp? w.wid = some v ∧
    swf {} v.jms = true ∧ (∀ l, l ∈ m.enr ↔ l ∈ (w.jm jm.val).enr ∧ ¬ among x l) ∧
    (∀ l, l ∈ m.arr ↔ l ∈ (w.jm jm.val).arr ∧ ¬ among x l) ∧
    (∀ k, k ≠ jm.val → v.jm k = w.jm k) ∧ SameMemory s t ∧ SameUnits s t ∧ (∀ k, k ≠ w.wid → t.warp? k = s.warp? k) ∧
    (released m → v.jm jm.val = {} ∧ ∀ f ∈ w.fibres, w.fibre? f.lane = some f → t.fibre? w.wid f.lane = some (freed jm.val m.arr f)) ∧
    (¬ released m → v.jm jm.val = m ∧ ∀ f ∈ w.fibres, w.fibre? f.lane = some f → t.fibre? w.wid f.lane = some f))

/-- R113, R114, R122: BARA, BARW and BARS by fibres whose earlier accesses have been performed. The executing fibres arrive in ascending
virtual lane: one armed in the current phase, or that executes a BARS again after a trap in whose handler its phase ended, does not arrive;
the first arrival sets the count, and the one that makes it full ends the phase, so that a later one joins the new phase. Each fibre that
waits on a phase so ended leaves its wait. BARW parks the fibres armed in the current phase, and BARS after its arrivals. In a spanning
group a fibre that leaves drops the lines of its core's L1 (an acquire at group scope). -/
def Obligations.Barriers : Prop :=
  let bar (s : State) (gid b : Nat) : Barrier := ((s.group? gid).map (fun g => g.bar b)).getD {}
  let live (s : State) (gid : Nat) : Nat := ((s.warps.filter (fun v => v.gid = gid)).map (fun v => v.fibres.length)).sum
  let armed (f : Fibre) (b p : Nat) : Bool := (f.armed.find? (fun q => q.1 = b)).map Prod.snd == some p
  let disarmed (f : Fibre) (b : Nat) : Fibre := { f with armed := f.armed.filter (fun q => q.1 ≠ b) }
  let ended (a : Active) (b p : Nat) (f : Fibre) : Bool :=
    f.barred.any (fun r => r.1 = b && r.2.1 ≠ p && r.2.2.hdr = a.hdr && r.2.2.idx = a.idx)
  let arrive (a : Active) (all b : Nat) (cnt : Fibre → Nat) (r : Barrier × List Fibre) (f : Fibre) : Barrier × List Fibre :=
    if armed f b r.1.phase || ended a b r.1.phase f then (r.1, r.2 ++ [f])
    else
      let expect := if r.1.arrivals = 0 then cnt f else r.1.expect
      let full := (if expect = 0 then all else expect) ≤ r.1.arrivals + 1
      (if full then { phase := r.1.phase + 1, arrivals := 0, expect := expect } else { r.1 with arrivals := r.1.arrivals + 1, expect := expect },
        r.2 ++ [{ disarmed f b with armed := (disarmed f b).armed ++ [(b, r.1.phase)] }])
  let arrivals (s : State) (a : Active) (g : Group) (w : Warp) (b : Nat) (r : Reg) (x : List Fibre) : Barrier × List Fibre :=
    x.foldl (arrive a (live s w.gid) b (fun f => (f.word g r).toNat % 4096)) (g.bar b, [])
  let waits (a : Active) (b p : Nat) (f : Fibre) : Fibre :=
    if armed f b p then { f with park := some { wait := .barrier b p, at_ := { hdr := a.hdr, idx := a.idx, mid := true } }, barred := none }
    else { disarmed f b with barred := none }
  let leaves (s t : State) (w : Warp) (b from_ until_ : Nat) : Prop :=
    ∀ q ∈ s.warps, q.gid = w.gid → s.warp? q.wid = some q → ∀ h ∈ q.fibres, q.fibre? h.lane = some h → match h.park with
      | some { wait := .barrier c p, at_ := _ } => c = b → p < until_ → from_ ≤ p → t.fibre? q.wid h.lane = some { disarmed h b with park := none }
      | _ => True
  let drops (t : State) (core : Nat) : Prop := t.l1.all (fun l => l.core ≠ core) = true
  ∀ (s : State) (w : Warp) (a : Active) (g : Group) (x e gp : List Fibre) gd (b : Fin 16), swf {} g.bars = true → (∀ f ∈ x, f.park = none) →
  let k := g.bar b.val
  (∀ cnt, Issues s (.bara gd cnt b) w a g x e gp → (∀ f ∈ x, s.allPerformed w f = true) →
    let r := arrivals s a g w b.val cnt x
    ∃ t, exec (.bara gd cnt b) s = .next t ∧ SameMemory s t ∧ t.ops = s.ops ∧ bar t w.gid b.val = r.1 ∧
      (∀ p ∈ x.zip r.2, t.fibre? w.wid p.1.lane = some p.2) ∧ leaves s t w b.val k.phase r.1.phase ∧
      (1 < g.shares.length → k.phase < r.1.phase → ∀ q ∈ s.warps, q.gid = w.gid → drops t (q.wid / 48))) ∧
  (Issues s (.barw gd b) w a g x e gp →
    ∃ t, exec (.barw gd b) s = .next t ∧ SameMemory s t ∧ t.groups = s.groups ∧
      (∀ f ∈ x, t.fibre? w.wid f.lane = some (waits a b.val k.phase f)) ∧
      (1 < g.shares.length → (∃ f ∈ x, armed f b.val k.phase = false) → drops t (w.wid / 48))) ∧
  (∀ cnt, Issues s (.bars gd cnt b) w a g x e gp → (∀ f ∈ x, s.allPerformed w f = true) →
    let r := arrivals s a g w b.val cnt x
    ∃ t, exec (.bars gd cnt b) s = .next t ∧ SameMemory s t ∧ t.ops = s.ops ∧ bar t w.gid b.val = r.1 ∧
      (∀ p ∈ x.zip r.2, t.fibre? w.wid p.1.lane = some (waits a b.val r.1.phase p.2)) ∧ leaves s t w b.val k.phase r.1.phase ∧
      (1 < g.shares.length → k.phase < r.1.phase → ∀ q ∈ s.warps, q.gid = w.gid → drops t (q.wid / 48)))

/-- R116: WAITW, where the fibres' words can be read at once, leaves the wait for each fibre whose word compares as asked, and parks the
others; a waiting fibre reads its word again when 1 µs has passed, with the same two ends, and before then leaves only where the word
compares as asked. That a word is read again after 1 µs is the model's reading (log entry 63). -/
def Obligations.WordWait : Prop :=
  let holds (c : WaitCmp) (x y : Word) : Prop := match c with
    | .eq => x = y
    | .ne => x ≠ y
    | .geu => y.toNat ≤ x.toNat
    | .ltu => x.toNat < y.toNat
    | .ge => y.toInt ≤ x.toInt
    | .lt => x.toInt < y.toInt
  let address (g : Group) (f : Fibre) (ra : Reg) (off : BitVec 10) (sp : Space3) : Nat :=
    if sp = .g then (BitVec.ofInt 52 ((f.pair g ra).toNat + 4 * off.toInt)).toNat
    else (BitVec.ofInt 32 ((f.word g ra).toNat + 4 * off.toInt)).toNat
  let is (s : State) (r : List Byte × State) (v : Word) : Prop := r.2 = s ∧ v = BitVec.ofNat 32 (natOf r.1)
  let reads (s : State) (w : Warp) (g : Group) (sp : Space3) (ad : Nat) (v : Word) : Prop := match sp with
    | .s => is s (s.readScratch g ad 4) v
    | .d => ∃ c, s.ctx? g.ctx = some c ∧ is s (s.readDie c ad 4) v ∧ ∀ i < 4, ∀ p, c.dieAt (ad + i) = some p → s.poisoned p 1 = false
    | .g => ∃ pa k, s.translate (corePlaces (w.wid / 48)) g.ctx ad .read = (.ok (pa, k), s) ∧ s.poisoned pa 4 = false ∧
        is s (s.readBytes k pa 4) v
  let wait (s : State) (c : WaitCmp) (sp : Space3) (sc : Scope) (v : Word) (ad : Nat) (p : Pos) : Park :=
    { wait := .word c sp sc v ad (s.time + 1008000), at_ := p }
  let stands (a : Active) : Pos := { hdr := a.hdr, idx := a.idx, mid := true }
  (∀ (s : State) (w : Warp) (a : Active) (g : Group) (x e gp : List Fibre) gd ra rb off sc sp c (v : Fibre → Word),
    let i : Instr := .waitw gd ra rb off sc sp c
    Issues s i w a g x e gp →
    (∀ f ∈ x, s.accessCause w g sp.space (address g f ra off sp) 4 = none ∧
      (sp = .g → s.renaming w.gid f.id (a.part.getD s.nextId) [address g f ra off sp] = false) ∧
      s.ownBusy (s.issueExec w a g i x) (w.laneIn g i.shape f) sp.space (address g f ra off sp) 4 = false ∧
      reads s w g sp (address g f ra off sp) (v f)) →
    ∃ t, exec i s = .next t ∧ SameDefined s t ∧ ∀ f ∈ x,
      (holds c (v f) (f.word g rb) → t.fibre? w.wid f.lane = some { f with park := none }) ∧
      (¬ holds c (v f) (f.word g rb) → t.fibre? w.wid f.lane =
        some { f with park := some (wait s c sp sc (f.word g rb) (address g f ra off sp) (stands a)) })) ∧
  (∀ (s : State) (w : Warp) (g : Group) (f : Fibre) (lane : Nat) (c : WaitCmp) (sp : Space3) (sc : Scope) (x : Word)
    (ad due : Nat) (p : Pos) (v : Word), s.warp? w.wid = some w → w.fibre? lane = some f → s.group? w.gid = some g →
    f.park = some { wait := .word c sp sc x ad due, at_ := p } →
    s.faults.any (fun r => r.fetchers.any (fun q => q.1 = w.wid && q.2.contains lane)) = false →
    reads s w g sp ad v →
    ∃ t, exec (.waitwRecheck w.wid lane) s = .next t ∧ SameDefined s t ∧
      (holds c v x → t.fibre? w.wid lane = some { f with park := none }) ∧
      (¬ holds c v x → due ≤ s.time → t.fibre? w.wid lane = some { f with park := some (wait s c sp sc x ad p) }) ∧
      (¬ holds c v x → s.time < due → t = s))

/-! ## Exceptions -/

/-- R356, R357: a trap that is routed to the user handler, with no effect outside the registers left to complete (R144): the warp's handler
mode holds the frame's place and every live fibre's frame size, every fibre that is in no park of another kind than a blocking wait goes to
the user vector with a frame of 16 registers, and no register, flag or CC of a fibre changes; any other trap fails the node with its class's
code, and one in handler mode with 0x1F. -/
def Claims.TrapEntry : Prop :=
  ∀ (s : State) (w : Warp) (g : Group) (i : TrapInfo), s.warp? w.wid = some w → s.group? w.gid = some g →
    let user := w.handler = none ∧ w.vec ≠ 0 ∧ w.enMask.toNat / 2 ^ (i.cause.cls - 1) % 2 = 1
    (user → s.effectsOut w = [] → ∃ t v h, s.takeTrap w.wid i = some t ∧ t.warp? w.wid = some v ∧ v.handler = some h ∧
      h.frame = (w.spill.toNat + 32 * w.spillsz.toNat) % 2 ^ 52 ∧ h.live = w.fibres.map (fun f => (f.lane, f.n)) ∧
      h.stopReplays = i.entry.isSome ∧ v.active = none ∧ v.vec = w.vec ∧ v.enMask = w.enMask ∧ v.spill = w.spill ∧
      v.spillsz = w.spillsz ∧ v.mode = w.modeNext ∧ v.fpst = w.fpst ∧ v.jms = w.jms ∧
      (∀ f ∈ w.fibres, w.fibre? f.lane = some f → ∃ k, t.fibre? w.wid f.lane = some k ∧ k.n = 16 ∧ k.b = f.b ∧ k.regs = f.regs ∧
        k.links = f.links ∧ k.flags = f.flags ∧ k.c0 = f.c0 ∧ k.c1 = f.c1 ∧ k.c2 = f.c2 ∧ k.c3 = f.c3 ∧
        (s.ops.all (fun o => !o.parks) = true → s.faults.all (fun r => r.fetchers.isEmpty) = true →
          f.park.all (fun p => !p.wait.isOther) = true → k.pos = { hdr := w.vec } ∧ k.park = none))) ∧
    (¬ user → s.takeTrap w.wid i = some (s.acts g.ctx [.fail g.node (if w.handler ≠ none ∧ i.cause.cls ≤ 8 then 0x1F else 0x10 + i.cause.cls)
      (i.cause.cls + 256 * i.cause.sub + 65536 * i.cause.detail)]))

/-- R359 to R361, R363: where a trap's frame stands and what it holds, byte for byte: the header, the lane records, the saved registers, the
link entries and the queue. -/
def Claims.TrapFrame : Prop :=
  let le (n v : Nat) : List Byte := (List.range n).map (fun i => BitVec.ofNat 8 (v / 256 ^ i))
  let cc (c : CC) : Nat := 8 * c.s.toNat + 4 * c.z.toNat + 2 * c.c.toNat + c.v.toNat
  let mask (l : List Nat) : Nat := l.foldl (fun m k => m ||| 2 ^ k) 0
  ∀ (s : State) (w : Warp) (g : Group) (i : TrapInfo) (q : List (Nat × Nat)),
    let core := w.wid / 48
    let frame := (w.spill.toNat + 32 * w.spillsz.toNat) % 2 ^ 52
    let header : List Byte :=
      le 4 (i.cause.cls + 256 * i.cause.sub + 65536 * i.cause.detail) ++ le 4 (mask i.mask) ++ le 8 i.cause.addr ++ le 8 i.hdr.toNat
        ++ le 4 (i.idx + 65536 * ((i.entry.map (fun k => (q.findIdx? (fun e => e.1 = k)).getD 0xFFFF)).getD 0xFFFF))
        ++ le 4 q.length ++ le 4 (w.queue.map Entry.frameLen).sum
        ++ le 4 (if (s.ctx? g.ctx).any (fun c => c.state = 1) then 1 else 0)
        ++ le 4 (i.words.getD 0 0).toNat ++ le 4 (i.words.getD 1 0).toNat ++ le 4 (i.words.getD 2 0).toNat ++ List.replicate 204 0
    let lane (l : Nat) : List Byte := match w.fibre? l with
      | none => List.replicate 32 0
      | some f =>
        le 8 f.pos.hdr.toNat ++ le 4 (f.b + f.n * 2 ^ 10 + f.links.length * 2 ^ 20 + f.pos.idx * 2 ^ 25 + 2 ^ 29
            + (if l ∈ i.mask then 2 ^ 30 else 0) + (if s.otherParked w f then 2 ^ 31 else 0))
          ++ le 2 (cc f.c0 + 16 * cc f.c1 + 256 * cc f.c2 + 4096 * cc f.c3) ++ le 2 0
          ++ le 9 ((List.range 12).foldl (fun m k => m + f.flag k * 2 ^ (6 * k)) 0) ++ le 7 0
    let saved (s : State) (f : Fibre) : State :=
      (s.frameWrite core g.ctx (frame + 0x500 + 64 * f.lane)
          ((List.range 16).flatMap (fun j => le 4 (f.at ((f.b + j) % (g.a - g.f))).toNat))).frameWrite core g.ctx (frame + 0xD00 + 256 * f.lane)
        (f.links.reverse.flatMap (fun l => le 8 l.pc.toNat ++ le 4 (l.k + l.nc * 2 ^ 16) ++ le 4 0))
    s.writeFrame w g i q =
      (w.fibres.foldl saved ((s.frameWrite core g.ctx frame header).frameWrite core g.ctx (frame + 0x100)
        ((List.range 32).flatMap lane))).frameWrite core g.ctx (frame + 0x2D00) (w.queue.flatMap Entry.frameBytes)

/-- What taking a trap saves, where it goes, and what its frame holds byte for byte (R144, R356, R357, R359, R360, R361, R363). -/
def Obligations.TrapEntryAndFrame : Prop := Claims.TrapEntry ∧ Claims.TrapFrame

/-- R118, R364, R365, R367: TMASK sets the vector, the enable mask and the hold, from the highest virtual lane, and refuses the values that
the rule forbids. -/
def Claims.TrapMasks : Prop :=
  let with_ (x : List Fibre) (v : Warp) (u : Fibre → Warp) : Warp := match x.getLast? with
    | some f => u f
    | none => v
  (∀ gd ra, Acts (.tmask gd (.vec ra)) {
    ok := fun _ _ _ g x => ∀ f, x.getLast? = some f → (f.pair g ra).toNat % 8 = 0
    warp := fun _ _ _ g x v => with_ x v (fun f => { v with vec := (f.pair g ra).setWidth 52 }) }) ∧
  (∀ gd ra, Acts (.tmask gd (.en ra)) {
    ok := fun _ _ _ g x => ∀ f, x.getLast? = some f → (f.word g ra).toNat % 2 = 0 ∧ (f.word g ra).toNat < 2 ^ 11
    warp := fun _ _ _ g x v => with_ x v (fun f => { v with enMask := BitVec.ofNat 10 ((f.word g ra).toNat / 2) }) }) ∧
  (∀ gd, Acts (.tmask gd .hold) { warp := fun _ w _ _ _ v => if w.handler = none then { v with holdTraps := true } else v }) ∧
  (∀ gd, Acts (.tmask gd .release) { warp := fun _ w _ _ _ v => if w.handler = none then { v with holdTraps := false } else v }) ∧
  (∀ (s : State) (w : Warp) (a : Active) (g : Group) (x e gp : List Fibre) gd ra, Issues s (.tmask gd (.en ra)) w a g x e gp →
    (∃ f, x.getLast? = some f ∧ ((f.word g ra).toNat % 2 ≠ 0 ∨ 2 ^ 11 ≤ (f.word g ra).toNat)) →
    exec (.tmask gd (.en ra)) s = .next (s.trapHere w a a.lanes { cls := 3 })) ∧
  (∀ (s : State) (w : Warp) (a : Active) (g : Group) (x e gp : List Fibre) gd ra, Issues s (.tmask gd (.vec ra)) w a g x e gp →
    (∃ f, x.getLast? = some f ∧ (f.pair g ra).toNat % 8 ≠ 0) →
    exec (.tmask gd (.vec ra)) s = .next (s.trapHere w a a.lanes { cls := 3 }))

/-- R123, R356, R357: TRAP raises class 8 with its immediate for the executing fibres, whose clause has ended: with a user handler for the
class the warp enters handler mode, and without one the node fails with code 0x18. -/
def Claims.UserTrap : Prop :=
  ∀ (s : State) (w : Warp) (a : Active) (g : Group) (x e gp : List Fibre) gd imm, Issues s (.trap gd imm) w a g x e gp → x ≠ [] →
    let cause : Cause := { cls := 8, detail := imm.toNat }
    let info : TrapInfo := { cause := cause, mask := x.map Fibre.lane, hdr := a.hdr, idx := a.idx, words := a.here }
    ∀ t, (s.fresh.2.onWarp w.wid Warp.advance).takeTrap w.wid info = some t →
      exec (.trap gd imm) s = .next ((t.append w a g (.trap gd imm) e gp).onWarp w.wid Warp.advance |>.advanceClock 1)

/-- R122, R365, R366: TRET by at least one fibre, once the handler's accesses have been performed, leaves handler mode; where the frame's
bytes are defined, each live lane gets its saved registers, CC registers and frame size back and goes on at the place that its lane record
names, and one that the handler has forked takes its frame size from its record too. Outside a handler TRET and RINJ are illegal operands.
-/
def Obligations.TrapReturn : Prop :=
  (∀ (s : State) (w : Warp) (a : Active) (g : Group) (x e gp : List Fibre) (h : Handler) gd, Issues s (.tret gd) w a g x e gp →
    x ≠ [] → w.handler = some h → (∀ f ∈ x, s.handlerOwes w f Op.isAccess = false) →
    let frame := (w.spill.toNat + 32 * w.spillsz.toNat) % 2 ^ 52
    let word (d n : Nat) : Nat := (s.walkerNat g.ctx ((frame + d) % 2 ^ 52) n).1
    let defined (d n : Nat) : Prop := (s.walkerNat g.ctx ((frame + d) % 2 ^ 52) n).2 = s
    ∃ t v, exec (.tret gd) s = .next t ∧ t.warp? w.wid = some v ∧ v.handler = none ∧ v.active = none ∧ t.mem = s.mem ∧
      ((∀ f ∈ w.fibres, defined (0x100 + 32 * f.lane) 8 ∧ defined (0x108 + 32 * f.lane) 4 ∧ defined (0x10C + 32 * f.lane) 2 ∧
          ∀ j < 16, defined (0x500 + 64 * f.lane + 4 * j) 4) → ∀ f ∈ w.fibres, w.fibre? f.lane = some f → 16 ≤ g.a - g.f →
        let sizes := word (0x108 + 32 * f.lane) 4
        let ccs := word (0x10C + 32 * f.lane) 2
        ∃ k, t.fibre? w.wid f.lane = some k ∧ k.b = f.b ∧ k.links = f.links ∧ k.flags = f.flags ∧
          k.n = ((h.live.find? (fun l => l.1 = f.lane)).map Prod.snd).getD (sizes / 2 ^ 10 % 2 ^ 10) ∧
          k.pos.hdr = BitVec.ofNat 52 (word (0x100 + 32 * f.lane) 8) ∧ k.pos.idx = sizes / 2 ^ 25 % 16 ∧
          k.c0 = CC.ofNibble (ccs % 16) ∧ k.c1 = CC.ofNibble (ccs / 16 % 16) ∧ k.c2 = CC.ofNibble (ccs / 256 % 16) ∧
          k.c3 = CC.ofNibble (ccs / 4096 % 16) ∧
          ∀ j < 16, k.at ((f.b + j) % (g.a - g.f)) = BitVec.ofNat 32 (word (0x500 + 64 * f.lane + 4 * j) 4))) ∧
  (∀ (s : State) (w : Warp) (a : Active) (g : Group) (x e gp : List Fibre) gd, Issues s (.tret gd) w a g x e gp → w.bundle a ≠ [] →
    w.handler = none → exec (.tret gd) s = .next (s.trapHere w a a.lanes { cls := 3 })) ∧
  (∀ (s : State) (w : Warp) (a : Active) (g : Group) (x e gp : List Fibre) gd ra load, Issues s (.rinj gd ra load) w a g x e gp →
    w.bundle a ≠ [] → w.handler = none → exec (.rinj gd ra load) s = .next (s.trapHere w a a.lanes { cls := 3 }))

/-- R365, R368: RINJ in a handler takes its index from the lowest virtual lane; it does nothing for an index outside the frame's queue or an
entry that has replayed; `.drop` takes the entry out of the queue and lowers its flag in the fibres for which it had not replayed; `.load`
waits for the stores that the fibre has made before, and takes the frame's captures and mask for the fibres for which the entry has not
replayed. That RINJ takes the lowest lane, and the flag of a lane that `.load` drops, are the model's readings (log entries 18 and 67). -/
def Obligations.Reinjection : Prop :=
  ∀ (s : State) (w : Warp) (a : Active) (g : Group) (f : Fibre) (x e gp : List Fibre) (h : Handler) gd ra load,
    Issues s (.rinj gd ra load) w a g (f :: x) e gp → w.handler = some h →
    let entry : Option Entry := (h.queue[(f.word g ra).toNat]?).bind (fun q => w.queue.find? (fun k => k.seq = q.1))
    let owes : Bool := load && s.handlerOwes w f Op.stores
    let frame := (w.spill.toNat + 32 * w.spillsz.toNat) % 2 ^ 52
    let word (d n : Nat) : Nat := (s.walkerNat g.ctx ((frame + d) % 2 ^ 52) n).1
    let defined (d n : Nat) : Prop := (s.walkerNat g.ctx ((frame + d) % 2 ^ 52) n).2 = s
    (owes = true → exec (.rinj gd ra load) s = .next (s.advanceClock 1)) ∧
    (entry = none → owes = false → ∃ t, exec (.rinj gd ra load) s = .next t ∧ Changes s t w (f :: x) (fun k => k) (fun v => v) ∧
      SameMemory s t ∧ SameUnits s t ∧ (t.warp? w.wid).map Warp.queue = some w.queue) ∧
    (∀ k, entry = some k → load = false → ∃ t, exec (.rinj gd ra load) s = .next t ∧ SameMemory s t ∧ SameUnits s t ∧
      (t.warp? w.wid).map Warp.queue = some ((w.queue.map (fun q => if q.seq = k.seq then
        { q with left := q.left.filter (fun l => !k.left.contains l) } else q)).filter (fun q => !q.left.isEmpty)) ∧
      ∀ j ∈ w.fibres, w.fibre? j.lane = some j → k.left.Nodup → t.fibre? w.wid j.lane = some (match k.flag with
        | some n => if j.lane ∈ k.left ∧ j.lane ∉ k.uncounted then { j with flags := sset 0 j.flags n (j.flag n - 1) } else j
        | none => j)) ∧
    (∀ k off, entry = some k → load = true → owes = false → (h.queue[(f.word g ra).toNat]?).map Prod.snd = some off →
      ∃ t, exec (.rinj gd ra load) s = .next t ∧ t.mem = s.mem ∧
        let n := k.instr.shape.srcRegs.length
        (defined (off + 0x18) 4 → (∀ j < n, defined (off + 0x70 + 128 * n + 4 * j) 4) →
            (∀ j < n, ∀ l ∈ k.left, defined (off + 0x70 + 128 * j + 4 * l) 4) →
          let lanes := k.left.filter (fun l => word (off + 0x18) 4 / 2 ^ l % 2 = 1)
          ∃ q, (t.warp? w.wid).map Warp.queue = some ((w.queue.map (fun e => if e.seq = k.seq then { e with caps := q, left := lanes } else e)).filter
              (fun e => !e.left.isEmpty)) ∧
            ∀ j l, ((q.find? (fun c => c.src = j && c.lane = l)).map Capture.value) =
              if j < n ∧ l ∈ lanes ∧ word (off + 0x70 + 128 * n + 4 * j) 4 / 2 ^ l % 2 = 1
              then some (BitVec.ofNat 32 (word (off + 0x70 + 128 * j + 4 * l) 4)) else none))

/-! ## Deferring mode -/

/-- R105, R126, R127, R137, R139, R143: what an issue attempt does (but of PREF in deferring mode), with no lane's command already sent. In
deferring mode a deferrable instruction executes for the fibres whose guard is decided and true, that meet no pending register and no order,
and is deferred for those that do or whose guard is undecided; where the entry finds no room the bundle traps or parks by the capacity
policy. On an undecided guard a control instruction parks its bundle; a drain point waits while any fibre meets a pending register or an
earlier entry that blocks its access, and any other instruction while an executing one does; such a wait parks the bundle where what it
waits for waits for service, as RET and EXIT do that must wait for such an access. In waiting mode an instruction stalls on an undecided
guard, a pending register or an order of an executing fibre. -/
def Claims.IssueOrDefer : Prop :=
  ∀ (s : State) (w : Warp) (a : Active) (g : Group) (i : Instr), a.sent = [] → (w.deferring a = true → i.shape.op ≠ 0x85) →
    let undecided (f : Fibre) : Bool := s.guardPending w g f i.shape
    let held (f : Fibre) : Bool := s.meetsPending w g f i.shape || w.orderBlocked g f i
    let does (f : Fibre) : Bool := f.guarded i.shape.guard
    let awaits (f : Fibre) : Bool := s.ops.any (fun o => o.gid = w.gid && o.record.isSome &&
      ((o.dsts f.id).any (fun p => (g.places f.b (i.shape.srcRegs ++ i.shape.dstRegs)).contains p) ||
        (o.ccs f.id).any (fun c => (guardReads i.shape.guard ++ i.shape.ccr.toList ++ i.shape.ccw.toList).contains c)))
    let leaves (f : Fibre) : Bool := (i.shape.op = 0x08 || (i.shape.op = 0x05 && w.queue.any (fun q => q.left.contains f.lane))) &&
      s.ops.any (fun o => o.gid = w.gid && o.record.isSome && o.dsts f.id ≠ [])
    let e := (w.bundle a).filter (fun f => undecided f || (does f && held f))
    let x := (w.bundle a).filter does
    let used := ((w.queue.filter (fun q => !q.inflight)).map (fun q => max 1 ((q.instr.shape.srcRegs.length + 2) / 3))).sum
    let fits := used + max 1 ((i.shape.srcRegs.length + 2) / 3) ≤ g.resid
    (w.deferring a = true → isDeferrable i.shape.op = true →
      ((e = [] ∨ fits) → s.classify w a g i =
        .go ((w.bundle a).filter (fun f => !undecided f && does f && !held f)) e ((w.bundle a).filter undecided)) ∧
      (e ≠ [] → ¬ fits → s.classify w a g i = if w.mode.getLsbD 1 = true then .trap { cls := 5 } else .park)) ∧
    (w.deferring a = true → isDeferrable i.shape.op = false → (∃ f ∈ w.bundle a, undecided f = true) →
      s.classify w a g i = if isControl i.shape.op = true ∨ (∃ f ∈ w.bundle a, undecided f = true ∧ awaits f = true) then .park
        else .stall) ∧
    (w.deferring a = true → isDeferrable i.shape.op = false → (∀ f ∈ w.bundle a, undecided f = false) →
      ((∃ f ∈ x, leaves f = true) → s.classify w a g i = .park) ∧
      ((∀ f ∈ x, leaves f = false) → isDrain i.shape.op = true → s.classify w a g i =
        if (w.bundle a).any (fun f => s.meetsPending w g f i.shape || (i.isFibreAccess && w.orderBlocked g f i)) then
          (if (w.bundle a).any awaits then .park else .stall) else .go x [] []) ∧
      ((∀ f ∈ x, leaves f = false) → isDrain i.shape.op = false → s.classify w a g i =
        if x.any held then (if x.any awaits then .park else .stall) else .go x [] [])) ∧
    (w.deferring a = false → s.classify w a g i =
      if (w.bundle a).any (fun f => undecided f || (does f && held f)) then .stall else .go x [] [])

/-- R128, R130: where IADD is deferred for some fibres, one entry is appended that holds the instruction, its place, the window base of each
fibre, the fibres, those whose guard is undecided, and for each fibre the value of every source that is not pending; a deferred fibre keeps
its registers, flags and CC. -/
def Claims.DeferredEntry : Prop :=
  ∀ (s : State) (w : Warp) (a : Active) (g : Group) (x : List Fibre) (f0 : Fibre) (e gp : List Fibre) gd d ra b sat n,
    let i : Instr := .iadd gd d ra b sat n
    Issues s i w a g x (f0 :: e) gp → NoOpenOperand i g x (f0 :: e) →
    (∀ f ∈ x, ∀ k ∈ f0 :: e, f.lane ≠ k.lane) → ((f0 :: e).map Fibre.lane).Nodup →
    ∃ t v q, exec i s = .next t ∧ t.warp? w.wid = some v ∧ v.queue = w.queue ++ [q] ∧ q.instr = i ∧ q.words = a.here ∧
      q.hdr = a.hdr ∧ q.idx = a.idx ∧ (∀ f ∈ f0 :: e, q.baseOf f.lane = f.b) ∧ q.mask = (f0 :: e).map Fibre.lane ∧ q.left = q.mask ∧
      q.gpend = (gp.filter (fun f => (f0 :: e).contains f)).map Fibre.lane ∧ q.flag = none ∧ q.inflight = false ∧
      (∀ f ∈ f0 :: e, w.fibre? f.lane = some f → t.fibre? w.wid f.lane = some f ∧
        ∀ j r, i.shape.srcRegs[j]? = some r → q.captured f.lane j =
          if hits ((s.producers w g f).map (fun p => p.seen w g f)) (g.places f.b [r]) [] then none else some (f.word g r))

/-- What an issue attempt does: execute, defer with an entry, stall or trap (R126, R127, R128, R130, R137, R139). -/
def Obligations.IssueAndDeferral : Prop := Claims.IssueOrDefer ∧ Claims.DeferredEntry

/-- R131 to R133: an entry of IADD that is the ready head of one lane and of no other, with no ready replay before it at its port, replays
there: its result, formed from the captured values and else from the registers against the lane's base, is written against that base, and
the lane leaves the entry; where a guard then decided is false the lane only leaves it. -/
def Obligations.Replay : Prop :=
  ∀ (s : State) (w : Warp) (g : Group) (f : Fibre) (q : Entry) (d ra rb : Reg) gd,
    let source (j : Nat) (r : Reg) : Word := (q.captured f.lane j).getD (f.readAt g (q.baseOf f.lane) r)
    let left := { q with left := q.left.filter (fun l => l ≠ f.lane) }
    s.warp? w.wid = some w → s.group? w.gid = some g → w.fibre? f.lane = some f → w.replays = true → w.handler = none →
    q.instr = .iadd gd d ra (.reg rb) false none → q.flag = none → q.spoil = [] → w.queue.filter (fun k => k.seq = q.seq) = [q] →
    w.queue.find? (fun k => s.headReady w g k f.lane) = some q → s.readyLanes w g q = [f.lane] → f.lane ∈ w.remap → s.replayFirst w q = true →
    ∃ t v, exec (.residualReplay w.wid f.lane) s = .next t ∧ t.warp? w.wid = some v ∧
      v.queue = (w.queue.map (fun k => if k.seq = q.seq then left else k)).filter (fun k => !k.left.isEmpty) ∧
      t.fibre? w.wid f.lane = some (if f.lane ∈ q.gpend ∧ f.guarded gd = false then f
        else f.writeAt g (q.baseOf f.lane) d (source 0 ra + source 1 rb)) ∧
      (∀ l, l ≠ f.lane → t.fibre? w.wid l = s.fibre? w.wid l) ∧ SameMemory s t ∧ SameUnits s t

/-! ## Clauses and who runs them -/

/-- R31, R34, R82 to R86, R108: the one startable warp of a quadrant starts the clause at which its next bundle stands: the words are
fetched, the clause runs for the bundle from the place's index, each fibre's next clause is the one that follows the header, rounded up to 8
bytes, and a bundle that held the warp goes on with the time for which it has held it. -/
def Claims.ClauseStart : Prop :=
  ∀ (s s2 s3 : State) (core quad : Nat) (w : Warp) (g : Group) (f : Fibre) (b : List Fibre) (head body : List Byte),
    let h : DWord := BitVec.ofNat 64 (natOf head)
    let v := w.take (f :: b) s.clock
    let s1 := s.onWarp w.wid (fun q => q.take (f :: b) s.clock)
    let lanes := w.byVlane ((f :: b).map Fibre.lane)
    let mine (k : Fibre) : Option (Nat × Nat × Pos) :=
      if w.handler.isSome then k.barred else k.barred.filter (fun q => q.2.2.hdr = f.pos.hdr && q.2.2.idx = f.pos.idx)
    let following : VAddr := BitVec.ofNat 52 ((f.pos.hdr.toNat + 4 * (h.toNat / 2 ^ 32 % 64) + 7) / 8 * 8)
    s.warps.filter (fun q => q.wid / 48 = core && q.wid % 48 / 12 = quad && s.startable q) = [w] →
    s.warp? w.wid = some w → s.nextBundle w = some (f :: b) → s.group? w.gid = some g →
    f.pos.hdr.toNat % 8 = 0 → s1.fetchBytes v g f.pos.hdr.toNat 8 none = (.ok head, s2) → headerFault f.pos.hdr h = none →
    s2.fetchBytes v g (f.pos.hdr.toNat + 8) (4 * (h.toNat / 2 ^ 32 % 64 - 2)) (some (f.pos.hdr.toNat / 64)) = (.ok body, s3) →
    bodyFault h (wordsOfBytes body) = none → f.pos.idx ≤ h.toNat / 32 % 16 →
    (f.pos.mid = true ∨ w.handler ≠ none ∨ ∀ k ∈ f :: b, k.allFit g (clauseWindow h (wordsOfBytes body) k) = true) →
    ∃ t u a, exec (.clauseStart core quad) s = .next t ∧ t.warp? w.wid = some u ∧ u.active = some a ∧ u.holder = some lanes ∧
      a.lanes = lanes ∧ a.hdr = f.pos.hdr ∧ a.header = h ∧ a.words = wordsOfBytes body ∧ a.idx = f.pos.idx ∧
      u.mode = w.modeNext ∧ u.prio = false ∧ u.passed = 0 ∧ t.clock = s.clock + 1 ∧ SameMemory s3 t ∧
      (∀ l, w.holder = some l → (∃ k ∈ lanes, k ∈ l) → u.heldFrom = w.heldFrom) ∧
      (∀ l, w.holder = some l → (∀ k ∈ lanes, k ∉ l) → u.heldFrom = s.clock) ∧
      (∀ k ∈ w.fibres, w.fibre? k.lane = some k → t.fibre? w.wid k.lane =
        some (if k.lane ∈ lanes then { k with pos := { hdr := following }, park := none, barred := mine k } else k))

/-- R82, R99: the malformed-clause trap of the one startable warp: a header that is no multiple of 8 or has another marker is sub-code 1,
and of the other conditions of a header the smallest is reported; after the header, the instructions are looked at. -/
def Claims.MalformedClause : Prop :=
  (∀ (s : State) (core quad : Nat) (w : Warp) (g : Group) (f : Fibre) (b : List Fibre),
    let v := w.take (f :: b) s.clock
    let s1 := s.onWarp w.wid (fun q => q.take (f :: b) s.clock)
    let lanes := w.byVlane ((f :: b).map Fibre.lane)
    let info (sub : Nat) : TrapInfo := { cause := { cls := 2, sub := sub, addr := f.pos.hdr.toNat }, mask := lanes, hdr := f.pos.hdr }
    let traps (p : State) (sub : Nat) : Prop := ∀ t, p.takeTrap w.wid (info sub) = some t → exec (.clauseStart core quad) s = .next t
    s.warps.filter (fun q => q.wid / 48 = core && q.wid % 48 / 12 = quad && s.startable q) = [w] →
    s.nextBundle w = some (f :: b) → s.group? w.gid = some g →
    (f.pos.hdr.toNat % 8 ≠ 0 → traps s1 1) ∧
    (∀ head s2 sub, f.pos.hdr.toNat % 8 = 0 → s1.fetchBytes v g f.pos.hdr.toNat 8 none = (.ok head, s2) →
      headerFault f.pos.hdr (BitVec.ofNat 64 (natOf head)) = some sub → traps s2 sub) ∧
    (∀ head body s2 s3 sub, let h : DWord := BitVec.ofNat 64 (natOf head)
      f.pos.hdr.toNat % 8 = 0 → s1.fetchBytes v g f.pos.hdr.toNat 8 none = (.ok head, s2) → headerFault f.pos.hdr h = none →
      s2.fetchBytes v g (f.pos.hdr.toNat + 8) (4 * (h.toNat / 2 ^ 32 % 64 - 2)) (some (f.pos.hdr.toNat / 64)) = (.ok body, s3) →
      bodyFault h (wordsOfBytes body) = some sub → traps s3 sub)) ∧
  (∀ (p : VAddr) (h : DWord),
    let field (lo n : Nat) : Nat := h.toNat / 2 ^ lo % 2 ^ n
    headerFault p h =
      if p.toNat % 8 ≠ 0 ∨ field 0 2 ≠ 1 then some 1
      else if field 2 3 = 6 ∨ field 2 3 = 7 then some 2
      else if (12 ≤ field 21 4 ∧ field 21 4 ≤ 14) ∨ (12 ≤ field 25 4 ∧ field 25 4 ≤ 14) then some 3
      else if field 38 26 ≠ 0 then some 4
      else if field 32 6 < 3 ∨ 50 < field 32 6 then some 5 else none)

/-- A clause starts for its bundle, or traps as malformed (R31, R82, R83, R84, R85, R86, R99, R108). That the words are fetched at the start
is the model's choice (log entry 21). -/
def Obligations.ClauseStarts : Prop := Claims.ClauseStart ∧ Claims.MalformedClause

/-- R32, R34 to R36, R88: the fairness switch gives the warp to the longest-waiting ready bundle other than the holder, at a clause boundary
where the limit is reached or the warp was offered, or in mid-clause at a wait of R36 beyond the limit, where the holder keeps its place;
and a warp passed over for 256 clocks goes ahead. -/
def Claims.FairnessAndAge : Prop :=
  let given (w : Warp) (b : List Fibre) (clock : Nat) (at_ : Fibre → Fibre) (v : Warp) : Prop :=
    let fs := w.fibres.map (fun f => if (w.holder.getD []).contains f.lane then { at_ f with waitFrom := clock } else at_ f)
    v = { w with active := none, holder := some (w.byVlane (b.map Fibre.lane)), heldFrom := clock, offered := false, fibres := fs }
  (∀ (s : State) (w : Warp) (b : List Fibre), s.warp? w.wid = some w → w.active = none → w.longest (s.others w) = some b →
    (∃ k ∈ s.readyBundles w, ∃ f ∈ k, f.lane ∈ w.holder.getD []) →
    (w.offered = true ∨ w.heldFrom + 64 * w.fair + (if w.exempt then 64 else 0) ≤ s.clock) →
    ∃ t v, exec (.fairnessSwitch w.wid) s = .next t ∧ t.warp? w.wid = some v ∧ given w b s.clock (fun f => f) v ∧ SameMemory s t ∧ SameUnits s t) ∧
  (∀ (s : State) (w : Warp) (a : Active) (b : List Fibre), s.warp? w.wid = some w → w.active = some a → a.sent = [] →
    w.longest (s.others w) = some b → s.stalledInClause w = true →
    w.heldFrom + 64 * w.fair + (if a.header.getLsbD 31 then 64 else 0) ≤ s.clock →
    ∃ t v, exec (.fairnessSwitch w.wid) s = .next t ∧ t.warp? w.wid = some v ∧ SameMemory s t ∧ SameUnits s t ∧
      given w b s.clock (fun f => if a.lanes.contains f.lane then { f with pos := { hdr := a.hdr, idx := a.idx, mid := true } } else f) v) ∧
  (∀ (s : State) (w : Warp), s.warp? w.wid = some w → ∃ t, exec (.warpStarvationPriority w.wid) s = .next t ∧
    t.warp? w.wid = some { w with prio := w.prio || decide (256 ≤ w.passed) } ∧ SameMemory s t ∧ SameUnits s t)

/-- R59, R60, R62, R63, R108: the window-overflow handler for a bundle with nothing outstanding, whose stores meet no fault: each of its
fibres loses the fewest of its oldest link entries that make the clause's window effects fit, each as one record at the fibre's spill top,
with the ring positions of the caller's frame, the return address, k, the caller's frame size and the length; the records are written round
by round. -/
def Claims.WindowOverflow : Prop :=
  ∀ (s s1 s2 : State) (w : Warp) (g : Group) (f : Fibre) (b : List Fibre) (head body : List Byte) (m : Fibre → Nat),
    let h : DWord := BitVec.ofNat 64 (natOf head)
    let effects := clauseWindow h (wordsOfBytes body)
    let ring := g.a - g.f
    let left (k : Fibre) (j : Nat) : List Link := k.links.take (k.links.length - j)
    let entry (k : Fibre) (r : Nat) : Link := (left k r).getLast?.getD default
    let size (k : Fibre) (r : Nat) : Nat := ((List.range r).map (fun j => 4 * ((entry k j).k + 4))).sum
    let base (k : Fibre) (r : Nat) : Nat := (((k.b : Int) - ((left k r).map Link.k).sum) % ring).toNat
    let record (k : Fibre) (r : Nat) : List Word := let l := entry k r
      (List.range l.k).map (fun i => k.at ((base k r + i) % ring)) ++
        [BitVec.ofNat 32 l.pc.toNat, BitVec.ofNat 32 (l.pc.toNat / 2 ^ 32), BitVec.ofNat 32 (l.k + l.nc * 2 ^ 16), BitVec.ofNat 32 (l.k + 4)]
    let at_ (k : Fibre) (o : Nat) : Nat := (w.spill.toNat + 128 * (o / 4) + 4 * w.vlane k.lane + o % 4) % 2 ^ 52
    let put (q : State) (k : Fibre) (r : Nat) : State := (record k r).zipIdx.foldl (fun q x =>
      q.frameWrite (w.wid / 48) g.ctx (at_ k (k.ksp.toNat + size k r + 4 * x.2)) (bytesOf 4 x.1.toNat)) q
    let rounds := ((f :: b).map m).foldl max 0
    let cost (r : Nat) : Nat := 8 + ((((f :: b).filter (fun k => r < m k)).map (fun k => (entry k r).k)).foldl max 0 + 4 + 3) / 4
    s.warp? w.wid = some w → s.group? w.gid = some g → 0 < ring → s.startable w = true → s.nextBundle w = some (f :: b) →
    (∀ k ∈ f :: b, w.fibre? k.lane = some k ∧ ∀ l ∈ k.links, l.k < 1024) → ((f :: b).map Fibre.lane).Nodup →
    w.handler = none → w.queue = [] → s.ops = [] → f.pos.mid = false →
    s.fetchBytes w g f.pos.hdr.toNat 8 none = (.ok head, s1) → headerFault f.pos.hdr h = none →
    s1.fetchBytes w g (f.pos.hdr.toNat + 8) (4 * (h.toNat / 2 ^ 32 % 64 - 2)) (some (f.pos.hdr.toNat / 64)) = (.ok body, s2) → bodyFault h (wordsOfBytes body) = none →
    (∀ k ∈ f :: b, m k ≤ min k.links.length 16 ∧ Fibre.allFit { k with links := left k (m k) } g (effects k) = true ∧
      ∀ j < m k, Fibre.allFit { k with links := left k j } g (effects k) = false) → 0 < rounds →
    (∀ k ∈ f :: b, k.ksp.toNat + size k (m k) ≤ w.spillsz.toNat) →
    (∀ k ∈ f :: b, ∀ j < size k (m k) / 4, ∀ i < 4, s2.handlerFault g.ctx .write [at_ k (k.ksp.toNat + 4 * j) + i] = none) →
    ∃ t, exec (.windowOverflowTrap w.wid) s = .next t ∧ t.clock = s.clock + 48 + ((List.range rounds).map cost).sum ∧
      (∀ k ∈ f :: b, t.fibre? w.wid k.lane =
        some { k with links := left k (m k), ksp := k.ksp + BitVec.ofNat 32 (size k (m k)), depth := k.depth + m k }) ∧
      t.mem = ((List.range rounds).foldl (fun q r => ((f :: b).filter (fun k => r < m k)).foldl (fun q k => put q k r) q) s2).mem

/-- R61, R62: the window-underflow trap of a RET is that RET with the fills before it, where no load of them meets a fault: each executing
fibre with no resident entry takes the record that ends at its spill top, whose last word gave its length, back to its ring, and the RET
pops the entry that the record held; a fibre with a resident entry returns as always. -/
def Claims.WindowUnderflow : Prop :=
  ∀ (s : State) (w : Warp) (a : Active) (g : Group) (x e gp : List Fibre) gd (k : Fibre → Nat) (rec : Fibre → Nat → Word),
    let s0 := { s with cur := some w.wid }
    let ring := g.a - g.f
    let at_ (f : Fibre) (o : Nat) : Nat := (w.spill.toNat + 128 * (o / 4) + 4 * w.vlane f.lane + o % 4) % 2 ^ 52
    let word (f : Fibre) (j : Nat) : Nat := (rec f j).toNat
    let filled (f : Fibre) : Fibre := (List.range (k f)).foldl (fun (c : Fibre) (i : Nat) => c.put ((((f.b : Int) - k f + i) % ring).toNat) (rec f i)) f
    let returned (f : Fibre) : Fibre := match f.links with
      | l :: ls => { f with links := ls, b := (((f.b : Int) - l.k) % ring).toNat, n := l.nc, pos := { hdr := l.pc } }
      | [] => { filled f with
          links := [], ksp := f.ksp - BitVec.ofNat 32 (4 * (k f + 4)), depth := f.depth - 1, b := (((f.b : Int) - k f) % ring).toNat
          n := word f (k f + 2) / 2 ^ 16 % 1024, pos := { hdr := BitVec.ofNat 52 (word f (k f) + word f (k f + 1) % 2 ^ 20 * 2 ^ 32) } }
    let longest := ((x.filter (fun f => f.links.isEmpty)).map k).foldl max 0
    Issues s0 (.ret gd) w a g x e gp → a.instr? = some (.ret gd) → w.handler = none → 0 < ring →
    (∀ f ∈ w.bundle a, f.links ≠ [] ∨ f.depth ≠ 0) → (∃ f ∈ w.bundle a, f.guarded gd = true ∧ f.links = []) → (∃ f ∈ x, f.links = []) →
    (∀ f ∈ x, w.drained f = true ∧ f.b < ring) →
    (∀ f ∈ x, f.links = [] → k f ≤ 608 ∧ 4 * (k f + 4) ≤ f.ksp.toNat ∧ word f (k f + 3) = k f + 4 ∧ word f (k f + 2) % 1024 = k f ∧
      ∀ j < k f + 4, s.frameWord g.ctx (at_ f (f.ksp.toNat - 4 * (k f + 4) + 4 * j)) = (rec f j, s) ∧
        ∀ i < 4, s.handlerFault g.ctx .read [at_ f (f.ksp.toNat - 4 * (k f + 4) + 4 * j) + i] = none) →
    exec (.windowUnderflowTrap w.wid) s = exec (.ret gd) s0 ∧
    ∃ t, exec (.ret gd) s0 = .next t ∧ t.clock = s.clock + 56 + (longest + 4 + 3) / 4 + 1 ∧ t.mem = s.mem ∧
      ∀ f ∈ x, t.fibre? w.wid f.lane = some (returned f)

/-- The window handler's spill and fill (R59, R60, R61, R62, R138, R358). That the handler runs within the step, and where a record's bytes
lie for an unaligned %ksp, are the model's choices (log entries 19 and 84). -/
def Obligations.WindowSpills : Prop := Claims.WindowOverflow ∧ Claims.WindowUnderflow

/-- R119, R121, R122, R142, R364: the timer and phase traps are taken, outside a handler and with neither class held, when they are due at a
clause boundary of a warp with a fibre in no park but at a blocking point or a regroup, and clear their register; the trap of a fault at
replay is taken with its entry's place when no clause runs. -/
def Claims.PendingTraps : Prop :=
  (∀ (s : State) (w : Warp), s.warp? w.wid = some w → w.handler = none → w.holdTraps = false → w.active = none →
    w.tmcmp ≠ 0 → (BitVec.ofNat 32 (s.clock + w.cycOff) - w.tmcmp).toNat < 2 ^ 31 → (∃ f ∈ w.fibres, s.otherParked w f = false) →
    ∀ t, (s.onWarp w.wid (fun v => { v.stopBundle with tmcmp := 0 })).takeTrap w.wid { cause := { cls := 9 }, mask := [] } = some t →
      exec (.userTimerTrap w.wid) s = .next t) ∧
  (∀ (s : State) (w : Warp), s.warp? w.wid = some w → w.handler = none → w.holdTraps = false → w.active = none →
    w.phlim ≠ 0 → w.phlim.toNat < min (s.clock - w.phFrom) 0xFFFFFFFF → (∃ f ∈ w.fibres, s.otherParked w f = false) →
    let count := min (s.clock - w.phFrom) 0xFFFFFFFF
    ∀ t, (s.onWarp w.wid (fun v => { v.stopBundle with phHeld := BitVec.ofNat 32 count, phlim := 0 })).takeTrap w.wid { cause := { cls := 10 }, mask := [] } = some t →
      exec (.phaseTrap w.wid) s = .next t) ∧
  (∀ (s : State) (w : Warp) (r : ReplayTrap) (q : Entry), s.warp? w.wid = some w → w.replayTrap = some r → w.active = none →
    w.queue.find? (fun k => r.seq = some k.seq) = some q →
    ∀ t, s.takeTrap w.wid { cause := r.cause, mask := r.lanes, hdr := q.hdr, idx := q.idx, words := q.words, entry := r.seq } = some t →
      exec (.trapEntry w.wid) s = .next t)

/-- The fairness switch, the age rule, and the timer, phase and replay traps that are due (R32, R34, R35, R36, R88, R119, R121, R122, R142,
R364). -/
def Obligations.FairnessAndPendingTraps : Prop := Claims.FairnessAndAge ∧ Claims.PendingTraps

/-- R40 to R43, R137, R184: REGROUP by fibres with no entries whose conditions hold parks them, one that breaks a condition takes the trap
of class 7, and in deferring mode the fibres wait for their entries; once every fibre of the collective has arrived and the crossbar has had
its 64 clocks and its transfers, the collective is released: every fibre goes on, its registers, frame, flags, links and CC with it, and in
each role the fibres stand in warps and virtual lanes in the order of key and `%fibre`. The physical lane of a fibre that moves is free (log
entry 25). -/
def Obligations.Regroup : Prop :=
  (∀ (s : State) (w : Warp) (a : Active) (g : Group) (x e gp : List Fibre) gd ra, Issues s (.regroup gd ra) w a g x e gp → x ≠ [] →
    (∀ f ∈ x, w.drained f = true) → (∀ f ∈ x, f.depth = 0) → w.jms = [] →
    (∀ c ∈ g.convs, ∀ q ∈ c.2.sigs, ∀ f ∈ x, q.fid ≠ f.id) →
    (∀ p, s.gathering w.gid (w.wid / 48) = some p → p.hdr = a.hdr ∧ p.idx = a.idx) →
    ∃ t, exec (.regroup gd ra) s = .next t ∧ SameMemory s t ∧ (∀ n, n ≠ w.wid → t.warp? n = s.warp? n) ∧
      (∀ l, (∀ f ∈ x, f.lane ≠ l) → t.fibre? w.wid l = s.fibre? w.wid l) ∧
      ∀ f ∈ x, t.fibre? w.wid f.lane = some { f with park := some { wait := .regroup (f.word g ra), at_ := { hdr := a.hdr, idx := a.idx, mid := true } } }) ∧
  (∀ (s : State) (w : Warp) (a : Active) (g : Group) (x e gp : List Fibre) gd ra, Issues s (.regroup gd ra) w a g x e gp → x ≠ [] →
    (w.deferring a = true → (∃ f ∈ x, w.drained f = false) → ∃ t, exec (.regroup gd ra) s = .next t ∧ t.clock = s.clock + 1 ∧
      t.warps = s.warps ∧ SameMemory s t) ∧
    ((∀ f ∈ x, w.drained f = true) ∨ (w.deferring a = false ∧ ∀ f ∈ x, w.drained f = true ∨ ∃ q ∈ w.queue, q.inflight = false ∧ f.lane ∈ q.left) →
      (∃ f ∈ x, f.depth ≠ 0 ∨ w.jms ≠ [] ∨ w.drained f = false ∨ (∃ c ∈ g.convs, ∃ q ∈ c.2.sigs, q.fid = f.id) ∨
        ∃ p, s.gathering w.gid (w.wid / 48) = some p ∧ (p.hdr ≠ a.hdr ∨ p.idx ≠ a.idx)) →
      ∀ t, s.takeTrap w.wid { cause := { cls := 7 }, mask := a.lanes, hdr := a.hdr, idx := a.idx, words := a.here } = some t →
        exec (.regroup gd ra) s = .next t)) ∧
  (∀ (s : State) (g : Group) (core last : Nat) (p : Pos),
    let ws := s.warps.filter (fun w => w.gid = g.gid && w.wid / 48 = core && w.role != .copy)
    s.group? g.gid = some g → g.regroups.find? (fun r => r.1 = core) = some (core, p, last) → ws ≠ [] →
    (s.warps.map Warp.wid).Nodup → (∀ w ∈ ws, w.idx < 64 ∧ (w.fibres.map Fibre.lane).Nodup ∧ w.fibres.length ≤ 32 ∧ ∀ f ∈ w.fibres, f.lane < 32) →
    (ws.map Warp.idx).Nodup → (ws.flatMap (fun w => w.fibres.map Fibre.id)).Nodup →
    (∃ w ∈ ws, w.fibres ≠ []) → (∀ w ∈ ws, ∀ f ∈ w.fibres, ∃ q k, f.park = some q ∧ q.wait = .regroup k) →
    last + 64 + (crossbarBytes g (regroupRoles.flatMap (regroupMoves ws)) + 1023) / 1024 ≤ s.clock →
    ∃ t, exec (.regroupRelease g.gid core) s = .next t ∧ SameDefined s t ∧
      (∀ w ∈ ws, ∀ f ∈ w.fibres, ∃ v c, v ∈ t.warps ∧ v.gid = g.gid ∧ v.role = w.role ∧ v.wid / 48 = core ∧ c ∈ v.fibres ∧ c.id = f.id ∧
        c.park = none ∧ c.n = f.n ∧ c.b = f.b ∧ c.pos = f.pos ∧ c.links = f.links ∧ c.flags = f.flags ∧ c.regs = f.regs ∧ c.c0 = f.c0 ∧ c.c1 = f.c1 ∧ c.c2 = f.c2 ∧ c.c3 = f.c3 ∧ c.rngKey = f.rngKey ∧
        c.rngCtr = f.rngCtr ∧ (v.wid = w.wid → c.lane = f.lane)) ∧
      (∀ w ∈ ws, ∀ f ∈ w.fibres, ∀ w' ∈ ws, ∀ f' ∈ w'.fibres, w.role = w'.role → ∀ q q' k k', f.park = some q → f'.park = some q' →
        q.wait = .regroup k → q'.wait = .regroup k' → (k.toNat < k'.toNat ∨ (k = k' ∧ f.id < f'.id)) →
        ∀ v ∈ t.warps, ∀ v' ∈ t.warps, ∀ c ∈ v.fibres, ∀ c' ∈ v'.fibres, v.gid = g.gid → v'.gid = g.gid → v.wid / 48 = core → v'.wid / 48 = core →
          c.id = f.id → c'.id = f'.id → v.role = w.role → v'.role = w.role →
          v.idx < v'.idx ∨ (v.wid = v'.wid ∧ v.vlane c.lane < v.vlane c'.lane)))

/-! ## Memory -/

/-- R185, R186, R206 to R208: LD of its five widths and the short LD.s: from the core's own share of `.s` the words are in the registers at
once and no flag counts; from elsewhere a load is in flight; a misaligned or outlying address of any executing fibre is an illegal operand,
with the first such address. That an access pins its pages at issue is the model's choice (log entry 26). -/
def Obligations.Loads : Prop :=
  let bytes (w : Width) : Nat := match w with
    | .b8 | .s8 => 1
    | .b16 | .s16 => 2
    | .b32 => 4
    | .b64 => 8
    | .b128 => 16
  let lands (f : Fibre) (g : Group) (w : Width) (d : Reg) (v : Nat) : Fibre := match w with
    | .b8 | .b16 | .b32 => f.gets g d (BitVec.ofNat 32 v)
    | .s8 => f.gets g d ((BitVec.ofNat 8 v).signExtend 32)
    | .s16 => f.gets g d ((BitVec.ofNat 16 v).signExtend 32)
    | .b64 => f.getsPair g d (BitVec.ofNat 64 v)
    | .b128 => (f.getsPair g d (BitVec.ofNat 64 v)).getsPair g (regPlus d 2) (BitVec.ofNat 64 (v / 2 ^ 64))
  let address (g : Group) (f : Fibre) (sp : Space) (ra : Reg) (off : Int) : Nat :=
    if sp = .g then (((f.pair g ra).toNat + off) % 2 ^ 52).toNat else (((f.word g ra).toNat + off) % 2 ^ 32).toNat
  let places (w : Width) (d : Reg) (g : Group) (f : Fibre) : List Nat :=
    let n := if w = .b64 then 2 else if w = .b128 then 4 else 1
    (List.range n).filterMap (fun i => g.place f.b (regPlus d i))
  let own (s : State) (w : Warp) (g : Group) (ad n : Nat) : Prop := ad % n = 0 ∧ ad < g.scratch ∧
    (∃ p, g.scratchAt ad = some (w.wid / 48, p)) ∧ (s.readScratch g ad n).2 = s ∧
    ∀ o ∈ s.ops, o.gid = w.gid → ∀ p ∈ o.touched, p.1 = Space.s → p.2 < ad ∨ ad + n ≤ p.2
  let value (s : State) (g : Group) (ad n : Nat) : Nat := natOf (s.readScratch g ad n).1
  let dropped (s : State) (w : Warp) (g : Group) (acq : Option Scope) : State := match acq with
    | some .fibre | none => s
    | some .group => if g.shares.length ≤ 1 then s else { s with l1 := s.l1.filter (fun x => x.core ≠ w.wid / 48) }
    | some _ => { s with l1 := s.l1.filter (fun x => x.core ≠ w.wid / 48) }
  let virtual (w : Warp) (f : Fibre) (o : Nat) : Nat := (w.spill.toNat + 128 * (o / 4) + 4 * w.vlane f.lane + o % 4) % 2 ^ 52
  let home (w : Warp) (f : Fibre) (sp : Space) (ad : Nat) : Nat := if sp = .k then virtual w f ad else ad
  let fits (s : State) (w : Warp) (g : Group) (sp : Space) (ad n : Nat) : Prop := ad % n = 0 ∧ match sp with
    | .g => True
    | .s => ad < g.scratch
    | .k => ad + n ≤ w.spillsz.toNat
    | .d => ∃ c, s.ctx? g.ctx = some c ∧ c.dieHolds ad n = true
  (∀ gd d ra off fs wd na acq, Acts (.ld gd d ra off fs wd .s na acq) {
    ok := fun s w _ g x => ∀ f ∈ x, own s w g (address g f .s ra off.toInt) (bytes wd)
    fibre := fun s _ _ g _ f => lands f g wd d (value s g (address g f .s ra off.toInt) (bytes wd))
    units := fun s w _ g _ => dropped s w g acq }) ∧
  (∀ d ra n, Acts (.ldSB32Short d ra n) {
    ok := fun s w _ g x => ∀ f ∈ x, own s w g (address g f .s ra (4 * n.toNat)) 4
    fibre := fun s _ _ g _ f => f.gets g d (BitVec.ofNat 32 (value s g (address g f .s ra (4 * n.toNat)) 4)) }) ∧
  (∀ d ra n, Acts (.ldSB64Short d ra n) {
    ok := fun s w _ g x => ∀ f ∈ x, own s w g (address g f .s ra (8 * n.toNat)) 8
    fibre := fun s _ _ g _ f => f.getsPair g d (BitVec.ofNat 64 (value s g (address g f .s ra (8 * n.toNat)) 8)) }) ∧
  (∀ gd d ra off fs wd sp na acq, Launches (.ld gd d ra off fs wd sp na acq) {
    ok := fun s w _ g x => ∀ f ∈ x, let ad := address g f sp ra off.toInt
      fits s w g sp ad (bytes wd) ∧ (sp = .s → ∀ p, g.scratchAt ad ≠ some (w.wid / 48, p)) ∧ Serves s w g sp (home w f sp ad) (bytes wd) .read
    kind := fun _ w g f => .load sp (home w f sp (address g f sp ra off.toInt)) wd (places wd d g f) na acq }) ∧
  (∀ (s : State) (w : Warp) (a : Active) (g : Group) (x e gp : List Fibre) gd d ra off fs wd sp na acq (f : Fibre),
    let ad (f : Fibre) := address g f sp ra off.toInt
    Issues s (.ld gd d ra off fs wd sp na acq) w a g x e gp → x.find? (fun k => (s.accessCause w g sp (ad k) (bytes wd)).isSome) = some f →
    exec (.ld gd d ra off fs wd sp na acq) s = .next (s.trapHere w a a.lanes { cls := 3, addr := ad f })) ∧
  (∀ (s : State) (w : Warp) (g : Group) sp ad wd, s.accessCause w g sp ad (bytes wd) = none ↔ fits s w g sp ad (bytes wd))

/-- R186, R207, R209: ST of its five widths and the short ST.s: into the core's own share of `.s` the bytes are written at once, where
members write one byte the highest virtual lane's; elsewhere a store of the data's low bytes is in flight. -/
def Claims.StoresIssued : Prop :=
  let bytes (w : Width) : Nat := match w with
    | .b8 | .s8 => 1
    | .b16 | .s16 => 2
    | .b32 => 4
    | .b64 => 8
    | .b128 => 16
  let address (g : Group) (f : Fibre) (sp : Space) (ra : Reg) (off : Int) : Nat :=
    if sp = .g then (((f.pair g ra).toNat + off) % 2 ^ 52).toNat else (((f.word g ra).toNat + off) % 2 ^ 32).toNat
  let data (g : Group) (f : Fibre) (r : Reg) (n : Nat) : List Byte :=
    (List.range n).map (fun i => BitVec.ofNat 8 ((f.word g (regPlus r (i / 4))).toNat / 256 ^ (i % 4)))
  let own (s : State) (w : Warp) (g : Group) (ad n : Nat) : Prop := ad % n = 0 ∧ ad < g.scratch ∧
    (∃ p, g.scratchAt ad = some (w.wid / 48, p)) ∧ (∀ i < n, ∃ p, g.scratchAt (ad + i) = some p) ∧
    ∀ o ∈ s.ops, o.gid = w.gid → ∀ p ∈ o.touched, p.1 = Space.s → p.2 < ad ∨ ad + n ≤ p.2
  let home (w : Warp) (f : Fibre) (sp : Space) (o : Nat) : Nat :=
    if sp = .k then (w.spill.toNat + 128 * (o / 4) + 4 * w.vlane f.lane + o % 4) % 2 ^ 52 else o
  let fits (s : State) (w : Warp) (g : Group) (sp : Space) (ad n : Nat) : Prop := ad % n = 0 ∧ match sp with
    | .g => True
    | .s => ad < g.scratch
    | .k => ad + n ≤ w.spillsz.toNat
    | .d => ∃ c, s.ctx? g.ctx = some c ∧ c.dieHolds ad n = true
  let physical (s : State) (w : Warp) (g : Group) (va : Nat) : Except (Nat × Nat) (Nat × Nat) :=
    (s.translate (corePlaces (w.wid / 48)) g.ctx (va % 2 ^ 52) .write).1
  let apart (s : State) (w : Warp) (g : Group) (sp : Space) (ad be n : Nat) : Prop :=
    ∀ p ∈ byteAddrs sp ad n, ∀ q ∈ byteAddrs sp be n, p ≠ q ∧
      (sp.translated = true → ∀ c d, physical s w g p = .ok c → physical s w g q = .ok d → c.1 ≠ d.1)
  let cells (g : Group) (ad : Nat) (bs : List Byte) : List (Nat × Byte) :=
    (List.range bs.length).filterMap (fun i => (g.scratchAt (ad + i)).map (fun p => (p.2, bs.getD i 0)))
  let writes (i : Instr) (rel : Bool) (ad : Group → Fibre → Nat) (r : Reg) (n : Nat) : Prop :=
    ∀ (s : State) (w : Warp) (a : Active) (g : Group) (x e gp : List Fibre), Issues s i w a g x e gp → x ≠ [] → s.tidy →
      (∀ o ∈ s.ops, o.issue ≠ a.part.getD s.nextId) → (∀ f ∈ x, own s w g (ad g f) n) → (rel = true → ∀ f ∈ x, s.allPerformed w f = true) →
      ∃ t, exec i s = .next t ∧ Changes s t w x (fun f => f) (fun v => v) (countedLate s w i g e) (flagOf i a) ∧ SameUnits s t ∧
        Stores s t g.ctx (x.flatMap (fun f => cells g (ad g f) (data g f r n)))
  (∀ gd ra r off fs wd rel sc, writes (.st gd ra r off fs wd .s rel sc) rel (fun g f => address g f .s ra off.toInt) r (bytes wd)) ∧
  (∀ r ra n, writes (.stSB32Short r ra n) false (fun g f => address g f .s ra (4 * n.toNat)) r 4) ∧
  (∀ r ra n, writes (.stSB64Short r ra n) false (fun g f => address g f .s ra (8 * n.toNat)) r 8) ∧
  (∀ gd ra r off fs wd sp rel sc, Launches (.st gd ra r off fs wd sp rel sc) {
    ok := fun s w a g x => (∀ o ∈ s.ops, o.issue ≠ a.part.getD s.nextId) ∧
      (∀ f ∈ x, ∀ k ∈ x, f.lane ≠ k.lane → apart s w g sp (home w f sp (address g f sp ra off.toInt)) (home w k sp (address g k sp ra off.toInt)) (bytes wd)) ∧
      ∀ f ∈ x, let ad := address g f sp ra off.toInt
      fits s w g sp ad (bytes wd) ∧ (sp = .s → ∀ p, g.scratchAt ad ≠ some (w.wid / 48, p)) ∧ Serves s w g sp (home w f sp ad) (bytes wd) .write
    kind := fun _ w g f => .store sp (home w f sp (address g f sp ra off.toInt)) (bytes wd)
      ((List.range (bytes wd)).zip (data g f r (bytes wd))) rel }) ∧
  (∀ (s : State) (w : Warp) (a : Active) (g : Group) (x e gp : List Fibre) gd ra r off fs wd sp rel sc (f : Fibre),
    let ad (f : Fibre) := address g f sp ra off.toInt
    Issues s (.st gd ra r off fs wd sp rel sc) w a g x e gp → x.find? (fun k => (s.accessCause w g sp (ad k) (bytes wd)).isSome) = some f →
    exec (.st gd ra r off fs wd sp rel sc) s = .next (s.trapHere w a a.lanes { cls := 3, addr := ad f })) ∧
  (∀ (s : State) (issue : Nat) (o : Op) sp ad n bs rel, o ∈ s.ops → o.issue = issue → o.kind = .store sp ad n bs rel →
    ∃ u ∈ (s.mergeStores issue).ops, u.id = o.id ∧ u.kind = .store sp ad n
      (bs.filter (fun b => s.ops.all (fun h => !(h.issue = issue ∧ o.vlane < h.vlane ∧ o.places.getD b.1 (9, 0) ∈ h.places)))) rel)

/-- R207, R210, R212: ATOM and RED put one read-modify-write in flight for each executing fibre, whatever its space; a misaligned or
outlying address, and an operation other than ADD, EXCH and CAS of 4 or 8 bytes on host memory, is an illegal operand. -/
def Claims.AtomicsIssued : Prop :=
  let address (g : Group) (f : Fibre) (sp : Space3) (ra : Reg) : Nat :=
    if sp = .g then (f.pair g ra).toNat % 2 ^ 52 else (f.word g ra).toNat
  let words (op : AtomOp) : Nat := match op with
    | .casB128 => 8
    | .casB64 => 4
    | .casB32 | .addB64 | .minS64 | .minU64 | .maxS64 | .maxU64 | .andB64 | .orB64 | .xorB64 | .exchB64 => 2
    | _ => 1
  let bytes (op : AtomOp) : Nat := match op with
    | .casB128 => 16
    | .casB64 | .addB64 | .minS64 | .minU64 | .maxS64 | .maxU64 | .andB64 | .orB64 | .xorB64 | .exchB64 => 8
    | _ => 4
  let operand (g : Group) (f : Fibre) (b : Src) (op : AtomOp) : List Word := match b with
    | .lit v => [v]
    | .reg r => (List.range (words op)).map (fun i => f.word g (regPlus r i))
  let places (op : AtomOp) (d : Reg) (g : Group) (f : Fibre) : List Nat :=
    (List.range (bytes op / 4)).filterMap (fun i => g.place f.b (regPlus d i))
  let hostOps : List AtomOp := [.addB32, .addB64, .exchB32, .exchB64, .casB32, .casB64]
  let host (op : AtomOp) : Prop := op ∈ hostOps
  let ready (s : State) (w : Warp) (g : Group) (f : Fibre) (sp : Space3) (ra : Reg) (op : AtomOp) : Prop :=
    let ad := address g f sp ra
    ad % bytes op = 0 ∧ Serves s w g sp.space ad (bytes op) .atomic ∧ match sp with
      | .g => host op ∨ s.onHostPage (w.wid / 48) g.ctx ad = false
      | .s => ad < g.scratch
      | .d => ∃ c, s.ctx? g.ctx = some c ∧ c.dieHolds ad (bytes op) = true
  (∀ gd d ra b fs op order sc sp, Launches (.atom gd d ra b fs op order sc sp) {
    ok := fun s w _ g x => ∀ f ∈ x, ready s w g f sp ra op
    kind := fun _ _ g f => .atomic sp.space (address g f sp ra) op (operand g f b op) order (some (places op d g f)) }) ∧
  (∀ gd ra b fs op order sc sp, Launches (.red gd ra b fs op order sc sp) {
    ok := fun s w _ g x => ∀ f ∈ x, ready s w g f sp ra op
    kind := fun _ _ g f => .atomic sp.space (address g f sp ra) op (operand g f b op) order none }) ∧
  (∀ (s : State) (w : Warp) (a : Active) (g : Group) (x e gp : List Fibre) (f : Fibre) gd ra b fs op order sc sp,
    let bad (k : Fibre) : Bool := (s.accessCause w g sp.space (address g k sp ra) (bytes op)).isSome ||
      (sp == .g && !(hostOps.contains op) && s.onHostPage (w.wid / 48) g.ctx (address g k sp ra))
    let trap : Host.Outcome State Fault Refusal := .next (s.trapHere w a a.lanes { cls := 3, addr := address g f sp ra })
    x.find? bad = some f →
    (∀ d, Issues s (.atom gd d ra b fs op order sc sp) w a g x e gp → exec (.atom gd d ra b fs op order sc sp) s = trap) ∧
    (Issues s (.red gd ra b fs op order sc sp) w a g x e gp → exec (.red gd ra b fs op order sc sp) s = trap))

/-- ST, ATOM and RED: bytes written at once or operations in flight (R186, R207, R209, R210, R212). That pages are pinned and staged at
issue is the model's choice (log entries 26 and 27). -/
def Obligations.StoresAndAtomicsIssued : Prop := Claims.StoresIssued ∧ Claims.AtomicsIssued

/-- R208, R209, R211, R213, R233: what completing an access does once no earlier access to a common byte is in flight: a load's bytes, from
the L1 line that the core holds and else from their home, go to its destinations, together with those of the members of its instruction that
read its location, which receive the same value; a store's bytes go to their home; an atomic reads the old value, writes the new one and
returns the old; and the flag falls by 1. -/
def Obligations.AccessesCompleted : Prop :=
  let ended (o : Op) (f : Fibre) : Fibre := match o.flag with
    | some n => f.fall n
    | none => f
  let ready (s : State) (o : Op) (w : Warp) (g : Group) (f : Fibre) (sp : Space) : Prop :=
    s.op? o.id = some o ∧ o.record = none ∧ o.spoil = [] ∧ s.behind o = false ∧ (sp.translated = true → o.pins ≠ []) ∧ s.tidy ∧
    s.fibreOf? o.gid o.fid = some (w, f) ∧ s.warp? w.wid = some w ∧ w.fibre? f.lane = some f ∧ w.handler = none ∧ s.group? o.gid = some g
  let after (s t : State) (o : Op) (w : Warp) (f k : Fibre) : Prop :=
    t.fibre? w.wid f.lane = some (ended o k) ∧ t.ops = s.ops.filter (fun p => p.id ≠ o.id) ∧ t.groups = s.groups ∧ t.ctxs = s.ctxs
  let place (s : State) (o : Op) (g : Group) (sp : Space) (va : Nat) : Option (Nat × Nat) := match sp with
    | .s => (g.scratchAt va).map (fun p => (p.2, g.ctx))
    | .d => (s.ctx? o.ctx).bind (fun c => (c.dieAt va).map (fun p => (p, c.num)))
    | _ => pinned o.pins (va % 2 ^ 52)
  let words (n v : Nat) : List Word := (List.range n).map (fun i => BitVec.ofNat 32 (v / 2 ^ (32 * i)))
  let loaded (w : Width) (v : Nat) : List Word := match w with
    | .b8 | .b16 | .b32 => [BitVec.ofNat 32 v]
    | .s8 => [(BitVec.ofNat 8 v).signExtend 32]
    | .s16 => [(BitVec.ofNat 16 v).signExtend 32]
    | .b64 => words 2 v
    | .b128 => words 4 v
  let line (s : State) (o : Op) (p : Nat × Nat) : Option L1Line :=
    s.l1.find? (fun x => x.core = o.core && x.addr = p.1 / 128 * 128 && x.key = p.2)
  let signed (n v : Nat) : Int := if v < 2 ^ (8 * n - 1) then v else (v : Int) - 2 ^ (8 * n)
  let new (op : AtomOp) (old : Nat) (ws : List Word) : Option Nat :=
    let n := op.bytes
    let v := natOf ((ws.take (n / 4)).flatMap bytesOfWord)
    let half (i : Nat) : Nat := (bf16.fadd .rne false 0 (bf16.read (old / 2 ^ (16 * i) % 2 ^ 16)) (bf16.read (v / 2 ^ (16 * i) % 2 ^ 16))).bits
    let nan (v : Nat) : Prop := 0x7F800000 < v % 2 ^ 31
    match op with
    | .addB32 | .addB64 => some ((old + v) % 2 ^ (8 * n))
    | .minS32 | .minS64 => some (if signed n old ≤ signed n v then old else v)
    | .maxS32 | .maxS64 => some (if signed n old < signed n v then v else old)
    | .minU32 | .minU64 => some (min old v)
    | .maxU32 | .maxU64 => some (max old v)
    | .andB32 | .andB64 => some (old &&& v)
    | .orB32 | .orB64 => some (old ||| v)
    | .xorB32 | .xorB64 => some (old ^^^ v)
    | .exchB32 | .exchB64 => some v
    | .casB32 | .casB64 | .casB128 => if old = v then some (natOf ((ws.drop (n / 4)).flatMap bytesOfWord)) else none
    | .faddF32 => some (fp32.fadd .rne false 0 (fp32.read old) (fp32.read v)).bits
    | .faddBf16x2 => some (half 0 + 2 ^ 16 * half 1)
    | .fmaxabsF32 => some (if nan old ∨ nan v then 0x7FC00000 else max (old % 2 ^ 31) (v % 2 ^ 31))
  (∀ (s : State) (o : Op) (g : Group) sp ad wd dst na acq (at_ : Nat → Nat × Nat) (of_ : Nat → Warp × Fibre), s.op? o.id = some o →
    o.kind = .load sp ad wd dst na acq → (s.ops.map Op.id).Nodup →
    (∀ b ∈ s.ops, b.id ∈ s.mates o → ready s b (of_ b.id).1 g (of_ b.id).2 sp ∧
      ∀ c ∈ s.ops, c.id ∈ s.mates o → b.id ≠ c.id → (of_ b.id).1.wid ≠ (of_ c.id).1.wid ∨ (of_ b.id).2.lane ≠ (of_ c.id).2.lane) →
    let home : Prop := sp.translated = false ∨ ∃ sc, acq = some sc ∧ wideAcquire g sc = true
    let byte (i : Nat) : Byte := match (if sp.translated = true ∧ ¬ (∃ sc, acq = some sc ∧ wideAcquire g sc = true) then line s o (at_ i) else none) with
      | some x => if x.owner = 0 ∨ x.owner = o.ctx + 1 then x.bytes.getD ((at_ i).1 % 128) 0 else 0
      | none => (s.readByte (at_ i).2 (at_ i).1).1
    (∀ i < wd.bytes, place s o g sp (byteAddr sp ad i) = some (at_ i) ∧ s.defined (at_ i).2 (at_ i).1 ∧ s.poisoned (at_ i).1 1 = false) →
    (home ∨ (∃ l, ∀ i < wd.bytes, (at_ i).1 / 128 = l ∧ (at_ i).2 = (at_ 0).2) ∨ ∀ i < wd.bytes, ∀ x ∈ s.l1, x.core = o.core → x.addr ≠ (at_ i).1 / 128 * 128) →
    ∃ t, exec (.loadReturn o.id false) s = .next t ∧ SameDefined s t ∧ t.ops = s.ops.filter (fun p => !(s.mates o).contains p.id) ∧
      t.groups = s.groups ∧ t.ctxs = s.ctxs ∧
      ∀ b ∈ s.ops, b.id ∈ s.mates o → match b.kind with
        | .load _ _ _ d _ _ => t.fibre? (of_ b.id).1.wid (of_ b.id).2.lane =
            some (ended b ((of_ b.id).2.puts (d.zip (loaded wd (natOf ((List.range wd.bytes).map byte))))))
        | _ => True) ∧
  (∀ (s : State) (o : Op) (w : Warp) (g : Group) (f : Fibre) sp ad n bs rel (at_ : Nat → Nat) who, ready s o w g f sp →
    o.kind = .store sp ad n bs rel → (rel = true → s.releasable o = true) →
    (∀ b ∈ bs, place s o g sp (byteAddr sp ad b.1) = some (at_ b.1, who)) →
    ∃ t, exec (.storePerformed o.id) s = .next t ∧ Stores s t who (bs.map (fun b => (at_ b.1, b.2))) ∧ after s t o w f f) ∧
  (∀ (s : State) (o : Op) (w : Warp) (g : Group) (f : Fibre) sp ad op ws order dst (at_ : Nat → Nat) who, ready s o w g f sp →
    o.kind = .atomic sp ad op ws order dst → ((order = .rel ∨ order = .acqRel) → s.releasable o = true) →
    (∀ p ∈ o.pins, storage p.2.1 ≠ .host) →
    (∀ i < op.bytes, place s o g sp (byteAddr sp ad i) = some (at_ i, who) ∧ s.defined who (at_ i) ∧ (sp ≠ .s → s.poisoned (at_ i) 1 = false)) →
    let old := natOf ((List.range op.bytes).map (fun i => (s.readByte who (at_ i)).1))
    let stored : List (Nat × Byte) := match new op old ws with
      | some v => (List.range op.bytes).map (fun i => (at_ i, BitVec.ofNat 8 (v / 256 ^ i)))
      | none => []
    ∃ t, Stores s t who stored ∧
      (∀ d, dst = some d → exec (.atomicComplete o.id) s = .next t ∧ after s t o w f (f.puts (d.zip (words (op.bytes / 4) old)))) ∧
      (dst = none → exec (.storePerformed o.id) s = .next t ∧ after s t o w f f))

/-- R208, R214, R215, R238: FENCE completes once the accesses that its kind waits for have been performed, and an acquire drops the core's
L1 lines; until then its bundle waits. PREF may bring lines into the core's L1 and changes nothing else. -/
def Claims.FencePrefetch : Prop :=
  let waits (k : FenceKind) (o : Op) : Prop := if k = .acq then o.returnsData = true else o.isAccess = true
  (∀ gd sc k, Acts (.fence gd sc k) {
    ok := fun s w a _ x => ∀ f ∈ x, ∀ o ∈ s.opsOf w.gid f.id, o.order < a.part.getD s.nextId → ¬ waits k o
    units := fun s w _ g _ => if k ≠ .rel ∧ (sc = .die ∨ sc = .device ∨ sc = .system ∨ (sc = .group ∧ 1 < g.shares.length)) then
      { s with l1 := s.l1.filter (fun x => x.core ≠ w.wid / 48) } else s }) ∧
  (∀ (s : State) (w : Warp) (a : Active) (g : Group) (x e gp : List Fibre) gd sc k, Issues s (.fence gd sc k) w a g x e gp →
    (∃ f ∈ x, ∃ o ∈ s.opsOf w.gid f.id, waits k o ∧ o.order < a.part.getD s.nextId) →
    exec (.fence gd sc k) s = .next (s.advanceClock 1)) ∧
  (∀ (s : State) (w : Warp) (a : Active) (g : Group) (x e gp : List Fibre) gd ra off level, Issues s (.pref gd ra off level) w a g x e gp →
    ∃ t, exec (.pref gd ra off level) s = .next t ∧ Changes s t w x (fun f => f) (fun v => v) ∧ SameDefined s t ∧
      SameUnits { s with l1 := t.l1, tlb := t.tlb } t ∧ (level = true → t.l1 = s.l1) ∧ ∀ l ∈ t.l1, l ∈ s.l1 ∨ l.core = w.wid / 48)

/-! ## The copy engine and the stage rings -/

/-- R223 to R226: SRINIT, once no copy posts to the ring, writes a ring with every phase and count 0, an illegal one and a stage beyond a
ring being illegal operands; SRWAIT passes where every named stage has the phase, an acquire, and SRPOST posts once for each executing
fibre, once its earlier accesses have been performed. -/
def Claims.StageRings : Prop :=
  let post (empty : Bool) (r : Ring) (st : Stage) : Stage :=
    if empty then (if st.emptyCnt + 1 = r.pe then { st with empty := !st.empty, emptyCnt := 0 } else { st with emptyCnt := st.emptyCnt + 1 })
    else (if st.fullCnt + 1 = r.pf then { st with full := !st.full, fullCnt := 0 } else { st with fullCnt := st.fullCnt + 1 })
  let posted (empty : Bool) (r : Ring) (i : Nat) : Ring :=
    let now := r.stages.mapIdx (fun j st => if j = i then post empty r st else st)
    { r with stages := now }
  let legal (g : Group) (a b c : Nat) : Prop :=
    a % 16 = 0 ∧ 0 < b / 16 % 2 ^ 16 ∧ b / 2 ^ 20 = 0 ∧ (0 < c % 2 ^ 12 ∧ c % 2 ^ 12 ≤ 2048) ∧ (0 < c / 2 ^ 16 % 2 ^ 12 ∧ c / 2 ^ 16 % 2 ^ 12 ≤ 2048) ∧
    c / 2 ^ 12 % 16 = 0 ∧ c / 2 ^ 28 = 0 ∧ a + (b % 16 + 1) * (16 * (b / 16 % 2 ^ 16)) ≤ g.scratch
  let ring (a b c : Nat) : Ring := { base := a, size := 16 * (b / 16 % 2 ^ 16), pf := c % 2 ^ 12, pe := c / 2 ^ 16 % 2 ^ 12, stages := List.replicate (b % 16 + 1) {} }
  let posts (r : Nat) (o : Op) : Prop := match o.kind with
    | .copy c => ∃ i, c.post = some (r, i)
    | _ => False
  let stages (g : Group) (r : Fin 8) : List Stage := (sget {} g.rings r.val).stages
  (∀ gd a b c (r : Fin 8), Acts (.srinit gd a b c r) {
    ok := fun s w _ g x => (∀ f ∈ x, legal g (f.word g a).toNat (f.word g b).toNat (f.word g c).toNat) ∧ ∀ o ∈ s.ops, o.gid = w.gid → ¬ posts r.val o
    units := fun s w _ g x => match x.getLast? with
      | some f => s.onGroup w.gid (fun q => { q with rings := sset {} q.rings r.val (ring (f.word g a).toNat (f.word g b).toNat (f.word g c).toNat) })
      | none => s }) ∧
  (∀ (s : State) (w : Warp) (a : Active) (g : Group) (x e gp : List Fibre) gd ra rb rc r, Issues s (.srinit gd ra rb rc r) w a g x e gp →
    (∃ f ∈ x, ¬ legal g (f.word g ra).toNat (f.word g rb).toNat (f.word g rc).toNat) → exec (.srinit gd ra rb rc r) s = .next (s.trapHere w a a.lanes { cls := 3 })) ∧
  (∀ gd st phase empty (r : Fin 8), Acts (.srwait gd st phase empty r) {
    ok := fun _ _ _ g x => ∀ f ∈ x, ∃ q, (stages g r)[(f.word g st).toNat]? = some q ∧ (if empty then q.empty else q.full) = phase
    units := fun s w _ g _ => if g.shares.length ≤ 1 then s else { s with l1 := s.l1.filter (fun x => x.core ≠ w.wid / 48) } }) ∧
  (∀ (s : State) (w : Warp) (a : Active) (g : Group) (x e gp : List Fibre) gd st phase empty r, Issues s (.srwait gd st phase empty r) w a g x e gp →
    (∀ f ∈ x, (f.word g st).toNat < (stages g r).length) →
    (∃ f ∈ x, ∃ q, (stages g r)[(f.word g st).toNat]? = some q ∧ (if empty then q.empty else q.full) ≠ phase) →
    exec (.srwait gd st phase empty r) s = .next (s.advanceClock 1)) ∧
  (∀ (s : State) (w : Warp) (a : Active) (g : Group) (x e gp : List Fibre) gd st (r : Fin 8),
    (∃ f ∈ x, (stages g r).length ≤ (f.word g st).toNat) →
    (∀ phase empty, Issues s (.srwait gd st phase empty r) w a g x e gp →
      exec (.srwait gd st phase empty r) s = .next (s.trapHere w a a.lanes { cls := 3 })) ∧
    (∀ empty, Issues s (.srpost gd st empty r) w a g x e gp → exec (.srpost gd st empty r) s = .next (s.trapHere w a a.lanes { cls := 3 }))) ∧
  (∀ gd st empty (r : Fin 8), Acts (.srpost gd st empty r) {
    ok := fun s w a g x => (∀ q ∈ s.groups, q.gid = w.gid → swf {} q.rings = true) ∧ (∀ f ∈ x, (f.word g st).toNat < (stages g r).length) ∧
      ∀ f ∈ x, ∀ o ∈ s.opsOf w.gid f.id, o.isAccess = true → a.part.getD s.nextId ≤ o.order
    units := fun s w _ g x =>
      let all (k : Ring) : Ring := x.foldl (fun k f => posted empty k (f.word g st).toNat) k
      s.onGroup w.gid (fun q => { q with rings := sset {} q.rings r.val (all (sget {} q.rings r.val)) }) })

/-- FENCE waits for the accesses of its kind, PREF changes no register and no byte; SRINIT, SRWAIT and SRPOST (R208, R214, R215, R223, R224,
R225, R226, R238). -/
def Obligations.FencePrefetchStages : Prop := Claims.FencePrefetch ∧ Claims.StageRings

/-- R216 to R219, R221, R242: TCOPY and COPYA put one command in the queue of the core's copy engine for each executing fibre, as long as
the queue has room, where it has room for fewer for the lowest virtual lanes, the bundle waiting with the others; a COPYA of length 0
completes at once; and an illegal descriptor is an illegal operand. -/
def Claims.CopyCommands : Prop :=
  let pair (g : Group) (f : Fibre) (r : Reg) : Nat := (f.pair g r).toNat % 2 ^ 52
  let side (sp : Space) (g : Group) (f : Fibre) (r : Reg) : Nat := if sp = .g then pair g f r else (f.word g r).toNat
  let spaces (d : CopyDir) : Space × Space := match d with
    | .sg | .srec => (.s, .g)
    | .gs => (.g, .s)
    | .dg => (.d, .g)
    | .gd => (.g, .d)
    | .gg => (.g, .g)
    | .sd => (.s, .d)
    | .ds => (.d, .s)
  let legal (d : Nat) : Prop := 0 < d % 2 ^ 12 ∧ d % 2 ^ 12 ≤ 256 ∧ d / 2 ^ 20 % 2 ^ 4 = 0 ∧ d / 2 ^ 24 % 2 ^ 3 < 5 ∧ d / 2 ^ 27 % 2 ^ 5 = 0
  let tile (dir : CopyDir) (post : Option (Fin 8 × Reg)) (rd ra desc : Reg) (g : Group) (f : Fibre) : CopyCmd :=
    let d := (f.pair g desc).toNat
    { dir := dir, dst := side (spaces dir).1 g f rd, src := side (spaces dir).2 g f ra, rows := d / 2 ^ 12 % 2 ^ 8 + 1,
      rowBytes := 16 * (d % 2 ^ 12), dstPitch := 16 * (d / 2 ^ 48), srcPitch := if dir = .srec then 0 else 16 * (d / 2 ^ 32 % 2 ^ 16),
      row0 := if dir = .srec then d / 2 ^ 32 % 2 ^ 16 else 0, post := post.map (fun p => (p.1.val, (f.word g p.2).toNat)) }
  let inside (s : State) (g : Group) (sp : Space) (c : CopyCmd) (at_ pitch : Nat) : Prop := match sp with
    | .s => at_ + (c.rows - 1) * pitch + c.rowBytes ≤ g.scratch
    | .d => ∃ k, s.ctx? g.ctx = some k ∧ ∀ j < c.rows, k.dieHolds (at_ + j * pitch) c.rowBytes = true
    | _ => True
  let bounded (s : State) (g : Group) (c : CopyCmd) : Prop :=
    inside s g (spaces c.dir).1 c c.dst c.dstPitch ∧ inside s g (spaces c.dir).2 c c.src c.srcPitch
  let staged (g : Group) (c : CopyCmd) : Prop := ∀ r i, c.post = some (r, i) → ∃ k, k = sget {} g.rings r ∧ i < k.stages.length ∧
    k.base + i * k.size ≤ c.dst ∧ c.dst + (c.rows - 1) * c.dstPitch + c.rowBytes ≤ k.base + (i + 1) * k.size
  let run (dir : CopyDir) (rd ra len : Reg) (g : Group) (f : Fibre) : CopyCmd :=
    { dir := dir, dst := side (spaces dir).1 g f rd, src := side (spaces dir).2 g f ra, rows := 1, rowBytes := (f.word g len).toNat, dstPitch := 0, srcPitch := 0 }
  let queued (s : State) (w : Warp) : Nat := (s.copyQueue (w.wid / 48)).length
  (∀ gd rd ra desc fs dir post, Launches (.tcopy gd rd ra desc fs dir post) {
    ok := fun s w _ g x => queued s w + x.length ≤ 64 ∧ ∀ f ∈ x, let c := tile dir post rd ra desc g f
      legal (f.pair g desc).toNat ∧ c.dst % 16 = 0 ∧ c.src % 16 = 0 ∧ bounded s g c ∧ staged g c
    kind := fun _ _ g f => .copy (tile dir post rd ra desc g f) }) ∧
  (∀ (s : State) (w : Warp) (a : Active) (g : Group) (f : Fibre) (x y e gp : List Fibre) gd rd ra desc fs dir post,
    Issues s (.tcopy gd rd ra desc fs dir post) w a g (x ++ f :: y) e gp →
    (∀ k ∈ x, let c := tile dir post rd ra desc g k
      legal (k.pair g desc).toNat ∧ c.dst % 16 = 0 ∧ c.src % 16 = 0 ∧ bounded s g c ∧ staged g c) →
    let c := tile dir post rd ra desc g f
    let traps (addr : Nat) : Prop := exec (.tcopy gd rd ra desc fs dir post) s = .next (s.trapHere w a a.lanes { cls := 3, addr := addr })
    (¬ legal (f.pair g desc).toNat → traps 0) ∧
    (legal (f.pair g desc).toNat → c.dst % 16 ≠ 0 → traps c.dst) ∧
    (legal (f.pair g desc).toNat → c.dst % 16 = 0 → c.src % 16 ≠ 0 → traps c.src)) ∧
  (∀ gd rd ra len fs dir sc, dir ≠ .srec → Launches (.copya gd rd ra len fs dir sc) {
    ok := fun s w _ g x => queued s w + x.length ≤ 64 ∧ ∀ f ∈ x, let c := run dir rd ra len g f
      c.rowBytes ≠ 0 ∧ bounded s g c
    kind := fun _ _ g f => .copy (run dir rd ra len g f) }) ∧
  (∀ (s : State) (w : Warp) (a : Active) (g : Group) (x e gp : List Fibre) gd rd ra len fs dir sc,
    Issues s (.copya gd rd ra len fs dir sc) w a g x e gp → queued s w + x.length ≤ 64 → (∀ f ∈ x, f.word g len = 0) →
    ∃ t, exec (.copya gd rd ra len fs dir sc) s = .next t ∧ Changes s t w x (fun f => f) (fun v => v) (countedLate s w (.copya gd rd ra len fs dir sc) g e)
      (flagOf (.copya gd rd ra len fs dir sc) a) ∧ SameMemory s t ∧ SameUnits s t) ∧
  (∀ (s : State) (w : Warp) (a : Active) (g : Group) (x e gp : List Fibre) gd rd ra len fs dir sc,
    Issues s (.copya gd rd ra len fs dir sc) w a g x e gp → dir ≠ .srec →
    (∀ f ∈ x, (run dir rd ra len g f).rowBytes ≠ 0 ∧ bounded s g (run dir rd ra len g f)) → 64 < queued s w + x.length →
    (64 ≤ queued s w → exec (.copya gd rd ra len fs dir sc) s = .next (s.advanceClock 1)) ∧
    (queued s w < 64 → ∃ t v, exec (.copya gd rd ra len fs dir sc) s = .next t ∧ t.ops.length = s.ops.length + (64 - queued s w) ∧
      t.warp? w.wid = some v ∧ v.active = some { a with sent := a.sent ++ (x.take (64 - queued s w)).map Fibre.lane, part := some (a.part.getD s.nextId) }))

/-- R216, R219 to R222, R240, R241: the engine starts the first queued command that has been sent to it, while fewer than 16 run; a shape
record is then read once. A running command whose pages are translated completes when no earlier one of overlapping destination is out:
every byte still to be copied is read from the source and written, zeros beyond an expert's rows, where a later row of the destination falls
on an earlier one its bytes remain, the post is made, and the flag falls. -/
def Claims.CopyEngine : Prop :=
  let bytes (c : CopyCmd) : Nat := c.rows * c.rowBytes
  let dst (c : CopyCmd) (i : Nat) : Nat := c.dst + i / c.rowBytes * c.dstPitch + i % c.rowBytes
  let src (c : CopyCmd) (i : Nat) : Nat := c.src + i / c.rowBytes * c.srcPitch + i % c.rowBytes
  let zero (c : CopyCmd) (i : Nat) : Prop := c.dir = .srec ∧ c.row0 ≤ i / c.rowBytes
  let place (s : State) (o : Op) (g : Group) (pins : List (Nat × Nat × Nat)) (sp : Space) (va : Nat) : Option (Nat × Nat) := match sp with
    | .s => (g.scratchAt va).map (fun p => (p.2, g.ctx))
    | .d => (s.ctx? o.ctx).bind (fun c => (c.dieAt va).map (fun p => (p, c.num)))
    | _ => pinned pins (va % 2 ^ 52)
  let post (r : Ring) (st : Stage) : Stage :=
    if st.fullCnt + 1 = r.pf then { st with full := !st.full, fullCnt := 0 } else { st with fullCnt := st.fullCnt + 1 }
  let posted (r : Ring) (i : Nat) : Ring :=
    let now := r.stages.mapIdx (fun j st => if j = i then post r st else st)
    { r with stages := now }
  (∀ (s : State) (core : Nat) (o : Op) c, s.copiesRunning core < 16 → s.op? o.id = some o → o.kind = .copy c → o.gid ≠ 0 →
    (s.copyQueue core).find? (fun q => q.record.isNone && s.sent q && s.sourceChecked q) = some o →
    (c.dir ≠ .srec → ∃ t, exec (.copyCommandStart core []) s = .next t ∧ t.op? o.id = some { o with stage := .started } ∧
      (∀ n, n ≠ o.id → t.op? n = s.op? n) ∧ SameMemory s t ∧ SameUnits { s with ops := t.ops } t) ∧
    (c.dir = .srec → s.engineOpen o.id [(c.src, 16, .read)] = (true, s) → (s.engineRead o.id c.src 16).2 = s →
      let record := (s.engineRead o.id c.src 16).1
      let base := natOf (record.take 8)
      let stride := natOf ((record.drop 8).take 4)
      let m := natOf (record.drop 12)
      let c1 : CopyCmd := { c with src := (base + c.row0 * stride) % 2 ^ 52, srcPitch := stride, row0 := m - c.row0 }
      ∃ t, exec (.copyCommandStart core []) s = .next t ∧ SameMemory s t ∧ t.op? o.id = some { o with stage := .started, kind := .copy c1 })) ∧
  (∀ (s : State) (core : Nat), 16 ≤ s.copiesRunning core → exec (.copyCommandStart core []) s = .next s) ∧
  (∀ (s : State) (o : Op) (w : Warp) (g : Group) (f : Fibre) c (into from_ : Nat → Nat) kw kr,
    s.op? o.id = some o → o.stage = .started → o.kind = .copy c → o.record = none → o.gid ≠ 0 → s.group? o.gid = some g → s.tidy →
    s.fibreOf? o.gid o.fid = some (w, f) → s.warp? w.wid = some w → w.fibre? f.lane = some f →
    s.copyBehind o c = false → c.verify = false →
    let left := (List.range (bytes c)).filter (fun i => !c.moved.any (fun m => m.1 = i))
    (∀ i ∈ left, place s o g o.wpins (dirSpaces c.dir).1 (dst c i) = some (into i, kw)) →
    (∀ i ∈ left, ¬ zero c i → place s o g o.pins (dirSpaces c.dir).2 (src c i) = some (from_ i, kr) ∧ s.defined kr (from_ i) ∧
      s.poisoned (from_ i) 1 = false) →
    (∀ i ∈ left, c.overlaps o.pins o.wpins (dst c i) = false) →
    let byte (i : Nat) : Byte := if c.dir = .srec ∧ c.row0 ≤ i / c.rowBytes then 0 else (s.readByte kr (from_ i)).1
    ∃ t, exec (.copyCommandComplete o.id) s = .next t ∧ Stores s t kw (left.map (fun i => (into i, byte i))) ∧
      t.ops = s.ops.filter (fun p => p.id ≠ o.id) ∧
      t.fibre? w.wid f.lane = some (match o.flag with
        | some n => f.fall n
        | none => f) ∧
      (c.post = none → t.groups = s.groups) ∧
      ∀ r i, c.post = some (r, i) → t.group? o.gid = some { g with rings := sset {} g.rings r (posted (sget {} g.rings r) i) })

/-- TCOPY and COPYA, and what their commands copy (R216, R217, R218, R219, R220, R221, R222, R240, R241, R242). That an instruction enqueues
what fits is the model's reading (log entry 62). -/
def Obligations.CopyEngines : Prop := Claims.CopyCommands ∧ Claims.CopyEngine

/-! ## Renames -/

/-- R194, R227, R228: each rename puts one operation in flight for each executing fibre where its ranges are legal, and a range that is
misaligned, too long or past 2^52 is a misaligned rename; RNQUERY takes any address. -/
def Obligations.Renames : Prop :=
  let at_ (g : Group) (f : Fibre) (r : Reg) : Nat := (f.pair g r).toNat % 2 ^ 52
  let len (g : Group) (f : Fibre) (r : Reg) : Nat := (f.pair g r).toNat
  let within (a n : Nat) : Prop := n < 2 ^ 52 ∧ a + n ≤ 2 ^ 52
  let congruent (a b n : Nat) : Prop := a % 65536 = b % 65536 ∧ within a n ∧ within b n
  let apart (a b n : Nat) : Prop := a + n ≤ b ∨ b + n ≤ a
  let pages (a n : Nat) : Prop := a % 65536 = 0 ∧ n % 65536 = 0 ∧ within a n
  let table (s : State) (g : Group) (idx n : Nat) : List Nat :=
    (List.range n).map (fun i => natOf (((s.readScratch g idx (4 * n)).1.drop (4 * i)).take 4))
  let places (d : Reg) (g : Group) (f : Fibre) : List Nat := (List.range 4).filterMap (fun i => g.place f.b (regPlus d i))
  let traps (i : Instr) (legal : Group → Fibre → Prop) : Prop :=
    ∀ (s : State) (w : Warp) (a : Active) (g : Group) (x e gp : List Fibre), Issues s i w a g x e gp → (∃ f ∈ x, ¬ legal g f) →
      ∃ addr, exec i s = .next (s.trapHere w a a.lanes { cls := 6, addr := addr })
  (∀ gd d q n fs sc, Launches (.rnmove gd d q n fs sc) {
    ok := fun _ _ _ g x => ∀ f ∈ x, congruent (at_ g f d) (at_ g f q) (len g f n)
    kind := fun _ _ g f => .rename (.move (at_ g f d) (at_ g f q) (len g f n)) }) ∧
  (∀ gd d q n fs sc, traps (.rnmove gd d q n fs sc) (fun g f => congruent (at_ g f d) (at_ g f q) (len g f n))) ∧
  (∀ gd d q n fs sc, Launches (.rnswap gd d q n fs sc) {
    ok := fun _ _ _ g x => ∀ f ∈ x, congruent (at_ g f d) (at_ g f q) (len g f n) ∧ apart (at_ g f d) (at_ g f q) (len g f n)
    kind := fun _ _ g f => .rename (.swap (at_ g f d) (at_ g f q) (len g f n)) }) ∧
  (∀ gd d q n fs sc, traps (.rnswap gd d q n fs sc) (fun g f => congruent (at_ g f d) (at_ g f q) (len g f n) ∧
    apart (at_ g f d) (at_ g f q) (len g f n))) ∧
  (∀ gd d q n fs sc, Launches (.rnalias gd d q n fs sc) {
    ok := fun _ _ _ g x => ∀ f ∈ x, pages (at_ g f d) (len g f n) ∧ pages (at_ g f q) (len g f n)
    kind := fun _ _ g f => .rename (.copyLeaves (at_ g f d) (at_ g f q) (len g f n)) }) ∧
  (∀ gd d q n fs sc, traps (.rnalias gd d q n fs sc) (fun g f => pages (at_ g f d) (len g f n) ∧ pages (at_ g f q) (len g f n))) ∧
  (∀ gd n d q idx fs sc, Launches (.rnperm gd n d q idx fs sc) {
    ok := fun s _ _ g x => ∀ f ∈ x, let k := (f.word g n).toNat
      k ≤ 65536 ∧ pages (at_ g f d) (65536 * k) ∧ at_ g f q % 65536 = 0 ∧ (f.word g idx).toNat % 4 = 0 ∧
      (f.word g idx).toNat + 4 * k ≤ g.scratch ∧ ∀ i ∈ table s g (f.word g idx).toNat k, at_ g f q + 65536 * i < 2 ^ 52
    kind := fun s _ g f => .rename (.perm (at_ g f d) (at_ g f q) (table s g (f.word g idx).toNat (f.word g n).toNat)) }) ∧
  (∀ gd d n fs sc, Launches (.rndrop gd d n fs sc) {
    ok := fun _ _ _ g x => ∀ f ∈ x, pages (at_ g f d) (len g f n)
    kind := fun _ _ g f => .rename (.drop (at_ g f d) (len g f n)) }) ∧
  (∀ gd d n fs sc, traps (.rndrop gd d n fs sc) (fun g f => pages (at_ g f d) (len g f n))) ∧
  (∀ gd d n fs sc tier, Launches (.rnfresh gd d n fs sc tier) {
    ok := fun _ _ _ g x => ∀ f ∈ x, pages (at_ g f d) (len g f n)
    kind := fun _ _ g f => .rename (.fresh (at_ g f d) (len g f n) tier) }) ∧
  (∀ gd d n fs sc tier, traps (.rnfresh gd d n fs sc tier) (fun g f => pages (at_ g f d) (len g f n))) ∧
  (∀ gd d q fs, Launches (.rnquery gd d q fs) {
    ok := fun _ _ _ _ _ => True
    kind := fun _ _ g f => .query ((f.pair g q).setWidth 52) (places d g f) })

/-- R194 to R197, R243: the walker applies a rename once the earlier accesses and renames of its fibre have been: of one page of host or
peer memory, RNMOVE, RNALIAS and RNPERM make the destination's leaf the source's, RNMOVE and RNDROP leave the source without a leaf, and
RNSWAP exchanges the two; a rename of length 0 changes no table. It is performed when no access in flight uses an old leaf: the caches of
its scope have dropped the pages, and the flag falls. -/
def Claims.RenameWalker : Prop :=
  let due (s : State) (o : Op) (r : Rename) : Prop := s.op? o.id = some o ∧ o.kind = .rename r ∧ o.stage = .issued ∧ o.record = none ∧
    o.gid ≠ 0 ∧ s.renameDue o = true ∧ s.tidy ∧ s.overCount o.ctx = none
  let foreign (e : DWord) : Prop := pteValid e = true ∧ pteLeaf e = true ∧ 2 ≤ pteTier e
  let entry (s : State) (o : Op) (va a : Nat) (e : DWord) : Prop :=
    s.entryFor o.ctx va 3 = (some a, s) ∧ s.entryAt a = e ∧ (foreign e ∨ pteValid e = false) ∧ va % 65536 = 0 ∧ va < 2 ^ 52 ∧ a % 8 = 0 ∧
    storage a = .dram ∧ sget 0 s.unitKey (a / 16) = s.keyMark 0
  let applied (s t : State) (o : Op) : Prop := t.op? o.id = some { o with stage := .started } ∧ t.clock = s.clock + 1
  let reach (s : State) (o : Op) (p : TlbPlace) : Prop := match o.scope, p with
    | .fibre, .core n => n = o.core
    | .group, .core n => n = o.core ∨ ∃ g h, s.group? o.gid = some g ∧ h ∈ g.shares ∧ h.core = n
    | .die, .core n => n / 64 = o.core / 64
    | .device, .core _ => True
    | .system, _ => True
    | .device, .die _ => True
    | _, .die d => d = o.core / 64
    | _, .hub _ => False
  (∀ (s : State) (o : Op) r, due s o r → r ∈ [.move 0 0 0, .swap 0 0 0, .copyLeaves 0 0 0, .perm 0 0 [], .drop 0 0, .fresh 0 0 .asEntry] →
    ∃ t, exec (.renameApply o.id) s = .next t ∧ applied s t o ∧ t.mem = s.mem ∧ t.ctxs = s.ctxs) ∧
  (∀ (s : State) (o : Op) d q a b e f, entry s o d a e → entry s o q b f → foreign f → a ≠ b →
    (due s o (.move d q 65536) → ∃ t, exec (.renameApply o.id) s = .next t ∧ applied s t o ∧ t.entryAt a = f ∧ t.entryAt b = 0) ∧
    (due s o (.copyLeaves d q 65536) → ∃ t, exec (.renameApply o.id) s = .next t ∧ applied s t o ∧ t.entryAt a = f) ∧
    (due s o (.perm d 0 [q / 65536]) → ∃ t, exec (.renameApply o.id) s = .next t ∧ applied s t o ∧ t.entryAt a = f) ∧
    (due s o (.swap d q 65536) → ∃ t, exec (.renameApply o.id) s = .next t ∧ applied s t o ∧ t.entryAt a = f ∧ t.entryAt b = e) ∧
    (due s o (.drop q 65536) → ∃ t, exec (.renameApply o.id) s = .next t ∧ applied s t o ∧ t.entryAt b = 0)) ∧
  (∀ (s : State) (o : Op) r, s.op? o.id = some o → o.kind = .rename r → o.stage = .issued → s.renameDue o = false →
    exec (.renameApply o.id) s = .next s) ∧
  (∀ (s : State) (o : Op) (w : Warp) (f : Fibre) r, s.op? o.id = some o → o.kind = .rename r → o.stage = .started → o.gid ≠ 0 →
    s.fibreOf? o.gid o.fid = some (w, f) → s.warp? w.wid = some w → w.fibre? f.lane = some f →
    s.releasable o = true → s.oldLeafUsed o.id o.ctx r.ranges = false →
    ∃ t, exec (.renamePerformed o.id) s = .next t ∧ SameMemory s t ∧ t.ops = s.ops.filter (fun p => p.id ≠ o.id) ∧
      t.fibre? w.wid f.lane = some (match o.flag with
        | some n => f.fall n
        | none => f) ∧
      ∀ e, e ∈ t.tlb ↔ e ∈ s.tlb ∧ ¬ (reach s o e.place ∧ e.ctx = o.ctx ∧ ∃ x ∈ r.ranges, x.1 ≤ e.page ∧ e.page < x.1 + x.2)) ∧
  (∀ (s : State) (o : Op) r, s.op? o.id = some o → o.kind = .rename r → o.stage = .started →
    (s.releasable o = false ∨ s.oldLeafUsed o.id o.ctx r.ranges = true) → exec (.renamePerformed o.id) s = .next s)

/-- R229: RNQUERY, once the earlier renames of its fibre have been applied, writes the leaf's two words, the count, level and staged bit,
and the free frames of the leaf's tier; with no valid leaf only the free frames of HBM. -/
def Claims.RenameQuery : Prop :=
  ∀ (s : State) (o : Op) (w : Warp) (f : Fibre) (c : Ctx) va dst, s.op? o.id = some o → o.kind = .query va dst → o.spoil = [] → o.record = none →
    s.fibreOf? o.gid o.fid = some (w, f) → s.warp? w.wid = some w → w.fibre? f.lane = some f → w.handler = none →
    s.group? w.gid ≠ none → s.ctx? o.ctx = some c →
    (∀ a ∈ s.ops, a.gid = o.gid → a.fid = o.fid → a.order < o.order → ∀ r, a.kind = .rename r → a.stage ≠ .issued) →
    let ended (k : Fibre) : Fibre := match o.flag with
      | some n => k.fall n
      | none => k
    let word (n : Nat) : Word := BitVec.ofNat 32 n
    let free (l : List Nat) : Word := word (min l.length 0xFFFFFFFF)
    let lands (ws : List Word) : Prop := ∃ t, exec (.resultLands o.id) s = .next t ∧ SameMemory s t ∧
      t.ops = s.ops.filter (fun p => p.id ≠ o.id) ∧ t.fibre? w.wid f.lane = some (ended (f.puts (dst.zip ws)))
    (∀ e level a, s.walk c va.toNat = .leaf e level a →
      let count := if pteTier e < 2 then sget 0 c.counts (pteTier e * 2 ^ 32 + pteFrame e) else 0
      let staged := if c.staged.any (fun g => g.page = va.toNat / 65536) then 1 else 0
      lands [e.extractLsb' 0 32, e.extractLsb' 32 32, word (count % 256 + 256 * level + 65536 * staged),
        free (if pteTier e = 1 then c.pool1 else c.pool0)]) ∧
    (∀ cause level, s.walk c va.toNat = .stop cause level → cause ≠ 7 → lands [0, 0, 0, free c.pool0])

/-- The walker changes the leaves, the caches drop the pages, and RNQUERY reads the leaf (R194, R195, R196, R197, R229, R243). -/
def Obligations.RenameWalkerAndQuery : Prop := Claims.RenameWalker ∧ Claims.RenameQuery

/-! ## The matrix engine -/

/-- R189, R245, R267, R270, R279 to R283, R287: MMA, ACCZ, ACCMV, ACCST and ACCLD put one operation of the bundle into the queue of its
quadrant, with the operands of its members, and open their fibres' spans on its tiles and operand registers; a join first closes its fibres'
spans there. A full queue stalls the bundle, and a tile beyond the group's is an illegal operand. -/
def Obligations.MatrixIssue : Prop :=
  let run (g : Group) (f : Fibre) (r : Reg) (n : Nat) : List Nat := (List.range n).filterMap (fun i => g.place f.b (regPlus r i))
  let queues (i : Instr) (join : Bool) (last : Nat) (tiles : List Nat) (regs : Group → Fibre → List Nat)
      (ok : State → Warp → Group → Fibre → Prop) (op : Warp → Group → List Fibre → Fibre → MatOp) : Prop :=
    ∀ (s : State) (w : Warp) (a : Active) (g : Group) (f0 : Fibre) (x e gp : List Fibre), Issues s i w a g (f0 :: x) e gp →
      (s.quadFull w.wid = true → last < (g.tilesOn (w.wid / 48)).length → ok s w g f0 → exec i s = .next (s.advanceClock 1)) ∧
      ((g.tilesOn (w.wid / 48)).length ≤ last → w.bundle a ≠ [] → exec i s = .next (s.trapHere w a a.lanes { cls := 3 })) ∧
      (s.quadFull w.wid = false → last < (g.tilesOn (w.wid / 48)).length → ok s w g f0 → NoOpenOperand i g (f0 :: x) e →
        (∀ u ∈ g.uses, u.wid = w.wid ∨ u.core ≠ w.wid / 48 ∨ ∀ n ∈ tiles, n ∉ u.tiles) →
        let mine := (f0 :: x).map Fibre.id
        let kept := if join then g.uses.filter (fun u => !(mine.contains u.fid && u.tiles.any tiles.contains)) else g.uses
        let span (f : Fibre) : TileUse := { fid := f.id, wid := w.wid, core := w.wid / 48, cv := none, tiles := tiles, regs := regs g f }
        ∃ t o, exec i s = .next t ∧ SameMemory s t ∧
          Changes s t w (f0 :: x) (fun f => f.counted (flagOf i a)) (fun v => v) (countedLate s w i g e) (flagOf i a) ∧
          t.ops.filter (fun q => q.id < s.nextId) = s.ops.filter (fun q => q.id < s.nextId) ∧ t.ops.length = s.ops.length + 1 ∧ o ∈ t.ops ∧
          o.gid = w.gid ∧ o.wid = w.wid ∧ o.fids = mine ∧ o.stage = .issued ∧ o.flag = flagOf i a ∧ o.clock = s.clock ∧
          o.kind = .matrix (op w g (f0 :: x) f0) ∧ t.group? w.gid = some { g with uses := kept ++ (f0 :: x).map span } ∧
          SameUnits { s with ops := t.ops, groups := t.groups } t)
  let word (s : State) (w : Warp) (g : Group) (f : Fibre) (amax : Option Reg) : Prop := ∀ r, amax = some r →
    (f.pair g r).toNat % 4 = 0 ∧ s.onHostPage (w.wid / 48) g.ctx ((f.pair g r).toNat % 2 ^ 52) = false
  let at_ (g : Group) (f : Fibre) (amax : Option Reg) : Option Nat := amax.map (fun r => (f.pair g r).toNat % 2 ^ 52)
  let row (sp : Bool) (g : Group) (f : Fibre) (r : Reg) : Nat := if sp then (f.word g r).toNat else (f.pair g r).toNat % 2 ^ 52
  let size (wf : TileFmt) : Nat := if wf = .f32 then 4 else 2
  let rows (sp : Bool) (wf : TileFmt) (ra rp : Reg) (g : Group) (f : Fibre) : Prop := row sp g f ra % 16 = 0 ∧ (f.word g rp).toNat % 16 = 0 ∧
    (sp = true → row sp g f ra + 15 * (f.word g rp).toNat + 16 * size wf ≤ g.scratch)
  (∀ gd (n : BitVec 8) ra rb sc ck fmt,
    let scale (g : Group) (f : Fibre) : List Nat := match sc with
      | some (p : MmaScale) => run g f p.pair 2
      | none => []
    let frag (w : Warp) (g : Group) (f : Fibre) : Signature :=
      { fid := f.id, wid := w.wid, lane := f.lane, vlane := w.vlane f.lane, a := run g f ra 4, b := run g f rb 4, sc := scale g f }
    queues (.mma gd n ra rb sc ck fmt) false (n.toNat + ck.toNat) (if ck then [n.toNat, n.toNat + 1] else [n.toNat])
      (fun g f => run g f ra 4 ++ run g f rb 4 ++ scale g f) (fun _ _ _ _ => True)
      (fun w g x _ => .mma n.toNat fmt ck 1 (x.map (frag w g)) sc)) ∧
  (∀ gd n k, queues (.accz gd n k) true (n.toNat + k.toNat) ((List.range (k.toNat + 1)).map (fun i => n.toNat + i)) (fun _ _ => [])
    (fun _ _ _ _ => True) (fun _ _ _ _ => .accz n.toNat (k.toNat + 1))) ∧
  (∀ gd d amax n z fs, queues (.accmv gd d amax n z fs) true n.toNat [n.toNat] (fun _ _ => []) (fun s w g f => word s w g f amax)
    (fun _ g x f => .accmv n.toNat z (x.map (fun k => (k.id, run g k d 8))) (at_ g f amax) [] 0)) ∧
  (∀ gd amax ra n rp z sp wf fs, queues (.accst gd amax ra n rp z sp wf fs) true n.toNat [n.toNat] (fun _ _ => [])
    (fun s w g f => word s w g f amax ∧ rows sp wf ra rp g f)
    (fun _ g _ f => .accst n.toNat z sp wf (row sp g f ra) (f.word g rp).toNat (at_ g f amax) [] 0)) ∧
  (∀ gd ra n rp sp wf fs, queues (.accld gd ra n rp sp wf fs) true n.toNat [n.toNat] (fun _ _ => []) (fun _ _ g f => rows sp wf ra rp g f)
    (fun _ g _ f => .accld n.toNat sp wf (row sp g f ra) (f.word g rp).toNat))

/-- R39, R112, R276 to R278, R284, R285: CVSET gives a settled register its size; CVSIGN adds a signature, or waits while the register is
full; MMA.j arms the register; the operation starts when the register is armed and its count reaches the size, with the fragments of all
signers, and is dropped with a trap where their warps are not as many as its shape needs; MWAIT and OPFENCE wait, and close the windows of
their fibres. -/
def Obligations.Convergence : Prop :=
  let run (g : Group) (f : Fibre) (r : Reg) (n : Nat) : List Nat := (List.range n).filterMap (fun i => g.place f.b (regPlus r i))
  let conv (g : Group) (cv : Fin 16) : Conv := sget {} g.convs cv.val
  let signature (w : Warp) (g : Group) (f : Fibre) (ra rb : Reg) : Signature :=
    { fid := f.id, wid := w.wid, lane := f.lane, vlane := w.vlane f.lane, a := run g f ra 4, b := run g f rb 4 }
  let goes (i : Instr) (s : State) (t : State) : Prop := exec i s = .next t ∧ SameMemory s t
  let busy (s : State) (w : Warp) (g : Group) (x : List Fibre) (tile : Option (BitVec 8)) : Prop :=
    let named (ts : List Nat) : Prop := ∀ n, tile = some n → n.toNat ∈ ts
    (∃ o ∈ s.ops, ∃ m, o.gid = w.gid ∧ o.kind = .matrix m ∧ o.tilesBusy = true ∧ (∃ f ∈ x, f.id ∈ o.fids) ∧ named m.tiles) ∨
    ∃ f ∈ x, g.roundOpen f.id (tile.map BitVec.toNat) = true
  let unread (s : State) (w : Warp) (g : Group) (f : Fibre) : Prop :=
    (∃ o ∈ s.ops, ∃ n fmt ck side frags sc, o.gid = w.gid ∧ o.stage = .issued ∧ o.kind = .matrix (.mma n fmt ck side frags sc) ∧ frags ≠ [] ∧
      (f.id ∈ o.fids ∨ ∃ q ∈ frags, q.fid = f.id)) ∨
    ∃ c ∈ g.convs, (∃ q ∈ c.2.sigs, q.fid = f.id) ∨ ∃ r, c.2.arming = some r ∧ ∃ b ∈ r.by_, b.2 = f.id
  (∀ gd ra cv, Acts (.cvset gd ra cv) {
    ok := fun _ _ _ g x => (conv g cv).sigs = [] ∧ (conv g cv).arming = none ∧
      ∀ f ∈ x, 1 ≤ (f.word g ra).toNat % 4096 ∧ (f.word g ra).toNat % 4096 ≤ 2048
    units := fun s w _ g x => match x.getLast? with
      | some f => s.onGroup w.gid (fun q => { q with convs := sset {} q.convs cv.val { sget {} q.convs cv.val with size := (f.word g ra).toNat % 4096 } })
      | none => s }) ∧
  (∀ (s : State) (w : Warp) (a : Active) (g : Group) (x e gp : List Fibre) gd ra (cv : Fin 16), Issues s (.cvset gd ra cv) w a g x e gp →
    (∃ f ∈ x, (conv g cv).sigs ≠ [] ∨ (conv g cv).arming ≠ none ∨ (f.word g ra).toNat % 4096 = 0 ∨ 2048 < (f.word g ra).toNat % 4096) →
    exec (.cvset gd ra cv) s = .next (s.trapHere w a a.lanes { cls := 3 })) ∧
  (∀ (s : State) (w : Warp) (a : Active) (g : Group) (x e gp : List Fibre) ra rb (cv : Fin 16) (gd : Guard),
    Issues s (.cvsign gd ra rb cv) w a g x e gp → x ≠ [] → (conv g cv).size ≠ 0 → s.quadFull w.wid = false → s.signers w.gid cv.val = [] →
    swf {} g.convs = true →
    let c := conv g cv
    let q (f : Fibre) := signature w g f ra rb
    (c.sigs.length + x.length < c.size ∨ (c.sigs.length + x.length = c.size ∧ c.arming = none) →
      ∃ t, goes (.cvsign gd ra rb cv) s t ∧ (∀ f ∈ x, t.fibre? w.wid f.lane = some f) ∧ t.ops = s.ops ∧
        t.group? w.gid = some { g with convs := sset {} g.convs cv.val { c with sigs := c.sigs ++ x.map q },
                                       uses := g.uses ++ x.map (fun f => { fid := f.id, wid := w.wid, core := w.wid / 48, cv := some cv.val, tiles := [], regs := (q f).a ++ (q f).b }) }) ∧
    (c.size ≤ c.sigs.length → c.arming = none → ∃ t, goes (.cvsign gd ra rb cv) s t ∧ t.groups = s.groups ∧ ∀ f ∈ x, t.fibre? w.wid f.lane = some
        { f with park := some { wait := .sign cv.val (q f).a (q f).b, at_ := { hdr := a.hdr, idx := a.idx, mid := true } },
                 pos := { hdr := a.hdr, idx := a.idx + 1, mid := true } })) ∧
  (∀ (s : State) (w : Warp) (a : Active) (g : Group) (f : Fibre) (e gp : List Fibre) ra rb (cv : Fin 16) (gd : Guard),
    Issues s (.cvsign gd ra rb cv) w a g [f] e gp → (conv g cv).size ≠ 0 → s.quadFull w.wid = false → s.signers w.gid cv.val = [] →
    swf {} g.convs = true →
    let c := conv g cv
    let q := signature w g f ra rb
    (∀ r, c.sigs.length + 1 = c.size → c.arming = some r →
      let side := if r.m64 then 4 else 2
      let sigs := c.sigs ++ [q]
      let warps := (sigs.map Signature.wid).eraseDups
      (warps.length = side → (∀ n ∈ warps ++ r.by_.map Prod.fst, n / 48 = w.wid / 48) →
        (∀ u ∈ g.uses, u.wid ∈ warps ++ r.by_.map Prod.fst ∨ u.tiles = []) →
        ∃ t o, goes (.cvsign gd ra rb cv) s t ∧ t.ops.length = s.ops.length + 1 ∧ o ∈ t.ops ∧ o.gid = w.gid ∧ o.flag = none ∧ o.stage = .issued ∧
          o.kind = .matrix (.mma r.tile r.fmt r.ck side sigs none) ∧ o.fids = (sigs.map Signature.fid ++ r.by_.map Prod.snd).eraseDups ∧
          (t.group? w.gid).map (fun g => sget {} g.convs cv.val) = some { size := c.size }) ∧
      (warps.length ≠ side → ∃ t v, goes (.cvsign gd ra rb cv) s t ∧ t.ops = s.ops ∧ t.warp? w.wid = some v ∧
          (∃ k, v.replayTrap = some k ∧ k.cause = { cls := 3 }) ∧ (t.group? w.gid).map (fun g => sget {} g.convs cv.val) = some { size := c.size }))) ∧
  (∀ (s : State) (w : Warp) (a : Active) (g : Group) (f0 : Fibre) (x e gp : List Fibre) gd n m64 (cv : Fin 16) ck fmt,
    Issues s (.mmaJ gd n m64 cv ck fmt) w a g (f0 :: x) e gp → (conv g cv).size ≠ 0 → s.quadFull w.wid = false → s.signers w.gid cv.val = [] →
    (n : BitVec 8).toNat + (if m64 then 16 else 4) * (if ck then 2 else 1) ≤ (g.tilesOn (w.wid / 48)).length →
    let c := conv g cv
    let mine : List (Nat × Nat) := (f0 :: x).map (fun f => (w.wid, f.id))
    let arms (old : List (Nat × Nat)) : Arming := { tile := n.toNat, m64 := m64, fmt := fmt, ck := ck, by_ := old ++ mine }
    (∀ old, (c.arming = none ∧ old = []) ∨ (∃ r, c.arming = some r ∧ r = { arms [] with by_ := old }) → c.sigs.length < c.size →
      ∃ t, goes (.mmaJ gd n m64 cv ck fmt) s t ∧ t.ops = s.ops ∧ (∀ f ∈ f0 :: x, t.fibre? w.wid f.lane = some f) ∧
        t.group? w.gid = some { g with convs := sset {} g.convs cv.val { c with arming := some (arms old) } }) ∧
    (∀ r, c.arming = some r → (r.tile ≠ n.toNat ∨ r.m64 ≠ m64 ∨ r.fmt ≠ fmt ∨ r.ck ≠ ck) →
      exec (.mmaJ gd n m64 cv ck fmt) s = .next (s.trapHere w a a.lanes { cls := 3 })) ∧
    (c.arming = none → c.sigs.length = c.size → swf {} g.convs = true →
      let side := if m64 then 4 else 2
      let warps := (c.sigs.map Signature.wid).eraseDups
      warps.length = side → (∀ k ∈ warps, k / 48 = w.wid / 48) → (∀ u ∈ g.uses, u.wid ∈ warps ++ [w.wid] ∨ u.tiles = []) →
      ∃ t o, goes (.mmaJ gd n m64 cv ck fmt) s t ∧ t.ops.length = s.ops.length + 1 ∧ o ∈ t.ops ∧ o.gid = w.gid ∧ o.flag = none ∧ o.stage = .issued ∧
        o.kind = .matrix (.mma n.toNat fmt ck side c.sigs none) ∧ o.fids = (c.sigs.map Signature.fid ++ mine.map Prod.snd).eraseDups ∧
        (t.group? w.gid).map (fun g => sget {} g.convs cv.val) = some { size := c.size })) ∧
  (∀ gd tile, Acts (.mwait gd tile) {
    ok := fun s w _ g x => ¬ busy s w g x tile ∧ ∀ n, tile = some n → n.toNat < (g.tilesOn (w.wid / 48)).length
    units := fun s w _ _ x => s.onGroup w.gid (fun q => { q with uses := q.uses.filter (fun u => !((x.map Fibre.id).contains u.fid &&
      tile.all (fun n => u.tiles.contains n.toNat))) }) }) ∧
  (∀ (s : State) (w : Warp) (a : Active) (g : Group) (x e gp : List Fibre) gd tile, Issues s (.mwait gd tile) w a g x e gp → busy s w g x tile →
    (∀ n, tile = some n → n.toNat < (g.tilesOn (w.wid / 48)).length) → exec (.mwait gd tile) s = .next (s.advanceClock 1)) ∧
  (∀ gd, Acts (.opfence gd) {
    ok := fun s w _ g x => ∀ f ∈ x, ¬ unread s w g f
    units := fun s w _ _ x => s.onGroup w.gid (fun q => { q with uses := q.uses.map (fun u => if (x.map Fibre.id).contains u.fid then { u with regs := [] } else u) }) }) ∧
  (∀ (s : State) (w : Warp) (a : Active) (g : Group) (x e gp : List Fibre) gd, Issues s (.opfence gd) w a g x e gp →
    (∃ f ∈ x, unread s w g f) → exec (.opfence gd) s = .next (s.advanceClock 1))

/-- R269, R271 to R275, R279 to R284, R287: the engine starts the startable operation of the earliest issue. An MMA makes each element of
its tile the sum of its old value and the K products of its fragments, in the integer formats modulo 2^32; ACCZ makes its tiles 0; ACCMV and
ACCST read theirs, with `.z` then 0; and a started operation ends with its registers, its bytes or its tile written. -/
def Obligations.MatrixEngine : Prop :=
  let per (fmt : MmaFmt) : Nat := match fmt with
    | .bf16 | .fp16 => 2
    | .e4m3 | .e5m2 | .int8 => 4
    | .e2m1 | .int4 => 8
  let lane (s : State) (o : Op) (frags : List Signature) (which : Signature → List Nat) (l j : Nat) : Nat :=
    match frags.find? (fun q => q.vlane = l) with
    | some q => match s.fibreOf? o.gid q.fid with
      | some (_, f) => (((which q)[j]?).map (fun p => (sget 0 f.regs p).toNat)).getD 0
      | none => 0
    | none => 0
  let elem (s : State) (o : Op) (fmt : MmaFmt) (frags : List Signature) (which : Signature → List Nat) (i k : Nat) : Nat :=
    let p := per fmt
    lane s o frags which (i % 16 + 16 * (k / (4 * p))) (k % (4 * p) / p) / 2 ^ (32 / p * (k % p)) % 2 ^ (32 / p)
  let int (fmt : MmaFmt) (v : Nat) : Int := if v < 2 ^ (32 / per fmt - 1) then v else (v : Int) - 2 ^ (32 / per fmt)
  let format (fmt : MmaFmt) : Option FFmt := match fmt with
    | .bf16 => some bf16
    | .fp16 => some fp16
    | .e4m3 => some e4m3
    | .e5m2 => some e5m2
    | .e2m1 => some e2m1
    | _ => none
  let after (s : State) (o : Op) (fmt : MmaFmt) (frags : List Signature) (c : List Word) (i j : Nat) : Word :=
    let a (k : Nat) := elem s o fmt frags Signature.a i k
    let b (k : Nat) := elem s o fmt frags Signature.b j k
    match format fmt with
    | some f => mmaSum (fp32.read (c.getD (16 * i + j) 0).toNat :: (List.range (8 * per fmt)).map (fun k => scaledProduct f (a k) (b k) 127 127))
    | none => BitVec.ofInt 32 (((c.getD (16 * i + j) 0).toNat : Int) + ((List.range (8 * per fmt)).map (fun k => int fmt (a k) * int fmt (b k))).sum)
  let ready (s : State) (core : Nat) (o : Op) (g : Group) (m : MatOp) : Prop := s.nextMatrix core = some o ∧ s.op? o.id = some o ∧ o.kind = .matrix m ∧
    s.group? o.gid = some g ∧ o.wid / 48 = core ∧ s.tidy ∧ (∀ u ∈ g.uses, u.spoiled = false) ∧ (g.tilesOn core).Nodup ∧
    (∀ n ∈ m.tiles, n < (g.tilesOn core).length ∧ (s.readTile g core n).2 = s)
  let started (t : State) (o : Op) (m : MatOp) : Prop := t.op? o.id = some { o with stage := .started, kind := .matrix m }
  let tile (s : State) (core : Nat) (g : Group) (n : Nat) : List Word := (s.readTile g core n).1
  let zeros : List Word := List.replicate 256 0
  let ended (o : Op) (f : Fibre) : Fibre := match o.flag with
    | some n => f.fall n
    | none => f
  let finishing (s : State) (o : Op) (w : Warp) (g : Group) (x : List Fibre) (m : MatOp) : Prop := s.op? o.id = some o ∧ o.kind = .matrix m ∧ o.stage = .started ∧
    o.record = none ∧ s.behind o = false ∧ s.group? o.gid = some g ∧ o.fids = x.map Fibre.id ∧ o.spoil = [] ∧ s.tidy ∧ (x.map Fibre.id).Nodup ∧
    (x.map Fibre.lane).Nodup ∧ (∀ f ∈ x, s.fibreOf? o.gid f.id = some (w, f) ∧ w.fibre? f.lane = some f) ∧ s.warp? w.wid = some w ∧ w.handler = none ∧
    s.group? w.gid = some g
  let gone (s t : State) (o : Op) (w : Warp) (x : List Fibre) (k : Fibre → Fibre) : Prop :=
    (∀ f ∈ x, t.fibre? w.wid f.lane = some (ended o (k f))) ∧ t.ops = s.ops.filter (fun q => q.id ≠ o.id)
  (∀ (s : State) (core : Nat), s.nextMatrix core = none → exec (.matrixEngineStart core) s = .next s) ∧
  (∀ (s : State) (core : Nat) (o : Op) (g : Group) n fmt frags, ready s core o g (.mma n fmt false 1 frags none) →
    ∃ t, exec (.matrixEngineStart core) s = .next t ∧ started t o (.mma n fmt false 1 frags none) ∧
      t.readTile g core n = ((List.range 256).map (fun k => after s o fmt frags (tile s core g n) (k / 16) (k % 16)), t)) ∧
  (∀ (s : State) (core : Nat) (o : Op) (g : Group) n k, ready s core o g (.accz n k) →
    ∃ t, exec (.matrixEngineStart core) s = .next t ∧ started t o (.accz n k) ∧ ∀ i < k, t.readTile g core (n + i) = (zeros, t)) ∧
  (∀ (s : State) (core : Nat) (o : Op) (g : Group) n z dst amax, ready s core o g (.accmv n z dst amax [] 0) →
    let c := tile s core g n
    ∃ t m, exec (.matrixEngineStart core) s = .next t ∧ t.readTile g core n = (if z then zeros else c, t) ∧
      started t o (.accmv n z dst amax (dst.map (fun d => let l := s.vlaneOf o.gid d.1
        (d.1, (List.range 8).map (fun j => c.getD ((8 * (l / 16) + j) * 16 + l % 16) 0)))) m)) ∧
  (∀ (s : State) (core : Nat) (o : Op) (g : Group) n z addr pitch amax, ready s core o g (.accst n z true .f32 addr pitch amax [] 0) →
    let c := tile s core g n
    ∃ t m, exec (.matrixEngineStart core) s = .next t ∧ t.readTile g core n = (if z then zeros else c, t) ∧
      started t o (.accst n z true .f32 addr pitch amax ((List.range 256).flatMap (fun i => (List.range 4).map (fun b =>
        (addr + i / 16 * pitch + i % 16 * 4 + b, BitVec.ofNat 8 ((c.getD i 0).toNat / 256 ^ b))))) m)) ∧
  (∀ (s : State) (o : Op) (w : Warp) (g : Group) (x : List Fibre) m, ((∃ n fmt ck frags sc, m = .mma n fmt ck 1 frags sc) ∨ ∃ n k, m = .accz n k) →
    finishing s o w g x m → ∃ t, exec (.matrixOpFinish ⟨o.id, []⟩) s = .next t ∧ SameMemory s t ∧ gone s t o w x (fun f => f)) ∧
  (∀ (s : State) (o : Op) (w : Warp) (g : Group) (x : List Fibre) n z (d : Fibre → List Nat) (ws : Fibre → List Word) mx,
    finishing s o w g x (.accmv n z (x.map (fun f => (f.id, d f))) none (x.map (fun f => (f.id, ws f))) mx) →
    ∃ t, exec (.matrixOpFinish ⟨o.id, []⟩) s = .next t ∧ SameMemory s t ∧ gone s t o w x (fun f => f.puts ((d f).zip (ws f)))) ∧
  (∀ (s : State) (o : Op) (w : Warp) (g : Group) (x : List Fibre) n z wf addr pitch (bytes : List (Nat × Byte)) mx (into : Nat → Nat),
    finishing s o w g x (.accst n z true wf addr pitch none bytes mx) → 64 ≤ pitch → (∀ b ∈ bytes, ∃ c, g.scratchAt b.1 = some (c, into b.1)) →
    ∃ t, exec (.matrixOpFinish ⟨o.id, []⟩) s = .next t ∧ Stores s t g.ctx (bytes.map (fun b => (into b.1, b.2))) ∧ gone s t o w x (fun f => f)) ∧
  (∀ (s : State) (o : Op) (w : Warp) (g : Group) (x : List Fibre) n addr pitch, finishing s o w g x (.accld n true .f32 addr pitch) →
    n < (g.tilesOn (o.wid / 48)).length → (∀ u ∈ g.uses, u.spoiled = false) → (∀ i < 256, (s.readScratch g (addr + i / 16 * pitch + i % 16 * 4) 4).2 = s) →
    ∃ t, exec (.matrixOpFinish ⟨o.id, []⟩) s = .next t ∧ gone s t o w x (fun f => f) ∧
      t.readTile g (o.wid / 48) n = ((List.range 256).map (fun i => BitVec.ofNat 32 (natOf (s.readScratch g (addr + i / 16 * pitch + i % 16 * 4) 4).1)), t))

/-! ## The task graph -/

/-- R249, R260 to R262: NREL and NSTAT put one operation on the record in flight for each executing fibre; NWAIT takes the walker's status
word where the wait is over, and parks otherwise; a record address that is no multiple of 256 or lies outside the node area is an illegal
operand, as is the fibre's own record for NWAIT. -/
def Claims.NodeInstructions : Prop :=
  let at_ (g : Group) (f : Fibre) (r : Reg) : VAddr := (f.pair g r).setWidth 52
  let legal (s : State) (g : Group) (a : VAddr) : Prop := a.toNat % 256 = 0 ∧
    ∃ c, s.ctx? g.ctx = some c ∧ c.nodeBase + 256 ≤ a.toNat ∧ a.toNat + 256 ≤ c.nodeBase + c.nodeSize
  let code (st : NodeState) : Nat := match st with
    | .waiting => 0
    | .ready => 1
    | .running => 2
    | .complete => 3
    | .committed => 4
    | .failed => 5
    | .killed => 6
  let status (n : Node) : Word := BitVec.ofNat 32 (code n.state + 2 ^ 8 * (if n.state = .failed then n.code else 0) + 2 ^ 16 * n.u.toNat +
    2 ^ 17 * n.bad.toNat + 2 ^ 18 * (if (n.state = .failed ∨ n.state = .killed) ∧ n.u = true then 1 else 0))
  let ends (prov : Bool) (n : Node) : Prop := 4 ≤ code n.state ∨ (prov = true ∧ code n.state = 3)
  let wait (a : Active) (prov : Bool) (n : VAddr) (dst : Option Nat) : Park :=
    { wait := .node prov n dst, at_ := { hdr := a.hdr, idx := a.idx, mid := true } }
  let bad (i : Instr) (r : Reg) (own : Bool) : Prop := ∀ (s : State) (w : Warp) (a : Active) (g : Group) (f : Fibre) (x y e gp : List Fibre),
    Issues s i w a g (x ++ f :: y) e gp → (∀ k ∈ x, legal s g (at_ g k r) ∧ (own = true → at_ g k r ≠ g.node)) →
    (¬ legal s g (at_ g f r) ∨ (own = true ∧ at_ g f r = g.node)) → exec i s = .next (s.trapHere w a a.lanes { cls := 3, addr := (at_ g f r).toNat })
  (∀ gd ra fs, Launches (.nrel gd ra fs) {
    ok := fun s w _ g x => ∀ f ∈ x, legal s g (at_ g f ra) ∧ Serves s w g .g (at_ g f ra).toNat 256 .read
    kind := fun _ _ g f => .nrel (at_ g f ra) }) ∧
  (∀ gd d ra fs, Launches (.nstat gd d ra fs) {
    ok := fun s w _ g x => ∀ f ∈ x, legal s g (at_ g f ra) ∧ Serves s w g .g (at_ g f ra).toNat 256 .read
    kind := fun _ _ g f => .nstat (at_ g f ra) (g.places f.b [d]) }) ∧
  (∀ gd ra fs, bad (.nrel gd ra fs) ra false) ∧ (∀ gd d ra fs, bad (.nstat gd d ra fs) ra false) ∧ (∀ gd d ra prov, bad (.nwait gd d ra prov) ra true) ∧
  (∀ (s : State) (w : Warp) (a : Active) (g : Group) (x e gp : List Fibre) gd d ra prov (n : Fibre → Node), Issues s (.nwait gd d ra prov) w a g x e gp →
    NoOpenOperand (.nwait gd d ra prov) g x e → x ≠ [] →
    (∀ f ∈ x, legal s g (at_ g f ra) ∧ at_ g f ra ≠ g.node ∧ s.node? g.ctx (at_ g f ra) = some (n f) ∧ Serves s w g .g (at_ g f ra).toNat 1 .read) →
    ∃ t, exec (.nwait gd d ra prov) s = .next t ∧ SameMemory s t ∧ ((∃ f ∈ x, ends prov (n f)) → ∀ l ∈ t.l1, l ∈ s.l1 ∧ l.core ≠ w.wid / 48) ∧
      ∀ f ∈ x, (ends prov (n f) → t.fibre? w.wid f.lane = some (f.gets g d (status (n f)))) ∧
        (¬ ends prov (n f) → t.fibre? w.wid f.lane = some { f with park := some (wait a prov (at_ g f ra) (g.place f.b d)) })) ∧
  (∀ (s : State) (o : Op) (w : Warp) (f : Fibre) a dst n, s.readyOp? o.id = (some o, s) → s.op? o.id = some o → o.kind = .nstat a dst → o.spoil = [] →
    s.fibreOf? o.gid o.fid = some (w, f) → s.warp? w.wid = some w → w.fibre? f.lane = some f → w.handler = none → s.group? w.gid ≠ none →
    s.node? o.ctx a = some n → ∃ t, exec (.resultLands o.id) s = .next t ∧ SameMemory s t ∧ t.ops = s.ops.filter (fun p => p.id ≠ o.id) ∧
      t.fibre? w.wid f.lane = some (match o.flag with
        | some k => (f.puts (dst.zip [status n])).fall k
        | none => f.puts (dst.zip [status n])))

/-- R246, R251, R252, R260, R262: the host's add and a performed NREL take 1 from a record's pred count; at 0 the walker reads the record,
and a valid node becomes READY and its placement is tried; a count of 0 stays. -/
def Claims.NodeReleases : Prop :=
  let pred (s : State) (cn : Nat) (a : VAddr) : Nat := (s.walkerNat cn (a.toNat + 8) 4).1
  let steady (s : State) (cn : Nat) (a : VAddr) : Prop := (s.walkerNat cn (a.toNat + 8) 4).2 = s ∧ s.asLeft cn a = (false, s)
  let lowered (s : State) (cn : Nat) (a : VAddr) : State := s.walkerWrite cn (a.toNat + 8) (bytesOf 4 (pred s cn a - 1))
  let host (s : State) (port cn : Nat) (a : VAddr) : Prop := port < 2 ∧ s.dev.boot = .ready ∧ s.isRecord cn a = true
  let unaided (s : State) (cn : Nat) (a : VAddr) (k : Node) : Prop := k.addr = a ∧ k.ctx = cn ∧ s.node? cn a = some k ∧ k.state = .waiting
  let fresh (s : State) (cn : Nat) (a : VAddr) : Node := { addr := a, ctx := cn, state := .waiting, record := ((lowered s cn a).walkerRead cn a.toNat 256).1 }
  (∀ (s : State) port cn a, host s port cn a → steady s cn a → 2 ≤ pred s cn a →
    ∃ t, exec (.hostNodeRelease port cn a) s = .next t ∧ t.mem = (lowered s cn a).mem ∧ t.ops = s.ops ∧ t.groups = s.groups ∧ t.warps = s.warps) ∧
  (∀ (s : State) port cn a, host s port cn a → steady s cn a → pred s cn a = 0 → s.dev.elog = 0 →
    ∃ t, exec (.hostNodeRelease port cn a) s = .next t ∧ SameMemory s t ∧ SameUnits s t) ∧
  (∀ (s : State) port cn a, host s port cn a → steady s cn a → pred s cn a = 1 → s.node? cn a = none →
    (fresh s cn a).refusal = none → (fresh s cn a).kind ≠ 4 → ((lowered s cn a).walkerRead cn a.toNat 256).2 = lowered s cn a →
    ∃ t n, exec (.hostNodeRelease port cn a) s = .next t ∧ t.node? cn a = some n ∧ n.state = .ready ∧ n.depth = 0 ∧ n.parent = none ∧
      n.record = (fresh s cn a).record ∧ n.placed = 0 ∧ n.tryPlace = true) ∧
  (∀ (s : State) port cn a, ¬ (port < 2 ∧ s.dev.boot = .ready ∧ s.isRecord cn a = true) → exec (.hostNodeRelease port cn a) s = .next s) ∧
  (∀ (s : State) (o : Op) (w : Warp) (f : Fibre) a k, s.readyOp? o.id = (some o, s) → s.op? o.id = some o → o.kind = .nrel a → s.nrelDue o = true →
    s.fibreOf? o.gid o.fid = some (w, f) → s.warp? w.wid = some w → w.fibre? f.lane = some f →
    unaided s o.ctx a k → k.parent ≠ none → steady s o.ctx a → 2 ≤ pred s o.ctx a →
    ∃ t, exec (.nrelDecrementPerformed o.id) s = .next t ∧ t.mem = (lowered s o.ctx a).mem ∧ t.ops = s.ops.filter (fun p => p.id ≠ o.id) ∧
      t.fibre? w.wid f.lane = some (match o.flag with
        | some n => f.fall n
        | none => f)) ∧
  (∀ (s : State) (o : Op) a, s.readyOp? o.id = (some o, s) → o.kind = .nrel a → s.nrelDue o = false →
    exec (.nrelDecrementPerformed o.id) s = .next s)

/-- NREL, NSTAT and NWAIT, and the releases that make a node READY (R246, R249, R251, R252, R260, R261, R262). That an operand naming the
control block is illegal is the model's reading (log entry 59). -/
def Obligations.NodeInstructionsAndReleases : Prop := Claims.NodeInstructions ∧ Claims.NodeReleases

/-- R199, R252, R254 to R260, R396: a READY node of kind COPY starts on the copy engine of its mask with the fewest queued commands; a first
write to a page of a region stages it; a node whose work has ended becomes COMPLETE; it commits once its slots have passed a later scan and
its predecessors are terminal; a rollback makes it READY again or fails it with 0x05; and a reported error fails it with its code, with its
groups, warps and operations gone. The choice among engines for a COPY node, and that only codes of the rules are written, are the model's
readings (log entries 37 and 39). -/
def Obligations.NodeLife : Prop :=
  let field (n : Node) (off len : Nat) : Nat := natOf ((n.record.drop off).take len)
  let kind (n : Node) : Nat := field n 0 4 % 16
  let replayable (n : Node) : Prop := field n 0 4 / 2 ^ 8 % 2 = 1
  let mine (s : State) (cn : Nat) (a : VAddr) (n : Node) : Prop := s.node? cn a = some n ∧ n.ctx = cn ∧ n.addr = a
  let state (t : State) (cn : Nat) (a : VAddr) (st : NodeState) : Prop := ∃ m, t.node? cn a = some m ∧ m.state = st
  let stopped (t : State) (cn : Nat) (a : VAddr) : Prop := (∀ g ∈ t.groups, ¬ (g.ctx = cn ∧ g.node = a)) ∧ ∀ o ∈ t.ops, ¬ (o.ctx = cn ∧ o.node = a)
  let alone (s : State) (cn : Nat) (a : VAddr) (n : Node) : Prop := mine s cn a n ∧ n.released = [] ∧ n.parent = none ∧ field n 0xC 4 = 0 ∧
    s.dev.elog = 0 ∧ (∀ k ∈ s.nodes, k.ctx = cn → k.parent ≠ some a) ∧ ∀ c, s.ctx? cn = some c → ∀ g ∈ c.staged, g.node ≠ a
  let scanned (s : State) (w : Work) : Prop := ∃ t, w.last = some t ∧
    (if w.slot < 512 then t < (s.core w.slot).passedAt ∧ (s.core w.slot).overdue = false
     else t < (s.scan (w.slot - 512)).engPassedAt ∧ (s.scan (w.slot - 512)).engOverdue = false)
  (∀ (s : State) cn a n core, mine s cn a n → n.state = .ready → kind n = 1 → field n 0x58 4 % 2 = 0 → s.places = true → s.copyEngineFor n = some core →
    (∃ c, s.ctx? cn = some c ∧ c.state = 0) →
    ∃ t o, exec (.nodeStart cn a) s = .next t ∧ state t cn a .running ∧ o ∈ t.ops ∧ o.core = core ∧ o.gid = 0 ∧ o.ctx = cn ∧ o.node = a ∧ o.stage = .issued ∧
      o.kind = .copy { dir := .gg, dst := field n 0x40 8 % 2 ^ 52, src := field n 0x38 8 % 2 ^ 52, rows := 1, rowBytes := field n 0x48 8, dstPitch := 0,
                       srcPitch := 0, verify := field n 0x58 4 / 2 % 2 = 1 }) ∧
  (∀ (s : State) n core, s.copyEngineFor n = some core → core < 512 ∧ n.masks core = true ∧ s.coreServes core = true ∧
    ∀ c < 512, n.masks c = true → s.coreServes c = true → (s.copyQueue c).length < 64 →
      (s.copyQueue core).length < (s.copyQueue c).length ∨ ((s.copyQueue core).length = (s.copyQueue c).length ∧ core ≤ c)) ∧
  (∀ (s : State) cn a (page : VAddr) o c k e at_ f fs, s.ops.find? (fun o => o.ctx = cn && o.node = a && o.writesPage (page.toNat / 65536)) = some o →
    s.mustStage cn a (page.toNat / 65536) = some k → s.tidy → s.ctx? cn = some c → c.root % 4096 = 0 → s.entryFor cn (page.toNat / 65536 * 65536) 3 = (some at_, s) →
    s.entryAt at_ = e → pteTier e = 0 → sget 0 c.counts (pteFrame e) = 1 → c.pool0 = f :: fs → f < 2 ^ 32 → f ≠ pteFrame e →
    ∃ t d, exec (.stagePage cn a page) s = .next t ∧ t.ctx? cn = some d ∧ d.pool0 = fs ∧
      { node := a, page := page.toNat / 65536, tier := 0, frame := pteFrame e, oldLeaf := e } ∈ d.staged ∧
      (let l := t.entryAt at_
       pteFrame l = f ∧ pteStaged l = true ∧ pteTier l = 0 ∧ pteKey l = pteKey e ∧ pteR l = pteR e ∧ pteW l = pteW e ∧ pteX l = pteX e) ∧
      ∀ x ∈ t.tlb, ¬ (x.ctx = cn ∧ x.page = page.toNat / 65536)) ∧
  (∀ (s : State) cn a (page : VAddr), s.mustStage cn a (page.toNat / 65536) = none → exec (.stagePage cn a page) s = .next s) ∧
  (∀ (s : State) cn a n, mine s cn a n → n.state = .running → kind n = 0 → n.placed = field n 0x40 4 → n.retired = field n 0x40 4 → n.children = 0 →
    (∀ o ∈ s.ops, ¬ (o.ctx = cn ∧ o.node = a)) → field n 0xC 4 = 0 → ∃ t, exec (.nodeComplete cn a) s = .next t ∧ state t cn a .complete) ∧
  (∀ (s : State) cn a n, mine s cn a n → n.state = .running → kind n = 0 → (n.placed ≠ field n 0x40 4 ∨ n.retired ≠ field n 0x40 4 ∨ n.children ≠ 0) →
    exec (.nodeComplete cn a) s = .next s) ∧
  (∀ (s : State) cn a n, mine s cn a n → n.state = .complete → n.parent = none → (∀ w ∈ n.works, scanned s w) →
    (∀ p ∈ n.preds, ∀ q, s.node? cn p = some q → q.state ∈ [.committed, .failed, .killed]) →
    ∃ t, exec (.nodeCommit cn a) s = .next t ∧ state t cn a .committed ∧ ∀ c, t.ctx? cn = some c → ∀ g ∈ c.staged, g.node ≠ a) ∧
  (∀ (s : State) cn a n, mine s cn a n → n.state = .complete → (∃ w ∈ n.works, ¬ scanned s w) → exec (.nodeCommit cn a) s = .next s) ∧
  (∀ (s : State) cn a n, alone s cn a n → (n.state = .running ∨ n.state = .complete) → replayable n → n.u = false →
    ∃ t, exec (.nodeRollback cn a) s = .next t ∧ state t cn a .ready ∧ stopped t cn a) ∧
  (∀ (s : State) cn a n, alone s cn a n → (n.state = .running ∨ n.state = .complete) → (¬ replayable n ∨ n.u = true) →
    ∃ t m, exec (.nodeRollback cn a) s = .next t ∧ t.node? cn a = some m ∧ m.state = .failed ∧ m.code = 5 ∧ stopped t cn a) ∧
  (∀ (s : State) cn a n (code : BitVec 8), alone s cn a n → (n.state = .ready ∨ n.state = .running) →
    code.toNat ∈ [1, 2, 3, 4, 5, 6, 7, 8, 9, 10, 16, 17, 18, 19, 20, 21, 22, 23, 24, 25, 26, 31, 32, 33, 34, 35, 36] →
    ∃ t m, exec (.nodeFail cn a code) s = .next t ∧ t.node? cn a = some m ∧ m.state = .failed ∧ m.code = code.toNat ∧ stopped t cn a)

/-- R26, R29, R48 to R55, R252: a waiting group is placed on the core that can hold it with the most free slots: the group, its warps with
their fibres at the code address and the storage of its share stand there; and a group whose fibres have all exited and whose operations
have finished is retired, with all that it held free. Which free granules, tiles and slots a group takes is the model's choice (log entries
34 and 35). -/
def Obligations.Groups : Prop :=
  (∀ (s : State), s.places = false ∨ s.placers = [] → exec .groupPlacement s = .next s) ∧
  (∀ (s : State) (n : Node) (c : Ctx) (core : Nat) seats ptr, s.places = true → s.placers = [n] → s.node? n.ctx n.addr = some n → n.state = .ready →
    n.launch.groups = n.placed + 1 → n.launch.cores = some 1 → s.ctx? n.ctx = some c →
    s.chooseCores n.masks (n.launch.share 1 0) 1 = some [core] → s.seatShare core (n.launch.share 1 0) = some (seats, ptr) →
    (∀ q ∈ seats, q.idx < 64) → (seats.map Seat.idx).Nodup → (s.nodes.map (fun k => (k.ctx, k.addr))).Nodup →
    let l := n.launch
    ∃ t g ws, exec .groupPlacement s = .next t ∧ t.groups = s.groups ++ [g] ∧ t.warps = s.warps ++ ws ∧ ws.length = seats.length ∧
      g.ctx = n.ctx ∧ g.node = n.addr ∧ g.index = n.placed ∧ g.ngroup = l.groups ∧ g.size = l.fibres ∧ g.a = l.a ∧ g.f = l.f ∧ g.resid = l.resid ∧
      g.scratch = (l.scratch + 8191) / 8192 * 8192 ∧
      g.shares = [{ core := core, granules := (s.freeGranules core).take (g.scratch / 8192), tiles := (s.freeTiles core).take (l.tilesFor 1) }] ∧
      (∀ w ∈ ws, w.gid = g.gid ∧ { idx := w.idx, wid := w.wid, run := w.run } ∈ seats ∧ w.active = none ∧ w.queue = [] ∧ w.handler = none ∧ w.mode.toNat = l.mode ∧
        w.remap = List.range 32 ∧ ∀ f ∈ w.fibres, f.pos = { hdr := BitVec.ofNat 52 l.code } ∧ f.id = 32 * w.idx + f.lane ∧ f.id < l.fibres ∧
          f.n = min (l.a - l.f) 608 ∧ f.regs = [] ∧ f.links = [] ∧ f.flags = [] ∧ f.park = none ∧ f.rngKey = BitVec.ofNat 128 l.seed ∧ f.rngCtr = 0) ∧
      ∃ m, t.node? n.ctx n.addr = some m ∧ m.state = .running ∧ m.placed = n.placed + 1) ∧
  (∀ (s : State) (g : Group) (n : Node), s.group? g.gid = some g → (∀ w ∈ s.warps, w.gid = g.gid → w.fibres = []) →
    (∀ o ∈ s.ops, o.gid = g.gid → o.writesGroup = false) → s.node? g.ctx g.node = some n →
    ∃ t m, exec (.groupRetire g.gid) s = .next t ∧ t.groups = s.groups.filter (fun x => x.gid ≠ g.gid) ∧ t.warps = s.warps.filter (fun w => w.gid ≠ g.gid) ∧
      SameMemory s t ∧ t.ops = s.ops ∧ t.node? g.ctx g.node = some m ∧ m.retired = n.retired + 1) ∧
  (∀ (s : State) (g : Group) (w : Warp) (f : Fibre), s.group? g.gid = some g → w ∈ s.warps → w.gid = g.gid → f ∈ w.fibres →
    exec (.groupRetire g.gid) s = .next s)

/-! ## Expert routing -/

/-- R290 to R296: SORTCNT puts one request in the queue of its die for each executing fibre, while the queue of 16 has room; a block address
that is no multiple of 128 is an illegal operand. The engine takes the first request that has been sent to it: a block with a field outside
its limits fails with code 0x01, an id out of range with code 0x02, and otherwise the counts, offsets, permutation and shape records that it
will write, some of which may be visible at once, and the new biases follow from the ids. The request completes with its outputs, status
word and completion word written, and its flag falls. That an instruction enqueues what fits is the model's reading (log entry 62). -/
def Obligations.SortCount : Prop :=
  let at_ (g : Group) (f : Fibre) (r : Reg) : VAddr := (f.pair g r).setWidth 52
  let n (b : List Byte) (off len : Nat) : Nat := natOf ((b.drop off).take len)
  let addr (b : List Byte) (off : Nat) : Nat := n b off 8 % 2 ^ 52
  let k (b : List Byte) : Nat := n b 8 4 % 16
  let bias (b : List Byte) : Prop := n b 8 4 / 256 % 2 = 1
  let pairs (b : List Byte) : Nat := n b 4 4 * k b
  let fits (b : List Byte) : Prop :=
    1 ≤ n b 0 4 ∧ n b 0 4 ≤ 4096 ∧ 1 ≤ n b 4 4 ∧ n b 4 4 ≤ 2 ^ 21 ∧ 1 ≤ k b ∧ k b ≤ 8 ∧ pairs b ≤ 2 ^ 21 ∧ n b 8 4 / 16 % 16 = 0 ∧ n b 8 4 / 512 = 0 ∧
    addr b 0x10 % 2 = 0 ∧ addr b 0x18 % 4 = 0 ∧ addr b 0x20 % 4 = 0 ∧ addr b 0x28 % 4 = 0 ∧ addr b 0x30 % 64 = 0 ∧ addr b 0x38 % 16 = 0 ∧
    n b 0x40 4 % 16 = 0 ∧ 16 ≤ n b 0x40 4 ∧ n b 0x40 4 ≤ 2 ^ 20 ∧ (bias b → addr b 0x58 % 65536 = 0) ∧ (¬ bias b → addr b 0x58 = 0) ∧
    n b 0x64 4 = 0 ∧ addr b 0x68 % 4 = 0 ∧ n b 0x70 16 = 0
  let cnt (ids : List Nat) (e : Nat) : Nat := (ids.filter (fun i => i = e)).length
  let off (ids : List Nat) (e : Nat) : Nat := ((List.range e).map (cnt ids)).sum
  let perm (b : List Byte) (ids : List Nat) : List Nat := (List.range (n b 0 4)).flatMap (fun e =>
    ((List.range ids.length).filter (fun i => ids[i]? = some e)).map (fun i => i / k b + i % k b * 2 ^ 21))
  let shape (b : List Byte) (ids : List Nat) (e : Nat) : List Byte :=
    bytesOf 8 ((addr b 0x38 + off ids e * n b 0x40 4) % 2 ^ 52) ++ bytesOf 4 (n b 0x40 4) ++ bytesOf 4 (cnt ids e) ++ bytesOf 4 (n b 0x44 4) ++
    bytesOf 4 e ++ bytesOf 8 ((addr b 0x48 + e * n b 0x50 8) % 2 ^ 52) ++ bytesOf 4 (if cnt ids e = 0 then 1 else 0) ++ List.replicate 28 0
  let words (a : Nat) (l : List Nat) : List (Nat × Byte) :=
    (List.range (4 * l.length)).map (fun i => (a + i, (bytesOf 4 (l.getD (i / 4) 0)).getD (i % 4) 0))
  let outs (b : List Byte) (ids : List Nat) : List (Nat × Byte) :=
    words (addr b 0x18) ((List.range (n b 0 4)).map (cnt ids)) ++ words (addr b 0x20) ((List.range (n b 0 4 + 1)).map (off ids)) ++
    words (addr b 0x28) (perm b ids) ++ (List.range (64 * n b 0 4)).map (fun i => (addr b 0x30 + i, (shape b ids (i / 64)).getD (i % 64) 0))
  let arrays (b : List Byte) (ids : List Nat) : List (Nat × Nat × Access) :=
    [(addr b 0x18, 4 * n b 0 4, .write), (addr b 0x20, 4 * (n b 0 4 + 1), .write), (addr b 0x28, 4 * (perm b ids).length, .write), (addr b 0x30, 64 * n b 0 4, .write)]
  let ranges (b : List Byte) (ids : List Nat) : List (Nat × Nat) := (arrays b ids).map (fun x => (x.1, x.2.1)) ++ [(addr b 0x10, 2 * pairs b)] ++
    (if n b 8 4 / 256 % 2 = 1 then [(addr b 0x58, 65536)] else [])
  let apart (b : List Byte) (ids : List Nat) : Prop := (ranges b ids).Pairwise (fun x y => x.1 + x.2 ≤ y.1 ∨ y.1 + y.2 ≤ x.1)
  let on (s : State) (d : Nat) (o : Op) : State := s.onOp o.id (fun o => { o with server := d })
  let takes (s : State) (die d : Nat) (o : Op) (b : VAddr) (req : List Byte) : Prop := s.engineDie die = some d ∧ s.sortBusy d = false ∧
    s.engineTakes d = true ∧ (arrivalOrder (s.sortQueue die)).find? s.mayBegin = some o ∧ s.op? o.id = some o ∧
    o.kind = .sort b req [] 0 0 none none ∧ s.tidy
  let opens (s : State) (o : Op) (a len : Nat) : Prop := s.engineOpen o.id [(a, len, .read)] = (true, s) ∧ (s.engineRead o.id a len).2 = s
  let read (s : State) (o : Op) (a len : Nat) : List Byte := (s.engineRead o.id a len).1
  let block (s0 s1 : State) (o : Op) (b : VAddr) (req bs : List Byte) : Prop :=
    (req ≠ [] ∧ bs = req ∧ s1 = s0) ∨
    (req = [] ∧ opens s0 o b.toNat 128 ∧ bs = read s0 o b.toNat 128 ∧ s1 = s0.onOp o.id (fun o => { o with kind := .sort b bs [] 0 0 none none }))
  let denied (s : State) (o : Op) (b : List Byte) : Prop := bias b ∧ ∃ c, s.ctx? o.ctx = some c ∧ (match s.walk c (addr b 0x58) with
    | .leaf e _ _ => pteR e && pteW e
    | _ => true) = false
  let ids (s : State) (o : Op) (b : List Byte) : List Nat := (List.range (pairs b)).map (fun i => n (read s o (addr b 0x10) (2 * pairs b)) (2 * i) 2)
  let newBias (eta old : Word) (total e c : Nat) : Word :=
    if e * c = total then (if (fp32.read old.toNat).isSig then 0x7FC00000 else old)
    else BitVec.ofNat 32 (fp32.fadd .rne false 0 (fp32.read old.toNat) (if e * c < total then fp32.read eta.toNat else (fp32.read eta.toNat).neg)).bits
  let started (t : State) (o : Op) (d : Nat) (kd : OpKind) : Prop := ∃ q, t.op? o.id = some q ∧ q.stage = .started ∧ q.kind = kd ∧ q.server = d
  (∀ gd ra fs sc, Launches (.sortcnt gd ra fs sc) {
    ok := fun s w _ g x => (s.sortQueue (w.wid / 48 / 64)).length + x.length ≤ 16 ∧ ∀ f ∈ x, (at_ g f ra).toNat % 128 = 0
    kind := fun _ _ g f => .sort (at_ g f ra) [] [] 0 0 none none }) ∧
  (∀ (s : State) (w : Warp) (a : Active) (g : Group) (f : Fibre) (x y e gp : List Fibre) gd ra fs sc, Issues s (.sortcnt gd ra fs sc) w a g (x ++ f :: y) e gp →
    (∀ k ∈ x, (at_ g k ra).toNat % 128 = 0) →
    ((at_ g f ra).toNat % 128 ≠ 0 → exec (.sortcnt gd ra fs sc) s = .next (s.trapHere w a a.lanes { cls := 3, addr := (at_ g f ra).toNat })) ∧
    ((∀ k ∈ f :: y, (at_ g k ra).toNat % 128 = 0) → 16 ≤ (s.sortQueue (w.wid / 48 / 64)).length → exec (.sortcnt gd ra fs sc) s = .next (s.advanceClock 1))) ∧
  (∀ (s : State) die d, s.engineDie die = some d → (s.sortBusy d = true ∨ s.engineTakes d = false) → exec (.sortcntRequestStart die) s = .next s) ∧
  (∀ (s s0 : State) die d (o : Op) b req bs, takes s die d o b req → block (on s d o) s0 o b req bs →
    (¬ fits bs ∨ denied s0 o bs → ∃ t, exec (.sortcntRequestStart die) s = .next t ∧ SameMemory s t ∧
      started t o d (.sort b bs [] 0x102 (if addr bs 0x68 % 4 = 0 then addr bs 0x68 else 0) none none)) ∧
    (fits bs → ¬ denied s0 o bs → ¬ bias bs → opens s0 o (addr bs 0x10) (2 * pairs bs) →
      ((∃ i ∈ ids s0 o bs, n bs 0 4 ≤ i ∧ i ≠ 0xFFFF) → ∃ t, exec (.sortcntRequestStart die) s = .next t ∧ SameMemory s t ∧
        started t o d (.sort b bs [] 0x202 (addr bs 0x68) none none)) ∧
      ((∀ i ∈ ids s0 o bs, i < n bs 0 4 ∨ i = 0xFFFF) → apart bs (ids s0 o bs) → s0.engineOpen o.id (arrays bs (ids s0 o bs)) = (true, s0) →
        ∀ (into : Nat → Nat) kw, (∀ x ∈ outs bs (ids s0 o bs), pinned ((s0.op? o.id).getD o).wpins (x.1 % 2 ^ 52) = some (into x.1, kw)) →
        ∃ (t : State) (early : List Nat), exec (.sortcntRequestStart die) s = .next t ∧
          started t o d (.sort b bs ((outs bs (ids s0 o bs)).filter (fun x => !early.contains (x.1 / 16))) 1 (addr bs 0x68) none none) ∧
          Stores s t kw (((outs bs (ids s0 o bs)).filter (fun x => early.contains (x.1 / 16))).map (fun x => (into x.1, x.2))))) ∧
    (fits bs → ¬ denied s0 o bs → bias bs → s0.engineOpen o.id [(addr bs 0x10, 2 * pairs bs, .read), (addr bs 0x58, 65536, .read)] = (true, s0) →
      (s0.engineRead o.id (addr bs 0x10) (2 * pairs bs)).2 = s0 → (∀ i ∈ ids s0 o bs, i < n bs 0 4 ∨ i = 0xFFFF) → apart bs (ids s0 o bs) →
      s0.engineOpen o.id (arrays bs (ids s0 o bs)) = (true, s0) → (s0.engineRead o.id (addr bs 0x58) (4 * n bs 0 4)).2 = s0 →
      let old := read s0 o (addr bs 0x58) (4 * n bs 0 4)
      let new := (List.range (n bs 0 4)).map (fun e => newBias (BitVec.ofNat 32 (n bs 0x60 4)) (BitVec.ofNat 32 (n old (4 * e) 4)) (off (ids s0 o bs) (n bs 0 4))
        (n bs 0 4) (cnt (ids s0 o bs) e))
      ∃ t out, exec (.sortcntRequestStart die) s = .next t ∧ (∀ x ∈ out, x ∈ outs bs (ids s0 o bs)) ∧
        (started t o d (.sort b bs out 1 (addr bs 0x68) (some (addr bs 0x58, new, off (ids s0 o bs) (n bs 0 4))) none) ∨ started t o d (.sort b bs out 1 (addr bs 0x68) none (some (addr bs 0x58))) ∨
         started t o d (.sort b bs out 0x301 (addr bs 0x68) none none)))) ∧
  (∀ (s : State) (o : Op) b req out st done bs page, s.op? o.id = some o → o.stage = .started → o.record = none → o.kind = .sort b req out st done bs page →
    s.engineOpen o.id ((b.toNat + 0xC, 4, .write) :: (if done = 0 then [] else [(done, 4, .write)])) = (true, s) →
    (bs = none → out ≠ [] → ∀ (into : Nat → Nat) kw, s.tidy → (∀ x ∈ out, pinned o.wpins (x.1 % 2 ^ 52) = some (into x.1, kw)) →
      ∃ t, exec (.sortcntRequestComplete o.id) s = .next t ∧ t.op? o.id = some { o with kind := .sort b req [] st done none page } ∧
        Stores s t kw (out.map (fun x => (into x.1, x.2)))) ∧
    (∀ p ws k c a, bs = some (p, ws, k) → out = [] → s.entryFor o.ctx p 3 = (some a, s) → s.ctx? o.ctx = some c → pteTier (s.entryAt a) ≠ 1 →
      s.mustStage o.ctx o.node (p / 65536) = none →
      storage a = .dram → a % 8 = 0 → c.root % 4096 = 0 →
      (c.pool0 = [] → ∃ t, exec (.sortcntRequestComplete o.id) s = .next t ∧ SameMemory s t ∧
        t.op? o.id = some { o with kind := .sort b req [] (st + 0x300) done none none }) ∧
      (∀ f fs, c.pool0 = f :: fs → f < 2 ^ 32 → f ≠ a / 65536 → f ≠ pteFrame (s.entryAt a) → ∃ t, exec (.sortcntRequestComplete o.id) s = .next t ∧
        t.op? o.id = some { o with kind := .sort b req [] st done none (some p) } ∧
        (let e := s.entryAt a
         let l := t.entryAt a
         pteFrame l = f ∧ pteTier l = 0 ∧ pteStaged l = false ∧ pteKey l = pteKey e ∧ pteR l = pteR e ∧ pteW l = pteW e ∧ pteX l = pteX e))) ∧
    (∀ p, bs = none → out = [] → page = some p → s.oldLeafUsed o.id o.ctx [(p / 65536, 1)] = true → exec (.sortcntRequestComplete o.id) s = .next s) ∧
    (bs = none → out = [] → page = none → ∀ (w : Warp) (f : Fibre) (into : Nat → Nat) kw, o.gid ≠ 0 → s.tidy →
      (∀ i < 4, pinned o.wpins ((b.toNat + 0xC + i) % 2 ^ 52) = some (into (b.toNat + 0xC + i), kw)) →
      (done ≠ 0 → ∀ i < 4, pinned o.wpins ((done + i) % 2 ^ 52) = some (into (done + i), kw)) →
      s.fibreOf? o.gid o.fid = some (w, f) → s.warp? w.wid = some w → w.fibre? f.lane = some f →
      let word (va : Nat) : List (Nat × Byte) := (List.range 4).map (fun i => (into (va + i), (bytesOf 4 st).getD i 0))
      ∃ t, exec (.sortcntRequestComplete o.id) s = .next t ∧ Stores s t kw (word (b.toNat + 0xC) ++ (if done = 0 then [] else word done)) ∧
        t.ops = s.ops.filter (fun p => p.id ≠ o.id) ∧ t.fibre? w.wid f.lane = some (match o.flag with
          | some n => f.fall n
          | none => f)) ∧
    (bs = none → out = [] → page = none → o.gid = 0 → ∃ t, exec (.sortcntRequestComplete o.id) s = .next t ∧ t.op? o.id = some { o with stage := .done }))

/-- R299 to R304, R402: CARSEND puts one caravan in the queue of its die's port for each executing fibre, its header with the source die and
the CRC in place; a caravan leaves with its row once the earlier ones of its fibre have; an intact one is written to the next slot of its
buffer and raises the fill word, or is dropped and raises the overflow word where it does not fit; one that fails its CRC is counted and
sent again, and is dropped after its fourth arrival. That the sender's translation is not checked again is the model's reading (log entry
66). -/
def Obligations.Caravans : Prop :=
  let at_ (g : Group) (f : Fibre) (r : Reg) : Nat := (f.pair g r).toNat % 2 ^ 52
  let row (inS : Bool) (g : Group) (f : Fibre) (r : Reg) : Nat := if inS then (f.word g r).toNat else at_ g f r
  let size (g : Group) (f : Fibre) (r : Reg) : Nat := (f.word g r).toNat
  let bit (h : DWord) (i : Nat) : Nat := h.toNat / 2 ^ i % 2
  let crc (h : DWord) : Nat := (List.range 52).foldl (fun c i => ((c * 2) % 4096) ^^^ (if c / 2048 = bit h (63 - i) then 0 else 0x80F)) 0
  let signed (h : DWord) (die : Nat) : DWord :=
    let body : DWord := BitVec.ofNat 64 (die % 512 * 2 ^ 55 + h.toNat / 2 ^ 12 % 2 ^ 43 * 2 ^ 12)
    BitVec.ofNat 64 (body.toNat + crc body)
  let intact (h : DWord) : Prop := crc h = h.toNat % 4096
  let fits (inS : Bool) (g : Group) (f : Fibre) (len rr buf : Reg) : Prop :=
    size g f len % 16 = 0 ∧ size g f len ≠ 0 ∧ size g f len ≤ 32768 ∧ row inS g f rr % 16 = 0 ∧ at_ g f buf % 64 = 0 ∧
    (inS = true → row inS g f rr + size g f len ≤ g.scratch)
  let away (s : State) (w : Warp) (g : Group) (f : Fibre) (buf : Reg) : Prop :=
    ∃ p, s.translate [.die (w.wid / 48 / 64)] g.ctx (at_ g f buf) .write = (.ok p, s) ∧ p.1 / 2 ^ 48 ≠ 2
  let n (b : List Byte) (o len : Nat) : Nat := natOf ((b.drop o).take len)
  let wellFormed (d : List Byte) : Prop := 1 ≤ n d 4 4 ∧ n d 4 4 ≤ 2 ^ 21 ∧ n d 8 4 % 16 = 0 ∧ 32 ≤ n d 8 4 ∧ n d 8 4 ≤ 32784 ∧ n d 0x10 8 % 16 = 0
  let taken (d : List Byte) (len : Nat) : Prop := wellFormed d ∧ n d 0 4 < n d 4 4 ∧ len + 16 ≤ n d 8 4
  let place (s : State) (o : Op) (pins : List (Nat × Nat × Nat)) (sp : Space) (va : Nat) : Option (Nat × Nat) := match sp with
    | .s => (s.group? o.gid).bind (fun g => (g.scratchAt va).map (fun p => (p.2, g.ctx)))
    | _ => pinned pins (va % 2 ^ 52)
  let rowIs (s : State) (o : Op) (sp : Space) (r len : Nat) (bs : List Byte) : Prop := bs.length = len ∧ ∀ i < len, ∃ p q,
    place s o o.pins sp (r + i) = some (p, q) ∧ s.defined q p ∧ bs[i]? = some (s.readByte q p).1
  let put (pa v : Nat) : List (Nat × Byte) := (List.range 4).map (fun i => (pa + i, (bytesOf 4 v).getD i 0))
  let done (s t : State) (o : Op) : Prop := t.ops = s.ops.filter (fun p => p.id ≠ o.id) ∧
    ∀ w f, s.fibreOf? o.gid o.fid = some (w, f) → s.warp? w.wid = some w → w.fibre? f.lane = some f → t.fibre? w.wid f.lane = some (match o.flag with
      | some n => f.fall n
      | none => f)
  (∀ gd len rr hdr buf fs inS, Launches (.carsend gd len rr hdr buf fs inS) {
    ok := fun s w _ g x => (s.carQueue (w.wid / 48 / 64)).length + x.length ≤ 256 ∧ ∀ f ∈ x, fits inS g f len rr buf ∧
      away s w g f buf ∧ s.mustStage g.ctx g.node (at_ g f buf / 65536) = none
    kind := fun s w g f => .caravan (if inS then .s else .g) (row inS g f rr) (size g f len) (signed (f.pair g hdr) (8 * s.dev.modnum + w.wid / 48 / 64))
      ((f.pair g buf).setWidth 52) [] 0 }) ∧
  (∀ (s : State) (w : Warp) (a : Active) (g : Group) (f : Fibre) (x y e gp : List Fibre) gd len rr hdr buf fs inS,
    Issues s (.carsend gd len rr hdr buf fs inS) w a g (x ++ f :: y) e gp → (∀ k ∈ x, fits inS g k len rr buf ∧ away s w g k buf) →
    (¬ fits inS g f len rr buf ∨ (∃ p t, s.translate [.die (w.wid / 48 / 64)] g.ctx (at_ g f buf) .write = (.ok p, t) ∧ p.1 / 2 ^ 48 = 2) →
      ∃ addr, exec (.carsend gd len rr hdr buf fs inS) s = .next (s.trapHere w a a.lanes { cls := 3, addr := addr })) ∧
    ((∀ k ∈ f :: y, fits inS g k len rr buf ∧ away s w g k buf) → 256 ≤ (s.carQueue (w.wid / 48 / 64)).length →
      exec (.carsend gd len rr hdr buf fs inS) s = .next (s.advanceClock 1))) ∧
  (∀ (s : State) (o : Op) sp r len h d bs k hdr, s.op? o.id = some o → o.kind = .caravan sp r len h d bs k → o.stage = .issued →
    (∃ p, pinned o.wpins d.toNat = some p ∧ p.1 / 2 ^ 48 ≠ 2) →
    (s.carDue o = false → exec (.caravanArrive (.op o.id hdr [])) s = .next s) ∧
    (s.carDue o = true → s.engineOpen o.id ((d.toNat, 64, .write) :: (if sp = .g then [(r, len, .read)] else [])) = (true, s) →
      ∀ now, rowIs s o sp r len now → ∃ t, exec (.caravanArrive (.op o.id hdr [])) s = .next t ∧ SameMemory s t ∧
        t.ops = s.ops.filter (fun q => q.id ≠ o.id) ++ [{ o with stage := .started, parks := false, kind := .caravan sp r len h d now k }])) ∧
  (∀ (s : State) (o : Op) sp r len h d bs k hdr pa key, s.op? o.id = some o → o.kind = .caravan sp r len h d bs k → o.stage = .started →
    o.record = none → o.drain = none → s.carBehind o = false → s.carWriting pa = false → pinned o.wpins d.toNat = some (pa, key) → rowIs s o sp r len bs → s.dev.elog = 0 → s.tidy →
    storage pa = .dram → swf 0 s.dev.quarantine = true → (∀ i < 64, s.defined key (pa + i)) →
    let desc := (List.range 64).map (fun i => (s.readByte key (pa + i)).1)
    let die := stackDie (stackOf pa)
    (intact hdr → ¬ taken desc len → ∃ t, exec (.caravanArrive (.op o.id hdr [])) s = .next t ∧ Stores s t key (put (pa + 0xC) (n desc 0xC 4 + 1)) ∧ done s t o) ∧
    (intact hdr → taken desc len → len % 16 = 0 → ∀ (into : Nat → Nat),
      let slot := (n desc 0x10 8 % 2 ^ 52 + n desc 0 4 * n desc 8 4) % 2 ^ 52
      s.engineOpen o.id [(slot, len + 16, .write)] = (true, s) → (∀ i < len + 16, pinned o.wpins ((slot + i) % 2 ^ 52) = some (into i, key)) →
      (∀ i < 4, pinned o.wpins ((d.toNat + i) % 2 ^ 52) = some (pa + i, key)) →
      let image := bytesOf 8 hdr.toNat ++ bytesOf 4 len ++ bytesOf 4 0 ++ bs
      ∃ t, exec (.caravanArrive (.op o.id hdr [])) s = .next t ∧ done s t o ∧
        Stores s t key ((List.range (len + 16)).map (fun i => (into i, image.getD i 0)) ++ put pa (n desc 0 4 + 1))) ∧
    (¬ intact hdr → k < 3 → ∃ t, exec (.caravanArrive (.op o.id hdr [])) s = .next t ∧ SameMemory s t ∧
      t.op? o.id = some { o with kind := .caravan sp r len h d bs (k + 1) } ∧ ∃ q, t.dev = { s.dev with quarantine := q } ∧
        sget 0 q die = (sget 0 s.dev.quarantine die + 1) % 2 ^ 32) ∧
    (¬ intact hdr → 3 ≤ k → ∃ t, exec (.caravanArrive (.op o.id hdr [])) s = .next t ∧ Stores s t key (put (pa + 0xC) (n desc 0xC 4 + 1)) ∧ done s t o)) ∧
  (∀ (s : State) (o : Op) sp r len h d bs k hdr, s.op? o.id = some o → o.kind = .caravan sp r len h d bs k → o.stage = .started → o.drain = none →
    s.carBehind o = true → exec (.caravanArrive (.op o.id hdr [])) s = .next s)

/-! ## The Wadi -/

/-- R307, R309, R318, R319, R321: WOPEN, WRED and WCLOSE put one operation of the bundle in flight, through its lowest virtual lane; WWAIT
answers with the status of the round's record, WCORR with the size of the union of its ids where that union is full or no time is left, and
both with 0xFFFFFFFF for a round whose slot a later round has taken; until then their fibres park. The wait on a channel that is not open is
the model's reading (log entry 64). -/
def Obligations.WadiInstructions : Prop :=
  let at_ (g : Group) (f : Fibre) (r : Reg) : VAddr := (f.pair g r).setWidth 52
  let bundles (i : Instr) (ok : Group → Fibre → Prop) (kind : Warp → Group → List Fibre → Fibre → OpKind) : Prop :=
    ∀ (s : State) (w : Warp) (a : Active) (g : Group) (f0 : Fibre) (x e gp : List Fibre), Issues s i w a g (f0 :: x) e gp →
      NoOpenOperand i g (f0 :: x) e → ok g f0 →
      ∃ t o, exec i s = .next t ∧ SameMemory s t ∧
        Changes s t w (f0 :: x) (fun f => f.counted (flagOf i a)) (fun v => v) (countedLate s w i g e) (flagOf i a) ∧
        t.ops = s.ops ++ [o] ∧ o.gid = w.gid ∧ o.wid = w.wid ∧ o.fids = (f0 :: x).map Fibre.id ∧ o.stage = .issued ∧ o.flag = flagOf i a ∧ o.record = none ∧
        o.kind = kind w g (f0 :: x) f0 ∧ SameUnits { s with ops := t.ops } t
  let chan (s : State) (g : Group) (ch : BitVec 8) (c : Chan) : Prop := s.wadi.find? (fun x => x.ch = ch.toNat) = some c ∧ c.ctx = g.ctx
  let gone (c : Chan) (r : Word) : Prop := ∃ x l, c.written = x :: l ∧ (x.1 - r).toNat < 2 ^ 31 ∧ 1 ≤ (x.1 - r).toNat ∧ c.slots ≤ (x.1 - r).toNat
  let record (c : Chan) (r : Word) : Option (Word × Word × List Nat) := c.written.find? (fun x => x.1 = r)
  let wait (wt : Wait) (a : Active) : Park := { wait := wt, at_ := { hdr := a.hdr, idx := a.idx, mid := true } }
  let still (i : Instr) (s : State) (t : State) : Prop := exec i s = .next t ∧ SameDefined s t ∧ t.ops = s.ops ∧ t.wadi = s.wadi
  let answered (s t : State) (w : Warp) (g : Group) (f : Fibre) (d : Reg) (v : Word) : Prop :=
    t.fibre? w.wid f.lane = some (f.gets g d v) ∧ t.l1 = s.l1.filter (fun l => l.core ≠ w.wid / 48)
  let parked (t : State) (w : Warp) (f : Fibre) (p : Park) : Prop := t.fibre? w.wid f.lane = some { f with park := some p }
  let union (_c : Chan) (ids more : List Nat) : List Nat := (List.range 1024).filter (fun i => ids.contains i || more.contains i)
  let size (c : Chan) (ids more : List Nat) : Word := BitVec.ofNat 32 ((union c ids more).length + (if union c ids more = c.mapped then 2 ^ 31 else 0))
  let later (s : State) (n : Word) : Nat := s.time + 10 * Config.ns * n.toNat
  (∀ gd ra ch fs, bundles (.wopen gd ra ch fs) (fun g f => (at_ g f ra).toNat % 64 = 0) (fun _ g _ f => .wopen ch.toNat (at_ g f ra))) ∧
  (∀ (s : State) (w : Warp) (a : Active) (g : Group) (f : Fibre) (x e gp : List Fibre) gd ra ch fs, Issues s (.wopen gd ra ch fs) w a g (f :: x) e gp →
    (∀ k ∈ x, w.vlane k.lane ≠ w.vlane f.lane) → (at_ g f ra).toNat % 64 ≠ 0 →
    exec (.wopen gd ra ch fs) s = .next (s.trapHere w a a.lanes { cls := 3, addr := (at_ g f ra).toNat })) ∧
  (∀ gd vs vi vr ch n fs, bundles (.wred gd vs vi vr ch n fs) (fun _ _ => True) (fun w g x f => .wred ch.toNat (f.word g vr) ((f.word g vi).toNat % 1024)
    ((List.range (32 * (n.toNat + 1))).map (fun e => (x.find? (fun k => w.vlane k.lane = e % 32)).map (fun k => k.word g (regPlus vs (e / 32))))))) ∧
  (∀ gd ch fs, bundles (.wclose gd ch fs) (fun _ _ => True) (fun _ _ _ _ => .wclose ch.toNat)) ∧
  (∀ (s : State) (w : Warp) (a : Active) (g : Group) (x e gp : List Fibre) gd d vr ch, Issues s (.wwait gd d vr ch) w a g x e gp →
    NoOpenOperand (.wwait gd d vr ch) g x e → ∃ t, still (.wwait gd d vr ch) s t ∧ ∀ f ∈ x,
      (∀ c, chan s g ch c → gone c (f.word g vr) → answered s t w g f d 0xFFFFFFFF) ∧
      (∀ c st ids, chan s g ch c → ¬ gone c (f.word g vr) → record c (f.word g vr) = some (f.word g vr, st, ids) → answered s t w g f d st) ∧
      ((∀ c, chan s g ch c → ¬ gone c (f.word g vr) ∧ record c (f.word g vr) = none) →
        parked t w f (wait (.wadi ch.toNat (f.word g vr) (g.place f.b d)) a))) ∧
  (∀ (s : State) (w : Warp) (a : Active) (g : Group) (x e gp : List Fibre) gd d vr vb ch, Issues s (.wcorr gd d vr vb ch) w a g x e gp →
    NoOpenOperand (.wcorr gd d vr vb ch) g x e →
    (∀ f ∈ x, ∀ c st ids, chan s g ch c → record c (f.word g vr) = some (f.word g vr, st, ids) →
      ∃ n more, s.walkerNat c.ctx c.corr 4 = (n, s) ∧ s.corrIds c (f.word g vr) (min n c.cap) 0 = (more, s)) →
    ∃ t, still (.wcorr gd d vr vb ch) s t ∧ ∀ f ∈ x,
      let r := f.word g vr
      let park := wait (.corr ch.toNat r (later s (f.word g vb)) (g.place f.b d)) a
      (∀ c, chan s g ch c → gone c r → answered s t w g f d 0xFFFFFFFF) ∧
      (∀ c st ids n more, chan s g ch c → ¬ gone c r → record c r = some (r, st, ids) → s.walkerNat c.ctx c.corr 4 = (n, s) →
        s.corrIds c r (min n c.cap) 0 = (more, s) →
        (union c ids more = c.mapped ∨ later s (f.word g vb) = s.time → answered s t w g f d (size c ids more)) ∧
        (union c ids more ≠ c.mapped → s.time < later s (f.word g vb) → parked t w f park)) ∧
      ((∀ c, chan s g ch c → ¬ gone c r ∧ record c r = none) → parked t w f park))

/-- R308, R310 to R316, R319, R321: the steps of the Wadi: a channel opens where its block is sound and it is free; a contribution of an
unmapped or repeated id is rejected, one of a later round waits, one of a forwarded round is late, and any other joins its round; a full or
expired round is forwarded, at the top root as its record; a WCORR whose time is out leaves with what has arrived; and a closing channel
discards its rounds and becomes free. The form of a correction entry is the model's reading (log entry 64). -/
def Obligations.WadiSteps : Prop :=
  let later (a b : Word) : Prop := 1 ≤ (a - b).toNat ∧ (a - b).toNat < 2 ^ 31
  let ends (s t : State) (o : Op) : Prop := t.ops = s.ops.filter (fun p => p.id ≠ o.id) ∧
    ∀ w ∈ s.warps, ∀ f ∈ w.fibres, w.gid = o.gid → f.id ∈ o.fids → s.warp? w.wid = some w → w.fibre? f.lane = some f → o.fids.Nodup →
      t.fibre? w.wid f.lane = some (match o.flag with
        | some n => f.fall n
        | none => f)
  let n (b : List Byte) (off len : Nat) : Nat := natOf ((b.drop off).take len)
  let map (b : List Byte) : List Nat := ((List.range 1024).map (fun i => n b (0x40 + 2 * i) 2)).filter (fun d => d ≠ 0xFFFF)
  let sound (s : State) (die : Nat) (b : List Byte) : Prop :=
    let span := n b 0 4 / 256 % 4
    let top := n b 0 4 / 1024 % 64
    n b 0 4 / 4 % 64 = 0 ∧ n b 0 4 / 2 ^ 16 = 0 ∧ span ≤ 2 ∧ 1 ≤ n b 4 4 ∧ n b 4 4 ≤ 1024 ∧ 1 ≤ n b 8 2 ∧ 1 ≤ n b 0xA 2 ∧
    (if span = 2 then 1 ≤ n b 0x10 2 else n b 0x10 2 = 0) ∧ n b 0x12 2 = 0 ∧ 1 ≤ n b 0x14 4 ∧ n b 0x14 4 ≤ 256 ∧ n b 0x18 8 % 2 ^ 52 % 16 = 0 ∧
    n b 0x20 8 % 2 ^ 52 % 16 = 0 ∧ n b 0x28 4 ≤ 65535 ∧ n b 0x2C 4 = 0 ∧ n b 0x30 8 % 2 ^ 52 % 4 = 0 ∧ n b 0x38 8 = 0 ∧ map b ≠ [] ∧
    (∀ d ∈ map b, d < 512) ∧ (span = 0 → ∀ d ∈ map b, d = 8 * s.dev.modnum + die) ∧ (span = 1 → ∀ d ∈ map b, d / 8 = s.dev.modnum) ∧
    (span = 2 → top = s.dev.modnum ∨ s.reachable top = true)
  let opens (s : State) (o : Op) (ch : Nat) (b : List Byte) (t : State) : Prop := ∃ c, t.wadi = s.wadi ++ [c] ∧ c.ch = ch ∧ c.ctx = o.ctx ∧ c.op = n b 0 4 % 4 ∧
    c.span = n b 0 4 / 256 % 4 ∧ c.elems = n b 4 4 ∧ c.slots = n b 0x14 4 ∧ c.result = n b 0x18 8 % 2 ^ 52 ∧ c.corr = n b 0x20 8 % 2 ^ 52 ∧
    c.cap = n b 0x28 4 ∧ c.word = n b 0x30 8 % 2 ^ 52 ∧ (∀ i < 1024, c.map[i]? = some (n b (0x40 + 2 * i) 2)) ∧ c.rejects = 0 ∧ c.written = [] ∧
    c.transit = [] ∧ c.closing = false ∧ ∀ m ∈ c.nodes, m.last = none ∧ m.rounds = [] ∧ m.seen = [] ∧ m.firsts = []
  let chan (s : State) (ch : Nat) (c : Chan) : Prop := s.wadi.find? (fun x => x.ch = ch) = some c
  let node (c : Chan) (lvl : Nat) (m : WNode) : Prop := c.nodes.find? (fun x => x.lvl = lvl) = some m ∧ (c.nodes.map (fun x => x.lvl)).Nodup
  let element (op : Nat) (v : Option Word) : Word := match v with
    | none => if op = 1 then 0xFF800000 else if op = 2 then 0 else 0x80000000
    | some v => if op ≠ 3 then v else if (fp32.read (v <<< 16).toNat).isSig then 0x7FC00000 else v <<< 16
  let combine (op : Nat) (a b : Word) : Word :=
    if op = 1 then BitVec.ofNat 32 (fminmax true false false a.toNat b.toNat).bits else if op = 2 then a + b
    else BitVec.ofNat 32 (fp32.fadd .rne false 0 (fp32.read a.toNat) (fp32.read b.toNat)).bits
  let vector (c : Chan) (es : List (Option Word)) : List Word := (List.range c.elems).map (fun e => element c.op (es.getD e none))
  let contribution (s : State) (o : Op) (ch : Nat) (r : Word) (id : Nat) (es : List (Option Word)) : Prop :=
    s.op? o.id = some o ∧ o.kind = .wred ch r id es ∧ o.stage = .issued ∧ ∀ a ∈ s.ops, a.gid = o.gid → a.order < o.order → (∃ f ∈ a.fids, f ∈ o.fids) →
      ∀ c q i v, a.kind = .wred c q i v → a.stage ≠ .issued ∧ ¬ (c = ch ∧ q = r)
  let mine (s : State) (o : Op) (c : Chan) (id : Nat) : Prop := c.ctx = o.ctx ∧ c.closing = false ∧ c.map.getD id 0xFFFF = 8 * s.dev.modnum + o.core / 64
  let recordBytes (c : Chan) (r : Word) (st : Nat) (ids : List Nat) (v : List Word) : List Byte := bytesOf 4 r.toNat ++ bytesOf 4 ids.length ++ bytesOf 4 st ++
    bytesOf 4 c.elems ++ bytesOf 128 (ids.foldl (fun m i => m ||| 2 ^ i) 0) ++ v.flatMap (fun x => bytesOf 4 x.toNat)
  let recLen (c : Chan) : Nat := (0x90 + 4 * c.elems + 15) / 16 * 16
  let written (s : State) (c : Chan) (r : Word) (st : Nat) (ids : List Nat) (v : List Word) : State :=
    let s1 := s.walkerWrite c.ctx (c.result + r.toNat % c.slots * recLen c) (recordBytes c r st ids v)
    if c.word = 0 then s1 else s1.walkerWrite c.ctx c.word (bytesOf 4 r.toNat)
  let nobody (s : State) : Prop := ∀ w ∈ s.warps, ∀ f ∈ w.fibres, f.park = none
  let top (c : Chan) (lvl : Nat) : Prop := (c.span = 0 ∧ lvl < 8) ∨ (c.span = 1 ∧ lvl = 8) ∨ (2 ≤ c.span ∧ lvl = 9)
  let raised (s : State) (c : Chan) (off : Nat) : State := s.walkerWrite c.ctx (c.corr + off) (bytesOf 4 ((s.walkerNat c.ctx (c.corr + off) 4).1 + 1))
  let budget (c : Chan) (lvl : Nat) : Nat := 10 * Config.ns * (if lvl < 8 then c.dieBudget else if lvl = 8 then c.devBudget else c.fabBudget)
  let expects (s : State) (c : Chan) (lvl : Nat) : List Nat := c.mapped.filter (fun i => let d := c.map.getD i 0xFFFF
    if lvl < 8 then d = 8 * s.dev.modnum + lvl else if lvl = 8 then d / 8 = s.dev.modnum else true)
  let calm (s : State) (c : Chan) (lvl : Nat) (m : WNode) : Prop := s.wadiWaiting c.ch lvl = [] ∧ (∀ t, m.taken = some t → t.1 ≠ s.clock) ∧
    ∀ l, m.last = some l → ∀ q ∈ m.rounds, q.round = l + 1 → s.time < q.first + budget c lvl
  let found (s : State) (o : Op) (ch : Nat) (c : Chan) (m : WNode) : Prop := chan s ch c ∧ node c (o.core / 64) m ∧ calm s c (o.core / 64) m
  (∀ (s : State) (o : Op) ch cfg, s.op? o.id = some o → o.kind = .wopen ch cfg →
    (s.sent o = false → exec (.wopenStatusWritten o.id) s = .next s) ∧
    (s.sent o = true → s.engineOpen o.id [(cfg.toNat, 2112, .read), (cfg.toNat + 0xC, 4, .write)] = (true, s) → (s.engineRead o.id cfg.toNat 2112).2 = s → s.tidy →
      ∀ (into : Nat → Nat) kw, (∀ i < 4, pinned o.wpins ((cfg.toNat + 0xC + i) % 2 ^ 52) = some (into i, kw)) →
      let b := (s.engineRead o.id cfg.toNat 2112).1
      let ok := sound s (o.core / 64) b
      let word (st : Nat) : List (Nat × Byte) := (List.range 4).map (fun i => (into i, (bytesOf 4 st).getD i 0))
      (¬ ok → ∃ t, exec (.wopenStatusWritten o.id) s = .next t ∧ ends s t o ∧ Stores s t kw (word 3) ∧ t.wadi = s.wadi) ∧
      (ok → ∀ c, chan s ch c → ∃ t, exec (.wopenStatusWritten o.id) s = .next t ∧ ends s t o ∧ Stores s t kw (word 2) ∧ t.wadi = s.wadi) ∧
      (ok → (∀ c ∈ s.wadi, c.ch ≠ ch) → ∃ t, exec (.wopenStatusWritten o.id) s = .next t ∧ ends s t o ∧ Stores s t kw (word 1) ∧ opens s o ch b t))) ∧
  (∀ (s : State) (o : Op) ch r id es, contribution s o ch r id es →
    ((∀ c, chan s ch c → c.ctx = o.ctx → c.closing = true) → (∀ c m, chan s ch c → node c (o.core / 64) m → found s o ch c m) → s.dev.elog = 0 →
      ∃ t, exec (.wadiArrival (.contribution o.id)) s = .next t ∧ SameMemory s t ∧ ends s t o ∧ t.wadi = s.wadi) ∧
    (∀ c m, found s o ch c m → c.ctx = o.ctx → c.closing = false → (¬ mine s o c id ∨
        (((r, id) ∈ m.seen ∨ ∃ q ∈ m.rounds, q.round = r ∧ id ∈ q.ids) ∧ ∀ l, m.last = some l → later r l)) →
      ∃ t, exec (.wadiArrival (.contribution o.id)) s = .next t ∧ SameMemory s t ∧ ends s t o ∧
        chan t ch (if c.span = 2 ∧ c.top ≠ s.dev.modnum then c else { c with rejects := c.rejects + 1 })) ∧
    (∀ c m l, found s o ch c m → mine s o c id → (r, id) ∉ m.seen → m.last = some l → later r l → 2 < (r - l).toNat → (∀ q ∈ m.rounds, q.round ≠ r) →
      ∃ t d k, exec (.wadiArrival (.contribution o.id)) s = .next t ∧ SameMemory s t ∧ t.op? o.id = some { o with stage := .started } ∧
        chan t ch d ∧ node d (o.core / 64) k ∧ k.last = some l ∧ k.rounds = m.rounds ∧ k.seen = m.seen ++ [(r, id)] ∧
        ((∀ y ∈ m.firsts, y.1 ≠ r) → k.firsts = m.firsts ++ [(r, s.time)])) ∧
    (∀ c m, found s o ch c m → mine s o c id → (r, id) ∉ m.seen → m.last = none → m.rounds = [] → (∀ y ∈ m.firsts, y.1 ≠ r) → id < 1024 →
      (∃ i ∈ expects s c (o.core / 64), i ≠ id) →
      ∃ t d k, exec (.wadiArrival (.contribution o.id)) s = .next t ∧ SameMemory s t ∧ ends s t o ∧ chan t ch d ∧ node d (o.core / 64) k ∧ k.last = some (r - 1) ∧
        k.rounds = [{ round := r, vector := vector c es, ids := [id], first := s.time }]) ∧
    (∀ c m l q, found s o ch c m → mine s o c id → (r, id) ∉ m.seen → m.last = some l → r = l + 1 → m.rounds = [q] → q.round = r → id ∉ q.ids → id < 1024 →
      (∃ i ∈ expects s c (o.core / 64), i ≠ id ∧ i ∉ q.ids) →
      ∃ t d k p, exec (.wadiArrival (.contribution o.id)) s = .next t ∧ SameMemory s t ∧ ends s t o ∧ chan t ch d ∧ node d (o.core / 64) k ∧ k.last = some l ∧
        k.rounds = [p] ∧ p.round = r ∧ p.first = q.first ∧ p.vector = q.vector.zipWith (combine c.op) (vector c es) ∧
        ∀ i, i ∈ p.ids ↔ i < 1024 ∧ (i ∈ q.ids ∨ i = id)) ∧
    (∀ c m l q, found s o ch c m → mine s o c id → (r, id) ∉ m.seen → m.last = some l → r = l + 1 → m.rounds = [q] → q.round = r → id ∉ q.ids → c.span = 0 →
      (∀ i ∈ c.mapped, i = id ∨ i ∈ q.ids) → (∀ i ∈ q.ids, i ∈ c.mapped) → q.expDie = false → q.expRoot = false → nobody s → c.map.length = 1024 → o.core < 512 → s.dev.modnum < 64 →
      ∃ t d k, exec (.wadiArrival (.contribution o.id)) s = .next t ∧ ends s t o ∧ chan t ch d ∧ node d (o.core / 64) k ∧ k.last = some r ∧ k.rounds = [] ∧
        d.written.head? = some (r, 1, c.mapped) ∧
        t.mem = (written s c r 1 c.mapped (q.vector.zipWith (combine c.op) (vector c es))).mem) ∧
    (∀ c m l, found s o ch c m → mine s o c id → m.last = some l → ¬ later r l → c.span = 0 → o.core < 512 → nobody s →
      s.walkerNat c.ctx (c.corr + 0xC) 4 = ((s.walkerNat c.ctx (c.corr + 0xC) 4).1, s) →
      let s1 := raised s c 0xC
      let count := (s1.walkerNat c.ctx c.corr 4).1
      ∃ t, exec (.wadiArrival (.contribution o.id)) s = .next t ∧ ends s t o ∧
        ((s1.walkerNat c.ctx c.corr 4).2 = s1 → count < c.cap →
          t.mem = ((s1.walkerWrite c.ctx (c.corr + 16 + count * recLen c) (recordBytes c r 16 [id] (vector c es))).walkerWrite c.ctx c.corr (bytesOf 4 (count + 1))).mem) ∧
        ((s1.walkerNat c.ctx c.corr 4).2 = s1 → (s1.walkerNat c.ctx (c.corr + 4) 4).2 = s1 → c.cap ≤ count → t.mem = (raised s1 c 4).mem))) ∧
  (∀ (s : State) ch (level : WadiLevel) c m, chan s ch c →
    let lvl := match level with
      | .die k => k % 8
      | .root => 8
      | .top => 9
    node c lvl m →
    ((∀ l, m.last = some l → ∀ q ∈ m.rounds, q.round = l + 1 → s.time < q.first + budget c lvl) → exec (.wadiBudgetExpiry ch level) s = .next s) ∧
    (∀ l q, m.last = some l → m.rounds = [q] → s.wadiWaiting ch lvl = [] → q.round = l + 1 → q.first + budget c lvl ≤ s.time → (s.walkerNat c.ctx (c.corr + 8) 4).2 = s →
      let s1 := raised s c 8
      let ended : WNode := { m with last := some q.round, rounds := [], seen := m.seen.filter (fun y => y.1 ≠ q.round), firsts := m.firsts.filter (fun y => y.1 ≠ q.round) }
      (top c lvl → nobody s → c.mapped ≠ [] → (∃ i ∈ c.mapped, i ∉ q.ids) →
        ∃ t d, exec (.wadiBudgetExpiry ch level) s = .next t ∧ chan t ch d ∧ node d lvl ended ∧
          t.mem = (written s1 c q.round (8 + 4 * q.expRoot.toNat + 2 * q.expDie.toNat) q.ids q.vector).mem) ∧
      (¬ top c lvl → lvl < 8 → ∃ t d p, exec (.wadiBudgetExpiry ch level) s = .next t ∧ chan t ch d ∧ node d lvl ended ∧
        t.mem = s1.mem ∧ d.transit = c.transit ++ [p] ∧ p.src = lvl ∧ p.dest = 8 ∧ p.waiting = false ∧ p.round = q.round ∧ p.vector = q.vector ∧ p.ids = q.ids ∧ p.expDie = true ∧ p.late = false))) ∧
  (∀ (s : State) (w : Warp) (f : Fibre) (g : Group) c ch r due dst at_, s.warp? w.wid = some w → w.fibre? f.lane = some f → s.group? w.gid = some g →
    f.park = some { wait := .corr ch r due dst, at_ := at_ } → (∀ p, dst = some p → p ∉ g.openRegs f.id) → chan s ch c → c.ctx = g.ctx →
    (s.time < due → exec (.wcorrTimeout w.wid f.lane) s = .next s) ∧
    (∀ st ids l more k, due ≤ s.time → c.written = (r, st, ids) :: l → s.walkerNat c.ctx c.corr 4 = (k, s) → s.corrIds c r (min k c.cap) 0 = (more, s) →
      let union := (List.range 1024).filter (fun i => ids.contains i || more.contains i)
      let v : Word := BitVec.ofNat 32 (union.length + (if union = c.mapped then 2 ^ 31 else 0))
      ∃ t, exec (.wcorrTimeout w.wid f.lane) s = .next t ∧ SameMemory s t ∧ t.fibre? w.wid f.lane = some (match dst with
        | some p => { f.put p v with park := none }
        | none => { f with park := none }))) ∧
  (∀ (s : State) (o : Op) ch, s.op? o.id = some o → o.kind = .wclose ch →
    (∀ c, chan s ch c → c.ctx = o.ctx → c.closing = false → ∃ t d, exec (.wcloseChannelFree o.id) s = .next t ∧ SameMemory s t ∧ t.ops = s.ops ∧ chan t ch d ∧
      d.closing = true ∧ d.transit = [] ∧ ∀ m ∈ d.nodes, m.rounds = [] ∧ m.seen = [] ∧ m.firsts = []) ∧
    (∀ c, chan s ch c → c.ctx = o.ctx → c.closing = true → (s.walkerNat c.ctx (c.corr + 4) 4).2 = s → ∃ t, exec (.wcloseChannelFree o.id) s = .next t ∧ ends s t o ∧ t.wadi = s.wadi.filter (fun x => x.ch ≠ ch) ∧
      t.mem = (s.walkerWrite c.ctx (c.corr + 4) (bytesOf 4 ((s.walkerNat c.ctx (c.corr + 4) 4).1 + c.rejects))).mem) ∧
    ((∀ c, chan s ch c → c.ctx ≠ o.ctx) → s.dev.elog = 0 → ∃ t, exec (.wcloseChannelFree o.id) s = .next t ∧ SameMemory s t ∧ ends s t o ∧ t.wadi = s.wadi))

/-! ## Attention and the KV cache -/

/-- R327, R329, R331, R332, R336: ATTN, PFXFIND and PFXINS put one request in flight for each executing fibre, KVAPPEND and KVXLATE one for
the bundle; a misaligned block or token offset is an illegal operand, and a full queue of 32 stalls ATTN. -/
def Claims.AttentionIssue : Prop :=
  let at_ (g : Group) (f : Fibre) (r : Reg) : VAddr := (f.pair g r).setWidth 52
  let bundles (i : Instr) (ok : Group → Fibre → Prop) (kind : Warp → Group → List Fibre → Fibre → OpKind) : Prop :=
    ∀ (s : State) (w : Warp) (a : Active) (g : Group) (f0 : Fibre) (x e gp : List Fibre), Issues s i w a g (f0 :: x) e gp →
      NoOpenOperand i g (f0 :: x) e → ok g f0 →
      ∃ t o, exec i s = .next t ∧ SameMemory s t ∧
        Changes s t w (f0 :: x) (fun f => f.counted (flagOf i a)) (fun v => v) (countedLate s w i g e) (flagOf i a) ∧
        t.ops = s.ops ++ [o] ∧ o.gid = w.gid ∧ o.wid = w.wid ∧ o.fids = (f0 :: x).map Fibre.id ∧ o.stage = .issued ∧ o.flag = flagOf i a ∧ o.record = none ∧
        o.kind = kind w g (f0 :: x) f0 ∧ SameUnits { s with ops := t.ops } t
  let regs (dim : KvD) : Nat := match dim with
    | .d64 => 2
    | .d128 => 4
    | .d256 => 8
  let row (w : Warp) (g : Group) (x : List Fibre) (r : Reg) (dim : KvD) : List Word := (List.range (32 * regs dim)).map (fun e =>
    ((x.find? (fun f => w.vlane f.lane = e % 32)).map (fun f => f.word g (regPlus r (e / 32)))).getD 0)
  let places (g : Group) (f : Fibre) (d : Reg) (n : Nat) : List Nat := (List.range n).filterMap (fun i => g.place f.b (regPlus d i))
  let traps (i : Instr) (bad : Group → Fibre → Prop) (addr : Group → Fibre → Nat) : Prop :=
    ∀ (s : State) (w : Warp) (a : Active) (g : Group) (f : Fibre) (x y e gp : List Fibre), Issues s i w a g (x ++ f :: y) e gp → (∀ k ∈ x, ¬ bad g k) → bad g f →
      exec i s = .next (s.trapHere w a a.lanes { cls := 3, addr := addr g f })
  (∀ gd ra fs sc, Launches (.attn gd ra fs sc) {
    ok := fun s w _ g x => (s.attnQueue (w.wid / 48 / 64)).length + x.length ≤ 32 ∧ ∀ f ∈ x, (at_ g f ra).toNat % 256 = 0
    kind := fun _ _ g f => .attn (at_ g f ra) [] }) ∧
  (∀ gd ra fs sc, traps (.attn gd ra fs sc) (fun g f => (at_ g f ra).toNat % 256 ≠ 0) (fun g f => (at_ g f ra).toNat)) ∧
  (∀ (s : State) (w : Warp) (a : Active) (g : Group) (x e gp : List Fibre) gd ra fs sc, Issues s (.attn gd ra fs sc) w a g x e gp → x ≠ [] →
    (∀ f ∈ x, (at_ g f ra).toNat % 256 = 0) → 32 ≤ (s.attnQueue (w.wid / 48 / 64)).length → exec (.attn gd ra fs sc) s = .next (s.advanceClock 1)) ∧
  (∀ gd t b k v fs sc dim, bundles (.kvappend gd t b k v fs sc dim) (fun g f => (at_ g f b).toNat % 256 = 0) (fun w g x f =>
    .kvappend (f.word g t) (at_ g f b) (row w g x k dim) (row w g x v dim) dim)) ∧
  (∀ (s : State) (w : Warp) (a : Active) (g : Group) (f : Fibre) (x e gp : List Fibre) gd t b k v fs sc dim, Issues s (.kvappend gd t b k v fs sc dim) w a g (f :: x) e gp →
    (∀ k ∈ x, w.vlane k.lane ≠ w.vlane f.lane) → (at_ g f b).toNat % 256 ≠ 0 →
    exec (.kvappend gd t b k v fs sc dim) s = .next (s.trapHere w a a.lanes { cls := 3, addr := (at_ g f b).toNat })) ∧
  (∀ gd d dir va fs, bundles (.kvxlate gd d dir va fs) (fun _ _ => True) (fun w g x f => .kvxlate (at_ g f dir) (x.map (fun k =>
    { fid := k.id, lane := k.lane, vlane := w.vlane k.lane, dst := places g k d 4,
      srcs := [k.word g dir, k.word g (regPlus dir 1), k.word g va, k.word g (regPlus va 1)], mcls := k.mcls, mdl := k.mdl, base := k.b })))) ∧
  (∀ (s : State) (w : Warp) (a : Active) (g : Group) (f0 : Fibre) (x e gp : List Fibre) gd d ra rb tab fs cn,
    Issues s (.pfxfind gd d ra rb tab fs cn) w a g (f0 :: x) e gp → NoOpenOperand (.pfxfind gd d ra rb tab fs cn) g (f0 :: x) e →
    (∀ f ∈ f0 :: x, (f.word g rb).toNat % 16 = 0 ∧ (f.word g rb).toNat + 64 ≤ g.scratch) →
    ∃ t new, exec (.pfxfind gd d ra rb tab fs cn) s = .next t ∧ SameMemory s t ∧ t.ops = s.ops ++ new ∧
      Changes s t w (f0 :: x) (fun f => f.counted (flagOf (.pfxfind gd d ra rb tab fs cn) a)) (fun v => v) (countedLate s w (.pfxfind gd d ra rb tab fs cn) g e)
        (flagOf (.pfxfind gd d ra rb tab fs cn) a) ∧
      new.map (fun (o : Op) => (o.fid, o.kind)) = (f0 :: x).map (fun f => (f.id, OpKind.pfxfind ((List.range 4).map (fun i => f.word g (regPlus ra i)))
        (f.word g rb).toNat (at_ g f0 tab) (places g f d 2) cn.val (w.vlane f.lane = w.vlane f0.lane)))) ∧
  (∀ gd d ra rb tab fs cn, traps (.pfxfind gd d ra rb tab fs cn) (fun g f => (f.word g rb).toNat % 16 ≠ 0 ∨ g.scratch < (f.word g rb).toNat + 64)
    (fun g f => (f.word g rb).toNat)) ∧
  (∀ gd h b tab fs sc, Launches (.pfxins gd h b tab fs sc) {
    ok := fun _ _ _ g x => ∀ f ∈ x, (at_ g f b).toNat % 256 = 0
    kind := fun _ _ g f => .pfxins (f.pair g h) (at_ g f b) (at_ g f tab) }) ∧
  (∀ gd h b tab fs sc, traps (.pfxins gd h b tab fs sc) (fun g f => (at_ g f b).toNat % 256 ≠ 0) (fun g f => (at_ g f b).toNat))

/-- R325 to R332: KVAPPEND writes the next record of its block with its token id, the CRC and the filled count, or marks the block
overfilled; PFXINS writes the first empty entry of its bucket, or counts it as dropped; KVXLATE finds the block of a position in the block
table of its sequence; and PFXFIND the full block with the given parent and ids, with Z where there is none and C where a hash alone
matched. -/
def Claims.KvSteps : Prop :=
  let n (b : List Byte) (off len : Nat) : Nat := natOf ((b.drop off).take len)
  let addr (b : List Byte) (off : Nat) : Nat := n b off 8 % 2 ^ 52
  let size (fmt d : Nat) : Nat := if fmt = 0 then 4 * d else if fmt = 1 then 2 * d else d + d / 8
  let opens (s : State) (o : Op) (l : List (Nat × Nat × Access)) : Prop := s.engineOpen o.id l = (true, s)
  let reads (s : State) (o : Op) (va len : Nat) (bs : List Byte) : Prop := s.engineRead o.id va len = (bs, s)
  let ended (o : Op) (f : Fibre) : Fibre := match o.flag with
    | some n => f.fall n
    | none => f
  let gone (s t : State) (o : Op) (fid : Nat) : Prop := t.ops = s.ops.filter (fun p => p.id ≠ o.id) ∧
    ∀ w f, s.fibreOf? o.gid fid = some (w, f) → s.warp? w.wid = some w → w.fibre? f.lane = some f → t.fibre? w.wid f.lane = some (ended o f)
  let ends (s t : State) (o : Op) : Prop := gone s t o o.fid
  let put (va : Nat) (into : Nat → Nat) (bs : List Byte) : List (Nat × Byte) := (List.range bs.length).map (fun i => (into (va + i), bs.getD i 0))
  let within (o : Op) (into : Nat → Nat) (kw va len : Nat) : Prop := ∀ i < len, pinned o.wpins ((va + i) % 2 ^ 52) = some (into (va + i), kw)
  let base (d : List Byte) : Option (Nat × Nat) := if n d 8 4 % 32 ≤ 24 ∧ n d 8 4 / 32 = 0 ∧ n d 0 8 % 128 = 0 then some (addr d 0, 2 ^ (n d 8 4 % 32)) else none
  let held (s : State) (o : Op) (w : Warp) (f : Fibre) : Prop := s.fibreOf? o.gid f.id = some (w, f) ∧ s.warp? w.wid = some w ∧ w.fibre? f.lane = some f ∧
    w.handler = none ∧ s.group? w.gid ≠ none ∧ o.spoil = [] ∧ s.sent o = true
  let word (v : Nat) : Word := BitVec.ofNat 32 v
  (∀ (s : State) (o : Op) id b k v dim, s.op? o.id = some o → o.kind = .kvappend id b k v dim →
    (s.sent o = false → exec (.kvappendAtHome o.id) s = .next s) ∧
    (s.sent o = true → opens s o [(b.toNat, 128, .read), (b.toNat, 128, .write)] → ∀ h, reads s o b.toNat 128 h → s.tidy → ∀ into kw, within o into kw b.toNat 128 →
      let d := 64 * 2 ^ (n h 0 4 / 256 % 4)
      let fmt := n h 0 4 % 4
      let u := n h 0 4 / 65536 % 32
      let fits := fmt ≠ 3 ∧ n h 0 4 / 256 % 4 ≠ 3 ∧ d = k.length ∧ u < 16
      k.length = 32 * dim.regs →
      (¬ fits → ∃ t, exec (.kvappendAtHome o.id) s = .next t ∧ (∀ i, o.fids = [i] → gone s t o i) ∧ Stores s t kw (put b.toNat into (bytesOf 4 (n h 0 4 % 2 ^ 31 + 2 ^ 31)))) ∧
      (fits → let z := size fmt d
        let at_ := b.toNat + 128 + z * u
        opens s o [(b.toNat + 128, z * u, .read), (at_, z, .write)] → within o into kw at_ z → ∀ old, reads s o (b.toNat + 128) (z * u) old →
        let row := if fmt = 0 then (k ++ v).flatMap (fun x => bytesOf 2 (bf16.narrow .rne false 0 x.toNat).bits) else kvQuantise fmt h k v
        row.length = z →
        ∃ t, exec (.kvappendAtHome o.id) s = .next t ∧ (∀ i, o.fids = [i] → gone s t o i) ∧ Stores s t kw (put at_ into row ++ put (b.toNat + 0x18 + 4 * u) into (bytesOf 4 id.toNat) ++
          put (b.toNat + 4) into (bytesOf 4 (crc32c ((h.drop 8).take 8 ++ old ++ row))) ++ put b.toNat into (bytesOf 4 (n h 0 4 + 65536)))))) ∧
  (∀ (s : State) (o : Op) h b tab, s.op? o.id = some o → o.kind = .pfxins h b tab →
    (s.sent o = false → exec (.pfxinsAtHome o.id) s = .next s) ∧
    (s.sent o = true → (∀ a ∈ s.ops, a.gid = o.gid → a.id = o.id ∨ ∀ h b t, a.kind ≠ .pfxins h b t) → opens s o [(tab.toNat, 16, .read)] → ∀ d, reads s o tab.toNat 16 d →
      (base d = none → s.dev.elog = 0 → ∃ t, exec (.pfxinsAtHome o.id) s = .next t ∧ SameMemory s t ∧ ends s t o) ∧
      (∀ b0 m bucket, base d = some (b0, m) → let bk := (b0 + 128 * (h.toNat % 2 ^ 32 % m)) % 2 ^ 52
        opens s o [(bk, 128, .read)] → reads s o bk 128 bucket →
        let block (k : Nat) : Nat := addr bucket (16 * k + 8)
        ((∃ k < 8, block k = b.toNat) → ∃ t, exec (.pfxinsAtHome o.id) s = .next t ∧ SameMemory s t ∧ ends s t o) ∧
        (∀ k < 8, (∀ j < 8, block j ≠ b.toNat) → block k = 0 → (∀ j < k, block j ≠ 0) → opens s o [(bk + 16 * k, 16, .write)] → s.tidy →
          ∀ into kw, within o into kw (bk + 16 * k) 16 →
          ∃ t, exec (.pfxinsAtHome o.id) s = .next t ∧ ends s t o ∧ Stores s t kw (put (bk + 16 * k) into (bytesOf 8 h.toNat ++ bytesOf 8 b.toNat))) ∧
        ((∀ j < 8, block j ≠ b.toNat ∧ block j ≠ 0) → opens s o [(tab.toNat + 0xC, 4, .write)] → s.tidy → ∀ into kw, within o into kw (tab.toNat + 0xC) 4 →
          ∃ t, exec (.pfxinsAtHome o.id) s = .next t ∧ ends s t o ∧ Stores s t kw (put (tab.toNat + 0xC) into (bytesOf 4 (n d 0xC 4 + 1))))))) ∧
  (∀ (s : State) (o : Op) dir (ms : List KvMember) (db eb : KvMember → List Byte), s.op? o.id = some o → o.kind = .kvxlate dir ms → ms ≠ [] →
    o.fids = ms.map KvMember.fid → o.fids.Nodup → (∀ m ∈ ms, m.vlane < 32 ∧ ∃ w f, f.id = m.fid ∧ held s o w f) →
    let q (m : KvMember) : Nat := (m.srcs.getD 2 0).toNat
    let p (m : KvMember) : Nat := (m.srcs.getD 3 0).toNat
    let e (m : KvMember) : Nat := (addr (db m) 0 + 8 * (p m / 16)) % 2 ^ 52
    let mapped (m : KvMember) : Prop := p m / 16 < n (db m) 8 4
    (∀ m ∈ ms, opens s o [((dir.toNat + 16 * q m) % 2 ^ 52, 16, .read)] ∧ (mapped m → opens s o [(e m, 8, .read)])) →
    (∀ m ∈ ms, s.engineLoad o.id (dir.toNat + 16 * q m) 16 = (db m, s) ∧ (mapped m → s.engineLoad o.id (e m) 8 = (eb m, s))) →
    let block (m : KvMember) : Nat := if mapped m then n (eb m) 0 8 % 2 ^ 52 / 256 * 256 else 0
    let unmapped : Nat := ms.foldl (fun v m => if block m = 0 then v ||| 2 ^ m.vlane else v) 0
    ∃ t, exec (.resultLands o.id) s = .next t ∧ SameMemory s t ∧ t.ops = s.ops.filter (fun x => x.id ≠ o.id) ∧
      ∀ m ∈ ms, ∀ w f, f.id = m.fid → held s o w f → t.fibre? w.wid f.lane =
        some (ended o (f.puts (m.dst.zip [word (block m), word (block m / 2 ^ 32), word (p m % 16), word unmapped])))) ∧
  (∀ (s : State) (o : Op) (w : Warp) (f : Fibre) (g : Group) hash tokens tab dst cn lead d, s.op? o.id = some o → o.fid = f.id → held s o w f → s.group? o.gid = some g →
    o.kind = .pfxfind hash tokens tab dst cn lead → hash.length = 4 → opens s o [(tab.toNat, 16, .read)] → reads s o tab.toNat 16 d →
    let key := (hash.getD 0 0).toNat + 2 ^ 32 * (hash.getD 1 0).toNat
    let parent := (hash.getD 2 0).toNat + 2 ^ 32 * (hash.getD 3 0).toNat
    let lands (b : Nat) (miss : Bool) : Prop := ∃ t, exec (.resultLands o.id) s = .next t ∧ SameMemory s t ∧ t.ops = s.ops.filter (fun x => x.id ≠ o.id) ∧
      t.fibre? w.wid f.lane = some (ended o ((f.puts (dst.zip [word b, word (b / 2 ^ 32)])).setCc (ccOf cn) { s := false, z := b = 0, c := miss, v := false }))
    (base d = none → s.dev.elog = 0 → lands 0 false) ∧
    (∀ b0 m bucket ids, base d = some (b0, m) → let bk := (b0 + 128 * (key % 2 ^ 32 % m)) % 2 ^ 52
      opens s o [(bk, 128, .read)] → reads s o bk 128 bucket → s.readScratch g tokens 64 = (ids, s) →
      let block (k : Nat) : Nat := addr bucket (16 * k + 8)
      let cand (k : Nat) : Prop := k < 8 ∧ block k ≠ 0 ∧ n bucket (16 * k) 8 = key
      let good (k : Nat) : Prop := cand k ∧ ∃ h, reads s o (block k) 128 h ∧ n h 0 4 / 65536 % 32 = 16 ∧ n h 0x10 8 = parent ∧ (h.drop 0x18).take 64 = ids
      (∀ k < 8, cand k → (∀ j < k, ¬ good j) → opens s o [(block k, 128, .read)] ∧ ∃ h, reads s o (block k) 128 h) →
      (∀ k < 8, good k → (∀ j < k, ¬ good j) → ((∃ j < k, cand j) → lands (block k) true) ∧ ((∀ j < k, ¬ cand j) → lands (block k) false)) ∧
      ((∀ k < 8, ¬ good k) → ((∃ k < 8, cand k) → lands 0 true) ∧ ((∀ k < 8, ¬ cand k) → lands 0 false))))

/-- ATTN, KVAPPEND, KVXLATE, PFXFIND and PFXINS (R324, R325, R326, R327, R328, R329, R330, R331, R332, R336, R337). -/
def Obligations.AttentionAndKvBlocks : Prop := Claims.AttentionIssue ∧ Claims.KvSteps

/-- R333 to R336: an attention engine takes the first request that has been sent, while it runs fewer than four, and reads its block; a
field outside its limits ends it with code 0x01, an unmapped block with 0x02, poison in a block with 0x03, a block of another format with
0x04; otherwise each row's outputs are the softmax of its scores over the visible positions, block by block, and the status, the completion
word and the flag tell its end. The order of blocks and the ends of faulty requests are the model's readings (log entry 65). -/
def Obligations.AttentionEngine : Prop :=
  let n (b : List Byte) (off len : Nat) : Nat := natOf ((b.drop off).take len)
  let addr (b : List Byte) (off : Nat) : Nat := n b off 8 % 2 ^ 52
  let fmt (b : List Byte) : Nat := n b 0 4 % 4
  let dim (b : List Byte) : Nat := 64 * 2 ^ (n b 0 4 / 4 % 4)
  let causal (b : List Byte) : Prop := n b 0 4 / 16 % 2 = 1
  let tree (b : List Byte) : Prop := n b 0 4 / 32 % 2 = 1
  let rows (b : List Byte) : Nat := n b 0 4 / 256 % 64 + 1
  let fits (b : List Byte) : Prop := fmt b ≠ 3 ∧ n b 0 4 / 4 % 4 ≠ 3 ∧ ¬ (causal b ∧ tree b) ∧ n b 0 4 / 64 % 4 = 0 ∧ n b 0 4 / 2 ^ 14 = 0 ∧
    n b 8 4 ≤ 16 * n b 0x28 4 ∧ n b 0xC 4 ≤ 64 ∧ n b 0xC 4 ≤ n b 8 4 ∧ (¬ tree b → n b 0xC 4 = 0) ∧ addr b 0x10 % 16 = 0 ∧ n b 0x18 4 % 16 = 0 ∧
    2 * dim b ≤ n b 0x18 4 ∧ n b 0x1C 4 / 2 ^ 23 % 2 ^ 8 ≠ 255 ∧ addr b 0x30 % 16 = 0 ∧ n b 0x38 4 % 16 = 0 ∧ 4 * dim b ≤ n b 0x38 4 ∧ n b 0x3C 4 = 0 ∧
    addr b 0x40 % 4 = 0 ∧ (tree b → addr b 0x48 % 8 = 0) ∧ addr b 0x50 % 4 = 0 ∧ ∀ x ∈ b.drop 0x5C, x = 0
  let done (b : List Byte) : Nat := if addr b 0x50 % 4 = 0 then addr b 0x50 else 0
  let lastly (s : State) (o : Op) (a : VAddr) (b : List Byte) (st : Nat) (lost : Option Nat) : State :=
    let s1 := match lost with
      | some j => s.engineWrite o.id (a.toNat + 0x58) (bytesOf 4 j)
      | none => s
    let s2 := s1.engineWrite o.id (a.toNat + 4) (bytesOf 4 st)
    if done b = 0 then s2 else s2.engineWrite o.id (done b) (bytesOf 4 st)
  let ends (s t : State) (o : Op) : Prop := (o.gid = 0 → t.op? o.id = some { o with stage := .done }) ∧ (o.gid ≠ 0 → t.ops = s.ops.filter (fun p => p.id ≠ o.id) ∧
    ∀ w f, s.fibreOf? o.gid o.fid = some (w, f) → s.warp? w.wid = some w → w.fibre? f.lane = some f → t.fibre? w.wid f.lane = some (match o.flag with
      | some n => f.fall n
      | none => f))
  let ranges (a : VAddr) (b : List Byte) : List (Nat × Nat × Access) := (a.toNat, 256, .write) :: (if done b = 0 then [] else [(done b, 4, .write)])
  let all (a : VAddr) (b : List Byte) : List (Nat × Nat × Access) := ranges a b ++
    (List.range (rows b)).map (fun i => (addr b 0x10 + i * n b 0x18 4, 2 * dim b, .read)) ++
    (List.range (rows b)).map (fun i => (addr b 0x30 + i * n b 0x38 4, 4 * dim b, .write)) ++ (if addr b 0x40 = 0 then [] else [(addr b 0x40, 4 * rows b, .write)])
  let visible (b : List Byte) (i t : Nat) : Bool := t < n b 8 4 && (n b 0 4 / 16 % 2 = 0 || t ≤ n b 0x2C 4 + i)
  let slots (b : List Byte) (i j : Nat) : List Nat := (List.range 16).filter (fun u => visible b i (16 * j + u))
  let needed (b : List Byte) : List Nat := (List.range ((n b 8 4 + 15) / 16)).filter (fun j => (List.range (rows b)).any (fun i => !(slots b i j).isEmpty))
  let step (b : List Byte) (q : Nat → FV) (kv : List Byte) (ts : List Nat) (x : Word × Word × List Word) : Word × Word × List Word :=
    let sigma : Word := BitVec.ofNat 32 (n b 0x1C 4)
    let ss := ts.map (fun u => fMul sigma (mmaSum (fvZero :: (List.range (dim b)).map (fun e => termMul (q e) (kvElem kv (fmt b) (dim b) u false e)))))
    let m2 := ss.foldl fMaxWord x.1
    let c := exp2r (fSub x.1 m2)
    let ps := ss.map (fun v => exp2r (fSub v m2))
    (m2, mmaSum (termMul (fv x.2.1) (fv c) :: ps.map fv), (List.range (dim b)).map (fun d => mmaSum (termMul (fv (x.2.2.getD d 0)) (fv c) ::
      (ps.zip ts).map (fun p => termMul (fv p.1) (kvElem kv (fmt b) (dim b) p.2 true d)))))
  let final (b : List Byte) (q : Nat → FV) (kv : List (Nat × List Byte)) (i : Nat) : List Word × Word :=
    let x := kv.foldl (fun x p => if (slots b i p.1).isEmpty then x else step b q p.2 (slots b i p.1) x) (0xFF800000, 0, List.replicate (dim b) 0)
    if x.2.1.toNat % 2 ^ 31 = 0 then (x.2.2.map (fun _ => 0), 0xFF800000)
    else (x.2.2.map (fun v => fdiv (fv v) (fv x.2.1)), fAdd x.1 (fMul (BitVec.ofNat 32 (sfuOf .log2 false x.2.1).bits) 0x3F317218))
  let table (s : State) (o : Op) (b : List Byte) (j : Nat) : Nat := n (s.engineRead o.id (addr b 0x20 + 8 * j) 8).1 0 8 % 2 ^ 52 / 256 * 256
  let serving (s : State) (o : Op) (a : VAddr) (b : List Byte) : Prop := s.op? o.id = some o ∧ o.kind = .attn a b ∧ o.stage = .started ∧ o.record = none
  let opened (s : State) (o : Op) (a : VAddr) (b : List Byte) : Prop := fits b ∧ ¬ tree b ∧ s.engineOpen o.id (all a b) = (true, s) ∧
    s.engineOpen o.id ((needed b).map (fun j => (addr b 0x20 + 8 * j, 8, .read))) = (true, s) ∧
    ∀ j ∈ needed b, (s.engineRead o.id (addr b 0x20 + 8 * j) 8).2 = s
  let rowsPlaced (b : List Byte) : Prop := n b 0 4 / 4 % 4 ≠ 3 ∧ addr b 0x30 % 16 = 0 ∧ n b 0x38 4 % 16 = 0 ∧ 4 * dim b ≤ n b 0x38 4
  let last (b : List Byte) (j : Nat) : Nat := ((List.range 16).filter (fun u => (List.range (rows b)).any (fun i => visible b i (16 * j + u)))).getLast?.getD 0 + 1
  let fails (s : State) (o : Op) (a : VAddr) (b : List Byte) (code j : Nat) : Prop :=
    ∃ t q, exec (.attnRequestComplete o.id) s = .next t ∧ ends s t o ∧ t.mem = (lastly q o a b (2 + 256 * code) (some j)).mem
  (∀ (s : State) die d (o : Op) a, s.engineDie die = some d → (arrivalOrder (s.attnQueue die)).find? s.mayBegin = some o → s.op? o.id = some o → ∀ c, o.kind = .attn a c →
    (4 ≤ s.attnRunning d ∨ s.engineTakes d = false → exec (.attnRequestStart die) s = .next s) ∧
    (s.attnRunning d < 4 → s.engineTakes d = true → let s0 := s.onOp o.id (fun q => { q with server := d })
      s0.engineOpen o.id [(a.toNat, 256, .read)] = (true, s0) → ∀ b, s0.engineRead o.id a.toNat 256 = (b, s0) →
      ∃ t, exec (.attnRequestStart die) s = .next t ∧ SameMemory s t ∧ t.op? o.id = some { o with server := d, stage := .started, kind := .attn a b })) ∧
  (∀ (s : State) (o : Op) a b, serving s o a b → ¬ fits b → s.engineOpen o.id (ranges a b) = (true, s) →
    ∃ t q, exec (.attnRequestComplete o.id) s = .next t ∧ ends s t o ∧ t.mem = (lastly q o a b 0x102 none).mem ∧
      (¬ rowsPlaced b → ¬ (addr b 0x40 ≠ 0 ∧ addr b 0x40 % 4 = 0) → q = s)) ∧
  (∀ (s : State) (o : Op) a b j js, serving s o a b → opened s o a b → needed b = j :: js →
    let head : List (Nat × Nat × Access) := [(table s o b j, 4, .read)]
    (table s o b j = 0 → fails s o a b 2 j) ∧
    (table s o b j ≠ 0 → s.enginePins o.id head = s → s.engineReady o.id head = true → s.poisonAt o.pins (rangeBytes (table s o b j) 4) ≠ none → fails s o a b 3 j) ∧
    (table s o b j ≠ 0 → s.engineOpen o.id head = (true, s) → ∀ h, s.engineRead o.id (table s o b j) 4 = (h, s) →
      (n h 0 4 % 4 ≠ fmt b ∨ 64 * 2 ^ (n h 0 4 / 256 % 4) ≠ dim b ∨ n h 0 4 / 65536 % 32 < last b j) → fails s o a b 4 j)) ∧
  (∀ (s : State) (o : Op) a b (kv : List (Nat × List Byte)), serving s o a b → opened s o a b → kv.map Prod.fst = needed b →
    (∀ x ∈ kv, let top := last b x.1
      let len := 128 + (if fmt b = 0 then 4 * dim b else if fmt b = 1 then 2 * dim b else dim b + dim b / 8) * top
      table s o b x.1 ≠ 0 ∧ s.engineOpen o.id [(table s o b x.1, len, .read)] = (true, s) ∧ s.engineRead o.id (table s o b x.1) len = (x.2, s) ∧
      n x.2 0 4 % 4 = fmt b ∧ 64 * 2 ^ (n x.2 0 4 / 256 % 4) = dim b ∧ top ≤ n x.2 0 4 / 65536 % 32) →
    (∀ i < rows b, (s.engineRead o.id (addr b 0x10 + i * n b 0x18 4) (2 * dim b)).2 = s) →
    let q (i e : Nat) : FV := bf16.read (n (s.engineRead o.id (addr b 0x10 + i * n b 0x18 4) (2 * dim b)).1 (2 * e) 2)
    let out (i : Nat) : List Word × Word := final b (fun e => if e < dim b then q i e else fvZero) kv i
    let s1 := s.writeRows o.id (addr b 0x30) (n b 0x38 4) ((List.range (rows b)).map (fun i => (out i).1.flatMap (fun v => bytesOf 4 v.toNat)))
    let s2 := if addr b 0x40 = 0 then s1 else s1.engineWrite o.id (addr b 0x40) ((List.range (rows b)).flatMap (fun i => bytesOf 4 (out i).2.toNat))
    ∃ t, exec (.attnRequestComplete o.id) s = .next t ∧ ends s t o ∧ t.mem = (lastly s2 o a b 1 none).mem)

/-! ## Faults in memory, errors and scans -/

/-- R253, R259, R380, R381, R383, R384: a record whose cause has gone is closed and its accesses go on; one that stands at the fault bound
of 10 ms fails the node that waits for it, with the code of its cause; and one of cause 7 is served from a good copy, or else by rollback of
the node that has staged the page, or else by the failure of the node with 0x0A. What counts as a good copy, and the service of a cause-7
record at its bound, are the model's readings (log entries 40 and 41). -/
def Obligations.FaultService : Prop :=
  let record (s : State) (r : FaultRec) : Prop := s.faults.find? (fun x => x.id = r.id) = some r
  let resolved (s : State) (r : FaultRec) : Prop := (r.cause ∈ [1, 3, 4] ∧ r.due = true) ∨ ∃ c e l a, s.ctx? r.ctx = some c ∧ s.walk c (r.page * 65536) = .leaf e l a ∧
    ((r.cause = 5 ∧ s.reachable (pteModule e) = true) ∨ (r.cause = 6 ∧ (if pteTier e = 0 then c.pool0 else c.pool1) ≠ []))
  let closed (s t : State) (r : FaultRec) : Prop := t.faults = s.faults.filter (fun x => x.id ≠ r.id) ∧
    t.ops = s.ops.map (fun o => if o.record = some r.id then { o with record := none } else o) ∧ t.groups = s.groups ∧ t.warps = s.warps
  let field (n : Node) (off len : Nat) : Nat := natOf ((n.record.drop off).take len)
  let alone (s : State) (cn : Nat) (a : VAddr) (n : Node) : Prop := s.node? cn a = some n ∧ n.ctx = cn ∧ n.addr = a ∧ n.released = [] ∧ n.parent = none ∧
    field n 0xC 4 = 0 ∧ s.dev.elog = 0 ∧ (∀ k ∈ s.nodes, k.ctx = cn → k.parent ≠ some a) ∧ ∀ c, s.ctx? cn = some c → ∀ g ∈ c.staged, g.node ≠ a
  let stopped (t : State) (cn : Nat) (a : VAddr) : Prop := (∀ g ∈ t.groups, ¬ (g.ctx = cn ∧ g.node = a)) ∧ ∀ o ∈ t.ops, ¬ (o.ctx = cn ∧ o.node = a)
  let failed (t : State) (r : FaultRec) (a : VAddr) (code : Nat) : Prop := (∃ m, t.node? r.ctx a = some m ∧ m.state = .failed ∧ m.code = code) ∧
    stopped t r.ctx a ∧ ∀ x ∈ t.faults, x.id ≠ r.id
  let repairs (i : Instr) (s : State) (r : FaultRec) : Prop :=
    (∀ c e l a p, r.page < 2 ^ 36 → s.ctx? r.ctx = some c → s.poisonedEntry (r.page * 65536 % 2 ^ 52) [0, 1, 2, 3] c.root = none → s.walk c (r.page * 65536) = .leaf e l a →
      let f := leafAddr e l (r.page * 65536) / 65536
      s.devWritten.contains f = false → s.writable (f * 65536) = false → (s.ctxs.flatMap Ctx.images).find? (fun x => x.addr = f * 65536) = some p → p.bytes.length = 65536 →
      s.tidy →
      ∃ t, exec i s = .next t ∧ closed s t r ∧ t.poison = s.poison.filter (fun g => ¬ g / 256 = f) ∧
        ∀ g ∈ s.poison, g / 256 = f → ∀ k < 256, t.readByte (pteKey e) (g * 256 + k) = (p.bytes.getD (g * 256 + k - f * 65536) 0, t)) ∧
    (∀ c a n, s.ctx? r.ctx = some c → s.goodCopy c r = none → s.stagedBy c r.page = none → s.faultNodes r = [a] → alone s r.ctx a n → n.state = .running →
      ∃ t, exec i s = .next t ∧ failed t r a 0x0A) ∧
    (∀ c, s.ctx? r.ctx = some c → s.goodCopy c r = none → s.stagedBy c r.page = none → s.faultNodes r = [] → ∃ t, exec i s = .next t ∧ closed s t r)
  (∀ (s : State) r, record s r → resolved s r → ∃ t, exec (.faultResolve r.id) s = .next t ∧ closed s t r ∧ SameMemory s t) ∧
  (∀ (s : State) r, record s r → ¬ resolved s r → exec (.faultResolve r.id) s = .next s) ∧
  (∀ (s : State) r, record s r → (s.time < r.since + 10000000 * Config.ns ∨ resolved s r) → exec (.faultBoundExpiry r.id) s = .next s) ∧
  (∀ (s : State) r a n, record s r → ¬ resolved s r → r.since + 10000000 * Config.ns ≤ s.time → r.cause ∈ [1, 2, 3, 4, 5, 6] → s.faultNodes r = [a] →
    alone s r.ctx a n → n.state = .running →
    ∃ t, exec (.faultBoundExpiry r.id) s = .next t ∧ failed t r a (if r.cause = 6 then 8 else 0x1F + r.cause)) ∧
  (∀ (s : State) r, record s r → r.since + 10000000 * Config.ns ≤ s.time → r.cause = 7 → repairs (.faultBoundExpiry r.id) s r) ∧
  (∀ (s : State) r, record s r → r.cause ≠ 7 → exec (.poisonRepair r.id) s = .next s) ∧
  (∀ (s : State) r, record s r → r.cause = 7 → repairs (.poisonRepair r.id) s r)

/-- R344, R383, R398 to R401: an uncorrectable error poisons its granule; a correctable one puts its row into the filter of the next
stricter class; a row is refreshed once in each of its intervals, which are halved between 85 and 80 degrees; an error in a core's storage
withdraws the node whose group owns it, and names the core to be scanned next; and the KV scrub passes over a block of another die and
poisons a block whose CRC is wrong. The windows of refresh are the model's readings (log entries 43 and 44). -/
def Obligations.StorageErrors : Prop :=
  let poisoned (s t : State) (a : Nat) : Prop := (∀ g, g ∈ t.poison ↔ g ∈ s.poison ∨ g = a / 256) ∧ t.mem = s.mem
  let refreshed (k : MemStack) (bank row : Nat) : Option Nat := (k.refreshed.find? (fun r => r.1 = bank && r.2.1 = row)).map (fun r => r.2.2)
  let window (k : MemStack) (bank row : Nat) : Nat := k.classOf bank row * 1000000 * Config.ns / (if k.hot then 2 else 1)
  let stack (s : State) (i : Nat) : MemStack := sget {} s.memStacks i
  let field (n : Node) (off len : Nat) : Nat := natOf ((n.record.drop off).take len)
  let alone (s : State) (cn : Nat) (a : VAddr) (n : Node) : Prop := s.node? cn a = some n ∧ n.ctx = cn ∧ n.addr = a ∧ n.released = [] ∧ n.parent = none ∧
    field n 0xC 4 = 0 ∧ s.dev.elog = 0 ∧ (∀ k ∈ s.nodes, k.ctx = cn → k.parent ≠ some a) ∧ ∀ c, s.ctx? cn = some c → ∀ g ∈ c.staged, g.node ≠ a
  (∀ (s : State) addr bank row demand, s.dev.elog = 0 → (storage addr = .dram ∨ (2 ^ 56 ≤ addr ∧ addr < 2 ^ 56 + 2 ^ 30)) →
    ∃ t, exec (.eccUncorrectable addr bank row demand) s = .next t ∧ poisoned s t addr) ∧
  (∀ (s : State) addr bank row demand, storage addr ≠ .dram → ¬ (2 ^ 56 ≤ addr ∧ addr < 2 ^ 56 + 2 ^ 30) →
    exec (.eccUncorrectable addr bank row demand) s = .next s) ∧
  (∀ (s : State) k addr bank row found, (storage addr ≠ .dram ∨ stackOf addr ≠ k ∨ found = .clean) → exec (.scrubRead k addr bank row found) s = .next s) ∧
  (∀ (s : State) addr bank row, storage addr = .dram → s.dev.elog = 0 → swf {} s.memStacks = true →
    (∃ t, exec (.scrubRead (stackOf addr) addr bank row .uncorrectable) s = .next t ∧ poisoned s t addr) ∧
    ∃ t, exec (.scrubRead (stackOf addr) addr bank row .correctable) s = .next t ∧ t.mem = s.mem ∧ t.poison = s.poison ∧
      let k := stack s (stackOf addr)
      let k1 := stack t (stackOf addr)
      (k.classOf bank row = 128 → k1 = { k with need64 := k.need64 ++ [(bank, row)] }) ∧
      (k.classOf bank row = 64 → k1 = { k with need32 := k.need32 ++ [(bank, row)] }) ∧ (k.classOf bank row = 32 → t = s)) ∧
  (∀ (s : State) i bank row, swf {} s.memStacks = true → i < 12 → let k := stack s i
    ((∀ v, refreshed k bank row = some v → v / window k bank row < s.wall / window k bank row) →
      ∃ t, exec (.refresh i bank row) s = .next t ∧ SameMemory s t ∧ refreshed (stack t i) bank row = some s.wall ∧
        ∀ b r, ¬ (b = bank ∧ r = row) → refreshed (stack t i) b r = refreshed k b r) ∧
    (∀ v, refreshed k bank row = some v → s.wall / window k bank row ≤ v / window k bank row → exec (.refresh i bank row) s = .next s)) ∧
  (∀ (s : State) i celsius, swf {} s.memStacks = true → i < 12 → ∃ t, exec (.stackTemperatureChange i celsius) s = .next t ∧ SameMemory s t ∧
    stack t i = { stack s i with hot := if 85 < celsius then true else if celsius ≤ 80 then false else (stack s i).hot } ∧
    ∀ j, j ≠ i → stack t j = stack s j) ∧
  (∀ (s : State) core what, s.storageOwner core what = none → exec (.coreStorageUncorrectable core what) s = .next s) ∧
  (∀ (s : State) core what g n, s.storageOwner core what = some g → alone s g.ctx g.node n → n.state = .running → swf {} s.scans = true →
    ∃ t m, exec (.coreStorageUncorrectable core what) s = .next t ∧ t.node? g.ctx g.node = some m ∧ (t.scan (core / 64)).next = some (core % 64) ∧
      (if field n 0 4 / 2 ^ 8 % 2 = 1 ∧ n.u = false then m.state = .ready else m.state = .failed ∧ m.code = 0x0A)) ∧
  (∀ (s : State) core quad a w g, s.warps.find? (fun w => w.wid / 48 = core && w.wid % 48 / 12 = quad && w.run ≤ a &&
      a < w.run + 32 * ((s.group? w.gid).map Group.a).getD 0) = some w → s.group? w.gid = some g → s.storageOwner core (.register quad a) = some g) ∧
  (∀ (s : State) core o, s.storageOwner core (.scratch o) = s.groups.find? (fun g => g.shares.any (fun h => h.core = core && h.granules.contains (o / 8192)))) ∧
  (∀ (s : State) core n, s.storageOwner core (.tile n) = s.groups.find? (fun g => g.shares.any (fun h => h.core = core && h.tiles.contains n))) ∧
  (∀ (s : State) die cn, s.places = false ∨ (s.scan die).engInService = false ∨ 0 < s.attnRunning die ∨ 8 ≤ die → exec (.kvScrubCheck die cn) s = .next s) ∧
  (∀ (s : State) die cn c list k b, s.ctx? cn = some c → c.num = cn → s.places = true → s.enginesIdle die = true → s.walkerNat cn (c.nodeBase + 0x20) 8 = (list, s) →
    s.walkerNat cn (c.nodeBase + 0x28) 4 = (k, s) → list ≠ 0 → list % 8 = 0 → 0 < k → k ≤ 2 ^ 20 → swf 0 c.scrubAt = true →
    let i := sget 0 c.scrubAt die % k
    s.walkerNat cn (list % 2 ^ 52 + 8 * i) 8 = (b, s) →
    (s.homeDie cn (b % 2 ^ 52) ≠ some die → ∃ t d, exec (.kvScrubCheck die cn) s = .next t ∧ SameMemory s t ∧ t.poison = s.poison ∧ t.ctx? cn = some d ∧
      sget 0 d.scrubAt die = (i + 1) % k) ∧
    (∀ h fmt d, s.homeDie cn (b % 2 ^ 52) = some die → s.poisonedVa cn (b % 2 ^ 52) 128 = false → s.walkerRead cn (b % 2 ^ 52) 128 = (h, s) →
      natOf (h.take 4) % 4 = fmt → fmt < 3 → 64 * 2 ^ (natOf (h.take 4) / 256 % 4) = d → natOf (h.take 4) / 256 % 4 < 3 →
      let z := if fmt = 0 then 4 * d else if fmt = 1 then 2 * d else d + d / 8
      let size := (128 + 16 * z + 255) / 256 * 256
      let full := natOf (h.take 4) / 65536 % 32
      full ≠ 0 → s.poisonedVa cn (b % 2 ^ 52) size = false → ∀ x, s.walkerRead cn (b % 2 ^ 52) size = (x, s) →
      let right := natOf ((x.drop 4).take 4) = crc32c ((x.drop 8).take 8 ++ (x.drop 128).take (full * z))
      (right → ∃ t, exec (.kvScrubCheck die cn) s = .next t ∧ SameMemory s t ∧ t.poison = s.poison) ∧
      (¬ right → s.dev.elog = 0 → ∀ lost, s.walkerNat cn (c.nodeBase + 0x2C) 4 = (lost, s) → ∃ t, exec (.kvScrubCheck die cn) s = .next t ∧
        t.mem = (s.walkerWrite cn (c.nodeBase + 0x2C) (bytesOf 4 (lost + 1))).mem ∧
        ∀ j < size, ∀ pa key, s.walkerByte? cn (b % 2 ^ 52 + j) = some (pa, key) → pa / 256 ∈ t.poison)))

/-- R390 to R394: a controller that is idle stops work on the next slot of its rotation, tests it for 40 µs once it is empty, and moves on:
a slot that passes is cleared, one that fails leaves service and its suspect nodes are withdrawn, and one that has not emptied after 2 ms
goes back to work marked. The rotation after a named slot is the model's reading (log entry 45). -/
def Obligations.ScanRotation : Prop :=
  let serves (s : State) (die k : Nat) : Prop := if k = 64 then (s.scan die).engInService = true else
    (s.core (64 * die + k)).present = true ∧ (s.core (64 * die + k)).inService = true
  let wf (s : State) : Prop := swf {} s.scans = true ∧ swf {} s.cores = true
  let onward (_s t : State) (die k : Nat) : Prop := (t.scan die).phase = .idle ∧ (t.scan die).slot = (k + 1) % 65 ∧ (k ≠ 64 → (t.core (64 * die + k)).draining = false)
  let field (n : Node) (off len : Nat) : Nat := natOf ((n.record.drop off).take len)
  let alone (s : State) (cn : Nat) (a : VAddr) (n : Node) : Prop := s.node? cn a = some n ∧ n.ctx = cn ∧ n.addr = a ∧ n.released = [] ∧ n.parent = none ∧
    field n 0xC 4 = 0 ∧ (∀ k ∈ s.nodes, k.ctx = cn → k.parent ≠ some a) ∧ ∀ c, s.ctx? cn = some c → ∀ g ∈ c.staged, g.node ≠ a
  let since (s : State) (die k : Nat) : Nat := if k = 64 then (s.scan die).engPassedAt else (s.core (64 * die + k)).passedAt
  let suspect (s : State) (die k : Nat) (n : Node) : Prop := (n.state = .running ∨ n.state = .complete) ∧ ∃ w ∈ n.works,
    w.slot = (if k = 64 then 512 + die else 64 * die + k) ∧ ∀ v, w.last = some v → since s die k ≤ v
  let starts (s : State) (die : Nat) : Prop := die < 8 ∧ s.dev.boot = .ready ∧ s.places = true ∧ (s.scan die).phase = .idle
  let drains (s : State) (die k : Nat) : Prop := ∃ t, exec (.scanDrainStart die) s = .next t ∧ SameMemory s t ∧ (t.scan die).slot = k ∧
    (t.scan die).phase = .draining s.time ∧ (t.scan die).next = none ∧ t.ops = s.ops ∧ (k ≠ 64 → (t.core (64 * die + k)).draining = true)
  (∀ (s : State) die, ¬ starts s die → exec (.scanDrainStart die) s = .next s) ∧
  (∀ (s : State) die k, starts s die → wf s → (s.scan die).next = some k → serves s die k → drains s die k) ∧
  (∀ (s : State) die i, starts s die → wf s → (s.scan die).next = none → i < 65 → serves s die (((s.scan die).slot + i) % 65) →
    (∀ j < i, ¬ serves s die (((s.scan die).slot + j) % 65)) → drains s die (((s.scan die).slot + i) % 65)) ∧
  (∀ (s : State) die from_, (s.scan die).phase = .draining from_ → wf s →
    (s.slotEmpty die (s.scan die).slot = false → exec (.scanTest die) s = .next s) ∧
    (s.slotEmpty die (s.scan die).slot = true → ∃ t, exec (.scanTest die) s = .next t ∧ SameMemory s t ∧
      t.scan die = { s.scan die with phase := .testing from_ (s.time + 40000 * Config.ns) })) ∧
  (∀ (s : State) die k, k ≠ 64 → (s.slotEmpty die k = true ↔ (∀ g ∈ s.groups, ∀ h ∈ g.shares, h.core ≠ 64 * die + k) ∧
    ∀ o ∈ s.ops, o.core = 64 * die + k → o.stage ≠ .done → ∀ c, o.kind ≠ .copy c)) ∧
  (∀ (s : State) die pass, (∀ a b, (s.scan die).phase ≠ .testing a b) → exec (.scanComplete die pass) s = .next s) ∧
  (∀ (s : State) die from_ until_, (s.scan die).phase = .testing from_ until_ → wf s →
    let k := (s.scan die).slot
    (s.time < until_ → ∀ pass, exec (.scanComplete die pass) s = .next s) ∧
    (until_ ≤ s.time → ∃ t, exec (.scanComplete die true) s = .next t ∧ SameMemory s t ∧ onward s t die k ∧ t.ops = s.ops ∧
      (if k = 64 then (t.scan die).engPassedAt = from_ ∧ (t.scan die).engOverdue = false
       else (t.core (64 * die + k)).passedAt = from_ ∧ (t.core (64 * die + k)).overdue = false)) ∧
    (until_ ≤ s.time → s.dev.elog = 0 → (∀ n ∈ s.nodes, ¬ suspect s die k n) → ∃ t, exec (.scanComplete die false) s = .next t ∧ SameMemory s t ∧
      onward s t die k ∧ ¬ serves t die k ∧ t.ops = s.ops ∧ ∀ v ∈ t.saved, v ∈ s.saved ∧ (k ≠ 64 → v.drained ≠ some (64 * die + k))) ∧
    (until_ ≤ s.time → s.dev.elog = 0 → ∀ n l r, s.nodes = l ++ n :: r → suspect s die k n → (∀ m ∈ l ++ r, ¬ suspect s die k m) → alone s n.ctx n.addr n →
      ∃ t m, exec (.scanComplete die false) s = .next t ∧ onward s t die k ∧ ¬ serves t die k ∧ t.node? n.ctx n.addr = some m ∧
        (if field n 0 4 / 2 ^ 8 % 2 = 1 ∧ n.u = false then m.state = .ready else m.state = .failed ∧ m.code = 5))) ∧
  (∀ (s : State) die from_, (s.scan die).phase = .draining from_ → wf s → let k := (s.scan die).slot
    (s.time < from_ + 2000000 * Config.ns ∨ s.slotEmpty die k = true → exec (.scanOverdue die) s = .next s) ∧
    (from_ + 2000000 * Config.ns ≤ s.time → s.slotEmpty die k = false → s.dev.elog = 0 → ∃ t, exec (.scanOverdue die) s = .next t ∧ SameMemory s t ∧
      onward s t die k ∧ serves t die k = serves s die k ∧ (if k = 64 then (t.scan die).engOverdue = true else (t.core (64 * die + k)).overdue = true)))

/-! ## Pre-emption -/

/-- R29, R369 to R374, R376: a pre-empt request sets the control block to evicting, a resume request to restoring, and a kill request ends
the context; a group at its blocking points is saved with a record of R372's header and check word and leaves its cores, or stays where the
record does not fit; and a saved group is placed again with its lanes, table, queue and registers, or fails its node. The content restored
is the one that State carries, and the scan save area is the model's choice (log entries 46 and 47). -/
def Obligations.Preemption : Prop :=
  let word (s : State) (c : Ctx) (off v : Nat) : State := s.walkerWrite c.num (c.nodeBase + off) (bytesOf 4 v)
  let n (b : List Byte) (off len : Nat) : Nat := natOf ((b.drop off).take len)
  let field (n : Node) (off len : Nat) : Nat := natOf ((n.record.drop off).take len)
  let ended (n : Node) : Prop := n.state ∈ [.committed, .failed, .killed]
  let alone (s : State) (cn : Nat) (a : VAddr) (n : Node) : Prop := s.node? cn a = some n ∧ n.ctx = cn ∧ n.addr = a ∧ n.released = [] ∧ n.parent = none ∧
    field n 0xC 4 = 0 ∧ s.dev.elog = 0 ∧ (∀ k ∈ s.nodes, k.ctx = cn → k.parent ≠ some a) ∧ ∀ c, s.ctx? cn = some c → ∀ g ∈ c.staged, g.node ≠ a
  let blocked (s : State) (g : Group) : Prop := (∀ o ∈ s.ops, o.gid ≠ g.gid) ∧ ∀ w ∈ s.warps, w.gid = g.gid → w.handler = none ∧ w.active = none ∧
    w.replayTrap = none ∧ ∀ f ∈ w.fibres, (∃ p, f.park = some p ∧ p.wait.blocking = true) ∧ s.serviceParked w f = false
  let leaves (s : State) (g : Group) (c : Ctx) : Prop := s.group? g.gid = some g ∧ s.ctx? g.ctx = some c ∧ g.noRoom = false ∧ blocked s g ∧
    (c.state = 1 ∨ ∃ h ∈ g.shares, (s.core h.core).draining = true)
  let die (g : Group) : Nat := ((g.shares.head?.map Share.core).getD 0) / 64
  let defined (s : State) (g : Group) : Prop := (s.readScratch g 0 g.scratch).2 = s ∧ (s.tilesOf g).2 = s
  let record (g : Group) (r : List Byte) : Prop := n r 0 8 = g.node.toNat ∧ n r 8 4 = g.index % 2 ^ 32 ∧ n r 0xC 4 = (g.warps + 256 * g.shares.length) % 2 ^ 32 ∧
    n r 0x10 4 = (g.a + 2 ^ 10 * g.f + 2 ^ 16 * g.resid) % 2 ^ 32 ∧ n r 0x14 4 = g.scratch % 2 ^ 32 ∧
    n r 0x28 4 = crc32c (r.take 0x28 ++ [0, 0, 0, 0] ++ r.drop 0x2C) ∧ n r 0x2C 4 = Config.layoutTag.toNat ∧ n r 0x30 16 = 0
  let gone (s t : State) (g : Group) : Prop := t.groups = s.groups.filter (fun x => x.gid ≠ g.gid) ∧ t.warps = s.warps.filter (fun w => w.gid ≠ g.gid)
  let room (s : State) (c : Ctx) (g : Group) (area size : Nat) : Prop := s.walkerNat c.num (c.nodeBase + 8) 8 = (area, s) ∧ s.walkerNat c.num (c.nodeBase + 0x10) 8 = (size, s) ∧
    c.saveUsed + recordLen g ≤ size ∧ ∀ p ∈ pieces (area % 2 ^ 52 + c.saveUsed) (recordLen g), ∃ e l a, s.walk c p.1 = .leaf e l a ∧ pteW e = true
  (∀ (s : State) c, s.ctx? c.num = some c → c.state = 0 → ∃ t, exec (.preemptRequest c.num) s = .next t ∧ t.ops = s.ops ∧ t.warps = s.warps ∧
    t.ctx? c.num = some { c with state := 1, evicted := 0, restored := 0, saveUsed := 0 } ∧ t.mem = (word (word (word s c 0x18 0) c 0x1C 0) c 4 1).mem) ∧
  (∀ (s : State) c, s.ctx? c.num = some c → c.state = 3 → ∃ t, exec (.preemptRequest c.num) s = .next t ∧ t.ops = s.ops ∧ t.warps = s.warps ∧
    t.ctx? c.num = some { c with state := 1 } ∧ t.mem = (word s c 4 1).mem) ∧
  (∀ (s : State) c, s.ctx? c.num = some c → c.state ≠ 0 → c.state ≠ 3 → exec (.preemptRequest c.num) s = .next s) ∧
  (∀ (s : State) c, s.ctx? c.num = some c → (c.state = 1 ∨ c.state = 2) → ∃ t, exec (.resumeRequest c.num) s = .next t ∧ t.ops = s.ops ∧ t.warps = s.warps ∧
    t.groups = s.groups ∧ t.ctx? c.num = some { c with state := 3 } ∧ t.mem = (word s c 4 3).mem) ∧
  (∀ (s : State) c, s.ctx? c.num = some c → c.state ≠ 1 → c.state ≠ 2 → exec (.resumeRequest c.num) s = .next s) ∧
  (∀ (s : State) c, s.ctx? c.num = some c → c.state = 4 → exec (.killRequest c.num) s = .next s) ∧
  (∀ (s : State) c k l r, s.ctx? c.num = some c → c.state ≠ 4 → s.nodes = l ++ k :: r → (∀ m ∈ l ++ r, m.ctx = c.num → ended m) → alone s c.num k.addr k →
    k.state ∈ [.ready, .running, .complete] → ∃ t, exec (.killRequest c.num) s = .next t ∧ (∃ m, t.node? c.num k.addr = some m ∧ m.state = .killed) ∧
      (∀ g ∈ t.groups, ¬ (g.ctx = c.num ∧ g.node = k.addr)) ∧ (∀ o ∈ t.ops, ¬ (o.ctx = c.num ∧ o.node = k.addr)) ∧ (∀ v ∈ t.saved, v.ctx ≠ c.num) ∧
      (∀ x ∈ t.faults, x.ctx ≠ c.num) ∧ (∀ x ∈ t.wadi, x.ctx ≠ c.num) ∧ ∃ d, t.ctx? c.num = some d ∧ d.state = 4) ∧
  (∀ (s : State) g c w f, s.group? g.gid = some g → s.ctx? g.ctx = some c → w ∈ s.warps → w.gid = g.gid → f ∈ w.fibres → f.park = none →
    exec (.groupEvict g.gid) s = .next s) ∧
  (∀ (s : State) g c, s.group? g.gid = some g → s.ctx? g.ctx = some c → c.state ≠ 1 → (∀ h ∈ g.shares, (s.core h.core).draining = false) →
    exec (.groupEvict g.gid) s = .next s) ∧
  (∀ (s : State) g c area size, leaves s g c → c.state = 1 → room s c g area size → defined s g →
    ∃ t v r d, exec (.groupEvict g.gid) s = .next t ∧ gone s t g ∧ t.saved = s.saved ++ [v] ∧ v.group = g ∧ v.ctx = g.ctx ∧ v.at_ = some (area % 2 ^ 52 + c.saveUsed) ∧
      v.len = r.length ∧ record g r ∧ t.mem = (word (s.walkerWrite g.ctx (area % 2 ^ 52 + c.saveUsed) r) c 0x18 (c.evicted + 1)).mem ∧ t.ctx? g.ctx = some d ∧
      d.evicted = c.evicted + 1 ∧ d.saveUsed = c.saveUsed + r.length ∧ ∀ w ∈ v.warps, ∃ u ∈ s.warps, u.gid = g.gid ∧ w.idx = u.idx ∧ w.remap = u.remap ∧ w.queue = u.queue ∧
        w.fibres.map Fibre.regs = u.fibres.map Fibre.regs) ∧
  (∀ (s : State) g c area size, leaves s g c → c.state = 1 → s.walkerNat c.num (c.nodeBase + 8) 8 = (area, s) → s.walkerNat c.num (c.nodeBase + 0x10) 8 = (size, s) →
    s.dev.elog = 0 → (size < c.saveUsed + recordLen g ∨ ∃ p ∈ pieces (area % 2 ^ 52 + c.saveUsed) (recordLen g), ∀ e l a, s.walk c p.1 = .leaf e l a → pteW e = false) →
    ∃ t, exec (.groupEvict g.gid) s = .next t ∧ SameMemory s t ∧ t.warps = s.warps ∧ t.ops = s.ops ∧ t.saved = s.saved ∧ t.group? g.gid = some { g with noRoom := true }) ∧
  (∀ (s : State) g c, leaves s g c → c.state ≠ 1 → c.state ≠ 2 → s.scanSaveUsed (die g) + recordLen g ≤ 2 ^ 24 → defined s g →
    ∃ t v r, exec (.groupEvict g.gid) s = .next t ∧ gone s t g ∧ t.saved = s.saved ++ [v] ∧ v.group = g ∧ v.at_ = none ∧ v.die = die g ∧
      v.addr = (s.scan (die g)).saveBase + s.scanSaveUsed (die g) ∧ v.len = r.length ∧ record g r ∧ t.mem = (s.writeBytes 0 v.addr r).mem ∧ v.drained ≠ none) ∧
  (∀ (s : State) c, s.ctx? c.num = some c → (s.places = false ∨ s.restorers c = []) → exec (.groupRestore c.num) s = .next s) ∧
  (∀ (s : State) c v k, s.ctx? c.num = some c → s.places = true → s.restorers c = [v] → v.ctx = c.num → alone s v.ctx v.group.node k →
    k.state = .running → s.couldPlace k v = false → ∃ t m, exec (.groupRestore c.num) s = .next t ∧ t.node? c.num v.group.node = some m ∧ m.state = .failed ∧ m.code = 4) ∧
  (∀ (s : State) c v k core, s.ctx? c.num = some c → s.places = true → s.restorers c = [v] → v.ctx = c.num → v.at_ = none →
    s.couldPlace k v = true → s.chooseCores k.masks (v.demand 0) v.group.shares.length = some [core] → s.poisoned v.addr v.len = false →
    (s.readBytes 0 v.addr v.len).2 = s →
    let r := (s.readBytes 0 v.addr v.len).1
    let whole := n r 0x28 4 = crc32c (r.take 0x28 ++ [0, 0, 0, 0] ++ r.drop 0x2C) ∧ n r 0x2C 4 = Config.layoutTag.toNat
    (¬ whole → alone s v.ctx v.group.node k → k.state = .running →
      ∃ t m, exec (.groupRestore c.num) s = .next t ∧ t.node? c.num v.group.node = some m ∧ m.state = .failed ∧ m.code = 0x10) ∧
    (whole → s.node? v.ctx v.group.node = some k → v.group.shares.length = 1 → ∀ seats ptr, s.seatShare core (v.demand 0) = some (seats, ptr) → (seats.map Seat.idx).Nodup →
      (∀ w ∈ v.warps, w.gid = v.group.gid ∧ ∀ f ∈ w.fibres, ∃ p, f.park = some p ∧ ((∃ b q, p.wait = .barrier b q) ∨ ∃ j, p.wait = .rejoin j)) →
      (∀ w ∈ s.warps, w.gid ≠ v.group.gid) →
      let share : Share := { core := core, granules := (s.freeGranules core).take (v.group.scratch / 8192), tiles := (s.freeTiles core).take (v.demand 0).tiles }
      ∃ t g, exec (.groupRestore c.num) s = .next t ∧ t.groups = s.groups ++ [g] ∧ g.gid = v.group.gid ∧ g.node = v.group.node ∧ g.index = v.group.index ∧
        g.bars = v.group.bars ∧ g.rings = v.group.rings ∧ g.shares = [share] ∧
        t.saved = s.saved.filter (fun x => x.group.gid ≠ v.group.gid) ∧ ∀ w ∈ v.warps, ∀ q ∈ seats, q.idx = w.idx → ∃ u ∈ t.warps, u.wid = q.wid ∧ u.run = q.run ∧
          u.gid = w.gid ∧ u.idx = w.idx ∧ u.role = w.role ∧ u.remap = w.remap ∧ u.queue = w.queue ∧ u.mode = w.mode ∧
          (w.cycOff < 2 ^ 64 → (s.clock + u.cycOff) % 2 ^ 64 = w.cycOff) ∧ u.fibres = w.fibres.map (fun f => { f with waitFrom := s.clock, wasReady := false })))

/-! ## Boot, management, power and the outside -/

/-- R95, R100, R355: a position that holds no instruction raises the undefined-instruction trap, whatever its guard: class 1 with the major
opcode as its detail, or the short opcode with the top bit set. -/
def Claims.UndefinedInstructions : Prop :=
  ∀ (s : State) (w : Warp) (a : Active) (g : Group) w0 w1 w2, s.cur.bind s.warp? = some w → w.active = some a → s.group? w.gid = some g →
    s.ops.any (fun o => o.parks && o.gid = w.gid && (w.bundle a).any (fun f => f.id = o.fid)) = false → w.replayTrap = none → w.bundle a ≠ [] →
    let detail : Nat := if w0.extractLsb' 0 2 = 0 then 2 ^ 15 + (w0.extractLsb' 2 6).toNat else (w0.extractLsb' 8 8).toNat
    exec (.undefinedInstruction w0 w1 w2) s = .next (s.trapHere w a a.lanes { cls := 1, detail := detail })

/-- TMASK, the user trap and the undefined-instruction trap (R95, R100, R118, R123, R355, R356, R357, R364, R367). Which lanes the mask of
the frame names, and that TMASK takes the highest lane, are the model's readings (log entries 18 and 24). -/
def Obligations.TrapMasksAndRaising : Prop := Claims.TrapMasks ∧ Claims.UserTrap ∧ Claims.UndefinedInstructions

/-- R13, R14, R344, R348, R350, R351: boot verifies the firmware images under the fused digest, measures the accepted ones and reaches the
hold point, or stops with ID bit 31; leaving the hold point sets the tier modes and bins the rows; and the end of boot scans every slot,
generates key 0 and brings up the links. Each of the three steps does nothing at any other point. Which register an image extends is the
model's choice (log entry 52). -/
def Obligations.BootSteps : Prop :=
  let accepted (i : FirmwareImage) : Prop := shake256 i.key Config.fusedDigest.length = Config.fusedDigest ∧ Config.slhVerify i.key i.image i.sig = true
  let start (s : State) : Device := { s.dev with opstate := 7, opcmd := 7, opTarget := 7 }
  (∀ (s : State) images, s.dev.boot ≠ .before → exec (.boot images) s = .next s) ∧
  (∀ (s : State) images, s.dev.boot = .before → (∀ i ∈ images, accepted i) →
    exec (.boot images) s = .next { s with dev := { start s with boot := .hold, measures := images.zipIdx.foldl (fun m p =>
      let r := Config.measureRegister p.2 % 16
      m.set r (shake256 (m.getD r [] ++ shake256 p.1.image 64) 64)) (List.replicate 16 (List.replicate 64 0)) } }) ∧
  (∀ (s : State) images, s.dev.boot = .before → (∃ i ∈ images, ¬ accepted i) →
    ∃ t m, exec (.boot images) s = .next t ∧ t = { s with dev := { start s with boot := .stopped, bootFailed := true, measures := m } }) ∧
  (∀ (s : State) bins, s.dev.boot ≠ .hold → exec (.bootHoldRelease bins) s = .next s) ∧
  (∀ (s : State) bins, s.dev.boot = .hold → swf {} s.memStacks = true →
    let rows (k : Nat) (c : Bool) : List (Nat × Nat) := (bins.filter (fun (b : RowBin) => b.stack = k && b.class32 == c)).map (fun b => (b.bank, b.row))
    ∃ t : State, exec (.bootHoldRelease bins) s = .next t ∧ t = { s with memStacks := t.memStacks, dev := { s.dev with boot := .released } } ∧
      (∀ k < 12, t.stack k = { s.stack k with cache := s.dev.tiermode.getLsbD k, need32 := rows k true, need64 := rows k false, refreshed := [] }) ∧
      ∀ k, 12 ≤ k → t.stack k = s.stack k) ∧
  (∀ (s : State) fc fe up, s.dev.boot ≠ .released → exec (.bootComplete fc fe up) s = .next s) ∧
  (∀ (s : State) fc fe up, s.dev.boot = .released → swf {} s.cores = true → swf {} s.scans = true → swf 0 s.keyGen = true →
    ∃ (t : State) (links : List Nat), exec (.bootComplete fc fe up) s = .next t ∧
      t = { s with cores := t.cores, scans := t.scans, keyGen := t.keyGen, dev := { s.dev with boot := .ready, links := links } } ∧
      (∀ p, p ∈ links ↔ p ∈ up ∧ p < 18) ∧
      (∀ c < 512, t.core c = { s.core c with present := !fc.contains c, inService := true, draining := false, overdue := false, passedAt := s.time, fusedQuads := [], lostRegs := [], scratchKiB := 3072, tiles := 256 }) ∧
      (∀ d < 8, t.scan d = { s.scan d with slot := 0, phase := .idle, engInService := !fe.contains d, engOverdue := false, engPassedAt := s.time, next := none }) ∧
      ∀ k, sget 0 t.keyGen k = sget 0 s.keyGen k + (if k = 0 then 1 else 0))

/-- R350, R201: the retire of an identity generates a fresh key for it and for no other; what was written in DRAM under the old one has no
defined contents for the identity afterwards. -/
def Claims.KeyRetire : Prop :=
  ∀ (s : State) (k : BitVec 10), swf 0 s.keyGen = true →
    ∃ t : State, exec (.keyRetire k) s = .next t ∧ t = { s with keyGen := t.keyGen, dev := { s.dev with keyret := k.toNat } } ∧
      (∀ j, sget 0 t.keyGen j = sget 0 s.keyGen j + (if j = k.toNat then 1 else 0)) ∧
      (∀ p, storage p = .dram → sget 0 s.unitKey (p / 16) = k.toNat + 1024 * sget 0 s.keyGen k.toNat + 1 → ¬ t.defined k.toNat p) ∧
      ∀ j p, j < 1024 → j ≠ k.toNat → (t.readByte j p).1 = (s.readByte j p).1

/-- R354, R380: an invalidation drops the named context's translations of its range, or of all pages for a count of 0, and every first-level
line; one that is written while another runs waits; and it is complete once every access that used a dropped translation has finished:
INVDONE is set, the records of causes 1 and 3 in its range are due, and the next one begins. -/
def Claims.Invalidation : Prop :=
  let covers (first n page : Nat) : Prop := n = 0 ∨ (first ≤ page ∧ page < first + n)
  let first (d : Device) : Nat := d.invva.toNat / 65536 + d.invvah.toNat * 65536
  let begins (s t : State) (cn lo n : Nat) (users : List Nat) : Prop :=
    (∀ e, e ∈ t.tlb ↔ e ∈ s.tlb ∧ ¬ (e.ctx = cn ∧ covers lo n e.page)) ∧ t.l1 = [] ∧
    ∀ k, k ∈ users ↔ ∃ o ∈ s.ops, o.id = k ∧ o.ctx = cn ∧ ∃ p ∈ o.pins ++ o.wpins, covers lo n (p.1 / 65536)
  (∀ (s : State) pages, s.dev.invs = [] → ∃ (t : State) (users : List Nat), exec (.tlbInvalidate pages) s = .next t ∧
    t = { s with tlb := t.tlb, l1 := [], dev := { s.dev with invpages := pages, invs := [(s.dev.invctx, first s.dev, pages.toNat, users)] } } ∧
    begins s t s.dev.invctx (first s.dev) pages.toNat users) ∧
  (∀ (s : State) pages, s.dev.invs ≠ [] → exec (.tlbInvalidate pages) s =
    .next { s with dev := { s.dev with invpages := pages, invs := s.dev.invs ++ [(s.dev.invctx, first s.dev, pages.toNat, [])] } }) ∧
  (∀ (s : State), s.dev.invs = [] → exec .invalidationComplete s = .next s) ∧
  (∀ (s : State) cn lo n (users : List Nat) rest, s.dev.invs = (cn, lo, n, users) :: rest → (∃ o ∈ s.ops, o.id ∈ users) →
    exec .invalidationComplete s = .next s) ∧
  (∀ (s : State) cn lo n (users : List Nat) rest, s.dev.invs = (cn, lo, n, users) :: rest → (∀ o ∈ s.ops, o.id ∉ users) →
    ∃ t : State, exec .invalidationComplete s = .next t ∧ t.dev.invdone = true ∧ t.ops = s.ops ∧ t.mem = s.mem ∧
      (∀ r ∈ s.faults, (if r.ctx = cn ∧ (r.cause = 1 ∨ r.cause = 3) ∧ (n = 0 ∨ (lo ≤ r.page ∧ r.page < lo + n)) then { r with due := true } else r) ∈ t.faults) ∧
      (rest = [] → t.dev.invs = [] ∧ t.tlb = s.tlb) ∧
      ∀ c2 lo2 n2 u2 more, rest = (c2, lo2, n2, u2) :: more → ∃ users2, t.dev.invs = (c2, lo2, n2, users2) :: more ∧ begins s t c2 lo2 n2 users2)

/-- The retire of a key, and invalidations (R13, R201, R350, R354, R380). That an invalidation drops every L1 line is the model's choice
(log entry 33). -/
def Obligations.KeysAndInvalidation : Prop := Claims.KeyRetire ∧ Claims.Invalidation

/-- R349: a request for an attestation report is ignored while one runs and fails for a buffer at 0 or not at a multiple of 4 KiB; the
report, laid out and signed as the rule gives it, is written to the buffer before the busy bit is cleared. -/
def Claims.Attestation : Prop :=
  let n (l : List Byte) (i len : Nat) : List Byte := (l.drop i).take len
  (∀ (s : State), s.dev.attBusy = true → exec .attestationRequest s = .next s) ∧
  (∀ (s : State), s.dev.attBusy = false → (s.dev.attbuf = 0 ∨ s.dev.attbuf.toNat % 4096 ≠ 0) →
    exec .attestationRequest s = .next { s with dev := { s.dev with attcmd := true, attFailed := true } }) ∧
  (∀ (s : State), s.dev.attBusy = false → s.dev.attbuf ≠ 0 → s.dev.attbuf.toNat % 4096 = 0 →
    exec .attestationRequest s = .next { s with dev :=
      { s.dev with attcmd := true, attFailed := false, attBusy := true, attNonceIn := s.dev.nonce, attBufIn := s.dev.attbuf } }) ∧
  (∀ (s : State), s.dev.attBusy = false → exec .attestationComplete s = .next s) ∧
  (∀ (s : State), s.dev.attBusy = true → s.dev.attNonceIn.length = 32 → s.dev.measures.length = 16 → (∀ m ∈ s.dev.measures, m.length = 64) →
    s.mem.wf = true → s.dev.attBufIn.toNat + 32768 ≤ 2 ^ 48 →
    ∃ (t : State) (r : List Byte), exec .attestationComplete s = .next t ∧ t = { s with mem := t.mem, dev := { s.dev with attBusy := false } } ∧
      (∀ i < r.length, t.rawByte (2 * 2 ^ 48 + s.dev.attBufIn.toNat + i) = r.getD i 0) ∧
      (∀ p, (∀ i < r.length, p ≠ 2 * 2 ^ 48 + s.dev.attBufIn.toNat + i) → t.rawByte p = s.rawByte p) ∧
      r.length = 0x4C0 + 29792 ∧ n r 0 32 = s.dev.attNonceIn ∧ (∀ k < 16, n r (0x20 + 64 * k) 64 = s.dev.measures.getD k []) ∧
      natOf (n r 0x420 4) = s.dev.modnum % 2 ^ 32 ∧ natOf (n r 0x424 4) = s.dev.tiermode.toNat ∧ natOf (n r 0x428 24) = 0 ∧
      (∀ c < 512, (natOf (n r (0x440 + c / 8) 1)).testBit (c % 8) = (s.core c).present) ∧
      (Config.deviceKey.length = 64 → n r 0x480 64 = Config.deviceKey) ∧
      ((Config.slhSign (r.take 0x4C0)).length = 29792 → n r 0x4C0 29792 = Config.slhSign (r.take 0x4C0)))

/-- R7, R341, R350 to R354: a write to the management map sets the register's fields; a write to a register with an action makes it; what is
fixed after the hold point is ignored from then on; every other offset ignores it; and a fabric link comes up or goes down. -/
def Claims.ManagementMap : Prop :=
  let fixed (s : State) : Prop := s.dev.boot = .released ∨ s.dev.boot = .ready
  let writes (s : State) (off : Nat) (v : Word) (d : Device) : Prop := exec (.registerWrite off v) s = .next { s with dev := d }
  let bytes (l : List Byte) (i : Nat) (v : Word) : List Byte := l.take i ++ bytesOf 4 v.toNat ++ l.drop (i + 4)
  let low (d : DWord) (v : Word) : DWord := d.extractLsb' 32 32 ++ v
  let high (d : DWord) (v : Word) : DWord := v ++ d.extractLsb' 0 32
  (∀ (s : State) (v : Word), v.getLsbD 0 = true → s.dev.boot = .hold → exec (.registerWrite 0x0004 v) s = exec (.bootHoldRelease []) s) ∧
  (∀ (s : State) (v : Word) off, fixed s → s.dev.elog = 0 → (off ∈ [0x0004, 0x0008, 0x000C] ∨ (0x0100 ≤ off ∧ off < 0x0180 ∧ off % 4 = 0)) →
    exec (.registerWrite off v) s = .next s) ∧
  (∀ (s : State) (v : Word), ¬ fixed s → writes s 0x0008 v { s.dev with modnum := v.toNat % 64 } ∧ writes s 0x000C v { s.dev with tiermode := v.setWidth 12 } ∧
    ∀ i < 16, writes s (0x0100 + 4 * i) v { s.dev with route0 := bytes s.dev.route0 (4 * i) v } ∧ writes s (0x0140 + 4 * i) v { s.dev with route1 := bytes s.dev.route1 (4 * i) v }) ∧
  (∀ (s : State) (v : Word) (c : Fin 8), v.toNat % 16 = c.val → exec (.registerWrite 0x0010 v) s = exec (.opcmdOperatingPoint c) s) ∧
  (∀ (s : State) (v : Word), (v.toNat % 16 = 8 → exec (.registerWrite 0x0010 v) s = exec .opcmdIdleHot s) ∧
    (v.toNat % 16 = 9 → exec (.registerWrite 0x0010 v) s = exec .opcmdIdleCold s) ∧ (v.toNat % 16 = 10 → exec (.registerWrite 0x0010 v) s = exec .opcmdParked s) ∧
    (v.toNat % 16 = 11 → exec (.registerWrite 0x0010 v) s = exec .opcmdOff s)) ∧
  (∀ (s : State) (v : Word), 12 ≤ v.toNat % 16 → s.dev.busy = false → s.dev.reviewBusy = false → s.dev.trip = false →
    writes s 0x0010 v { s.dev with opcmd := v.toNat % 16, result := 3 }) ∧
  (∀ (s : State) (v : Word), v.getLsbD 0 = true → exec (.registerWrite 0x0018 v) s = exec .marginReview s ∧ exec (.registerWrite 0x0528 v) s = exec .attestationRequest s) ∧
  (∀ (s : State) (v : Word), v.getLsbD 0 = false → writes s 0x0018 v { s.dev with mreview := false } ∧ writes s 0x0528 v { s.dev with attcmd := false }) ∧
  (∀ (s : State) (v : Word), exec (.registerWrite 0x001C v) s = exec (.keyRetire (v.setWidth 10)) s ∧ exec (.registerWrite 0x002C v) s = exec (.tlbInvalidate v) s ∧
    writes s 0x0020 v { s.dev with invctx := v.toNat % 1024 } ∧ writes s 0x0024 v { s.dev with invva := v &&& 0xFFFF0000 } ∧
    writes s 0x0028 v { s.dev with invvah := v &&& 0x000FFFFF } ∧ writes s 0x0030 v { s.dev with invdone := s.dev.invdone && !v.getLsbD 0 } ∧
    writes s 0x0040 v { s.dev with elog := low s.dev.elog v } ∧ writes s 0x0044 v { s.dev with elog := high s.dev.elog v } ∧
    writes s 0x0520 v { s.dev with attbuf := low s.dev.attbuf v } ∧ writes s 0x0524 v { s.dev with attbuf := high s.dev.attbuf v } ∧
    ∀ i < 8, writes s (0x0500 + 4 * i) v { s.dev with nonce := bytes s.dev.nonce (4 * i) v }) ∧
  (∀ (s : State) (v : Word) off, (off = 0 ∨ off = 0x14 ∨ (0x34 ≤ off ∧ off < 0x40) ∨ (0x48 ≤ off ∧ off < 0x100) ∨ (0x180 ≤ off ∧ off < 0x500) ∨ 0x52C ≤ off ∨ off % 4 ≠ 0) →
    exec (.registerWrite off v) s = .next s) ∧
  (∀ (s : State) port up, 18 ≤ port → exec (.fabricLinkChange port up) s = .next s) ∧
  (∀ (s : State) port up, port < 18 → ∃ l, exec (.fabricLinkChange port up) s = .next { s with dev := { s.dev with links := l } } ∧
    ∀ p, p ∈ l ↔ if p = port then up = true else p ∈ s.dev.links)

/-- Writes to the management map, fabric links, and attestation reports (R7, R341, R349, R350, R351, R352, R353, R354). A write to BOOTCTL
bins no row in the model (log entry 51). -/
def Obligations.ManagementAndAttestation : Prop := Claims.Attestation ∧ Claims.ManagementMap

/-- R345, R346, R353: a power command is refused with result 2 in a transition, a review or a trip that it may not end, with 3 for an
operating point marked unavailable, and with 1 where its entry condition fails; otherwise the transition begins, and its end enters the
state: idle-cold and parked lose the contents of on-chip storage, off everything but the memory of the host and the peers, and an operating
point ends a trip. A die of the module, the hub dies among them, at 110 degrees brings the trip into force. -/
def Claims.PowerStates : Prop :=
  let cmd (code : Nat) (i : Instr) : Prop := (∃ c : Fin 8, code = c.val ∧ i = .opcmdOperatingPoint c) ∨ (code = 8 ∧ i = .opcmdIdleHot) ∨ (code = 9 ∧ i = .opcmdIdleCold) ∨
    (code = 10 ∧ i = .opcmdParked) ∨ (code = 11 ∧ i = .opcmdOff)
  let tripHolds (s : State) (code : Nat) : Prop := s.dev.trip = true ∧ ¬ (code ≤ 7 ∧ ∀ c ∈ s.dev.temps, c < 95)
  let entry (s : State) (code : Nat) : Prop := (s.dev.opstate = 11 → code = 11) ∧ (code = 8 ∨ code = 9 → s.quiet = true) ∧ (code = 10 → s.silent = true)
  let free (s : State) (code : Nat) : Prop := s.dev.busy = false ∧ s.dev.reviewBusy = false ∧ ¬ tripHolds s code
  let refused (s : State) (i : Instr) (code r : Nat) : Prop := exec i s = .next { s with dev := { s.dev with opcmd := code, result := r } }
  (∀ (s : State), s.groups ≠ [] → s.quiet = false ∧ s.silent = false) ∧
  (∀ (s : State) i code, cmd code i → ¬ free s code → refused s i code 2) ∧
  (∀ (s : State) i code, cmd code i → free s code → code ∈ s.dev.opsOut → refused s i code 3) ∧
  (∀ (s : State) i code, cmd code i → free s code → code ∉ s.dev.opsOut → ¬ entry s code → refused s i code 1) ∧
  (∀ (s : State) i code, cmd code i → free s code → code ∉ s.dev.opsOut → entry s code →
    exec i s = .next { s with dev := { s.dev with opcmd := code, opTarget := code, busy := true, tripEnds := s.dev.trip } }) ∧
  (∀ (s : State), s.dev.busy = false → exec .powerTransitionComplete s = .next s) ∧
  (∀ (s : State), s.dev.busy = true → s.dev.opTarget ≤ 8 → exec .powerTransitionComplete s =
    .next { s with dev := { s.dev with opstate := s.dev.opTarget, busy := false, result := 0, trip := s.dev.trip && !(decide (s.dev.opTarget ≤ 7) && s.dev.tripEnds) } }) ∧
  (∀ (s : State), s.dev.busy = true → (s.dev.opTarget = 9 ∨ s.dev.opTarget = 10) →
    ∃ t : State, exec .powerTransitionComplete s = .next t ∧ t.dev = { s.dev with opstate := s.dev.opTarget, busy := false, result := 0, chipLost := true } ∧
      t.ctxs = s.ctxs ∧ t.nodes = s.nodes ∧ t.groups = s.groups ∧ t.l1 = [] ∧ t.icache = [] ∧ t.tlb = [] ∧ t.wadi = [] ∧
      (s.mem.wf = true → ∀ k p, storage p ≠ .chip → (t.readByte k p).1 = (s.readByte k p).1) ∧ ∀ k p, storage p = .chip → ¬ t.defined k p) ∧
  (∀ (s : State), s.dev.busy = true → s.dev.opTarget = 11 →
    ∃ t : State, exec .powerTransitionComplete s = .next t ∧ t.dev = { State.reset.dev with opcmd := 11, opstate := 11, opTarget := 11 } ∧ t.ctxs = [] ∧ t.nodes = [] ∧
      t.groups = [] ∧ t.warps = State.reset.warps ∧ t.ops = [] ∧ t.faults = [] ∧ t.saved = [] ∧
      ∀ p, storage p ≠ .dram → storage p ≠ .chip → s.mem.wf = true → t.rawByte p = s.rawByte p) ∧
  (∀ (s : State) die c, 10 ≤ die → exec (.thermalTrip die c) s = .next s) ∧
  (∀ (s : State) die c, die < 10 → (c < 110 ∨ s.dev.trip = true) → exec (.thermalTrip die c) s = .next { s with dev :=
    { s.dev with temps := s.dev.temps.set die c, tripEnds := s.dev.tripEnds && decide (c < 110) } }) ∧
  (∀ (s : State) die c, die < 10 → 110 ≤ c → s.dev.trip = false → s.dev.elog = 0 →
    exec (.thermalTrip die c) s = .next { s with dev := { s.dev with temps := s.dev.temps.set die c, trip := true, tripEnds := false } })

/-- R347, R352, R397: a margin review is refused during a trip or a review, and outside idle-hot; its end writes the guard found for each
operating point to the report and marks those out of reach unavailable; and it has repaired each slot that was out of service: a core has
lost what failed and is in service again where the scan after the action passes, and is fused off where it does not. -/
def Claims.MarginReview : Prop :=
  let done (s : State) (guards out : List Nat) (d : Device) : Prop := d = { s.dev with reviewBusy := false, reviewReport := d.reviewReport, opsOut := d.opsOut } ∧
    (∀ i < 8, d.reviewReport.getD i 0 = if i ∈ d.opsOut then Config.unavailable (BitVec.ofNat 32 (guards.getD i 0)) else BitVec.ofNat 32 (guards.getD i 0)) ∧ ∀ c, c ∈ d.opsOut ↔ c ∈ s.dev.opsOut ∨ (c ∈ out ∧ c < 8)
  let waits (s : State) (die slot : Nat) : Prop := if slot = 64 then (s.scan die).engInService = false else (s.core (64 * die + slot)).present = true ∧ (s.core (64 * die + slot)).inService = false
  let only (s : State) (r : Repair) : Prop := r.die < 8 ∧ r.slot < 65 ∧ ∀ d k, d < 8 → k < 65 → (waits s d k ↔ d = r.die ∧ k = r.slot)
  let back (s : State) (k : Core) : Core := { k with inService := true, overdue := false, passedAt := s.time }
  (∀ (s : State), (s.dev.trip = true ∨ s.dev.reviewBusy = true) → exec .marginReview s = .next { s with dev := { s.dev with mreview := true, reviewResult := 2 } }) ∧
  (∀ (s : State), s.dev.trip = false → s.dev.reviewBusy = false → (s.dev.opstate ≠ 8 ∨ s.dev.busy = true) →
    exec .marginReview s = .next { s with dev := { s.dev with mreview := true, reviewResult := 1 } }) ∧
  (∀ (s : State), s.dev.trip = false → s.dev.reviewBusy = false → s.dev.opstate = 8 → s.dev.busy = false →
    exec .marginReview s = .next { s with dev := { s.dev with mreview := true, reviewResult := 0, reviewBusy := true } }) ∧
  (∀ (s : State) gs out rs, s.dev.reviewBusy = false → exec (.marginReviewComplete gs out rs) s = .next s) ∧
  (∀ (s : State) gs out rs d k, d < 8 → k < 65 → waits s d k → (∀ r ∈ rs, ¬ (r.die = d ∧ r.slot = k)) → exec (.marginReviewComplete gs out rs) s = .next s) ∧
  (∀ (s : State) gs out rs, s.dev.reviewBusy = true → (∀ d k, d < 8 → k < 65 → ¬ waits s d k) →
    ∃ d, exec (.marginReviewComplete gs out rs) s = .next { s with dev := d } ∧ done s gs out d) ∧
  (∀ (s : State) gs out r, s.dev.reviewBusy = true → only s r → r.slot < 64 → s.dev.elog = 0 → swf {} s.cores = true →
    let c := 64 * r.die + r.slot
    let k := s.core c
    ∃ t : State, exec (.marginReviewComplete gs out [r]) s = .next t ∧ done s gs out t.dev ∧ (∀ j, j ≠ c → t.core j = s.core j) ∧ t.mem = s.mem ∧ t.groups = s.groups ∧
      ((r.pass = false ∨ r.unit = .other) → (t.core c).present = false) ∧
      (r.pass = true → k.fusedQuads.length < 4 → (r.unit = .scratchSegment → t.core c = back s { k with scratchKiB := k.scratchKiB - 64 }) ∧ (r.unit = .accBank → t.core c = back s { k with tiles := k.tiles - 16 })) ∧
      (∀ q, r.pass = true → k.fusedQuads.length < 3 → r.unit = .quadrant q → t.core c = back s { k with fusedQuads := (t.core c).fusedQuads } ∧ ∀ x, x ∈ (t.core c).fusedQuads ↔ x ∈ k.fusedQuads ∨ x = q) ∧
      (∀ q, r.pass = true → k.fusedQuads.length < 4 → r.unit = .registerBlock q → sget 0 k.lostRegs q < 6144 → swf 0 k.lostRegs = true →
        t.core c = back s { k with lostRegs := (t.core c).lostRegs } ∧ ∀ x, sget 0 (t.core c).lostRegs x = sget 0 k.lostRegs x + if x = q then 2048 else 0)) ∧
  (∀ (s : State) gs out r, s.dev.reviewBusy = true → only s r → r.slot = 64 → s.dev.elog = 0 →
    ∃ t : State, exec (.marginReviewComplete gs out [r]) s = .next t ∧ done s gs out t.dev ∧ t.cores = s.cores ∧ t.scans = s.scans ∧ t.mem = s.mem)

/-- Power commands, transitions and the thermal trip; margin reviews: refusals, report, and the repair of slots (R345, R346, R347, R352,
R353, R397). What idle-cold and parked lose, that an operating point ends a trip, that the list of repairs names every slot, when the result
is set, and the mark of an unavailable point are the model's readings (log entries 48, 50 and 91). -/
def Obligations.PowerAndMargins : Prop := Claims.PowerStates ∧ Claims.MarginReview

/-- R246, R251, R339, R340, R369, R384: what the host writes through a port stands in memory and in its own images; a whole frame that it
writes is no longer device-written; a request word makes its request; an atomic add of 0xFFFF_FFFF to a pred word releases the node; and its
answers to page requests make the records that wait due, or fail their nodes. The images and the answers to page requests are the model's
readings (log entries 10 and 53). -/
def Obligations.HostAccess : Prop :=
  let open_ (s : State) (port : Nat) : Prop := port < 2 ∧ s.dev.opstate ≠ 11
  let put (p : Nat) (b : Byte) (i : Image) : Image := if i.addr ≤ p ∧ p < i.addr + i.bytes.length then { i with bytes := i.bytes.set (p - i.addr) b } else i
  let waits (s : State) (frame : Nat) (r : FaultRec) : Prop := r.cause = 4 ∧ ∃ c e l a, s.ctx? r.ctx = some c ∧ s.walk c (r.page * 65536) = .leaf e l a ∧
    leafAddr e l (r.page * 65536) % 2 ^ 48 / 65536 = frame
  let field (n : Node) (off len : Nat) : Nat := natOf ((n.record.drop off).take len)
  let alone (s : State) (cn : Nat) (a : VAddr) (n : Node) : Prop := s.node? cn a = some n ∧ n.ctx = cn ∧ n.addr = a ∧ n.released = [] ∧ n.parent = none ∧
    field n 0xC 4 = 0 ∧ s.dev.elog = 0 ∧ (∀ k ∈ s.nodes, k.ctx = cn → k.parent ≠ some a) ∧ ∀ c, s.ctx? cn = some c → ∀ g ∈ c.staged, g.node ≠ a
  (∀ (s : State) port acc, ¬ open_ s port → exec (.hostPortAccess port acc) s = .next s) ∧
  (∀ (s : State) port cn va n, exec (.hostPortAccess port (.readMem cn va n)) s = .next s) ∧
  (∀ (s : State) port a bs, open_ s port → s.mem.wf = true → a + bs.length ≤ 2 ^ 48 →
    ∃ t : State, exec (.hostPortAccess port (.writeHost a bs)) s = .next t ∧ t = { s with mem := t.mem } ∧ (∀ i < bs.length, t.rawByte (2 * 2 ^ 48 + a + i) = bs.getD i 0) ∧
      ∀ p, (∀ i < bs.length, p ≠ 2 * 2 ^ 48 + a + i) → t.rawByte p = s.rawByte p) ∧
  (∀ (s : State) port (va : VAddr) b c p k, open_ s port → s.ctx? c.num = some c → s.walkerByte? c.num va.toNat = some (p, k) → s.tidy →
    ∃ t : State, exec (.hostPortAccess port (.write c.num va [b])) s = .next t ∧ Stores s t k [(p, b)] ∧ t.ops = s.ops ∧ t.nodes = s.nodes ∧
      t.ctxs = s.ctxs.map (fun d => { d with images := d.images.map (put p b), shadows := d.shadows.map (put p b) })) ∧
  (∀ (s : State) port (va : VAddr) b c, open_ s port → s.ctx? c.num = some c → s.walkerByte? c.num va.toNat = none →
    exec (.hostPortAccess port (.write c.num va [b])) s = .next s) ∧
  (∀ (s : State) port (va : VAddr) b bs c, open_ s port → s.ctx? c.num = some c → c.requestIn va.toNat (bs.length + 1) = false → c.requestIn (va + 1).toNat bs.length = false →
    ∃ t u v, exec (.hostPortAccess port (.write c.num va [b])) s = .next t ∧ exec (.hostPortAccess port (.write c.num (va + 1) bs)) t = .next u ∧
      exec (.hostPortAccess port (.write c.num va (b :: bs))) s = .next v ∧ v.mem = u.mem ∧ v.unitKey = u.unitKey ∧ v.owner = u.owner) ∧
  (∀ (s : State) port (va : VAddr) bs c, open_ s port → s.ctx? c.num = some c → c.requestIn va.toNat 65536 = false → bs.length = 65536 → va.toNat % 65536 = 0 →
    ∃ t, exec (.hostPortAccess port (.write c.num va bs)) s = .next t ∧ ∀ p k, t.walkerByte? c.num va.toNat = some (p, k) → storage p = .dram →
      p / 65536 ∉ t.devWritten ∧ ∃ d, t.ctx? c.num = some d ∧ d.images.find? (fun i => i.addr = p) = some { addr := p, bytes := bs }) ∧
  (∀ (s : State) port (va : VAddr) (v : Word) c, open_ s port → s.ctx? c.num = some c → va.toNat = c.nodeBase →
    let u := s.hostWrite c.num va.toNat (bytesOf 4 v.toNat)
    let acts := exec (.hostPortAccess port (.write c.num va (bytesOf 4 v.toNat))) s
    (v = 1 → acts = exec (.preemptRequest c.num) u) ∧ (v = 2 → acts = exec (.resumeRequest c.num) u) ∧ (v = 3 → acts = exec (.killRequest c.num) u) ∧
    (v = 0 ∨ 3 < v.toNat → acts = .next u)) ∧
  (∀ (s : State) port (va : VAddr) cn, open_ s port → s.dev.boot = .ready → 8 ≤ va.toNat → s.isRecord cn (va - 8) = true →
    exec (.hostPortAccess port (.atomicAdd cn va 0xFFFFFFFF)) s = exec (.hostNodeRelease port cn (va - 8)) s) ∧
  (∀ (s : State) port (va : VAddr) (v : Word) cn old, open_ s port → (v ≠ 0xFFFFFFFF ∨ s.isRecord cn (va - 8) = false) → s.walkerNat cn va.toNat 4 = (old, s) →
    exec (.hostPortAccess port (.atomicAdd cn va v)) s = .next (s.hostWrite cn va.toNat (bytesOf 4 (old + v.toNat)))) ∧
  (∀ (s : State) port (va : VAddr) cn op ws, open_ s port → op ≠ .addB32 →
    let n : Nat := if op ∈ [.exchB32, .casB32] then 4 else 8
    (op ∉ [.addB64, .exchB32, .exchB64, .casB32, .casB64] ∨ va.toNat % n ≠ 0 → exec (.hostPortAccess port (.atomic cn va op ws)) s = .next s) ∧
    ∀ old, op ∈ [.addB64, .exchB32, .exchB64, .casB32, .casB64] → va.toNat % n = 0 → s.walkerNat cn va.toNat n = (old, s) →
      let w (i : Nat) : Nat := (ws.getD i 0).toNat
      let d (i : Nat) : Nat := w i + 2 ^ 32 * w (i + 1)
      let puts (v : Nat) : Prop := exec (.hostPortAccess port (.atomic cn va op ws)) s = .next (s.hostWrite cn va.toNat (bytesOf n v))
      (op = .addB64 → puts ((old + d 0) % 2 ^ 64)) ∧ (op = .exchB32 → puts (w 0)) ∧ (op = .exchB64 → puts (d 0)) ∧
      (op = .casB32 → old = w 0 → puts (w 1)) ∧ (op = .casB64 → old = d 0 → puts (d 2)) ∧
      (op = .casB32 ∧ old ≠ w 0 ∨ op = .casB64 ∧ old ≠ d 0 → exec (.hostPortAccess port (.atomic cn va op ws)) s = .next s)) ∧
  (∀ (s : State) port frame, open_ s port → ∃ t : State, exec (.hostPortAccess port (.pageResponse frame true)) s = .next t ∧
    t = { s with faults := t.faults, dev := { s.dev with absent := s.dev.absent.filter (fun f => f ≠ frame) } } ∧ t.faults.length = s.faults.length ∧
    ∀ r ∈ s.faults, (waits s frame r → { r with due := true } ∈ t.faults) ∧ (¬ waits s frame r → r ∈ t.faults)) ∧
  (∀ (s : State) port frame, open_ s port → (∀ r ∈ s.faults, ¬ waits s frame r) →
    ∃ l tl, exec (.hostPortAccess port (.pageResponse frame false)) s = .next { s with tlb := tl, dev := { s.dev with absent := l } } ∧ (∀ f, f ∈ l ↔ f ∈ s.dev.absent ∨ f = frame) ∧
      ∀ y, y ∈ tl ↔ y ∈ s.tlb ∧ ¬ ((∃ k, y.place = .hub k) ∧ leafAddr y.leaf y.level (y.page * 65536) % 2 ^ 48 / 65536 = frame)) ∧
  (∀ (s : State) port frame r a n, open_ s port → s.faults = [r] → waits s frame r → s.faultNodes r = [a] → alone s r.ctx a n → n.state = .running →
    ∃ t m, exec (.hostPortAccess port (.pageResponse frame false)) s = .next t ∧ t.node? r.ctx a = some m ∧ m.state = .failed ∧ m.code = 0x23 ∧ ∀ x ∈ t.faults, x.id ≠ r.id)

/-- R212, R246, R342: a peer's access is performed at its home in this module's memory: a store and an atomic write its bytes there, and a
load, or an atomic that would consume poison, changes nothing. -/
def Claims.PeerAccess : Prop :=
  let at_ (a : Nat) (bs : List Byte) : List (Nat × Byte) := bs.zipIdx.map (fun p => (a + p.2, p.1))
  (∀ (s : State) a n, exec (.peerAccessArrival (.load a n)) s = .next s) ∧
  (∀ (s : State) a k bs, (storage a ≠ .dram ∨ bs = []) → exec (.peerAccessArrival (.store a k bs)) s = .next s) ∧
  (∀ (s : State) a k bs, storage (a + bs.length) = .dram → bs ≠ [] → s.tidy →
    ∃ t, exec (.peerAccessArrival (.store a k bs)) s = .next t ∧ Stores s t k (at_ a bs) ∧ t.ctxs = s.ctxs ∧ t.ops = s.ops ∧ t.warps = s.warps ∧
      ∀ i < bs.length, (a + i) / 65536 ∈ t.devWritten) ∧
  (∀ (s : State) a k op ws, (storage a ≠ .dram ∨ s.poisoned a op.bytes = true) → exec (.peerAccessArrival (.atomic a k op ws)) s = .next s) ∧
  (∀ (s : State) a k op ws old, storage (a + op.bytes) = .dram → s.poisoned a op.bytes = false → s.readNat k a op.bytes = (old, s) →
    (atomicNew op old ws = none → exec (.peerAccessArrival (.atomic a k op ws)) s = .next s) ∧
    ∀ v, atomicNew op old ws = some v → s.tidy → ∃ t, exec (.peerAccessArrival (.atomic a k op ws)) s = .next t ∧ Stores s t k (at_ a (bytesOf op.bytes v)) ∧
      t.ctxs = s.ctxs ∧ t.ops = s.ops ∧ t.warps = s.warps)

/-- R14, R17, R25, R192, R321, R343: a grant on a die is changed only while no node of the context runs and within 7 units for all contexts,
and keeps the units held; a pool takes only frames of its tier that no context maps, pools or stages, and of HBM on a stack in PEER mode;
and a context destroyed leaves nothing behind. -/
def Claims.Driver : Prop :=
  let others (s : State) (die cn : Nat) : List Nat := (s.ctxs.filter (fun c => c.num ≠ cn)).flatMap (fun c => (c.grants.filter (fun g => g.1 = die)).flatMap Prod.snd)
  let mine (c : Ctx) (die : Nat) : List Nat := (c.grants.filter (fun g => g.1 = die)).flatMap Prod.snd
  let runs (s : State) (cn : Nat) : Prop := ∃ n ∈ s.nodes, n.ctx = cn ∧ n.state = .running
  let free (s : State) (tier f : Nat) : Prop := f < 12 * (if tier = 0 then Config.hbmFrames else Config.lpddrFrames) ∧
    (tier = 0 → (s.stack (stackOf (f * 65536))).cache = false) ∧
    ∀ c ∈ s.ctxs, f ∉ c.pool tier ∧ c.count tier f = 0 ∧ ∀ g ∈ c.staged, ¬ (g.tier = tier ∧ g.frame = f)
  (∀ (s : State) cn die n, (s.ctx? cn = none ∨ 8 ≤ die ∨ 7 < (others s die cn).length + n ∨ runs s cn) → exec (.dieScratchpadGrantChange cn die n) s = .next s) ∧
  (∀ (s : State) c die n, s.ctx? c.num = some c → die < 8 → (others s die c.num).length + n ≤ 7 → ¬ runs s c.num →
    ∃ (t : State) (d : Ctx), exec (.dieScratchpadGrantChange c.num die n) s = .next t ∧ t = { s with ctxs := t.ctxs } ∧ t.ctx? c.num = some d ∧ d = { c with grants := d.grants } ∧
      (mine d die).length = n ∧ (∀ k, k ≠ die → mine d k = mine c k) ∧ ((mine c die).length ≤ n → ∀ u ∈ mine c die, u ∈ mine d die) ∧
      (n ≤ (mine c die).length → ∀ u ∈ mine d die, u ∈ mine c die) ∧ ((mine c die).Nodup → (mine d die).Nodup) ∧
      ((∀ u ∈ mine c die, u ∉ others s die c.num) → ∀ u ∈ mine d die, u ∉ others s die c.num) ∧ ∀ k, k ≠ c.num → t.ctx? k = s.ctx? k) ∧
  (∀ (s : State) cn tier fs, 2 ≤ tier → exec (.framePoolGrant cn tier fs) s = .next s) ∧
  (∀ (s : State) c tier fs, s.ctx? c.num = some c → tier < 2 →
    ∃ (t : State) (d : Ctx), exec (.framePoolGrant c.num tier fs) s = .next t ∧ t = { s with ctxs := t.ctxs } ∧ t.ctx? c.num = some d ∧ d = { c with pool0 := d.pool0, pool1 := d.pool1 } ∧
      (∀ f, f ∈ d.pool tier ↔ f ∈ c.pool tier ∨ (f ∈ fs ∧ free s tier f)) ∧ d.pool (1 - tier) = c.pool (1 - tier) ∧ ∀ k, k ≠ c.num → t.ctx? k = s.ctx? k) ∧
  (∀ (s : State) cn, s.ctx? cn = none → exec (.contextDestroy cn) s = .next s) ∧
  (∀ (s : State) c, s.ctx? c.num = some c → ∃ t : State, exec (.contextDestroy c.num) s = .next t ∧ t.ctx? c.num = none ∧ (∀ n ∈ t.nodes, n.ctx ≠ c.num) ∧
    (∀ o ∈ t.ops, o.ctx ≠ c.num) ∧ (∀ e ∈ t.tlb, e.ctx ≠ c.num) ∧ (∀ v ∈ t.saved, v.ctx ≠ c.num) ∧ (∀ r ∈ t.faults, r.ctx ≠ c.num) ∧ (∀ x ∈ t.wadi, x.ctx ≠ c.num) ∧
    ((∀ n ∈ s.nodes, n.ctx = c.num → n.state ∈ [.committed, .failed, .killed]) → (∀ x ∈ s.wadi, x.ctx ≠ c.num) → SameMemory s t ∧ t.groups = s.groups))

/-- What the peers and the driver do to memory, grants, pools and contexts (R14, R17, R25, R192, R212, R246, R342). Poison at a peer's
access and the units kept are the model's readings (log entries 54 and 55). -/
def Obligations.PeersAndDriver : Prop := Claims.PeerAccess ∧ Claims.Driver

/-! ## Encodings, steps and the whole machine -/

/-- R90 to R97: decoding the bytes of an encoded well-formed instruction gives it back, with every operand, and leaves the bytes after it.
-/
def Obligations.DecodeUndoesEncode : Prop :=
  ∀ (i : Instr) (rest : List Byte), i.wf = true → encode i ≠ [] → decode ((encode i).flatMap bytesOfWord ++ rest) = .ok (i, rest)

/-- R90 to R97, R146: words put together field by field from the encoding tables decode to the instructions they stand for, one of each
family; a reserved field set, a modifier that no entry assigns, and a literal where the opcode has none, decode to no instruction. -/
def Obligations.DecodedWords : Prop :=
  let word (m : BitVec 8) (c b a d : BitVec 10) (op : BitVec 8) (cc : BitVec 2) (cond : BitVec 4) (len : BitVec 2) : List Byte :=
    let w : DWord := m ++ c ++ b ++ a ++ d ++ op ++ cc ++ cond ++ len
    (List.range 8).map (fun k => w.extractLsb' (8 * k) 8)
  let short (i : BitVec 4) (a d : BitVec 10) (op : BitVec 6) : List Byte :=
    let w : Word := i ++ a ++ d ++ op ++ 0#2
    (List.range 4).map (fun k => w.extractLsb' (8 * k) 8)
  let undefined (bs : List Byte) : Prop := ∃ w0 w1 w2, decode bs = .ok (.undefinedInstruction w0 w1 w2, [])
  decode (word 0#8 0#10 2#10 1#10 3#10 0x20#8 0#2 0#4 2#2) = .ok (.iadd ⟨0, .al⟩ (.v 3) (.v 1) (.reg (.v 2)) false none, []) ∧
  decode (word 0x04#8 5#10 4#10 3#10 7#10 0x43#8 2#2 2#4 2#2) = .ok (.ffma ⟨2, .ne⟩ (.v 7) (.v 3) (.reg (.v 4)) (.v 5) .rz false false none, []) ∧
  decode (word 0x20#8 16#10 0#10 4#10 3#10 0x80#8 0#2 0#4 2#2) = .ok (.ld ⟨0, .al⟩ (.v 3) (.v 4) (.short 16#10) false .b32 .g false none, []) ∧
  decode (short 0#4 1#10 2#10 0x04#6) = .ok (.iaddShort (.v 2) (.v 1), []) ∧
  undefined (word 0#8 1#10 2#10 1#10 3#10 0x20#8 0#2 0#4 2#2) ∧ undefined (word 0x08#8 0#10 2#10 1#10 3#10 0x20#8 0#2 0#4 2#2) ∧
  undefined (word 0#8 0#10 0#10 1#10 3#10 0x2D#8 0#2 0#4 3#2 ++ [0, 0, 0, 0]) ∧ undefined (word 0#8 0#10 0#10 0#10 0#10 0x70#8 0#2 0#4 2#2) ∧
  undefined (short 1#4 1#10 2#10 0x04#6) ∧ decode [0x01, 0, 0, 0] = .error .headerMarker

/-- A step makes the move at the head of the agenda: the next instruction of the clause that runs on the warp that it names, decoded from
the clause's bytes, or a step of a unit; a thermal trip holds instructions up. With the agenda empty it makes the first move of the default
order that changes anything, or lets a clock pass. After the move, only the bookkeeping of readiness and of the nodes' work changes, and a
context whose pre-emption or resumption has ended (R370, R373). -/
def Claims.StepRuns : Prop :=
  let after (s : State) (o : Host.Outcome State Fault Refusal) : Prop := match o with
    | .next t => ∃ u : State, step s = .next u ∧ u.ops = t.ops ∧ u.groups = t.groups ∧ u.cores = t.cores ∧ u.dev = t.dev ∧ u.faults = t.faults ∧
        u.saved = t.saved ∧ u.agenda = t.agenda ∧ u.cur = t.cur ∧ u.clock = t.clock ∧
        u.warps.map (fun (w : Warp) => { w with offered := false, passed := 0, holder := none, last := none, fibres := w.fibres.map (fun (f : Fibre) => { f with wasReady := false, waitFrom := 0 }) })
          = t.warps.map (fun (w : Warp) => { w with offered := false, passed := 0, holder := none, last := none, fibres := w.fibres.map (fun (f : Fibre) => { f with wasReady := false, waitFrom := 0 }) }) ∧
        u.nodes.map (fun (n : Node) => { n with works := [] }) = t.nodes.map (fun (n : Node) => { n with works := [] }) ∧
        u.ctxs.map (fun (c : Ctx) => { c with state := 0 }) = t.ctxs.map (fun (c : Ctx) => { c with state := 0 }) ∧
        ((∀ c ∈ t.ctxs, c.state ≠ 1 ∧ c.state ≠ 3) → u = { t with warps := u.warps, nodes := u.nodes })
    | .fault f => step s = .fault f
    | .refused r => step s = .refused r
  (∀ (s : State) wid ts w a i rest, s.agenda = .issue wid :: ts → s.dev.trip = false → s.warp? wid = some w → w.active = some a →
    decode ((a.words.drop a.off).flatMap bytesOfWord) = .ok (i, rest) → after s (exec i { s with agenda := ts, cur := some wid })) ∧
  (∀ (s : State) e ts, s.agenda = .unit e :: ts → s.dev.trip = false → e.isInstruction = false → after s (exec e { s with agenda := ts })) ∧
  (∀ (s : State) wid ts, s.agenda = .issue wid :: ts → s.dev.trip = true → after s (.next { s with agenda := ts })) ∧
  (∀ (s : State) n ts, s.agenda = .idle n :: ts → after s (.next (State.idle { s with agenda := ts } n))) ∧
  (∀ (s : State) m, s.agenda = [] → s.moves.find? s.stirs = some m → after s (s.move m)) ∧
  (∀ (s : State), s.agenda = [] → s.moves.find? s.stirs = none → after s (s.move (.idle 1)))

/-- A step runs the decoded instruction, or the step of a unit, that comes next (R86, R100, R346, R370, R373). The order of moves is the
model's own (log entries 1, 15, 16 and 49). -/
def Obligations.StepRunsTheInstruction : Prop := Claims.StepRuns

/-- R86, R100: every instruction that a bundle's clause reaches has an outcome, whatever its operands: `exec` answers a next state (its
effect, a wait, or a trap), and answers one for every step of a unit in every state. That a step which is not enabled changes nothing is the
model's choice (log entries 12 and 13). -/
def Obligations.NothingStops : Prop :=
  (∀ (i : Instr) (s : State) w a g, s.cur.bind s.warp? = some w → w.active = some a → s.group? w.gid = some g → ∃ t, exec i s = .next t) ∧
  (∀ (i : Instr) (s : State), i.isInstruction = false → ∃ t, exec i s = .next t)

/-- R32, R370, R373: what holds after every step: a context that evicts has a group still resident, a context that restores has a record
still saved, and no warp counts more than 256 clocks for which it was passed over. -/
def Claims.Settled (s : State) : Prop :=
  (∀ c ∈ s.ctxs, c.state = 1 → ∃ g ∈ s.groups, g.ctx = c.num) ∧ (∀ c ∈ s.ctxs, c.state = 3 → ∃ v ∈ s.saved, v.ctx = c.num) ∧ ∀ w ∈ s.warps, w.passed ≤ 256

/-- R32, R370, R373: every step keeps `Claims.Settled`. The moment at which a context's state changes is the model's reading (log entry 16).
-/
def Obligations.StepsKeepSettled : Prop := ∀ (s t : State), Claims.Settled s → step s = .next t → Claims.Settled t

/-- R351, R352, R353: what the registers of the management map hold and read as after reset, and what the status registers read as in any
state; `Claims.Settled` holds at reset. The figures of cores and the temperature at reset are the model's choices (log entries 7 and 9). -/
def Obligations.ResetAndRegisters : Prop :=
  let r (off : Nat) : Word := State.reset.registerRead off
  let read (s : State) (off lo n : Nat) : Nat := (s.registerRead off).toNat / 2 ^ lo % 2 ^ n
  Claims.Settled State.reset ∧ State.reset.mem.wf = true ∧ State.reset.dev.boot = .before ∧ State.reset.warps = [] ∧ State.reset.groups = [] ∧
  r 0 = 0x9600 ∧ r 0x10 = 7 ∧ r 0x14 &&& 0xFF00FFFF = 7 ∧
  (∀ off ∈ [0x04, 0x08, 0x0C, 0x18, 0x1C, 0x20, 0x24, 0x28, 0x2C, 0x30, 0x40, 0x44, 0x520, 0x524, 0x528], r off = 0) ∧
  (∀ k < 16, r (0x100 + 4 * k) = 0xFFFFFFFF ∧ r (0x140 + 4 * k) = 0xFFFFFFFF) ∧ (∀ k < 8, r (0x500 + 4 * k) = 0) ∧
  (∀ k < 1024, r (0x1000 + 4 * k) = 0) ∧ (∀ k < 512, r (0x2000 + 4 * k) = 0) ∧
  (∀ s : State, read s 0x14 8 1 = s.dev.busy.toNat ∧ read s 0x14 9 1 = s.dev.trip.toNat ∧ read s 0x14 10 2 = s.dev.result % 4 ∧ read s 0x14 0 4 = s.dev.opstate % 16 ∧
    read s 0x14 24 8 = 0 ∧ read s 0x14 4 4 = 0 ∧ read s 0x14 12 4 = 0 ∧ read s 0x14 16 8 = s.dev.temps.foldl max 0 % 256) ∧
  (∀ s : State, read s 0 31 1 = s.dev.bootFailed.toNat ∧ read s 0x18 31 1 = s.dev.reviewBusy.toNat ∧ read s 0x528 31 1 = s.dev.attBusy.toNat ∧ read s 0x528 30 1 = s.dev.attFailed.toNat ∧
    read s 0x18 0 1 = s.dev.mreview.toNat ∧ read s 0x528 0 1 = s.dev.attcmd.toNat ∧ read s 0x18 8 2 = s.dev.reviewResult % 4 ∧
    (read s 0x04 0 1 = 1 ↔ s.dev.boot = .released ∨ s.dev.boot = .ready) ∧ (read s 0x04 8 1 = 1 ↔ s.dev.boot = .ready)) ∧
  (∀ (s : State) c, c < 512 → read s (0x80 + 4 * (c / 32)) (c % 32) 1 = (s.core c).present.toNat ∧ s.registerRead (0x2000 + 4 * c) = (s.core c).fragw ∧
    s.registerRead (0x1000 + 8 * c) = (s.core c).copyBytes.extractLsb' 0 32 ∧ s.registerRead (0x1004 + 8 * c) = (s.core c).copyBytes.extractLsb' 32 32)

/-- R245: a fibre's write to an operand register of its open matrix operation raises no trap: the instruction completes; that register and
the operation's tile are unpredictable, and nothing else is. -/
def Obligations.OpenOperands : Prop :=
  let frees (i : Instr) (r : Group → Fibre → Fibre) : Prop := ∀ (s : State) (w : Warp) (a : Active) (g : Group) (x e gp : List Fibre), Issues s i w a g x e gp →
    ∃ t : State, exec i s = .next t ∧ t.nodes = s.nodes ∧ t.ctxs = s.ctxs ∧ t.ops = s.ops ∧ t.cores = s.cores ∧ t.dev = s.dev ∧ SameDefinedBut (fun q => storage q = .chip) s t ∧
      (∀ n, n ≠ w.wid → t.warp? n = s.warp? n) ∧
      ∀ f ∈ x, ∃ k, t.fibre? w.wid f.lane = some k ∧ { k with regs := [] } = { r g f with regs := [] } ∧ ∀ p, p ∉ g.openRegs f.id → sget 0 k.regs p = sget 0 (r g f).regs p
  (∀ d ra, frees (.movShort d ra) (fun g f => f.gets g d (f.word g ra))) ∧
  (∀ d ra, frees (.iaddShort d ra) (fun g f => f.gets g d (f.word g d + f.word g ra))) ∧
  (∀ d ra, frees (.imulShort d ra) (fun g f => f.gets g d (f.word g d * f.word g ra)))

end Statements
end

