-- ==== Sys2Proof/Laws/State.lean ====
section
/-! SUPPORT. What each update of one part of the state leaves as it was: one lemma for each field. -/

namespace Sys2Proof.Machine

@[simp] theorem State.onWarp_agenda (s : State) (wid : Nat) (u : Warp → Warp) : (s.onWarp wid u).agenda = s.agenda := rfl
@[simp] theorem State.onWarp_freeCtr (s : State) (wid : Nat) (u : Warp → Warp) : (s.onWarp wid u).freeCtr = s.freeCtr := rfl
@[simp] theorem State.onWarp_cur (s : State) (wid : Nat) (u : Warp → Warp) : (s.onWarp wid u).cur = s.cur := rfl
@[simp] theorem State.onWarp_clock (s : State) (wid : Nat) (u : Warp → Warp) : (s.onWarp wid u).clock = s.clock := rfl
@[simp] theorem State.onWarp_time (s : State) (wid : Nat) (u : Warp → Warp) : (s.onWarp wid u).time = s.time := rfl
@[simp] theorem State.onWarp_wall (s : State) (wid : Nat) (u : Warp → Warp) : (s.onWarp wid u).wall = s.wall := rfl
@[simp] theorem State.onWarp_nextId (s : State) (wid : Nat) (u : Warp → Warp) : (s.onWarp wid u).nextId = s.nextId := rfl
@[simp] theorem State.onWarp_mem (s : State) (wid : Nat) (u : Warp → Warp) : (s.onWarp wid u).mem = s.mem := rfl
@[simp] theorem State.onWarp_unitKey (s : State) (wid : Nat) (u : Warp → Warp) : (s.onWarp wid u).unitKey = s.unitKey := rfl
@[simp] theorem State.onWarp_scrambled (s : State) (wid : Nat) (u : Warp → Warp) : (s.onWarp wid u).scrambled = s.scrambled := rfl
@[simp] theorem State.onWarp_owner (s : State) (wid : Nat) (u : Warp → Warp) : (s.onWarp wid u).owner = s.owner := rfl
@[simp] theorem State.onWarp_poison (s : State) (wid : Nat) (u : Warp → Warp) : (s.onWarp wid u).poison = s.poison := rfl
@[simp] theorem State.onWarp_devWritten (s : State) (wid : Nat) (u : Warp → Warp) : (s.onWarp wid u).devWritten = s.devWritten := rfl
@[simp] theorem State.onWarp_keyGen (s : State) (wid : Nat) (u : Warp → Warp) : (s.onWarp wid u).keyGen = s.keyGen := rfl
@[simp] theorem State.onWarp_l1 (s : State) (wid : Nat) (u : Warp → Warp) : (s.onWarp wid u).l1 = s.l1 := rfl
@[simp] theorem State.onWarp_icache (s : State) (wid : Nat) (u : Warp → Warp) : (s.onWarp wid u).icache = s.icache := rfl
@[simp] theorem State.onWarp_tlb (s : State) (wid : Nat) (u : Warp → Warp) : (s.onWarp wid u).tlb = s.tlb := rfl
@[simp] theorem State.onWarp_ctxs (s : State) (wid : Nat) (u : Warp → Warp) : (s.onWarp wid u).ctxs = s.ctxs := rfl
@[simp] theorem State.onWarp_nodes (s : State) (wid : Nat) (u : Warp → Warp) : (s.onWarp wid u).nodes = s.nodes := rfl
@[simp] theorem State.onWarp_groups (s : State) (wid : Nat) (u : Warp → Warp) : (s.onWarp wid u).groups = s.groups := rfl
@[simp] theorem State.onWarp_ops (s : State) (wid : Nat) (u : Warp → Warp) : (s.onWarp wid u).ops = s.ops := rfl
@[simp] theorem State.onWarp_cores (s : State) (wid : Nat) (u : Warp → Warp) : (s.onWarp wid u).cores = s.cores := rfl
@[simp] theorem State.onWarp_wadi (s : State) (wid : Nat) (u : Warp → Warp) : (s.onWarp wid u).wadi = s.wadi := rfl
@[simp] theorem State.onWarp_faults (s : State) (wid : Nat) (u : Warp → Warp) : (s.onWarp wid u).faults = s.faults := rfl
@[simp] theorem State.onWarp_saved (s : State) (wid : Nat) (u : Warp → Warp) : (s.onWarp wid u).saved = s.saved := rfl
@[simp] theorem State.onWarp_scans (s : State) (wid : Nat) (u : Warp → Warp) : (s.onWarp wid u).scans = s.scans := rfl
@[simp] theorem State.onWarp_memStacks (s : State) (wid : Nat) (u : Warp → Warp) : (s.onWarp wid u).memStacks = s.memStacks := rfl
@[simp] theorem State.onWarp_dev (s : State) (wid : Nat) (u : Warp → Warp) : (s.onWarp wid u).dev = s.dev := rfl

@[simp] theorem State.onFibre_agenda (s : State) (wid lane : Nat) (u : Fibre → Fibre) : (s.onFibre wid lane u).agenda = s.agenda := rfl
@[simp] theorem State.onFibre_freeCtr (s : State) (wid lane : Nat) (u : Fibre → Fibre) : (s.onFibre wid lane u).freeCtr = s.freeCtr := rfl
@[simp] theorem State.onFibre_cur (s : State) (wid lane : Nat) (u : Fibre → Fibre) : (s.onFibre wid lane u).cur = s.cur := rfl
@[simp] theorem State.onFibre_clock (s : State) (wid lane : Nat) (u : Fibre → Fibre) : (s.onFibre wid lane u).clock = s.clock := rfl
@[simp] theorem State.onFibre_time (s : State) (wid lane : Nat) (u : Fibre → Fibre) : (s.onFibre wid lane u).time = s.time := rfl
@[simp] theorem State.onFibre_wall (s : State) (wid lane : Nat) (u : Fibre → Fibre) : (s.onFibre wid lane u).wall = s.wall := rfl
@[simp] theorem State.onFibre_nextId (s : State) (wid lane : Nat) (u : Fibre → Fibre) : (s.onFibre wid lane u).nextId = s.nextId := rfl
@[simp] theorem State.onFibre_mem (s : State) (wid lane : Nat) (u : Fibre → Fibre) : (s.onFibre wid lane u).mem = s.mem := rfl
@[simp] theorem State.onFibre_unitKey (s : State) (wid lane : Nat) (u : Fibre → Fibre) : (s.onFibre wid lane u).unitKey = s.unitKey := rfl
@[simp] theorem State.onFibre_scrambled (s : State) (wid lane : Nat) (u : Fibre → Fibre) : (s.onFibre wid lane u).scrambled = s.scrambled := rfl
@[simp] theorem State.onFibre_owner (s : State) (wid lane : Nat) (u : Fibre → Fibre) : (s.onFibre wid lane u).owner = s.owner := rfl
@[simp] theorem State.onFibre_poison (s : State) (wid lane : Nat) (u : Fibre → Fibre) : (s.onFibre wid lane u).poison = s.poison := rfl
@[simp] theorem State.onFibre_devWritten (s : State) (wid lane : Nat) (u : Fibre → Fibre) : (s.onFibre wid lane u).devWritten = s.devWritten := rfl
@[simp] theorem State.onFibre_keyGen (s : State) (wid lane : Nat) (u : Fibre → Fibre) : (s.onFibre wid lane u).keyGen = s.keyGen := rfl
@[simp] theorem State.onFibre_l1 (s : State) (wid lane : Nat) (u : Fibre → Fibre) : (s.onFibre wid lane u).l1 = s.l1 := rfl
@[simp] theorem State.onFibre_icache (s : State) (wid lane : Nat) (u : Fibre → Fibre) : (s.onFibre wid lane u).icache = s.icache := rfl
@[simp] theorem State.onFibre_tlb (s : State) (wid lane : Nat) (u : Fibre → Fibre) : (s.onFibre wid lane u).tlb = s.tlb := rfl
@[simp] theorem State.onFibre_ctxs (s : State) (wid lane : Nat) (u : Fibre → Fibre) : (s.onFibre wid lane u).ctxs = s.ctxs := rfl
@[simp] theorem State.onFibre_nodes (s : State) (wid lane : Nat) (u : Fibre → Fibre) : (s.onFibre wid lane u).nodes = s.nodes := rfl
@[simp] theorem State.onFibre_groups (s : State) (wid lane : Nat) (u : Fibre → Fibre) : (s.onFibre wid lane u).groups = s.groups := rfl
@[simp] theorem State.onFibre_ops (s : State) (wid lane : Nat) (u : Fibre → Fibre) : (s.onFibre wid lane u).ops = s.ops := rfl
@[simp] theorem State.onFibre_cores (s : State) (wid lane : Nat) (u : Fibre → Fibre) : (s.onFibre wid lane u).cores = s.cores := rfl
@[simp] theorem State.onFibre_wadi (s : State) (wid lane : Nat) (u : Fibre → Fibre) : (s.onFibre wid lane u).wadi = s.wadi := rfl
@[simp] theorem State.onFibre_faults (s : State) (wid lane : Nat) (u : Fibre → Fibre) : (s.onFibre wid lane u).faults = s.faults := rfl
@[simp] theorem State.onFibre_saved (s : State) (wid lane : Nat) (u : Fibre → Fibre) : (s.onFibre wid lane u).saved = s.saved := rfl
@[simp] theorem State.onFibre_scans (s : State) (wid lane : Nat) (u : Fibre → Fibre) : (s.onFibre wid lane u).scans = s.scans := rfl
@[simp] theorem State.onFibre_memStacks (s : State) (wid lane : Nat) (u : Fibre → Fibre) : (s.onFibre wid lane u).memStacks = s.memStacks := rfl
@[simp] theorem State.onFibre_dev (s : State) (wid lane : Nat) (u : Fibre → Fibre) : (s.onFibre wid lane u).dev = s.dev := rfl

@[simp] theorem State.onFibreOf_agenda (s : State) (gid fid : Nat) (u : Fibre → Fibre) : (s.onFibreOf gid fid u).agenda = s.agenda := rfl
@[simp] theorem State.onFibreOf_freeCtr (s : State) (gid fid : Nat) (u : Fibre → Fibre) : (s.onFibreOf gid fid u).freeCtr = s.freeCtr := rfl
@[simp] theorem State.onFibreOf_cur (s : State) (gid fid : Nat) (u : Fibre → Fibre) : (s.onFibreOf gid fid u).cur = s.cur := rfl
@[simp] theorem State.onFibreOf_clock (s : State) (gid fid : Nat) (u : Fibre → Fibre) : (s.onFibreOf gid fid u).clock = s.clock := rfl
@[simp] theorem State.onFibreOf_time (s : State) (gid fid : Nat) (u : Fibre → Fibre) : (s.onFibreOf gid fid u).time = s.time := rfl
@[simp] theorem State.onFibreOf_wall (s : State) (gid fid : Nat) (u : Fibre → Fibre) : (s.onFibreOf gid fid u).wall = s.wall := rfl
@[simp] theorem State.onFibreOf_nextId (s : State) (gid fid : Nat) (u : Fibre → Fibre) : (s.onFibreOf gid fid u).nextId = s.nextId := rfl
@[simp] theorem State.onFibreOf_mem (s : State) (gid fid : Nat) (u : Fibre → Fibre) : (s.onFibreOf gid fid u).mem = s.mem := rfl
@[simp] theorem State.onFibreOf_unitKey (s : State) (gid fid : Nat) (u : Fibre → Fibre) : (s.onFibreOf gid fid u).unitKey = s.unitKey := rfl
@[simp] theorem State.onFibreOf_scrambled (s : State) (gid fid : Nat) (u : Fibre → Fibre) : (s.onFibreOf gid fid u).scrambled = s.scrambled := rfl
@[simp] theorem State.onFibreOf_owner (s : State) (gid fid : Nat) (u : Fibre → Fibre) : (s.onFibreOf gid fid u).owner = s.owner := rfl
@[simp] theorem State.onFibreOf_poison (s : State) (gid fid : Nat) (u : Fibre → Fibre) : (s.onFibreOf gid fid u).poison = s.poison := rfl
@[simp] theorem State.onFibreOf_devWritten (s : State) (gid fid : Nat) (u : Fibre → Fibre) : (s.onFibreOf gid fid u).devWritten = s.devWritten := rfl
@[simp] theorem State.onFibreOf_keyGen (s : State) (gid fid : Nat) (u : Fibre → Fibre) : (s.onFibreOf gid fid u).keyGen = s.keyGen := rfl
@[simp] theorem State.onFibreOf_l1 (s : State) (gid fid : Nat) (u : Fibre → Fibre) : (s.onFibreOf gid fid u).l1 = s.l1 := rfl
@[simp] theorem State.onFibreOf_icache (s : State) (gid fid : Nat) (u : Fibre → Fibre) : (s.onFibreOf gid fid u).icache = s.icache := rfl
@[simp] theorem State.onFibreOf_tlb (s : State) (gid fid : Nat) (u : Fibre → Fibre) : (s.onFibreOf gid fid u).tlb = s.tlb := rfl
@[simp] theorem State.onFibreOf_ctxs (s : State) (gid fid : Nat) (u : Fibre → Fibre) : (s.onFibreOf gid fid u).ctxs = s.ctxs := rfl
@[simp] theorem State.onFibreOf_nodes (s : State) (gid fid : Nat) (u : Fibre → Fibre) : (s.onFibreOf gid fid u).nodes = s.nodes := rfl
@[simp] theorem State.onFibreOf_groups (s : State) (gid fid : Nat) (u : Fibre → Fibre) : (s.onFibreOf gid fid u).groups = s.groups := rfl
@[simp] theorem State.onFibreOf_ops (s : State) (gid fid : Nat) (u : Fibre → Fibre) : (s.onFibreOf gid fid u).ops = s.ops := rfl
@[simp] theorem State.onFibreOf_cores (s : State) (gid fid : Nat) (u : Fibre → Fibre) : (s.onFibreOf gid fid u).cores = s.cores := rfl
@[simp] theorem State.onFibreOf_wadi (s : State) (gid fid : Nat) (u : Fibre → Fibre) : (s.onFibreOf gid fid u).wadi = s.wadi := rfl
@[simp] theorem State.onFibreOf_faults (s : State) (gid fid : Nat) (u : Fibre → Fibre) : (s.onFibreOf gid fid u).faults = s.faults := rfl
@[simp] theorem State.onFibreOf_saved (s : State) (gid fid : Nat) (u : Fibre → Fibre) : (s.onFibreOf gid fid u).saved = s.saved := rfl
@[simp] theorem State.onFibreOf_scans (s : State) (gid fid : Nat) (u : Fibre → Fibre) : (s.onFibreOf gid fid u).scans = s.scans := rfl
@[simp] theorem State.onFibreOf_memStacks (s : State) (gid fid : Nat) (u : Fibre → Fibre) : (s.onFibreOf gid fid u).memStacks = s.memStacks := rfl
@[simp] theorem State.onFibreOf_dev (s : State) (gid fid : Nat) (u : Fibre → Fibre) : (s.onFibreOf gid fid u).dev = s.dev := rfl

@[simp] theorem State.onGroup_agenda (s : State) (gid : Nat) (u : Group → Group) : (s.onGroup gid u).agenda = s.agenda := rfl
@[simp] theorem State.onGroup_freeCtr (s : State) (gid : Nat) (u : Group → Group) : (s.onGroup gid u).freeCtr = s.freeCtr := rfl
@[simp] theorem State.onGroup_cur (s : State) (gid : Nat) (u : Group → Group) : (s.onGroup gid u).cur = s.cur := rfl
@[simp] theorem State.onGroup_clock (s : State) (gid : Nat) (u : Group → Group) : (s.onGroup gid u).clock = s.clock := rfl
@[simp] theorem State.onGroup_time (s : State) (gid : Nat) (u : Group → Group) : (s.onGroup gid u).time = s.time := rfl
@[simp] theorem State.onGroup_wall (s : State) (gid : Nat) (u : Group → Group) : (s.onGroup gid u).wall = s.wall := rfl
@[simp] theorem State.onGroup_nextId (s : State) (gid : Nat) (u : Group → Group) : (s.onGroup gid u).nextId = s.nextId := rfl
@[simp] theorem State.onGroup_mem (s : State) (gid : Nat) (u : Group → Group) : (s.onGroup gid u).mem = s.mem := rfl
@[simp] theorem State.onGroup_unitKey (s : State) (gid : Nat) (u : Group → Group) : (s.onGroup gid u).unitKey = s.unitKey := rfl
@[simp] theorem State.onGroup_scrambled (s : State) (gid : Nat) (u : Group → Group) : (s.onGroup gid u).scrambled = s.scrambled := rfl
@[simp] theorem State.onGroup_owner (s : State) (gid : Nat) (u : Group → Group) : (s.onGroup gid u).owner = s.owner := rfl
@[simp] theorem State.onGroup_poison (s : State) (gid : Nat) (u : Group → Group) : (s.onGroup gid u).poison = s.poison := rfl
@[simp] theorem State.onGroup_devWritten (s : State) (gid : Nat) (u : Group → Group) : (s.onGroup gid u).devWritten = s.devWritten := rfl
@[simp] theorem State.onGroup_keyGen (s : State) (gid : Nat) (u : Group → Group) : (s.onGroup gid u).keyGen = s.keyGen := rfl
@[simp] theorem State.onGroup_l1 (s : State) (gid : Nat) (u : Group → Group) : (s.onGroup gid u).l1 = s.l1 := rfl
@[simp] theorem State.onGroup_icache (s : State) (gid : Nat) (u : Group → Group) : (s.onGroup gid u).icache = s.icache := rfl
@[simp] theorem State.onGroup_tlb (s : State) (gid : Nat) (u : Group → Group) : (s.onGroup gid u).tlb = s.tlb := rfl
@[simp] theorem State.onGroup_ctxs (s : State) (gid : Nat) (u : Group → Group) : (s.onGroup gid u).ctxs = s.ctxs := rfl
@[simp] theorem State.onGroup_nodes (s : State) (gid : Nat) (u : Group → Group) : (s.onGroup gid u).nodes = s.nodes := rfl
@[simp] theorem State.onGroup_warps (s : State) (gid : Nat) (u : Group → Group) : (s.onGroup gid u).warps = s.warps := rfl
@[simp] theorem State.onGroup_ops (s : State) (gid : Nat) (u : Group → Group) : (s.onGroup gid u).ops = s.ops := rfl
@[simp] theorem State.onGroup_cores (s : State) (gid : Nat) (u : Group → Group) : (s.onGroup gid u).cores = s.cores := rfl
@[simp] theorem State.onGroup_wadi (s : State) (gid : Nat) (u : Group → Group) : (s.onGroup gid u).wadi = s.wadi := rfl
@[simp] theorem State.onGroup_faults (s : State) (gid : Nat) (u : Group → Group) : (s.onGroup gid u).faults = s.faults := rfl
@[simp] theorem State.onGroup_saved (s : State) (gid : Nat) (u : Group → Group) : (s.onGroup gid u).saved = s.saved := rfl
@[simp] theorem State.onGroup_scans (s : State) (gid : Nat) (u : Group → Group) : (s.onGroup gid u).scans = s.scans := rfl
@[simp] theorem State.onGroup_memStacks (s : State) (gid : Nat) (u : Group → Group) : (s.onGroup gid u).memStacks = s.memStacks := rfl
@[simp] theorem State.onGroup_dev (s : State) (gid : Nat) (u : Group → Group) : (s.onGroup gid u).dev = s.dev := rfl

@[simp] theorem State.onCtx_agenda (s : State) (c : Nat) (u : Ctx → Ctx) : (s.onCtx c u).agenda = s.agenda := rfl
@[simp] theorem State.onCtx_freeCtr (s : State) (c : Nat) (u : Ctx → Ctx) : (s.onCtx c u).freeCtr = s.freeCtr := rfl
@[simp] theorem State.onCtx_cur (s : State) (c : Nat) (u : Ctx → Ctx) : (s.onCtx c u).cur = s.cur := rfl
@[simp] theorem State.onCtx_clock (s : State) (c : Nat) (u : Ctx → Ctx) : (s.onCtx c u).clock = s.clock := rfl
@[simp] theorem State.onCtx_time (s : State) (c : Nat) (u : Ctx → Ctx) : (s.onCtx c u).time = s.time := rfl
@[simp] theorem State.onCtx_wall (s : State) (c : Nat) (u : Ctx → Ctx) : (s.onCtx c u).wall = s.wall := rfl
@[simp] theorem State.onCtx_nextId (s : State) (c : Nat) (u : Ctx → Ctx) : (s.onCtx c u).nextId = s.nextId := rfl
@[simp] theorem State.onCtx_mem (s : State) (c : Nat) (u : Ctx → Ctx) : (s.onCtx c u).mem = s.mem := rfl
@[simp] theorem State.onCtx_unitKey (s : State) (c : Nat) (u : Ctx → Ctx) : (s.onCtx c u).unitKey = s.unitKey := rfl
@[simp] theorem State.onCtx_scrambled (s : State) (c : Nat) (u : Ctx → Ctx) : (s.onCtx c u).scrambled = s.scrambled := rfl
@[simp] theorem State.onCtx_owner (s : State) (c : Nat) (u : Ctx → Ctx) : (s.onCtx c u).owner = s.owner := rfl
@[simp] theorem State.onCtx_poison (s : State) (c : Nat) (u : Ctx → Ctx) : (s.onCtx c u).poison = s.poison := rfl
@[simp] theorem State.onCtx_devWritten (s : State) (c : Nat) (u : Ctx → Ctx) : (s.onCtx c u).devWritten = s.devWritten := rfl
@[simp] theorem State.onCtx_keyGen (s : State) (c : Nat) (u : Ctx → Ctx) : (s.onCtx c u).keyGen = s.keyGen := rfl
@[simp] theorem State.onCtx_l1 (s : State) (c : Nat) (u : Ctx → Ctx) : (s.onCtx c u).l1 = s.l1 := rfl
@[simp] theorem State.onCtx_icache (s : State) (c : Nat) (u : Ctx → Ctx) : (s.onCtx c u).icache = s.icache := rfl
@[simp] theorem State.onCtx_tlb (s : State) (c : Nat) (u : Ctx → Ctx) : (s.onCtx c u).tlb = s.tlb := rfl
@[simp] theorem State.onCtx_nodes (s : State) (c : Nat) (u : Ctx → Ctx) : (s.onCtx c u).nodes = s.nodes := rfl
@[simp] theorem State.onCtx_groups (s : State) (c : Nat) (u : Ctx → Ctx) : (s.onCtx c u).groups = s.groups := rfl
@[simp] theorem State.onCtx_warps (s : State) (c : Nat) (u : Ctx → Ctx) : (s.onCtx c u).warps = s.warps := rfl
@[simp] theorem State.onCtx_ops (s : State) (c : Nat) (u : Ctx → Ctx) : (s.onCtx c u).ops = s.ops := rfl
@[simp] theorem State.onCtx_cores (s : State) (c : Nat) (u : Ctx → Ctx) : (s.onCtx c u).cores = s.cores := rfl
@[simp] theorem State.onCtx_wadi (s : State) (c : Nat) (u : Ctx → Ctx) : (s.onCtx c u).wadi = s.wadi := rfl
@[simp] theorem State.onCtx_faults (s : State) (c : Nat) (u : Ctx → Ctx) : (s.onCtx c u).faults = s.faults := rfl
@[simp] theorem State.onCtx_saved (s : State) (c : Nat) (u : Ctx → Ctx) : (s.onCtx c u).saved = s.saved := rfl
@[simp] theorem State.onCtx_scans (s : State) (c : Nat) (u : Ctx → Ctx) : (s.onCtx c u).scans = s.scans := rfl
@[simp] theorem State.onCtx_memStacks (s : State) (c : Nat) (u : Ctx → Ctx) : (s.onCtx c u).memStacks = s.memStacks := rfl
@[simp] theorem State.onCtx_dev (s : State) (c : Nat) (u : Ctx → Ctx) : (s.onCtx c u).dev = s.dev := rfl

@[simp] theorem State.onNode_agenda (s : State) (c : Nat) (a : VAddr) (u : Node → Node) : (s.onNode c a u).agenda = s.agenda := rfl
@[simp] theorem State.onNode_freeCtr (s : State) (c : Nat) (a : VAddr) (u : Node → Node) : (s.onNode c a u).freeCtr = s.freeCtr := rfl
@[simp] theorem State.onNode_cur (s : State) (c : Nat) (a : VAddr) (u : Node → Node) : (s.onNode c a u).cur = s.cur := rfl
@[simp] theorem State.onNode_clock (s : State) (c : Nat) (a : VAddr) (u : Node → Node) : (s.onNode c a u).clock = s.clock := rfl
@[simp] theorem State.onNode_time (s : State) (c : Nat) (a : VAddr) (u : Node → Node) : (s.onNode c a u).time = s.time := rfl
@[simp] theorem State.onNode_wall (s : State) (c : Nat) (a : VAddr) (u : Node → Node) : (s.onNode c a u).wall = s.wall := rfl
@[simp] theorem State.onNode_nextId (s : State) (c : Nat) (a : VAddr) (u : Node → Node) : (s.onNode c a u).nextId = s.nextId := rfl
@[simp] theorem State.onNode_mem (s : State) (c : Nat) (a : VAddr) (u : Node → Node) : (s.onNode c a u).mem = s.mem := rfl
@[simp] theorem State.onNode_unitKey (s : State) (c : Nat) (a : VAddr) (u : Node → Node) : (s.onNode c a u).unitKey = s.unitKey := rfl
@[simp] theorem State.onNode_scrambled (s : State) (c : Nat) (a : VAddr) (u : Node → Node) : (s.onNode c a u).scrambled = s.scrambled := rfl
@[simp] theorem State.onNode_owner (s : State) (c : Nat) (a : VAddr) (u : Node → Node) : (s.onNode c a u).owner = s.owner := rfl
@[simp] theorem State.onNode_poison (s : State) (c : Nat) (a : VAddr) (u : Node → Node) : (s.onNode c a u).poison = s.poison := rfl
@[simp] theorem State.onNode_devWritten (s : State) (c : Nat) (a : VAddr) (u : Node → Node) : (s.onNode c a u).devWritten = s.devWritten := rfl
@[simp] theorem State.onNode_keyGen (s : State) (c : Nat) (a : VAddr) (u : Node → Node) : (s.onNode c a u).keyGen = s.keyGen := rfl
@[simp] theorem State.onNode_l1 (s : State) (c : Nat) (a : VAddr) (u : Node → Node) : (s.onNode c a u).l1 = s.l1 := rfl
@[simp] theorem State.onNode_icache (s : State) (c : Nat) (a : VAddr) (u : Node → Node) : (s.onNode c a u).icache = s.icache := rfl
@[simp] theorem State.onNode_tlb (s : State) (c : Nat) (a : VAddr) (u : Node → Node) : (s.onNode c a u).tlb = s.tlb := rfl
@[simp] theorem State.onNode_ctxs (s : State) (c : Nat) (a : VAddr) (u : Node → Node) : (s.onNode c a u).ctxs = s.ctxs := rfl
@[simp] theorem State.onNode_groups (s : State) (c : Nat) (a : VAddr) (u : Node → Node) : (s.onNode c a u).groups = s.groups := rfl
@[simp] theorem State.onNode_warps (s : State) (c : Nat) (a : VAddr) (u : Node → Node) : (s.onNode c a u).warps = s.warps := rfl
@[simp] theorem State.onNode_ops (s : State) (c : Nat) (a : VAddr) (u : Node → Node) : (s.onNode c a u).ops = s.ops := rfl
@[simp] theorem State.onNode_cores (s : State) (c : Nat) (a : VAddr) (u : Node → Node) : (s.onNode c a u).cores = s.cores := rfl
@[simp] theorem State.onNode_wadi (s : State) (c : Nat) (a : VAddr) (u : Node → Node) : (s.onNode c a u).wadi = s.wadi := rfl
@[simp] theorem State.onNode_faults (s : State) (c : Nat) (a : VAddr) (u : Node → Node) : (s.onNode c a u).faults = s.faults := rfl
@[simp] theorem State.onNode_saved (s : State) (c : Nat) (a : VAddr) (u : Node → Node) : (s.onNode c a u).saved = s.saved := rfl
@[simp] theorem State.onNode_scans (s : State) (c : Nat) (a : VAddr) (u : Node → Node) : (s.onNode c a u).scans = s.scans := rfl
@[simp] theorem State.onNode_memStacks (s : State) (c : Nat) (a : VAddr) (u : Node → Node) : (s.onNode c a u).memStacks = s.memStacks := rfl
@[simp] theorem State.onNode_dev (s : State) (c : Nat) (a : VAddr) (u : Node → Node) : (s.onNode c a u).dev = s.dev := rfl

@[simp] theorem State.onOp_agenda (s : State) (id : Nat) (u : Op → Op) : (s.onOp id u).agenda = s.agenda := rfl
@[simp] theorem State.onOp_freeCtr (s : State) (id : Nat) (u : Op → Op) : (s.onOp id u).freeCtr = s.freeCtr := rfl
@[simp] theorem State.onOp_cur (s : State) (id : Nat) (u : Op → Op) : (s.onOp id u).cur = s.cur := rfl
@[simp] theorem State.onOp_clock (s : State) (id : Nat) (u : Op → Op) : (s.onOp id u).clock = s.clock := rfl
@[simp] theorem State.onOp_time (s : State) (id : Nat) (u : Op → Op) : (s.onOp id u).time = s.time := rfl
@[simp] theorem State.onOp_wall (s : State) (id : Nat) (u : Op → Op) : (s.onOp id u).wall = s.wall := rfl
@[simp] theorem State.onOp_nextId (s : State) (id : Nat) (u : Op → Op) : (s.onOp id u).nextId = s.nextId := rfl
@[simp] theorem State.onOp_mem (s : State) (id : Nat) (u : Op → Op) : (s.onOp id u).mem = s.mem := rfl
@[simp] theorem State.onOp_unitKey (s : State) (id : Nat) (u : Op → Op) : (s.onOp id u).unitKey = s.unitKey := rfl
@[simp] theorem State.onOp_scrambled (s : State) (id : Nat) (u : Op → Op) : (s.onOp id u).scrambled = s.scrambled := rfl
@[simp] theorem State.onOp_owner (s : State) (id : Nat) (u : Op → Op) : (s.onOp id u).owner = s.owner := rfl
@[simp] theorem State.onOp_poison (s : State) (id : Nat) (u : Op → Op) : (s.onOp id u).poison = s.poison := rfl
@[simp] theorem State.onOp_devWritten (s : State) (id : Nat) (u : Op → Op) : (s.onOp id u).devWritten = s.devWritten := rfl
@[simp] theorem State.onOp_keyGen (s : State) (id : Nat) (u : Op → Op) : (s.onOp id u).keyGen = s.keyGen := rfl
@[simp] theorem State.onOp_l1 (s : State) (id : Nat) (u : Op → Op) : (s.onOp id u).l1 = s.l1 := rfl
@[simp] theorem State.onOp_icache (s : State) (id : Nat) (u : Op → Op) : (s.onOp id u).icache = s.icache := rfl
@[simp] theorem State.onOp_tlb (s : State) (id : Nat) (u : Op → Op) : (s.onOp id u).tlb = s.tlb := rfl
@[simp] theorem State.onOp_ctxs (s : State) (id : Nat) (u : Op → Op) : (s.onOp id u).ctxs = s.ctxs := rfl
@[simp] theorem State.onOp_nodes (s : State) (id : Nat) (u : Op → Op) : (s.onOp id u).nodes = s.nodes := rfl
@[simp] theorem State.onOp_groups (s : State) (id : Nat) (u : Op → Op) : (s.onOp id u).groups = s.groups := rfl
@[simp] theorem State.onOp_warps (s : State) (id : Nat) (u : Op → Op) : (s.onOp id u).warps = s.warps := rfl
@[simp] theorem State.onOp_cores (s : State) (id : Nat) (u : Op → Op) : (s.onOp id u).cores = s.cores := rfl
@[simp] theorem State.onOp_wadi (s : State) (id : Nat) (u : Op → Op) : (s.onOp id u).wadi = s.wadi := rfl
@[simp] theorem State.onOp_faults (s : State) (id : Nat) (u : Op → Op) : (s.onOp id u).faults = s.faults := rfl
@[simp] theorem State.onOp_saved (s : State) (id : Nat) (u : Op → Op) : (s.onOp id u).saved = s.saved := rfl
@[simp] theorem State.onOp_scans (s : State) (id : Nat) (u : Op → Op) : (s.onOp id u).scans = s.scans := rfl
@[simp] theorem State.onOp_memStacks (s : State) (id : Nat) (u : Op → Op) : (s.onOp id u).memStacks = s.memStacks := rfl
@[simp] theorem State.onOp_dev (s : State) (id : Nat) (u : Op → Op) : (s.onOp id u).dev = s.dev := rfl

@[simp] theorem State.dropOp_agenda (s : State) (id : Nat) : (s.dropOp id).agenda = s.agenda := rfl
@[simp] theorem State.dropOp_freeCtr (s : State) (id : Nat) : (s.dropOp id).freeCtr = s.freeCtr := rfl
@[simp] theorem State.dropOp_cur (s : State) (id : Nat) : (s.dropOp id).cur = s.cur := rfl
@[simp] theorem State.dropOp_clock (s : State) (id : Nat) : (s.dropOp id).clock = s.clock := rfl
@[simp] theorem State.dropOp_time (s : State) (id : Nat) : (s.dropOp id).time = s.time := rfl
@[simp] theorem State.dropOp_wall (s : State) (id : Nat) : (s.dropOp id).wall = s.wall := rfl
@[simp] theorem State.dropOp_nextId (s : State) (id : Nat) : (s.dropOp id).nextId = s.nextId := rfl
@[simp] theorem State.dropOp_mem (s : State) (id : Nat) : (s.dropOp id).mem = s.mem := rfl
@[simp] theorem State.dropOp_unitKey (s : State) (id : Nat) : (s.dropOp id).unitKey = s.unitKey := rfl
@[simp] theorem State.dropOp_scrambled (s : State) (id : Nat) : (s.dropOp id).scrambled = s.scrambled := rfl
@[simp] theorem State.dropOp_owner (s : State) (id : Nat) : (s.dropOp id).owner = s.owner := rfl
@[simp] theorem State.dropOp_poison (s : State) (id : Nat) : (s.dropOp id).poison = s.poison := rfl
@[simp] theorem State.dropOp_devWritten (s : State) (id : Nat) : (s.dropOp id).devWritten = s.devWritten := rfl
@[simp] theorem State.dropOp_keyGen (s : State) (id : Nat) : (s.dropOp id).keyGen = s.keyGen := rfl
@[simp] theorem State.dropOp_l1 (s : State) (id : Nat) : (s.dropOp id).l1 = s.l1 := rfl
@[simp] theorem State.dropOp_icache (s : State) (id : Nat) : (s.dropOp id).icache = s.icache := rfl
@[simp] theorem State.dropOp_tlb (s : State) (id : Nat) : (s.dropOp id).tlb = s.tlb := rfl
@[simp] theorem State.dropOp_ctxs (s : State) (id : Nat) : (s.dropOp id).ctxs = s.ctxs := rfl
@[simp] theorem State.dropOp_nodes (s : State) (id : Nat) : (s.dropOp id).nodes = s.nodes := rfl
@[simp] theorem State.dropOp_groups (s : State) (id : Nat) : (s.dropOp id).groups = s.groups := rfl
@[simp] theorem State.dropOp_warps (s : State) (id : Nat) : (s.dropOp id).warps = s.warps := rfl
@[simp] theorem State.dropOp_cores (s : State) (id : Nat) : (s.dropOp id).cores = s.cores := rfl
@[simp] theorem State.dropOp_wadi (s : State) (id : Nat) : (s.dropOp id).wadi = s.wadi := rfl
@[simp] theorem State.dropOp_faults (s : State) (id : Nat) : (s.dropOp id).faults = s.faults := rfl
@[simp] theorem State.dropOp_saved (s : State) (id : Nat) : (s.dropOp id).saved = s.saved := rfl
@[simp] theorem State.dropOp_scans (s : State) (id : Nat) : (s.dropOp id).scans = s.scans := rfl
@[simp] theorem State.dropOp_memStacks (s : State) (id : Nat) : (s.dropOp id).memStacks = s.memStacks := rfl
@[simp] theorem State.dropOp_dev (s : State) (id : Nat) : (s.dropOp id).dev = s.dev := rfl

@[simp] theorem State.onCore_agenda (s : State) (c : Nat) (u : Core → Core) : (s.onCore c u).agenda = s.agenda := rfl
@[simp] theorem State.onCore_freeCtr (s : State) (c : Nat) (u : Core → Core) : (s.onCore c u).freeCtr = s.freeCtr := rfl
@[simp] theorem State.onCore_cur (s : State) (c : Nat) (u : Core → Core) : (s.onCore c u).cur = s.cur := rfl
@[simp] theorem State.onCore_clock (s : State) (c : Nat) (u : Core → Core) : (s.onCore c u).clock = s.clock := rfl
@[simp] theorem State.onCore_time (s : State) (c : Nat) (u : Core → Core) : (s.onCore c u).time = s.time := rfl
@[simp] theorem State.onCore_wall (s : State) (c : Nat) (u : Core → Core) : (s.onCore c u).wall = s.wall := rfl
@[simp] theorem State.onCore_nextId (s : State) (c : Nat) (u : Core → Core) : (s.onCore c u).nextId = s.nextId := rfl
@[simp] theorem State.onCore_mem (s : State) (c : Nat) (u : Core → Core) : (s.onCore c u).mem = s.mem := rfl
@[simp] theorem State.onCore_unitKey (s : State) (c : Nat) (u : Core → Core) : (s.onCore c u).unitKey = s.unitKey := rfl
@[simp] theorem State.onCore_scrambled (s : State) (c : Nat) (u : Core → Core) : (s.onCore c u).scrambled = s.scrambled := rfl
@[simp] theorem State.onCore_owner (s : State) (c : Nat) (u : Core → Core) : (s.onCore c u).owner = s.owner := rfl
@[simp] theorem State.onCore_poison (s : State) (c : Nat) (u : Core → Core) : (s.onCore c u).poison = s.poison := rfl
@[simp] theorem State.onCore_devWritten (s : State) (c : Nat) (u : Core → Core) : (s.onCore c u).devWritten = s.devWritten := rfl
@[simp] theorem State.onCore_keyGen (s : State) (c : Nat) (u : Core → Core) : (s.onCore c u).keyGen = s.keyGen := rfl
@[simp] theorem State.onCore_l1 (s : State) (c : Nat) (u : Core → Core) : (s.onCore c u).l1 = s.l1 := rfl
@[simp] theorem State.onCore_icache (s : State) (c : Nat) (u : Core → Core) : (s.onCore c u).icache = s.icache := rfl
@[simp] theorem State.onCore_tlb (s : State) (c : Nat) (u : Core → Core) : (s.onCore c u).tlb = s.tlb := rfl
@[simp] theorem State.onCore_ctxs (s : State) (c : Nat) (u : Core → Core) : (s.onCore c u).ctxs = s.ctxs := rfl
@[simp] theorem State.onCore_nodes (s : State) (c : Nat) (u : Core → Core) : (s.onCore c u).nodes = s.nodes := rfl
@[simp] theorem State.onCore_groups (s : State) (c : Nat) (u : Core → Core) : (s.onCore c u).groups = s.groups := rfl
@[simp] theorem State.onCore_warps (s : State) (c : Nat) (u : Core → Core) : (s.onCore c u).warps = s.warps := rfl
@[simp] theorem State.onCore_ops (s : State) (c : Nat) (u : Core → Core) : (s.onCore c u).ops = s.ops := rfl
@[simp] theorem State.onCore_wadi (s : State) (c : Nat) (u : Core → Core) : (s.onCore c u).wadi = s.wadi := rfl
@[simp] theorem State.onCore_faults (s : State) (c : Nat) (u : Core → Core) : (s.onCore c u).faults = s.faults := rfl
@[simp] theorem State.onCore_saved (s : State) (c : Nat) (u : Core → Core) : (s.onCore c u).saved = s.saved := rfl
@[simp] theorem State.onCore_scans (s : State) (c : Nat) (u : Core → Core) : (s.onCore c u).scans = s.scans := rfl
@[simp] theorem State.onCore_memStacks (s : State) (c : Nat) (u : Core → Core) : (s.onCore c u).memStacks = s.memStacks := rfl
@[simp] theorem State.onCore_dev (s : State) (c : Nat) (u : Core → Core) : (s.onCore c u).dev = s.dev := rfl

@[simp] theorem State.onScan_agenda (s : State) (d : Nat) (u : Scan → Scan) : (s.onScan d u).agenda = s.agenda := rfl
@[simp] theorem State.onScan_freeCtr (s : State) (d : Nat) (u : Scan → Scan) : (s.onScan d u).freeCtr = s.freeCtr := rfl
@[simp] theorem State.onScan_cur (s : State) (d : Nat) (u : Scan → Scan) : (s.onScan d u).cur = s.cur := rfl
@[simp] theorem State.onScan_clock (s : State) (d : Nat) (u : Scan → Scan) : (s.onScan d u).clock = s.clock := rfl
@[simp] theorem State.onScan_time (s : State) (d : Nat) (u : Scan → Scan) : (s.onScan d u).time = s.time := rfl
@[simp] theorem State.onScan_wall (s : State) (d : Nat) (u : Scan → Scan) : (s.onScan d u).wall = s.wall := rfl
@[simp] theorem State.onScan_nextId (s : State) (d : Nat) (u : Scan → Scan) : (s.onScan d u).nextId = s.nextId := rfl
@[simp] theorem State.onScan_mem (s : State) (d : Nat) (u : Scan → Scan) : (s.onScan d u).mem = s.mem := rfl
@[simp] theorem State.onScan_unitKey (s : State) (d : Nat) (u : Scan → Scan) : (s.onScan d u).unitKey = s.unitKey := rfl
@[simp] theorem State.onScan_scrambled (s : State) (d : Nat) (u : Scan → Scan) : (s.onScan d u).scrambled = s.scrambled := rfl
@[simp] theorem State.onScan_owner (s : State) (d : Nat) (u : Scan → Scan) : (s.onScan d u).owner = s.owner := rfl
@[simp] theorem State.onScan_poison (s : State) (d : Nat) (u : Scan → Scan) : (s.onScan d u).poison = s.poison := rfl
@[simp] theorem State.onScan_devWritten (s : State) (d : Nat) (u : Scan → Scan) : (s.onScan d u).devWritten = s.devWritten := rfl
@[simp] theorem State.onScan_keyGen (s : State) (d : Nat) (u : Scan → Scan) : (s.onScan d u).keyGen = s.keyGen := rfl
@[simp] theorem State.onScan_l1 (s : State) (d : Nat) (u : Scan → Scan) : (s.onScan d u).l1 = s.l1 := rfl
@[simp] theorem State.onScan_icache (s : State) (d : Nat) (u : Scan → Scan) : (s.onScan d u).icache = s.icache := rfl
@[simp] theorem State.onScan_tlb (s : State) (d : Nat) (u : Scan → Scan) : (s.onScan d u).tlb = s.tlb := rfl
@[simp] theorem State.onScan_ctxs (s : State) (d : Nat) (u : Scan → Scan) : (s.onScan d u).ctxs = s.ctxs := rfl
@[simp] theorem State.onScan_nodes (s : State) (d : Nat) (u : Scan → Scan) : (s.onScan d u).nodes = s.nodes := rfl
@[simp] theorem State.onScan_groups (s : State) (d : Nat) (u : Scan → Scan) : (s.onScan d u).groups = s.groups := rfl
@[simp] theorem State.onScan_warps (s : State) (d : Nat) (u : Scan → Scan) : (s.onScan d u).warps = s.warps := rfl
@[simp] theorem State.onScan_ops (s : State) (d : Nat) (u : Scan → Scan) : (s.onScan d u).ops = s.ops := rfl
@[simp] theorem State.onScan_cores (s : State) (d : Nat) (u : Scan → Scan) : (s.onScan d u).cores = s.cores := rfl
@[simp] theorem State.onScan_wadi (s : State) (d : Nat) (u : Scan → Scan) : (s.onScan d u).wadi = s.wadi := rfl
@[simp] theorem State.onScan_faults (s : State) (d : Nat) (u : Scan → Scan) : (s.onScan d u).faults = s.faults := rfl
@[simp] theorem State.onScan_saved (s : State) (d : Nat) (u : Scan → Scan) : (s.onScan d u).saved = s.saved := rfl
@[simp] theorem State.onScan_memStacks (s : State) (d : Nat) (u : Scan → Scan) : (s.onScan d u).memStacks = s.memStacks := rfl
@[simp] theorem State.onScan_dev (s : State) (d : Nat) (u : Scan → Scan) : (s.onScan d u).dev = s.dev := rfl

@[simp] theorem State.onStack_agenda (s : State) (k : Nat) (u : MemStack → MemStack) : (s.onStack k u).agenda = s.agenda := rfl
@[simp] theorem State.onStack_freeCtr (s : State) (k : Nat) (u : MemStack → MemStack) : (s.onStack k u).freeCtr = s.freeCtr := rfl
@[simp] theorem State.onStack_cur (s : State) (k : Nat) (u : MemStack → MemStack) : (s.onStack k u).cur = s.cur := rfl
@[simp] theorem State.onStack_clock (s : State) (k : Nat) (u : MemStack → MemStack) : (s.onStack k u).clock = s.clock := rfl
@[simp] theorem State.onStack_time (s : State) (k : Nat) (u : MemStack → MemStack) : (s.onStack k u).time = s.time := rfl
@[simp] theorem State.onStack_wall (s : State) (k : Nat) (u : MemStack → MemStack) : (s.onStack k u).wall = s.wall := rfl
@[simp] theorem State.onStack_nextId (s : State) (k : Nat) (u : MemStack → MemStack) : (s.onStack k u).nextId = s.nextId := rfl
@[simp] theorem State.onStack_mem (s : State) (k : Nat) (u : MemStack → MemStack) : (s.onStack k u).mem = s.mem := rfl
@[simp] theorem State.onStack_unitKey (s : State) (k : Nat) (u : MemStack → MemStack) : (s.onStack k u).unitKey = s.unitKey := rfl
@[simp] theorem State.onStack_scrambled (s : State) (k : Nat) (u : MemStack → MemStack) : (s.onStack k u).scrambled = s.scrambled := rfl
@[simp] theorem State.onStack_owner (s : State) (k : Nat) (u : MemStack → MemStack) : (s.onStack k u).owner = s.owner := rfl
@[simp] theorem State.onStack_poison (s : State) (k : Nat) (u : MemStack → MemStack) : (s.onStack k u).poison = s.poison := rfl
@[simp] theorem State.onStack_devWritten (s : State) (k : Nat) (u : MemStack → MemStack) : (s.onStack k u).devWritten = s.devWritten := rfl
@[simp] theorem State.onStack_keyGen (s : State) (k : Nat) (u : MemStack → MemStack) : (s.onStack k u).keyGen = s.keyGen := rfl
@[simp] theorem State.onStack_l1 (s : State) (k : Nat) (u : MemStack → MemStack) : (s.onStack k u).l1 = s.l1 := rfl
@[simp] theorem State.onStack_icache (s : State) (k : Nat) (u : MemStack → MemStack) : (s.onStack k u).icache = s.icache := rfl
@[simp] theorem State.onStack_tlb (s : State) (k : Nat) (u : MemStack → MemStack) : (s.onStack k u).tlb = s.tlb := rfl
@[simp] theorem State.onStack_ctxs (s : State) (k : Nat) (u : MemStack → MemStack) : (s.onStack k u).ctxs = s.ctxs := rfl
@[simp] theorem State.onStack_nodes (s : State) (k : Nat) (u : MemStack → MemStack) : (s.onStack k u).nodes = s.nodes := rfl
@[simp] theorem State.onStack_groups (s : State) (k : Nat) (u : MemStack → MemStack) : (s.onStack k u).groups = s.groups := rfl
@[simp] theorem State.onStack_warps (s : State) (k : Nat) (u : MemStack → MemStack) : (s.onStack k u).warps = s.warps := rfl
@[simp] theorem State.onStack_ops (s : State) (k : Nat) (u : MemStack → MemStack) : (s.onStack k u).ops = s.ops := rfl
@[simp] theorem State.onStack_cores (s : State) (k : Nat) (u : MemStack → MemStack) : (s.onStack k u).cores = s.cores := rfl
@[simp] theorem State.onStack_wadi (s : State) (k : Nat) (u : MemStack → MemStack) : (s.onStack k u).wadi = s.wadi := rfl
@[simp] theorem State.onStack_faults (s : State) (k : Nat) (u : MemStack → MemStack) : (s.onStack k u).faults = s.faults := rfl
@[simp] theorem State.onStack_saved (s : State) (k : Nat) (u : MemStack → MemStack) : (s.onStack k u).saved = s.saved := rfl
@[simp] theorem State.onStack_scans (s : State) (k : Nat) (u : MemStack → MemStack) : (s.onStack k u).scans = s.scans := rfl
@[simp] theorem State.onStack_dev (s : State) (k : Nat) (u : MemStack → MemStack) : (s.onStack k u).dev = s.dev := rfl

@[simp] theorem State.setRaw_agenda (s : State) (a : Nat) (b : Byte) : (s.setRaw a b).agenda = s.agenda := rfl
@[simp] theorem State.setRaw_freeCtr (s : State) (a : Nat) (b : Byte) : (s.setRaw a b).freeCtr = s.freeCtr := rfl
@[simp] theorem State.setRaw_cur (s : State) (a : Nat) (b : Byte) : (s.setRaw a b).cur = s.cur := rfl
@[simp] theorem State.setRaw_clock (s : State) (a : Nat) (b : Byte) : (s.setRaw a b).clock = s.clock := rfl
@[simp] theorem State.setRaw_time (s : State) (a : Nat) (b : Byte) : (s.setRaw a b).time = s.time := rfl
@[simp] theorem State.setRaw_wall (s : State) (a : Nat) (b : Byte) : (s.setRaw a b).wall = s.wall := rfl
@[simp] theorem State.setRaw_nextId (s : State) (a : Nat) (b : Byte) : (s.setRaw a b).nextId = s.nextId := rfl
@[simp] theorem State.setRaw_unitKey (s : State) (a : Nat) (b : Byte) : (s.setRaw a b).unitKey = s.unitKey := rfl
@[simp] theorem State.setRaw_scrambled (s : State) (a : Nat) (b : Byte) : (s.setRaw a b).scrambled = s.scrambled := rfl
@[simp] theorem State.setRaw_owner (s : State) (a : Nat) (b : Byte) : (s.setRaw a b).owner = s.owner := rfl
@[simp] theorem State.setRaw_poison (s : State) (a : Nat) (b : Byte) : (s.setRaw a b).poison = s.poison := rfl
@[simp] theorem State.setRaw_devWritten (s : State) (a : Nat) (b : Byte) : (s.setRaw a b).devWritten = s.devWritten := rfl
@[simp] theorem State.setRaw_keyGen (s : State) (a : Nat) (b : Byte) : (s.setRaw a b).keyGen = s.keyGen := rfl
@[simp] theorem State.setRaw_l1 (s : State) (a : Nat) (b : Byte) : (s.setRaw a b).l1 = s.l1 := rfl
@[simp] theorem State.setRaw_icache (s : State) (a : Nat) (b : Byte) : (s.setRaw a b).icache = s.icache := rfl
@[simp] theorem State.setRaw_tlb (s : State) (a : Nat) (b : Byte) : (s.setRaw a b).tlb = s.tlb := rfl
@[simp] theorem State.setRaw_ctxs (s : State) (a : Nat) (b : Byte) : (s.setRaw a b).ctxs = s.ctxs := rfl
@[simp] theorem State.setRaw_nodes (s : State) (a : Nat) (b : Byte) : (s.setRaw a b).nodes = s.nodes := rfl
@[simp] theorem State.setRaw_groups (s : State) (a : Nat) (b : Byte) : (s.setRaw a b).groups = s.groups := rfl
@[simp] theorem State.setRaw_warps (s : State) (a : Nat) (b : Byte) : (s.setRaw a b).warps = s.warps := rfl
@[simp] theorem State.setRaw_ops (s : State) (a : Nat) (b : Byte) : (s.setRaw a b).ops = s.ops := rfl
@[simp] theorem State.setRaw_cores (s : State) (a : Nat) (b : Byte) : (s.setRaw a b).cores = s.cores := rfl
@[simp] theorem State.setRaw_wadi (s : State) (a : Nat) (b : Byte) : (s.setRaw a b).wadi = s.wadi := rfl
@[simp] theorem State.setRaw_faults (s : State) (a : Nat) (b : Byte) : (s.setRaw a b).faults = s.faults := rfl
@[simp] theorem State.setRaw_saved (s : State) (a : Nat) (b : Byte) : (s.setRaw a b).saved = s.saved := rfl
@[simp] theorem State.setRaw_scans (s : State) (a : Nat) (b : Byte) : (s.setRaw a b).scans = s.scans := rfl
@[simp] theorem State.setRaw_memStacks (s : State) (a : Nat) (b : Byte) : (s.setRaw a b).memStacks = s.memStacks := rfl
@[simp] theorem State.setRaw_dev (s : State) (a : Nat) (b : Byte) : (s.setRaw a b).dev = s.dev := rfl

@[simp] theorem State.advanceClock_agenda (s : State) (n : Nat) : (s.advanceClock n).agenda = s.agenda := rfl
@[simp] theorem State.advanceClock_freeCtr (s : State) (n : Nat) : (s.advanceClock n).freeCtr = s.freeCtr := rfl
@[simp] theorem State.advanceClock_cur (s : State) (n : Nat) : (s.advanceClock n).cur = s.cur := rfl
@[simp] theorem State.advanceClock_nextId (s : State) (n : Nat) : (s.advanceClock n).nextId = s.nextId := rfl
@[simp] theorem State.advanceClock_mem (s : State) (n : Nat) : (s.advanceClock n).mem = s.mem := rfl
@[simp] theorem State.advanceClock_unitKey (s : State) (n : Nat) : (s.advanceClock n).unitKey = s.unitKey := rfl
@[simp] theorem State.advanceClock_scrambled (s : State) (n : Nat) : (s.advanceClock n).scrambled = s.scrambled := rfl
@[simp] theorem State.advanceClock_owner (s : State) (n : Nat) : (s.advanceClock n).owner = s.owner := rfl
@[simp] theorem State.advanceClock_poison (s : State) (n : Nat) : (s.advanceClock n).poison = s.poison := rfl
@[simp] theorem State.advanceClock_devWritten (s : State) (n : Nat) : (s.advanceClock n).devWritten = s.devWritten := rfl
@[simp] theorem State.advanceClock_keyGen (s : State) (n : Nat) : (s.advanceClock n).keyGen = s.keyGen := rfl
@[simp] theorem State.advanceClock_l1 (s : State) (n : Nat) : (s.advanceClock n).l1 = s.l1 := rfl
@[simp] theorem State.advanceClock_icache (s : State) (n : Nat) : (s.advanceClock n).icache = s.icache := rfl
@[simp] theorem State.advanceClock_tlb (s : State) (n : Nat) : (s.advanceClock n).tlb = s.tlb := rfl
@[simp] theorem State.advanceClock_ctxs (s : State) (n : Nat) : (s.advanceClock n).ctxs = s.ctxs := rfl
@[simp] theorem State.advanceClock_nodes (s : State) (n : Nat) : (s.advanceClock n).nodes = s.nodes := rfl
@[simp] theorem State.advanceClock_groups (s : State) (n : Nat) : (s.advanceClock n).groups = s.groups := rfl
@[simp] theorem State.advanceClock_warps (s : State) (n : Nat) : (s.advanceClock n).warps = s.warps := rfl
@[simp] theorem State.advanceClock_ops (s : State) (n : Nat) : (s.advanceClock n).ops = s.ops := rfl
@[simp] theorem State.advanceClock_cores (s : State) (n : Nat) : (s.advanceClock n).cores = s.cores := rfl
@[simp] theorem State.advanceClock_wadi (s : State) (n : Nat) : (s.advanceClock n).wadi = s.wadi := rfl
@[simp] theorem State.advanceClock_faults (s : State) (n : Nat) : (s.advanceClock n).faults = s.faults := rfl
@[simp] theorem State.advanceClock_saved (s : State) (n : Nat) : (s.advanceClock n).saved = s.saved := rfl
@[simp] theorem State.advanceClock_scans (s : State) (n : Nat) : (s.advanceClock n).scans = s.scans := rfl
@[simp] theorem State.advanceClock_memStacks (s : State) (n : Nat) : (s.advanceClock n).memStacks = s.memStacks := rfl
@[simp] theorem State.advanceClock_dev (s : State) (n : Nat) : (s.advanceClock n).dev = s.dev := rfl

@[simp] theorem State.fresh_agenda (s : State) : s.fresh.2.agenda = s.agenda := rfl
@[simp] theorem State.fresh_freeCtr (s : State) : s.fresh.2.freeCtr = s.freeCtr := rfl
@[simp] theorem State.fresh_cur (s : State) : s.fresh.2.cur = s.cur := rfl
@[simp] theorem State.fresh_clock (s : State) : s.fresh.2.clock = s.clock := rfl
@[simp] theorem State.fresh_time (s : State) : s.fresh.2.time = s.time := rfl
@[simp] theorem State.fresh_wall (s : State) : s.fresh.2.wall = s.wall := rfl
@[simp] theorem State.fresh_mem (s : State) : s.fresh.2.mem = s.mem := rfl
@[simp] theorem State.fresh_unitKey (s : State) : s.fresh.2.unitKey = s.unitKey := rfl
@[simp] theorem State.fresh_scrambled (s : State) : s.fresh.2.scrambled = s.scrambled := rfl
@[simp] theorem State.fresh_owner (s : State) : s.fresh.2.owner = s.owner := rfl
@[simp] theorem State.fresh_poison (s : State) : s.fresh.2.poison = s.poison := rfl
@[simp] theorem State.fresh_devWritten (s : State) : s.fresh.2.devWritten = s.devWritten := rfl
@[simp] theorem State.fresh_keyGen (s : State) : s.fresh.2.keyGen = s.keyGen := rfl
@[simp] theorem State.fresh_l1 (s : State) : s.fresh.2.l1 = s.l1 := rfl
@[simp] theorem State.fresh_icache (s : State) : s.fresh.2.icache = s.icache := rfl
@[simp] theorem State.fresh_tlb (s : State) : s.fresh.2.tlb = s.tlb := rfl
@[simp] theorem State.fresh_ctxs (s : State) : s.fresh.2.ctxs = s.ctxs := rfl
@[simp] theorem State.fresh_nodes (s : State) : s.fresh.2.nodes = s.nodes := rfl
@[simp] theorem State.fresh_groups (s : State) : s.fresh.2.groups = s.groups := rfl
@[simp] theorem State.fresh_warps (s : State) : s.fresh.2.warps = s.warps := rfl
@[simp] theorem State.fresh_ops (s : State) : s.fresh.2.ops = s.ops := rfl
@[simp] theorem State.fresh_cores (s : State) : s.fresh.2.cores = s.cores := rfl
@[simp] theorem State.fresh_wadi (s : State) : s.fresh.2.wadi = s.wadi := rfl
@[simp] theorem State.fresh_faults (s : State) : s.fresh.2.faults = s.faults := rfl
@[simp] theorem State.fresh_saved (s : State) : s.fresh.2.saved = s.saved := rfl
@[simp] theorem State.fresh_scans (s : State) : s.fresh.2.scans = s.scans := rfl
@[simp] theorem State.fresh_memStacks (s : State) : s.fresh.2.memStacks = s.memStacks := rfl
@[simp] theorem State.fresh_dev (s : State) : s.fresh.2.dev = s.dev := rfl
@[simp] theorem State.fresh_fst (s : State) : s.fresh.1 = s.nextId := rfl
@[simp] theorem State.fresh_nextId (s : State) : s.fresh.2.nextId = s.nextId + 1 := rfl
@[simp] theorem State.advanceClock_clock (s : State) (n : Nat) : (s.advanceClock n).clock = s.clock + n := rfl

/-! ## Parts found after an update -/

/-- A find over a list whose elements are changed where a key matches, the key kept. -/
theorem find?_map_key {α κ : Type} [DecidableEq κ] (key : α → κ) (l : List α) (k j : κ) (u : α → α)
    (h : ∀ a, key (u a) = key a) :
    (l.map (fun a => if key a = k then u a else a)).find? (fun a => key a = j)
      = if j = k then (l.find? (fun a => key a = j)).map u else l.find? (fun a => key a = j) := by
  induction l with
  | nil => simp
  | cons a t ih =>
    simp only [List.map_cons, List.find?_cons]
    by_cases hk : key a = k <;> by_cases hj : key a = j
    · have hjk : j = k := hj.symm.trans hk
      simp [hk, hjk, h]
    · have hjk : j ≠ k := fun e => hj (hk.trans e.symm)
      have hkj : k ≠ j := Ne.symm hjk
      simp only [hk, if_true, h, hkj, decide_false, ih, hjk, if_false]
    · have hjk : j ≠ k := fun e => hk (hj.trans e)
      simp only [if_false, hj, decide_true, hjk]
    · simp only [hk, if_false, hj, decide_false, ih]

/-- A warp found after one warp was changed. -/
theorem State.warp?_onWarp (s : State) (wid k : Nat) (u : Warp → Warp) (h : ∀ w, (u w).wid = w.wid) :
    (s.onWarp wid u).warp? k = if k = wid then (s.warp? k).map u else s.warp? k :=
  find?_map_key Warp.wid s.warps wid k u h

/-- A group found after one group was changed. -/
theorem State.group?_onGroup (s : State) (gid k : Nat) (u : Group → Group) (h : ∀ g, (u g).gid = g.gid) :
    (s.onGroup gid u).group? k = if k = gid then (s.group? k).map u else s.group? k :=
  find?_map_key Group.gid s.groups gid k u h

/-- A context found after one context was changed. -/
theorem State.ctx?_onCtx (s : State) (c k : Nat) (u : Ctx → Ctx) (h : ∀ x, (u x).num = x.num) :
    (s.onCtx c u).ctx? k = if k = c then (s.ctx? k).map u else s.ctx? k :=
  find?_map_key Ctx.num s.ctxs c k u h

/-- An operation found after one operation was changed. -/
theorem State.op?_onOp (s : State) (id k : Nat) (u : Op → Op) (h : ∀ o, (u o).id = o.id) :
    (s.onOp id u).op? k = if k = id then (s.op? k).map u else s.op? k :=
  find?_map_key Op.id s.ops id k u h

/-- A node found after it was changed. -/
theorem State.node?_onNode (s : State) (c : Nat) (a : VAddr) (u : Node → Node) (hc : ∀ n, (u n).ctx = n.ctx)
    (ha : ∀ n, (u n).addr = n.addr) : (s.onNode c a u).node? c a = (s.node? c a).map u := by
  unfold State.onNode State.node?
  induction s.nodes with
  | nil => rfl
  | cons n t ih =>
    simp only [List.map_cons, List.find?_cons]
    by_cases h : (decide (n.ctx = c) && decide (n.addr = a)) = true
    · rw [if_pos h, hc, ha, h]
      rfl
    · rw [if_neg h, Bool.not_eq_true] at *
      rw [h]
      exact ih

/-- A fibre found in a warp after one lane was changed. -/
theorem Warp.fibre?_map (w : Warp) (lane k : Nat) (u : Fibre → Fibre) (h : ∀ f, (u f).lane = f.lane) :
    ({ w with fibres := w.fibres.map (fun f => if f.lane = lane then u f else f) } : Warp).fibre? k
      = if k = lane then (w.fibre? k).map u else w.fibre? k :=
  find?_map_key Fibre.lane w.fibres lane k u h

/-- A fibre found after one fibre was changed. -/
theorem State.fibre?_onFibre (s : State) (wid lane wid' lane' : Nat) (u : Fibre → Fibre) (h : ∀ f, (u f).lane = f.lane) :
    (s.onFibre wid lane u).fibre? wid' lane'
      = if wid' = wid ∧ lane' = lane then (s.fibre? wid' lane').map u else s.fibre? wid' lane' := by
  unfold State.onFibre State.fibre?
  rw [State.warp?_onWarp _ _ _ _ (by intro w; rfl)]
  by_cases hw : wid' = wid
  · simp only [hw, if_true, true_and]
    cases s.warp? wid with
    | none => simp
    | some w => simpa using Warp.fibre?_map w lane lane' u h
  · simp [hw]

end Sys2Proof.Machine
end

