-- ==== Sys2Proof/Laws/Issue.lean ====
section
/-! SUPPORT. What an issue does: the next state of an instruction that issues, and the results of one that computes each
fibre's destinations from that fibre's operands. -/

namespace Sys2Proof.Machine

open Sys2Proof

/-! ## The lanes of a bundle -/

theorem mem_distinct (l : List Nat) (k : Nat) : k ∈ distinct l ↔ k ∈ l := by
  induction l with
  | nil => rfl
  | cons h t ih =>
    simp only [distinct, List.mem_cons, List.mem_filter, ih, decide_eq_true_eq]
    by_cases hk : k = h
    · simp [hk]
    · simp [hk]

theorem nodup_distinct (l : List Nat) : (distinct l).Nodup := by
  induction l with
  | nil => exact List.nodup_nil
  | cons h t ih =>
    simp only [distinct, List.nodup_cons, List.mem_filter, decide_eq_true_eq]
    exact ⟨fun hh => hh.2 rfl, ih.filter _⟩

/-- A fibre found in a lane stands in that lane. -/
theorem Warp.fibre?_lane {w : Warp} {l : Nat} {f : Fibre} (h : w.fibre? l = some f) : f.lane = l := by
  have := List.find?_some h
  simpa using this

/-- A fibre of a bundle is the one of its lane. -/
theorem Warp.bundle_fibre {w : Warp} {a : Active} {f : Fibre} (h : f ∈ w.bundle a) : w.fibre? f.lane = some f := by
  unfold Warp.bundle at h
  obtain ⟨l, -, hl⟩ := List.mem_filterMap.mp h
  rw [Warp.fibre?_lane hl, hl]

theorem nodup_lanes (w : Warp) {ls : List Nat} (h : ls.Nodup) : ((ls.filterMap w.fibre?).map Fibre.lane).Nodup := by
  induction ls with
  | nil => exact List.nodup_nil
  | cons l t ih =>
    rw [List.nodup_cons] at h
    cases hf : w.fibre? l with
    | none => simpa only [List.filterMap_cons, hf] using ih h.2
    | some f =>
      simp only [List.filterMap_cons, hf, List.map_cons, List.nodup_cons]
      refine ⟨fun hm => h.1 ?_, ih h.2⟩
      obtain ⟨f', hf', e⟩ := List.mem_map.mp hm
      obtain ⟨l', hl', hq⟩ := List.mem_filterMap.mp hf'
      rw [← Warp.fibre?_lane hf, ← e, Warp.fibre?_lane hq]
      exact hl'

/-- The fibres of a bundle stand in different lanes. -/
theorem Warp.bundle_nodup (w : Warp) (a : Active) : ((w.bundle a).map Fibre.lane).Nodup :=
  nodup_lanes w (nodup_distinct _)

/-- The executing fibres are some of the bundle's, in order. -/
theorem classify_sublist {s : State} {w : Warp} {a : Active} {g : Group} {i : Instr} {x e gp : List Fibre}
    (h : s.classify w a g i = .go x e gp) : x.Sublist (w.bundle a) ∧ (∀ f ∈ e, f ∈ w.bundle a) := by
  unfold State.classify State.classifyOf at h
  simp only at h
  repeat' split at h
  all_goals (try cases h)
  all_goals
    refine ⟨?_, ?_⟩
    · first
        | exact (List.filter_sublist.trans (List.filter_sublist.trans (List.filter_sublist.trans List.filter_sublist)))
        | exact (List.filter_sublist.trans (List.filter_sublist.trans List.filter_sublist))
        | exact (List.filter_sublist.trans List.filter_sublist)
    · intro f hf
      first
        | exact (List.not_mem_nil hf).elim
        | exact (List.mem_filter.mp (List.mem_filter.mp hf).1).1

theorem Issues.sublist {s : State} {i : Instr} {w : Warp} {a : Active} {g : Group} {x e gp : List Fibre}
    (h : Issues s i w a g x e gp) : x.Sublist (w.bundle a) := (classify_sublist h.fibres).1

theorem Issues.nodup {s : State} {i : Instr} {w : Warp} {a : Active} {g : Group} {x e gp : List Fibre}
    (h : Issues s i w a g x e gp) : (x.map Fibre.lane).Nodup := (w.bundle_nodup a).sublist (h.sublist.map _)

theorem Issues.fibre {s : State} {i : Instr} {w : Warp} {a : Active} {g : Group} {x e gp : List Fibre}
    (h : Issues s i w a g x e gp) {f : Fibre} (hf : f ∈ x) : w.fibre? f.lane = some f :=
  Warp.bundle_fibre (h.sublist.subset hf)

/-- The current warp is the one of its slot. -/
theorem Issues.slot {s : State} {i : Instr} {w : Warp} {a : Active} {g : Group} {x e gp : List Fibre}
    (h : Issues s i w a g x e gp) : s.warp? w.wid = some w := by
  obtain ⟨k, -, hw⟩ := Option.bind_eq_some_iff.mp h.warp
  have : w.wid = k := by simpa using List.find?_some hw
  rw [this, hw]

/-! ## One issue -/

/-- An instruction that issues, whose checks find nothing, and that performs, answers the state after its effect. -/
theorem issue_next {s : State} {i : Instr} {w : Warp} {a : Active} {g : Group} {x e gp : List Fibre} {m : Meaning}
    {s2 : State} (h : Issues s i w a g x e gp)
    (hs : ∀ f ∈ w.bundle a, m.static w g f = none)
    (hc : ∀ l ∈ (s.issueExec w a g i x).lanes, m.check s.fresh.2 (s.issueExec w a g i x) l = none)
    (hr : m.room s.fresh.2 (s.issueExec w a g i x) = none)
    (hp : (if x.isEmpty then some s.fresh.2 else m.perform (s.issueExec w a g i x) s.fresh.2) = some s2) :
    s.issue i m = .next (s2.after w a g i e gp) := by
  have hd : firstCause (w.bundle a) (m.decode w g i.shape) = none := by
    unfold firstCause
    rw [List.findSome?_eq_none_iff]
    intro f hf
    unfold Meaning.decode
    rw [if_pos (h.operands f hf), hs f hf]
  have hfl : ((i.shape.fs.bind a.flag).any (fun n => (s.counting w g i (x ++ e)).any (fun f => 63 ≤ f.flag n))) = false := by
    cases hn : i.shape.fs.bind a.flag with
    | none => rfl
    | some n =>
      simp only [Option.any_some, List.any_eq_false, decide_eq_true_eq]
      intro f hf
      have := h.flags n hn f hf
      omega
  have hla : (i.isFibreAccess && x.any (fun f => s.acquiring g.gid f.id s.nextId)) = false := by
    rw [Bool.and_eq_false_iff]
    by_cases hac : i.isFibreAccess = true
    · exact Or.inr (by rw [List.any_eq_false]; intro f hf; simp [h.acquired hac f hf])
    · exact Or.inl (by simpa using hac)
  have hck : firstCause (s.issueExec w a g i x).lanes (m.check s.fresh.2 (s.issueExec w a g i x)) = none := by
    unfold firstCause
    rw [List.findSome?_eq_none_iff]
    exact hc
  have hbody : s.issueBody w a g i m = s2.after w a g i e gp := by
    unfold State.issueBody
    rw [h.fibres]
    simp only [hfl, hla, h.room, Bool.or_self, Bool.false_eq_true, if_false]
    have hne : (!x.isEmpty && decide (x.length = 0)) = false := by cases x <;> simp
    have htake : (x.map (w.laneIn g i.shape)).take x.length = x.map (w.laneIn g i.shape) := by
      rw [List.take_of_length_le (by simp)]
    simp only [State.issueExec] at hck hr hp
    simp only [State.fresh_fst, hck, hr, Option.getD_none, hne, htake, Bool.false_eq_true, if_false, Nat.lt_irrefl]
    rw [hp]
    rfl
  unfold State.issue
  rw [h.warp]
  simp only [h.clause, h.group]
  unfold State.issueAt
  simp only [h.unparked, Bool.false_eq_true, if_false, h.unfaulted, h.role, Bool.not_true, hd, hbody]

/-! ## The warp after an instruction -/

@[simp] theorem Warp.advance_wid (w : Warp) : w.advance.wid = w.wid := by unfold Warp.advance; split <;> (try split) <;> rfl
@[simp] theorem Warp.advance_fibres (w : Warp) : w.advance.fibres = w.fibres := by
  unfold Warp.advance; split <;> (try split) <;> rfl

/-- The advance through the clause changes the place in it, and at its end the mode in force and the clause waits. -/
theorem Warp.advance_eq (w : Warp) :
    w.advance = { w with active := w.advance.active, mode := w.advance.mode, exempt := w.advance.exempt,
                         offered := w.advance.offered } := by
  unfold Warp.advance; split <;> (try split) <;> rfl

/-- Two changes of one warp, one after the other. -/
theorem State.onWarp_onWarp (s : State) (k : Nat) (u v : Warp → Warp) (h : ∀ w, (u w).wid = w.wid) :
    (s.onWarp k u).onWarp k v = s.onWarp k (fun w => v (u w)) := by
  unfold State.onWarp
  simp only [List.map_map]
  congr 1
  apply List.map_congr_left
  intro w _
  simp only [Function.comp]
  by_cases hk : w.wid = k
  · simp [hk, h]
  · simp [hk]

/-- The entry of an instruction without a flag none of whose deferred destinations is an operand of an open matrix
operation: the queue gains it, and nothing else changes. -/
theorem append_quiet (s : State) (w : Warp) (a : Active) (g : Group) (i : Instr) (e gp : List Fibre)
    (hf : i.shape.fs = none) (hq : ∀ f ∈ e, ∀ p ∈ g.places f.b i.shape.dstRegs, p ∉ g.openRegs f.id) :
    ∃ n q, s.append w a g i e gp = State.onWarp { s with nextId := n } w.wid (fun v => { v with queue := v.queue ++ q }) := by
  cases e with
  | nil =>
    refine ⟨s.nextId, [], ?_⟩
    simp [State.append, State.onWarp]
  | cons f0 t =>
    have hsp : ∀ f ∈ f0 :: t, (g.places f.b i.shape.dstRegs).filter (fun p => (g.openRegs f.id).contains p) = [] := by
      intro f hm
      rw [List.filter_eq_nil_iff]
      intro p hp
      simpa using hq f hm p hp
    have hspoil : (f0 :: t).flatMap (fun f => ((g.places f.b i.shape.dstRegs).filter
        (fun p => (g.openRegs f.id).contains p)).map (fun p => (f.lane, p))) = [] := by
      rw [List.flatMap_eq_nil_iff]
      intro f hm
      rw [hsp f hm]
      rfl
    have hfold : ∀ (l : List Fibre) (s1 : State), l.foldl (fun (s : State) f =>
        let ps := (([] : List (Nat × Nat)).filter (fun p => p.1 = f.lane)).map Prod.snd
        if ps.isEmpty then s else s.foul w.gid f.id ps) s1 = s1 := by
      intro l
      induction l with
      | nil => intro s1; rfl
      | cons h t ih => intro s1; exact ih s1
    unfold State.append
    simp only [hspoil, hf, Option.bind_none, ite_self, hfold]
    exact ⟨s.nextId + 1, _, rfl⟩

/-! ## Results of a fibre -/

@[simp] theorem Fibre.put_lane (f : Fibre) (p : Nat) (v : Word) : (f.put p v).lane = f.lane := rfl
@[simp] theorem Fibre.setCc_lane (f : Fibre) (n : Fin 4) (c : CC) : (f.setCc n c).lane = f.lane := by
  unfold Fibre.setCc; split <;> rfl

@[simp] theorem Fibre.puts_lane (f : Fibre) (ws : List (Nat × Word)) : (f.puts ws).lane = f.lane := by
  unfold Fibre.puts
  induction ws generalizing f with
  | nil => rfl
  | cons h t ih => exact (ih (f.put h.1 h.2))

@[simp] theorem Fibre.result_lane (f : Fibre) (ws : List (Nat × Word)) (n : CcW) (c : Option CC) (k : Nat) :
    (f.result ws n c k).lane = f.lane := by
  unfold Fibre.result
  cases n <;> cases c <;> simp

/-- What a lane's results make of its fibre. -/
def Exec.land (x : Exec) (l : LaneIn) (o : LaneOut) (f : Fibre) : Fibre :=
  f.result (x.writes l.base o.dst) x.instr.shape.ccw o.cc o.draws

/-- The results of one fibre of an issue whose destinations are no operand of an open matrix operation. -/
theorem landLane_issue (s : State) (x : Exec) (l : LaneIn) (o : LaneOut) (hx : x.entry = none)
    (hq : ∀ p ∈ x.writes l.base o.dst, p.1 ∉ x.g.openRegs l.f.id) :
    s.landLane x l o = s.onWarp x.w.wid (fun w => { w with
      fpst := w.fpst ||| o.fp, fibres := w.fibres.map (fun f => if f.lane = l.f.lane then x.land l o f else f) }) := by
  have hl : s.landing x l (x.writes l.base o.dst) = (x.writes l.base o.dst, s) := by
    unfold State.landing Exec.marks
    simp only [hx]
    rw [if_pos]
    simpa [List.all_eq_true] using hq
  unfold State.landLane
  rw [hl]
  simp only [hx]
  rfl

/-- The results of all fibres of an issue. -/
theorem landLanes_issue (x : Exec) (hx : x.entry = none) (r : List (LaneIn × LaneOut)) (s : State)
    (hq : ∀ lo ∈ r, ∀ p ∈ x.writes lo.1.base lo.2.dst, p.1 ∉ x.g.openRegs lo.1.f.id) :
    r.foldl (fun s lo => s.landLane x lo.1 lo.2) s = s.onWarp x.w.wid (fun w => { w with
      fpst := r.foldl (fun m lo => m ||| lo.2.fp) w.fpst,
      fibres := w.fibres.map (fun f => r.foldl (fun f lo => if f.lane = lo.1.f.lane then x.land lo.1 lo.2 f else f) f) }) := by
  induction r generalizing s with
  | nil =>
    simp [State.onWarp]
  | cons lo t ih =>
    rw [List.foldl_cons, landLane_issue s x lo.1 lo.2 hx (hq lo (List.mem_cons_self ..)),
      ih _ (fun l hl => hq l (List.mem_cons_of_mem _ hl)), State.onWarp_onWarp]
    · congr 1
      funext w
      simp [List.map_map, Function.comp]
    · intro w
      rfl

/-- Of several results in different lanes, a fibre takes the one for its lane. -/
theorem foldl_land_own (x : Exec) (r : List (LaneIn × LaneOut)) (hn : (r.map (fun lo => lo.1.f.lane)).Nodup)
    {lo : LaneIn × LaneOut} (hm : lo ∈ r) {f : Fibre} (hf : f.lane = lo.1.f.lane) :
    r.foldl (fun f lo => if f.lane = lo.1.f.lane then x.land lo.1 lo.2 f else f) f = x.land lo.1 lo.2 f := by
  induction r generalizing f with
  | nil => exact (List.not_mem_nil hm).elim
  | cons h t ih =>
    rw [List.map_cons, List.nodup_cons] at hn
    rcases List.mem_cons.mp hm with rfl | ht
    · rw [List.foldl_cons, if_pos hf]
      have key : ∀ (t : List (LaneIn × LaneOut)) (f : Fibre), (f.lane ∉ t.map (fun lo => lo.1.f.lane)) →
          t.foldl (fun f lo => if f.lane = lo.1.f.lane then x.land lo.1 lo.2 f else f) f = f := by
        intro t
        induction t with
        | nil => intro f _; rfl
        | cons h t ih =>
          intro f hf
          rw [List.map_cons, List.mem_cons, not_or] at hf
          rw [List.foldl_cons, if_neg hf.1]
          exact ih f hf.2
      apply key
      rw [Exec.land, Fibre.result_lane, hf]
      exact hn.1
    · rw [List.foldl_cons, if_neg]
      · exact ih hn.2 ht hf
      · intro he
        exact hn.1 (by rw [← he, hf]; exact List.mem_map_of_mem (f := fun lo : LaneIn × LaneOut => lo.1.f.lane) ht)

theorem foldl_land_other (x : Exec) (r : List (LaneIn × LaneOut)) {f : Fibre}
    (hf : f.lane ∉ r.map (fun lo => lo.1.f.lane)) :
    r.foldl (fun f lo => if f.lane = lo.1.f.lane then x.land lo.1 lo.2 f else f) f = f := by
  induction r generalizing f with
  | nil => rfl
  | cons h t ih =>
    rw [List.map_cons, List.mem_cons, not_or] at hf
    rw [List.foldl_cons, if_neg hf.1]
    exact ih hf.2

theorem foldl_land_lane (x : Exec) (r : List (LaneIn × LaneOut)) (f : Fibre) :
    (r.foldl (fun f lo => if f.lane = lo.1.f.lane then x.land lo.1 lo.2 f else f) f).lane = f.lane := by
  induction r generalizing f with
  | nil => rfl
  | cons h t ih =>
    rw [List.foldl_cons, ih]
    split
    · simp [Exec.land]
    · rfl

/-- A find by a key that a map keeps. -/
theorem find?_map_keep {α : Type} (key : α → Nat) (l : List α) (k : Nat) (u : α → α) (h : ∀ a, key (u a) = key a) :
    (l.map u).find? (fun a => key a = k) = (l.find? (fun a => key a = k)).map u := by
  induction l with
  | nil => rfl
  | cons a t ih =>
    rw [List.map_cons, List.find?_cons, List.find?_cons, h a, ih]
    cases decide (key a = k) <;> rfl

/-- The positions that an issue's results go to are destinations of the instruction. -/
theorem Exec.writes_places (x : Exec) (base : Nat) (ws : List Word) {p : Nat × Word} (h : p ∈ x.writes base ws) :
    p.1 ∈ x.g.places base x.instr.shape.dstRegs := by
  unfold Exec.writes at h
  obtain ⟨rw', hm, hq⟩ := List.mem_filterMap.mp h
  obtain ⟨q, hq1, hq2⟩ := Option.map_eq_some_iff.mp hq
  unfold Group.places
  rw [List.mem_filterMap]
  exact ⟨rw'.1, (List.of_mem_zip hm).1, by rw [hq1, ← hq2]⟩

/-- Reads of memory depend on memory, keys, owners, and the free values alone. -/
theorem readByte_congr {s t : State} (h1 : t.mem = s.mem) (h2 : t.unitKey = s.unitKey) (h3 : t.owner = s.owner)
    (h4 : t.scrambled = s.scrambled) (h5 : t.keyGen = s.keyGen) (h6 : t.dev = s.dev) (h7 : t.freeCtr = s.freeCtr)
    (who p : Nat) : (t.readByte who p).1 = (s.readByte who p).1 := by
  unfold State.readByte State.keyMark State.rawByte State.freeByte
  rw [h1, h2, h3, h4, h5, h6, h7]
  split
  · dsimp only
    split <;> rfl
  · rfl
  · rfl
  · dsimp only
    split
    · rfl
    · split <;> rfl

/-- A result, from what one warp has become. -/
theorem result_of {s t : State} {w : Warp} {x : List Fibre} {r : Fibre → Fibre} {fp : Fibre → BitVec 5} (W : Warp → Warp)
    (hW : ∀ v, (W v).wid = v.wid) (hslot : s.warp? w.wid = some w) (hwarps : t.warps = (s.onWarp w.wid W).warps)
    (own : ∀ f ∈ x, (W w).fibre? f.lane = some (r f))
    (others : ∀ l, (∀ f ∈ x, f.lane ≠ l) → (W w).fibre? l = w.fibre? l)
    (regs : W w = { w with fibres := (W w).fibres, active := (W w).active, queue := (W w).queue, mode := (W w).mode,
                           exempt := (W w).exempt, offered := (W w).offered,
                           fpst := x.foldl (fun m f => m ||| fp f) w.fpst })
    (memory : SameMemory s t) (units : SameUnits s t) : Result s t w x r fp := by
  have hw? : ∀ k, t.warp? k = if k = w.wid then (s.warp? k).map W else s.warp? k := by
    intro k
    have e : t.warp? k = (s.onWarp w.wid W).warp? k := by unfold State.warp?; rw [hwarps]
    rw [e, State.warp?_onWarp _ _ _ _ hW]
  refine ⟨?_, ?_, ⟨W w, ?_, regs⟩, ?_, memory, units⟩
  · intro f hf
    unfold State.fibre?
    rw [hw?, if_pos rfl, hslot]
    exact own f hf
  · intro l hl
    unfold State.fibre?
    rw [hw?, if_pos rfl, hslot]
    exact others l hl
  · rw [hw?, if_pos rfl, hslot]
    rfl
  · intro k hk
    rw [hw?, if_neg hk]

/-- Changes of one warp, and clocks that pass, leave memory and the units as they were. -/
theorem same_after (s : State) (w : Warp) (R u v : Warp → Warp) (n c : Nat) :
    SameMemory s (((State.onWarp { s.fresh.2.onWarp w.wid R with nextId := n } w.wid u).onWarp w.wid v).advanceClock c) ∧
      SameUnits s (((State.onWarp { s.fresh.2.onWarp w.wid R with nextId := n } w.wid u).onWarp w.wid v).advanceClock c) := by
  refine ⟨?_, ?_⟩
  · intro who p
    apply readByte_congr <;> rfl
  · constructor <;> rfl

/-- The outcome of an issue that gives each executing fibre its own results. -/
theorem land_result {s : State} {i : Instr} {w : Warp} {a : Active} {g : Group} {x e gp : List Fibre} {m : Meaning}
    (out : Fibre → LaneOut) (h : Issues s i w a g x e gp) (hf : i.shape.fs = none) (ho : NoOpenOperand i g x e)
    (hs : ∀ f ∈ w.bundle a, m.static w g f = none)
    (hc : ∀ l ∈ (s.issueExec w a g i x).lanes, m.check s.fresh.2 (s.issueExec w a g i x) l = none)
    (hr : m.room s.fresh.2 (s.issueExec w a g i x) = none)
    (hp : x ≠ [] → m.perform (s.issueExec w a g i x) s.fresh.2 = some ((x.map (fun f => (w.laneIn g i.shape f, out f))).foldl
      (fun s lo => s.landLane (s.issueExec w a g i x) lo.1 lo.2) s.fresh.2)) :
    ∃ t, s.issue i m = .next t ∧
      Result s t w x (fun f => (s.issueExec w a g i x).land (w.laneIn g i.shape f) (out f) f) (fun f => (out f).fp) := by
  have key : (if x.isEmpty then some s.fresh.2 else m.perform (s.issueExec w a g i x) s.fresh.2) =
      some ((x.map (fun f => (w.laneIn g i.shape f, out f))).foldl
        (fun s lo => s.landLane (s.issueExec w a g i x) lo.1 lo.2) s.fresh.2) := by
    cases x with
    | nil => rfl
    | cons f0 t => exact hp (List.cons_ne_nil f0 t)
  have hq : ∀ lo ∈ x.map (fun f => (w.laneIn g i.shape f, out f)),
      ∀ p ∈ (s.issueExec w a g i x).writes lo.1.base lo.2.dst, p.1 ∉ (s.issueExec w a g i x).g.openRegs lo.1.f.id := by
    intro lo hlo p hpw
    obtain ⟨f, hfx, rfl⟩ := List.mem_map.mp hlo
    exact ho f (List.mem_append_left e hfx) p.1 (Exec.writes_places _ _ _ hpw)
  have key := key.trans (congrArg some (landLanes_issue (s.issueExec w a g i x) rfl _ s.fresh.2 hq))
  have hslot := h.slot
  have hnd := h.nodup
  generalize hl : (x.map (fun f => (w.laneIn g i.shape f, out f))) = l at key
  have hlanes : l.map (fun lo => lo.1.f.lane) = x.map Fibre.lane := by
    rw [← hl, List.map_map]
    rfl
  have hfp : ∀ b, l.foldl (fun m lo => m ||| lo.2.fp) b = x.foldl (fun m f => m ||| (out f).fp) b := by
    intro b
    rw [← hl, List.foldl_map]
  obtain ⟨R, hR⟩ : ∃ R : Warp → Warp, R = fun v => { v with
      fpst := l.foldl (fun m lo => m ||| lo.2.fp) v.fpst,
      fibres := v.fibres.map (fun f => l.foldl (fun f lo =>
        if f.lane = lo.1.f.lane then (s.issueExec w a g i x).land lo.1 lo.2 f else f) f) } := ⟨_, rfl⟩
  have hRw : ∀ v, (R v).wid = v.wid := by rw [hR]; exact fun v => rfl
  have key : (if x.isEmpty then some s.fresh.2 else m.perform (s.issueExec w a g i x) s.fresh.2)
      = some (s.fresh.2.onWarp w.wid R) := by rw [hR]; exact key
  obtain ⟨n, q, hap⟩ := append_quiet (s.fresh.2.onWarp w.wid R) w a g i e gp hf
    (fun f hfe => ho f (List.mem_append_right x hfe))
  refine ⟨_, issue_next h hs hc hr key, ?_⟩
  unfold State.after
  rw [hap]
  refine result_of (fun v => ({ R v with queue := (R v).queue ++ q } : Warp).advance) ?_ hslot ?_ ?_ ?_ ?_ ?_ ?_
  · intro v
    rw [Warp.advance_wid]
    exact hRw v
  · show (((s.onWarp w.wid R).onWarp w.wid (fun v => { v with queue := v.queue ++ q })).onWarp w.wid Warp.advance).warps = _
    rw [State.onWarp_onWarp _ _ _ _ hRw, State.onWarp_onWarp]
    exact hRw
  · intro f hfx
    unfold Warp.fibre?
    rw [Warp.advance_fibres, hR]
    dsimp only
    rw [find?_map_keep Fibre.lane _ _ _ (fun f => foldl_land_lane _ _ _)]
    have hfind : w.fibres.find? (fun k => k.lane = f.lane) = some f := h.fibre hfx
    rw [hfind, Option.map_some]
    have hm : (w.laneIn g i.shape f, out f) ∈ l := by rw [← hl]; exact List.mem_map_of_mem hfx
    exact congrArg some (foldl_land_own _ l (by rw [hlanes]; exact hnd) hm rfl)
  · intro k hk
    unfold Warp.fibre?
    rw [Warp.advance_fibres, hR]
    dsimp only
    rw [find?_map_keep Fibre.lane _ _ _ (fun f => foldl_land_lane _ _ _)]
    cases hfind : w.fibres.find? (fun f => f.lane = k) with
    | none => rfl
    | some f =>
      have hfl : f.lane = k := by simpa using List.find?_some hfind
      rw [Option.map_some, foldl_land_other]
      rw [hlanes, hfl]
      intro hmem
      obtain ⟨f', hf', e'⟩ := List.mem_map.mp hmem
      exact hk f' hf' e'
  · rw [Warp.advance_eq, hR]
    simp only [hfp]
  · exact (same_after s w R _ _ n _).1
  · exact (same_after s w R _ _ n _).2

/-! ## Instructions that each fibre computes alone -/

/-- What an issue's results make of a fibre depends on the instruction, the group and the fibre alone. -/
theorem land_issueExec (s : State) (w : Warp) (a : Active) (g : Group) (i : Instr) (x : List Fibre) (l : LaneIn) (o : LaneOut)
    (f : Fibre) : (s.issueExec w a g i x).land l o f = f.result
      ((i.shape.dstRegs.zip o.dst).filterMap (fun rw => (g.place l.base rw.1).map (fun p => (p, rw.2)))) i.shape.ccw o.cc
      o.draws := rfl

/-- An instruction whose meaning is `vecG` completes with its results. -/
theorem completes_vecG {i : Instr} {u : Group → LaneIn → LaneOut} {r : Group → Fibre → Fibre} {fp : Group → Fibre → BitVec 5}
    (he : ∀ s, exec i s = s.issue i (vecG u)) (hf : i.shape.fs = none)
    (hr : ∀ (w : Warp) (g : Group) (f : Fibre), f.result ((i.shape.dstRegs.zip (u g (w.laneIn g i.shape f)).dst).filterMap
      (fun rw => (g.place f.b rw.1).map (fun p => (p, rw.2)))) i.shape.ccw (u g (w.laneIn g i.shape f)).cc
      (u g (w.laneIn g i.shape f)).draws = r g f)
    (hp : ∀ (w : Warp) (g : Group) (f : Fibre), (u g (w.laneIn g i.shape f)).fp = fp g f) : CompletesFp i r fp := by
  intro s w a g x e gp h ho
  obtain ⟨t, ht, hres⟩ := land_result (m := vecG u) (fun f => u g (w.laneIn g i.shape f)) h hf ho (fun _ _ => rfl)
    (fun _ _ => rfl) rfl (fun _ => by
      show some _ = some _
      rw [List.foldl_map]
      congr 1
      show List.foldl _ _ (x.map _) = _
      rw [List.foldl_map]
      rfl)
  refine ⟨t, by rw [he, ht], ?_⟩
  have e1 : (fun f => (s.issueExec w a g i x).land (w.laneIn g i.shape f) (u g (w.laneIn g i.shape f)) f) = r g := by
    funext f
    exact (land_issueExec ..).trans (hr w g f)
  have e2 : (fun f => (u g (w.laneIn g i.shape f)).fp) = fp g := funext (fun f => hp w g f)
  rw [e1, e2] at hres
  exact hres

/-- An instruction whose meaning is `vec` completes with its results. -/
theorem completes_vec {i : Instr} {u : LaneIn → LaneOut} {r : Group → Fibre → Fibre} {fp : Group → Fibre → BitVec 5}
    (he : ∀ s, exec i s = s.issue i (vec u)) (hf : i.shape.fs = none)
    (hr : ∀ (w : Warp) (g : Group) (f : Fibre), f.result ((i.shape.dstRegs.zip (u (w.laneIn g i.shape f)).dst).filterMap
      (fun rw => (g.place f.b rw.1).map (fun p => (p, rw.2)))) i.shape.ccw (u (w.laneIn g i.shape f)).cc
      (u (w.laneIn g i.shape f)).draws = r g f)
    (hp : ∀ (w : Warp) (g : Group) (f : Fibre), (u (w.laneIn g i.shape f)).fp = fp g f) : CompletesFp i r fp :=
  completes_vecG (u := fun _ => u) he hf hr hp

theorem puts_rngCtr (f : Fibre) (ws : List (Nat × Word)) : (f.puts ws).rngCtr = f.rngCtr := by
  unfold Fibre.puts
  induction ws generalizing f with
  | nil => rfl
  | cons h t ih => exact ih (f.put h.1 h.2)

/-- Results that take no draw. -/
theorem result_nodraw (f : Fibre) (ws : List (Nat × Word)) (n : CcW) (c : Option CC) :
    f.result ws n c 0 = match n, c with
      | some n, some c => (f.puts ws).setCc n c
      | _, _ => f.puts ws := by
  have e : ∀ q : Fibre, q.rngCtr = f.rngCtr → ({ q with rngCtr := f.rngCtr + BitVec.ofNat 64 0 } : Fibre) = q := by
    intro q hq
    cases q
    simp_all
  unfold Fibre.result
  dsimp only
  rw [e _ (puts_rngCtr f ws)]
  all_goals (cases n <;> cases c <;> rfl)

/-- The words of one register. -/
theorem puts_one (f : Fibre) (g : Group) (d : Reg) (v : Word) :
    f.puts (([d].zip [v]).filterMap (fun rw => (g.place f.b rw.1).map (fun p => (p, rw.2)))) = f.gets g d v := by
  unfold Fibre.gets Fibre.writeAt
  cases hp : g.place f.b d <;> simp [hp, Fibre.puts]

/-- Results of one register, with flags for the CC register that the instruction names. -/
theorem result_one (f : Fibre) (g : Group) (d : Reg) (v : Word) (n : CcW) (c : CC) :
    f.result (([d].zip [v]).filterMap (fun rw => (g.place f.b rw.1).map (fun p => (p, rw.2)))) n (some c) 0
      = (f.gets g d v).flagged n c := by
  rw [result_nodraw, puts_one]
  cases n <;> rfl

/-- Results of one register, with no flags. -/
theorem result_plain (f : Fibre) (g : Group) (d : Reg) (v : Word) (n : CcW) :
    f.result (([d].zip [v]).filterMap (fun rw => (g.place f.b rw.1).map (fun p => (p, rw.2)))) n none 0 = f.gets g d v := by
  rw [result_nodraw, puts_one]
  cases n <;> rfl

theorem put_b (f : Fibre) (p : Nat) (v : Word) : (f.put p v).b = f.b := rfl
@[simp] theorem gets_b (f : Fibre) (g : Group) (d : Reg) (v : Word) : (f.gets g d v).b = f.b := by
  unfold Fibre.gets Fibre.writeAt
  split <;> rfl

/-- Results of a register pair, low word first, with flags. -/
theorem result_pair (f : Fibre) (g : Group) (d d1 : Reg) (v v1 : Word) (n : CcW) (c : CC) :
    f.result (([d, d1].zip [v, v1]).filterMap (fun rw => (g.place f.b rw.1).map (fun p => (p, rw.2)))) n (some c) 0
      = ((f.gets g d v).gets g d1 v1).flagged n c := by
  rw [result_nodraw]
  have e : f.puts (([d, d1].zip [v, v1]).filterMap (fun rw => (g.place f.b rw.1).map (fun p => (p, rw.2))))
      = (f.gets g d v).gets g d1 v1 := by
    rw [Fibre.gets, Fibre.writeAt, gets_b]
    unfold Fibre.gets Fibre.writeAt
    cases h0 : g.place f.b d <;> cases h1 : g.place f.b d1 <;> simp [h0, h1, Fibre.puts]
  rw [e]
  cases n <;> rfl

/-- Results of a register pair, with no flags. -/
theorem result_pair_plain (f : Fibre) (g : Group) (d d1 : Reg) (v v1 : Word) (n : CcW) :
    f.result (([d, d1].zip [v, v1]).filterMap (fun rw => (g.place f.b rw.1).map (fun p => (p, rw.2)))) n none 0
      = (f.gets g d v).gets g d1 v1 := by
  rw [result_nodraw]
  have e : f.puts (([d, d1].zip [v, v1]).filterMap (fun rw => (g.place f.b rw.1).map (fun p => (p, rw.2))))
      = (f.gets g d v).gets g d1 v1 := by
    rw [Fibre.gets, Fibre.writeAt, gets_b]
    unfold Fibre.gets Fibre.writeAt
    cases h0 : g.place f.b d <;> cases h1 : g.place f.b d1 <;> simp [h0, h1, Fibre.puts]
  rw [e]
  cases n <;> rfl

end Sys2Proof.Machine
end

