-- ==== Sys2Proof/Laws/Memory.lean ====
section
/-! SUPPORT. Sparse tables and memory: what a read after a write gives, and that every write keeps the canonical form. -/

namespace Sys2Proof.Machine

/-! ## Sparse tables -/

section Tables

variable {α : Type} [DecidableEq α] (d : α)

/-- A canonical table from a bound on is canonical from any smaller bound, or from none. -/
theorem swfFrom_weaken {l : Sparse α} {lo lo' : Nat} (h : lo' ≤ lo) (hw : swfFrom d (some lo) l = true) :
    swfFrom d (some lo') l = true := by
  cases l with
  | nil => rfl
  | cons e t =>
    obtain ⟨k, v⟩ := e
    simp only [swfFrom, Bool.and_eq_true, decide_eq_true_eq] at hw ⊢
    exact ⟨⟨by omega, hw.1.2⟩, hw.2⟩

/-- A canonical table from a bound on is canonical. -/
theorem swf_of_swfFrom {l : Sparse α} {lo : Nat} (hw : swfFrom d (some lo) l = true) : swf d l = true := by
  cases l with
  | nil => rfl
  | cons e t =>
    obtain ⟨k, v⟩ := e
    simp only [swf, swfFrom, Bool.and_eq_true, decide_eq_true_eq] at hw ⊢
    exact ⟨hw.1.2, hw.2⟩

/-- A number below every listed one reads as the default. -/
theorem sget_below {l : Sparse α} {lo k : Nat} (hw : swfFrom d (some lo) l = true) (hk : k ≤ lo) : sget d l k = d := by
  induction l generalizing lo with
  | nil => rfl
  | cons e t ih =>
    obtain ⟨k', v'⟩ := e
    simp only [swfFrom, Bool.and_eq_true, decide_eq_true_eq] at hw
    rw [sget, if_neg (by omega)]
    exact ih hw.2 (by omega)

/-- A write above a bound keeps the form from that bound on. -/
theorem swfFrom_sset {l : Sparse α} {lo k : Nat} (v : α) (hw : swfFrom d (some lo) l = true) (hk : lo < k) :
    swfFrom d (some lo) (sset d l k v) = true := by
  induction l generalizing lo with
  | nil =>
    unfold sset
    split <;> simp_all [swfFrom]
  | cons e t ih =>
    obtain ⟨k', v'⟩ := e
    have hw' := hw
    simp only [swfFrom, Bool.and_eq_true, decide_eq_true_eq] at hw
    unfold sset
    split
    · split
      · exact hw'
      · simp only [swfFrom, Bool.and_eq_true, decide_eq_true_eq]
        exact ⟨⟨hk, by assumption⟩, ⟨by assumption, hw.1.2⟩, hw.2⟩
    · split
      · next h1 h2 =>
        subst h2
        split
        · exact swfFrom_weaken d (Nat.le_of_lt hw.1.1) hw.2
        · simp only [swfFrom, Bool.and_eq_true, decide_eq_true_eq]
          exact ⟨⟨hk, by assumption⟩, hw.2⟩
      · simp only [swfFrom, Bool.and_eq_true, decide_eq_true_eq]
        exact ⟨hw.1, ih hw.2 (by omega)⟩

/-- A write keeps the canonical form. -/
theorem swf_sset {l : Sparse α} (hw : swf d l = true) (k : Nat) (v : α) : swf d (sset d l k v) = true := by
  cases l with
  | nil =>
    unfold sset
    split <;> simp_all [swf, swfFrom]
  | cons e t =>
    obtain ⟨k', v'⟩ := e
    have hw' := hw
    simp only [swf, swfFrom, Bool.and_eq_true, decide_eq_true_eq] at hw
    unfold sset
    split
    · split
      · exact hw'
      · simp only [swf, swfFrom, Bool.and_eq_true, decide_eq_true_eq]
        exact ⟨by assumption, ⟨by assumption, hw.1⟩, hw.2⟩
    · split
      · next h1 h2 =>
        subst h2
        split
        · exact swf_of_swfFrom d hw.2
        · simp only [swf, swfFrom, Bool.and_eq_true, decide_eq_true_eq]
          exact ⟨by assumption, hw.2⟩
      · simp only [swf, swfFrom, Bool.and_eq_true, decide_eq_true_eq]
        exact ⟨hw.1, swfFrom_sset d v hw.2 (by omega)⟩

/-- A write leaves every other number as it was. -/
theorem sget_sset_ne (l : Sparse α) {k j : Nat} (v : α) (h : j ≠ k) : sget d (sset d l k v) j = sget d l j := by
  induction l with
  | nil =>
    unfold sset
    split
    · rfl
    · simp [sget, Ne.symm h]
  | cons e t ih =>
    obtain ⟨k', v'⟩ := e
    unfold sset
    split
    · split
      · rfl
      · rw [sget, if_neg (Ne.symm h)]
    · split
      · next h1 h2 =>
        subst h2
        split
        · rw [sget, if_neg (Ne.symm h)]
        · simp [sget, Ne.symm h]
      · simp only [sget, ih]

/-- A read of what was written gives the value written. -/
theorem sget_sset_same {l : Sparse α} (hw : swf d l = true) (k : Nat) (v : α) : sget d (sset d l k v) k = v := by
  have go : ∀ (t : Sparse α) (lo : Nat), swfFrom d (some lo) t = true → lo < k → sget d (sset d t k v) k = v := by
    intro t
    induction t with
    | nil => intro lo _ _; unfold sset; split <;> simp_all [sget]
    | cons e t ih =>
      obtain ⟨k', v'⟩ := e
      intro lo hw hk
      have hw' := hw
      simp only [swfFrom, Bool.and_eq_true, decide_eq_true_eq] at hw
      unfold sset
      split
      · split
        · next h1 h2 =>
          rw [sget, if_neg (by omega), h2]
          exact sget_below d hw.2 (by omega)
        · simp [sget]
      · split
        · next h1 h2 =>
          subst h2
          split
          · next h3 => rw [h3]; exact sget_below d hw.2 (Nat.le_refl _)
          · simp [sget]
        · rw [sget, if_neg (by omega)]
          exact ih k' hw.2 (by omega)
  cases l with
  | nil => unfold sset; split <;> simp_all [sget]
  | cons e t =>
    obtain ⟨k', v'⟩ := e
    have hw' := hw
    simp only [swf, swfFrom, Bool.and_eq_true, decide_eq_true_eq] at hw
    unfold sset
    split
    · split
      · next h1 h2 =>
        rw [sget, if_neg (by omega), h2]
        exact sget_below d hw.2 (by omega)
      · simp [sget]
    · split
      · next h1 h2 =>
        subst h2
        split
        · next h3 => rw [h3]; exact sget_below d hw.2 (Nat.le_refl _)
        · simp [sget]
      · rw [sget, if_neg (by omega)]
        exact go t k' hw.2 (by omega)

/-- The canonical form from a bound on, said of the list: numbers above the bound that rise strictly, no default value. -/
theorem swfFrom_iff (l : Sparse α) (lo : Nat) :
    swfFrom d (some lo) l = true ↔ (∀ e ∈ l, lo < e.1) ∧ (l.map Prod.fst).Pairwise (· < ·) ∧ ∀ e ∈ l, e.2 ≠ d := by
  induction l generalizing lo with
  | nil => simp [swfFrom]
  | cons e t ih =>
    obtain ⟨k, v⟩ := e
    simp only [swfFrom, Bool.and_eq_true, decide_eq_true_eq, ih, List.map_cons, List.pairwise_cons, List.mem_cons,
      List.mem_map, forall_eq_or_imp]
    constructor
    · rintro ⟨⟨h1, h2⟩, h3, h4, h5⟩
      exact ⟨⟨h1, fun e he => Nat.lt_trans h1 (h3 e he)⟩, ⟨by rintro _ ⟨e, he, rfl⟩; exact h3 e he, h4⟩, h2, h5⟩
    · rintro ⟨⟨h1, -⟩, ⟨h3, h4⟩, h2, h5⟩
      exact ⟨⟨h1, h2⟩, fun e he => h3 _ ⟨e, he, rfl⟩, h4, h5⟩

/-- The canonical form said of the list: numbers that rise strictly, and no default value. -/
theorem swf_iff (l : Sparse α) : swf d l = true ↔ (l.map Prod.fst).Pairwise (· < ·) ∧ ∀ e ∈ l, e.2 ≠ d := by
  cases l with
  | nil => simp [swf, swfFrom]
  | cons e t =>
    obtain ⟨k, v⟩ := e
    simp only [swf, swfFrom, Bool.and_eq_true, decide_eq_true_eq, swfFrom_iff, List.map_cons, List.pairwise_cons,
      List.mem_cons, List.mem_map, forall_eq_or_imp]
    constructor
    · rintro ⟨h2, h3, h4, h5⟩
      exact ⟨⟨by rintro _ ⟨e, he, rfl⟩; exact h3 e he, h4⟩, h2, h5⟩
    · rintro ⟨⟨h3, h4⟩, h2, h5⟩
      exact ⟨h2, fun e he => h3 _ ⟨e, he, rfl⟩, h4, h5⟩

/-- Entries left out keep the canonical form. -/
theorem swf_filter {l : Sparse α} (hw : swf d l = true) (p : Nat × α → Bool) : swf d (l.filter p) = true := by
  rw [swf_iff] at hw ⊢
  exact ⟨hw.1.sublist (List.filter_sublist.map Prod.fst), fun e he => hw.2 e (List.mem_filter.1 he).1⟩

/-- A range of entries copied over another range keeps the canonical form. -/
theorem swf_copyRange {l : Sparse α} (hw : swf d l = true) (lo at_ n : Nat) : swf d (copyRange l lo at_ n) = true := by
  rw [swf_iff] at hw ⊢
  obtain ⟨hp, hd⟩ := hw
  have hsub (p : Nat × α → Bool) : ((l.filter p).map Prod.fst).Pairwise (· < ·) := hp.sublist (List.filter_sublist.map Prod.fst)
  constructor
  · simp only [copyRange, List.map_append, List.pairwise_append, List.map_map]
    refine ⟨⟨hsub _, ?_, ?_⟩, hsub _, ?_⟩
    · have hm := hsub (fun e => lo ≤ e.1 && e.1 < lo + n)
      rw [List.pairwise_map] at hm ⊢
      refine hm.imp_of_mem ?_
      intro a b ha hb hab
      simp only [List.mem_filter, Bool.and_eq_true, decide_eq_true_eq] at ha hb
      simp only [Function.comp_apply]
      omega
    · simp only [List.mem_map, List.mem_filter, Function.comp_apply, decide_eq_true_eq, Bool.and_eq_true]
      rintro _ ⟨a, ⟨-, ha⟩, rfl⟩ _ ⟨b, ⟨-, hb⟩, rfl⟩
      omega
    · simp only [List.mem_append, List.mem_map, List.mem_filter, Function.comp_apply, decide_eq_true_eq, Bool.and_eq_true]
      rintro _ (⟨a, ⟨-, ha⟩, rfl⟩ | ⟨a, ⟨-, ha⟩, rfl⟩) _ ⟨b, ⟨-, hb⟩, rfl⟩ <;> omega
  · simp only [copyRange, List.mem_append, List.mem_map, List.mem_filter]
    rintro e ((⟨he, -⟩ | ⟨x, ⟨hx, -⟩, rfl⟩) | ⟨he, -⟩)
    · exact hd e he
    · exact hd x hx
    · exact hd e he

end Tables

/-! ## Memory -/

/-- Free bytes change the counter alone. -/
theorem State.freeBytes_mem (n : Nat) (s : State) : (State.freeBytes n s).2.mem = s.mem := by
  induction n generalizing s with
  | zero => rfl
  | succ n ih => exact ih s.freeByte.2

/-- Free bytes are as many as were asked for. -/
theorem State.freeBytes_length (n : Nat) (s : State) : (State.freeBytes n s).1.length = n := by
  induction n generalizing s with
  | zero => rfl
  | succ n ih => exact congrArg Nat.succ (ih s.freeByte.2)

/-- One stored byte keeps memory's canonical form. -/
theorem State.setRaw_wf {s : State} (h : s.mem.wf = true) (a : Nat) (b : Byte) : (s.setRaw a b).mem.wf = true :=
  swf_sset unlistedByte h a b

/-- Stored bytes keep memory's canonical form. -/
theorem State.setRaws_wf {s : State} (h : s.mem.wf = true) (a : Nat) (bs : List Byte) : (s.setRaws a bs).mem.wf = true := by
  induction bs generalizing s a with
  | nil => exact h
  | cons b bs ih => exact ih (State.setRaw_wf h a b) _

/-- Bytes stored in host memory keep memory's canonical form. -/
theorem State.setHosts_wf {s : State} (h : s.mem.wf = true) (a : Nat) (bs : List Byte) : (s.setHosts a bs).mem.wf = true := by
  induction bs generalizing s a with
  | nil => exact h
  | cons b bs ih => exact ih (State.setRaw_wf h _ b) _

/-- A claim of a unit or a granule keeps memory's canonical form. -/
theorem State.claim_wf {s : State} (h : s.mem.wf = true) (who a : Nat) : (s.claim who a).mem.wf = true := by
  unfold State.claim
  split
  · dsimp only
    split
    · exact h
    · split
      · exact h
      · exact State.setRaws_wf (by rw [State.freeBytes_mem]; exact h) _ _
  · exact h
  · exact h
  · dsimp only
    split
    · exact h
    · split
      · apply State.setRaws_wf
        exact h
      · split
        · exact State.setRaws_wf (by rw [State.freeBytes_mem]; exact h) _ _
        · exact h

/-- A write of one byte keeps memory's canonical form. -/
theorem State.writeByte_wf {s : State} (h : s.mem.wf = true) (who a : Nat) (b : Byte) :
    (s.writeByte who a b).mem.wf = true :=
  State.setRaw_wf (State.claim_wf h who a) a b

/-- A write of bytes keeps memory's canonical form. -/
theorem State.writeBytes_wf {s : State} (h : s.mem.wf = true) (who a : Nat) (bs : List Byte) :
    (s.writeBytes who a bs).mem.wf = true := by
  induction bs generalizing s a with
  | nil => exact h
  | cons b bs ih => exact ih (State.writeByte_wf h who a b) _

/-- A frame copied whole keeps memory's canonical form. -/
theorem State.copyFrame_wf {s : State} (h : s.mem.wf = true) (key src dst : Nat) : (s.copyFrame key src dst).mem.wf = true :=
  swf_copyRange unlistedByte h src dst 65536

/-- Memory after reset has the canonical form. -/
theorem reset_mem_wf : State.reset.mem.wf = true := rfl

/-- A read of one byte leaves memory as it was. -/
theorem State.readByte_mem (s : State) (who a : Nat) : (s.readByte who a).2.mem = s.mem := by
  unfold State.readByte
  split
  · dsimp only; split <;> rfl
  · rfl
  · rfl
  · dsimp only; split
    · rfl
    · split <;> rfl

/-- A read of bytes leaves memory as it was. -/
theorem State.readBytes_mem (s : State) (who a n : Nat) : (s.readBytes who a n).2.mem = s.mem := by
  induction n generalizing s a with
  | zero => rfl
  | succ n ih => simp only [State.readBytes, ih, State.readByte_mem]

/-- A stored byte is read where it was stored. -/
theorem State.rawByte_setRaw_same {s : State} (h : s.mem.wf = true) (a : Nat) (b : Byte) : (s.setRaw a b).rawByte a = b :=
  sget_sset_same unlistedByte h a b

/-- A stored byte leaves every other address as it was. -/
theorem State.rawByte_setRaw_ne (s : State) {a c : Nat} (b : Byte) (h : c ≠ a) : (s.setRaw a b).rawByte c = s.rawByte c :=
  sget_sset_ne unlistedByte s.mem b h

/-- Whether the walker reads a byte at an address without changing the state: the address is mapped to DRAM that the leaf's key
decrypts, or to nothing. -/
def State.walkerSees (s : State) (cn va : Nat) (b : Byte) : Bool :=
  match s.walkerByte? cn va with
  | some (pa, k) => storage pa = .dram && (sget 0 s.unitKey (pa / 16) = s.keyMark k
      || (sget 0 s.unitKey (pa / 16) = 0 && !s.scrambled.contains (pa / 65536))) && s.rawByte pa = b
  | none => b = 0

/-- A read by the walker, byte by byte: where each byte is seen, the list is read and the state stays as it is. -/
theorem State.walkerRead_eq (s : State) (cn : Nat) : ∀ (bs : List Byte) (va : Nat),
    (bs.zipIdx.all (fun x => s.walkerSees cn (va + x.2) x.1)) = true → s.walkerRead cn va bs.length = (bs, s) := by
  intro bs
  induction bs with
  | nil => intro va _; rfl
  | cons b bs ih =>
    intro va h
    have h0 : s.walkerSees cn va b = true := by
      have := List.all_eq_true.mp h (b, 0) (by simp [List.zipIdx_cons])
      simpa using this
    have h1 : bs.zipIdx.all (fun x => s.walkerSees cn (va + 1 + x.2) x.1) = true := by
      rw [List.zipIdx_cons, List.all_cons, Bool.and_eq_true, List.zipIdx_succ] at h
      rw [List.all_map] at h
      refine List.all_eq_true.mpr fun x hx => ?_
      have := List.all_eq_true.mp h.2 x hx
      simpa [Nat.add_assoc, Nat.add_comm, Nat.add_left_comm] using this
    unfold State.walkerSees at h0
    rw [List.length_cons, State.walkerRead]
    cases hw : s.walkerByte? cn va with
    | none =>
      rw [hw] at h0
      simp only [ih _ h1]
      rw [of_decide_eq_true h0]
    | some p =>
      obtain ⟨pa, k⟩ := p
      rw [hw] at h0
      simp only [Bool.and_eq_true, Bool.or_eq_true, decide_eq_true_eq, Bool.not_eq_true'] at h0
      have e : s.readByte k pa = (b, s) := by
        simp only [State.readByte, h0.1.1]
        rw [if_pos (by simpa using h0.1.2), h0.2]
      simp only [e, ih _ h1]

end Sys2Proof.Machine
end

