-- ==== Sys2Proof/Laws/PerInstr.lean ====
section
/-! SUPPORT. Decoding undoes encoding, one instruction at a time: the statement for every constructor of `Instr`, and the
lemmas about the codes of registers, guards and fields that it rests on. -/

namespace Sys2Proof

/-- A register code read back. -/
@[simp] theorem Reg.ofCode_code (r : Reg) : Reg.ofCode r.code = r := by
  have e (n : Nat) (h : n < 1024) : (BitVec.ofNat 10 n).toNat = n := by
    rw [BitVec.toNat_ofNat]
    exact Nat.mod_eq_of_lt h
  cases r with
  | v k =>
    have h := k.isLt
    have e1 := e k.val (by omega)
    unfold Reg.ofCode Reg.code
    rw [dif_pos (by rw [e1]; omega)]
    exact congrArg Reg.v (Fin.ext e1)
  | x k =>
    have h := k.isLt
    have e1 := e (608 + k.val) (by omega)
    unfold Reg.ofCode Reg.code
    rw [dif_neg (by rw [e1]; omega), dif_pos (by rw [e1]; omega)]
    exact congrArg Reg.x (Fin.ext (by simp only [e1]; omega))
  | vz => rfl
  | illegal k =>
    have h := k.isLt
    have e1 := e (640 + k.val) (by omega)
    unfold Reg.ofCode Reg.code
    rw [dif_neg (by rw [e1]; omega), dif_neg (by rw [e1]; omega), dif_pos (by rw [e1]; omega)]
    exact congrArg Reg.illegal (Fin.ext (by simp only [e1]; omega))

/-- A guard code read back. -/
@[simp] theorem Guard.ofCode_code (g : Guard) : Guard.ofCode g.code = g := by
  obtain ⟨n, c⟩ := g
  cases c <;> revert n <;> decide

end Sys2Proof

namespace Sys2Proof.Laws.RoundTrip

open Sys2Proof

/-- The fields and the short word of a well-formed instruction decode to it. -/
def Statement (i : Instr) : Prop :=
  i.wf = true → (∀ w, i.short = some w → decodeShort w = some i) ∧ (∀ f, i.fields = some f → decode64 f = some i)

/-- A term with no encoding. -/
theorem noCode {i : Instr} (hs : i.short = none) (hf : i.fields = none) : Statement i := fun _ =>
  ⟨fun _ h => (by rw [hs] at h; cases h), fun _ h => (by rw [hf] at h; cases h)⟩

/-- A short instruction. -/
theorem ofShort {i : Instr} {w : Word} (hs : i.short = some w) (hf : i.fields = none) (hd : decodeShort w = some i) :
    Statement i := fun _ =>
  ⟨fun _ h => (by rw [hs] at h; cases h; exact hd), fun _ h => (by rw [hf] at h; cases h)⟩

/-- An instruction of the 64- and 96-bit formats. -/
theorem ofFields {i : Instr} (hs : i.short = none) (hd : i.wf = true → ∀ f, i.fields = some f → decode64 f = some i) :
    Statement i := fun hw =>
  ⟨fun _ h => (by rw [hs] at h; cases h), hd hw⟩

/-! ## The checks of a well-formed instruction -/

theorem check1 {b : Bool} {e : IllFormed} (h : (firstFailure [(b, e)]).isNone = true) : b = true := by
  cases b
  · cases h
  · rfl

theorem check2 {b c : Bool} {e k : IllFormed} (h : (firstFailure [(b, e), (c, k)]).isNone = true) :
    b = true ∧ c = true := by
  cases b <;> cases c <;> first | exact ⟨rfl, rfl⟩ | cases h

theorem check3 {b c d : Bool} {e k l : IllFormed} (h : (firstFailure [(b, e), (c, k), (d, l)]).isNone = true) :
    b = true ∧ c = true ∧ d = true := by
  cases b <;> cases c <;> cases d <;> first | exact ⟨rfl, rfl, rfl⟩ | cases h

/-! ## The modifier byte -/

/-- `w` bits of a modifier byte from bit `lo`. -/
def modsOf (m : BitVec 8) (lo w : Nat) : Nat := m.toNat / 2 ^ lo % 2 ^ w

@[simp] theorem mods_eq (f : F64) (lo w : Nat) : f.mods lo w = modsOf f.m lo w := rfl

theorem modsOf_modByte {n : Nat} (h : n < 256) (lo w : Nat) : modsOf (modByte n) lo w = n / 2 ^ lo % 2 ^ w := by
  unfold modsOf modByte
  rw [BitVec.toNat_ofNat, Nat.mod_eq_of_lt h]

@[simp] theorem modsOf_zero (lo w : Nat) : modsOf 0#8 lo w = 0 := by simp [modsOf]

/-- The CC write of three bits. -/
def ccwOf (n : Nat) : Option CcW :=
  match n with
  | 0 => some none
  | 4 => some (some 0)
  | 5 => some (some 1)
  | 6 => some (some 2)
  | 7 => some (some 3)
  | _ => none

@[simp] theorem ccw_eq (f : F64) : f.ccw = ccwOf (modsOf f.m 5 3) := rfl
@[simp] theorem forkCc_eq (f : F64) : f.forkCc = ccwOf f.m.toNat := rfl

@[simp] theorem ccwOf_code (w : CcW) : ccwOf (ccCode w) = some w := by
  obtain _ | ⟨_ | _ | _ | _ | n, h⟩ := w <;> first | rfl | omega

theorem ccCode_lt (w : CcW) : ccCode w < 8 := by
  cases w with
  | none => decide
  | some n => have := n.isLt; simp only [ccCode]; omega

@[simp] theorem toNat_beq_one (b : Bool) : (b.toNat == 1) = b := by cases b <;> rfl
@[simp] theorem modByte_toNat_bool (b : Bool) : (modByte b.toNat).toNat = b.toNat := by cases b <;> rfl

@[simp] theorem Rnd_ofCode_code (r : Rnd) : Rnd.ofCode r.code = some r := by cases r <;> rfl
theorem Rnd_code_lt (r : Rnd) : r.code < 8 := by cases r <;> decide
@[simp] theorem Scope_ofCode_code (r : Scope) : Scope.ofCode r.code = some r := by cases r <;> rfl
theorem Scope_code_lt (r : Scope) : r.code < 8 := by cases r <;> decide
@[simp] theorem Space_ofCode_code (r : Space) : Space.ofCode r.code = r := by cases r <;> rfl
theorem Space_code_lt (r : Space) : r.code < 4 := by cases r <;> decide
@[simp] theorem Space3_ofCode_code (r : Space3) : Space3.ofCode r.code = some r := by cases r <;> rfl
theorem Space3_code_lt (r : Space3) : r.code < 4 := by cases r <;> decide
@[simp] theorem WaitCmp_ofCode_code (r : WaitCmp) : WaitCmp.ofCode r.code = some r := by cases r <;> rfl
theorem WaitCmp_code_lt (r : WaitCmp) : r.code < 8 := by cases r <;> decide
@[simp] theorem Span_ofCode_code (r : Span) : Span.ofCode r.code = r := by cases r <;> rfl
theorem Span_code_lt (r : Span) : r.code < 4 := by cases r <;> decide
@[simp] theorem Cond_ofCode_code (r : Cond) : Cond.ofCode r.code = r := by cases r <;> rfl
theorem Cond_code_lt (r : Cond) : r.code < 16 := by cases r <;> decide
@[simp] theorem VoteOp_ofCode_code (r : VoteOp) : VoteOp.ofCode r.code = some r := by cases r <;> rfl
theorem VoteOp_code_lt (r : VoteOp) : r.code < 8 := by cases r <;> decide
@[simp] theorem TopkType_ofCode_code (r : TopkType) : TopkType.ofCode r.code = some r := by cases r <;> rfl
theorem TopkType_code_lt (r : TopkType) : r.code < 4 := by cases r <;> decide
@[simp] theorem Width_ofCode_code (r : Width) : Width.ofCode r.code = some r := by cases r <;> rfl
theorem Width_code_lt (r : Width) : r.code < 8 := by cases r <;> decide
@[simp] theorem AtomOp_ofCode_code (r : AtomOp) : AtomOp.ofCode r.code = some r := by cases r <;> rfl
theorem AtomOp_code_lt (r : AtomOp) : r.code < 32 := by cases r <;> decide
@[simp] theorem MemOrder_ofCode_code (r : MemOrder) : MemOrder.ofCode r.code = r := by cases r <;> rfl
theorem MemOrder_code_lt (r : MemOrder) : r.code < 4 := by cases r <;> decide
@[simp] theorem FenceKind_ofCode_code (r : FenceKind) : FenceKind.ofCode r.code = r := by cases r <;> rfl
theorem FenceKind_code_lt (r : FenceKind) : r.code < 4 := by cases r <;> decide
@[simp] theorem CopyDir_ofCode_code (r : CopyDir) : CopyDir.ofCode r.code = r := by cases r <;> rfl
theorem CopyDir_code_lt (r : CopyDir) : r.code < 8 := by cases r <;> decide
@[simp] theorem FreshTier_ofCode_code (r : FreshTier) : FreshTier.ofCode r.code = some r := by cases r <;> rfl
theorem FreshTier_code_lt (r : FreshTier) : r.code < 4 := by cases r <;> decide
@[simp] theorem MmaFmt_ofCode_code (r : MmaFmt) : MmaFmt.ofCode r.code = some r := by cases r <;> rfl
theorem MmaFmt_code_lt (r : MmaFmt) : r.code < 8 := by cases r <;> decide
@[simp] theorem TileFmt_ofCode_code (r : TileFmt) : TileFmt.ofCode r.code = some r := by cases r <;> rfl
theorem TileFmt_code_lt (r : TileFmt) : r.code < 4 := by cases r <;> decide
@[simp] theorem KvD_ofCode_code (r : KvD) : KvD.ofCode r.code = some r := by cases r <;> rfl
theorem KvD_code_lt (r : KvD) : r.code < 4 := by cases r <;> decide
@[simp] theorem modeBit_code (p : Option Bool) : modeBit (modeCode p) = some p := by rcases p with _ | _ | _ <;> rfl
theorem modeCode_lt (p : Option Bool) : modeCode p < 4 := by rcases p with _ | _ | _ <;> decide

/-! ## The operand fields -/

@[simp] theorem srcB_enc (gd : BitVec 6) (op : BitVec 8) (d a c : BitVec 10) (m : BitVec 8) (b : Src) :
    F64.srcB ⟨gd, op, d, a, b.enc.1, c, m, b.enc.2⟩ = some b := by
  cases b with
  | reg r => exact congrArg (fun x => some (Src.reg x)) (Reg.ofCode_code r)
  | lit w => rfl

@[simp] theorem srcA_enc (gd : BitVec 6) (op : BitVec 8) (d b c : BitVec 10) (m : BitVec 8) (a : Src) :
    F64.srcA ⟨gd, op, d, a.enc.1, b, c, m, a.enc.2⟩ = some a := by
  cases a with
  | reg r => exact congrArg (fun x => some (Src.reg x)) (Reg.ofCode_code r)
  | lit w => rfl

@[simp] theorem offset_short (gd : BitVec 6) (op : BitVec 8) (d a b c : BitVec 10) (m : BitVec 8) :
    F64.offset ⟨gd, op, d, a, b, c, m, none⟩ = some (.short (c ++ b)) := rfl
@[simp] theorem offset_long (gd : BitVec 6) (op : BitVec 8) (d a : BitVec 10) (m : BitVec 8) (l : Word) :
    F64.offset ⟨gd, op, d, a, 0#10, 0#10, m, some l⟩ = some (.long l) := rfl
@[simp] theorem memOff_short (gd : BitVec 6) (op : BitVec 8) (d a b c : BitVec 10) (m : BitVec 8) :
    F64.memOff ⟨gd, op, d, a, b, c, m, none⟩ = some (.short c) := rfl
@[simp] theorem memOff_long (gd : BitVec 6) (op : BitVec 8) (d a b : BitVec 10) (m : BitVec 8) (l : Word) :
    F64.memOff ⟨gd, op, d, a, b, 0#10, m, some l⟩ = some (.long l) := rfl
@[simp] theorem smallFin8 (x : Fin 8) : smallFin 8 (BitVec.ofNat 10 x.val) = some x := by revert x; decide
@[simp] theorem smallFin16 (x : Fin 16) : smallFin 16 (BitVec.ofNat 10 x.val) = some x := by revert x; decide

@[simp] theorem append20 (o : BitVec 20) : o.extractLsb' 10 10 ++ o.extractLsb' 0 10 = o := by
  apply BitVec.eq_of_getLsbD_eq
  intro i hi
  rw [BitVec.getLsbD_append, BitVec.getLsbD_extractLsb', BitVec.getLsbD_extractLsb']
  by_cases h : i < 10
  · simp [h]
  · have h2 : i - 10 < 10 := by omega
    have h3 : 10 + (i - 10) = i := by omega
    simp [h, h2, h3]

@[simp] theorem append12 (m : BitVec 12) :
    BitVec.ofNat 2 (modsOf ((m.extractLsb' 10 2).setWidth 8) 0 2) ++ m.extractLsb' 0 10 = m := by
  have e : BitVec.ofNat 2 (modsOf ((m.extractLsb' 10 2).setWidth 8) 0 2) = m.extractLsb' 10 2 := by
    apply BitVec.eq_of_toNat_eq
    have := (m.extractLsb' 10 2).isLt
    simp only [modsOf, BitVec.toNat_ofNat, BitVec.toNat_setWidth]
    omega
  rw [e]
  apply BitVec.eq_of_getLsbD_eq
  intro i hi
  rw [BitVec.getLsbD_append, BitVec.getLsbD_extractLsb', BitVec.getLsbD_extractLsb']
  by_cases h : i < 10
  · simp [h]
  · have h2 : i - 10 < 2 := by omega
    have h3 : 10 + (i - 10) = i := by omega
    simp [h, h2, h3]

@[simp] theorem small_setWidth8 (x : BitVec 8) : small 8 (x.setWidth 10) = some x := by
  have h := x.isLt
  unfold small
  rw [if_pos (by simp only [BitVec.toNat_setWidth]; omega)]
  exact congrArg some (BitVec.eq_of_toNat_eq (by simp only [BitVec.toNat_setWidth]; omega))

/-! ## Short words -/

theorem append_toNat {p q : Nat} (x : BitVec p) (y : BitVec q) : (x ++ y).toNat = x.toNat * 2 ^ q + y.toNat := by
  rw [BitVec.toNat_append, Nat.shiftLeft_eq, Nat.mul_comm, ← Nat.two_pow_add_eq_or_of_lt y.isLt]

theorem shortWord_toNat (op : BitVec 6) (d a : Reg) (i : BitVec 4) :
    (shortWord op d a i).toNat = i.toNat * 2 ^ 28 + a.code.toNat * 2 ^ 18 + d.code.toNat * 2 ^ 8 + op.toNat * 4 := by
  have e : (shortWord op d a i).toNat
      = (((i.toNat * 2 ^ 10 + a.code.toNat) * 2 ^ 10 + d.code.toNat) * 2 ^ 6 + op.toNat) * 2 ^ 2 + 0 := by
    unfold shortWord
    exact (append_toNat (i ++ a.code ++ d.code ++ op) 0#2).trans (by
      rw [append_toNat (i ++ a.code ++ d.code) op, append_toNat (i ++ a.code) d.code, append_toNat i a.code]; rfl)
  rw [e]
  omega

/-- Some bits of a word, from its number. -/
theorem extract_of_toNat {n : Nat} (w : Word) (s : Nat) (x : BitVec n) (h : w.toNat / 2 ^ s % 2 ^ n = x.toNat) :
    w.extractLsb' s n = x :=
  BitVec.eq_of_toNat_eq (by rw [BitVec.extractLsb'_toNat, Nat.shiftRight_eq_div_pow]; exact h)

theorem shortWord_op (op : BitVec 6) (d a : Reg) (i : BitVec 4) : (shortWord op d a i).extractLsb' 2 6 = op := by
  apply extract_of_toNat
  have := op.isLt; have := d.code.isLt; have := a.code.isLt; have := i.isLt
  rw [shortWord_toNat]; omega

theorem shortWord_d (op : BitVec 6) (d a : Reg) (i : BitVec 4) : (shortWord op d a i).extractLsb' 8 10 = d.code := by
  apply extract_of_toNat
  have := op.isLt; have := d.code.isLt; have := a.code.isLt; have := i.isLt
  rw [shortWord_toNat]; omega

theorem shortWord_a (op : BitVec 6) (d a : Reg) (i : BitVec 4) : (shortWord op d a i).extractLsb' 18 10 = a.code := by
  apply extract_of_toNat
  have := op.isLt; have := d.code.isLt; have := a.code.isLt; have := i.isLt
  rw [shortWord_toNat]; omega

theorem shortWord_i (op : BitVec 6) (d a : Reg) (i : BitVec 4) : (shortWord op d a i).extractLsb' 28 4 = i := by
  apply extract_of_toNat
  have := op.isLt; have := d.code.isLt; have := a.code.isLt; have := i.isLt
  rw [shortWord_toNat]; omega

theorem moviWord_toNat (d : Reg) (i : BitVec 14) :
    BitVec.toNat (w := 32) (i ++ d.code ++ 0x02#6 ++ 0#2) = i.toNat * 2 ^ 18 + d.code.toNat * 2 ^ 8 + 8 := by
  refine (append_toNat (i ++ d.code ++ 0x02#6) 0#2).trans ?_
  rw [append_toNat (i ++ d.code) 0x02#6, append_toNat i d.code]
  simp only [BitVec.toNat_ofNat]
  omega

theorem movi_op (d : Reg) (i : BitVec 14) : BitVec.extractLsb' (n := 32) 2 6 (i ++ d.code ++ 0x02#6 ++ 0#2) = 0x02#6 := by
  apply extract_of_toNat
  have := d.code.isLt; have := i.isLt
  rw [moviWord_toNat]; simp only [BitVec.toNat_ofNat]; omega

theorem movi_d (d : Reg) (i : BitVec 14) : BitVec.extractLsb' (n := 32) 8 10 (i ++ d.code ++ 0x02#6 ++ 0#2) = d.code := by
  apply extract_of_toNat
  have := d.code.isLt; have := i.isLt
  rw [moviWord_toNat]; omega

theorem movi_i (d : Reg) (i : BitVec 14) : BitVec.extractLsb' (n := 32) 18 14 (i ++ d.code ++ 0x02#6 ++ 0#2) = i := by
  apply extract_of_toNat
  have := d.code.isLt; have := i.isLt
  rw [moviWord_toNat]; omega

theorem shift_reg (w : CcW) :
    modsOf (modByte (ccCode w * 32)) 5 3 = ccCode w ∧ modsOf (modByte (ccCode w * 32)) 0 4 = 0 ∧
      modsOf (modByte (ccCode w * 32)) 4 1 = 0 := by
  have := ccCode_lt w
  refine ⟨?_, ?_, ?_⟩ <;> rw [modsOf_modByte (by omega)] <;> omega

theorem shift_imm (w : CcW) :
    modsOf (modByte (ccCode w * 32 + 16)) 5 3 = ccCode w ∧ modsOf (modByte (ccCode w * 32 + 16)) 0 4 = 0 ∧
      modsOf (modByte (ccCode w * 32 + 16)) 4 1 = 1 := by
  have := ccCode_lt w
  refine ⟨?_, ?_, ?_⟩ <;> rw [modsOf_modByte (by omega)] <;> omega

/-- A register code of 1023 is vz's alone. -/
theorem Reg_code_ne {r : Reg} (h : r ≠ .vz) : r.code ≠ 1023#10 := fun e =>
  h (by rw [← Reg.ofCode_code r, e]; rfl)

/-- A byte from its number. -/
theorem ofNat_mod (t : BitVec 8) : BitVec.ofNat 8 (t.toNat % 256) = t :=
  BitVec.eq_of_toNat_eq (by have := t.isLt; rw [BitVec.toNat_ofNat]; omega)

/-! ## One lemma for each constructor -/

theorem nop (g : Guard) : Statement (.nop g) := ofFields rfl <| by
  intro hwf f hf
  cases hf
  simp [decode64, decodeControl0, enc64, F64.bare, F64.zeros, F64.guard, req]

theorem bra (g : Guard) (o : Off) : Statement (.bra g o) := ofFields rfl <| by
  intro hwf f hf
  cases o <;> cases hf
  · simp [decode64, decodeControl0, encOff, enc64, F64.zeros, F64.guard, req]
  · simp [decode64, decodeControl0, encOff, enc64, F64.zeros, F64.guard, req]

theorem brx (g : Guard) (a : Reg) : Statement (.brx g a) := ofFields rfl <| by
  intro hwf f hf
  cases hf
  simp [decode64, decodeControl0, enc64, F64.bare, F64.zeros, F64.guard, F64.ra, req]

theorem call (g : Guard) (k : BitVec 10) (o : Off) : Statement (.call g k o) := ofFields rfl <| by
  intro hwf f hf
  cases o <;> cases hf
  · simp [decode64, decodeControl0, encOff, enc64, F64.zeros, F64.guard, req]
  · simp [decode64, decodeControl0, encOff, enc64, F64.zeros, F64.guard, req]

theorem callx (g : Guard) (a : Reg) (k : BitVec 10) : Statement (.callx g a k) := ofFields rfl <| by
  intro hwf f hf
  cases hf
  simp [decode64, decodeControl0, enc64, F64.bare, F64.zeros, F64.guard, F64.ra, req]

theorem ret (g : Guard) : Statement (.ret g) := ofFields rfl <| by
  intro hwf f hf
  cases hf
  simp [decode64, decodeControl0, enc64, F64.bare, F64.zeros, F64.guard, req]

theorem enter (g : Guard) (n : BitVec 10) : Statement (.enter g n) := ofFields rfl <| by
  intro hwf f hf
  cases hf
  simp [decode64, decodeControl0, enc64, F64.bare, F64.zeros, F64.guard, req]

theorem fork (g : Guard) (d : Reg) (o : Off) (w : CcW) : Statement (.fork g d o w) := ofFields rfl <| by
  intro _ f hf
  have hb := ccCode_lt w
  have e : (modByte (ccCode w)).toNat = ccCode w := by
    unfold modByte
    rw [BitVec.toNat_ofNat]; omega
  cases o <;> cases hf <;>
    simp [decode64, decodeControl0, encOff, enc64, F64.zeros, F64.guard, F64.rd, req, e]

theorem exit (g : Guard) : Statement (.exit g) := ofFields rfl <| by
  intro hwf f hf
  cases hf
  simp [decode64, decodeControl0, enc64, F64.bare, F64.zeros, F64.guard, req]

theorem yieldI (g : Guard) : Statement (.yieldI g) := ofFields rfl <| by
  intro hwf f hf
  cases hf
  simp [decode64, decodeControl0, enc64, F64.bare, F64.zeros, F64.guard, req]

theorem mode (g : Guard) (p d : Option Bool) : Statement (.mode g p d) := ofFields rfl <| by
  intro hwf f hf
  have hc := check1 hwf
  cases hf
  have := modeCode_lt p
  have := modeCode_lt d
  have m0 : modsOf (modByte (modeCode p * 4 + modeCode d)) 0 2 = modeCode d := by
    rw [modsOf_modByte (by omega)]; omega
  have m1 : modsOf (modByte (modeCode p * 4 + modeCode d)) 2 2 = modeCode p := by
    rw [modsOf_modByte (by omega)]; omega
  have m2 : modsOf (modByte (modeCode p * 4 + modeCode d)) 4 4 = 0 := by rw [modsOf_modByte (by omega)]; omega
  simp only [Bool.or_eq_true] at hc
  simp [decode64, decodeControl0, enc64, F64.bare, F64.zeros, F64.guard, req, hc, m0, m1, m2]

theorem fwait (g : Guard) (m : BitVec 12) : Statement (.fwait g m) := ofFields rfl <| by
  intro _ f hf
  cases hf
  have e : modsOf ((m.extractLsb' 10 2).setWidth 8) 2 6 = 0 := by
    have h := (m.extractLsb' 10 2).isLt
    simp only [modsOf, BitVec.toNat_setWidth]
    omega
  simp [decode64, decodeControl0, enc64, F64.bare, F64.zeros, F64.guard, req, e]

theorem tmset (g : Guard) (a : Src) : Statement (.tmset g a) := ofFields rfl <| by
  intro hwf f hf
  cases hf
  simp [decode64, decodeControl0, enc64, F64.zeros, F64.guard, req]

theorem phase (g : Guard) (a : Src) (b : Reg) : Statement (.phase g a b) := ofFields rfl <| by
  intro hwf f hf
  cases hf
  simp [decode64, decodeControl0, enc64, F64.zeros, F64.guard, F64.rb, req]

theorem sread (g : Guard) (d : Reg) (i : BitVec 8) (w : Bool) : Statement (.sread g d i w) := ofFields rfl <| by
  intro hwf f hf
  cases hf
  have := w.toNat_lt
  have m0 : modsOf (modByte (w.toNat)) 0 1 = w.toNat := by rw [modsOf_modByte (by omega)]; omega
  have m1 : modsOf (modByte (w.toNat)) 1 7 = 0 := by rw [modsOf_modByte (by omega)]; omega
  simp [decode64, decodeControl0, enc64, F64.bare, F64.zeros, F64.bit, F64.guard, F64.rd, req, m0, m1]

theorem swrite (g : Guard) (a : Reg) (i : BitVec 8) (w : Bool) : Statement (.swrite g a i w) := ofFields rfl <| by
  intro hwf f hf
  cases hf
  have := w.toNat_lt
  have m0 : modsOf (modByte (w.toNat)) 0 1 = w.toNat := by rw [modsOf_modByte (by omega)]; omega
  have m1 : modsOf (modByte (w.toNat)) 1 7 = 0 := by rw [modsOf_modByte (by omega)]; omega
  simp [decode64, decodeControl0, enc64, F64.bare, F64.zeros, F64.bit, F64.guard, F64.ra, req, m0, m1]

theorem rjen (g : Guard) (j : Fin 8) : Statement (.rjen g j) := ofFields rfl <| by
  intro hwf f hf
  cases hf
  simp [decode64, decodeControl1, enc64, F64.bare, F64.zeros, F64.guard, req]

theorem rjwait (g : Guard) (j : Fin 8) : Statement (.rjwait g j) := ofFields rfl <| by
  intro hwf f hf
  cases hf
  simp [decode64, decodeControl1, enc64, F64.bare, F64.zeros, F64.guard, req]

theorem rjstrike (g : Guard) (j : Fin 8) : Statement (.rjstrike g j) := ofFields rfl <| by
  intro hwf f hf
  cases hf
  simp [decode64, decodeControl1, enc64, F64.bare, F64.zeros, F64.guard, req]

theorem cvset (g : Guard) (a : Reg) (v : Fin 16) : Statement (.cvset g a v) := ofFields rfl <| by
  intro hwf f hf
  cases hf
  simp [decode64, decodeControl1, enc64, F64.bare, F64.zeros, F64.guard, F64.ra, req]

theorem cvsign (g : Guard) (a : Reg) (b : Reg) (v : Fin 16) : Statement (.cvsign g a b v) := ofFields rfl <| by
  intro hwf f hf
  cases hf
  simp [decode64, decodeControl1, enc64, F64.bare, F64.zeros, F64.guard, F64.ra, F64.rb, req]

theorem bara (g : Guard) (a : Reg) (v : Fin 16) : Statement (.bara g a v) := ofFields rfl <| by
  intro hwf f hf
  cases hf
  simp [decode64, decodeControl1, enc64, F64.bare, F64.zeros, F64.guard, F64.ra, req]

theorem barw (g : Guard) (v : Fin 16) : Statement (.barw g v) := ofFields rfl <| by
  intro hwf f hf
  cases hf
  simp [decode64, decodeControl1, enc64, F64.bare, F64.zeros, F64.guard, req]

theorem bars (g : Guard) (a : Reg) (v : Fin 16) : Statement (.bars g a v) := ofFields rfl <| by
  intro hwf f hf
  cases hf
  simp [decode64, decodeControl1, enc64, F64.bare, F64.zeros, F64.guard, F64.ra, req]

theorem waitw (g : Guard) (a : Reg) (b : Reg) (off : BitVec 10) (sc : Scope) (sp : Space3) (cmp : WaitCmp) :
    Statement (.waitw g a b off sc sp cmp) := ofFields rfl <| by
  intro hwf f hf
  cases hf
  have := Scope_code_lt sc
  have := Space3_code_lt sp
  have := WaitCmp_code_lt cmp
  have m0 : modsOf (modByte (sc.code * 32 + sp.code * 8 + cmp.code)) 0 3 = cmp.code := by
    rw [modsOf_modByte (by omega)]; omega
  have m1 : modsOf (modByte (sc.code * 32 + sp.code * 8 + cmp.code)) 3 2 = sp.code := by
    rw [modsOf_modByte (by omega)]; omega
  have m2 : modsOf (modByte (sc.code * 32 + sp.code * 8 + cmp.code)) 5 3 = sc.code := by
    rw [modsOf_modByte (by omega)]; omega
  simp [decode64, decodeControl1, enc64, F64.bare, F64.zeros, F64.guard, F64.ra, F64.rb, req, m0, m1, m2]

theorem waitwRecheck (wid : Nat) (lane : Nat) : Statement (.waitwRecheck wid lane) := noCode rfl rfl

theorem trap (g : Guard) (n : BitVec 10) : Statement (.trap g n) := ofFields rfl <| by
  intro hwf f hf
  cases hf
  simp [decode64, decodeControl1, enc64, F64.bare, F64.zeros, F64.guard, req]

theorem tret (g : Guard) : Statement (.tret g) := ofFields rfl <| by
  intro hwf f hf
  cases hf
  simp [decode64, decodeControl1, enc64, F64.bare, F64.zeros, F64.guard, req]

theorem tmask (g : Guard) (q : TmaskOp) : Statement (.tmask g q) := ofFields rfl <| by
  intro hwf f hf
  cases q with
  | vec a =>
    cases hf
    simp [decode64, decodeControl1, enc64, F64.bare, F64.zeros, F64.guard, F64.ra, req]
  | en a =>
    cases hf
    simp [decode64, decodeControl1, enc64, F64.bare, F64.zeros, F64.guard, F64.ra, req]
  | hold =>
    cases hf
    simp [decode64, decodeControl1, enc64, F64.bare, F64.zeros, F64.guard, req]
  | release =>
    cases hf
    simp [decode64, decodeControl1, enc64, F64.bare, F64.zeros, F64.guard, req]

theorem rinj (g : Guard) (a : Reg) (l : Bool) : Statement (.rinj g a l) := ofFields rfl <| by
  intro hwf f hf
  cases hf
  have := l.toNat_lt
  have m0 : modsOf (modByte (l.toNat)) 0 1 = l.toNat := by rw [modsOf_modByte (by omega)]; omega
  have m1 : modsOf (modByte (l.toNat)) 1 7 = 0 := by rw [modsOf_modByte (by omega)]; omega
  simp [decode64, decodeControl1, enc64, F64.bare, F64.zeros, F64.bit, F64.guard, F64.ra, req, m0, m1]

theorem iadd (g : Guard) (d : Reg) (a : Reg) (b : Src) (s : Bool) (w : CcW) : Statement (.iadd g d a b s w) := ofFields rfl <| by
  intro hwf f hf
  cases hf
  have := ccCode_lt w
  have := s.toNat_lt
  have m0 : modsOf (modByte (ccCode w * 32 + s.toNat * 16)) 0 4 = 0 := by rw [modsOf_modByte (by omega)]; omega
  have m1 : modsOf (modByte (ccCode w * 32 + s.toNat * 16)) 4 1 = s.toNat := by rw [modsOf_modByte (by omega)]; omega
  have m2 : modsOf (modByte (ccCode w * 32 + s.toNat * 16)) 5 3 = ccCode w := by rw [modsOf_modByte (by omega)]; omega
  simp [decode64, decodeInteger0, encB, enc64, F64.zeros, F64.bit, F64.guard, F64.rd, F64.ra, req, m0, m1, m2]

theorem isub (g : Guard) (d : Reg) (a : Reg) (b : Src) (s : Bool) (w : CcW) : Statement (.isub g d a b s w) := ofFields rfl <| by
  intro hwf f hf
  cases hf
  have := ccCode_lt w
  have := s.toNat_lt
  have m0 : modsOf (modByte (ccCode w * 32 + s.toNat * 16)) 0 4 = 0 := by rw [modsOf_modByte (by omega)]; omega
  have m1 : modsOf (modByte (ccCode w * 32 + s.toNat * 16)) 4 1 = s.toNat := by rw [modsOf_modByte (by omega)]; omega
  have m2 : modsOf (modByte (ccCode w * 32 + s.toNat * 16)) 5 3 = ccCode w := by rw [modsOf_modByte (by omega)]; omega
  simp [decode64, decodeInteger0, encB, enc64, F64.zeros, F64.bit, F64.guard, F64.rd, F64.ra, req, m0, m1, m2]

theorem imul (g : Guard) (d : Reg) (a : Reg) (b : Src) (w : CcW) : Statement (.imul g d a b w) := ofFields rfl <| by
  intro hwf f hf
  cases hf
  have := ccCode_lt w
  have m0 : modsOf (modByte (ccCode w * 32)) 0 5 = 0 := by rw [modsOf_modByte (by omega)]; omega
  have m1 : modsOf (modByte (ccCode w * 32)) 5 3 = ccCode w := by rw [modsOf_modByte (by omega)]; omega
  simp [decode64, decodeInteger0, encB, enc64, F64.zeros, F64.guard, F64.rd, F64.ra, req, m0, m1]

theorem imulh (g : Guard) (d : Reg) (a : Reg) (b : Src) (u : Bool) (w : CcW) : Statement (.imulh g d a b u w) := ofFields rfl <| by
  intro hwf f hf
  cases hf
  have := ccCode_lt w
  have := u.toNat_lt
  have m0 : modsOf (modByte (ccCode w * 32 + u.toNat * 16)) 0 4 = 0 := by rw [modsOf_modByte (by omega)]; omega
  have m1 : modsOf (modByte (ccCode w * 32 + u.toNat * 16)) 4 1 = u.toNat := by rw [modsOf_modByte (by omega)]; omega
  have m2 : modsOf (modByte (ccCode w * 32 + u.toNat * 16)) 5 3 = ccCode w := by rw [modsOf_modByte (by omega)]; omega
  simp [decode64, decodeInteger0, encB, enc64, F64.zeros, F64.bit, F64.guard, F64.rd, F64.ra, req, m0, m1, m2]

theorem imad (g : Guard) (d : Reg) (a : Reg) (b : Src) (c : Reg) (w : CcW) : Statement (.imad g d a b c w) := ofFields rfl <| by
  intro hwf f hf
  cases hf
  have := ccCode_lt w
  have m0 : modsOf (modByte (ccCode w * 32)) 0 5 = 0 := by rw [modsOf_modByte (by omega)]; omega
  have m1 : modsOf (modByte (ccCode w * 32)) 5 3 = ccCode w := by rw [modsOf_modByte (by omega)]; omega
  simp [decode64, decodeInteger0, encB, enc64, F64.guard, F64.rd, F64.ra, F64.rc, req, m0, m1]

theorem iadd64 (g : Guard) (d : Reg) (a : Reg) (b : Src) (w : CcW) : Statement (.iadd64 g d a b w) := ofFields rfl <| by
  intro hwf f hf
  cases hf
  have := ccCode_lt w
  have m0 : modsOf (modByte (ccCode w * 32)) 0 5 = 0 := by rw [modsOf_modByte (by omega)]; omega
  have m1 : modsOf (modByte (ccCode w * 32)) 5 3 = ccCode w := by rw [modsOf_modByte (by omega)]; omega
  simp [decode64, decodeInteger0, encB, enc64, F64.zeros, F64.guard, F64.rd, F64.ra, req, m0, m1]

theorem imad64 (g : Guard) (d : Reg) (a : Reg) (b : Src) (c : Reg) (u : Bool) (w : CcW) :
    Statement (.imad64 g d a b c u w) := ofFields rfl <| by
  intro hwf f hf
  cases hf
  have := ccCode_lt w
  have := u.toNat_lt
  have m0 : modsOf (modByte (ccCode w * 32 + u.toNat * 16)) 0 4 = 0 := by rw [modsOf_modByte (by omega)]; omega
  have m1 : modsOf (modByte (ccCode w * 32 + u.toNat * 16)) 4 1 = u.toNat := by rw [modsOf_modByte (by omega)]; omega
  have m2 : modsOf (modByte (ccCode w * 32 + u.toNat * 16)) 5 3 = ccCode w := by rw [modsOf_modByte (by omega)]; omega
  simp [decode64, decodeInteger0, encB, enc64, F64.bit, F64.guard, F64.rd, F64.ra, F64.rc, req, m0, m1, m2]

theorem ishl (g : Guard) (d a : Reg) (b : ShiftSrc) (w : CcW) : Statement (.ishl g d a b w) := ofFields rfl <| by
  intro _ f hf
  have hr := shift_reg w
  have hi := shift_imm w
  cases b <;> cases hf <;>
    simp [decode64, decodeInteger0, decodeShift, encShift, enc64, F64.bare, F64.bit, F64.guard, F64.rd, F64.ra, F64.rb, req,
      hr, hi]

theorem ishr (g : Guard) (d a : Reg) (b : ShiftSrc) (w : CcW) : Statement (.ishr g d a b w) := ofFields rfl <| by
  intro _ f hf
  have hr := shift_reg w
  have hi := shift_imm w
  cases b <;> cases hf <;>
    simp [decode64, decodeInteger0, decodeShift, encShift, enc64, F64.bare, F64.bit, F64.guard, F64.rd, F64.ra, F64.rb, req,
      hr, hi]

theorem ishra (g : Guard) (d a : Reg) (b : ShiftSrc) (w : CcW) : Statement (.ishra g d a b w) := ofFields rfl <| by
  intro _ f hf
  have hr := shift_reg w
  have hi := shift_imm w
  cases b <;> cases hf <;>
    simp [decode64, decodeInteger0, decodeShift, encShift, enc64, F64.bare, F64.bit, F64.guard, F64.rd, F64.ra, F64.rb, req,
      hr, hi]

theorem bool3 (g : Guard) (d : Reg) (a : Reg) (b : Src) (c : Reg) (t : BitVec 8) : Statement (.bool3 g d a b c t) := ofFields rfl <| by
  intro hwf f hf
  cases hf
  simp [decode64, decodeInteger0, encB, enc64, F64.guard, F64.rd, F64.ra, F64.rc]

theorem imin (g : Guard) (d : Reg) (a : Reg) (b : Src) (u : Bool) (w : CcW) : Statement (.imin g d a b u w) := ofFields rfl <| by
  intro hwf f hf
  cases hf
  have := ccCode_lt w
  have := u.toNat_lt
  have m0 : modsOf (modByte (ccCode w * 32 + u.toNat * 16)) 0 4 = 0 := by rw [modsOf_modByte (by omega)]; omega
  have m1 : modsOf (modByte (ccCode w * 32 + u.toNat * 16)) 4 1 = u.toNat := by rw [modsOf_modByte (by omega)]; omega
  have m2 : modsOf (modByte (ccCode w * 32 + u.toNat * 16)) 5 3 = ccCode w := by rw [modsOf_modByte (by omega)]; omega
  simp [decode64, decodeInteger0, encB, enc64, F64.zeros, F64.bit, F64.guard, F64.rd, F64.ra, req, m0, m1, m2]

theorem imax (g : Guard) (d : Reg) (a : Reg) (b : Src) (u : Bool) (w : CcW) : Statement (.imax g d a b u w) := ofFields rfl <| by
  intro hwf f hf
  cases hf
  have := ccCode_lt w
  have := u.toNat_lt
  have m0 : modsOf (modByte (ccCode w * 32 + u.toNat * 16)) 0 4 = 0 := by rw [modsOf_modByte (by omega)]; omega
  have m1 : modsOf (modByte (ccCode w * 32 + u.toNat * 16)) 4 1 = u.toNat := by rw [modsOf_modByte (by omega)]; omega
  have m2 : modsOf (modByte (ccCode w * 32 + u.toNat * 16)) 5 3 = ccCode w := by rw [modsOf_modByte (by omega)]; omega
  simp [decode64, decodeInteger0, encB, enc64, F64.zeros, F64.bit, F64.guard, F64.rd, F64.ra, req, m0, m1, m2]

theorem iabs (g : Guard) (d : Reg) (a : Reg) (s : Bool) (w : CcW) : Statement (.iabs g d a s w) := ofFields rfl <| by
  intro hwf f hf
  cases hf
  have := ccCode_lt w
  have := s.toNat_lt
  have m0 : modsOf (modByte (ccCode w * 32 + s.toNat * 16)) 0 4 = 0 := by rw [modsOf_modByte (by omega)]; omega
  have m1 : modsOf (modByte (ccCode w * 32 + s.toNat * 16)) 4 1 = s.toNat := by rw [modsOf_modByte (by omega)]; omega
  have m2 : modsOf (modByte (ccCode w * 32 + s.toNat * 16)) 5 3 = ccCode w := by rw [modsOf_modByte (by omega)]; omega
  simp [decode64, decodeInteger0, enc64, F64.bare, F64.zeros, F64.bit, F64.guard, F64.rd, F64.ra, req, m0, m1, m2]

theorem popc (g : Guard) (d : Reg) (a : Reg) (w : CcW) : Statement (.popc g d a w) := ofFields rfl <| by
  intro hwf f hf
  cases hf
  have := ccCode_lt w
  have m0 : modsOf (modByte (ccCode w * 32)) 0 5 = 0 := by rw [modsOf_modByte (by omega)]; omega
  have m1 : modsOf (modByte (ccCode w * 32)) 5 3 = ccCode w := by rw [modsOf_modByte (by omega)]; omega
  simp [decode64, decodeInteger0, enc64, F64.bare, F64.zeros, F64.guard, F64.rd, F64.ra, req, m0, m1]

theorem clz (g : Guard) (d : Reg) (a : Reg) (w : CcW) : Statement (.clz g d a w) := ofFields rfl <| by
  intro hwf f hf
  cases hf
  have := ccCode_lt w
  have m0 : modsOf (modByte (ccCode w * 32)) 0 5 = 0 := by rw [modsOf_modByte (by omega)]; omega
  have m1 : modsOf (modByte (ccCode w * 32)) 5 3 = ccCode w := by rw [modsOf_modByte (by omega)]; omega
  simp [decode64, decodeInteger0, enc64, F64.bare, F64.zeros, F64.guard, F64.rd, F64.ra, req, m0, m1]

theorem bfe (g : Guard) (d : Reg) (a : Reg) (b : Reg) (s : Bool) (w : CcW) : Statement (.bfe g d a b s w) := ofFields rfl <| by
  intro hwf f hf
  cases hf
  have := ccCode_lt w
  have := s.toNat_lt
  have m0 : modsOf (modByte (ccCode w * 32 + s.toNat * 16)) 0 4 = 0 := by rw [modsOf_modByte (by omega)]; omega
  have m1 : modsOf (modByte (ccCode w * 32 + s.toNat * 16)) 4 1 = s.toNat := by rw [modsOf_modByte (by omega)]; omega
  have m2 : modsOf (modByte (ccCode w * 32 + s.toNat * 16)) 5 3 = ccCode w := by rw [modsOf_modByte (by omega)]; omega
  simp [decode64, decodeInteger1, enc64, F64.bare, F64.zeros, F64.bit, F64.guard, F64.rd, F64.ra, F64.rb,
    req, m0, m1, m2]

theorem bfi (g : Guard) (d : Reg) (a : Reg) (b : Reg) (c : Reg) (w : CcW) : Statement (.bfi g d a b c w) := ofFields rfl <| by
  intro hwf f hf
  cases hf
  have := ccCode_lt w
  have m0 : modsOf (modByte (ccCode w * 32)) 0 5 = 0 := by rw [modsOf_modByte (by omega)]; omega
  have m1 : modsOf (modByte (ccCode w * 32)) 5 3 = ccCode w := by rw [modsOf_modByte (by omega)]; omega
  simp [decode64, decodeInteger1, enc64, F64.bare, F64.guard, F64.rd, F64.ra, F64.rb, F64.rc, req, m0, m1]

theorem icmp (g : Guard) (d : Reg) (a : Reg) (b : Src) (cond : Cond) (w : CcW) : Statement (.icmp g d a b cond w) := ofFields rfl <| by
  intro hwf f hf
  have hc := check1 hwf
  cases hf
  have := ccCode_lt w
  have := Cond_code_lt cond
  have m0 : modsOf (modByte (ccCode w * 32 + cond.code)) 0 4 = cond.code := by rw [modsOf_modByte (by omega)]; omega
  have m1 : modsOf (modByte (ccCode w * 32 + cond.code)) 4 1 = 0 := by rw [modsOf_modByte (by omega)]; omega
  have m2 : modsOf (modByte (ccCode w * 32 + cond.code)) 5 3 = ccCode w := by rw [modsOf_modByte (by omega)]; omega
  simp [decode64, decodeInteger1, encB, enc64, F64.zeros, F64.guard, F64.rd, F64.ra, req, hc, m0, m1, m2]

theorem isel (g : Guard) (d : Reg) (a : Reg) (b : Src) (cond : Cond) (n : Fin 4) : Statement (.isel g d a b cond n) := ofFields rfl <| by
  intro hwf f hf
  have hc := check1 hwf
  cases hf
  have := n.isLt
  have := Cond_code_lt cond
  have m0 : modsOf (modByte (n.val * 32 + cond.code)) 0 4 = cond.code := by rw [modsOf_modByte (by omega)]; omega
  have m1 : modsOf (modByte (n.val * 32 + cond.code)) 4 1 = 0 := by rw [modsOf_modByte (by omega)]; omega
  have m2 : modsOf (modByte (n.val * 32 + cond.code)) 5 2 = n.val := by rw [modsOf_modByte (by omega)]; omega
  have m3 : modsOf (modByte (n.val * 32 + cond.code)) 7 1 = 0 := by rw [modsOf_modByte (by omega)]; omega
  simp [decode64, decodeInteger1, encB, enc64, F64.zeros, F64.two, F64.guard, F64.rd, F64.ra, req, hc, m0, m1, m2, m3]

theorem mov (g : Guard) (d : Reg) (a : Reg) (w : Bool) : Statement (.mov g d a w) := ofFields rfl <| by
  intro hwf f hf
  cases hf
  have := w.toNat_lt
  have m0 : modsOf (modByte (w.toNat * 16)) 0 4 = 0 := by rw [modsOf_modByte (by omega)]; omega
  have m1 : modsOf (modByte (w.toNat * 16)) 4 1 = w.toNat := by rw [modsOf_modByte (by omega)]; omega
  have m2 : modsOf (modByte (w.toNat * 16)) 5 3 = 0 := by rw [modsOf_modByte (by omega)]; omega
  simp [decode64, decodeInteger1, enc64, F64.bare, F64.zeros, F64.bit, F64.guard, F64.rd, F64.ra, req, m0, m1, m2]

theorem movi (g : Guard) (d : Reg) (q : MovImm) : Statement (.movi g d q) := ofFields rfl <| by
  intro hwf f hf
  cases q with
  | short i =>
    cases hf
    simp [decode64, decodeInteger1, enc64, F64.zeros, F64.guard, F64.rd, req]
  | long l =>
    cases hf
    simp [decode64, decodeInteger1, enc64, F64.zeros, F64.guard, F64.rd, req]

theorem fadd (g : Guard) (d : Reg) (a : Reg) (b : Src) (r : Rnd) (z : Bool) (s : Bool) (w : CcW) :
    Statement (.fadd g d a b r z s w) := ofFields rfl <| by
  intro hwf f hf
  cases hf
  have := ccCode_lt w
  have := Rnd_code_lt r
  have := z.toNat_lt
  have := s.toNat_lt
  have m0 : modsOf (modByte (ccCode w * 32 + r.code * 4 + z.toNat * 2 + s.toNat)) 0 1 = s.toNat := by
    rw [modsOf_modByte (by omega)]; omega
  have m1 : modsOf (modByte (ccCode w * 32 + r.code * 4 + z.toNat * 2 + s.toNat)) 1 1 = z.toNat := by
    rw [modsOf_modByte (by omega)]; omega
  have m2 : modsOf (modByte (ccCode w * 32 + r.code * 4 + z.toNat * 2 + s.toNat)) 2 3 = r.code := by
    rw [modsOf_modByte (by omega)]; omega
  have m3 : modsOf (modByte (ccCode w * 32 + r.code * 4 + z.toNat * 2 + s.toNat)) 5 3 = ccCode w := by
    rw [modsOf_modByte (by omega)]; omega
  simp [decode64, decodeFloat0, encB, enc64, F64.zeros, F64.bit, F64.guard, F64.rd, F64.ra, req, m0, m1, m2, m3]

theorem fsub (g : Guard) (d : Reg) (a : Reg) (b : Src) (r : Rnd) (z : Bool) (s : Bool) (w : CcW) :
    Statement (.fsub g d a b r z s w) := ofFields rfl <| by
  intro hwf f hf
  cases hf
  have := ccCode_lt w
  have := Rnd_code_lt r
  have := z.toNat_lt
  have := s.toNat_lt
  have m0 : modsOf (modByte (ccCode w * 32 + r.code * 4 + z.toNat * 2 + s.toNat)) 0 1 = s.toNat := by
    rw [modsOf_modByte (by omega)]; omega
  have m1 : modsOf (modByte (ccCode w * 32 + r.code * 4 + z.toNat * 2 + s.toNat)) 1 1 = z.toNat := by
    rw [modsOf_modByte (by omega)]; omega
  have m2 : modsOf (modByte (ccCode w * 32 + r.code * 4 + z.toNat * 2 + s.toNat)) 2 3 = r.code := by
    rw [modsOf_modByte (by omega)]; omega
  have m3 : modsOf (modByte (ccCode w * 32 + r.code * 4 + z.toNat * 2 + s.toNat)) 5 3 = ccCode w := by
    rw [modsOf_modByte (by omega)]; omega
  simp [decode64, decodeFloat0, encB, enc64, F64.zeros, F64.bit, F64.guard, F64.rd, F64.ra, req, m0, m1, m2, m3]

theorem fmul (g : Guard) (d : Reg) (a : Reg) (b : Src) (r : Rnd) (z : Bool) (s : Bool) (w : CcW) :
    Statement (.fmul g d a b r z s w) := ofFields rfl <| by
  intro hwf f hf
  cases hf
  have := ccCode_lt w
  have := Rnd_code_lt r
  have := z.toNat_lt
  have := s.toNat_lt
  have m0 : modsOf (modByte (ccCode w * 32 + r.code * 4 + z.toNat * 2 + s.toNat)) 0 1 = s.toNat := by
    rw [modsOf_modByte (by omega)]; omega
  have m1 : modsOf (modByte (ccCode w * 32 + r.code * 4 + z.toNat * 2 + s.toNat)) 1 1 = z.toNat := by
    rw [modsOf_modByte (by omega)]; omega
  have m2 : modsOf (modByte (ccCode w * 32 + r.code * 4 + z.toNat * 2 + s.toNat)) 2 3 = r.code := by
    rw [modsOf_modByte (by omega)]; omega
  have m3 : modsOf (modByte (ccCode w * 32 + r.code * 4 + z.toNat * 2 + s.toNat)) 5 3 = ccCode w := by
    rw [modsOf_modByte (by omega)]; omega
  simp [decode64, decodeFloat0, encB, enc64, F64.zeros, F64.bit, F64.guard, F64.rd, F64.ra, req, m0, m1, m2, m3]

theorem ffma (g : Guard) (d : Reg) (a : Reg) (b : Src) (c : Reg) (r : Rnd) (z : Bool) (s : Bool) (w : CcW) :
    Statement (.ffma g d a b c r z s w) := ofFields rfl <| by
  intro hwf f hf
  cases hf
  have := ccCode_lt w
  have := Rnd_code_lt r
  have := z.toNat_lt
  have := s.toNat_lt
  have m0 : modsOf (modByte (ccCode w * 32 + r.code * 4 + z.toNat * 2 + s.toNat)) 0 1 = s.toNat := by
    rw [modsOf_modByte (by omega)]; omega
  have m1 : modsOf (modByte (ccCode w * 32 + r.code * 4 + z.toNat * 2 + s.toNat)) 1 1 = z.toNat := by
    rw [modsOf_modByte (by omega)]; omega
  have m2 : modsOf (modByte (ccCode w * 32 + r.code * 4 + z.toNat * 2 + s.toNat)) 2 3 = r.code := by
    rw [modsOf_modByte (by omega)]; omega
  have m3 : modsOf (modByte (ccCode w * 32 + r.code * 4 + z.toNat * 2 + s.toNat)) 5 3 = ccCode w := by
    rw [modsOf_modByte (by omega)]; omega
  simp [decode64, decodeFloat0, encB, enc64, F64.bit, F64.guard, F64.rd, F64.ra, F64.rc, m0, m1, m2, m3]

theorem fmin (g : Guard) (d : Reg) (a : Reg) (b : Src) (n : Bool) (z : Bool) (w : CcW) : Statement (.fmin g d a b n z w) := ofFields rfl <| by
  intro hwf f hf
  cases hf
  have := ccCode_lt w
  have := n.toNat_lt
  have := z.toNat_lt
  have m0 : modsOf (modByte (ccCode w * 32 + n.toNat * 16 + z.toNat * 2)) 0 1 = 0 := by
    rw [modsOf_modByte (by omega)]; omega
  have m1 : modsOf (modByte (ccCode w * 32 + n.toNat * 16 + z.toNat * 2)) 1 1 = z.toNat := by
    rw [modsOf_modByte (by omega)]; omega
  have m2 : modsOf (modByte (ccCode w * 32 + n.toNat * 16 + z.toNat * 2)) 2 2 = 0 := by
    rw [modsOf_modByte (by omega)]; omega
  have m3 : modsOf (modByte (ccCode w * 32 + n.toNat * 16 + z.toNat * 2)) 4 1 = n.toNat := by
    rw [modsOf_modByte (by omega)]; omega
  have m4 : modsOf (modByte (ccCode w * 32 + n.toNat * 16 + z.toNat * 2)) 5 3 = ccCode w := by
    rw [modsOf_modByte (by omega)]; omega
  simp [decode64, decodeFloat0, encB, enc64, F64.zeros, F64.bit, F64.guard, F64.rd, F64.ra, req, m0, m1, m2, m3, m4]

theorem fmax (g : Guard) (d : Reg) (a : Reg) (b : Src) (n : Bool) (z : Bool) (w : CcW) : Statement (.fmax g d a b n z w) := ofFields rfl <| by
  intro hwf f hf
  cases hf
  have := ccCode_lt w
  have := n.toNat_lt
  have := z.toNat_lt
  have m0 : modsOf (modByte (ccCode w * 32 + n.toNat * 16 + z.toNat * 2)) 0 1 = 0 := by
    rw [modsOf_modByte (by omega)]; omega
  have m1 : modsOf (modByte (ccCode w * 32 + n.toNat * 16 + z.toNat * 2)) 1 1 = z.toNat := by
    rw [modsOf_modByte (by omega)]; omega
  have m2 : modsOf (modByte (ccCode w * 32 + n.toNat * 16 + z.toNat * 2)) 2 2 = 0 := by
    rw [modsOf_modByte (by omega)]; omega
  have m3 : modsOf (modByte (ccCode w * 32 + n.toNat * 16 + z.toNat * 2)) 4 1 = n.toNat := by
    rw [modsOf_modByte (by omega)]; omega
  have m4 : modsOf (modByte (ccCode w * 32 + n.toNat * 16 + z.toNat * 2)) 5 3 = ccCode w := by
    rw [modsOf_modByte (by omega)]; omega
  simp [decode64, decodeFloat0, encB, enc64, F64.zeros, F64.bit, F64.guard, F64.rd, F64.ra, req, m0, m1, m2, m3, m4]

theorem fcmp (g : Guard) (d : Reg) (a : Reg) (b : Src) (cond : Cond) (z : Bool) (w : CcW) :
    Statement (.fcmp g d a b cond z w) := ofFields rfl <| by
  intro hwf f hf
  have hc := check1 hwf
  cases hf
  have := ccCode_lt w
  have := z.toNat_lt
  have := Cond_code_lt cond
  have m0 : modsOf (modByte (ccCode w * 32 + z.toNat * 16 + cond.code)) 0 4 = cond.code := by
    rw [modsOf_modByte (by omega)]; omega
  have m1 : modsOf (modByte (ccCode w * 32 + z.toNat * 16 + cond.code)) 4 1 = z.toNat := by
    rw [modsOf_modByte (by omega)]; omega
  have m2 : modsOf (modByte (ccCode w * 32 + z.toNat * 16 + cond.code)) 5 3 = ccCode w := by
    rw [modsOf_modByte (by omega)]; omega
  simp [decode64, decodeFloat0, encB, enc64, F64.zeros, F64.bit, F64.guard, F64.rd, F64.ra, req, hc, m0, m1, m2]

theorem fclass (g : Guard) (d : Reg) (a : Reg) : Statement (.fclass g d a) := ofFields rfl <| by
  intro hwf f hf
  cases hf
  simp [decode64, decodeFloat0, enc64, F64.bare, F64.zeros, F64.guard, F64.rd, F64.ra, req]

theorem hadd2 (g : Guard) (d : Reg) (a : Reg) (b : Src) (r : Rnd) (z : Bool) (h : Bool) : Statement (.hadd2 g d a b r z h) := ofFields rfl <| by
  intro hwf f hf
  cases hf
  have := Rnd_code_lt r
  have := z.toNat_lt
  have := h.toNat_lt
  have m0 : modsOf (modByte (r.code * 4 + z.toNat * 2 + h.toNat)) 0 1 = h.toNat := by
    rw [modsOf_modByte (by omega)]; omega
  have m1 : modsOf (modByte (r.code * 4 + z.toNat * 2 + h.toNat)) 1 1 = z.toNat := by
    rw [modsOf_modByte (by omega)]; omega
  have m2 : modsOf (modByte (r.code * 4 + z.toNat * 2 + h.toNat)) 2 3 = r.code := by
    rw [modsOf_modByte (by omega)]; omega
  have m3 : modsOf (modByte (r.code * 4 + z.toNat * 2 + h.toNat)) 5 3 = 0 := by rw [modsOf_modByte (by omega)]; omega
  simp [decode64, decodeFloat0, encB, enc64, F64.zeros, F64.bit, F64.guard, F64.rd, F64.ra, req, m0, m1, m2, m3]

theorem hmul2 (g : Guard) (d : Reg) (a : Reg) (b : Src) (r : Rnd) (z : Bool) (h : Bool) : Statement (.hmul2 g d a b r z h) := ofFields rfl <| by
  intro hwf f hf
  cases hf
  have := Rnd_code_lt r
  have := z.toNat_lt
  have := h.toNat_lt
  have m0 : modsOf (modByte (r.code * 4 + z.toNat * 2 + h.toNat)) 0 1 = h.toNat := by
    rw [modsOf_modByte (by omega)]; omega
  have m1 : modsOf (modByte (r.code * 4 + z.toNat * 2 + h.toNat)) 1 1 = z.toNat := by
    rw [modsOf_modByte (by omega)]; omega
  have m2 : modsOf (modByte (r.code * 4 + z.toNat * 2 + h.toNat)) 2 3 = r.code := by
    rw [modsOf_modByte (by omega)]; omega
  have m3 : modsOf (modByte (r.code * 4 + z.toNat * 2 + h.toNat)) 5 3 = 0 := by rw [modsOf_modByte (by omega)]; omega
  simp [decode64, decodeFloat0, encB, enc64, F64.zeros, F64.bit, F64.guard, F64.rd, F64.ra, req, m0, m1, m2, m3]

theorem hfma2 (g : Guard) (d : Reg) (a : Reg) (b : Src) (c : Reg) (r : Rnd) (z : Bool) (h : Bool) :
    Statement (.hfma2 g d a b c r z h) := ofFields rfl <| by
  intro hwf f hf
  cases hf
  have := Rnd_code_lt r
  have := z.toNat_lt
  have := h.toNat_lt
  have m0 : modsOf (modByte (r.code * 4 + z.toNat * 2 + h.toNat)) 0 1 = h.toNat := by
    rw [modsOf_modByte (by omega)]; omega
  have m1 : modsOf (modByte (r.code * 4 + z.toNat * 2 + h.toNat)) 1 1 = z.toNat := by
    rw [modsOf_modByte (by omega)]; omega
  have m2 : modsOf (modByte (r.code * 4 + z.toNat * 2 + h.toNat)) 2 3 = r.code := by
    rw [modsOf_modByte (by omega)]; omega
  have m3 : modsOf (modByte (r.code * 4 + z.toNat * 2 + h.toNat)) 5 3 = 0 := by rw [modsOf_modByte (by omega)]; omega
  simp [decode64, decodeFloat0, encB, enc64, F64.bit, F64.guard, F64.rd, F64.ra, F64.rc, req, m0, m1, m2, m3]

theorem rcp (g : Guard) (d : Reg) (a : Reg) (z : Bool) (w : CcW) : Statement (.rcp g d a z w) := ofFields rfl <| by
  intro hwf f hf
  cases hf
  have := ccCode_lt w
  have := z.toNat_lt
  have m0 : modsOf (modByte (ccCode w * 32 + z.toNat * 2)) 0 1 = 0 := by rw [modsOf_modByte (by omega)]; omega
  have m1 : modsOf (modByte (ccCode w * 32 + z.toNat * 2)) 1 1 = z.toNat := by rw [modsOf_modByte (by omega)]; omega
  have m2 : modsOf (modByte (ccCode w * 32 + z.toNat * 2)) 2 3 = 0 := by rw [modsOf_modByte (by omega)]; omega
  have m3 : modsOf (modByte (ccCode w * 32 + z.toNat * 2)) 5 3 = ccCode w := by rw [modsOf_modByte (by omega)]; omega
  simp [decode64, decodeFloat1, decodeSpecial, enc64, F64.bare, F64.zeros, F64.bit, F64.guard, F64.rd,
    F64.ra, req, m0, m1, m2, m3]

theorem rsq (g : Guard) (d : Reg) (a : Reg) (z : Bool) (w : CcW) : Statement (.rsq g d a z w) := ofFields rfl <| by
  intro hwf f hf
  cases hf
  have := ccCode_lt w
  have := z.toNat_lt
  have m0 : modsOf (modByte (ccCode w * 32 + z.toNat * 2)) 0 1 = 0 := by rw [modsOf_modByte (by omega)]; omega
  have m1 : modsOf (modByte (ccCode w * 32 + z.toNat * 2)) 1 1 = z.toNat := by rw [modsOf_modByte (by omega)]; omega
  have m2 : modsOf (modByte (ccCode w * 32 + z.toNat * 2)) 2 3 = 0 := by rw [modsOf_modByte (by omega)]; omega
  have m3 : modsOf (modByte (ccCode w * 32 + z.toNat * 2)) 5 3 = ccCode w := by rw [modsOf_modByte (by omega)]; omega
  simp [decode64, decodeFloat1, decodeSpecial, enc64, F64.bare, F64.zeros, F64.bit, F64.guard, F64.rd,
    F64.ra, req, m0, m1, m2, m3]

theorem sqrt (g : Guard) (d : Reg) (a : Reg) (z : Bool) (w : CcW) : Statement (.sqrt g d a z w) := ofFields rfl <| by
  intro hwf f hf
  cases hf
  have := ccCode_lt w
  have := z.toNat_lt
  have m0 : modsOf (modByte (ccCode w * 32 + z.toNat * 2)) 0 1 = 0 := by rw [modsOf_modByte (by omega)]; omega
  have m1 : modsOf (modByte (ccCode w * 32 + z.toNat * 2)) 1 1 = z.toNat := by rw [modsOf_modByte (by omega)]; omega
  have m2 : modsOf (modByte (ccCode w * 32 + z.toNat * 2)) 2 3 = 0 := by rw [modsOf_modByte (by omega)]; omega
  have m3 : modsOf (modByte (ccCode w * 32 + z.toNat * 2)) 5 3 = ccCode w := by rw [modsOf_modByte (by omega)]; omega
  simp [decode64, decodeFloat1, decodeSpecial, enc64, F64.bare, F64.zeros, F64.bit, F64.guard, F64.rd,
    F64.ra, req, m0, m1, m2, m3]

theorem exp2 (g : Guard) (d : Reg) (a : Reg) (z : Bool) (w : CcW) : Statement (.exp2 g d a z w) := ofFields rfl <| by
  intro hwf f hf
  cases hf
  have := ccCode_lt w
  have := z.toNat_lt
  have m0 : modsOf (modByte (ccCode w * 32 + z.toNat * 2)) 0 1 = 0 := by rw [modsOf_modByte (by omega)]; omega
  have m1 : modsOf (modByte (ccCode w * 32 + z.toNat * 2)) 1 1 = z.toNat := by rw [modsOf_modByte (by omega)]; omega
  have m2 : modsOf (modByte (ccCode w * 32 + z.toNat * 2)) 2 3 = 0 := by rw [modsOf_modByte (by omega)]; omega
  have m3 : modsOf (modByte (ccCode w * 32 + z.toNat * 2)) 5 3 = ccCode w := by rw [modsOf_modByte (by omega)]; omega
  simp [decode64, decodeFloat1, decodeSpecial, enc64, F64.bare, F64.zeros, F64.bit, F64.guard, F64.rd,
    F64.ra, req, m0, m1, m2, m3]

theorem log2 (g : Guard) (d : Reg) (a : Reg) (z : Bool) (w : CcW) : Statement (.log2 g d a z w) := ofFields rfl <| by
  intro hwf f hf
  cases hf
  have := ccCode_lt w
  have := z.toNat_lt
  have m0 : modsOf (modByte (ccCode w * 32 + z.toNat * 2)) 0 1 = 0 := by rw [modsOf_modByte (by omega)]; omega
  have m1 : modsOf (modByte (ccCode w * 32 + z.toNat * 2)) 1 1 = z.toNat := by rw [modsOf_modByte (by omega)]; omega
  have m2 : modsOf (modByte (ccCode w * 32 + z.toNat * 2)) 2 3 = 0 := by rw [modsOf_modByte (by omega)]; omega
  have m3 : modsOf (modByte (ccCode w * 32 + z.toNat * 2)) 5 3 = ccCode w := by rw [modsOf_modByte (by omega)]; omega
  simp [decode64, decodeFloat1, decodeSpecial, enc64, F64.bare, F64.zeros, F64.bit, F64.guard, F64.rd,
    F64.ra, req, m0, m1, m2, m3]

theorem sin (g : Guard) (d : Reg) (a : Reg) (z : Bool) (w : CcW) : Statement (.sin g d a z w) := ofFields rfl <| by
  intro hwf f hf
  cases hf
  have := ccCode_lt w
  have := z.toNat_lt
  have m0 : modsOf (modByte (ccCode w * 32 + z.toNat * 2)) 0 1 = 0 := by rw [modsOf_modByte (by omega)]; omega
  have m1 : modsOf (modByte (ccCode w * 32 + z.toNat * 2)) 1 1 = z.toNat := by rw [modsOf_modByte (by omega)]; omega
  have m2 : modsOf (modByte (ccCode w * 32 + z.toNat * 2)) 2 3 = 0 := by rw [modsOf_modByte (by omega)]; omega
  have m3 : modsOf (modByte (ccCode w * 32 + z.toNat * 2)) 5 3 = ccCode w := by rw [modsOf_modByte (by omega)]; omega
  simp [decode64, decodeFloat1, decodeSpecial, enc64, F64.bare, F64.zeros, F64.bit, F64.guard, F64.rd,
    F64.ra, req, m0, m1, m2, m3]

theorem cos (g : Guard) (d : Reg) (a : Reg) (z : Bool) (w : CcW) : Statement (.cos g d a z w) := ofFields rfl <| by
  intro hwf f hf
  cases hf
  have := ccCode_lt w
  have := z.toNat_lt
  have m0 : modsOf (modByte (ccCode w * 32 + z.toNat * 2)) 0 1 = 0 := by rw [modsOf_modByte (by omega)]; omega
  have m1 : modsOf (modByte (ccCode w * 32 + z.toNat * 2)) 1 1 = z.toNat := by rw [modsOf_modByte (by omega)]; omega
  have m2 : modsOf (modByte (ccCode w * 32 + z.toNat * 2)) 2 3 = 0 := by rw [modsOf_modByte (by omega)]; omega
  have m3 : modsOf (modByte (ccCode w * 32 + z.toNat * 2)) 5 3 = ccCode w := by rw [modsOf_modByte (by omega)]; omega
  simp [decode64, decodeFloat1, decodeSpecial, enc64, F64.bare, F64.zeros, F64.bit, F64.guard, F64.rd,
    F64.ra, req, m0, m1, m2, m3]

theorem tanh (g : Guard) (d : Reg) (a : Reg) (z : Bool) (w : CcW) : Statement (.tanh g d a z w) := ofFields rfl <| by
  intro hwf f hf
  cases hf
  have := ccCode_lt w
  have := z.toNat_lt
  have m0 : modsOf (modByte (ccCode w * 32 + z.toNat * 2)) 0 1 = 0 := by rw [modsOf_modByte (by omega)]; omega
  have m1 : modsOf (modByte (ccCode w * 32 + z.toNat * 2)) 1 1 = z.toNat := by rw [modsOf_modByte (by omega)]; omega
  have m2 : modsOf (modByte (ccCode w * 32 + z.toNat * 2)) 2 3 = 0 := by rw [modsOf_modByte (by omega)]; omega
  have m3 : modsOf (modByte (ccCode w * 32 + z.toNat * 2)) 5 3 = ccCode w := by rw [modsOf_modByte (by omega)]; omega
  simp [decode64, decodeFloat1, decodeSpecial, enc64, F64.bare, F64.zeros, F64.bit, F64.guard, F64.rd,
    F64.ra, req, m0, m1, m2, m3]

theorem f2i (g : Guard) (d : Reg) (a : Reg) (r : Rnd) (u : Bool) (w : CcW) : Statement (.f2i g d a r u w) := ofFields rfl <| by
  intro hwf f hf
  cases hf
  have := ccCode_lt w
  have := Rnd_code_lt r
  have := u.toNat_lt
  have m0 : modsOf (modByte (ccCode w * 32 + r.code * 4 + u.toNat)) 0 1 = u.toNat := by
    rw [modsOf_modByte (by omega)]; omega
  have m1 : modsOf (modByte (ccCode w * 32 + r.code * 4 + u.toNat)) 1 1 = 0 := by
    rw [modsOf_modByte (by omega)]; omega
  have m2 : modsOf (modByte (ccCode w * 32 + r.code * 4 + u.toNat)) 2 3 = r.code := by
    rw [modsOf_modByte (by omega)]; omega
  have m3 : modsOf (modByte (ccCode w * 32 + r.code * 4 + u.toNat)) 5 3 = ccCode w := by
    rw [modsOf_modByte (by omega)]; omega
  simp [decode64, decodeFloat1, enc64, F64.bare, F64.zeros, F64.bit, F64.guard, F64.rd, F64.ra, req, m0, m1, m2, m3]

theorem i2f (g : Guard) (d : Reg) (a : Reg) (r : Rnd) (u : Bool) (w : CcW) : Statement (.i2f g d a r u w) := ofFields rfl <| by
  intro hwf f hf
  cases hf
  have := ccCode_lt w
  have := Rnd_code_lt r
  have := u.toNat_lt
  have m0 : modsOf (modByte (ccCode w * 32 + r.code * 4 + u.toNat)) 0 1 = u.toNat := by
    rw [modsOf_modByte (by omega)]; omega
  have m1 : modsOf (modByte (ccCode w * 32 + r.code * 4 + u.toNat)) 1 1 = 0 := by
    rw [modsOf_modByte (by omega)]; omega
  have m2 : modsOf (modByte (ccCode w * 32 + r.code * 4 + u.toNat)) 2 3 = r.code := by
    rw [modsOf_modByte (by omega)]; omega
  have m3 : modsOf (modByte (ccCode w * 32 + r.code * 4 + u.toNat)) 5 3 = ccCode w := by
    rw [modsOf_modByte (by omega)]; omega
  simp [decode64, decodeFloat1, enc64, F64.bare, F64.zeros, F64.bit, F64.guard, F64.rd, F64.ra, req, m0, m1, m2, m3]

theorem cvp (g : Guard) (d : Reg) (a : Reg) (q : CvpSel) (r : Rnd) (s : Bool) : Statement (.cvp g d a q r s) := ofFields rfl <| by
  intro hwf f hf
  cases q with
  | h2 bf b =>
    cases hf
    have := bf.toNat_lt
    have := Rnd_code_lt r
    have := s.toNat_lt
    have m0 : modsOf (modByte (bf.toNat * 32 + r.code * 4 + s.toNat * 2)) 0 1 = 0 := by
      rw [modsOf_modByte (by omega)]; omega
    have m1 : modsOf (modByte (bf.toNat * 32 + r.code * 4 + s.toNat * 2)) 1 1 = s.toNat := by
      rw [modsOf_modByte (by omega)]; omega
    have m2 : modsOf (modByte (bf.toNat * 32 + r.code * 4 + s.toNat * 2)) 2 3 = r.code := by
      rw [modsOf_modByte (by omega)]; omega
    have m3 : modsOf (modByte (bf.toNat * 32 + r.code * 4 + s.toNat * 2)) 5 3 = bf.toNat := by
      rw [modsOf_modByte (by omega)]; omega
    simp [decode64, decodeFloat1, decodeCvpSel, enc64, F64.bare, F64.zeros, F64.bit, F64.guard, F64.rd,
      F64.ra, F64.rb, req, m0, m1, m2, m3] <;>
      cases bf <;> simp_all
  | q4 e5 =>
    cases hf
    have := e5.toNat_lt
    have := Rnd_code_lt r
    have := s.toNat_lt
    have m0 : modsOf (modByte ((2 + e5.toNat) * 32 + r.code * 4 + s.toNat * 2)) 0 1 = 0 := by
      rw [modsOf_modByte (by omega)]; omega
    have m1 : modsOf (modByte ((2 + e5.toNat) * 32 + r.code * 4 + s.toNat * 2)) 1 1 = s.toNat := by
      rw [modsOf_modByte (by omega)]; omega
    have m2 : modsOf (modByte ((2 + e5.toNat) * 32 + r.code * 4 + s.toNat * 2)) 2 3 = r.code := by
      rw [modsOf_modByte (by omega)]; omega
    have m3 : modsOf (modByte ((2 + e5.toNat) * 32 + r.code * 4 + s.toNat * 2)) 5 3 = (2 + e5.toNat) := by
      rw [modsOf_modByte (by omega)]; omega
    simp [decode64, decodeFloat1, decodeCvpSel, enc64, F64.bare, F64.zeros, F64.bit, F64.guard, F64.rd,
      F64.ra, F64.rb, req, m0, m1, m2, m3] <;>
      cases e5 <;> simp_all
  | e2m1 h =>
    cases hf
    have := Rnd_code_lt r
    have := s.toNat_lt
    have := h.toNat_lt
    have m0 : modsOf (modByte (128 + r.code * 4 + s.toNat * 2 + h.toNat)) 0 1 = h.toNat := by
      rw [modsOf_modByte (by omega)]; omega
    have m1 : modsOf (modByte (128 + r.code * 4 + s.toNat * 2 + h.toNat)) 1 1 = s.toNat := by
      rw [modsOf_modByte (by omega)]; omega
    have m2 : modsOf (modByte (128 + r.code * 4 + s.toNat * 2 + h.toNat)) 2 3 = r.code := by
      rw [modsOf_modByte (by omega)]; omega
    have m3 : modsOf (modByte (128 + r.code * 4 + s.toNat * 2 + h.toNat)) 5 3 = 4 := by
      rw [modsOf_modByte (by omega)]; omega
    simp [decode64, decodeFloat1, decodeCvpSel, enc64, F64.bare, F64.zeros, F64.bit, F64.guard, F64.rd,
      F64.ra, req, m0, m1, m2, m3]

theorem cvu (g : Guard) (d : Reg) (a : Reg) (q : CvuSel) : Statement (.cvu g d a q) := ofFields rfl <| by
  intro hwf f hf
  cases q with
  | h2 bf =>
    cases hf
    have := bf.toNat_lt
    have m0 : modsOf (modByte (bf.toNat * 32)) 0 1 = 0 := by rw [modsOf_modByte (by omega)]; omega
    have m1 : modsOf (modByte (bf.toNat * 32)) 1 4 = 0 := by rw [modsOf_modByte (by omega)]; omega
    have m2 : modsOf (modByte (bf.toNat * 32)) 5 3 = bf.toNat := by rw [modsOf_modByte (by omega)]; omega
    simp [decode64, decodeFloat1, decodeCvuSel, enc64, F64.bare, F64.zeros, F64.bit, F64.guard, F64.rd,
      F64.ra, req, m0, m1, m2] <;>
      cases bf <;> simp_all
  | q4 e5 =>
    cases hf
    have := e5.toNat_lt
    have m0 : modsOf (modByte ((2 + e5.toNat) * 32)) 0 1 = 0 := by rw [modsOf_modByte (by omega)]; omega
    have m1 : modsOf (modByte ((2 + e5.toNat) * 32)) 1 4 = 0 := by rw [modsOf_modByte (by omega)]; omega
    have m2 : modsOf (modByte ((2 + e5.toNat) * 32)) 5 3 = (2 + e5.toNat) := by rw [modsOf_modByte (by omega)]; omega
    simp [decode64, decodeFloat1, decodeCvuSel, enc64, F64.bare, F64.zeros, F64.bit, F64.guard, F64.rd,
      F64.ra, req, m0, m1, m2] <;>
      cases e5 <;> simp_all
  | e2m1 h =>
    cases hf
    have := h.toNat_lt
    have m0 : modsOf (modByte (128 + h.toNat)) 0 1 = h.toNat := by rw [modsOf_modByte (by omega)]; omega
    have m1 : modsOf (modByte (128 + h.toNat)) 1 4 = 0 := by rw [modsOf_modByte (by omega)]; omega
    have m2 : modsOf (modByte (128 + h.toNat)) 5 3 = 4 := by rw [modsOf_modByte (by omega)]; omega
    simp [decode64, decodeFloat1, decodeCvuSel, enc64, F64.bare, F64.zeros, F64.bit, F64.guard, F64.rd,
      F64.ra, req, m0, m1, m2]

theorem dot4 (g : Guard) (d a b c : Reg) (q : Dot4Mode) : Statement (.dot4 g d a b c q) := ofFields rfl <| by
  intro _ f hf
  cases q with
  | flt x y r =>
    cases hf
    cases x <;> cases y <;> cases r <;>
      simp [decode64, decodeFloat1, decodeDot4, enc64, F64.bare, F64.guard, F64.rd, F64.ra, F64.rb, F64.rc, req,
        modsOf, modByte, Rnd.code, Rnd.ofCode]
  | int x y s =>
    cases hf
    cases x <;> cases y <;> cases s <;>
      simp [decode64, decodeFloat1, decodeDot4, enc64, F64.bare, F64.bit, F64.guard, F64.rd, F64.ra, F64.rb, F64.rc, req,
        modsOf, modByte]

theorem dot8 (g : Guard) (d a b c : Reg) (q : Dot8Mode) : Statement (.dot8 g d a b c q) := ofFields rfl <| by
  intro _ f hf
  cases q with
  | flt r =>
    cases hf
    cases r <;>
      simp [decode64, decodeFloat1, decodeDot8, enc64, F64.bare, F64.guard, F64.rd, F64.ra, F64.rb, F64.rc, req,
        modsOf, modByte, Rnd.code, Rnd.ofCode]
  | int x y s =>
    cases hf
    cases x <;> cases y <;> cases s <;>
      simp [decode64, decodeFloat1, decodeDot8, enc64, F64.bare, F64.bit, F64.guard, F64.rd, F64.ra, F64.rb, F64.rc, req,
        modsOf, modByte]

theorem scale (g : Guard) (d : Reg) (a : Reg) (b : Reg) (r : Rnd) (y : Fin 4) (w : CcW) : Statement (.scale g d a b r y w) := ofFields rfl <| by
  intro hwf f hf
  cases hf
  have := ccCode_lt w
  have := Rnd_code_lt r
  have := y.isLt
  have m0 : modsOf (modByte (ccCode w * 32 + r.code * 4 + y.val)) 0 2 = y.val := by
    rw [modsOf_modByte (by omega)]; omega
  have m1 : modsOf (modByte (ccCode w * 32 + r.code * 4 + y.val)) 2 3 = r.code := by
    rw [modsOf_modByte (by omega)]; omega
  have m2 : modsOf (modByte (ccCode w * 32 + r.code * 4 + y.val)) 5 3 = ccCode w := by
    rw [modsOf_modByte (by omega)]; omega
  simp [decode64, decodeFloat1, enc64, F64.bare, F64.zeros, F64.two, F64.guard, F64.rd, F64.ra, F64.rb, req,
    m0, m1, m2]

theorem rand (g : Guard) (d : Reg) (q : RandMode) : Statement (.rand g d q) := ofFields rfl <| by
  intro hwf f hf
  cases q with
  | plain =>
    cases hf
    simp [decode64, decodeFloat1, decodeRand, enc64, F64.bare, F64.zeros, F64.guard, F64.rd, req]
  | w64 =>
    cases hf
    simp [decode64, decodeFloat1, decodeRand, enc64, F64.bare, F64.zeros, F64.guard, F64.rd, req]
  | f =>
    cases hf
    simp [decode64, decodeFloat1, decodeRand, enc64, F64.bare, F64.zeros, F64.guard, F64.rd, req]

theorem shfl (g : Guard) (d a : Reg) (b : LaneSrc) (m : ShflMode) (sp : Span) (w : CcW) :
    Statement (.shfl g d a b m sp w) := ofFields rfl <| by
  intro _ f hf
  have := ccCode_lt w
  have hm : m.code.1 < 4 := by rcases m with _ | _ | _ | _ <;> simp [ShflMode.code]
  have := m.code.2.toNat_lt
  have hsp := Span_code_lt sp
  have hb : b.enc.2.2 < 2 := by cases b <;> simp [LaneSrc.enc]
  have hn : ccCode w * 32 + b.enc.2.2 * 16 + m.code.1 * 4 + m.code.2.toNat * 2 < 256 := by omega
  have m0 := modsOf_modByte hn 0 1
  have m1 := modsOf_modByte hn 1 1
  have m2 := modsOf_modByte hn 2 2
  have m3 := modsOf_modByte hn 4 1
  have m4 := modsOf_modByte hn 5 3
  rw [show _ / 2 ^ 0 % 2 ^ 1 = 0 by omega] at m0
  rw [show _ / 2 ^ 1 % 2 ^ 1 = m.code.2.toNat by omega] at m1
  rw [show _ / 2 ^ 2 % 2 ^ 2 = m.code.1 by omega] at m2
  rw [show _ / 2 ^ 4 % 2 ^ 1 = b.enc.2.2 by omega] at m3
  rw [show _ / 2 ^ 5 % 2 ^ 3 = ccCode w by omega] at m4
  have hmode : ShflMode.ofCode m.code.1 m.code.2 = some m := by rcases m with _ | _ | _ | _ <;> rfl
  cases b with
  | reg r =>
    cases hf
    have c1 : sp.code * 256 % 1024 = sp.code * 256 := by omega
    have c2 : sp.code * 256 / 32 % 8 = 0 := by omega
    have c3 : sp.code * 256 % 32 = 0 := by omega
    have c4 : sp.code * 256 / 256 = sp.code := by omega
    simp only [LaneSrc.enc, Nat.zero_mul, Nat.add_zero] at m0 m1 m2 m3 m4
    simp [decode64, decodeCross, decodeLane, LaneSrc.enc, enc64, F64.bare, F64.bit, F64.guard, F64.rd, F64.ra, F64.rb, req, m0,
      m1, m2, m3, m4, c1, c2, c3, c4, hmode]
  | imm n =>
    have := n.isLt
    cases hf
    have c1 : (sp.code * 256 + n.toNat) % 1024 = sp.code * 256 + n.toNat := by omega
    have c2 : (sp.code * 256 + n.toNat) / 32 % 8 = 0 := by omega
    have c3 : (sp.code * 256 + n.toNat) % 32 = n.toNat := by omega
    have c4 : (sp.code * 256 + n.toNat) / 256 = sp.code := by omega
    simp only [LaneSrc.enc, Nat.one_mul] at m0 m1 m2 m3 m4
    simp [decode64, decodeCross, decodeLane, LaneSrc.enc, enc64, F64.bare, F64.bit, F64.guard, F64.rd, F64.ra, req, m0,
      m1, m2, m3, m4, c1, c2, c3, c4, hmode]

theorem lpush (g : Guard) (d a : Reg) (b : LaneSrc) (w : CcW) : Statement (.lpush g d a b w) := ofFields rfl <| by
  intro _ f hf
  have hr := shift_reg w
  have hi := shift_imm w
  cases b with
  | reg r =>
    cases hf
    simp [decode64, decodeCross, decodeLane, LaneSrc.enc, enc64, F64.bare, F64.bit, F64.guard, F64.rd, F64.ra, F64.rb, req, hr]
  | imm n =>
    have := n.isLt
    have c1 : n.toNat % 1024 = n.toNat := by omega
    have c2 : n.toNat < 32 := by omega
    cases hf
    simp [decode64, decodeCross, decodeLane, LaneSrc.enc, enc64, F64.bare, F64.bit, F64.guard, F64.rd, F64.ra, req, hi, c1, c2]

theorem matchKeys (g : Guard) (d : Reg) (a : Reg) (x : Bool) (w : CcW) : Statement (.matchKeys g d a x w) := ofFields rfl <| by
  intro hwf f hf
  cases hf
  have := ccCode_lt w
  have := x.toNat_lt
  have m0 : modsOf (modByte (ccCode w * 32 + x.toNat * 16)) 0 4 = 0 := by rw [modsOf_modByte (by omega)]; omega
  have m1 : modsOf (modByte (ccCode w * 32 + x.toNat * 16)) 4 1 = x.toNat := by rw [modsOf_modByte (by omega)]; omega
  have m2 : modsOf (modByte (ccCode w * 32 + x.toNat * 16)) 5 3 = ccCode w := by rw [modsOf_modByte (by omega)]; omega
  simp [decode64, decodeCross, enc64, F64.bare, F64.zeros, F64.bit, F64.guard, F64.rd, F64.ra, req, m0, m1, m2]

theorem vote (g : Guard) (d : Reg) (a : Reg) (o : VoteOp) (w : CcW) : Statement (.vote g d a o w) := ofFields rfl <| by
  intro hwf f hf
  cases hf
  have := ccCode_lt w
  have := VoteOp_code_lt o
  have m0 : modsOf (modByte (ccCode w * 32 + o.code * 2)) 0 1 = 0 := by rw [modsOf_modByte (by omega)]; omega
  have m1 : modsOf (modByte (ccCode w * 32 + o.code * 2)) 1 3 = o.code := by rw [modsOf_modByte (by omega)]; omega
  have m2 : modsOf (modByte (ccCode w * 32 + o.code * 2)) 4 1 = 0 := by rw [modsOf_modByte (by omega)]; omega
  have m3 : modsOf (modByte (ccCode w * 32 + o.code * 2)) 5 3 = ccCode w := by rw [modsOf_modByte (by omega)]; omega
  simp [decode64, decodeCross, enc64, F64.bare, F64.zeros, F64.guard, F64.rd, F64.ra, req, m0, m1, m2, m3]

theorem redl (g : Guard) (d a : Reg) (s : RedSel) : Statement (.redl g d a s) := ofFields rfl <| by
  intro _ f hf
  cases hf
  rcases s with o | o | ⟨o, z⟩ <;> cases o <;> (try cases z) <;>
    simp [decode64, decodeCross, enc64, F64.bare, F64.zeros, F64.bit, F64.guard, F64.rd, F64.ra, req, modsOf, modByte,
      RedSel.code, RedSel.ofCode, RedIntOp.code, RedIntOp.ofCode, RedFltOp.code, RedFltOp.ofCode]

theorem scanl (g : Guard) (d a : Reg) (s : RedSel) (x : Bool) : Statement (.scanl g d a s x) := ofFields rfl <| by
  intro _ f hf
  cases hf
  cases x <;> rcases s with o | o | ⟨o, z⟩ <;> cases o <;> (try cases z) <;>
    simp [decode64, decodeCross, enc64, F64.bare, F64.zeros, F64.bit, F64.guard, F64.rd, F64.ra, req, modsOf, modByte,
      RedSel.code, RedSel.ofCode, RedIntOp.code, RedIntOp.ofCode, RedFltOp.code, RedFltOp.ofCode]

theorem topk (g : Guard) (dv di vs : Reg) (n : Fin 4) (k : BitVec 5) (t : TopkType) :
    Statement (.topk g dv di vs n k t) := ofFields rfl <| by
  intro _ f hf
  cases hf
  have := TopkType_code_lt t
  have hn : t.code < 256 := by omega
  have m0 : modsOf (modByte t.code) 0 2 = t.code := by rw [modsOf_modByte hn]; omega
  have m1 : modsOf (modByte t.code) 2 6 = 0 := by rw [modsOf_modByte hn]; omega
  have := n.isLt
  have := k.isLt
  have c1 : (n.val * 32 + k.toNat) % 1024 = n.val * 32 + k.toNat := by omega
  have c2 : n.val * 32 + k.toNat < 128 := by omega
  have c3 : (n.val * 32 + k.toNat) / 32 % 4 = n.val := by omega
  have c4 : k.toNat % 32 = k.toNat := by omega
  simp [decode64, decodeCross, enc64, F64.bare, F64.guard, F64.rd, F64.ra, F64.rb, req, m0, m1, c1, c2, c3, c4]

theorem regroup (g : Guard) (a : Reg) : Statement (.regroup g a) := ofFields rfl <| by
  intro hwf f hf
  cases hf
  simp [decode64, decodeCross, enc64, F64.bare, F64.zeros, F64.guard, F64.ra, req]

theorem regroupRelease (gid : Nat) (core : Nat) : Statement (.regroupRelease gid core) := noCode rfl rfl

theorem ld (g : Guard) (d a : Reg) (o : MemOff) (fs : Bool) (w : Width) (sp : Space) (na : Bool) (q : Option Scope) :
    Statement (.ld g d a o fs w sp na q) := ofFields rfl <| by
  intro hwf f hf
  obtain ⟨h0, h1⟩ := check2 hwf
  have := fs.toNat_lt
  have := Width_code_lt w
  have := Space_code_lt sp
  have := na.toNat_lt
  have := q.isSome.toNat_lt
  have hn : fs.toNat * 128 + w.code * 16 + sp.code * 4 + na.toNat * 2 + q.isSome.toNat < 256 := by omega
  have m0 := modsOf_modByte hn 0 1
  have m1 := modsOf_modByte hn 1 1
  have m2 := modsOf_modByte hn 2 2
  have m3 := modsOf_modByte hn 4 3
  have m4 := modsOf_modByte hn 7 1
  rw [show _ / 2 ^ 0 % 2 ^ 1 = q.isSome.toNat by omega] at m0
  rw [show _ / 2 ^ 1 % 2 ^ 1 = na.toNat by omega] at m1
  rw [show _ / 2 ^ 2 % 2 ^ 2 = sp.code by omega] at m2
  rw [show _ / 2 ^ 4 % 2 ^ 3 = w.code by omega] at m3
  rw [show _ / 2 ^ 7 % 2 ^ 1 = fs.toNat by omega] at m4
  simp at h0 h1
  cases q with
  | none =>
    simp only [Option.isSome_none, Bool.toNat_false, Nat.add_zero] at m0 m1 m2 m3 m4
    cases o <;> cases hf <;>
      simp [decode64, decodeMemory, decodeAcq, encMem, enc64, F64.bit, F64.guard, F64.rd, F64.ra, req, h0, m0, m1, m2, m3, m4]
  | some s =>
    have := Scope_code_lt s
    have c : s.code % 1024 = s.code := by omega
    simp only [Option.isSome_some, Bool.toNat_true] at m0 m1 m2 m3 m4
    simp at h1
    simp only [h1, or_false] at h0
    cases o <;> cases hf <;>
      simp [decode64, decodeMemory, decodeAcq, encMem, enc64, F64.bit, F64.guard, F64.rd, F64.ra, req, h0, h1, c, m0, m1, m2,
        m3, m4]

theorem st (g : Guard) (a b : Reg) (o : MemOff) (fs : Bool) (w : Width) (sp : Space) (rel : Bool) (sc : Scope) :
    Statement (.st g a b o fs w sp rel sc) := ofFields rfl <| by
  intro hwf f hf
  obtain ⟨h0, h1⟩ := check2 hwf
  have := fs.toNat_lt
  have := Width_code_lt w
  have := Space_code_lt sp
  have := rel.toNat_lt
  have hn : fs.toNat * 128 + w.code * 16 + sp.code * 4 + rel.toNat < 256 := by omega
  have m0 := modsOf_modByte hn 0 1
  have m1 := modsOf_modByte hn 1 1
  have m2 := modsOf_modByte hn 2 2
  have m3 := modsOf_modByte hn 4 3
  have m4 := modsOf_modByte hn 7 1
  rw [show _ / 2 ^ 0 % 2 ^ 1 = rel.toNat by omega] at m0
  rw [show _ / 2 ^ 1 % 2 ^ 1 = 0 by omega] at m1
  rw [show _ / 2 ^ 2 % 2 ^ 2 = sp.code by omega] at m2
  rw [show _ / 2 ^ 4 % 2 ^ 3 = w.code by omega] at m3
  rw [show _ / 2 ^ 7 % 2 ^ 1 = fs.toNat by omega] at m4
  have := Scope_code_lt sc
  have c : sc.code % 1024 = sc.code := by omega
  have hw : w.code < 5 := by cases w <;> first | decide | cases h0
  simp at h1
  cases o <;> cases hf <;>
    simp [decode64, decodeMemory, encMem, enc64, F64.bit, F64.guard, F64.ra, F64.rb, req, hw, h1, c, m0, m1, m2, m3, m4]

theorem atom (g : Guard) (d a : Reg) (b : Src) (fs : Bool) (op : AtomOp) (o : MemOrder) (sc : Scope) (sp : Space3) :
    Statement (.atom g d a b fs op o sc sp) := ofFields rfl <| by
  intro hwf f hf
  have hc := check1 hwf
  cases hf
  have := fs.toNat_lt
  have := AtomOp_code_lt op
  have m0 : modsOf (modByte (fs.toNat * 128 + op.code * 4)) 0 2 = 0 := by rw [modsOf_modByte (by omega)]; omega
  have m1 : modsOf (modByte (fs.toNat * 128 + op.code * 4)) 2 5 = op.code := by rw [modsOf_modByte (by omega)]; omega
  have m2 : modsOf (modByte (fs.toNat * 128 + op.code * 4)) 7 1 = fs.toNat := by rw [modsOf_modByte (by omega)]; omega
  have := MemOrder_code_lt o
  have := Scope_code_lt sc
  have := Space3_code_lt sp
  have c0 : (o.code * 32 + sc.code * 4 + sp.code) % 1024 = o.code * 32 + sc.code * 4 + sp.code := by omega
  have c1 : o.code * 32 + sc.code * 4 + sp.code < 128 := by omega
  have c2 : (o.code * 32 + sc.code * 4 + sp.code) / 4 % 8 = sc.code := by omega
  have c3 : (o.code * 32 + sc.code * 4 + sp.code) % 4 = sp.code := by omega
  have c4 : (o.code * 32 + sc.code * 4 + sp.code) / 32 % 4 = o.code := by omega
  simp at hc
  simp [decode64, decodeMemory, encB, enc64, F64.bit, F64.guard, F64.rd, F64.ra, req, hc, m0, m1, m2, c0, c1, c2, c3, c4]

theorem red (g : Guard) (a : Reg) (b : Src) (fs : Bool) (op : AtomOp) (o : MemOrder) (sc : Scope) (sp : Space3) :
    Statement (.red g a b fs op o sc sp) := ofFields rfl <| by
  intro hwf f hf
  obtain ⟨h0, h1, h2⟩ := check3 hwf
  cases hf
  have := fs.toNat_lt
  have := AtomOp_code_lt op
  have m0 : modsOf (modByte (fs.toNat * 128 + op.code * 4)) 0 2 = 0 := by rw [modsOf_modByte (by omega)]; omega
  have m1 : modsOf (modByte (fs.toNat * 128 + op.code * 4)) 2 5 = op.code := by rw [modsOf_modByte (by omega)]; omega
  have m2 : modsOf (modByte (fs.toNat * 128 + op.code * 4)) 7 1 = fs.toNat := by rw [modsOf_modByte (by omega)]; omega
  have := MemOrder_code_lt o
  have := Scope_code_lt sc
  have := Space3_code_lt sp
  have c0 : (o.code * 32 + sc.code * 4 + sp.code) % 1024 = o.code * 32 + sc.code * 4 + sp.code := by omega
  have c1 : o.code * 32 + sc.code * 4 + sp.code < 128 := by omega
  have c2 : (o.code * 32 + sc.code * 4 + sp.code) / 4 % 8 = sc.code := by omega
  have c3 : (o.code * 32 + sc.code * 4 + sp.code) % 4 = sp.code := by omega
  have c4 : (o.code * 32 + sc.code * 4 + sp.code) / 32 % 4 = o.code := by omega
  simp at h0 h1 h2
  simp [decode64, decodeMemory, encB, enc64, F64.zeros, F64.bit, F64.guard, F64.ra, req, h0, h1, h2, m0, m1, m2, c0, c1,
    c2, c3, c4]

theorem fence (g : Guard) (sc : Scope) (k : FenceKind) : Statement (.fence g sc k) := ofFields rfl <| by
  intro hwf f hf
  cases hf
  have := Scope_code_lt sc
  have := FenceKind_code_lt k
  have m0 : modsOf (modByte (sc.code * 16 + k.code * 4)) 0 2 = 0 := by rw [modsOf_modByte (by omega)]; omega
  have m1 : modsOf (modByte (sc.code * 16 + k.code * 4)) 2 2 = k.code := by rw [modsOf_modByte (by omega)]; omega
  have m2 : modsOf (modByte (sc.code * 16 + k.code * 4)) 4 3 = sc.code := by rw [modsOf_modByte (by omega)]; omega
  have m3 : modsOf (modByte (sc.code * 16 + k.code * 4)) 7 1 = 0 := by rw [modsOf_modByte (by omega)]; omega
  simp [decode64, decodeMemory, enc64, F64.bare, F64.zeros, F64.guard, req, m0, m1, m2, m3]

theorem pref (g : Guard) (a : Reg) (o : MemOff) (lv : Bool) : Statement (.pref g a o lv) := ofFields rfl <| by
  intro hwf f hf
  cases o <;> cases hf
  · have := lv.toNat_lt
    have m0 : modsOf (modByte (lv.toNat * 4)) 0 2 = 0 := by rw [modsOf_modByte (by omega)]; omega
    have m1 : modsOf (modByte (lv.toNat * 4)) 2 1 = lv.toNat := by rw [modsOf_modByte (by omega)]; omega
    have m2 : modsOf (modByte (lv.toNat * 4)) 3 5 = 0 := by rw [modsOf_modByte (by omega)]; omega
    simp [decode64, decodeMemory, encMem, enc64, F64.zeros, F64.bit, F64.guard, F64.ra, req, m0, m1, m2]
  · have := lv.toNat_lt
    have m0 : modsOf (modByte (lv.toNat * 4)) 0 2 = 0 := by rw [modsOf_modByte (by omega)]; omega
    have m1 : modsOf (modByte (lv.toNat * 4)) 2 1 = lv.toNat := by rw [modsOf_modByte (by omega)]; omega
    have m2 : modsOf (modByte (lv.toNat * 4)) 3 5 = 0 := by rw [modsOf_modByte (by omega)]; omega
    simp [decode64, decodeMemory, encMem, enc64, F64.zeros, F64.bit, F64.guard, F64.ra, req, m0, m1, m2]

theorem tcopy (g : Guard) (d a b : Reg) (fs : Bool) (dir : CopyDir) (q : Option (Fin 8 × Reg)) :
    Statement (.tcopy g d a b fs dir q) := ofFields rfl <| by
  intro hwf f hf
  have hc := check1 hwf
  have := fs.toNat_lt
  have := CopyDir_code_lt dir
  cases q with
  | none =>
    cases hf
    have m0 : modsOf (modByte (fs.toNat * 128 + dir.code * 16)) 0 3 = 0 := by rw [modsOf_modByte (by omega)]; omega
    have m1 : modsOf (modByte (fs.toNat * 128 + dir.code * 16)) 3 1 = 0 := by rw [modsOf_modByte (by omega)]; omega
    have m2 : modsOf (modByte (fs.toNat * 128 + dir.code * 16)) 4 3 = dir.code := by
      rw [modsOf_modByte (by omega)]; omega
    have m3 : modsOf (modByte (fs.toNat * 128 + dir.code * 16)) 7 1 = fs.toNat := by
      rw [modsOf_modByte (by omega)]; omega
    simp [decode64, decodeMemory, decodePost, enc64, F64.bare, F64.bit, F64.guard, F64.rd, F64.ra, F64.rb,
      req, m0, m1, m2, m3]
  | some q =>
    obtain ⟨r, s⟩ := q
    cases hf
    have := r.isLt
    have m0 : modsOf (modByte (fs.toNat * 128 + dir.code * 16 + 8 + r.val)) 0 3 = r.val := by
      rw [modsOf_modByte (by omega)]; omega
    have m1 : modsOf (modByte (fs.toNat * 128 + dir.code * 16 + 8 + r.val)) 3 1 = 1 := by
      rw [modsOf_modByte (by omega)]; omega
    have m2 : modsOf (modByte (fs.toNat * 128 + dir.code * 16 + 8 + r.val)) 4 3 = dir.code := by
      rw [modsOf_modByte (by omega)]; omega
    have m3 : modsOf (modByte (fs.toNat * 128 + dir.code * 16 + 8 + r.val)) 7 1 = fs.toNat := by
      rw [modsOf_modByte (by omega)]; omega
    have hd : (dir.code = 0 ∨ dir.code = 5) ∨ dir.code = 7 := by cases dir <;> first | decide | cases hc
    simp [decode64, decodeMemory, decodePost, enc64, F64.bare, F64.bit, F64.ring, F64.guard, F64.rd, F64.ra, F64.rb, F64.rc,
      req, hd, m0, m1, m2, m3]

theorem copya (g : Guard) (d a b : Reg) (fs : Bool) (dir : CopyDir) (sc : Scope) :
    Statement (.copya g d a b fs dir sc) := ofFields rfl <| by
  intro hwf f hf
  have hc := check1 hwf
  cases hf
  have := fs.toNat_lt
  have := CopyDir_code_lt dir
  have := Scope_code_lt sc
  have m0 : modsOf (modByte (fs.toNat * 128 + dir.code * 16 + sc.code * 2)) 0 1 = 0 := by
    rw [modsOf_modByte (by omega)]; omega
  have m1 : modsOf (modByte (fs.toNat * 128 + dir.code * 16 + sc.code * 2)) 1 3 = sc.code := by
    rw [modsOf_modByte (by omega)]; omega
  have m2 : modsOf (modByte (fs.toNat * 128 + dir.code * 16 + sc.code * 2)) 4 3 = dir.code := by
    rw [modsOf_modByte (by omega)]; omega
  have m3 : modsOf (modByte (fs.toNat * 128 + dir.code * 16 + sc.code * 2)) 7 1 = fs.toNat := by
    rw [modsOf_modByte (by omega)]; omega
  have hd : dir.code ≠ 7 := by cases dir <;> first | decide | cases hc
  simp [decode64, decodeMemory, enc64, F64.bare, F64.zeros, F64.bit, F64.guard, F64.rd, F64.ra, F64.rb, req, hd, m0, m1,
    m2, m3]

theorem srinit (g : Guard) (a : Reg) (b : Reg) (c : Reg) (r : Fin 8) : Statement (.srinit g a b c r) := ofFields rfl <| by
  intro hwf f hf
  cases hf
  have := r.isLt
  have m0 : modsOf (modByte (r.val)) 0 3 = r.val := by rw [modsOf_modByte (by omega)]; omega
  have m1 : modsOf (modByte (r.val)) 3 5 = 0 := by rw [modsOf_modByte (by omega)]; omega
  simp [decode64, decodeMemory, enc64, F64.bare, F64.zeros, F64.ring, F64.guard, F64.ra, F64.rb, F64.rc, req, m0, m1]

theorem srwait (g : Guard) (a : Reg) (p : Bool) (e : Bool) (r : Fin 8) : Statement (.srwait g a p e r) := ofFields rfl <| by
  intro hwf f hf
  cases hf
  have := p.toNat_lt
  have := e.toNat_lt
  have := r.isLt
  have m0 : modsOf (modByte (p.toNat * 16 + e.toNat * 8 + r.val)) 0 3 = r.val := by
    rw [modsOf_modByte (by omega)]; omega
  have m1 : modsOf (modByte (p.toNat * 16 + e.toNat * 8 + r.val)) 3 1 = e.toNat := by
    rw [modsOf_modByte (by omega)]; omega
  have m2 : modsOf (modByte (p.toNat * 16 + e.toNat * 8 + r.val)) 4 1 = p.toNat := by
    rw [modsOf_modByte (by omega)]; omega
  have m3 : modsOf (modByte (p.toNat * 16 + e.toNat * 8 + r.val)) 5 3 = 0 := by rw [modsOf_modByte (by omega)]; omega
  simp [decode64, decodeMemory, enc64, F64.bare, F64.zeros, F64.bit, F64.ring, F64.guard, F64.ra, req, m0, m1, m2, m3]

theorem srpost (g : Guard) (a : Reg) (e : Bool) (r : Fin 8) : Statement (.srpost g a e r) := ofFields rfl <| by
  intro hwf f hf
  cases hf
  have := e.toNat_lt
  have := r.isLt
  have m0 : modsOf (modByte (e.toNat * 8 + r.val)) 0 3 = r.val := by rw [modsOf_modByte (by omega)]; omega
  have m1 : modsOf (modByte (e.toNat * 8 + r.val)) 3 1 = e.toNat := by rw [modsOf_modByte (by omega)]; omega
  have m2 : modsOf (modByte (e.toNat * 8 + r.val)) 4 4 = 0 := by rw [modsOf_modByte (by omega)]; omega
  simp [decode64, decodeMemory, enc64, F64.bare, F64.zeros, F64.bit, F64.ring, F64.guard, F64.ra, req, m0, m1, m2]

theorem rnmove (g : Guard) (a : Reg) (b : Reg) (c : Reg) (fs : Bool) (sc : Scope) : Statement (.rnmove g a b c fs sc) := ofFields rfl <| by
  intro hwf f hf
  cases hf
  have := fs.toNat_lt
  have := Scope_code_lt sc
  have m0 : modsOf (modByte (fs.toNat * 128 + sc.code * 16)) 0 4 = 0 := by rw [modsOf_modByte (by omega)]; omega
  have m1 : modsOf (modByte (fs.toNat * 128 + sc.code * 16)) 4 3 = sc.code := by rw [modsOf_modByte (by omega)]; omega
  have m2 : modsOf (modByte (fs.toNat * 128 + sc.code * 16)) 7 1 = fs.toNat := by
    rw [modsOf_modByte (by omega)]; omega
  simp [decode64, decodeRename, enc64, F64.bare, F64.zeros, F64.bit, F64.guard, F64.ra, F64.rb, F64.rc, req,
    m0, m1, m2]

theorem rnswap (g : Guard) (a : Reg) (b : Reg) (c : Reg) (fs : Bool) (sc : Scope) : Statement (.rnswap g a b c fs sc) := ofFields rfl <| by
  intro hwf f hf
  cases hf
  have := fs.toNat_lt
  have := Scope_code_lt sc
  have m0 : modsOf (modByte (fs.toNat * 128 + sc.code * 16)) 0 4 = 0 := by rw [modsOf_modByte (by omega)]; omega
  have m1 : modsOf (modByte (fs.toNat * 128 + sc.code * 16)) 4 3 = sc.code := by rw [modsOf_modByte (by omega)]; omega
  have m2 : modsOf (modByte (fs.toNat * 128 + sc.code * 16)) 7 1 = fs.toNat := by
    rw [modsOf_modByte (by omega)]; omega
  simp [decode64, decodeRename, enc64, F64.bare, F64.zeros, F64.bit, F64.guard, F64.ra, F64.rb, F64.rc, req,
    m0, m1, m2]

theorem rnalias (g : Guard) (a : Reg) (b : Reg) (c : Reg) (fs : Bool) (sc : Scope) : Statement (.rnalias g a b c fs sc) := ofFields rfl <| by
  intro hwf f hf
  cases hf
  have := fs.toNat_lt
  have := Scope_code_lt sc
  have m0 : modsOf (modByte (fs.toNat * 128 + sc.code * 16)) 0 4 = 0 := by rw [modsOf_modByte (by omega)]; omega
  have m1 : modsOf (modByte (fs.toNat * 128 + sc.code * 16)) 4 3 = sc.code := by rw [modsOf_modByte (by omega)]; omega
  have m2 : modsOf (modByte (fs.toNat * 128 + sc.code * 16)) 7 1 = fs.toNat := by
    rw [modsOf_modByte (by omega)]; omega
  simp [decode64, decodeRename, enc64, F64.bare, F64.zeros, F64.bit, F64.guard, F64.ra, F64.rb, F64.rc, req,
    m0, m1, m2]

theorem rnperm (g : Guard) (n : Reg) (a : Reg) (b : Reg) (c : Reg) (fs : Bool) (sc : Scope) :
    Statement (.rnperm g n a b c fs sc) := ofFields rfl <| by
  intro hwf f hf
  cases hf
  have := fs.toNat_lt
  have := Scope_code_lt sc
  have m0 : modsOf (modByte (fs.toNat * 128 + sc.code * 16)) 0 4 = 0 := by rw [modsOf_modByte (by omega)]; omega
  have m1 : modsOf (modByte (fs.toNat * 128 + sc.code * 16)) 4 3 = sc.code := by rw [modsOf_modByte (by omega)]; omega
  have m2 : modsOf (modByte (fs.toNat * 128 + sc.code * 16)) 7 1 = fs.toNat := by
    rw [modsOf_modByte (by omega)]; omega
  simp [decode64, decodeRename, enc64, F64.bare, F64.bit, F64.guard, F64.rd, F64.ra, F64.rb, F64.rc, req, m0, m1, m2]

theorem rndrop (g : Guard) (a : Reg) (c : Reg) (fs : Bool) (sc : Scope) : Statement (.rndrop g a c fs sc) := ofFields rfl <| by
  intro hwf f hf
  cases hf
  have := fs.toNat_lt
  have := Scope_code_lt sc
  have m0 : modsOf (modByte (fs.toNat * 128 + sc.code * 16)) 0 4 = 0 := by rw [modsOf_modByte (by omega)]; omega
  have m1 : modsOf (modByte (fs.toNat * 128 + sc.code * 16)) 4 3 = sc.code := by rw [modsOf_modByte (by omega)]; omega
  have m2 : modsOf (modByte (fs.toNat * 128 + sc.code * 16)) 7 1 = fs.toNat := by
    rw [modsOf_modByte (by omega)]; omega
  simp [decode64, decodeRename, enc64, F64.bare, F64.zeros, F64.bit, F64.guard, F64.ra, F64.rc, req, m0, m1, m2]

theorem rnfresh (g : Guard) (a : Reg) (c : Reg) (fs : Bool) (sc : Scope) (t : FreshTier) :
    Statement (.rnfresh g a c fs sc t) := ofFields rfl <| by
  intro hwf f hf
  cases hf
  have := fs.toNat_lt
  have := Scope_code_lt sc
  have := FreshTier_code_lt t
  have m0 : modsOf (modByte (fs.toNat * 128 + sc.code * 16 + t.code)) 0 2 = t.code := by
    rw [modsOf_modByte (by omega)]; omega
  have m1 : modsOf (modByte (fs.toNat * 128 + sc.code * 16 + t.code)) 2 2 = 0 := by
    rw [modsOf_modByte (by omega)]; omega
  have m2 : modsOf (modByte (fs.toNat * 128 + sc.code * 16 + t.code)) 4 3 = sc.code := by
    rw [modsOf_modByte (by omega)]; omega
  have m3 : modsOf (modByte (fs.toNat * 128 + sc.code * 16 + t.code)) 7 1 = fs.toNat := by
    rw [modsOf_modByte (by omega)]; omega
  simp [decode64, decodeRename, enc64, F64.bare, F64.zeros, F64.bit, F64.guard, F64.ra, F64.rc, req, m0, m1, m2, m3]

theorem rnquery (g : Guard) (d : Reg) (a : Reg) (fs : Bool) : Statement (.rnquery g d a fs) := ofFields rfl <| by
  intro hwf f hf
  cases hf
  have := fs.toNat_lt
  have m0 : modsOf (modByte (fs.toNat * 128)) 0 7 = 0 := by rw [modsOf_modByte (by omega)]; omega
  have m1 : modsOf (modByte (fs.toNat * 128)) 7 1 = fs.toNat := by rw [modsOf_modByte (by omega)]; omega
  simp [decode64, decodeRename, enc64, F64.bare, F64.zeros, F64.bit, F64.guard, F64.rd, F64.ra, req, m0, m1]

theorem mma (g : Guard) (t : BitVec 8) (a b : Reg) (q : Option MmaScale) (ck : Bool) (f : MmaFmt) :
    Statement (.mma g t a b q ck f) := ofFields rfl <| by
  intro hwf k hk
  obtain ⟨h0, h1⟩ := check2 hwf
  have := ck.toNat_lt
  have := MmaFmt_code_lt f
  have := t.isLt
  cases q with
  | none =>
    cases hk
    have m1 : modsOf (modByte (ck.toNat * 128 + f.code * 16)) 0 4 = 0 := by rw [modsOf_modByte (by omega)]; omega
    have m3 : modsOf (modByte (ck.toNat * 128 + f.code * 16)) 4 3 = f.code := by rw [modsOf_modByte (by omega)]; omega
    have m4 : modsOf (modByte (ck.toNat * 128 + f.code * 16)) 7 1 = ck.toNat := by
      rw [modsOf_modByte (by omega)]; omega
    have c1 : t.toNat % 1024 = t.toNat := by omega
    have c2 : t.toNat < 256 := by omega
    simp at h0
    simp [decode64, decodeMatrix, decodeScale, enc64, F64.bare, F64.bit, F64.guard, F64.ra, F64.rb, req, m1, m3, m4, c1, c2,
      h0, ofNat_mod]
  | some s =>
    cases hk
    have := s.sa.isLt
    have := s.sb.isLt
    have := s.p.isLt
    have hn : ck.toNat * 128 + f.code * 16 + s.sa.val * 4 + s.sb.val < 256 := by omega
    have m0 := modsOf_modByte hn 0 2
    have m2 := modsOf_modByte hn 2 2
    have m3 := modsOf_modByte hn 4 3
    have m4 := modsOf_modByte hn 7 1
    rw [show _ / 2 ^ 0 % 2 ^ 2 = s.sb.val by omega] at m0
    rw [show _ / 2 ^ 2 % 2 ^ 2 = s.sa.val by omega] at m2
    rw [show _ / 2 ^ 4 % 2 ^ 3 = f.code by omega] at m3
    rw [show _ / 2 ^ 7 % 2 ^ 1 = ck.toNat by omega] at m4
    have hp : s.pair.code ≠ 1023#10 := Reg_code_ne (by simpa using h1)
    have c1 : (s.p.val * 256 + t.toNat) % 1024 = s.p.val * 256 + t.toNat := by omega
    have c2 : (s.p.val * 256 + t.toNat) / 256 % 4 = s.p.val := by omega
    simp at h0
    simp [decode64, decodeMatrix, decodeScale, enc64, F64.bare, F64.bit, F64.two, F64.guard, F64.ra, F64.rb, F64.rc, req, m0,
      m2, m3, m4, c1, c2, h0, hp, ofNat_mod]

theorem mmaJ (g : Guard) (t : BitVec 8) (m : Bool) (cv : Fin 16) (ck : Bool) (f : MmaFmt) :
    Statement (.mmaJ g t m cv ck f) := ofFields rfl <| by
  intro hwf k hk
  have hc := check1 hwf
  cases hk
  have := ck.toNat_lt
  have := MmaFmt_code_lt f
  have m0 : modsOf (modByte (ck.toNat * 128 + f.code * 16)) 0 4 = 0 := by rw [modsOf_modByte (by omega)]; omega
  have m1 : modsOf (modByte (ck.toNat * 128 + f.code * 16)) 4 3 = f.code := by rw [modsOf_modByte (by omega)]; omega
  have m2 : modsOf (modByte (ck.toNat * 128 + f.code * 16)) 7 1 = ck.toNat := by rw [modsOf_modByte (by omega)]; omega
  have := m.toNat_lt
  have := cv.isLt
  have c1 : (m.toNat * 16 + cv.val) % 1024 = m.toNat * 16 + cv.val := by omega
  have c2 : m.toNat * 16 + cv.val < 32 := by omega
  have c3 : (m.toNat * 16 + cv.val) / 16 = m.toNat := by omega
  have c4 : (m.toNat * 16 + cv.val) % 16 = cv.val := by omega
  have c5 : cv.val % 16 = cv.val := by omega
  simp at hc
  simp [decode64, decodeMatrix, enc64, F64.bare, F64.zeros, F64.bit, F64.guard, req, hc, m0, m1, m2, c1, c2, c3, c5]

theorem accz (g : Guard) (t : BitVec 8) (n : BitVec 8) : Statement (.accz g t n) := ofFields rfl <| by
  intro hwf f hf
  cases hf
  simp [decode64, decodeMatrix, enc64, F64.bare, F64.zeros, F64.guard, req]

theorem accmv (g : Guard) (d : Reg) (q : Option Reg) (t : BitVec 8) (z : Bool) (fs : Bool) :
    Statement (.accmv g d q t z fs) := ofFields rfl <| by
  intro hwf f hf
  cases q with
  | none =>
    cases hf
    have := fs.toNat_lt
    have := z.toNat_lt
    have m0 : modsOf (modByte (fs.toNat * 128 + z.toNat * 32)) 0 5 = 0 := by rw [modsOf_modByte (by omega)]; omega
    have m1 : modsOf (modByte (fs.toNat * 128 + z.toNat * 32)) 5 1 = z.toNat := by
      rw [modsOf_modByte (by omega)]; omega
    have m2 : modsOf (modByte (fs.toNat * 128 + z.toNat * 32)) 6 1 = 0 := by rw [modsOf_modByte (by omega)]; omega
    have m3 : modsOf (modByte (fs.toNat * 128 + z.toNat * 32)) 7 1 = fs.toNat := by
      rw [modsOf_modByte (by omega)]; omega
    simp [decode64, decodeMatrix, enc64, F64.bare, F64.zeros, F64.bit, F64.guard, F64.rd, req, m0, m1, m2, m3]
  | some a =>
    cases hf
    have := fs.toNat_lt
    have := z.toNat_lt
    have m0 : modsOf (modByte (fs.toNat * 128 + 64 + z.toNat * 32)) 0 5 = 0 := by
      rw [modsOf_modByte (by omega)]; omega
    have m1 : modsOf (modByte (fs.toNat * 128 + 64 + z.toNat * 32)) 5 1 = z.toNat := by
      rw [modsOf_modByte (by omega)]; omega
    have m2 : modsOf (modByte (fs.toNat * 128 + 64 + z.toNat * 32)) 6 1 = 1 := by
      rw [modsOf_modByte (by omega)]; omega
    have m3 : modsOf (modByte (fs.toNat * 128 + 64 + z.toNat * 32)) 7 1 = fs.toNat := by
      rw [modsOf_modByte (by omega)]; omega
    simp [decode64, decodeMatrix, enc64, F64.bare, F64.zeros, F64.bit, F64.guard, F64.rd, F64.ra, req, m0, m1, m2, m3]

theorem accst (g : Guard) (q : Option Reg) (a : Reg) (t : BitVec 8) (p : Reg) (z : Bool) (s : Bool) (wf : TileFmt) (fs : Bool) :
    Statement (.accst g q a t p z s wf fs) := ofFields rfl <| by
  intro hwf f hf
  cases q with
  | none =>
    cases hf
    have := fs.toNat_lt
    have := z.toNat_lt
    have := s.toNat_lt
    have := TileFmt_code_lt wf
    have m0 : modsOf (modByte (fs.toNat * 128 + z.toNat * 32 + s.toNat * 16 + wf.code * 4)) 0 2 = 0 := by
      rw [modsOf_modByte (by omega)]; omega
    have m1 : modsOf (modByte (fs.toNat * 128 + z.toNat * 32 + s.toNat * 16 + wf.code * 4)) 2 2 = wf.code := by
      rw [modsOf_modByte (by omega)]; omega
    have m2 : modsOf (modByte (fs.toNat * 128 + z.toNat * 32 + s.toNat * 16 + wf.code * 4)) 4 1 = s.toNat := by
      rw [modsOf_modByte (by omega)]; omega
    have m3 : modsOf (modByte (fs.toNat * 128 + z.toNat * 32 + s.toNat * 16 + wf.code * 4)) 5 1 = z.toNat := by
      rw [modsOf_modByte (by omega)]; omega
    have m4 : modsOf (modByte (fs.toNat * 128 + z.toNat * 32 + s.toNat * 16 + wf.code * 4)) 6 1 = 0 := by
      rw [modsOf_modByte (by omega)]; omega
    have m5 : modsOf (modByte (fs.toNat * 128 + z.toNat * 32 + s.toNat * 16 + wf.code * 4)) 7 1 = fs.toNat := by
      rw [modsOf_modByte (by omega)]; omega
    simp [decode64, decodeMatrix, enc64, F64.bare, F64.zeros, F64.bit, F64.guard, F64.ra, F64.rc,
      req, m0, m1, m2, m3, m4, m5]
  | some x =>
    cases hf
    have := fs.toNat_lt
    have := z.toNat_lt
    have := s.toNat_lt
    have := TileFmt_code_lt wf
    have m0 : modsOf (modByte (fs.toNat * 128 + 64 + z.toNat * 32 + s.toNat * 16 + wf.code * 4)) 0 2 = 0 := by
      rw [modsOf_modByte (by omega)]; omega
    have m1 : modsOf (modByte (fs.toNat * 128 + 64 + z.toNat * 32 + s.toNat * 16 + wf.code * 4)) 2 2 = wf.code := by
      rw [modsOf_modByte (by omega)]; omega
    have m2 : modsOf (modByte (fs.toNat * 128 + 64 + z.toNat * 32 + s.toNat * 16 + wf.code * 4)) 4 1 = s.toNat := by
      rw [modsOf_modByte (by omega)]; omega
    have m3 : modsOf (modByte (fs.toNat * 128 + 64 + z.toNat * 32 + s.toNat * 16 + wf.code * 4)) 5 1 = z.toNat := by
      rw [modsOf_modByte (by omega)]; omega
    have m4 : modsOf (modByte (fs.toNat * 128 + 64 + z.toNat * 32 + s.toNat * 16 + wf.code * 4)) 6 1 = 1 := by
      rw [modsOf_modByte (by omega)]; omega
    have m5 : modsOf (modByte (fs.toNat * 128 + 64 + z.toNat * 32 + s.toNat * 16 + wf.code * 4)) 7 1 = fs.toNat := by
      rw [modsOf_modByte (by omega)]; omega
    simp [decode64, decodeMatrix, enc64, F64.bare, F64.zeros, F64.bit, F64.guard, F64.rd, F64.ra, F64.rc,
      req, m0, m1, m2, m3, m4, m5]

theorem accld (g : Guard) (a : Reg) (t : BitVec 8) (p : Reg) (s : Bool) (wf : TileFmt) (fs : Bool) :
    Statement (.accld g a t p s wf fs) := ofFields rfl <| by
  intro hwf f hf
  cases hf
  have := fs.toNat_lt
  have := s.toNat_lt
  have := TileFmt_code_lt wf
  have m0 : modsOf (modByte (fs.toNat * 128 + s.toNat * 16 + wf.code * 4)) 0 2 = 0 := by
    rw [modsOf_modByte (by omega)]; omega
  have m1 : modsOf (modByte (fs.toNat * 128 + s.toNat * 16 + wf.code * 4)) 2 2 = wf.code := by
    rw [modsOf_modByte (by omega)]; omega
  have m2 : modsOf (modByte (fs.toNat * 128 + s.toNat * 16 + wf.code * 4)) 4 1 = s.toNat := by
    rw [modsOf_modByte (by omega)]; omega
  have m3 : modsOf (modByte (fs.toNat * 128 + s.toNat * 16 + wf.code * 4)) 5 2 = 0 := by
    rw [modsOf_modByte (by omega)]; omega
  have m4 : modsOf (modByte (fs.toNat * 128 + s.toNat * 16 + wf.code * 4)) 7 1 = fs.toNat := by
    rw [modsOf_modByte (by omega)]; omega
  simp [decode64, decodeMatrix, enc64, F64.bare, F64.zeros, F64.bit, F64.guard, F64.ra, F64.rc, req, m0, m1,
    m2, m3, m4]

theorem mwait (g : Guard) (q : Option (BitVec 8)) : Statement (.mwait g q) := ofFields rfl <| by
  intro _ f hf
  cases q with
  | none =>
    cases hf
    have e : small 8 0#10 = some 0#8 := rfl
    simp [decode64, decodeMatrix, enc64, F64.bare, F64.zeros, F64.bit, F64.guard, req, e]
  | some t =>
    cases hf
    simp [decode64, decodeMatrix, enc64, F64.bare, F64.zeros, F64.bit, F64.guard, req, modsOf]

theorem opfence (g : Guard) : Statement (.opfence g) := ofFields rfl <| by
  intro hwf f hf
  cases hf
  simp [decode64, decodeMatrix, enc64, F64.bare, F64.zeros, F64.guard, req]

theorem matrixEngineStart (core : Nat) : Statement (.matrixEngineStart core) := noCode rfl rfl

theorem matrixOpFinish (turn : MatrixTurn) : Statement (.matrixOpFinish turn) := noCode rfl rfl

theorem nrel (g : Guard) (a : Reg) (fs : Bool) : Statement (.nrel g a fs) := ofFields rfl <| by
  intro hwf f hf
  cases hf
  have := fs.toNat_lt
  have m0 : modsOf (modByte (fs.toNat * 128)) 0 7 = 0 := by rw [modsOf_modByte (by omega)]; omega
  have m1 : modsOf (modByte (fs.toNat * 128)) 7 1 = fs.toNat := by rw [modsOf_modByte (by omega)]; omega
  simp [decode64, decodeAsync0, enc64, F64.bare, F64.zeros, F64.bit, F64.guard, F64.ra, req, m0, m1]

theorem nwait (g : Guard) (d : Reg) (a : Reg) (p : Bool) : Statement (.nwait g d a p) := ofFields rfl <| by
  intro hwf f hf
  cases hf
  have := p.toNat_lt
  have m0 : modsOf (modByte (p.toNat)) 0 1 = p.toNat := by rw [modsOf_modByte (by omega)]; omega
  have m1 : modsOf (modByte (p.toNat)) 1 7 = 0 := by rw [modsOf_modByte (by omega)]; omega
  simp [decode64, decodeAsync0, enc64, F64.bare, F64.zeros, F64.bit, F64.guard, F64.rd, F64.ra, req, m0, m1]

theorem nstat (g : Guard) (d : Reg) (a : Reg) (fs : Bool) : Statement (.nstat g d a fs) := ofFields rfl <| by
  intro hwf f hf
  cases hf
  have := fs.toNat_lt
  have m0 : modsOf (modByte (fs.toNat * 128)) 0 7 = 0 := by rw [modsOf_modByte (by omega)]; omega
  have m1 : modsOf (modByte (fs.toNat * 128)) 7 1 = fs.toNat := by rw [modsOf_modByte (by omega)]; omega
  simp [decode64, decodeAsync0, enc64, F64.bare, F64.zeros, F64.bit, F64.guard, F64.rd, F64.ra, req, m0, m1]

theorem sortcnt (g : Guard) (a : Reg) (fs : Bool) (sc : Scope) : Statement (.sortcnt g a fs sc) := ofFields rfl <| by
  intro hwf f hf
  cases hf
  have := fs.toNat_lt
  have := Scope_code_lt sc
  have m0 : modsOf (modByte (fs.toNat * 128 + sc.code * 16)) 0 4 = 0 := by rw [modsOf_modByte (by omega)]; omega
  have m1 : modsOf (modByte (fs.toNat * 128 + sc.code * 16)) 4 3 = sc.code := by rw [modsOf_modByte (by omega)]; omega
  have m2 : modsOf (modByte (fs.toNat * 128 + sc.code * 16)) 7 1 = fs.toNat := by
    rw [modsOf_modByte (by omega)]; omega
  simp [decode64, decodeAsync0, enc64, F64.bare, F64.zeros, F64.bit, F64.guard, F64.ra, req, m0, m1, m2]

theorem carsend (g : Guard) (len : Reg) (row : Reg) (hdr : Reg) (buf : Reg) (fs : Bool) (s : Bool) :
    Statement (.carsend g len row hdr buf fs s) := ofFields rfl <| by
  intro hwf f hf
  cases hf
  have := fs.toNat_lt
  have := s.toNat_lt
  have m0 : modsOf (modByte (fs.toNat * 128 + s.toNat * 64)) 0 6 = 0 := by rw [modsOf_modByte (by omega)]; omega
  have m1 : modsOf (modByte (fs.toNat * 128 + s.toNat * 64)) 6 1 = s.toNat := by rw [modsOf_modByte (by omega)]; omega
  have m2 : modsOf (modByte (fs.toNat * 128 + s.toNat * 64)) 7 1 = fs.toNat := by
    rw [modsOf_modByte (by omega)]; omega
  simp [decode64, decodeAsync0, enc64, F64.bare, F64.bit, F64.guard, F64.rd, F64.ra, F64.rb, F64.rc, req, m0, m1, m2]

theorem wopen (g : Guard) (a : Reg) (ch : BitVec 8) (fs : Bool) : Statement (.wopen g a ch fs) := ofFields rfl <| by
  intro hwf f hf
  cases hf
  have := fs.toNat_lt
  have m0 : modsOf (modByte (fs.toNat * 128)) 0 7 = 0 := by rw [modsOf_modByte (by omega)]; omega
  have m1 : modsOf (modByte (fs.toNat * 128)) 7 1 = fs.toNat := by rw [modsOf_modByte (by omega)]; omega
  simp [decode64, decodeAsync0, enc64, F64.bare, F64.zeros, F64.bit, F64.guard, F64.ra, req, m0, m1]

theorem wred (g : Guard) (a : Reg) (b : Reg) (c : Reg) (ch : BitVec 8) (n : BitVec 5) (fs : Bool) :
    Statement (.wred g a b c ch n fs) := ofFields rfl <| by
  intro hwf f hf
  cases hf
  have := fs.toNat_lt
  have := n.isLt
  have m0 : modsOf (modByte (fs.toNat * 128 + n.toNat)) 0 5 = n.toNat := by rw [modsOf_modByte (by omega)]; omega
  have m1 : modsOf (modByte (fs.toNat * 128 + n.toNat)) 5 2 = 0 := by rw [modsOf_modByte (by omega)]; omega
  have m2 : modsOf (modByte (fs.toNat * 128 + n.toNat)) 7 1 = fs.toNat := by rw [modsOf_modByte (by omega)]; omega
  simp [decode64, decodeAsync0, enc64, F64.bare, F64.bit, F64.guard, F64.ra, F64.rb, F64.rc, req, m0, m1, m2]

theorem wwait (g : Guard) (d : Reg) (a : Reg) (ch : BitVec 8) : Statement (.wwait g d a ch) := ofFields rfl <| by
  intro hwf f hf
  cases hf
  simp [decode64, decodeAsync0, enc64, F64.bare, F64.zeros, F64.guard, F64.rd, F64.ra, req]

theorem wcorr (g : Guard) (d : Reg) (a : Reg) (b : Reg) (ch : BitVec 8) : Statement (.wcorr g d a b ch) := ofFields rfl <| by
  intro hwf f hf
  cases hf
  simp [decode64, decodeAsync0, enc64, F64.bare, F64.zeros, F64.guard, F64.rd, F64.ra, F64.rb, req]

theorem wclose (g : Guard) (ch : BitVec 8) (fs : Bool) : Statement (.wclose g ch fs) := ofFields rfl <| by
  intro hwf f hf
  cases hf
  have := fs.toNat_lt
  have m0 : modsOf (modByte (fs.toNat * 128)) 0 7 = 0 := by rw [modsOf_modByte (by omega)]; omega
  have m1 : modsOf (modByte (fs.toNat * 128)) 7 1 = fs.toNat := by rw [modsOf_modByte (by omega)]; omega
  simp [decode64, decodeAsync0, enc64, F64.bare, F64.zeros, F64.bit, F64.guard, req, m0, m1]

theorem attn (g : Guard) (a : Reg) (fs : Bool) (sc : Scope) : Statement (.attn g a fs sc) := ofFields rfl <| by
  intro hwf f hf
  cases hf
  have := fs.toNat_lt
  have := Scope_code_lt sc
  have m0 : modsOf (modByte (fs.toNat * 128 + sc.code * 16)) 0 4 = 0 := by rw [modsOf_modByte (by omega)]; omega
  have m1 : modsOf (modByte (fs.toNat * 128 + sc.code * 16)) 4 3 = sc.code := by rw [modsOf_modByte (by omega)]; omega
  have m2 : modsOf (modByte (fs.toNat * 128 + sc.code * 16)) 7 1 = fs.toNat := by
    rw [modsOf_modByte (by omega)]; omega
  simp [decode64, decodeAsync1, enc64, F64.bare, F64.zeros, F64.bit, F64.guard, F64.ra, req, m0, m1, m2]

theorem kvappend (g : Guard) (t : Reg) (blk : Reg) (k : Reg) (v : Reg) (fs : Bool) (sc : Scope) (dim : KvD) :
    Statement (.kvappend g t blk k v fs sc dim) := ofFields rfl <| by
  intro hwf f hf
  cases hf
  have := fs.toNat_lt
  have := Scope_code_lt sc
  have := KvD_code_lt dim
  have m0 : modsOf (modByte (fs.toNat * 128 + sc.code * 16 + dim.code)) 0 2 = dim.code := by
    rw [modsOf_modByte (by omega)]; omega
  have m1 : modsOf (modByte (fs.toNat * 128 + sc.code * 16 + dim.code)) 2 2 = 0 := by
    rw [modsOf_modByte (by omega)]; omega
  have m2 : modsOf (modByte (fs.toNat * 128 + sc.code * 16 + dim.code)) 4 3 = sc.code := by
    rw [modsOf_modByte (by omega)]; omega
  have m3 : modsOf (modByte (fs.toNat * 128 + sc.code * 16 + dim.code)) 7 1 = fs.toNat := by
    rw [modsOf_modByte (by omega)]; omega
  simp [decode64, decodeAsync1, enc64, F64.bare, F64.bit, F64.guard, F64.rd, F64.ra, F64.rb, F64.rc, req, m0,
    m1, m2, m3]

theorem kvxlate (g : Guard) (d : Reg) (dir : Reg) (va : Reg) (fs : Bool) : Statement (.kvxlate g d dir va fs) := ofFields rfl <| by
  intro hwf f hf
  cases hf
  have := fs.toNat_lt
  have m0 : modsOf (modByte (fs.toNat * 128)) 0 7 = 0 := by rw [modsOf_modByte (by omega)]; omega
  have m1 : modsOf (modByte (fs.toNat * 128)) 7 1 = fs.toNat := by rw [modsOf_modByte (by omega)]; omega
  simp [decode64, decodeAsync1, enc64, F64.bare, F64.zeros, F64.bit, F64.guard, F64.rd, F64.ra, F64.rb, req, m0, m1]

theorem pfxfind (g : Guard) (d : Reg) (a : Reg) (b : Reg) (tab : Reg) (fs : Bool) (n : Fin 4) :
    Statement (.pfxfind g d a b tab fs n) := ofFields rfl <| by
  intro hwf f hf
  cases hf
  have := fs.toNat_lt
  have := n.isLt
  have m0 : modsOf (modByte (fs.toNat * 128 + n.val * 32)) 0 5 = 0 := by rw [modsOf_modByte (by omega)]; omega
  have m1 : modsOf (modByte (fs.toNat * 128 + n.val * 32)) 5 2 = n.val := by rw [modsOf_modByte (by omega)]; omega
  have m2 : modsOf (modByte (fs.toNat * 128 + n.val * 32)) 7 1 = fs.toNat := by rw [modsOf_modByte (by omega)]; omega
  simp [decode64, decodeAsync1, enc64, F64.bare, F64.bit, F64.two, F64.guard, F64.rd, F64.ra, F64.rb, F64.rc,
    req, m0, m1, m2]

theorem pfxins (g : Guard) (h : Reg) (blk : Reg) (tab : Reg) (fs : Bool) (sc : Scope) :
    Statement (.pfxins g h blk tab fs sc) := ofFields rfl <| by
  intro hwf f hf
  cases hf
  have := fs.toNat_lt
  have := Scope_code_lt sc
  have m0 : modsOf (modByte (fs.toNat * 128 + sc.code * 16)) 0 4 = 0 := by rw [modsOf_modByte (by omega)]; omega
  have m1 : modsOf (modByte (fs.toNat * 128 + sc.code * 16)) 4 3 = sc.code := by rw [modsOf_modByte (by omega)]; omega
  have m2 : modsOf (modByte (fs.toNat * 128 + sc.code * 16)) 7 1 = fs.toNat := by
    rw [modsOf_modByte (by omega)]; omega
  simp [decode64, decodeAsync1, enc64, F64.bare, F64.zeros, F64.bit, F64.guard, F64.ra, F64.rb, F64.rc, req,
    m0, m1, m2]

theorem undefinedInstruction (w0 : Word) (w1 : Word) (w2 : Word) : Statement (.undefinedInstruction w0 w1 w2) := noCode rfl rfl

theorem nopShort : Statement (.nopShort) := ofShort rfl rfl rfl

theorem movShort (d : Reg) (a : Reg) : Statement (.movShort d a) := ofShort rfl rfl (by
  simp [decodeShort, shortWord_op, shortWord_d, shortWord_a, shortWord_i])

theorem moviShort (d : Reg) (imm : BitVec 14) : Statement (.moviShort d imm) := ofShort rfl rfl (by simp [decodeShort, movi_op, movi_d, movi_i])

theorem iaddShort (d : Reg) (a : Reg) : Statement (.iaddShort d a) := ofShort rfl rfl (by
  simp [decodeShort, shortWord_op, shortWord_d, shortWord_a, shortWord_i])

theorem isubShort (d : Reg) (a : Reg) : Statement (.isubShort d a) := ofShort rfl rfl (by
  simp [decodeShort, shortWord_op, shortWord_d, shortWord_a, shortWord_i])

theorem iaddImmShort (d : Reg) (a : Reg) (i : BitVec 4) : Statement (.iaddImmShort d a i) := ofShort rfl rfl (by
  simp [decodeShort, shortWord_op, shortWord_d, shortWord_a, shortWord_i])

theorem isubImmShort (d : Reg) (a : Reg) (i : BitVec 4) : Statement (.isubImmShort d a i) := ofShort rfl rfl (by
  simp [decodeShort, shortWord_op, shortWord_d, shortWord_a, shortWord_i])

theorem ishlImmShort (d : Reg) (a : Reg) (i : BitVec 4) : Statement (.ishlImmShort d a i) := ofShort rfl rfl (by
  simp [decodeShort, shortWord_op, shortWord_d, shortWord_a, shortWord_i])

theorem ishrImmShort (d : Reg) (a : Reg) (i : BitVec 4) : Statement (.ishrImmShort d a i) := ofShort rfl rfl (by
  simp [decodeShort, shortWord_op, shortWord_d, shortWord_a, shortWord_i])

theorem ishraImmShort (d : Reg) (a : Reg) (i : BitVec 4) : Statement (.ishraImmShort d a i) := ofShort rfl rfl (by
  simp [decodeShort, shortWord_op, shortWord_d, shortWord_a, shortWord_i])

theorem ishlImm16Short (d : Reg) (a : Reg) (i : BitVec 4) : Statement (.ishlImm16Short d a i) := ofShort rfl rfl (by
  simp [decodeShort, shortWord_op, shortWord_d, shortWord_a, shortWord_i])

theorem ishrImm16Short (d : Reg) (a : Reg) (i : BitVec 4) : Statement (.ishrImm16Short d a i) := ofShort rfl rfl (by
  simp [decodeShort, shortWord_op, shortWord_d, shortWord_a, shortWord_i])

theorem ishraImm16Short (d : Reg) (a : Reg) (i : BitVec 4) : Statement (.ishraImm16Short d a i) := ofShort rfl rfl (by
  simp [decodeShort, shortWord_op, shortWord_d, shortWord_a, shortWord_i])

theorem imulShort (d : Reg) (a : Reg) : Statement (.imulShort d a) := ofShort rfl rfl (by
  simp [decodeShort, shortWord_op, shortWord_d, shortWord_a, shortWord_i])

theorem andShort (d : Reg) (a : Reg) : Statement (.andShort d a) := ofShort rfl rfl (by
  simp [decodeShort, shortWord_op, shortWord_d, shortWord_a, shortWord_i])

theorem orShort (d : Reg) (a : Reg) : Statement (.orShort d a) := ofShort rfl rfl (by
  simp [decodeShort, shortWord_op, shortWord_d, shortWord_a, shortWord_i])

theorem xorShort (d : Reg) (a : Reg) : Statement (.xorShort d a) := ofShort rfl rfl (by
  simp [decodeShort, shortWord_op, shortWord_d, shortWord_a, shortWord_i])

theorem notShort (d : Reg) (a : Reg) : Statement (.notShort d a) := ofShort rfl rfl (by
  simp [decodeShort, shortWord_op, shortWord_d, shortWord_a, shortWord_i])

theorem iminShort (d : Reg) (a : Reg) : Statement (.iminShort d a) := ofShort rfl rfl (by
  simp [decodeShort, shortWord_op, shortWord_d, shortWord_a, shortWord_i])

theorem imaxShort (d : Reg) (a : Reg) : Statement (.imaxShort d a) := ofShort rfl rfl (by
  simp [decodeShort, shortWord_op, shortWord_d, shortWord_a, shortWord_i])

theorem faddShort (d : Reg) (a : Reg) : Statement (.faddShort d a) := ofShort rfl rfl (by
  simp [decodeShort, shortWord_op, shortWord_d, shortWord_a, shortWord_i])

theorem fsubShort (d : Reg) (a : Reg) : Statement (.fsubShort d a) := ofShort rfl rfl (by
  simp [decodeShort, shortWord_op, shortWord_d, shortWord_a, shortWord_i])

theorem fmulShort (d : Reg) (a : Reg) : Statement (.fmulShort d a) := ofShort rfl rfl (by
  simp [decodeShort, shortWord_op, shortWord_d, shortWord_a, shortWord_i])

theorem fminShort (d : Reg) (a : Reg) : Statement (.fminShort d a) := ofShort rfl rfl (by
  simp [decodeShort, shortWord_op, shortWord_d, shortWord_a, shortWord_i])

theorem fmaxShort (d : Reg) (a : Reg) : Statement (.fmaxShort d a) := ofShort rfl rfl (by
  simp [decodeShort, shortWord_op, shortWord_d, shortWord_a, shortWord_i])

theorem hadd2Short (d : Reg) (a : Reg) : Statement (.hadd2Short d a) := ofShort rfl rfl (by
  simp [decodeShort, shortWord_op, shortWord_d, shortWord_a, shortWord_i])

theorem hmul2Short (d : Reg) (a : Reg) : Statement (.hmul2Short d a) := ofShort rfl rfl (by
  simp [decodeShort, shortWord_op, shortWord_d, shortWord_a, shortWord_i])

theorem ldSB32Short (d : Reg) (a : Reg) (i : BitVec 4) : Statement (.ldSB32Short d a i) := ofShort rfl rfl (by
  simp [decodeShort, shortWord_op, shortWord_d, shortWord_a, shortWord_i])

theorem stSB32Short (d : Reg) (a : Reg) (i : BitVec 4) : Statement (.stSB32Short d a i) := ofShort rfl rfl (by
  simp [decodeShort, shortWord_op, shortWord_d, shortWord_a, shortWord_i])

theorem ldSB64Short (d : Reg) (a : Reg) (i : BitVec 4) : Statement (.ldSB64Short d a i) := ofShort rfl rfl (by
  simp [decodeShort, shortWord_op, shortWord_d, shortWord_a, shortWord_i])

theorem stSB64Short (d : Reg) (a : Reg) (i : BitVec 4) : Statement (.stSB64Short d a i) := ofShort rfl rfl (by
  simp [decodeShort, shortWord_op, shortWord_d, shortWord_a, shortWord_i])

theorem clauseStart (core : Nat) (quad : Nat) : Statement (.clauseStart core quad) := noCode rfl rfl

theorem fairnessSwitch (wid : Nat) : Statement (.fairnessSwitch wid) := noCode rfl rfl

theorem warpStarvationPriority (wid : Nat) : Statement (.warpStarvationPriority wid) := noCode rfl rfl

theorem windowOverflowTrap (wid : Nat) : Statement (.windowOverflowTrap wid) := noCode rfl rfl

theorem windowUnderflowTrap (wid : Nat) : Statement (.windowUnderflowTrap wid) := noCode rfl rfl

theorem residualReplay (wid : Nat) (lane : Nat) : Statement (.residualReplay wid lane) := noCode rfl rfl

theorem loadReturn (id : Nat) (late : Bool) : Statement (.loadReturn id late) := noCode rfl rfl

theorem storePerformed (id : Nat) : Statement (.storePerformed id) := noCode rfl rfl

theorem atomicComplete (id : Nat) : Statement (.atomicComplete id) := noCode rfl rfl

theorem userTimerTrap (wid : Nat) : Statement (.userTimerTrap wid) := noCode rfl rfl

theorem phaseTrap (wid : Nat) : Statement (.phaseTrap wid) := noCode rfl rfl

theorem trapEntry (wid : Nat) : Statement (.trapEntry wid) := noCode rfl rfl

theorem groupPlacement : Statement (.groupPlacement) := noCode rfl rfl

theorem groupRetire (gid : Nat) : Statement (.groupRetire gid) := noCode rfl rfl

theorem hostNodeRelease (port : Nat) (ctx : Nat) (addr : VAddr) : Statement (.hostNodeRelease port ctx addr) := noCode rfl rfl

theorem nodeStart (ctx : Nat) (addr : VAddr) : Statement (.nodeStart ctx addr) := noCode rfl rfl

theorem stagePage (ctx : Nat) (addr : VAddr) (page : VAddr) : Statement (.stagePage ctx addr page) := noCode rfl rfl

theorem nodeComplete (ctx : Nat) (addr : VAddr) : Statement (.nodeComplete ctx addr) := noCode rfl rfl

theorem nodeCommit (ctx : Nat) (addr : VAddr) : Statement (.nodeCommit ctx addr) := noCode rfl rfl

theorem nodeRollback (ctx : Nat) (addr : VAddr) : Statement (.nodeRollback ctx addr) := noCode rfl rfl

theorem nodeFail (ctx : Nat) (addr : VAddr) (code : BitVec 8) : Statement (.nodeFail ctx addr code) := noCode rfl rfl

theorem copyCommandStart (core : Nat) (early : List Nat) : Statement (.copyCommandStart core early) := noCode rfl rfl

theorem copyCommandComplete (id : Nat) : Statement (.copyCommandComplete id) := noCode rfl rfl

theorem renameApply (id : Nat) : Statement (.renameApply id) := noCode rfl rfl

theorem renamePerformed (id : Nat) : Statement (.renamePerformed id) := noCode rfl rfl

theorem sortcntRequestStart (die : Nat) : Statement (.sortcntRequestStart die) := noCode rfl rfl

theorem sortcntRequestComplete (id : Nat) : Statement (.sortcntRequestComplete id) := noCode rfl rfl

theorem caravanArrive (src : CaravanSource) : Statement (.caravanArrive src) := noCode rfl rfl

theorem wadiArrival (src : WadiSource) : Statement (.wadiArrival src) := noCode rfl rfl

theorem wadiBudgetExpiry (ch : Nat) (level : WadiLevel) : Statement (.wadiBudgetExpiry ch level) := noCode rfl rfl

theorem wcorrTimeout (wid : Nat) (lane : Nat) : Statement (.wcorrTimeout wid lane) := noCode rfl rfl

theorem attnRequestStart (die : Nat) : Statement (.attnRequestStart die) := noCode rfl rfl

theorem attnRequestComplete (id : Nat) : Statement (.attnRequestComplete id) := noCode rfl rfl

theorem faultResolve (id : Nat) : Statement (.faultResolve id) := noCode rfl rfl

theorem faultBoundExpiry (id : Nat) : Statement (.faultBoundExpiry id) := noCode rfl rfl

theorem eccUncorrectable (addr : Nat) (bank : Nat) (row : Nat) (demand : Bool) :
    Statement (.eccUncorrectable addr bank row demand) := noCode rfl rfl

theorem poisonRepair (id : Nat) : Statement (.poisonRepair id) := noCode rfl rfl

theorem coreStorageUncorrectable (core : Nat) (what : CoreStorage) : Statement (.coreStorageUncorrectable core what) := noCode rfl rfl

theorem scrubRead (stack : Nat) (addr : Nat) (bank : Nat) (row : Nat) (found : EccFinding) :
    Statement (.scrubRead stack addr bank row found) := noCode rfl rfl

theorem refresh (stack : Nat) (bank : Nat) (row : Nat) : Statement (.refresh stack bank row) := noCode rfl rfl

theorem stackTemperatureChange (stack : Nat) (celsius : Nat) : Statement (.stackTemperatureChange stack celsius) := noCode rfl rfl

theorem thermalTrip (die : Nat) (celsius : Nat) : Statement (.thermalTrip die celsius) := noCode rfl rfl

theorem scanDrainStart (die : Nat) : Statement (.scanDrainStart die) := noCode rfl rfl

theorem scanTest (die : Nat) : Statement (.scanTest die) := noCode rfl rfl

theorem scanComplete (die : Nat) (pass : Bool) : Statement (.scanComplete die pass) := noCode rfl rfl

theorem scanOverdue (die : Nat) : Statement (.scanOverdue die) := noCode rfl rfl

theorem kvScrubCheck (die : Nat) (ctx : Nat) : Statement (.kvScrubCheck die ctx) := noCode rfl rfl

theorem preemptRequest (ctx : Nat) : Statement (.preemptRequest ctx) := noCode rfl rfl

theorem resumeRequest (ctx : Nat) : Statement (.resumeRequest ctx) := noCode rfl rfl

theorem killRequest (ctx : Nat) : Statement (.killRequest ctx) := noCode rfl rfl

theorem groupEvict (gid : Nat) : Statement (.groupEvict gid) := noCode rfl rfl

theorem groupRestore (ctx : Nat) : Statement (.groupRestore ctx) := noCode rfl rfl

theorem boot (images : List FirmwareImage) : Statement (.boot images) := noCode rfl rfl

theorem bootHoldRelease (bins : List RowBin) : Statement (.bootHoldRelease bins) := noCode rfl rfl

theorem bootComplete (failedCores : List Nat) (failedEngines : List Nat) (linksUp : List Nat) :
    Statement (.bootComplete failedCores failedEngines linksUp) := noCode rfl rfl

theorem opcmdOperatingPoint (code : Fin 8) : Statement (.opcmdOperatingPoint code) := noCode rfl rfl

theorem opcmdIdleHot : Statement (.opcmdIdleHot) := noCode rfl rfl

theorem opcmdIdleCold : Statement (.opcmdIdleCold) := noCode rfl rfl

theorem opcmdParked : Statement (.opcmdParked) := noCode rfl rfl

theorem opcmdOff : Statement (.opcmdOff) := noCode rfl rfl

theorem powerTransitionComplete : Statement (.powerTransitionComplete) := noCode rfl rfl

theorem marginReview : Statement (.marginReview) := noCode rfl rfl

theorem marginReviewComplete (guards : List Nat) (unavailable : List Nat) (repairs : List Repair) :
    Statement (.marginReviewComplete guards unavailable repairs) := noCode rfl rfl

theorem keyRetire (k : BitVec 10) : Statement (.keyRetire k) := noCode rfl rfl

theorem tlbInvalidate (pages : Word) : Statement (.tlbInvalidate pages) := noCode rfl rfl

theorem invalidationComplete : Statement (.invalidationComplete) := noCode rfl rfl

theorem attestationRequest : Statement (.attestationRequest) := noCode rfl rfl

theorem attestationComplete : Statement (.attestationComplete) := noCode rfl rfl

theorem registerWrite (off : Nat) (value : Word) : Statement (.registerWrite off value) := noCode rfl rfl

theorem fabricLinkChange (port : Nat) (up : Bool) : Statement (.fabricLinkChange port up) := noCode rfl rfl

theorem kvappendAtHome (id : Nat) : Statement (.kvappendAtHome id) := noCode rfl rfl

theorem pfxinsAtHome (id : Nat) : Statement (.pfxinsAtHome id) := noCode rfl rfl

theorem resultLands (id : Nat) : Statement (.resultLands id) := noCode rfl rfl

theorem nrelDecrementPerformed (id : Nat) : Statement (.nrelDecrementPerformed id) := noCode rfl rfl

theorem wopenStatusWritten (id : Nat) : Statement (.wopenStatusWritten id) := noCode rfl rfl

theorem wcloseChannelFree (id : Nat) : Statement (.wcloseChannelFree id) := noCode rfl rfl

theorem hostPortAccess (port : Nat) (acc : HostAccess) : Statement (.hostPortAccess port acc) := noCode rfl rfl

theorem peerAccessArrival (acc : PeerAccess) : Statement (.peerAccessArrival acc) := noCode rfl rfl

theorem dieScratchpadGrantChange (ctx : Nat) (die : Nat) (units : Nat) :
    Statement (.dieScratchpadGrantChange ctx die units) := noCode rfl rfl

theorem framePoolGrant (ctx : Nat) (tier : Nat) (frames : List Nat) : Statement (.framePoolGrant ctx tier frames) := noCode rfl rfl

theorem contextDestroy (ctx : Nat) : Statement (.contextDestroy ctx) := noCode rfl rfl

end Sys2Proof.Laws.RoundTrip
end

