-- ==== Sys2Proof/Tests/Slice0.lean ====
section
/-! SUPPORT. Tests of the model: the refusals of ill-formed terms, the words of each family written out from the spec's encoding,
a few results of single steps, and for the statements of Sys2Proof/Certificates/Slice0/Obligations.lean concrete states and
operands that meet the premises of their clauses. -/

namespace Sys2Proof.Tests

open Sys2Proof Sys2Proof.Machine

set_option Elab.async false
set_option maxRecDepth 20000

/-! ## States to stand in -/

/-- A guard that always holds. -/
def always : Guard := ⟨0, .al⟩

/-- The state in which lane 0 of warp slot 0 stands at instruction `i` of its clause, with the registers `regs`. -/
def at_ (i : Instr) (regs : Sparse Word := []) : State :=
  let s := State.reset.placeWords (encode i)
  { s with agenda := [], cur := some 0, warps := s.warps.map (fun (w : Warp) => { w with fibres := w.fibres.map (fun f => { f with regs := regs }) }) }

/-- The state with a fibre, the warp, or the group changed. -/
def byFibre (u : Fibre → Fibre) (s : State) : State :=
  { s with warps := s.warps.map (fun (w : Warp) => { w with fibres := w.fibres.map u }) }
/-- See `byFibre`. -/
def byWarp (u : Warp → Warp) (s : State) : State := { s with warps := s.warps.map u }
/-- See `byFibre`. -/
def byGroup (u : Group → Group) (s : State) : State := { s with groups := s.groups.map u }

/-- The lanes 0 to 3 stand at `i`, each with its own registers. -/
def fourAt (i : Instr) (regs : Nat → Sparse Word) : State :=
  byWarp (fun (w : Warp) =>
    { w with fibres := w.fibres.flatMap (fun f => (List.range 4).map (fun l => { f with lane := l, id := l, regs := regs l })),
             holder := some [0, 1, 2, 3], active := w.active.map (fun a => { a with lanes := [0, 1, 2, 3] }) }) (at_ i)

/-- The state in which core 0 and die 0 hold the leaf of a page of context 0, with read, write and fetch permission. -/
def mapped (page tier frame key : Nat) (s : State) : State :=
  let leaf : DWord := BitVec.ofNat 64 (61 + 64 * tier + 1024 * key + 2 ^ 20 * frame)
  { s with tlb := s.tlb ++ [({ place := .core 0, ctx := 0, page := page, leaf := leaf, level := 3 } : TlbEntry),
                            { place := .die 0, ctx := 0, page := page, leaf := leaf, level := 3 }] }

/-- The state with bytes of memory written. -/
def bytesAt (a : Nat) (l : List Byte) (s : State) : State :=
  { s with mem := s.mem ++ (l.zipIdx.filter (fun e => e.1 ≠ 0)).map (fun e => (a + e.2, e.1)) }

/-- A load in flight of lane 0's fibre into v3. -/
def loadOp : Op :=
  { id := 7, issue := 6, gid := 0, fid := 0, wid := 0, lane := 0, vlane := 0, core := 0, ctx := 0, node := 256, flag := none,
    scope := .device, mcls := 1, mdl := 0xFFF, pos := { hdr := 4096, idx := 0, mid := true }, base := 0,
    instr := .ld always (.v 3) (.v 4) (.short 0) false .b32 .g false none, words := [0x00010038, 0x20040000], srcs := [0x10000, 0],
    since := 0, clock := 0, kind := .load .g 0x10000 .b32 [3] false none }

/-- The warp in handler mode, with a frame at 0x20000. -/
def handling (q : List (Nat × Nat)) (s : State) : State :=
  byWarp (fun (w : Warp) => { w with spill := 0x20000, vec := 0x8000, enMask := 0x3FF,
                                     handler := some { frame := 0x20000, queue := q, since := 5, stopReplays := false, live := [(0, 20)], lanes := [0] } }) s

/-- An entry of IADD v5, v3, v4 that waits for lane 0. -/
def waitingAdd : Entry :=
  { seq := 3, instr := .iadd always (.v 5) (.v 3) (.reg (.v 4)) false none, words := [0x0004000C, 0x00000500], hdr := 4096, idx := 0,
    base := 0, mask := [0], left := [0], gpend := [], caps := [{ src := 1, lane := 0, value := 40 }], flag := none, service := [] }

/-- The state in which context 0 has page tables at 0x1000 to 0x4FFF that map pages below 512, in rising order, each to a frame of a
tier, with read, write and fetch permission. -/
def tabled (l : List (Nat × Nat × Nat)) (s : State) : State :=
  let root := { s with ctxs := s.ctxs.map (fun (c : Ctx) => if c.num = 0 then { c with root := 0x1000 } else c) }
  let pointers := bytesAt 0x3000 (bytesOf 8 (1 + 4 * 2 ^ 20)) (bytesAt 0x2000 (bytesOf 8 (1 + 3 * 2 ^ 20)) (bytesAt 0x1000 (bytesOf 8 (1 + 2 * 2 ^ 20)) root))
  l.foldl (fun t e => bytesAt (0x4000 + 8 * e.1) (bytesOf 8 (61 + 64 * e.2.1 + 2 ^ 20 * e.2.2)) t) pointers

/-- The group holds 8 KiB of scratchpad on core 0 in granule 2, and 8 KiB on core 1, and the tiles 4 to 7 on core 0. -/
def shared (s : State) : State :=
  byGroup (fun g => { g with scratch := 16384, shares := [{ core := 0, granules := [2], tiles := [4, 5, 6, 7, 8, 9] }, { core := 1, granules := [5], tiles := [] }] }) s

/-- The group under number 1. -/
def asGroup1 (s : State) : State :=
  { byWarp (fun (w : Warp) => { w with gid := 1 }) (byGroup (fun g => { g with gid := 1 }) s) with ops := s.ops.map (fun (o : Op) => { o with gid := 1 }) }

/-- The state with operations in flight. -/
def inFlight (l : List Op) (s : State) : State := { s with ops := s.ops ++ l }

/-! ## Deciding the premises -/

/-- The warp, clause, group and fibres of an issue of a state. -/
def wOf (s : State) : Warp := (s.cur.bind s.warp?).getD default
/-- See `wOf`. -/
def aOf (s : State) : Active := (wOf s).active.getD default
/-- See `wOf`. -/
def gOf (s : State) : Group := (s.group? (wOf s).gid).getD default
/-- See `wOf`: the executing fibres, the deferred ones, and those with an undecided guard. -/
def issueOf (s : State) (i : Instr) : List Fibre × List Fibre × List Fibre :=
  match s.classify (wOf s) (aOf s) (gOf s) i with
  | .go x e p => (x, e, p)
  | _ => ([], [], [])
/-- See `issueOf`. -/
def xOf (s : State) (i : Instr) : List Fibre := (issueOf s i).1
/-- See `issueOf`. -/
def eOf (s : State) (i : Instr) : List Fibre := (issueOf s i).2.1
/-- See `issueOf`. -/
def pOf (s : State) (i : Instr) : List Fibre := (issueOf s i).2.2
/-- The first executing fibre, and the first warp, group, fibre and operation of a state. -/
def x0 (s : State) (i : Instr) : Fibre := (xOf s i).headD default
/-- See `x0`. -/
def w0 (s : State) : Warp := s.warps.headD default
/-- See `x0`. -/
def g0 (s : State) : Group := s.groups.headD default
/-- See `x0`. -/
def f0 (s : State) : Fibre := (w0 s).fibres.headD default
/-- See `x0`. -/
def o0 (s : State) : Op := s.ops.headD default
/-- The state after a step that is answered. -/
def nx (o : Host.Outcome State Fault Refusal) : State :=
  match o with
  | .next t => t
  | _ => State.reset

/-- An existence over an option is decided by the option. -/
@[reducible] def decSome {α : Type} (o : Option α) (p : α → Prop) [DecidablePred p] : Decidable (∃ x, o = some x ∧ p x) :=
  match o with
  | none => isFalse (fun ⟨_, h, _⟩ => nomatch h)
  | some a => decidable_of_iff (p a) ⟨fun h => ⟨a, rfl, h⟩, fun ⟨_, h, k⟩ => Option.some.inj h ▸ k⟩

/-- A claim about what an option holds is decided by the option. -/
@[reducible] def decAll {α : Type} (o : Option α) (p : α → Prop) [DecidablePred p] : Decidable (∀ x, o = some x → p x) :=
  match o with
  | none => isTrue (fun _ h => nomatch h)
  | some a => decidable_of_iff (p a) ⟨fun h _ k => Option.some.inj k ▸ h, fun h => h a rfl⟩

/-- Whether an answer is a value with the state as it was. -/
@[reducible] def decOk {ε α : Type} (r : Except ε α × State) (s : State) : Decidable (∃ p, r = (.ok p, s)) :=
  match r with
  | (.ok a, t) => decidable_of_iff (t = s) ⟨fun h => ⟨a, h ▸ rfl⟩, fun ⟨_, h⟩ => congrArg Prod.snd h⟩
  | (.error _, _) => isFalse (fun ⟨_, h⟩ => nomatch congrArg Prod.fst h)

/-- Whether an answer is a pair with a property, and the state as it was. -/
@[reducible] def decOkPair {ε α β : Type} (r : Except ε (α × β) × State) (s : State) (p : α → β → Prop) [∀ a b, Decidable (p a b)] :
    Decidable (∃ a b, r = (.ok (a, b), s) ∧ p a b) :=
  match r with
  | (.ok (a, b), t) => decidable_of_iff (t = s ∧ p a b)
      ⟨fun h => ⟨a, b, h.1 ▸ rfl, h.2⟩, fun ⟨a', b', h, k⟩ => ⟨congrArg Prod.snd h, by
        have e := Except.ok.inj (congrArg Prod.fst h)
        cases e; exact k⟩⟩
  | (.error _, _) => isFalse (fun ⟨_, _, h, _⟩ => nomatch congrArg Prod.fst h)

/-- Whether an access is served. -/
@[reducible] def decServes (s : State) (w : Warp) (g : Group) (space : Space) (addr n : Nat) (k : Access) : Decidable (Serves s w g space addr n k) := by
  letI := @decOk
  unfold Serves
  infer_instance

/-- Whether the memory and its marks keep their canonical form. -/
@[reducible] def decTidy (s : State) : Decidable s.tidy := by
  unfold State.tidy
  infer_instance

/-- Whether an instruction issues. -/
@[reducible] def decIssues (s : State) (i : Instr) (w : Warp) (a : Active) (g : Group) (x e gp : List Fibre) : Decidable (Issues s i w a g x e gp) :=
  decidable_of_iff (s.cur.bind s.warp? = some w ∧ w.active = some a ∧ s.group? w.gid = some g
      ∧ s.ops.any (fun o => o.parks && o.gid = w.gid && (w.bundle a).any (fun f => f.id = o.fid)) = false
      ∧ w.replayTrap = none ∧ rolePermits w.role i.shape.op = true ∧ (∀ f ∈ w.bundle a, i.shape.legal g f = true)
      ∧ s.classify w a g i = .go x e gp
      ∧ ((s.counting w g i (x ++ e)).all (fun f =>
            ((i.shape.fs.bind a.flag).map (fun n => f.flag n)).all (fun v => decide (v < 63))) = true)
      ∧ (i.isFibreAccess = true → ∀ f ∈ x, s.acquiring g.gid f.id s.nextId = false)
      ∧ s.noSlot w i (x.filter (fun f => !s.ownShare w g i f)).length = false)
    ⟨fun ⟨h1, h2, h3, h4, h5, h6, h7, h8, h9, h10, h11⟩ => ⟨h1, h2, h3, h4, h5, h6, h7, h8, by
        intro n hn f hf
        simpa [hn] using List.all_eq_true.mp h9 f hf, h10, h11⟩,
     fun ⟨h1, h2, h3, h4, h5, h6, h7, h8, h9, h10, h11⟩ => ⟨h1, h2, h3, h4, h5, h6, h7, h8, by
        cases hn : i.shape.fs.bind a.flag with
        | none => exact List.all_eq_true.mpr (fun _ _ => rfl)
        | some n => exact List.all_eq_true.mpr (fun f hf => decide_eq_true (h9 n hn f hf)), h10, h11⟩⟩

/-- Whether no destination is an operand of an open matrix operation. -/
@[reducible] def decNoOpen (i : Instr) (g : Group) (x e : List Fibre) : Decidable (NoOpenOperand i g x e) := by
  unfold NoOpenOperand
  infer_instance

/-- Whether an option holds anything. -/
@[reducible] def decIs {α : Type} (o : Option α) : Decidable (∃ x, o = some x) :=
  match o with
  | none => isFalse (fun ⟨_, h⟩ => nomatch h)
  | some a => isTrue ⟨a, rfl⟩

/-- Whether an option holds a pair of a given first part. -/
@[reducible] def decPair {α β : Type} [DecidableEq α] (o : Option (α × β)) (a : α) : Decidable (∃ p, o = some (a, p)) :=
  match o with
  | none => isFalse (fun ⟨_, h⟩ => nomatch h)
  | some (b, q) => decidable_of_iff (b = a) ⟨fun h => ⟨q, h ▸ rfl⟩, fun ⟨_, h⟩ => congrArg Prod.fst (Option.some.inj h)⟩

/-- Whether an option holds no pair of a given first part. -/
@[reducible] def decNotPair {α β : Type} [DecidableEq α] (o : Option (α × β)) (a : α) : Decidable (∀ p, o ≠ some (a, p)) :=
  match decPair o a with
  | isTrue h => isFalse (fun k => h.elim (fun p e => k p e))
  | isFalse h => isTrue (fun p e => h ⟨p, e⟩)

/-- A claim about two values is decided by the values. -/
@[reducible] def decOkBoth {ε α : Type} (r q : Except ε α) (p : α → α → Prop) [∀ a b, Decidable (p a b)] :
    Decidable (∀ c d, r = .ok c → q = .ok d → p c d) :=
  match r, q with
  | .ok a, .ok b => decidable_of_iff (p a b) ⟨fun h _ _ e k => by cases e; cases k; exact h, fun h => h a b rfl rfl⟩
  | .error _, _ => isTrue (fun _ _ h => nomatch h)
  | .ok _, .error _ => isTrue (fun _ _ _ h => nomatch h)

/-- Whether a byte has defined contents. -/
@[reducible] def decDefined (s : State) (who p : Nat) : Decidable (s.defined who p) := by
  unfold State.defined
  infer_instance

/-- Whether all places up to a bound have one value. -/
@[reducible] def decConst (n : Nat) (f : Nat → Nat) (q : Nat → Prop) [DecidablePred q] : Decidable (∃ l, ∀ i, i < n → f i = l ∧ q i) :=
  decidable_of_iff (∀ i, i < n → f i = f 0 ∧ q i)
    ⟨fun h => ⟨f 0, h⟩, fun ⟨_, h⟩ i hi => ⟨(h i hi).1.trans (h 0 (Nat.zero_lt_of_lt hi)).1.symm, (h i hi).2⟩⟩

/-- A claim about the rename of an operation is decided by its kind. -/
@[reducible] def decRename (k : OpKind) (p : Rename → Prop) [DecidablePred p] : Decidable (∀ r, k = .rename r → p r) :=
  match k with
  | .rename r => decidable_of_iff (p r) ⟨fun h _ e => by cases e; exact h, fun h => h r rfl⟩
  | .load .. | .store .. | .atomic .. | .copy .. | .query .. | .nstat .. | .kvxlate .. | .pfxfind .. | .nrel .. | .sort .. | .attn ..
  | .caravan .. | .wopen .. | .wred .. | .wclose .. | .kvappend .. | .pfxins .. | .matrix .. => isTrue (fun _ h => nomatch h)

/-- Whether an operation is a matrix operation with a property. -/
@[reducible] def decMatrix (a : Prop) [Decidable a] (k : OpKind) (p : MatOp → Prop) [DecidablePred p] : Decidable (∃ m, a ∧ k = .matrix m ∧ p m) :=
  match k with
  | .matrix m => decidable_of_iff (a ∧ p m) ⟨fun h => ⟨m, h.1, rfl, h.2⟩, fun ⟨_, h, e, k⟩ => by cases e; exact ⟨h, k⟩⟩
  | .load .. | .store .. | .atomic .. | .copy .. | .query .. | .nstat .. | .kvxlate .. | .pfxfind .. | .nrel .. | .sort .. | .attn ..
  | .caravan .. | .wopen .. | .wred .. | .wclose .. | .kvappend .. | .pfxins .. | .rename .. => isFalse (fun ⟨_, _, h, _⟩ => nomatch h)

/-- Whether a park is an arrival at REGROUP. -/
@[reducible] def decRegroup (o : Option Park) : Decidable (∃ q k, o = some q ∧ q.wait = .regroup k) :=
  match o with
  | some { wait := .regroup k, at_ := p } => isTrue ⟨{ wait := .regroup k, at_ := p }, k, rfl, rfl⟩
  | some { wait := .barrier .., .. } | some { wait := .rejoin .., .. } | some { wait := .word .., .. } | some { wait := .node .., .. }
  | some { wait := .wadi .., .. } | some { wait := .corr .., .. } | some { wait := .yielding, .. } | some { wait := .sign .., .. }
  | some { wait := .stalled .., .. } =>
    isFalse (fun ⟨_, _, h, e⟩ => by cases h; cases e)
  | none => isFalse (fun ⟨_, _, h, _⟩ => nomatch h)

/-- Whether an answer is a given value with the state as it was. -/
@[reducible] def decOkEq {ε α : Type} [DecidableEq α] (r : Except ε α × State) (a : α) (s : State) : Decidable (r = (.ok a, s)) :=
  match r with
  | (.ok b, t) => decidable_of_iff (b = a ∧ t = s) ⟨fun h => by rw [h.1, h.2], fun h => by cases h; exact ⟨rfl, rfl⟩⟩
  | (.error _, _) => isFalse (fun h => nomatch congrArg Prod.fst h)

/-- Whether an answer is a given error with the state as it was. -/
@[reducible] def decErrEq {ε α : Type} [DecidableEq ε] (r : Except ε α × State) (e : ε) (s : State) : Decidable (r = (.error e, s)) :=
  match r with
  | (.error b, t) => decidable_of_iff (b = e ∧ t = s) ⟨fun h => by rw [h.1, h.2], fun h => by cases h; exact ⟨rfl, rfl⟩⟩
  | (.ok _, _) => isFalse (fun h => nomatch congrArg Prod.fst h)

/-- Whether two bytes share a unit of their storage. -/
@[reducible] def decSameUnit (p q : Nat) : Decidable (sameUnit p q) := by
  unfold sameUnit
  split <;> infer_instance

/-- A claim about the fragments of an MMA is decided by the kind. -/
@[reducible] def decMma (k : OpKind) (a b : Prop) [Decidable a] [Decidable b] (p : List Signature → Prop) [DecidablePred p] :
    Decidable (∀ (n : Nat) (fmt : MmaFmt) (ck : Bool) (side : Nat) (frags : List Signature) (sc : Option MmaScale),
      a → b → k = .matrix (.mma n fmt ck side frags sc) → p frags) :=
  match k with
  | .matrix (.mma n fmt ck side frags sc) => decidable_of_iff (a → b → p frags)
      ⟨fun h _ _ _ _ _ _ ha hb e => by cases e; exact h ha hb, fun h ha hb => h n fmt ck side frags sc ha hb rfl⟩
  | .matrix (.accz ..) | .matrix (.accmv ..) | .matrix (.accst ..) | .matrix (.accld ..)
  | .load .. | .store .. | .atomic .. | .copy .. | .query .. | .nstat .. | .kvxlate .. | .pfxfind .. | .nrel .. | .sort .. | .attn ..
  | .caravan .. | .wopen .. | .wred .. | .wclose .. | .kvappend .. | .pfxins .. | .rename .. => isTrue (fun _ _ _ _ _ _ _ _ h => nomatch h)

/-- A claim about the pair that an option holds is decided by the option. -/
@[reducible] def decAllPair {α β : Type} (o : Option (α × β)) (p : α → β → Prop) [∀ a b, Decidable (p a b)] : Decidable (∀ a b, o = some (a, b) → p a b) :=
  match o with
  | none => isTrue (fun _ _ h => nomatch h)
  | some (a, b) => decidable_of_iff (p a b) ⟨fun h _ _ k => by cases k; exact h, fun h => h a b rfl⟩

/-- A claim about a named value is decided by the value. -/
@[reducible] def decNamed {α : Type} (v : α) (p : α → Prop) [DecidablePred p] : Decidable (∃ k, k = v ∧ p k) :=
  decidable_of_iff (p v) ⟨fun h => ⟨v, rfl, h⟩, fun ⟨_, h, k⟩ => h ▸ k⟩

/-- Whether an option holds a pair of a given second part. -/
@[reducible] def decSnd {α β : Type} [DecidableEq β] (o : Option (α × β)) (b : β) : Decidable (∃ c, o = some (c, b)) :=
  match o with
  | none => isFalse (fun ⟨_, h⟩ => nomatch h)
  | some (p, q) => decidable_of_iff (q = b) ⟨fun h => ⟨p, h ▸ rfl⟩, fun ⟨_, h⟩ => congrArg Prod.snd (Option.some.inj h)⟩

/-- Whether an option holds a pair with a property. -/
@[reducible] def decSomePair {α β : Type} (o : Option (α × β)) (p : α → β → Prop) [∀ a b, Decidable (p a b)] : Decidable (∃ a b, o = some (a, b) ∧ p a b) :=
  match o with
  | none => isFalse (fun ⟨_, _, h, _⟩ => nomatch h)
  | some (a, b) => decidable_of_iff (p a b) ⟨fun h => ⟨a, b, rfl, h⟩, fun ⟨_, _, h, k⟩ => by cases h; exact k⟩

/-- Whether an answer is a value with a property, and the state as it was. -/
@[reducible] def decOkAnd {ε α : Type} (r : Except ε α × State) (s : State) (p : α → Prop) [DecidablePred p] : Decidable (∃ a, r = (.ok a, s) ∧ p a) :=
  match r with
  | (.ok a, t) => decidable_of_iff (t = s ∧ p a) ⟨fun h => ⟨a, h.1 ▸ rfl, h.2⟩, fun ⟨a', h, k⟩ => ⟨congrArg Prod.snd h, by
      have e := Except.ok.inj (congrArg Prod.fst h)
      cases e; exact k⟩⟩
  | (.error _, _) => isFalse (fun ⟨_, h, _⟩ => nomatch congrArg Prod.fst h)


/-- Whether bytes decode to an instruction. -/
@[reducible] def decDecode (bs : List Byte) (p : Instr × List Byte) : Decidable (decode bs = .ok p) :=
  match h : decode bs with
  | .ok q => decidable_of_iff (q = p) ⟨fun e => congrArg _ e, fun e => Except.ok.inj e⟩
  | .error _ => isFalse (fun e => nomatch e)

/-- A claim about all pairs of small numbers is decided by trying them. -/
@[reducible] def decTwo (m n : Nat) (p : Nat → Nat → Prop) [∀ d k, Decidable (p d k)] : Decidable (∀ d k, d < m → k < n → p d k) :=
  decidable_of_iff (∀ d, d < m → ∀ k, k < n → p d k) ⟨fun h d k hd hk => h d hd k hk, fun h d hd k hk => h d k hd hk⟩

/-- Whether an operation is no contribution. -/
@[reducible] def decNoWred (k : OpKind) : Decidable (∀ c q i v, k ≠ .wred c q i v) :=
  match k with
  | .wred c q i v => isFalse (fun h => h c q i v rfl)
  | .load .. | .store .. | .atomic .. | .copy .. | .query .. | .nstat .. | .kvxlate .. | .pfxfind .. | .nrel .. | .sort .. | .attn ..
  | .caravan .. | .wopen .. | .rename .. | .wclose .. | .kvappend .. | .pfxins .. | .matrix .. => isTrue (fun _ _ _ _ h => nomatch h)

/-- A claim about what an option holds, under a condition. -/
@[reducible] def decAllAnd {α : Type} (o : Option α) (q p : α → Prop) [DecidablePred q] [DecidablePred p] : Decidable (∀ c, o = some c ∧ q c → p c) :=
  match o with
  | none => isTrue (fun _ h => nomatch h.1)
  | some a => decidable_of_iff (q a → p a) ⟨fun h _ k => Option.some.inj k.1 ▸ h (Option.some.inj k.1 ▸ k.2), fun h k => h a ⟨rfl, k⟩⟩

/-- Whether a list has a first element with a property. -/
@[reducible] def decCons {α : Type} (l : List α) (p : α → Prop) [DecidablePred p] : Decidable (∃ x t, l = x :: t ∧ p x) :=
  match l with
  | [] => isFalse (fun ⟨_, _, h, _⟩ => nomatch h)
  | a :: r => decidable_of_iff (p a) ⟨fun h => ⟨a, r, rfl, h⟩, fun ⟨_, _, h, k⟩ => List.head_eq_of_cons_eq h ▸ k⟩

/-- Whether an answer is a value with a property, whatever the state. -/
@[reducible] def decOkAny {ε α : Type} (r : Except ε α × State) (p : α → Prop) [DecidablePred p] : Decidable (∃ a t, r = (.ok a, t) ∧ p a) :=
  match r with
  | (.ok a, t) => decidable_of_iff (p a) ⟨fun h => ⟨a, t, rfl, h⟩, fun ⟨b, u, e, h⟩ => by
      have k := Except.ok.inj (congrArg Prod.fst e)
      cases k; exact h⟩
  | (.error _, _) => isFalse (fun ⟨_, _, e, _⟩ => nomatch congrArg Prod.fst e)

/-- A claim about a contribution is decided by the kind. -/
@[reducible] def decWred (k : OpKind) (p : Nat → Word → Nat → List (Option Word) → Prop) [∀ c q i v, Decidable (p c q i v)] :
    Decidable (∀ c q i v, k = .wred c q i v → p c q i v) :=
  match k with
  | .wred c q i v => decidable_of_iff (p c q i v) ⟨fun h _ _ _ _ e => by cases e; exact h, fun h => h c q i v rfl⟩
  | .load .. | .store .. | .atomic .. | .copy .. | .query .. | .nstat .. | .kvxlate .. | .pfxfind .. | .nrel .. | .sort .. | .attn ..
  | .caravan .. | .wopen .. | .rename .. | .wclose .. | .kvappend .. | .pfxins .. | .matrix .. => isTrue (fun _ _ _ _ h => nomatch h)

/-- Whether two reads, of which the second depends on the first, leave the state as it was. -/
@[reducible] def decReads {α β : Type} (r : α × State) (q : α → β × State) (s : State) : Decidable (∃ n more, r = (n, s) ∧ q n = (more, s)) :=
  decidable_of_iff (r.2 = s ∧ (q r.1).2 = s) ⟨fun h => ⟨r.1, (q r.1).1, Prod.ext rfl h.1, Prod.ext rfl h.2⟩, fun ⟨n, more, h, k⟩ => by
    subst h; exact ⟨rfl, congrArg Prod.snd k⟩⟩

/-- A claim about the record that a named thing holds is decided by the thing. -/
@[reducible] def decRecord {α κ β γ : Type} [DecidableEq κ] (o : Option α) (q : α → Prop) [DecidablePred q] (r : α → Option (κ × β × γ)) (k : κ) (p : α → β → γ → Prop)
    [∀ a b c, Decidable (p a b c)] : Decidable (∀ c st ids, o = some c ∧ q c → r c = some (k, st, ids) → p c st ids) :=
  match o with
  | none => isTrue (fun _ _ _ h => nomatch h.1)
  | some a =>
    match h : r a with
    | none => isTrue (fun _ _ _ e f => by cases e.1; rw [h] at f; exact nomatch f)
    | some (k', st, ids) => decidable_of_iff (q a → k' = k → p a st ids)
        ⟨fun g _ _ _ e f => by
          cases e.1
          rw [h] at f
          cases f
          exact g e.2 rfl, fun g e f => g a st ids ⟨rfl, e⟩ (by rw [h, f])⟩

/-- Whether a read leaves the state as it was, and what it reads has a property. -/
@[reducible] def decReadAnd {α : Type} (r : α × State) (s : State) (p : α → Prop) [DecidablePred p] : Decidable (∃ h, r = (h, s) ∧ p h) :=
  decidable_of_iff (r.2 = s ∧ p r.1) ⟨fun h => ⟨r.1, Prod.ext rfl h.1, h.2⟩, fun ⟨_, e, h⟩ => by cases e; exact ⟨rfl, h⟩⟩

/-- Whether a read leaves the state as it was. -/
@[reducible] def decRead {α : Type} (r : α × State) (s : State) : Decidable (∃ h, r = (h, s)) :=
  decidable_of_iff (r.2 = s) ⟨fun h => ⟨r.1, Prod.ext rfl h⟩, fun ⟨_, e⟩ => congrArg Prod.snd e⟩

/-- Whether a context that an option holds has a walk that ends in a leaf with a property. -/
@[reducible] def decCtxLeaf (o : Option Ctx) (w : Ctx → Walk) (p : Ctx → DWord → Nat → Nat → Prop) [∀ c e l a, Decidable (p c e l a)] :
    Decidable (∃ c e l a, o = some c ∧ w c = .leaf e l a ∧ p c e l a) :=
  match o with
  | none => isFalse (fun ⟨_, _, _, _, h, _⟩ => nomatch h)
  | some c =>
    match hw : w c with
    | .leaf e l a => decidable_of_iff (p c e l a) ⟨fun h => ⟨c, e, l, a, rfl, hw, h⟩, fun ⟨_, _, _, _, h, g, k⟩ => by
        cases h; rw [hw] at g; cases g; exact k⟩
    | .stop .. => isFalse (fun ⟨_, _, _, _, h, g, _⟩ => by cases h; rw [hw] at g; cases g)

/-- A claim about the leaf that a walk ends in is decided by the walk. -/
@[reducible] def decAllLeaf (w : Walk) (p : DWord → Nat → Nat → Prop) [∀ e l a, Decidable (p e l a)] : Decidable (∀ e l a, w = .leaf e l a → p e l a) :=
  match w with
  | .leaf e l a => decidable_of_iff (p e l a) ⟨fun h _ _ _ k => by cases k; exact h, fun h => h e l a rfl⟩
  | .stop .. => isTrue (fun _ _ _ h => nomatch h)

/-- Whether a walk ends in a leaf with a property. -/
@[reducible] def decSomeLeaf (w : Walk) (p : DWord → Prop) [DecidablePred p] : Decidable (∃ e l a, w = .leaf e l a ∧ p e) :=
  match w with
  | .leaf e l a => decidable_of_iff (p e) ⟨fun h => ⟨e, l, a, rfl, h⟩, fun ⟨_, _, _, h, k⟩ => by cases h; exact k⟩
  | .stop .. => isFalse (fun ⟨_, _, _, h, _⟩ => nomatch h)

/-- Whether a wait is at a barrier or at a rejoin mask. -/
@[reducible] def decBarRejoin (w : Wait) : Decidable ((∃ b q, w = .barrier b q) ∨ ∃ j, w = .rejoin j) :=
  match w with
  | .barrier b q => isTrue (.inl ⟨b, q, rfl⟩)
  | .rejoin j => isTrue (.inr ⟨j, rfl⟩)
  | .word .. | .node .. | .wadi .. | .corr .. | .yielding | .regroup .. | .sign .. | .stalled .. =>
    isFalse (fun h => h.elim (fun ⟨_, _, e⟩ => nomatch e) (fun ⟨_, e⟩ => nomatch e))


set_option synthInstance.maxSize 4000
set_option synthInstance.maxHeartbeats 400000

/-! ## What is not well-formed: one term that each check refuses -/

theorem test_condition : (Instr.icmp always (.v 2) (.v 0) (.lit 5) .al none).check = some .condition := by decide
theorem test_modeWritesNothing : (Instr.mode always none none).check = some .modeWritesNothing := by decide
theorem test_loadNoAllocateSpace : (Instr.ld always (.v 3) (.v 4) (.short 0) false .b32 .s true none).check = some .loadNoAllocateSpace := by decide
theorem test_loadAcquireConstant : (Instr.ld always (.v 3) (.v 4) (.short 0) false .b32 .k false (some .device)).check = some .loadAcquireConstant := by decide
theorem test_storeWidth : (Instr.st always (.v 4) (.v 3) (.short 0) false .s8 .g false .device).check = some .storeWidth := by decide
theorem test_storeReleaseConstant : (Instr.st always (.v 4) (.v 3) (.short 0) false .b32 .k true .device).check = some .storeReleaseConstant := by decide
theorem test_atomicLiteral : (Instr.atom always (.v 6) (.v 8) (.lit 1) false .casB32 .acq .device .g).check = some .atomicLiteral := by decide
theorem test_reductionOperation : (Instr.red always (.v 8) (.reg (.v 10)) false .exchB32 .rlx .device .g).check = some .reductionOperation := by decide
theorem test_reductionOrder : (Instr.red always (.v 8) (.reg (.v 10)) false .addB32 .acq .device .g).check = some .reductionOrder := by decide
theorem test_asynchronousCopyDirection : (Instr.copya always (.v 0) (.v 4) (.v 8) false .srec .device).check = some .asynchronousCopyDirection := by decide
theorem test_copyPostDirection : (Instr.tcopy always (.v 0) (.v 4) (.v 8) false .gs (some (1, .v 12))).check = some .copyPostDirection := by decide
theorem test_matrixIntegerFormat : (Instr.mma always 3 (.v 8) (.v 12) none true .int8).check = some .matrixIntegerFormat := by decide
theorem test_matrixScalePair : (Instr.mma always 3 (.v 8) (.v 12) (some { pair := .vz, p := 0, sa := 0, sb := 0 }) false .bf16).check = some .matrixScalePair := by decide
theorem test_noEncoding : (Instr.groupPlacement).check = some .noEncoding := by decide

/-! ## Words written out from the encoding tables of the spec (R91 to R97) -/

/-- FFMA.rz, guard (c2.ne). -/
theorem test_word_ffma : decodeTableWord 64 0x040140400C07438A = some (.ffma ⟨2, .ne⟩ (.v 7) (.v 3) (.reg (.v 4)) (.v 5) .rz false false none) := by decide
/-- TOPK. -/
theorem test_word_topk : decodeTableWord 64 0x000080B0040A6602 = some (.topk always (.v 10) (.v 11) (.v 1) 0 2 .f32) := by decide
/-- LD.g.b32. -/
theorem test_word_ld : decodeTableWord 64 0x2004000010038002 = some (.ld always (.v 3) (.v 4) (.short 0x10) false .b32 .g false none) := by decide
/-- ATOM.cas.b32.acq. -/
theorem test_word_atom : decodeTableWord 64 0x480B00A020068202 = some (.atom always (.v 6) (.v 8) (.reg (.v 10)) false .casB32 .acq .device .g) := by decide
/-- MMA. -/
theorem test_word_mma : decodeTableWord 64 0x00FFC0C02003A002 = some (.mma always 3 (.v 8) (.v 12) none false .bf16) := by decide
/-- MMA.j. -/
theorem test_word_mmaJ : decodeTableWord 64 0x20FFC0004810A102 = some (.mmaJ always 0x10 true 2 false .e4m3) := by decide
/-- NREL. -/
theorem test_word_nrel : decodeTableWord 64 0x000000001000B002 = some (.nrel always (.v 4) false) := by decide
/-- NWAIT. -/
theorem test_word_nwait : decodeTableWord 64 0x010000001006B102 = some (.nwait always (.v 6) (.v 4) true) := by decide
/-- SORTCNT. -/
theorem test_word_sortcnt : decodeTableWord 64 0x300000001000B302 = some (.sortcnt always (.v 4) false .device) := by decide
/-- CARSEND. -/
theorem test_word_carsend : decodeTableWord 64 0x00020060100AB402 = some (.carsend always (.v 10) (.v 4) (.v 6) (.v 8) false false) := by decide
/-- WRED. -/
theorem test_word_wred : decodeTableWord 64 0x000280902005B902 = some (.wred always (.v 8) (.v 9) (.v 10) 5 0 false) := by decide
/-- WCORR. -/
theorem test_word_wcorr : decodeTableWord 64 0x000140B02806BB02 = some (.wcorr always (.v 6) (.v 10) (.v 11) 5) := by decide
/-- TMASK.vec. -/
theorem test_word_tmask_vec : decodeTableWord 64 0x10001B02 = some (.tmask always (.vec (.v 4))) := by decide
/-- TMASK.en. -/
theorem test_word_tmask_en : decodeTableWord 64 0x0100000018001B02 = some (.tmask always (.en (.v 6))) := by decide
/-- `CALL f, 16`. -/
theorem test_word_call : (decodeTableWord 64 0x0000080040000302).isSome = true := by decide
/-- TRET. -/
theorem test_word_tret : decodeTableWord 64 0x1A02 = some (.tret always) := by decide
/-- RINJ.drop. -/
theorem test_word_rinj : decodeTableWord 64 0x0C001C02 = some (.rinj always (.v 3) false) := by decide
/-- The short IADD. -/
theorem test_word_short : decodeTableWord 32 0x40210 = some (.iaddShort (.v 2) (.v 1)) := by decide

/-! ## Results of single instructions, each worked out by hand from the rule cited -/

/-- The lane's fibre after an instruction. -/
def fibreAfter (i : Instr) (s : State) : Option Fibre :=
  match exec i s with
  | .next t => t.fibre? 0 0
  | .fault _ => none
  | .refused _ => none

/-- A register of the lane after an instruction that ran on the state where it stands next. -/
def result (i : Instr) (r : Nat) (regs : Sparse Word := []) : Option Word := (fibreAfter i (at_ i regs)).map (fun f => sget 0 f.regs r)
/-- A CC register of the lane after it. -/
def flags (i : Instr) (n : Fin 4) (regs : Sparse Word := []) : Option CC := (fibreAfter i (at_ i regs)).map (fun f => f.cc n)

/-- R149: the sum wraps. -/
theorem test_iadd_wraps : result (.iadd always (.v 2) (.v 0) (.reg (.v 1)) false (some 1)) 2 [(0, 0x7FFFFFFF), (1, 1)] = some 0x80000000 := by decide
/-- R148, R149: signed overflow sets V and S, and no carry goes out. -/
theorem test_iadd_flags : flags (.iadd always (.v 2) (.v 0) (.reg (.v 1)) false (some 1)) 1 [(0, 0x7FFFFFFF), (1, 1)]
    = some { s := true, z := false, c := false, v := true } := by decide
/-- R149: 3 − 5 = −2. -/
theorem test_isub : result (.isub always (.v 2) (.v 0) (.lit 5) false none) 2 [(0, 3)] = some 0xFFFFFFFE := by decide
/-- R150: the high word of 0xFFFFFFFF · 0xFFFFFFFF, unsigned. -/
theorem test_imulh_unsigned : result (.imulh always (.v 2) (.v 0) (.lit 0xFFFFFFFF) true none) 2 [(0, 0xFFFFFFFF)] = some 0xFFFFFFFE := by decide
/-- R150: and signed, −1 · −1 = 1. -/
theorem test_imulh_signed : result (.imulh always (.v 2) (.v 0) (.lit 0xFFFFFFFF) false none) 2 [(0, 0xFFFFFFFF)] = some 0 := by decide
/-- R151: a shift by 32 or more leaves 0. -/
theorem test_ishl_by_32 : result (.ishl always (.v 2) (.v 0) (.imm 32) none) 2 [(0, 0xFFFFFFFF)] = some 0 := by decide
/-- R151: an arithmetic shift by more than the width repeats the sign. -/
theorem test_ishra_by_40 : result (.ishra always (.v 2) (.v 0) (.imm 40) none) 2 [(0, 0x80000000)] = some 0xFFFFFFFF := by decide
/-- R152: table 0x96 is the exclusive or of the three sources. -/
theorem test_bool3_xor : result (.bool3 always (.v 2) (.v 0) (.reg (.v 1)) (.v 3) 0x96) 2 [(0, 0xF0F0F0F0), (1, 0xFF00FF00), (3, 0x0000FFFF)]
    = some 0x0FF0F00F := by decide
/-- R154: the field of 8 bits from bit 4, sign-extended: 0xF8 is −8. -/
theorem test_bfe_signed : result (.bfe always (.v 2) (.v 0) (.v 1) true none) 2 [(0, 0x00000F85), (1, 0x0804)] = some 0xFFFFFFF8 := by decide
/-- R158: 1.5 · 2.0 + 1.5 = 4.5. -/
theorem test_ffma : result (.ffma always (.v 2) (.v 0) (.reg (.v 1)) (.v 0) .rne false false none) 2 [(0, 0x3FC00000), (1, 0x40000000)]
    = some 0x40900000 := by decide
/-- R158: 1.0 − 1.0 is +0, and −0 under RD. -/
theorem test_fsub_zero : result (.fsub always (.v 2) (.v 0) (.reg (.v 0)) .rd false false none) 2 [(0, 0x3F800000)] = some 0x80000000 := by decide
/-- R165: 2.5 to an integer: to even gives 2, upward gives 3. -/
theorem test_f2i_even : result (.f2i always (.v 2) (.v 0) .rne true none) 2 [(0, 0x40200000)] = some 2 := by decide
/-- See `test_f2i_even`. -/
theorem test_f2i_up : result (.f2i always (.v 2) (.v 0) .ru true none) 2 [(0, 0x40200000)] = some 3 := by decide
/-- R153: POPC of 0xF00F. -/
theorem test_popc : result (.popc always (.v 2) (.v 0) none) 2 [(0, 0xF00F)] = some 8 := by decide
/-- R153: CLZ of 0 is 32. -/
theorem test_clz_zero : result (.clz always (.v 2) (.v 0) none) 2 [(0, 0)] = some 32 := by decide
/-- R56: a write to vz is discarded, and vz reads as 0. -/
theorem test_vz_reads_zero : result (.iadd always (.v 2) .vz (.lit 7) false none) 2 [] = some 7 := by decide

/-! ## Premises met: `Obligations.IntegerAddSubtract`, `Obligations.IntegerMultiply`, `Obligations.ShiftsFieldsAndSelects`,
`Obligations.FloatArithmetic`, `Obligations.FloatCompareHalvesConvert`, `Obligations.DotScaleRand`, `Obligations.CrossLane`,
`Obligations.SpecialFunctions` -/

namespace W1

def rg : Sparse Word := [(0, 0x7FFFFFFF), (1, 1), (2, 5), (3, 0x3F800000), (4, 9), (5, 0x40490FDB), (6, 0x0A05)]
def iIntegerAddSubtract_1 : Instr := (.iadd always (.v 2) (.v 0) (.reg (.v 1)) true (some 1))
def sIntegerAddSubtract_1 : State := (at_ iIntegerAddSubtract_1 rg)
theorem witness_IntegerAddSubtract_1 :
    Issues sIntegerAddSubtract_1
      (Instr.iadd always (Reg.v (2 : Fin 608)) (Reg.v (0 : Fin 608)) (Src.reg (Reg.v (1 : Fin 608))) true
        (some (1 : Fin 4)))
      (wOf sIntegerAddSubtract_1) (aOf sIntegerAddSubtract_1) (gOf sIntegerAddSubtract_1) (xOf sIntegerAddSubtract_1 iIntegerAddSubtract_1)
      (eOf sIntegerAddSubtract_1 iIntegerAddSubtract_1) (pOf sIntegerAddSubtract_1 iIntegerAddSubtract_1)
    ∧ NoOpenOperand
      (Instr.iadd always (Reg.v (2 : Fin 608)) (Reg.v (0 : Fin 608)) (Src.reg (Reg.v (1 : Fin 608))) true
        (some (1 : Fin 4)))
      (gOf sIntegerAddSubtract_1) (xOf sIntegerAddSubtract_1 iIntegerAddSubtract_1) (eOf sIntegerAddSubtract_1 iIntegerAddSubtract_1) :=
  by
  refine @of_decide_eq_true _ (by letI := @decIssues; letI := @decNoOpen; infer_instance) ?_
  decide +kernel
def iIntegerAddSubtract_2_1 : Instr := (.isub always (.v 2) (.v 0) (.lit 7) false (some 2))
def sIntegerAddSubtract_2_1 : State := (at_ iIntegerAddSubtract_2_1 rg)
theorem witness_IntegerAddSubtract_2_1 :
    Issues sIntegerAddSubtract_2_1
      (Instr.isub always (Reg.v (2 : Fin 608)) (Reg.v (0 : Fin 608)) (Src.lit (7 : Word)) false (some (2 : Fin 4)))
      (wOf sIntegerAddSubtract_2_1) (aOf sIntegerAddSubtract_2_1) (gOf sIntegerAddSubtract_2_1) (xOf sIntegerAddSubtract_2_1 iIntegerAddSubtract_2_1)
      (eOf sIntegerAddSubtract_2_1 iIntegerAddSubtract_2_1) (pOf sIntegerAddSubtract_2_1 iIntegerAddSubtract_2_1)
    ∧ NoOpenOperand (Instr.isub always (Reg.v (2 : Fin 608)) (Reg.v (0 : Fin 608)) (Src.lit (7 : Word)) false (some (2 : Fin 4)))
      (gOf sIntegerAddSubtract_2_1) (xOf sIntegerAddSubtract_2_1 iIntegerAddSubtract_2_1) (eOf sIntegerAddSubtract_2_1 iIntegerAddSubtract_2_1) :=
  by
  refine @of_decide_eq_true _ (by letI := @decIssues; letI := @decNoOpen; infer_instance) ?_
  decide +kernel
def iIntegerAddSubtract_2_2_1 : Instr := (.iaddShort (.v 1) (.v 2))
def sIntegerAddSubtract_2_2_1 : State := (at_ iIntegerAddSubtract_2_2_1 rg)
theorem witness_IntegerAddSubtract_2_2_1 :
    Issues sIntegerAddSubtract_2_2_1 (Instr.iaddShort (Reg.v (1 : Fin 608)) (Reg.v (2 : Fin 608))) (wOf sIntegerAddSubtract_2_2_1)
      (aOf sIntegerAddSubtract_2_2_1) (gOf sIntegerAddSubtract_2_2_1) (xOf sIntegerAddSubtract_2_2_1 iIntegerAddSubtract_2_2_1)
      (eOf sIntegerAddSubtract_2_2_1 iIntegerAddSubtract_2_2_1) (pOf sIntegerAddSubtract_2_2_1 iIntegerAddSubtract_2_2_1)
    ∧ NoOpenOperand (Instr.iaddShort (Reg.v (1 : Fin 608)) (Reg.v (2 : Fin 608))) (gOf sIntegerAddSubtract_2_2_1)
      (xOf sIntegerAddSubtract_2_2_1 iIntegerAddSubtract_2_2_1) (eOf sIntegerAddSubtract_2_2_1 iIntegerAddSubtract_2_2_1) :=
  by
  refine @of_decide_eq_true _ (by letI := @decIssues; letI := @decNoOpen; infer_instance) ?_
  decide +kernel
def iIntegerAddSubtract_2_2_2_1 : Instr := (.isubShort (.v 1) (.v 2))
def sIntegerAddSubtract_2_2_2_1 : State := (at_ iIntegerAddSubtract_2_2_2_1 rg)
theorem witness_IntegerAddSubtract_2_2_2_1 :
    Issues sIntegerAddSubtract_2_2_2_1 (Instr.isubShort (Reg.v (1 : Fin 608)) (Reg.v (2 : Fin 608))) (wOf sIntegerAddSubtract_2_2_2_1)
      (aOf sIntegerAddSubtract_2_2_2_1) (gOf sIntegerAddSubtract_2_2_2_1) (xOf sIntegerAddSubtract_2_2_2_1 iIntegerAddSubtract_2_2_2_1)
      (eOf sIntegerAddSubtract_2_2_2_1 iIntegerAddSubtract_2_2_2_1) (pOf sIntegerAddSubtract_2_2_2_1 iIntegerAddSubtract_2_2_2_1)
    ∧ NoOpenOperand (Instr.isubShort (Reg.v (1 : Fin 608)) (Reg.v (2 : Fin 608))) (gOf sIntegerAddSubtract_2_2_2_1)
      (xOf sIntegerAddSubtract_2_2_2_1 iIntegerAddSubtract_2_2_2_1) (eOf sIntegerAddSubtract_2_2_2_1 iIntegerAddSubtract_2_2_2_1) :=
  by
  refine @of_decide_eq_true _ (by letI := @decIssues; letI := @decNoOpen; infer_instance) ?_
  decide +kernel
def iIntegerAddSubtract_2_2_2_2_1 : Instr := (.iaddImmShort (.v 1) .vz 15)
def sIntegerAddSubtract_2_2_2_2_1 : State := (at_ iIntegerAddSubtract_2_2_2_2_1 rg)
theorem witness_IntegerAddSubtract_2_2_2_2_1 :
    Issues sIntegerAddSubtract_2_2_2_2_1 (Instr.iaddImmShort (Reg.v (1 : Fin 608)) Reg.vz (15 : BitVec 4))
      (wOf sIntegerAddSubtract_2_2_2_2_1) (aOf sIntegerAddSubtract_2_2_2_2_1) (gOf sIntegerAddSubtract_2_2_2_2_1)
      (xOf sIntegerAddSubtract_2_2_2_2_1 iIntegerAddSubtract_2_2_2_2_1) (eOf sIntegerAddSubtract_2_2_2_2_1 iIntegerAddSubtract_2_2_2_2_1)
      (pOf sIntegerAddSubtract_2_2_2_2_1 iIntegerAddSubtract_2_2_2_2_1)
    ∧ NoOpenOperand (Instr.iaddImmShort (Reg.v (1 : Fin 608)) Reg.vz (15 : BitVec 4)) (gOf sIntegerAddSubtract_2_2_2_2_1)
      (xOf sIntegerAddSubtract_2_2_2_2_1 iIntegerAddSubtract_2_2_2_2_1) (eOf sIntegerAddSubtract_2_2_2_2_1 iIntegerAddSubtract_2_2_2_2_1) :=
  by
  refine @of_decide_eq_true _ (by letI := @decIssues; letI := @decNoOpen; infer_instance) ?_
  decide +kernel
def iIntegerAddSubtract_2_2_2_2_2 : Instr := (.isubImmShort (.v 1) (.v 0) 15)
def sIntegerAddSubtract_2_2_2_2_2 : State := (at_ iIntegerAddSubtract_2_2_2_2_2 rg)
theorem witness_IntegerAddSubtract_2_2_2_2_2 :
    Issues sIntegerAddSubtract_2_2_2_2_2 (Instr.isubImmShort (Reg.v (1 : Fin 608)) (Reg.v (0 : Fin 608)) (15 : BitVec 4))
      (wOf sIntegerAddSubtract_2_2_2_2_2) (aOf sIntegerAddSubtract_2_2_2_2_2) (gOf sIntegerAddSubtract_2_2_2_2_2)
      (xOf sIntegerAddSubtract_2_2_2_2_2 iIntegerAddSubtract_2_2_2_2_2) (eOf sIntegerAddSubtract_2_2_2_2_2 iIntegerAddSubtract_2_2_2_2_2)
      (pOf sIntegerAddSubtract_2_2_2_2_2 iIntegerAddSubtract_2_2_2_2_2)
    ∧ NoOpenOperand (Instr.isubImmShort (Reg.v (1 : Fin 608)) (Reg.v (0 : Fin 608)) (15 : BitVec 4))
      (gOf sIntegerAddSubtract_2_2_2_2_2) (xOf sIntegerAddSubtract_2_2_2_2_2 iIntegerAddSubtract_2_2_2_2_2)
      (eOf sIntegerAddSubtract_2_2_2_2_2 iIntegerAddSubtract_2_2_2_2_2) :=
  by
  refine @of_decide_eq_true _ (by letI := @decIssues; letI := @decNoOpen; infer_instance) ?_
  decide +kernel
def iIntegerMultiply_1 : Instr := (.imul always (.v 2) (.v 0) (.reg (.v 4)) (some 1))
def sIntegerMultiply_1 : State := (at_ iIntegerMultiply_1 rg)
theorem witness_IntegerMultiply_1 :
    Issues sIntegerMultiply_1
      (Instr.imul always (Reg.v (2 : Fin 608)) (Reg.v (0 : Fin 608)) (Src.reg (Reg.v (4 : Fin 608)))
        (some (1 : Fin 4)))
      (wOf sIntegerMultiply_1) (aOf sIntegerMultiply_1) (gOf sIntegerMultiply_1) (xOf sIntegerMultiply_1 iIntegerMultiply_1)
      (eOf sIntegerMultiply_1 iIntegerMultiply_1) (pOf sIntegerMultiply_1 iIntegerMultiply_1)
    ∧ NoOpenOperand
      (Instr.imul always (Reg.v (2 : Fin 608)) (Reg.v (0 : Fin 608)) (Src.reg (Reg.v (4 : Fin 608)))
        (some (1 : Fin 4)))
      (gOf sIntegerMultiply_1) (xOf sIntegerMultiply_1 iIntegerMultiply_1) (eOf sIntegerMultiply_1 iIntegerMultiply_1) :=
  by
  refine @of_decide_eq_true _ (by letI := @decIssues; letI := @decNoOpen; infer_instance) ?_
  decide +kernel
def iIntegerMultiply_2_1 : Instr := (.imulh always (.v 2) (.v 0) (.lit 7) true (some 0))
def sIntegerMultiply_2_1 : State := (at_ iIntegerMultiply_2_1 rg)
theorem witness_IntegerMultiply_2_1 :
    Issues sIntegerMultiply_2_1
      (Instr.imulh always (Reg.v (2 : Fin 608)) (Reg.v (0 : Fin 608)) (Src.lit (7 : Word)) true (some (0 : Fin 4)))
      (wOf sIntegerMultiply_2_1) (aOf sIntegerMultiply_2_1) (gOf sIntegerMultiply_2_1) (xOf sIntegerMultiply_2_1 iIntegerMultiply_2_1)
      (eOf sIntegerMultiply_2_1 iIntegerMultiply_2_1) (pOf sIntegerMultiply_2_1 iIntegerMultiply_2_1)
    ∧ NoOpenOperand (Instr.imulh always (Reg.v (2 : Fin 608)) (Reg.v (0 : Fin 608)) (Src.lit (7 : Word)) true (some (0 : Fin 4)))
      (gOf sIntegerMultiply_2_1) (xOf sIntegerMultiply_2_1 iIntegerMultiply_2_1) (eOf sIntegerMultiply_2_1 iIntegerMultiply_2_1) :=
  by
  refine @of_decide_eq_true _ (by letI := @decIssues; letI := @decNoOpen; infer_instance) ?_
  decide +kernel
def iIntegerMultiply_2_2_1 : Instr := (.imad always (.v 2) (.v 0) (.lit 3) (.v 4) none)
def sIntegerMultiply_2_2_1 : State := (at_ iIntegerMultiply_2_2_1 rg)
theorem witness_IntegerMultiply_2_2_1 :
    Issues sIntegerMultiply_2_2_1
      (Instr.imad always (Reg.v (2 : Fin 608)) (Reg.v (0 : Fin 608)) (Src.lit (3 : Word)) (Reg.v (4 : Fin 608)) none)
      (wOf sIntegerMultiply_2_2_1) (aOf sIntegerMultiply_2_2_1) (gOf sIntegerMultiply_2_2_1) (xOf sIntegerMultiply_2_2_1 iIntegerMultiply_2_2_1)
      (eOf sIntegerMultiply_2_2_1 iIntegerMultiply_2_2_1) (pOf sIntegerMultiply_2_2_1 iIntegerMultiply_2_2_1)
    ∧ NoOpenOperand (Instr.imad always (Reg.v (2 : Fin 608)) (Reg.v (0 : Fin 608)) (Src.lit (3 : Word)) (Reg.v (4 : Fin 608)) none)
      (gOf sIntegerMultiply_2_2_1) (xOf sIntegerMultiply_2_2_1 iIntegerMultiply_2_2_1) (eOf sIntegerMultiply_2_2_1 iIntegerMultiply_2_2_1) :=
  by
  refine @of_decide_eq_true _ (by letI := @decIssues; letI := @decNoOpen; infer_instance) ?_
  decide +kernel
def iIntegerMultiply_2_2_2_1 : Instr := (.imad64 always (.v 22) (.v 0) (.reg .vz) (.v 4) false (some 0))
def sIntegerMultiply_2_2_2_1 : State := (at_ iIntegerMultiply_2_2_2_1 rg)
theorem witness_IntegerMultiply_2_2_2_1 :
    Issues sIntegerMultiply_2_2_2_1
      (Instr.imad64 always (Reg.v (22 : Fin 608)) (Reg.v (0 : Fin 608)) (Src.reg Reg.vz) (Reg.v (4 : Fin 608)) false
        (some (0 : Fin 4)))
      (wOf sIntegerMultiply_2_2_2_1) (aOf sIntegerMultiply_2_2_2_1) (gOf sIntegerMultiply_2_2_2_1)
      (xOf sIntegerMultiply_2_2_2_1 iIntegerMultiply_2_2_2_1) (eOf sIntegerMultiply_2_2_2_1 iIntegerMultiply_2_2_2_1)
      (pOf sIntegerMultiply_2_2_2_1 iIntegerMultiply_2_2_2_1)
    ∧ NoOpenOperand
      (Instr.imad64 always (Reg.v (22 : Fin 608)) (Reg.v (0 : Fin 608)) (Src.reg Reg.vz) (Reg.v (4 : Fin 608)) false
        (some (0 : Fin 4)))
      (gOf sIntegerMultiply_2_2_2_1) (xOf sIntegerMultiply_2_2_2_1 iIntegerMultiply_2_2_2_1) (eOf sIntegerMultiply_2_2_2_1 iIntegerMultiply_2_2_2_1) :=
  by
  refine @of_decide_eq_true _ (by letI := @decIssues; letI := @decNoOpen; infer_instance) ?_
  decide +kernel
def iIntegerMultiply_2_2_2_2_1 : Instr := (.iadd64 always (.v 2) (.v 0) (.lit 0xFFFFFFFF) (some 3))
def sIntegerMultiply_2_2_2_2_1 : State := (at_ iIntegerMultiply_2_2_2_2_1 rg)
theorem witness_IntegerMultiply_2_2_2_2_1 :
    Issues sIntegerMultiply_2_2_2_2_1
      (Instr.iadd64 always (Reg.v (2 : Fin 608)) (Reg.v (0 : Fin 608)) (Src.lit (4294967295 : Word)) (some (3 : Fin 4)))
      (wOf sIntegerMultiply_2_2_2_2_1) (aOf sIntegerMultiply_2_2_2_2_1) (gOf sIntegerMultiply_2_2_2_2_1)
      (xOf sIntegerMultiply_2_2_2_2_1 iIntegerMultiply_2_2_2_2_1) (eOf sIntegerMultiply_2_2_2_2_1 iIntegerMultiply_2_2_2_2_1)
      (pOf sIntegerMultiply_2_2_2_2_1 iIntegerMultiply_2_2_2_2_1)
    ∧ NoOpenOperand
      (Instr.iadd64 always (Reg.v (2 : Fin 608)) (Reg.v (0 : Fin 608)) (Src.lit (4294967295 : Word)) (some (3 : Fin 4)))
      (gOf sIntegerMultiply_2_2_2_2_1) (xOf sIntegerMultiply_2_2_2_2_1 iIntegerMultiply_2_2_2_2_1)
      (eOf sIntegerMultiply_2_2_2_2_1 iIntegerMultiply_2_2_2_2_1) :=
  by
  refine @of_decide_eq_true _ (by letI := @decIssues; letI := @decNoOpen; infer_instance) ?_
  decide +kernel
def iIntegerMultiply_2_2_2_2_2 : Instr := (.imulShort (.v 1) (.v 2))
def sIntegerMultiply_2_2_2_2_2 : State := (at_ iIntegerMultiply_2_2_2_2_2 rg)
theorem witness_IntegerMultiply_2_2_2_2_2 :
    Issues sIntegerMultiply_2_2_2_2_2 (Instr.imulShort (Reg.v (1 : Fin 608)) (Reg.v (2 : Fin 608))) (wOf sIntegerMultiply_2_2_2_2_2)
      (aOf sIntegerMultiply_2_2_2_2_2) (gOf sIntegerMultiply_2_2_2_2_2) (xOf sIntegerMultiply_2_2_2_2_2 iIntegerMultiply_2_2_2_2_2)
      (eOf sIntegerMultiply_2_2_2_2_2 iIntegerMultiply_2_2_2_2_2) (pOf sIntegerMultiply_2_2_2_2_2 iIntegerMultiply_2_2_2_2_2)
    ∧ NoOpenOperand (Instr.imulShort (Reg.v (1 : Fin 608)) (Reg.v (2 : Fin 608))) (gOf sIntegerMultiply_2_2_2_2_2)
      (xOf sIntegerMultiply_2_2_2_2_2 iIntegerMultiply_2_2_2_2_2) (eOf sIntegerMultiply_2_2_2_2_2 iIntegerMultiply_2_2_2_2_2) :=
  by
  refine @of_decide_eq_true _ (by letI := @decIssues; letI := @decNoOpen; infer_instance) ?_
  decide +kernel
def iIntegerShift_1 : Instr := (.ishl always (.v 2) (.v 0) (.imm 32) (some 1))
def sIntegerShift_1 : State := (at_ iIntegerShift_1 rg)
theorem witness_IntegerShift_1 :
    Issues sIntegerShift_1
      (Instr.ishl always (Reg.v (2 : Fin 608)) (Reg.v (0 : Fin 608)) (ShiftSrc.imm (32 : BitVec 10))
        (some (1 : Fin 4)))
      (wOf sIntegerShift_1) (aOf sIntegerShift_1) (gOf sIntegerShift_1) (xOf sIntegerShift_1 iIntegerShift_1) (eOf sIntegerShift_1 iIntegerShift_1)
      (pOf sIntegerShift_1 iIntegerShift_1)
    ∧ NoOpenOperand
      (Instr.ishl always (Reg.v (2 : Fin 608)) (Reg.v (0 : Fin 608)) (ShiftSrc.imm (32 : BitVec 10))
        (some (1 : Fin 4)))
      (gOf sIntegerShift_1) (xOf sIntegerShift_1 iIntegerShift_1) (eOf sIntegerShift_1 iIntegerShift_1) :=
  by
  refine @of_decide_eq_true _ (by letI := @decIssues; letI := @decNoOpen; infer_instance) ?_
  decide +kernel
def iIntegerShift_2_1 : Instr := (.ishr always (.v 2) (.v 0) (.reg (.v 1)) (some 0))
def sIntegerShift_2_1 : State := (at_ iIntegerShift_2_1 rg)
theorem witness_IntegerShift_2_1 :
    Issues sIntegerShift_2_1
      (Instr.ishr always (Reg.v (2 : Fin 608)) (Reg.v (0 : Fin 608)) (ShiftSrc.reg (Reg.v (1 : Fin 608)))
        (some (0 : Fin 4)))
      (wOf sIntegerShift_2_1) (aOf sIntegerShift_2_1) (gOf sIntegerShift_2_1) (xOf sIntegerShift_2_1 iIntegerShift_2_1)
      (eOf sIntegerShift_2_1 iIntegerShift_2_1) (pOf sIntegerShift_2_1 iIntegerShift_2_1)
    ∧ NoOpenOperand
      (Instr.ishr always (Reg.v (2 : Fin 608)) (Reg.v (0 : Fin 608)) (ShiftSrc.reg (Reg.v (1 : Fin 608)))
        (some (0 : Fin 4)))
      (gOf sIntegerShift_2_1) (xOf sIntegerShift_2_1 iIntegerShift_2_1) (eOf sIntegerShift_2_1 iIntegerShift_2_1) :=
  by
  refine @of_decide_eq_true _ (by letI := @decIssues; letI := @decNoOpen; infer_instance) ?_
  decide +kernel
def iIntegerShift_2_2_1 : Instr := (.ishra always (.v 2) (.v 0) (.imm 1023) (some 0))
def sIntegerShift_2_2_1 : State := (at_ iIntegerShift_2_2_1 rg)
theorem witness_IntegerShift_2_2_1 :
    Issues sIntegerShift_2_2_1
      (Instr.ishra always (Reg.v (2 : Fin 608)) (Reg.v (0 : Fin 608)) (ShiftSrc.imm (1023 : BitVec 10))
        (some (0 : Fin 4)))
      (wOf sIntegerShift_2_2_1) (aOf sIntegerShift_2_2_1) (gOf sIntegerShift_2_2_1) (xOf sIntegerShift_2_2_1 iIntegerShift_2_2_1)
      (eOf sIntegerShift_2_2_1 iIntegerShift_2_2_1) (pOf sIntegerShift_2_2_1 iIntegerShift_2_2_1)
    ∧ NoOpenOperand
      (Instr.ishra always (Reg.v (2 : Fin 608)) (Reg.v (0 : Fin 608)) (ShiftSrc.imm (1023 : BitVec 10))
        (some (0 : Fin 4)))
      (gOf sIntegerShift_2_2_1) (xOf sIntegerShift_2_2_1 iIntegerShift_2_2_1) (eOf sIntegerShift_2_2_1 iIntegerShift_2_2_1) :=
  by
  refine @of_decide_eq_true _ (by letI := @decIssues; letI := @decNoOpen; infer_instance) ?_
  decide +kernel
def iIntegerShift_2_2_2_1 : Instr := (.ishlImmShort (.v 1) (.v 2) 15)
def sIntegerShift_2_2_2_1 : State := (at_ iIntegerShift_2_2_2_1 rg)
theorem witness_IntegerShift_2_2_2_1 :
    Issues sIntegerShift_2_2_2_1 (Instr.ishlImmShort (Reg.v (1 : Fin 608)) (Reg.v (2 : Fin 608)) (15 : BitVec 4))
      (wOf sIntegerShift_2_2_2_1) (aOf sIntegerShift_2_2_2_1) (gOf sIntegerShift_2_2_2_1) (xOf sIntegerShift_2_2_2_1 iIntegerShift_2_2_2_1)
      (eOf sIntegerShift_2_2_2_1 iIntegerShift_2_2_2_1) (pOf sIntegerShift_2_2_2_1 iIntegerShift_2_2_2_1)
    ∧ NoOpenOperand (Instr.ishlImmShort (Reg.v (1 : Fin 608)) (Reg.v (2 : Fin 608)) (15 : BitVec 4)) (gOf sIntegerShift_2_2_2_1)
      (xOf sIntegerShift_2_2_2_1 iIntegerShift_2_2_2_1) (eOf sIntegerShift_2_2_2_1 iIntegerShift_2_2_2_1) :=
  by
  refine @of_decide_eq_true _ (by letI := @decIssues; letI := @decNoOpen; infer_instance) ?_
  decide +kernel
def iIntegerShift_2_2_2_2_1 : Instr := (.ishrImmShort (.v 1) (.v 2) 1)
def sIntegerShift_2_2_2_2_1 : State := (at_ iIntegerShift_2_2_2_2_1 rg)
theorem witness_IntegerShift_2_2_2_2_1 :
    Issues sIntegerShift_2_2_2_2_1 (Instr.ishrImmShort (Reg.v (1 : Fin 608)) (Reg.v (2 : Fin 608)) (1 : BitVec 4))
      (wOf sIntegerShift_2_2_2_2_1) (aOf sIntegerShift_2_2_2_2_1) (gOf sIntegerShift_2_2_2_2_1) (xOf sIntegerShift_2_2_2_2_1 iIntegerShift_2_2_2_2_1)
      (eOf sIntegerShift_2_2_2_2_1 iIntegerShift_2_2_2_2_1) (pOf sIntegerShift_2_2_2_2_1 iIntegerShift_2_2_2_2_1)
    ∧ NoOpenOperand (Instr.ishrImmShort (Reg.v (1 : Fin 608)) (Reg.v (2 : Fin 608)) (1 : BitVec 4)) (gOf sIntegerShift_2_2_2_2_1)
      (xOf sIntegerShift_2_2_2_2_1 iIntegerShift_2_2_2_2_1) (eOf sIntegerShift_2_2_2_2_1 iIntegerShift_2_2_2_2_1) :=
  by
  refine @of_decide_eq_true _ (by letI := @decIssues; letI := @decNoOpen; infer_instance) ?_
  decide +kernel
def iIntegerShift_2_2_2_2_2_1 : Instr := (.ishraImmShort (.v 1) (.v 0) 15)
def sIntegerShift_2_2_2_2_2_1 : State := (at_ iIntegerShift_2_2_2_2_2_1 rg)
theorem witness_IntegerShift_2_2_2_2_2_1 :
    Issues sIntegerShift_2_2_2_2_2_1 (Instr.ishraImmShort (Reg.v (1 : Fin 608)) (Reg.v (0 : Fin 608)) (15 : BitVec 4))
      (wOf sIntegerShift_2_2_2_2_2_1) (aOf sIntegerShift_2_2_2_2_2_1) (gOf sIntegerShift_2_2_2_2_2_1)
      (xOf sIntegerShift_2_2_2_2_2_1 iIntegerShift_2_2_2_2_2_1) (eOf sIntegerShift_2_2_2_2_2_1 iIntegerShift_2_2_2_2_2_1)
      (pOf sIntegerShift_2_2_2_2_2_1 iIntegerShift_2_2_2_2_2_1)
    ∧ NoOpenOperand (Instr.ishraImmShort (Reg.v (1 : Fin 608)) (Reg.v (0 : Fin 608)) (15 : BitVec 4))
      (gOf sIntegerShift_2_2_2_2_2_1) (xOf sIntegerShift_2_2_2_2_2_1 iIntegerShift_2_2_2_2_2_1)
      (eOf sIntegerShift_2_2_2_2_2_1 iIntegerShift_2_2_2_2_2_1) :=
  by
  refine @of_decide_eq_true _ (by letI := @decIssues; letI := @decNoOpen; infer_instance) ?_
  decide +kernel
def iIntegerShift_2_2_2_2_2_2_1 : Instr := (.ishlImm16Short (.v 1) (.v 2) 15)
def sIntegerShift_2_2_2_2_2_2_1 : State := (at_ iIntegerShift_2_2_2_2_2_2_1 rg)
theorem witness_IntegerShift_2_2_2_2_2_2_1 :
    Issues sIntegerShift_2_2_2_2_2_2_1 (Instr.ishlImm16Short (Reg.v (1 : Fin 608)) (Reg.v (2 : Fin 608)) (15 : BitVec 4))
      (wOf sIntegerShift_2_2_2_2_2_2_1) (aOf sIntegerShift_2_2_2_2_2_2_1) (gOf sIntegerShift_2_2_2_2_2_2_1)
      (xOf sIntegerShift_2_2_2_2_2_2_1 iIntegerShift_2_2_2_2_2_2_1) (eOf sIntegerShift_2_2_2_2_2_2_1 iIntegerShift_2_2_2_2_2_2_1)
      (pOf sIntegerShift_2_2_2_2_2_2_1 iIntegerShift_2_2_2_2_2_2_1)
    ∧ NoOpenOperand (Instr.ishlImm16Short (Reg.v (1 : Fin 608)) (Reg.v (2 : Fin 608)) (15 : BitVec 4))
      (gOf sIntegerShift_2_2_2_2_2_2_1) (xOf sIntegerShift_2_2_2_2_2_2_1 iIntegerShift_2_2_2_2_2_2_1)
      (eOf sIntegerShift_2_2_2_2_2_2_1 iIntegerShift_2_2_2_2_2_2_1) :=
  by
  refine @of_decide_eq_true _ (by letI := @decIssues; letI := @decNoOpen; infer_instance) ?_
  decide +kernel
def iIntegerShift_2_2_2_2_2_2_2_1 : Instr := (.ishrImm16Short (.v 1) (.v 2) 0)
def sIntegerShift_2_2_2_2_2_2_2_1 : State := (at_ iIntegerShift_2_2_2_2_2_2_2_1 rg)
theorem witness_IntegerShift_2_2_2_2_2_2_2_1 :
    Issues sIntegerShift_2_2_2_2_2_2_2_1 (Instr.ishrImm16Short (Reg.v (1 : Fin 608)) (Reg.v (2 : Fin 608)) (0 : BitVec 4))
      (wOf sIntegerShift_2_2_2_2_2_2_2_1) (aOf sIntegerShift_2_2_2_2_2_2_2_1) (gOf sIntegerShift_2_2_2_2_2_2_2_1)
      (xOf sIntegerShift_2_2_2_2_2_2_2_1 iIntegerShift_2_2_2_2_2_2_2_1) (eOf sIntegerShift_2_2_2_2_2_2_2_1 iIntegerShift_2_2_2_2_2_2_2_1)
      (pOf sIntegerShift_2_2_2_2_2_2_2_1 iIntegerShift_2_2_2_2_2_2_2_1)
    ∧ NoOpenOperand (Instr.ishrImm16Short (Reg.v (1 : Fin 608)) (Reg.v (2 : Fin 608)) (0 : BitVec 4))
      (gOf sIntegerShift_2_2_2_2_2_2_2_1) (xOf sIntegerShift_2_2_2_2_2_2_2_1 iIntegerShift_2_2_2_2_2_2_2_1)
      (eOf sIntegerShift_2_2_2_2_2_2_2_1 iIntegerShift_2_2_2_2_2_2_2_1) :=
  by
  refine @of_decide_eq_true _ (by letI := @decIssues; letI := @decNoOpen; infer_instance) ?_
  decide +kernel
def iIntegerShift_2_2_2_2_2_2_2_2 : Instr := (.ishraImm16Short (.v 1) (.v 0) 15)
def sIntegerShift_2_2_2_2_2_2_2_2 : State := (at_ iIntegerShift_2_2_2_2_2_2_2_2 rg)
theorem witness_IntegerShift_2_2_2_2_2_2_2_2 :
    Issues sIntegerShift_2_2_2_2_2_2_2_2 (Instr.ishraImm16Short (Reg.v (1 : Fin 608)) (Reg.v (0 : Fin 608)) (15 : BitVec 4))
      (wOf sIntegerShift_2_2_2_2_2_2_2_2) (aOf sIntegerShift_2_2_2_2_2_2_2_2) (gOf sIntegerShift_2_2_2_2_2_2_2_2)
      (xOf sIntegerShift_2_2_2_2_2_2_2_2 iIntegerShift_2_2_2_2_2_2_2_2) (eOf sIntegerShift_2_2_2_2_2_2_2_2 iIntegerShift_2_2_2_2_2_2_2_2)
      (pOf sIntegerShift_2_2_2_2_2_2_2_2 iIntegerShift_2_2_2_2_2_2_2_2)
    ∧ NoOpenOperand (Instr.ishraImm16Short (Reg.v (1 : Fin 608)) (Reg.v (0 : Fin 608)) (15 : BitVec 4))
      (gOf sIntegerShift_2_2_2_2_2_2_2_2) (xOf sIntegerShift_2_2_2_2_2_2_2_2 iIntegerShift_2_2_2_2_2_2_2_2)
      (eOf sIntegerShift_2_2_2_2_2_2_2_2 iIntegerShift_2_2_2_2_2_2_2_2) :=
  by
  refine @of_decide_eq_true _ (by letI := @decIssues; letI := @decNoOpen; infer_instance) ?_
  decide +kernel
def iIntegerSingle_1 : Instr := (.imin always (.v 2) (.v 0) (.lit 5) true (some 1))
def sIntegerSingle_1 : State := (at_ iIntegerSingle_1 rg)
theorem witness_IntegerSingle_1 :
    Issues sIntegerSingle_1
      (Instr.imin always (Reg.v (2 : Fin 608)) (Reg.v (0 : Fin 608)) (Src.lit (5 : Word)) true (some (1 : Fin 4)))
      (wOf sIntegerSingle_1) (aOf sIntegerSingle_1) (gOf sIntegerSingle_1) (xOf sIntegerSingle_1 iIntegerSingle_1)
      (eOf sIntegerSingle_1 iIntegerSingle_1) (pOf sIntegerSingle_1 iIntegerSingle_1)
    ∧ NoOpenOperand (Instr.imin always (Reg.v (2 : Fin 608)) (Reg.v (0 : Fin 608)) (Src.lit (5 : Word)) true (some (1 : Fin 4)))
      (gOf sIntegerSingle_1) (xOf sIntegerSingle_1 iIntegerSingle_1) (eOf sIntegerSingle_1 iIntegerSingle_1) :=
  by
  refine @of_decide_eq_true _ (by letI := @decIssues; letI := @decNoOpen; infer_instance) ?_
  decide +kernel
def iIntegerSingle_2_1 : Instr := (.imax always (.v 2) (.v 0) (.reg (.v 1)) false (some 0))
def sIntegerSingle_2_1 : State := (at_ iIntegerSingle_2_1 rg)
theorem witness_IntegerSingle_2_1 :
    Issues sIntegerSingle_2_1
      (Instr.imax always (Reg.v (2 : Fin 608)) (Reg.v (0 : Fin 608)) (Src.reg (Reg.v (1 : Fin 608))) false
        (some (0 : Fin 4)))
      (wOf sIntegerSingle_2_1) (aOf sIntegerSingle_2_1) (gOf sIntegerSingle_2_1) (xOf sIntegerSingle_2_1 iIntegerSingle_2_1)
      (eOf sIntegerSingle_2_1 iIntegerSingle_2_1) (pOf sIntegerSingle_2_1 iIntegerSingle_2_1)
    ∧ NoOpenOperand
      (Instr.imax always (Reg.v (2 : Fin 608)) (Reg.v (0 : Fin 608)) (Src.reg (Reg.v (1 : Fin 608))) false
        (some (0 : Fin 4)))
      (gOf sIntegerSingle_2_1) (xOf sIntegerSingle_2_1 iIntegerSingle_2_1) (eOf sIntegerSingle_2_1 iIntegerSingle_2_1) :=
  by
  refine @of_decide_eq_true _ (by letI := @decIssues; letI := @decNoOpen; infer_instance) ?_
  decide +kernel
def iIntegerSingle_2_2_1 : Instr := (.iabs always (.v 2) (.v 0) true (some 0))
def sIntegerSingle_2_2_1 : State := (at_ iIntegerSingle_2_2_1 rg)
theorem witness_IntegerSingle_2_2_1 :
    Issues sIntegerSingle_2_2_1 (Instr.iabs always (Reg.v (2 : Fin 608)) (Reg.v (0 : Fin 608)) true (some (0 : Fin 4)))
      (wOf sIntegerSingle_2_2_1) (aOf sIntegerSingle_2_2_1) (gOf sIntegerSingle_2_2_1) (xOf sIntegerSingle_2_2_1 iIntegerSingle_2_2_1)
      (eOf sIntegerSingle_2_2_1 iIntegerSingle_2_2_1) (pOf sIntegerSingle_2_2_1 iIntegerSingle_2_2_1)
    ∧ NoOpenOperand (Instr.iabs always (Reg.v (2 : Fin 608)) (Reg.v (0 : Fin 608)) true (some (0 : Fin 4)))
      (gOf sIntegerSingle_2_2_1) (xOf sIntegerSingle_2_2_1 iIntegerSingle_2_2_1) (eOf sIntegerSingle_2_2_1 iIntegerSingle_2_2_1) :=
  by
  refine @of_decide_eq_true _ (by letI := @decIssues; letI := @decNoOpen; infer_instance) ?_
  decide +kernel
def iIntegerSingle_2_2_2_1 : Instr := (.popc always (.v 2) (.v 0) (some 0))
def sIntegerSingle_2_2_2_1 : State := (at_ iIntegerSingle_2_2_2_1 rg)
theorem witness_IntegerSingle_2_2_2_1 :
    Issues sIntegerSingle_2_2_2_1 (Instr.popc always (Reg.v (2 : Fin 608)) (Reg.v (0 : Fin 608)) (some (0 : Fin 4)))
      (wOf sIntegerSingle_2_2_2_1) (aOf sIntegerSingle_2_2_2_1) (gOf sIntegerSingle_2_2_2_1) (xOf sIntegerSingle_2_2_2_1 iIntegerSingle_2_2_2_1)
      (eOf sIntegerSingle_2_2_2_1 iIntegerSingle_2_2_2_1) (pOf sIntegerSingle_2_2_2_1 iIntegerSingle_2_2_2_1)
    ∧ NoOpenOperand (Instr.popc always (Reg.v (2 : Fin 608)) (Reg.v (0 : Fin 608)) (some (0 : Fin 4))) (gOf sIntegerSingle_2_2_2_1)
      (xOf sIntegerSingle_2_2_2_1 iIntegerSingle_2_2_2_1) (eOf sIntegerSingle_2_2_2_1 iIntegerSingle_2_2_2_1) :=
  by
  refine @of_decide_eq_true _ (by letI := @decIssues; letI := @decNoOpen; infer_instance) ?_
  decide +kernel
def iIntegerSingle_2_2_2_2_1 : Instr := (.clz always (.v 2) (.v 4) (some 0))
def sIntegerSingle_2_2_2_2_1 : State := (at_ iIntegerSingle_2_2_2_2_1 rg)
theorem witness_IntegerSingle_2_2_2_2_1 :
    Issues sIntegerSingle_2_2_2_2_1 (Instr.clz always (Reg.v (2 : Fin 608)) (Reg.v (4 : Fin 608)) (some (0 : Fin 4)))
      (wOf sIntegerSingle_2_2_2_2_1) (aOf sIntegerSingle_2_2_2_2_1) (gOf sIntegerSingle_2_2_2_2_1)
      (xOf sIntegerSingle_2_2_2_2_1 iIntegerSingle_2_2_2_2_1) (eOf sIntegerSingle_2_2_2_2_1 iIntegerSingle_2_2_2_2_1)
      (pOf sIntegerSingle_2_2_2_2_1 iIntegerSingle_2_2_2_2_1)
    ∧ NoOpenOperand (Instr.clz always (Reg.v (2 : Fin 608)) (Reg.v (4 : Fin 608)) (some (0 : Fin 4))) (gOf sIntegerSingle_2_2_2_2_1)
      (xOf sIntegerSingle_2_2_2_2_1 iIntegerSingle_2_2_2_2_1) (eOf sIntegerSingle_2_2_2_2_1 iIntegerSingle_2_2_2_2_1) :=
  by
  refine @of_decide_eq_true _ (by letI := @decIssues; letI := @decNoOpen; infer_instance) ?_
  decide +kernel
def iIntegerSingle_2_2_2_2_2_1 : Instr := (.iminShort (.v 1) (.v 2))
def sIntegerSingle_2_2_2_2_2_1 : State := (at_ iIntegerSingle_2_2_2_2_2_1 rg)
theorem witness_IntegerSingle_2_2_2_2_2_1 :
    Issues sIntegerSingle_2_2_2_2_2_1 (Instr.iminShort (Reg.v (1 : Fin 608)) (Reg.v (2 : Fin 608))) (wOf sIntegerSingle_2_2_2_2_2_1)
      (aOf sIntegerSingle_2_2_2_2_2_1) (gOf sIntegerSingle_2_2_2_2_2_1) (xOf sIntegerSingle_2_2_2_2_2_1 iIntegerSingle_2_2_2_2_2_1)
      (eOf sIntegerSingle_2_2_2_2_2_1 iIntegerSingle_2_2_2_2_2_1) (pOf sIntegerSingle_2_2_2_2_2_1 iIntegerSingle_2_2_2_2_2_1)
    ∧ NoOpenOperand (Instr.iminShort (Reg.v (1 : Fin 608)) (Reg.v (2 : Fin 608))) (gOf sIntegerSingle_2_2_2_2_2_1)
      (xOf sIntegerSingle_2_2_2_2_2_1 iIntegerSingle_2_2_2_2_2_1) (eOf sIntegerSingle_2_2_2_2_2_1 iIntegerSingle_2_2_2_2_2_1) :=
  by
  refine @of_decide_eq_true _ (by letI := @decIssues; letI := @decNoOpen; infer_instance) ?_
  decide +kernel
def iIntegerSingle_2_2_2_2_2_2 : Instr := (.imaxShort (.v 1) (.v 2))
def sIntegerSingle_2_2_2_2_2_2 : State := (at_ iIntegerSingle_2_2_2_2_2_2 rg)
theorem witness_IntegerSingle_2_2_2_2_2_2 :
    Issues sIntegerSingle_2_2_2_2_2_2 (Instr.imaxShort (Reg.v (1 : Fin 608)) (Reg.v (2 : Fin 608))) (wOf sIntegerSingle_2_2_2_2_2_2)
      (aOf sIntegerSingle_2_2_2_2_2_2) (gOf sIntegerSingle_2_2_2_2_2_2) (xOf sIntegerSingle_2_2_2_2_2_2 iIntegerSingle_2_2_2_2_2_2)
      (eOf sIntegerSingle_2_2_2_2_2_2 iIntegerSingle_2_2_2_2_2_2) (pOf sIntegerSingle_2_2_2_2_2_2 iIntegerSingle_2_2_2_2_2_2)
    ∧ NoOpenOperand (Instr.imaxShort (Reg.v (1 : Fin 608)) (Reg.v (2 : Fin 608))) (gOf sIntegerSingle_2_2_2_2_2_2)
      (xOf sIntegerSingle_2_2_2_2_2_2 iIntegerSingle_2_2_2_2_2_2) (eOf sIntegerSingle_2_2_2_2_2_2 iIntegerSingle_2_2_2_2_2_2) :=
  by
  refine @of_decide_eq_true _ (by letI := @decIssues; letI := @decNoOpen; infer_instance) ?_
  decide +kernel
def iCompareSelect_1 : Instr := (.icmp always (.v 2) (.v 0) (.lit 5) .lt (some 1))
def sCompareSelect_1 : State := (at_ iCompareSelect_1 rg)
theorem witness_CompareSelect_1 :
    Issues sCompareSelect_1
      (Instr.icmp always (Reg.v (2 : Fin 608)) (Reg.v (0 : Fin 608)) (Src.lit (5 : Word)) Cond.lt (some (1 : Fin 4)))
      (wOf sCompareSelect_1) (aOf sCompareSelect_1) (gOf sCompareSelect_1) (xOf sCompareSelect_1 iCompareSelect_1)
      (eOf sCompareSelect_1 iCompareSelect_1) (pOf sCompareSelect_1 iCompareSelect_1)
    ∧ NoOpenOperand (Instr.icmp always (Reg.v (2 : Fin 608)) (Reg.v (0 : Fin 608)) (Src.lit (5 : Word)) Cond.lt (some (1 : Fin 4)))
      (gOf sCompareSelect_1) (xOf sCompareSelect_1 iCompareSelect_1) (eOf sCompareSelect_1 iCompareSelect_1) :=
  by
  refine @of_decide_eq_true _ (by letI := @decIssues; letI := @decNoOpen; infer_instance) ?_
  decide +kernel
def iCompareSelect_2 : Instr := (.isel always (.v 2) (.v 0) (.reg (.v 1)) .eq 3)
def sCompareSelect_2 : State := (at_ iCompareSelect_2 rg)
theorem witness_CompareSelect_2 :
    Issues sCompareSelect_2
      (Instr.isel always (Reg.v (2 : Fin 608)) (Reg.v (0 : Fin 608)) (Src.reg (Reg.v (1 : Fin 608))) Cond.eq
        (3 : Fin 4))
      (wOf sCompareSelect_2) (aOf sCompareSelect_2) (gOf sCompareSelect_2) (xOf sCompareSelect_2 iCompareSelect_2)
      (eOf sCompareSelect_2 iCompareSelect_2) (pOf sCompareSelect_2 iCompareSelect_2)
    ∧ NoOpenOperand
      (Instr.isel always (Reg.v (2 : Fin 608)) (Reg.v (0 : Fin 608)) (Src.reg (Reg.v (1 : Fin 608))) Cond.eq
        (3 : Fin 4))
      (gOf sCompareSelect_2) (xOf sCompareSelect_2 iCompareSelect_2) (eOf sCompareSelect_2 iCompareSelect_2) :=
  by
  refine @of_decide_eq_true _ (by letI := @decIssues; letI := @decNoOpen; infer_instance) ?_
  decide +kernel
def iMoves_1 : Instr := (.mov always (.v 2) (.v 0) false)
def sMoves_1 : State := (at_ iMoves_1 rg)
theorem witness_Moves_1 :
    Issues sMoves_1 (Instr.mov always (Reg.v (2 : Fin 608)) (Reg.v (0 : Fin 608)) false) (wOf sMoves_1) (aOf sMoves_1) (gOf sMoves_1)
      (xOf sMoves_1 iMoves_1) (eOf sMoves_1 iMoves_1) (pOf sMoves_1 iMoves_1)
    ∧ NoOpenOperand (Instr.mov always (Reg.v (2 : Fin 608)) (Reg.v (0 : Fin 608)) false) (gOf sMoves_1) (xOf sMoves_1 iMoves_1)
      (eOf sMoves_1 iMoves_1) :=
  by
  refine @of_decide_eq_true _ (by letI := @decIssues; letI := @decNoOpen; infer_instance) ?_
  decide +kernel
def iMoves_2_1 : Instr := (.mov always (.v 2) (.v 0) true)
def sMoves_2_1 : State := (at_ iMoves_2_1 rg)
theorem witness_Moves_2_1 :
    Issues sMoves_2_1 (Instr.mov always (Reg.v (2 : Fin 608)) (Reg.v (0 : Fin 608)) true) (wOf sMoves_2_1) (aOf sMoves_2_1)
      (gOf sMoves_2_1) (xOf sMoves_2_1 iMoves_2_1) (eOf sMoves_2_1 iMoves_2_1) (pOf sMoves_2_1 iMoves_2_1)
    ∧ NoOpenOperand (Instr.mov always (Reg.v (2 : Fin 608)) (Reg.v (0 : Fin 608)) true) (gOf sMoves_2_1) (xOf sMoves_2_1 iMoves_2_1)
      (eOf sMoves_2_1 iMoves_2_1) :=
  by
  refine @of_decide_eq_true _ (by letI := @decIssues; letI := @decNoOpen; infer_instance) ?_
  decide +kernel
def iMoves_2_2_1 : Instr := (.movi always (.v 2) (.short 1023))
def sMoves_2_2_1 : State := (at_ iMoves_2_2_1 rg)
theorem witness_Moves_2_2_1 :
    Issues sMoves_2_2_1 (Instr.movi always (Reg.v (2 : Fin 608)) (MovImm.short (1023 : BitVec 10))) (wOf sMoves_2_2_1) (aOf sMoves_2_2_1)
      (gOf sMoves_2_2_1) (xOf sMoves_2_2_1 iMoves_2_2_1) (eOf sMoves_2_2_1 iMoves_2_2_1) (pOf sMoves_2_2_1 iMoves_2_2_1)
    ∧ NoOpenOperand (Instr.movi always (Reg.v (2 : Fin 608)) (MovImm.short (1023 : BitVec 10))) (gOf sMoves_2_2_1)
      (xOf sMoves_2_2_1 iMoves_2_2_1) (eOf sMoves_2_2_1 iMoves_2_2_1) :=
  by
  refine @of_decide_eq_true _ (by letI := @decIssues; letI := @decNoOpen; infer_instance) ?_
  decide +kernel
def iMoves_2_2_2_1 : Instr := (.movi always (.v 2) (.long 0x12345678))
def sMoves_2_2_2_1 : State := (at_ iMoves_2_2_2_1 rg)
theorem witness_Moves_2_2_2_1 :
    Issues sMoves_2_2_2_1 (Instr.movi always (Reg.v (2 : Fin 608)) (MovImm.long (305419896 : Word))) (wOf sMoves_2_2_2_1) (aOf sMoves_2_2_2_1)
      (gOf sMoves_2_2_2_1) (xOf sMoves_2_2_2_1 iMoves_2_2_2_1) (eOf sMoves_2_2_2_1 iMoves_2_2_2_1) (pOf sMoves_2_2_2_1 iMoves_2_2_2_1)
    ∧ NoOpenOperand (Instr.movi always (Reg.v (2 : Fin 608)) (MovImm.long (305419896 : Word))) (gOf sMoves_2_2_2_1)
      (xOf sMoves_2_2_2_1 iMoves_2_2_2_1) (eOf sMoves_2_2_2_1 iMoves_2_2_2_1) :=
  by
  refine @of_decide_eq_true _ (by letI := @decIssues; letI := @decNoOpen; infer_instance) ?_
  decide +kernel
def iMoves_2_2_2_2_1 : Instr := (.movShort (.v 1) (.v 2))
def sMoves_2_2_2_2_1 : State := (at_ iMoves_2_2_2_2_1 rg)
theorem witness_Moves_2_2_2_2_1 :
    Issues sMoves_2_2_2_2_1 (Instr.movShort (Reg.v (1 : Fin 608)) (Reg.v (2 : Fin 608))) (wOf sMoves_2_2_2_2_1) (aOf sMoves_2_2_2_2_1)
      (gOf sMoves_2_2_2_2_1) (xOf sMoves_2_2_2_2_1 iMoves_2_2_2_2_1) (eOf sMoves_2_2_2_2_1 iMoves_2_2_2_2_1) (pOf sMoves_2_2_2_2_1 iMoves_2_2_2_2_1)
    ∧ NoOpenOperand (Instr.movShort (Reg.v (1 : Fin 608)) (Reg.v (2 : Fin 608))) (gOf sMoves_2_2_2_2_1)
      (xOf sMoves_2_2_2_2_1 iMoves_2_2_2_2_1) (eOf sMoves_2_2_2_2_1 iMoves_2_2_2_2_1) :=
  by
  refine @of_decide_eq_true _ (by letI := @decIssues; letI := @decNoOpen; infer_instance) ?_
  decide +kernel
def iMoves_2_2_2_2_2 : Instr := (.moviShort (.v 1) 0x2000)
def sMoves_2_2_2_2_2 : State := (at_ iMoves_2_2_2_2_2 rg)
theorem witness_Moves_2_2_2_2_2 :
    Issues sMoves_2_2_2_2_2 (Instr.moviShort (Reg.v (1 : Fin 608)) (8192 : BitVec 14)) (wOf sMoves_2_2_2_2_2) (aOf sMoves_2_2_2_2_2)
      (gOf sMoves_2_2_2_2_2) (xOf sMoves_2_2_2_2_2 iMoves_2_2_2_2_2) (eOf sMoves_2_2_2_2_2 iMoves_2_2_2_2_2) (pOf sMoves_2_2_2_2_2 iMoves_2_2_2_2_2)
    ∧ NoOpenOperand (Instr.moviShort (Reg.v (1 : Fin 608)) (8192 : BitVec 14)) (gOf sMoves_2_2_2_2_2)
      (xOf sMoves_2_2_2_2_2 iMoves_2_2_2_2_2) (eOf sMoves_2_2_2_2_2 iMoves_2_2_2_2_2) :=
  by
  refine @of_decide_eq_true _ (by letI := @decIssues; letI := @decNoOpen; infer_instance) ?_
  decide +kernel
def iFloatArithmetic_1 : Instr := (.fadd always (.v 2) (.v 3) (.reg (.v 3)) .sr false true (some 1))
def sFloatArithmetic_1 : State := (at_ iFloatArithmetic_1 rg)
theorem witness_FloatArithmetic_1 :
    Issues sFloatArithmetic_1
      (Instr.fadd always (Reg.v (2 : Fin 608)) (Reg.v (3 : Fin 608)) (Src.reg (Reg.v (3 : Fin 608))) Rnd.sr false true
        (some (1 : Fin 4)))
      (wOf sFloatArithmetic_1) (aOf sFloatArithmetic_1) (gOf sFloatArithmetic_1) (xOf sFloatArithmetic_1 iFloatArithmetic_1)
      (eOf sFloatArithmetic_1 iFloatArithmetic_1) (pOf sFloatArithmetic_1 iFloatArithmetic_1)
    ∧ NoOpenOperand
      (Instr.fadd always (Reg.v (2 : Fin 608)) (Reg.v (3 : Fin 608)) (Src.reg (Reg.v (3 : Fin 608))) Rnd.sr false true
        (some (1 : Fin 4)))
      (gOf sFloatArithmetic_1) (xOf sFloatArithmetic_1 iFloatArithmetic_1) (eOf sFloatArithmetic_1 iFloatArithmetic_1) :=
  by
  refine @of_decide_eq_true _ (by letI := @decIssues; letI := @decNoOpen; infer_instance) ?_
  decide +kernel
def iFloatArithmetic_2_1 : Instr := (.fsub always (.v 2) (.v 3) (.lit 0x3F800000) .rz true false (some 0))
def sFloatArithmetic_2_1 : State := (at_ iFloatArithmetic_2_1 rg)
theorem witness_FloatArithmetic_2_1 :
    Issues sFloatArithmetic_2_1
      (Instr.fsub always (Reg.v (2 : Fin 608)) (Reg.v (3 : Fin 608)) (Src.lit (1065353216 : Word)) Rnd.rz true false
        (some (0 : Fin 4)))
      (wOf sFloatArithmetic_2_1) (aOf sFloatArithmetic_2_1) (gOf sFloatArithmetic_2_1) (xOf sFloatArithmetic_2_1 iFloatArithmetic_2_1)
      (eOf sFloatArithmetic_2_1 iFloatArithmetic_2_1) (pOf sFloatArithmetic_2_1 iFloatArithmetic_2_1)
    ∧ NoOpenOperand
      (Instr.fsub always (Reg.v (2 : Fin 608)) (Reg.v (3 : Fin 608)) (Src.lit (1065353216 : Word)) Rnd.rz true false
        (some (0 : Fin 4)))
      (gOf sFloatArithmetic_2_1) (xOf sFloatArithmetic_2_1 iFloatArithmetic_2_1) (eOf sFloatArithmetic_2_1 iFloatArithmetic_2_1) :=
  by
  refine @of_decide_eq_true _ (by letI := @decIssues; letI := @decNoOpen; infer_instance) ?_
  decide +kernel
def iFloatArithmetic_2_2_1 : Instr := (.fmul always (.v 2) (.v 3) (.reg (.v 1)) .ru false false none)
def sFloatArithmetic_2_2_1 : State := (at_ iFloatArithmetic_2_2_1 rg)
theorem witness_FloatArithmetic_2_2_1 :
    Issues sFloatArithmetic_2_2_1
      (Instr.fmul always (Reg.v (2 : Fin 608)) (Reg.v (3 : Fin 608)) (Src.reg (Reg.v (1 : Fin 608))) Rnd.ru false false none)
      (wOf sFloatArithmetic_2_2_1) (aOf sFloatArithmetic_2_2_1) (gOf sFloatArithmetic_2_2_1) (xOf sFloatArithmetic_2_2_1 iFloatArithmetic_2_2_1)
      (eOf sFloatArithmetic_2_2_1 iFloatArithmetic_2_2_1) (pOf sFloatArithmetic_2_2_1 iFloatArithmetic_2_2_1)
    ∧ NoOpenOperand
      (Instr.fmul always (Reg.v (2 : Fin 608)) (Reg.v (3 : Fin 608)) (Src.reg (Reg.v (1 : Fin 608))) Rnd.ru false false none)
      (gOf sFloatArithmetic_2_2_1) (xOf sFloatArithmetic_2_2_1 iFloatArithmetic_2_2_1) (eOf sFloatArithmetic_2_2_1 iFloatArithmetic_2_2_1) :=
  by
  refine @of_decide_eq_true _ (by letI := @decIssues; letI := @decNoOpen; infer_instance) ?_
  decide +kernel
def iFloatArithmetic_2_2_2_1 : Instr := (.ffma always (.v 2) (.v 3) (.reg (.v 0)) (.v 3) .rd false false (some 0))
def sFloatArithmetic_2_2_2_1 : State := (at_ iFloatArithmetic_2_2_2_1 rg)
theorem witness_FloatArithmetic_2_2_2_1 :
    Issues sFloatArithmetic_2_2_2_1
      (Instr.ffma always (Reg.v (2 : Fin 608)) (Reg.v (3 : Fin 608)) (Src.reg (Reg.v (0 : Fin 608)))
        (Reg.v (3 : Fin 608)) Rnd.rd false false (some (0 : Fin 4)))
      (wOf sFloatArithmetic_2_2_2_1) (aOf sFloatArithmetic_2_2_2_1) (gOf sFloatArithmetic_2_2_2_1)
      (xOf sFloatArithmetic_2_2_2_1 iFloatArithmetic_2_2_2_1) (eOf sFloatArithmetic_2_2_2_1 iFloatArithmetic_2_2_2_1)
      (pOf sFloatArithmetic_2_2_2_1 iFloatArithmetic_2_2_2_1)
    ∧ NoOpenOperand
      (Instr.ffma always (Reg.v (2 : Fin 608)) (Reg.v (3 : Fin 608)) (Src.reg (Reg.v (0 : Fin 608)))
        (Reg.v (3 : Fin 608)) Rnd.rd false false (some (0 : Fin 4)))
      (gOf sFloatArithmetic_2_2_2_1) (xOf sFloatArithmetic_2_2_2_1 iFloatArithmetic_2_2_2_1) (eOf sFloatArithmetic_2_2_2_1 iFloatArithmetic_2_2_2_1) :=
  by
  refine @of_decide_eq_true _ (by letI := @decIssues; letI := @decNoOpen; infer_instance) ?_
  decide +kernel
def iFloatArithmetic_2_2_2_2_1 : Instr := (.faddShort (.v 1) (.v 3))
def sFloatArithmetic_2_2_2_2_1 : State := (at_ iFloatArithmetic_2_2_2_2_1 rg)
theorem witness_FloatArithmetic_2_2_2_2_1 :
    Issues sFloatArithmetic_2_2_2_2_1 (Instr.faddShort (Reg.v (1 : Fin 608)) (Reg.v (3 : Fin 608))) (wOf sFloatArithmetic_2_2_2_2_1)
      (aOf sFloatArithmetic_2_2_2_2_1) (gOf sFloatArithmetic_2_2_2_2_1) (xOf sFloatArithmetic_2_2_2_2_1 iFloatArithmetic_2_2_2_2_1)
      (eOf sFloatArithmetic_2_2_2_2_1 iFloatArithmetic_2_2_2_2_1) (pOf sFloatArithmetic_2_2_2_2_1 iFloatArithmetic_2_2_2_2_1)
    ∧ NoOpenOperand (Instr.faddShort (Reg.v (1 : Fin 608)) (Reg.v (3 : Fin 608))) (gOf sFloatArithmetic_2_2_2_2_1)
      (xOf sFloatArithmetic_2_2_2_2_1 iFloatArithmetic_2_2_2_2_1) (eOf sFloatArithmetic_2_2_2_2_1 iFloatArithmetic_2_2_2_2_1) :=
  by
  refine @of_decide_eq_true _ (by letI := @decIssues; letI := @decNoOpen; infer_instance) ?_
  decide +kernel
def iFloatArithmetic_2_2_2_2_2_1 : Instr := (.fsubShort (.v 1) (.v 3))
def sFloatArithmetic_2_2_2_2_2_1 : State := (at_ iFloatArithmetic_2_2_2_2_2_1 rg)
theorem witness_FloatArithmetic_2_2_2_2_2_1 :
    Issues sFloatArithmetic_2_2_2_2_2_1 (Instr.fsubShort (Reg.v (1 : Fin 608)) (Reg.v (3 : Fin 608))) (wOf sFloatArithmetic_2_2_2_2_2_1)
      (aOf sFloatArithmetic_2_2_2_2_2_1) (gOf sFloatArithmetic_2_2_2_2_2_1) (xOf sFloatArithmetic_2_2_2_2_2_1 iFloatArithmetic_2_2_2_2_2_1)
      (eOf sFloatArithmetic_2_2_2_2_2_1 iFloatArithmetic_2_2_2_2_2_1) (pOf sFloatArithmetic_2_2_2_2_2_1 iFloatArithmetic_2_2_2_2_2_1)
    ∧ NoOpenOperand (Instr.fsubShort (Reg.v (1 : Fin 608)) (Reg.v (3 : Fin 608))) (gOf sFloatArithmetic_2_2_2_2_2_1)
      (xOf sFloatArithmetic_2_2_2_2_2_1 iFloatArithmetic_2_2_2_2_2_1) (eOf sFloatArithmetic_2_2_2_2_2_1 iFloatArithmetic_2_2_2_2_2_1) :=
  by
  refine @of_decide_eq_true _ (by letI := @decIssues; letI := @decNoOpen; infer_instance) ?_
  decide +kernel
def iFloatArithmetic_2_2_2_2_2_2 : Instr := (.fmulShort (.v 3) (.v 3))
def sFloatArithmetic_2_2_2_2_2_2 : State := (at_ iFloatArithmetic_2_2_2_2_2_2 rg)
theorem witness_FloatArithmetic_2_2_2_2_2_2 :
    Issues sFloatArithmetic_2_2_2_2_2_2 (Instr.fmulShort (Reg.v (3 : Fin 608)) (Reg.v (3 : Fin 608))) (wOf sFloatArithmetic_2_2_2_2_2_2)
      (aOf sFloatArithmetic_2_2_2_2_2_2) (gOf sFloatArithmetic_2_2_2_2_2_2) (xOf sFloatArithmetic_2_2_2_2_2_2 iFloatArithmetic_2_2_2_2_2_2)
      (eOf sFloatArithmetic_2_2_2_2_2_2 iFloatArithmetic_2_2_2_2_2_2) (pOf sFloatArithmetic_2_2_2_2_2_2 iFloatArithmetic_2_2_2_2_2_2)
    ∧ NoOpenOperand (Instr.fmulShort (Reg.v (3 : Fin 608)) (Reg.v (3 : Fin 608))) (gOf sFloatArithmetic_2_2_2_2_2_2)
      (xOf sFloatArithmetic_2_2_2_2_2_2 iFloatArithmetic_2_2_2_2_2_2) (eOf sFloatArithmetic_2_2_2_2_2_2 iFloatArithmetic_2_2_2_2_2_2) :=
  by
  refine @of_decide_eq_true _ (by letI := @decIssues; letI := @decNoOpen; infer_instance) ?_
  decide +kernel
def iFloatCompare_1 : Instr := (.fmin always (.v 2) (.v 0) (.reg (.v 3)) true true (some 1))
def sFloatCompare_1 : State := (at_ iFloatCompare_1 rg)
theorem witness_FloatCompare_1 :
    Issues sFloatCompare_1
      (Instr.fmin always (Reg.v (2 : Fin 608)) (Reg.v (0 : Fin 608)) (Src.reg (Reg.v (3 : Fin 608))) true true
        (some (1 : Fin 4)))
      (wOf sFloatCompare_1) (aOf sFloatCompare_1) (gOf sFloatCompare_1) (xOf sFloatCompare_1 iFloatCompare_1) (eOf sFloatCompare_1 iFloatCompare_1)
      (pOf sFloatCompare_1 iFloatCompare_1)
    ∧ NoOpenOperand
      (Instr.fmin always (Reg.v (2 : Fin 608)) (Reg.v (0 : Fin 608)) (Src.reg (Reg.v (3 : Fin 608))) true true
        (some (1 : Fin 4)))
      (gOf sFloatCompare_1) (xOf sFloatCompare_1 iFloatCompare_1) (eOf sFloatCompare_1 iFloatCompare_1) :=
  by
  refine @of_decide_eq_true _ (by letI := @decIssues; letI := @decNoOpen; infer_instance) ?_
  decide +kernel
def iFloatCompare_2_1 : Instr := (.fmax always (.v 2) (.v 3) (.lit 0x7FC00000) false false (some 0))
def sFloatCompare_2_1 : State := (at_ iFloatCompare_2_1 rg)
theorem witness_FloatCompare_2_1 :
    Issues sFloatCompare_2_1
      (Instr.fmax always (Reg.v (2 : Fin 608)) (Reg.v (3 : Fin 608)) (Src.lit (2143289344 : Word)) false false
        (some (0 : Fin 4)))
      (wOf sFloatCompare_2_1) (aOf sFloatCompare_2_1) (gOf sFloatCompare_2_1) (xOf sFloatCompare_2_1 iFloatCompare_2_1)
      (eOf sFloatCompare_2_1 iFloatCompare_2_1) (pOf sFloatCompare_2_1 iFloatCompare_2_1)
    ∧ NoOpenOperand
      (Instr.fmax always (Reg.v (2 : Fin 608)) (Reg.v (3 : Fin 608)) (Src.lit (2143289344 : Word)) false false
        (some (0 : Fin 4)))
      (gOf sFloatCompare_2_1) (xOf sFloatCompare_2_1 iFloatCompare_2_1) (eOf sFloatCompare_2_1 iFloatCompare_2_1) :=
  by
  refine @of_decide_eq_true _ (by letI := @decIssues; letI := @decNoOpen; infer_instance) ?_
  decide +kernel
def iFloatCompare_2_2_1 : Instr := (.fcmp always (.v 2) (.v 0) (.reg (.v 1)) .ne false (some 0))
def sFloatCompare_2_2_1 : State := (at_ iFloatCompare_2_2_1 rg)
theorem witness_FloatCompare_2_2_1 :
    Issues sFloatCompare_2_2_1
      (Instr.fcmp always (Reg.v (2 : Fin 608)) (Reg.v (0 : Fin 608)) (Src.reg (Reg.v (1 : Fin 608))) Cond.ne false
        (some (0 : Fin 4)))
      (wOf sFloatCompare_2_2_1) (aOf sFloatCompare_2_2_1) (gOf sFloatCompare_2_2_1) (xOf sFloatCompare_2_2_1 iFloatCompare_2_2_1)
      (eOf sFloatCompare_2_2_1 iFloatCompare_2_2_1) (pOf sFloatCompare_2_2_1 iFloatCompare_2_2_1)
    ∧ NoOpenOperand
      (Instr.fcmp always (Reg.v (2 : Fin 608)) (Reg.v (0 : Fin 608)) (Src.reg (Reg.v (1 : Fin 608))) Cond.ne false
        (some (0 : Fin 4)))
      (gOf sFloatCompare_2_2_1) (xOf sFloatCompare_2_2_1 iFloatCompare_2_2_1) (eOf sFloatCompare_2_2_1 iFloatCompare_2_2_1) :=
  by
  refine @of_decide_eq_true _ (by letI := @decIssues; letI := @decNoOpen; infer_instance) ?_
  decide +kernel
def iFloatCompare_2_2_2_1 : Instr := (.fclass always (.v 2) (.v 1))
def sFloatCompare_2_2_2_1 : State := (at_ iFloatCompare_2_2_2_1 rg)
theorem witness_FloatCompare_2_2_2_1 :
    Issues sFloatCompare_2_2_2_1 (Instr.fclass always (Reg.v (2 : Fin 608)) (Reg.v (1 : Fin 608))) (wOf sFloatCompare_2_2_2_1)
      (aOf sFloatCompare_2_2_2_1) (gOf sFloatCompare_2_2_2_1) (xOf sFloatCompare_2_2_2_1 iFloatCompare_2_2_2_1)
      (eOf sFloatCompare_2_2_2_1 iFloatCompare_2_2_2_1) (pOf sFloatCompare_2_2_2_1 iFloatCompare_2_2_2_1)
    ∧ NoOpenOperand (Instr.fclass always (Reg.v (2 : Fin 608)) (Reg.v (1 : Fin 608))) (gOf sFloatCompare_2_2_2_1)
      (xOf sFloatCompare_2_2_2_1 iFloatCompare_2_2_2_1) (eOf sFloatCompare_2_2_2_1 iFloatCompare_2_2_2_1) :=
  by
  refine @of_decide_eq_true _ (by letI := @decIssues; letI := @decNoOpen; infer_instance) ?_
  decide +kernel
def iFloatCompare_2_2_2_2_1 : Instr := (.fminShort (.v 1) (.v 3))
def sFloatCompare_2_2_2_2_1 : State := (at_ iFloatCompare_2_2_2_2_1 rg)
theorem witness_FloatCompare_2_2_2_2_1 :
    Issues sFloatCompare_2_2_2_2_1 (Instr.fminShort (Reg.v (1 : Fin 608)) (Reg.v (3 : Fin 608))) (wOf sFloatCompare_2_2_2_2_1)
      (aOf sFloatCompare_2_2_2_2_1) (gOf sFloatCompare_2_2_2_2_1) (xOf sFloatCompare_2_2_2_2_1 iFloatCompare_2_2_2_2_1)
      (eOf sFloatCompare_2_2_2_2_1 iFloatCompare_2_2_2_2_1) (pOf sFloatCompare_2_2_2_2_1 iFloatCompare_2_2_2_2_1)
    ∧ NoOpenOperand (Instr.fminShort (Reg.v (1 : Fin 608)) (Reg.v (3 : Fin 608))) (gOf sFloatCompare_2_2_2_2_1)
      (xOf sFloatCompare_2_2_2_2_1 iFloatCompare_2_2_2_2_1) (eOf sFloatCompare_2_2_2_2_1 iFloatCompare_2_2_2_2_1) :=
  by
  refine @of_decide_eq_true _ (by letI := @decIssues; letI := @decNoOpen; infer_instance) ?_
  decide +kernel
def iFloatCompare_2_2_2_2_2 : Instr := (.fmaxShort (.v 1) (.v 3))
def sFloatCompare_2_2_2_2_2 : State := (at_ iFloatCompare_2_2_2_2_2 rg)
theorem witness_FloatCompare_2_2_2_2_2 :
    Issues sFloatCompare_2_2_2_2_2 (Instr.fmaxShort (Reg.v (1 : Fin 608)) (Reg.v (3 : Fin 608))) (wOf sFloatCompare_2_2_2_2_2)
      (aOf sFloatCompare_2_2_2_2_2) (gOf sFloatCompare_2_2_2_2_2) (xOf sFloatCompare_2_2_2_2_2 iFloatCompare_2_2_2_2_2)
      (eOf sFloatCompare_2_2_2_2_2 iFloatCompare_2_2_2_2_2) (pOf sFloatCompare_2_2_2_2_2 iFloatCompare_2_2_2_2_2)
    ∧ NoOpenOperand (Instr.fmaxShort (Reg.v (1 : Fin 608)) (Reg.v (3 : Fin 608))) (gOf sFloatCompare_2_2_2_2_2)
      (xOf sFloatCompare_2_2_2_2_2 iFloatCompare_2_2_2_2_2) (eOf sFloatCompare_2_2_2_2_2 iFloatCompare_2_2_2_2_2) :=
  by
  refine @of_decide_eq_true _ (by letI := @decIssues; letI := @decNoOpen; infer_instance) ?_
  decide +kernel
def iPackedHalves_1 : Instr := (.hadd2 always (.v 2) (.v 3) (.reg (.v 3)) .rne false true)
def sPackedHalves_1 : State := (at_ iPackedHalves_1 rg)
theorem witness_PackedHalves_1 :
    Issues sPackedHalves_1
      (Instr.hadd2 always (Reg.v (2 : Fin 608)) (Reg.v (3 : Fin 608)) (Src.reg (Reg.v (3 : Fin 608))) Rnd.rne false true)
      (wOf sPackedHalves_1) (aOf sPackedHalves_1) (gOf sPackedHalves_1) (xOf sPackedHalves_1 iPackedHalves_1) (eOf sPackedHalves_1 iPackedHalves_1)
      (pOf sPackedHalves_1 iPackedHalves_1)
    ∧ NoOpenOperand
      (Instr.hadd2 always (Reg.v (2 : Fin 608)) (Reg.v (3 : Fin 608)) (Src.reg (Reg.v (3 : Fin 608))) Rnd.rne false true)
      (gOf sPackedHalves_1) (xOf sPackedHalves_1 iPackedHalves_1) (eOf sPackedHalves_1 iPackedHalves_1) :=
  by
  refine @of_decide_eq_true _ (by letI := @decIssues; letI := @decNoOpen; infer_instance) ?_
  decide +kernel
def iPackedHalves_2_1 : Instr := (.hmul2 always (.v 2) (.v 3) (.reg (.v 1)) .sr true false)
def sPackedHalves_2_1 : State := (at_ iPackedHalves_2_1 rg)
theorem witness_PackedHalves_2_1 :
    Issues sPackedHalves_2_1
      (Instr.hmul2 always (Reg.v (2 : Fin 608)) (Reg.v (3 : Fin 608)) (Src.reg (Reg.v (1 : Fin 608))) Rnd.sr true false)
      (wOf sPackedHalves_2_1) (aOf sPackedHalves_2_1) (gOf sPackedHalves_2_1) (xOf sPackedHalves_2_1 iPackedHalves_2_1)
      (eOf sPackedHalves_2_1 iPackedHalves_2_1) (pOf sPackedHalves_2_1 iPackedHalves_2_1)
    ∧ NoOpenOperand
      (Instr.hmul2 always (Reg.v (2 : Fin 608)) (Reg.v (3 : Fin 608)) (Src.reg (Reg.v (1 : Fin 608))) Rnd.sr true false)
      (gOf sPackedHalves_2_1) (xOf sPackedHalves_2_1 iPackedHalves_2_1) (eOf sPackedHalves_2_1 iPackedHalves_2_1) :=
  by
  refine @of_decide_eq_true _ (by letI := @decIssues; letI := @decNoOpen; infer_instance) ?_
  decide +kernel
def iPackedHalves_2_2_1 : Instr := (.hfma2 always (.v 2) (.v 3) (.reg (.v 1)) (.v 3) .rz false false)
def sPackedHalves_2_2_1 : State := (at_ iPackedHalves_2_2_1 rg)
theorem witness_PackedHalves_2_2_1 :
    Issues sPackedHalves_2_2_1
      (Instr.hfma2 always (Reg.v (2 : Fin 608)) (Reg.v (3 : Fin 608)) (Src.reg (Reg.v (1 : Fin 608)))
        (Reg.v (3 : Fin 608)) Rnd.rz false false)
      (wOf sPackedHalves_2_2_1) (aOf sPackedHalves_2_2_1) (gOf sPackedHalves_2_2_1) (xOf sPackedHalves_2_2_1 iPackedHalves_2_2_1)
      (eOf sPackedHalves_2_2_1 iPackedHalves_2_2_1) (pOf sPackedHalves_2_2_1 iPackedHalves_2_2_1)
    ∧ NoOpenOperand
      (Instr.hfma2 always (Reg.v (2 : Fin 608)) (Reg.v (3 : Fin 608)) (Src.reg (Reg.v (1 : Fin 608)))
        (Reg.v (3 : Fin 608)) Rnd.rz false false)
      (gOf sPackedHalves_2_2_1) (xOf sPackedHalves_2_2_1 iPackedHalves_2_2_1) (eOf sPackedHalves_2_2_1 iPackedHalves_2_2_1) :=
  by
  refine @of_decide_eq_true _ (by letI := @decIssues; letI := @decNoOpen; infer_instance) ?_
  decide +kernel
def iPackedHalves_2_2_2_1 : Instr := (.hadd2Short (.v 1) (.v 3))
def sPackedHalves_2_2_2_1 : State := (at_ iPackedHalves_2_2_2_1 rg)
theorem witness_PackedHalves_2_2_2_1 :
    Issues sPackedHalves_2_2_2_1 (Instr.hadd2Short (Reg.v (1 : Fin 608)) (Reg.v (3 : Fin 608))) (wOf sPackedHalves_2_2_2_1)
      (aOf sPackedHalves_2_2_2_1) (gOf sPackedHalves_2_2_2_1) (xOf sPackedHalves_2_2_2_1 iPackedHalves_2_2_2_1)
      (eOf sPackedHalves_2_2_2_1 iPackedHalves_2_2_2_1) (pOf sPackedHalves_2_2_2_1 iPackedHalves_2_2_2_1)
    ∧ NoOpenOperand (Instr.hadd2Short (Reg.v (1 : Fin 608)) (Reg.v (3 : Fin 608))) (gOf sPackedHalves_2_2_2_1)
      (xOf sPackedHalves_2_2_2_1 iPackedHalves_2_2_2_1) (eOf sPackedHalves_2_2_2_1 iPackedHalves_2_2_2_1) :=
  by
  refine @of_decide_eq_true _ (by letI := @decIssues; letI := @decNoOpen; infer_instance) ?_
  decide +kernel
def iPackedHalves_2_2_2_2 : Instr := (.hmul2Short (.v 1) (.v 3))
def sPackedHalves_2_2_2_2 : State := (at_ iPackedHalves_2_2_2_2 rg)
theorem witness_PackedHalves_2_2_2_2 :
    Issues sPackedHalves_2_2_2_2 (Instr.hmul2Short (Reg.v (1 : Fin 608)) (Reg.v (3 : Fin 608))) (wOf sPackedHalves_2_2_2_2)
      (aOf sPackedHalves_2_2_2_2) (gOf sPackedHalves_2_2_2_2) (xOf sPackedHalves_2_2_2_2 iPackedHalves_2_2_2_2)
      (eOf sPackedHalves_2_2_2_2 iPackedHalves_2_2_2_2) (pOf sPackedHalves_2_2_2_2 iPackedHalves_2_2_2_2)
    ∧ NoOpenOperand (Instr.hmul2Short (Reg.v (1 : Fin 608)) (Reg.v (3 : Fin 608))) (gOf sPackedHalves_2_2_2_2)
      (xOf sPackedHalves_2_2_2_2 iPackedHalves_2_2_2_2) (eOf sPackedHalves_2_2_2_2 iPackedHalves_2_2_2_2) :=
  by
  refine @of_decide_eq_true _ (by letI := @decIssues; letI := @decNoOpen; infer_instance) ?_
  decide +kernel
def iConversions_1 : Instr := (.f2i always (.v 2) (.v 3) .rz true (some 1))
def sConversions_1 : State := (at_ iConversions_1 rg)
theorem witness_Conversions_1 :
    Issues sConversions_1 (Instr.f2i always (Reg.v (2 : Fin 608)) (Reg.v (3 : Fin 608)) Rnd.rz true (some (1 : Fin 4)))
      (wOf sConversions_1) (aOf sConversions_1) (gOf sConversions_1) (xOf sConversions_1 iConversions_1) (eOf sConversions_1 iConversions_1)
      (pOf sConversions_1 iConversions_1)
    ∧ NoOpenOperand (Instr.f2i always (Reg.v (2 : Fin 608)) (Reg.v (3 : Fin 608)) Rnd.rz true (some (1 : Fin 4)))
      (gOf sConversions_1) (xOf sConversions_1 iConversions_1) (eOf sConversions_1 iConversions_1) :=
  by
  refine @of_decide_eq_true _ (by letI := @decIssues; letI := @decNoOpen; infer_instance) ?_
  decide +kernel
def iConversions_2_1 : Instr := (.i2f always (.v 2) (.v 0) .sr false (some 1))
def sConversions_2_1 : State := (at_ iConversions_2_1 rg)
theorem witness_Conversions_2_1 :
    Issues sConversions_2_1 (Instr.i2f always (Reg.v (2 : Fin 608)) (Reg.v (0 : Fin 608)) Rnd.sr false (some (1 : Fin 4)))
      (wOf sConversions_2_1) (aOf sConversions_2_1) (gOf sConversions_2_1) (xOf sConversions_2_1 iConversions_2_1)
      (eOf sConversions_2_1 iConversions_2_1) (pOf sConversions_2_1 iConversions_2_1)
    ∧ NoOpenOperand (Instr.i2f always (Reg.v (2 : Fin 608)) (Reg.v (0 : Fin 608)) Rnd.sr false (some (1 : Fin 4)))
      (gOf sConversions_2_1) (xOf sConversions_2_1 iConversions_2_1) (eOf sConversions_2_1 iConversions_2_1) :=
  by
  refine @of_decide_eq_true _ (by letI := @decIssues; letI := @decNoOpen; infer_instance) ?_
  decide +kernel
def iConversions_2_2_1 : Instr := (.cvp always (.v 2) (.v 3) (.h2 true (.v 1)) .rne false)
def sConversions_2_2_1 : State := (at_ iConversions_2_2_1 rg)
theorem witness_Conversions_2_2_1 :
    Issues sConversions_2_2_1
      (Instr.cvp always (Reg.v (2 : Fin 608)) (Reg.v (3 : Fin 608)) (CvpSel.h2 true (Reg.v (1 : Fin 608))) Rnd.rne false)
      (wOf sConversions_2_2_1) (aOf sConversions_2_2_1) (gOf sConversions_2_2_1) (xOf sConversions_2_2_1 iConversions_2_2_1)
      (eOf sConversions_2_2_1 iConversions_2_2_1) (pOf sConversions_2_2_1 iConversions_2_2_1)
    ∧ NoOpenOperand
      (Instr.cvp always (Reg.v (2 : Fin 608)) (Reg.v (3 : Fin 608)) (CvpSel.h2 true (Reg.v (1 : Fin 608))) Rnd.rne false)
      (gOf sConversions_2_2_1) (xOf sConversions_2_2_1 iConversions_2_2_1) (eOf sConversions_2_2_1 iConversions_2_2_1) :=
  by
  refine @of_decide_eq_true _ (by letI := @decIssues; letI := @decNoOpen; infer_instance) ?_
  decide +kernel
def iConversions_2_2_2_1 : Instr := (.cvp always (.v 2) (.v 0) (.q4 false) .rne true)
def sConversions_2_2_2_1 : State := (at_ iConversions_2_2_2_1 rg)
theorem witness_Conversions_2_2_2_1 :
    Issues sConversions_2_2_2_1 (Instr.cvp always (Reg.v (2 : Fin 608)) (Reg.v (0 : Fin 608)) (CvpSel.q4 false) Rnd.rne true)
      (wOf sConversions_2_2_2_1) (aOf sConversions_2_2_2_1) (gOf sConversions_2_2_2_1) (xOf sConversions_2_2_2_1 iConversions_2_2_2_1)
      (eOf sConversions_2_2_2_1 iConversions_2_2_2_1) (pOf sConversions_2_2_2_1 iConversions_2_2_2_1)
    ∧ NoOpenOperand (Instr.cvp always (Reg.v (2 : Fin 608)) (Reg.v (0 : Fin 608)) (CvpSel.q4 false) Rnd.rne true) (gOf sConversions_2_2_2_1)
      (xOf sConversions_2_2_2_1 iConversions_2_2_2_1) (eOf sConversions_2_2_2_1 iConversions_2_2_2_1) :=
  by
  refine @of_decide_eq_true _ (by letI := @decIssues; letI := @decNoOpen; infer_instance) ?_
  decide +kernel
def iConversions_2_2_2_2_1 : Instr := (.cvp always (.v 2) (.v 0) (.e2m1 true) .sr true)
def sConversions_2_2_2_2_1 : State := (at_ iConversions_2_2_2_2_1 rg)
theorem witness_Conversions_2_2_2_2_1 :
    Issues sConversions_2_2_2_2_1 (Instr.cvp always (Reg.v (2 : Fin 608)) (Reg.v (0 : Fin 608)) (CvpSel.e2m1 true) Rnd.sr true)
      (wOf sConversions_2_2_2_2_1) (aOf sConversions_2_2_2_2_1) (gOf sConversions_2_2_2_2_1) (xOf sConversions_2_2_2_2_1 iConversions_2_2_2_2_1)
      (eOf sConversions_2_2_2_2_1 iConversions_2_2_2_2_1) (pOf sConversions_2_2_2_2_1 iConversions_2_2_2_2_1)
    ∧ NoOpenOperand (Instr.cvp always (Reg.v (2 : Fin 608)) (Reg.v (0 : Fin 608)) (CvpSel.e2m1 true) Rnd.sr true)
      (gOf sConversions_2_2_2_2_1) (xOf sConversions_2_2_2_2_1 iConversions_2_2_2_2_1) (eOf sConversions_2_2_2_2_1 iConversions_2_2_2_2_1) :=
  by
  refine @of_decide_eq_true _ (by letI := @decIssues; letI := @decNoOpen; infer_instance) ?_
  decide +kernel
def iConversions_2_2_2_2_2_1 : Instr := (.cvu always (.v 2) (.v 3) (.h2 false))
def sConversions_2_2_2_2_2_1 : State := (at_ iConversions_2_2_2_2_2_1 rg)
theorem witness_Conversions_2_2_2_2_2_1 :
    Issues sConversions_2_2_2_2_2_1 (Instr.cvu always (Reg.v (2 : Fin 608)) (Reg.v (3 : Fin 608)) (CvuSel.h2 false))
      (wOf sConversions_2_2_2_2_2_1) (aOf sConversions_2_2_2_2_2_1) (gOf sConversions_2_2_2_2_2_1)
      (xOf sConversions_2_2_2_2_2_1 iConversions_2_2_2_2_2_1) (eOf sConversions_2_2_2_2_2_1 iConversions_2_2_2_2_2_1)
      (pOf sConversions_2_2_2_2_2_1 iConversions_2_2_2_2_2_1)
    ∧ NoOpenOperand (Instr.cvu always (Reg.v (2 : Fin 608)) (Reg.v (3 : Fin 608)) (CvuSel.h2 false)) (gOf sConversions_2_2_2_2_2_1)
      (xOf sConversions_2_2_2_2_2_1 iConversions_2_2_2_2_2_1) (eOf sConversions_2_2_2_2_2_1 iConversions_2_2_2_2_2_1) :=
  by
  refine @of_decide_eq_true _ (by letI := @decIssues; letI := @decNoOpen; infer_instance) ?_
  decide +kernel
def iConversions_2_2_2_2_2_2_1 : Instr := (.cvu always (.v 4) (.v 3) (.q4 true))
def sConversions_2_2_2_2_2_2_1 : State := (at_ iConversions_2_2_2_2_2_2_1 rg)
theorem witness_Conversions_2_2_2_2_2_2_1 :
    Issues sConversions_2_2_2_2_2_2_1 (Instr.cvu always (Reg.v (4 : Fin 608)) (Reg.v (3 : Fin 608)) (CvuSel.q4 true))
      (wOf sConversions_2_2_2_2_2_2_1) (aOf sConversions_2_2_2_2_2_2_1) (gOf sConversions_2_2_2_2_2_2_1)
      (xOf sConversions_2_2_2_2_2_2_1 iConversions_2_2_2_2_2_2_1) (eOf sConversions_2_2_2_2_2_2_1 iConversions_2_2_2_2_2_2_1)
      (pOf sConversions_2_2_2_2_2_2_1 iConversions_2_2_2_2_2_2_1)
    ∧ NoOpenOperand (Instr.cvu always (Reg.v (4 : Fin 608)) (Reg.v (3 : Fin 608)) (CvuSel.q4 true)) (gOf sConversions_2_2_2_2_2_2_1)
      (xOf sConversions_2_2_2_2_2_2_1 iConversions_2_2_2_2_2_2_1) (eOf sConversions_2_2_2_2_2_2_1 iConversions_2_2_2_2_2_2_1) :=
  by
  refine @of_decide_eq_true _ (by letI := @decIssues; letI := @decNoOpen; infer_instance) ?_
  decide +kernel
def iConversions_2_2_2_2_2_2_2 : Instr := (.cvu always (.v 20) (.v 3) (.e2m1 true))
def sConversions_2_2_2_2_2_2_2 : State := (at_ iConversions_2_2_2_2_2_2_2 rg)
theorem witness_Conversions_2_2_2_2_2_2_2 :
    Issues sConversions_2_2_2_2_2_2_2 (Instr.cvu always (Reg.v (20 : Fin 608)) (Reg.v (3 : Fin 608)) (CvuSel.e2m1 true))
      (wOf sConversions_2_2_2_2_2_2_2) (aOf sConversions_2_2_2_2_2_2_2) (gOf sConversions_2_2_2_2_2_2_2)
      (xOf sConversions_2_2_2_2_2_2_2 iConversions_2_2_2_2_2_2_2) (eOf sConversions_2_2_2_2_2_2_2 iConversions_2_2_2_2_2_2_2)
      (pOf sConversions_2_2_2_2_2_2_2 iConversions_2_2_2_2_2_2_2)
    ∧ NoOpenOperand (Instr.cvu always (Reg.v (20 : Fin 608)) (Reg.v (3 : Fin 608)) (CvuSel.e2m1 true)) (gOf sConversions_2_2_2_2_2_2_2)
      (xOf sConversions_2_2_2_2_2_2_2 iConversions_2_2_2_2_2_2_2) (eOf sConversions_2_2_2_2_2_2_2 iConversions_2_2_2_2_2_2_2) :=
  by
  refine @of_decide_eq_true _ (by letI := @decIssues; letI := @decNoOpen; infer_instance) ?_
  decide +kernel
def iDotScaleRand_1 : Instr := (.dot4 always (.v 2) (.v 3) (.v 4) (.v 3) (.flt false true .rne))
def sDotScaleRand_1 : State := (at_ iDotScaleRand_1 rg)
theorem witness_DotScaleRand_1 :
    Issues sDotScaleRand_1
      (Instr.dot4 always (Reg.v (2 : Fin 608)) (Reg.v (3 : Fin 608)) (Reg.v (4 : Fin 608)) (Reg.v (3 : Fin 608))
        (Dot4Mode.flt false true Rnd.rne))
      (wOf sDotScaleRand_1) (aOf sDotScaleRand_1) (gOf sDotScaleRand_1) (xOf sDotScaleRand_1 iDotScaleRand_1) (eOf sDotScaleRand_1 iDotScaleRand_1)
      (pOf sDotScaleRand_1 iDotScaleRand_1)
    ∧ NoOpenOperand
      (Instr.dot4 always (Reg.v (2 : Fin 608)) (Reg.v (3 : Fin 608)) (Reg.v (4 : Fin 608)) (Reg.v (3 : Fin 608))
        (Dot4Mode.flt false true Rnd.rne))
      (gOf sDotScaleRand_1) (xOf sDotScaleRand_1 iDotScaleRand_1) (eOf sDotScaleRand_1 iDotScaleRand_1) :=
  by
  refine @of_decide_eq_true _ (by letI := @decIssues; letI := @decNoOpen; infer_instance) ?_
  decide +kernel
def iDotScaleRand_2_1 : Instr := (.dot4 always (.v 2) (.v 0) (.v 1) (.v 3) (.int true false true))
def sDotScaleRand_2_1 : State := (at_ iDotScaleRand_2_1 rg)
theorem witness_DotScaleRand_2_1 :
    Issues sDotScaleRand_2_1
      (Instr.dot4 always (Reg.v (2 : Fin 608)) (Reg.v (0 : Fin 608)) (Reg.v (1 : Fin 608)) (Reg.v (3 : Fin 608))
        (Dot4Mode.int true false true))
      (wOf sDotScaleRand_2_1) (aOf sDotScaleRand_2_1) (gOf sDotScaleRand_2_1) (xOf sDotScaleRand_2_1 iDotScaleRand_2_1)
      (eOf sDotScaleRand_2_1 iDotScaleRand_2_1) (pOf sDotScaleRand_2_1 iDotScaleRand_2_1)
    ∧ NoOpenOperand
      (Instr.dot4 always (Reg.v (2 : Fin 608)) (Reg.v (0 : Fin 608)) (Reg.v (1 : Fin 608)) (Reg.v (3 : Fin 608))
        (Dot4Mode.int true false true))
      (gOf sDotScaleRand_2_1) (xOf sDotScaleRand_2_1 iDotScaleRand_2_1) (eOf sDotScaleRand_2_1 iDotScaleRand_2_1) :=
  by
  refine @of_decide_eq_true _ (by letI := @decIssues; letI := @decNoOpen; infer_instance) ?_
  decide +kernel
def iDotScaleRand_2_2_1 : Instr := (.dot8 always (.v 2) (.v 3) (.v 4) (.v 3) (.flt .sr))
def sDotScaleRand_2_2_1 : State := (at_ iDotScaleRand_2_2_1 rg)
theorem witness_DotScaleRand_2_2_1 :
    Issues sDotScaleRand_2_2_1
      (Instr.dot8 always (Reg.v (2 : Fin 608)) (Reg.v (3 : Fin 608)) (Reg.v (4 : Fin 608)) (Reg.v (3 : Fin 608))
        (Dot8Mode.flt Rnd.sr))
      (wOf sDotScaleRand_2_2_1) (aOf sDotScaleRand_2_2_1) (gOf sDotScaleRand_2_2_1) (xOf sDotScaleRand_2_2_1 iDotScaleRand_2_2_1)
      (eOf sDotScaleRand_2_2_1 iDotScaleRand_2_2_1) (pOf sDotScaleRand_2_2_1 iDotScaleRand_2_2_1)
    ∧ NoOpenOperand
      (Instr.dot8 always (Reg.v (2 : Fin 608)) (Reg.v (3 : Fin 608)) (Reg.v (4 : Fin 608)) (Reg.v (3 : Fin 608))
        (Dot8Mode.flt Rnd.sr))
      (gOf sDotScaleRand_2_2_1) (xOf sDotScaleRand_2_2_1 iDotScaleRand_2_2_1) (eOf sDotScaleRand_2_2_1 iDotScaleRand_2_2_1) :=
  by
  refine @of_decide_eq_true _ (by letI := @decIssues; letI := @decNoOpen; infer_instance) ?_
  decide +kernel
def iDotScaleRand_2_2_2_1 : Instr := (.dot8 always (.v 2) (.v 0) (.v 0) (.v 3) (.int false false false))
def sDotScaleRand_2_2_2_1 : State := (at_ iDotScaleRand_2_2_2_1 rg)
theorem witness_DotScaleRand_2_2_2_1 :
    Issues sDotScaleRand_2_2_2_1
      (Instr.dot8 always (Reg.v (2 : Fin 608)) (Reg.v (0 : Fin 608)) (Reg.v (0 : Fin 608)) (Reg.v (3 : Fin 608))
        (Dot8Mode.int false false false))
      (wOf sDotScaleRand_2_2_2_1) (aOf sDotScaleRand_2_2_2_1) (gOf sDotScaleRand_2_2_2_1) (xOf sDotScaleRand_2_2_2_1 iDotScaleRand_2_2_2_1)
      (eOf sDotScaleRand_2_2_2_1 iDotScaleRand_2_2_2_1) (pOf sDotScaleRand_2_2_2_1 iDotScaleRand_2_2_2_1)
    ∧ NoOpenOperand
      (Instr.dot8 always (Reg.v (2 : Fin 608)) (Reg.v (0 : Fin 608)) (Reg.v (0 : Fin 608)) (Reg.v (3 : Fin 608))
        (Dot8Mode.int false false false))
      (gOf sDotScaleRand_2_2_2_1) (xOf sDotScaleRand_2_2_2_1 iDotScaleRand_2_2_2_1) (eOf sDotScaleRand_2_2_2_1 iDotScaleRand_2_2_2_1) :=
  by
  refine @of_decide_eq_true _ (by letI := @decIssues; letI := @decNoOpen; infer_instance) ?_
  decide +kernel
def iDotScaleRand_2_2_2_2_1 : Instr := (.scale always (.v 2) (.v 3) (.v 0) .rne 3 (some 1))
def sDotScaleRand_2_2_2_2_1 : State := (at_ iDotScaleRand_2_2_2_2_1 rg)
theorem witness_DotScaleRand_2_2_2_2_1 :
    Issues sDotScaleRand_2_2_2_2_1
      (Instr.scale always (Reg.v (2 : Fin 608)) (Reg.v (3 : Fin 608)) (Reg.v (0 : Fin 608)) Rnd.rne (3 : Fin 4)
        (some (1 : Fin 4)))
      (wOf sDotScaleRand_2_2_2_2_1) (aOf sDotScaleRand_2_2_2_2_1) (gOf sDotScaleRand_2_2_2_2_1) (xOf sDotScaleRand_2_2_2_2_1 iDotScaleRand_2_2_2_2_1)
      (eOf sDotScaleRand_2_2_2_2_1 iDotScaleRand_2_2_2_2_1) (pOf sDotScaleRand_2_2_2_2_1 iDotScaleRand_2_2_2_2_1)
    ∧ NoOpenOperand
      (Instr.scale always (Reg.v (2 : Fin 608)) (Reg.v (3 : Fin 608)) (Reg.v (0 : Fin 608)) Rnd.rne (3 : Fin 4)
        (some (1 : Fin 4)))
      (gOf sDotScaleRand_2_2_2_2_1) (xOf sDotScaleRand_2_2_2_2_1 iDotScaleRand_2_2_2_2_1) (eOf sDotScaleRand_2_2_2_2_1 iDotScaleRand_2_2_2_2_1) :=
  by
  refine @of_decide_eq_true _ (by letI := @decIssues; letI := @decNoOpen; infer_instance) ?_
  decide +kernel
def iDotScaleRand_2_2_2_2_2_1 : Instr := (.rand always (.v 2) .plain)
def sDotScaleRand_2_2_2_2_2_1 : State := (at_ iDotScaleRand_2_2_2_2_2_1 rg)
theorem witness_DotScaleRand_2_2_2_2_2_1 :
    Issues sDotScaleRand_2_2_2_2_2_1 (Instr.rand always (Reg.v (2 : Fin 608)) RandMode.plain) (wOf sDotScaleRand_2_2_2_2_2_1)
      (aOf sDotScaleRand_2_2_2_2_2_1) (gOf sDotScaleRand_2_2_2_2_2_1) (xOf sDotScaleRand_2_2_2_2_2_1 iDotScaleRand_2_2_2_2_2_1)
      (eOf sDotScaleRand_2_2_2_2_2_1 iDotScaleRand_2_2_2_2_2_1) (pOf sDotScaleRand_2_2_2_2_2_1 iDotScaleRand_2_2_2_2_2_1)
    ∧ NoOpenOperand (Instr.rand always (Reg.v (2 : Fin 608)) RandMode.plain) (gOf sDotScaleRand_2_2_2_2_2_1)
      (xOf sDotScaleRand_2_2_2_2_2_1 iDotScaleRand_2_2_2_2_2_1) (eOf sDotScaleRand_2_2_2_2_2_1 iDotScaleRand_2_2_2_2_2_1) :=
  by
  refine @of_decide_eq_true _ (by letI := @decIssues; letI := @decNoOpen; infer_instance) ?_
  decide +kernel
def iDotScaleRand_2_2_2_2_2_2_1 : Instr := (.rand always (.v 2) .w64)
def sDotScaleRand_2_2_2_2_2_2_1 : State := (at_ iDotScaleRand_2_2_2_2_2_2_1 rg)
theorem witness_DotScaleRand_2_2_2_2_2_2_1 :
    Issues sDotScaleRand_2_2_2_2_2_2_1 (Instr.rand always (Reg.v (2 : Fin 608)) RandMode.w64) (wOf sDotScaleRand_2_2_2_2_2_2_1)
      (aOf sDotScaleRand_2_2_2_2_2_2_1) (gOf sDotScaleRand_2_2_2_2_2_2_1) (xOf sDotScaleRand_2_2_2_2_2_2_1 iDotScaleRand_2_2_2_2_2_2_1)
      (eOf sDotScaleRand_2_2_2_2_2_2_1 iDotScaleRand_2_2_2_2_2_2_1) (pOf sDotScaleRand_2_2_2_2_2_2_1 iDotScaleRand_2_2_2_2_2_2_1)
    ∧ NoOpenOperand (Instr.rand always (Reg.v (2 : Fin 608)) RandMode.w64) (gOf sDotScaleRand_2_2_2_2_2_2_1)
      (xOf sDotScaleRand_2_2_2_2_2_2_1 iDotScaleRand_2_2_2_2_2_2_1) (eOf sDotScaleRand_2_2_2_2_2_2_1 iDotScaleRand_2_2_2_2_2_2_1) :=
  by
  refine @of_decide_eq_true _ (by letI := @decIssues; letI := @decNoOpen; infer_instance) ?_
  decide +kernel
def iDotScaleRand_2_2_2_2_2_2_2 : Instr := (.rand always (.v 2) .f)
def sDotScaleRand_2_2_2_2_2_2_2 : State := (at_ iDotScaleRand_2_2_2_2_2_2_2 rg)
theorem witness_DotScaleRand_2_2_2_2_2_2_2 :
    Issues sDotScaleRand_2_2_2_2_2_2_2 (Instr.rand always (Reg.v (2 : Fin 608)) RandMode.f) (wOf sDotScaleRand_2_2_2_2_2_2_2)
      (aOf sDotScaleRand_2_2_2_2_2_2_2) (gOf sDotScaleRand_2_2_2_2_2_2_2) (xOf sDotScaleRand_2_2_2_2_2_2_2 iDotScaleRand_2_2_2_2_2_2_2)
      (eOf sDotScaleRand_2_2_2_2_2_2_2 iDotScaleRand_2_2_2_2_2_2_2) (pOf sDotScaleRand_2_2_2_2_2_2_2 iDotScaleRand_2_2_2_2_2_2_2)
    ∧ NoOpenOperand (Instr.rand always (Reg.v (2 : Fin 608)) RandMode.f) (gOf sDotScaleRand_2_2_2_2_2_2_2)
      (xOf sDotScaleRand_2_2_2_2_2_2_2 iDotScaleRand_2_2_2_2_2_2_2) (eOf sDotScaleRand_2_2_2_2_2_2_2 iDotScaleRand_2_2_2_2_2_2_2) :=
  by
  refine @of_decide_eq_true _ (by letI := @decIssues; letI := @decNoOpen; infer_instance) ?_
  decide +kernel
def iCrossLaneExchange_1 : Instr := (.shfl always (.v 2) (.v 0) (.reg (.v 1)) (.add true) .w8 (some 1))
def sCrossLaneExchange_1 : State := (at_ iCrossLaneExchange_1 rg)
theorem witness_CrossLaneExchange_1 :
    Issues sCrossLaneExchange_1
      (Instr.shfl always (Reg.v (2 : Fin 608)) (Reg.v (0 : Fin 608)) (LaneSrc.reg (Reg.v (1 : Fin 608))) (ShflMode.add true)
        Span.w8 (some (1 : Fin 4)))
      (wOf sCrossLaneExchange_1) (aOf sCrossLaneExchange_1) (gOf sCrossLaneExchange_1) (xOf sCrossLaneExchange_1 iCrossLaneExchange_1)
      (eOf sCrossLaneExchange_1 iCrossLaneExchange_1) (pOf sCrossLaneExchange_1 iCrossLaneExchange_1)
    ∧ NoOpenOperand
      (Instr.shfl always (Reg.v (2 : Fin 608)) (Reg.v (0 : Fin 608)) (LaneSrc.reg (Reg.v (1 : Fin 608))) (ShflMode.add true)
        Span.w8 (some (1 : Fin 4)))
      (gOf sCrossLaneExchange_1) (xOf sCrossLaneExchange_1 iCrossLaneExchange_1) (eOf sCrossLaneExchange_1 iCrossLaneExchange_1) :=
  by
  refine @of_decide_eq_true _ (by letI := @decIssues; letI := @decNoOpen; infer_instance) ?_
  decide +kernel
def iCrossLaneExchange_1b : Instr := (.shfl always (.v 2) (.v 0) (.imm 31) .xor .w32 none)
def sCrossLaneExchange_1b : State := (at_ iCrossLaneExchange_1b rg)
theorem witness_CrossLaneExchange_1b :
    Issues sCrossLaneExchange_1b
      (Instr.shfl always (Reg.v (2 : Fin 608)) (Reg.v (0 : Fin 608)) (LaneSrc.imm (31 : BitVec 5)) ShflMode.xor Span.w32 none)
      (wOf sCrossLaneExchange_1b) (aOf sCrossLaneExchange_1b) (gOf sCrossLaneExchange_1b) (xOf sCrossLaneExchange_1b iCrossLaneExchange_1b)
      (eOf sCrossLaneExchange_1b iCrossLaneExchange_1b) (pOf sCrossLaneExchange_1b iCrossLaneExchange_1b)
    ∧ NoOpenOperand
      (Instr.shfl always (Reg.v (2 : Fin 608)) (Reg.v (0 : Fin 608)) (LaneSrc.imm (31 : BitVec 5)) ShflMode.xor Span.w32 none)
      (gOf sCrossLaneExchange_1b) (xOf sCrossLaneExchange_1b iCrossLaneExchange_1b) (eOf sCrossLaneExchange_1b iCrossLaneExchange_1b) :=
  by
  refine @of_decide_eq_true _ (by letI := @decIssues; letI := @decNoOpen; infer_instance) ?_
  decide +kernel
def iCrossLaneExchange_2_1 : Instr := (.lpush always (.v 2) (.v 0) (.imm 0) (some 0))
def sCrossLaneExchange_2_1 : State := (at_ iCrossLaneExchange_2_1 rg)
theorem witness_CrossLaneExchange_2_1 :
    Issues sCrossLaneExchange_2_1
      (Instr.lpush always (Reg.v (2 : Fin 608)) (Reg.v (0 : Fin 608)) (LaneSrc.imm (0 : BitVec 5)) (some (0 : Fin 4)))
      (wOf sCrossLaneExchange_2_1) (aOf sCrossLaneExchange_2_1) (gOf sCrossLaneExchange_2_1) (xOf sCrossLaneExchange_2_1 iCrossLaneExchange_2_1)
      (eOf sCrossLaneExchange_2_1 iCrossLaneExchange_2_1) (pOf sCrossLaneExchange_2_1 iCrossLaneExchange_2_1)
    ∧ NoOpenOperand
      (Instr.lpush always (Reg.v (2 : Fin 608)) (Reg.v (0 : Fin 608)) (LaneSrc.imm (0 : BitVec 5)) (some (0 : Fin 4)))
      (gOf sCrossLaneExchange_2_1) (xOf sCrossLaneExchange_2_1 iCrossLaneExchange_2_1) (eOf sCrossLaneExchange_2_1 iCrossLaneExchange_2_1) :=
  by
  refine @of_decide_eq_true _ (by letI := @decIssues; letI := @decNoOpen; infer_instance) ?_
  decide +kernel
def iCrossLaneExchange_2_2_1 : Instr := (.matchKeys always (.v 2) (.v 0) true (some 0))
def sCrossLaneExchange_2_2_1 : State := (at_ iCrossLaneExchange_2_2_1 rg)
theorem witness_CrossLaneExchange_2_2_1 :
    Issues sCrossLaneExchange_2_2_1 (Instr.matchKeys always (Reg.v (2 : Fin 608)) (Reg.v (0 : Fin 608)) true (some (0 : Fin 4)))
      (wOf sCrossLaneExchange_2_2_1) (aOf sCrossLaneExchange_2_2_1) (gOf sCrossLaneExchange_2_2_1)
      (xOf sCrossLaneExchange_2_2_1 iCrossLaneExchange_2_2_1) (eOf sCrossLaneExchange_2_2_1 iCrossLaneExchange_2_2_1)
      (pOf sCrossLaneExchange_2_2_1 iCrossLaneExchange_2_2_1)
    ∧ NoOpenOperand (Instr.matchKeys always (Reg.v (2 : Fin 608)) (Reg.v (0 : Fin 608)) true (some (0 : Fin 4)))
      (gOf sCrossLaneExchange_2_2_1) (xOf sCrossLaneExchange_2_2_1 iCrossLaneExchange_2_2_1) (eOf sCrossLaneExchange_2_2_1 iCrossLaneExchange_2_2_1) :=
  by
  refine @of_decide_eq_true _ (by letI := @decIssues; letI := @decNoOpen; infer_instance) ?_
  decide +kernel
def iCrossLaneExchange_2_2_2 : Instr := (.vote always (.v 2) (.v 0) .same (some 0))
def sCrossLaneExchange_2_2_2 : State := (at_ iCrossLaneExchange_2_2_2 rg)
theorem witness_CrossLaneExchange_2_2_2 :
    Issues sCrossLaneExchange_2_2_2 (Instr.vote always (Reg.v (2 : Fin 608)) (Reg.v (0 : Fin 608)) VoteOp.same (some (0 : Fin 4)))
      (wOf sCrossLaneExchange_2_2_2) (aOf sCrossLaneExchange_2_2_2) (gOf sCrossLaneExchange_2_2_2)
      (xOf sCrossLaneExchange_2_2_2 iCrossLaneExchange_2_2_2) (eOf sCrossLaneExchange_2_2_2 iCrossLaneExchange_2_2_2)
      (pOf sCrossLaneExchange_2_2_2 iCrossLaneExchange_2_2_2)
    ∧ NoOpenOperand (Instr.vote always (Reg.v (2 : Fin 608)) (Reg.v (0 : Fin 608)) VoteOp.same (some (0 : Fin 4)))
      (gOf sCrossLaneExchange_2_2_2) (xOf sCrossLaneExchange_2_2_2 iCrossLaneExchange_2_2_2) (eOf sCrossLaneExchange_2_2_2 iCrossLaneExchange_2_2_2) :=
  by
  refine @of_decide_eq_true _ (by letI := @decIssues; letI := @decNoOpen; infer_instance) ?_
  decide +kernel
def iCrossLaneExchange_2_2_2b : Instr := (.vote always (.v 2) (.v 0) .mask (some 0))
def sCrossLaneExchange_2_2_2b : State := (at_ iCrossLaneExchange_2_2_2b rg)
theorem witness_CrossLaneExchange_2_2_2b :
    Issues sCrossLaneExchange_2_2_2b
      (Instr.vote always (Reg.v (2 : Fin 608)) (Reg.v (0 : Fin 608)) VoteOp.mask (some (0 : Fin 4)))
      (wOf sCrossLaneExchange_2_2_2b) (aOf sCrossLaneExchange_2_2_2b) (gOf sCrossLaneExchange_2_2_2b)
      (xOf sCrossLaneExchange_2_2_2b iCrossLaneExchange_2_2_2b) (eOf sCrossLaneExchange_2_2_2b iCrossLaneExchange_2_2_2b)
      (pOf sCrossLaneExchange_2_2_2b iCrossLaneExchange_2_2_2b)
    ∧ NoOpenOperand (Instr.vote always (Reg.v (2 : Fin 608)) (Reg.v (0 : Fin 608)) VoteOp.mask (some (0 : Fin 4)))
      (gOf sCrossLaneExchange_2_2_2b) (xOf sCrossLaneExchange_2_2_2b iCrossLaneExchange_2_2_2b)
      (eOf sCrossLaneExchange_2_2_2b iCrossLaneExchange_2_2_2b) :=
  by
  refine @of_decide_eq_true _ (by letI := @decIssues; letI := @decNoOpen; infer_instance) ?_
  decide +kernel
def iLaneReductions_1 : Instr := (.redl always (.v 2) (.v 0) (.f32 .max true))
def sLaneReductions_1 : State := (at_ iLaneReductions_1 rg)
theorem witness_LaneReductions_1 :
    Issues sLaneReductions_1 (Instr.redl always (Reg.v (2 : Fin 608)) (Reg.v (0 : Fin 608)) (RedSel.f32 RedFltOp.max true))
      (wOf sLaneReductions_1) (aOf sLaneReductions_1) (gOf sLaneReductions_1) (xOf sLaneReductions_1 iLaneReductions_1)
      (eOf sLaneReductions_1 iLaneReductions_1) (pOf sLaneReductions_1 iLaneReductions_1)
    ∧ NoOpenOperand (Instr.redl always (Reg.v (2 : Fin 608)) (Reg.v (0 : Fin 608)) (RedSel.f32 RedFltOp.max true)) (gOf sLaneReductions_1)
      (xOf sLaneReductions_1 iLaneReductions_1) (eOf sLaneReductions_1 iLaneReductions_1) :=
  by
  refine @of_decide_eq_true _ (by letI := @decIssues; letI := @decNoOpen; infer_instance) ?_
  decide +kernel
def iLaneReductions_2_1 : Instr := (.scanl always (.v 2) (.v 0) (.s32 .min) false)
def sLaneReductions_2_1 : State := (at_ iLaneReductions_2_1 rg)
theorem witness_LaneReductions_2_1 :
    Issues sLaneReductions_2_1 (Instr.scanl always (Reg.v (2 : Fin 608)) (Reg.v (0 : Fin 608)) (RedSel.s32 RedIntOp.min) false)
      (wOf sLaneReductions_2_1) (aOf sLaneReductions_2_1) (gOf sLaneReductions_2_1) (xOf sLaneReductions_2_1 iLaneReductions_2_1)
      (eOf sLaneReductions_2_1 iLaneReductions_2_1) (pOf sLaneReductions_2_1 iLaneReductions_2_1)
    ∧ NoOpenOperand (Instr.scanl always (Reg.v (2 : Fin 608)) (Reg.v (0 : Fin 608)) (RedSel.s32 RedIntOp.min) false)
      (gOf sLaneReductions_2_1) (xOf sLaneReductions_2_1 iLaneReductions_2_1) (eOf sLaneReductions_2_1 iLaneReductions_2_1) :=
  by
  refine @of_decide_eq_true _ (by letI := @decIssues; letI := @decNoOpen; infer_instance) ?_
  decide +kernel
def iLaneReductions_2_2 : Instr := (.scanl always (.v 2) (.v 0) (.f32 .add false) true)
def sLaneReductions_2_2 : State := (at_ iLaneReductions_2_2 rg)
theorem witness_LaneReductions_2_2 :
    Issues sLaneReductions_2_2 (Instr.scanl always (Reg.v (2 : Fin 608)) (Reg.v (0 : Fin 608)) (RedSel.f32 RedFltOp.add false) true)
      (wOf sLaneReductions_2_2) (aOf sLaneReductions_2_2) (gOf sLaneReductions_2_2) (xOf sLaneReductions_2_2 iLaneReductions_2_2)
      (eOf sLaneReductions_2_2 iLaneReductions_2_2) (pOf sLaneReductions_2_2 iLaneReductions_2_2)
    ∧ NoOpenOperand (Instr.scanl always (Reg.v (2 : Fin 608)) (Reg.v (0 : Fin 608)) (RedSel.f32 RedFltOp.add false) true)
      (gOf sLaneReductions_2_2) (xOf sLaneReductions_2_2 iLaneReductions_2_2) (eOf sLaneReductions_2_2 iLaneReductions_2_2) :=
  by
  refine @of_decide_eq_true _ (by letI := @decIssues; letI := @decNoOpen; infer_instance) ?_
  decide +kernel
def iBitFields : Instr := (.bfe always (.v 2) (.v 0) (.v 6) true (some 1))
def sBitFields : State := (at_ iBitFields rg)
theorem witness_BitFields :
    Issues sBitFields
      (Instr.bfe always (Reg.v (2 : Fin 608)) (Reg.v (0 : Fin 608)) (Reg.v (6 : Fin 608)) true (some (1 : Fin 4)))
      (wOf sBitFields) (aOf sBitFields) (gOf sBitFields) (xOf sBitFields iBitFields) (eOf sBitFields iBitFields) (pOf sBitFields iBitFields)
    ∧ NoOpenOperand
      (Instr.bfe always (Reg.v (2 : Fin 608)) (Reg.v (0 : Fin 608)) (Reg.v (6 : Fin 608)) true (some (1 : Fin 4)))
      (gOf sBitFields) (xOf sBitFields iBitFields) (eOf sBitFields iBitFields) :=
  by
  refine @of_decide_eq_true _ (by letI := @decIssues; letI := @decNoOpen; infer_instance) ?_
  decide +kernel
def iBitFieldsb : Instr := (.bfi always (.v 2) (.v 0) (.v 6) (.v 3) (some 1))
def sBitFieldsb : State := (at_ iBitFieldsb rg)
theorem witness_BitFieldsb :
    Issues sBitFieldsb
      (Instr.bfi always (Reg.v (2 : Fin 608)) (Reg.v (0 : Fin 608)) (Reg.v (6 : Fin 608)) (Reg.v (3 : Fin 608))
        (some (1 : Fin 4)))
      (wOf sBitFieldsb) (aOf sBitFieldsb) (gOf sBitFieldsb) (xOf sBitFieldsb iBitFieldsb) (eOf sBitFieldsb iBitFieldsb) (pOf sBitFieldsb iBitFieldsb)
    ∧ NoOpenOperand
      (Instr.bfi always (Reg.v (2 : Fin 608)) (Reg.v (0 : Fin 608)) (Reg.v (6 : Fin 608)) (Reg.v (3 : Fin 608))
        (some (1 : Fin 4)))
      (gOf sBitFieldsb) (xOf sBitFieldsb iBitFieldsb) (eOf sBitFieldsb iBitFieldsb) :=
  by
  refine @of_decide_eq_true _ (by letI := @decIssues; letI := @decNoOpen; infer_instance) ?_
  decide +kernel
def iBitwiseFunctions : Instr := (.bool3 always (.v 2) (.v 0) (.lit 1) (.v 4) 0x96)
def sBitwiseFunctions : State := (at_ iBitwiseFunctions rg)
theorem witness_BitwiseFunctions :
    Issues sBitwiseFunctions
      (Instr.bool3 always (Reg.v (2 : Fin 608)) (Reg.v (0 : Fin 608)) (Src.lit (1 : Word)) (Reg.v (4 : Fin 608))
        (150 : BitVec 8))
      (wOf sBitwiseFunctions) (aOf sBitwiseFunctions) (gOf sBitwiseFunctions) (xOf sBitwiseFunctions iBitwiseFunctions)
      (eOf sBitwiseFunctions iBitwiseFunctions) (pOf sBitwiseFunctions iBitwiseFunctions)
    ∧ NoOpenOperand
      (Instr.bool3 always (Reg.v (2 : Fin 608)) (Reg.v (0 : Fin 608)) (Src.lit (1 : Word)) (Reg.v (4 : Fin 608))
        (150 : BitVec 8))
      (gOf sBitwiseFunctions) (xOf sBitwiseFunctions iBitwiseFunctions) (eOf sBitwiseFunctions iBitwiseFunctions) :=
  by
  refine @of_decide_eq_true _ (by letI := @decIssues; letI := @decNoOpen; infer_instance) ?_
  decide +kernel
def iBitwiseFunctionsb : Instr := (.andShort (.v 1) (.v 2))
def sBitwiseFunctionsb : State := (at_ iBitwiseFunctionsb rg)
theorem witness_BitwiseFunctionsb :
    Issues sBitwiseFunctionsb (Instr.andShort (Reg.v (1 : Fin 608)) (Reg.v (2 : Fin 608))) (wOf sBitwiseFunctionsb)
      (aOf sBitwiseFunctionsb) (gOf sBitwiseFunctionsb) (xOf sBitwiseFunctionsb iBitwiseFunctionsb) (eOf sBitwiseFunctionsb iBitwiseFunctionsb)
      (pOf sBitwiseFunctionsb iBitwiseFunctionsb)
    ∧ NoOpenOperand (Instr.andShort (Reg.v (1 : Fin 608)) (Reg.v (2 : Fin 608))) (gOf sBitwiseFunctionsb)
      (xOf sBitwiseFunctionsb iBitwiseFunctionsb) (eOf sBitwiseFunctionsb iBitwiseFunctionsb) :=
  by
  refine @of_decide_eq_true _ (by letI := @decIssues; letI := @decNoOpen; infer_instance) ?_
  decide +kernel
def iBitwiseFunctionsc : Instr := (.orShort (.v 1) (.v 2))
def sBitwiseFunctionsc : State := (at_ iBitwiseFunctionsc rg)
theorem witness_BitwiseFunctionsc :
    Issues sBitwiseFunctionsc (Instr.orShort (Reg.v (1 : Fin 608)) (Reg.v (2 : Fin 608))) (wOf sBitwiseFunctionsc)
      (aOf sBitwiseFunctionsc) (gOf sBitwiseFunctionsc) (xOf sBitwiseFunctionsc iBitwiseFunctionsc) (eOf sBitwiseFunctionsc iBitwiseFunctionsc)
      (pOf sBitwiseFunctionsc iBitwiseFunctionsc)
    ∧ NoOpenOperand (Instr.orShort (Reg.v (1 : Fin 608)) (Reg.v (2 : Fin 608))) (gOf sBitwiseFunctionsc)
      (xOf sBitwiseFunctionsc iBitwiseFunctionsc) (eOf sBitwiseFunctionsc iBitwiseFunctionsc) :=
  by
  refine @of_decide_eq_true _ (by letI := @decIssues; letI := @decNoOpen; infer_instance) ?_
  decide +kernel
def iBitwiseFunctionsd : Instr := (.xorShort (.v 1) (.v 2))
def sBitwiseFunctionsd : State := (at_ iBitwiseFunctionsd rg)
theorem witness_BitwiseFunctionsd :
    Issues sBitwiseFunctionsd (Instr.xorShort (Reg.v (1 : Fin 608)) (Reg.v (2 : Fin 608))) (wOf sBitwiseFunctionsd)
      (aOf sBitwiseFunctionsd) (gOf sBitwiseFunctionsd) (xOf sBitwiseFunctionsd iBitwiseFunctionsd) (eOf sBitwiseFunctionsd iBitwiseFunctionsd)
      (pOf sBitwiseFunctionsd iBitwiseFunctionsd)
    ∧ NoOpenOperand (Instr.xorShort (Reg.v (1 : Fin 608)) (Reg.v (2 : Fin 608))) (gOf sBitwiseFunctionsd)
      (xOf sBitwiseFunctionsd iBitwiseFunctionsd) (eOf sBitwiseFunctionsd iBitwiseFunctionsd) :=
  by
  refine @of_decide_eq_true _ (by letI := @decIssues; letI := @decNoOpen; infer_instance) ?_
  decide +kernel
def iBitwiseFunctionse : Instr := (.notShort (.v 1) (.v 2))
def sBitwiseFunctionse : State := (at_ iBitwiseFunctionse rg)
theorem witness_BitwiseFunctionse :
    Issues sBitwiseFunctionse (Instr.notShort (Reg.v (1 : Fin 608)) (Reg.v (2 : Fin 608))) (wOf sBitwiseFunctionse)
      (aOf sBitwiseFunctionse) (gOf sBitwiseFunctionse) (xOf sBitwiseFunctionse iBitwiseFunctionse) (eOf sBitwiseFunctionse iBitwiseFunctionse)
      (pOf sBitwiseFunctionse iBitwiseFunctionse)
    ∧ NoOpenOperand (Instr.notShort (Reg.v (1 : Fin 608)) (Reg.v (2 : Fin 608))) (gOf sBitwiseFunctionse)
      (xOf sBitwiseFunctionse iBitwiseFunctionse) (eOf sBitwiseFunctionse iBitwiseFunctionse) :=
  by
  refine @of_decide_eq_true _ (by letI := @decIssues; letI := @decNoOpen; infer_instance) ?_
  decide +kernel
def iSpecialFunctions : Instr := (.rcp always (.v 2) (.v 0) true (some 1))
def sSpecialFunctions : State := (at_ iSpecialFunctions rg)
theorem witness_SpecialFunctions :
    Issues sSpecialFunctions (Instr.rcp always (Reg.v (2 : Fin 608)) (Reg.v (0 : Fin 608)) true (some (1 : Fin 4)))
      (wOf sSpecialFunctions) (aOf sSpecialFunctions) (gOf sSpecialFunctions) (xOf sSpecialFunctions iSpecialFunctions)
      (eOf sSpecialFunctions iSpecialFunctions) (pOf sSpecialFunctions iSpecialFunctions)
    ∧ NoOpenOperand (Instr.rcp always (Reg.v (2 : Fin 608)) (Reg.v (0 : Fin 608)) true (some (1 : Fin 4))) (gOf sSpecialFunctions)
      (xOf sSpecialFunctions iSpecialFunctions) (eOf sSpecialFunctions iSpecialFunctions) :=
  by
  refine @of_decide_eq_true _ (by letI := @decIssues; letI := @decNoOpen; infer_instance) ?_
  decide +kernel
def iSpecialFunctionsb : Instr := (.rsq always (.v 2) (.v 0) true (some 1))
def sSpecialFunctionsb : State := (at_ iSpecialFunctionsb rg)
theorem witness_SpecialFunctionsb :
    Issues sSpecialFunctionsb (Instr.rsq always (Reg.v (2 : Fin 608)) (Reg.v (0 : Fin 608)) true (some (1 : Fin 4)))
      (wOf sSpecialFunctionsb) (aOf sSpecialFunctionsb) (gOf sSpecialFunctionsb) (xOf sSpecialFunctionsb iSpecialFunctionsb)
      (eOf sSpecialFunctionsb iSpecialFunctionsb) (pOf sSpecialFunctionsb iSpecialFunctionsb)
    ∧ NoOpenOperand (Instr.rsq always (Reg.v (2 : Fin 608)) (Reg.v (0 : Fin 608)) true (some (1 : Fin 4))) (gOf sSpecialFunctionsb)
      (xOf sSpecialFunctionsb iSpecialFunctionsb) (eOf sSpecialFunctionsb iSpecialFunctionsb) :=
  by
  refine @of_decide_eq_true _ (by letI := @decIssues; letI := @decNoOpen; infer_instance) ?_
  decide +kernel
def iSpecialFunctionsc : Instr := (.sqrt always (.v 2) (.v 0) true (some 1))
def sSpecialFunctionsc : State := (at_ iSpecialFunctionsc rg)
theorem witness_SpecialFunctionsc :
    Issues sSpecialFunctionsc (Instr.sqrt always (Reg.v (2 : Fin 608)) (Reg.v (0 : Fin 608)) true (some (1 : Fin 4)))
      (wOf sSpecialFunctionsc) (aOf sSpecialFunctionsc) (gOf sSpecialFunctionsc) (xOf sSpecialFunctionsc iSpecialFunctionsc)
      (eOf sSpecialFunctionsc iSpecialFunctionsc) (pOf sSpecialFunctionsc iSpecialFunctionsc)
    ∧ NoOpenOperand (Instr.sqrt always (Reg.v (2 : Fin 608)) (Reg.v (0 : Fin 608)) true (some (1 : Fin 4))) (gOf sSpecialFunctionsc)
      (xOf sSpecialFunctionsc iSpecialFunctionsc) (eOf sSpecialFunctionsc iSpecialFunctionsc) :=
  by
  refine @of_decide_eq_true _ (by letI := @decIssues; letI := @decNoOpen; infer_instance) ?_
  decide +kernel
def iSpecialFunctionsd : Instr := (.exp2 always (.v 2) (.v 0) true (some 1))
def sSpecialFunctionsd : State := (at_ iSpecialFunctionsd rg)
theorem witness_SpecialFunctionsd :
    Issues sSpecialFunctionsd (Instr.exp2 always (Reg.v (2 : Fin 608)) (Reg.v (0 : Fin 608)) true (some (1 : Fin 4)))
      (wOf sSpecialFunctionsd) (aOf sSpecialFunctionsd) (gOf sSpecialFunctionsd) (xOf sSpecialFunctionsd iSpecialFunctionsd)
      (eOf sSpecialFunctionsd iSpecialFunctionsd) (pOf sSpecialFunctionsd iSpecialFunctionsd)
    ∧ NoOpenOperand (Instr.exp2 always (Reg.v (2 : Fin 608)) (Reg.v (0 : Fin 608)) true (some (1 : Fin 4))) (gOf sSpecialFunctionsd)
      (xOf sSpecialFunctionsd iSpecialFunctionsd) (eOf sSpecialFunctionsd iSpecialFunctionsd) :=
  by
  refine @of_decide_eq_true _ (by letI := @decIssues; letI := @decNoOpen; infer_instance) ?_
  decide +kernel
def iSpecialFunctionse : Instr := (.log2 always (.v 2) (.v 0) true (some 1))
def sSpecialFunctionse : State := (at_ iSpecialFunctionse rg)
theorem witness_SpecialFunctionse :
    Issues sSpecialFunctionse (Instr.log2 always (Reg.v (2 : Fin 608)) (Reg.v (0 : Fin 608)) true (some (1 : Fin 4)))
      (wOf sSpecialFunctionse) (aOf sSpecialFunctionse) (gOf sSpecialFunctionse) (xOf sSpecialFunctionse iSpecialFunctionse)
      (eOf sSpecialFunctionse iSpecialFunctionse) (pOf sSpecialFunctionse iSpecialFunctionse)
    ∧ NoOpenOperand (Instr.log2 always (Reg.v (2 : Fin 608)) (Reg.v (0 : Fin 608)) true (some (1 : Fin 4))) (gOf sSpecialFunctionse)
      (xOf sSpecialFunctionse iSpecialFunctionse) (eOf sSpecialFunctionse iSpecialFunctionse) :=
  by
  refine @of_decide_eq_true _ (by letI := @decIssues; letI := @decNoOpen; infer_instance) ?_
  decide +kernel
def iSpecialFunctionsf : Instr := (.sin always (.v 2) (.v 0) true (some 1))
def sSpecialFunctionsf : State := (at_ iSpecialFunctionsf rg)
theorem witness_SpecialFunctionsf :
    Issues sSpecialFunctionsf (Instr.sin always (Reg.v (2 : Fin 608)) (Reg.v (0 : Fin 608)) true (some (1 : Fin 4)))
      (wOf sSpecialFunctionsf) (aOf sSpecialFunctionsf) (gOf sSpecialFunctionsf) (xOf sSpecialFunctionsf iSpecialFunctionsf)
      (eOf sSpecialFunctionsf iSpecialFunctionsf) (pOf sSpecialFunctionsf iSpecialFunctionsf)
    ∧ NoOpenOperand (Instr.sin always (Reg.v (2 : Fin 608)) (Reg.v (0 : Fin 608)) true (some (1 : Fin 4))) (gOf sSpecialFunctionsf)
      (xOf sSpecialFunctionsf iSpecialFunctionsf) (eOf sSpecialFunctionsf iSpecialFunctionsf) :=
  by
  refine @of_decide_eq_true _ (by letI := @decIssues; letI := @decNoOpen; infer_instance) ?_
  decide +kernel
def iSpecialFunctionsg : Instr := (.cos always (.v 2) (.v 0) true (some 1))
def sSpecialFunctionsg : State := (at_ iSpecialFunctionsg rg)
theorem witness_SpecialFunctionsg :
    Issues sSpecialFunctionsg (Instr.cos always (Reg.v (2 : Fin 608)) (Reg.v (0 : Fin 608)) true (some (1 : Fin 4)))
      (wOf sSpecialFunctionsg) (aOf sSpecialFunctionsg) (gOf sSpecialFunctionsg) (xOf sSpecialFunctionsg iSpecialFunctionsg)
      (eOf sSpecialFunctionsg iSpecialFunctionsg) (pOf sSpecialFunctionsg iSpecialFunctionsg)
    ∧ NoOpenOperand (Instr.cos always (Reg.v (2 : Fin 608)) (Reg.v (0 : Fin 608)) true (some (1 : Fin 4))) (gOf sSpecialFunctionsg)
      (xOf sSpecialFunctionsg iSpecialFunctionsg) (eOf sSpecialFunctionsg iSpecialFunctionsg) :=
  by
  refine @of_decide_eq_true _ (by letI := @decIssues; letI := @decNoOpen; infer_instance) ?_
  decide +kernel
def iSpecialFunctionsh : Instr := (.tanh always (.v 2) (.v 0) true (some 1))
def sSpecialFunctionsh : State := (at_ iSpecialFunctionsh rg)
theorem witness_SpecialFunctionsh :
    Issues sSpecialFunctionsh (Instr.tanh always (Reg.v (2 : Fin 608)) (Reg.v (0 : Fin 608)) true (some (1 : Fin 4)))
      (wOf sSpecialFunctionsh) (aOf sSpecialFunctionsh) (gOf sSpecialFunctionsh) (xOf sSpecialFunctionsh iSpecialFunctionsh)
      (eOf sSpecialFunctionsh iSpecialFunctionsh) (pOf sSpecialFunctionsh iSpecialFunctionsh)
    ∧ NoOpenOperand (Instr.tanh always (Reg.v (2 : Fin 608)) (Reg.v (0 : Fin 608)) true (some (1 : Fin 4))) (gOf sSpecialFunctionsh)
      (xOf sSpecialFunctionsh iSpecialFunctionsh) (eOf sSpecialFunctionsh iSpecialFunctionsh) :=
  by
  refine @of_decide_eq_true _ (by letI := @decIssues; letI := @decNoOpen; infer_instance) ?_
  decide +kernel

end W1

/-! ## Premises met: `Obligations.CrossLane`, `Obligations.BranchesForkExit`, `Obligations.WarpAndSpecialRegisters` -/

namespace W3

def r4 (l : Nat) : Sparse Word := [(0, BitVec.ofNat 32 (5 * (l / 2))), (1, BitVec.ofNat 32 (l + 2)), (3, BitVec.ofNat 32 (0x3F800000 + l * 0x800000)), (4, BitVec.ofNat 32 (7 - l)),(5, BitVec.ofNat 32 (l*l))]
def iCrossLaneExchange_1 : Instr := .shfl always (.v 2) (.v 1) (.reg (.v 0)) (.add true) .w8 (some 1)
def sCrossLaneExchange_1 : State := (fourAt iCrossLaneExchange_1 r4)
theorem witness_CrossLaneExchange_1 :
    Issues sCrossLaneExchange_1
      (Instr.shfl always (Reg.v (2 : Fin 608)) (Reg.v (1 : Fin 608)) (LaneSrc.reg (Reg.v (0 : Fin 608))) (ShflMode.add true)
        Span.w8 (some (1 : Fin 4)))
      (wOf sCrossLaneExchange_1) (aOf sCrossLaneExchange_1) (gOf sCrossLaneExchange_1) (xOf sCrossLaneExchange_1 iCrossLaneExchange_1)
      (eOf sCrossLaneExchange_1 iCrossLaneExchange_1) (pOf sCrossLaneExchange_1 iCrossLaneExchange_1)
    ∧ NoOpenOperand
      (Instr.shfl always (Reg.v (2 : Fin 608)) (Reg.v (1 : Fin 608)) (LaneSrc.reg (Reg.v (0 : Fin 608))) (ShflMode.add true)
        Span.w8 (some (1 : Fin 4)))
      (gOf sCrossLaneExchange_1) (xOf sCrossLaneExchange_1 iCrossLaneExchange_1) (eOf sCrossLaneExchange_1 iCrossLaneExchange_1) :=
  by
  refine @of_decide_eq_true _ (by letI := @decIssues; letI := @decNoOpen; infer_instance) ?_
  decide +kernel
def iCrossLaneExchange_1b : Instr := .shfl always (.v 2) (.v 1) (.reg (.v 1)) (.sub false) .w4 (some 1)
def sCrossLaneExchange_1b : State := (fourAt iCrossLaneExchange_1b r4)
theorem witness_CrossLaneExchange_1b :
    Issues sCrossLaneExchange_1b
      (Instr.shfl always (Reg.v (2 : Fin 608)) (Reg.v (1 : Fin 608)) (LaneSrc.reg (Reg.v (1 : Fin 608))) (ShflMode.sub false)
        Span.w4 (some (1 : Fin 4)))
      (wOf sCrossLaneExchange_1b) (aOf sCrossLaneExchange_1b) (gOf sCrossLaneExchange_1b) (xOf sCrossLaneExchange_1b iCrossLaneExchange_1b)
      (eOf sCrossLaneExchange_1b iCrossLaneExchange_1b) (pOf sCrossLaneExchange_1b iCrossLaneExchange_1b)
    ∧ NoOpenOperand
      (Instr.shfl always (Reg.v (2 : Fin 608)) (Reg.v (1 : Fin 608)) (LaneSrc.reg (Reg.v (1 : Fin 608))) (ShflMode.sub false)
        Span.w4 (some (1 : Fin 4)))
      (gOf sCrossLaneExchange_1b) (xOf sCrossLaneExchange_1b iCrossLaneExchange_1b) (eOf sCrossLaneExchange_1b iCrossLaneExchange_1b) :=
  by
  refine @of_decide_eq_true _ (by letI := @decIssues; letI := @decNoOpen; infer_instance) ?_
  decide +kernel
def iCrossLaneExchange_1c : Instr := .shfl always (.v 2) (.v 1) (.reg (.v 1)) .xor .w32 (some 1)
def sCrossLaneExchange_1c : State := (fourAt iCrossLaneExchange_1c r4)
theorem witness_CrossLaneExchange_1c :
    Issues sCrossLaneExchange_1c
      (Instr.shfl always (Reg.v (2 : Fin 608)) (Reg.v (1 : Fin 608)) (LaneSrc.reg (Reg.v (1 : Fin 608))) ShflMode.xor Span.w32
        (some (1 : Fin 4)))
      (wOf sCrossLaneExchange_1c) (aOf sCrossLaneExchange_1c) (gOf sCrossLaneExchange_1c) (xOf sCrossLaneExchange_1c iCrossLaneExchange_1c)
      (eOf sCrossLaneExchange_1c iCrossLaneExchange_1c) (pOf sCrossLaneExchange_1c iCrossLaneExchange_1c)
    ∧ NoOpenOperand
      (Instr.shfl always (Reg.v (2 : Fin 608)) (Reg.v (1 : Fin 608)) (LaneSrc.reg (Reg.v (1 : Fin 608))) ShflMode.xor Span.w32
        (some (1 : Fin 4)))
      (gOf sCrossLaneExchange_1c) (xOf sCrossLaneExchange_1c iCrossLaneExchange_1c) (eOf sCrossLaneExchange_1c iCrossLaneExchange_1c) :=
  by
  refine @of_decide_eq_true _ (by letI := @decIssues; letI := @decNoOpen; infer_instance) ?_
  decide +kernel
def iCrossLaneExchange_2_1 : Instr := .lpush always (.v 2) (.v 1) (.imm 2) (some 1)
def sCrossLaneExchange_2_1 : State := (fourAt iCrossLaneExchange_2_1 r4)
theorem witness_CrossLaneExchange_2_1 :
    Issues sCrossLaneExchange_2_1
      (Instr.lpush always (Reg.v (2 : Fin 608)) (Reg.v (1 : Fin 608)) (LaneSrc.imm (2 : BitVec 5)) (some (1 : Fin 4)))
      (wOf sCrossLaneExchange_2_1) (aOf sCrossLaneExchange_2_1) (gOf sCrossLaneExchange_2_1) (xOf sCrossLaneExchange_2_1 iCrossLaneExchange_2_1)
      (eOf sCrossLaneExchange_2_1 iCrossLaneExchange_2_1) (pOf sCrossLaneExchange_2_1 iCrossLaneExchange_2_1)
    ∧ NoOpenOperand
      (Instr.lpush always (Reg.v (2 : Fin 608)) (Reg.v (1 : Fin 608)) (LaneSrc.imm (2 : BitVec 5)) (some (1 : Fin 4)))
      (gOf sCrossLaneExchange_2_1) (xOf sCrossLaneExchange_2_1 iCrossLaneExchange_2_1) (eOf sCrossLaneExchange_2_1 iCrossLaneExchange_2_1) :=
  by
  refine @of_decide_eq_true _ (by letI := @decIssues; letI := @decNoOpen; infer_instance) ?_
  decide +kernel
def iCrossLaneExchange_2_1b : Instr := .lpush always (.v 2) (.v 1) (.reg (.v 5)) (some 1)
def sCrossLaneExchange_2_1b : State := (fourAt iCrossLaneExchange_2_1b r4)
theorem witness_CrossLaneExchange_2_1b :
    Issues sCrossLaneExchange_2_1b
      (Instr.lpush always (Reg.v (2 : Fin 608)) (Reg.v (1 : Fin 608)) (LaneSrc.reg (Reg.v (5 : Fin 608)))
        (some (1 : Fin 4)))
      (wOf sCrossLaneExchange_2_1b) (aOf sCrossLaneExchange_2_1b) (gOf sCrossLaneExchange_2_1b) (xOf sCrossLaneExchange_2_1b iCrossLaneExchange_2_1b)
      (eOf sCrossLaneExchange_2_1b iCrossLaneExchange_2_1b) (pOf sCrossLaneExchange_2_1b iCrossLaneExchange_2_1b)
    ∧ NoOpenOperand
      (Instr.lpush always (Reg.v (2 : Fin 608)) (Reg.v (1 : Fin 608)) (LaneSrc.reg (Reg.v (5 : Fin 608)))
        (some (1 : Fin 4)))
      (gOf sCrossLaneExchange_2_1b) (xOf sCrossLaneExchange_2_1b iCrossLaneExchange_2_1b) (eOf sCrossLaneExchange_2_1b iCrossLaneExchange_2_1b) :=
  by
  refine @of_decide_eq_true _ (by letI := @decIssues; letI := @decNoOpen; infer_instance) ?_
  decide +kernel
def iCrossLaneExchange_2_2_1 : Instr := .matchKeys always (.v 2) (.v 0) false (some 1)
def sCrossLaneExchange_2_2_1 : State := (fourAt iCrossLaneExchange_2_2_1 r4)
theorem witness_CrossLaneExchange_2_2_1 :
    Issues sCrossLaneExchange_2_2_1 (Instr.matchKeys always (Reg.v (2 : Fin 608)) (Reg.v (0 : Fin 608)) false (some (1 : Fin 4)))
      (wOf sCrossLaneExchange_2_2_1) (aOf sCrossLaneExchange_2_2_1) (gOf sCrossLaneExchange_2_2_1)
      (xOf sCrossLaneExchange_2_2_1 iCrossLaneExchange_2_2_1) (eOf sCrossLaneExchange_2_2_1 iCrossLaneExchange_2_2_1)
      (pOf sCrossLaneExchange_2_2_1 iCrossLaneExchange_2_2_1)
    ∧ NoOpenOperand (Instr.matchKeys always (Reg.v (2 : Fin 608)) (Reg.v (0 : Fin 608)) false (some (1 : Fin 4)))
      (gOf sCrossLaneExchange_2_2_1) (xOf sCrossLaneExchange_2_2_1 iCrossLaneExchange_2_2_1) (eOf sCrossLaneExchange_2_2_1 iCrossLaneExchange_2_2_1) :=
  by
  refine @of_decide_eq_true _ (by letI := @decIssues; letI := @decNoOpen; infer_instance) ?_
  decide +kernel
def iCrossLaneExchange_2_2_2 : Instr := .vote always (.v 2) (.v 0) .mask (some 1)
def sCrossLaneExchange_2_2_2 : State := (fourAt iCrossLaneExchange_2_2_2 r4)
theorem witness_CrossLaneExchange_2_2_2 :
    Issues sCrossLaneExchange_2_2_2 (Instr.vote always (Reg.v (2 : Fin 608)) (Reg.v (0 : Fin 608)) VoteOp.mask (some (1 : Fin 4)))
      (wOf sCrossLaneExchange_2_2_2) (aOf sCrossLaneExchange_2_2_2) (gOf sCrossLaneExchange_2_2_2)
      (xOf sCrossLaneExchange_2_2_2 iCrossLaneExchange_2_2_2) (eOf sCrossLaneExchange_2_2_2 iCrossLaneExchange_2_2_2)
      (pOf sCrossLaneExchange_2_2_2 iCrossLaneExchange_2_2_2)
    ∧ NoOpenOperand (Instr.vote always (Reg.v (2 : Fin 608)) (Reg.v (0 : Fin 608)) VoteOp.mask (some (1 : Fin 4)))
      (gOf sCrossLaneExchange_2_2_2) (xOf sCrossLaneExchange_2_2_2 iCrossLaneExchange_2_2_2) (eOf sCrossLaneExchange_2_2_2 iCrossLaneExchange_2_2_2) :=
  by
  refine @of_decide_eq_true _ (by letI := @decIssues; letI := @decNoOpen; infer_instance) ?_
  decide +kernel
def iCrossLaneExchange_2_2_2b : Instr := .vote always (.v 2) (.v 0) .allTrue (some 1)
def sCrossLaneExchange_2_2_2b : State := (fourAt iCrossLaneExchange_2_2_2b r4)
theorem witness_CrossLaneExchange_2_2_2b :
    Issues sCrossLaneExchange_2_2_2b
      (Instr.vote always (Reg.v (2 : Fin 608)) (Reg.v (0 : Fin 608)) VoteOp.allTrue (some (1 : Fin 4)))
      (wOf sCrossLaneExchange_2_2_2b) (aOf sCrossLaneExchange_2_2_2b) (gOf sCrossLaneExchange_2_2_2b)
      (xOf sCrossLaneExchange_2_2_2b iCrossLaneExchange_2_2_2b) (eOf sCrossLaneExchange_2_2_2b iCrossLaneExchange_2_2_2b)
      (pOf sCrossLaneExchange_2_2_2b iCrossLaneExchange_2_2_2b)
    ∧ NoOpenOperand (Instr.vote always (Reg.v (2 : Fin 608)) (Reg.v (0 : Fin 608)) VoteOp.allTrue (some (1 : Fin 4)))
      (gOf sCrossLaneExchange_2_2_2b) (xOf sCrossLaneExchange_2_2_2b iCrossLaneExchange_2_2_2b)
      (eOf sCrossLaneExchange_2_2_2b iCrossLaneExchange_2_2_2b) :=
  by
  refine @of_decide_eq_true _ (by letI := @decIssues; letI := @decNoOpen; infer_instance) ?_
  decide +kernel
def iLaneReductions_1 : Instr := .redl always (.v 2) (.v 3) (.f32 .add true)
def sLaneReductions_1 : State := (fourAt iLaneReductions_1 r4)
theorem witness_LaneReductions_1 :
    Issues sLaneReductions_1 (Instr.redl always (Reg.v (2 : Fin 608)) (Reg.v (3 : Fin 608)) (RedSel.f32 RedFltOp.add true))
      (wOf sLaneReductions_1) (aOf sLaneReductions_1) (gOf sLaneReductions_1) (xOf sLaneReductions_1 iLaneReductions_1)
      (eOf sLaneReductions_1 iLaneReductions_1) (pOf sLaneReductions_1 iLaneReductions_1)
    ∧ NoOpenOperand (Instr.redl always (Reg.v (2 : Fin 608)) (Reg.v (3 : Fin 608)) (RedSel.f32 RedFltOp.add true)) (gOf sLaneReductions_1)
      (xOf sLaneReductions_1 iLaneReductions_1) (eOf sLaneReductions_1 iLaneReductions_1) :=
  by
  refine @of_decide_eq_true _ (by letI := @decIssues; letI := @decNoOpen; infer_instance) ?_
  decide +kernel
def iLaneReductions_1b : Instr := .redl always (.v 2) (.v 4) (.s32 .min)
def sLaneReductions_1b : State := (fourAt iLaneReductions_1b r4)
theorem witness_LaneReductions_1b :
    Issues sLaneReductions_1b (Instr.redl always (Reg.v (2 : Fin 608)) (Reg.v (4 : Fin 608)) (RedSel.s32 RedIntOp.min))
      (wOf sLaneReductions_1b) (aOf sLaneReductions_1b) (gOf sLaneReductions_1b) (xOf sLaneReductions_1b iLaneReductions_1b)
      (eOf sLaneReductions_1b iLaneReductions_1b) (pOf sLaneReductions_1b iLaneReductions_1b)
    ∧ NoOpenOperand (Instr.redl always (Reg.v (2 : Fin 608)) (Reg.v (4 : Fin 608)) (RedSel.s32 RedIntOp.min)) (gOf sLaneReductions_1b)
      (xOf sLaneReductions_1b iLaneReductions_1b) (eOf sLaneReductions_1b iLaneReductions_1b) :=
  by
  refine @of_decide_eq_true _ (by letI := @decIssues; letI := @decNoOpen; infer_instance) ?_
  decide +kernel
def iLaneReductions_2_1 : Instr := .scanl always (.v 2) (.v 3) (.f32 .add true) false
def sLaneReductions_2_1 : State := (fourAt iLaneReductions_2_1 r4)
theorem witness_LaneReductions_2_1 :
    Issues sLaneReductions_2_1 (Instr.scanl always (Reg.v (2 : Fin 608)) (Reg.v (3 : Fin 608)) (RedSel.f32 RedFltOp.add true) false)
      (wOf sLaneReductions_2_1) (aOf sLaneReductions_2_1) (gOf sLaneReductions_2_1) (xOf sLaneReductions_2_1 iLaneReductions_2_1)
      (eOf sLaneReductions_2_1 iLaneReductions_2_1) (pOf sLaneReductions_2_1 iLaneReductions_2_1)
    ∧ NoOpenOperand (Instr.scanl always (Reg.v (2 : Fin 608)) (Reg.v (3 : Fin 608)) (RedSel.f32 RedFltOp.add true) false)
      (gOf sLaneReductions_2_1) (xOf sLaneReductions_2_1 iLaneReductions_2_1) (eOf sLaneReductions_2_1 iLaneReductions_2_1) :=
  by
  refine @of_decide_eq_true _ (by letI := @decIssues; letI := @decNoOpen; infer_instance) ?_
  decide +kernel
def iLaneReductions_2_2 : Instr := .scanl always (.v 2) (.v 4) (.u32 .max) true
def sLaneReductions_2_2 : State := (fourAt iLaneReductions_2_2 r4)
theorem witness_LaneReductions_2_2 :
    Issues sLaneReductions_2_2 (Instr.scanl always (Reg.v (2 : Fin 608)) (Reg.v (4 : Fin 608)) (RedSel.u32 RedIntOp.max) true)
      (wOf sLaneReductions_2_2) (aOf sLaneReductions_2_2) (gOf sLaneReductions_2_2) (xOf sLaneReductions_2_2 iLaneReductions_2_2)
      (eOf sLaneReductions_2_2 iLaneReductions_2_2) (pOf sLaneReductions_2_2 iLaneReductions_2_2)
    ∧ NoOpenOperand (Instr.scanl always (Reg.v (2 : Fin 608)) (Reg.v (4 : Fin 608)) (RedSel.u32 RedIntOp.max) true)
      (gOf sLaneReductions_2_2) (xOf sLaneReductions_2_2 iLaneReductions_2_2) (eOf sLaneReductions_2_2 iLaneReductions_2_2) :=
  by
  refine @of_decide_eq_true _ (by letI := @decIssues; letI := @decNoOpen; infer_instance) ?_
  decide +kernel
def sTop := fourAt (.topk always (.v 2) (.v 2) (.v 4) 0 0 .s32) r4
theorem witness_LaneSelection_2 :
    Issues sTop
      (Instr.topk always (Reg.v (2 : Fin 608)) (Reg.v (2 : Fin 608)) (Reg.v (4 : Fin 608)) (0 : Fin 4)
        (0 : BitVec 5) TopkType.s32)
      (wOf sTop) (aOf sTop) (gOf sTop)
      (xOf sTop
        (Instr.topk always (Reg.v (2 : Fin 608)) (Reg.v (2 : Fin 608)) (Reg.v (4 : Fin 608)) (0 : Fin 4)
          (0 : BitVec 5) TopkType.s32))
      (eOf sTop
        (Instr.topk always (Reg.v (2 : Fin 608)) (Reg.v (2 : Fin 608)) (Reg.v (4 : Fin 608)) (0 : Fin 4)
          (0 : BitVec 5) TopkType.s32))
      (pOf sTop
        (Instr.topk always (Reg.v (2 : Fin 608)) (Reg.v (2 : Fin 608)) (Reg.v (4 : Fin 608)) (0 : Fin 4)
          (0 : BitVec 5) TopkType.s32))
    ∧ (wOf sTop).bundle (aOf sTop) ≠ [] :=
  by
  refine @of_decide_eq_true _ (by letI := @decIssues; infer_instance) ?_
  decide +kernel
def iBranches_2_2_2 : Instr := .brx always (.v 2)
def sBranches_2_2_2 : State := (fourAt iBranches_2_2_2 r4)
theorem witness_Branches_2_2_2 :
    Issues sBranches_2_2_2 (Instr.brx always (Reg.v (2 : Fin 608))) (wOf sBranches_2_2_2) (aOf sBranches_2_2_2) (gOf sBranches_2_2_2)
      (xOf sBranches_2_2_2 iBranches_2_2_2) (eOf sBranches_2_2_2 iBranches_2_2_2) (pOf sBranches_2_2_2 iBranches_2_2_2)
    ∧ NoOpenOperand (Instr.brx always (Reg.v (2 : Fin 608))) (gOf sBranches_2_2_2) (xOf sBranches_2_2_2 iBranches_2_2_2)
      (eOf sBranches_2_2_2 iBranches_2_2_2)
    ∧ xOf sBranches_2_2_2 iBranches_2_2_2 ≠ [] :=
  by
  refine @of_decide_eq_true _ (by letI := @decIssues; letI := @decNoOpen; infer_instance) ?_
  decide +kernel
def iWarpRegisters_1 : Instr := .yieldI always
def sWarpRegisters_1 : State := (fourAt iWarpRegisters_1 r4)
theorem witness_WarpRegisters_1 :
    Issues sWarpRegisters_1 (Instr.yieldI always) (wOf sWarpRegisters_1) (aOf sWarpRegisters_1) (gOf sWarpRegisters_1)
      (xOf sWarpRegisters_1 iWarpRegisters_1) (eOf sWarpRegisters_1 iWarpRegisters_1) (pOf sWarpRegisters_1 iWarpRegisters_1)
    ∧ NoOpenOperand (Instr.yieldI always) (gOf sWarpRegisters_1) (xOf sWarpRegisters_1 iWarpRegisters_1) (eOf sWarpRegisters_1 iWarpRegisters_1)
    ∧ xOf sWarpRegisters_1 iWarpRegisters_1 ≠ [] :=
  by
  refine @of_decide_eq_true _ (by letI := @decIssues; letI := @decNoOpen; infer_instance) ?_
  decide +kernel
def preempting (s : State) : State := { s with ctxs := s.ctxs.map (fun (c : Ctx) => { c with state := 1 }) }
def iWarpRegisters_1b : Instr := .yieldI always
def sWarpRegisters_1b : State := (preempting (fourAt iWarpRegisters_1b r4))
theorem witness_WarpRegisters_1b :
    Issues sWarpRegisters_1b (Instr.yieldI always) (wOf sWarpRegisters_1b) (aOf sWarpRegisters_1b) (gOf sWarpRegisters_1b)
      (xOf sWarpRegisters_1b iWarpRegisters_1b) (eOf sWarpRegisters_1b iWarpRegisters_1b) (pOf sWarpRegisters_1b iWarpRegisters_1b)
    ∧ NoOpenOperand (Instr.yieldI always) (gOf sWarpRegisters_1b) (xOf sWarpRegisters_1b iWarpRegisters_1b) (eOf sWarpRegisters_1b iWarpRegisters_1b)
    ∧ xOf sWarpRegisters_1b iWarpRegisters_1b ≠ [] :=
  by
  refine @of_decide_eq_true _ (by letI := @decIssues; letI := @decNoOpen; infer_instance) ?_
  decide +kernel
def iWarpRegisters_2_1 : Instr := .mode always (some true) none
def sWarpRegisters_2_1 : State := (fourAt iWarpRegisters_2_1 r4)
theorem witness_WarpRegisters_2_1 :
    Issues sWarpRegisters_2_1 (Instr.mode always (some true) none) (wOf sWarpRegisters_2_1) (aOf sWarpRegisters_2_1) (gOf sWarpRegisters_2_1)
      (xOf sWarpRegisters_2_1 iWarpRegisters_2_1) (eOf sWarpRegisters_2_1 iWarpRegisters_2_1) (pOf sWarpRegisters_2_1 iWarpRegisters_2_1)
    ∧ NoOpenOperand (Instr.mode always (some true) none) (gOf sWarpRegisters_2_1) (xOf sWarpRegisters_2_1 iWarpRegisters_2_1)
      (eOf sWarpRegisters_2_1 iWarpRegisters_2_1)
    ∧ xOf sWarpRegisters_2_1 iWarpRegisters_2_1 ≠ [] :=
  by
  refine @of_decide_eq_true _ (by letI := @decIssues; letI := @decNoOpen; infer_instance) ?_
  decide +kernel
def iWarpRegisters_2_2_1 : Instr := .tmset always (.reg (.v 1))
def sWarpRegisters_2_2_1 : State := (fourAt iWarpRegisters_2_2_1 r4)
theorem witness_WarpRegisters_2_2_1 :
    Issues sWarpRegisters_2_2_1 (Instr.tmset always (Src.reg (Reg.v (1 : Fin 608)))) (wOf sWarpRegisters_2_2_1) (aOf sWarpRegisters_2_2_1)
      (gOf sWarpRegisters_2_2_1) (xOf sWarpRegisters_2_2_1 iWarpRegisters_2_2_1) (eOf sWarpRegisters_2_2_1 iWarpRegisters_2_2_1)
      (pOf sWarpRegisters_2_2_1 iWarpRegisters_2_2_1)
    ∧ NoOpenOperand (Instr.tmset always (Src.reg (Reg.v (1 : Fin 608)))) (gOf sWarpRegisters_2_2_1) (xOf sWarpRegisters_2_2_1 iWarpRegisters_2_2_1)
      (eOf sWarpRegisters_2_2_1 iWarpRegisters_2_2_1)
    ∧ xOf sWarpRegisters_2_2_1 iWarpRegisters_2_2_1 ≠ [] :=
  by
  refine @of_decide_eq_true _ (by letI := @decIssues; letI := @decNoOpen; infer_instance) ?_
  decide +kernel
def iWarpRegisters_2_2_2 : Instr := .phase always (.reg (.v 1)) (.v 3)
def sWarpRegisters_2_2_2 : State := (fourAt iWarpRegisters_2_2_2 r4)
theorem witness_WarpRegisters_2_2_2 :
    Issues sWarpRegisters_2_2_2 (Instr.phase always (Src.reg (Reg.v (1 : Fin 608))) (Reg.v (3 : Fin 608))) (wOf sWarpRegisters_2_2_2)
      (aOf sWarpRegisters_2_2_2) (gOf sWarpRegisters_2_2_2) (xOf sWarpRegisters_2_2_2 iWarpRegisters_2_2_2)
      (eOf sWarpRegisters_2_2_2 iWarpRegisters_2_2_2) (pOf sWarpRegisters_2_2_2 iWarpRegisters_2_2_2)
    ∧ NoOpenOperand (Instr.phase always (Src.reg (Reg.v (1 : Fin 608))) (Reg.v (3 : Fin 608))) (gOf sWarpRegisters_2_2_2)
      (xOf sWarpRegisters_2_2_2 iWarpRegisters_2_2_2) (eOf sWarpRegisters_2_2_2 iWarpRegisters_2_2_2)
    ∧ xOf sWarpRegisters_2_2_2 iWarpRegisters_2_2_2 ≠ [] :=
  by
  refine @of_decide_eq_true _ (by letI := @decIssues; letI := @decNoOpen; infer_instance) ?_
  decide +kernel
def iFlagWait_1 : Instr := .fwait always 0xFFF
def sFlagWait_1 : State := (fourAt iFlagWait_1 r4)
theorem witness_FlagWait_1 :
    Issues sFlagWait_1 (Instr.fwait always (4095 : BitVec 12)) (wOf sFlagWait_1) (aOf sFlagWait_1) (gOf sFlagWait_1) (xOf sFlagWait_1 iFlagWait_1)
      (eOf sFlagWait_1 iFlagWait_1) (pOf sFlagWait_1 iFlagWait_1)
    ∧ NoOpenOperand (Instr.fwait always (4095 : BitVec 12)) (gOf sFlagWait_1) (xOf sFlagWait_1 iFlagWait_1) (eOf sFlagWait_1 iFlagWait_1)
    ∧ xOf sFlagWait_1 iFlagWait_1 ≠ []
    ∧ (∀ (f : Fibre),
      f ∈ xOf sFlagWait_1 iFlagWait_1 → ∀ (n : Nat), n < 12 → BitVec.getLsbD (4095 : BitVec 12) n = true → f.flag n = 0) :=
  by
  refine @of_decide_eq_true _ (by letI := @decIssues; letI := @decNoOpen; infer_instance) ?_
  decide +kernel
def sFw := byFibre (fun f => { f with flags := [(2, 1)] }) (fourAt (.fwait always 4) r4)
theorem witness_FlagWait_2 :
    Issues sFw (Instr.fwait always (4 : BitVec 12)) (wOf sFw) (aOf sFw) (gOf sFw) (xOf sFw (Instr.fwait always (4 : BitVec 12))) [] []
    ∧ x0 sFw (Instr.fwait always (4 : BitVec 12)) ∈ xOf sFw (Instr.fwait always (4 : BitVec 12))
    ∧ (¬∀ (n : Nat),
        n < 12 → BitVec.getLsbD (4 : BitVec 12) n = true → (x0 sFw (Instr.fwait always (4 : BitVec 12))).flag n = 0) :=
  by
  refine @of_decide_eq_true _ (by letI := @decIssues; infer_instance) ?_
  decide +kernel
def iSpecialRegisterReads_1 : Instr := .sread always (.v 2) 0x0B false
def sSpecialRegisterReads_1 : State := (fourAt iSpecialRegisterReads_1 r4)
theorem witness_SpecialRegisterReads_1 :
    Issues sSpecialRegisterReads_1 (Instr.sread always (Reg.v (2 : Fin 608)) (11 : BitVec 8) false) (wOf sSpecialRegisterReads_1)
      (aOf sSpecialRegisterReads_1) (gOf sSpecialRegisterReads_1) (xOf sSpecialRegisterReads_1 iSpecialRegisterReads_1)
      (eOf sSpecialRegisterReads_1 iSpecialRegisterReads_1) (pOf sSpecialRegisterReads_1 iSpecialRegisterReads_1)
    ∧ NoOpenOperand (Instr.sread always (Reg.v (2 : Fin 608)) (11 : BitVec 8) false) (gOf sSpecialRegisterReads_1)
      (xOf sSpecialRegisterReads_1 iSpecialRegisterReads_1) (eOf sSpecialRegisterReads_1 iSpecialRegisterReads_1)
    ∧ xOf sSpecialRegisterReads_1 iSpecialRegisterReads_1 ≠ []
    ∧ (BitVec.toNat (11 : BitVec 8) ≤ 12 ∨
      16 ≤ BitVec.toNat (11 : BitVec 8) ∧ BitVec.toNat (11 : BitVec 8) ≤ 20 ∨
        24 ≤ BitVec.toNat (11 : BitVec 8) ∧ BitVec.toNat (11 : BitVec 8) ≤ 28 ∨
          32 ≤ BitVec.toNat (11 : BitVec 8) ∧ BitVec.toNat (11 : BitVec 8) ≤ 36 ∨
            40 ≤ BitVec.toNat (11 : BitVec 8) ∧ BitVec.toNat (11 : BitVec 8) ≤ 45 ∨
              48 ≤ BitVec.toNat (11 : BitVec 8) ∧ BitVec.toNat (11 : BitVec 8) ≤ 52) :=
  by
  refine @of_decide_eq_true _ (by letI := @decIssues; letI := @decNoOpen; infer_instance) ?_
  decide +kernel
def iSpecialRegisterReads_2_1 : Instr := .sread always (.v 2) 0x20 true
def sSpecialRegisterReads_2_1 : State := (fourAt iSpecialRegisterReads_2_1 r4)
theorem witness_SpecialRegisterReads_2_1 :
    Issues sSpecialRegisterReads_2_1 (Instr.sread always (Reg.v (2 : Fin 608)) (32 : BitVec 8) true) (wOf sSpecialRegisterReads_2_1)
      (aOf sSpecialRegisterReads_2_1) (gOf sSpecialRegisterReads_2_1) (xOf sSpecialRegisterReads_2_1 iSpecialRegisterReads_2_1)
      (eOf sSpecialRegisterReads_2_1 iSpecialRegisterReads_2_1) (pOf sSpecialRegisterReads_2_1 iSpecialRegisterReads_2_1)
    ∧ NoOpenOperand (Instr.sread always (Reg.v (2 : Fin 608)) (32 : BitVec 8) true) (gOf sSpecialRegisterReads_2_1)
      (xOf sSpecialRegisterReads_2_1 iSpecialRegisterReads_2_1) (eOf sSpecialRegisterReads_2_1 iSpecialRegisterReads_2_1)
    ∧ xOf sSpecialRegisterReads_2_1 iSpecialRegisterReads_2_1 ≠ []
    ∧ (BitVec.toNat (32 : BitVec 8) = 10 ∨
      BitVec.toNat (32 : BitVec 8) = 16 ∨
        BitVec.toNat (32 : BitVec 8) = 32 ∨
          BitVec.toNat (32 : BitVec 8) = 40 ∨
            BitVec.toNat (32 : BitVec 8) = 42 ∨ BitVec.toNat (32 : BitVec 8) = 44) :=
  by
  refine @of_decide_eq_true _ (by letI := @decIssues; letI := @decNoOpen; infer_instance) ?_
  decide +kernel
def sSr := at_ (.sread always (.v 2) 0x0D false)
theorem witness_SpecialRegisterReads_2_2 :
    Issues sSr (Instr.sread always (Reg.v (2 : Fin 608)) (13 : BitVec 8) false) (wOf sSr) (aOf sSr) (gOf sSr)
      (xOf sSr (Instr.sread always (Reg.v (2 : Fin 608)) (13 : BitVec 8) false)) [] []
    ∧ (wOf sSr).bundle (aOf sSr) ≠ []
    ∧ (¬((BitVec.toNat (13 : BitVec 8) ≤ 12 ∨
          16 ≤ BitVec.toNat (13 : BitVec 8) ∧ BitVec.toNat (13 : BitVec 8) ≤ 20 ∨
            24 ≤ BitVec.toNat (13 : BitVec 8) ∧ BitVec.toNat (13 : BitVec 8) ≤ 28 ∨
              32 ≤ BitVec.toNat (13 : BitVec 8) ∧ BitVec.toNat (13 : BitVec 8) ≤ 36 ∨
                40 ≤ BitVec.toNat (13 : BitVec 8) ∧ BitVec.toNat (13 : BitVec 8) ≤ 45 ∨
                  48 ≤ BitVec.toNat (13 : BitVec 8) ∧ BitVec.toNat (13 : BitVec 8) ≤ 52) ∧
        (false = true →
          BitVec.toNat (13 : BitVec 8) = 10 ∨
            BitVec.toNat (13 : BitVec 8) = 16 ∨
              BitVec.toNat (13 : BitVec 8) = 32 ∨
                BitVec.toNat (13 : BitVec 8) = 40 ∨
                  BitVec.toNat (13 : BitVec 8) = 42 ∨ BitVec.toNat (13 : BitVec 8) = 44))) :=
  by
  refine @of_decide_eq_true _ (by letI := @decIssues; infer_instance) ?_
  decide +kernel
def iSpecialRegisterWrites_1 : Instr := .swrite always (.v 1) 0x19 false
def sSpecialRegisterWrites_1 : State := (fourAt iSpecialRegisterWrites_1 r4)
theorem witness_SpecialRegisterWrites_1 :
    Issues sSpecialRegisterWrites_1 (Instr.swrite always (Reg.v (1 : Fin 608)) (25 : BitVec 8) false) (wOf sSpecialRegisterWrites_1)
      (aOf sSpecialRegisterWrites_1) (gOf sSpecialRegisterWrites_1) (xOf sSpecialRegisterWrites_1 iSpecialRegisterWrites_1)
      (eOf sSpecialRegisterWrites_1 iSpecialRegisterWrites_1) (pOf sSpecialRegisterWrites_1 iSpecialRegisterWrites_1)
    ∧ NoOpenOperand (Instr.swrite always (Reg.v (1 : Fin 608)) (25 : BitVec 8) false) (gOf sSpecialRegisterWrites_1)
      (xOf sSpecialRegisterWrites_1 iSpecialRegisterWrites_1) (eOf sSpecialRegisterWrites_1 iSpecialRegisterWrites_1)
    ∧ xOf sSpecialRegisterWrites_1 iSpecialRegisterWrites_1 ≠ []
    ∧ ((24 ≤ BitVec.toNat (25 : BitVec 8) ∧ BitVec.toNat (25 : BitVec 8) ≤ 28 ∨
        BitVec.toNat (25 : BitVec 8) = 34 ∨
          40 ≤ BitVec.toNat (25 : BitVec 8) ∧ BitVec.toNat (25 : BitVec 8) ≤ 45 ∨
            16 ≤ BitVec.toNat (25 : BitVec 8) ∧
              BitVec.toNat (25 : BitVec 8) ≤ 20 ∧ (wOf sSpecialRegisterWrites_1).handler ≠ none) ∧
      (40 ≤ BitVec.toNat (25 : BitVec 8) →
        ∀ (f : Fibre), f ∈ xOf sSpecialRegisterWrites_1 iSpecialRegisterWrites_1 → (wOf sSpecialRegisterWrites_1).drawsOwed f = false)) :=
  by
  refine @of_decide_eq_true _ (by letI := @decIssues; letI := @decNoOpen; infer_instance) ?_
  decide +kernel
def iSpecialRegisterWrites_1b : Instr := .swrite always (.v 1) 0x2B false
def sSpecialRegisterWrites_1b : State := (fourAt iSpecialRegisterWrites_1b r4)
theorem witness_SpecialRegisterWrites_1b :
    Issues sSpecialRegisterWrites_1b (Instr.swrite always (Reg.v (1 : Fin 608)) (43 : BitVec 8) false) (wOf sSpecialRegisterWrites_1b)
      (aOf sSpecialRegisterWrites_1b) (gOf sSpecialRegisterWrites_1b) (xOf sSpecialRegisterWrites_1b iSpecialRegisterWrites_1b)
      (eOf sSpecialRegisterWrites_1b iSpecialRegisterWrites_1b) (pOf sSpecialRegisterWrites_1b iSpecialRegisterWrites_1b)
    ∧ NoOpenOperand (Instr.swrite always (Reg.v (1 : Fin 608)) (43 : BitVec 8) false) (gOf sSpecialRegisterWrites_1b)
      (xOf sSpecialRegisterWrites_1b iSpecialRegisterWrites_1b) (eOf sSpecialRegisterWrites_1b iSpecialRegisterWrites_1b)
    ∧ xOf sSpecialRegisterWrites_1b iSpecialRegisterWrites_1b ≠ []
    ∧ ((24 ≤ BitVec.toNat (43 : BitVec 8) ∧ BitVec.toNat (43 : BitVec 8) ≤ 28 ∨
        BitVec.toNat (43 : BitVec 8) = 34 ∨
          40 ≤ BitVec.toNat (43 : BitVec 8) ∧ BitVec.toNat (43 : BitVec 8) ≤ 45 ∨
            16 ≤ BitVec.toNat (43 : BitVec 8) ∧
              BitVec.toNat (43 : BitVec 8) ≤ 20 ∧ (wOf sSpecialRegisterWrites_1b).handler ≠ none) ∧
      (40 ≤ BitVec.toNat (43 : BitVec 8) →
        ∀ (f : Fibre), f ∈ xOf sSpecialRegisterWrites_1b iSpecialRegisterWrites_1b → (wOf sSpecialRegisterWrites_1b).drawsOwed f = false)) :=
  by
  refine @of_decide_eq_true _ (by letI := @decIssues; letI := @decNoOpen; infer_instance) ?_
  decide +kernel
def sSw := at_ (.swrite always (.v 2) 0x10 false)
theorem witness_SpecialRegisterWrites_2_2_1 :
    Issues sSw (Instr.swrite always (Reg.v (2 : Fin 608)) (16 : BitVec 8) false) (wOf sSw) (aOf sSw) (gOf sSw)
      (xOf sSw (Instr.swrite always (Reg.v (2 : Fin 608)) (16 : BitVec 8) false)) [] []
    ∧ (wOf sSw).bundle (aOf sSw) ≠ []
    ∧ (¬((24 ≤ BitVec.toNat (16 : BitVec 8) ∧ BitVec.toNat (16 : BitVec 8) ≤ 28 ∨
          BitVec.toNat (16 : BitVec 8) = 34 ∨
            40 ≤ BitVec.toNat (16 : BitVec 8) ∧ BitVec.toNat (16 : BitVec 8) ≤ 45 ∨
              16 ≤ BitVec.toNat (16 : BitVec 8) ∧ BitVec.toNat (16 : BitVec 8) ≤ 20 ∧ (wOf sSw).handler ≠ none) ∧
        (false = true →
          BitVec.toNat (16 : BitVec 8) = 16 ∨
            BitVec.toNat (16 : BitVec 8) = 40 ∨
              BitVec.toNat (16 : BitVec 8) = 42 ∨ BitVec.toNat (16 : BitVec 8) = 44))) :=
  by
  refine @of_decide_eq_true _ (by letI := @decIssues; infer_instance) ?_
  decide +kernel

end W3

/-! ## Premises met: `Obligations.WarpAndSpecialRegisters`, `Obligations.WindowInstructions`, `Obligations.BranchesForkExit`,
`Obligations.RejoinMasks` -/

namespace W4

def r4 (l : Nat) : Sparse Word := [(0, BitVec.ofNat 32 (5 * (l / 2))), (1, BitVec.ofNat 32 (l + 2)), (3, BitVec.ofNat 32 (0x3F800000 + l * 0x800000)), (4, BitVec.ofNat 32 (7 - l)),(5, BitVec.ofNat 32 (l*l))]
def iSpecialRegisterWrites_2_1 : Instr := .swrite always (.v 2) 0x28 true
def sSpecialRegisterWrites_2_1 : State := (fourAt iSpecialRegisterWrites_2_1 r4)
theorem witness_SpecialRegisterWrites_2_1 :
    Issues sSpecialRegisterWrites_2_1 (Instr.swrite always (Reg.v (2 : Fin 608)) (40 : BitVec 8) true) (wOf sSpecialRegisterWrites_2_1)
      (aOf sSpecialRegisterWrites_2_1) (gOf sSpecialRegisterWrites_2_1) (xOf sSpecialRegisterWrites_2_1 iSpecialRegisterWrites_2_1)
      (eOf sSpecialRegisterWrites_2_1 iSpecialRegisterWrites_2_1) (pOf sSpecialRegisterWrites_2_1 iSpecialRegisterWrites_2_1)
    ∧ NoOpenOperand (Instr.swrite always (Reg.v (2 : Fin 608)) (40 : BitVec 8) true) (gOf sSpecialRegisterWrites_2_1)
      (xOf sSpecialRegisterWrites_2_1 iSpecialRegisterWrites_2_1) (eOf sSpecialRegisterWrites_2_1 iSpecialRegisterWrites_2_1)
    ∧ xOf sSpecialRegisterWrites_2_1 iSpecialRegisterWrites_2_1 ≠ []
    ∧ ((24 ≤ BitVec.toNat (40 : BitVec 8) ∧ BitVec.toNat (40 : BitVec 8) ≤ 28 ∨
        BitVec.toNat (40 : BitVec 8) = 34 ∨
          40 ≤ BitVec.toNat (40 : BitVec 8) ∧ BitVec.toNat (40 : BitVec 8) ≤ 45 ∨
            16 ≤ BitVec.toNat (40 : BitVec 8) ∧
              BitVec.toNat (40 : BitVec 8) ≤ 20 ∧ (wOf sSpecialRegisterWrites_2_1).handler ≠ none) ∧
      (BitVec.toNat (40 : BitVec 8) = 16 ∨
          BitVec.toNat (40 : BitVec 8) = 40 ∨
            BitVec.toNat (40 : BitVec 8) = 42 ∨ BitVec.toNat (40 : BitVec 8) = 44) ∧
        (40 ≤ BitVec.toNat (40 : BitVec 8) →
          ∀ (f : Fibre), f ∈ xOf sSpecialRegisterWrites_2_1 iSpecialRegisterWrites_2_1 → (wOf sSpecialRegisterWrites_2_1).drawsOwed f = false)) :=
  by
  refine @of_decide_eq_true _ (by letI := @decIssues; letI := @decNoOpen; infer_instance) ?_
  decide +kernel
def inCall (s : State) := byFibre (fun f => { f with b := 20, n := 4, links := [{ pc := 0x2000, k := 20, nc := 24 }] }) s
def iWindows_1 : Instr := .enter always 24
def sWindows_1 : State := (fourAt iWindows_1 r4)
theorem witness_Windows_1 :
    Issues sWindows_1 (Instr.enter always (24 : BitVec 10)) (wOf sWindows_1) (aOf sWindows_1) (gOf sWindows_1) (xOf sWindows_1 iWindows_1)
      (eOf sWindows_1 iWindows_1) (pOf sWindows_1 iWindows_1)
    ∧ NoOpenOperand (Instr.enter always (24 : BitVec 10)) (gOf sWindows_1) (xOf sWindows_1 iWindows_1) (eOf sWindows_1 iWindows_1)
    ∧ xOf sWindows_1 iWindows_1 ≠ []
    ∧ ((wOf sWindows_1).handler = none ∧
      1 ≤ BitVec.toNat (24 : BitVec 10) ∧
        BitVec.toNat (24 : BitVec 10) ≤ min ((gOf sWindows_1).a - (gOf sWindows_1).f) 608 ∧
          ∀ (f : Fibre),
            f ∈ xOf sWindows_1 iWindows_1 →
              (List.map Link.k f.links).sum + BitVec.toNat (24 : BitVec 10) ≤ (gOf sWindows_1).a - (gOf sWindows_1).f) :=
  by
  refine @of_decide_eq_true _ (by letI := @decIssues; letI := @decNoOpen; infer_instance) ?_
  decide +kernel
def iWindows_2_1 : Instr := .call always 20 (.short 0xFFFF0)
def sWindows_2_1 : State := (fourAt iWindows_2_1 r4)
theorem witness_Windows_2_1 :
    Issues sWindows_2_1 (Instr.call always (20 : BitVec 10) (Off.short (1048560 : BitVec 20))) (wOf sWindows_2_1) (aOf sWindows_2_1)
      (gOf sWindows_2_1) (xOf sWindows_2_1 iWindows_2_1) (eOf sWindows_2_1 iWindows_2_1) (pOf sWindows_2_1 iWindows_2_1)
    ∧ NoOpenOperand (Instr.call always (20 : BitVec 10) (Off.short (1048560 : BitVec 20))) (gOf sWindows_2_1)
      (xOf sWindows_2_1 iWindows_2_1) (eOf sWindows_2_1 iWindows_2_1)
    ∧ xOf sWindows_2_1 iWindows_2_1 ≠ []
    ∧ ((wOf sWindows_2_1).handler = none ∧
      (∀ (f : Fibre), f ∈ (wOf sWindows_2_1).bundle (aOf sWindows_2_1) → BitVec.toNat (20 : BitVec 10) ≤ f.n) ∧
        ∀ (f : Fibre), f ∈ xOf sWindows_2_1 iWindows_2_1 → f.links.length < 16) :=
  by
  refine @of_decide_eq_true _ (by letI := @decIssues; letI := @decNoOpen; infer_instance) ?_
  decide +kernel
def iWindows_2_2_1 : Instr := .callx always (.v 4) 24
def sWindows_2_2_1 : State := (fourAt iWindows_2_2_1 r4)
theorem witness_Windows_2_2_1 :
    Issues sWindows_2_2_1 (Instr.callx always (Reg.v (4 : Fin 608)) (24 : BitVec 10)) (wOf sWindows_2_2_1) (aOf sWindows_2_2_1)
      (gOf sWindows_2_2_1) (xOf sWindows_2_2_1 iWindows_2_2_1) (eOf sWindows_2_2_1 iWindows_2_2_1) (pOf sWindows_2_2_1 iWindows_2_2_1)
    ∧ NoOpenOperand (Instr.callx always (Reg.v (4 : Fin 608)) (24 : BitVec 10)) (gOf sWindows_2_2_1) (xOf sWindows_2_2_1 iWindows_2_2_1)
      (eOf sWindows_2_2_1 iWindows_2_2_1)
    ∧ xOf sWindows_2_2_1 iWindows_2_2_1 ≠ []
    ∧ ((wOf sWindows_2_2_1).handler = none ∧
      (∀ (f : Fibre), f ∈ (wOf sWindows_2_2_1).bundle (aOf sWindows_2_2_1) → BitVec.toNat (24 : BitVec 10) ≤ f.n) ∧
        ∀ (f : Fibre), f ∈ xOf sWindows_2_2_1 iWindows_2_2_1 → f.links.length < 16) :=
  by
  refine @of_decide_eq_true _ (by letI := @decIssues; letI := @decNoOpen; infer_instance) ?_
  decide +kernel
def iWindows_2_2_2 : Instr := .ret always
def sWindows_2_2_2 : State := (inCall (fourAt iWindows_2_2_2 r4))
theorem witness_Windows_2_2_2 :
    Issues sWindows_2_2_2 (Instr.ret always) (wOf sWindows_2_2_2) (aOf sWindows_2_2_2) (gOf sWindows_2_2_2) (xOf sWindows_2_2_2 iWindows_2_2_2)
      (eOf sWindows_2_2_2 iWindows_2_2_2) (pOf sWindows_2_2_2 iWindows_2_2_2)
    ∧ NoOpenOperand (Instr.ret always) (gOf sWindows_2_2_2) (xOf sWindows_2_2_2 iWindows_2_2_2) (eOf sWindows_2_2_2 iWindows_2_2_2)
    ∧ xOf sWindows_2_2_2 iWindows_2_2_2 ≠ []
    ∧ ((wOf sWindows_2_2_2).handler = none ∧
      (∀ (f : Fibre), f ∈ (wOf sWindows_2_2_2).bundle (aOf sWindows_2_2_2) → f.links ≠ [] ∨ f.depth ≠ (0 : Word)) ∧
        ∀ (f : Fibre), f ∈ xOf sWindows_2_2_2 iWindows_2_2_2 → f.links ≠ [] ∧ ∀ (q : Entry), q ∈ (wOf sWindows_2_2_2).queue → ¬f.lane ∈ q.left) :=
  by
  refine @of_decide_eq_true _ (by letI := @decIssues; letI := @decNoOpen; infer_instance) ?_
  decide +kernel
def sE := at_ (.enter always 25)
theorem witness_WindowTraps :
    Issues sE (Instr.enter always (25 : BitVec 10)) (wOf sE) (aOf sE) (gOf sE) (xOf sE (Instr.enter always (25 : BitVec 10))) [] []
    ∧ (w0 sE).fibres.headD default ∈ (wOf sE).bundle (aOf sE)
    ∧ ((wOf sE).handler ≠ none ∨
      BitVec.toNat (25 : BitVec 10) = 0 ∨ min ((gOf sE).a - (gOf sE).f) 608 < BitVec.toNat (25 : BitVec 10)) :=
  by
  refine @of_decide_eq_true _ (by letI := @decIssues; infer_instance) ?_
  decide +kernel
def sC := at_ (.call always 25 (.short 5))
theorem witness_WindowTrapsb :
    Issues sC (Instr.call always (25 : BitVec 10) (Off.short (5 : BitVec 20))) (wOf sC) (aOf sC) (gOf sC)
      (xOf sC (Instr.call always (25 : BitVec 10) (Off.short (5 : BitVec 20)))) [] []
    ∧ (w0 sC).fibres.headD default ∈ (wOf sC).bundle (aOf sC)
    ∧ ((wOf sC).handler ≠ none ∨ ((w0 sC).fibres.headD default).n < BitVec.toNat (25 : BitVec 10)) :=
  by
  refine @of_decide_eq_true _ (by letI := @decIssues; infer_instance) ?_
  decide +kernel
def sCx := at_ (.callx always (.v 0) 25)
theorem witness_WindowTrapsc :
    Issues sCx (Instr.callx always (Reg.v (0 : Fin 608)) (25 : BitVec 10)) (wOf sCx) (aOf sCx) (gOf sCx)
      (xOf sCx (Instr.callx always (Reg.v (0 : Fin 608)) (25 : BitVec 10))) [] []
    ∧ (w0 sCx).fibres.headD default ∈ (wOf sCx).bundle (aOf sCx)
    ∧ ((wOf sCx).handler ≠ none ∨ ((w0 sCx).fibres.headD default).n < BitVec.toNat (25 : BitVec 10)) :=
  by
  refine @of_decide_eq_true _ (by letI := @decIssues; infer_instance) ?_
  decide +kernel
def sR := at_ (.ret always)
theorem witness_WindowTrapsd :
    Issues sR (Instr.ret always) (wOf sR) (aOf sR) (gOf sR) (xOf sR (Instr.ret always)) [] []
    ∧ (w0 sR).fibres.headD default ∈ (wOf sR).bundle (aOf sR)
    ∧ ((wOf sR).handler ≠ none ∨ ((w0 sR).fibres.headD default).links = [] ∧ ((w0 sR).fibres.headD default).depth = (0 : Word)) :=
  by
  refine @of_decide_eq_true _ (by letI := @decIssues; infer_instance) ?_
  decide +kernel
def iF : Instr := .fork always (.v 2) (.short 3) (some 1)
def sF := at_ iF [(0, 5), (3, 9), (25, 4)]
theorem witness_ForkAndExit_1 :
    Issues sF (Instr.fork always (Reg.v (2 : Fin 608)) (Off.short (3 : BitVec 20)) (some (1 : Fin 4))) (wOf sF) (aOf sF) (gOf sF)
      [x0 sF iF] [] []
    ∧ NoOpenOperand (Instr.fork always (Reg.v (2 : Fin 608)) (Off.short (3 : BitVec 20)) (some (1 : Fin 4))) (gOf sF) [x0 sF iF] []
    ∧ hits (List.map (fun (p : Producer) => p.seen (wOf sF) (gOf sF) (x0 sF iF)) (sF.producers (wOf sF) (gOf sF) (x0 sF iF)))
        (List.map (fun (k : Nat) => ((x0 sF iF).b + k) % ((gOf sF).a - (gOf sF).f)) (List.range (x0 sF iF).n) ++
          List.map (fun (k : Nat) => (gOf sF).a - (gOf sF).f + k) (List.range (gOf sF).f))
        [] =
      false :=
  by
  refine @of_decide_eq_true _ (by letI := @decIssues; letI := @decNoOpen; infer_instance) ?_
  decide +kernel
def sF2 := byGroup (fun (g : Group) => { g with forkCtr := 0xFFFFFFFF }) sF
theorem witness_ForkAndExit_1b :
    Issues sF2 (Instr.fork always (Reg.v (2 : Fin 608)) (Off.short (3 : BitVec 20)) (some (1 : Fin 4))) (wOf sF2) (aOf sF2)
      (gOf sF2) [x0 sF2 iF] [] []
    ∧ NoOpenOperand (Instr.fork always (Reg.v (2 : Fin 608)) (Off.short (3 : BitVec 20)) (some (1 : Fin 4))) (gOf sF2) [x0 sF2 iF]
      []
    ∧ hits (List.map (fun (p : Producer) => p.seen (wOf sF2) (gOf sF2) (x0 sF2 iF)) (sF2.producers (wOf sF2) (gOf sF2) (x0 sF2 iF)))
        (List.map (fun (k : Nat) => ((x0 sF2 iF).b + k) % ((gOf sF2).a - (gOf sF2).f)) (List.range (x0 sF2 iF).n) ++
          List.map (fun (k : Nat) => (gOf sF2).a - (gOf sF2).f + k) (List.range (gOf sF2).f))
        [] =
      false :=
  by
  refine @of_decide_eq_true _ (by letI := @decIssues; letI := @decNoOpen; infer_instance) ?_
  decide +kernel
def c1eq : Guard := ⟨1, .eq⟩
def sX := byFibre (fun f => { f with c1 := { z := f.lane = 2 } }) (fourAt (.exit c1eq) r4)
theorem witness_ForkAndExit_2 :
    Issues sX (Instr.exit c1eq) (wOf sX) (aOf sX) (gOf sX) (xOf sX (Instr.exit c1eq)) [] []
    ∧ (∀ (f : Fibre),
      f ∈ xOf sX (Instr.exit c1eq) → (wOf sX).drained f = true ∧ sX.anyPending (wOf sX) (gOf sX) f = false ∧ sX.fragmentsOut (gOf sX) f = false) :=
  by
  refine @of_decide_eq_true _ (by letI := @decIssues; infer_instance) ?_
  decide +kernel
def iJe : Instr := .rjen always 3
def sJe := fourAt iJe r4
theorem witness_RejoinMasks_1 :
    Issues sJe (Instr.rjen always (3 : Fin 8)) (wOf sJe) (aOf sJe) (gOf sJe) (xOf sJe iJe) [] [] :=
  by
  refine @of_decide_eq_true _ (by letI := @decIssues; infer_instance) ?_
  decide +kernel

end W4

/-! ## Premises met: `Obligations.RejoinMasks` -/

namespace W5

def r4 (l : Nat) : Sparse Word := [(0, BitVec.ofNat 32 (5 * (l / 2))), (1, BitVec.ofNat 32 (l + 2)), (3, BitVec.ofNat 32 (0x3F800000 + l * 0x800000)), (4, BitVec.ofNat 32 (7 - l)),(5, BitVec.ofNat 32 (l*l))]
def c1eq : Guard := ⟨1, .eq⟩
def iJw : Instr := .rjwait always 3
def sJw := byWarp (fun w => { w with jms := [(3, { enr := [0,1,2], arr := [] })]}) (fourAt iJw r4)
theorem witness_RejoinMasks_2_1 :
    Issues sJw (Instr.rjwait always (3 : Fin 8)) (wOf sJw) (aOf sJw) (gOf sJw) (xOf sJw iJw) [] [] :=
  by
  refine @of_decide_eq_true _ (by letI := @decIssues; infer_instance) ?_
  decide +kernel
def iJw2 : Instr := .rjwait c1eq 3
def sJw2 := byFibre (fun f => { f with c1 := { z := f.lane = 2 } }) (byWarp (fun w => { w with jms := [(3, { enr := [0,1,2], arr := [] })]}) (fourAt iJw2 r4))
def iJs : Instr := .rjstrike c1eq 3
def sJs := byFibre (fun f => { f with c1 := { z := f.lane = 2 } }) (byWarp (fun w => { w with jms := [(3, { enr := [0,1,2], arr := [0,1,2] })]}) (fourAt iJs r4))

end W5

/-! ## Premises met: `Obligations.RejoinMasks` -/

namespace W5B

def r4 (l : Nat) : Sparse Word := [(0, BitVec.ofNat 32 (5 * (l / 2))), (1, BitVec.ofNat 32 (l + 2)), (3, BitVec.ofNat 32 (0x3F800000 + l * 0x800000)), (4, BitVec.ofNat 32 (7 - l)),(5, BitVec.ofNat 32 (l*l))]
def c1eq : Guard := ⟨1, .eq⟩
def iJw2 : Instr := .rjwait c1eq 3
def sJw2 := byFibre (fun f => { f with c1 := { z := f.lane = 2 } }) (byWarp (fun w => { w with jms := [(3, { enr := [0,1,2], arr := [] })]}) (fourAt iJw2 r4))
theorem witness_RejoinMasks_2_1 :
    Issues sJw2 (Instr.rjwait c1eq (3 : Fin 8)) (wOf sJw2) (aOf sJw2) (gOf sJw2) (xOf sJw2 iJw2) [] [] :=
  by
  refine @of_decide_eq_true _ (by letI := @decIssues; infer_instance) ?_
  decide +kernel

end W5B

/-! ## Premises met: `Obligations.Barriers` -/

namespace W5C

def r4 (l : Nat) : Sparse Word := [(0, BitVec.ofNat 32 (5 * (l / 2))), (1, BitVec.ofNat 32 (l + 2)), (3, BitVec.ofNat 32 (0x3F800000 + l * 0x800000)), (4, BitVec.ofNat 32 (7 - l)),(5, BitVec.ofNat 32 (l*l))]
def c1eq : Guard := ⟨1, .eq⟩
def iJs : Instr := .rjstrike c1eq 3
def pk (l : Nat) : Option Park := if l = 0 ∨ l = 1 then some { wait := .rejoin 3, at_ := { hdr := 4096, idx := 0, mid := true } } else none
def sJs := byFibre (fun f => { f with c1 := { z := f.lane = 2 }, park := pk f.lane }) (byWarp (fun w => { w with jms := [(3, { enr := [0,1,2], arr := [0,1] })]}) (fourAt iJs r4))
def iBa : Instr := .bara always (.v 1) 15
def sBa := at_ iBa [(1, 2)]
theorem witness_Barriers_1 :
    Issues sBa (Instr.bara always (Reg.v (1 : Fin 608)) (15 : Fin 16)) (wOf sBa) (aOf sBa) (gOf sBa) (xOf sBa iBa) [] []
    ∧ (∀ (f : Fibre), f ∈ xOf sBa iBa → sBa.allPerformed (wOf sBa) f = true) :=
  by
  refine @of_decide_eq_true _ (by letI := @decIssues; infer_instance) ?_
  decide +kernel
def iBw : Instr := .barw always 15
def iBs : Instr := .bars always (.v 1) 15
def sBa1 := byGroup (fun g => { g with bars := [(15, { phase := 4, arrivals := 1, expect := 2 })]}) sBa
def wait2 (wid : Nat) (g : Nat) : Warp := { wid := wid, gid := g, idx := 1, age := 1, role := .general, run := 64, remap := List.range 32, fibres := [{ soloFibre with id := 9, armed := [(15,4)], park := some { wait := .barrier 15 4, at_ := { hdr := 4096, idx := 0, mid := true } } }]}
def sBa2 := { sBa1 with warps := sBa1.warps ++ [wait2 1 0] }
theorem witness_Barriers_1b :
    Issues sBa2 (Instr.bara always (Reg.v (1 : Fin 608)) (15 : Fin 16)) (wOf sBa2) (aOf sBa2) (gOf sBa2) (xOf sBa2 iBa) [] []
    ∧ (∀ (f : Fibre), f ∈ xOf sBa2 iBa → sBa2.allPerformed (wOf sBa2) f = true) :=
  by
  refine @of_decide_eq_true _ (by letI := @decIssues; infer_instance) ?_
  decide +kernel
def sBa3 := byFibre (fun f => { f with armed := [(15,4)] }) sBa1
theorem witness_Barriers_1c :
    Issues sBa3 (Instr.bara always (Reg.v (1 : Fin 608)) (15 : Fin 16)) (wOf sBa3) (aOf sBa3) (gOf sBa3) (xOf sBa3 iBa) [] []
    ∧ (∀ (f : Fibre), f ∈ xOf sBa3 iBa → sBa3.allPerformed (wOf sBa3) f = true) :=
  by
  refine @of_decide_eq_true _ (by letI := @decIssues; infer_instance) ?_
  decide +kernel
def sBw := byGroup (fun g => { g with bars := [(15, { phase := 4, arrivals := 1, expect := 2 })]}) (byFibre (fun f => { f with armed := [(15,4)] }) (at_ iBw))
theorem witness_Barriers_2_1 :
    Issues sBw (Instr.barw always (15 : Fin 16)) (wOf sBw) (aOf sBw) (gOf sBw) (xOf sBw iBw) [] [] :=
  by
  refine @of_decide_eq_true _ (by letI := @decIssues; infer_instance) ?_
  decide +kernel
def sBw2 := byFibre (fun f => { f with armed := [(15,3)] }) sBw
theorem witness_Barriers_2_1b :
    Issues sBw2 (Instr.barw always (15 : Fin 16)) (wOf sBw2) (aOf sBw2) (gOf sBw2) (xOf sBw2 iBw) [] [] :=
  by
  refine @of_decide_eq_true _ (by letI := @decIssues; infer_instance) ?_
  decide +kernel
def sBs := byGroup (fun g => { g with bars := [(15, { phase := 4, arrivals := 1, expect := 2 })]}) (byFibre (fun f => { f with armed := [(15,3)] }) (at_ iBs [(1, 3)]))
theorem witness_Barriers_2_2 :
    Issues sBs (Instr.bars always (Reg.v (1 : Fin 608)) (15 : Fin 16)) (wOf sBs) (aOf sBs) (gOf sBs) (xOf sBs iBs) [] []
    ∧ (∀ (f : Fibre), f ∈ xOf sBs iBs → sBs.allPerformed (wOf sBs) f = true) :=
  by
  refine @of_decide_eq_true _ (by letI := @decIssues; infer_instance) ?_
  decide +kernel
def sBs2 := byGroup (fun g => { g with bars := [(15, { phase := 4, arrivals := 1, expect := 3 })]}) sBs
theorem witness_Barriers_2_2b :
    Issues sBs2 (Instr.bars always (Reg.v (1 : Fin 608)) (15 : Fin 16)) (wOf sBs2) (aOf sBs2) (gOf sBs2) (xOf sBs2 iBs) [] []
    ∧ (∀ (f : Fibre), f ∈ xOf sBs2 iBs → sBs2.allPerformed (wOf sBs2) f = true) :=
  by
  refine @of_decide_eq_true _ (by letI := @decIssues; infer_instance) ?_
  decide +kernel
def sBa4 := shared (fourAt iBa (fun _ => [(1, 2)]))
def sBa5 := { sBa4 with warps := sBa4.warps ++ [{ wait2 1 0 with fibres := [{ soloFibre with id := 9, armed := [(15,0)], park := some { wait := .barrier 15 0, at_ := { hdr := 4096, idx := 0, mid := true } } }]}], l1 := [{ core := 0, addr := 256, key := 0, bytes := [] }] }
theorem witness_Barriers_1d :
    Issues sBa5 (Instr.bara always (Reg.v (1 : Fin 608)) (15 : Fin 16)) (wOf sBa5) (aOf sBa5) (gOf sBa5) (xOf sBa5 iBa) [] []
    ∧ (∀ (f : Fibre), f ∈ xOf sBa5 iBa → sBa5.allPerformed (wOf sBa5) f = true) :=
  by
  refine @of_decide_eq_true _ (by letI := @decIssues; infer_instance) ?_
  decide +kernel
def sBs4 := byFibre (fun f => if f.lane = 1 then { f with armed := [(15,0)] } else if f.lane = 3 then { f with barred := some (15, 4, { hdr := 4096, idx := 0, mid := true }) } else f) (shared (fourAt iBs (fun _ => [(1, 2)])))
theorem witness_Barriers_2_2c :
    Issues sBs4 (Instr.bars always (Reg.v (1 : Fin 608)) (15 : Fin 16)) (wOf sBs4) (aOf sBs4) (gOf sBs4) (xOf sBs4 iBs) [] []
    ∧ (∀ (f : Fibre), f ∈ xOf sBs4 iBs → sBs4.allPerformed (wOf sBs4) f = true) :=
  by
  refine @of_decide_eq_true _ (by letI := @decIssues; infer_instance) ?_
  decide +kernel
def sBs5 := shared (fourAt iBs (fun _ => [(1, 3)]))
theorem witness_Barriers_2_2d :
    Issues sBs5 (Instr.bars always (Reg.v (1 : Fin 608)) (15 : Fin 16)) (wOf sBs5) (aOf sBs5) (gOf sBs5) (xOf sBs5 iBs) [] []
    ∧ (∀ (f : Fibre), f ∈ xOf sBs5 iBs → sBs5.allPerformed (wOf sBs5) f = true) :=
  by
  refine @of_decide_eq_true _ (by letI := @decIssues; infer_instance) ?_
  decide +kernel
-- WAITW
def iWw : Instr := .waitw always (.v 2) (.v 4) 1 .device .g .geu
def leafTlb (vp frame key : Nat) (w x : Bool := false) : TlbEntry := { place := .core 0, ctx := 0, page := vp, leaf := BitVec.ofNat 64 (1 + 4 + 8 + 16 * w.toNat + 32 * x.toNat + 1024 * key + 2^20 * frame), level := 3 }

end W5C

/-! ## Premises met: `Obligations.RejoinMasks` -/

namespace W5D

def r4 (l : Nat) : Sparse Word := [(0, BitVec.ofNat 32 (5 * (l / 2))), (1, BitVec.ofNat 32 (l + 2)), (3, BitVec.ofNat 32 (0x3F800000 + l * 0x800000)), (4, BitVec.ofNat 32 (7 - l)),(5, BitVec.ofNat 32 (l*l))]
def c1eq : Guard := ⟨1, .eq⟩
def iJs : Instr := .rjstrike c1eq 3
def pk (l : Nat) : Option Park := if l = 0 ∨ l = 1 then some { wait := .rejoin 3, at_ := { hdr := 4096, idx := 0, mid := true } } else none
def sJs := byFibre (fun f => { f with c1 := { z := f.lane = 2 }, park := pk f.lane }) (byWarp (fun w => { w with jms := [(3, { enr := [0,1,2], arr := [0,1] })]}) (fourAt iJs r4))
theorem witness_RejoinMasks_2_2 :
    Issues sJs (Instr.rjstrike c1eq (3 : Fin 8)) (wOf sJs) (aOf sJs) (gOf sJs) (xOf sJs iJs) [] [] :=
  by
  refine @of_decide_eq_true _ (by letI := @decIssues; infer_instance) ?_
  decide +kernel

end W5D

/-! ## Premises met: `Obligations.WordWait`, `Obligations.TrapEntryAndFrame`, `Obligations.TrapMasksAndRaising` -/

namespace W6

def r4 (l : Nat) : Sparse Word := [(0, BitVec.ofNat 32 (5 * (l / 2))), (1, BitVec.ofNat 32 (l + 2)), (3, BitVec.ofNat 32 (0x3F800000 + l * 0x800000)), (4, BitVec.ofNat 32 (7 - l)),(5, BitVec.ofNat 32 (l*l))]
def iWw : Instr := .waitw always (.v 2) (.v 4) 1 .device .g .geu
def sWw (v4 : Word) := bytesAt (5 * 65536 + 4) [7, 0, 0, 0] (mapped 1 0 5 0 (at_ iWw [(2, 0x10000), (4, v4)]))
theorem witness_WordWait_1 :
    Issues (sWw (7 : Word))
      (Instr.waitw always (Reg.v (2 : Fin 608)) (Reg.v (4 : Fin 608)) (1 : BitVec 10) Scope.device Space3.g WaitCmp.geu)
      (wOf (sWw (7 : Word))) (aOf (sWw (7 : Word))) (gOf (sWw (7 : Word))) (xOf (sWw (7 : Word)) iWw) [] []
    ∧ (∀ (f : Fibre),
      f ∈ xOf (sWw (7 : Word)) iWw →
        (sWw (7 : Word)).accessCause (wOf (sWw (7 : Word))) (gOf (sWw (7 : Word))) Space3.g.space
              (BitVec.ofInt 52
                  ((↑(BitVec.toNat (f.pair (gOf (sWw (7 : Word))) (Reg.v (2 : Fin 608)))) : Int) +
                    (4 : Int) * BitVec.toInt (1 : BitVec 10))).toNat
              4 =
            none ∧
          (Space3.g = Space3.g →
              (sWw (7 : Word)).renaming (wOf (sWw (7 : Word))).gid f.id ((aOf (sWw (7 : Word))).part.getD (sWw (7 : Word)).nextId)
                  [(BitVec.ofInt 52
                        ((↑(BitVec.toNat (f.pair (gOf (sWw (7 : Word))) (Reg.v (2 : Fin 608)))) : Int) +
                          (4 : Int) * BitVec.toInt (1 : BitVec 10))).toNat] =
                false) ∧
            (sWw (7 : Word)).ownBusy
                  ((sWw (7 : Word)).issueExec (wOf (sWw (7 : Word))) (aOf (sWw (7 : Word))) (gOf (sWw (7 : Word)))
                    (Instr.waitw always (Reg.v (2 : Fin 608)) (Reg.v (4 : Fin 608)) (1 : BitVec 10) Scope.device Space3.g
                      WaitCmp.geu)
                    (xOf (sWw (7 : Word)) iWw))
                  ((wOf (sWw (7 : Word))).laneIn (gOf (sWw (7 : Word)))
                    (Instr.waitw always (Reg.v (2 : Fin 608)) (Reg.v (4 : Fin 608)) (1 : BitVec 10) Scope.device Space3.g
                        WaitCmp.geu).shape
                    f)
                  Space3.g.space
                  (BitVec.ofInt 52
                      ((↑(BitVec.toNat (f.pair (gOf (sWw (7 : Word))) (Reg.v (2 : Fin 608)))) : Int) +
                        (4 : Int) * BitVec.toInt (1 : BitVec 10))).toNat
                  4 =
                false ∧
              ∃ (pa : Nat),
                ∃ (k : Nat),
                  (sWw (7 : Word)).translate (corePlaces ((wOf (sWw (7 : Word))).wid / 48)) (gOf (sWw (7 : Word))).ctx
                        (BitVec.ofInt 52
                            ((↑(BitVec.toNat (f.pair (gOf (sWw (7 : Word))) (Reg.v (2 : Fin 608)))) : Int) +
                              (4 : Int) * BitVec.toInt (1 : BitVec 10))).toNat
                        Access.read =
                      (Except.ok (pa, k), sWw (7 : Word)) ∧
                    (sWw (7 : Word)).poisoned pa 4 = false ∧
                      ((sWw (7 : Word)).readBytes k pa 4).snd = sWw (7 : Word) ∧
                        (7 : Word) = BitVec.ofNat 32 (natOf ((sWw (7 : Word)).readBytes k pa 4).fst)) :=
  by
  refine @of_decide_eq_true _ (by letI := @decIssues; letI := @decOkPair; infer_instance) ?_
  decide +kernel
theorem witness_WordWait_1b :
    Issues (sWw (8 : Word))
      (Instr.waitw always (Reg.v (2 : Fin 608)) (Reg.v (4 : Fin 608)) (1 : BitVec 10) Scope.device Space3.g WaitCmp.geu)
      (wOf (sWw (8 : Word))) (aOf (sWw (8 : Word))) (gOf (sWw (8 : Word))) (xOf (sWw (8 : Word)) iWw) [] []
    ∧ (∀ (f : Fibre),
      f ∈ xOf (sWw (8 : Word)) iWw →
        (sWw (8 : Word)).accessCause (wOf (sWw (8 : Word))) (gOf (sWw (8 : Word))) Space3.g.space
              (BitVec.ofInt 52
                  ((↑(BitVec.toNat (f.pair (gOf (sWw (8 : Word))) (Reg.v (2 : Fin 608)))) : Int) +
                    (4 : Int) * BitVec.toInt (1 : BitVec 10))).toNat
              4 =
            none ∧
          (Space3.g = Space3.g →
              (sWw (8 : Word)).renaming (wOf (sWw (8 : Word))).gid f.id ((aOf (sWw (8 : Word))).part.getD (sWw (8 : Word)).nextId)
                  [(BitVec.ofInt 52
                        ((↑(BitVec.toNat (f.pair (gOf (sWw (8 : Word))) (Reg.v (2 : Fin 608)))) : Int) +
                          (4 : Int) * BitVec.toInt (1 : BitVec 10))).toNat] =
                false) ∧
            (sWw (8 : Word)).ownBusy
                  ((sWw (8 : Word)).issueExec (wOf (sWw (8 : Word))) (aOf (sWw (8 : Word))) (gOf (sWw (8 : Word)))
                    (Instr.waitw always (Reg.v (2 : Fin 608)) (Reg.v (4 : Fin 608)) (1 : BitVec 10) Scope.device Space3.g
                      WaitCmp.geu)
                    (xOf (sWw (8 : Word)) iWw))
                  ((wOf (sWw (8 : Word))).laneIn (gOf (sWw (8 : Word)))
                    (Instr.waitw always (Reg.v (2 : Fin 608)) (Reg.v (4 : Fin 608)) (1 : BitVec 10) Scope.device Space3.g
                        WaitCmp.geu).shape
                    f)
                  Space3.g.space
                  (BitVec.ofInt 52
                      ((↑(BitVec.toNat (f.pair (gOf (sWw (8 : Word))) (Reg.v (2 : Fin 608)))) : Int) +
                        (4 : Int) * BitVec.toInt (1 : BitVec 10))).toNat
                  4 =
                false ∧
              ∃ (pa : Nat),
                ∃ (k : Nat),
                  (sWw (8 : Word)).translate (corePlaces ((wOf (sWw (8 : Word))).wid / 48)) (gOf (sWw (8 : Word))).ctx
                        (BitVec.ofInt 52
                            ((↑(BitVec.toNat (f.pair (gOf (sWw (8 : Word))) (Reg.v (2 : Fin 608)))) : Int) +
                              (4 : Int) * BitVec.toInt (1 : BitVec 10))).toNat
                        Access.read =
                      (Except.ok (pa, k), sWw (8 : Word)) ∧
                    (sWw (8 : Word)).poisoned pa 4 = false ∧
                      ((sWw (8 : Word)).readBytes k pa 4).snd = sWw (8 : Word) ∧
                        (7 : Word) = BitVec.ofNat 32 (natOf ((sWw (8 : Word)).readBytes k pa 4).fst)) :=
  by
  refine @of_decide_eq_true _ (by letI := @decIssues; letI := @decOkPair; infer_instance) ?_
  decide +kernel
def sWr (v4 : Word) (tm : Nat) := { byFibre (fun f => { f with park := some { wait := .word .geu .g .device v4 0x10004 1000, at_ := { hdr := 4096, idx := 0, mid := true } }}) (sWw 0) with time := tm }
theorem witness_WordWait_2 :
    (sWr (7 : Word) 1000).warp? ((sWr (7 : Word) 1000).warp? 0).get!.wid =
      some ((sWr (7 : Word) 1000).warp? 0).get!
    ∧ ((sWr (7 : Word) 1000).warp? 0).get!.fibre? 0 = some ((sWr (7 : Word) 1000).warp? 0).get!.fibres.head!
    ∧ (sWr (7 : Word) 1000).group? ((sWr (7 : Word) 1000).warp? 0).get!.gid = some (gOf (sWw (0 : Word)))
    ∧ ((sWr (7 : Word) 1000).warp? 0).get!.fibres.head!.park =
      some
        { wait := Wait.word WaitCmp.geu Space3.g Scope.device (7 : Word) 65540 1000,
          at_ := { hdr := (4096 : VAddr), mid := true : Pos } : Park }
    ∧ ((sWr (7 : Word) 1000).faults.any fun (r : FaultRec) =>
        r.fetchers.any fun (q : Nat × List Nat) =>
          decide (q.fst = ((sWr (7 : Word) 1000).warp? 0).get!.wid) && q.snd.contains 0) =
      false
    ∧ (∃ (pa : Nat),
      ∃ (k : Nat),
        (sWr (7 : Word) 1000).translate (corePlaces (((sWr (7 : Word) 1000).warp? 0).get!.wid / 48))
              (gOf (sWw (0 : Word))).ctx 65540 Access.read =
            (Except.ok (pa, k), sWr (7 : Word) 1000) ∧
          (sWr (7 : Word) 1000).poisoned pa 4 = false ∧
            ((sWr (7 : Word) 1000).readBytes k pa 4).snd = sWr (7 : Word) 1000 ∧
              (7 : Word) = BitVec.ofNat 32 (natOf ((sWr (7 : Word) 1000).readBytes k pa 4).fst)) :=
  by
  refine @of_decide_eq_true _ (by letI := @decOkPair; infer_instance) ?_
  decide +kernel
theorem witness_WordWait_2b :
    (sWr (8 : Word) 1001).warp? ((sWr (8 : Word) 1000).warp? 0).get!.wid =
      some ((sWr (8 : Word) 1000).warp? 0).get!
    ∧ ((sWr (8 : Word) 1000).warp? 0).get!.fibre? 0 = some ((sWr (8 : Word) 1000).warp? 0).get!.fibres.head!
    ∧ (sWr (8 : Word) 1001).group? ((sWr (8 : Word) 1000).warp? 0).get!.gid = some (gOf (sWw (0 : Word)))
    ∧ ((sWr (8 : Word) 1000).warp? 0).get!.fibres.head!.park =
      some
        { wait := Wait.word WaitCmp.geu Space3.g Scope.device (8 : Word) 65540 1000,
          at_ := { hdr := (4096 : VAddr), mid := true : Pos } : Park }
    ∧ ((sWr (8 : Word) 1001).faults.any fun (r : FaultRec) =>
        r.fetchers.any fun (q : Nat × List Nat) =>
          decide (q.fst = ((sWr (8 : Word) 1000).warp? 0).get!.wid) && q.snd.contains 0) =
      false
    ∧ (∃ (pa : Nat),
      ∃ (k : Nat),
        (sWr (8 : Word) 1001).translate (corePlaces (((sWr (8 : Word) 1000).warp? 0).get!.wid / 48))
              (gOf (sWw (0 : Word))).ctx 65540 Access.read =
            (Except.ok (pa, k), sWr (8 : Word) 1001) ∧
          (sWr (8 : Word) 1001).poisoned pa 4 = false ∧
            ((sWr (8 : Word) 1001).readBytes k pa 4).snd = sWr (8 : Word) 1001 ∧
              (7 : Word) = BitVec.ofNat 32 (natOf ((sWr (8 : Word) 1001).readBytes k pa 4).fst)) :=
  by
  refine @of_decide_eq_true _ (by letI := @decOkPair; infer_instance) ?_
  decide +kernel
-- traps
def tInfo : TrapInfo := { cause := { cls := 7, sub := 3, detail := 5, addr := 0x123456789 }, mask := [0, 2], hdr := 4096, idx := 2, words := [1,2,3] }
def sTe := byWarp (fun (w : Warp) => { w with spill := 0x20000, vec := 0x8000, enMask := 0x3FF }) (byFibre (fun f => { f with flags := [(2,3)], c1 := { z := true }, links := [{ pc := 0x2000, k := 20, nc := 24 }] }) (mapped 2 0 7 0 (fourAt (.nop always) r4)))
theorem witness_TrapEntry :
    sTe.warp? (wOf sTe).wid = some (wOf sTe)
    ∧ sTe.group? (wOf sTe).gid = some (gOf sTe) :=
  by decide +kernel
def sTe0 := fourAt (.nop always) r4
theorem witness_TrapEntryb :
    sTe0.warp? (wOf sTe0).wid = some (wOf sTe0)
    ∧ sTe0.group? (wOf sTe0).gid = some (gOf sTe0) :=
  by decide +kernel
def sTe1 := handling [] sTe0
theorem witness_TrapEntryc :
    sTe1.warp? (wOf sTe1).wid = some (wOf sTe1)
    ∧ sTe1.group? (wOf sTe1).gid = some (gOf sTe1) :=
  by decide +kernel
def sTq := byWarp (fun (w : Warp) => { w with queue := [waitingAdd] }) sTe
def iTrapMasks_1 : Instr := .tmask always (.vec (.v 0))
def sTrapMasks_1 : State := (fourAt iTrapMasks_1 (fun _ => [(0, 0xFFFFFFF8), (1, 0xFFFFF)]))
theorem witness_TrapMasks_1 :
    Issues sTrapMasks_1 (Instr.tmask always (TmaskOp.vec (Reg.v (0 : Fin 608)))) (wOf sTrapMasks_1) (aOf sTrapMasks_1) (gOf sTrapMasks_1)
      (xOf sTrapMasks_1 iTrapMasks_1) (eOf sTrapMasks_1 iTrapMasks_1) (pOf sTrapMasks_1 iTrapMasks_1)
    ∧ NoOpenOperand (Instr.tmask always (TmaskOp.vec (Reg.v (0 : Fin 608)))) (gOf sTrapMasks_1) (xOf sTrapMasks_1 iTrapMasks_1)
      (eOf sTrapMasks_1 iTrapMasks_1)
    ∧ xOf sTrapMasks_1 iTrapMasks_1 ≠ []
    ∧ (∀ (f : Fibre),
      (xOf sTrapMasks_1 iTrapMasks_1).getLast? = some f →
        BitVec.toNat (f.pair (gOf sTrapMasks_1) (Reg.v (0 : Fin 608))) % 8 = 0) :=
  by
  refine @of_decide_eq_true _ (by letI := @decAll; letI := @decIssues; letI := @decNoOpen; infer_instance) ?_
  decide +kernel
def iTrapMasks_2_1 : Instr := .tmask always (.en (.v 0))
def sTrapMasks_2_1 : State := (fourAt iTrapMasks_2_1 (fun _ => [(0, 0x7FE)]))
theorem witness_TrapMasks_2_1 :
    Issues sTrapMasks_2_1 (Instr.tmask always (TmaskOp.en (Reg.v (0 : Fin 608)))) (wOf sTrapMasks_2_1) (aOf sTrapMasks_2_1) (gOf sTrapMasks_2_1)
      (xOf sTrapMasks_2_1 iTrapMasks_2_1) (eOf sTrapMasks_2_1 iTrapMasks_2_1) (pOf sTrapMasks_2_1 iTrapMasks_2_1)
    ∧ NoOpenOperand (Instr.tmask always (TmaskOp.en (Reg.v (0 : Fin 608)))) (gOf sTrapMasks_2_1) (xOf sTrapMasks_2_1 iTrapMasks_2_1)
      (eOf sTrapMasks_2_1 iTrapMasks_2_1)
    ∧ xOf sTrapMasks_2_1 iTrapMasks_2_1 ≠ []
    ∧ (∀ (f : Fibre),
      (xOf sTrapMasks_2_1 iTrapMasks_2_1).getLast? = some f →
        BitVec.toNat (f.word (gOf sTrapMasks_2_1) (Reg.v (0 : Fin 608))) % 2 = 0 ∧
          BitVec.toNat (f.word (gOf sTrapMasks_2_1) (Reg.v (0 : Fin 608))) < 2 ^ 11) :=
  by
  refine @of_decide_eq_true _ (by letI := @decAll; letI := @decIssues; letI := @decNoOpen; infer_instance) ?_
  decide +kernel
def iTrapMasks_2_2_1 : Instr := .tmask always .hold
def sTrapMasks_2_2_1 : State := (fourAt iTrapMasks_2_2_1 r4)
theorem witness_TrapMasks_2_2_1 :
    Issues sTrapMasks_2_2_1 (Instr.tmask always TmaskOp.hold) (wOf sTrapMasks_2_2_1) (aOf sTrapMasks_2_2_1) (gOf sTrapMasks_2_2_1)
      (xOf sTrapMasks_2_2_1 iTrapMasks_2_2_1) (eOf sTrapMasks_2_2_1 iTrapMasks_2_2_1) (pOf sTrapMasks_2_2_1 iTrapMasks_2_2_1)
    ∧ NoOpenOperand (Instr.tmask always TmaskOp.hold) (gOf sTrapMasks_2_2_1) (xOf sTrapMasks_2_2_1 iTrapMasks_2_2_1) (eOf sTrapMasks_2_2_1 iTrapMasks_2_2_1)
    ∧ xOf sTrapMasks_2_2_1 iTrapMasks_2_2_1 ≠ [] :=
  by
  refine @of_decide_eq_true _ (by letI := @decIssues; letI := @decNoOpen; infer_instance) ?_
  decide +kernel
def iTrapMasks_2_2_2_1 : Instr := .tmask always .release
def sTrapMasks_2_2_2_1 : State := (handling [] (fourAt iTrapMasks_2_2_2_1 r4))
theorem witness_TrapMasks_2_2_2_1 :
    Issues sTrapMasks_2_2_2_1 (Instr.tmask always TmaskOp.release) (wOf sTrapMasks_2_2_2_1) (aOf sTrapMasks_2_2_2_1) (gOf sTrapMasks_2_2_2_1)
      (xOf sTrapMasks_2_2_2_1 iTrapMasks_2_2_2_1) (eOf sTrapMasks_2_2_2_1 iTrapMasks_2_2_2_1) (pOf sTrapMasks_2_2_2_1 iTrapMasks_2_2_2_1)
    ∧ NoOpenOperand (Instr.tmask always TmaskOp.release) (gOf sTrapMasks_2_2_2_1) (xOf sTrapMasks_2_2_2_1 iTrapMasks_2_2_2_1)
      (eOf sTrapMasks_2_2_2_1 iTrapMasks_2_2_2_1)
    ∧ xOf sTrapMasks_2_2_2_1 iTrapMasks_2_2_2_1 ≠ [] :=
  by
  refine @of_decide_eq_true _ (by letI := @decIssues; letI := @decNoOpen; infer_instance) ?_
  decide +kernel
def iTe : Instr := .tmask always (.en (.v 1))
def sTm := fourAt iTe r4
theorem witness_TrapMasks_2_2_2_2_1 :
    Issues sTm (Instr.tmask always (TmaskOp.en (Reg.v (1 : Fin 608)))) (wOf sTm) (aOf sTm) (gOf sTm) (xOf sTm iTe) [] []
    ∧ (∃ (f : Fibre),
      (xOf sTm iTe).getLast? = some f ∧
        (BitVec.toNat (f.word (gOf sTm) (Reg.v (1 : Fin 608))) % 2 ≠ 0 ∨
          2 ^ 11 ≤ BitVec.toNat (f.word (gOf sTm) (Reg.v (1 : Fin 608))))) :=
  by
  refine @of_decide_eq_true _ (by letI := @decIssues; letI := @decSome; infer_instance) ?_
  decide +kernel
def iTr : Instr := .trap always 1023
def sTr := fourAt iTr r4
def getT (s : State) (i : TrapInfo) : State := (s.takeTrap 0 i).get!
def inf (s : State) (n : Nat) : TrapInfo := { cause := { cls := 8, detail := n }, mask := (wOf s).fibres.map Fibre.lane, hdr := (aOf s).hdr, idx := (aOf s).idx, words := (aOf s).here }
theorem witness_UserTrap :
    Issues sTr (Instr.trap always (1023 : BitVec 10)) (wOf sTr) (aOf sTr) (gOf sTr) (xOf sTr iTr) [] []
    ∧ xOf sTr iTr ≠ []
    ∧ (∃ (t : State),
      (sTr.fresh.snd.onWarp (wOf sTr).wid Warp.advance).takeTrap (wOf sTr).wid
          { cause := { cls := 8, detail := BitVec.toNat (1023 : BitVec 10) : Cause }, mask := List.map Fibre.lane (xOf sTr iTr),
            hdr := (aOf sTr).hdr, idx := (aOf sTr).idx, words := (aOf sTr).here : TrapInfo } =
        some t) :=
  by
  refine @of_decide_eq_true _ (by letI := @decIs; letI := @decIssues; infer_instance) ?_
  decide +kernel
def sTr2 := byWarp (fun (w : Warp) => { w with spill := 0x20000, vec := 0x8000, enMask := 0x3FF }) (mapped 2 0 7 0 sTr)
theorem witness_UserTrapb :
    Issues sTr2 (Instr.trap always (1023 : BitVec 10)) (wOf sTr2) (aOf sTr2) (gOf sTr2) (xOf sTr2 iTr) [] []
    ∧ xOf sTr2 iTr ≠ []
    ∧ (∃ (t : State),
      (sTr2.fresh.snd.onWarp (wOf sTr2).wid Warp.advance).takeTrap (wOf sTr2).wid
          { cause := { cls := 8, detail := BitVec.toNat (1023 : BitVec 10) : Cause }, mask := List.map Fibre.lane (xOf sTr2 iTr),
            hdr := (aOf sTr2).hdr, idx := (aOf sTr2).idx, words := (aOf sTr2).here : TrapInfo } =
        some t) :=
  by
  refine @of_decide_eq_true _ (by letI := @decIs; letI := @decIssues; infer_instance) ?_
  decide +kernel

end W6

/-! ## Premises met: `Obligations.TrapReturn`, `Obligations.Reinjection`, `Obligations.IssueAndDeferral`, `Obligations.Replay`,
`Obligations.ClauseStarts` -/

namespace W7

def r4 (l : Nat) : Sparse Word := [(0, BitVec.ofNat 32 (5 * (l / 2))), (1, BitVec.ofNat 32 (l + 2)), (3, BitVec.ofNat 32 (0x3F800000 + l * 0x800000)), (4, BitVec.ofNat 32 (7 - l)),(5, BitVec.ofNat 32 (l*l))]
def c1eq : Guard := ⟨1, .eq⟩
def iTr : Instr := .tret always
-- frame at 0x20000, lane records at +0x100
def frameBytes : List Byte := [0x40, 0x11, 0, 0, 0, 0, 0, 0] ++ [0, 0x60, 0, 0x20]
def sTr := bytesAt (7 * 65536 + 0x100) frameBytes (mapped 2 0 7 0 (handling [] (fourAt iTr r4)))
theorem witness_TrapReturn_1 :
    Issues sTr (Instr.tret always) (wOf sTr) (aOf sTr) (gOf sTr) (xOf sTr iTr) [] []
    ∧ xOf sTr iTr ≠ []
    ∧ (wOf sTr).handler = some (wOf sTr).handler.get!
    ∧ (∀ (f : Fibre), f ∈ xOf sTr iTr → sTr.handlerOwes (wOf sTr) f Op.isAccess = false) :=
  by
  refine @of_decide_eq_true _ (by letI := @decIssues; infer_instance) ?_
  decide +kernel
def sTr0 := fourAt iTr r4
theorem witness_TrapReturn_2_1 :
    Issues sTr0 (Instr.tret always) (wOf sTr0) (aOf sTr0) (gOf sTr0) (xOf sTr0 iTr) [] []
    ∧ (wOf sTr0).bundle (aOf sTr0) ≠ []
    ∧ (wOf sTr0).handler = none :=
  by
  refine @of_decide_eq_true _ (by letI := @decIssues; infer_instance) ?_
  decide +kernel
def iRi : Instr := .rinj always (.v 4) false
def sRi0 := fourAt iRi r4
theorem witness_TrapReturn_2_2 :
    Issues sRi0 (Instr.rinj always (Reg.v (4 : Fin 608)) false) (wOf sRi0) (aOf sRi0) (gOf sRi0) (xOf sRi0 iRi) [] []
    ∧ (wOf sRi0).bundle (aOf sRi0) ≠ []
    ∧ (wOf sRi0).handler = none :=
  by
  refine @of_decide_eq_true _ (by letI := @decIssues; infer_instance) ?_
  decide +kernel
def sRi1 := handling [] sRi0
theorem witness_Reinjection :
    Issues sRi1 (Instr.rinj always (Reg.v (4 : Fin 608)) false) (wOf sRi1) (aOf sRi1) (gOf sRi1)
      (x0 sRi1 iRi :: List.drop 1 (xOf sRi1 iRi)) [] []
    ∧ (wOf sRi1).handler = some (wOf sRi1).handler.get! :=
  by
  refine @of_decide_eq_true _ (by letI := @decIssues; infer_instance) ?_
  decide +kernel
def iRi2 : Instr := .rinj always (.v 0) false
def sRi2 := handling [(3, 0)] (byWarp (fun (w : Warp) => { w with queue := [{ waitingAdd with left := [0], flag := some 2 }, { waitingAdd with seq := 4 }] }) (byFibre (fun f => { f with flags := [(2, 3)] }) (fourAt iRi2 r4)))
theorem witness_Reinjectionb :
    Issues sRi2 (Instr.rinj always (Reg.v (0 : Fin 608)) false) (wOf sRi2) (aOf sRi2) (gOf sRi2)
      (x0 sRi2 iRi2 :: List.drop 1 (xOf sRi2 iRi2)) [] []
    ∧ (wOf sRi2).handler = some (wOf sRi2).handler.get! :=
  by
  refine @of_decide_eq_true _ (by letI := @decIssues; infer_instance) ?_
  decide +kernel
def iRi3 : Instr := .rinj always (.v 0) true
def sRi3 := bytesAt (7 * 65536 + 0x174) [1] (bytesAt (7 * 65536 + 0xF0) [77] (bytesAt (7 * 65536 + 0x18) [1] (tabled [(2, 0, 7)] (handling [(3, 0)] (byWarp (fun (w : Warp) => { w with queue := [{ waitingAdd with left := [0], flag := some 2 }, { waitingAdd with seq := 4 }] }) (byFibre (fun f => { f with flags := [(2, 3)] }) (fourAt iRi3 r4)))))))
theorem witness_Reinjectionc :
    Issues sRi3 (Instr.rinj always (Reg.v (0 : Fin 608)) true) (wOf sRi3) (aOf sRi3) (gOf sRi3)
      (x0 sRi3 iRi3 :: List.drop 1 (xOf sRi3 iRi3)) [] []
    ∧ (wOf sRi3).handler = some (wOf sRi3).handler.get! :=
  by
  refine @of_decide_eq_true _ (by letI := @decIssues; infer_instance) ?_
  decide +kernel
-- deferral
def iAd : Instr := .iadd c1eq (.v 5) (.v 3) (.reg (.v 4)) false none
def sAd (m : BitVec 2) := { byWarp (fun (w : Warp) => { w with mode := m, modeNext := m }) (byFibre (fun f => { f with c1 := { z := f.lane ≠ 2 } }) (fourAt iAd r4)) with ops := [loadOp] }
theorem witness_IssueOrDefer :
    (aOf (sAd (1 : BitVec 2))).sent = []
    ∧ iAd.shape.op ≠ 133 :=
  by decide +kernel
theorem witness_IssueOrDeferb :
    (aOf (sAd (0 : BitVec 2))).sent = [] :=
  by decide +kernel
def full (s : State) := byWarp (fun (w : Warp) => { w with queue := (List.range 4).map (fun k => { waitingAdd with seq := k, mask := [3], left := [3] }) }) s
theorem witness_IssueOrDeferc :
    (aOf (full (sAd (1 : BitVec 2)))).sent = []
    ∧ iAd.shape.op ≠ 133 :=
  by decide +kernel
theorem witness_IssueOrDeferd :
    (aOf (full (sAd (3 : BitVec 2)))).sent = []
    ∧ iAd.shape.op ≠ 133 :=
  by decide +kernel
def iMw : Instr := .mwait always none
def sMw := { byWarp (fun (w : Warp) => { w with mode := 1, modeNext := 1 }) (fourAt iMw r4) with ops := [loadOp] }
theorem witness_IssueOrDefere :
    (aOf sMw).sent = []
    ∧ iMw.shape.op ≠ 133 :=
  by decide +kernel
theorem witness_DeferredEntry :
    Issues (sAd (1 : BitVec 2))
      (Instr.iadd c1eq (Reg.v (5 : Fin 608)) (Reg.v (3 : Fin 608)) (Src.reg (Reg.v (4 : Fin 608))) false none)
      (wOf (sAd (1 : BitVec 2))) (aOf (sAd (1 : BitVec 2))) (gOf (sAd (1 : BitVec 2))) (xOf (sAd (1 : BitVec 2)) iAd)
      ((eOf (sAd (1 : BitVec 2)) iAd).head! :: (eOf (sAd (1 : BitVec 2)) iAd).tail!) (pOf (sAd (1 : BitVec 2)) iAd)
    ∧ NoOpenOperand (Instr.iadd c1eq (Reg.v (5 : Fin 608)) (Reg.v (3 : Fin 608)) (Src.reg (Reg.v (4 : Fin 608))) false none)
      (gOf (sAd (1 : BitVec 2))) (xOf (sAd (1 : BitVec 2)) iAd)
      ((eOf (sAd (1 : BitVec 2)) iAd).head! :: (eOf (sAd (1 : BitVec 2)) iAd).tail!)
    ∧ (∀ (f : Fibre),
      f ∈ xOf (sAd (1 : BitVec 2)) iAd →
        ∀ (k : Fibre), k ∈ (eOf (sAd (1 : BitVec 2)) iAd).head! :: (eOf (sAd (1 : BitVec 2)) iAd).tail! → f.lane ≠ k.lane)
    ∧ (List.map Fibre.lane ((eOf (sAd (1 : BitVec 2)) iAd).head! :: (eOf (sAd (1 : BitVec 2)) iAd).tail!)).Nodup :=
  by
  refine @of_decide_eq_true _ (by letI := @decIssues; letI := @decNoOpen; infer_instance) ?_
  decide +kernel
-- replay
def sRe := byWarp (fun (w : Warp) => { w with queue := [waitingAdd, { waitingAdd with seq := 9, left := [2], mask := [2] }] }) (fourAt (.nop always) r4)
theorem witness_Replay :
    sRe.warp? (wOf sRe).wid = some (wOf sRe)
    ∧ sRe.group? (wOf sRe).gid = some (gOf sRe)
    ∧ (wOf sRe).fibre? (wOf sRe).fibres.head!.lane = some (wOf sRe).fibres.head!
    ∧ (wOf sRe).replays = true
    ∧ (wOf sRe).handler = none
    ∧ waitingAdd.instr = Instr.iadd always (Reg.v (5 : Fin 608)) (Reg.v (3 : Fin 608)) (Src.reg (Reg.v (4 : Fin 608))) false none
    ∧ waitingAdd.flag = none
    ∧ waitingAdd.spoil = []
    ∧ List.filter (fun (k : Entry) => decide (k.seq = waitingAdd.seq)) (wOf sRe).queue = [waitingAdd]
    ∧ List.find? (fun (k : Entry) => sRe.headReady (wOf sRe) (gOf sRe) k (wOf sRe).fibres.head!.lane) (wOf sRe).queue = some waitingAdd
    ∧ sRe.readyLanes (wOf sRe) (gOf sRe) waitingAdd = [(wOf sRe).fibres.head!.lane]
    ∧ (wOf sRe).fibres.head!.lane ∈ (wOf sRe).remap
    ∧ sRe.replayFirst (wOf sRe) waitingAdd = true :=
  by decide +kernel
def waitG := { waitingAdd with instr := .iadd c1eq (.v 5) (.v 3) (.reg (.v 4)) false none, gpend := [0] }
def sRg := byWarp (fun (w : Warp) => { w with queue := [waitG] }) (fourAt (.nop always) r4)
theorem witness_Replayb :
    sRg.warp? (wOf sRg).wid = some (wOf sRg)
    ∧ sRg.group? (wOf sRg).gid = some (gOf sRg)
    ∧ (wOf sRg).fibre? (wOf sRg).fibres.head!.lane = some (wOf sRg).fibres.head!
    ∧ (wOf sRg).replays = true
    ∧ (wOf sRg).handler = none
    ∧ waitG.instr = Instr.iadd c1eq (Reg.v (5 : Fin 608)) (Reg.v (3 : Fin 608)) (Src.reg (Reg.v (4 : Fin 608))) false none
    ∧ waitG.flag = none
    ∧ waitG.spoil = []
    ∧ List.filter (fun (k : Entry) => decide (k.seq = waitG.seq)) (wOf sRg).queue = [waitG]
    ∧ List.find? (fun (k : Entry) => sRg.headReady (wOf sRg) (gOf sRg) k (wOf sRg).fibres.head!.lane) (wOf sRg).queue = some waitG
    ∧ sRg.readyLanes (wOf sRg) (gOf sRg) waitG = [(wOf sRg).fibres.head!.lane]
    ∧ (wOf sRg).fibres.head!.lane ∈ (wOf sRg).remap
    ∧ sRg.replayFirst (wOf sRg) waitG = true :=
  by decide +kernel
-- clause start
def nopClause : List Byte := bytesOf 8 (soloHeader 1).toNat ++ bytesOf 4 (((encode .nopShort).headD 0).toNat)
def sCl := bytesAt (5 * 65536) nopClause (mapped 1 0 5 0 (byFibre (fun f => { f with pos := { hdr := 0x10000 } }) (byWarp (fun (w : Warp) => { w with active := none, holder := none, prio := true, passed := 9, modeNext := 1 }) { fourAt .nopShort r4 with cur := none })))
def wCl := (sCl.warp? 0).get!
def c2 := sCl.onWarp 0 (fun q => q.take wCl.fibres sCl.clock)
def c3 := c2.fetchBytes (wCl.take wCl.fibres sCl.clock) (gOf { sCl with cur := some 0 }) 0x10000 8 none
def c4 := c3.2.fetchBytes (wCl.take wCl.fibres sCl.clock) (gOf { sCl with cur := some 0 }) 0x10008 4 (some 1024)
theorem witness_ClauseStart :
    List.filter (fun (q : Warp) => decide (q.wid / 48 = 0) && decide (q.wid % 48 / 12 = 0) && sCl.startable q)
        sCl.warps =
      [wCl]
    ∧ sCl.warp? wCl.wid = some wCl
    ∧ sCl.nextBundle wCl = some (wCl.fibres.head! :: wCl.fibres.tail!)
    ∧ sCl.group? wCl.gid =
      some
        (gOf
          (let __src := sCl;
          { agenda := __src.agenda, freeCtr := __src.freeCtr, cur := some 0, clock := __src.clock, time := __src.time, wall := __src.wall,
            nextId := __src.nextId, mem := __src.mem, unitKey := __src.unitKey, scrambled := __src.scrambled, owner := __src.owner,
            poison := __src.poison, devWritten := __src.devWritten, keyGen := __src.keyGen, l1 := __src.l1, icache := __src.icache, tlb := __src.tlb,
            ctxs := __src.ctxs, nodes := __src.nodes, groups := __src.groups, warps := __src.warps, ops := __src.ops, cores := __src.cores,
            wadi := __src.wadi, faults := __src.faults, saved := __src.saved, scans := __src.scans, memStacks := __src.memStacks, dev := __src.dev :
            State }))
    ∧ BitVec.toNat wCl.fibres.head!.pos.hdr % 8 = 0
    ∧ (sCl.onWarp wCl.wid fun (q : Warp) => q.take (wCl.fibres.head! :: wCl.fibres.tail!) sCl.clock).fetchBytes
        (wCl.take (wCl.fibres.head! :: wCl.fibres.tail!) sCl.clock)
        (gOf
          (let __src := sCl;
          { agenda := __src.agenda, freeCtr := __src.freeCtr, cur := some 0, clock := __src.clock, time := __src.time, wall := __src.wall,
            nextId := __src.nextId, mem := __src.mem, unitKey := __src.unitKey, scrambled := __src.scrambled, owner := __src.owner,
            poison := __src.poison, devWritten := __src.devWritten, keyGen := __src.keyGen, l1 := __src.l1, icache := __src.icache, tlb := __src.tlb,
            ctxs := __src.ctxs, nodes := __src.nodes, groups := __src.groups, warps := __src.warps, ops := __src.ops, cores := __src.cores,
            wadi := __src.wadi, faults := __src.faults, saved := __src.saved, scans := __src.scans, memStacks := __src.memStacks, dev := __src.dev :
            State }))
        (BitVec.toNat wCl.fibres.head!.pos.hdr) 8 none =
      (Except.ok (bytesOf 8 (BitVec.toNat (soloHeader 1))), c3.snd)
    ∧ headerFault wCl.fibres.head!.pos.hdr (BitVec.ofNat 64 (natOf (bytesOf 8 (BitVec.toNat (soloHeader 1))))) = none
    ∧ c3.snd.fetchBytes (wCl.take (wCl.fibres.head! :: wCl.fibres.tail!) sCl.clock)
        (gOf
          (let __src := sCl;
          { agenda := __src.agenda, freeCtr := __src.freeCtr, cur := some 0, clock := __src.clock, time := __src.time, wall := __src.wall,
            nextId := __src.nextId, mem := __src.mem, unitKey := __src.unitKey, scrambled := __src.scrambled, owner := __src.owner,
            poison := __src.poison, devWritten := __src.devWritten, keyGen := __src.keyGen, l1 := __src.l1, icache := __src.icache, tlb := __src.tlb,
            ctxs := __src.ctxs, nodes := __src.nodes, groups := __src.groups, warps := __src.warps, ops := __src.ops, cores := __src.cores,
            wadi := __src.wadi, faults := __src.faults, saved := __src.saved, scans := __src.scans, memStacks := __src.memStacks, dev := __src.dev :
            State }))
        (BitVec.toNat wCl.fibres.head!.pos.hdr + 8)
        (4 *
          ((BitVec.ofNat 64 (natOf (bytesOf 8 (BitVec.toNat (soloHeader 1))))).toNat / 2 ^ 32 % 64 -
            2))
        (some (BitVec.toNat wCl.fibres.head!.pos.hdr / 64)) =
      (Except.ok (bytesOf 4 (BitVec.toNat ((encode Instr.nopShort).headD (0 : Word)))), c4.snd)
    ∧ bodyFault (BitVec.ofNat 64 (natOf (bytesOf 8 (BitVec.toNat (soloHeader 1)))))
        (wordsOfBytes (bytesOf 4 (BitVec.toNat ((encode Instr.nopShort).headD (0 : Word))))) =
      none
    ∧ wCl.fibres.head!.pos.idx ≤ (BitVec.ofNat 64 (natOf (bytesOf 8 (BitVec.toNat (soloHeader 1))))).toNat / 32 % 16
    ∧ (wCl.fibres.head!.pos.mid = true ∨
      wCl.handler ≠ none ∨
        ∀ (k : Fibre),
          k ∈ wCl.fibres.head! :: wCl.fibres.tail! →
            k.allFit
                (gOf
                  (let __src := sCl;
                  { agenda := __src.agenda, freeCtr := __src.freeCtr, cur := some 0, clock := __src.clock, time := __src.time,
                    wall := __src.wall, nextId := __src.nextId, mem := __src.mem, unitKey := __src.unitKey, scrambled := __src.scrambled,
                    owner := __src.owner, poison := __src.poison, devWritten := __src.devWritten, keyGen := __src.keyGen, l1 := __src.l1,
                    icache := __src.icache, tlb := __src.tlb, ctxs := __src.ctxs, nodes := __src.nodes, groups := __src.groups, warps := __src.warps,
                    ops := __src.ops, cores := __src.cores, wadi := __src.wadi, faults := __src.faults, saved := __src.saved, scans := __src.scans,
                    memStacks := __src.memStacks, dev := __src.dev : State }))
                (clauseWindow (BitVec.ofNat 64 (natOf (bytesOf 8 (BitVec.toNat (soloHeader 1)))))
                  (wordsOfBytes (bytesOf 4 (BitVec.toNat ((encode Instr.nopShort).headD (0 : Word))))) k) =
              true) :=
  by
  refine @of_decide_eq_true _ (by letI := @decOkEq; infer_instance) ?_
  decide +kernel
def sMf := byFibre (fun f => { f with pos := { hdr := 0x10004 } }) sCl
def wMf := (sMf.warp? 0).get!
theorem witness_MalformedClause_1 :
    List.filter (fun (q : Warp) => decide (q.wid / 48 = 0) && decide (q.wid % 48 / 12 = 0) && sMf.startable q)
        sMf.warps =
      [wMf]
    ∧ sMf.nextBundle wMf = some (wMf.fibres.head! :: wMf.fibres.tail!)
    ∧ sMf.group? wMf.gid =
      some
        (gOf
          (let __src := sMf;
          { agenda := __src.agenda, freeCtr := __src.freeCtr, cur := some 0, clock := __src.clock, time := __src.time, wall := __src.wall,
            nextId := __src.nextId, mem := __src.mem, unitKey := __src.unitKey, scrambled := __src.scrambled, owner := __src.owner,
            poison := __src.poison, devWritten := __src.devWritten, keyGen := __src.keyGen, l1 := __src.l1, icache := __src.icache, tlb := __src.tlb,
            ctxs := __src.ctxs, nodes := __src.nodes, groups := __src.groups, warps := __src.warps, ops := __src.ops, cores := __src.cores,
            wadi := __src.wadi, faults := __src.faults, saved := __src.saved, scans := __src.scans, memStacks := __src.memStacks, dev := __src.dev :
            State }))
    ∧ BitVec.toNat wMf.fibres.head!.pos.hdr % 8 ≠ 0
    ∧ (∃ (t : State),
      (sMf.onWarp wMf.wid fun (q : Warp) => q.take (wMf.fibres.head! :: wMf.fibres.tail!) sMf.clock).takeTrap wMf.wid
          { cause := { cls := 2, sub := 1, addr := BitVec.toNat wMf.fibres.head!.pos.hdr : Cause },
            mask := wMf.byVlane (List.map Fibre.lane (wMf.fibres.head! :: wMf.fibres.tail!)), hdr := wMf.fibres.head!.pos.hdr : TrapInfo } =
        some t) :=
  by
  refine @of_decide_eq_true _ (by letI := @decIs; infer_instance) ?_
  decide +kernel
def badH : List Byte := bytesOf 8 ((soloHeader 1).toNat + 6 * 4)
def badB : List Byte := bytesOf 8 ((soloHeader 1).toNat + 32) ++ bytesOf 4 (((encode .nopShort).headD 0).toNat)
def sMh := bytesAt (5 * 65536) badH (mapped 1 0 5 0 (byFibre (fun f => { f with pos := { hdr := 0x10000 } }) (byWarp (fun (w : Warp) => { w with active := none, holder := none, prio := true, passed := 9, modeNext := 1 }) { fourAt .nopShort r4 with cur := none })))
def wMh := (sMh.warp? 0).get!
def m2 := sMh.onWarp 0 (fun q => q.take wMh.fibres sMh.clock)
def m3 := m2.fetchBytes (wMh.take wMh.fibres sMh.clock) (gOf { sMh with cur := some 0 }) 0x10000 8 none
theorem witness_MalformedClause_1b :
    List.filter (fun (q : Warp) => decide (q.wid / 48 = 0) && decide (q.wid % 48 / 12 = 0) && sMh.startable q)
        sMh.warps =
      [wMh]
    ∧ sMh.nextBundle wMh = some (wMh.fibres.head! :: wMh.fibres.tail!)
    ∧ sMh.group? wMh.gid =
      some
        (gOf
          (let __src := sMh;
          { agenda := __src.agenda, freeCtr := __src.freeCtr, cur := some 0, clock := __src.clock, time := __src.time, wall := __src.wall,
            nextId := __src.nextId, mem := __src.mem, unitKey := __src.unitKey, scrambled := __src.scrambled, owner := __src.owner,
            poison := __src.poison, devWritten := __src.devWritten, keyGen := __src.keyGen, l1 := __src.l1, icache := __src.icache, tlb := __src.tlb,
            ctxs := __src.ctxs, nodes := __src.nodes, groups := __src.groups, warps := __src.warps, ops := __src.ops, cores := __src.cores,
            wadi := __src.wadi, faults := __src.faults, saved := __src.saved, scans := __src.scans, memStacks := __src.memStacks, dev := __src.dev :
            State }))
    ∧ BitVec.toNat wMh.fibres.head!.pos.hdr % 8 = 0
    ∧ (sMh.onWarp wMh.wid fun (q : Warp) => q.take (wMh.fibres.head! :: wMh.fibres.tail!) sMh.clock).fetchBytes
        (wMh.take (wMh.fibres.head! :: wMh.fibres.tail!) sMh.clock)
        (gOf
          (let __src := sMh;
          { agenda := __src.agenda, freeCtr := __src.freeCtr, cur := some 0, clock := __src.clock, time := __src.time, wall := __src.wall,
            nextId := __src.nextId, mem := __src.mem, unitKey := __src.unitKey, scrambled := __src.scrambled, owner := __src.owner,
            poison := __src.poison, devWritten := __src.devWritten, keyGen := __src.keyGen, l1 := __src.l1, icache := __src.icache, tlb := __src.tlb,
            ctxs := __src.ctxs, nodes := __src.nodes, groups := __src.groups, warps := __src.warps, ops := __src.ops, cores := __src.cores,
            wadi := __src.wadi, faults := __src.faults, saved := __src.saved, scans := __src.scans, memStacks := __src.memStacks, dev := __src.dev :
            State }))
        (BitVec.toNat wMh.fibres.head!.pos.hdr) 8 none =
      (Except.ok badH, m3.snd)
    ∧ headerFault wMh.fibres.head!.pos.hdr (BitVec.ofNat 64 (natOf badH)) = some 2
    ∧ (∃ (t : State),
      m3.snd.takeTrap wMh.wid
          { cause := { cls := 2, sub := 2, addr := BitVec.toNat wMh.fibres.head!.pos.hdr : Cause },
            mask := wMh.byVlane (List.map Fibre.lane (wMh.fibres.head! :: wMh.fibres.tail!)), hdr := wMh.fibres.head!.pos.hdr : TrapInfo } =
        some t) :=
  by
  refine @of_decide_eq_true _ (by letI := @decIs; letI := @decOkEq; infer_instance) ?_
  decide +kernel
def sMb := bytesAt (5 * 65536) badB (mapped 1 0 5 0 (byFibre (fun f => { f with pos := { hdr := 0x10000 } }) (byWarp (fun (w : Warp) => { w with active := none, holder := none, prio := true, passed := 9, modeNext := 1 }) { fourAt .nopShort r4 with cur := none })))
def wMb := (sMb.warp? 0).get!
def b3 := (sMb.onWarp 0 (fun q => q.take wMb.fibres sMb.clock)).fetchBytes (wMb.take wMb.fibres sMb.clock) (gOf { sMb with cur := some 0 }) 0x10000 8 none
def b4 := b3.2.fetchBytes (wMb.take wMb.fibres sMb.clock) (gOf { sMb with cur := some 0 }) 0x10008 4 (some 1024)
theorem witness_MalformedClause_1c :
    List.filter (fun (q : Warp) => decide (q.wid / 48 = 0) && decide (q.wid % 48 / 12 = 0) && sMb.startable q)
        sMb.warps =
      [wMb]
    ∧ sMb.nextBundle wMb = some (wMb.fibres.head! :: wMb.fibres.tail!)
    ∧ sMb.group? wMb.gid =
      some
        (gOf
          (let __src := sMb;
          { agenda := __src.agenda, freeCtr := __src.freeCtr, cur := some 0, clock := __src.clock, time := __src.time, wall := __src.wall,
            nextId := __src.nextId, mem := __src.mem, unitKey := __src.unitKey, scrambled := __src.scrambled, owner := __src.owner,
            poison := __src.poison, devWritten := __src.devWritten, keyGen := __src.keyGen, l1 := __src.l1, icache := __src.icache, tlb := __src.tlb,
            ctxs := __src.ctxs, nodes := __src.nodes, groups := __src.groups, warps := __src.warps, ops := __src.ops, cores := __src.cores,
            wadi := __src.wadi, faults := __src.faults, saved := __src.saved, scans := __src.scans, memStacks := __src.memStacks, dev := __src.dev :
            State }))
    ∧ BitVec.toNat wMb.fibres.head!.pos.hdr % 8 = 0
    ∧ (sMb.onWarp wMb.wid fun (q : Warp) => q.take (wMb.fibres.head! :: wMb.fibres.tail!) sMb.clock).fetchBytes
        (wMb.take (wMb.fibres.head! :: wMb.fibres.tail!) sMb.clock)
        (gOf
          (let __src := sMb;
          { agenda := __src.agenda, freeCtr := __src.freeCtr, cur := some 0, clock := __src.clock, time := __src.time, wall := __src.wall,
            nextId := __src.nextId, mem := __src.mem, unitKey := __src.unitKey, scrambled := __src.scrambled, owner := __src.owner,
            poison := __src.poison, devWritten := __src.devWritten, keyGen := __src.keyGen, l1 := __src.l1, icache := __src.icache, tlb := __src.tlb,
            ctxs := __src.ctxs, nodes := __src.nodes, groups := __src.groups, warps := __src.warps, ops := __src.ops, cores := __src.cores,
            wadi := __src.wadi, faults := __src.faults, saved := __src.saved, scans := __src.scans, memStacks := __src.memStacks, dev := __src.dev :
            State }))
        (BitVec.toNat wMb.fibres.head!.pos.hdr) 8 none =
      (Except.ok (List.take 8 badB), b3.snd)
    ∧ headerFault wMb.fibres.head!.pos.hdr (BitVec.ofNat 64 (natOf (List.take 8 badB))) = none
    ∧ b3.snd.fetchBytes (wMb.take (wMb.fibres.head! :: wMb.fibres.tail!) sMb.clock)
        (gOf
          (let __src := sMb;
          { agenda := __src.agenda, freeCtr := __src.freeCtr, cur := some 0, clock := __src.clock, time := __src.time, wall := __src.wall,
            nextId := __src.nextId, mem := __src.mem, unitKey := __src.unitKey, scrambled := __src.scrambled, owner := __src.owner,
            poison := __src.poison, devWritten := __src.devWritten, keyGen := __src.keyGen, l1 := __src.l1, icache := __src.icache, tlb := __src.tlb,
            ctxs := __src.ctxs, nodes := __src.nodes, groups := __src.groups, warps := __src.warps, ops := __src.ops, cores := __src.cores,
            wadi := __src.wadi, faults := __src.faults, saved := __src.saved, scans := __src.scans, memStacks := __src.memStacks, dev := __src.dev :
            State }))
        (BitVec.toNat wMb.fibres.head!.pos.hdr + 8)
        (4 * ((BitVec.ofNat 64 (natOf (List.take 8 badB))).toNat / 2 ^ 32 % 64 - 2))
        (some (BitVec.toNat wMb.fibres.head!.pos.hdr / 64)) =
      (Except.ok (List.drop 8 badB), b4.snd)
    ∧ bodyFault (BitVec.ofNat 64 (natOf (List.take 8 badB))) (wordsOfBytes (List.drop 8 badB)) = some 5
    ∧ (∃ (t : State),
      b4.snd.takeTrap wMb.wid
          { cause := { cls := 2, sub := 5, addr := BitVec.toNat wMb.fibres.head!.pos.hdr : Cause },
            mask := wMb.byVlane (List.map Fibre.lane (wMb.fibres.head! :: wMb.fibres.tail!)), hdr := wMb.fibres.head!.pos.hdr : TrapInfo } =
        some t) :=
  by
  refine @of_decide_eq_true _ (by letI := @decIs; letI := @decOkEq; infer_instance) ?_
  decide +kernel

end W7

/-! ## Premises met: `Obligations.FairnessAndPendingTraps`, `Obligations.Regroup` -/

namespace W8

def r4 (l : Nat) : Sparse Word := [(0, BitVec.ofNat 32 (5 * (l / 2))), (1, BitVec.ofNat 32 (l + 2)), (3, BitVec.ofNat 32 (0x3F800000 + l * 0x800000)), (4, BitVec.ofNat 32 (7 - l)),(5, BitVec.ofNat 32 (l*l))]
def split2 (s : State) := byFibre (fun f => { f with pos := { hdr := if f.lane < 2 then 0x10000 else 0x10100 } }) s
def sFa := { byWarp (fun (w : Warp) => { w with holder := some [0,1], active := none }) (split2 (fourAt .nopShort r4)) with clock := 256, cur := none }
theorem witness_FairnessAndAge_1 :
    sFa.warp? (w0 sFa).wid = some (w0 sFa)
    ∧ (w0 sFa).active = none
    ∧ (w0 sFa).longest (sFa.others (w0 sFa)) = some (List.drop 2 (w0 sFa).fibres)
    ∧ (∃ (k : List Fibre), k ∈ sFa.readyBundles (w0 sFa) ∧ ∃ (f : Fibre), f ∈ k ∧ f.lane ∈ (w0 sFa).holder.getD [])
    ∧ ((w0 sFa).offered = true ∨ ((w0 sFa).heldFrom + 64 * (w0 sFa).fair + if (w0 sFa).exempt = true then 64 else 0) ≤ sFa.clock) :=
  by decide +kernel
def sFb := { byWarp (fun (w : Warp) => { w with offered := true }) sFa with clock := 0 }
theorem witness_FairnessAndAge_1b :
    sFb.warp? (w0 sFb).wid = some (w0 sFb)
    ∧ (w0 sFb).active = none
    ∧ (w0 sFb).longest (sFb.others (w0 sFb)) = some (List.drop 2 (w0 sFb).fibres)
    ∧ (∃ (k : List Fibre), k ∈ sFb.readyBundles (w0 sFb) ∧ ∃ (f : Fibre), f ∈ k ∧ f.lane ∈ (w0 sFb).holder.getD [])
    ∧ ((w0 sFb).offered = true ∨ ((w0 sFb).heldFrom + 64 * (w0 sFb).fair + if (w0 sFb).exempt = true then 64 else 0) ≤ sFb.clock) :=
  by decide +kernel
def iW : Instr := .barw always 3
def sFc0 := byFibre (fun f => { f with pos := { hdr := 0x10100 } }) (fourAt iW r4)
def iFw : Instr := .fwait always 4
def sFc := { byFibre (fun f => { f with flags := [(2, 1)] }) (byWarp (fun (w : Warp) => { w with holder := some [0,1], active := w.active.map (fun a => { a with lanes := [0,1] }) }) (split2 (fourAt iFw r4))) with clock := 256 }
theorem witness_FairnessAndAge_2_1 :
    sFc.warp? (w0 sFc).wid = some (w0 sFc)
    ∧ (w0 sFc).active = some (w0 sFc).active.get!
    ∧ (w0 sFc).active.get!.sent = []
    ∧ (w0 sFc).longest (sFc.others (w0 sFc)) = some (List.drop 2 (w0 sFc).fibres)
    ∧ sFc.stalledInClause (w0 sFc) = true
    ∧ ((w0 sFc).heldFrom + 64 * (w0 sFc).fair + if BitVec.getLsbD (w0 sFc).active.get!.header 31 = true then 64 else 0) ≤
      sFc.clock :=
  by decide +kernel
def sFd := byWarp (fun (w : Warp) => { w with passed := 256 }) sFa
theorem witness_FairnessAndAge_2_2 :
    sFd.warp? (w0 sFd).wid = some (w0 sFd) :=
  by decide +kernel
-- window overflow: ENTER 24 in the callee whose frame plus entries exceed the ring
def oClause : List Byte := bytesOf 8 (soloHeader 2).toNat ++ (encode (.enter always 24)).flatMap (fun w => bytesOf 4 w.toNat)
def sOv := bytesAt (5 * 65536) oClause (mapped 1 0 5 0 (mapped 2 0 7 0 (byFibre (fun f => { f with pos := { hdr := 0x10000 }, b := 20, n := 4, links := [{ pc := 0x2000, k := 20, nc := 24 }], regs := [(0, 5), (1, 6), (19, 7)] }) (byWarp (fun (w : Warp) => { w with active := none, holder := some [0], spill := 0x20000, spillsz := 0x100 }) { at_ .nopShort with cur := none }))))
def o1 := sOv.fetchBytes (w0 sOv) (g0 sOv) 0x10000 8 none
def o2 := o1.2.fetchBytes (w0 sOv) (g0 sOv) 0x10008 8 (some 1024)
-- underflow
def recordW : List Word := (List.range 20).map (fun i => BitVec.ofNat 32 (i + 1)) ++ [0x2000, 0, 20 + 24 * 65536, 24]
def lane0Bytes : List (Nat × Byte) := (recordW.zipIdx).flatMap (fun e => (List.range 4).map (fun j => (7 * 65536 + 128 * e.2 + j, BitVec.ofNat 8 (e.1.toNat / 256 ^ j))))
def sUn := { byFibre (fun f => { f with b := 20, n := 4, ksp := 96, depth := 1 }) (byWarp (fun (w : Warp) => { w with spill := 0x20000, spillsz := 0x100 }) (mapped 2 0 7 0 (at_ (.ret always)))) with mem := lane0Bytes.filter (fun e => e.2 ≠ 0) }
-- pending traps
def sPt := { byWarp (fun (w : Warp) => { w with active := none, tmcmp := 90, phlim := 4, phFrom := 10, spill := 0x20000, vec := 0x8000, enMask := 0x3FF }) (mapped 2 0 7 0 (fourAt .nopShort r4)) with clock := 100, cur := none }
theorem witness_PendingTraps_1 :
    sPt.warp? (w0 sPt).wid = some (w0 sPt)
    ∧ (w0 sPt).handler = none
    ∧ (w0 sPt).holdTraps = false
    ∧ (w0 sPt).active = none
    ∧ (w0 sPt).tmcmp ≠ (0 : Word)
    ∧ (BitVec.ofNat 32 (sPt.clock + (w0 sPt).cycOff) - (w0 sPt).tmcmp).toNat < 2 ^ 31
    ∧ (∃ (f : Fibre), f ∈ (w0 sPt).fibres ∧ sPt.otherParked (w0 sPt) f = false)
    ∧ (∃ (t : State),
      (sPt.onWarp (w0 sPt).wid fun (v : Warp) =>
              have __src := v.stopBundle;
              { wid := __src.wid, gid := __src.gid, idx := __src.idx, age := __src.age, role := __src.role, run := __src.run, remap := __src.remap,
                fibres := __src.fibres, holder := __src.holder, heldFrom := __src.heldFrom, last := __src.last, exempt := __src.exempt,
                offered := __src.offered, fair := __src.fair, passed := __src.passed, prio := __src.prio, mode := __src.mode,
                modeNext := __src.modeNext, fpst := __src.fpst, cycOff := __src.cycOff, phlim := __src.phlim, phHeld := __src.phHeld,
                phFrom := __src.phFrom, spill := __src.spill, spillsz := __src.spillsz, jms := __src.jms, queue := __src.queue,
                active := __src.active, vec := __src.vec, enMask := __src.enMask, holdTraps := __src.holdTraps, handler := __src.handler,
                replayTrap := __src.replayTrap : Warp }).takeTrap
          (w0 sPt).wid { cause := { cls := 9 : Cause }, mask := [] : TrapInfo } =
        some t) :=
  by
  refine @of_decide_eq_true _ (by letI := @decIs; try dsimp only; infer_instance) ?_
  decide +kernel
theorem witness_PendingTraps_2_1 :
    sPt.warp? (w0 sPt).wid = some (w0 sPt)
    ∧ (w0 sPt).handler = none
    ∧ (w0 sPt).holdTraps = false
    ∧ (w0 sPt).active = none
    ∧ (w0 sPt).phlim ≠ (0 : Word)
    ∧ BitVec.toNat (w0 sPt).phlim < min (sPt.clock - (w0 sPt).phFrom) 4294967295
    ∧ (∃ (f : Fibre), f ∈ (w0 sPt).fibres ∧ sPt.otherParked (w0 sPt) f = false)
    ∧ (∃ (t : State),
      (sPt.onWarp (w0 sPt).wid fun (v : Warp) =>
              have __src := v.stopBundle;
              { wid := __src.wid, gid := __src.gid, idx := __src.idx, age := __src.age, role := __src.role, run := __src.run, remap := __src.remap,
                fibres := __src.fibres, holder := __src.holder, heldFrom := __src.heldFrom, last := __src.last, exempt := __src.exempt,
                offered := __src.offered, fair := __src.fair, passed := __src.passed, prio := __src.prio, mode := __src.mode,
                modeNext := __src.modeNext, fpst := __src.fpst, cycOff := __src.cycOff, tmcmp := __src.tmcmp,
                phHeld := BitVec.ofNat 32 (min (sPt.clock - (w0 sPt).phFrom) 4294967295), phFrom := __src.phFrom,
                spill := __src.spill, spillsz := __src.spillsz, jms := __src.jms, queue := __src.queue, active := __src.active, vec := __src.vec,
                enMask := __src.enMask, holdTraps := __src.holdTraps, handler := __src.handler, replayTrap := __src.replayTrap : Warp }).takeTrap
          (w0 sPt).wid { cause := { cls := 10 : Cause }, mask := [] : TrapInfo } =
        some t) :=
  by
  refine @of_decide_eq_true _ (by letI := @decIs; try dsimp only; infer_instance) ?_
  decide +kernel
def sRt := byWarp (fun (w : Warp) => { w with queue := [waitingAdd], replayTrap := some { cause := { cls := 6, detail := 1 }, seq := some 3, lanes := [0] } }) sPt
theorem witness_PendingTraps_2_2 :
    sRt.warp? (w0 sRt).wid = some (w0 sRt)
    ∧ (w0 sRt).replayTrap = some (w0 sRt).replayTrap.get!
    ∧ (w0 sRt).active = none
    ∧ List.find? (fun (k : Entry) => decide ((w0 sRt).replayTrap.get!.seq = some k.seq)) (w0 sRt).queue = some waitingAdd
    ∧ (∃ (t : State),
      sRt.takeTrap (w0 sRt).wid
          { cause := (w0 sRt).replayTrap.get!.cause, mask := (w0 sRt).replayTrap.get!.lanes, hdr := waitingAdd.hdr, idx := waitingAdd.idx,
            words := waitingAdd.words, entry := (w0 sRt).replayTrap.get!.seq : TrapInfo } =
        some t) :=
  by
  refine @of_decide_eq_true _ (by letI := @decIs; infer_instance) ?_
  decide +kernel
-- regroup
def iRg : Instr := .regroup always (.v 0)
def sRg := fourAt iRg r4
theorem witness_Regroup_1 :
    Issues sRg (Instr.regroup always (Reg.v (0 : Fin 608))) (wOf sRg) (aOf sRg) (gOf sRg) (xOf sRg iRg) [] []
    ∧ xOf sRg iRg ≠ []
    ∧ (∀ (f : Fibre), f ∈ xOf sRg iRg → (wOf sRg).drained f = true)
    ∧ (∀ (f : Fibre), f ∈ xOf sRg iRg → f.depth = (0 : Word))
    ∧ (wOf sRg).jms = []
    ∧ (∀ (c : Nat × Conv), c ∈ (gOf sRg).convs → ∀ (q : Signature), q ∈ c.snd.sigs → ∀ (f : Fibre), f ∈ xOf sRg iRg → q.fid ≠ f.id)
    ∧ (∀ (p : Pos), sRg.gathering (wOf sRg).gid ((wOf sRg).wid / 48) = some p → p.hdr = (aOf sRg).hdr ∧ p.idx = (aOf sRg).idx) :=
  by
  refine @of_decide_eq_true _ (by letI := @decAll; letI := @decIssues; infer_instance) ?_
  decide +kernel
def rgW (wid idx : Nat) (l : List (Nat × Word)) : Warp := { wid := wid, gid := 0, idx := idx, age := 1, role := .general, run := 64, remap := List.range 32, fibres := l.map (fun e => { soloFibre with lane := e.1 % 8, id := e.1, pos := { hdr := 0x10000 }, regs := [(2, e.2)], park := some { wait := .regroup e.2, at_ := { hdr := 4096, idx := 0, mid := true } } }) }
def sRr := { byGroup (fun g => { g with regroups := [(0, { hdr := 4096, idx := 0 }, 10)] }) (at_ .nopShort) with warps := [rgW 0 0 [(0, 5), (1, 3)], rgW 12 1 [(8, 4), (9, 3), (10, 9)]], clock := 100, cur := none }
theorem witness_Regroup_2_2 :
    sRr.group? (g0 sRr).gid = some (g0 sRr)
    ∧ List.find? (fun (r : Nat × Pos × Nat) => decide (r.fst = 0)) (g0 sRr).regroups = some (0, { hdr := (4096 : VAddr) : Pos }, 10)
    ∧ List.filter (fun (w : Warp) => decide (w.gid = (g0 sRr).gid) && decide (w.wid / 48 = 0) && w.role != Role.copy) sRr.warps ≠ []
    ∧ (List.map Warp.wid sRr.warps).Nodup
    ∧ (∀ (w : Warp),
      w ∈ List.filter (fun (w : Warp) => decide (w.gid = (g0 sRr).gid) && decide (w.wid / 48 = 0) && w.role != Role.copy) sRr.warps →
        w.idx < 64 ∧ (List.map Fibre.lane w.fibres).Nodup ∧ w.fibres.length ≤ 32 ∧ ∀ (f : Fibre), f ∈ w.fibres → f.lane < 32)
    ∧ (List.map Warp.idx
        (List.filter (fun (w : Warp) => decide (w.gid = (g0 sRr).gid) && decide (w.wid / 48 = 0) && w.role != Role.copy)
          sRr.warps)).Nodup
    ∧ (List.flatMap (fun (w : Warp) => List.map Fibre.id w.fibres)
        (List.filter (fun (w : Warp) => decide (w.gid = (g0 sRr).gid) && decide (w.wid / 48 = 0) && w.role != Role.copy)
          sRr.warps)).Nodup
    ∧ (∃ (w : Warp),
      w ∈ List.filter (fun (w : Warp) => decide (w.gid = (g0 sRr).gid) && decide (w.wid / 48 = 0) && w.role != Role.copy) sRr.warps ∧
        w.fibres ≠ [])
    ∧ (∀ (w : Warp),
      w ∈ List.filter (fun (w : Warp) => decide (w.gid = (g0 sRr).gid) && decide (w.wid / 48 = 0) && w.role != Role.copy) sRr.warps →
        ∀ (f : Fibre), f ∈ w.fibres → ∃ (q : Park), ∃ (k : Word), f.park = some q ∧ q.wait = Wait.regroup k)
    ∧ 10 + 64 +
        (crossbarBytes (g0 sRr)
              (List.flatMap
                (regroupMoves
                  (List.filter (fun (w : Warp) => decide (w.gid = (g0 sRr).gid) && decide (w.wid / 48 = 0) && w.role != Role.copy)
                    sRr.warps))
                regroupRoles) +
            1023) /
          1024 ≤
      sRr.clock :=
  by
  refine @of_decide_eq_true _ (by letI := @decRegroup; infer_instance) ?_
  decide +kernel

end W8

/-! ## Premises met: `Obligations.WindowSpills`, `Obligations.TrapReturn` -/

namespace W9

def r4 (l : Nat) : Sparse Word := [(0, BitVec.ofNat 32 (5 * (l / 2))), (1, BitVec.ofNat 32 (l + 2)), (3, BitVec.ofNat 32 (0x3F800000 + l * 0x800000)), (4, BitVec.ofNat 32 (7 - l)),(5, BitVec.ofNat 32 (l*l))]
def recordW : List Word := (List.range 4).map (fun i => BitVec.ofNat 32 (i + 1)) ++ [0x2000, 0, 4 + 8 * 65536, 8]
def lane0Bytes : List (Nat × Byte) := (recordW.zipIdx).flatMap (fun e => (List.range 4).map (fun j => (7 * 65536 + 128 * e.2 + j, BitVec.ofNat 8 (e.1.toNat / 256 ^ j))))
def sUn0 := tabled [(2, 0, 7)] (byFibre (fun f => { f with b := 20, n := 4, ksp := 32, depth := 1 }) (byWarp (fun (w : Warp) => { w with spill := 0x20000, spillsz := 0x100 }) (at_ (.ret always))))
def sUn := { sUn0 with mem := sUn0.mem ++ lane0Bytes.filter (fun (e : Nat × Byte) => e.2 ≠ 0) }
theorem witness_WindowUnderflow :
    Issues
      { agenda := sUn.agenda, freeCtr := sUn.freeCtr, cur := some (w0 sUn).wid, clock := sUn.clock, time := sUn.time, wall := sUn.wall,
        nextId := sUn.nextId, mem := sUn.mem, unitKey := sUn.unitKey, scrambled := sUn.scrambled, owner := sUn.owner, poison := sUn.poison,
        devWritten := sUn.devWritten, keyGen := sUn.keyGen, l1 := sUn.l1, icache := sUn.icache, tlb := sUn.tlb, ctxs := sUn.ctxs, nodes := sUn.nodes,
        groups := sUn.groups, warps := sUn.warps, ops := sUn.ops, cores := sUn.cores, wadi := sUn.wadi, faults := sUn.faults, saved := sUn.saved,
        scans := sUn.scans, memStacks := sUn.memStacks, dev := sUn.dev : State }
      (Instr.ret always) (w0 sUn) (w0 sUn).active.get! (g0 sUn) (xOf sUn (Instr.ret always)) [] []
    ∧ (w0 sUn).active.get!.instr? = some (Instr.ret always)
    ∧ (w0 sUn).handler = none
    ∧ 0 < (g0 sUn).a - (g0 sUn).f
    ∧ (∀ (f : Fibre), f ∈ (w0 sUn).bundle (w0 sUn).active.get! → f.links ≠ [] ∨ f.depth ≠ (0 : Word))
    ∧ (∃ (f : Fibre), f ∈ (w0 sUn).bundle (w0 sUn).active.get! ∧ f.guarded always = true ∧ f.links = [])
    ∧ (∃ (f : Fibre), f ∈ xOf sUn (Instr.ret always) ∧ f.links = [])
    ∧ (∀ (f : Fibre), f ∈ xOf sUn (Instr.ret always) → (w0 sUn).drained f = true ∧ f.b < (g0 sUn).a - (g0 sUn).f)
    ∧ (∀ (f : Fibre),
      f ∈ xOf sUn (Instr.ret always) →
        f.links = [] →
          4 ≤ 608 ∧
            4 * (4 + 4) ≤ BitVec.toNat f.ksp ∧
              BitVec.toNat (recordW.getD (4 + 3) (0 : Word)) = 4 + 4 ∧
                BitVec.toNat (recordW.getD (4 + 2) (0 : Word)) % 1024 = 4 ∧
                  ∀ (j : Nat),
                    j < 4 + 4 →
                      sUn.frameWord (g0 sUn).ctx
                            ((BitVec.toNat (w0 sUn).spill +
                                    128 * ((BitVec.toNat f.ksp - 4 * (4 + 4) + 4 * j) / 4) +
                                  4 * (w0 sUn).vlane f.lane +
                                (BitVec.toNat f.ksp - 4 * (4 + 4) + 4 * j) % 4) %
                              2 ^ 52) =
                          (recordW.getD j (0 : Word), sUn) ∧
                        ∀ (i : Nat),
                          i < 4 →
                            sUn.handlerFault (g0 sUn).ctx Access.read
                                [(BitVec.toNat (w0 sUn).spill +
                                            128 * ((BitVec.toNat f.ksp - 4 * (4 + 4) + 4 * j) / 4) +
                                          4 * (w0 sUn).vlane f.lane +
                                        (BitVec.toNat f.ksp - 4 * (4 + 4) + 4 * j) % 4) %
                                      2 ^ 52 +
                                    i] =
                              none) :=
  by
  refine @of_decide_eq_true _ (by letI := @decIssues; infer_instance) ?_
  decide +kernel
def iTr : Instr := .tret always
def frameBytes : List Byte := [0x40, 0x11, 0, 0, 0, 0, 0, 0] ++ [0, 0x60, 0, 0x20]
def sTr := bytesAt (7 * 65536 + 0x100) frameBytes (tabled [(2, 0, 7)] (handling [] (fourAt iTr r4)))
theorem witness_TrapReturn_1 :
    Issues sTr (Instr.tret always) (wOf sTr) (aOf sTr) (gOf sTr) (xOf sTr iTr) [] []
    ∧ xOf sTr iTr ≠ []
    ∧ (wOf sTr).handler = some (wOf sTr).handler.get!
    ∧ (∀ (f : Fibre), f ∈ xOf sTr iTr → sTr.handlerOwes (wOf sTr) f Op.isAccess = false) :=
  by
  refine @of_decide_eq_true _ (by letI := @decIssues; infer_instance) ?_
  decide +kernel
def oClause : List Byte := bytesOf 8 (soloHeader 2).toNat ++ (encode (.enter always 24)).flatMap (fun w => bytesOf 4 w.toNat)
def sOv := bytesAt (5 * 65536) oClause (mapped 1 0 5 0 (tabled [(2, 0, 7)] (byFibre (fun f => { f with pos := { hdr := 0x10000 }, b := 20, n := 4, links := [{ pc := 0x2000, k := 20, nc := 24 }], regs := [(0, 5), (1, 6), (19, 7)] }) (byWarp (fun (w : Warp) => { w with active := none, holder := some [0], spill := 0x20000, spillsz := 0x100 }) { at_ .nopShort with cur := none }))))
def o1 := sOv.fetchBytes (w0 sOv) (g0 sOv) 0x10000 8 none
def o2 := o1.2.fetchBytes (w0 sOv) (g0 sOv) 0x10008 8 (some 1024)
theorem witness_WindowOverflow :
    sOv.warp? (w0 sOv).wid = some (w0 sOv)
    ∧ sOv.group? (w0 sOv).gid = some (g0 sOv)
    ∧ 0 < (g0 sOv).a - (g0 sOv).f
    ∧ sOv.startable (w0 sOv) = true
    ∧ sOv.nextBundle (w0 sOv) = some [(w0 sOv).fibres.head!]
    ∧ (∀ (k : Fibre), k ∈ [(w0 sOv).fibres.head!] → (w0 sOv).fibre? k.lane = some k ∧ ∀ (l : Link), l ∈ k.links → l.k < 1024)
    ∧ (List.map Fibre.lane [(w0 sOv).fibres.head!]).Nodup
    ∧ (w0 sOv).handler = none
    ∧ (w0 sOv).queue = []
    ∧ sOv.ops = []
    ∧ (w0 sOv).fibres.head!.pos.mid = false
    ∧ sOv.fetchBytes (w0 sOv) (g0 sOv) (BitVec.toNat (w0 sOv).fibres.head!.pos.hdr) 8 none =
      (Except.ok (bytesOf 8 (BitVec.toNat (soloHeader 2))), o1.snd)
    ∧ headerFault (w0 sOv).fibres.head!.pos.hdr (BitVec.ofNat 64 (natOf (bytesOf 8 (BitVec.toNat (soloHeader 2))))) = none
    ∧ o1.snd.fetchBytes (w0 sOv) (g0 sOv) (BitVec.toNat (w0 sOv).fibres.head!.pos.hdr + 8)
        (4 *
          ((BitVec.ofNat 64 (natOf (bytesOf 8 (BitVec.toNat (soloHeader 2))))).toNat / 2 ^ 32 % 64 -
            2))
        (some (BitVec.toNat (w0 sOv).fibres.head!.pos.hdr / 64)) =
      (Except.ok (List.drop 8 oClause), o2.snd)
    ∧ bodyFault (BitVec.ofNat 64 (natOf (bytesOf 8 (BitVec.toNat (soloHeader 2))))) (wordsOfBytes (List.drop 8 oClause)) =
      none
    ∧ (∀ (k : Fibre),
      k ∈ [(w0 sOv).fibres.head!] →
        1 ≤ min k.links.length 16 ∧
          { lane := k.lane, id := k.id, pos := k.pos, park := k.park, b := k.b, n := k.n, links := List.take (k.links.length - 1) k.links,
                    ksp := k.ksp, depth := k.depth, c0 := k.c0, c1 := k.c1, c2 := k.c2, c3 := k.c3, flags := k.flags, mcls := k.mcls, mdl := k.mdl,
                    rngKey := k.rngKey, rngCtr := k.rngCtr, regs := k.regs, armed := k.armed, barred := k.barred, waitFrom := k.waitFrom,
                    wasReady := k.wasReady : Fibre }.allFit
                (g0 sOv)
                (clauseWindow (BitVec.ofNat 64 (natOf (bytesOf 8 (BitVec.toNat (soloHeader 2)))))
                  (wordsOfBytes (List.drop 8 oClause)) k) =
              true ∧
            ∀ (j : Nat),
              j < 1 →
                { lane := k.lane, id := k.id, pos := k.pos, park := k.park, b := k.b, n := k.n, links := List.take (k.links.length - j) k.links,
                        ksp := k.ksp, depth := k.depth, c0 := k.c0, c1 := k.c1, c2 := k.c2, c3 := k.c3, flags := k.flags, mcls := k.mcls,
                        mdl := k.mdl, rngKey := k.rngKey, rngCtr := k.rngCtr, regs := k.regs, armed := k.armed, barred := k.barred,
                        waitFrom := k.waitFrom, wasReady := k.wasReady : Fibre }.allFit
                    (g0 sOv)
                    (clauseWindow (BitVec.ofNat 64 (natOf (bytesOf 8 (BitVec.toNat (soloHeader 2)))))
                      (wordsOfBytes (List.drop 8 oClause)) k) =
                  false)
    ∧ 0 < List.foldl max 0 (List.map (fun (x : Fibre) => 1) [(w0 sOv).fibres.head!])
    ∧ (∀ (k : Fibre),
      k ∈ [(w0 sOv).fibres.head!] →
        BitVec.toNat k.ksp +
            (List.map (fun (j : Nat) => 4 * (((List.take (k.links.length - j) k.links).getLast?.getD default).k + 4))
                (List.range 1)).sum ≤
          BitVec.toNat (w0 sOv).spillsz)
    ∧ (∀ (k : Fibre),
      k ∈ [(w0 sOv).fibres.head!] →
        ∀ (j : Nat),
          j <
              (List.map (fun (j : Nat) => 4 * (((List.take (k.links.length - j) k.links).getLast?.getD default).k + 4))
                    (List.range 1)).sum /
                4 →
            ∀ (i : Nat),
              i < 4 →
                o2.snd.handlerFault (g0 sOv).ctx Access.write
                    [(BitVec.toNat (w0 sOv).spill + 128 * ((BitVec.toNat k.ksp + 4 * j) / 4) +
                              4 * (w0 sOv).vlane k.lane +
                            (BitVec.toNat k.ksp + 4 * j) % 4) %
                          2 ^ 52 +
                        i] =
                  none) :=
  by
  refine @of_decide_eq_true _ (by letI := @decOkEq; infer_instance) ?_
  decide +kernel

end W9

/-! ## Premises met: `Obligations.Loads`, `Obligations.StoresAndAtomicsIssued` -/

namespace W10

def r4 (l : Nat) : Sparse Word := [(0, BitVec.ofNat 32 (64 + 16 * l)), (1, BitVec.ofNat 32 (l + 2)), (3, BitVec.ofNat 32 (0x3F800000 + l * 0x800000)), (4, BitVec.ofNat 32 (7 - l)),(5, BitVec.ofNat 32 (l*l)), (8, BitVec.ofNat 32 (65536 + 256 * l)), (10, 8192), (12, 65538)]
def scr (s : State) := bytesAt (coreBase 0 + 2 * 8192 + 64) [1,2,3,0xF4,5,6,7,8,9,10,11,12,13,14,15,16,0xF1,0xF2] (shared s)
def iL : Instr := .ld always (.v 20) (.v 0) (.short 0) false .b128 .s false (some .group)
def sLoads_1 : State := (scr (fourAt iL r4))
theorem witness_Loads_1 :
    Issues sLoads_1
      (Instr.ld always (Reg.v (20 : Fin 608)) (Reg.v (0 : Fin 608)) (MemOff.short (0 : BitVec 10)) false Width.b128 Space.s
        false (some Scope.group))
      (wOf sLoads_1) (aOf sLoads_1) (gOf sLoads_1) (xOf sLoads_1 iL) (eOf sLoads_1 iL) (pOf sLoads_1 iL)
    ∧ NoOpenOperand
      (Instr.ld always (Reg.v (20 : Fin 608)) (Reg.v (0 : Fin 608)) (MemOff.short (0 : BitVec 10)) false Width.b128 Space.s
        false (some Scope.group))
      (gOf sLoads_1) (xOf sLoads_1 iL) (eOf sLoads_1 iL)
    ∧ xOf sLoads_1 iL ≠ []
    ∧ (∀ (f : Fibre),
      f ∈ xOf sLoads_1 iL →
        (((↑(BitVec.toNat (f.word (gOf sLoads_1) (Reg.v (0 : Fin 608)))) : Int) + (MemOff.short (0 : BitVec 10)).toInt) %
                  (2 : Int) ^ 32).toNat %
              16 =
            0 ∧
          (((↑(BitVec.toNat (f.word (gOf sLoads_1) (Reg.v (0 : Fin 608)))) : Int) + (MemOff.short (0 : BitVec 10)).toInt) %
                  (2 : Int) ^ 32).toNat <
              (gOf sLoads_1).scratch ∧
            (∃ (p : Nat),
                (gOf sLoads_1).scratchAt
                    (((↑(BitVec.toNat (f.word (gOf sLoads_1) (Reg.v (0 : Fin 608)))) : Int) + (MemOff.short (0 : BitVec 10)).toInt) %
                        (2 : Int) ^ 32).toNat =
                  some ((wOf sLoads_1).wid / 48, p)) ∧
              (sLoads_1.readScratch (gOf sLoads_1)
                      (((↑(BitVec.toNat (f.word (gOf sLoads_1) (Reg.v (0 : Fin 608)))) : Int) +
                            (MemOff.short (0 : BitVec 10)).toInt) %
                          (2 : Int) ^ 32).toNat
                      16).snd =
                  sLoads_1 ∧
                ∀ (o : Op),
                  o ∈ sLoads_1.ops →
                    o.gid = (wOf sLoads_1).gid →
                      ∀ (p : Space × Nat),
                        p ∈ o.touched →
                          p.fst = Space.s →
                            p.snd <
                                (((↑(BitVec.toNat (f.word (gOf sLoads_1) (Reg.v (0 : Fin 608)))) : Int) +
                                      (MemOff.short (0 : BitVec 10)).toInt) %
                                    (2 : Int) ^ 32).toNat ∨
                              (((↑(BitVec.toNat (f.word (gOf sLoads_1) (Reg.v (0 : Fin 608)))) : Int) +
                                        (MemOff.short (0 : BitVec 10)).toInt) %
                                      (2 : Int) ^ 32).toNat +
                                  16 ≤
                                p.snd) :=
  by
  refine @of_decide_eq_true _ (by letI := @decIssues; letI := @decNoOpen; letI := @decPair; infer_instance) ?_
  decide +kernel
def iL2 : Instr := .ld always (.v 20) (.v 0) (.short 0x3F0) false .s8 .s false none
def sLoads_1b : State := (scr (fourAt iL2 r4))
theorem witness_Loads_1b :
    Issues sLoads_1b
      (Instr.ld always (Reg.v (20 : Fin 608)) (Reg.v (0 : Fin 608)) (MemOff.short (1008 : BitVec 10)) false Width.s8 Space.s
        false none)
      (wOf sLoads_1b) (aOf sLoads_1b) (gOf sLoads_1b) (xOf sLoads_1b iL2) (eOf sLoads_1b iL2) (pOf sLoads_1b iL2)
    ∧ NoOpenOperand
      (Instr.ld always (Reg.v (20 : Fin 608)) (Reg.v (0 : Fin 608)) (MemOff.short (1008 : BitVec 10)) false Width.s8 Space.s
        false none)
      (gOf sLoads_1b) (xOf sLoads_1b iL2) (eOf sLoads_1b iL2)
    ∧ xOf sLoads_1b iL2 ≠ []
    ∧ (∀ (f : Fibre),
      f ∈ xOf sLoads_1b iL2 →
        (((↑(BitVec.toNat (f.word (gOf sLoads_1b) (Reg.v (0 : Fin 608)))) : Int) + (MemOff.short (1008 : BitVec 10)).toInt) %
                  (2 : Int) ^ 32).toNat %
              1 =
            0 ∧
          (((↑(BitVec.toNat (f.word (gOf sLoads_1b) (Reg.v (0 : Fin 608)))) : Int) + (MemOff.short (1008 : BitVec 10)).toInt) %
                  (2 : Int) ^ 32).toNat <
              (gOf sLoads_1b).scratch ∧
            (∃ (p : Nat),
                (gOf sLoads_1b).scratchAt
                    (((↑(BitVec.toNat (f.word (gOf sLoads_1b) (Reg.v (0 : Fin 608)))) : Int) +
                          (MemOff.short (1008 : BitVec 10)).toInt) %
                        (2 : Int) ^ 32).toNat =
                  some ((wOf sLoads_1b).wid / 48, p)) ∧
              (sLoads_1b.readScratch (gOf sLoads_1b)
                      (((↑(BitVec.toNat (f.word (gOf sLoads_1b) (Reg.v (0 : Fin 608)))) : Int) +
                            (MemOff.short (1008 : BitVec 10)).toInt) %
                          (2 : Int) ^ 32).toNat
                      1).snd =
                  sLoads_1b ∧
                ∀ (o : Op),
                  o ∈ sLoads_1b.ops →
                    o.gid = (wOf sLoads_1b).gid →
                      ∀ (p : Space × Nat),
                        p ∈ o.touched →
                          p.fst = Space.s →
                            p.snd <
                                (((↑(BitVec.toNat (f.word (gOf sLoads_1b) (Reg.v (0 : Fin 608)))) : Int) +
                                      (MemOff.short (1008 : BitVec 10)).toInt) %
                                    (2 : Int) ^ 32).toNat ∨
                              (((↑(BitVec.toNat (f.word (gOf sLoads_1b) (Reg.v (0 : Fin 608)))) : Int) +
                                        (MemOff.short (1008 : BitVec 10)).toInt) %
                                      (2 : Int) ^ 32).toNat +
                                  1 ≤
                                p.snd) :=
  by
  refine @of_decide_eq_true _ (by letI := @decIssues; letI := @decNoOpen; letI := @decPair; infer_instance) ?_
  decide +kernel
def iLoads_2_1 : Instr := .ldSB32Short (.v 20) (.v 0) 1
def sLoads_2_1 : State := (scr (fourAt iLoads_2_1 r4))
theorem witness_Loads_2_1 :
    Issues sLoads_2_1 (Instr.ldSB32Short (Reg.v (20 : Fin 608)) (Reg.v (0 : Fin 608)) (1 : BitVec 4)) (wOf sLoads_2_1)
      (aOf sLoads_2_1) (gOf sLoads_2_1) (xOf sLoads_2_1 iLoads_2_1) (eOf sLoads_2_1 iLoads_2_1) (pOf sLoads_2_1 iLoads_2_1)
    ∧ NoOpenOperand (Instr.ldSB32Short (Reg.v (20 : Fin 608)) (Reg.v (0 : Fin 608)) (1 : BitVec 4)) (gOf sLoads_2_1)
      (xOf sLoads_2_1 iLoads_2_1) (eOf sLoads_2_1 iLoads_2_1)
    ∧ xOf sLoads_2_1 iLoads_2_1 ≠ []
    ∧ (∀ (f : Fibre),
      f ∈ xOf sLoads_2_1 iLoads_2_1 →
        (((↑(BitVec.toNat (f.word (gOf sLoads_2_1) (Reg.v (0 : Fin 608)))) : Int) +
                    (4 : Int) * (↑(BitVec.toNat (1 : BitVec 4)) : Int)) %
                  (2 : Int) ^ 32).toNat %
              4 =
            0 ∧
          (((↑(BitVec.toNat (f.word (gOf sLoads_2_1) (Reg.v (0 : Fin 608)))) : Int) +
                    (4 : Int) * (↑(BitVec.toNat (1 : BitVec 4)) : Int)) %
                  (2 : Int) ^ 32).toNat <
              (gOf sLoads_2_1).scratch ∧
            (∃ (p : Nat),
                (gOf sLoads_2_1).scratchAt
                    (((↑(BitVec.toNat (f.word (gOf sLoads_2_1) (Reg.v (0 : Fin 608)))) : Int) +
                          (4 : Int) * (↑(BitVec.toNat (1 : BitVec 4)) : Int)) %
                        (2 : Int) ^ 32).toNat =
                  some ((wOf sLoads_2_1).wid / 48, p)) ∧
              (sLoads_2_1.readScratch (gOf sLoads_2_1)
                      (((↑(BitVec.toNat (f.word (gOf sLoads_2_1) (Reg.v (0 : Fin 608)))) : Int) +
                            (4 : Int) * (↑(BitVec.toNat (1 : BitVec 4)) : Int)) %
                          (2 : Int) ^ 32).toNat
                      4).snd =
                  sLoads_2_1 ∧
                ∀ (o : Op),
                  o ∈ sLoads_2_1.ops →
                    o.gid = (wOf sLoads_2_1).gid →
                      ∀ (p : Space × Nat),
                        p ∈ o.touched →
                          p.fst = Space.s →
                            p.snd <
                                (((↑(BitVec.toNat (f.word (gOf sLoads_2_1) (Reg.v (0 : Fin 608)))) : Int) +
                                      (4 : Int) * (↑(BitVec.toNat (1 : BitVec 4)) : Int)) %
                                    (2 : Int) ^ 32).toNat ∨
                              (((↑(BitVec.toNat (f.word (gOf sLoads_2_1) (Reg.v (0 : Fin 608)))) : Int) +
                                        (4 : Int) * (↑(BitVec.toNat (1 : BitVec 4)) : Int)) %
                                      (2 : Int) ^ 32).toNat +
                                  4 ≤
                                p.snd) :=
  by
  refine @of_decide_eq_true _ (by letI := @decIssues; letI := @decNoOpen; letI := @decPair; infer_instance) ?_
  decide +kernel
def iLoads_2_2_1 : Instr := .ldSB64Short (.v 20) (.v 0) 1
def sLoads_2_2_1 : State := (scr (fourAt iLoads_2_2_1 r4))
theorem witness_Loads_2_2_1 :
    Issues sLoads_2_2_1 (Instr.ldSB64Short (Reg.v (20 : Fin 608)) (Reg.v (0 : Fin 608)) (1 : BitVec 4)) (wOf sLoads_2_2_1)
      (aOf sLoads_2_2_1) (gOf sLoads_2_2_1) (xOf sLoads_2_2_1 iLoads_2_2_1) (eOf sLoads_2_2_1 iLoads_2_2_1) (pOf sLoads_2_2_1 iLoads_2_2_1)
    ∧ NoOpenOperand (Instr.ldSB64Short (Reg.v (20 : Fin 608)) (Reg.v (0 : Fin 608)) (1 : BitVec 4)) (gOf sLoads_2_2_1)
      (xOf sLoads_2_2_1 iLoads_2_2_1) (eOf sLoads_2_2_1 iLoads_2_2_1)
    ∧ xOf sLoads_2_2_1 iLoads_2_2_1 ≠ []
    ∧ (∀ (f : Fibre),
      f ∈ xOf sLoads_2_2_1 iLoads_2_2_1 →
        (((↑(BitVec.toNat (f.word (gOf sLoads_2_2_1) (Reg.v (0 : Fin 608)))) : Int) +
                    (8 : Int) * (↑(BitVec.toNat (1 : BitVec 4)) : Int)) %
                  (2 : Int) ^ 32).toNat %
              8 =
            0 ∧
          (((↑(BitVec.toNat (f.word (gOf sLoads_2_2_1) (Reg.v (0 : Fin 608)))) : Int) +
                    (8 : Int) * (↑(BitVec.toNat (1 : BitVec 4)) : Int)) %
                  (2 : Int) ^ 32).toNat <
              (gOf sLoads_2_2_1).scratch ∧
            (∃ (p : Nat),
                (gOf sLoads_2_2_1).scratchAt
                    (((↑(BitVec.toNat (f.word (gOf sLoads_2_2_1) (Reg.v (0 : Fin 608)))) : Int) +
                          (8 : Int) * (↑(BitVec.toNat (1 : BitVec 4)) : Int)) %
                        (2 : Int) ^ 32).toNat =
                  some ((wOf sLoads_2_2_1).wid / 48, p)) ∧
              (sLoads_2_2_1.readScratch (gOf sLoads_2_2_1)
                      (((↑(BitVec.toNat (f.word (gOf sLoads_2_2_1) (Reg.v (0 : Fin 608)))) : Int) +
                            (8 : Int) * (↑(BitVec.toNat (1 : BitVec 4)) : Int)) %
                          (2 : Int) ^ 32).toNat
                      8).snd =
                  sLoads_2_2_1 ∧
                ∀ (o : Op),
                  o ∈ sLoads_2_2_1.ops →
                    o.gid = (wOf sLoads_2_2_1).gid →
                      ∀ (p : Space × Nat),
                        p ∈ o.touched →
                          p.fst = Space.s →
                            p.snd <
                                (((↑(BitVec.toNat (f.word (gOf sLoads_2_2_1) (Reg.v (0 : Fin 608)))) : Int) +
                                      (8 : Int) * (↑(BitVec.toNat (1 : BitVec 4)) : Int)) %
                                    (2 : Int) ^ 32).toNat ∨
                              (((↑(BitVec.toNat (f.word (gOf sLoads_2_2_1) (Reg.v (0 : Fin 608)))) : Int) +
                                        (8 : Int) * (↑(BitVec.toNat (1 : BitVec 4)) : Int)) %
                                      (2 : Int) ^ 32).toNat +
                                  8 ≤
                                p.snd) :=
  by
  refine @of_decide_eq_true _ (by letI := @decIssues; letI := @decNoOpen; letI := @decPair; infer_instance) ?_
  decide +kernel
def iL3 : Instr := .ld always (.v 20) (.v 8) (.short 16) false .b64 .g true (some .device)
def pg (s : State) := byWarp (fun (w : Warp) => { w with active := w.active.map (fun (a : Active) => { a with header := soloHeader 2 - 15 * 2 ^ 21 + 3 * 2 ^ 21 }) }) (mapped 1 0 5 0 s)
def zero9 (l : Nat) : Sparse Word := r4 l
def st1 : State := (pg (fourAt iL3 zero9))
theorem witness_Loads_2_2_2_1 :
    Issues st1
      (Instr.ld always (Reg.v (20 : Fin 608)) (Reg.v (8 : Fin 608)) (MemOff.short (16 : BitVec 10)) false Width.b64 Space.g
        true (some Scope.device))
      (w0 st1) (w0 st1).active.get! (g0 st1) (xOf st1 iL3) [] []
    ∧ NoOpenOperand
      (Instr.ld always (Reg.v (20 : Fin 608)) (Reg.v (8 : Fin 608)) (MemOff.short (16 : BitVec 10)) false Width.b64 Space.g
        true (some Scope.device))
      (g0 st1) (xOf st1 iL3) []
    ∧ xOf st1 iL3 ≠ []
    ∧ (∀ (f : Fibre),
      f ∈ xOf st1 iL3 →
        have ad :=
          (((↑(BitVec.toNat (f.pair (g0 st1) (Reg.v (8 : Fin 608)))) : Int) + (MemOff.short (16 : BitVec 10)).toInt) %
              (2 : Int) ^ 52).toNat;
        (ad % 8 = 0 ∧ True) ∧
          (Space.g = Space.s → ∀ (p : Nat), (g0 st1).scratchAt ad ≠ some ((w0 st1).wid / 48, p)) ∧
            Serves st1 (w0 st1) (g0 st1) Space.g ad 8 Access.read) :=
  by
  refine @of_decide_eq_true _ (by letI := @decIssues; letI := @decNoOpen; letI := @decNotPair; letI := @decServes; try dsimp only; infer_instance) ?_
  decide +kernel
def iL4 : Instr := .ld always (.v 20) (.v 0) (.short 0) false .b32 .k false none
def kst (s : State) := byWarp (fun (w : Warp) => { w with spill := 0x10000, spillsz := 0x100 }) (mapped 1 0 5 0 s)
def st2 : State := (kst (fourAt iL4 zero9))
theorem witness_Loads_2_2_2_1b :
    Issues st2
      (Instr.ld always (Reg.v (20 : Fin 608)) (Reg.v (0 : Fin 608)) (MemOff.short (0 : BitVec 10)) false Width.b32 Space.k
        false none)
      (w0 st2) (w0 st2).active.get! (g0 st2) (xOf st2 iL4) [] []
    ∧ NoOpenOperand
      (Instr.ld always (Reg.v (20 : Fin 608)) (Reg.v (0 : Fin 608)) (MemOff.short (0 : BitVec 10)) false Width.b32 Space.k
        false none)
      (g0 st2) (xOf st2 iL4) []
    ∧ xOf st2 iL4 ≠ []
    ∧ (∀ (f : Fibre),
      f ∈ xOf st2 iL4 →
        have ad :=
          (((↑(BitVec.toNat (f.word (g0 st2) (Reg.v (0 : Fin 608)))) : Int) + (MemOff.short (0 : BitVec 10)).toInt) %
              (2 : Int) ^ 32).toNat;
        (ad % 4 = 0 ∧ ad + 4 ≤ BitVec.toNat (w0 st2).spillsz) ∧
          (Space.k = Space.s → ∀ (p : Nat), (g0 st2).scratchAt ad ≠ some ((w0 st2).wid / 48, p)) ∧
            Serves st2 (w0 st2) (g0 st2) Space.k
              ((BitVec.toNat (w0 st2).spill + 128 * (ad / 4) + 4 * (w0 st2).vlane f.lane + ad % 4) %
                2 ^ 52)
              4 Access.read) :=
  by
  refine @of_decide_eq_true _ (by letI := @decIssues; letI := @decNoOpen; letI := @decNotPair; letI := @decServes; try dsimp only; infer_instance) ?_
  decide +kernel
def iL5 : Instr := .ld always (.v 20) (.v 10) (.short 0) false .b32 .s false none
def st3 : State := (scr (fourAt iL5 zero9))
theorem witness_Loads_2_2_2_1c :
    Issues st3
      (Instr.ld always (Reg.v (20 : Fin 608)) (Reg.v (10 : Fin 608)) (MemOff.short (0 : BitVec 10)) false Width.b32 Space.s
        false none)
      (w0 st3) (w0 st3).active.get! (g0 st3) (xOf st3 iL5) [] []
    ∧ NoOpenOperand
      (Instr.ld always (Reg.v (20 : Fin 608)) (Reg.v (10 : Fin 608)) (MemOff.short (0 : BitVec 10)) false Width.b32 Space.s
        false none)
      (g0 st3) (xOf st3 iL5) []
    ∧ xOf st3 iL5 ≠ []
    ∧ (∀ (f : Fibre),
      f ∈ xOf st3 iL5 →
        have ad :=
          (((↑(BitVec.toNat (f.word (g0 st3) (Reg.v (10 : Fin 608)))) : Int) + (MemOff.short (0 : BitVec 10)).toInt) %
              (2 : Int) ^ 32).toNat;
        (ad % 4 = 0 ∧ ad < (g0 st3).scratch) ∧
          (Space.s = Space.s → ∀ (p : Nat), (g0 st3).scratchAt ad ≠ some ((w0 st3).wid / 48, p)) ∧
            Serves st3 (w0 st3) (g0 st3) Space.s ad 4 Access.read) :=
  by
  refine @of_decide_eq_true _ (by letI := @decIssues; letI := @decNoOpen; letI := @decNotPair; letI := @decServes; try dsimp only; infer_instance) ?_
  decide +kernel
def iL6 : Instr := .ld always (.v 20) (.v 12) (.short 0) false .b32 .g false none
def st4 : State := (pg (fourAt iL6 zero9))
theorem witness_Loads_2_2_2_2_1 :
    Issues st4
      (Instr.ld always (Reg.v (20 : Fin 608)) (Reg.v (12 : Fin 608)) (MemOff.short (0 : BitVec 10)) false Width.b32 Space.g
        false none)
      (w0 st4) (w0 st4).active.get! (g0 st4) (xOf st4 iL6) [] []
    ∧ List.find?
        (fun (k : Fibre) =>
          (st4.accessCause (w0 st4) (g0 st4) Space.g
              (((↑(BitVec.toNat (k.pair (g0 st4) (Reg.v (12 : Fin 608)))) : Int) + (MemOff.short (0 : BitVec 10)).toInt) %
                  (2 : Int) ^ 52).toNat
              4).isSome)
        (xOf st4 iL6) =
      some (x0 st4 iL6) :=
  by
  refine @of_decide_eq_true _ (by letI := @decIssues; infer_instance) ?_
  decide +kernel
def st5 : State := (kst (scr (fourAt iL4 zero9)))
def st6 : State := (kst (scr (fourAt iL4 zero9)))
def st7 : State := (kst (scr (fourAt iL4 zero9)))
-- stores
def iS : Instr := .st always (.v 0) (.v 4) (.short 0) false .b16 .s true .group
def st8 : State := (scr (fourAt iS r4))
theorem witness_StoresIssued_1 :
    Issues st8
      (Instr.st always (Reg.v (0 : Fin 608)) (Reg.v (4 : Fin 608)) (MemOff.short (0 : BitVec 10)) false Width.b16 Space.s true
        Scope.group)
      (w0 st8) (w0 st8).active.get! (g0 st8) (xOf st8 iS) [] []
    ∧ xOf st8 iS ≠ []
    ∧ st8.tidy
    ∧ (∀ (o : Op), o ∈ st8.ops → o.issue ≠ (w0 st8).active.get!.part.getD st8.nextId)
    ∧ (∀ (f : Fibre),
      f ∈ xOf st8 iS →
        (((↑(BitVec.toNat (f.word (g0 st8) (Reg.v (0 : Fin 608)))) : Int) + (MemOff.short (0 : BitVec 10)).toInt) %
                  (2 : Int) ^ 32).toNat %
              2 =
            0 ∧
          (((↑(BitVec.toNat (f.word (g0 st8) (Reg.v (0 : Fin 608)))) : Int) + (MemOff.short (0 : BitVec 10)).toInt) %
                  (2 : Int) ^ 32).toNat <
              (g0 st8).scratch ∧
            (∃ (p : Nat),
                (g0 st8).scratchAt
                    (((↑(BitVec.toNat (f.word (g0 st8) (Reg.v (0 : Fin 608)))) : Int) + (MemOff.short (0 : BitVec 10)).toInt) %
                        (2 : Int) ^ 32).toNat =
                  some ((w0 st8).wid / 48, p)) ∧
              (∀ (i : Nat),
                  i < 2 →
                    ∃ (p : Nat × Nat),
                      (g0 st8).scratchAt
                          ((((↑(BitVec.toNat (f.word (g0 st8) (Reg.v (0 : Fin 608)))) : Int) + (MemOff.short (0 : BitVec 10)).toInt) %
                                (2 : Int) ^ 32).toNat +
                            i) =
                        some p) ∧
                ∀ (o : Op),
                  o ∈ st8.ops →
                    o.gid = (w0 st8).gid →
                      ∀ (p : Space × Nat),
                        p ∈ o.touched →
                          p.fst = Space.s →
                            p.snd <
                                (((↑(BitVec.toNat (f.word (g0 st8) (Reg.v (0 : Fin 608)))) : Int) +
                                      (MemOff.short (0 : BitVec 10)).toInt) %
                                    (2 : Int) ^ 32).toNat ∨
                              (((↑(BitVec.toNat (f.word (g0 st8) (Reg.v (0 : Fin 608)))) : Int) +
                                        (MemOff.short (0 : BitVec 10)).toInt) %
                                      (2 : Int) ^ 32).toNat +
                                  2 ≤
                                p.snd)
    ∧ (∀ (f : Fibre), f ∈ xOf st8 iS → st8.allPerformed (w0 st8) f = true) :=
  by
  refine @of_decide_eq_true _ (by letI := @decIs; letI := @decIssues; letI := @decPair; letI := @decTidy; infer_instance) ?_
  decide +kernel
def iS1 : Instr := .stSB32Short (.v 4) (.v 1) 15
def al (l : Nat) : Sparse Word := (r4 l).map (fun (e : Nat × Word) => if e.1 = 1 then (1, BitVec.ofNat 32 (8 * (l / 2))) else e)
def st9 : State := (scr (fourAt iS1 al))
theorem witness_StoresIssued_2_1 :
    Issues st9 (Instr.stSB32Short (Reg.v (4 : Fin 608)) (Reg.v (1 : Fin 608)) (15 : BitVec 4)) (w0 st9) (w0 st9).active.get!
      (g0 st9) (xOf st9 iS1) [] []
    ∧ xOf st9 iS1 ≠ []
    ∧ st9.tidy
    ∧ (∀ (o : Op), o ∈ st9.ops → o.issue ≠ (w0 st9).active.get!.part.getD st9.nextId)
    ∧ (∀ (f : Fibre),
      f ∈ xOf st9 iS1 →
        (((↑(BitVec.toNat (f.word (g0 st9) (Reg.v (1 : Fin 608)))) : Int) + (4 : Int) * (↑(BitVec.toNat (15 : BitVec 4)) : Int)) %
                  (2 : Int) ^ 32).toNat %
              4 =
            0 ∧
          (((↑(BitVec.toNat (f.word (g0 st9) (Reg.v (1 : Fin 608)))) : Int) + (4 : Int) * (↑(BitVec.toNat (15 : BitVec 4)) : Int)) %
                  (2 : Int) ^ 32).toNat <
              (g0 st9).scratch ∧
            (∃ (p : Nat),
                (g0 st9).scratchAt
                    (((↑(BitVec.toNat (f.word (g0 st9) (Reg.v (1 : Fin 608)))) : Int) +
                          (4 : Int) * (↑(BitVec.toNat (15 : BitVec 4)) : Int)) %
                        (2 : Int) ^ 32).toNat =
                  some ((w0 st9).wid / 48, p)) ∧
              (∀ (i : Nat),
                  i < 4 →
                    ∃ (p : Nat × Nat),
                      (g0 st9).scratchAt
                          ((((↑(BitVec.toNat (f.word (g0 st9) (Reg.v (1 : Fin 608)))) : Int) +
                                  (4 : Int) * (↑(BitVec.toNat (15 : BitVec 4)) : Int)) %
                                (2 : Int) ^ 32).toNat +
                            i) =
                        some p) ∧
                ∀ (o : Op),
                  o ∈ st9.ops →
                    o.gid = (w0 st9).gid →
                      ∀ (p : Space × Nat),
                        p ∈ o.touched →
                          p.fst = Space.s →
                            p.snd <
                                (((↑(BitVec.toNat (f.word (g0 st9) (Reg.v (1 : Fin 608)))) : Int) +
                                      (4 : Int) * (↑(BitVec.toNat (15 : BitVec 4)) : Int)) %
                                    (2 : Int) ^ 32).toNat ∨
                              (((↑(BitVec.toNat (f.word (g0 st9) (Reg.v (1 : Fin 608)))) : Int) +
                                        (4 : Int) * (↑(BitVec.toNat (15 : BitVec 4)) : Int)) %
                                      (2 : Int) ^ 32).toNat +
                                  4 ≤
                                p.snd) :=
  by
  refine @of_decide_eq_true _ (by letI := @decIs; letI := @decIssues; letI := @decPair; letI := @decTidy; infer_instance) ?_
  decide +kernel
def iS2 : Instr := .stSB64Short (.v 4) (.v 1) 15
def st10 : State := (scr (fourAt iS2 al))
theorem witness_StoresIssued_2_2_1 :
    Issues st10 (Instr.stSB64Short (Reg.v (4 : Fin 608)) (Reg.v (1 : Fin 608)) (15 : BitVec 4)) (w0 st10) (w0 st10).active.get!
      (g0 st10) (xOf st10 iS2) [] []
    ∧ xOf st10 iS2 ≠ []
    ∧ st10.tidy
    ∧ (∀ (o : Op), o ∈ st10.ops → o.issue ≠ (w0 st10).active.get!.part.getD st10.nextId)
    ∧ (∀ (f : Fibre),
      f ∈ xOf st10 iS2 →
        (((↑(BitVec.toNat (f.word (g0 st10) (Reg.v (1 : Fin 608)))) : Int) + (8 : Int) * (↑(BitVec.toNat (15 : BitVec 4)) : Int)) %
                  (2 : Int) ^ 32).toNat %
              8 =
            0 ∧
          (((↑(BitVec.toNat (f.word (g0 st10) (Reg.v (1 : Fin 608)))) : Int) + (8 : Int) * (↑(BitVec.toNat (15 : BitVec 4)) : Int)) %
                  (2 : Int) ^ 32).toNat <
              (g0 st10).scratch ∧
            (∃ (p : Nat),
                (g0 st10).scratchAt
                    (((↑(BitVec.toNat (f.word (g0 st10) (Reg.v (1 : Fin 608)))) : Int) +
                          (8 : Int) * (↑(BitVec.toNat (15 : BitVec 4)) : Int)) %
                        (2 : Int) ^ 32).toNat =
                  some ((w0 st10).wid / 48, p)) ∧
              (∀ (i : Nat),
                  i < 8 →
                    ∃ (p : Nat × Nat),
                      (g0 st10).scratchAt
                          ((((↑(BitVec.toNat (f.word (g0 st10) (Reg.v (1 : Fin 608)))) : Int) +
                                  (8 : Int) * (↑(BitVec.toNat (15 : BitVec 4)) : Int)) %
                                (2 : Int) ^ 32).toNat +
                            i) =
                        some p) ∧
                ∀ (o : Op),
                  o ∈ st10.ops →
                    o.gid = (w0 st10).gid →
                      ∀ (p : Space × Nat),
                        p ∈ o.touched →
                          p.fst = Space.s →
                            p.snd <
                                (((↑(BitVec.toNat (f.word (g0 st10) (Reg.v (1 : Fin 608)))) : Int) +
                                      (8 : Int) * (↑(BitVec.toNat (15 : BitVec 4)) : Int)) %
                                    (2 : Int) ^ 32).toNat ∨
                              (((↑(BitVec.toNat (f.word (g0 st10) (Reg.v (1 : Fin 608)))) : Int) +
                                        (8 : Int) * (↑(BitVec.toNat (15 : BitVec 4)) : Int)) %
                                      (2 : Int) ^ 32).toNat +
                                  8 ≤
                                p.snd) :=
  by
  refine @of_decide_eq_true _ (by letI := @decIs; letI := @decIssues; letI := @decPair; letI := @decTidy; infer_instance) ?_
  decide +kernel
def iS3 : Instr := .st always (.v 8) (.v 4) (.short 0) false .b64 .g true .device
def st11 : State := (pg (fourAt iS3 r4))
theorem witness_StoresIssued_2_2_2_1 :
    Issues st11
      (Instr.st always (Reg.v (8 : Fin 608)) (Reg.v (4 : Fin 608)) (MemOff.short (0 : BitVec 10)) false Width.b64 Space.g true
        Scope.device)
      (w0 st11) (w0 st11).active.get! (g0 st11) (xOf st11 iS3) [] []
    ∧ NoOpenOperand
      (Instr.st always (Reg.v (8 : Fin 608)) (Reg.v (4 : Fin 608)) (MemOff.short (0 : BitVec 10)) false Width.b64 Space.g true
        Scope.device)
      (g0 st11) (xOf st11 iS3) []
    ∧ xOf st11 iS3 ≠ []
    ∧ ((∀ (o : Op), o ∈ st11.ops → o.issue ≠ (w0 st11).active.get!.part.getD st11.nextId) ∧
      (∀ (f : Fibre),
          f ∈ xOf st11 iS3 →
            ∀ (k : Fibre),
              k ∈ xOf st11 iS3 →
                f.lane ≠ k.lane →
                  ∀ (p : Nat),
                    p ∈
                        byteAddrs Space.g
                          (((↑(BitVec.toNat (f.pair (g0 st11) (Reg.v (8 : Fin 608)))) : Int) + (MemOff.short (0 : BitVec 10)).toInt) %
                              (2 : Int) ^ 52).toNat
                          8 →
                      ∀ (q : Nat),
                        q ∈
                            byteAddrs Space.g
                              (((↑(BitVec.toNat (k.pair (g0 st11) (Reg.v (8 : Fin 608)))) : Int) +
                                    (MemOff.short (0 : BitVec 10)).toInt) %
                                  (2 : Int) ^ 52).toNat
                              8 →
                          p ≠ q ∧
                            (Space.g.translated = true →
                              ∀ (c d : Nat × Nat),
                                (st11.translate (corePlaces ((w0 st11).wid / 48)) (g0 st11).ctx (p % 2 ^ 52)
                                        Access.write).fst =
                                    Except.ok c →
                                  (st11.translate (corePlaces ((w0 st11).wid / 48)) (g0 st11).ctx (q % 2 ^ 52)
                                          Access.write).fst =
                                      Except.ok d →
                                    c.fst ≠ d.fst)) ∧
        ∀ (f : Fibre),
          f ∈ xOf st11 iS3 →
            have ad :=
              (((↑(BitVec.toNat (f.pair (g0 st11) (Reg.v (8 : Fin 608)))) : Int) + (MemOff.short (0 : BitVec 10)).toInt) %
                  (2 : Int) ^ 52).toNat;
            (ad % 8 = 0 ∧ True) ∧
              (Space.g = Space.s → ∀ (p : Nat), (g0 st11).scratchAt ad ≠ some ((w0 st11).wid / 48, p)) ∧
                Serves st11 (w0 st11) (g0 st11) Space.g ad 8 Access.write) :=
  by
  refine @of_decide_eq_true _ (by letI := @decIssues; letI := @decNoOpen; letI := @decNotPair; letI := @decOkBoth; letI := @decServes; try dsimp only; infer_instance) ?_
  decide +kernel
def iS4 : Instr := .st always (.v 12) (.v 4) (.short 0) false .b64 .g true .device
def st12 : State := (pg (fourAt iS4 r4))
theorem witness_StoresIssued_2_2_2_2_1 :
    Issues st12
      (Instr.st always (Reg.v (12 : Fin 608)) (Reg.v (4 : Fin 608)) (MemOff.short (0 : BitVec 10)) false Width.b64 Space.g
        true Scope.device)
      (w0 st12) (w0 st12).active.get! (g0 st12) (xOf st12 iS4) [] []
    ∧ List.find?
        (fun (k : Fibre) =>
          (st12.accessCause (w0 st12) (g0 st12) Space.g
              (((↑(BitVec.toNat (k.pair (g0 st12) (Reg.v (12 : Fin 608)))) : Int) + (MemOff.short (0 : BitVec 10)).toInt) %
                  (2 : Int) ^ 52).toNat
              8).isSome)
        (xOf st12 iS4) =
      some (x0 st12 iS4) :=
  by
  refine @of_decide_eq_true _ (by letI := @decIssues; infer_instance) ?_
  decide +kernel
def stOp (id lane ad : Nat) : Op := { loadOp with id := id, issue := 30, fid := lane, lane := lane, vlane := lane, kind := .store .g ad 4 [(0, 1), (1, 2), (2, 3), (3, 4)] false, pins := [(0x10000, 0x50000, 0)] }
def sMg := { fourAt .nopShort r4 with ops := [stOp 40 0 0x10000, stOp 41 1 0x10002] }
theorem witness_StoresIssued_2_2_2_2_2 :
    stOp 40 0 65536 ∈ sMg.ops
    ∧ (stOp 40 0 65536).issue = 30
    ∧ (stOp 40 0 65536).kind =
      OpKind.store Space.g 65536 4
        [(0, (1 : Byte)), (1, (2 : Byte)), (2, (3 : Byte)), (3, (4 : Byte))] false :=
  by decide +kernel
-- atomics
def iA : Instr := .atom always (.v 20) (.v 8) (.reg (.v 4)) false .casB64 .acqRel .device .g
def st13 : State := (pg (fourAt iA r4))
theorem witness_AtomicsIssued_1 :
    Issues st13
      (Instr.atom always (Reg.v (20 : Fin 608)) (Reg.v (8 : Fin 608)) (Src.reg (Reg.v (4 : Fin 608))) false AtomOp.casB64
        MemOrder.acqRel Scope.device Space3.g)
      (w0 st13) (w0 st13).active.get! (g0 st13) (xOf st13 iA) [] []
    ∧ NoOpenOperand
      (Instr.atom always (Reg.v (20 : Fin 608)) (Reg.v (8 : Fin 608)) (Src.reg (Reg.v (4 : Fin 608))) false AtomOp.casB64
        MemOrder.acqRel Scope.device Space3.g)
      (g0 st13) (xOf st13 iA) []
    ∧ xOf st13 iA ≠ []
    ∧ (∀ (f : Fibre),
      f ∈ xOf st13 iA →
        have ad := BitVec.toNat (f.pair (g0 st13) (Reg.v (8 : Fin 608))) % 2 ^ 52;
        ad % 8 = 0 ∧
          Serves st13 (w0 st13) (g0 st13) Space3.g.space ad 8 Access.atomic ∧
            (AtomOp.casB64 ∈ [AtomOp.addB32, AtomOp.addB64, AtomOp.exchB32, AtomOp.exchB64, AtomOp.casB32, AtomOp.casB64] ∨
              st13.onHostPage ((w0 st13).wid / 48) (g0 st13).ctx ad = false)) :=
  by
  refine @of_decide_eq_true _ (by letI := @decIssues; letI := @decNoOpen; letI := @decServes; try dsimp only; infer_instance) ?_
  decide +kernel
def iR : Instr := .red always (.v 0) (.lit 5) false .addB32 .rlx .group .s
def st14 : State := (scr (fourAt iR r4))
theorem witness_AtomicsIssued_2_1 :
    Issues st14 (Instr.red always (Reg.v (0 : Fin 608)) (Src.lit (5 : Word)) false AtomOp.addB32 MemOrder.rlx Scope.group Space3.s) (w0 st14)
      (w0 st14).active.get! (g0 st14) (xOf st14 iR) [] []
    ∧ NoOpenOperand (Instr.red always (Reg.v (0 : Fin 608)) (Src.lit (5 : Word)) false AtomOp.addB32 MemOrder.rlx Scope.group Space3.s) (g0 st14)
      (xOf st14 iR) []
    ∧ xOf st14 iR ≠ []
    ∧ (∀ (f : Fibre),
      f ∈ xOf st14 iR →
        have ad := BitVec.toNat (f.word (g0 st14) (Reg.v (0 : Fin 608)));
        ad % 4 = 0 ∧ Serves st14 (w0 st14) (g0 st14) Space3.s.space ad 4 Access.atomic ∧ ad < (g0 st14).scratch) :=
  by
  refine @of_decide_eq_true _ (by letI := @decIssues; letI := @decNoOpen; letI := @decServes; try dsimp only; infer_instance) ?_
  decide +kernel
def iAh : Instr := .atom always (.v 20) (.v 8) (.reg (.v 4)) false .maxU32 .rlx .device .g
def sAh := mapped 1 2 5 0 (at_ iAh [(8, 0x10000)])
theorem witness_AtomicsIssued_2_2 :
    List.find?
        (fun (k : Fibre) =>
          (sAh.accessCause (w0 sAh) (g0 sAh) Space3.g.space (BitVec.toNat (k.pair (g0 sAh) (Reg.v (8 : Fin 608))) % 2 ^ 52)
                4).isSome ||
            Space3.g == Space3.g &&
                ! [AtomOp.addB32, AtomOp.addB64, AtomOp.exchB32, AtomOp.exchB64, AtomOp.casB32, AtomOp.casB64].contains AtomOp.maxU32 &&
              sAh.onHostPage ((w0 sAh).wid / 48) (g0 sAh).ctx
                (BitVec.toNat (k.pair (g0 sAh) (Reg.v (8 : Fin 608))) % 2 ^ 52))
        (xOf sAh iAh) =
      some (f0 sAh)
    ∧ Issues sAh
      (Instr.atom always (Reg.v (20 : Fin 608)) (Reg.v (8 : Fin 608)) (Src.reg (Reg.v (4 : Fin 608))) false AtomOp.maxU32
        MemOrder.rlx Scope.device Space3.g)
      (w0 sAh) (w0 sAh).active.get! (g0 sAh) (xOf sAh iAh) [] [] :=
  by
  refine @of_decide_eq_true _ (by letI := @decIssues; infer_instance) ?_
  decide +kernel

end W10

/-! ## Premises met: `Obligations.AccessesCompleted`, `Obligations.FencePrefetchStages` -/

namespace W11

def r4 (l : Nat) : Sparse Word := [(0, BitVec.ofNat 32 (64 + 16 * l)), (1, BitVec.ofNat 32 (l + 2)), (3, BitVec.ofNat 32 (0x3F800000 + l * 0x800000)), (4, BitVec.ofNat 32 (7 - l)),(5, BitVec.ofNat 32 (l*l)), (8, BitVec.ofNat 32 (65536 + 256 * l)), (10, 8192), (12, 65538)]
def scr (s : State) := bytesAt (coreBase 0 + 2 * 8192 + 64) [1,2,3,0xF4,5,6,7,8,9,10,11,12,13,14,15,16,0xF1,0xF2] (shared s)
def flg (s : State) := byFibre (fun f => { f with flags := [(2, 2)] }) s
def ldO (w : Width) (ad : Nat) (d : List Nat) : Op := { loadOp with flag := some 2, kind := .load .g ad w d false none, pins := [(0x10000, 0x50000, 0)] }
def base1 (o : Op) := flg (inFlight [o] (bytesAt 0x50000 [0xF1, 2, 3, 0x84, 5, 6, 7, 8, 9] (at_ .nopShort)))
def sL1 := base1 (ldO .s8 0x10000 [3])
theorem witness_AccessesCompleted_1 :
    sL1.op? (ldO Width.s8 65536 [3]).id = some (ldO Width.s8 65536 [3])
    ∧ (ldO Width.s8 65536 [3]).kind = OpKind.load Space.g 65536 Width.s8 [3] false none
    ∧ (List.map Op.id sL1.ops).Nodup
    ∧ (∀ (b : Op),
      b ∈ sL1.ops →
        b.id ∈ sL1.mates (ldO Width.s8 65536 [3]) →
          (sL1.op? b.id = some b ∧
              b.record = none ∧
                b.spoil = [] ∧
                  sL1.behind b = false ∧
                    (Space.g.translated = true → b.pins ≠ []) ∧
                      sL1.tidy ∧
                        sL1.fibreOf? b.gid b.fid = some (w0 sL1, f0 sL1) ∧
                          sL1.warp? (w0 sL1).wid = some (w0 sL1) ∧
                            (w0 sL1).fibre? (f0 sL1).lane = some (f0 sL1) ∧ (w0 sL1).handler = none ∧ sL1.group? b.gid = some (g0 sL1)) ∧
            ∀ (c : Op),
              c ∈ sL1.ops →
                c.id ∈ sL1.mates (ldO Width.s8 65536 [3]) → b.id ≠ c.id → (w0 sL1).wid ≠ (w0 sL1).wid ∨ (f0 sL1).lane ≠ (f0 sL1).lane)
    ∧ (∀ (i : Nat),
      i < Width.s8.bytes →
        pinned (ldO Width.s8 65536 [3]).pins (byteAddr Space.g 65536 i % 2 ^ 52) =
            some (327680 + i, 0) ∧
          sL1.defined 0 (327680 + i) ∧ sL1.poisoned (327680 + i) 1 = false)
    ∧ ((Space.g.translated = false ∨ ∃ (sc : Scope), none = some sc ∧ wideAcquire (g0 sL1) sc = true) ∨
      (∃ (l : Nat), ∀ (i : Nat), i < Width.s8.bytes → (327680 + i) / 128 = l ∧ 0 = 0) ∨
        ∀ (i : Nat),
          i < Width.s8.bytes →
            ∀ (x : L1Line),
              x ∈ sL1.l1 → x.core = (ldO Width.s8 65536 [3]).core → x.addr ≠ (327680 + i) / 128 * 128) :=
  by
  refine @of_decide_eq_true _ (by letI := @decConst; letI := @decDefined; letI := @decSome; letI := @decTidy; infer_instance) ?_
  decide +kernel
def sL2 := base1 (ldO .b64 0x10000 [3, 4])
theorem witness_AccessesCompleted_1b :
    sL2.op? (ldO Width.b64 65536 [3, 4]).id = some (ldO Width.b64 65536 [3, 4])
    ∧ (ldO Width.b64 65536 [3, 4]).kind = OpKind.load Space.g 65536 Width.b64 [3, 4] false none
    ∧ (List.map Op.id sL2.ops).Nodup
    ∧ (∀ (b : Op),
      b ∈ sL2.ops →
        b.id ∈ sL2.mates (ldO Width.b64 65536 [3, 4]) →
          (sL2.op? b.id = some b ∧
              b.record = none ∧
                b.spoil = [] ∧
                  sL2.behind b = false ∧
                    (Space.g.translated = true → b.pins ≠ []) ∧
                      sL2.tidy ∧
                        sL2.fibreOf? b.gid b.fid = some (w0 sL2, f0 sL2) ∧
                          sL2.warp? (w0 sL2).wid = some (w0 sL2) ∧
                            (w0 sL2).fibre? (f0 sL2).lane = some (f0 sL2) ∧ (w0 sL2).handler = none ∧ sL2.group? b.gid = some (g0 sL2)) ∧
            ∀ (c : Op),
              c ∈ sL2.ops →
                c.id ∈ sL2.mates (ldO Width.b64 65536 [3, 4]) →
                  b.id ≠ c.id → (w0 sL2).wid ≠ (w0 sL2).wid ∨ (f0 sL2).lane ≠ (f0 sL2).lane)
    ∧ (∀ (i : Nat),
      i < Width.b64.bytes →
        pinned (ldO Width.b64 65536 [3, 4]).pins (byteAddr Space.g 65536 i % 2 ^ 52) =
            some (327680 + i, 0) ∧
          sL2.defined 0 (327680 + i) ∧ sL2.poisoned (327680 + i) 1 = false)
    ∧ ((Space.g.translated = false ∨ ∃ (sc : Scope), none = some sc ∧ wideAcquire (g0 sL2) sc = true) ∨
      (∃ (l : Nat), ∀ (i : Nat), i < Width.b64.bytes → (327680 + i) / 128 = l ∧ 0 = 0) ∨
        ∀ (i : Nat),
          i < Width.b64.bytes →
            ∀ (x : L1Line),
              x ∈ sL2.l1 →
                x.core = (ldO Width.b64 65536 [3, 4]).core → x.addr ≠ (327680 + i) / 128 * 128) :=
  by
  refine @of_decide_eq_true _ (by letI := @decConst; letI := @decDefined; letI := @decSome; letI := @decTidy; infer_instance) ?_
  decide +kernel
def sL3 := { base1 (ldO .b64 0x10000 [3, 4]) with l1 := [{ core := 0, addr := 0x50000, key := 0, bytes := List.replicate 128 0x77 }] }
theorem witness_AccessesCompleted_1c :
    sL3.op? (ldO Width.b64 65536 [3, 4]).id = some (ldO Width.b64 65536 [3, 4])
    ∧ (ldO Width.b64 65536 [3, 4]).kind = OpKind.load Space.g 65536 Width.b64 [3, 4] false none
    ∧ (List.map Op.id sL3.ops).Nodup
    ∧ (∀ (b : Op),
      b ∈ sL3.ops →
        b.id ∈ sL3.mates (ldO Width.b64 65536 [3, 4]) →
          (sL3.op? b.id = some b ∧
              b.record = none ∧
                b.spoil = [] ∧
                  sL3.behind b = false ∧
                    (Space.g.translated = true → b.pins ≠ []) ∧
                      sL3.tidy ∧
                        sL3.fibreOf? b.gid b.fid = some (w0 sL3, f0 sL3) ∧
                          sL3.warp? (w0 sL3).wid = some (w0 sL3) ∧
                            (w0 sL3).fibre? (f0 sL3).lane = some (f0 sL3) ∧ (w0 sL3).handler = none ∧ sL3.group? b.gid = some (g0 sL3)) ∧
            ∀ (c : Op),
              c ∈ sL3.ops →
                c.id ∈ sL3.mates (ldO Width.b64 65536 [3, 4]) →
                  b.id ≠ c.id → (w0 sL3).wid ≠ (w0 sL3).wid ∨ (f0 sL3).lane ≠ (f0 sL3).lane)
    ∧ (∀ (i : Nat),
      i < Width.b64.bytes →
        pinned (ldO Width.b64 65536 [3, 4]).pins (byteAddr Space.g 65536 i % 2 ^ 52) =
            some (327680 + i, 0) ∧
          sL3.defined 0 (327680 + i) ∧ sL3.poisoned (327680 + i) 1 = false)
    ∧ ((Space.g.translated = false ∨ ∃ (sc : Scope), none = some sc ∧ wideAcquire (g0 sL3) sc = true) ∨
      (∃ (l : Nat), ∀ (i : Nat), i < Width.b64.bytes → (327680 + i) / 128 = l ∧ 0 = 0) ∨
        ∀ (i : Nat),
          i < Width.b64.bytes →
            ∀ (x : L1Line),
              x ∈ sL3.l1 →
                x.core = (ldO Width.b64 65536 [3, 4]).core → x.addr ≠ (327680 + i) / 128 * 128) :=
  by
  refine @of_decide_eq_true _ (by letI := @decConst; letI := @decDefined; letI := @decSome; letI := @decTidy; infer_instance) ?_
  decide +kernel
def ldA : Op := { ldO .b64 0x10000 [3, 4] with kind := .load .g 0x10000 .b64 [3, 4] false (some .device) }
def sL4 := { base1 ldA with l1 := [{ core := 0, addr := 0x50000, key := 0, bytes := List.replicate 128 0x77 }] }
theorem witness_AccessesCompleted_1d :
    sL4.op? ldA.id = some ldA
    ∧ ldA.kind = OpKind.load Space.g 65536 Width.b64 [3, 4] false (some Scope.device)
    ∧ (List.map Op.id sL4.ops).Nodup
    ∧ (∀ (b : Op),
      b ∈ sL4.ops →
        b.id ∈ sL4.mates ldA →
          (sL4.op? b.id = some b ∧
              b.record = none ∧
                b.spoil = [] ∧
                  sL4.behind b = false ∧
                    (Space.g.translated = true → b.pins ≠ []) ∧
                      sL4.tidy ∧
                        sL4.fibreOf? b.gid b.fid = some (w0 sL4, f0 sL4) ∧
                          sL4.warp? (w0 sL4).wid = some (w0 sL4) ∧
                            (w0 sL4).fibre? (f0 sL4).lane = some (f0 sL4) ∧ (w0 sL4).handler = none ∧ sL4.group? b.gid = some (g0 sL4)) ∧
            ∀ (c : Op), c ∈ sL4.ops → c.id ∈ sL4.mates ldA → b.id ≠ c.id → (w0 sL4).wid ≠ (w0 sL4).wid ∨ (f0 sL4).lane ≠ (f0 sL4).lane)
    ∧ (∀ (i : Nat),
      i < Width.b64.bytes →
        pinned ldA.pins (byteAddr Space.g 65536 i % 2 ^ 52) = some (327680 + i, 0) ∧
          sL4.defined 0 (327680 + i) ∧ sL4.poisoned (327680 + i) 1 = false)
    ∧ ((Space.g.translated = false ∨ ∃ (sc : Scope), some Scope.device = some sc ∧ wideAcquire (g0 sL4) sc = true) ∨
      (∃ (l : Nat), ∀ (i : Nat), i < Width.b64.bytes → (327680 + i) / 128 = l ∧ 0 = 0) ∨
        ∀ (i : Nat), i < Width.b64.bytes → ∀ (x : L1Line), x ∈ sL4.l1 → x.core = ldA.core → x.addr ≠ (327680 + i) / 128 * 128) :=
  by
  refine @of_decide_eq_true _ (by letI := @decConst; letI := @decDefined; letI := @decSome; letI := @decTidy; infer_instance) ?_
  decide +kernel
def ldB : Op := { ldO .s8 0x10000 [3] with id := 8, fid := 1, lane := 1, vlane := 1, flag := none }
def sL5 := inFlight [ldB] (flg (inFlight [ldO .s8 0x10000 [3]] (bytesAt 0x50000 [0xF1] (fourAt .nopShort r4))))
theorem witness_AccessesCompleted_1e :
    sL5.op? (ldO Width.s8 65536 [3]).id = some (ldO Width.s8 65536 [3])
    ∧ (ldO Width.s8 65536 [3]).kind = OpKind.load Space.g 65536 Width.s8 [3] false none
    ∧ (List.map Op.id sL5.ops).Nodup
    ∧ (∀ (b : Op),
      b ∈ sL5.ops →
        b.id ∈ sL5.mates (ldO Width.s8 65536 [3]) →
          (sL5.op? b.id = some b ∧
              b.record = none ∧
                b.spoil = [] ∧
                  sL5.behind b = false ∧
                    (Space.g.translated = true → b.pins ≠ []) ∧
                      sL5.tidy ∧
                        sL5.fibreOf? b.gid b.fid = some (w0 sL5, ((w0 sL5).fibre? (b.id - 7)).get!) ∧
                          sL5.warp? (w0 sL5).wid = some (w0 sL5) ∧
                            (w0 sL5).fibre? ((w0 sL5).fibre? (b.id - 7)).get!.lane = some ((w0 sL5).fibre? (b.id - 7)).get! ∧
                              (w0 sL5).handler = none ∧ sL5.group? b.gid = some (g0 sL5)) ∧
            ∀ (c : Op),
              c ∈ sL5.ops →
                c.id ∈ sL5.mates (ldO Width.s8 65536 [3]) →
                  b.id ≠ c.id →
                    (w0 sL5).wid ≠ (w0 sL5).wid ∨ ((w0 sL5).fibre? (b.id - 7)).get!.lane ≠ ((w0 sL5).fibre? (c.id - 7)).get!.lane)
    ∧ (∀ (i : Nat),
      i < Width.s8.bytes →
        pinned (ldO Width.s8 65536 [3]).pins (byteAddr Space.g 65536 i % 2 ^ 52) =
            some (327680 + i, 0) ∧
          sL5.defined 0 (327680 + i) ∧ sL5.poisoned (327680 + i) 1 = false)
    ∧ ((Space.g.translated = false ∨ ∃ (sc : Scope), none = some sc ∧ wideAcquire (g0 sL5) sc = true) ∨
      (∃ (l : Nat), ∀ (i : Nat), i < Width.s8.bytes → (327680 + i) / 128 = l ∧ 0 = 0) ∨
        ∀ (i : Nat),
          i < Width.s8.bytes →
            ∀ (x : L1Line),
              x ∈ sL5.l1 → x.core = (ldO Width.s8 65536 [3]).core → x.addr ≠ (327680 + i) / 128 * 128) :=
  by
  refine @of_decide_eq_true _ (by letI := @decConst; letI := @decDefined; letI := @decSome; letI := @decTidy; infer_instance) ?_
  decide +kernel
def stO : Op := { loadOp with flag := some 2, kind := .store .g 0x10004 4 [(0, 1), (1, 2), (2, 0), (3, 4)] true, pins := [(0x10000, 0x50000, 0)] }
def sS1 := base1 stO
theorem witness_AccessesCompleted_2_1 :
    (sS1.op? stO.id = some stO ∧
      stO.record = none ∧
        stO.spoil = [] ∧
          sS1.behind stO = false ∧
            (Space.g.translated = true → stO.pins ≠ []) ∧
              sS1.tidy ∧
                sS1.fibreOf? stO.gid stO.fid = some (w0 sS1, f0 sS1) ∧
                  sS1.warp? (w0 sS1).wid = some (w0 sS1) ∧
                    (w0 sS1).fibre? (f0 sS1).lane = some (f0 sS1) ∧ (w0 sS1).handler = none ∧ sS1.group? stO.gid = some (g0 sS1))
    ∧ stO.kind =
      OpKind.store Space.g 65540 4
        [(0, (1 : Byte)), (1, (2 : Byte)), (2, (0 : Byte)), (3, (4 : Byte))] true
    ∧ sS1.releasable stO = true
    ∧ (∀ (b : Nat × Byte),
      b ∈ [(0, (1 : Byte)), (1, (2 : Byte)), (2, (0 : Byte)), (3, (4 : Byte))] →
        pinned stO.pins (byteAddr Space.g 65540 b.fst % 2 ^ 52) = some (327684 + b.fst, 0)) :=
  by
  refine @of_decide_eq_true _ (by letI := @decTidy; infer_instance) ?_
  decide +kernel
def stS : Op := { loadOp with flag := some 2, kind := .store .s 8200 4 [(0, 1), (1, 2), (2, 0), (3, 4)] false }
def sS2 := shared (base1 stS)
theorem witness_AccessesCompleted_2_1b :
    (sS2.op? stS.id = some stS ∧
      stS.record = none ∧
        stS.spoil = [] ∧
          sS2.behind stS = false ∧
            (Space.s.translated = true → stS.pins ≠ []) ∧
              sS2.tidy ∧
                sS2.fibreOf? stS.gid stS.fid = some (w0 sS2, f0 sS2) ∧
                  sS2.warp? (w0 sS2).wid = some (w0 sS2) ∧
                    (w0 sS2).fibre? (f0 sS2).lane = some (f0 sS2) ∧ (w0 sS2).handler = none ∧ sS2.group? stS.gid = some (g0 sS2))
    ∧ stS.kind =
      OpKind.store Space.s 8200 4 [(0, (1 : Byte)), (1, (2 : Byte)), (2, (0 : Byte)), (3, (4 : Byte))]
        false
    ∧ (∀ (b : Nat × Byte),
      b ∈ [(0, (1 : Byte)), (1, (2 : Byte)), (2, (0 : Byte)), (3, (4 : Byte))] →
        Option.map (fun (p : Nat × Nat) => (p.snd, (g0 sS2).ctx)) ((g0 sS2).scratchAt (byteAddr Space.s 8200 b.fst)) =
          some (coreBase 1 + 5 * 8192 + 8 + b.fst, 0)) :=
  by
  refine @of_decide_eq_true _ (by letI := @decTidy; infer_instance) ?_
  decide +kernel
def atO (op : AtomOp) (ws : List Word) (dst : Option (List Nat)) : Op := { loadOp with flag := some 2, kind := .atomic .g 0x10000 op ws .acqRel dst, pins := [(0x10000, 0x50000, 0)] }
def sA1 := base1 (atO .casB64 [0x840302F1, 0x08070605, 9, 10] (some [3, 4]))
theorem witness_AccessesCompleted_2_2 :
    (sA1.op? (atO AtomOp.casB64 [(2214789873 : Word), (134678021 : Word), (9 : Word), (10 : Word)] (some [3, 4])).id =
        some (atO AtomOp.casB64 [(2214789873 : Word), (134678021 : Word), (9 : Word), (10 : Word)] (some [3, 4])) ∧
      (atO AtomOp.casB64 [(2214789873 : Word), (134678021 : Word), (9 : Word), (10 : Word)] (some [3, 4])).record = none ∧
        (atO AtomOp.casB64 [(2214789873 : Word), (134678021 : Word), (9 : Word), (10 : Word)] (some [3, 4])).spoil = [] ∧
          sA1.behind (atO AtomOp.casB64 [(2214789873 : Word), (134678021 : Word), (9 : Word), (10 : Word)] (some [3, 4])) = false ∧
            (Space.g.translated = true →
                (atO AtomOp.casB64 [(2214789873 : Word), (134678021 : Word), (9 : Word), (10 : Word)] (some [3, 4])).pins ≠ []) ∧
              sA1.tidy ∧
                sA1.fibreOf? (atO AtomOp.casB64 [(2214789873 : Word), (134678021 : Word), (9 : Word), (10 : Word)] (some [3, 4])).gid
                      (atO AtomOp.casB64 [(2214789873 : Word), (134678021 : Word), (9 : Word), (10 : Word)] (some [3, 4])).fid =
                    some (w0 sA1, f0 sA1) ∧
                  sA1.warp? (w0 sA1).wid = some (w0 sA1) ∧
                    (w0 sA1).fibre? (f0 sA1).lane = some (f0 sA1) ∧
                      (w0 sA1).handler = none ∧
                        sA1.group?
                            (atO AtomOp.casB64 [(2214789873 : Word), (134678021 : Word), (9 : Word), (10 : Word)] (some [3, 4])).gid =
                          some (g0 sA1))
    ∧ (atO AtomOp.casB64 [(2214789873 : Word), (134678021 : Word), (9 : Word), (10 : Word)] (some [3, 4])).kind =
      OpKind.atomic Space.g 65536 AtomOp.casB64 [(2214789873 : Word), (134678021 : Word), (9 : Word), (10 : Word)] MemOrder.acqRel
        (some [3, 4])
    ∧ sA1.releasable (atO AtomOp.casB64 [(2214789873 : Word), (134678021 : Word), (9 : Word), (10 : Word)] (some [3, 4])) = true
    ∧ (∀ (p : Nat × Nat × Nat),
      p ∈ (atO AtomOp.casB64 [(2214789873 : Word), (134678021 : Word), (9 : Word), (10 : Word)] (some [3, 4])).pins →
        storage p.snd.fst ≠ Storage.host)
    ∧ (∀ (i : Nat),
      i < AtomOp.casB64.bytes →
        pinned (atO AtomOp.casB64 [(2214789873 : Word), (134678021 : Word), (9 : Word), (10 : Word)] (some [3, 4])).pins
              (byteAddr Space.g 65536 i % 2 ^ 52) =
            some (327680 + i, 0) ∧
          sA1.defined 0 (327680 + i) ∧ (Space.g ≠ Space.s → sA1.poisoned (327680 + i) 1 = false)) :=
  by
  refine @of_decide_eq_true _ (by letI := @decDefined; letI := @decTidy; infer_instance) ?_
  decide +kernel
def sA2 := base1 (atO .casB64 [0x840302F2, 0x08070605, 9, 10] (some [3, 4]))
theorem witness_AccessesCompleted_2_2b :
    (sA2.op? (atO AtomOp.casB64 [(2214789874 : Word), (134678021 : Word), (9 : Word), (10 : Word)] (some [3, 4])).id =
        some (atO AtomOp.casB64 [(2214789874 : Word), (134678021 : Word), (9 : Word), (10 : Word)] (some [3, 4])) ∧
      (atO AtomOp.casB64 [(2214789874 : Word), (134678021 : Word), (9 : Word), (10 : Word)] (some [3, 4])).record = none ∧
        (atO AtomOp.casB64 [(2214789874 : Word), (134678021 : Word), (9 : Word), (10 : Word)] (some [3, 4])).spoil = [] ∧
          sA2.behind (atO AtomOp.casB64 [(2214789874 : Word), (134678021 : Word), (9 : Word), (10 : Word)] (some [3, 4])) = false ∧
            (Space.g.translated = true →
                (atO AtomOp.casB64 [(2214789874 : Word), (134678021 : Word), (9 : Word), (10 : Word)] (some [3, 4])).pins ≠ []) ∧
              sA2.tidy ∧
                sA2.fibreOf? (atO AtomOp.casB64 [(2214789874 : Word), (134678021 : Word), (9 : Word), (10 : Word)] (some [3, 4])).gid
                      (atO AtomOp.casB64 [(2214789874 : Word), (134678021 : Word), (9 : Word), (10 : Word)] (some [3, 4])).fid =
                    some (w0 sA2, f0 sA2) ∧
                  sA2.warp? (w0 sA2).wid = some (w0 sA2) ∧
                    (w0 sA2).fibre? (f0 sA2).lane = some (f0 sA2) ∧
                      (w0 sA2).handler = none ∧
                        sA2.group?
                            (atO AtomOp.casB64 [(2214789874 : Word), (134678021 : Word), (9 : Word), (10 : Word)] (some [3, 4])).gid =
                          some (g0 sA2))
    ∧ (atO AtomOp.casB64 [(2214789874 : Word), (134678021 : Word), (9 : Word), (10 : Word)] (some [3, 4])).kind =
      OpKind.atomic Space.g 65536 AtomOp.casB64 [(2214789874 : Word), (134678021 : Word), (9 : Word), (10 : Word)] MemOrder.acqRel
        (some [3, 4])
    ∧ sA2.releasable (atO AtomOp.casB64 [(2214789874 : Word), (134678021 : Word), (9 : Word), (10 : Word)] (some [3, 4])) = true
    ∧ (∀ (p : Nat × Nat × Nat),
      p ∈ (atO AtomOp.casB64 [(2214789874 : Word), (134678021 : Word), (9 : Word), (10 : Word)] (some [3, 4])).pins →
        storage p.snd.fst ≠ Storage.host)
    ∧ (∀ (i : Nat),
      i < AtomOp.casB64.bytes →
        pinned (atO AtomOp.casB64 [(2214789874 : Word), (134678021 : Word), (9 : Word), (10 : Word)] (some [3, 4])).pins
              (byteAddr Space.g 65536 i % 2 ^ 52) =
            some (327680 + i, 0) ∧
          sA2.defined 0 (327680 + i) ∧ (Space.g ≠ Space.s → sA2.poisoned (327680 + i) 1 = false)) :=
  by
  refine @of_decide_eq_true _ (by letI := @decDefined; letI := @decTidy; infer_instance) ?_
  decide +kernel
def sA3 := base1 (atO .minS32 [7] none)
theorem witness_AccessesCompleted_2_2c :
    (sA3.op? (atO AtomOp.minS32 [(7 : Word)] none).id = some (atO AtomOp.minS32 [(7 : Word)] none) ∧
      (atO AtomOp.minS32 [(7 : Word)] none).record = none ∧
        (atO AtomOp.minS32 [(7 : Word)] none).spoil = [] ∧
          sA3.behind (atO AtomOp.minS32 [(7 : Word)] none) = false ∧
            (Space.g.translated = true → (atO AtomOp.minS32 [(7 : Word)] none).pins ≠ []) ∧
              sA3.tidy ∧
                sA3.fibreOf? (atO AtomOp.minS32 [(7 : Word)] none).gid (atO AtomOp.minS32 [(7 : Word)] none).fid = some (w0 sA3, f0 sA3) ∧
                  sA3.warp? (w0 sA3).wid = some (w0 sA3) ∧
                    (w0 sA3).fibre? (f0 sA3).lane = some (f0 sA3) ∧
                      (w0 sA3).handler = none ∧ sA3.group? (atO AtomOp.minS32 [(7 : Word)] none).gid = some (g0 sA3))
    ∧ (atO AtomOp.minS32 [(7 : Word)] none).kind = OpKind.atomic Space.g 65536 AtomOp.minS32 [(7 : Word)] MemOrder.acqRel none
    ∧ sA3.releasable (atO AtomOp.minS32 [(7 : Word)] none) = true
    ∧ (∀ (p : Nat × Nat × Nat), p ∈ (atO AtomOp.minS32 [(7 : Word)] none).pins → storage p.snd.fst ≠ Storage.host)
    ∧ (∀ (i : Nat),
      i < AtomOp.minS32.bytes →
        pinned (atO AtomOp.minS32 [(7 : Word)] none).pins (byteAddr Space.g 65536 i % 2 ^ 52) =
            some (327680 + i, 0) ∧
          sA3.defined 0 (327680 + i) ∧ (Space.g ≠ Space.s → sA3.poisoned (327680 + i) 1 = false)) :=
  by
  refine @of_decide_eq_true _ (by letI := @decDefined; letI := @decTidy; infer_instance) ?_
  decide +kernel
def sA4 := base1 (atO .faddBf16x2 [0x3F804000] none)
theorem witness_AccessesCompleted_2_2d :
    (sA4.op? (atO AtomOp.faddBf16x2 [(1065369600 : Word)] none).id = some (atO AtomOp.faddBf16x2 [(1065369600 : Word)] none) ∧
      (atO AtomOp.faddBf16x2 [(1065369600 : Word)] none).record = none ∧
        (atO AtomOp.faddBf16x2 [(1065369600 : Word)] none).spoil = [] ∧
          sA4.behind (atO AtomOp.faddBf16x2 [(1065369600 : Word)] none) = false ∧
            (Space.g.translated = true → (atO AtomOp.faddBf16x2 [(1065369600 : Word)] none).pins ≠ []) ∧
              sA4.tidy ∧
                sA4.fibreOf? (atO AtomOp.faddBf16x2 [(1065369600 : Word)] none).gid (atO AtomOp.faddBf16x2 [(1065369600 : Word)] none).fid =
                    some (w0 sA4, f0 sA4) ∧
                  sA4.warp? (w0 sA4).wid = some (w0 sA4) ∧
                    (w0 sA4).fibre? (f0 sA4).lane = some (f0 sA4) ∧
                      (w0 sA4).handler = none ∧ sA4.group? (atO AtomOp.faddBf16x2 [(1065369600 : Word)] none).gid = some (g0 sA4))
    ∧ (atO AtomOp.faddBf16x2 [(1065369600 : Word)] none).kind =
      OpKind.atomic Space.g 65536 AtomOp.faddBf16x2 [(1065369600 : Word)] MemOrder.acqRel none
    ∧ sA4.releasable (atO AtomOp.faddBf16x2 [(1065369600 : Word)] none) = true
    ∧ (∀ (p : Nat × Nat × Nat), p ∈ (atO AtomOp.faddBf16x2 [(1065369600 : Word)] none).pins → storage p.snd.fst ≠ Storage.host)
    ∧ (∀ (i : Nat),
      i < AtomOp.faddBf16x2.bytes →
        pinned (atO AtomOp.faddBf16x2 [(1065369600 : Word)] none).pins (byteAddr Space.g 65536 i % 2 ^ 52) =
            some (327680 + i, 0) ∧
          sA4.defined 0 (327680 + i) ∧ (Space.g ≠ Space.s → sA4.poisoned (327680 + i) 1 = false)) :=
  by
  refine @of_decide_eq_true _ (by letI := @decDefined; letI := @decTidy; infer_instance) ?_
  decide +kernel
def sA5 := base1 (atO .maxS64 [7, 0] (some [5, 6]))
theorem witness_AccessesCompleted_2_2e :
    (sA5.op? (atO AtomOp.maxS64 [(7 : Word), (0 : Word)] (some [5, 6])).id =
        some (atO AtomOp.maxS64 [(7 : Word), (0 : Word)] (some [5, 6])) ∧
      (atO AtomOp.maxS64 [(7 : Word), (0 : Word)] (some [5, 6])).record = none ∧
        (atO AtomOp.maxS64 [(7 : Word), (0 : Word)] (some [5, 6])).spoil = [] ∧
          sA5.behind (atO AtomOp.maxS64 [(7 : Word), (0 : Word)] (some [5, 6])) = false ∧
            (Space.g.translated = true → (atO AtomOp.maxS64 [(7 : Word), (0 : Word)] (some [5, 6])).pins ≠ []) ∧
              sA5.tidy ∧
                sA5.fibreOf? (atO AtomOp.maxS64 [(7 : Word), (0 : Word)] (some [5, 6])).gid
                      (atO AtomOp.maxS64 [(7 : Word), (0 : Word)] (some [5, 6])).fid =
                    some (w0 sA5, f0 sA5) ∧
                  sA5.warp? (w0 sA5).wid = some (w0 sA5) ∧
                    (w0 sA5).fibre? (f0 sA5).lane = some (f0 sA5) ∧
                      (w0 sA5).handler = none ∧
                        sA5.group? (atO AtomOp.maxS64 [(7 : Word), (0 : Word)] (some [5, 6])).gid = some (g0 sA5))
    ∧ (atO AtomOp.maxS64 [(7 : Word), (0 : Word)] (some [5, 6])).kind =
      OpKind.atomic Space.g 65536 AtomOp.maxS64 [(7 : Word), (0 : Word)] MemOrder.acqRel (some [5, 6])
    ∧ sA5.releasable (atO AtomOp.maxS64 [(7 : Word), (0 : Word)] (some [5, 6])) = true
    ∧ (∀ (p : Nat × Nat × Nat), p ∈ (atO AtomOp.maxS64 [(7 : Word), (0 : Word)] (some [5, 6])).pins → storage p.snd.fst ≠ Storage.host)
    ∧ (∀ (i : Nat),
      i < AtomOp.maxS64.bytes →
        pinned (atO AtomOp.maxS64 [(7 : Word), (0 : Word)] (some [5, 6])).pins
              (byteAddr Space.g 65536 i % 2 ^ 52) =
            some (327680 + i, 0) ∧
          sA5.defined 0 (327680 + i) ∧ (Space.g ≠ Space.s → sA5.poisoned (327680 + i) 1 = false)) :=
  by
  refine @of_decide_eq_true _ (by letI := @decDefined; letI := @decTidy; infer_instance) ?_
  decide +kernel
def sA6 := base1 (atO .fmaxabsF32 [0xC0800000] (some [5]))
theorem witness_AccessesCompleted_2_2f :
    (sA6.op? (atO AtomOp.fmaxabsF32 [(3229614080 : Word)] (some [5])).id = some (atO AtomOp.fmaxabsF32 [(3229614080 : Word)] (some [5])) ∧
      (atO AtomOp.fmaxabsF32 [(3229614080 : Word)] (some [5])).record = none ∧
        (atO AtomOp.fmaxabsF32 [(3229614080 : Word)] (some [5])).spoil = [] ∧
          sA6.behind (atO AtomOp.fmaxabsF32 [(3229614080 : Word)] (some [5])) = false ∧
            (Space.g.translated = true → (atO AtomOp.fmaxabsF32 [(3229614080 : Word)] (some [5])).pins ≠ []) ∧
              sA6.tidy ∧
                sA6.fibreOf? (atO AtomOp.fmaxabsF32 [(3229614080 : Word)] (some [5])).gid
                      (atO AtomOp.fmaxabsF32 [(3229614080 : Word)] (some [5])).fid =
                    some (w0 sA6, f0 sA6) ∧
                  sA6.warp? (w0 sA6).wid = some (w0 sA6) ∧
                    (w0 sA6).fibre? (f0 sA6).lane = some (f0 sA6) ∧
                      (w0 sA6).handler = none ∧ sA6.group? (atO AtomOp.fmaxabsF32 [(3229614080 : Word)] (some [5])).gid = some (g0 sA6))
    ∧ (atO AtomOp.fmaxabsF32 [(3229614080 : Word)] (some [5])).kind =
      OpKind.atomic Space.g 65536 AtomOp.fmaxabsF32 [(3229614080 : Word)] MemOrder.acqRel (some [5])
    ∧ sA6.releasable (atO AtomOp.fmaxabsF32 [(3229614080 : Word)] (some [5])) = true
    ∧ (∀ (p : Nat × Nat × Nat), p ∈ (atO AtomOp.fmaxabsF32 [(3229614080 : Word)] (some [5])).pins → storage p.snd.fst ≠ Storage.host)
    ∧ (∀ (i : Nat),
      i < AtomOp.fmaxabsF32.bytes →
        pinned (atO AtomOp.fmaxabsF32 [(3229614080 : Word)] (some [5])).pins (byteAddr Space.g 65536 i % 2 ^ 52) =
            some (327680 + i, 0) ∧
          sA6.defined 0 (327680 + i) ∧ (Space.g ≠ Space.s → sA6.poisoned (327680 + i) 1 = false)) :=
  by
  refine @of_decide_eq_true _ (by letI := @decDefined; letI := @decTidy; infer_instance) ?_
  decide +kernel
-- fence
def l1s (s : State) := { s with l1 := [{ core := 0, addr := 0x50000, key := 0, bytes := List.replicate 128 0x77 }, { core := 1, addr := 0x50000, key := 0, bytes := List.replicate 128 0x77 }] }
def iFe : Instr := .fence always .device .acqRel
def sFencePrefetch_1 : State := (l1s (fourAt iFe r4))
theorem witness_FencePrefetch_1 :
    Issues sFencePrefetch_1 (Instr.fence always Scope.device FenceKind.acqRel) (wOf sFencePrefetch_1) (aOf sFencePrefetch_1) (gOf sFencePrefetch_1)
      (xOf sFencePrefetch_1 iFe) (eOf sFencePrefetch_1 iFe) (pOf sFencePrefetch_1 iFe)
    ∧ NoOpenOperand (Instr.fence always Scope.device FenceKind.acqRel) (gOf sFencePrefetch_1) (xOf sFencePrefetch_1 iFe) (eOf sFencePrefetch_1 iFe)
    ∧ xOf sFencePrefetch_1 iFe ≠ []
    ∧ (∀ (f : Fibre),
      f ∈ xOf sFencePrefetch_1 iFe →
        ∀ (o : Op),
          o ∈ sFencePrefetch_1.opsOf (wOf sFencePrefetch_1).gid f.id →
            o.order < (aOf sFencePrefetch_1).part.getD sFencePrefetch_1.nextId → ¬o.isAccess = true) :=
  by
  refine @of_decide_eq_true _ (by letI := @decIssues; letI := @decNoOpen; infer_instance) ?_
  decide +kernel
def sFe := { inFlight [{ loadOp with id := 0, issue := 0 }] (fourAt iFe r4) with nextId := 9 }
theorem witness_FencePrefetch_2_1 :
    Issues sFe (Instr.fence always Scope.device FenceKind.acqRel) (wOf sFe) (aOf sFe) (gOf sFe) (xOf sFe iFe) [] []
    ∧ (∃ (f : Fibre), f ∈ xOf sFe iFe ∧ ∃ (o : Op), o ∈ sFe.opsOf (wOf sFe).gid f.id ∧ o.isAccess = true ∧ o.order < (aOf sFe).part.getD sFe.nextId) :=
  by
  refine @of_decide_eq_true _ (by letI := @decIssues; infer_instance) ?_
  decide +kernel
def iPf : Instr := .pref always (.v 8) (.short 0) false
def sPf := l1s (mapped 1 0 6 0 (fourAt iPf r4))
theorem witness_FencePrefetch_2_2 :
    Issues sPf (Instr.pref always (Reg.v (8 : Fin 608)) (MemOff.short (0 : BitVec 10)) false) (wOf sPf) (aOf sPf) (gOf sPf) (xOf sPf iPf)
      [] [] :=
  by
  refine @of_decide_eq_true _ (by letI := @decIssues; infer_instance) ?_
  decide +kernel
-- rings
def rr3 (l : Nat) : Sparse Word := [(4, BitVec.ofNat 32 (l + 1))]
def iSi : Instr := .srinit always (.v 0) (.v 2) (.v 14) 7
def rr (l : Nat) : Sparse Word := [(0, 64), (2, 0x11), (14, 0x10002), (5, 1), (4, BitVec.ofNat 32 (l % 2))]
def sStageRings_1 : State := (shared (fourAt iSi rr))
theorem witness_StageRings_1 :
    Issues sStageRings_1
      (Instr.srinit always (Reg.v (0 : Fin 608)) (Reg.v (2 : Fin 608)) (Reg.v (14 : Fin 608)) (7 : Fin 8))
      (wOf sStageRings_1) (aOf sStageRings_1) (gOf sStageRings_1) (xOf sStageRings_1 iSi) (eOf sStageRings_1 iSi) (pOf sStageRings_1 iSi)
    ∧ NoOpenOperand (Instr.srinit always (Reg.v (0 : Fin 608)) (Reg.v (2 : Fin 608)) (Reg.v (14 : Fin 608)) (7 : Fin 8))
      (gOf sStageRings_1) (xOf sStageRings_1 iSi) (eOf sStageRings_1 iSi)
    ∧ xOf sStageRings_1 iSi ≠ []
    ∧ ((∀ (f : Fibre),
        f ∈ xOf sStageRings_1 iSi →
          BitVec.toNat (f.word (gOf sStageRings_1) (Reg.v (0 : Fin 608))) % 16 = 0 ∧
            0 < BitVec.toNat (f.word (gOf sStageRings_1) (Reg.v (2 : Fin 608))) / 16 % 2 ^ 16 ∧
              BitVec.toNat (f.word (gOf sStageRings_1) (Reg.v (2 : Fin 608))) / 2 ^ 20 = 0 ∧
                (0 < BitVec.toNat (f.word (gOf sStageRings_1) (Reg.v (14 : Fin 608))) % 2 ^ 12 ∧
                    BitVec.toNat (f.word (gOf sStageRings_1) (Reg.v (14 : Fin 608))) % 2 ^ 12 ≤ 2048) ∧
                  (0 <
                        BitVec.toNat (f.word (gOf sStageRings_1) (Reg.v (14 : Fin 608))) / 2 ^ 16 % 2 ^ 12 ∧
                      BitVec.toNat (f.word (gOf sStageRings_1) (Reg.v (14 : Fin 608))) / 2 ^ 16 % 2 ^ 12 ≤
                        2048) ∧
                    BitVec.toNat (f.word (gOf sStageRings_1) (Reg.v (14 : Fin 608))) / 2 ^ 12 % 16 = 0 ∧
                      BitVec.toNat (f.word (gOf sStageRings_1) (Reg.v (14 : Fin 608))) / 2 ^ 28 = 0 ∧
                        BitVec.toNat (f.word (gOf sStageRings_1) (Reg.v (0 : Fin 608))) +
                            (BitVec.toNat (f.word (gOf sStageRings_1) (Reg.v (2 : Fin 608))) % 16 + 1) *
                              (16 *
                                (BitVec.toNat (f.word (gOf sStageRings_1) (Reg.v (2 : Fin 608))) / 16 % 2 ^ 16)) ≤
                          (gOf sStageRings_1).scratch) ∧
      ∀ (o : Op),
        o ∈ sStageRings_1.ops →
          o.gid = (wOf sStageRings_1).gid →
            ¬match o.kind with
              | OpKind.copy c => ∃ (i : Nat), c.post = some ((↑(7 : Fin 8) : Nat), i)
              | x => False) :=
  ⟨@of_decide_eq_true _ (by letI := @decIssues; infer_instance) (by decide +kernel),
    @of_decide_eq_true _ (by letI := @decNoOpen; infer_instance) (by decide +kernel), by decide +kernel,
    ⟨by decide +kernel, fun o h => absurd (show o ∈ ([] : List Op) from h) List.not_mem_nil⟩⟩
def sSi := at_ iSi [(0, 64), (2, 0x11), (14, 0x10002)]
theorem witness_StageRings_2_1 :
    Issues sSi (Instr.srinit always (Reg.v (0 : Fin 608)) (Reg.v (2 : Fin 608)) (Reg.v (14 : Fin 608)) (7 : Fin 8))
      (wOf sSi) (aOf sSi) (gOf sSi) (xOf sSi iSi) [] []
    ∧ (∃ (f : Fibre),
      f ∈ xOf sSi iSi ∧
        ¬(BitVec.toNat (f.word (gOf sSi) (Reg.v (0 : Fin 608))) % 16 = 0 ∧
            0 < BitVec.toNat (f.word (gOf sSi) (Reg.v (2 : Fin 608))) / 16 % 2 ^ 16 ∧
              BitVec.toNat (f.word (gOf sSi) (Reg.v (2 : Fin 608))) / 2 ^ 20 = 0 ∧
                (0 < BitVec.toNat (f.word (gOf sSi) (Reg.v (14 : Fin 608))) % 2 ^ 12 ∧
                    BitVec.toNat (f.word (gOf sSi) (Reg.v (14 : Fin 608))) % 2 ^ 12 ≤ 2048) ∧
                  (0 < BitVec.toNat (f.word (gOf sSi) (Reg.v (14 : Fin 608))) / 2 ^ 16 % 2 ^ 12 ∧
                      BitVec.toNat (f.word (gOf sSi) (Reg.v (14 : Fin 608))) / 2 ^ 16 % 2 ^ 12 ≤
                        2048) ∧
                    BitVec.toNat (f.word (gOf sSi) (Reg.v (14 : Fin 608))) / 2 ^ 12 % 16 = 0 ∧
                      BitVec.toNat (f.word (gOf sSi) (Reg.v (14 : Fin 608))) / 2 ^ 28 = 0 ∧
                        BitVec.toNat (f.word (gOf sSi) (Reg.v (0 : Fin 608))) +
                            (BitVec.toNat (f.word (gOf sSi) (Reg.v (2 : Fin 608))) % 16 + 1) *
                              (16 * (BitVec.toNat (f.word (gOf sSi) (Reg.v (2 : Fin 608))) / 16 % 2 ^ 16)) ≤
                          (gOf sSi).scratch)) :=
  by
  refine @of_decide_eq_true _ (by letI := @decIssues; infer_instance) ?_
  decide +kernel
def ringed (s : State) := byGroup (fun g => { g with rings := [(7, { base := 64, size := 16, pf := 2, pe := 1, stages := [{ full := true }, { fullCnt := 1 }] })] }) (shared s)
def iSw : Instr := .srwait always (.v 20) true false 7
def sStageRings_2_2_1 : State := (l1s (ringed (fourAt iSw rr)))
theorem witness_StageRings_2_2_1 :
    Issues sStageRings_2_2_1 (Instr.srwait always (Reg.v (20 : Fin 608)) true false (7 : Fin 8)) (wOf sStageRings_2_2_1)
      (aOf sStageRings_2_2_1) (gOf sStageRings_2_2_1) (xOf sStageRings_2_2_1 iSw) (eOf sStageRings_2_2_1 iSw) (pOf sStageRings_2_2_1 iSw)
    ∧ NoOpenOperand (Instr.srwait always (Reg.v (20 : Fin 608)) true false (7 : Fin 8)) (gOf sStageRings_2_2_1) (xOf sStageRings_2_2_1 iSw)
      (eOf sStageRings_2_2_1 iSw)
    ∧ xOf sStageRings_2_2_1 iSw ≠ []
    ∧ (∀ (f : Fibre),
      f ∈ xOf sStageRings_2_2_1 iSw →
        ∃ (q : Stage),
          (sget { : Ring } (gOf sStageRings_2_2_1).rings
                    (↑(7 : Fin 8) : Nat)).stages[BitVec.toNat (f.word (gOf sStageRings_2_2_1) (Reg.v (20 : Fin 608)))]? =
              some q ∧
            q.full = true) :=
  by
  refine @of_decide_eq_true _ (by letI := @decIssues; letI := @decNoOpen; letI := @decSome; infer_instance) ?_
  decide +kernel
def iSw2 : Instr := .srwait always (.v 4) true false 7
def sSw2 := ringed (fourAt iSw2 rr)
theorem witness_StageRings_2_2_2_1 :
    Issues sSw2 (Instr.srwait always (Reg.v (4 : Fin 608)) true false (7 : Fin 8)) (wOf sSw2) (aOf sSw2) (gOf sSw2) (xOf sSw2 iSw2) [] []
    ∧ (∀ (f : Fibre),
      f ∈ xOf sSw2 iSw2 →
        BitVec.toNat (f.word (gOf sSw2) (Reg.v (4 : Fin 608))) < (sget { : Ring } (gOf sSw2).rings (↑(7 : Fin 8) : Nat)).stages.length)
    ∧ (∃ (f : Fibre),
      f ∈ xOf sSw2 iSw2 ∧
        ∃ (q : Stage),
          (sget { : Ring } (gOf sSw2).rings (↑(7 : Fin 8) : Nat)).stages[BitVec.toNat (f.word (gOf sSw2) (Reg.v (4 : Fin 608)))]? =
              some q ∧
            q.full ≠ true) :=
  by
  refine @of_decide_eq_true _ (by letI := @decIssues; letI := @decSome; infer_instance) ?_
  decide +kernel
def iSp : Instr := .srpost always (.v 4) false 7
def sStageRings_2_2_2_2_2 : State := (ringed (fourAt iSp rr))
theorem witness_StageRings_2_2_2_2_2 :
    Issues sStageRings_2_2_2_2_2 (Instr.srpost always (Reg.v (4 : Fin 608)) false (7 : Fin 8)) (wOf sStageRings_2_2_2_2_2)
      (aOf sStageRings_2_2_2_2_2) (gOf sStageRings_2_2_2_2_2) (xOf sStageRings_2_2_2_2_2 iSp) (eOf sStageRings_2_2_2_2_2 iSp)
      (pOf sStageRings_2_2_2_2_2 iSp)
    ∧ NoOpenOperand (Instr.srpost always (Reg.v (4 : Fin 608)) false (7 : Fin 8)) (gOf sStageRings_2_2_2_2_2)
      (xOf sStageRings_2_2_2_2_2 iSp) (eOf sStageRings_2_2_2_2_2 iSp)
    ∧ xOf sStageRings_2_2_2_2_2 iSp ≠ []
    ∧ ((∀ (q : Group), q ∈ sStageRings_2_2_2_2_2.groups → q.gid = (wOf sStageRings_2_2_2_2_2).gid → swf { : Ring } q.rings = true) ∧
      (∀ (f : Fibre),
          f ∈ xOf sStageRings_2_2_2_2_2 iSp →
            BitVec.toNat (f.word (gOf sStageRings_2_2_2_2_2) (Reg.v (4 : Fin 608))) <
              (sget { : Ring } (gOf sStageRings_2_2_2_2_2).rings (↑(7 : Fin 8) : Nat)).stages.length) ∧
        ∀ (f : Fibre),
          f ∈ xOf sStageRings_2_2_2_2_2 iSp →
            ∀ (o : Op),
              o ∈ sStageRings_2_2_2_2_2.opsOf (wOf sStageRings_2_2_2_2_2).gid f.id →
                o.isAccess = true → (aOf sStageRings_2_2_2_2_2).part.getD sStageRings_2_2_2_2_2.nextId ≤ o.order) :=
  by
  refine @of_decide_eq_true _ (by letI := @decIssues; letI := @decNoOpen; infer_instance) ?_
  decide +kernel
def iSp2 : Instr := .srpost always (.v 4) true 7
def sStageRings_2_2_2_2_2b : State := (ringed (fourAt iSp2 rr))
theorem witness_StageRings_2_2_2_2_2b :
    Issues sStageRings_2_2_2_2_2b (Instr.srpost always (Reg.v (4 : Fin 608)) true (7 : Fin 8)) (wOf sStageRings_2_2_2_2_2b)
      (aOf sStageRings_2_2_2_2_2b) (gOf sStageRings_2_2_2_2_2b) (xOf sStageRings_2_2_2_2_2b iSp2) (eOf sStageRings_2_2_2_2_2b iSp2)
      (pOf sStageRings_2_2_2_2_2b iSp2)
    ∧ NoOpenOperand (Instr.srpost always (Reg.v (4 : Fin 608)) true (7 : Fin 8)) (gOf sStageRings_2_2_2_2_2b)
      (xOf sStageRings_2_2_2_2_2b iSp2) (eOf sStageRings_2_2_2_2_2b iSp2)
    ∧ xOf sStageRings_2_2_2_2_2b iSp2 ≠ []
    ∧ ((∀ (q : Group), q ∈ sStageRings_2_2_2_2_2b.groups → q.gid = (wOf sStageRings_2_2_2_2_2b).gid → swf { : Ring } q.rings = true) ∧
      (∀ (f : Fibre),
          f ∈ xOf sStageRings_2_2_2_2_2b iSp2 →
            BitVec.toNat (f.word (gOf sStageRings_2_2_2_2_2b) (Reg.v (4 : Fin 608))) <
              (sget { : Ring } (gOf sStageRings_2_2_2_2_2b).rings (↑(7 : Fin 8) : Nat)).stages.length) ∧
        ∀ (f : Fibre),
          f ∈ xOf sStageRings_2_2_2_2_2b iSp2 →
            ∀ (o : Op),
              o ∈ sStageRings_2_2_2_2_2b.opsOf (wOf sStageRings_2_2_2_2_2b).gid f.id →
                o.isAccess = true → (aOf sStageRings_2_2_2_2_2b).part.getD sStageRings_2_2_2_2_2b.nextId ≤ o.order) :=
  by
  refine @of_decide_eq_true _ (by letI := @decIssues; letI := @decNoOpen; infer_instance) ?_
  decide +kernel
def sSw3 := ringed (fourAt iSw2 rr3)
theorem witness_StageRings_2_2_2_2_1 :
    (∃ (f : Fibre),
      f ∈ xOf sSw3 iSw2 ∧
        (sget { : Ring } (gOf sSw3).rings (↑(7 : Fin 8) : Nat)).stages.length ≤ BitVec.toNat (f.word (gOf sSw3) (Reg.v (4 : Fin 608))))
    ∧ Issues sSw3 (Instr.srwait always (Reg.v (4 : Fin 608)) true false (7 : Fin 8)) (wOf sSw3) (aOf sSw3) (gOf sSw3) (xOf sSw3 iSw2) [] [] :=
  by
  refine @of_decide_eq_true _ (by letI := @decIssues; infer_instance) ?_
  decide +kernel

end W11

/-! ## Premises met: `Obligations.CopyEngines` -/

namespace W12

def flg (s : State) := byFibre (fun f => { f with flags := [(2, 2)] }) s
def flagged2 (s : State) := byWarp (fun (w : Warp) => { w with active := w.active.map (fun (a : Active) => { a with header := soloHeader 2 - 15 * 2 ^ 21 + 2 * 2 ^ 21 }) }) (flg s)
def rr (l : Nat) : Sparse Word := [(0, BitVec.ofNat 32 (64 + 512 * l)), (4, BitVec.ofNat 32 (0x10000 + 4096 * l)), (8, 0x00001002), (9, 0x00200040), (10, BitVec.ofNat 32 (l + 1)), (14, 0x10002), (16, 1), (20, 0)]
def iT : Instr := .tcopy always (.v 0) (.v 4) (.v 8) false .sg (some (7, .v 16))
def ringed (s : State) := byGroup (fun g => { g with rings := [(7, { base := 0, size := 8192, pf := 2, pe := 1, stages := [{ full := true }, { fullCnt := 1 }] })] }) (shared s)
def rr1 (l : Nat) : Sparse Word := (rr l).map (fun (e : Nat × Word) => if e.1 = 0 then (0, BitVec.ofNat 32 (8192 + 512 * l)) else e)
def sT := flagged2 (ringed (fourAt iT rr1))
theorem witness_CopyCommands_1 :
    Issues sT
      (Instr.tcopy always (Reg.v (0 : Fin 608)) (Reg.v (4 : Fin 608)) (Reg.v (8 : Fin 608)) false CopyDir.sg
        (some ((7 : Fin 8), Reg.v (16 : Fin 608))))
      (wOf sT) (aOf sT) (gOf sT) (xOf sT iT) [] []
    ∧ NoOpenOperand
      (Instr.tcopy always (Reg.v (0 : Fin 608)) (Reg.v (4 : Fin 608)) (Reg.v (8 : Fin 608)) false CopyDir.sg
        (some ((7 : Fin 8), Reg.v (16 : Fin 608))))
      (gOf sT) (xOf sT iT) []
    ∧ xOf sT iT ≠ []
    ∧ ((sT.copyQueue ((wOf sT).wid / 48)).length + (xOf sT iT).length ≤ 64 ∧
      ∀ (f : Fibre),
        f ∈ xOf sT iT →
          have c :=
            have d := BitVec.toNat (f.pair (gOf sT) (Reg.v (8 : Fin 608)));
            { dir := CopyDir.sg,
              dst :=
                if Space.s = Space.g then BitVec.toNat (f.pair (gOf sT) (Reg.v (0 : Fin 608))) % 2 ^ 52
                else BitVec.toNat (f.word (gOf sT) (Reg.v (0 : Fin 608))),
              src :=
                if Space.g = Space.g then BitVec.toNat (f.pair (gOf sT) (Reg.v (4 : Fin 608))) % 2 ^ 52
                else BitVec.toNat (f.word (gOf sT) (Reg.v (4 : Fin 608))),
              rows := d / 2 ^ 12 % 2 ^ 8 + 1, rowBytes := 16 * (d % 2 ^ 12),
              dstPitch := 16 * (d / 2 ^ 48), srcPitch := 16 * (d / 2 ^ 32 % 2 ^ 16),
              post :=
                Option.map (fun (p : Fin 8 × Reg) => ((↑p.fst : Nat), BitVec.toNat (f.word (gOf sT) p.snd)))
                  (some ((7 : Fin 8), Reg.v (16 : Fin 608))) :
              CopyCmd };
          (0 < BitVec.toNat (f.pair (gOf sT) (Reg.v (8 : Fin 608))) % 2 ^ 12 ∧
              BitVec.toNat (f.pair (gOf sT) (Reg.v (8 : Fin 608))) % 2 ^ 12 ≤ 256 ∧
                BitVec.toNat (f.pair (gOf sT) (Reg.v (8 : Fin 608))) / 2 ^ 20 % 2 ^ 4 = 0 ∧
                  BitVec.toNat (f.pair (gOf sT) (Reg.v (8 : Fin 608))) / 2 ^ 24 % 2 ^ 3 < 5 ∧
                    BitVec.toNat (f.pair (gOf sT) (Reg.v (8 : Fin 608))) / 2 ^ 27 % 2 ^ 5 = 0) ∧
            c.dst % 16 = 0 ∧
              c.src % 16 = 0 ∧
                ((match
                      (match c.dir with
                        | CopyDir.sg => (Space.s, Space.g)
                        | CopyDir.srec => (Space.s, Space.g)
                        | CopyDir.gs => (Space.g, Space.s)
                        | CopyDir.dg => (Space.d, Space.g)
                        | CopyDir.gd => (Space.g, Space.d)
                        | CopyDir.gg => (Space.g, Space.g)
                        | CopyDir.sd => (Space.s, Space.d)
                        | CopyDir.ds => (Space.d, Space.s)).fst with
                    | Space.s => c.dst + (c.rows - 1) * c.dstPitch + c.rowBytes ≤ (gOf sT).scratch
                    | Space.d =>
                      ∃ (k : Ctx), sT.ctx? (gOf sT).ctx = some k ∧ ∀ (j : Nat), j < c.rows → k.dieHolds (c.dst + j * c.dstPitch) c.rowBytes = true
                    | x => True) ∧
                    match
                      (match c.dir with
                        | CopyDir.sg => (Space.s, Space.g)
                        | CopyDir.srec => (Space.s, Space.g)
                        | CopyDir.gs => (Space.g, Space.s)
                        | CopyDir.dg => (Space.d, Space.g)
                        | CopyDir.gd => (Space.g, Space.d)
                        | CopyDir.gg => (Space.g, Space.g)
                        | CopyDir.sd => (Space.s, Space.d)
                        | CopyDir.ds => (Space.d, Space.s)).snd with
                    | Space.s => c.src + (c.rows - 1) * c.srcPitch + c.rowBytes ≤ (gOf sT).scratch
                    | Space.d =>
                      ∃ (k : Ctx), sT.ctx? (gOf sT).ctx = some k ∧ ∀ (j : Nat), j < c.rows → k.dieHolds (c.src + j * c.srcPitch) c.rowBytes = true
                    | x => True) ∧
                  ∀ (r i : Nat),
                    c.post = some (r, i) →
                      ∃ (k : Ring),
                        k = sget { : Ring } (gOf sT).rings r ∧
                          i < k.stages.length ∧
                            k.base + i * k.size ≤ c.dst ∧ c.dst + (c.rows - 1) * c.dstPitch + c.rowBytes ≤ k.base + (i + 1) * k.size) :=
  by
  refine @of_decide_eq_true _ (by letI := @decAllPair; letI := @decIssues; letI := @decNamed; letI := @decNoOpen; try dsimp only; infer_instance) ?_
  decide +kernel
def iT2 : Instr := .tcopy always (.v 0) (.v 4) (.v 8) false .srec none
def sT2 := flagged2 (ringed (fourAt iT2 rr1))
theorem witness_CopyCommands_1b :
    Issues sT2 (Instr.tcopy always (Reg.v (0 : Fin 608)) (Reg.v (4 : Fin 608)) (Reg.v (8 : Fin 608)) false CopyDir.srec none)
      (wOf sT2) (aOf sT2) (gOf sT2) (xOf sT2 iT2) [] []
    ∧ NoOpenOperand (Instr.tcopy always (Reg.v (0 : Fin 608)) (Reg.v (4 : Fin 608)) (Reg.v (8 : Fin 608)) false CopyDir.srec none)
      (gOf sT2) (xOf sT2 iT2) []
    ∧ xOf sT2 iT2 ≠ []
    ∧ ((sT2.copyQueue ((wOf sT2).wid / 48)).length + (xOf sT2 iT2).length ≤ 64 ∧
      ∀ (f : Fibre),
        f ∈ xOf sT2 iT2 →
          have c :=
            have d := BitVec.toNat (f.pair (gOf sT2) (Reg.v (8 : Fin 608)));
            { dir := CopyDir.srec,
              dst :=
                if Space.s = Space.g then BitVec.toNat (f.pair (gOf sT2) (Reg.v (0 : Fin 608))) % 2 ^ 52
                else BitVec.toNat (f.word (gOf sT2) (Reg.v (0 : Fin 608))),
              src :=
                if Space.g = Space.g then BitVec.toNat (f.pair (gOf sT2) (Reg.v (4 : Fin 608))) % 2 ^ 52
                else BitVec.toNat (f.word (gOf sT2) (Reg.v (4 : Fin 608))),
              rows := d / 2 ^ 12 % 2 ^ 8 + 1, rowBytes := 16 * (d % 2 ^ 12),
              dstPitch := 16 * (d / 2 ^ 48), srcPitch := 0,
              row0 := d / 2 ^ 32 % 2 ^ 16,
              post := Option.map (fun (p : Fin 8 × Reg) => ((↑p.fst : Nat), BitVec.toNat (f.word (gOf sT2) p.snd))) none : CopyCmd };
          (0 < BitVec.toNat (f.pair (gOf sT2) (Reg.v (8 : Fin 608))) % 2 ^ 12 ∧
              BitVec.toNat (f.pair (gOf sT2) (Reg.v (8 : Fin 608))) % 2 ^ 12 ≤ 256 ∧
                BitVec.toNat (f.pair (gOf sT2) (Reg.v (8 : Fin 608))) / 2 ^ 20 % 2 ^ 4 = 0 ∧
                  BitVec.toNat (f.pair (gOf sT2) (Reg.v (8 : Fin 608))) / 2 ^ 24 % 2 ^ 3 < 5 ∧
                    BitVec.toNat (f.pair (gOf sT2) (Reg.v (8 : Fin 608))) / 2 ^ 27 % 2 ^ 5 = 0) ∧
            c.dst % 16 = 0 ∧
              c.src % 16 = 0 ∧
                ((match
                      (match c.dir with
                        | CopyDir.sg => (Space.s, Space.g)
                        | CopyDir.srec => (Space.s, Space.g)
                        | CopyDir.gs => (Space.g, Space.s)
                        | CopyDir.dg => (Space.d, Space.g)
                        | CopyDir.gd => (Space.g, Space.d)
                        | CopyDir.gg => (Space.g, Space.g)
                        | CopyDir.sd => (Space.s, Space.d)
                        | CopyDir.ds => (Space.d, Space.s)).fst with
                    | Space.s => c.dst + (c.rows - 1) * c.dstPitch + c.rowBytes ≤ (gOf sT2).scratch
                    | Space.d =>
                      ∃ (k : Ctx), sT2.ctx? (gOf sT2).ctx = some k ∧ ∀ (j : Nat), j < c.rows → k.dieHolds (c.dst + j * c.dstPitch) c.rowBytes = true
                    | x => True) ∧
                    match
                      (match c.dir with
                        | CopyDir.sg => (Space.s, Space.g)
                        | CopyDir.srec => (Space.s, Space.g)
                        | CopyDir.gs => (Space.g, Space.s)
                        | CopyDir.dg => (Space.d, Space.g)
                        | CopyDir.gd => (Space.g, Space.d)
                        | CopyDir.gg => (Space.g, Space.g)
                        | CopyDir.sd => (Space.s, Space.d)
                        | CopyDir.ds => (Space.d, Space.s)).snd with
                    | Space.s => c.src + (c.rows - 1) * c.srcPitch + c.rowBytes ≤ (gOf sT2).scratch
                    | Space.d =>
                      ∃ (k : Ctx), sT2.ctx? (gOf sT2).ctx = some k ∧ ∀ (j : Nat), j < c.rows → k.dieHolds (c.src + j * c.srcPitch) c.rowBytes = true
                    | x => True) ∧
                  ∀ (r i : Nat),
                    c.post = some (r, i) →
                      ∃ (k : Ring),
                        k = sget { : Ring } (gOf sT2).rings r ∧
                          i < k.stages.length ∧
                            k.base + i * k.size ≤ c.dst ∧ c.dst + (c.rows - 1) * c.dstPitch + c.rowBytes ≤ k.base + (i + 1) * k.size) :=
  by
  refine @of_decide_eq_true _ (by letI := @decAllPair; letI := @decIssues; letI := @decNamed; letI := @decNoOpen; try dsimp only; infer_instance) ?_
  decide +kernel
def sT3 := at_ iT [(8, 0x00101002), (9, 0x00200040)]
theorem witness_CopyCommands_2_1 :
    Issues sT3
      (Instr.tcopy always (Reg.v (0 : Fin 608)) (Reg.v (4 : Fin 608)) (Reg.v (8 : Fin 608)) false CopyDir.sg
        (some ((7 : Fin 8), Reg.v (16 : Fin 608))))
      (wOf sT3) (aOf sT3) (gOf sT3) ([] ++ [x0 sT3 iT]) [] []
    ∧ (∀ (k : Fibre),
      k ∈ [] →
        have c :=
          have d := BitVec.toNat (k.pair (gOf sT3) (Reg.v (8 : Fin 608)));
          { dir := CopyDir.sg,
            dst :=
              if Space.s = Space.g then BitVec.toNat (k.pair (gOf sT3) (Reg.v (0 : Fin 608))) % 2 ^ 52
              else BitVec.toNat (k.word (gOf sT3) (Reg.v (0 : Fin 608))),
            src :=
              if Space.g = Space.g then BitVec.toNat (k.pair (gOf sT3) (Reg.v (4 : Fin 608))) % 2 ^ 52
              else BitVec.toNat (k.word (gOf sT3) (Reg.v (4 : Fin 608))),
            rows := d / 2 ^ 12 % 2 ^ 8 + 1, rowBytes := 16 * (d % 2 ^ 12),
            dstPitch := 16 * (d / 2 ^ 48), srcPitch := 16 * (d / 2 ^ 32 % 2 ^ 16),
            post :=
              Option.map (fun (p : Fin 8 × Reg) => ((↑p.fst : Nat), BitVec.toNat (k.word (gOf sT3) p.snd)))
                (some ((7 : Fin 8), Reg.v (16 : Fin 608))) :
            CopyCmd };
        (0 < BitVec.toNat (k.pair (gOf sT3) (Reg.v (8 : Fin 608))) % 2 ^ 12 ∧
            BitVec.toNat (k.pair (gOf sT3) (Reg.v (8 : Fin 608))) % 2 ^ 12 ≤ 256 ∧
              BitVec.toNat (k.pair (gOf sT3) (Reg.v (8 : Fin 608))) / 2 ^ 20 % 2 ^ 4 = 0 ∧
                BitVec.toNat (k.pair (gOf sT3) (Reg.v (8 : Fin 608))) / 2 ^ 24 % 2 ^ 3 < 5 ∧
                  BitVec.toNat (k.pair (gOf sT3) (Reg.v (8 : Fin 608))) / 2 ^ 27 % 2 ^ 5 = 0) ∧
          c.dst % 16 = 0 ∧
            c.src % 16 = 0 ∧
              ((match
                    (match c.dir with
                      | CopyDir.sg => (Space.s, Space.g)
                      | CopyDir.srec => (Space.s, Space.g)
                      | CopyDir.gs => (Space.g, Space.s)
                      | CopyDir.dg => (Space.d, Space.g)
                      | CopyDir.gd => (Space.g, Space.d)
                      | CopyDir.gg => (Space.g, Space.g)
                      | CopyDir.sd => (Space.s, Space.d)
                      | CopyDir.ds => (Space.d, Space.s)).fst with
                  | Space.s => c.dst + (c.rows - 1) * c.dstPitch + c.rowBytes ≤ (gOf sT3).scratch
                  | Space.d =>
                    ∃ (k : Ctx), sT3.ctx? (gOf sT3).ctx = some k ∧ ∀ (j : Nat), j < c.rows → k.dieHolds (c.dst + j * c.dstPitch) c.rowBytes = true
                  | x => True) ∧
                  match
                    (match c.dir with
                      | CopyDir.sg => (Space.s, Space.g)
                      | CopyDir.srec => (Space.s, Space.g)
                      | CopyDir.gs => (Space.g, Space.s)
                      | CopyDir.dg => (Space.d, Space.g)
                      | CopyDir.gd => (Space.g, Space.d)
                      | CopyDir.gg => (Space.g, Space.g)
                      | CopyDir.sd => (Space.s, Space.d)
                      | CopyDir.ds => (Space.d, Space.s)).snd with
                  | Space.s => c.src + (c.rows - 1) * c.srcPitch + c.rowBytes ≤ (gOf sT3).scratch
                  | Space.d =>
                    ∃ (k : Ctx), sT3.ctx? (gOf sT3).ctx = some k ∧ ∀ (j : Nat), j < c.rows → k.dieHolds (c.src + j * c.srcPitch) c.rowBytes = true
                  | x => True) ∧
                ∀ (r i : Nat),
                  c.post = some (r, i) →
                    ∃ (k : Ring),
                      k = sget { : Ring } (gOf sT3).rings r ∧
                        i < k.stages.length ∧
                          k.base + i * k.size ≤ c.dst ∧ c.dst + (c.rows - 1) * c.dstPitch + c.rowBytes ≤ k.base + (i + 1) * k.size) :=
  by
  refine @of_decide_eq_true _ (by letI := @decAllPair; letI := @decIssues; letI := @decNamed; try dsimp only; infer_instance) ?_
  decide +kernel
def iC : Instr := .copya always (.v 0) (.v 4) (.v 10) false .sg .device
def sC := flagged2 (shared (fourAt iC rr))
theorem witness_CopyCommands_2_2_1 :
    Issues sC
      (Instr.copya always (Reg.v (0 : Fin 608)) (Reg.v (4 : Fin 608)) (Reg.v (10 : Fin 608)) false CopyDir.sg Scope.device)
      (wOf sC) (aOf sC) (gOf sC) (xOf sC iC) [] []
    ∧ NoOpenOperand
      (Instr.copya always (Reg.v (0 : Fin 608)) (Reg.v (4 : Fin 608)) (Reg.v (10 : Fin 608)) false CopyDir.sg Scope.device)
      (gOf sC) (xOf sC iC) []
    ∧ xOf sC iC ≠ []
    ∧ ((sC.copyQueue ((wOf sC).wid / 48)).length + (xOf sC iC).length ≤ 64 ∧
      ∀ (f : Fibre),
        f ∈ xOf sC iC →
          have c :=
            { dir := CopyDir.sg,
              dst :=
                if Space.s = Space.g then BitVec.toNat (f.pair (gOf sC) (Reg.v (0 : Fin 608))) % 2 ^ 52
                else BitVec.toNat (f.word (gOf sC) (Reg.v (0 : Fin 608))),
              src :=
                if Space.g = Space.g then BitVec.toNat (f.pair (gOf sC) (Reg.v (4 : Fin 608))) % 2 ^ 52
                else BitVec.toNat (f.word (gOf sC) (Reg.v (4 : Fin 608))),
              rows := 1, rowBytes := BitVec.toNat (f.word (gOf sC) (Reg.v (10 : Fin 608))), dstPitch := 0,
              srcPitch := 0 : CopyCmd };
          c.rowBytes ≠ 0 ∧
            (match
                (match c.dir with
                  | CopyDir.sg => (Space.s, Space.g)
                  | CopyDir.srec => (Space.s, Space.g)
                  | CopyDir.gs => (Space.g, Space.s)
                  | CopyDir.dg => (Space.d, Space.g)
                  | CopyDir.gd => (Space.g, Space.d)
                  | CopyDir.gg => (Space.g, Space.g)
                  | CopyDir.sd => (Space.s, Space.d)
                  | CopyDir.ds => (Space.d, Space.s)).fst with
              | Space.s => c.dst + (c.rows - 1) * c.dstPitch + c.rowBytes ≤ (gOf sC).scratch
              | Space.d =>
                ∃ (k : Ctx), sC.ctx? (gOf sC).ctx = some k ∧ ∀ (j : Nat), j < c.rows → k.dieHolds (c.dst + j * c.dstPitch) c.rowBytes = true
              | x => True) ∧
              match
                (match c.dir with
                  | CopyDir.sg => (Space.s, Space.g)
                  | CopyDir.srec => (Space.s, Space.g)
                  | CopyDir.gs => (Space.g, Space.s)
                  | CopyDir.dg => (Space.d, Space.g)
                  | CopyDir.gd => (Space.g, Space.d)
                  | CopyDir.gg => (Space.g, Space.g)
                  | CopyDir.sd => (Space.s, Space.d)
                  | CopyDir.ds => (Space.d, Space.s)).snd with
              | Space.s => c.src + (c.rows - 1) * c.srcPitch + c.rowBytes ≤ (gOf sC).scratch
              | Space.d =>
                ∃ (k : Ctx), sC.ctx? (gOf sC).ctx = some k ∧ ∀ (j : Nat), j < c.rows → k.dieHolds (c.src + j * c.srcPitch) c.rowBytes = true
              | x => True) :=
  by
  refine @of_decide_eq_true _ (by letI := @decIssues; letI := @decNoOpen; try dsimp only; infer_instance) ?_
  decide +kernel
def iC0 : Instr := .copya always (.v 0) (.v 4) (.v 20) false .sg .device
def sC0 := flagged2 (shared (fourAt iC0 rr))
theorem witness_CopyCommands_2_2_2_1 :
    Issues sC0
      (Instr.copya always (Reg.v (0 : Fin 608)) (Reg.v (4 : Fin 608)) (Reg.v (20 : Fin 608)) false CopyDir.sg Scope.device)
      (wOf sC0) (aOf sC0) (gOf sC0) (xOf sC0 iC0) [] []
    ∧ (sC0.copyQueue ((wOf sC0).wid / 48)).length + (xOf sC0 iC0).length ≤ 64
    ∧ (∀ (f : Fibre), f ∈ xOf sC0 iC0 → f.word (gOf sC0) (Reg.v (20 : Fin 608)) = (0 : Word)) :=
  by
  refine @of_decide_eq_true _ (by letI := @decIssues; infer_instance) ?_
  decide +kernel
def cmd (d s' : Nat) : CopyCmd := { dir := .sg, dst := d, src := s', rows := 2, rowBytes := 8, dstPitch := 16, srcPitch := 32, post := some (7, 1) }
def cpOp (id : Nat) (c : CopyCmd) : Op := { loadOp with id := id, issue := id, kind := .copy c, flag := some 2 }
def sC1 := inFlight ((List.range 64).map (fun k => cpOp (100 + k) (cmd 64 0x10000))) (shared (at_ iC [(10, 5)]))
theorem witness_CopyCommands_2_2_2_2 :
    Issues sC1
      (Instr.copya always (Reg.v (0 : Fin 608)) (Reg.v (4 : Fin 608)) (Reg.v (10 : Fin 608)) false CopyDir.sg Scope.device)
      (wOf sC1) (aOf sC1) (gOf sC1) (xOf sC1 iC) [] []
    ∧ CopyDir.sg ≠ CopyDir.srec
    ∧ (∀ (f : Fibre),
      f ∈ xOf sC1 iC →
        BitVec.toNat (f.word (gOf sC1) (Reg.v (10 : Fin 608))) ≠ 0 ∧
          (if Space.s = Space.g then BitVec.toNat (f.pair (gOf sC1) (Reg.v (0 : Fin 608))) % 2 ^ 52
                  else BitVec.toNat (f.word (gOf sC1) (Reg.v (0 : Fin 608)))) +
                  (1 - 1) * 0 +
                BitVec.toNat (f.word (gOf sC1) (Reg.v (10 : Fin 608))) ≤
              (gOf sC1).scratch ∧
            True)
    ∧ 64 < (sC1.copyQueue ((wOf sC1).wid / 48)).length + (xOf sC1 iC).length :=
  by
  refine @of_decide_eq_true _ (by letI := @decIssues; infer_instance) ?_
  decide +kernel
def dataAt (s : State) := bytesAt 0x50000 ((List.range 64).map (fun i => BitVec.ofNat 8 (i + 1))) s
def sE1 := asGroup1 (inFlight [cpOp 20 (cmd 64 0x10000), cpOp 21 (cmd 256 0x10000)] (dataAt (mapped 1 0 5 0 (ringed (flg (at_ .nopShort))))))
def o1 : Op := o0 sE1
theorem witness_CopyEngine_1 :
    sE1.copiesRunning 0 < 16
    ∧ sE1.op? o1.id = some o1
    ∧ o1.kind = OpKind.copy (cmd 64 65536)
    ∧ o1.gid ≠ 0
    ∧ List.find? (fun (q : Op) => q.record.isNone && sE1.sent q && sE1.sourceChecked q) (sE1.copyQueue 0) = some o1 :=
  by decide +kernel
def recC : CopyCmd := { dir := .srec, dst := 64, src := 0x10000, rows := 4, rowBytes := 16, dstPitch := 16, srcPitch := 0, row0 := 2 }
def recAt (s : State) := bytesAt 0x50000 [0, 0, 2, 0, 0, 0, 0, 0, 32, 0, 0, 0, 4, 0, 0, 0] s
def sE2 := asGroup1 (inFlight [cpOp 20 recC] (recAt (mapped 1 0 5 0 (ringed (flg (at_ .nopShort))))))
def o2 : Op := o0 sE2
theorem witness_CopyEngine_1b :
    sE2.copiesRunning 0 < 16
    ∧ sE2.op? o2.id = some o2
    ∧ o2.kind = OpKind.copy recC
    ∧ o2.gid ≠ 0
    ∧ List.find? (fun (q : Op) => q.record.isNone && sE2.sent q && sE2.sourceChecked q) (sE2.copyQueue 0) = some o2 :=
  by decide +kernel
def sE3 := inFlight ((List.range 16).map (fun k => { cpOp (30 + k) (cmd 64 0x10000) with stage := .started })) sE1
theorem witness_CopyEngine_2_1 :
    16 ≤ sE3.copiesRunning 0 :=
  by decide +kernel
def sE4 := asGroup1 (inFlight [{ cpOp 20 (cmd 64 0x10000) with stage := .started, pins := [(0x10000, 0x50000, 0)] }] (dataAt (mapped 1 0 5 0 (ringed (flg (at_ .nopShort))))))
def o4 : Op := o0 sE4
theorem witness_CopyEngine_2_2 :
    sE4.op? o4.id = some o4
    ∧ o4.stage = OpStage.started
    ∧ o4.kind = OpKind.copy (cmd 64 65536)
    ∧ o4.record = none
    ∧ o4.gid ≠ 0
    ∧ sE4.group? o4.gid = some (g0 sE4)
    ∧ sE4.tidy
    ∧ sE4.fibreOf? o4.gid o4.fid = some (w0 sE4, f0 sE4)
    ∧ sE4.warp? (w0 sE4).wid = some (w0 sE4)
    ∧ (w0 sE4).fibre? (f0 sE4).lane = some (f0 sE4)
    ∧ sE4.copyBehind o4 (cmd 64 65536) = false
    ∧ (cmd 64 65536).verify = false
    ∧ (∀ (i : Nat),
      i ∈
          List.filter (fun (i : Nat) => !(cmd 64 65536).moved.any fun (m : Nat × Byte) => decide (m.fst = i))
            (List.range ((cmd 64 65536).rows * (cmd 64 65536).rowBytes)) →
        Option.map (fun (p : Nat × Nat) => (p.snd, (g0 sE4).ctx))
            ((g0 sE4).scratchAt
              ((cmd 64 65536).dst + i / (cmd 64 65536).rowBytes * (cmd 64 65536).dstPitch +
                i % (cmd 64 65536).rowBytes)) =
          some (coreBase 0 + 2 * 8192 + 64 + i / 8 * 16 + i % 8, 0))
    ∧ (∀ (i : Nat),
      i ∈
          List.filter (fun (i : Nat) => !(cmd 64 65536).moved.any fun (m : Nat × Byte) => decide (m.fst = i))
            (List.range ((cmd 64 65536).rows * (cmd 64 65536).rowBytes)) →
        ¬((cmd 64 65536).dir = CopyDir.srec ∧ (cmd 64 65536).row0 ≤ i / (cmd 64 65536).rowBytes) →
          pinned o4.pins
                (((cmd 64 65536).src + i / (cmd 64 65536).rowBytes * (cmd 64 65536).srcPitch +
                    i % (cmd 64 65536).rowBytes) %
                  2 ^ 52) =
              some (327680 + i / 8 * 32 + i % 8, 0) ∧
            sE4.defined 0 (327680 + i / 8 * 32 + i % 8) ∧
              sE4.poisoned (327680 + i / 8 * 32 + i % 8) 1 = false)
    ∧ (∀ (i : Nat),
      i ∈
          List.filter (fun (i : Nat) => !(cmd 64 65536).moved.any fun (m : Nat × Byte) => decide (m.fst = i))
            (List.range ((cmd 64 65536).rows * (cmd 64 65536).rowBytes)) →
        (cmd 64 65536).overlaps o4.pins o4.wpins
            ((cmd 64 65536).dst + i / (cmd 64 65536).rowBytes * (cmd 64 65536).dstPitch +
              i % (cmd 64 65536).rowBytes) =
          false) :=
  by
  refine @of_decide_eq_true _ (by letI := @decDefined; letI := @decTidy; infer_instance) ?_
  decide +kernel
def recD : CopyCmd := { dir := .srec, dst := 64, src := 0x10000, rows := 2, rowBytes := 8, dstPitch := 16, srcPitch := 32, row0 := 1 }
def sE5 := asGroup1 (inFlight [{ cpOp 20 recD with stage := .started, pins := [(0x10000, 0x50000, 0)] }] (dataAt (mapped 1 0 5 0 (ringed (flg (at_ .nopShort))))))
def o5 : Op := o0 sE5
theorem witness_CopyEngine_2_2b :
    sE5.op? o5.id = some o5
    ∧ o5.stage = OpStage.started
    ∧ o5.kind = OpKind.copy recD
    ∧ o5.record = none
    ∧ o5.gid ≠ 0
    ∧ sE5.group? o5.gid = some (g0 sE5)
    ∧ sE5.tidy
    ∧ sE5.fibreOf? o5.gid o5.fid = some (w0 sE5, f0 sE5)
    ∧ sE5.warp? (w0 sE5).wid = some (w0 sE5)
    ∧ (w0 sE5).fibre? (f0 sE5).lane = some (f0 sE5)
    ∧ sE5.copyBehind o5 recD = false
    ∧ recD.verify = false
    ∧ (∀ (i : Nat),
      i ∈ List.filter (fun (i : Nat) => !recD.moved.any fun (m : Nat × Byte) => decide (m.fst = i)) (List.range (recD.rows * recD.rowBytes)) →
        Option.map (fun (p : Nat × Nat) => (p.snd, (g0 sE5).ctx))
            ((g0 sE5).scratchAt (recD.dst + i / recD.rowBytes * recD.dstPitch + i % recD.rowBytes)) =
          some (coreBase 0 + 2 * 8192 + 64 + i / 8 * 16 + i % 8, 0))
    ∧ (∀ (i : Nat),
      i ∈ List.filter (fun (i : Nat) => !recD.moved.any fun (m : Nat × Byte) => decide (m.fst = i)) (List.range (recD.rows * recD.rowBytes)) →
        ¬(recD.dir = CopyDir.srec ∧ recD.row0 ≤ i / recD.rowBytes) →
          pinned o5.pins ((recD.src + i / recD.rowBytes * recD.srcPitch + i % recD.rowBytes) % 2 ^ 52) =
              some (327680 + i / 8 * 32 + i % 8, 0) ∧
            sE5.defined 0 (327680 + i / 8 * 32 + i % 8) ∧
              sE5.poisoned (327680 + i / 8 * 32 + i % 8) 1 = false)
    ∧ (∀ (i : Nat),
      i ∈ List.filter (fun (i : Nat) => !recD.moved.any fun (m : Nat × Byte) => decide (m.fst = i)) (List.range (recD.rows * recD.rowBytes)) →
        recD.overlaps o5.pins o5.wpins (recD.dst + i / recD.rowBytes * recD.dstPitch + i % recD.rowBytes) = false) :=
  by
  refine @of_decide_eq_true _ (by letI := @decDefined; letI := @decTidy; infer_instance) ?_
  decide +kernel

end W12

/-! ## Premises met: `Obligations.Renames`, `Obligations.RenameWalkerAndQuery` -/

namespace W13

def flg (s : State) := byFibre (fun f => { f with flags := [(2, 2)] }) s
def flagged2 (s : State) := byWarp (fun (w : Warp) => { w with active := w.active.map (fun (a : Active) => { a with header := soloHeader 2 - 15 * 2 ^ 21 + 2 * 2 ^ 21 }) }) (flg s)
def rr (l : Nat) : Sparse Word := [(0, BitVec.ofNat 32 (0x100000 * l + 16)), (4, BitVec.ofNat 32 (0x1000000 + 0x100000 * l + 16)), (8, 0x20000), (10, 0x100000), (12, 0x200000), (14, BitVec.ofNat 32 (0x100000 * l)), (16, 2), (18, 64), (20, 0x10001)]
def iM : Instr := .rnmove always (.v 0) (.v 4) (.v 8) false .device
def sM := flagged2 (fourAt iM rr)
theorem witness_Renames_1 :
    Issues sM (Instr.rnmove always (Reg.v (0 : Fin 608)) (Reg.v (4 : Fin 608)) (Reg.v (8 : Fin 608)) false Scope.device) (wOf sM)
      (aOf sM) (gOf sM) (xOf sM iM) [] []
    ∧ NoOpenOperand (Instr.rnmove always (Reg.v (0 : Fin 608)) (Reg.v (4 : Fin 608)) (Reg.v (8 : Fin 608)) false Scope.device)
      (gOf sM) (xOf sM iM) []
    ∧ xOf sM iM ≠ []
    ∧ (∀ (f : Fibre),
      f ∈ xOf sM iM →
        BitVec.toNat (f.pair (gOf sM) (Reg.v (0 : Fin 608))) % 2 ^ 52 % 65536 =
            BitVec.toNat (f.pair (gOf sM) (Reg.v (4 : Fin 608))) % 2 ^ 52 % 65536 ∧
          (BitVec.toNat (f.pair (gOf sM) (Reg.v (8 : Fin 608))) < 2 ^ 52 ∧
              BitVec.toNat (f.pair (gOf sM) (Reg.v (0 : Fin 608))) % 2 ^ 52 +
                  BitVec.toNat (f.pair (gOf sM) (Reg.v (8 : Fin 608))) ≤
                2 ^ 52) ∧
            BitVec.toNat (f.pair (gOf sM) (Reg.v (8 : Fin 608))) < 2 ^ 52 ∧
              BitVec.toNat (f.pair (gOf sM) (Reg.v (4 : Fin 608))) % 2 ^ 52 +
                  BitVec.toNat (f.pair (gOf sM) (Reg.v (8 : Fin 608))) ≤
                2 ^ 52) :=
  by
  refine @of_decide_eq_true _ (by letI := @decIssues; letI := @decNoOpen; infer_instance) ?_
  decide +kernel
def iM1 : Instr := .rnmove always (.v 0) (.v 10) (.v 8) false .device
def sM1 := at_ iM1 (rr 1)
theorem witness_Renames_2_1 :
    Issues sM1 (Instr.rnmove always (Reg.v (0 : Fin 608)) (Reg.v (10 : Fin 608)) (Reg.v (8 : Fin 608)) false Scope.device)
      (wOf sM1) (aOf sM1) (gOf sM1) (xOf sM1 iM1) [] []
    ∧ (∃ (f : Fibre),
      f ∈ xOf sM1 iM1 ∧
        ¬(BitVec.toNat (f.pair (gOf sM1) (Reg.v (0 : Fin 608))) % 2 ^ 52 % 65536 =
              BitVec.toNat (f.pair (gOf sM1) (Reg.v (10 : Fin 608))) % 2 ^ 52 % 65536 ∧
            (BitVec.toNat (f.pair (gOf sM1) (Reg.v (8 : Fin 608))) < 2 ^ 52 ∧
                BitVec.toNat (f.pair (gOf sM1) (Reg.v (0 : Fin 608))) % 2 ^ 52 +
                    BitVec.toNat (f.pair (gOf sM1) (Reg.v (8 : Fin 608))) ≤
                  2 ^ 52) ∧
              BitVec.toNat (f.pair (gOf sM1) (Reg.v (8 : Fin 608))) < 2 ^ 52 ∧
                BitVec.toNat (f.pair (gOf sM1) (Reg.v (10 : Fin 608))) % 2 ^ 52 +
                    BitVec.toNat (f.pair (gOf sM1) (Reg.v (8 : Fin 608))) ≤
                  2 ^ 52)) :=
  by
  refine @of_decide_eq_true _ (by letI := @decIssues; infer_instance) ?_
  decide +kernel
def iS : Instr := .rnswap always (.v 0) (.v 4) (.v 8) false .device
def sS := flagged2 (fourAt iS rr)
theorem witness_Renames_2_2_1 :
    Issues sS (Instr.rnswap always (Reg.v (0 : Fin 608)) (Reg.v (4 : Fin 608)) (Reg.v (8 : Fin 608)) false Scope.device) (wOf sS)
      (aOf sS) (gOf sS) (xOf sS iS) [] []
    ∧ NoOpenOperand (Instr.rnswap always (Reg.v (0 : Fin 608)) (Reg.v (4 : Fin 608)) (Reg.v (8 : Fin 608)) false Scope.device)
      (gOf sS) (xOf sS iS) []
    ∧ xOf sS iS ≠ []
    ∧ (∀ (f : Fibre),
      f ∈ xOf sS iS →
        (BitVec.toNat (f.pair (gOf sS) (Reg.v (0 : Fin 608))) % 2 ^ 52 % 65536 =
              BitVec.toNat (f.pair (gOf sS) (Reg.v (4 : Fin 608))) % 2 ^ 52 % 65536 ∧
            (BitVec.toNat (f.pair (gOf sS) (Reg.v (8 : Fin 608))) < 2 ^ 52 ∧
                BitVec.toNat (f.pair (gOf sS) (Reg.v (0 : Fin 608))) % 2 ^ 52 +
                    BitVec.toNat (f.pair (gOf sS) (Reg.v (8 : Fin 608))) ≤
                  2 ^ 52) ∧
              BitVec.toNat (f.pair (gOf sS) (Reg.v (8 : Fin 608))) < 2 ^ 52 ∧
                BitVec.toNat (f.pair (gOf sS) (Reg.v (4 : Fin 608))) % 2 ^ 52 +
                    BitVec.toNat (f.pair (gOf sS) (Reg.v (8 : Fin 608))) ≤
                  2 ^ 52) ∧
          (BitVec.toNat (f.pair (gOf sS) (Reg.v (0 : Fin 608))) % 2 ^ 52 +
                BitVec.toNat (f.pair (gOf sS) (Reg.v (8 : Fin 608))) ≤
              BitVec.toNat (f.pair (gOf sS) (Reg.v (4 : Fin 608))) % 2 ^ 52 ∨
            BitVec.toNat (f.pair (gOf sS) (Reg.v (4 : Fin 608))) % 2 ^ 52 +
                BitVec.toNat (f.pair (gOf sS) (Reg.v (8 : Fin 608))) ≤
              BitVec.toNat (f.pair (gOf sS) (Reg.v (0 : Fin 608))) % 2 ^ 52)) :=
  by
  refine @of_decide_eq_true _ (by letI := @decIssues; letI := @decNoOpen; infer_instance) ?_
  decide +kernel
def iS1 : Instr := .rnswap always (.v 0) (.v 0) (.v 8) false .device
def sS1 := at_ iS1 (rr 1)
theorem witness_Renames_2_2_2_1 :
    Issues sS1 (Instr.rnswap always (Reg.v (0 : Fin 608)) (Reg.v (0 : Fin 608)) (Reg.v (8 : Fin 608)) false Scope.device)
      (wOf sS1) (aOf sS1) (gOf sS1) (xOf sS1 iS1) [] []
    ∧ (∃ (f : Fibre),
      f ∈ xOf sS1 iS1 ∧
        ¬((BitVec.toNat (f.pair (gOf sS1) (Reg.v (0 : Fin 608))) % 2 ^ 52 % 65536 =
                BitVec.toNat (f.pair (gOf sS1) (Reg.v (0 : Fin 608))) % 2 ^ 52 % 65536 ∧
              (BitVec.toNat (f.pair (gOf sS1) (Reg.v (8 : Fin 608))) < 2 ^ 52 ∧
                  BitVec.toNat (f.pair (gOf sS1) (Reg.v (0 : Fin 608))) % 2 ^ 52 +
                      BitVec.toNat (f.pair (gOf sS1) (Reg.v (8 : Fin 608))) ≤
                    2 ^ 52) ∧
                BitVec.toNat (f.pair (gOf sS1) (Reg.v (8 : Fin 608))) < 2 ^ 52 ∧
                  BitVec.toNat (f.pair (gOf sS1) (Reg.v (0 : Fin 608))) % 2 ^ 52 +
                      BitVec.toNat (f.pair (gOf sS1) (Reg.v (8 : Fin 608))) ≤
                    2 ^ 52) ∧
            (BitVec.toNat (f.pair (gOf sS1) (Reg.v (0 : Fin 608))) % 2 ^ 52 +
                  BitVec.toNat (f.pair (gOf sS1) (Reg.v (8 : Fin 608))) ≤
                BitVec.toNat (f.pair (gOf sS1) (Reg.v (0 : Fin 608))) % 2 ^ 52 ∨
              BitVec.toNat (f.pair (gOf sS1) (Reg.v (0 : Fin 608))) % 2 ^ 52 +
                  BitVec.toNat (f.pair (gOf sS1) (Reg.v (8 : Fin 608))) ≤
                BitVec.toNat (f.pair (gOf sS1) (Reg.v (0 : Fin 608))) % 2 ^ 52))) :=
  by
  refine @of_decide_eq_true _ (by letI := @decIssues; infer_instance) ?_
  decide +kernel
def iA : Instr := .rnalias always (.v 14) (.v 10) (.v 8) false .device
def sA := flagged2 (fourAt iA rr)
theorem witness_Renames_2_2_2_2_1 :
    Issues sA (Instr.rnalias always (Reg.v (14 : Fin 608)) (Reg.v (10 : Fin 608)) (Reg.v (8 : Fin 608)) false Scope.device)
      (wOf sA) (aOf sA) (gOf sA) (xOf sA iA) [] []
    ∧ NoOpenOperand (Instr.rnalias always (Reg.v (14 : Fin 608)) (Reg.v (10 : Fin 608)) (Reg.v (8 : Fin 608)) false Scope.device)
      (gOf sA) (xOf sA iA) []
    ∧ xOf sA iA ≠ []
    ∧ (∀ (f : Fibre),
      f ∈ xOf sA iA →
        (BitVec.toNat (f.pair (gOf sA) (Reg.v (14 : Fin 608))) % 2 ^ 52 % 65536 = 0 ∧
            BitVec.toNat (f.pair (gOf sA) (Reg.v (8 : Fin 608))) % 65536 = 0 ∧
              BitVec.toNat (f.pair (gOf sA) (Reg.v (8 : Fin 608))) < 2 ^ 52 ∧
                BitVec.toNat (f.pair (gOf sA) (Reg.v (14 : Fin 608))) % 2 ^ 52 +
                    BitVec.toNat (f.pair (gOf sA) (Reg.v (8 : Fin 608))) ≤
                  2 ^ 52) ∧
          BitVec.toNat (f.pair (gOf sA) (Reg.v (10 : Fin 608))) % 2 ^ 52 % 65536 = 0 ∧
            BitVec.toNat (f.pair (gOf sA) (Reg.v (8 : Fin 608))) % 65536 = 0 ∧
              BitVec.toNat (f.pair (gOf sA) (Reg.v (8 : Fin 608))) < 2 ^ 52 ∧
                BitVec.toNat (f.pair (gOf sA) (Reg.v (10 : Fin 608))) % 2 ^ 52 +
                    BitVec.toNat (f.pair (gOf sA) (Reg.v (8 : Fin 608))) ≤
                  2 ^ 52) :=
  by
  refine @of_decide_eq_true _ (by letI := @decIssues; letI := @decNoOpen; infer_instance) ?_
  decide +kernel
def iA1 : Instr := .rnalias always (.v 0) (.v 10) (.v 8) false .device
def sA1 := at_ iA1 (rr 1)
theorem witness_Renames_2_2_2_2_2_1 :
    Issues sA1 (Instr.rnalias always (Reg.v (0 : Fin 608)) (Reg.v (10 : Fin 608)) (Reg.v (8 : Fin 608)) false Scope.device)
      (wOf sA1) (aOf sA1) (gOf sA1) (xOf sA1 iA1) [] []
    ∧ (∃ (f : Fibre),
      f ∈ xOf sA1 iA1 ∧
        ¬((BitVec.toNat (f.pair (gOf sA1) (Reg.v (0 : Fin 608))) % 2 ^ 52 % 65536 = 0 ∧
              BitVec.toNat (f.pair (gOf sA1) (Reg.v (8 : Fin 608))) % 65536 = 0 ∧
                BitVec.toNat (f.pair (gOf sA1) (Reg.v (8 : Fin 608))) < 2 ^ 52 ∧
                  BitVec.toNat (f.pair (gOf sA1) (Reg.v (0 : Fin 608))) % 2 ^ 52 +
                      BitVec.toNat (f.pair (gOf sA1) (Reg.v (8 : Fin 608))) ≤
                    2 ^ 52) ∧
            BitVec.toNat (f.pair (gOf sA1) (Reg.v (10 : Fin 608))) % 2 ^ 52 % 65536 = 0 ∧
              BitVec.toNat (f.pair (gOf sA1) (Reg.v (8 : Fin 608))) % 65536 = 0 ∧
                BitVec.toNat (f.pair (gOf sA1) (Reg.v (8 : Fin 608))) < 2 ^ 52 ∧
                  BitVec.toNat (f.pair (gOf sA1) (Reg.v (10 : Fin 608))) % 2 ^ 52 +
                      BitVec.toNat (f.pair (gOf sA1) (Reg.v (8 : Fin 608))) ≤
                    2 ^ 52)) :=
  by
  refine @of_decide_eq_true _ (by letI := @decIssues; infer_instance) ?_
  decide +kernel
def iP : Instr := .rnperm always (.v 16) (.v 14) (.v 10) (.v 18) false .device
def sP := bytesAt (coreBase 0 + 2 * 8192 + 64) [3,0,0,0,9,0,0,0] (shared (flagged2 (fourAt iP rr)))
theorem witness_Renames_2_2_2_2_2_2_1 :
    Issues sP
      (Instr.rnperm always (Reg.v (16 : Fin 608)) (Reg.v (14 : Fin 608)) (Reg.v (10 : Fin 608)) (Reg.v (18 : Fin 608))
        false Scope.device)
      (wOf sP) (aOf sP) (gOf sP) (xOf sP iP) [] []
    ∧ NoOpenOperand
      (Instr.rnperm always (Reg.v (16 : Fin 608)) (Reg.v (14 : Fin 608)) (Reg.v (10 : Fin 608)) (Reg.v (18 : Fin 608))
        false Scope.device)
      (gOf sP) (xOf sP iP) []
    ∧ xOf sP iP ≠ []
    ∧ (∀ (f : Fibre),
      f ∈ xOf sP iP →
        have k := BitVec.toNat (f.word (gOf sP) (Reg.v (16 : Fin 608)));
        k ≤ 65536 ∧
          (BitVec.toNat (f.pair (gOf sP) (Reg.v (14 : Fin 608))) % 2 ^ 52 % 65536 = 0 ∧
              65536 * k % 65536 = 0 ∧
                65536 * k < 2 ^ 52 ∧
                  BitVec.toNat (f.pair (gOf sP) (Reg.v (14 : Fin 608))) % 2 ^ 52 + 65536 * k ≤
                    2 ^ 52) ∧
            BitVec.toNat (f.pair (gOf sP) (Reg.v (10 : Fin 608))) % 2 ^ 52 % 65536 = 0 ∧
              BitVec.toNat (f.word (gOf sP) (Reg.v (18 : Fin 608))) % 4 = 0 ∧
                BitVec.toNat (f.word (gOf sP) (Reg.v (18 : Fin 608))) + 4 * k ≤ (gOf sP).scratch ∧
                  ∀ (i : Nat),
                    i ∈
                        List.map
                          (fun (i : Nat) =>
                            natOf
                              (List.take 4
                                (List.drop (4 * i)
                                  (sP.readScratch (gOf sP) (BitVec.toNat (f.word (gOf sP) (Reg.v (18 : Fin 608)))) (4 * k)).fst)))
                          (List.range k) →
                      BitVec.toNat (f.pair (gOf sP) (Reg.v (10 : Fin 608))) % 2 ^ 52 + 65536 * i <
                        2 ^ 52) :=
  by
  refine @of_decide_eq_true _ (by letI := @decIssues; letI := @decNoOpen; try dsimp only; infer_instance) ?_
  decide +kernel
def iD : Instr := .rndrop always (.v 14) (.v 8) false .device
def sD := flagged2 (fourAt iD rr)
theorem witness_Renames_2_2_2_2_2_2_2_1 :
    Issues sD (Instr.rndrop always (Reg.v (14 : Fin 608)) (Reg.v (8 : Fin 608)) false Scope.device) (wOf sD) (aOf sD) (gOf sD) (xOf sD iD)
      [] []
    ∧ NoOpenOperand (Instr.rndrop always (Reg.v (14 : Fin 608)) (Reg.v (8 : Fin 608)) false Scope.device) (gOf sD) (xOf sD iD) []
    ∧ xOf sD iD ≠ []
    ∧ (∀ (f : Fibre),
      f ∈ xOf sD iD →
        BitVec.toNat (f.pair (gOf sD) (Reg.v (14 : Fin 608))) % 2 ^ 52 % 65536 = 0 ∧
          BitVec.toNat (f.pair (gOf sD) (Reg.v (8 : Fin 608))) % 65536 = 0 ∧
            BitVec.toNat (f.pair (gOf sD) (Reg.v (8 : Fin 608))) < 2 ^ 52 ∧
              BitVec.toNat (f.pair (gOf sD) (Reg.v (14 : Fin 608))) % 2 ^ 52 +
                  BitVec.toNat (f.pair (gOf sD) (Reg.v (8 : Fin 608))) ≤
                2 ^ 52) :=
  by
  refine @of_decide_eq_true _ (by letI := @decIssues; letI := @decNoOpen; infer_instance) ?_
  decide +kernel
def iD1 : Instr := .rndrop always (.v 14) (.v 20) false .device
def sD1 := at_ iD1 (rr 1)
theorem witness_Renames_2_2_2_2_2_2_2_2_1 :
    Issues sD1 (Instr.rndrop always (Reg.v (14 : Fin 608)) (Reg.v (20 : Fin 608)) false Scope.device) (wOf sD1) (aOf sD1) (gOf sD1)
      (xOf sD1 iD1) [] []
    ∧ (∃ (f : Fibre),
      f ∈ xOf sD1 iD1 ∧
        ¬(BitVec.toNat (f.pair (gOf sD1) (Reg.v (14 : Fin 608))) % 2 ^ 52 % 65536 = 0 ∧
            BitVec.toNat (f.pair (gOf sD1) (Reg.v (20 : Fin 608))) % 65536 = 0 ∧
              BitVec.toNat (f.pair (gOf sD1) (Reg.v (20 : Fin 608))) < 2 ^ 52 ∧
                BitVec.toNat (f.pair (gOf sD1) (Reg.v (14 : Fin 608))) % 2 ^ 52 +
                    BitVec.toNat (f.pair (gOf sD1) (Reg.v (20 : Fin 608))) ≤
                  2 ^ 52)) :=
  by
  refine @of_decide_eq_true _ (by letI := @decIssues; infer_instance) ?_
  decide +kernel
def iF : Instr := .rnfresh always (.v 14) (.v 8) false .device .lpddr
def sF := flagged2 (fourAt iF rr)
theorem witness_Renames_2_2_2_2_2_2_2_2_2_1 :
    Issues sF (Instr.rnfresh always (Reg.v (14 : Fin 608)) (Reg.v (8 : Fin 608)) false Scope.device FreshTier.lpddr) (wOf sF) (aOf sF)
      (gOf sF) (xOf sF iF) [] []
    ∧ NoOpenOperand (Instr.rnfresh always (Reg.v (14 : Fin 608)) (Reg.v (8 : Fin 608)) false Scope.device FreshTier.lpddr) (gOf sF)
      (xOf sF iF) []
    ∧ xOf sF iF ≠ []
    ∧ (∀ (f : Fibre),
      f ∈ xOf sF iF →
        BitVec.toNat (f.pair (gOf sF) (Reg.v (14 : Fin 608))) % 2 ^ 52 % 65536 = 0 ∧
          BitVec.toNat (f.pair (gOf sF) (Reg.v (8 : Fin 608))) % 65536 = 0 ∧
            BitVec.toNat (f.pair (gOf sF) (Reg.v (8 : Fin 608))) < 2 ^ 52 ∧
              BitVec.toNat (f.pair (gOf sF) (Reg.v (14 : Fin 608))) % 2 ^ 52 +
                  BitVec.toNat (f.pair (gOf sF) (Reg.v (8 : Fin 608))) ≤
                2 ^ 52) :=
  by
  refine @of_decide_eq_true _ (by letI := @decIssues; letI := @decNoOpen; infer_instance) ?_
  decide +kernel
def iF1 : Instr := .rnfresh always (.v 14) (.v 20) false .device .hbm
def sF1 := at_ iF1 (rr 1)
theorem witness_Renames_2_2_2_2_2_2_2_2_2_2_1 :
    Issues sF1 (Instr.rnfresh always (Reg.v (14 : Fin 608)) (Reg.v (20 : Fin 608)) false Scope.device FreshTier.hbm) (wOf sF1) (aOf sF1)
      (gOf sF1) (xOf sF1 iF1) [] []
    ∧ (∃ (f : Fibre),
      f ∈ xOf sF1 iF1 ∧
        ¬(BitVec.toNat (f.pair (gOf sF1) (Reg.v (14 : Fin 608))) % 2 ^ 52 % 65536 = 0 ∧
            BitVec.toNat (f.pair (gOf sF1) (Reg.v (20 : Fin 608))) % 65536 = 0 ∧
              BitVec.toNat (f.pair (gOf sF1) (Reg.v (20 : Fin 608))) < 2 ^ 52 ∧
                BitVec.toNat (f.pair (gOf sF1) (Reg.v (14 : Fin 608))) % 2 ^ 52 +
                    BitVec.toNat (f.pair (gOf sF1) (Reg.v (20 : Fin 608))) ≤
                  2 ^ 52)) :=
  by
  refine @of_decide_eq_true _ (by letI := @decIssues; infer_instance) ?_
  decide +kernel
def iQ : Instr := .rnquery always (.v 0) (.v 4) false
def sQ := flagged2 (fourAt iQ rr)
theorem witness_Renames_2_2_2_2_2_2_2_2_2_2_2 :
    Issues sQ (Instr.rnquery always (Reg.v (0 : Fin 608)) (Reg.v (4 : Fin 608)) false) (wOf sQ) (aOf sQ) (gOf sQ) (xOf sQ iQ) [] []
    ∧ NoOpenOperand (Instr.rnquery always (Reg.v (0 : Fin 608)) (Reg.v (4 : Fin 608)) false) (gOf sQ) (xOf sQ iQ) []
    ∧ xOf sQ iQ ≠ [] :=
  by
  refine @of_decide_eq_true _ (by letI := @decIssues; letI := @decNoOpen; infer_instance) ?_
  decide +kernel
-- walker: tables with host leaves (tier 2)
def tb (s : State) := { tabled [(2, 2, 7), (3, 2, 9)] s with unitKey := [(0x401, 1)] }
def rnOp (r : Rename) : Op := { loadOp with id := 20, issue := 20, gid := 1, flag := some 2, kind := .rename r }
def sW (r : Rename) := inFlight [rnOp r] (asGroup1 (flg (tb (at_ .nopShort))))
theorem witness_RenameWalker_1 :
    ((sW (Rename.move 0 0 0)).op? (rnOp (Rename.move 0 0 0)).id =
        some (rnOp (Rename.move 0 0 0)) ∧
      (rnOp (Rename.move 0 0 0)).kind = OpKind.rename (Rename.move 0 0 0) ∧
        (rnOp (Rename.move 0 0 0)).stage = OpStage.issued ∧
          (rnOp (Rename.move 0 0 0)).record = none ∧
            (rnOp (Rename.move 0 0 0)).gid ≠ 0 ∧
              (sW (Rename.move 0 0 0)).renameDue (rnOp (Rename.move 0 0 0)) = true ∧
                (sW (Rename.move 0 0 0)).tidy ∧
                  (sW (Rename.move 0 0 0)).overCount (rnOp (Rename.move 0 0 0)).ctx = none)
    ∧ Rename.move 0 0 0 ∈
      [Rename.move 0 0 0, Rename.swap 0 0 0, Rename.copyLeaves 0 0 0,
        Rename.perm 0 0 [], Rename.drop 0 0, Rename.fresh 0 0 FreshTier.asEntry] :=
  by
  refine @of_decide_eq_true _ (by letI := @decTidy; infer_instance) ?_
  decide +kernel
theorem witness_RenameWalker_1b :
    ((sW (Rename.fresh 0 0 FreshTier.asEntry)).op? (rnOp (Rename.fresh 0 0 FreshTier.asEntry)).id =
        some (rnOp (Rename.fresh 0 0 FreshTier.asEntry)) ∧
      (rnOp (Rename.fresh 0 0 FreshTier.asEntry)).kind = OpKind.rename (Rename.fresh 0 0 FreshTier.asEntry) ∧
        (rnOp (Rename.fresh 0 0 FreshTier.asEntry)).stage = OpStage.issued ∧
          (rnOp (Rename.fresh 0 0 FreshTier.asEntry)).record = none ∧
            (rnOp (Rename.fresh 0 0 FreshTier.asEntry)).gid ≠ 0 ∧
              (sW (Rename.fresh 0 0 FreshTier.asEntry)).renameDue (rnOp (Rename.fresh 0 0 FreshTier.asEntry)) = true ∧
                (sW (Rename.fresh 0 0 FreshTier.asEntry)).tidy ∧
                  (sW (Rename.fresh 0 0 FreshTier.asEntry)).overCount
                      (rnOp (Rename.fresh 0 0 FreshTier.asEntry)).ctx =
                    none)
    ∧ Rename.fresh 0 0 FreshTier.asEntry ∈
      [Rename.move 0 0 0, Rename.swap 0 0 0, Rename.copyLeaves 0 0 0,
        Rename.perm 0 0 [], Rename.drop 0 0, Rename.fresh 0 0 FreshTier.asEntry] :=
  by
  refine @of_decide_eq_true _ (by letI := @decTidy; infer_instance) ?_
  decide +kernel
def leafE (s : State) (p : Nat) : DWord := s.entryAt (0x4000 + 8 * p)
def rs (k : Nat) : Rename := ([.move 0x20000 0x30000 65536, .copyLeaves 0x20000 0x30000 65536, .perm 0x20000 0 [3], .swap 0x20000 0x30000 65536, .drop 0x30000 65536] : List Rename).getD k (.drop 0 0)
theorem witness_RenameWalker_2_1 :
    ((sW (rs 0)).entryFor (rnOp (rs 0)).ctx 131072 3 = (some 16400, sW (rs 0)) ∧
      (sW (rs 0)).entryAt 16400 = leafE (sW (rs 0)) 2 ∧
        (pteValid (leafE (sW (rs 0)) 2) = true ∧
              pteLeaf (leafE (sW (rs 0)) 2) = true ∧ 2 ≤ pteTier (leafE (sW (rs 0)) 2) ∨
            pteValid (leafE (sW (rs 0)) 2) = false) ∧
          131072 % 65536 = 0 ∧
            131072 < 2 ^ 52 ∧
              16400 % 8 = 0 ∧
                storage 16400 = Storage.dram ∧
                  sget 0 (sW (rs 0)).unitKey (16400 / 16 : Nat) = (sW (rs 0)).keyMark 0)
    ∧ ((sW (rs 0)).entryFor (rnOp (rs 0)).ctx 196608 3 = (some 16408, sW (rs 0)) ∧
      (sW (rs 0)).entryAt 16408 = leafE (sW (rs 0)) 3 ∧
        (pteValid (leafE (sW (rs 0)) 3) = true ∧
              pteLeaf (leafE (sW (rs 0)) 3) = true ∧ 2 ≤ pteTier (leafE (sW (rs 0)) 3) ∨
            pteValid (leafE (sW (rs 0)) 3) = false) ∧
          196608 % 65536 = 0 ∧
            196608 < 2 ^ 52 ∧
              16408 % 8 = 0 ∧
                storage 16408 = Storage.dram ∧
                  sget 0 (sW (rs 0)).unitKey (16408 / 16 : Nat) = (sW (rs 0)).keyMark 0)
    ∧ (pteValid (leafE (sW (rs 0)) 3) = true ∧
      pteLeaf (leafE (sW (rs 0)) 3) = true ∧ 2 ≤ pteTier (leafE (sW (rs 0)) 3))
    ∧ 16400 ≠ 16408 :=
  by decide +kernel
theorem witness_RenameWalker_2_1b :
    ((sW (rs 1)).entryFor (rnOp (rs 1)).ctx 131072 3 = (some 16400, sW (rs 1)) ∧
      (sW (rs 1)).entryAt 16400 = leafE (sW (rs 0)) 2 ∧
        (pteValid (leafE (sW (rs 0)) 2) = true ∧
              pteLeaf (leafE (sW (rs 0)) 2) = true ∧ 2 ≤ pteTier (leafE (sW (rs 0)) 2) ∨
            pteValid (leafE (sW (rs 0)) 2) = false) ∧
          131072 % 65536 = 0 ∧
            131072 < 2 ^ 52 ∧
              16400 % 8 = 0 ∧
                storage 16400 = Storage.dram ∧
                  sget 0 (sW (rs 1)).unitKey (16400 / 16 : Nat) = (sW (rs 1)).keyMark 0)
    ∧ ((sW (rs 1)).entryFor (rnOp (rs 1)).ctx 196608 3 = (some 16408, sW (rs 1)) ∧
      (sW (rs 1)).entryAt 16408 = leafE (sW (rs 0)) 3 ∧
        (pteValid (leafE (sW (rs 0)) 3) = true ∧
              pteLeaf (leafE (sW (rs 0)) 3) = true ∧ 2 ≤ pteTier (leafE (sW (rs 0)) 3) ∨
            pteValid (leafE (sW (rs 0)) 3) = false) ∧
          196608 % 65536 = 0 ∧
            196608 < 2 ^ 52 ∧
              16408 % 8 = 0 ∧
                storage 16408 = Storage.dram ∧
                  sget 0 (sW (rs 1)).unitKey (16408 / 16 : Nat) = (sW (rs 1)).keyMark 0)
    ∧ (pteValid (leafE (sW (rs 0)) 3) = true ∧
      pteLeaf (leafE (sW (rs 0)) 3) = true ∧ 2 ≤ pteTier (leafE (sW (rs 0)) 3))
    ∧ 16400 ≠ 16408 :=
  by decide +kernel
theorem witness_RenameWalker_2_1c :
    ((sW (rs 2)).entryFor (rnOp (rs 2)).ctx 131072 3 = (some 16400, sW (rs 2)) ∧
      (sW (rs 2)).entryAt 16400 = leafE (sW (rs 0)) 2 ∧
        (pteValid (leafE (sW (rs 0)) 2) = true ∧
              pteLeaf (leafE (sW (rs 0)) 2) = true ∧ 2 ≤ pteTier (leafE (sW (rs 0)) 2) ∨
            pteValid (leafE (sW (rs 0)) 2) = false) ∧
          131072 % 65536 = 0 ∧
            131072 < 2 ^ 52 ∧
              16400 % 8 = 0 ∧
                storage 16400 = Storage.dram ∧
                  sget 0 (sW (rs 2)).unitKey (16400 / 16 : Nat) = (sW (rs 2)).keyMark 0)
    ∧ ((sW (rs 2)).entryFor (rnOp (rs 2)).ctx 196608 3 = (some 16408, sW (rs 2)) ∧
      (sW (rs 2)).entryAt 16408 = leafE (sW (rs 0)) 3 ∧
        (pteValid (leafE (sW (rs 0)) 3) = true ∧
              pteLeaf (leafE (sW (rs 0)) 3) = true ∧ 2 ≤ pteTier (leafE (sW (rs 0)) 3) ∨
            pteValid (leafE (sW (rs 0)) 3) = false) ∧
          196608 % 65536 = 0 ∧
            196608 < 2 ^ 52 ∧
              16408 % 8 = 0 ∧
                storage 16408 = Storage.dram ∧
                  sget 0 (sW (rs 2)).unitKey (16408 / 16 : Nat) = (sW (rs 2)).keyMark 0)
    ∧ (pteValid (leafE (sW (rs 0)) 3) = true ∧
      pteLeaf (leafE (sW (rs 0)) 3) = true ∧ 2 ≤ pteTier (leafE (sW (rs 0)) 3))
    ∧ 16400 ≠ 16408 :=
  by decide +kernel
theorem witness_RenameWalker_2_1d :
    ((sW (rs 3)).entryFor (rnOp (rs 3)).ctx 131072 3 = (some 16400, sW (rs 3)) ∧
      (sW (rs 3)).entryAt 16400 = leafE (sW (rs 0)) 2 ∧
        (pteValid (leafE (sW (rs 0)) 2) = true ∧
              pteLeaf (leafE (sW (rs 0)) 2) = true ∧ 2 ≤ pteTier (leafE (sW (rs 0)) 2) ∨
            pteValid (leafE (sW (rs 0)) 2) = false) ∧
          131072 % 65536 = 0 ∧
            131072 < 2 ^ 52 ∧
              16400 % 8 = 0 ∧
                storage 16400 = Storage.dram ∧
                  sget 0 (sW (rs 3)).unitKey (16400 / 16 : Nat) = (sW (rs 3)).keyMark 0)
    ∧ ((sW (rs 3)).entryFor (rnOp (rs 3)).ctx 196608 3 = (some 16408, sW (rs 3)) ∧
      (sW (rs 3)).entryAt 16408 = leafE (sW (rs 0)) 3 ∧
        (pteValid (leafE (sW (rs 0)) 3) = true ∧
              pteLeaf (leafE (sW (rs 0)) 3) = true ∧ 2 ≤ pteTier (leafE (sW (rs 0)) 3) ∨
            pteValid (leafE (sW (rs 0)) 3) = false) ∧
          196608 % 65536 = 0 ∧
            196608 < 2 ^ 52 ∧
              16408 % 8 = 0 ∧
                storage 16408 = Storage.dram ∧
                  sget 0 (sW (rs 3)).unitKey (16408 / 16 : Nat) = (sW (rs 3)).keyMark 0)
    ∧ (pteValid (leafE (sW (rs 0)) 3) = true ∧
      pteLeaf (leafE (sW (rs 0)) 3) = true ∧ 2 ≤ pteTier (leafE (sW (rs 0)) 3))
    ∧ 16400 ≠ 16408 :=
  by decide +kernel
theorem witness_RenameWalker_2_1e :
    ((sW (rs 4)).entryFor (rnOp (rs 4)).ctx 131072 3 = (some 16400, sW (rs 4)) ∧
      (sW (rs 4)).entryAt 16400 = leafE (sW (rs 0)) 2 ∧
        (pteValid (leafE (sW (rs 0)) 2) = true ∧
              pteLeaf (leafE (sW (rs 0)) 2) = true ∧ 2 ≤ pteTier (leafE (sW (rs 0)) 2) ∨
            pteValid (leafE (sW (rs 0)) 2) = false) ∧
          131072 % 65536 = 0 ∧
            131072 < 2 ^ 52 ∧
              16400 % 8 = 0 ∧
                storage 16400 = Storage.dram ∧
                  sget 0 (sW (rs 4)).unitKey (16400 / 16 : Nat) = (sW (rs 4)).keyMark 0)
    ∧ ((sW (rs 4)).entryFor (rnOp (rs 4)).ctx 196608 3 = (some 16408, sW (rs 4)) ∧
      (sW (rs 4)).entryAt 16408 = leafE (sW (rs 0)) 3 ∧
        (pteValid (leafE (sW (rs 0)) 3) = true ∧
              pteLeaf (leafE (sW (rs 0)) 3) = true ∧ 2 ≤ pteTier (leafE (sW (rs 0)) 3) ∨
            pteValid (leafE (sW (rs 0)) 3) = false) ∧
          196608 % 65536 = 0 ∧
            196608 < 2 ^ 52 ∧
              16408 % 8 = 0 ∧
                storage 16408 = Storage.dram ∧
                  sget 0 (sW (rs 4)).unitKey (16408 / 16 : Nat) = (sW (rs 4)).keyMark 0)
    ∧ (pteValid (leafE (sW (rs 0)) 3) = true ∧
      pteLeaf (leafE (sW (rs 0)) 3) = true ∧ 2 ≤ pteTier (leafE (sW (rs 0)) 3))
    ∧ 16400 ≠ 16408 :=
  by decide +kernel
def prior : Op := { loadOp with id := 4, issue := 4, gid := 1 }
def sWb := inFlight [prior] (sW (rs 0))
theorem witness_RenameWalker_2_2_1 :
    sWb.op? (rnOp (rs 0)).id = some (rnOp (rs 0))
    ∧ (rnOp (rs 0)).kind = OpKind.rename (rs 0)
    ∧ (rnOp (rs 0)).stage = OpStage.issued
    ∧ sWb.renameDue (rnOp (rs 0)) = false :=
  by decide +kernel
def stO : Op := { rnOp (rs 0) with stage := .started }
def sWp := mapped 2 2 7 0 (mapped 5 2 9 0 (inFlight [stO] (asGroup1 (flg (tb (at_ .nopShort))))))
theorem witness_RenameWalker_2_2_2_1 :
    sWp.op? stO.id = some stO
    ∧ stO.kind = OpKind.rename (rs 0)
    ∧ stO.stage = OpStage.started
    ∧ stO.gid ≠ 0
    ∧ sWp.fibreOf? stO.gid stO.fid = some (w0 sWp, f0 sWp)
    ∧ sWp.warp? (w0 sWp).wid = some (w0 sWp)
    ∧ (w0 sWp).fibre? (f0 sWp).lane = some (f0 sWp)
    ∧ sWp.releasable stO = true
    ∧ sWp.oldLeafUsed stO.id stO.ctx (rs 0).ranges = false :=
  by decide +kernel
theorem witness_RenameWalker_2_2_2_1b :
    sWp.op? stO.id = some stO
    ∧ stO.kind = OpKind.rename (rs 0)
    ∧ stO.stage = OpStage.started
    ∧ stO.gid ≠ 0
    ∧ sWp.fibreOf? stO.gid stO.fid = some (w0 sWp, f0 sWp)
    ∧ sWp.warp? (w0 sWp).wid = some (w0 sWp)
    ∧ (w0 sWp).fibre? (f0 sWp).lane = some (f0 sWp)
    ∧ sWp.releasable stO = true
    ∧ sWp.oldLeafUsed stO.id stO.ctx (rs 0).ranges = false :=
  by decide +kernel
def sWu := inFlight [{ loadOp with id := 4, issue := 4, gid := 1, pins := [(0x20000, 0x50000, 0)] }] sWp
theorem witness_RenameWalker_2_2_2_2 :
    sWu.op? stO.id = some stO
    ∧ stO.kind = OpKind.rename (rs 0)
    ∧ stO.stage = OpStage.started
    ∧ (sWu.releasable stO = false ∨ sWu.oldLeafUsed stO.id stO.ctx (rs 0).ranges = true) :=
  by decide +kernel
def qO (va : VAddr) : Op := { rnOp (rs 0) with kind := .query va [3, 4, 5, 6] }
def cN (s : State) : State := { s with ctxs := s.ctxs.map (fun (c : Ctx) => { c with pool0 := [5, 6], pool1 := [9], counts := [(7, 1)] }) }
def sQ1 := cN (inFlight [qO 0x20004] (asGroup1 (flg (tabled [(2, 0, 7)] (at_ .nopShort)))))
theorem witness_RenameQuery :
    sQ1.op? (qO (131076 : VAddr)).id = some (qO (131076 : VAddr))
    ∧ (qO (131076 : VAddr)).kind = OpKind.query (131076 : VAddr) [3, 4, 5, 6]
    ∧ (qO (131076 : VAddr)).spoil = []
    ∧ (qO (131076 : VAddr)).record = none
    ∧ sQ1.fibreOf? (qO (131076 : VAddr)).gid (qO (131076 : VAddr)).fid = some (w0 sQ1, f0 sQ1)
    ∧ sQ1.warp? (w0 sQ1).wid = some (w0 sQ1)
    ∧ (w0 sQ1).fibre? (f0 sQ1).lane = some (f0 sQ1)
    ∧ (w0 sQ1).handler = none
    ∧ sQ1.group? (w0 sQ1).gid ≠ none
    ∧ sQ1.ctx? (qO (131076 : VAddr)).ctx = some sQ1.ctxs.head!
    ∧ (∀ (a : Op),
      a ∈ sQ1.ops →
        a.gid = (qO (131076 : VAddr)).gid →
          a.fid = (qO (131076 : VAddr)).fid →
            a.order < (qO (131076 : VAddr)).order → ∀ (r : Rename), a.kind = OpKind.rename r → a.stage ≠ OpStage.issued) :=
  by
  refine @of_decide_eq_true _ (by letI := @decRename; infer_instance) ?_
  decide +kernel
def sQ2 := cN (inFlight [qO 0x30004] (asGroup1 (flg (tabled [(2, 0, 7)] (at_ .nopShort)))))
theorem witness_RenameQueryb :
    sQ2.op? (qO (196612 : VAddr)).id = some (qO (196612 : VAddr))
    ∧ (qO (196612 : VAddr)).kind = OpKind.query (196612 : VAddr) [3, 4, 5, 6]
    ∧ (qO (196612 : VAddr)).spoil = []
    ∧ (qO (196612 : VAddr)).record = none
    ∧ sQ2.fibreOf? (qO (196612 : VAddr)).gid (qO (196612 : VAddr)).fid = some (w0 sQ2, f0 sQ2)
    ∧ sQ2.warp? (w0 sQ2).wid = some (w0 sQ2)
    ∧ (w0 sQ2).fibre? (f0 sQ2).lane = some (f0 sQ2)
    ∧ (w0 sQ2).handler = none
    ∧ sQ2.group? (w0 sQ2).gid ≠ none
    ∧ sQ2.ctx? (qO (196612 : VAddr)).ctx = some sQ2.ctxs.head!
    ∧ (∀ (a : Op),
      a ∈ sQ2.ops →
        a.gid = (qO (196612 : VAddr)).gid →
          a.fid = (qO (196612 : VAddr)).fid →
            a.order < (qO (196612 : VAddr)).order → ∀ (r : Rename), a.kind = OpKind.rename r → a.stage ≠ OpStage.issued) :=
  by
  refine @of_decide_eq_true _ (by letI := @decRename; infer_instance) ?_
  decide +kernel

end W13

/-! ## Premises met: `Obligations.MatrixIssue`, `Obligations.Convergence` -/

namespace W14

def flg (s : State) := byFibre (fun f => { f with flags := [(2, 2)] }) s
def flagged2 (s : State) := byWarp (fun (w : Warp) => { w with active := w.active.map (fun (a : Active) => { a with header := soloHeader 2 - 15 * 2 ^ 21 + 2 * 2 ^ 21 }) }) (flg s)
def rr (l : Nat) : Sparse Word := [(0, BitVec.ofNat 32 (0x3F803F80 + 0x10000 * l)), (1, BitVec.ofNat 32 (0x40003F80 + l)), (4, BitVec.ofNat 32 (0x3F804000 + 128 * l)), (5, 0x3F80BF80), (8, 0x10), (10, 64), (12, 0x40), (14, 1), (16, 2), (18, 64), (20, 0x10000)]
def allAt (i : Instr) (regs : Nat → Sparse Word) : State :=
  byWarp (fun (w : Warp) =>
    { w with fibres := w.fibres.flatMap (fun f => (List.range 32).map (fun l => { f with lane := l, id := l, regs := regs l })),
             holder := some (List.range 32), active := w.active.map (fun a => { a with lanes := List.range 32 }) }) (at_ i)
def iM : Instr := .mma always 1 (.v 0) (.v 4) none false .bf16
def sM := flagged2 (shared (fourAt iM rr))
theorem witness_MatrixIssue_1 :
    Issues sM (Instr.mma always (1 : BitVec 8) (Reg.v (0 : Fin 608)) (Reg.v (4 : Fin 608)) none false MmaFmt.bf16) (wOf sM)
      (aOf sM) (gOf sM) (x0 sM iM :: List.drop 1 (xOf sM iM)) [] [] :=
  by
  refine @of_decide_eq_true _ (by letI := @decIssues; infer_instance) ?_
  decide +kernel
def iM2 : Instr := .mma always 5 (.v 0) (.v 4) (some { pair := .v 8, p := 1, sa := 2, sb := 0 }) true .e4m3
def sM2 := flagged2 (shared (fourAt iM2 rr))
theorem witness_MatrixIssue_1b :
    Issues sM2
      (Instr.mma always (5 : BitVec 8) (Reg.v (0 : Fin 608)) (Reg.v (4 : Fin 608))
        (some { pair := Reg.v (8 : Fin 608), p := (1 : Fin 4), sa := (2 : Fin 4), sb := (0 : Fin 4) : MmaScale }) true
        MmaFmt.e4m3)
      (wOf sM2) (aOf sM2) (gOf sM2) (x0 sM2 iM2 :: List.drop 1 (xOf sM2 iM2)) [] [] :=
  by
  refine @of_decide_eq_true _ (by letI := @decIssues; infer_instance) ?_
  decide +kernel
def iM3 : Instr := .mma always 4 (.v 0) (.v 4) none true .e4m3
def sM3 := flagged2 (shared (fourAt iM3 rr))
theorem witness_MatrixIssue_1c :
    Issues sM3 (Instr.mma always (4 : BitVec 8) (Reg.v (0 : Fin 608)) (Reg.v (4 : Fin 608)) none true MmaFmt.e4m3) (wOf sM3)
      (aOf sM3) (gOf sM3) (x0 sM3 iM3 :: List.drop 1 (xOf sM3 iM3)) [] [] :=
  by
  refine @of_decide_eq_true _ (by letI := @decIssues; infer_instance) ?_
  decide +kernel
def iZ : Instr := .accz always 2 3
def sZ := byGroup (fun g => { g with uses := [{ fid := 1, wid := 0, core := 0, cv := none, tiles := [2], regs := [3] }, { fid := 1, wid := 0, core := 0, cv := none, tiles := [0], regs := [4] }] }) (flagged2 (shared (fourAt iZ rr)))
theorem witness_MatrixIssue_2_1 :
    Issues sZ (Instr.accz always (2 : BitVec 8) (3 : BitVec 8)) (wOf sZ) (aOf sZ) (gOf sZ) (x0 sZ iZ :: List.drop 1 (xOf sZ iZ))
      [] [] :=
  by
  refine @of_decide_eq_true _ (by letI := @decIssues; infer_instance) ?_
  decide +kernel
def iV : Instr := .accmv always (.v 8) (some (.v 20)) 2 true false
def sV := flagged2 (shared (fourAt iV rr))
theorem witness_MatrixIssue_2_2_1 :
    Issues sV (Instr.accmv always (Reg.v (8 : Fin 608)) (some (Reg.v (20 : Fin 608))) (2 : BitVec 8) true false) (wOf sV) (aOf sV)
      (gOf sV) (x0 sV iV :: List.drop 1 (xOf sV iV)) [] [] :=
  by
  refine @of_decide_eq_true _ (by letI := @decIssues; infer_instance) ?_
  decide +kernel
def iS : Instr := .accst always none (.v 10) 2 (.v 12) false true .f32 false
def sS := flagged2 (shared (fourAt iS rr))
theorem witness_MatrixIssue_2_2_2_1 :
    Issues sS (Instr.accst always none (Reg.v (10 : Fin 608)) (2 : BitVec 8) (Reg.v (12 : Fin 608)) false true TileFmt.f32 false)
      (wOf sS) (aOf sS) (gOf sS) (x0 sS iS :: List.drop 1 (xOf sS iS)) [] [] :=
  by
  refine @of_decide_eq_true _ (by letI := @decIssues; infer_instance) ?_
  decide +kernel
def iL : Instr := .accld always (.v 20) 2 (.v 12) false .bf16 false
def sL := flagged2 (shared (fourAt iL rr))
theorem witness_MatrixIssue_2_2_2_2 :
    Issues sL (Instr.accld always (Reg.v (20 : Fin 608)) (2 : BitVec 8) (Reg.v (12 : Fin 608)) false TileFmt.bf16 false) (wOf sL)
      (aOf sL) (gOf sL) (x0 sL iL :: List.drop 1 (xOf sL iL)) [] [] :=
  by
  refine @of_decide_eq_true _ (by letI := @decIssues; infer_instance) ?_
  decide +kernel
-- convergence
def iC : Instr := .cvset always (.v 16) 9
def sC := fourAt iC rr
theorem witness_Convergence_1 :
    Issues sC (Instr.cvset always (Reg.v (16 : Fin 608)) (9 : Fin 16)) (wOf sC) (aOf sC) (gOf sC) (xOf sC iC) (eOf sC iC) (pOf sC iC)
    ∧ NoOpenOperand (Instr.cvset always (Reg.v (16 : Fin 608)) (9 : Fin 16)) (gOf sC) (xOf sC iC) (eOf sC iC)
    ∧ xOf sC iC ≠ []
    ∧ ((sget { : Conv } (gOf sC).convs (↑(9 : Fin 16) : Nat)).sigs = [] ∧
      (sget { : Conv } (gOf sC).convs (↑(9 : Fin 16) : Nat)).arming = none ∧
        ∀ (f : Fibre),
          f ∈ xOf sC iC →
            1 ≤ BitVec.toNat (f.word (gOf sC) (Reg.v (16 : Fin 608))) % 4096 ∧
              BitVec.toNat (f.word (gOf sC) (Reg.v (16 : Fin 608))) % 4096 ≤ 2048) :=
  by
  refine @of_decide_eq_true _ (by letI := @decIssues; letI := @decNoOpen; infer_instance) ?_
  decide +kernel
def sC1 := byGroup (fun g => { g with convs := [(9, { size := 3, sigs := [{ fid := 8, wid := 1, lane := 0, vlane := 0, a := [], b := [] }] })] }) (at_ iC (rr 0))
theorem witness_Convergence_2_1 :
    Issues sC1 (Instr.cvset always (Reg.v (16 : Fin 608)) (9 : Fin 16)) (wOf sC1) (aOf sC1) (gOf sC1) (xOf sC1 iC) [] []
    ∧ (∃ (f : Fibre),
      f ∈ xOf sC1 iC ∧
        ((sget { : Conv } (gOf sC1).convs (↑(9 : Fin 16) : Nat)).sigs ≠ [] ∨
          (sget { : Conv } (gOf sC1).convs (↑(9 : Fin 16) : Nat)).arming ≠ none ∨
            BitVec.toNat (f.word (gOf sC1) (Reg.v (16 : Fin 608))) % 4096 = 0 ∨
              2048 < BitVec.toNat (f.word (gOf sC1) (Reg.v (16 : Fin 608))) % 4096)) :=
  by
  refine @of_decide_eq_true _ (by letI := @decIssues; infer_instance) ?_
  decide +kernel
def iG : Instr := .cvsign always (.v 0) (.v 4) 9
def sg (fid wid : Nat) : Signature := { fid := fid, wid := wid, lane := 0, vlane := 0, a := [1, 2], b := [3] }
def arm : Arming := { tile := 0, m64 := false, fmt := .bf16, ck := false, by_ := [(0, 0)] }
def sG (c : Conv) := byGroup (fun g => { g with convs := [(9, c)] }) (shared (at_ iG (rr 0)))
def cs : List Conv := [{ size := 3, sigs := [sg 8 1] }, { size := 1, sigs := [sg 8 1] }, { size := 2, sigs := [sg 8 1], arming := some arm }, { size := 2, sigs := [sg 8 0], arming := some arm }, { size := 2, sigs := [sg 8 1] }]
def sGk (k : Nat) := sG (cs.getD k {})
theorem witness_Convergence_2_2_1 :
    Issues (sGk 0) (Instr.cvsign always (Reg.v (0 : Fin 608)) (Reg.v (4 : Fin 608)) (9 : Fin 16)) (wOf (sGk 0))
      (aOf (sGk 0)) (gOf (sGk 0)) (xOf (sGk 0) iG) [] []
    ∧ xOf (sGk 0) iG ≠ []
    ∧ (sget { : Conv } (gOf (sGk 0)).convs (↑(9 : Fin 16) : Nat)).size ≠ 0
    ∧ (sGk 0).quadFull (wOf (sGk 0)).wid = false
    ∧ (sGk 0).signers (wOf (sGk 0)).gid (↑(9 : Fin 16) : Nat) = []
    ∧ swf { : Conv } (gOf (sGk 0)).convs = true :=
  by
  refine @of_decide_eq_true _ (by letI := @decIssues; infer_instance) ?_
  decide +kernel
theorem witness_Convergence_2_2_1b :
    Issues (sGk 1) (Instr.cvsign always (Reg.v (0 : Fin 608)) (Reg.v (4 : Fin 608)) (9 : Fin 16)) (wOf (sGk 1))
      (aOf (sGk 1)) (gOf (sGk 1)) (xOf (sGk 1) iG) [] []
    ∧ xOf (sGk 1) iG ≠ []
    ∧ (sget { : Conv } (gOf (sGk 1)).convs (↑(9 : Fin 16) : Nat)).size ≠ 0
    ∧ (sGk 1).quadFull (wOf (sGk 1)).wid = false
    ∧ (sGk 1).signers (wOf (sGk 1)).gid (↑(9 : Fin 16) : Nat) = []
    ∧ swf { : Conv } (gOf (sGk 1)).convs = true :=
  by
  refine @of_decide_eq_true _ (by letI := @decIssues; infer_instance) ?_
  decide +kernel
theorem witness_Convergence_2_2_2_1 :
    Issues (sGk 2) (Instr.cvsign always (Reg.v (0 : Fin 608)) (Reg.v (4 : Fin 608)) (9 : Fin 16)) (wOf (sGk 2))
      (aOf (sGk 2)) (gOf (sGk 2)) [x0 (sGk 2) iG] [] []
    ∧ (sget { : Conv } (gOf (sGk 2)).convs (↑(9 : Fin 16) : Nat)).size ≠ 0
    ∧ (sGk 2).quadFull (wOf (sGk 2)).wid = false
    ∧ (sGk 2).signers (wOf (sGk 2)).gid (↑(9 : Fin 16) : Nat) = []
    ∧ swf { : Conv } (gOf (sGk 2)).convs = true
    ∧ (sget { : Conv } (gOf (sGk 2)).convs (↑(9 : Fin 16) : Nat)).sigs.length + 1 =
      (sget { : Conv } (gOf (sGk 2)).convs (↑(9 : Fin 16) : Nat)).size
    ∧ (sget { : Conv } (gOf (sGk 2)).convs (↑(9 : Fin 16) : Nat)).arming = some arm :=
  by
  refine @of_decide_eq_true _ (by letI := @decIssues; infer_instance) ?_
  decide +kernel
theorem witness_Convergence_2_2_2_1b :
    Issues (sGk 3) (Instr.cvsign always (Reg.v (0 : Fin 608)) (Reg.v (4 : Fin 608)) (9 : Fin 16)) (wOf (sGk 3))
      (aOf (sGk 3)) (gOf (sGk 3)) [x0 (sGk 3) iG] [] []
    ∧ (sget { : Conv } (gOf (sGk 3)).convs (↑(9 : Fin 16) : Nat)).size ≠ 0
    ∧ (sGk 3).quadFull (wOf (sGk 3)).wid = false
    ∧ (sGk 3).signers (wOf (sGk 3)).gid (↑(9 : Fin 16) : Nat) = []
    ∧ swf { : Conv } (gOf (sGk 3)).convs = true
    ∧ (sget { : Conv } (gOf (sGk 3)).convs (↑(9 : Fin 16) : Nat)).sigs.length + 1 =
      (sget { : Conv } (gOf (sGk 3)).convs (↑(9 : Fin 16) : Nat)).size
    ∧ (sget { : Conv } (gOf (sGk 3)).convs (↑(9 : Fin 16) : Nat)).arming = some arm :=
  by
  refine @of_decide_eq_true _ (by letI := @decIssues; infer_instance) ?_
  decide +kernel
theorem witness_Convergence_2_2_1c :
    Issues (sGk 4) (Instr.cvsign always (Reg.v (0 : Fin 608)) (Reg.v (4 : Fin 608)) (9 : Fin 16)) (wOf (sGk 4))
      (aOf (sGk 4)) (gOf (sGk 4)) (xOf (sGk 4) iG) [] []
    ∧ xOf (sGk 4) iG ≠ []
    ∧ (sget { : Conv } (gOf (sGk 4)).convs (↑(9 : Fin 16) : Nat)).size ≠ 0
    ∧ (sGk 4).quadFull (wOf (sGk 4)).wid = false
    ∧ (sGk 4).signers (wOf (sGk 4)).gid (↑(9 : Fin 16) : Nat) = []
    ∧ swf { : Conv } (gOf (sGk 4)).convs = true :=
  by
  refine @of_decide_eq_true _ (by letI := @decIssues; infer_instance) ?_
  decide +kernel
def iJ : Instr := .mmaJ always 1 false 9 false .bf16
def sJ (c : Conv) := byGroup (fun g => { g with convs := [(9, c)] }) (shared (at_ iJ (rr 0)))
def sJ0 := sJ { size := 3, sigs := [sg 8 1] }
theorem witness_Convergence_2_2_2_2_1 :
    Issues sJ0 (Instr.mmaJ always (1 : BitVec 8) false (9 : Fin 16) false MmaFmt.bf16) (wOf sJ0) (aOf sJ0) (gOf sJ0) [x0 sJ0 iJ] [] []
    ∧ (sget { : Conv } (gOf sJ0).convs (↑(9 : Fin 16) : Nat)).size ≠ 0
    ∧ sJ0.quadFull (wOf sJ0).wid = false
    ∧ sJ0.signers (wOf sJ0).gid (↑(9 : Fin 16) : Nat) = []
    ∧ BitVec.toNat (1 : BitVec 8) + 4 * 1 ≤ ((gOf sJ0).tilesOn ((wOf sJ0).wid / 48)).length :=
  by
  refine @of_decide_eq_true _ (by letI := @decIssues; infer_instance) ?_
  decide +kernel
def sJ1 := sJ { size := 3, sigs := [sg 8 1], arming := some arm }
theorem witness_Convergence_2_2_2_2_1b :
    Issues sJ1 (Instr.mmaJ always (1 : BitVec 8) false (9 : Fin 16) false MmaFmt.bf16) (wOf sJ1) (aOf sJ1) (gOf sJ1) [x0 sJ1 iJ] [] []
    ∧ (sget { : Conv } (gOf sJ1).convs (↑(9 : Fin 16) : Nat)).size ≠ 0
    ∧ sJ1.quadFull (wOf sJ1).wid = false
    ∧ sJ1.signers (wOf sJ1).gid (↑(9 : Fin 16) : Nat) = []
    ∧ BitVec.toNat (1 : BitVec 8) + 4 * 1 ≤ ((gOf sJ1).tilesOn ((wOf sJ1).wid / 48)).length :=
  by
  refine @of_decide_eq_true _ (by letI := @decIssues; infer_instance) ?_
  decide +kernel
def iW : Instr := .mwait always (some 2)
def used (s : State) := byGroup (fun g => { g with uses := [{ fid := 1, wid := 0, core := 0, cv := none, tiles := [2], regs := [3] }, { fid := 1, wid := 0, core := 0, cv := none, tiles := [0], regs := [4] }] }) (shared s)
def sW := used (fourAt iW rr)
theorem witness_Convergence_2_2_2_2_2_1 :
    Issues sW (Instr.mwait always (some (2 : BitVec 8))) (wOf sW) (aOf sW) (gOf sW) (xOf sW iW) (eOf sW iW) (pOf sW iW)
    ∧ NoOpenOperand (Instr.mwait always (some (2 : BitVec 8))) (gOf sW) (xOf sW iW) (eOf sW iW)
    ∧ xOf sW iW ≠ []
    ∧ ((¬have named := fun (ts : List Nat) => ∀ (n : BitVec 8), some (2 : BitVec 8) = some n → n.toNat ∈ ts;
        (∃ (o : Op),
            o ∈ sW.ops ∧
              ∃ (m : MatOp),
                o.gid = (wOf sW).gid ∧
                  o.kind = OpKind.matrix m ∧ o.tilesBusy = true ∧ (∃ (f : Fibre), f ∈ xOf sW iW ∧ f.id ∈ o.fids) ∧ named m.tiles) ∨
          ∃ (f : Fibre), f ∈ xOf sW iW ∧ (gOf sW).roundOpen f.id (Option.map BitVec.toNat (some (2 : BitVec 8))) = true) ∧
      ∀ (n : BitVec 8), some (2 : BitVec 8) = some n → n.toNat < ((gOf sW).tilesOn ((wOf sW).wid / 48)).length) :=
  by
  refine @of_decide_eq_true _ (by letI := @decAll; letI := @decIssues; letI := @decMatrix; letI := @decNoOpen; try dsimp only; infer_instance) ?_
  decide +kernel
def mmaO : Op := { loadOp with fids := [1], kind := .matrix (.mma 2 .bf16 false 1 [] none) }
def sWb := inFlight [mmaO] sW
theorem witness_Convergence_2_2_2_2_2_2_1 :
    Issues sWb (Instr.mwait always (some (2 : BitVec 8))) (wOf sWb) (aOf sWb) (gOf sWb) (xOf sWb iW) [] []
    ∧ (have named := fun (ts : List Nat) => ∀ (n : BitVec 8), some (2 : BitVec 8) = some n → n.toNat ∈ ts;
    (∃ (o : Op),
        o ∈ sWb.ops ∧
          ∃ (m : MatOp),
            o.gid = (wOf sWb).gid ∧ o.kind = OpKind.matrix m ∧ o.tilesBusy = true ∧ (∃ (f : Fibre), f ∈ xOf sWb iW ∧ f.id ∈ o.fids) ∧ named m.tiles) ∨
      ∃ (f : Fibre), f ∈ xOf sWb iW ∧ (gOf sWb).roundOpen f.id (Option.map BitVec.toNat (some (2 : BitVec 8))) = true)
    ∧ (∀ (n : BitVec 8), some (2 : BitVec 8) = some n → n.toNat < ((gOf sWb).tilesOn ((wOf sWb).wid / 48)).length) :=
  by
  refine @of_decide_eq_true _ (by letI := @decAll; letI := @decIssues; letI := @decMatrix; try dsimp only; infer_instance) ?_
  decide +kernel
def iO : Instr := .opfence always
def sO := used (fourAt iO rr)
theorem witness_Convergence_2_2_2_2_2_2_2_1 :
    Issues sO (Instr.opfence always) (wOf sO) (aOf sO) (gOf sO) (xOf sO iO) (eOf sO iO) (pOf sO iO)
    ∧ NoOpenOperand (Instr.opfence always) (gOf sO) (xOf sO iO) (eOf sO iO)
    ∧ xOf sO iO ≠ []
    ∧ (∀ (f : Fibre),
      f ∈ xOf sO iO →
        ¬((∃ (o : Op),
              o ∈ sO.ops ∧
                ∃ (n : Nat),
                  ∃ (fmt : MmaFmt),
                    ∃ (ck : Bool),
                      ∃ (side : Nat),
                        ∃ (frags : List Signature),
                          ∃ (sc : Option MmaScale),
                            o.gid = (wOf sO).gid ∧
                              o.stage = OpStage.issued ∧
                                o.kind = OpKind.matrix (MatOp.mma n fmt ck side frags sc) ∧
                                  frags ≠ [] ∧ (f.id ∈ o.fids ∨ ∃ (q : Signature), q ∈ frags ∧ q.fid = f.id)) ∨
            ∃ (c : Nat × Conv),
              c ∈ (gOf sO).convs ∧
                ((∃ (q : Signature), q ∈ c.snd.sigs ∧ q.fid = f.id) ∨
                  ∃ (r : Arming), c.snd.arming = some r ∧ ∃ (b : Nat × Nat), b ∈ r.by_ ∧ b.snd = f.id))) :=
  ⟨@of_decide_eq_true _ (by letI := @decIssues; infer_instance) (by decide +kernel),
    @of_decide_eq_true _ (by letI := @decNoOpen; infer_instance) (by decide +kernel), by decide +kernel, by
    rintro f - (⟨o, h, -⟩ | ⟨c, h, -⟩)
    · exact absurd (show o ∈ ([] : List Op) from h) List.not_mem_nil
    · exact absurd (show c ∈ ([] : List (Nat × Conv)) from h) List.not_mem_nil⟩
def sOb := byGroup (fun g => { g with convs := [(9, { size := 3, sigs := [sg 1 1] })] }) (fourAt iO rr)
theorem witness_Convergence_2_2_2_2_2_2_2_2 :
    Issues sOb (Instr.opfence always) (wOf sOb) (aOf sOb) (gOf sOb) (xOf sOb iO) [] []
    ∧ (∃ (f : Fibre),
      f ∈ xOf sOb iO ∧
        ((∃ (o : Op),
            o ∈ sOb.ops ∧
              ∃ (n : Nat),
                ∃ (fmt : MmaFmt),
                  ∃ (ck : Bool),
                    ∃ (side : Nat),
                      ∃ (frags : List Signature),
                        ∃ (sc : Option MmaScale),
                          o.gid = (wOf sOb).gid ∧
                            o.stage = OpStage.issued ∧
                              o.kind = OpKind.matrix (MatOp.mma n fmt ck side frags sc) ∧
                                frags ≠ [] ∧ (f.id ∈ o.fids ∨ ∃ (q : Signature), q ∈ frags ∧ q.fid = f.id)) ∨
          ∃ (c : Nat × Conv),
            c ∈ (gOf sOb).convs ∧
              ((∃ (q : Signature), q ∈ c.snd.sigs ∧ q.fid = f.id) ∨
                ∃ (r : Arming), c.snd.arming = some r ∧ ∃ (b : Nat × Nat), b ∈ r.by_ ∧ b.snd = f.id))) :=
  ⟨@of_decide_eq_true _ (by letI := @decIssues; infer_instance) (by decide +kernel),
    ((xOf sOb iO).drop 1).headD default, by decide +kernel, .inr ⟨(9, { size := 3, sigs := [sg 1 1] }), by decide +kernel,
      .inl ⟨sg 1 1, by decide +kernel, by decide +kernel⟩⟩⟩
def sJ4 := byGroup (fun g => { g with convs := [(9, { size := 3, sigs := [sg 8 1] })] }) (shared (fourAt iJ rr))
theorem witness_Convergence_2_2_2_2_1c :
    Issues sJ4 (Instr.mmaJ always (1 : BitVec 8) false (9 : Fin 16) false MmaFmt.bf16) (wOf sJ4) (aOf sJ4) (gOf sJ4)
      (x0 sJ4 iJ :: List.drop 1 (xOf sJ4 iJ)) [] []
    ∧ (sget { : Conv } (gOf sJ4).convs (↑(9 : Fin 16) : Nat)).size ≠ 0
    ∧ sJ4.quadFull (wOf sJ4).wid = false
    ∧ sJ4.signers (wOf sJ4).gid (↑(9 : Fin 16) : Nat) = []
    ∧ BitVec.toNat (1 : BitVec 8) + 4 * 1 ≤ ((gOf sJ4).tilesOn ((wOf sJ4).wid / 48)).length :=
  by
  refine @of_decide_eq_true _ (by letI := @decIssues; infer_instance) ?_
  decide +kernel
def sG4 := byGroup (fun g => { g with convs := [(9, { size := 8, sigs := [sg 8 1] })] }) (shared (fourAt iG rr))
theorem witness_Convergence_2_2_1d :
    Issues sG4 (Instr.cvsign always (Reg.v (0 : Fin 608)) (Reg.v (4 : Fin 608)) (9 : Fin 16)) (wOf sG4) (aOf sG4) (gOf sG4)
      (xOf sG4 iG) [] []
    ∧ xOf sG4 iG ≠ []
    ∧ (sget { : Conv } (gOf sG4).convs (↑(9 : Fin 16) : Nat)).size ≠ 0
    ∧ sG4.quadFull (wOf sG4).wid = false
    ∧ sG4.signers (wOf sG4).gid (↑(9 : Fin 16) : Nat) = []
    ∧ swf { : Conv } (gOf sG4).convs = true :=
  by
  refine @of_decide_eq_true _ (by letI := @decIssues; infer_instance) ?_
  decide +kernel
def sJ2 := sJ { size := 2, sigs := [sg 8 1, sg 9 2] }
theorem witness_Convergence_2_2_2_2_1d :
    Issues sJ2 (Instr.mmaJ always (1 : BitVec 8) false (9 : Fin 16) false MmaFmt.bf16) (wOf sJ2) (aOf sJ2) (gOf sJ2) [x0 sJ2 iJ] [] []
    ∧ (sget { : Conv } (gOf sJ2).convs (↑(9 : Fin 16) : Nat)).size ≠ 0
    ∧ sJ2.quadFull (wOf sJ2).wid = false
    ∧ sJ2.signers (wOf sJ2).gid (↑(9 : Fin 16) : Nat) = []
    ∧ BitVec.toNat (1 : BitVec 8) + 4 * 1 ≤ ((gOf sJ2).tilesOn ((wOf sJ2).wid / 48)).length :=
  by
  refine @of_decide_eq_true _ (by letI := @decIssues; infer_instance) ?_
  decide +kernel

end W14

/-! ## Premises met: `Obligations.MatrixEngine` -/

namespace W15

def flg (s : State) := byFibre (fun f => { f with flags := [(2, 2)] }) s
/-- A matrix operation of the fibre in flight, and the state that holds it. -/
def matOp (m : MatOp) (st : OpStage) : Op := { loadOp with id := 20, issue := 20, gid := 1, fids := [0], flag := some 2, stage := st, kind := .matrix m }
def sMat (m : MatOp) (st : OpStage) : State := asGroup1 (inFlight [matOp m st] (shared (flg (at_ .nopShort [(0, 0x3F803F80), (1, 0x40003F80), (4, 0x3F804000)]))))
def sNone : State := shared (at_ .nopShort)
def frag : Signature := { fid := 0, wid := 0, lane := 0, vlane := 0, a := [0, 1, 2, 3], b := [4, 5, 6, 7] }
def mBf : MatOp := .mma 2 .bf16 false 1 [frag] none
def mInt : MatOp := .mma 5 .int8 false 1 [frag] none
def mZero : MatOp := .accz 2 2
def mMove : MatOp := .accmv 2 true [(0, [8, 9, 10, 11, 12, 13, 14, 15])] none [] 0
def mMoved : MatOp := .accmv 2 true [(0, [8, 9])] none [(0, [5, 6])] 0
def mStore : MatOp := .accst 2 false true .f32 64 64 none [] 0
def mStored : MatOp := .accst 2 false true .f32 64 64 none [(64, 5), (65, 6)] 0
def mLoad : MatOp := .accld 2 true .f32 64 64
theorem witness_MatrixEngine_1 :
    sNone.nextMatrix 0 = none :=
  by decide +kernel
theorem witness_MatrixEngine_2_1 :
    ((sMat mBf OpStage.issued).nextMatrix 0 = some (matOp mBf OpStage.issued) ∧
      (sMat mBf OpStage.issued).op? (matOp mBf OpStage.issued).id = some (matOp mBf OpStage.issued) ∧
        (matOp mBf OpStage.issued).kind = OpKind.matrix (MatOp.mma 2 MmaFmt.bf16 false 1 [frag] none) ∧
          (sMat mBf OpStage.issued).group? (matOp mBf OpStage.issued).gid = some (g0 (sMat mBf OpStage.issued)) ∧
            (matOp mBf OpStage.issued).wid / 48 = 0 ∧
              (sMat mBf OpStage.issued).tidy ∧
                (∀ (u : TileUse), u ∈ (g0 (sMat mBf OpStage.issued)).uses → u.spoiled = false) ∧
                  ((g0 (sMat mBf OpStage.issued)).tilesOn 0).Nodup ∧
                    ∀ (n : Nat),
                      n ∈ (MatOp.mma 2 MmaFmt.bf16 false 1 [frag] none).tiles →
                        n < ((g0 (sMat mBf OpStage.issued)).tilesOn 0).length ∧
                          ((sMat mBf OpStage.issued).readTile (g0 (sMat mBf OpStage.issued)) 0 n).snd = sMat mBf OpStage.issued) :=
  by
  refine @of_decide_eq_true _ (by letI := @decTidy; infer_instance) ?_
  decide +kernel
theorem witness_MatrixEngine_2_1b :
    ((sMat mInt OpStage.issued).nextMatrix 0 = some (matOp mInt OpStage.issued) ∧
      (sMat mInt OpStage.issued).op? (matOp mInt OpStage.issued).id = some (matOp mInt OpStage.issued) ∧
        (matOp mInt OpStage.issued).kind = OpKind.matrix (MatOp.mma 5 MmaFmt.int8 false 1 [frag] none) ∧
          (sMat mInt OpStage.issued).group? (matOp mInt OpStage.issued).gid = some (g0 (sMat mInt OpStage.issued)) ∧
            (matOp mInt OpStage.issued).wid / 48 = 0 ∧
              (sMat mInt OpStage.issued).tidy ∧
                (∀ (u : TileUse), u ∈ (g0 (sMat mInt OpStage.issued)).uses → u.spoiled = false) ∧
                  ((g0 (sMat mInt OpStage.issued)).tilesOn 0).Nodup ∧
                    ∀ (n : Nat),
                      n ∈ (MatOp.mma 5 MmaFmt.int8 false 1 [frag] none).tiles →
                        n < ((g0 (sMat mInt OpStage.issued)).tilesOn 0).length ∧
                          ((sMat mInt OpStage.issued).readTile (g0 (sMat mInt OpStage.issued)) 0 n).snd = sMat mInt OpStage.issued) :=
  by
  refine @of_decide_eq_true _ (by letI := @decTidy; infer_instance) ?_
  decide +kernel
theorem witness_MatrixEngine_2_2_1 :
    ((sMat mZero OpStage.issued).nextMatrix 0 = some (matOp mZero OpStage.issued) ∧
      (sMat mZero OpStage.issued).op? (matOp mZero OpStage.issued).id = some (matOp mZero OpStage.issued) ∧
        (matOp mZero OpStage.issued).kind = OpKind.matrix (MatOp.accz 2 2) ∧
          (sMat mZero OpStage.issued).group? (matOp mZero OpStage.issued).gid = some (g0 (sMat mZero OpStage.issued)) ∧
            (matOp mZero OpStage.issued).wid / 48 = 0 ∧
              (sMat mZero OpStage.issued).tidy ∧
                (∀ (u : TileUse), u ∈ (g0 (sMat mZero OpStage.issued)).uses → u.spoiled = false) ∧
                  ((g0 (sMat mZero OpStage.issued)).tilesOn 0).Nodup ∧
                    ∀ (n : Nat),
                      n ∈ (MatOp.accz 2 2).tiles →
                        n < ((g0 (sMat mZero OpStage.issued)).tilesOn 0).length ∧
                          ((sMat mZero OpStage.issued).readTile (g0 (sMat mZero OpStage.issued)) 0 n).snd = sMat mZero OpStage.issued) :=
  by
  refine @of_decide_eq_true _ (by letI := @decTidy; infer_instance) ?_
  decide +kernel
theorem witness_MatrixEngine_2_2_2_1 :
    ((sMat mMove OpStage.issued).nextMatrix 0 = some (matOp mMove OpStage.issued) ∧
      (sMat mMove OpStage.issued).op? (matOp mMove OpStage.issued).id = some (matOp mMove OpStage.issued) ∧
        (matOp mMove OpStage.issued).kind =
            OpKind.matrix
              (MatOp.accmv 2 true
                [(0, [8, 9, 10, 11, 12, 13, 14, 15])] none [] (0 : Word)) ∧
          (sMat mMove OpStage.issued).group? (matOp mMove OpStage.issued).gid = some (g0 (sMat mMove OpStage.issued)) ∧
            (matOp mMove OpStage.issued).wid / 48 = 0 ∧
              (sMat mMove OpStage.issued).tidy ∧
                (∀ (u : TileUse), u ∈ (g0 (sMat mMove OpStage.issued)).uses → u.spoiled = false) ∧
                  ((g0 (sMat mMove OpStage.issued)).tilesOn 0).Nodup ∧
                    ∀ (n : Nat),
                      n ∈
                          (MatOp.accmv 2 true
                              [(0, [8, 9, 10, 11, 12, 13, 14, 15])] none []
                              (0 : Word)).tiles →
                        n < ((g0 (sMat mMove OpStage.issued)).tilesOn 0).length ∧
                          ((sMat mMove OpStage.issued).readTile (g0 (sMat mMove OpStage.issued)) 0 n).snd = sMat mMove OpStage.issued) :=
  by
  refine @of_decide_eq_true _ (by letI := @decTidy; infer_instance) ?_
  decide +kernel
theorem witness_MatrixEngine_2_2_2_2_1 :
    ((sMat mStore OpStage.issued).nextMatrix 0 = some (matOp mStore OpStage.issued) ∧
      (sMat mStore OpStage.issued).op? (matOp mStore OpStage.issued).id = some (matOp mStore OpStage.issued) ∧
        (matOp mStore OpStage.issued).kind = OpKind.matrix (MatOp.accst 2 false true TileFmt.f32 64 64 none [] (0 : Word)) ∧
          (sMat mStore OpStage.issued).group? (matOp mStore OpStage.issued).gid = some (g0 (sMat mStore OpStage.issued)) ∧
            (matOp mStore OpStage.issued).wid / 48 = 0 ∧
              (sMat mStore OpStage.issued).tidy ∧
                (∀ (u : TileUse), u ∈ (g0 (sMat mStore OpStage.issued)).uses → u.spoiled = false) ∧
                  ((g0 (sMat mStore OpStage.issued)).tilesOn 0).Nodup ∧
                    ∀ (n : Nat),
                      n ∈ (MatOp.accst 2 false true TileFmt.f32 64 64 none [] (0 : Word)).tiles →
                        n < ((g0 (sMat mStore OpStage.issued)).tilesOn 0).length ∧
                          ((sMat mStore OpStage.issued).readTile (g0 (sMat mStore OpStage.issued)) 0 n).snd = sMat mStore OpStage.issued) :=
  by
  refine @of_decide_eq_true _ (by letI := @decTidy; infer_instance) ?_
  decide +kernel
theorem witness_MatrixEngine_2_2_2_2_2_1 :
    ((∃ (n : Nat),
        ∃ (fmt : MmaFmt),
          ∃ (ck : Bool),
            ∃ (frags : List Signature),
              ∃ (sc : Option MmaScale), MatOp.mma 2 MmaFmt.bf16 false 1 [frag] none = MatOp.mma n fmt ck 1 frags sc) ∨
      ∃ (n : Nat), ∃ (k : Nat), MatOp.mma 2 MmaFmt.bf16 false 1 [frag] none = MatOp.accz n k)
    ∧ ((sMat mBf OpStage.started).op? (matOp mBf OpStage.started).id = some (matOp mBf OpStage.started) ∧
      (matOp mBf OpStage.started).kind = OpKind.matrix (MatOp.mma 2 MmaFmt.bf16 false 1 [frag] none) ∧
        (matOp mBf OpStage.started).stage = OpStage.started ∧
          (matOp mBf OpStage.started).record = none ∧
            (sMat mBf OpStage.started).behind (matOp mBf OpStage.started) = false ∧
              (sMat mBf OpStage.started).group? (matOp mBf OpStage.started).gid = some (g0 (sMat mBf OpStage.started)) ∧
                (matOp mBf OpStage.started).fids = List.map Fibre.id (w0 (sMat mBf OpStage.started)).fibres ∧
                  (matOp mBf OpStage.started).spoil = [] ∧
                    (sMat mBf OpStage.started).tidy ∧
                      (List.map Fibre.id (w0 (sMat mBf OpStage.started)).fibres).Nodup ∧
                        (List.map Fibre.lane (w0 (sMat mBf OpStage.started)).fibres).Nodup ∧
                          (∀ (f : Fibre),
                              f ∈ (w0 (sMat mBf OpStage.started)).fibres →
                                (sMat mBf OpStage.started).fibreOf? (matOp mBf OpStage.started).gid f.id = some (w0 (sMat mBf OpStage.started), f) ∧
                                  (w0 (sMat mBf OpStage.started)).fibre? f.lane = some f) ∧
                            (sMat mBf OpStage.started).warp? (w0 (sMat mBf OpStage.started)).wid = some (w0 (sMat mBf OpStage.started)) ∧
                              (w0 (sMat mBf OpStage.started)).handler = none ∧
                                (sMat mBf OpStage.started).group? (w0 (sMat mBf OpStage.started)).gid = some (g0 (sMat mBf OpStage.started))) :=
  ⟨.inl ⟨_, _, _, _, _, rfl⟩, @of_decide_eq_true _ (by letI := @decTidy; infer_instance) (by decide +kernel)⟩
theorem witness_MatrixEngine_2_2_2_2_2_2_1 :
    ((sMat mMoved OpStage.started).op? (matOp mMoved OpStage.started).id = some (matOp mMoved OpStage.started) ∧
      (matOp mMoved OpStage.started).kind =
          OpKind.matrix
            (MatOp.accmv 2 true (List.map (fun (f : Fibre) => (f.id, [8, 9])) (w0 (sMat mMoved OpStage.started)).fibres) none
              (List.map (fun (f : Fibre) => (f.id, [(5 : Word), (6 : Word)])) (w0 (sMat mMoved OpStage.started)).fibres) (0 : Word)) ∧
        (matOp mMoved OpStage.started).stage = OpStage.started ∧
          (matOp mMoved OpStage.started).record = none ∧
            (sMat mMoved OpStage.started).behind (matOp mMoved OpStage.started) = false ∧
              (sMat mMoved OpStage.started).group? (matOp mMoved OpStage.started).gid = some (g0 (sMat mMoved OpStage.started)) ∧
                (matOp mMoved OpStage.started).fids = List.map Fibre.id (w0 (sMat mMoved OpStage.started)).fibres ∧
                  (matOp mMoved OpStage.started).spoil = [] ∧
                    (sMat mMoved OpStage.started).tidy ∧
                      (List.map Fibre.id (w0 (sMat mMoved OpStage.started)).fibres).Nodup ∧
                        (List.map Fibre.lane (w0 (sMat mMoved OpStage.started)).fibres).Nodup ∧
                          (∀ (f : Fibre),
                              f ∈ (w0 (sMat mMoved OpStage.started)).fibres →
                                (sMat mMoved OpStage.started).fibreOf? (matOp mMoved OpStage.started).gid f.id =
                                    some (w0 (sMat mMoved OpStage.started), f) ∧
                                  (w0 (sMat mMoved OpStage.started)).fibre? f.lane = some f) ∧
                            (sMat mMoved OpStage.started).warp? (w0 (sMat mMoved OpStage.started)).wid = some (w0 (sMat mMoved OpStage.started)) ∧
                              (w0 (sMat mMoved OpStage.started)).handler = none ∧
                                (sMat mMoved OpStage.started).group? (w0 (sMat mMoved OpStage.started)).gid = some (g0 (sMat mMoved OpStage.started))) :=
  by
  refine @of_decide_eq_true _ (by letI := @decTidy; infer_instance) ?_
  decide +kernel
theorem witness_MatrixEngine_2_2_2_2_2_2_2_1 :
    ((sMat mStored OpStage.started).op? (matOp mStored OpStage.started).id = some (matOp mStored OpStage.started) ∧
      (matOp mStored OpStage.started).kind =
          OpKind.matrix
            (MatOp.accst 2 false true TileFmt.f32 64 64 none [(64, (5 : Byte)), (65, (6 : Byte))]
              (0 : Word)) ∧
        (matOp mStored OpStage.started).stage = OpStage.started ∧
          (matOp mStored OpStage.started).record = none ∧
            (sMat mStored OpStage.started).behind (matOp mStored OpStage.started) = false ∧
              (sMat mStored OpStage.started).group? (matOp mStored OpStage.started).gid = some (g0 (sMat mStored OpStage.started)) ∧
                (matOp mStored OpStage.started).fids = List.map Fibre.id (w0 (sMat mStored OpStage.started)).fibres ∧
                  (matOp mStored OpStage.started).spoil = [] ∧
                    (sMat mStored OpStage.started).tidy ∧
                      (List.map Fibre.id (w0 (sMat mStored OpStage.started)).fibres).Nodup ∧
                        (List.map Fibre.lane (w0 (sMat mStored OpStage.started)).fibres).Nodup ∧
                          (∀ (f : Fibre),
                              f ∈ (w0 (sMat mStored OpStage.started)).fibres →
                                (sMat mStored OpStage.started).fibreOf? (matOp mStored OpStage.started).gid f.id =
                                    some (w0 (sMat mStored OpStage.started), f) ∧
                                  (w0 (sMat mStored OpStage.started)).fibre? f.lane = some f) ∧
                            (sMat mStored OpStage.started).warp? (w0 (sMat mStored OpStage.started)).wid = some (w0 (sMat mStored OpStage.started)) ∧
                              (w0 (sMat mStored OpStage.started)).handler = none ∧
                                (sMat mStored OpStage.started).group? (w0 (sMat mStored OpStage.started)).gid =
                                  some (g0 (sMat mStored OpStage.started)))
    ∧ 64 ≤ 64
    ∧ (∀ (b : Nat × Byte),
      b ∈ [(64, (5 : Byte)), (65, (6 : Byte))] →
        ∃ (c : Nat), (g0 (sMat mStored OpStage.started)).scratchAt b.fst = some (c, coreBase 0 + 2 * 8192 + b.fst)) :=
  by
  refine @of_decide_eq_true _ (by letI := @decSnd; letI := @decTidy; infer_instance) ?_
  decide +kernel
theorem witness_MatrixEngine_2_2_2_2_2_2_2_2 :
    ((sMat mLoad OpStage.started).op? (matOp mLoad OpStage.started).id = some (matOp mLoad OpStage.started) ∧
      (matOp mLoad OpStage.started).kind = OpKind.matrix (MatOp.accld 2 true TileFmt.f32 64 64) ∧
        (matOp mLoad OpStage.started).stage = OpStage.started ∧
          (matOp mLoad OpStage.started).record = none ∧
            (sMat mLoad OpStage.started).behind (matOp mLoad OpStage.started) = false ∧
              (sMat mLoad OpStage.started).group? (matOp mLoad OpStage.started).gid = some (g0 (sMat mLoad OpStage.started)) ∧
                (matOp mLoad OpStage.started).fids = List.map Fibre.id (w0 (sMat mLoad OpStage.started)).fibres ∧
                  (matOp mLoad OpStage.started).spoil = [] ∧
                    (sMat mLoad OpStage.started).tidy ∧
                      (List.map Fibre.id (w0 (sMat mLoad OpStage.started)).fibres).Nodup ∧
                        (List.map Fibre.lane (w0 (sMat mLoad OpStage.started)).fibres).Nodup ∧
                          (∀ (f : Fibre),
                              f ∈ (w0 (sMat mLoad OpStage.started)).fibres →
                                (sMat mLoad OpStage.started).fibreOf? (matOp mLoad OpStage.started).gid f.id =
                                    some (w0 (sMat mLoad OpStage.started), f) ∧
                                  (w0 (sMat mLoad OpStage.started)).fibre? f.lane = some f) ∧
                            (sMat mLoad OpStage.started).warp? (w0 (sMat mLoad OpStage.started)).wid = some (w0 (sMat mLoad OpStage.started)) ∧
                              (w0 (sMat mLoad OpStage.started)).handler = none ∧
                                (sMat mLoad OpStage.started).group? (w0 (sMat mLoad OpStage.started)).gid = some (g0 (sMat mLoad OpStage.started)))
    ∧ 2 < ((g0 (sMat mLoad OpStage.started)).tilesOn ((matOp mLoad OpStage.started).wid / 48)).length
    ∧ (∀ (u : TileUse), u ∈ (g0 (sMat mLoad OpStage.started)).uses → u.spoiled = false)
    ∧ (∀ (i : Nat),
      i < 256 →
        ((sMat mLoad OpStage.started).readScratch (g0 (sMat mLoad OpStage.started))
              (64 + i / 16 * 64 + i % 16 * 4) 4).snd =
          sMat mLoad OpStage.started) :=
  by
  refine @of_decide_eq_true _ (by letI := @decTidy; infer_instance) ?_
  decide +kernel

end W15

/-! ## Premises met: `Obligations.NodeInstructionsAndReleases` -/

namespace W16

def flg (s : State) := byFibre (fun f => { f with flags := [(2, 2)] }) s
def flagged2 (s : State) := byWarp (fun (w : Warp) => { w with active := w.active.map (fun (a : Active) => { a with header := soloHeader 2 - 15 * 2 ^ 21 + 2 * 2 ^ 21 }) }) (flg s)
/-- area at 0x100000..0x10FFFF page 16 frame 8; own node at 0x100100 -/
def area (s : State) := { byGroup (fun g => { g with node := 0x100100 }) (tabled [(16, 0, 8)] s) with ctxs := (tabled [(16, 0, 8)] s).ctxs.map (fun (c : Ctx) => { c with nodeBase := 0x100000, nodeSize := 0x10000 }), nodes := s.nodes.map (fun (n : Node) => { n with addr := 0x100100 }) }
def tl (s : State) := mapped 16 0 8 0 s
def nd (a : VAddr) (st : NodeState) : Node := { addr := a, ctx := 0, state := st, code := 7 }
def withN (n : Node) (s : State) : State := { s with nodes := s.nodes ++ [n] }
def rr (l : Nat) : Sparse Word := [(0, BitVec.ofNat 32 (0x100200 + 0x100 * l)), (4, 0x100000), (6, 0x100100)]
def iN : Instr := .nrel always (.v 0) false
def sN := flagged2 (tl (area (fourAt iN rr)))
theorem witness_NodeInstructions_1 :
    Issues sN (Instr.nrel always (Reg.v (0 : Fin 608)) false) (wOf sN) (aOf sN) (gOf sN) (xOf sN iN) [] []
    ∧ NoOpenOperand (Instr.nrel always (Reg.v (0 : Fin 608)) false) (gOf sN) (xOf sN iN) []
    ∧ xOf sN iN ≠ []
    ∧ (∀ (f : Fibre),
      f ∈ xOf sN iN →
        ((BitVec.setWidth 52 (f.pair (gOf sN) (Reg.v (0 : Fin 608)))).toNat % 256 = 0 ∧
            ∃ (c : Ctx),
              sN.ctx? (gOf sN).ctx = some c ∧
                c.nodeBase + 256 ≤ (BitVec.setWidth 52 (f.pair (gOf sN) (Reg.v (0 : Fin 608)))).toNat ∧
                  (BitVec.setWidth 52 (f.pair (gOf sN) (Reg.v (0 : Fin 608)))).toNat + 256 ≤ c.nodeBase + c.nodeSize) ∧
          Serves sN (wOf sN) (gOf sN) Space.g (BitVec.setWidth 52 (f.pair (gOf sN) (Reg.v (0 : Fin 608)))).toNat 256
            Access.read) :=
  by
  refine @of_decide_eq_true _ (by letI := @decIssues; letI := @decNoOpen; letI := @decServes; letI := @decSome; infer_instance) ?_
  decide +kernel
def iS : Instr := .nstat always (.v 8) (.v 0) false
def sS := flagged2 (tl (area (fourAt iS rr)))
theorem witness_NodeInstructions_2_1 :
    Issues sS (Instr.nstat always (Reg.v (8 : Fin 608)) (Reg.v (0 : Fin 608)) false) (wOf sS) (aOf sS) (gOf sS) (xOf sS iS) [] []
    ∧ NoOpenOperand (Instr.nstat always (Reg.v (8 : Fin 608)) (Reg.v (0 : Fin 608)) false) (gOf sS) (xOf sS iS) []
    ∧ xOf sS iS ≠ []
    ∧ (∀ (f : Fibre),
      f ∈ xOf sS iS →
        ((BitVec.setWidth 52 (f.pair (gOf sS) (Reg.v (0 : Fin 608)))).toNat % 256 = 0 ∧
            ∃ (c : Ctx),
              sS.ctx? (gOf sS).ctx = some c ∧
                c.nodeBase + 256 ≤ (BitVec.setWidth 52 (f.pair (gOf sS) (Reg.v (0 : Fin 608)))).toNat ∧
                  (BitVec.setWidth 52 (f.pair (gOf sS) (Reg.v (0 : Fin 608)))).toNat + 256 ≤ c.nodeBase + c.nodeSize) ∧
          Serves sS (wOf sS) (gOf sS) Space.g (BitVec.setWidth 52 (f.pair (gOf sS) (Reg.v (0 : Fin 608)))).toNat 256
            Access.read) :=
  by
  refine @of_decide_eq_true _ (by letI := @decIssues; letI := @decNoOpen; letI := @decServes; letI := @decSome; infer_instance) ?_
  decide +kernel
def iN1 : Instr := .nrel always (.v 4) false
def sN1 := area (at_ iN1 (rr 0))
theorem witness_NodeInstructions_2_2_1 :
    Issues sN1 (Instr.nrel always (Reg.v (4 : Fin 608)) false) (wOf sN1) (aOf sN1) (gOf sN1) ([] ++ [x0 sN1 iN1]) [] []
    ∧ (∀ (k : Fibre),
      k ∈ [] →
        ((BitVec.setWidth 52 (k.pair (gOf sN1) (Reg.v (4 : Fin 608)))).toNat % 256 = 0 ∧
            ∃ (c : Ctx),
              sN1.ctx? (gOf sN1).ctx = some c ∧
                c.nodeBase + 256 ≤ (BitVec.setWidth 52 (k.pair (gOf sN1) (Reg.v (4 : Fin 608)))).toNat ∧
                  (BitVec.setWidth 52 (k.pair (gOf sN1) (Reg.v (4 : Fin 608)))).toNat + 256 ≤ c.nodeBase + c.nodeSize) ∧
          (false = true → BitVec.setWidth 52 (k.pair (gOf sN1) (Reg.v (4 : Fin 608))) ≠ (gOf sN1).node))
    ∧ (¬((BitVec.setWidth 52 ((x0 sN1 iN1).pair (gOf sN1) (Reg.v (4 : Fin 608)))).toNat % 256 = 0 ∧
          ∃ (c : Ctx),
            sN1.ctx? (gOf sN1).ctx = some c ∧
              c.nodeBase + 256 ≤ (BitVec.setWidth 52 ((x0 sN1 iN1).pair (gOf sN1) (Reg.v (4 : Fin 608)))).toNat ∧
                (BitVec.setWidth 52 ((x0 sN1 iN1).pair (gOf sN1) (Reg.v (4 : Fin 608)))).toNat + 256 ≤
                  c.nodeBase + c.nodeSize) ∨
      false = true ∧ BitVec.setWidth 52 ((x0 sN1 iN1).pair (gOf sN1) (Reg.v (4 : Fin 608))) = (gOf sN1).node) :=
  by
  refine @of_decide_eq_true _ (by letI := @decIssues; letI := @decSome; infer_instance) ?_
  decide +kernel
def iS1 : Instr := .nstat always (.v 8) (.v 4) false
def sS1 := area (at_ iS1 (rr 0))
theorem witness_NodeInstructions_2_2_2_1 :
    Issues sS1 (Instr.nstat always (Reg.v (8 : Fin 608)) (Reg.v (4 : Fin 608)) false) (wOf sS1) (aOf sS1) (gOf sS1) ([] ++ [x0 sS1 iS1])
      [] []
    ∧ (∀ (k : Fibre),
      k ∈ [] →
        ((BitVec.setWidth 52 (k.pair (gOf sS1) (Reg.v (4 : Fin 608)))).toNat % 256 = 0 ∧
            ∃ (c : Ctx),
              sS1.ctx? (gOf sS1).ctx = some c ∧
                c.nodeBase + 256 ≤ (BitVec.setWidth 52 (k.pair (gOf sS1) (Reg.v (4 : Fin 608)))).toNat ∧
                  (BitVec.setWidth 52 (k.pair (gOf sS1) (Reg.v (4 : Fin 608)))).toNat + 256 ≤ c.nodeBase + c.nodeSize) ∧
          (false = true → BitVec.setWidth 52 (k.pair (gOf sS1) (Reg.v (4 : Fin 608))) ≠ (gOf sS1).node))
    ∧ (¬((BitVec.setWidth 52 ((x0 sS1 iS1).pair (gOf sS1) (Reg.v (4 : Fin 608)))).toNat % 256 = 0 ∧
          ∃ (c : Ctx),
            sS1.ctx? (gOf sS1).ctx = some c ∧
              c.nodeBase + 256 ≤ (BitVec.setWidth 52 ((x0 sS1 iS1).pair (gOf sS1) (Reg.v (4 : Fin 608)))).toNat ∧
                (BitVec.setWidth 52 ((x0 sS1 iS1).pair (gOf sS1) (Reg.v (4 : Fin 608)))).toNat + 256 ≤
                  c.nodeBase + c.nodeSize) ∨
      false = true ∧ BitVec.setWidth 52 ((x0 sS1 iS1).pair (gOf sS1) (Reg.v (4 : Fin 608))) = (gOf sS1).node) :=
  by
  refine @of_decide_eq_true _ (by letI := @decIssues; letI := @decSome; infer_instance) ?_
  decide +kernel
def iW1 : Instr := .nwait always (.v 8) (.v 4) true
def sW1 := area (at_ iW1 (rr 0))
theorem witness_NodeInstructions_2_2_2_2_1 :
    Issues sW1 (Instr.nwait always (Reg.v (8 : Fin 608)) (Reg.v (4 : Fin 608)) true) (wOf sW1) (aOf sW1) (gOf sW1) ([] ++ [x0 sW1 iW1]) []
      []
    ∧ (∀ (k : Fibre),
      k ∈ [] →
        ((BitVec.setWidth 52 (k.pair (gOf sW1) (Reg.v (4 : Fin 608)))).toNat % 256 = 0 ∧
            ∃ (c : Ctx),
              sW1.ctx? (gOf sW1).ctx = some c ∧
                c.nodeBase + 256 ≤ (BitVec.setWidth 52 (k.pair (gOf sW1) (Reg.v (4 : Fin 608)))).toNat ∧
                  (BitVec.setWidth 52 (k.pair (gOf sW1) (Reg.v (4 : Fin 608)))).toNat + 256 ≤ c.nodeBase + c.nodeSize) ∧
          (true = true → BitVec.setWidth 52 (k.pair (gOf sW1) (Reg.v (4 : Fin 608))) ≠ (gOf sW1).node))
    ∧ (¬((BitVec.setWidth 52 ((x0 sW1 iW1).pair (gOf sW1) (Reg.v (4 : Fin 608)))).toNat % 256 = 0 ∧
          ∃ (c : Ctx),
            sW1.ctx? (gOf sW1).ctx = some c ∧
              c.nodeBase + 256 ≤ (BitVec.setWidth 52 ((x0 sW1 iW1).pair (gOf sW1) (Reg.v (4 : Fin 608)))).toNat ∧
                (BitVec.setWidth 52 ((x0 sW1 iW1).pair (gOf sW1) (Reg.v (4 : Fin 608)))).toNat + 256 ≤
                  c.nodeBase + c.nodeSize) ∨
      true = true ∧ BitVec.setWidth 52 ((x0 sW1 iW1).pair (gOf sW1) (Reg.v (4 : Fin 608))) = (gOf sW1).node) :=
  by
  refine @of_decide_eq_true _ (by letI := @decIssues; letI := @decSome; infer_instance) ?_
  decide +kernel
def iW : Instr := .nwait always (.v 8) (.v 0) true
def sW := withN (nd 0x100200 .failed) (tl (area (at_ iW (rr 0))))
theorem witness_NodeInstructions_2_2_2_2_2_1 :
    Issues sW (Instr.nwait always (Reg.v (8 : Fin 608)) (Reg.v (0 : Fin 608)) true) (wOf sW) (aOf sW) (gOf sW) (xOf sW iW) [] []
    ∧ NoOpenOperand (Instr.nwait always (Reg.v (8 : Fin 608)) (Reg.v (0 : Fin 608)) true) (gOf sW) (xOf sW iW) []
    ∧ xOf sW iW ≠ []
    ∧ (∀ (f : Fibre),
      f ∈ xOf sW iW →
        ((BitVec.setWidth 52 (f.pair (gOf sW) (Reg.v (0 : Fin 608)))).toNat % 256 = 0 ∧
            ∃ (c : Ctx),
              sW.ctx? (gOf sW).ctx = some c ∧
                c.nodeBase + 256 ≤ (BitVec.setWidth 52 (f.pair (gOf sW) (Reg.v (0 : Fin 608)))).toNat ∧
                  (BitVec.setWidth 52 (f.pair (gOf sW) (Reg.v (0 : Fin 608)))).toNat + 256 ≤ c.nodeBase + c.nodeSize) ∧
          BitVec.setWidth 52 (f.pair (gOf sW) (Reg.v (0 : Fin 608))) ≠ (gOf sW).node ∧
            sW.node? (gOf sW).ctx (BitVec.setWidth 52 (f.pair (gOf sW) (Reg.v (0 : Fin 608)))) =
                some (nd (1049088 : VAddr) NodeState.failed) ∧
              Serves sW (wOf sW) (gOf sW) Space.g (BitVec.setWidth 52 (f.pair (gOf sW) (Reg.v (0 : Fin 608)))).toNat 1
                Access.read) :=
  by
  refine @of_decide_eq_true _ (by letI := @decIssues; letI := @decNoOpen; letI := @decServes; letI := @decSome; infer_instance) ?_
  decide +kernel
def sWb := withN (nd 0x100200 .running) (tl (area (at_ iW (rr 0))))
theorem witness_NodeInstructions_2_2_2_2_2_1b :
    Issues sWb (Instr.nwait always (Reg.v (8 : Fin 608)) (Reg.v (0 : Fin 608)) true) (wOf sWb) (aOf sWb) (gOf sWb) (xOf sWb iW) [] []
    ∧ NoOpenOperand (Instr.nwait always (Reg.v (8 : Fin 608)) (Reg.v (0 : Fin 608)) true) (gOf sWb) (xOf sWb iW) []
    ∧ xOf sWb iW ≠ []
    ∧ (∀ (f : Fibre),
      f ∈ xOf sWb iW →
        ((BitVec.setWidth 52 (f.pair (gOf sWb) (Reg.v (0 : Fin 608)))).toNat % 256 = 0 ∧
            ∃ (c : Ctx),
              sWb.ctx? (gOf sWb).ctx = some c ∧
                c.nodeBase + 256 ≤ (BitVec.setWidth 52 (f.pair (gOf sWb) (Reg.v (0 : Fin 608)))).toNat ∧
                  (BitVec.setWidth 52 (f.pair (gOf sWb) (Reg.v (0 : Fin 608)))).toNat + 256 ≤ c.nodeBase + c.nodeSize) ∧
          BitVec.setWidth 52 (f.pair (gOf sWb) (Reg.v (0 : Fin 608))) ≠ (gOf sWb).node ∧
            sWb.node? (gOf sWb).ctx (BitVec.setWidth 52 (f.pair (gOf sWb) (Reg.v (0 : Fin 608)))) =
                some (nd (1049088 : VAddr) NodeState.running) ∧
              Serves sWb (wOf sWb) (gOf sWb) Space.g (BitVec.setWidth 52 (f.pair (gOf sWb) (Reg.v (0 : Fin 608)))).toNat 1
                Access.read) :=
  by
  refine @of_decide_eq_true _ (by letI := @decIssues; letI := @decNoOpen; letI := @decServes; letI := @decSome; infer_instance) ?_
  decide +kernel
def sWc := withN (nd 0x100200 .complete) (tl (area (at_ iW (rr 0))))
theorem witness_NodeInstructions_2_2_2_2_2_1c :
    Issues sWc (Instr.nwait always (Reg.v (8 : Fin 608)) (Reg.v (0 : Fin 608)) true) (wOf sWc) (aOf sWc) (gOf sWc) (xOf sWc iW) [] []
    ∧ NoOpenOperand (Instr.nwait always (Reg.v (8 : Fin 608)) (Reg.v (0 : Fin 608)) true) (gOf sWc) (xOf sWc iW) []
    ∧ xOf sWc iW ≠ []
    ∧ (∀ (f : Fibre),
      f ∈ xOf sWc iW →
        ((BitVec.setWidth 52 (f.pair (gOf sWc) (Reg.v (0 : Fin 608)))).toNat % 256 = 0 ∧
            ∃ (c : Ctx),
              sWc.ctx? (gOf sWc).ctx = some c ∧
                c.nodeBase + 256 ≤ (BitVec.setWidth 52 (f.pair (gOf sWc) (Reg.v (0 : Fin 608)))).toNat ∧
                  (BitVec.setWidth 52 (f.pair (gOf sWc) (Reg.v (0 : Fin 608)))).toNat + 256 ≤ c.nodeBase + c.nodeSize) ∧
          BitVec.setWidth 52 (f.pair (gOf sWc) (Reg.v (0 : Fin 608))) ≠ (gOf sWc).node ∧
            sWc.node? (gOf sWc).ctx (BitVec.setWidth 52 (f.pair (gOf sWc) (Reg.v (0 : Fin 608)))) =
                some (nd (1049088 : VAddr) NodeState.complete) ∧
              Serves sWc (wOf sWc) (gOf sWc) Space.g (BitVec.setWidth 52 (f.pair (gOf sWc) (Reg.v (0 : Fin 608)))).toNat 1
                Access.read) :=
  by
  refine @of_decide_eq_true _ (by letI := @decIssues; letI := @decNoOpen; letI := @decServes; letI := @decSome; infer_instance) ?_
  decide +kernel
def iW6 : Instr := .nwait always (.v 8) (.v 6) true
def sW6 := area (at_ iW6 (rr 0))
theorem witness_NodeInstructions_2_2_2_2_1b :
    Issues sW6 (Instr.nwait always (Reg.v (8 : Fin 608)) (Reg.v (6 : Fin 608)) true) (wOf sW6) (aOf sW6) (gOf sW6) ([] ++ [x0 sW6 iW6]) []
      []
    ∧ (∀ (k : Fibre),
      k ∈ [] →
        ((BitVec.setWidth 52 (k.pair (gOf sW6) (Reg.v (6 : Fin 608)))).toNat % 256 = 0 ∧
            ∃ (c : Ctx),
              sW6.ctx? (gOf sW6).ctx = some c ∧
                c.nodeBase + 256 ≤ (BitVec.setWidth 52 (k.pair (gOf sW6) (Reg.v (6 : Fin 608)))).toNat ∧
                  (BitVec.setWidth 52 (k.pair (gOf sW6) (Reg.v (6 : Fin 608)))).toNat + 256 ≤ c.nodeBase + c.nodeSize) ∧
          (true = true → BitVec.setWidth 52 (k.pair (gOf sW6) (Reg.v (6 : Fin 608))) ≠ (gOf sW6).node))
    ∧ (¬((BitVec.setWidth 52 ((x0 sW6 iW6).pair (gOf sW6) (Reg.v (6 : Fin 608)))).toNat % 256 = 0 ∧
          ∃ (c : Ctx),
            sW6.ctx? (gOf sW6).ctx = some c ∧
              c.nodeBase + 256 ≤ (BitVec.setWidth 52 ((x0 sW6 iW6).pair (gOf sW6) (Reg.v (6 : Fin 608)))).toNat ∧
                (BitVec.setWidth 52 ((x0 sW6 iW6).pair (gOf sW6) (Reg.v (6 : Fin 608)))).toNat + 256 ≤
                  c.nodeBase + c.nodeSize) ∨
      true = true ∧ BitVec.setWidth 52 ((x0 sW6 iW6).pair (gOf sW6) (Reg.v (6 : Fin 608))) = (gOf sW6).node) :=
  by
  refine @of_decide_eq_true _ (by letI := @decIssues; letI := @decSome; infer_instance) ?_
  decide +kernel
def nsO : Op := { loadOp with flag := some 2, kind := .nstat 0x100200 [8], pins := [(0x100000, 0x80000, 0)] }
def sNs := flg (inFlight [nsO] (withN (nd 0x100200 .failed) (tl (area (at_ .nopShort)))))
theorem witness_NodeInstructions_2_2_2_2_2_2 :
    sNs.readyOp? nsO.id = (some nsO, sNs)
    ∧ sNs.op? nsO.id = some nsO
    ∧ nsO.kind = OpKind.nstat (1049088 : VAddr) [8]
    ∧ nsO.spoil = []
    ∧ sNs.fibreOf? nsO.gid nsO.fid = some (w0 sNs, f0 sNs)
    ∧ sNs.warp? (w0 sNs).wid = some (w0 sNs)
    ∧ (w0 sNs).fibre? (f0 sNs).lane = some (f0 sNs)
    ∧ (w0 sNs).handler = none
    ∧ sNs.group? (w0 sNs).gid ≠ none
    ∧ sNs.node? nsO.ctx (1049088 : VAddr) = some (nd (1049088 : VAddr) NodeState.failed) :=
  by decide +kernel
-- releases
def rec_ (a : Nat) (l : List Byte) (s : State) := bytesAt (0x80000 + a) l s
def rdy (s : State) := { s with dev := { s.dev with boot := .ready } }
/-- GRID record: control word kind 0, pred at +8, masks at 0x20, 0x28, payload at 0x38 -/
def gridRec (pred groups : Nat) (ctl : Nat := 0) : List Byte := bytesOf 4 ctl ++ bytesOf 4 0 ++ bytesOf 4 pred ++ bytesOf 4 0 ++ bytesOf 8 0 ++ bytesOf 8 0 ++ bytesOf 8 0xFF ++ bytesOf 8 1 ++ bytesOf 8 0 ++ bytesOf 8 0x20000 ++ bytesOf 4 groups ++ bytesOf 4 40 ++ bytesOf 4 (32 + 8 * 1024 + 4 * 65536) ++ bytesOf 4 5000 ++ bytesOf 4 (3 + 65536) ++ bytesOf 4 0 ++ bytesOf 16 0 ++ bytesOf 16 77 ++ bytesOf 8 0
def mk (b : Nat) (s : State) : State := { s with unitKey := (List.range 32).map (fun i => (0x8020 + i, 1)) }
def sH (p : Nat) := rdy (mk 0 (rec_ 0x200 (gridRec p 2) (area (at_ .nopShort))))
theorem witness_NodeReleases_1 :
    (1 < 2 ∧ (sH 3).dev.boot = BootPhase.ready ∧ (sH 3).isRecord 0 (1049088 : VAddr) = true)
    ∧ (((sH 3).walkerNat 0 (BitVec.toNat (1049088 : VAddr) + 8) 4).snd = sH 3 ∧
      (sH 3).asLeft 0 (1049088 : VAddr) = (false, sH 3))
    ∧ 2 ≤ ((sH 3).walkerNat 0 (BitVec.toNat (1049088 : VAddr) + 8) 4).fst :=
  by decide +kernel
theorem witness_NodeReleases_2_1 :
    (1 < 2 ∧ (sH 0).dev.boot = BootPhase.ready ∧ (sH 0).isRecord 0 (1049088 : VAddr) = true)
    ∧ (((sH 0).walkerNat 0 (BitVec.toNat (1049088 : VAddr) + 8) 4).snd = sH 0 ∧
      (sH 0).asLeft 0 (1049088 : VAddr) = (false, sH 0))
    ∧ ((sH 0).walkerNat 0 (BitVec.toNat (1049088 : VAddr) + 8) 4).fst = 0
    ∧ (sH 0).dev.elog = (0 : DWord) :=
  by decide +kernel
/-- The walk of context 0 ends at one large leaf that maps each address to itself. -/
def large (s : State) : State := bytesAt 0x2000 (bytesOf 8 61) (bytesAt 0x1000 (bytesOf 8 (1 + 2 * 2 ^ 20)) { s with ctxs := s.ctxs.map (fun (c : Ctx) => { c with root := 0x1000, nodeBase := 0x100000, nodeSize := 0x10000 }) })
def sL : State := rdy { bytesAt 0x100200 (gridRec 1 2) (large (at_ .nopShort)) with unitKey := (List.range 16).map (fun i => (0x10020 + i, 1)) }
def recL : List Byte :=
  [0, 0, 0, 0, 0, 0, 0, 0, 0, 0, 0, 0, 0, 0, 0, 0, 0, 0, 0, 0, 0, 0, 0, 0, 0, 0, 0, 0, 0, 0, 0, 0, 255, 0, 0, 0, 0, 0, 0, 0, 1, 0, 0, 0, 0, 0, 0, 0, 0,
  0, 0, 0, 0, 0, 0, 0, 0, 0, 2, 0, 0, 0, 0, 0, 2, 0, 0, 0, 40, 0, 0, 0, 32, 32, 4, 0, 136, 19, 0, 0, 3, 0, 1, 0, 0, 0, 0, 0, 0, 0, 0, 0, 0, 0, 0, 0,
  0, 0, 0, 0, 0, 0, 0, 0, 77, 0, 0, 0, 0, 0, 0, 0, 0, 0, 0, 0, 0, 0, 0, 0, 0, 0, 0, 0, 0, 0, 0, 0, 0, 0, 0, 0, 0, 0, 0, 0, 0, 0, 0, 0, 0, 0, 0, 0, 0,
  0, 0, 0, 0, 0, 0, 0, 0, 0, 0, 0, 0, 0, 0, 0, 0, 0, 0, 0, 0, 0, 0, 0, 0, 0, 0, 0, 0, 0, 0, 0, 0, 0, 0, 0, 0, 0, 0, 0, 0, 0, 0, 0, 0, 0, 0, 0, 0, 0,
  0, 0, 0, 0, 0, 0, 0, 0, 0, 0, 0, 0, 0, 0, 0, 0, 0, 0, 0, 0, 0, 0, 0, 0, 0, 0, 0, 0, 0, 0, 0, 0, 0, 0, 0, 0, 0, 0, 0, 0, 0, 0, 0, 0, 0, 0, 0, 0, 0,
  0, 0, 0, 0, 0, 0, 0, 0, 0, 0, 0, 0, 0]
theorem sL_rec :
    (sL.walkerWrite 0 (BitVec.toNat (1049088 : VAddr) + 8) (bytesOf 4 ((sL.walkerNat 0 (BitVec.toNat (1049088 : VAddr) + 8) 4).fst - 1))).walkerRead 0 (BitVec.toNat (1049088 : VAddr)) 256 =
    (recL, (sL.walkerWrite 0 (BitVec.toNat (1049088 : VAddr) + 8) (bytesOf 4 ((sL.walkerNat 0 (BitVec.toNat (1049088 : VAddr) + 8) 4).fst - 1)))) := by
  have e : 256 = recL.length := by decide +kernel
  rw [e]
  exact Machine.State.walkerRead_eq _ _ _ _ (by decide +kernel)
theorem witness_NodeReleases_2_2_1 :
    (1 < 2 ∧ sL.dev.boot = BootPhase.ready ∧ sL.isRecord 0 (1049088 : VAddr) = true)
    ∧ ((sL.walkerNat 0 (BitVec.toNat (1049088 : VAddr) + 8) 4).snd = sL ∧ sL.asLeft 0 (1049088 : VAddr) = (false, sL))
    ∧ (sL.walkerNat 0 (BitVec.toNat (1049088 : VAddr) + 8) 4).fst = 1
    ∧ sL.node? 0 (1049088 : VAddr) = none
    ∧ { addr := (1049088 : VAddr), ctx := 0, state := NodeState.waiting,
          record :=
            ((sL.walkerWrite 0 (BitVec.toNat (1049088 : VAddr) + 8)
                    (bytesOf 4 ((sL.walkerNat 0 (BitVec.toNat (1049088 : VAddr) + 8) 4).fst - 1))).walkerRead
                0 (BitVec.toNat (1049088 : VAddr)) 256).fst :
          Node }.refusal =
      none
    ∧ { addr := (1049088 : VAddr), ctx := 0, state := NodeState.waiting,
          record :=
            ((sL.walkerWrite 0 (BitVec.toNat (1049088 : VAddr) + 8)
                    (bytesOf 4 ((sL.walkerNat 0 (BitVec.toNat (1049088 : VAddr) + 8) 4).fst - 1))).walkerRead
                0 (BitVec.toNat (1049088 : VAddr)) 256).fst :
          Node }.kind ≠
      4
    ∧ ((sL.walkerWrite 0 (BitVec.toNat (1049088 : VAddr) + 8)
              (bytesOf 4 ((sL.walkerNat 0 (BitVec.toNat (1049088 : VAddr) + 8) 4).fst - 1))).walkerRead
          0 (BitVec.toNat (1049088 : VAddr)) 256).snd =
      sL.walkerWrite 0 (BitVec.toNat (1049088 : VAddr) + 8)
        (bytesOf 4 ((sL.walkerNat 0 (BitVec.toNat (1049088 : VAddr) + 8) 4).fst - 1)) :=
  ⟨by decide +kernel, by decide +kernel, by decide +kernel, by decide +kernel, by rw [sL_rec]; decide +kernel, by rw [sL_rec]; decide +kernel, by rw [sL_rec]⟩
theorem witness_NodeReleases_2_2_2_1 :
    (¬(2 < 2 ∧ (sH 1).dev.boot = BootPhase.ready ∧ (sH 1).isRecord 0 (1049088 : VAddr) = true)) :=
  by decide +kernel
theorem witness_NodeReleases_2_2_2_1b :
    (¬(0 < 2 ∧ (sH 1).dev.boot = BootPhase.ready ∧ (sH 1).isRecord 0 (1048576 : VAddr) = true)) :=
  by decide +kernel
def nrO : Op := { loadOp with flag := some 2, kind := .nrel 0x100200, pins := [(0x100000, 0x80000, 0)] }
def kN : Node := { nd 0x100200 .waiting with parent := some 0x100100 }
def sR := flg (inFlight [nrO] (withN kN (tl (sH 2))))
theorem witness_NodeReleases_2_2_2_2_1 :
    sR.readyOp? nrO.id = (some nrO, sR)
    ∧ sR.op? nrO.id = some nrO
    ∧ nrO.kind = OpKind.nrel (1049088 : VAddr)
    ∧ sR.nrelDue nrO = true
    ∧ sR.fibreOf? nrO.gid nrO.fid = some (w0 sR, f0 sR)
    ∧ sR.warp? (w0 sR).wid = some (w0 sR)
    ∧ (w0 sR).fibre? (f0 sR).lane = some (f0 sR)
    ∧ (kN.addr = (1049088 : VAddr) ∧ kN.ctx = nrO.ctx ∧ sR.node? nrO.ctx (1049088 : VAddr) = some kN ∧ kN.state = NodeState.waiting)
    ∧ kN.parent ≠ none
    ∧ ((sR.walkerNat nrO.ctx (BitVec.toNat (1049088 : VAddr) + 8) 4).snd = sR ∧ sR.asLeft nrO.ctx (1049088 : VAddr) = (false, sR))
    ∧ 2 ≤ (sR.walkerNat nrO.ctx (BitVec.toNat (1049088 : VAddr) + 8) 4).fst :=
  by decide +kernel
def sR2 := flg (inFlight [{ nrO with id := 3, issue := 2, kind := .nrel 0x100300 }, nrO] (withN kN (tl (sH 2))))
theorem witness_NodeReleases_2_2_2_2_2 :
    sR2.readyOp? nrO.id = (some nrO, sR2)
    ∧ nrO.kind = OpKind.nrel (1049088 : VAddr)
    ∧ sR2.nrelDue nrO = false :=
  by decide +kernel

end W16

/-! ## Premises met: `Obligations.NodeLife`, `Obligations.Groups` -/

namespace W17

def flg (s : State) := byFibre (fun f => { f with flags := [(2, 2)] }) s
def flagged2 (s : State) := byWarp (fun (w : Warp) => { w with active := w.active.map (fun (a : Active) => { a with header := soloHeader 2 - 15 * 2 ^ 21 + 2 * 2 ^ 21 }) }) (flg s)
/-- area at 0x100000..0x10FFFF page 16 frame 8; own node at 0x100100 -/
def area (s : State) := { byGroup (fun g => { g with node := 0x100100 }) (tabled [(16, 0, 8)] s) with ctxs := (tabled [(16, 0, 8)] s).ctxs.map (fun (c : Ctx) => { c with nodeBase := 0x100000, nodeSize := 0x10000 }), nodes := s.nodes.map (fun (n : Node) => { n with addr := 0x100100 }) }
def tl (s : State) := mapped 16 0 8 0 s
def nd (a : VAddr) (st : NodeState) : Node := { addr := a, ctx := 0, state := st, code := 7 }
def withN (n : Node) (s : State) : State := { s with nodes := s.nodes ++ [n] }
def rec_ (a : Nat) (l : List Byte) (s : State) := bytesAt (0x80000 + a) l s
def rdy (s : State) := { s with dev := { s.dev with boot := .ready } }
/-- GRID record: control word kind 0, pred at +8, masks at 0x20, 0x28, payload at 0x38 -/
def gridRec (pred groups : Nat) (ctl : Nat := 0) : List Byte := bytesOf 4 ctl ++ bytesOf 4 0 ++ bytesOf 4 pred ++ bytesOf 4 0 ++ bytesOf 8 0 ++ bytesOf 8 0 ++ bytesOf 8 0xFF ++ bytesOf 8 1 ++ bytesOf 8 0 ++ bytesOf 8 0x20000 ++ bytesOf 4 groups ++ bytesOf 4 40 ++ bytesOf 4 (32 + 8 * 1024 + 4 * 65536) ++ bytesOf 4 5000 ++ bytesOf 4 (3 + 65536) ++ bytesOf 4 0 ++ bytesOf 16 0 ++ bytesOf 16 77 ++ bytesOf 8 0
def mk (b : Nat) (s : State) : State := { s with unitKey := (List.range 32).map (fun i => (0x8020 + i, 1)) }
def sH (p : Nat) := rdy (mk 0 (rec_ 0x200 (gridRec p 2) (area (at_ .nopShort))))
def copyRec (ctl opt nsucc : Nat) : List Byte := bytesOf 4 ctl ++ bytesOf 4 0 ++ bytesOf 4 0 ++ bytesOf 4 nsucc ++ bytesOf 8 0 ++ bytesOf 8 0 ++ bytesOf 8 0x6 ++ bytesOf 8 1 ++ bytesOf 8 0 ++ bytesOf 8 0x20000 ++ bytesOf 8 0x30000 ++ bytesOf 8 100 ++ bytesOf 8 0 ++ bytesOf 4 opt ++ bytesOf 4 0 ++ List.replicate 144 0
def nC (st : NodeState) (ctl : Nat := 1) : Node := { nd 0x100200 st with record := copyRec ctl 2 0 }
def base : State := rdy (mk 0 (rec_ 0x200 (copyRec 1 2 0) (area (at_ .nopShort))))
def sC := withN (nC .ready) base
theorem witness_NodeLife_1 :
    (sC.node? 0 (1049088 : VAddr) = some (nC NodeState.ready) ∧
      (nC NodeState.ready).ctx = 0 ∧ (nC NodeState.ready).addr = (1049088 : VAddr))
    ∧ (nC NodeState.ready).state = NodeState.ready
    ∧ natOf (List.take 4 (List.drop 0 (nC NodeState.ready).record)) % 16 = 1
    ∧ natOf (List.take 4 (List.drop 88 (nC NodeState.ready).record)) % 2 = 0
    ∧ sC.places = true
    ∧ sC.copyEngineFor (nC NodeState.ready) = some 1
    ∧ (∃ (c : Ctx), sC.ctx? 0 = some c ∧ c.state = 0) :=
  by
  refine @of_decide_eq_true _ (by letI := @decSome; infer_instance) ?_
  decide +kernel
theorem witness_NodeLife_2_1 :
    sC.copyEngineFor (nC NodeState.ready) = some 1 :=
  by decide +kernel
def stRec (ctl : Nat) : List Byte := (copyRec ctl 2 0).take 0xB8 ++ bytesOf 8 (0x20000 + 1) ++ List.replicate 40 0 ++ bytesOf 4 1 ++ List.replicate 20 0
def sSt0 := { tabled [(2, 0, 7), (16, 0, 8)] (at_ .nopShort) with nodes := [{ nd 0x100100 .running with record := stRec 0 }] }
def sSt := { byGroup (fun g => { g with node := 0x100100 }) sSt0 with ctxs := sSt0.ctxs.map (fun (c : Ctx) => { c with pool0 := [9, 11], counts := [(7, 1)] }), unitKey := [(0x401, 1)], ops := [{ loadOp with node := 0x100100, kind := .store .g 0x20000 4 [(0, 1)] false }], tlb := [{ place := .core 3, ctx := 0, page := 2, leaf := 0, level := 3 }] }
theorem witness_NodeLife_2_2_1 :
    List.find?
        (fun (o : Op) =>
          decide (o.ctx = 0) && decide (o.node = (1048832 : VAddr)) && o.writesPage (BitVec.toNat (131072 : VAddr) / 65536))
        sSt.ops =
      some (o0 sSt)
    ∧ sSt.mustStage 0 (1048832 : VAddr) (BitVec.toNat (131072 : VAddr) / 65536) = some 1
    ∧ sSt.tidy
    ∧ sSt.ctx? 0 = some sSt.ctxs.head!
    ∧ sSt.ctxs.head!.root % 4096 = 0
    ∧ sSt.entryFor 0 (BitVec.toNat (131072 : VAddr) / 65536 * 65536) 3 = (some 16400, sSt)
    ∧ sSt.entryAt 16400 = sSt.entryAt 16400
    ∧ pteTier (sSt.entryAt 16400) = 0
    ∧ sget 0 sSt.ctxs.head!.counts (pteFrame (sSt.entryAt 16400)) = 1
    ∧ sSt.ctxs.head!.pool0 = [9, 11]
    ∧ 9 < 2 ^ 32
    ∧ 9 ≠ pteFrame (sSt.entryAt 16400) :=
  by
  refine @of_decide_eq_true _ (by letI := @decTidy; infer_instance) ?_
  decide +kernel
theorem witness_NodeLife_2_2_2_1 :
    sC.mustStage 0 (1048832 : VAddr) (BitVec.toNat (131072 : VAddr) / 65536) = none :=
  by decide +kernel
def nG (st : NodeState) (p r : Nat) : Node := { nd 0x100200 st with record := gridRec 0 2 ++ List.replicate 72 0, placed := p, retired := r }
def sG (st : NodeState) (p r : Nat) := withN (nG st p r) (rdy (mk 0 (rec_ 0x200 (gridRec 0 2) (area (at_ .nopShort)))))
theorem witness_NodeLife_2_2_2_2_1 :
    ((sG NodeState.running 2 2).node? 0 (1049088 : VAddr) = some (nG NodeState.running 2 2) ∧
      (nG NodeState.running 2 2).ctx = 0 ∧ (nG NodeState.running 2 2).addr = (1049088 : VAddr))
    ∧ (nG NodeState.running 2 2).state = NodeState.running
    ∧ natOf (List.take 4 (List.drop 0 (nG NodeState.running 2 2).record)) % 16 = 0
    ∧ (nG NodeState.running 2 2).placed =
      natOf (List.take 4 (List.drop 64 (nG NodeState.running 2 2).record))
    ∧ (nG NodeState.running 2 2).retired =
      natOf (List.take 4 (List.drop 64 (nG NodeState.running 2 2).record))
    ∧ (nG NodeState.running 2 2).children = 0
    ∧ (∀ (o : Op), o ∈ (sG NodeState.running 2 2).ops → ¬(o.ctx = 0 ∧ o.node = (1049088 : VAddr)))
    ∧ natOf (List.take 4 (List.drop 12 (nG NodeState.running 2 2).record)) = 0 :=
  by decide +kernel
theorem witness_NodeLife_2_2_2_2_2_1 :
    ((sG NodeState.running 2 1).node? 0 (1049088 : VAddr) = some (nG NodeState.running 2 1) ∧
      (nG NodeState.running 2 1).ctx = 0 ∧ (nG NodeState.running 2 1).addr = (1049088 : VAddr))
    ∧ (nG NodeState.running 2 1).state = NodeState.running
    ∧ natOf (List.take 4 (List.drop 0 (nG NodeState.running 2 1).record)) % 16 = 0
    ∧ ((nG NodeState.running 2 1).placed ≠
        natOf (List.take 4 (List.drop 64 (nG NodeState.running 2 1).record)) ∨
      (nG NodeState.running 2 1).retired ≠
          natOf (List.take 4 (List.drop 64 (nG NodeState.running 2 1).record)) ∨
        (nG NodeState.running 2 1).children ≠ 0) :=
  by decide +kernel
def nW (st : NodeState) : Node := { nG st 2 2 with works := [{ slot := 3, first := 0, last := some 40 }, { slot := 512, first := 0, last := some 40 }] }
def sWk (p : Nat) := { withN (nW .complete) base with cores := [(3, { passedAt := p })], scans := [(0, { engPassedAt := 50 })] }
theorem witness_NodeLife_2_2_2_2_2_2_1 :
    ((sWk 41).node? 0 (1049088 : VAddr) = some (nW NodeState.complete) ∧
      (nW NodeState.complete).ctx = 0 ∧ (nW NodeState.complete).addr = (1049088 : VAddr))
    ∧ (nW NodeState.complete).state = NodeState.complete
    ∧ (nW NodeState.complete).parent = none
    ∧ (∀ (w : Work),
      w ∈ (nW NodeState.complete).works →
        ∃ (t : Nat),
          w.last = some t ∧
            if w.slot < 512 then t < ((sWk 41).core w.slot).passedAt ∧ ((sWk 41).core w.slot).overdue = false
            else t < ((sWk 41).scan (w.slot - 512)).engPassedAt ∧ ((sWk 41).scan (w.slot - 512)).engOverdue = false)
    ∧ (∀ (p : VAddr),
      p ∈ (nW NodeState.complete).preds →
        ∀ (q : Node), (sWk 41).node? 0 p = some q → q.state ∈ [NodeState.committed, NodeState.failed, NodeState.killed]) :=
  ⟨by decide +kernel, by decide +kernel, by decide +kernel,
    @of_decide_eq_true _ (by letI := @decSome; infer_instance) (by decide +kernel),
    fun p h => absurd (show p ∈ ([] : List VAddr) from h) List.not_mem_nil⟩
theorem witness_NodeLife_2_2_2_2_2_2_2_1 :
    ((sWk 40).node? 0 (1049088 : VAddr) = some (nW NodeState.complete) ∧
      (nW NodeState.complete).ctx = 0 ∧ (nW NodeState.complete).addr = (1049088 : VAddr))
    ∧ (nW NodeState.complete).state = NodeState.complete
    ∧ (∃ (w : Work),
      w ∈ (nW NodeState.complete).works ∧
        ¬∃ (t : Nat),
            w.last = some t ∧
              if w.slot < 512 then t < ((sWk 40).core w.slot).passedAt ∧ ((sWk 40).core w.slot).overdue = false
              else t < ((sWk 40).scan (w.slot - 512)).engPassedAt ∧ ((sWk 40).scan (w.slot - 512)).engOverdue = false) :=
  by
  refine @of_decide_eq_true _ (by letI := @decSome; infer_instance) ?_
  decide +kernel
def nR (ctl : Nat) : Node := { nd 0x100200 .running with record := copyRec ctl 0 0 }
def sR (ctl : Nat) := withN (nR ctl) base
def withGroup (s : State) : State := byGroup (fun g => { g with node := 0x100200 }) (inFlight [{ loadOp with node := 0x100200 }] s)
theorem witness_NodeLife_2_2_2_2_2_2_2_2_1 :
    (((withGroup (sR 257)).node? 0 (1049088 : VAddr) = some (nR 257) ∧
        (nR 257).ctx = 0 ∧ (nR 257).addr = (1049088 : VAddr)) ∧
      (nR 257).released = [] ∧
        (nR 257).parent = none ∧
          natOf (List.take 4 (List.drop 12 (nR 257).record)) = 0 ∧
            (withGroup (sR 257)).dev.elog = (0 : DWord) ∧
              (∀ (k : Node), k ∈ (withGroup (sR 257)).nodes → k.ctx = 0 → k.parent ≠ some (1049088 : VAddr)) ∧
                ∀ (c : Ctx), (withGroup (sR 257)).ctx? 0 = some c → ∀ (g : Staged), g ∈ c.staged → g.node ≠ (1049088 : VAddr))
    ∧ ((nR 257).state = NodeState.running ∨ (nR 257).state = NodeState.complete)
    ∧ natOf (List.take 4 (List.drop 0 (nR 257).record)) / 2 ^ 8 % 2 = 1
    ∧ (nR 257).u = false :=
  by
  refine @of_decide_eq_true _ (by letI := @decAll; infer_instance) ?_
  decide +kernel
theorem witness_NodeLife_2_2_2_2_2_2_2_2_2_1 :
    (((withGroup (sR 1)).node? 0 (1049088 : VAddr) = some (nR 1) ∧
        (nR 1).ctx = 0 ∧ (nR 1).addr = (1049088 : VAddr)) ∧
      (nR 1).released = [] ∧
        (nR 1).parent = none ∧
          natOf (List.take 4 (List.drop 12 (nR 1).record)) = 0 ∧
            (withGroup (sR 1)).dev.elog = (0 : DWord) ∧
              (∀ (k : Node), k ∈ (withGroup (sR 1)).nodes → k.ctx = 0 → k.parent ≠ some (1049088 : VAddr)) ∧
                ∀ (c : Ctx), (withGroup (sR 1)).ctx? 0 = some c → ∀ (g : Staged), g ∈ c.staged → g.node ≠ (1049088 : VAddr))
    ∧ ((nR 1).state = NodeState.running ∨ (nR 1).state = NodeState.complete)
    ∧ (¬natOf (List.take 4 (List.drop 0 (nR 1).record)) / 2 ^ 8 % 2 = 1 ∨ (nR 1).u = true) :=
  by
  refine @of_decide_eq_true _ (by letI := @decAll; infer_instance) ?_
  decide +kernel
theorem witness_NodeLife_2_2_2_2_2_2_2_2_2_2 :
    (((withGroup (sR 1)).node? 0 (1049088 : VAddr) = some (nR 1) ∧
        (nR 1).ctx = 0 ∧ (nR 1).addr = (1049088 : VAddr)) ∧
      (nR 1).released = [] ∧
        (nR 1).parent = none ∧
          natOf (List.take 4 (List.drop 12 (nR 1).record)) = 0 ∧
            (withGroup (sR 1)).dev.elog = (0 : DWord) ∧
              (∀ (k : Node), k ∈ (withGroup (sR 1)).nodes → k.ctx = 0 → k.parent ≠ some (1049088 : VAddr)) ∧
                ∀ (c : Ctx), (withGroup (sR 1)).ctx? 0 = some c → ∀ (g : Staged), g ∈ c.staged → g.node ≠ (1049088 : VAddr))
    ∧ ((nR 1).state = NodeState.ready ∨ (nR 1).state = NodeState.running)
    ∧ BitVec.toNat (36 : BitVec 8) ∈
      [1, 2, 3, 4, 5, 6, 7, 8, 9, 10, 16, 17,
        18, 19, 20, 21, 22, 23, 24, 25, 26, 31, 32,
        33, 34, 35, 36] :=
  by
  refine @of_decide_eq_true _ (by letI := @decAll; infer_instance) ?_
  decide +kernel
theorem witness_Groups_1 :
    (base.places = false ∨ base.placers = []) :=
  by decide +kernel
def nP : Node := { nG .ready 1 1 with tryPlace := true }
def sP := withN nP (rdy (area (at_ .nopShort)))
def seatP := (sP.seatShare 1 (nP.launch.share 1 0)).get!
theorem witness_Groups_2_1 :
    sP.places = true
    ∧ sP.placers = [nP]
    ∧ sP.node? nP.ctx nP.addr = some nP
    ∧ nP.state = NodeState.ready
    ∧ nP.launch.groups = nP.placed + 1
    ∧ nP.launch.cores = some 1
    ∧ sP.ctx? nP.ctx = some sP.ctxs.head!
    ∧ sP.chooseCores nP.masks (nP.launch.share 1 0) 1 = some [1]
    ∧ sP.seatShare 1 (nP.launch.share 1 0) = some (seatP.fst, seatP.snd)
    ∧ (∀ (q : Seat), q ∈ seatP.fst → q.idx < 64)
    ∧ (List.map Seat.idx seatP.fst).Nodup
    ∧ (List.map (fun (k : Node) => (k.ctx, k.addr)) sP.nodes).Nodup :=
  by decide +kernel
def sE := byWarp (fun (w : Warp) => { w with fibres := [] }) (withN (nG .running 2 1) base)
def nS : Node := { nd 0x100100 .running with code := 0 }
def nOf (s : State) : Node := (s.node? 0 0x100100).get!
theorem witness_Groups_2_2_1 :
    sE.group? (g0 sE).gid = some (g0 sE)
    ∧ (∀ (w : Warp), w ∈ sE.warps → w.gid = (g0 sE).gid → w.fibres = [])
    ∧ (∀ (o : Op), o ∈ sE.ops → o.gid = (g0 sE).gid → o.writesGroup = false)
    ∧ sE.node? (g0 sE).ctx (g0 sE).node = some (nOf sE) :=
  by decide +kernel
theorem witness_Groups_2_2_2 :
    base.group? (g0 base).gid = some (g0 base)
    ∧ w0 base ∈ base.warps
    ∧ (w0 base).gid = (g0 base).gid
    ∧ f0 base ∈ (w0 base).fibres :=
  by decide +kernel

end W17

/-! ## Premises met: `Obligations.SortCount` -/

namespace W18

def flg (s : State) := byFibre (fun f => { f with flags := [(2, 2)] }) s
def flagged2 (s : State) := byWarp (fun (w : Warp) => { w with active := w.active.map (fun (a : Active) => { a with header := soloHeader 2 - 15 * 2 ^ 21 + 2 * 2 ^ 21 }) }) (flg s)
def rr (l : Nat) : Sparse Word := [(0, BitVec.ofNat 32 (0x20000 + 128 * l)), (2, 0x20040)]
def iS : Instr := .sortcnt always (.v 0) false .device
def sS := flagged2 (fourAt iS rr)
theorem witness_SortCount_1 :
    Issues sS (Instr.sortcnt always (Reg.v (0 : Fin 608)) false Scope.device) (wOf sS) (aOf sS) (gOf sS) (xOf sS iS) [] []
    ∧ NoOpenOperand (Instr.sortcnt always (Reg.v (0 : Fin 608)) false Scope.device) (gOf sS) (xOf sS iS) []
    ∧ xOf sS iS ≠ []
    ∧ ((sS.sortQueue ((wOf sS).wid / 48 / 64)).length + (xOf sS iS).length ≤ 16 ∧
      ∀ (f : Fibre), f ∈ xOf sS iS → (BitVec.setWidth 52 (f.pair (gOf sS) (Reg.v (0 : Fin 608)))).toNat % 128 = 0) :=
  by
  refine @of_decide_eq_true _ (by letI := @decIssues; letI := @decNoOpen; infer_instance) ?_
  decide +kernel
def iS1 : Instr := .sortcnt always (.v 2) false .device
def sS1 := at_ iS1 (rr 0)
theorem witness_SortCount_2_1 :
    Issues sS1 (Instr.sortcnt always (Reg.v (2 : Fin 608)) false Scope.device) (wOf sS1) (aOf sS1) (gOf sS1) ([] ++ [x0 sS1 iS1]) [] []
    ∧ (∀ (k : Fibre), k ∈ [] → (BitVec.setWidth 52 (k.pair (gOf sS1) (Reg.v (2 : Fin 608)))).toNat % 128 = 0) :=
  by
  refine @of_decide_eq_true _ (by letI := @decIssues; infer_instance) ?_
  decide +kernel
def soOp (id : Nat) : Op := { loadOp with id := id, issue := id, gid := 1, flag := some 2, kind := .sort 0x20000 [] [] 0 0 none none, pins := [(0x20000, 0x70000, 0), (0x30000, 0x90000, 0)], wpins := [(0x20000, 0x70000, 0), (0x40000, 0xA0000, 0)] }
def sS2 := inFlight ((List.range 16).map (fun k => soOp (30 + k))) (at_ iS (rr 0))
theorem witness_SortCount_2_1b :
    Issues sS2 (Instr.sortcnt always (Reg.v (0 : Fin 608)) false Scope.device) (wOf sS2) (aOf sS2) (gOf sS2) ([] ++ [x0 sS2 iS]) [] []
    ∧ (∀ (k : Fibre), k ∈ [] → (BitVec.setWidth 52 (k.pair (gOf sS2) (Reg.v (0 : Fin 608)))).toNat % 128 = 0) :=
  by
  refine @of_decide_eq_true _ (by letI := @decIssues; infer_instance) ?_
  decide +kernel
def sB := inFlight [{ soOp 30 with stage := .started, server := 0 }] (at_ .nopShort)
theorem witness_SortCount_2_2_1 :
    sB.engineDie 0 = some 0
    ∧ (sB.sortBusy 0 = true ∨ sB.engineTakes 0 = false) :=
  by decide +kernel
def block (e t : Nat) (biasOn : Bool) : List Byte := bytesOf 4 e ++ bytesOf 4 t ++ bytesOf 4 (2 + (if biasOn then 256 else 0)) ++ bytesOf 4 0 ++ bytesOf 8 0x30000 ++ bytesOf 8 0x40000 ++ bytesOf 8 0x40100 ++ bytesOf 8 0x40200 ++ bytesOf 8 0x41000 ++ bytesOf 8 0x50000 ++ bytesOf 4 32 ++ bytesOf 4 5 ++ bytesOf 8 0x60000 ++ bytesOf 8 0x100 ++ bytesOf 8 (if biasOn then 0x30000 + 65536 else 0) ++ bytesOf 4 0x3A83126F ++ bytesOf 4 0 ++ bytesOf 8 0x20080 ++ bytesOf 16 0
def maps (s : State) := mapped 2 0 7 0 (mapped 3 0 9 0 (mapped 4 0 10 0 s))
def idsB (l : List Nat) : List Byte := l.flatMap (bytesOf 2)
def sT (blk : List Byte) (ids : List Nat) := asGroup1 (flg (inFlight [soOp 30] (bytesAt 0x90000 (idsB ids) (bytesAt 0x70000 blk (maps (at_ .nopShort))))))
/-- The state in which the request has read its block. -/
def begun (s : State) (b : List Byte) : State := (s.onOp 30 (fun o => { o with server := 0 })).onOp 30 (fun o => { o with kind := .sort 0x20000 b [] 0 0 none none })
def s1 := sT (block 0 2 false) [0, 1, 1, 0xFFFF]
theorem witness_SortCount_2_2_2_1 :
    (s1.engineDie 0 = some 0 ∧
      s1.sortBusy 0 = false ∧
        s1.engineTakes 0 = true ∧
          List.find? s1.mayBegin (arrivalOrder (s1.sortQueue 0)) = some (soOp 30) ∧
            s1.op? (soOp 30).id = some (soOp 30) ∧
              (soOp 30).kind = OpKind.sort (131072 : VAddr) [] [] 0 0 none none ∧ s1.tidy)
    ∧ ((([] : List Byte) ≠ [] ∧
        block 0 2 false = [] ∧
          begun s1 (block 0 2 false) =
            s1.onOp (soOp 30).id fun (o : Op) =>
              { id := o.id, issue := o.issue, entry := o.entry, gid := o.gid, fid := o.fid, wid := o.wid, lane := o.lane, vlane := o.vlane,
                core := o.core, ctx := o.ctx, node := o.node, flag := o.flag, scope := o.scope, mcls := o.mcls, mdl := o.mdl, pos := o.pos,
                base := o.base, instr := o.instr, words := o.words, srcs := o.srcs, since := o.since, clock := o.clock, stage := o.stage,
                record := o.record, parks := o.parks, deferring := o.deferring, pins := o.pins, wpins := o.wpins, fids := o.fids, spoil := o.spoil,
                arrived := o.arrived, drain := o.drain, kind := o.kind : Op }) ∨
      ([] : List Byte) = [] ∧
        ((s1.onOp (soOp 30).id fun (o : Op) =>
                    { id := o.id, issue := o.issue, entry := o.entry, gid := o.gid, fid := o.fid, wid := o.wid, lane := o.lane, vlane := o.vlane,
                      core := o.core, ctx := o.ctx, node := o.node, flag := o.flag, scope := o.scope, mcls := o.mcls, mdl := o.mdl, pos := o.pos,
                      base := o.base, instr := o.instr, words := o.words, srcs := o.srcs, since := o.since, clock := o.clock, stage := o.stage,
                      record := o.record, parks := o.parks, deferring := o.deferring, pins := o.pins, wpins := o.wpins, fids := o.fids,
                      spoil := o.spoil, arrived := o.arrived, drain := o.drain, kind := o.kind : Op }).engineOpen
                (soOp 30).id [(BitVec.toNat (131072 : VAddr), 128, Access.read)] =
              (true,
                s1.onOp (soOp 30).id fun (o : Op) =>
                  { id := o.id, issue := o.issue, entry := o.entry, gid := o.gid, fid := o.fid, wid := o.wid, lane := o.lane, vlane := o.vlane,
                    core := o.core, ctx := o.ctx, node := o.node, flag := o.flag, scope := o.scope, mcls := o.mcls, mdl := o.mdl, pos := o.pos,
                    base := o.base, instr := o.instr, words := o.words, srcs := o.srcs, since := o.since, clock := o.clock, stage := o.stage,
                    record := o.record, parks := o.parks, deferring := o.deferring, pins := o.pins, wpins := o.wpins, fids := o.fids,
                    spoil := o.spoil, arrived := o.arrived, drain := o.drain, kind := o.kind : Op }) ∧
            ((s1.onOp (soOp 30).id fun (o : Op) =>
                      { id := o.id, issue := o.issue, entry := o.entry, gid := o.gid, fid := o.fid, wid := o.wid, lane := o.lane, vlane := o.vlane,
                        core := o.core, ctx := o.ctx, node := o.node, flag := o.flag, scope := o.scope, mcls := o.mcls, mdl := o.mdl, pos := o.pos,
                        base := o.base, instr := o.instr, words := o.words, srcs := o.srcs, since := o.since, clock := o.clock, stage := o.stage,
                        record := o.record, parks := o.parks, deferring := o.deferring, pins := o.pins, wpins := o.wpins, fids := o.fids,
                        spoil := o.spoil, arrived := o.arrived, drain := o.drain, kind := o.kind : Op }).engineRead
                  (soOp 30).id (BitVec.toNat (131072 : VAddr)) 128).snd =
              s1.onOp (soOp 30).id fun (o : Op) =>
                { id := o.id, issue := o.issue, entry := o.entry, gid := o.gid, fid := o.fid, wid := o.wid, lane := o.lane, vlane := o.vlane,
                  core := o.core, ctx := o.ctx, node := o.node, flag := o.flag, scope := o.scope, mcls := o.mcls, mdl := o.mdl, pos := o.pos,
                  base := o.base, instr := o.instr, words := o.words, srcs := o.srcs, since := o.since, clock := o.clock, stage := o.stage,
                  record := o.record, parks := o.parks, deferring := o.deferring, pins := o.pins, wpins := o.wpins, fids := o.fids, spoil := o.spoil,
                  arrived := o.arrived, drain := o.drain, kind := o.kind : Op }) ∧
          block 0 2 false =
              ((s1.onOp (soOp 30).id fun (o : Op) =>
                      { id := o.id, issue := o.issue, entry := o.entry, gid := o.gid, fid := o.fid, wid := o.wid, lane := o.lane, vlane := o.vlane,
                        core := o.core, ctx := o.ctx, node := o.node, flag := o.flag, scope := o.scope, mcls := o.mcls, mdl := o.mdl, pos := o.pos,
                        base := o.base, instr := o.instr, words := o.words, srcs := o.srcs, since := o.since, clock := o.clock, stage := o.stage,
                        record := o.record, parks := o.parks, deferring := o.deferring, pins := o.pins, wpins := o.wpins, fids := o.fids,
                        spoil := o.spoil, arrived := o.arrived, drain := o.drain, kind := o.kind : Op }).engineRead
                  (soOp 30).id (BitVec.toNat (131072 : VAddr)) 128).fst ∧
            begun s1 (block 0 2 false) =
              (s1.onOp (soOp 30).id fun (o : Op) =>
                    { id := o.id, issue := o.issue, entry := o.entry, gid := o.gid, fid := o.fid, wid := o.wid, lane := o.lane, vlane := o.vlane,
                      core := o.core, ctx := o.ctx, node := o.node, flag := o.flag, scope := o.scope, mcls := o.mcls, mdl := o.mdl, pos := o.pos,
                      base := o.base, instr := o.instr, words := o.words, srcs := o.srcs, since := o.since, clock := o.clock, stage := o.stage,
                      record := o.record, parks := o.parks, deferring := o.deferring, pins := o.pins, wpins := o.wpins, fids := o.fids,
                      spoil := o.spoil, arrived := o.arrived, drain := o.drain, kind := o.kind : Op }).onOp
                (soOp 30).id fun (o : Op) =>
                { id := o.id, issue := o.issue, entry := o.entry, gid := o.gid, fid := o.fid, wid := o.wid, lane := o.lane, vlane := o.vlane,
                  core := o.core, ctx := o.ctx, node := o.node, flag := o.flag, scope := o.scope, mcls := o.mcls, mdl := o.mdl, pos := o.pos,
                  base := o.base, instr := o.instr, words := o.words, srcs := o.srcs, since := o.since, clock := o.clock, stage := o.stage,
                  record := o.record, parks := o.parks, deferring := o.deferring, pins := o.pins, wpins := o.wpins, fids := o.fids,
                  server := o.server, spoil := o.spoil, arrived := o.arrived, drain := o.drain,
                  kind := OpKind.sort (131072 : VAddr) (block 0 2 false) [] 0 0 none none : Op }) :=
  by
  refine @of_decide_eq_true _ (by letI := @decTidy; infer_instance) ?_
  decide +kernel
def s2 := sT (block 2 2 false) [0, 1, 2, 0xFFFF]
theorem witness_SortCount_2_2_2_1b :
    (s2.engineDie 0 = some 0 ∧
      s2.sortBusy 0 = false ∧
        s2.engineTakes 0 = true ∧
          List.find? s2.mayBegin (arrivalOrder (s2.sortQueue 0)) = some (soOp 30) ∧
            s2.op? (soOp 30).id = some (soOp 30) ∧
              (soOp 30).kind = OpKind.sort (131072 : VAddr) [] [] 0 0 none none ∧ s2.tidy)
    ∧ ((([] : List Byte) ≠ [] ∧
        block 2 2 false = [] ∧
          begun s2 (block 2 2 false) =
            s2.onOp (soOp 30).id fun (o : Op) =>
              { id := o.id, issue := o.issue, entry := o.entry, gid := o.gid, fid := o.fid, wid := o.wid, lane := o.lane, vlane := o.vlane,
                core := o.core, ctx := o.ctx, node := o.node, flag := o.flag, scope := o.scope, mcls := o.mcls, mdl := o.mdl, pos := o.pos,
                base := o.base, instr := o.instr, words := o.words, srcs := o.srcs, since := o.since, clock := o.clock, stage := o.stage,
                record := o.record, parks := o.parks, deferring := o.deferring, pins := o.pins, wpins := o.wpins, fids := o.fids, spoil := o.spoil,
                arrived := o.arrived, drain := o.drain, kind := o.kind : Op }) ∨
      ([] : List Byte) = [] ∧
        ((s2.onOp (soOp 30).id fun (o : Op) =>
                    { id := o.id, issue := o.issue, entry := o.entry, gid := o.gid, fid := o.fid, wid := o.wid, lane := o.lane, vlane := o.vlane,
                      core := o.core, ctx := o.ctx, node := o.node, flag := o.flag, scope := o.scope, mcls := o.mcls, mdl := o.mdl, pos := o.pos,
                      base := o.base, instr := o.instr, words := o.words, srcs := o.srcs, since := o.since, clock := o.clock, stage := o.stage,
                      record := o.record, parks := o.parks, deferring := o.deferring, pins := o.pins, wpins := o.wpins, fids := o.fids,
                      spoil := o.spoil, arrived := o.arrived, drain := o.drain, kind := o.kind : Op }).engineOpen
                (soOp 30).id [(BitVec.toNat (131072 : VAddr), 128, Access.read)] =
              (true,
                s2.onOp (soOp 30).id fun (o : Op) =>
                  { id := o.id, issue := o.issue, entry := o.entry, gid := o.gid, fid := o.fid, wid := o.wid, lane := o.lane, vlane := o.vlane,
                    core := o.core, ctx := o.ctx, node := o.node, flag := o.flag, scope := o.scope, mcls := o.mcls, mdl := o.mdl, pos := o.pos,
                    base := o.base, instr := o.instr, words := o.words, srcs := o.srcs, since := o.since, clock := o.clock, stage := o.stage,
                    record := o.record, parks := o.parks, deferring := o.deferring, pins := o.pins, wpins := o.wpins, fids := o.fids,
                    spoil := o.spoil, arrived := o.arrived, drain := o.drain, kind := o.kind : Op }) ∧
            ((s2.onOp (soOp 30).id fun (o : Op) =>
                      { id := o.id, issue := o.issue, entry := o.entry, gid := o.gid, fid := o.fid, wid := o.wid, lane := o.lane, vlane := o.vlane,
                        core := o.core, ctx := o.ctx, node := o.node, flag := o.flag, scope := o.scope, mcls := o.mcls, mdl := o.mdl, pos := o.pos,
                        base := o.base, instr := o.instr, words := o.words, srcs := o.srcs, since := o.since, clock := o.clock, stage := o.stage,
                        record := o.record, parks := o.parks, deferring := o.deferring, pins := o.pins, wpins := o.wpins, fids := o.fids,
                        spoil := o.spoil, arrived := o.arrived, drain := o.drain, kind := o.kind : Op }).engineRead
                  (soOp 30).id (BitVec.toNat (131072 : VAddr)) 128).snd =
              s2.onOp (soOp 30).id fun (o : Op) =>
                { id := o.id, issue := o.issue, entry := o.entry, gid := o.gid, fid := o.fid, wid := o.wid, lane := o.lane, vlane := o.vlane,
                  core := o.core, ctx := o.ctx, node := o.node, flag := o.flag, scope := o.scope, mcls := o.mcls, mdl := o.mdl, pos := o.pos,
                  base := o.base, instr := o.instr, words := o.words, srcs := o.srcs, since := o.since, clock := o.clock, stage := o.stage,
                  record := o.record, parks := o.parks, deferring := o.deferring, pins := o.pins, wpins := o.wpins, fids := o.fids, spoil := o.spoil,
                  arrived := o.arrived, drain := o.drain, kind := o.kind : Op }) ∧
          block 2 2 false =
              ((s2.onOp (soOp 30).id fun (o : Op) =>
                      { id := o.id, issue := o.issue, entry := o.entry, gid := o.gid, fid := o.fid, wid := o.wid, lane := o.lane, vlane := o.vlane,
                        core := o.core, ctx := o.ctx, node := o.node, flag := o.flag, scope := o.scope, mcls := o.mcls, mdl := o.mdl, pos := o.pos,
                        base := o.base, instr := o.instr, words := o.words, srcs := o.srcs, since := o.since, clock := o.clock, stage := o.stage,
                        record := o.record, parks := o.parks, deferring := o.deferring, pins := o.pins, wpins := o.wpins, fids := o.fids,
                        spoil := o.spoil, arrived := o.arrived, drain := o.drain, kind := o.kind : Op }).engineRead
                  (soOp 30).id (BitVec.toNat (131072 : VAddr)) 128).fst ∧
            begun s2 (block 2 2 false) =
              (s2.onOp (soOp 30).id fun (o : Op) =>
                    { id := o.id, issue := o.issue, entry := o.entry, gid := o.gid, fid := o.fid, wid := o.wid, lane := o.lane, vlane := o.vlane,
                      core := o.core, ctx := o.ctx, node := o.node, flag := o.flag, scope := o.scope, mcls := o.mcls, mdl := o.mdl, pos := o.pos,
                      base := o.base, instr := o.instr, words := o.words, srcs := o.srcs, since := o.since, clock := o.clock, stage := o.stage,
                      record := o.record, parks := o.parks, deferring := o.deferring, pins := o.pins, wpins := o.wpins, fids := o.fids,
                      spoil := o.spoil, arrived := o.arrived, drain := o.drain, kind := o.kind : Op }).onOp
                (soOp 30).id fun (o : Op) =>
                { id := o.id, issue := o.issue, entry := o.entry, gid := o.gid, fid := o.fid, wid := o.wid, lane := o.lane, vlane := o.vlane,
                  core := o.core, ctx := o.ctx, node := o.node, flag := o.flag, scope := o.scope, mcls := o.mcls, mdl := o.mdl, pos := o.pos,
                  base := o.base, instr := o.instr, words := o.words, srcs := o.srcs, since := o.since, clock := o.clock, stage := o.stage,
                  record := o.record, parks := o.parks, deferring := o.deferring, pins := o.pins, wpins := o.wpins, fids := o.fids,
                  server := o.server, spoil := o.spoil, arrived := o.arrived, drain := o.drain,
                  kind := OpKind.sort (131072 : VAddr) (block 2 2 false) [] 0 0 none none : Op }) :=
  by
  refine @of_decide_eq_true _ (by letI := @decTidy; infer_instance) ?_
  decide +kernel
def s3 := sT (block 2 2 false) [0, 1, 1, 0xFFFF]
theorem witness_SortCount_2_2_2_1c :
    (s3.engineDie 0 = some 0 ∧
      s3.sortBusy 0 = false ∧
        s3.engineTakes 0 = true ∧
          List.find? s3.mayBegin (arrivalOrder (s3.sortQueue 0)) = some (soOp 30) ∧
            s3.op? (soOp 30).id = some (soOp 30) ∧
              (soOp 30).kind = OpKind.sort (131072 : VAddr) [] [] 0 0 none none ∧ s3.tidy)
    ∧ ((([] : List Byte) ≠ [] ∧
        block 2 2 false = [] ∧
          begun s3 (block 2 2 false) =
            s3.onOp (soOp 30).id fun (o : Op) =>
              { id := o.id, issue := o.issue, entry := o.entry, gid := o.gid, fid := o.fid, wid := o.wid, lane := o.lane, vlane := o.vlane,
                core := o.core, ctx := o.ctx, node := o.node, flag := o.flag, scope := o.scope, mcls := o.mcls, mdl := o.mdl, pos := o.pos,
                base := o.base, instr := o.instr, words := o.words, srcs := o.srcs, since := o.since, clock := o.clock, stage := o.stage,
                record := o.record, parks := o.parks, deferring := o.deferring, pins := o.pins, wpins := o.wpins, fids := o.fids, spoil := o.spoil,
                arrived := o.arrived, drain := o.drain, kind := o.kind : Op }) ∨
      ([] : List Byte) = [] ∧
        ((s3.onOp (soOp 30).id fun (o : Op) =>
                    { id := o.id, issue := o.issue, entry := o.entry, gid := o.gid, fid := o.fid, wid := o.wid, lane := o.lane, vlane := o.vlane,
                      core := o.core, ctx := o.ctx, node := o.node, flag := o.flag, scope := o.scope, mcls := o.mcls, mdl := o.mdl, pos := o.pos,
                      base := o.base, instr := o.instr, words := o.words, srcs := o.srcs, since := o.since, clock := o.clock, stage := o.stage,
                      record := o.record, parks := o.parks, deferring := o.deferring, pins := o.pins, wpins := o.wpins, fids := o.fids,
                      spoil := o.spoil, arrived := o.arrived, drain := o.drain, kind := o.kind : Op }).engineOpen
                (soOp 30).id [(BitVec.toNat (131072 : VAddr), 128, Access.read)] =
              (true,
                s3.onOp (soOp 30).id fun (o : Op) =>
                  { id := o.id, issue := o.issue, entry := o.entry, gid := o.gid, fid := o.fid, wid := o.wid, lane := o.lane, vlane := o.vlane,
                    core := o.core, ctx := o.ctx, node := o.node, flag := o.flag, scope := o.scope, mcls := o.mcls, mdl := o.mdl, pos := o.pos,
                    base := o.base, instr := o.instr, words := o.words, srcs := o.srcs, since := o.since, clock := o.clock, stage := o.stage,
                    record := o.record, parks := o.parks, deferring := o.deferring, pins := o.pins, wpins := o.wpins, fids := o.fids,
                    spoil := o.spoil, arrived := o.arrived, drain := o.drain, kind := o.kind : Op }) ∧
            ((s3.onOp (soOp 30).id fun (o : Op) =>
                      { id := o.id, issue := o.issue, entry := o.entry, gid := o.gid, fid := o.fid, wid := o.wid, lane := o.lane, vlane := o.vlane,
                        core := o.core, ctx := o.ctx, node := o.node, flag := o.flag, scope := o.scope, mcls := o.mcls, mdl := o.mdl, pos := o.pos,
                        base := o.base, instr := o.instr, words := o.words, srcs := o.srcs, since := o.since, clock := o.clock, stage := o.stage,
                        record := o.record, parks := o.parks, deferring := o.deferring, pins := o.pins, wpins := o.wpins, fids := o.fids,
                        spoil := o.spoil, arrived := o.arrived, drain := o.drain, kind := o.kind : Op }).engineRead
                  (soOp 30).id (BitVec.toNat (131072 : VAddr)) 128).snd =
              s3.onOp (soOp 30).id fun (o : Op) =>
                { id := o.id, issue := o.issue, entry := o.entry, gid := o.gid, fid := o.fid, wid := o.wid, lane := o.lane, vlane := o.vlane,
                  core := o.core, ctx := o.ctx, node := o.node, flag := o.flag, scope := o.scope, mcls := o.mcls, mdl := o.mdl, pos := o.pos,
                  base := o.base, instr := o.instr, words := o.words, srcs := o.srcs, since := o.since, clock := o.clock, stage := o.stage,
                  record := o.record, parks := o.parks, deferring := o.deferring, pins := o.pins, wpins := o.wpins, fids := o.fids, spoil := o.spoil,
                  arrived := o.arrived, drain := o.drain, kind := o.kind : Op }) ∧
          block 2 2 false =
              ((s3.onOp (soOp 30).id fun (o : Op) =>
                      { id := o.id, issue := o.issue, entry := o.entry, gid := o.gid, fid := o.fid, wid := o.wid, lane := o.lane, vlane := o.vlane,
                        core := o.core, ctx := o.ctx, node := o.node, flag := o.flag, scope := o.scope, mcls := o.mcls, mdl := o.mdl, pos := o.pos,
                        base := o.base, instr := o.instr, words := o.words, srcs := o.srcs, since := o.since, clock := o.clock, stage := o.stage,
                        record := o.record, parks := o.parks, deferring := o.deferring, pins := o.pins, wpins := o.wpins, fids := o.fids,
                        spoil := o.spoil, arrived := o.arrived, drain := o.drain, kind := o.kind : Op }).engineRead
                  (soOp 30).id (BitVec.toNat (131072 : VAddr)) 128).fst ∧
            begun s3 (block 2 2 false) =
              (s3.onOp (soOp 30).id fun (o : Op) =>
                    { id := o.id, issue := o.issue, entry := o.entry, gid := o.gid, fid := o.fid, wid := o.wid, lane := o.lane, vlane := o.vlane,
                      core := o.core, ctx := o.ctx, node := o.node, flag := o.flag, scope := o.scope, mcls := o.mcls, mdl := o.mdl, pos := o.pos,
                      base := o.base, instr := o.instr, words := o.words, srcs := o.srcs, since := o.since, clock := o.clock, stage := o.stage,
                      record := o.record, parks := o.parks, deferring := o.deferring, pins := o.pins, wpins := o.wpins, fids := o.fids,
                      spoil := o.spoil, arrived := o.arrived, drain := o.drain, kind := o.kind : Op }).onOp
                (soOp 30).id fun (o : Op) =>
                { id := o.id, issue := o.issue, entry := o.entry, gid := o.gid, fid := o.fid, wid := o.wid, lane := o.lane, vlane := o.vlane,
                  core := o.core, ctx := o.ctx, node := o.node, flag := o.flag, scope := o.scope, mcls := o.mcls, mdl := o.mdl, pos := o.pos,
                  base := o.base, instr := o.instr, words := o.words, srcs := o.srcs, since := o.since, clock := o.clock, stage := o.stage,
                  record := o.record, parks := o.parks, deferring := o.deferring, pins := o.pins, wpins := o.wpins, fids := o.fids,
                  server := o.server, spoil := o.spoil, arrived := o.arrived, drain := o.drain,
                  kind := OpKind.sort (131072 : VAddr) (block 2 2 false) [] 0 0 none none : Op }) :=
  by
  refine @of_decide_eq_true _ (by letI := @decTidy; infer_instance) ?_
  decide +kernel
def s4 := sT ((block 2 2 true)) [0, 1, 1, 0xFFFF]
def opB (id : Nat) : Op := { soOp id with pins := [(0x20000, 0x70000, 0), (0x30000, 0x90000, 0), (0x40000, 0xB0000, 0)], wpins := [(0x20000, 0x70000, 0), (0x40000, 0xA0000, 0)] }
def blockB : List Byte := bytesOf 4 2 ++ bytesOf 4 2 ++ bytesOf 4 (2 + 256) ++ bytesOf 4 0 ++ bytesOf 8 0x30000 ++ bytesOf 8 0x50000 ++ bytesOf 8 0x50100 ++ bytesOf 8 0x50200 ++ bytesOf 8 0x51000 ++ bytesOf 8 0x60000 ++ bytesOf 4 32 ++ bytesOf 4 5 ++ bytesOf 8 0x60000 ++ bytesOf 8 0x100 ++ bytesOf 8 0x40000 ++ bytesOf 4 0x3A83126F ++ bytesOf 4 0 ++ bytesOf 8 0x20080 ++ bytesOf 16 0
def opC (id : Nat) : Op := { soOp id with pins := [(0x20000, 0x70000, 0), (0x30000, 0x90000, 0), (0x40000, 0xB0000, 0)], wpins := [(0x20000, 0x70000, 0), (0x50000, 0xA0000, 0)] }
def sBi := asGroup1 (flg (inFlight [opC 30] (bytesAt 0xB0000 (bytesOf 4 0x3F800000 ++ bytesOf 4 0x40000000) (bytesAt 0x90000 (idsB [0, 1, 1, 1]) (bytesAt 0x70000 blockB (mapped 2 0 7 0 (mapped 3 0 9 0 (mapped 4 0 11 0 (mapped 5 0 10 0 (at_ .nopShort)))))))))) 
theorem witness_SortCount_2_2_2_1d :
    (sBi.engineDie 0 = some 0 ∧
      sBi.sortBusy 0 = false ∧
        sBi.engineTakes 0 = true ∧
          List.find? sBi.mayBegin (arrivalOrder (sBi.sortQueue 0)) = some (opC 30) ∧
            sBi.op? (opC 30).id = some (opC 30) ∧
              (opC 30).kind = OpKind.sort (131072 : VAddr) [] [] 0 0 none none ∧ sBi.tidy)
    ∧ ((([] : List Byte) ≠ [] ∧
        blockB = [] ∧
          begun sBi blockB =
            sBi.onOp (opC 30).id fun (o : Op) =>
              { id := o.id, issue := o.issue, entry := o.entry, gid := o.gid, fid := o.fid, wid := o.wid, lane := o.lane, vlane := o.vlane,
                core := o.core, ctx := o.ctx, node := o.node, flag := o.flag, scope := o.scope, mcls := o.mcls, mdl := o.mdl, pos := o.pos,
                base := o.base, instr := o.instr, words := o.words, srcs := o.srcs, since := o.since, clock := o.clock, stage := o.stage,
                record := o.record, parks := o.parks, deferring := o.deferring, pins := o.pins, wpins := o.wpins, fids := o.fids, spoil := o.spoil,
                arrived := o.arrived, drain := o.drain, kind := o.kind : Op }) ∨
      ([] : List Byte) = [] ∧
        ((sBi.onOp (opC 30).id fun (o : Op) =>
                    { id := o.id, issue := o.issue, entry := o.entry, gid := o.gid, fid := o.fid, wid := o.wid, lane := o.lane, vlane := o.vlane,
                      core := o.core, ctx := o.ctx, node := o.node, flag := o.flag, scope := o.scope, mcls := o.mcls, mdl := o.mdl, pos := o.pos,
                      base := o.base, instr := o.instr, words := o.words, srcs := o.srcs, since := o.since, clock := o.clock, stage := o.stage,
                      record := o.record, parks := o.parks, deferring := o.deferring, pins := o.pins, wpins := o.wpins, fids := o.fids,
                      spoil := o.spoil, arrived := o.arrived, drain := o.drain, kind := o.kind : Op }).engineOpen
                (opC 30).id [(BitVec.toNat (131072 : VAddr), 128, Access.read)] =
              (true,
                sBi.onOp (opC 30).id fun (o : Op) =>
                  { id := o.id, issue := o.issue, entry := o.entry, gid := o.gid, fid := o.fid, wid := o.wid, lane := o.lane, vlane := o.vlane,
                    core := o.core, ctx := o.ctx, node := o.node, flag := o.flag, scope := o.scope, mcls := o.mcls, mdl := o.mdl, pos := o.pos,
                    base := o.base, instr := o.instr, words := o.words, srcs := o.srcs, since := o.since, clock := o.clock, stage := o.stage,
                    record := o.record, parks := o.parks, deferring := o.deferring, pins := o.pins, wpins := o.wpins, fids := o.fids,
                    spoil := o.spoil, arrived := o.arrived, drain := o.drain, kind := o.kind : Op }) ∧
            ((sBi.onOp (opC 30).id fun (o : Op) =>
                      { id := o.id, issue := o.issue, entry := o.entry, gid := o.gid, fid := o.fid, wid := o.wid, lane := o.lane, vlane := o.vlane,
                        core := o.core, ctx := o.ctx, node := o.node, flag := o.flag, scope := o.scope, mcls := o.mcls, mdl := o.mdl, pos := o.pos,
                        base := o.base, instr := o.instr, words := o.words, srcs := o.srcs, since := o.since, clock := o.clock, stage := o.stage,
                        record := o.record, parks := o.parks, deferring := o.deferring, pins := o.pins, wpins := o.wpins, fids := o.fids,
                        spoil := o.spoil, arrived := o.arrived, drain := o.drain, kind := o.kind : Op }).engineRead
                  (opC 30).id (BitVec.toNat (131072 : VAddr)) 128).snd =
              sBi.onOp (opC 30).id fun (o : Op) =>
                { id := o.id, issue := o.issue, entry := o.entry, gid := o.gid, fid := o.fid, wid := o.wid, lane := o.lane, vlane := o.vlane,
                  core := o.core, ctx := o.ctx, node := o.node, flag := o.flag, scope := o.scope, mcls := o.mcls, mdl := o.mdl, pos := o.pos,
                  base := o.base, instr := o.instr, words := o.words, srcs := o.srcs, since := o.since, clock := o.clock, stage := o.stage,
                  record := o.record, parks := o.parks, deferring := o.deferring, pins := o.pins, wpins := o.wpins, fids := o.fids, spoil := o.spoil,
                  arrived := o.arrived, drain := o.drain, kind := o.kind : Op }) ∧
          blockB =
              ((sBi.onOp (opC 30).id fun (o : Op) =>
                      { id := o.id, issue := o.issue, entry := o.entry, gid := o.gid, fid := o.fid, wid := o.wid, lane := o.lane, vlane := o.vlane,
                        core := o.core, ctx := o.ctx, node := o.node, flag := o.flag, scope := o.scope, mcls := o.mcls, mdl := o.mdl, pos := o.pos,
                        base := o.base, instr := o.instr, words := o.words, srcs := o.srcs, since := o.since, clock := o.clock, stage := o.stage,
                        record := o.record, parks := o.parks, deferring := o.deferring, pins := o.pins, wpins := o.wpins, fids := o.fids,
                        spoil := o.spoil, arrived := o.arrived, drain := o.drain, kind := o.kind : Op }).engineRead
                  (opC 30).id (BitVec.toNat (131072 : VAddr)) 128).fst ∧
            begun sBi blockB =
              (sBi.onOp (opC 30).id fun (o : Op) =>
                    { id := o.id, issue := o.issue, entry := o.entry, gid := o.gid, fid := o.fid, wid := o.wid, lane := o.lane, vlane := o.vlane,
                      core := o.core, ctx := o.ctx, node := o.node, flag := o.flag, scope := o.scope, mcls := o.mcls, mdl := o.mdl, pos := o.pos,
                      base := o.base, instr := o.instr, words := o.words, srcs := o.srcs, since := o.since, clock := o.clock, stage := o.stage,
                      record := o.record, parks := o.parks, deferring := o.deferring, pins := o.pins, wpins := o.wpins, fids := o.fids,
                      spoil := o.spoil, arrived := o.arrived, drain := o.drain, kind := o.kind : Op }).onOp
                (opC 30).id fun (o : Op) =>
                { id := o.id, issue := o.issue, entry := o.entry, gid := o.gid, fid := o.fid, wid := o.wid, lane := o.lane, vlane := o.vlane,
                  core := o.core, ctx := o.ctx, node := o.node, flag := o.flag, scope := o.scope, mcls := o.mcls, mdl := o.mdl, pos := o.pos,
                  base := o.base, instr := o.instr, words := o.words, srcs := o.srcs, since := o.since, clock := o.clock, stage := o.stage,
                  record := o.record, parks := o.parks, deferring := o.deferring, pins := o.pins, wpins := o.wpins, fids := o.fids,
                  server := o.server, spoil := o.spoil, arrived := o.arrived, drain := o.drain,
                  kind := OpKind.sort (131072 : VAddr) blockB [] 0 0 none none : Op }) :=
  by
  refine @of_decide_eq_true _ (by letI := @decTidy; infer_instance) ?_
  decide +kernel
-- completion
def doneOp (out : List (Nat × Byte)) (st : Nat) (bias : Option (Nat × List Word × Nat)) (page : Option Nat) : Op := { soOp 30 with stage := .started, kind := .sort 0x20000 [] out st 0x20080 bias page }
def sD (o : Op) := asGroup1 (flg (inFlight [o] (maps (tabled [(5, 0, 11)] (at_ .nopShort)))))
def o1 := doneOp [(0x40000, 5), (0x40001, 6)] 1 none none
theorem witness_SortCount_2_2_2_2 :
    (sD o1).op? o1.id = some o1
    ∧ o1.stage = OpStage.started
    ∧ o1.record = none
    ∧ o1.kind = OpKind.sort (131072 : VAddr) [] [(262144, (5 : Byte)), (262145, (6 : Byte))] 1 131200 none none
    ∧ (sD o1).engineOpen o1.id
        ((BitVec.toNat (131072 : VAddr) + 12, 4, Access.write) ::
          if 131200 = 0 then [] else [(131200, 4, Access.write)]) =
      (true, sD o1) :=
  by decide +kernel
def o2 := doneOp [] 1 (some (0x50000, [0x3F800000, 5], 2)) none
def sD2 := { sD o2 with ctxs := (sD o2).ctxs.map (fun (c : Ctx) => { c with pool0 := [12, 13] }) }
theorem witness_SortCount_2_2_2_2b :
    sD2.op? o2.id = some o2
    ∧ o2.stage = OpStage.started
    ∧ o2.record = none
    ∧ o2.kind = OpKind.sort (131072 : VAddr) [] [] 1 131200 (some (327680, [(1065353216 : Word), (5 : Word)], 2)) none
    ∧ sD2.engineOpen o2.id
        ((BitVec.toNat (131072 : VAddr) + 12, 4, Access.write) ::
          if 131200 = 0 then [] else [(131200, 4, Access.write)]) =
      (true, sD2) :=
  by decide +kernel
theorem witness_SortCount_2_2_2_2c :
    (sD o2).op? o2.id = some o2
    ∧ o2.stage = OpStage.started
    ∧ o2.record = none
    ∧ o2.kind = OpKind.sort (131072 : VAddr) [] [] 1 131200 (some (327680, [(1065353216 : Word), (5 : Word)], 2)) none
    ∧ (sD o2).engineOpen o2.id
        ((BitVec.toNat (131072 : VAddr) + 12, 4, Access.write) ::
          if 131200 = 0 then [] else [(131200, 4, Access.write)]) =
      (true, sD o2) :=
  by decide +kernel
def o3 := doneOp [] 1 none (some 0x50000)
def sD3 := inFlight [{ loadOp with id := 4, gid := 1, pins := [(0x50000, 0xB0000, 0)] }] (sD o3)
theorem witness_SortCount_2_2_2_2d :
    sD3.op? o3.id = some o3
    ∧ o3.stage = OpStage.started
    ∧ o3.record = none
    ∧ o3.kind = OpKind.sort (131072 : VAddr) [] [] 1 131200 none (some 327680)
    ∧ sD3.engineOpen o3.id
        ((BitVec.toNat (131072 : VAddr) + 12, 4, Access.write) ::
          if 131200 = 0 then [] else [(131200, 4, Access.write)]) =
      (true, sD3) :=
  by decide +kernel
def o4 := doneOp [] 0x101 none none
theorem witness_SortCount_2_2_2_2e :
    (sD o4).op? o4.id = some o4
    ∧ o4.stage = OpStage.started
    ∧ o4.record = none
    ∧ o4.kind = OpKind.sort (131072 : VAddr) [] [] 257 131200 none none
    ∧ (sD o4).engineOpen o4.id
        ((BitVec.toNat (131072 : VAddr) + 12, 4, Access.write) ::
          if 131200 = 0 then [] else [(131200, 4, Access.write)]) =
      (true, sD o4) :=
  by decide +kernel
def o5 := { o4 with gid := 0 }
def sD5 := inFlight [o5] (maps (at_ .nopShort))
theorem witness_SortCount_2_2_2_2f :
    sD5.op? o5.id = some o5
    ∧ o5.stage = OpStage.started
    ∧ o5.record = none
    ∧ o5.kind = OpKind.sort (131072 : VAddr) [] [] 257 131200 none none
    ∧ sD5.engineOpen o5.id
        ((BitVec.toNat (131072 : VAddr) + 12, 4, Access.write) ::
          if 131200 = 0 then [] else [(131200, 4, Access.write)]) =
      (true, sD5) :=
  by decide +kernel

end W18

/-! ## Premises met: `Obligations.Caravans` -/

namespace W19

def flg (s : State) := byFibre (fun f => { f with flags := [(2, 2)] }) s
def flagged2 (s : State) := byWarp (fun (w : Warp) => { w with active := w.active.map (fun (a : Active) => { a with header := soloHeader 2 - 15 * 2 ^ 21 + 2 * 2 ^ 21 }) }) (flg s)
def rr (l : Nat) : Sparse Word := [(4, BitVec.ofNat 32 (0x10000 + 256 * l)), (8, 0x20040), (10, 32), (12, 8)]
def iC : Instr := .carsend always (.v 10) (.v 4) (.v 6) (.v 8) true false
def sC : State := mapped 2 0 7 0 (flagged2 (fourAt iC rr))
theorem witness_Caravans_1 :
    Issues sC
      (Instr.carsend always (Reg.v (10 : Fin 608)) (Reg.v (4 : Fin 608)) (Reg.v (6 : Fin 608)) (Reg.v (8 : Fin 608))
        true false)
      (wOf sC) (aOf sC) (gOf sC) (xOf sC iC) [] []
    ∧ NoOpenOperand
      (Instr.carsend always (Reg.v (10 : Fin 608)) (Reg.v (4 : Fin 608)) (Reg.v (6 : Fin 608)) (Reg.v (8 : Fin 608))
        true false)
      (gOf sC) (xOf sC iC) []
    ∧ xOf sC iC ≠ []
    ∧ ((sC.carQueue ((wOf sC).wid / 48 / 64)).length + (xOf sC iC).length ≤ 256 ∧
      ∀ (f : Fibre),
        f ∈ xOf sC iC →
          (BitVec.toNat (f.word (gOf sC) (Reg.v (10 : Fin 608))) % 16 = 0 ∧
              BitVec.toNat (f.word (gOf sC) (Reg.v (10 : Fin 608))) ≠ 0 ∧
                BitVec.toNat (f.word (gOf sC) (Reg.v (10 : Fin 608))) ≤ 32768 ∧
                  BitVec.toNat (f.pair (gOf sC) (Reg.v (4 : Fin 608))) % 2 ^ 52 % 16 = 0 ∧
                    BitVec.toNat (f.pair (gOf sC) (Reg.v (8 : Fin 608))) % 2 ^ 52 % 64 = 0 ∧
                      (false = true →
                        BitVec.toNat (f.pair (gOf sC) (Reg.v (4 : Fin 608))) % 2 ^ 52 +
                            BitVec.toNat (f.word (gOf sC) (Reg.v (10 : Fin 608))) ≤
                          (gOf sC).scratch)) ∧
            (∃ (p : Nat × Nat),
                sC.translate [TlbPlace.die ((wOf sC).wid / 48 / 64)] (gOf sC).ctx
                      (BitVec.toNat (f.pair (gOf sC) (Reg.v (8 : Fin 608))) % 2 ^ 52) Access.write =
                    (Except.ok p, sC) ∧
                  p.fst / 2 ^ 48 ≠ 2) ∧
              sC.mustStage (gOf sC).ctx (gOf sC).node
                  (BitVec.toNat (f.pair (gOf sC) (Reg.v (8 : Fin 608))) % 2 ^ 52 / 65536) =
                none) :=
  by
  refine @of_decide_eq_true _ (by letI := @decIssues; letI := @decNoOpen; letI := @decOkAnd; infer_instance) ?_
  decide +kernel
def iT : Instr := .carsend always (.v 12) (.v 4) (.v 6) (.v 8) true false
def sT : State := mapped 2 0 7 0 (at_ iT (rr 0))
theorem witness_Caravans_2_1 :
    Issues sT
      (Instr.carsend always (Reg.v (12 : Fin 608)) (Reg.v (4 : Fin 608)) (Reg.v (6 : Fin 608)) (Reg.v (8 : Fin 608))
        true false)
      (wOf sT) (aOf sT) (gOf sT) ([] ++ [x0 sT iT]) [] []
    ∧ (∀ (k : Fibre),
      k ∈ [] →
        (BitVec.toNat (k.word (gOf sT) (Reg.v (12 : Fin 608))) % 16 = 0 ∧
            BitVec.toNat (k.word (gOf sT) (Reg.v (12 : Fin 608))) ≠ 0 ∧
              BitVec.toNat (k.word (gOf sT) (Reg.v (12 : Fin 608))) ≤ 32768 ∧
                BitVec.toNat (k.pair (gOf sT) (Reg.v (4 : Fin 608))) % 2 ^ 52 % 16 = 0 ∧
                  BitVec.toNat (k.pair (gOf sT) (Reg.v (8 : Fin 608))) % 2 ^ 52 % 64 = 0 ∧
                    (false = true →
                      BitVec.toNat (k.pair (gOf sT) (Reg.v (4 : Fin 608))) % 2 ^ 52 +
                          BitVec.toNat (k.word (gOf sT) (Reg.v (12 : Fin 608))) ≤
                        (gOf sT).scratch)) ∧
          ∃ (p : Nat × Nat),
            sT.translate [TlbPlace.die ((wOf sT).wid / 48 / 64)] (gOf sT).ctx
                  (BitVec.toNat (k.pair (gOf sT) (Reg.v (8 : Fin 608))) % 2 ^ 52) Access.write =
                (Except.ok p, sT) ∧
              p.fst / 2 ^ 48 ≠ 2)
    ∧ (¬(BitVec.toNat ((x0 sT iT).word (gOf sT) (Reg.v (12 : Fin 608))) % 16 = 0 ∧
          BitVec.toNat ((x0 sT iT).word (gOf sT) (Reg.v (12 : Fin 608))) ≠ 0 ∧
            BitVec.toNat ((x0 sT iT).word (gOf sT) (Reg.v (12 : Fin 608))) ≤ 32768 ∧
              BitVec.toNat ((x0 sT iT).pair (gOf sT) (Reg.v (4 : Fin 608))) % 2 ^ 52 % 16 = 0 ∧
                BitVec.toNat ((x0 sT iT).pair (gOf sT) (Reg.v (8 : Fin 608))) % 2 ^ 52 % 64 = 0 ∧
                  (false = true →
                    BitVec.toNat ((x0 sT iT).pair (gOf sT) (Reg.v (4 : Fin 608))) % 2 ^ 52 +
                        BitVec.toNat ((x0 sT iT).word (gOf sT) (Reg.v (12 : Fin 608))) ≤
                      (gOf sT).scratch)) ∨
      ∃ (p : Nat × Nat),
        ∃ (t : State),
          sT.translate [TlbPlace.die ((wOf sT).wid / 48 / 64)] (gOf sT).ctx
                (BitVec.toNat ((x0 sT iT).pair (gOf sT) (Reg.v (8 : Fin 608))) % 2 ^ 52) Access.write =
              (Except.ok p, t) ∧
            p.fst / 2 ^ 48 = 2) :=
  by
  refine @of_decide_eq_true _ (by letI := @decIssues; letI := @decOkAnd; letI := @decOkAny; infer_instance) ?_
  decide +kernel
/-- The header with the checksum of R300 in its low 12 bits. -/
def signed (v : Nat) : DWord :=
  let body : DWord := BitVec.ofNat 64 (v * 2 ^ 12)
  body + BitVec.ofNat 64 ((List.range 52).foldl (fun c i => ((c * 2) % 4096) ^^^ (if c / 2048 = body.toNat / 2 ^ (63 - i) % 2 then 0 else 0x80F)) 0)
def carOp (id : Nat) (st : OpStage) (bs : List Byte) (k : Nat) : Op :=
  { loadOp with id := id, issue := id, gid := 1, flag := some 2, stage := st, kind := .caravan .g 0x10000 32 0x5000 0x20040 bs k,
                pins := [(0x10000, 0x50000, 0)], wpins := [(0x20000, 0x70000, 0)] }
def sQ : State := inFlight ((List.range 256).map (fun k => { carOp (k + 20) .issued [] 0 with gid := 0 })) (mapped 2 0 7 0 (at_ iC (rr 0)))
theorem witness_Caravans_2_1b :
    Issues sQ
      (Instr.carsend always (Reg.v (10 : Fin 608)) (Reg.v (4 : Fin 608)) (Reg.v (6 : Fin 608)) (Reg.v (8 : Fin 608))
        true false)
      (wOf sQ) (aOf sQ) (gOf sQ) ([] ++ [x0 sQ iC]) [] []
    ∧ (∀ (k : Fibre),
      k ∈ [] →
        (BitVec.toNat (k.word (gOf sQ) (Reg.v (10 : Fin 608))) % 16 = 0 ∧
            BitVec.toNat (k.word (gOf sQ) (Reg.v (10 : Fin 608))) ≠ 0 ∧
              BitVec.toNat (k.word (gOf sQ) (Reg.v (10 : Fin 608))) ≤ 32768 ∧
                BitVec.toNat (k.pair (gOf sQ) (Reg.v (4 : Fin 608))) % 2 ^ 52 % 16 = 0 ∧
                  BitVec.toNat (k.pair (gOf sQ) (Reg.v (8 : Fin 608))) % 2 ^ 52 % 64 = 0 ∧
                    (false = true →
                      BitVec.toNat (k.pair (gOf sQ) (Reg.v (4 : Fin 608))) % 2 ^ 52 +
                          BitVec.toNat (k.word (gOf sQ) (Reg.v (10 : Fin 608))) ≤
                        (gOf sQ).scratch)) ∧
          ∃ (p : Nat × Nat),
            sQ.translate [TlbPlace.die ((wOf sQ).wid / 48 / 64)] (gOf sQ).ctx
                  (BitVec.toNat (k.pair (gOf sQ) (Reg.v (8 : Fin 608))) % 2 ^ 52) Access.write =
                (Except.ok p, sQ) ∧
              p.fst / 2 ^ 48 ≠ 2)
    ∧ (∀ (k : Fibre),
      k ∈ [x0 sQ iC] →
        (BitVec.toNat (k.word (gOf sQ) (Reg.v (10 : Fin 608))) % 16 = 0 ∧
            BitVec.toNat (k.word (gOf sQ) (Reg.v (10 : Fin 608))) ≠ 0 ∧
              BitVec.toNat (k.word (gOf sQ) (Reg.v (10 : Fin 608))) ≤ 32768 ∧
                BitVec.toNat (k.pair (gOf sQ) (Reg.v (4 : Fin 608))) % 2 ^ 52 % 16 = 0 ∧
                  BitVec.toNat (k.pair (gOf sQ) (Reg.v (8 : Fin 608))) % 2 ^ 52 % 64 = 0 ∧
                    (false = true →
                      BitVec.toNat (k.pair (gOf sQ) (Reg.v (4 : Fin 608))) % 2 ^ 52 +
                          BitVec.toNat (k.word (gOf sQ) (Reg.v (10 : Fin 608))) ≤
                        (gOf sQ).scratch)) ∧
          ∃ (p : Nat × Nat),
            sQ.translate [TlbPlace.die ((wOf sQ).wid / 48 / 64)] (gOf sQ).ctx
                  (BitVec.toNat (k.pair (gOf sQ) (Reg.v (8 : Fin 608))) % 2 ^ 52) Access.write =
                (Except.ok p, sQ) ∧
              p.fst / 2 ^ 48 ≠ 2)
    ∧ 256 ≤ (sQ.carQueue ((wOf sQ).wid / 48 / 64)).length :=
  by
  refine @of_decide_eq_true _ (by letI := @decIssues; letI := @decOkAnd; infer_instance) ?_
  decide +kernel
def bytes32 : List Byte := (List.range 32).map (fun i => BitVec.ofNat 8 (i + 1))
/-- A receive buffer of four slots of 64 bytes at 0x20100, with `fill` slots taken. -/
def buffer (fill : Nat) : List Byte := bytesOf 4 fill ++ bytesOf 4 4 ++ bytesOf 4 64 ++ bytesOf 4 9 ++ bytesOf 8 0x20100
def arrives (fill : Nat) (l : List Op) : State :=
  asGroup1 (inFlight l (bytesAt 0x70040 (buffer fill) (bytesAt 0x50000 bytes32 (mapped 2 0 7 0 (mapped 1 0 5 0 (flg (at_ .nopShort)))))))
def sE : State := arrives 0 [carOp 20 .issued [] 0, carOp 21 .issued [] 0]
theorem witness_Caravans_2_2_1 :
    sE.op? (carOp 21 OpStage.issued [] 0).id = some (carOp 21 OpStage.issued [] 0)
    ∧ (carOp 21 OpStage.issued [] 0).kind = OpKind.caravan Space.g 65536 32 (20480 : DWord) (131136 : VAddr) [] 0
    ∧ (carOp 21 OpStage.issued [] 0).stage = OpStage.issued
    ∧ (∃ (p : Nat × Nat),
      pinned (carOp 21 OpStage.issued [] 0).wpins (BitVec.toNat (131136 : VAddr)) = some p ∧
        p.fst / 2 ^ 48 ≠ 2)
    ∧ sE.carDue (carOp 21 OpStage.issued [] 0) = false :=
  by
  refine @of_decide_eq_true _ (by letI := @decSome; infer_instance) ?_
  decide +kernel
theorem witness_Caravans_2_2_1b :
    sE.op? (carOp 20 OpStage.issued [] 0).id = some (carOp 20 OpStage.issued [] 0)
    ∧ (carOp 20 OpStage.issued [] 0).kind = OpKind.caravan Space.g 65536 32 (20480 : DWord) (131136 : VAddr) [] 0
    ∧ (carOp 20 OpStage.issued [] 0).stage = OpStage.issued
    ∧ (∃ (p : Nat × Nat),
      pinned (carOp 20 OpStage.issued [] 0).wpins (BitVec.toNat (131136 : VAddr)) = some p ∧
        p.fst / 2 ^ 48 ≠ 2)
    ∧ sE.carDue (carOp 20 OpStage.issued [] 0) = true
    ∧ sE.engineOpen (carOp 20 OpStage.issued [] 0).id
        [(BitVec.toNat (131136 : VAddr), 64, Access.write), (65536, 32, Access.read)] =
      (true, sE)
    ∧ (bytes32.length = 32 ∧
      ∀ (i : Nat),
        i < 32 →
          ∃ (p : Nat),
            ∃ (q : Nat),
              pinned (carOp 20 OpStage.issued [] 0).pins ((65536 + i) % 2 ^ 52) = some (p, q) ∧
                sE.defined q p ∧ bytes32[i]? = some (sE.readByte q p).fst) :=
  by
  refine @of_decide_eq_true _ (by letI := @decDefined; letI := @decSome; letI := @decSomePair; infer_instance) ?_
  decide +kernel
def sF : State := arrives 4 [carOp 20 .started bytes32 0]
theorem witness_Caravans_2_2_2_1 :
    sF.op? (carOp 20 OpStage.started bytes32 0).id = some (carOp 20 OpStage.started bytes32 0)
    ∧ (carOp 20 OpStage.started bytes32 0).kind =
      OpKind.caravan Space.g 65536 32 (20480 : DWord) (131136 : VAddr) bytes32 0
    ∧ (carOp 20 OpStage.started bytes32 0).stage = OpStage.started
    ∧ (carOp 20 OpStage.started bytes32 0).record = none
    ∧ (carOp 20 OpStage.started bytes32 0).drain = none
    ∧ sF.carBehind (carOp 20 OpStage.started bytes32 0) = false
    ∧ sF.carWriting 458816 = false
    ∧ pinned (carOp 20 OpStage.started bytes32 0).wpins (BitVec.toNat (131136 : VAddr)) = some (458816, 0)
    ∧ (bytes32.length = 32 ∧
      ∀ (i : Nat),
        i < 32 →
          ∃ (p : Nat),
            ∃ (q : Nat),
              pinned (carOp 20 OpStage.started bytes32 0).pins ((65536 + i) % 2 ^ 52) = some (p, q) ∧
                sF.defined q p ∧ bytes32[i]? = some (sF.readByte q p).fst)
    ∧ sF.dev.elog = (0 : DWord)
    ∧ sF.tidy
    ∧ storage 458816 = Storage.dram
    ∧ swf 0 sF.dev.quarantine = true
    ∧ (∀ (i : Nat), i < 64 → sF.defined 0 (458816 + i))
    ∧ List.foldl
        (fun (c i : Nat) =>
          c * 2 % 4096 ^^^
            if c / 2048 = BitVec.toNat (signed 5) / 2 ^ (63 - i) % 2 then 0 else 2063)
        0 (List.range 52) =
      BitVec.toNat (signed 5) % 4096
    ∧ (¬((1 ≤
            natOf
              (List.take 4
                (List.drop 4 (List.map (fun (i : Nat) => (sF.readByte 0 (458816 + i)).fst) (List.range 64)))) ∧
          natOf
                (List.take 4
                  (List.drop 4 (List.map (fun (i : Nat) => (sF.readByte 0 (458816 + i)).fst) (List.range 64)))) ≤
              2 ^ 21 ∧
            natOf
                    (List.take 4
                      (List.drop 8 (List.map (fun (i : Nat) => (sF.readByte 0 (458816 + i)).fst) (List.range 64)))) %
                  16 =
                0 ∧
              32 ≤
                  natOf
                    (List.take 4
                      (List.drop 8 (List.map (fun (i : Nat) => (sF.readByte 0 (458816 + i)).fst) (List.range 64)))) ∧
                natOf
                      (List.take 4
                        (List.drop 8
                          (List.map (fun (i : Nat) => (sF.readByte 0 (458816 + i)).fst) (List.range 64)))) ≤
                    32784 ∧
                  natOf
                        (List.take 8
                          (List.drop 16
                            (List.map (fun (i : Nat) => (sF.readByte 0 (458816 + i)).fst) (List.range 64)))) %
                      16 =
                    0) ∧
        natOf
              (List.take 4
                (List.drop 0 (List.map (fun (i : Nat) => (sF.readByte 0 (458816 + i)).fst) (List.range 64)))) <
            natOf
              (List.take 4
                (List.drop 4 (List.map (fun (i : Nat) => (sF.readByte 0 (458816 + i)).fst) (List.range 64)))) ∧
          32 + 16 ≤
            natOf
              (List.take 4
                (List.drop 8 (List.map (fun (i : Nat) => (sF.readByte 0 (458816 + i)).fst) (List.range 64)))))) :=
  by
  refine @of_decide_eq_true _ (by letI := @decDefined; letI := @decSomePair; letI := @decTidy; infer_instance) ?_
  decide +kernel
def sG : State := arrives 3 [carOp 20 .started bytes32 0]
theorem witness_Caravans_2_2_2_1b :
    sG.op? (carOp 20 OpStage.started bytes32 0).id = some (carOp 20 OpStage.started bytes32 0)
    ∧ (carOp 20 OpStage.started bytes32 0).kind =
      OpKind.caravan Space.g 65536 32 (20480 : DWord) (131136 : VAddr) bytes32 0
    ∧ (carOp 20 OpStage.started bytes32 0).stage = OpStage.started
    ∧ (carOp 20 OpStage.started bytes32 0).record = none
    ∧ (carOp 20 OpStage.started bytes32 0).drain = none
    ∧ sG.carBehind (carOp 20 OpStage.started bytes32 0) = false
    ∧ sG.carWriting 458816 = false
    ∧ pinned (carOp 20 OpStage.started bytes32 0).wpins (BitVec.toNat (131136 : VAddr)) = some (458816, 0)
    ∧ (bytes32.length = 32 ∧
      ∀ (i : Nat),
        i < 32 →
          ∃ (p : Nat),
            ∃ (q : Nat),
              pinned (carOp 20 OpStage.started bytes32 0).pins ((65536 + i) % 2 ^ 52) = some (p, q) ∧
                sG.defined q p ∧ bytes32[i]? = some (sG.readByte q p).fst)
    ∧ sG.dev.elog = (0 : DWord)
    ∧ sG.tidy
    ∧ storage 458816 = Storage.dram
    ∧ swf 0 sG.dev.quarantine = true
    ∧ (∀ (i : Nat), i < 64 → sG.defined 0 (458816 + i))
    ∧ List.foldl
        (fun (c i : Nat) =>
          c * 2 % 4096 ^^^
            if c / 2048 = BitVec.toNat (signed 5) / 2 ^ (63 - i) % 2 then 0 else 2063)
        0 (List.range 52) =
      BitVec.toNat (signed 5) % 4096
    ∧ ((1 ≤
          natOf
            (List.take 4
              (List.drop 4 (List.map (fun (i : Nat) => (sG.readByte 0 (458816 + i)).fst) (List.range 64)))) ∧
        natOf
              (List.take 4
                (List.drop 4 (List.map (fun (i : Nat) => (sG.readByte 0 (458816 + i)).fst) (List.range 64)))) ≤
            2 ^ 21 ∧
          natOf
                  (List.take 4
                    (List.drop 8 (List.map (fun (i : Nat) => (sG.readByte 0 (458816 + i)).fst) (List.range 64)))) %
                16 =
              0 ∧
            32 ≤
                natOf
                  (List.take 4
                    (List.drop 8 (List.map (fun (i : Nat) => (sG.readByte 0 (458816 + i)).fst) (List.range 64)))) ∧
              natOf
                    (List.take 4
                      (List.drop 8 (List.map (fun (i : Nat) => (sG.readByte 0 (458816 + i)).fst) (List.range 64)))) ≤
                  32784 ∧
                natOf
                      (List.take 8
                        (List.drop 16
                          (List.map (fun (i : Nat) => (sG.readByte 0 (458816 + i)).fst) (List.range 64)))) %
                    16 =
                  0) ∧
      natOf
            (List.take 4
              (List.drop 0 (List.map (fun (i : Nat) => (sG.readByte 0 (458816 + i)).fst) (List.range 64)))) <
          natOf
            (List.take 4
              (List.drop 4 (List.map (fun (i : Nat) => (sG.readByte 0 (458816 + i)).fst) (List.range 64)))) ∧
        32 + 16 ≤
          natOf
            (List.take 4
              (List.drop 8 (List.map (fun (i : Nat) => (sG.readByte 0 (458816 + i)).fst) (List.range 64)))))
    ∧ 32 % 16 = 0
    ∧ sG.engineOpen (carOp 20 OpStage.started bytes32 0).id
        [((natOf
                    (List.take 8
                      (List.drop 16 (List.map (fun (i : Nat) => (sG.readByte 0 (458816 + i)).fst) (List.range 64)))) %
                  2 ^ 52 +
                natOf
                    (List.take 4
                      (List.drop 0 (List.map (fun (i : Nat) => (sG.readByte 0 (458816 + i)).fst) (List.range 64)))) *
                  natOf
                    (List.take 4
                      (List.drop 8 (List.map (fun (i : Nat) => (sG.readByte 0 (458816 + i)).fst) (List.range 64))))) %
              2 ^ 52,
            32 + 16, Access.write)] =
      (true, sG)
    ∧ (∀ (i : Nat),
      i < 32 + 16 →
        pinned (carOp 20 OpStage.started bytes32 0).wpins
            (((natOf
                        (List.take 8
                          (List.drop 16
                            (List.map (fun (i : Nat) => (sG.readByte 0 (458816 + i)).fst) (List.range 64)))) %
                      2 ^ 52 +
                    natOf
                        (List.take 4
                          (List.drop 0
                            (List.map (fun (i : Nat) => (sG.readByte 0 (458816 + i)).fst) (List.range 64)))) *
                      natOf
                        (List.take 4
                          (List.drop 8
                            (List.map (fun (i : Nat) => (sG.readByte 0 (458816 + i)).fst) (List.range 64))))) %
                  2 ^ 52 +
                i) %
              2 ^ 52) =
          some (459200 + i, 0))
    ∧ (∀ (i : Nat),
      i < 4 →
        pinned (carOp 20 OpStage.started bytes32 0).wpins ((BitVec.toNat (131136 : VAddr) + i) % 2 ^ 52) =
          some (458816 + i, 0)) :=
  by
  refine @of_decide_eq_true _ (by letI := @decDefined; letI := @decSomePair; letI := @decTidy; infer_instance) ?_
  decide +kernel
theorem witness_Caravans_2_2_2_1c :
    sF.op? (carOp 20 OpStage.started bytes32 0).id = some (carOp 20 OpStage.started bytes32 0)
    ∧ (carOp 20 OpStage.started bytes32 0).kind =
      OpKind.caravan Space.g 65536 32 (20480 : DWord) (131136 : VAddr) bytes32 0
    ∧ (carOp 20 OpStage.started bytes32 0).stage = OpStage.started
    ∧ (carOp 20 OpStage.started bytes32 0).record = none
    ∧ (carOp 20 OpStage.started bytes32 0).drain = none
    ∧ sF.carBehind (carOp 20 OpStage.started bytes32 0) = false
    ∧ sF.carWriting 458816 = false
    ∧ pinned (carOp 20 OpStage.started bytes32 0).wpins (BitVec.toNat (131136 : VAddr)) = some (458816, 0)
    ∧ (bytes32.length = 32 ∧
      ∀ (i : Nat),
        i < 32 →
          ∃ (p : Nat),
            ∃ (q : Nat),
              pinned (carOp 20 OpStage.started bytes32 0).pins ((65536 + i) % 2 ^ 52) = some (p, q) ∧
                sF.defined q p ∧ bytes32[i]? = some (sF.readByte q p).fst)
    ∧ sF.dev.elog = (0 : DWord)
    ∧ sF.tidy
    ∧ storage 458816 = Storage.dram
    ∧ swf 0 sF.dev.quarantine = true
    ∧ (∀ (i : Nat), i < 64 → sF.defined 0 (458816 + i))
    ∧ ¬List.foldl
          (fun (c i : Nat) =>
            c * 2 % 4096 ^^^
              if c / 2048 = BitVec.toNat (signed 5 + (1 : DWord)) / 2 ^ (63 - i) % 2 then 0
              else 2063)
          0 (List.range 52) =
        BitVec.toNat (signed 5 + (1 : DWord)) % 4096
    ∧ 0 < 3 :=
  by
  refine @of_decide_eq_true _ (by letI := @decDefined; letI := @decSomePair; letI := @decTidy; infer_instance) ?_
  decide +kernel
def sH : State := arrives 0 [carOp 20 .started bytes32 3]
theorem witness_Caravans_2_2_2_1d :
    sH.op? (carOp 20 OpStage.started bytes32 3).id = some (carOp 20 OpStage.started bytes32 3)
    ∧ (carOp 20 OpStage.started bytes32 3).kind =
      OpKind.caravan Space.g 65536 32 (20480 : DWord) (131136 : VAddr) bytes32 3
    ∧ (carOp 20 OpStage.started bytes32 3).stage = OpStage.started
    ∧ (carOp 20 OpStage.started bytes32 3).record = none
    ∧ (carOp 20 OpStage.started bytes32 3).drain = none
    ∧ sH.carBehind (carOp 20 OpStage.started bytes32 3) = false
    ∧ sH.carWriting 458816 = false
    ∧ pinned (carOp 20 OpStage.started bytes32 3).wpins (BitVec.toNat (131136 : VAddr)) = some (458816, 0)
    ∧ (bytes32.length = 32 ∧
      ∀ (i : Nat),
        i < 32 →
          ∃ (p : Nat),
            ∃ (q : Nat),
              pinned (carOp 20 OpStage.started bytes32 3).pins ((65536 + i) % 2 ^ 52) = some (p, q) ∧
                sH.defined q p ∧ bytes32[i]? = some (sH.readByte q p).fst)
    ∧ sH.dev.elog = (0 : DWord)
    ∧ sH.tidy
    ∧ storage 458816 = Storage.dram
    ∧ swf 0 sH.dev.quarantine = true
    ∧ (∀ (i : Nat), i < 64 → sH.defined 0 (458816 + i))
    ∧ ¬List.foldl
          (fun (c i : Nat) =>
            c * 2 % 4096 ^^^
              if c / 2048 = BitVec.toNat (signed 5 + (1 : DWord)) / 2 ^ (63 - i) % 2 then 0
              else 2063)
          0 (List.range 52) =
        BitVec.toNat (signed 5 + (1 : DWord)) % 4096
    ∧ 3 ≤ 3 :=
  by
  refine @of_decide_eq_true _ (by letI := @decDefined; letI := @decSomePair; letI := @decTidy; infer_instance) ?_
  decide +kernel
def sB : State := arrives 0 [carOp 20 .started bytes32 0, carOp 21 .started bytes32 0]
theorem witness_Caravans_2_2_2_2 :
    sB.op? (carOp 21 OpStage.started bytes32 0).id = some (carOp 21 OpStage.started bytes32 0)
    ∧ (carOp 21 OpStage.started bytes32 0).kind =
      OpKind.caravan Space.g 65536 32 (20480 : DWord) (131136 : VAddr) bytes32 0
    ∧ (carOp 21 OpStage.started bytes32 0).stage = OpStage.started
    ∧ (carOp 21 OpStage.started bytes32 0).drain = none
    ∧ sB.carBehind (carOp 21 OpStage.started bytes32 0) = true :=
  by decide +kernel

end W19

/-! ## Premises met: `Obligations.StepRunsTheInstruction`, `Obligations.NothingStops`, `Obligations.TrapMasksAndRaising`, `Obligations.BootSteps`,
`Obligations.KeysAndInvalidation`, `Obligations.ManagementAndAttestation`, `Obligations.PowerAndMargins`, `Obligations.PeersAndDriver` -/

namespace W20

/-- Reset, with the device's registers changed. -/
def dev_ (u : Device → Device) : State := { State.reset with dev := u State.reset.dev }
def sI : State := { at_ .nopShort with agenda := [.issue 0, .idle 1] }
theorem witness_StepRuns_1 :
    sI.agenda = [Turn.issue 0, Turn.idle 1]
    ∧ sI.dev.trip = false
    ∧ sI.warp? 0 = some (w0 sI)
    ∧ (∃ (t : Active), (w0 sI).active = some t)
    ∧ decode (List.flatMap bytesOfWord (List.drop ((w0 sI).active.getD default).off ((w0 sI).active.getD default).words)) =
      Except.ok
        (Instr.nopShort,
          List.drop 4 (List.flatMap bytesOfWord (List.drop ((w0 sI).active.getD default).off ((w0 sI).active.getD default).words))) :=
  by
  refine @of_decide_eq_true _ (by letI := @decDecode; letI := @decIs; infer_instance) ?_
  decide +kernel
def sU : State := { State.reset with agenda := [.unit .powerTransitionComplete] }
theorem witness_StepRuns_2_1 :
    sU.agenda = [Turn.unit Instr.powerTransitionComplete]
    ∧ sU.dev.trip = false
    ∧ Instr.powerTransitionComplete.isInstruction = false :=
  by decide +kernel
def sT : State := { dev_ (fun d => { d with trip := true }) with agenda := [.issue 3] }
theorem witness_StepRuns_2_2_1 :
    sT.agenda = [Turn.issue 3]
    ∧ sT.dev.trip = true :=
  by decide +kernel
def sN : State := { State.reset with agenda := [.idle 5] }
theorem witness_StepRuns_2_2_2_1 :
    sN.agenda = [Turn.idle 5] :=
  by decide +kernel
def sM : State := dev_ (fun d => { d with busy := true })
theorem witness_StepRuns_2_2_2_2_1 :
    sM.agenda = []
    ∧ List.find? sM.stirs sM.moves = some (Turn.unit Instr.powerTransitionComplete) :=
  by decide +kernel
theorem witness_StepRuns_2_2_2_2_2 :
    State.reset.agenda = []
    ∧ List.find? State.reset.stirs State.reset.moves = none :=
  by decide +kernel
def sX : State := at_ .nopShort
theorem witness_NothingStops_1 :
    sX.cur.bind sX.warp? = some (w0 sX)
    ∧ (∃ (t : Active), (w0 sX).active = some t)
    ∧ sX.group? (w0 sX).gid = some (g0 sX) :=
  by
  refine @of_decide_eq_true _ (by letI := @decIs; infer_instance) ?_
  decide +kernel
theorem witness_NothingStops_2 :
    Instr.powerTransitionComplete.isInstruction = false :=
  by decide +kernel
theorem witness_UndefinedInstructions :
    sX.cur.bind sX.warp? = some (w0 sX)
    ∧ (∃ (t : Active), (w0 sX).active = some t)
    ∧ sX.group? (w0 sX).gid = some (g0 sX)
    ∧ (sX.ops.any fun (o : Op) =>
        o.parks && decide (o.gid = (w0 sX).gid) && ((w0 sX).bundle ((w0 sX).active.getD default)).any fun (f : Fibre) => decide (f.id = o.fid)) =
      false
    ∧ (w0 sX).replayTrap = none
    ∧ (w0 sX).bundle ((w0 sX).active.getD default) ≠ [] :=
  by
  refine @of_decide_eq_true _ (by letI := @decIs; infer_instance) ?_
  decide +kernel
def img : FirmwareImage := ⟨[1], [2], [3]⟩
theorem witness_BootSteps_1 :
    (dev_ fun (d : Device) =>
            { boot := BootPhase.ready, bootFailed := d.bootFailed, measures := d.measures, modnum := d.modnum, tiermode := d.tiermode,
              opcmd := d.opcmd, opstate := d.opstate, opTarget := d.opTarget, busy := d.busy, result := d.result, trip := d.trip,
              tripEnds := d.tripEnds, temps := d.temps, opsOut := d.opsOut, mreview := d.mreview, attcmd := d.attcmd, reviewBusy := d.reviewBusy,
              reviewResult := d.reviewResult, reviewReport := d.reviewReport, keyret := d.keyret, invctx := d.invctx, invva := d.invva,
              invvah := d.invvah, invpages := d.invpages, invdone := d.invdone, invs := d.invs, elog := d.elog, route0 := d.route0,
              route1 := d.route1, links := d.links, nonce := d.nonce, attbuf := d.attbuf, attNonceIn := d.attNonceIn, attBufIn := d.attBufIn,
              attBusy := d.attBusy, attFailed := d.attFailed, quarantine := d.quarantine, absent := d.absent, chipLost := d.chipLost :
              Device }).dev.boot ≠
      BootPhase.before :=
  by decide +kernel
theorem witness_BootSteps_2_1 :
    State.reset.dev.boot = BootPhase.before
    ∧ (∀ (i : FirmwareImage), i ∈ [] → shake256 i.key Config.fusedDigest.length = Config.fusedDigest ∧ Config.slhVerify i.key i.image i.sig = true) :=
  by decide +kernel
theorem witness_BootSteps_2_2_2_1 :
    State.reset.dev.boot ≠ BootPhase.hold :=
  by decide +kernel
theorem witness_BootSteps_2_2_2_2_1 :
    (dev_ fun (d : Device) =>
            { boot := BootPhase.hold, bootFailed := d.bootFailed, measures := d.measures, modnum := d.modnum, tiermode := d.tiermode,
              opcmd := d.opcmd, opstate := d.opstate, opTarget := d.opTarget, busy := d.busy, result := d.result, trip := d.trip,
              tripEnds := d.tripEnds, temps := d.temps, opsOut := d.opsOut, mreview := d.mreview, attcmd := d.attcmd, reviewBusy := d.reviewBusy,
              reviewResult := d.reviewResult, reviewReport := d.reviewReport, keyret := d.keyret, invctx := d.invctx, invva := d.invva,
              invvah := d.invvah, invpages := d.invpages, invdone := d.invdone, invs := d.invs, elog := d.elog, route0 := d.route0,
              route1 := d.route1, links := d.links, nonce := d.nonce, attbuf := d.attbuf, attNonceIn := d.attNonceIn, attBufIn := d.attBufIn,
              attBusy := d.attBusy, attFailed := d.attFailed, quarantine := d.quarantine, absent := d.absent, chipLost := d.chipLost :
              Device }).dev.boot =
      BootPhase.hold
    ∧ swf { : MemStack }
        (dev_ fun (d : Device) =>
            { boot := BootPhase.hold, bootFailed := d.bootFailed, measures := d.measures, modnum := d.modnum, tiermode := d.tiermode,
              opcmd := d.opcmd, opstate := d.opstate, opTarget := d.opTarget, busy := d.busy, result := d.result, trip := d.trip,
              tripEnds := d.tripEnds, temps := d.temps, opsOut := d.opsOut, mreview := d.mreview, attcmd := d.attcmd, reviewBusy := d.reviewBusy,
              reviewResult := d.reviewResult, reviewReport := d.reviewReport, keyret := d.keyret, invctx := d.invctx, invva := d.invva,
              invvah := d.invvah, invpages := d.invpages, invdone := d.invdone, invs := d.invs, elog := d.elog, route0 := d.route0,
              route1 := d.route1, links := d.links, nonce := d.nonce, attbuf := d.attbuf, attNonceIn := d.attNonceIn, attBufIn := d.attBufIn,
              attBusy := d.attBusy, attFailed := d.attFailed, quarantine := d.quarantine, absent := d.absent, chipLost := d.chipLost :
              Device }).memStacks =
      true :=
  by decide +kernel
theorem witness_BootSteps_2_2_2_2_2_1 :
    State.reset.dev.boot ≠ BootPhase.released :=
  by decide +kernel
theorem witness_BootSteps_2_2_2_2_2_2 :
    (dev_ fun (d : Device) =>
            { boot := BootPhase.released, bootFailed := d.bootFailed, measures := d.measures, modnum := d.modnum, tiermode := d.tiermode,
              opcmd := d.opcmd, opstate := d.opstate, opTarget := d.opTarget, busy := d.busy, result := d.result, trip := d.trip,
              tripEnds := d.tripEnds, temps := d.temps, opsOut := d.opsOut, mreview := d.mreview, attcmd := d.attcmd, reviewBusy := d.reviewBusy,
              reviewResult := d.reviewResult, reviewReport := d.reviewReport, keyret := d.keyret, invctx := d.invctx, invva := d.invva,
              invvah := d.invvah, invpages := d.invpages, invdone := d.invdone, invs := d.invs, elog := d.elog, route0 := d.route0,
              route1 := d.route1, links := d.links, nonce := d.nonce, attbuf := d.attbuf, attNonceIn := d.attNonceIn, attBufIn := d.attBufIn,
              attBusy := d.attBusy, attFailed := d.attFailed, quarantine := d.quarantine, absent := d.absent, chipLost := d.chipLost :
              Device }).dev.boot =
      BootPhase.released
    ∧ swf { : Core }
        (dev_ fun (d : Device) =>
            { boot := BootPhase.released, bootFailed := d.bootFailed, measures := d.measures, modnum := d.modnum, tiermode := d.tiermode,
              opcmd := d.opcmd, opstate := d.opstate, opTarget := d.opTarget, busy := d.busy, result := d.result, trip := d.trip,
              tripEnds := d.tripEnds, temps := d.temps, opsOut := d.opsOut, mreview := d.mreview, attcmd := d.attcmd, reviewBusy := d.reviewBusy,
              reviewResult := d.reviewResult, reviewReport := d.reviewReport, keyret := d.keyret, invctx := d.invctx, invva := d.invva,
              invvah := d.invvah, invpages := d.invpages, invdone := d.invdone, invs := d.invs, elog := d.elog, route0 := d.route0,
              route1 := d.route1, links := d.links, nonce := d.nonce, attbuf := d.attbuf, attNonceIn := d.attNonceIn, attBufIn := d.attBufIn,
              attBusy := d.attBusy, attFailed := d.attFailed, quarantine := d.quarantine, absent := d.absent, chipLost := d.chipLost :
              Device }).cores =
      true
    ∧ swf { : Scan }
        (dev_ fun (d : Device) =>
            { boot := BootPhase.released, bootFailed := d.bootFailed, measures := d.measures, modnum := d.modnum, tiermode := d.tiermode,
              opcmd := d.opcmd, opstate := d.opstate, opTarget := d.opTarget, busy := d.busy, result := d.result, trip := d.trip,
              tripEnds := d.tripEnds, temps := d.temps, opsOut := d.opsOut, mreview := d.mreview, attcmd := d.attcmd, reviewBusy := d.reviewBusy,
              reviewResult := d.reviewResult, reviewReport := d.reviewReport, keyret := d.keyret, invctx := d.invctx, invva := d.invva,
              invvah := d.invvah, invpages := d.invpages, invdone := d.invdone, invs := d.invs, elog := d.elog, route0 := d.route0,
              route1 := d.route1, links := d.links, nonce := d.nonce, attbuf := d.attbuf, attNonceIn := d.attNonceIn, attBufIn := d.attBufIn,
              attBusy := d.attBusy, attFailed := d.attFailed, quarantine := d.quarantine, absent := d.absent, chipLost := d.chipLost :
              Device }).scans =
      true
    ∧ swf 0
        (dev_ fun (d : Device) =>
            { boot := BootPhase.released, bootFailed := d.bootFailed, measures := d.measures, modnum := d.modnum, tiermode := d.tiermode,
              opcmd := d.opcmd, opstate := d.opstate, opTarget := d.opTarget, busy := d.busy, result := d.result, trip := d.trip,
              tripEnds := d.tripEnds, temps := d.temps, opsOut := d.opsOut, mreview := d.mreview, attcmd := d.attcmd, reviewBusy := d.reviewBusy,
              reviewResult := d.reviewResult, reviewReport := d.reviewReport, keyret := d.keyret, invctx := d.invctx, invva := d.invva,
              invvah := d.invvah, invpages := d.invpages, invdone := d.invdone, invs := d.invs, elog := d.elog, route0 := d.route0,
              route1 := d.route1, links := d.links, nonce := d.nonce, attbuf := d.attbuf, attNonceIn := d.attNonceIn, attBufIn := d.attBufIn,
              attBusy := d.attBusy, attFailed := d.attFailed, quarantine := d.quarantine, absent := d.absent, chipLost := d.chipLost :
              Device }).keyGen =
      true :=
  by decide +kernel
theorem witness_KeyRetire :
    swf 0
        (let __src := State.reset;
          { agenda := __src.agenda, freeCtr := __src.freeCtr, cur := __src.cur, clock := __src.clock, time := __src.time, wall := __src.wall,
            nextId := __src.nextId, mem := __src.mem, unitKey := __src.unitKey, scrambled := __src.scrambled, owner := __src.owner,
            poison := __src.poison, devWritten := __src.devWritten, keyGen := [(1023, 4)], l1 := __src.l1, icache := __src.icache,
            tlb := __src.tlb, ctxs := __src.ctxs, nodes := __src.nodes, groups := __src.groups, warps := __src.warps, ops := __src.ops,
            cores := __src.cores, wadi := __src.wadi, faults := __src.faults, saved := __src.saved, scans := __src.scans,
            memStacks := __src.memStacks, dev := __src.dev : State }).keyGen =
      true :=
  by decide +kernel
def leaf (n : Nat) : TlbEntry := { place := .core 0, ctx := 5, page := n, leaf := 0, level := 3 }
def sV : State := { dev_ (fun d => { d with invctx := 5, invva := 0x30000 }) with tlb := [leaf 2, leaf 3, leaf 4, leaf 5] }
theorem witness_Invalidation_1 :
    sV.dev.invs = [] :=
  by decide +kernel
theorem witness_Invalidation_2_1 :
    (dev_ fun (d : Device) =>
            { boot := d.boot, bootFailed := d.bootFailed, measures := d.measures, modnum := d.modnum, tiermode := d.tiermode, opcmd := d.opcmd,
              opstate := d.opstate, opTarget := d.opTarget, busy := d.busy, result := d.result, trip := d.trip, tripEnds := d.tripEnds,
              temps := d.temps, opsOut := d.opsOut, mreview := d.mreview, attcmd := d.attcmd, reviewBusy := d.reviewBusy,
              reviewResult := d.reviewResult, reviewReport := d.reviewReport, keyret := d.keyret, invctx := d.invctx, invva := d.invva,
              invvah := d.invvah, invpages := d.invpages, invdone := d.invdone, invs := [(1, 2, 3, [4])],
              elog := d.elog, route0 := d.route0, route1 := d.route1, links := d.links, nonce := d.nonce, attbuf := d.attbuf,
              attNonceIn := d.attNonceIn, attBufIn := d.attBufIn, attBusy := d.attBusy, attFailed := d.attFailed, quarantine := d.quarantine,
              absent := d.absent, chipLost := d.chipLost : Device }).dev.invs ≠
      [] :=
  by decide +kernel
theorem witness_Invalidation_2_2_1 :
    State.reset.dev.invs = [] :=
  by decide +kernel
def inUse (l : List Nat) : State := { dev_ (fun d => { d with invs := [(0, 2, 3, l), (5, 0, 0, [])] }) with ops := [loadOp], faults := [{ (default : FaultRec) with ctx := 0, page := 4, cause := 3 }] }
theorem witness_Invalidation_2_2_2_1 :
    (inUse [3, 7]).dev.invs = [(0, 2, 3, [3, 7]), (5, 0, 0, [])]
    ∧ (∃ (o : Op), o ∈ (inUse [3, 7]).ops ∧ o.id ∈ [3, 7]) :=
  by decide +kernel
theorem witness_Invalidation_2_2_2_2 :
    (inUse [3, 8]).dev.invs = [(0, 2, 3, [3, 8]), (5, 0, 0, [])]
    ∧ (∀ (o : Op), o ∈ (inUse [3, 8]).ops → ¬o.id ∈ [3, 8]) :=
  by decide +kernel
theorem witness_Attestation_1 :
    (dev_ fun (d : Device) =>
            { boot := d.boot, bootFailed := d.bootFailed, measures := d.measures, modnum := d.modnum, tiermode := d.tiermode, opcmd := d.opcmd,
              opstate := d.opstate, opTarget := d.opTarget, busy := d.busy, result := d.result, trip := d.trip, tripEnds := d.tripEnds,
              temps := d.temps, opsOut := d.opsOut, mreview := d.mreview, attcmd := d.attcmd, reviewBusy := d.reviewBusy,
              reviewResult := d.reviewResult, reviewReport := d.reviewReport, keyret := d.keyret, invctx := d.invctx, invva := d.invva,
              invvah := d.invvah, invpages := d.invpages, invdone := d.invdone, invs := d.invs, elog := d.elog, route0 := d.route0,
              route1 := d.route1, links := d.links, nonce := d.nonce, attbuf := d.attbuf, attNonceIn := d.attNonceIn, attBufIn := d.attBufIn,
              attBusy := true, attFailed := d.attFailed, quarantine := d.quarantine, absent := d.absent, chipLost := d.chipLost :
              Device }).dev.attBusy =
      true :=
  by decide +kernel
theorem witness_Attestation_2_1 :
    (dev_ fun (d : Device) =>
            { boot := d.boot, bootFailed := d.bootFailed, measures := d.measures, modnum := d.modnum, tiermode := d.tiermode, opcmd := d.opcmd,
              opstate := d.opstate, opTarget := d.opTarget, busy := d.busy, result := d.result, trip := d.trip, tripEnds := d.tripEnds,
              temps := d.temps, opsOut := d.opsOut, mreview := d.mreview, attcmd := d.attcmd, reviewBusy := d.reviewBusy,
              reviewResult := d.reviewResult, reviewReport := d.reviewReport, keyret := d.keyret, invctx := d.invctx, invva := d.invva,
              invvah := d.invvah, invpages := d.invpages, invdone := d.invdone, invs := d.invs, elog := d.elog, route0 := d.route0,
              route1 := d.route1, links := d.links, nonce := d.nonce, attbuf := (6144 : DWord), attNonceIn := d.attNonceIn, attBufIn := d.attBufIn,
              attBusy := d.attBusy, attFailed := d.attFailed, quarantine := d.quarantine, absent := d.absent, chipLost := d.chipLost :
              Device }).dev.attBusy =
      false
    ∧ ((dev_ fun (d : Device) =>
              { boot := d.boot, bootFailed := d.bootFailed, measures := d.measures, modnum := d.modnum, tiermode := d.tiermode, opcmd := d.opcmd,
                opstate := d.opstate, opTarget := d.opTarget, busy := d.busy, result := d.result, trip := d.trip, tripEnds := d.tripEnds,
                temps := d.temps, opsOut := d.opsOut, mreview := d.mreview, attcmd := d.attcmd, reviewBusy := d.reviewBusy,
                reviewResult := d.reviewResult, reviewReport := d.reviewReport, keyret := d.keyret, invctx := d.invctx, invva := d.invva,
                invvah := d.invvah, invpages := d.invpages, invdone := d.invdone, invs := d.invs, elog := d.elog, route0 := d.route0,
                route1 := d.route1, links := d.links, nonce := d.nonce, attbuf := (6144 : DWord), attNonceIn := d.attNonceIn, attBufIn := d.attBufIn,
                attBusy := d.attBusy, attFailed := d.attFailed, quarantine := d.quarantine, absent := d.absent, chipLost := d.chipLost :
                Device }).dev.attbuf =
        (0 : DWord) ∨
      BitVec.toNat
            (dev_ fun (d : Device) =>
                  { boot := d.boot, bootFailed := d.bootFailed, measures := d.measures, modnum := d.modnum, tiermode := d.tiermode, opcmd := d.opcmd,
                    opstate := d.opstate, opTarget := d.opTarget, busy := d.busy, result := d.result, trip := d.trip, tripEnds := d.tripEnds,
                    temps := d.temps, opsOut := d.opsOut, mreview := d.mreview, attcmd := d.attcmd, reviewBusy := d.reviewBusy,
                    reviewResult := d.reviewResult, reviewReport := d.reviewReport, keyret := d.keyret, invctx := d.invctx, invva := d.invva,
                    invvah := d.invvah, invpages := d.invpages, invdone := d.invdone, invs := d.invs, elog := d.elog, route0 := d.route0,
                    route1 := d.route1, links := d.links, nonce := d.nonce, attbuf := (6144 : DWord), attNonceIn := d.attNonceIn,
                    attBufIn := d.attBufIn, attBusy := d.attBusy, attFailed := d.attFailed, quarantine := d.quarantine, absent := d.absent,
                    chipLost := d.chipLost : Device }).dev.attbuf %
          4096 ≠
        0) :=
  by decide +kernel
theorem witness_Attestation_2_2_1 :
    (dev_ fun (d : Device) =>
            { boot := d.boot, bootFailed := d.bootFailed, measures := d.measures, modnum := d.modnum, tiermode := d.tiermode, opcmd := d.opcmd,
              opstate := d.opstate, opTarget := d.opTarget, busy := d.busy, result := d.result, trip := d.trip, tripEnds := d.tripEnds,
              temps := d.temps, opsOut := d.opsOut, mreview := d.mreview, attcmd := d.attcmd, reviewBusy := d.reviewBusy,
              reviewResult := d.reviewResult, reviewReport := d.reviewReport, keyret := d.keyret, invctx := d.invctx, invva := d.invva,
              invvah := d.invvah, invpages := d.invpages, invdone := d.invdone, invs := d.invs, elog := d.elog, route0 := d.route0,
              route1 := d.route1, links := d.links, nonce := d.nonce, attbuf := (4096 : DWord), attNonceIn := d.attNonceIn, attBufIn := d.attBufIn,
              attBusy := d.attBusy, attFailed := d.attFailed, quarantine := d.quarantine, absent := d.absent, chipLost := d.chipLost :
              Device }).dev.attBusy =
      false
    ∧ (dev_ fun (d : Device) =>
            { boot := d.boot, bootFailed := d.bootFailed, measures := d.measures, modnum := d.modnum, tiermode := d.tiermode, opcmd := d.opcmd,
              opstate := d.opstate, opTarget := d.opTarget, busy := d.busy, result := d.result, trip := d.trip, tripEnds := d.tripEnds,
              temps := d.temps, opsOut := d.opsOut, mreview := d.mreview, attcmd := d.attcmd, reviewBusy := d.reviewBusy,
              reviewResult := d.reviewResult, reviewReport := d.reviewReport, keyret := d.keyret, invctx := d.invctx, invva := d.invva,
              invvah := d.invvah, invpages := d.invpages, invdone := d.invdone, invs := d.invs, elog := d.elog, route0 := d.route0,
              route1 := d.route1, links := d.links, nonce := d.nonce, attbuf := (4096 : DWord), attNonceIn := d.attNonceIn, attBufIn := d.attBufIn,
              attBusy := d.attBusy, attFailed := d.attFailed, quarantine := d.quarantine, absent := d.absent, chipLost := d.chipLost :
              Device }).dev.attbuf ≠
      (0 : DWord)
    ∧ BitVec.toNat
          (dev_ fun (d : Device) =>
                { boot := d.boot, bootFailed := d.bootFailed, measures := d.measures, modnum := d.modnum, tiermode := d.tiermode, opcmd := d.opcmd,
                  opstate := d.opstate, opTarget := d.opTarget, busy := d.busy, result := d.result, trip := d.trip, tripEnds := d.tripEnds,
                  temps := d.temps, opsOut := d.opsOut, mreview := d.mreview, attcmd := d.attcmd, reviewBusy := d.reviewBusy,
                  reviewResult := d.reviewResult, reviewReport := d.reviewReport, keyret := d.keyret, invctx := d.invctx, invva := d.invva,
                  invvah := d.invvah, invpages := d.invpages, invdone := d.invdone, invs := d.invs, elog := d.elog, route0 := d.route0,
                  route1 := d.route1, links := d.links, nonce := d.nonce, attbuf := (4096 : DWord), attNonceIn := d.attNonceIn,
                  attBufIn := d.attBufIn, attBusy := d.attBusy, attFailed := d.attFailed, quarantine := d.quarantine, absent := d.absent,
                  chipLost := d.chipLost : Device }).dev.attbuf %
        4096 =
      0 :=
  by decide +kernel
theorem witness_Attestation_2_2_2_1 :
    State.reset.dev.attBusy = false :=
  by decide +kernel
theorem witness_Attestation_2_2_2_2 :
    (dev_ fun (d : Device) =>
            { boot := d.boot, bootFailed := d.bootFailed, measures := d.measures, modnum := d.modnum, tiermode := d.tiermode, opcmd := d.opcmd,
              opstate := d.opstate, opTarget := d.opTarget, busy := d.busy, result := d.result, trip := d.trip, tripEnds := d.tripEnds,
              temps := d.temps, opsOut := d.opsOut, mreview := d.mreview, attcmd := d.attcmd, reviewBusy := d.reviewBusy,
              reviewResult := d.reviewResult, reviewReport := d.reviewReport, keyret := d.keyret, invctx := d.invctx, invva := d.invva,
              invvah := d.invvah, invpages := d.invpages, invdone := d.invdone, invs := d.invs, elog := d.elog, route0 := d.route0,
              route1 := d.route1, links := d.links, nonce := d.nonce, attbuf := d.attbuf, attNonceIn := d.attNonceIn,
              attBufIn := (281474976677888 : DWord), attBusy := true, attFailed := d.attFailed, quarantine := d.quarantine, absent := d.absent,
              chipLost := d.chipLost : Device }).dev.attBusy =
      true
    ∧ (dev_ fun (d : Device) =>
              { boot := d.boot, bootFailed := d.bootFailed, measures := d.measures, modnum := d.modnum, tiermode := d.tiermode, opcmd := d.opcmd,
                opstate := d.opstate, opTarget := d.opTarget, busy := d.busy, result := d.result, trip := d.trip, tripEnds := d.tripEnds,
                temps := d.temps, opsOut := d.opsOut, mreview := d.mreview, attcmd := d.attcmd, reviewBusy := d.reviewBusy,
                reviewResult := d.reviewResult, reviewReport := d.reviewReport, keyret := d.keyret, invctx := d.invctx, invva := d.invva,
                invvah := d.invvah, invpages := d.invpages, invdone := d.invdone, invs := d.invs, elog := d.elog, route0 := d.route0,
                route1 := d.route1, links := d.links, nonce := d.nonce, attbuf := d.attbuf, attNonceIn := d.attNonceIn,
                attBufIn := (281474976677888 : DWord), attBusy := true, attFailed := d.attFailed, quarantine := d.quarantine, absent := d.absent,
                chipLost := d.chipLost : Device }).dev.attNonceIn.length =
      32
    ∧ (dev_ fun (d : Device) =>
              { boot := d.boot, bootFailed := d.bootFailed, measures := d.measures, modnum := d.modnum, tiermode := d.tiermode, opcmd := d.opcmd,
                opstate := d.opstate, opTarget := d.opTarget, busy := d.busy, result := d.result, trip := d.trip, tripEnds := d.tripEnds,
                temps := d.temps, opsOut := d.opsOut, mreview := d.mreview, attcmd := d.attcmd, reviewBusy := d.reviewBusy,
                reviewResult := d.reviewResult, reviewReport := d.reviewReport, keyret := d.keyret, invctx := d.invctx, invva := d.invva,
                invvah := d.invvah, invpages := d.invpages, invdone := d.invdone, invs := d.invs, elog := d.elog, route0 := d.route0,
                route1 := d.route1, links := d.links, nonce := d.nonce, attbuf := d.attbuf, attNonceIn := d.attNonceIn,
                attBufIn := (281474976677888 : DWord), attBusy := true, attFailed := d.attFailed, quarantine := d.quarantine, absent := d.absent,
                chipLost := d.chipLost : Device }).dev.measures.length =
      16
    ∧ (∀ (m : List Byte),
      m ∈
          (dev_ fun (d : Device) =>
                { boot := d.boot, bootFailed := d.bootFailed, measures := d.measures, modnum := d.modnum, tiermode := d.tiermode, opcmd := d.opcmd,
                  opstate := d.opstate, opTarget := d.opTarget, busy := d.busy, result := d.result, trip := d.trip, tripEnds := d.tripEnds,
                  temps := d.temps, opsOut := d.opsOut, mreview := d.mreview, attcmd := d.attcmd, reviewBusy := d.reviewBusy,
                  reviewResult := d.reviewResult, reviewReport := d.reviewReport, keyret := d.keyret, invctx := d.invctx, invva := d.invva,
                  invvah := d.invvah, invpages := d.invpages, invdone := d.invdone, invs := d.invs, elog := d.elog, route0 := d.route0,
                  route1 := d.route1, links := d.links, nonce := d.nonce, attbuf := d.attbuf, attNonceIn := d.attNonceIn,
                  attBufIn := (281474976677888 : DWord), attBusy := true, attFailed := d.attFailed, quarantine := d.quarantine, absent := d.absent,
                  chipLost := d.chipLost : Device }).dev.measures →
        m.length = 64)
    ∧ (dev_ fun (d : Device) =>
            { boot := d.boot, bootFailed := d.bootFailed, measures := d.measures, modnum := d.modnum, tiermode := d.tiermode, opcmd := d.opcmd,
              opstate := d.opstate, opTarget := d.opTarget, busy := d.busy, result := d.result, trip := d.trip, tripEnds := d.tripEnds,
              temps := d.temps, opsOut := d.opsOut, mreview := d.mreview, attcmd := d.attcmd, reviewBusy := d.reviewBusy,
              reviewResult := d.reviewResult, reviewReport := d.reviewReport, keyret := d.keyret, invctx := d.invctx, invva := d.invva,
              invvah := d.invvah, invpages := d.invpages, invdone := d.invdone, invs := d.invs, elog := d.elog, route0 := d.route0,
              route1 := d.route1, links := d.links, nonce := d.nonce, attbuf := d.attbuf, attNonceIn := d.attNonceIn,
              attBufIn := (281474976677888 : DWord), attBusy := true, attFailed := d.attFailed, quarantine := d.quarantine, absent := d.absent,
              chipLost := d.chipLost : Device }).mem.wf =
      true
    ∧ BitVec.toNat
          (dev_ fun (d : Device) =>
                { boot := d.boot, bootFailed := d.bootFailed, measures := d.measures, modnum := d.modnum, tiermode := d.tiermode, opcmd := d.opcmd,
                  opstate := d.opstate, opTarget := d.opTarget, busy := d.busy, result := d.result, trip := d.trip, tripEnds := d.tripEnds,
                  temps := d.temps, opsOut := d.opsOut, mreview := d.mreview, attcmd := d.attcmd, reviewBusy := d.reviewBusy,
                  reviewResult := d.reviewResult, reviewReport := d.reviewReport, keyret := d.keyret, invctx := d.invctx, invva := d.invva,
                  invvah := d.invvah, invpages := d.invpages, invdone := d.invdone, invs := d.invs, elog := d.elog, route0 := d.route0,
                  route1 := d.route1, links := d.links, nonce := d.nonce, attbuf := d.attbuf, attNonceIn := d.attNonceIn,
                  attBufIn := (281474976677888 : DWord), attBusy := true, attFailed := d.attFailed, quarantine := d.quarantine, absent := d.absent,
                  chipLost := d.chipLost : Device }).dev.attBufIn +
        32768 ≤
      2 ^ 48 :=
  by decide +kernel
def held : State := dev_ (fun d => { d with boot := .hold })
theorem witness_ManagementMap_1 :
    BitVec.getLsbD (1 : Word) 0 = true
    ∧ held.dev.boot = BootPhase.hold :=
  by decide +kernel
theorem witness_ManagementMap_2_1 :
    ((dev_ fun (d : Device) =>
              { boot := BootPhase.released, bootFailed := d.bootFailed, measures := d.measures, modnum := d.modnum, tiermode := d.tiermode,
                opcmd := d.opcmd, opstate := d.opstate, opTarget := d.opTarget, busy := d.busy, result := d.result, trip := d.trip,
                tripEnds := d.tripEnds, temps := d.temps, opsOut := d.opsOut, mreview := d.mreview, attcmd := d.attcmd, reviewBusy := d.reviewBusy,
                reviewResult := d.reviewResult, reviewReport := d.reviewReport, keyret := d.keyret, invctx := d.invctx, invva := d.invva,
                invvah := d.invvah, invpages := d.invpages, invdone := d.invdone, invs := d.invs, elog := d.elog, route0 := d.route0,
                route1 := d.route1, links := d.links, nonce := d.nonce, attbuf := d.attbuf, attNonceIn := d.attNonceIn, attBufIn := d.attBufIn,
                attBusy := d.attBusy, attFailed := d.attFailed, quarantine := d.quarantine, absent := d.absent, chipLost := d.chipLost :
                Device }).dev.boot =
        BootPhase.released ∨
      (dev_ fun (d : Device) =>
              { boot := BootPhase.released, bootFailed := d.bootFailed, measures := d.measures, modnum := d.modnum, tiermode := d.tiermode,
                opcmd := d.opcmd, opstate := d.opstate, opTarget := d.opTarget, busy := d.busy, result := d.result, trip := d.trip,
                tripEnds := d.tripEnds, temps := d.temps, opsOut := d.opsOut, mreview := d.mreview, attcmd := d.attcmd, reviewBusy := d.reviewBusy,
                reviewResult := d.reviewResult, reviewReport := d.reviewReport, keyret := d.keyret, invctx := d.invctx, invva := d.invva,
                invvah := d.invvah, invpages := d.invpages, invdone := d.invdone, invs := d.invs, elog := d.elog, route0 := d.route0,
                route1 := d.route1, links := d.links, nonce := d.nonce, attbuf := d.attbuf, attNonceIn := d.attNonceIn, attBufIn := d.attBufIn,
                attBusy := d.attBusy, attFailed := d.attFailed, quarantine := d.quarantine, absent := d.absent, chipLost := d.chipLost :
                Device }).dev.boot =
        BootPhase.ready)
    ∧ (dev_ fun (d : Device) =>
            { boot := BootPhase.released, bootFailed := d.bootFailed, measures := d.measures, modnum := d.modnum, tiermode := d.tiermode,
              opcmd := d.opcmd, opstate := d.opstate, opTarget := d.opTarget, busy := d.busy, result := d.result, trip := d.trip,
              tripEnds := d.tripEnds, temps := d.temps, opsOut := d.opsOut, mreview := d.mreview, attcmd := d.attcmd, reviewBusy := d.reviewBusy,
              reviewResult := d.reviewResult, reviewReport := d.reviewReport, keyret := d.keyret, invctx := d.invctx, invva := d.invva,
              invvah := d.invvah, invpages := d.invpages, invdone := d.invdone, invs := d.invs, elog := d.elog, route0 := d.route0,
              route1 := d.route1, links := d.links, nonce := d.nonce, attbuf := d.attbuf, attNonceIn := d.attNonceIn, attBufIn := d.attBufIn,
              attBusy := d.attBusy, attFailed := d.attFailed, quarantine := d.quarantine, absent := d.absent, chipLost := d.chipLost :
              Device }).dev.elog =
      (0 : DWord)
    ∧ (380 ∈ [4, 8, 12] ∨ 256 ≤ 380 ∧ 380 < 384 ∧ 380 % 4 = 0) :=
  by decide +kernel
theorem witness_ManagementMap_2_2_1 :
    (¬(held.dev.boot = BootPhase.released ∨ held.dev.boot = BootPhase.ready)) :=
  by decide +kernel
theorem witness_ManagementMap_2_2_2_1 :
    BitVec.toNat (23 : Word) % 16 = (↑(7 : Fin 8) : Nat) :=
  by decide +kernel
theorem witness_ManagementMap_2_2_2_2_1 :
    BitVec.toNat (27 : Word) % 16 = 11 :=
  by decide +kernel
theorem witness_ManagementMap_2_2_2_2_2_1 :
    12 ≤ BitVec.toNat (31 : Word) % 16
    ∧ held.dev.busy = false
    ∧ held.dev.reviewBusy = false
    ∧ held.dev.trip = false :=
  by decide +kernel
theorem witness_ManagementMap_2_2_2_2_2_2_1 :
    BitVec.getLsbD (3 : Word) 0 = true :=
  by decide +kernel
theorem witness_ManagementMap_2_2_2_2_2_2_2_1 :
    BitVec.getLsbD (2 : Word) 0 = false :=
  by decide +kernel
theorem witness_ManagementMap_2_2_2_2_2_2_2_2_2_1 :
    (382 = 0 ∨
      382 = 20 ∨
        52 ≤ 382 ∧ 382 < 64 ∨
          72 ≤ 382 ∧ 382 < 256 ∨
            384 ≤ 382 ∧ 382 < 1280 ∨ 1324 ≤ 382 ∨ 382 % 4 ≠ 0) :=
  by decide +kernel
theorem witness_ManagementMap_2_2_2_2_2_2_2_2_2_2_1 :
    18 ≤ 18 :=
  by decide +kernel
theorem witness_ManagementMap_2_2_2_2_2_2_2_2_2_2_2 :
    17 < 18 :=
  by decide +kernel
theorem witness_PowerStates_1 :
    (at_ Instr.nopShort).groups ≠ [] :=
  by decide +kernel
theorem witness_PowerStates_2_1 :
    ((∃ (c : Fin 8), 8 = (↑c : Nat) ∧ Instr.opcmdIdleHot = Instr.opcmdOperatingPoint c) ∨
      8 = 8 ∧ Instr.opcmdIdleHot = Instr.opcmdIdleHot ∨
        8 = 9 ∧ Instr.opcmdIdleHot = Instr.opcmdIdleCold ∨
          8 = 10 ∧ Instr.opcmdIdleHot = Instr.opcmdParked ∨ 8 = 11 ∧ Instr.opcmdIdleHot = Instr.opcmdOff)
    ∧ (¬((dev_ fun (d : Device) =>
                { boot := d.boot, bootFailed := d.bootFailed, measures := d.measures, modnum := d.modnum, tiermode := d.tiermode, opcmd := d.opcmd,
                  opstate := d.opstate, opTarget := d.opTarget, busy := true, result := d.result, trip := d.trip, tripEnds := d.tripEnds,
                  temps := d.temps, opsOut := d.opsOut, mreview := d.mreview, attcmd := d.attcmd, reviewBusy := d.reviewBusy,
                  reviewResult := d.reviewResult, reviewReport := d.reviewReport, keyret := d.keyret, invctx := d.invctx, invva := d.invva,
                  invvah := d.invvah, invpages := d.invpages, invdone := d.invdone, invs := d.invs, elog := d.elog, route0 := d.route0,
                  route1 := d.route1, links := d.links, nonce := d.nonce, attbuf := d.attbuf, attNonceIn := d.attNonceIn, attBufIn := d.attBufIn,
                  attBusy := d.attBusy, attFailed := d.attFailed, quarantine := d.quarantine, absent := d.absent, chipLost := d.chipLost :
                  Device }).dev.busy =
          false ∧
        (dev_ fun (d : Device) =>
                  { boot := d.boot, bootFailed := d.bootFailed, measures := d.measures, modnum := d.modnum, tiermode := d.tiermode, opcmd := d.opcmd,
                    opstate := d.opstate, opTarget := d.opTarget, busy := true, result := d.result, trip := d.trip, tripEnds := d.tripEnds,
                    temps := d.temps, opsOut := d.opsOut, mreview := d.mreview, attcmd := d.attcmd, reviewBusy := d.reviewBusy,
                    reviewResult := d.reviewResult, reviewReport := d.reviewReport, keyret := d.keyret, invctx := d.invctx, invva := d.invva,
                    invvah := d.invvah, invpages := d.invpages, invdone := d.invdone, invs := d.invs, elog := d.elog, route0 := d.route0,
                    route1 := d.route1, links := d.links, nonce := d.nonce, attbuf := d.attbuf, attNonceIn := d.attNonceIn, attBufIn := d.attBufIn,
                    attBusy := d.attBusy, attFailed := d.attFailed, quarantine := d.quarantine, absent := d.absent, chipLost := d.chipLost :
                    Device }).dev.reviewBusy =
            false ∧
          ¬((dev_ fun (d : Device) =>
                      { boot := d.boot, bootFailed := d.bootFailed, measures := d.measures, modnum := d.modnum, tiermode := d.tiermode,
                        opcmd := d.opcmd, opstate := d.opstate, opTarget := d.opTarget, busy := true, result := d.result, trip := d.trip,
                        tripEnds := d.tripEnds, temps := d.temps, opsOut := d.opsOut, mreview := d.mreview, attcmd := d.attcmd,
                        reviewBusy := d.reviewBusy, reviewResult := d.reviewResult, reviewReport := d.reviewReport, keyret := d.keyret,
                        invctx := d.invctx, invva := d.invva, invvah := d.invvah, invpages := d.invpages, invdone := d.invdone, invs := d.invs,
                        elog := d.elog, route0 := d.route0, route1 := d.route1, links := d.links, nonce := d.nonce, attbuf := d.attbuf,
                        attNonceIn := d.attNonceIn, attBufIn := d.attBufIn, attBusy := d.attBusy, attFailed := d.attFailed,
                        quarantine := d.quarantine, absent := d.absent, chipLost := d.chipLost : Device }).dev.trip =
                true ∧
              ¬(8 ≤ 7 ∧
                  ∀ (c : Nat),
                    c ∈
                        (dev_ fun (d : Device) =>
                              { boot := d.boot, bootFailed := d.bootFailed, measures := d.measures, modnum := d.modnum, tiermode := d.tiermode,
                                opcmd := d.opcmd, opstate := d.opstate, opTarget := d.opTarget, busy := true, result := d.result, trip := d.trip,
                                tripEnds := d.tripEnds, temps := d.temps, opsOut := d.opsOut, mreview := d.mreview, attcmd := d.attcmd,
                                reviewBusy := d.reviewBusy, reviewResult := d.reviewResult, reviewReport := d.reviewReport, keyret := d.keyret,
                                invctx := d.invctx, invva := d.invva, invvah := d.invvah, invpages := d.invpages, invdone := d.invdone,
                                invs := d.invs, elog := d.elog, route0 := d.route0, route1 := d.route1, links := d.links, nonce := d.nonce,
                                attbuf := d.attbuf, attNonceIn := d.attNonceIn, attBufIn := d.attBufIn, attBusy := d.attBusy,
                                attFailed := d.attFailed, quarantine := d.quarantine, absent := d.absent, chipLost := d.chipLost :
                                Device }).dev.temps →
                      c < 95)))) :=
  by decide +kernel
theorem witness_PowerStates_2_2_1 :
    ((∃ (c : Fin 8), 7 = (↑c : Nat) ∧ Instr.opcmdOperatingPoint (7 : Fin 8) = Instr.opcmdOperatingPoint c) ∨
      7 = 8 ∧ Instr.opcmdOperatingPoint (7 : Fin 8) = Instr.opcmdIdleHot ∨
        7 = 9 ∧ Instr.opcmdOperatingPoint (7 : Fin 8) = Instr.opcmdIdleCold ∨
          7 = 10 ∧ Instr.opcmdOperatingPoint (7 : Fin 8) = Instr.opcmdParked ∨
            7 = 11 ∧ Instr.opcmdOperatingPoint (7 : Fin 8) = Instr.opcmdOff)
    ∧ ((dev_ fun (d : Device) =>
              { boot := d.boot, bootFailed := d.bootFailed, measures := d.measures, modnum := d.modnum, tiermode := d.tiermode, opcmd := d.opcmd,
                opstate := d.opstate, opTarget := d.opTarget, busy := d.busy, result := d.result, trip := d.trip, tripEnds := d.tripEnds,
                temps := d.temps, opsOut := [7], mreview := d.mreview, attcmd := d.attcmd, reviewBusy := d.reviewBusy,
                reviewResult := d.reviewResult, reviewReport := d.reviewReport, keyret := d.keyret, invctx := d.invctx, invva := d.invva,
                invvah := d.invvah, invpages := d.invpages, invdone := d.invdone, invs := d.invs, elog := d.elog, route0 := d.route0,
                route1 := d.route1, links := d.links, nonce := d.nonce, attbuf := d.attbuf, attNonceIn := d.attNonceIn, attBufIn := d.attBufIn,
                attBusy := d.attBusy, attFailed := d.attFailed, quarantine := d.quarantine, absent := d.absent, chipLost := d.chipLost :
                Device }).dev.busy =
        false ∧
      (dev_ fun (d : Device) =>
                { boot := d.boot, bootFailed := d.bootFailed, measures := d.measures, modnum := d.modnum, tiermode := d.tiermode, opcmd := d.opcmd,
                  opstate := d.opstate, opTarget := d.opTarget, busy := d.busy, result := d.result, trip := d.trip, tripEnds := d.tripEnds,
                  temps := d.temps, opsOut := [7], mreview := d.mreview, attcmd := d.attcmd, reviewBusy := d.reviewBusy,
                  reviewResult := d.reviewResult, reviewReport := d.reviewReport, keyret := d.keyret, invctx := d.invctx, invva := d.invva,
                  invvah := d.invvah, invpages := d.invpages, invdone := d.invdone, invs := d.invs, elog := d.elog, route0 := d.route0,
                  route1 := d.route1, links := d.links, nonce := d.nonce, attbuf := d.attbuf, attNonceIn := d.attNonceIn, attBufIn := d.attBufIn,
                  attBusy := d.attBusy, attFailed := d.attFailed, quarantine := d.quarantine, absent := d.absent, chipLost := d.chipLost :
                  Device }).dev.reviewBusy =
          false ∧
        ¬((dev_ fun (d : Device) =>
                    { boot := d.boot, bootFailed := d.bootFailed, measures := d.measures, modnum := d.modnum, tiermode := d.tiermode,
                      opcmd := d.opcmd, opstate := d.opstate, opTarget := d.opTarget, busy := d.busy, result := d.result, trip := d.trip,
                      tripEnds := d.tripEnds, temps := d.temps, opsOut := [7], mreview := d.mreview, attcmd := d.attcmd,
                      reviewBusy := d.reviewBusy, reviewResult := d.reviewResult, reviewReport := d.reviewReport, keyret := d.keyret,
                      invctx := d.invctx, invva := d.invva, invvah := d.invvah, invpages := d.invpages, invdone := d.invdone, invs := d.invs,
                      elog := d.elog, route0 := d.route0, route1 := d.route1, links := d.links, nonce := d.nonce, attbuf := d.attbuf,
                      attNonceIn := d.attNonceIn, attBufIn := d.attBufIn, attBusy := d.attBusy, attFailed := d.attFailed, quarantine := d.quarantine,
                      absent := d.absent, chipLost := d.chipLost : Device }).dev.trip =
              true ∧
            ¬(7 ≤ 7 ∧
                ∀ (c : Nat),
                  c ∈
                      (dev_ fun (d : Device) =>
                            { boot := d.boot, bootFailed := d.bootFailed, measures := d.measures, modnum := d.modnum, tiermode := d.tiermode,
                              opcmd := d.opcmd, opstate := d.opstate, opTarget := d.opTarget, busy := d.busy, result := d.result, trip := d.trip,
                              tripEnds := d.tripEnds, temps := d.temps, opsOut := [7], mreview := d.mreview, attcmd := d.attcmd,
                              reviewBusy := d.reviewBusy, reviewResult := d.reviewResult, reviewReport := d.reviewReport, keyret := d.keyret,
                              invctx := d.invctx, invva := d.invva, invvah := d.invvah, invpages := d.invpages, invdone := d.invdone, invs := d.invs,
                              elog := d.elog, route0 := d.route0, route1 := d.route1, links := d.links, nonce := d.nonce, attbuf := d.attbuf,
                              attNonceIn := d.attNonceIn, attBufIn := d.attBufIn, attBusy := d.attBusy, attFailed := d.attFailed,
                              quarantine := d.quarantine, absent := d.absent, chipLost := d.chipLost : Device }).dev.temps →
                    c < 95)))
    ∧ 7 ∈
      (dev_ fun (d : Device) =>
            { boot := d.boot, bootFailed := d.bootFailed, measures := d.measures, modnum := d.modnum, tiermode := d.tiermode, opcmd := d.opcmd,
              opstate := d.opstate, opTarget := d.opTarget, busy := d.busy, result := d.result, trip := d.trip, tripEnds := d.tripEnds,
              temps := d.temps, opsOut := [7], mreview := d.mreview, attcmd := d.attcmd, reviewBusy := d.reviewBusy,
              reviewResult := d.reviewResult, reviewReport := d.reviewReport, keyret := d.keyret, invctx := d.invctx, invva := d.invva,
              invvah := d.invvah, invpages := d.invpages, invdone := d.invdone, invs := d.invs, elog := d.elog, route0 := d.route0,
              route1 := d.route1, links := d.links, nonce := d.nonce, attbuf := d.attbuf, attNonceIn := d.attNonceIn, attBufIn := d.attBufIn,
              attBusy := d.attBusy, attFailed := d.attFailed, quarantine := d.quarantine, absent := d.absent, chipLost := d.chipLost :
              Device }).dev.opsOut :=
  by decide +kernel
theorem witness_PowerStates_2_2_2_1 :
    ((∃ (c : Fin 8), 9 = (↑c : Nat) ∧ Instr.opcmdIdleCold = Instr.opcmdOperatingPoint c) ∨
      9 = 8 ∧ Instr.opcmdIdleCold = Instr.opcmdIdleHot ∨
        9 = 9 ∧ Instr.opcmdIdleCold = Instr.opcmdIdleCold ∨
          9 = 10 ∧ Instr.opcmdIdleCold = Instr.opcmdParked ∨ 9 = 11 ∧ Instr.opcmdIdleCold = Instr.opcmdOff)
    ∧ ((at_ Instr.nopShort).dev.busy = false ∧
      (at_ Instr.nopShort).dev.reviewBusy = false ∧
        ¬((at_ Instr.nopShort).dev.trip = true ∧ ¬(9 ≤ 7 ∧ ∀ (c : Nat), c ∈ (at_ Instr.nopShort).dev.temps → c < 95)))
    ∧ ¬9 ∈ (at_ Instr.nopShort).dev.opsOut
    ∧ (¬(((at_ Instr.nopShort).dev.opstate = 11 → 9 = 11) ∧
        (9 = 8 ∨ 9 = 9 → (at_ Instr.nopShort).quiet = true) ∧
          (9 = 10 → (at_ Instr.nopShort).silent = true))) :=
  by decide +kernel
theorem witness_PowerStates_2_2_2_2_1 :
    ((∃ (c : Fin 8), 10 = (↑c : Nat) ∧ Instr.opcmdParked = Instr.opcmdOperatingPoint c) ∨
      10 = 8 ∧ Instr.opcmdParked = Instr.opcmdIdleHot ∨
        10 = 9 ∧ Instr.opcmdParked = Instr.opcmdIdleCold ∨
          10 = 10 ∧ Instr.opcmdParked = Instr.opcmdParked ∨ 10 = 11 ∧ Instr.opcmdParked = Instr.opcmdOff)
    ∧ (State.reset.dev.busy = false ∧
      State.reset.dev.reviewBusy = false ∧
        ¬(State.reset.dev.trip = true ∧ ¬(10 ≤ 7 ∧ ∀ (c : Nat), c ∈ State.reset.dev.temps → c < 95)))
    ∧ ¬10 ∈ State.reset.dev.opsOut
    ∧ ((State.reset.dev.opstate = 11 → 10 = 11) ∧
      (10 = 8 ∨ 10 = 9 → State.reset.quiet = true) ∧ (10 = 10 → State.reset.silent = true)) :=
  by decide +kernel
theorem witness_PowerStates_2_2_2_2_2_1 :
    State.reset.dev.busy = false :=
  by decide +kernel
theorem witness_PowerStates_2_2_2_2_2_2_1 :
    (dev_ fun (d : Device) =>
            { boot := d.boot, bootFailed := d.bootFailed, measures := d.measures, modnum := d.modnum, tiermode := d.tiermode, opcmd := d.opcmd,
              opstate := d.opstate, opTarget := d.opTarget, busy := true, result := d.result, trip := true, tripEnds := d.tripEnds, temps := d.temps,
              opsOut := d.opsOut, mreview := d.mreview, attcmd := d.attcmd, reviewBusy := d.reviewBusy, reviewResult := d.reviewResult,
              reviewReport := d.reviewReport, keyret := d.keyret, invctx := d.invctx, invva := d.invva, invvah := d.invvah, invpages := d.invpages,
              invdone := d.invdone, invs := d.invs, elog := d.elog, route0 := d.route0, route1 := d.route1, links := d.links, nonce := d.nonce,
              attbuf := d.attbuf, attNonceIn := d.attNonceIn, attBufIn := d.attBufIn, attBusy := d.attBusy, attFailed := d.attFailed,
              quarantine := d.quarantine, absent := d.absent, chipLost := d.chipLost : Device }).dev.busy =
      true
    ∧ (dev_ fun (d : Device) =>
            { boot := d.boot, bootFailed := d.bootFailed, measures := d.measures, modnum := d.modnum, tiermode := d.tiermode, opcmd := d.opcmd,
              opstate := d.opstate, opTarget := d.opTarget, busy := true, result := d.result, trip := true, tripEnds := d.tripEnds, temps := d.temps,
              opsOut := d.opsOut, mreview := d.mreview, attcmd := d.attcmd, reviewBusy := d.reviewBusy, reviewResult := d.reviewResult,
              reviewReport := d.reviewReport, keyret := d.keyret, invctx := d.invctx, invva := d.invva, invvah := d.invvah, invpages := d.invpages,
              invdone := d.invdone, invs := d.invs, elog := d.elog, route0 := d.route0, route1 := d.route1, links := d.links, nonce := d.nonce,
              attbuf := d.attbuf, attNonceIn := d.attNonceIn, attBufIn := d.attBufIn, attBusy := d.attBusy, attFailed := d.attFailed,
              quarantine := d.quarantine, absent := d.absent, chipLost := d.chipLost : Device }).dev.opTarget ≤
      8 :=
  by decide +kernel
theorem witness_PowerStates_2_2_2_2_2_2_2_1 :
    (dev_ fun (d : Device) =>
            { boot := d.boot, bootFailed := d.bootFailed, measures := d.measures, modnum := d.modnum, tiermode := d.tiermode, opcmd := d.opcmd,
              opstate := d.opstate, opTarget := 10, busy := true, result := d.result, trip := d.trip, tripEnds := d.tripEnds,
              temps := d.temps, opsOut := d.opsOut, mreview := d.mreview, attcmd := d.attcmd, reviewBusy := d.reviewBusy,
              reviewResult := d.reviewResult, reviewReport := d.reviewReport, keyret := d.keyret, invctx := d.invctx, invva := d.invva,
              invvah := d.invvah, invpages := d.invpages, invdone := d.invdone, invs := d.invs, elog := d.elog, route0 := d.route0,
              route1 := d.route1, links := d.links, nonce := d.nonce, attbuf := d.attbuf, attNonceIn := d.attNonceIn, attBufIn := d.attBufIn,
              attBusy := d.attBusy, attFailed := d.attFailed, quarantine := d.quarantine, absent := d.absent, chipLost := d.chipLost :
              Device }).dev.busy =
      true
    ∧ ((dev_ fun (d : Device) =>
              { boot := d.boot, bootFailed := d.bootFailed, measures := d.measures, modnum := d.modnum, tiermode := d.tiermode, opcmd := d.opcmd,
                opstate := d.opstate, opTarget := 10, busy := true, result := d.result, trip := d.trip, tripEnds := d.tripEnds,
                temps := d.temps, opsOut := d.opsOut, mreview := d.mreview, attcmd := d.attcmd, reviewBusy := d.reviewBusy,
                reviewResult := d.reviewResult, reviewReport := d.reviewReport, keyret := d.keyret, invctx := d.invctx, invva := d.invva,
                invvah := d.invvah, invpages := d.invpages, invdone := d.invdone, invs := d.invs, elog := d.elog, route0 := d.route0,
                route1 := d.route1, links := d.links, nonce := d.nonce, attbuf := d.attbuf, attNonceIn := d.attNonceIn, attBufIn := d.attBufIn,
                attBusy := d.attBusy, attFailed := d.attFailed, quarantine := d.quarantine, absent := d.absent, chipLost := d.chipLost :
                Device }).dev.opTarget =
        9 ∨
      (dev_ fun (d : Device) =>
              { boot := d.boot, bootFailed := d.bootFailed, measures := d.measures, modnum := d.modnum, tiermode := d.tiermode, opcmd := d.opcmd,
                opstate := d.opstate, opTarget := 10, busy := true, result := d.result, trip := d.trip, tripEnds := d.tripEnds,
                temps := d.temps, opsOut := d.opsOut, mreview := d.mreview, attcmd := d.attcmd, reviewBusy := d.reviewBusy,
                reviewResult := d.reviewResult, reviewReport := d.reviewReport, keyret := d.keyret, invctx := d.invctx, invva := d.invva,
                invvah := d.invvah, invpages := d.invpages, invdone := d.invdone, invs := d.invs, elog := d.elog, route0 := d.route0,
                route1 := d.route1, links := d.links, nonce := d.nonce, attbuf := d.attbuf, attNonceIn := d.attNonceIn, attBufIn := d.attBufIn,
                attBusy := d.attBusy, attFailed := d.attFailed, quarantine := d.quarantine, absent := d.absent, chipLost := d.chipLost :
                Device }).dev.opTarget =
        10) :=
  by decide +kernel
theorem witness_PowerStates_2_2_2_2_2_2_2_2_1 :
    (dev_ fun (d : Device) =>
            { boot := d.boot, bootFailed := d.bootFailed, measures := d.measures, modnum := d.modnum, tiermode := d.tiermode, opcmd := d.opcmd,
              opstate := d.opstate, opTarget := 11, busy := true, result := d.result, trip := d.trip, tripEnds := d.tripEnds,
              temps := d.temps, opsOut := d.opsOut, mreview := d.mreview, attcmd := d.attcmd, reviewBusy := d.reviewBusy,
              reviewResult := d.reviewResult, reviewReport := d.reviewReport, keyret := d.keyret, invctx := d.invctx, invva := d.invva,
              invvah := d.invvah, invpages := d.invpages, invdone := d.invdone, invs := d.invs, elog := d.elog, route0 := d.route0,
              route1 := d.route1, links := d.links, nonce := d.nonce, attbuf := d.attbuf, attNonceIn := d.attNonceIn, attBufIn := d.attBufIn,
              attBusy := d.attBusy, attFailed := d.attFailed, quarantine := d.quarantine, absent := d.absent, chipLost := d.chipLost :
              Device }).dev.busy =
      true
    ∧ (dev_ fun (d : Device) =>
            { boot := d.boot, bootFailed := d.bootFailed, measures := d.measures, modnum := d.modnum, tiermode := d.tiermode, opcmd := d.opcmd,
              opstate := d.opstate, opTarget := 11, busy := true, result := d.result, trip := d.trip, tripEnds := d.tripEnds,
              temps := d.temps, opsOut := d.opsOut, mreview := d.mreview, attcmd := d.attcmd, reviewBusy := d.reviewBusy,
              reviewResult := d.reviewResult, reviewReport := d.reviewReport, keyret := d.keyret, invctx := d.invctx, invva := d.invva,
              invvah := d.invvah, invpages := d.invpages, invdone := d.invdone, invs := d.invs, elog := d.elog, route0 := d.route0,
              route1 := d.route1, links := d.links, nonce := d.nonce, attbuf := d.attbuf, attNonceIn := d.attNonceIn, attBufIn := d.attBufIn,
              attBusy := d.attBusy, attFailed := d.attFailed, quarantine := d.quarantine, absent := d.absent, chipLost := d.chipLost :
              Device }).dev.opTarget =
      11 :=
  by decide +kernel
theorem witness_PowerStates_2_2_2_2_2_2_2_2_2_1 :
    10 ≤ 10 :=
  by decide +kernel
theorem witness_PowerStates_2_2_2_2_2_2_2_2_2_2_1 :
    7 < 10
    ∧ (109 < 110 ∨ State.reset.dev.trip = true) :=
  by decide +kernel
theorem witness_PowerStates_2_2_2_2_2_2_2_2_2_2_2 :
    7 < 10
    ∧ 110 ≤ 110
    ∧ State.reset.dev.trip = false
    ∧ State.reset.dev.elog = (0 : DWord) :=
  by decide +kernel
def rep (slot : Nat) (u : FailingUnit) : Repair := ⟨7, slot, u, true⟩
def reviewing (cores : Sparse Core) (scans : Sparse Scan) : State := { dev_ (fun d => { d with reviewBusy := true }) with cores := cores, scans := scans }
def outOf : Core := { (State.reset.core 511) with present := true, inService := false }
def okScans (k : Nat) : Sparse Scan := ((List.range 8).map (fun i => (i, { (State.reset.scan i) with engInService := decide (i ≠ k) }))).filter (fun e => e.2 ≠ {})
theorem witness_MarginReview_1 :
    ((dev_ fun (d : Device) =>
              { boot := d.boot, bootFailed := d.bootFailed, measures := d.measures, modnum := d.modnum, tiermode := d.tiermode, opcmd := d.opcmd,
                opstate := d.opstate, opTarget := d.opTarget, busy := d.busy, result := d.result, trip := true, tripEnds := d.tripEnds,
                temps := d.temps, opsOut := d.opsOut, mreview := d.mreview, attcmd := d.attcmd, reviewBusy := d.reviewBusy,
                reviewResult := d.reviewResult, reviewReport := d.reviewReport, keyret := d.keyret, invctx := d.invctx, invva := d.invva,
                invvah := d.invvah, invpages := d.invpages, invdone := d.invdone, invs := d.invs, elog := d.elog, route0 := d.route0,
                route1 := d.route1, links := d.links, nonce := d.nonce, attbuf := d.attbuf, attNonceIn := d.attNonceIn, attBufIn := d.attBufIn,
                attBusy := d.attBusy, attFailed := d.attFailed, quarantine := d.quarantine, absent := d.absent, chipLost := d.chipLost :
                Device }).dev.trip =
        true ∨
      (dev_ fun (d : Device) =>
              { boot := d.boot, bootFailed := d.bootFailed, measures := d.measures, modnum := d.modnum, tiermode := d.tiermode, opcmd := d.opcmd,
                opstate := d.opstate, opTarget := d.opTarget, busy := d.busy, result := d.result, trip := true, tripEnds := d.tripEnds,
                temps := d.temps, opsOut := d.opsOut, mreview := d.mreview, attcmd := d.attcmd, reviewBusy := d.reviewBusy,
                reviewResult := d.reviewResult, reviewReport := d.reviewReport, keyret := d.keyret, invctx := d.invctx, invva := d.invva,
                invvah := d.invvah, invpages := d.invpages, invdone := d.invdone, invs := d.invs, elog := d.elog, route0 := d.route0,
                route1 := d.route1, links := d.links, nonce := d.nonce, attbuf := d.attbuf, attNonceIn := d.attNonceIn, attBufIn := d.attBufIn,
                attBusy := d.attBusy, attFailed := d.attFailed, quarantine := d.quarantine, absent := d.absent, chipLost := d.chipLost :
                Device }).dev.reviewBusy =
        true) :=
  by decide +kernel
theorem witness_MarginReview_2_1 :
    State.reset.dev.trip = false
    ∧ State.reset.dev.reviewBusy = false
    ∧ (State.reset.dev.opstate ≠ 8 ∨ State.reset.dev.busy = true) :=
  by decide +kernel
theorem witness_MarginReview_2_2_1 :
    (dev_ fun (d : Device) =>
            { boot := d.boot, bootFailed := d.bootFailed, measures := d.measures, modnum := d.modnum, tiermode := d.tiermode, opcmd := d.opcmd,
              opstate := 8, opTarget := d.opTarget, busy := d.busy, result := d.result, trip := d.trip, tripEnds := d.tripEnds,
              temps := d.temps, opsOut := d.opsOut, mreview := d.mreview, attcmd := d.attcmd, reviewBusy := d.reviewBusy,
              reviewResult := d.reviewResult, reviewReport := d.reviewReport, keyret := d.keyret, invctx := d.invctx, invva := d.invva,
              invvah := d.invvah, invpages := d.invpages, invdone := d.invdone, invs := d.invs, elog := d.elog, route0 := d.route0,
              route1 := d.route1, links := d.links, nonce := d.nonce, attbuf := d.attbuf, attNonceIn := d.attNonceIn, attBufIn := d.attBufIn,
              attBusy := d.attBusy, attFailed := d.attFailed, quarantine := d.quarantine, absent := d.absent, chipLost := d.chipLost :
              Device }).dev.trip =
      false
    ∧ (dev_ fun (d : Device) =>
            { boot := d.boot, bootFailed := d.bootFailed, measures := d.measures, modnum := d.modnum, tiermode := d.tiermode, opcmd := d.opcmd,
              opstate := 8, opTarget := d.opTarget, busy := d.busy, result := d.result, trip := d.trip, tripEnds := d.tripEnds,
              temps := d.temps, opsOut := d.opsOut, mreview := d.mreview, attcmd := d.attcmd, reviewBusy := d.reviewBusy,
              reviewResult := d.reviewResult, reviewReport := d.reviewReport, keyret := d.keyret, invctx := d.invctx, invva := d.invva,
              invvah := d.invvah, invpages := d.invpages, invdone := d.invdone, invs := d.invs, elog := d.elog, route0 := d.route0,
              route1 := d.route1, links := d.links, nonce := d.nonce, attbuf := d.attbuf, attNonceIn := d.attNonceIn, attBufIn := d.attBufIn,
              attBusy := d.attBusy, attFailed := d.attFailed, quarantine := d.quarantine, absent := d.absent, chipLost := d.chipLost :
              Device }).dev.reviewBusy =
      false
    ∧ (dev_ fun (d : Device) =>
            { boot := d.boot, bootFailed := d.bootFailed, measures := d.measures, modnum := d.modnum, tiermode := d.tiermode, opcmd := d.opcmd,
              opstate := 8, opTarget := d.opTarget, busy := d.busy, result := d.result, trip := d.trip, tripEnds := d.tripEnds,
              temps := d.temps, opsOut := d.opsOut, mreview := d.mreview, attcmd := d.attcmd, reviewBusy := d.reviewBusy,
              reviewResult := d.reviewResult, reviewReport := d.reviewReport, keyret := d.keyret, invctx := d.invctx, invva := d.invva,
              invvah := d.invvah, invpages := d.invpages, invdone := d.invdone, invs := d.invs, elog := d.elog, route0 := d.route0,
              route1 := d.route1, links := d.links, nonce := d.nonce, attbuf := d.attbuf, attNonceIn := d.attNonceIn, attBufIn := d.attBufIn,
              attBusy := d.attBusy, attFailed := d.attFailed, quarantine := d.quarantine, absent := d.absent, chipLost := d.chipLost :
              Device }).dev.opstate =
      8
    ∧ (dev_ fun (d : Device) =>
            { boot := d.boot, bootFailed := d.bootFailed, measures := d.measures, modnum := d.modnum, tiermode := d.tiermode, opcmd := d.opcmd,
              opstate := 8, opTarget := d.opTarget, busy := d.busy, result := d.result, trip := d.trip, tripEnds := d.tripEnds,
              temps := d.temps, opsOut := d.opsOut, mreview := d.mreview, attcmd := d.attcmd, reviewBusy := d.reviewBusy,
              reviewResult := d.reviewResult, reviewReport := d.reviewReport, keyret := d.keyret, invctx := d.invctx, invva := d.invva,
              invvah := d.invvah, invpages := d.invpages, invdone := d.invdone, invs := d.invs, elog := d.elog, route0 := d.route0,
              route1 := d.route1, links := d.links, nonce := d.nonce, attbuf := d.attbuf, attNonceIn := d.attNonceIn, attBufIn := d.attBufIn,
              attBusy := d.attBusy, attFailed := d.attFailed, quarantine := d.quarantine, absent := d.absent, chipLost := d.chipLost :
              Device }).dev.busy =
      false :=
  by decide +kernel
theorem witness_MarginReview_2_2_2_1 :
    State.reset.dev.reviewBusy = false :=
  by decide +kernel
theorem witness_MarginReview_2_2_2_2_1 :
    7 < 8
    ∧ 63 < 65
    ∧ (if 63 = 64 then ((reviewing [(511, outOf)] []).scan 7).engInService = false
    else
      ((reviewing [(511, outOf)] []).core (64 * 7 + 63)).present = true ∧
        ((reviewing [(511, outOf)] []).core (64 * 7 + 63)).inService = false)
    ∧ (∀ (r : Repair), r ∈ [] → ¬(r.die = 7 ∧ r.slot = 63)) :=
  by decide +kernel
theorem witness_MarginReview_2_2_2_2_2_1 :
    (reviewing [] (okScans 8)).dev.reviewBusy = true
    ∧ (∀ (d k : Nat),
      d < 8 →
        k < 65 →
          ¬if k = 64 then ((reviewing [] (okScans 8)).scan d).engInService = false
            else
              ((reviewing [] (okScans 8)).core (64 * d + k)).present = true ∧
                ((reviewing [] (okScans 8)).core (64 * d + k)).inService = false) :=
  by
  refine @of_decide_eq_true _ (by letI := @decTwo; infer_instance) ?_
  decide +kernel
theorem witness_MarginReview_2_2_2_2_2_2_1 :
    (reviewing [(511, outOf)] (okScans 8)).dev.reviewBusy = true
    ∧ ((rep 63 (FailingUnit.registerBlock 3)).die < 8 ∧
      (rep 63 (FailingUnit.registerBlock 3)).slot < 65 ∧
        ∀ (d k : Nat),
          d < 8 →
            k < 65 →
              ((if k = 64 then ((reviewing [(511, outOf)] (okScans 8)).scan d).engInService = false
                else
                  ((reviewing [(511, outOf)] (okScans 8)).core (64 * d + k)).present = true ∧
                    ((reviewing [(511, outOf)] (okScans 8)).core (64 * d + k)).inService = false) ↔
                d = (rep 63 (FailingUnit.registerBlock 3)).die ∧ k = (rep 63 (FailingUnit.registerBlock 3)).slot))
    ∧ (rep 63 (FailingUnit.registerBlock 3)).slot < 64
    ∧ (reviewing [(511, outOf)] (okScans 8)).dev.elog = (0 : DWord)
    ∧ swf { : Core } (reviewing [(511, outOf)] (okScans 8)).cores = true :=
  by
  refine @of_decide_eq_true _ (by letI := @decTwo; infer_instance) ?_
  decide +kernel
theorem witness_MarginReview_2_2_2_2_2_2_2 :
    (reviewing [] (okScans 7)).dev.reviewBusy = true
    ∧ ((rep 64 FailingUnit.other).die < 8 ∧
      (rep 64 FailingUnit.other).slot < 65 ∧
        ∀ (d k : Nat),
          d < 8 →
            k < 65 →
              ((if k = 64 then ((reviewing [] (okScans 7)).scan d).engInService = false
                else
                  ((reviewing [] (okScans 7)).core (64 * d + k)).present = true ∧
                    ((reviewing [] (okScans 7)).core (64 * d + k)).inService = false) ↔
                d = (rep 64 FailingUnit.other).die ∧ k = (rep 64 FailingUnit.other).slot))
    ∧ (rep 64 FailingUnit.other).slot = 64
    ∧ (reviewing [] (okScans 7)).dev.elog = (0 : DWord) :=
  by
  refine @of_decide_eq_true _ (by letI := @decTwo; infer_instance) ?_
  decide +kernel
def stuck : State := byWarp (fun (w : Warp) => { w with passed := 256 }) (at_ .nopShort)
theorem witness_PeerAccess_2_1 :
    (storage (2 ^ 50) ≠ Storage.dram ∨ [(1 : Byte)] = []) :=
  by decide +kernel
theorem witness_PeerAccess_2_2_1 :
    storage (65536 + [(1 : Byte), (2 : Byte)].length) = Storage.dram
    ∧ [(1 : Byte), (2 : Byte)] ≠ []
    ∧ State.reset.tidy :=
  by
  refine @of_decide_eq_true _ (by letI := @decTidy; infer_instance) ?_
  decide +kernel
theorem witness_PeerAccess_2_2_2_1 :
    (storage 65536 ≠ Storage.dram ∨
      (let __src := State.reset;
            { agenda := __src.agenda, freeCtr := __src.freeCtr, cur := __src.cur, clock := __src.clock, time := __src.time, wall := __src.wall,
              nextId := __src.nextId, mem := __src.mem, unitKey := __src.unitKey, scrambled := __src.scrambled, owner := __src.owner,
              poison := [256], devWritten := __src.devWritten, keyGen := __src.keyGen, l1 := __src.l1, icache := __src.icache,
              tlb := __src.tlb, ctxs := __src.ctxs, nodes := __src.nodes, groups := __src.groups, warps := __src.warps, ops := __src.ops,
              cores := __src.cores, wadi := __src.wadi, faults := __src.faults, saved := __src.saved, scans := __src.scans,
              memStacks := __src.memStacks, dev := __src.dev : State }).poisoned
          65536 AtomOp.casB32.bytes =
        true) :=
  by decide +kernel
theorem witness_PeerAccess_2_2_2_2 :
    storage (65536 + AtomOp.casB32.bytes) = Storage.dram
    ∧ State.reset.poisoned 65536 AtomOp.casB32.bytes = false
    ∧ State.reset.readNat 0 65536 AtomOp.casB32.bytes = (0, State.reset) :=
  by decide +kernel

end W20

/-! ## Premises met: `Obligations.WadiInstructions`, `Obligations.WadiSteps` -/

namespace W21

def flg (s : State) := byFibre (fun f => { f with flags := [(2, 2)] }) s
def flagged2 (s : State) := byWarp (fun (w : Warp) => { w with active := w.active.map (fun (a : Active) => { a with header := soloHeader 2 - 15 * 2 ^ 21 + 2 * 2 ^ 21 }) }) (flg s)
def rr (l : Nat) : Sparse Word := [(4, BitVec.ofNat 32 (0x20000 + 64 * l)), (6, 7), (8, BitVec.ofNat 32 (l + 1)), (9, BitVec.ofNat 32 (l + 5)), (10, 0x20001), (12, 2)]
def iO : Instr := .wopen always (.v 4) 255 false
def sO : State := flagged2 (fourAt iO rr)
theorem witness_WadiInstructions_1 :
    Issues sO (Instr.wopen always (Reg.v (4 : Fin 608)) (255 : BitVec 8) false) (wOf sO) (aOf sO) (gOf sO) (x0 sO iO :: (xOf sO iO).tail)
      [] []
    ∧ NoOpenOperand (Instr.wopen always (Reg.v (4 : Fin 608)) (255 : BitVec 8) false) (gOf sO) (x0 sO iO :: (xOf sO iO).tail) []
    ∧ (BitVec.setWidth 52 ((x0 sO iO).pair (gOf sO) (Reg.v (4 : Fin 608)))).toNat % 64 = 0 :=
  by
  refine @of_decide_eq_true _ (by letI := @decIssues; letI := @decNoOpen; infer_instance) ?_
  decide +kernel
def iOm : Instr := .wopen always (.v 10) 255 false
def sOm : State := fourAt iOm rr
theorem witness_WadiInstructions_2_1 :
    Issues sOm (Instr.wopen always (Reg.v (10 : Fin 608)) (255 : BitVec 8) false) (wOf sOm) (aOf sOm) (gOf sOm)
      (x0 sOm iOm :: (xOf sOm iOm).tail) [] []
    ∧ (∀ (k : Fibre), k ∈ (xOf sOm iOm).tail → (wOf sOm).vlane k.lane ≠ (wOf sOm).vlane (x0 sOm iOm).lane)
    ∧ (BitVec.setWidth 52 ((x0 sOm iOm).pair (gOf sOm) (Reg.v (10 : Fin 608)))).toNat % 64 ≠ 0 :=
  by
  refine @of_decide_eq_true _ (by letI := @decIssues; infer_instance) ?_
  decide +kernel
def iR : Instr := .wred always (.v 8) (.v 6) (.v 4) 4 1 false
def sR : State := flagged2 (fourAt iR rr)
theorem witness_WadiInstructions_2_2_1 :
    Issues sR
      (Instr.wred always (Reg.v (8 : Fin 608)) (Reg.v (6 : Fin 608)) (Reg.v (4 : Fin 608)) (4 : BitVec 8)
        (1 : BitVec 5) false)
      (wOf sR) (aOf sR) (gOf sR) (x0 sR iR :: (xOf sR iR).tail) [] []
    ∧ NoOpenOperand
      (Instr.wred always (Reg.v (8 : Fin 608)) (Reg.v (6 : Fin 608)) (Reg.v (4 : Fin 608)) (4 : BitVec 8)
        (1 : BitVec 5) false)
      (gOf sR) (x0 sR iR :: (xOf sR iR).tail) [] :=
  by
  refine @of_decide_eq_true _ (by letI := @decIssues; letI := @decNoOpen; infer_instance) ?_
  decide +kernel
def iC : Instr := .wclose always 0 false
def sC : State := flagged2 (fourAt iC rr)
theorem witness_WadiInstructions_2_2_2_1 :
    Issues sC (Instr.wclose always (0 : BitVec 8) false) (wOf sC) (aOf sC) (gOf sC) (x0 sC iC :: (xOf sC iC).tail) [] []
    ∧ NoOpenOperand (Instr.wclose always (0 : BitVec 8) false) (gOf sC) (x0 sC iC :: (xOf sC iC).tail) [] :=
  by
  refine @of_decide_eq_true _ (by letI := @decIssues; letI := @decNoOpen; infer_instance) ?_
  decide +kernel
/-- A channel of two contributors on die 0, that adds vectors of two elements. -/
def chan0 : Chan :=
  { ch := 4, ctx := 0, op := 2, span := 0, top := 0, elems := 2, dieBudget := 5, devBudget := 6, fabBudget := 0, slots := 4, result := 0x30000,
    corr := 0x40000, cap := 2, word := 0x50000, map := [0, 0], block := [], nodes := [{ lvl := 0 }], transit := [], written := [] }
def tables (s : State) : State := tabled [(3, 0, 9), (4, 0, 10), (5, 0, 11)] s
def withChan (c : Chan) (s : State) : State := { s with wadi := [c] }
def iW : Instr := .wwait always (.v 5) (.v 6) 4
def iK : Instr := .wcorr always (.v 5) (.v 6) (.v 12) 4
def sW (i : Instr) (c : Chan) : State := withChan c (tables (at_ i (rr 0)))
def full : Chan := { chan0 with written := [(7, 1, [0, 1]), (6, 1, [0, 1])] }
def past : Chan := { chan0 with written := [(11, 1, [0, 1])] }
def partial_ : Chan := { chan0 with written := [(7, 8, [1])] }
theorem witness_WadiInstructions_2_2_2_2_1 :
    Issues (sW iW past) (Instr.wwait always (Reg.v (5 : Fin 608)) (Reg.v (6 : Fin 608)) (4 : BitVec 8)) (wOf (sW iW past))
      (aOf (sW iW past)) (gOf (sW iW past)) (xOf (sW iW past) iW) [] []
    ∧ NoOpenOperand (Instr.wwait always (Reg.v (5 : Fin 608)) (Reg.v (6 : Fin 608)) (4 : BitVec 8)) (gOf (sW iW past))
      (xOf (sW iW past) iW) [] :=
  by
  refine @of_decide_eq_true _ (by letI := @decIssues; letI := @decNoOpen; infer_instance) ?_
  decide +kernel
theorem witness_WadiInstructions_2_2_2_2_1b :
    Issues (sW iW full) (Instr.wwait always (Reg.v (5 : Fin 608)) (Reg.v (6 : Fin 608)) (4 : BitVec 8)) (wOf (sW iW full))
      (aOf (sW iW full)) (gOf (sW iW full)) (xOf (sW iW full) iW) [] []
    ∧ NoOpenOperand (Instr.wwait always (Reg.v (5 : Fin 608)) (Reg.v (6 : Fin 608)) (4 : BitVec 8)) (gOf (sW iW full))
      (xOf (sW iW full) iW) [] :=
  by
  refine @of_decide_eq_true _ (by letI := @decIssues; letI := @decNoOpen; infer_instance) ?_
  decide +kernel
theorem witness_WadiInstructions_2_2_2_2_1c :
    Issues (sW iW chan0) (Instr.wwait always (Reg.v (5 : Fin 608)) (Reg.v (6 : Fin 608)) (4 : BitVec 8)) (wOf (sW iW chan0))
      (aOf (sW iW chan0)) (gOf (sW iW chan0)) (xOf (sW iW chan0) iW) [] []
    ∧ NoOpenOperand (Instr.wwait always (Reg.v (5 : Fin 608)) (Reg.v (6 : Fin 608)) (4 : BitVec 8)) (gOf (sW iW chan0))
      (xOf (sW iW chan0) iW) [] :=
  by
  refine @of_decide_eq_true _ (by letI := @decIssues; letI := @decNoOpen; infer_instance) ?_
  decide +kernel
theorem witness_WadiInstructions_2_2_2_2_2 :
    Issues (sW iK past)
      (Instr.wcorr always (Reg.v (5 : Fin 608)) (Reg.v (6 : Fin 608)) (Reg.v (12 : Fin 608)) (4 : BitVec 8))
      (wOf (sW iK past)) (aOf (sW iK past)) (gOf (sW iK past)) (xOf (sW iK past) iK) [] []
    ∧ NoOpenOperand (Instr.wcorr always (Reg.v (5 : Fin 608)) (Reg.v (6 : Fin 608)) (Reg.v (12 : Fin 608)) (4 : BitVec 8))
      (gOf (sW iK past)) (xOf (sW iK past) iK) []
    ∧ (∀ (f : Fibre),
      f ∈ xOf (sW iK past) iK →
        ∀ (c : Chan) (st : Word) (ids : List Nat),
          List.find? (fun (x : Chan) => decide (x.ch = BitVec.toNat (4 : BitVec 8))) (sW iK past).wadi = some c ∧
              c.ctx = (gOf (sW iK past)).ctx →
            List.find? (fun (x : Word × Word × List Nat) => decide (x.fst = f.word (gOf (sW iK past)) (Reg.v (6 : Fin 608)))) c.written =
                some (f.word (gOf (sW iK past)) (Reg.v (6 : Fin 608)), st, ids) →
              ∃ (n : Nat),
                ∃ (more : List Nat),
                  (sW iK past).walkerNat c.ctx c.corr 4 = (n, sW iK past) ∧
                    (sW iK past).corrIds c (f.word (gOf (sW iK past)) (Reg.v (6 : Fin 608))) (min n c.cap) 0 = (more, sW iK past)) :=
  by
  refine @of_decide_eq_true _ (by letI := @decIssues; letI := @decNoOpen; letI := @decReads; letI := @decRecord; infer_instance) ?_
  decide +kernel
theorem witness_WadiInstructions_2_2_2_2_2b :
    Issues (sW iK full)
      (Instr.wcorr always (Reg.v (5 : Fin 608)) (Reg.v (6 : Fin 608)) (Reg.v (12 : Fin 608)) (4 : BitVec 8))
      (wOf (sW iK full)) (aOf (sW iK full)) (gOf (sW iK full)) (xOf (sW iK full) iK) [] []
    ∧ NoOpenOperand (Instr.wcorr always (Reg.v (5 : Fin 608)) (Reg.v (6 : Fin 608)) (Reg.v (12 : Fin 608)) (4 : BitVec 8))
      (gOf (sW iK full)) (xOf (sW iK full) iK) []
    ∧ (∀ (f : Fibre),
      f ∈ xOf (sW iK full) iK →
        ∀ (c : Chan) (st : Word) (ids : List Nat),
          List.find? (fun (x : Chan) => decide (x.ch = BitVec.toNat (4 : BitVec 8))) (sW iK full).wadi = some c ∧
              c.ctx = (gOf (sW iK full)).ctx →
            List.find? (fun (x : Word × Word × List Nat) => decide (x.fst = f.word (gOf (sW iK full)) (Reg.v (6 : Fin 608)))) c.written =
                some (f.word (gOf (sW iK full)) (Reg.v (6 : Fin 608)), st, ids) →
              ∃ (n : Nat),
                ∃ (more : List Nat),
                  (sW iK full).walkerNat c.ctx c.corr 4 = (n, sW iK full) ∧
                    (sW iK full).corrIds c (f.word (gOf (sW iK full)) (Reg.v (6 : Fin 608))) (min n c.cap) 0 = (more, sW iK full)) :=
  by
  refine @of_decide_eq_true _ (by letI := @decIssues; letI := @decNoOpen; letI := @decReads; letI := @decRecord; infer_instance) ?_
  decide +kernel
theorem witness_WadiInstructions_2_2_2_2_2c :
    Issues (sW iK partial_)
      (Instr.wcorr always (Reg.v (5 : Fin 608)) (Reg.v (6 : Fin 608)) (Reg.v (12 : Fin 608)) (4 : BitVec 8))
      (wOf (sW iK partial_)) (aOf (sW iK partial_)) (gOf (sW iK partial_)) (xOf (sW iK partial_) iK) [] []
    ∧ NoOpenOperand (Instr.wcorr always (Reg.v (5 : Fin 608)) (Reg.v (6 : Fin 608)) (Reg.v (12 : Fin 608)) (4 : BitVec 8))
      (gOf (sW iK partial_)) (xOf (sW iK partial_) iK) []
    ∧ (∀ (f : Fibre),
      f ∈ xOf (sW iK partial_) iK →
        ∀ (c : Chan) (st : Word) (ids : List Nat),
          List.find? (fun (x : Chan) => decide (x.ch = BitVec.toNat (4 : BitVec 8))) (sW iK partial_).wadi = some c ∧
              c.ctx = (gOf (sW iK partial_)).ctx →
            List.find? (fun (x : Word × Word × List Nat) => decide (x.fst = f.word (gOf (sW iK partial_)) (Reg.v (6 : Fin 608)))) c.written =
                some (f.word (gOf (sW iK partial_)) (Reg.v (6 : Fin 608)), st, ids) →
              ∃ (n : Nat),
                ∃ (more : List Nat),
                  (sW iK partial_).walkerNat c.ctx c.corr 4 = (n, sW iK partial_) ∧
                    (sW iK partial_).corrIds c (f.word (gOf (sW iK partial_)) (Reg.v (6 : Fin 608))) (min n c.cap) 0 =
                      (more, sW iK partial_)) :=
  by
  refine @of_decide_eq_true _ (by letI := @decIssues; letI := @decNoOpen; letI := @decReads; letI := @decRecord; infer_instance) ?_
  decide +kernel
theorem witness_WadiInstructions_2_2_2_2_2d :
    Issues (sW iK chan0)
      (Instr.wcorr always (Reg.v (5 : Fin 608)) (Reg.v (6 : Fin 608)) (Reg.v (12 : Fin 608)) (4 : BitVec 8))
      (wOf (sW iK chan0)) (aOf (sW iK chan0)) (gOf (sW iK chan0)) (xOf (sW iK chan0) iK) [] []
    ∧ NoOpenOperand (Instr.wcorr always (Reg.v (5 : Fin 608)) (Reg.v (6 : Fin 608)) (Reg.v (12 : Fin 608)) (4 : BitVec 8))
      (gOf (sW iK chan0)) (xOf (sW iK chan0) iK) []
    ∧ (∀ (f : Fibre),
      f ∈ xOf (sW iK chan0) iK →
        ∀ (c : Chan) (st : Word) (ids : List Nat),
          List.find? (fun (x : Chan) => decide (x.ch = BitVec.toNat (4 : BitVec 8))) (sW iK chan0).wadi = some c ∧
              c.ctx = (gOf (sW iK chan0)).ctx →
            List.find? (fun (x : Word × Word × List Nat) => decide (x.fst = f.word (gOf (sW iK chan0)) (Reg.v (6 : Fin 608)))) c.written =
                some (f.word (gOf (sW iK chan0)) (Reg.v (6 : Fin 608)), st, ids) →
              ∃ (n : Nat),
                ∃ (more : List Nat),
                  (sW iK chan0).walkerNat c.ctx c.corr 4 = (n, sW iK chan0) ∧
                    (sW iK chan0).corrIds c (f.word (gOf (sW iK chan0)) (Reg.v (6 : Fin 608))) (min n c.cap) 0 = (more, sW iK chan0)) :=
  by
  refine @of_decide_eq_true _ (by letI := @decIssues; letI := @decNoOpen; letI := @decReads; letI := @decRecord; infer_instance) ?_
  decide +kernel
-- steps
def wOp (k : OpKind) : Op := { loadOp with id := 30, issue := 30, gid := 1, fids := [0], flag := some 2, kind := k, pins := [(0x20000, 0x70000, 0)], wpins := [(0x20000, 0x70000, 0)] }
/-- A channel block with an element count. -/
def cfg (elems : Nat) : List Byte := bytesOf 4 2 ++ bytesOf 4 elems ++ bytesOf 2 5 ++ bytesOf 2 6 ++ bytesOf 4 0 ++ bytesOf 2 0 ++ bytesOf 2 0 ++ bytesOf 4 4 ++ bytesOf 8 0x30000 ++ bytesOf 8 0x40000 ++ bytesOf 4 2 ++ bytesOf 4 0 ++ bytesOf 8 0x50000 ++ bytesOf 8 0 ++ bytesOf 4 0 ++ (List.range 2044).map (fun _ => 0xFF)
def step_ (k : OpKind) (l : List Chan) (s : State) : State := { asGroup1 (flg (inFlight [wOp k] s)) with wadi := l }
def sA (elems : Nat) (l : List Chan) : State := step_ (.wopen 4 0x20000) l (bytesAt 0x70000 (cfg elems) (mapped 2 0 7 0 (at_ .nopShort)))
theorem witness_WadiSteps_1 :
    (sA 0 []).op? (wOp (OpKind.wopen 4 (131072 : VAddr))).id = some (wOp (OpKind.wopen 4 (131072 : VAddr)))
    ∧ (wOp (OpKind.wopen 4 (131072 : VAddr))).kind = OpKind.wopen 4 (131072 : VAddr)
    ∧ (sA 0 []).sent (wOp (OpKind.wopen 4 (131072 : VAddr))) = true
    ∧ (sA 0 []).engineOpen (wOp (OpKind.wopen 4 (131072 : VAddr))).id
        [(BitVec.toNat (131072 : VAddr), 2112, Access.read), (BitVec.toNat (131072 : VAddr) + 12, 4, Access.write)] =
      (true, sA 0 [])
    ∧ ((sA 0 []).engineRead (wOp (OpKind.wopen 4 (131072 : VAddr))).id (BitVec.toNat (131072 : VAddr)) 2112).snd = sA 0 []
    ∧ (sA 0 []).tidy
    ∧ (∀ (i : Nat),
      i < 4 →
        pinned (wOp (OpKind.wopen 4 (131072 : VAddr))).wpins ((BitVec.toNat (131072 : VAddr) + 12 + i) % 2 ^ 52) =
          some (458764 + i, 0))
    ∧ (¬have span :=
        natOf
              (List.take 4
                (List.drop 0
                  ((sA 0 []).engineRead (wOp (OpKind.wopen 4 (131072 : VAddr))).id (BitVec.toNat (131072 : VAddr))
                      2112).fst)) /
            256 %
          4;
      have top :=
        natOf
              (List.take 4
                (List.drop 0
                  ((sA 0 []).engineRead (wOp (OpKind.wopen 4 (131072 : VAddr))).id (BitVec.toNat (131072 : VAddr))
                      2112).fst)) /
            1024 %
          64;
      natOf
                (List.take 4
                  (List.drop 0
                    ((sA 0 []).engineRead (wOp (OpKind.wopen 4 (131072 : VAddr))).id (BitVec.toNat (131072 : VAddr))
                        2112).fst)) /
              4 %
            64 =
          0 ∧
        natOf
                (List.take 4
                  (List.drop 0
                    ((sA 0 []).engineRead (wOp (OpKind.wopen 4 (131072 : VAddr))).id (BitVec.toNat (131072 : VAddr))
                        2112).fst)) /
              2 ^ 16 =
            0 ∧
          span ≤ 2 ∧
            1 ≤
                natOf
                  (List.take 4
                    (List.drop 4
                      ((sA 0 []).engineRead (wOp (OpKind.wopen 4 (131072 : VAddr))).id (BitVec.toNat (131072 : VAddr))
                          2112).fst)) ∧
              natOf
                    (List.take 4
                      (List.drop 4
                        ((sA 0 []).engineRead (wOp (OpKind.wopen 4 (131072 : VAddr))).id (BitVec.toNat (131072 : VAddr))
                            2112).fst)) ≤
                  1024 ∧
                1 ≤
                    natOf
                      (List.take 2
                        (List.drop 8
                          ((sA 0 []).engineRead (wOp (OpKind.wopen 4 (131072 : VAddr))).id (BitVec.toNat (131072 : VAddr))
                              2112).fst)) ∧
                  1 ≤
                      natOf
                        (List.take 2
                          (List.drop 10
                            ((sA 0 []).engineRead (wOp (OpKind.wopen 4 (131072 : VAddr))).id (BitVec.toNat (131072 : VAddr))
                                2112).fst)) ∧
                    (if span = 2 then
                        1 ≤
                          natOf
                            (List.take 2
                              (List.drop 16
                                ((sA 0 []).engineRead (wOp (OpKind.wopen 4 (131072 : VAddr))).id (BitVec.toNat (131072 : VAddr))
                                    2112).fst))
                      else
                        natOf
                            (List.take 2
                              (List.drop 16
                                ((sA 0 []).engineRead (wOp (OpKind.wopen 4 (131072 : VAddr))).id (BitVec.toNat (131072 : VAddr))
                                    2112).fst)) =
                          0) ∧
                      natOf
                            (List.take 2
                              (List.drop 18
                                ((sA 0 []).engineRead (wOp (OpKind.wopen 4 (131072 : VAddr))).id (BitVec.toNat (131072 : VAddr))
                                    2112).fst)) =
                          0 ∧
                        1 ≤
                            natOf
                              (List.take 4
                                (List.drop 20
                                  ((sA 0 []).engineRead (wOp (OpKind.wopen 4 (131072 : VAddr))).id (BitVec.toNat (131072 : VAddr))
                                      2112).fst)) ∧
                          natOf
                                (List.take 4
                                  (List.drop 20
                                    ((sA 0 []).engineRead (wOp (OpKind.wopen 4 (131072 : VAddr))).id (BitVec.toNat (131072 : VAddr))
                                        2112).fst)) ≤
                              256 ∧
                            natOf
                                      (List.take 8
                                        (List.drop 24
                                          ((sA 0 []).engineRead (wOp (OpKind.wopen 4 (131072 : VAddr))).id
                                              (BitVec.toNat (131072 : VAddr)) 2112).fst)) %
                                    2 ^ 52 %
                                  16 =
                                0 ∧
                              natOf
                                        (List.take 8
                                          (List.drop 32
                                            ((sA 0 []).engineRead (wOp (OpKind.wopen 4 (131072 : VAddr))).id
                                                (BitVec.toNat (131072 : VAddr)) 2112).fst)) %
                                      2 ^ 52 %
                                    16 =
                                  0 ∧
                                natOf
                                      (List.take 4
                                        (List.drop 40
                                          ((sA 0 []).engineRead (wOp (OpKind.wopen 4 (131072 : VAddr))).id
                                              (BitVec.toNat (131072 : VAddr)) 2112).fst)) ≤
                                    65535 ∧
                                  natOf
                                        (List.take 4
                                          (List.drop 44
                                            ((sA 0 []).engineRead (wOp (OpKind.wopen 4 (131072 : VAddr))).id
                                                (BitVec.toNat (131072 : VAddr)) 2112).fst)) =
                                      0 ∧
                                    natOf
                                              (List.take 8
                                                (List.drop 48
                                                  ((sA 0 []).engineRead (wOp (OpKind.wopen 4 (131072 : VAddr))).id
                                                      (BitVec.toNat (131072 : VAddr)) 2112).fst)) %
                                            2 ^ 52 %
                                          4 =
                                        0 ∧
                                      natOf
                                            (List.take 8
                                              (List.drop 56
                                                ((sA 0 []).engineRead (wOp (OpKind.wopen 4 (131072 : VAddr))).id
                                                    (BitVec.toNat (131072 : VAddr)) 2112).fst)) =
                                          0 ∧
                                        List.filter (fun (d : Nat) => decide (d ≠ 65535))
                                              (List.map
                                                (fun (i : Nat) =>
                                                  natOf
                                                    (List.take 2
                                                      (List.drop (64 + 2 * i)
                                                        ((sA 0 []).engineRead (wOp (OpKind.wopen 4 (131072 : VAddr))).id
                                                            (BitVec.toNat (131072 : VAddr)) 2112).fst)))
                                                (List.range 1024)) ≠
                                            [] ∧
                                          (∀ (d : Nat),
                                              d ∈
                                                  List.filter (fun (d : Nat) => decide (d ≠ 65535))
                                                    (List.map
                                                      (fun (i : Nat) =>
                                                        natOf
                                                          (List.take 2
                                                            (List.drop (64 + 2 * i)
                                                              ((sA 0 []).engineRead (wOp (OpKind.wopen 4 (131072 : VAddr))).id
                                                                  (BitVec.toNat (131072 : VAddr)) 2112).fst)))
                                                      (List.range 1024)) →
                                                d < 512) ∧
                                            (span = 0 →
                                                ∀ (d : Nat),
                                                  d ∈
                                                      List.filter (fun (d : Nat) => decide (d ≠ 65535))
                                                        (List.map
                                                          (fun (i : Nat) =>
                                                            natOf
                                                              (List.take 2
                                                                (List.drop (64 + 2 * i)
                                                                  ((sA 0 []).engineRead (wOp (OpKind.wopen 4 (131072 : VAddr))).id
                                                                      (BitVec.toNat (131072 : VAddr)) 2112).fst)))
                                                          (List.range 1024)) →
                                                    d =
                                                      8 * (sA 0 []).dev.modnum +
                                                        (wOp (OpKind.wopen 4 (131072 : VAddr))).core / 64) ∧
                                              (span = 1 →
                                                  ∀ (d : Nat),
                                                    d ∈
                                                        List.filter (fun (d : Nat) => decide (d ≠ 65535))
                                                          (List.map
                                                            (fun (i : Nat) =>
                                                              natOf
                                                                (List.take 2
                                                                  (List.drop (64 + 2 * i)
                                                                    ((sA 0 []).engineRead (wOp (OpKind.wopen 4 (131072 : VAddr))).id
                                                                        (BitVec.toNat (131072 : VAddr)) 2112).fst)))
                                                            (List.range 1024)) →
                                                      d / 8 = (sA 0 []).dev.modnum) ∧
                                                (span = 2 → top = (sA 0 []).dev.modnum ∨ (sA 0 []).reachable top = true)) :=
  by
  refine @of_decide_eq_true _ (by letI := @decTidy; try dsimp only; infer_instance) ?_
  decide +kernel
def es : List (Option Word) := [some 3, none]
def gives (r : Word) (id : Nat) : OpKind := .wred 4 r id es
def sG (r : Word) (id : Nat) (l : List Chan) : State := step_ (gives r id) l (tables (at_ .nopShort))
theorem witness_WadiSteps_2_1 :
    ((sG (5 : Word) 0 []).op? (wOp (gives (5 : Word) 0)).id = some (wOp (gives (5 : Word) 0)) ∧
      (wOp (gives (5 : Word) 0)).kind = OpKind.wred 4 (5 : Word) 0 es ∧
        (wOp (gives (5 : Word) 0)).stage = OpStage.issued ∧
          ∀ (a : Op),
            a ∈ (sG (5 : Word) 0 []).ops →
              a.gid = (wOp (gives (5 : Word) 0)).gid →
                a.order < (wOp (gives (5 : Word) 0)).order →
                  (∃ (f : Nat), f ∈ a.fids ∧ f ∈ (wOp (gives (5 : Word) 0)).fids) →
                    ∀ (c : Nat) (q : Word) (i : Nat) (v : List (Option Word)),
                      a.kind = OpKind.wred c q i v → a.stage ≠ OpStage.issued ∧ ¬(c = 4 ∧ q = (5 : Word)))
    ∧ (∀ (c : Chan),
      List.find? (fun (x : Chan) => decide (x.ch = 4)) (sG (5 : Word) 0 []).wadi = some c →
        c.ctx = (wOp (gives (5 : Word) 0)).ctx → c.closing = true)
    ∧ (∀ (c : Chan) (m : WNode),
      List.find? (fun (x : Chan) => decide (x.ch = 4)) (sG (5 : Word) 0 []).wadi = some c →
        List.find? (fun (x : WNode) => decide (x.lvl = (wOp (gives (5 : Word) 0)).core / 64)) c.nodes = some m ∧
            (List.map (fun (x : WNode) => x.lvl) c.nodes).Nodup →
          List.find? (fun (x : Chan) => decide (x.ch = 4)) (sG (5 : Word) 0 []).wadi = some c ∧
            (List.find? (fun (x : WNode) => decide (x.lvl = (wOp (gives (5 : Word) 0)).core / 64)) c.nodes = some m ∧
                (List.map (fun (x : WNode) => x.lvl) c.nodes).Nodup) ∧
              (sG (5 : Word) 0 []).wadiWaiting c.ch ((wOp (gives (5 : Word) 0)).core / 64) = [] ∧
                (∀ (t : Nat × Nat), m.taken = some t → t.fst ≠ (sG (5 : Word) 0 []).clock) ∧
                  ∀ (l : Word),
                    m.last = some l →
                      ∀ (q : Round),
                        q ∈ m.rounds →
                          q.round = l + (1 : Word) →
                            (sG (5 : Word) 0 []).time <
                              q.first +
                                10 * Config.ns *
                                  if (wOp (gives (5 : Word) 0)).core / 64 < 8 then c.dieBudget
                                  else if (wOp (gives (5 : Word) 0)).core / 64 = 8 then c.devBudget else c.fabBudget)
    ∧ (sG (5 : Word) 0 []).dev.elog = (0 : DWord) :=
  ⟨@of_decide_eq_true _ (by letI := @decTidy; letI := @decAll; letI := @decSome; letI := @decWred; infer_instance) (by decide +kernel), @of_decide_eq_true _ (by letI := @decTidy; letI := @decAll; letI := @decSome; letI := @decWred; infer_instance) (by decide +kernel), fun c _ h => absurd (show (none : Option Chan) = some c from h) nofun, @of_decide_eq_true _ (by letI := @decTidy; letI := @decAll; letI := @decSome; letI := @decWred; infer_instance) (by decide +kernel)⟩
theorem witness_WadiSteps_2_1b :
    ((sG (5 : Word) 1023 [chan0]).op? (wOp (gives (5 : Word) 1023)).id = some (wOp (gives (5 : Word) 1023)) ∧
      (wOp (gives (5 : Word) 1023)).kind = OpKind.wred 4 (5 : Word) 1023 es ∧
        (wOp (gives (5 : Word) 1023)).stage = OpStage.issued ∧
          ∀ (a : Op),
            a ∈ (sG (5 : Word) 1023 [chan0]).ops →
              a.gid = (wOp (gives (5 : Word) 1023)).gid →
                a.order < (wOp (gives (5 : Word) 1023)).order →
                  (∃ (f : Nat), f ∈ a.fids ∧ f ∈ (wOp (gives (5 : Word) 1023)).fids) →
                    ∀ (c : Nat) (q : Word) (i : Nat) (v : List (Option Word)),
                      a.kind = OpKind.wred c q i v → a.stage ≠ OpStage.issued ∧ ¬(c = 4 ∧ q = (5 : Word)))
    ∧ (List.find? (fun (x : Chan) => decide (x.ch = 4)) (sG (5 : Word) 1023 [chan0]).wadi = some chan0 ∧
      (List.find? (fun (x : WNode) => decide (x.lvl = (wOp (gives (5 : Word) 1023)).core / 64)) chan0.nodes =
            some { lvl := 0 : WNode } ∧
          (List.map (fun (x : WNode) => x.lvl) chan0.nodes).Nodup) ∧
        (sG (5 : Word) 1023 [chan0]).wadiWaiting chan0.ch ((wOp (gives (5 : Word) 1023)).core / 64) = [] ∧
          (∀ (t : Nat × Nat), none = some t → t.fst ≠ (sG (5 : Word) 1023 [chan0]).clock) ∧
            ∀ (l : Word),
              none = some l →
                ∀ (q : Round),
                  q ∈ [] →
                    q.round = l + (1 : Word) →
                      (sG (5 : Word) 1023 [chan0]).time <
                        q.first +
                          10 * Config.ns *
                            if (wOp (gives (5 : Word) 1023)).core / 64 < 8 then chan0.dieBudget
                            else if (wOp (gives (5 : Word) 1023)).core / 64 = 8 then chan0.devBudget else chan0.fabBudget)
    ∧ chan0.ctx = (wOp (gives (5 : Word) 1023)).ctx
    ∧ chan0.closing = false
    ∧ (¬(chan0.ctx = (wOp (gives (5 : Word) 1023)).ctx ∧
          chan0.closing = false ∧
            chan0.map.getD 1023 65535 =
              8 * (sG (5 : Word) 1023 [chan0]).dev.modnum + (wOp (gives (5 : Word) 1023)).core / 64) ∨
      (((5 : Word), 1023) ∈ [] ∨ ∃ (q : Round), q ∈ [] ∧ q.round = (5 : Word) ∧ 1023 ∈ q.ids) ∧
        ∀ (l : Word), none = some l → 1 ≤ BitVec.toNat ((5 : Word) - l) ∧ BitVec.toNat ((5 : Word) - l) < 2 ^ 31) :=
  by
  refine @of_decide_eq_true _ (by letI := @decAll; letI := @decWred; infer_instance) ?_
  decide +kernel
def node5 (l : List Round) : Chan := { chan0 with nodes := [{ lvl := 0, last := some 5, rounds := l }] }
theorem witness_WadiSteps_2_1c :
    ((sG (8 : Word) 1 [node5 []]).op? (wOp (gives (8 : Word) 1)).id = some (wOp (gives (8 : Word) 1)) ∧
      (wOp (gives (8 : Word) 1)).kind = OpKind.wred 4 (8 : Word) 1 es ∧
        (wOp (gives (8 : Word) 1)).stage = OpStage.issued ∧
          ∀ (a : Op),
            a ∈ (sG (8 : Word) 1 [node5 []]).ops →
              a.gid = (wOp (gives (8 : Word) 1)).gid →
                a.order < (wOp (gives (8 : Word) 1)).order →
                  (∃ (f : Nat), f ∈ a.fids ∧ f ∈ (wOp (gives (8 : Word) 1)).fids) →
                    ∀ (c : Nat) (q : Word) (i : Nat) (v : List (Option Word)),
                      a.kind = OpKind.wred c q i v → a.stage ≠ OpStage.issued ∧ ¬(c = 4 ∧ q = (8 : Word)))
    ∧ (List.find? (fun (x : Chan) => decide (x.ch = 4)) (sG (8 : Word) 1 [node5 []]).wadi = some (node5 []) ∧
      (List.find? (fun (x : WNode) => decide (x.lvl = (wOp (gives (8 : Word) 1)).core / 64)) (node5 []).nodes =
            some { lvl := 0, last := some (5 : Word) : WNode } ∧
          (List.map (fun (x : WNode) => x.lvl) (node5 []).nodes).Nodup) ∧
        (sG (8 : Word) 1 [node5 []]).wadiWaiting (node5 []).ch ((wOp (gives (8 : Word) 1)).core / 64) = [] ∧
          (∀ (t : Nat × Nat), none = some t → t.fst ≠ (sG (8 : Word) 1 [node5 []]).clock) ∧
            ∀ (l : Word),
              some (5 : Word) = some l →
                ∀ (q : Round),
                  q ∈ [] →
                    q.round = l + (1 : Word) →
                      (sG (8 : Word) 1 [node5 []]).time <
                        q.first +
                          10 * Config.ns *
                            if (wOp (gives (8 : Word) 1)).core / 64 < 8 then (node5 []).dieBudget
                            else
                              if (wOp (gives (8 : Word) 1)).core / 64 = 8 then (node5 []).devBudget else (node5 []).fabBudget)
    ∧ ((node5 []).ctx = (wOp (gives (8 : Word) 1)).ctx ∧
      (node5 []).closing = false ∧
        (node5 []).map.getD 1 65535 =
          8 * (sG (8 : Word) 1 [node5 []]).dev.modnum + (wOp (gives (8 : Word) 1)).core / 64)
    ∧ ¬((8 : Word), 1) ∈ []
    ∧ some (5 : Word) = some (5 : Word)
    ∧ (1 ≤ BitVec.toNat ((8 : Word) - (5 : Word)) ∧ BitVec.toNat ((8 : Word) - (5 : Word)) < 2 ^ 31)
    ∧ 2 < BitVec.toNat ((8 : Word) - (5 : Word))
    ∧ (∀ (q : Round), q ∈ [] → q.round ≠ (8 : Word)) :=
  by
  refine @of_decide_eq_true _ (by letI := @decAll; letI := @decWred; infer_instance) ?_
  decide +kernel
theorem witness_WadiSteps_2_1d :
    ((sG (8 : Word) 1 [chan0]).op? (wOp (gives (8 : Word) 1)).id = some (wOp (gives (8 : Word) 1)) ∧
      (wOp (gives (8 : Word) 1)).kind = OpKind.wred 4 (8 : Word) 1 es ∧
        (wOp (gives (8 : Word) 1)).stage = OpStage.issued ∧
          ∀ (a : Op),
            a ∈ (sG (8 : Word) 1 [chan0]).ops →
              a.gid = (wOp (gives (8 : Word) 1)).gid →
                a.order < (wOp (gives (8 : Word) 1)).order →
                  (∃ (f : Nat), f ∈ a.fids ∧ f ∈ (wOp (gives (8 : Word) 1)).fids) →
                    ∀ (c : Nat) (q : Word) (i : Nat) (v : List (Option Word)),
                      a.kind = OpKind.wred c q i v → a.stage ≠ OpStage.issued ∧ ¬(c = 4 ∧ q = (8 : Word)))
    ∧ (List.find? (fun (x : Chan) => decide (x.ch = 4)) (sG (8 : Word) 1 [chan0]).wadi = some chan0 ∧
      (List.find? (fun (x : WNode) => decide (x.lvl = (wOp (gives (8 : Word) 1)).core / 64)) chan0.nodes =
            some { lvl := 0 : WNode } ∧
          (List.map (fun (x : WNode) => x.lvl) chan0.nodes).Nodup) ∧
        (sG (8 : Word) 1 [chan0]).wadiWaiting chan0.ch ((wOp (gives (8 : Word) 1)).core / 64) = [] ∧
          (∀ (t : Nat × Nat), none = some t → t.fst ≠ (sG (8 : Word) 1 [chan0]).clock) ∧
            ∀ (l : Word),
              none = some l →
                ∀ (q : Round),
                  q ∈ [] →
                    q.round = l + (1 : Word) →
                      (sG (8 : Word) 1 [chan0]).time <
                        q.first +
                          10 * Config.ns *
                            if (wOp (gives (8 : Word) 1)).core / 64 < 8 then chan0.dieBudget
                            else if (wOp (gives (8 : Word) 1)).core / 64 = 8 then chan0.devBudget else chan0.fabBudget)
    ∧ (chan0.ctx = (wOp (gives (8 : Word) 1)).ctx ∧
      chan0.closing = false ∧
        chan0.map.getD 1 65535 =
          8 * (sG (8 : Word) 1 [chan0]).dev.modnum + (wOp (gives (8 : Word) 1)).core / 64)
    ∧ ¬((8 : Word), 1) ∈ []
    ∧ (none : Option Word) = none
    ∧ ([] : List Round) = []
    ∧ (∀ (y : Word × Nat), y ∈ [] → y.fst ≠ (8 : Word))
    ∧ 1 < 1024
    ∧ (∃ (i : Nat),
      i ∈
          List.filter
            (fun (i : Nat) =>
              have d := chan0.map.getD i 65535;
              if (wOp (gives (8 : Word) 1)).core / 64 < 8 then
                decide (d = 8 * (sG (8 : Word) 1 [chan0]).dev.modnum + (wOp (gives (8 : Word) 1)).core / 64)
              else
                if (wOp (gives (8 : Word) 1)).core / 64 = 8 then
                  decide (d / 8 = (sG (8 : Word) 1 [chan0]).dev.modnum)
                else true)
            chan0.mapped ∧
        i ≠ 1) :=
  by
  refine @of_decide_eq_true _ (by letI := @decAll; letI := @decWred; try dsimp only; infer_instance) ?_
  decide +kernel
def chan3 (q : Round) : Chan := { node5 [q] with map := [0, 0, 0] }
def q6 (l : List Nat) : Round := { round := 6, vector := [4, 5], ids := l, first := 0 }
theorem witness_WadiSteps_2_1e :
    ((sG (6 : Word) 1 [chan3 (q6 [0])]).op? (wOp (gives (6 : Word) 1)).id = some (wOp (gives (6 : Word) 1)) ∧
      (wOp (gives (6 : Word) 1)).kind = OpKind.wred 4 (6 : Word) 1 es ∧
        (wOp (gives (6 : Word) 1)).stage = OpStage.issued ∧
          ∀ (a : Op),
            a ∈ (sG (6 : Word) 1 [chan3 (q6 [0])]).ops →
              a.gid = (wOp (gives (6 : Word) 1)).gid →
                a.order < (wOp (gives (6 : Word) 1)).order →
                  (∃ (f : Nat), f ∈ a.fids ∧ f ∈ (wOp (gives (6 : Word) 1)).fids) →
                    ∀ (c : Nat) (q : Word) (i : Nat) (v : List (Option Word)),
                      a.kind = OpKind.wred c q i v → a.stage ≠ OpStage.issued ∧ ¬(c = 4 ∧ q = (6 : Word)))
    ∧ (List.find? (fun (x : Chan) => decide (x.ch = 4)) (sG (6 : Word) 1 [chan3 (q6 [0])]).wadi = some (chan3 (q6 [0])) ∧
      (List.find? (fun (x : WNode) => decide (x.lvl = (wOp (gives (6 : Word) 1)).core / 64)) (chan3 (q6 [0])).nodes =
            some { lvl := 0, last := some (5 : Word), rounds := [q6 [0]] : WNode } ∧
          (List.map (fun (x : WNode) => x.lvl) (chan3 (q6 [0])).nodes).Nodup) ∧
        (sG (6 : Word) 1 [chan3 (q6 [0])]).wadiWaiting (chan3 (q6 [0])).ch
              ((wOp (gives (6 : Word) 1)).core / 64) =
            [] ∧
          (∀ (t : Nat × Nat), none = some t → t.fst ≠ (sG (6 : Word) 1 [chan3 (q6 [0])]).clock) ∧
            ∀ (l : Word),
              some (5 : Word) = some l →
                ∀ (q : Round),
                  q ∈ [q6 [0]] →
                    q.round = l + (1 : Word) →
                      (sG (6 : Word) 1 [chan3 (q6 [0])]).time <
                        q.first +
                          10 * Config.ns *
                            if (wOp (gives (6 : Word) 1)).core / 64 < 8 then (chan3 (q6 [0])).dieBudget
                            else
                              if (wOp (gives (6 : Word) 1)).core / 64 = 8 then (chan3 (q6 [0])).devBudget
                              else (chan3 (q6 [0])).fabBudget)
    ∧ ((chan3 (q6 [0])).ctx = (wOp (gives (6 : Word) 1)).ctx ∧
      (chan3 (q6 [0])).closing = false ∧
        (chan3 (q6 [0])).map.getD 1 65535 =
          8 * (sG (6 : Word) 1 [chan3 (q6 [0])]).dev.modnum + (wOp (gives (6 : Word) 1)).core / 64)
    ∧ ¬((6 : Word), 1) ∈ []
    ∧ some (5 : Word) = some (5 : Word)
    ∧ (6 : Word) = (5 : Word) + (1 : Word)
    ∧ [q6 [0]] = [q6 [0]]
    ∧ (q6 [0]).round = (6 : Word)
    ∧ ¬1 ∈ (q6 [0]).ids
    ∧ 1 < 1024
    ∧ (∃ (i : Nat),
      i ∈
          List.filter
            (fun (i : Nat) =>
              have d := (chan3 (q6 [0])).map.getD i 65535;
              if (wOp (gives (6 : Word) 1)).core / 64 < 8 then
                decide
                  (d =
                    8 * (sG (6 : Word) 1 [chan3 (q6 [0])]).dev.modnum + (wOp (gives (6 : Word) 1)).core / 64)
              else
                if (wOp (gives (6 : Word) 1)).core / 64 = 8 then
                  decide (d / 8 = (sG (6 : Word) 1 [chan3 (q6 [0])]).dev.modnum)
                else true)
            (chan3 (q6 [0])).mapped ∧
        i ≠ 1 ∧ ¬i ∈ (q6 [0]).ids) :=
  by
  refine @of_decide_eq_true _ (by letI := @decAll; letI := @decWred; try dsimp only; infer_instance) ?_
  decide +kernel
def node5w (l : List Round) : Chan := { node5 l with map := [0, 0] ++ List.replicate 1022 0xFFFF }
theorem witness_WadiSteps_2_1g :
    ((sG (5 : Word) 1 [node5 []]).op? (wOp (gives (5 : Word) 1)).id = some (wOp (gives (5 : Word) 1)) ∧
      (wOp (gives (5 : Word) 1)).kind = OpKind.wred 4 (5 : Word) 1 es ∧
        (wOp (gives (5 : Word) 1)).stage = OpStage.issued ∧
          ∀ (a : Op),
            a ∈ (sG (5 : Word) 1 [node5 []]).ops →
              a.gid = (wOp (gives (5 : Word) 1)).gid →
                a.order < (wOp (gives (5 : Word) 1)).order →
                  (∃ (f : Nat), f ∈ a.fids ∧ f ∈ (wOp (gives (5 : Word) 1)).fids) →
                    ∀ (c : Nat) (q : Word) (i : Nat) (v : List (Option Word)),
                      a.kind = OpKind.wred c q i v → a.stage ≠ OpStage.issued ∧ ¬(c = 4 ∧ q = (5 : Word)))
    ∧ (List.find? (fun (x : Chan) => decide (x.ch = 4)) (sG (5 : Word) 1 [node5 []]).wadi = some (node5 []) ∧
      (List.find? (fun (x : WNode) => decide (x.lvl = (wOp (gives (5 : Word) 1)).core / 64)) (node5 []).nodes =
            some { lvl := 0, last := some (5 : Word) : WNode } ∧
          (List.map (fun (x : WNode) => x.lvl) (node5 []).nodes).Nodup) ∧
        (sG (5 : Word) 1 [node5 []]).wadiWaiting (node5 []).ch ((wOp (gives (5 : Word) 1)).core / 64) = [] ∧
          (∀ (t : Nat × Nat), none = some t → t.fst ≠ (sG (5 : Word) 1 [node5 []]).clock) ∧
            ∀ (l : Word),
              some (5 : Word) = some l →
                ∀ (q : Round),
                  q ∈ [] →
                    q.round = l + (1 : Word) →
                      (sG (5 : Word) 1 [node5 []]).time <
                        q.first +
                          10 * Config.ns *
                            if (wOp (gives (5 : Word) 1)).core / 64 < 8 then (node5 []).dieBudget
                            else
                              if (wOp (gives (5 : Word) 1)).core / 64 = 8 then (node5 []).devBudget else (node5 []).fabBudget)
    ∧ ((node5 []).ctx = (wOp (gives (5 : Word) 1)).ctx ∧
      (node5 []).closing = false ∧
        (node5 []).map.getD 1 65535 =
          8 * (sG (5 : Word) 1 [node5 []]).dev.modnum + (wOp (gives (5 : Word) 1)).core / 64)
    ∧ some (5 : Word) = some (5 : Word)
    ∧ (¬(1 ≤ BitVec.toNat ((5 : Word) - (5 : Word)) ∧ BitVec.toNat ((5 : Word) - (5 : Word)) < 2 ^ 31))
    ∧ (node5 []).span = 0
    ∧ (wOp (gives (5 : Word) 1)).core < 512
    ∧ (∀ (w : Warp), w ∈ (sG (5 : Word) 1 [node5 []]).warps → ∀ (f : Fibre), f ∈ w.fibres → f.park = none)
    ∧ (sG (5 : Word) 1 [node5 []]).walkerNat (node5 []).ctx ((node5 []).corr + 12) 4 =
      (((sG (5 : Word) 1 [node5 []]).walkerNat (node5 []).ctx ((node5 []).corr + 12) 4).fst,
        sG (5 : Word) 1 [node5 []]) :=
  by
  refine @of_decide_eq_true _ (by letI := @decAll; letI := @decWred; infer_instance) ?_
  decide +kernel
def later_ (t : Nat) (s : State) : State := { s with time := t }
def sE (t : Nat) (c : Chan) : State := withChan c (later_ t (tables (at_ .nopShort)))
theorem witness_WadiSteps_2_2_1 :
    List.find? (fun (x : Chan) => decide (x.ch = 4)) (sE 49 (chan3 (q6 [0]))).wadi = some (chan3 (q6 [0]))
    ∧ (List.find? (fun (x : WNode) => decide (x.lvl = 0 % 8)) (chan3 (q6 [0])).nodes =
        some { lvl := 0, last := some (5 : Word), rounds := [q6 [0]] : WNode } ∧
      (List.map (fun (x : WNode) => x.lvl) (chan3 (q6 [0])).nodes).Nodup)
    ∧ (∀ (l : Word),
      some (5 : Word) = some l →
        ∀ (q : Round),
          q ∈ [q6 [0]] →
            q.round = l + (1 : Word) →
              (sE 49 (chan3 (q6 [0]))).time <
                q.first +
                  10 * Config.ns *
                    if 0 % 8 < 8 then (chan3 (q6 [0])).dieBudget
                    else if 0 % 8 = 8 then (chan3 (q6 [0])).devBudget else (chan3 (q6 [0])).fabBudget) :=
  by
  refine @of_decide_eq_true _ (by letI := @decAll; infer_instance) ?_
  decide +kernel
theorem witness_WadiSteps_2_2_1b :
    List.find? (fun (x : Chan) => decide (x.ch = 4)) (sE (50 * Config.ns) (chan3 (q6 [0]))).wadi = some (chan3 (q6 [0]))
    ∧ (List.find? (fun (x : WNode) => decide (x.lvl = 0 % 8)) (chan3 (q6 [0])).nodes =
        some { lvl := 0, last := some (5 : Word), rounds := [q6 [0]] : WNode } ∧
      (List.map (fun (x : WNode) => x.lvl) (chan3 (q6 [0])).nodes).Nodup)
    ∧ some (5 : Word) = some (5 : Word)
    ∧ [q6 [0]] = [q6 [0]]
    ∧ (sE (50 * Config.ns) (chan3 (q6 [0]))).wadiWaiting 4 (0 % 8) = []
    ∧ (q6 [0]).round = (5 : Word) + (1 : Word)
    ∧ ((q6 [0]).first +
        10 * Config.ns *
          if 0 % 8 < 8 then (chan3 (q6 [0])).dieBudget
          else if 0 % 8 = 8 then (chan3 (q6 [0])).devBudget else (chan3 (q6 [0])).fabBudget) ≤
      (sE (50 * Config.ns) (chan3 (q6 [0]))).time
    ∧ ((sE (50 * Config.ns) (chan3 (q6 [0]))).walkerNat (chan3 (q6 [0])).ctx ((chan3 (q6 [0])).corr + 8)
          4).snd =
      sE (50 * Config.ns) (chan3 (q6 [0]))
    ∧ ((chan3 (q6 [0])).span = 0 ∧ 0 % 8 < 8 ∨
      (chan3 (q6 [0])).span = 1 ∧ 0 % 8 = 8 ∨
        2 ≤ (chan3 (q6 [0])).span ∧ 0 % 8 = 9)
    ∧ (∀ (w : Warp), w ∈ (sE (50 * Config.ns) (chan3 (q6 [0]))).warps → ∀ (f : Fibre), f ∈ w.fibres → f.park = none)
    ∧ (chan3 (q6 [0])).mapped ≠ []
    ∧ (∃ (i : Nat), i ∈ (chan3 (q6 [0])).mapped ∧ ¬i ∈ (q6 [0]).ids) :=
  by decide +kernel
def chanT : Chan := { chan3 (q6 [0]) with span := 1 }
theorem witness_WadiSteps_2_2_1c :
    List.find? (fun (x : Chan) => decide (x.ch = 4)) (sE (50 * Config.ns) chanT).wadi = some chanT
    ∧ (List.find? (fun (x : WNode) => decide (x.lvl = 0 % 8)) chanT.nodes =
        some { lvl := 0, last := some (5 : Word), rounds := [q6 [0]] : WNode } ∧
      (List.map (fun (x : WNode) => x.lvl) chanT.nodes).Nodup)
    ∧ some (5 : Word) = some (5 : Word)
    ∧ [q6 [0]] = [q6 [0]]
    ∧ (sE (50 * Config.ns) chanT).wadiWaiting 4 (0 % 8) = []
    ∧ (q6 [0]).round = (5 : Word) + (1 : Word)
    ∧ ((q6 [0]).first +
        10 * Config.ns *
          if 0 % 8 < 8 then chanT.dieBudget
          else if 0 % 8 = 8 then chanT.devBudget else chanT.fabBudget) ≤
      (sE (50 * Config.ns) chanT).time
    ∧ ((sE (50 * Config.ns) chanT).walkerNat chanT.ctx (chanT.corr + 8) 4).snd = sE (50 * Config.ns) chanT
    ∧ (¬(chanT.span = 0 ∧ 0 % 8 < 8 ∨
        chanT.span = 1 ∧ 0 % 8 = 8 ∨ 2 ≤ chanT.span ∧ 0 % 8 = 9))
    ∧ 0 % 8 < 8 :=
  by decide +kernel
def parkC : Park := { wait := .corr 4 7 1000 (some 5), at_ := { hdr := 4096, idx := 0, mid := true } }
def sP (t : Nat) (c : Chan) : State := byFibre (fun f => { f with park := some parkC }) (sE t c)
theorem witness_WadiSteps_2_2_2_1 :
    (sP 999 partial_).warp? (w0 (sP 999 partial_)).wid = some (w0 (sP 999 partial_))
    ∧ (w0 (sP 999 partial_)).fibre? (f0 (sP 999 partial_)).lane = some (f0 (sP 999 partial_))
    ∧ (sP 999 partial_).group? (w0 (sP 999 partial_)).gid = some (g0 (sP 999 partial_))
    ∧ (f0 (sP 999 partial_)).park =
      some { wait := Wait.corr 4 (7 : Word) 1000 (some 5), at_ := { hdr := (4096 : VAddr), mid := true : Pos } : Park }
    ∧ (∀ (p : Nat), some 5 = some p → ¬p ∈ (g0 (sP 999 partial_)).openRegs (f0 (sP 999 partial_)).id)
    ∧ List.find? (fun (x : Chan) => decide (x.ch = 4)) (sP 999 partial_).wadi = some partial_
    ∧ partial_.ctx = (g0 (sP 999 partial_)).ctx
    ∧ (sP 999 partial_).time < 1000 :=
  by
  refine @of_decide_eq_true _ (by letI := @decAll; infer_instance) ?_
  decide +kernel
theorem witness_WadiSteps_2_2_2_1b :
    (sP 1000 partial_).warp? (w0 (sP 1000 partial_)).wid = some (w0 (sP 1000 partial_))
    ∧ (w0 (sP 1000 partial_)).fibre? (f0 (sP 1000 partial_)).lane = some (f0 (sP 1000 partial_))
    ∧ (sP 1000 partial_).group? (w0 (sP 1000 partial_)).gid = some (g0 (sP 1000 partial_))
    ∧ (f0 (sP 1000 partial_)).park =
      some { wait := Wait.corr 4 (7 : Word) 1000 (some 5), at_ := { hdr := (4096 : VAddr), mid := true : Pos } : Park }
    ∧ (∀ (p : Nat), some 5 = some p → ¬p ∈ (g0 (sP 1000 partial_)).openRegs (f0 (sP 1000 partial_)).id)
    ∧ List.find? (fun (x : Chan) => decide (x.ch = 4)) (sP 1000 partial_).wadi = some partial_
    ∧ partial_.ctx = (g0 (sP 1000 partial_)).ctx
    ∧ 1000 ≤ (sP 1000 partial_).time
    ∧ partial_.written = [((7 : Word), (8 : Word), [1])]
    ∧ (sP 1000 partial_).walkerNat partial_.ctx partial_.corr 4 = (0, sP 1000 partial_)
    ∧ (sP 1000 partial_).corrIds partial_ (7 : Word) (min 0 partial_.cap) 0 = ([], sP 1000 partial_) :=
  by
  refine @of_decide_eq_true _ (by letI := @decAll; infer_instance) ?_
  decide +kernel
def sZ (l : List Chan) : State := step_ (.wclose 4) l (tables (at_ .nopShort))
theorem witness_WadiSteps_2_2_2_2 :
    (sZ [chan3 (q6 [0])]).op? (wOp (OpKind.wclose 4)).id = some (wOp (OpKind.wclose 4))
    ∧ (wOp (OpKind.wclose 4)).kind = OpKind.wclose 4
    ∧ List.find? (fun (x : Chan) => decide (x.ch = 4)) (sZ [chan3 (q6 [0])]).wadi = some (chan3 (q6 [0]))
    ∧ (chan3 (q6 [0])).ctx = (wOp (OpKind.wclose 4)).ctx
    ∧ (chan3 (q6 [0])).closing = false :=
  by decide +kernel
theorem witness_WadiSteps_2_2_2_2b :
    (sZ
            [let __src := chan0;
              { ch := __src.ch, ctx := __src.ctx, op := __src.op, span := __src.span, top := __src.top, elems := __src.elems,
                dieBudget := __src.dieBudget, devBudget := __src.devBudget, fabBudget := __src.fabBudget, slots := __src.slots,
                result := __src.result, corr := __src.corr, cap := __src.cap, word := __src.word, map := __src.map, block := __src.block,
                nodes := __src.nodes, transit := __src.transit, rejects := 3, written := __src.written, excluded := __src.excluded,
                compared := __src.compared, closing := true : Chan }]).op?
        (wOp (OpKind.wclose 4)).id =
      some (wOp (OpKind.wclose 4))
    ∧ (wOp (OpKind.wclose 4)).kind = OpKind.wclose 4
    ∧ List.find? (fun (x : Chan) => decide (x.ch = 4))
        (sZ
            [let __src := chan0;
              { ch := __src.ch, ctx := __src.ctx, op := __src.op, span := __src.span, top := __src.top, elems := __src.elems,
                dieBudget := __src.dieBudget, devBudget := __src.devBudget, fabBudget := __src.fabBudget, slots := __src.slots,
                result := __src.result, corr := __src.corr, cap := __src.cap, word := __src.word, map := __src.map, block := __src.block,
                nodes := __src.nodes, transit := __src.transit, rejects := 3, written := __src.written, excluded := __src.excluded,
                compared := __src.compared, closing := true : Chan }]).wadi =
      some
        (have __src := chan0;
        { ch := __src.ch, ctx := __src.ctx, op := __src.op, span := __src.span, top := __src.top, elems := __src.elems, dieBudget := __src.dieBudget,
          devBudget := __src.devBudget, fabBudget := __src.fabBudget, slots := __src.slots, result := __src.result, corr := __src.corr,
          cap := __src.cap, word := __src.word, map := __src.map, block := __src.block, nodes := __src.nodes, transit := __src.transit,
          rejects := 3, written := __src.written, excluded := __src.excluded, compared := __src.compared, closing := true : Chan })
    ∧ (have __src := chan0;
        { ch := __src.ch, ctx := __src.ctx, op := __src.op, span := __src.span, top := __src.top, elems := __src.elems, dieBudget := __src.dieBudget,
          devBudget := __src.devBudget, fabBudget := __src.fabBudget, slots := __src.slots, result := __src.result, corr := __src.corr,
          cap := __src.cap, word := __src.word, map := __src.map, block := __src.block, nodes := __src.nodes, transit := __src.transit,
          rejects := 3, written := __src.written, excluded := __src.excluded, compared := __src.compared, closing := true : Chan }).ctx =
      (wOp (OpKind.wclose 4)).ctx
    ∧ (have __src := chan0;
        { ch := __src.ch, ctx := __src.ctx, op := __src.op, span := __src.span, top := __src.top, elems := __src.elems, dieBudget := __src.dieBudget,
          devBudget := __src.devBudget, fabBudget := __src.fabBudget, slots := __src.slots, result := __src.result, corr := __src.corr,
          cap := __src.cap, word := __src.word, map := __src.map, block := __src.block, nodes := __src.nodes, transit := __src.transit,
          rejects := 3, written := __src.written, excluded := __src.excluded, compared := __src.compared, closing := true : Chan }).closing =
      true
    ∧ ((sZ
              [let __src := chan0;
                { ch := __src.ch, ctx := __src.ctx, op := __src.op, span := __src.span, top := __src.top, elems := __src.elems,
                  dieBudget := __src.dieBudget, devBudget := __src.devBudget, fabBudget := __src.fabBudget, slots := __src.slots,
                  result := __src.result, corr := __src.corr, cap := __src.cap, word := __src.word, map := __src.map, block := __src.block,
                  nodes := __src.nodes, transit := __src.transit, rejects := 3, written := __src.written, excluded := __src.excluded,
                  compared := __src.compared, closing := true : Chan }]).walkerNat
          (have __src := chan0;
            { ch := __src.ch, ctx := __src.ctx, op := __src.op, span := __src.span, top := __src.top, elems := __src.elems,
              dieBudget := __src.dieBudget, devBudget := __src.devBudget, fabBudget := __src.fabBudget, slots := __src.slots, result := __src.result,
              corr := __src.corr, cap := __src.cap, word := __src.word, map := __src.map, block := __src.block, nodes := __src.nodes,
              transit := __src.transit, rejects := 3, written := __src.written, excluded := __src.excluded, compared := __src.compared,
              closing := true : Chan }).ctx
          ((have __src := chan0;
              { ch := __src.ch, ctx := __src.ctx, op := __src.op, span := __src.span, top := __src.top, elems := __src.elems,
                dieBudget := __src.dieBudget, devBudget := __src.devBudget, fabBudget := __src.fabBudget, slots := __src.slots,
                result := __src.result, corr := __src.corr, cap := __src.cap, word := __src.word, map := __src.map, block := __src.block,
                nodes := __src.nodes, transit := __src.transit, rejects := 3, written := __src.written, excluded := __src.excluded,
                compared := __src.compared, closing := true : Chan }).corr +
            4)
          4).snd =
      sZ
        [let __src := chan0;
          { ch := __src.ch, ctx := __src.ctx, op := __src.op, span := __src.span, top := __src.top, elems := __src.elems,
            dieBudget := __src.dieBudget, devBudget := __src.devBudget, fabBudget := __src.fabBudget, slots := __src.slots, result := __src.result,
            corr := __src.corr, cap := __src.cap, word := __src.word, map := __src.map, block := __src.block, nodes := __src.nodes,
            transit := __src.transit, rejects := 3, written := __src.written, excluded := __src.excluded, compared := __src.compared,
            closing := true : Chan }] :=
  by
  refine @of_decide_eq_true _ (by try dsimp only; infer_instance) ?_
  decide +kernel
theorem witness_WadiSteps_2_2_2_2c :
    (sZ []).op? (wOp (OpKind.wclose 4)).id = some (wOp (OpKind.wclose 4))
    ∧ (wOp (OpKind.wclose 4)).kind = OpKind.wclose 4
    ∧ (∀ (c : Chan), List.find? (fun (x : Chan) => decide (x.ch = 4)) (sZ []).wadi = some c → c.ctx ≠ (wOp (OpKind.wclose 4)).ctx)
    ∧ (sZ []).dev.elog = (0 : DWord) :=
  by
  refine @of_decide_eq_true _ (by letI := @decAll; infer_instance) ?_
  decide +kernel

end W21

/-! ## Premises met: `Obligations.AttentionAndKvBlocks` -/

namespace W22

def flg (s : State) := byFibre (fun f => { f with flags := [(2, 2)] }) s
def flagged2 (s : State) := byWarp (fun (w : Warp) => { w with active := w.active.map (fun (a : Active) => { a with header := soloHeader 2 - 15 * 2 ^ 21 + 2 * 2 ^ 21 }) }) (flg s)
def rr (l : Nat) : Sparse Word := [(4, BitVec.ofNat 32 (0x20000 + 256 * l)), (6, 0x20010), (8, BitVec.ofNat 32 (l + 1)), (9, BitVec.ofNat 32 (l + 5)), (10, 7), (12, BitVec.ofNat 32 (64 * l)), (14, 0x30000), (16, 0x3F80), (18, 9), (20, BitVec.ofNat 32 (0x20000 + 256 * l + (if l = 1 then 8 else 0))), (22, BitVec.ofNat 32 (64 * l + (if l = 1 then 8 else 0)))]
def iA : Instr := .attn always (.v 4) false .device
def sA : State := flagged2 (fourAt iA rr)
theorem witness_AttentionIssue_1 :
    Issues sA (Instr.attn always (Reg.v (4 : Fin 608)) false Scope.device) (wOf sA) (aOf sA) (gOf sA) (xOf sA iA) (eOf sA iA) (pOf sA iA)
    ∧ NoOpenOperand (Instr.attn always (Reg.v (4 : Fin 608)) false Scope.device) (gOf sA) (xOf sA iA) (eOf sA iA)
    ∧ xOf sA iA ≠ []
    ∧ ((sA.attnQueue ((wOf sA).wid / 48 / 64)).length + (xOf sA iA).length ≤ 32 ∧
      ∀ (f : Fibre), f ∈ xOf sA iA → (BitVec.setWidth 52 (f.pair (gOf sA) (Reg.v (4 : Fin 608)))).toNat % 256 = 0) :=
  by
  refine @of_decide_eq_true _ (by letI := @decIssues; letI := @decNoOpen; infer_instance) ?_
  decide +kernel
def splits (s : State) (i : Instr) : List Fibre × List Fibre := match xOf s i with
  | a :: b :: r => ([a], r)
  | _ => ([], [])
def x1 (s : State) (i : Instr) : Fibre := ((xOf s i).drop 1).headD default
def iAb : Instr := .attn always (.v 20) false .device
def sAb : State := flagged2 (fourAt iAb rr)
theorem witness_AttentionIssue_2_1 :
    Issues sAb (Instr.attn always (Reg.v (20 : Fin 608)) false Scope.device) (wOf sAb) (aOf sAb) (gOf sAb)
      ((splits sAb iAb).fst ++ x1 sAb iAb :: (splits sAb iAb).snd) [] []
    ∧ (∀ (k : Fibre),
      k ∈ (splits sAb iAb).fst → ¬(BitVec.setWidth 52 (k.pair (gOf sAb) (Reg.v (20 : Fin 608)))).toNat % 256 ≠ 0)
    ∧ (BitVec.setWidth 52 ((x1 sAb iAb).pair (gOf sAb) (Reg.v (20 : Fin 608)))).toNat % 256 ≠ 0 :=
  by
  refine @of_decide_eq_true _ (by letI := @decIssues; infer_instance) ?_
  decide +kernel
def attnOp (k : Nat) : Op := { loadOp with id := 100 + k, issue := 100 + k, kind := .attn 0x20000 [] }
def sAf : State := inFlight ((List.range 32).map attnOp) sA
theorem witness_AttentionIssue_2_2_1 :
    Issues sAf (Instr.attn always (Reg.v (4 : Fin 608)) false Scope.device) (wOf sAf) (aOf sAf) (gOf sAf) (xOf sAf iA) [] []
    ∧ xOf sAf iA ≠ []
    ∧ (∀ (f : Fibre), f ∈ xOf sAf iA → (BitVec.setWidth 52 (f.pair (gOf sAf) (Reg.v (4 : Fin 608)))).toNat % 256 = 0)
    ∧ 32 ≤ (sAf.attnQueue ((wOf sAf).wid / 48 / 64)).length :=
  by
  refine @of_decide_eq_true _ (by letI := @decIssues; infer_instance) ?_
  decide +kernel
def iK : Instr := .kvappend always (.v 8) (.v 4) (.v 16) (.v 18) false .device .d64
def sK : State := flagged2 (fourAt iK rr)
theorem witness_AttentionIssue_2_2_2_1 :
    Issues sK
      (Instr.kvappend always (Reg.v (8 : Fin 608)) (Reg.v (4 : Fin 608)) (Reg.v (16 : Fin 608)) (Reg.v (18 : Fin 608))
        false Scope.device KvD.d64)
      (wOf sK) (aOf sK) (gOf sK) (x0 sK iK :: (xOf sK iK).tail) [] []
    ∧ NoOpenOperand
      (Instr.kvappend always (Reg.v (8 : Fin 608)) (Reg.v (4 : Fin 608)) (Reg.v (16 : Fin 608)) (Reg.v (18 : Fin 608))
        false Scope.device KvD.d64)
      (gOf sK) (x0 sK iK :: (xOf sK iK).tail) []
    ∧ (BitVec.setWidth 52 ((x0 sK iK).pair (gOf sK) (Reg.v (4 : Fin 608)))).toNat % 256 = 0 :=
  by
  refine @of_decide_eq_true _ (by letI := @decIssues; letI := @decNoOpen; infer_instance) ?_
  decide +kernel
def iKb : Instr := .kvappend always (.v 8) (.v 6) (.v 16) (.v 18) false .device .d64
def sKb : State := flagged2 (fourAt iKb rr)
theorem witness_AttentionIssue_2_2_2_2_1 :
    Issues sKb
      (Instr.kvappend always (Reg.v (8 : Fin 608)) (Reg.v (6 : Fin 608)) (Reg.v (16 : Fin 608)) (Reg.v (18 : Fin 608))
        false Scope.device KvD.d64)
      (wOf sKb) (aOf sKb) (gOf sKb) (x0 sKb iKb :: (xOf sKb iKb).tail) [] []
    ∧ (∀ (k : Fibre), k ∈ (xOf sKb iKb).tail → (wOf sKb).vlane k.lane ≠ (wOf sKb).vlane (x0 sKb iKb).lane)
    ∧ (BitVec.setWidth 52 ((x0 sKb iKb).pair (gOf sKb) (Reg.v (6 : Fin 608)))).toNat % 256 ≠ 0 :=
  by
  refine @of_decide_eq_true _ (by letI := @decIssues; infer_instance) ?_
  decide +kernel
def iX : Instr := .kvxlate always (.v 0) (.v 4) (.v 8) false
def sX : State := flagged2 (fourAt iX rr)
theorem witness_AttentionIssue_2_2_2_2_2_1 :
    Issues sX (Instr.kvxlate always (Reg.v (0 : Fin 608)) (Reg.v (4 : Fin 608)) (Reg.v (8 : Fin 608)) false) (wOf sX) (aOf sX)
      (gOf sX) (x0 sX iX :: (xOf sX iX).tail) [] []
    ∧ NoOpenOperand (Instr.kvxlate always (Reg.v (0 : Fin 608)) (Reg.v (4 : Fin 608)) (Reg.v (8 : Fin 608)) false) (gOf sX)
      (x0 sX iX :: (xOf sX iX).tail) [] :=
  by
  refine @of_decide_eq_true _ (by letI := @decIssues; letI := @decNoOpen; infer_instance) ?_
  decide +kernel
def iF : Instr := .pfxfind always (.v 0) (.v 8) (.v 12) (.v 14) false 1
def sF : State := shared (flagged2 (fourAt iF rr))
theorem witness_AttentionIssue_2_2_2_2_2_2_1 :
    Issues sF
      (Instr.pfxfind always (Reg.v (0 : Fin 608)) (Reg.v (8 : Fin 608)) (Reg.v (12 : Fin 608)) (Reg.v (14 : Fin 608))
        false (1 : Fin 4))
      (wOf sF) (aOf sF) (gOf sF) (x0 sF iF :: (xOf sF iF).tail) [] []
    ∧ NoOpenOperand
      (Instr.pfxfind always (Reg.v (0 : Fin 608)) (Reg.v (8 : Fin 608)) (Reg.v (12 : Fin 608)) (Reg.v (14 : Fin 608))
        false (1 : Fin 4))
      (gOf sF) (x0 sF iF :: (xOf sF iF).tail) []
    ∧ (∀ (f : Fibre),
      f ∈ x0 sF iF :: (xOf sF iF).tail →
        BitVec.toNat (f.word (gOf sF) (Reg.v (12 : Fin 608))) % 16 = 0 ∧
          BitVec.toNat (f.word (gOf sF) (Reg.v (12 : Fin 608))) + 64 ≤ (gOf sF).scratch) :=
  by
  refine @of_decide_eq_true _ (by letI := @decIssues; letI := @decNoOpen; infer_instance) ?_
  decide +kernel
def iFb : Instr := .pfxfind always (.v 0) (.v 8) (.v 22) (.v 14) false 1
def sFb : State := shared (flagged2 (fourAt iFb rr))
theorem witness_AttentionIssue_2_2_2_2_2_2_2_1 :
    Issues sFb
      (Instr.pfxfind always (Reg.v (0 : Fin 608)) (Reg.v (8 : Fin 608)) (Reg.v (22 : Fin 608)) (Reg.v (14 : Fin 608))
        false (1 : Fin 4))
      (wOf sFb) (aOf sFb) (gOf sFb) ((splits sFb iFb).fst ++ x1 sFb iFb :: (splits sFb iFb).snd) [] []
    ∧ (∀ (k : Fibre),
      k ∈ (splits sFb iFb).fst →
        ¬(BitVec.toNat (k.word (gOf sFb) (Reg.v (22 : Fin 608))) % 16 ≠ 0 ∨
            (gOf sFb).scratch < BitVec.toNat (k.word (gOf sFb) (Reg.v (22 : Fin 608))) + 64))
    ∧ (BitVec.toNat ((x1 sFb iFb).word (gOf sFb) (Reg.v (22 : Fin 608))) % 16 ≠ 0 ∨
      (gOf sFb).scratch < BitVec.toNat ((x1 sFb iFb).word (gOf sFb) (Reg.v (22 : Fin 608))) + 64) :=
  by
  refine @of_decide_eq_true _ (by letI := @decIssues; infer_instance) ?_
  decide +kernel
def iI : Instr := .pfxins always (.v 8) (.v 4) (.v 14) false .device
def sI : State := flagged2 (fourAt iI rr)
theorem witness_AttentionIssue_2_2_2_2_2_2_2_2_1 :
    Issues sI (Instr.pfxins always (Reg.v (8 : Fin 608)) (Reg.v (4 : Fin 608)) (Reg.v (14 : Fin 608)) false Scope.device) (wOf sI)
      (aOf sI) (gOf sI) (xOf sI iI) (eOf sI iI) (pOf sI iI)
    ∧ NoOpenOperand (Instr.pfxins always (Reg.v (8 : Fin 608)) (Reg.v (4 : Fin 608)) (Reg.v (14 : Fin 608)) false Scope.device)
      (gOf sI) (xOf sI iI) (eOf sI iI)
    ∧ xOf sI iI ≠ []
    ∧ (∀ (f : Fibre), f ∈ xOf sI iI → (BitVec.setWidth 52 (f.pair (gOf sI) (Reg.v (4 : Fin 608)))).toNat % 256 = 0) :=
  by
  refine @of_decide_eq_true _ (by letI := @decIssues; letI := @decNoOpen; infer_instance) ?_
  decide +kernel
def iIb : Instr := .pfxins always (.v 8) (.v 20) (.v 14) false .device
def sIb : State := flagged2 (fourAt iIb rr)
theorem witness_AttentionIssue_2_2_2_2_2_2_2_2_2 :
    Issues sIb (Instr.pfxins always (Reg.v (8 : Fin 608)) (Reg.v (20 : Fin 608)) (Reg.v (14 : Fin 608)) false Scope.device)
      (wOf sIb) (aOf sIb) (gOf sIb) ((splits sIb iIb).fst ++ x1 sIb iIb :: (splits sIb iIb).snd) [] []
    ∧ (∀ (k : Fibre),
      k ∈ (splits sIb iIb).fst → ¬(BitVec.setWidth 52 (k.pair (gOf sIb) (Reg.v (20 : Fin 608)))).toNat % 256 ≠ 0)
    ∧ (BitVec.setWidth 52 ((x1 sIb iIb).pair (gOf sIb) (Reg.v (20 : Fin 608)))).toNat % 256 ≠ 0 :=
  by
  refine @of_decide_eq_true _ (by letI := @decIssues; infer_instance) ?_
  decide +kernel

end W22

/-! ## Premises met: `Obligations.AttentionAndKvBlocks` -/

namespace W23

def flg (s : State) := byFibre (fun f => { f with flags := [(2, 2)] }) s
def P : List (Nat × Nat × Nat) := [(0x20000, 0x70000, 0), (0x30000, 0x90000, 0), (0x40000, 0xA0000, 0)]
def bOp (k : OpKind) : Op := { loadOp with id := 30, issue := 30, gid := 1, fids := [0], flag := some 2, kind := k, pins := P, wpins := P }
def step_ (k : OpKind) (s : State) : State := asGroup1 (flg (inFlight [bOp k] s))
def into_ (a : Nat) : Nat := (if a / 65536 = 2 then 0x70000 else if a / 65536 = 3 then 0x90000 else 0xA0000) + a % 65536
def hdr (fmt code u : Nat) : List Byte := bytesOf 4 (fmt + 256 * code + 65536 * u) ++ bytesOf 4 0 ++ bytesOf 4 0x40000000 ++ bytesOf 4 0x3F000000 ++ bytesOf 8 77 ++ (List.range 16).flatMap (fun i => bytesOf 4 (i + 1))
def xs (n : Nat) : List Word := (List.range n).map (fun i => BitVec.ofNat 32 (0x3F800000 + i * 0x80000))
def kA : OpKind := .kvappend 9 0x20000 (xs 64) (xs 64) .d64
def sA (h : List Byte) : State := step_ kA (bytesAt 0x70000 h (at_ .nopShort))
def storeOp : Op := { loadOp with id := 3, issue := 3, kind := .store .g 0x50000 4 [(0x50000, 1)] false, pins := [] }
def sA0 : State := asGroup1 (flg (inFlight [storeOp, { bOp kA with gid := 0 }] (at_ .nopShort)))
theorem witness_KvSteps_1 :
    sA0.op? (bOp kA).id = some (bOp kA)
    ∧ (bOp kA).kind = OpKind.kvappend (9 : Word) (131072 : VAddr) (xs 64) (xs 64) KvD.d64
    ∧ sA0.sent (bOp kA) = false :=
  by decide +kernel
def oldB (s : State) (fmt u : Nat) : List Byte := (s.engineRead 30 (0x20000 + 128) ((if fmt = 0 then 256 else if fmt = 1 then 128 else 72) * u)).1
theorem witness_KvSteps_1b :
    (sA (hdr 3 0 1)).op? (bOp kA).id = some (bOp kA)
    ∧ (bOp kA).kind = OpKind.kvappend (9 : Word) (131072 : VAddr) (xs 64) (xs 64) KvD.d64
    ∧ (sA (hdr 3 0 1)).sent (bOp kA) = true
    ∧ (sA (hdr 3 0 1)).engineOpen (bOp kA).id
        [(BitVec.toNat (131072 : VAddr), 128, Access.read), (BitVec.toNat (131072 : VAddr), 128, Access.write)] =
      (true, sA (hdr 3 0 1))
    ∧ (sA (hdr 3 0 1)).engineRead (bOp kA).id (BitVec.toNat (131072 : VAddr)) 128 =
      (((sA (hdr 3 0 1)).engineRead 30 131072 128).fst, sA (hdr 3 0 1))
    ∧ (sA (hdr 3 0 1)).tidy
    ∧ (∀ (i : Nat),
      i < 128 →
        pinned (bOp kA).wpins ((BitVec.toNat (131072 : VAddr) + i) % 2 ^ 52) =
          some (into_ (BitVec.toNat (131072 : VAddr) + i), 0))
    ∧ (xs 64).length = 32 * KvD.d64.regs
    ∧ (¬(natOf (List.take 4 (List.drop 0 ((sA (hdr 3 0 1)).engineRead 30 131072 128).fst)) %
            4 ≠
          3 ∧
        natOf
                  (List.take 4
                    (List.drop 0 ((sA (hdr 3 0 1)).engineRead 30 131072 128).fst)) /
                256 %
              4 ≠
            3 ∧
          64 *
                2 ^
                  (natOf
                        (List.take 4
                          (List.drop 0 ((sA (hdr 3 0 1)).engineRead 30 131072 128).fst)) /
                      256 %
                    4) =
              (xs 64).length ∧
            natOf
                    (List.take 4
                      (List.drop 0 ((sA (hdr 3 0 1)).engineRead 30 131072 128).fst)) /
                  65536 %
                32 <
              16)) :=
  by
  refine @of_decide_eq_true _ (by letI := @decTidy; infer_instance) ?_
  decide +kernel
theorem witness_KvSteps_1c :
    (sA (hdr 0 0 16)).op? (bOp kA).id = some (bOp kA)
    ∧ (bOp kA).kind = OpKind.kvappend (9 : Word) (131072 : VAddr) (xs 64) (xs 64) KvD.d64
    ∧ (sA (hdr 0 0 16)).sent (bOp kA) = true
    ∧ (sA (hdr 0 0 16)).engineOpen (bOp kA).id
        [(BitVec.toNat (131072 : VAddr), 128, Access.read), (BitVec.toNat (131072 : VAddr), 128, Access.write)] =
      (true, sA (hdr 0 0 16))
    ∧ (sA (hdr 0 0 16)).engineRead (bOp kA).id (BitVec.toNat (131072 : VAddr)) 128 =
      (((sA (hdr 0 0 16)).engineRead 30 131072 128).fst, sA (hdr 0 0 16))
    ∧ (sA (hdr 0 0 16)).tidy
    ∧ (∀ (i : Nat),
      i < 128 →
        pinned (bOp kA).wpins ((BitVec.toNat (131072 : VAddr) + i) % 2 ^ 52) =
          some (into_ (BitVec.toNat (131072 : VAddr) + i), 0))
    ∧ (xs 64).length = 32 * KvD.d64.regs
    ∧ (¬(natOf (List.take 4 (List.drop 0 ((sA (hdr 0 0 16)).engineRead 30 131072 128).fst)) %
            4 ≠
          3 ∧
        natOf
                  (List.take 4
                    (List.drop 0 ((sA (hdr 0 0 16)).engineRead 30 131072 128).fst)) /
                256 %
              4 ≠
            3 ∧
          64 *
                2 ^
                  (natOf
                        (List.take 4
                          (List.drop 0 ((sA (hdr 0 0 16)).engineRead 30 131072 128).fst)) /
                      256 %
                    4) =
              (xs 64).length ∧
            natOf
                    (List.take 4
                      (List.drop 0 ((sA (hdr 0 0 16)).engineRead 30 131072 128).fst)) /
                  65536 %
                32 <
              16)) :=
  by
  refine @of_decide_eq_true _ (by letI := @decTidy; infer_instance) ?_
  decide +kernel
theorem witness_KvSteps_1d :
    (sA (hdr 0 0 1)).op? (bOp kA).id = some (bOp kA)
    ∧ (bOp kA).kind = OpKind.kvappend (9 : Word) (131072 : VAddr) (xs 64) (xs 64) KvD.d64
    ∧ (sA (hdr 0 0 1)).sent (bOp kA) = true
    ∧ (sA (hdr 0 0 1)).engineOpen (bOp kA).id
        [(BitVec.toNat (131072 : VAddr), 128, Access.read), (BitVec.toNat (131072 : VAddr), 128, Access.write)] =
      (true, sA (hdr 0 0 1))
    ∧ (sA (hdr 0 0 1)).engineRead (bOp kA).id (BitVec.toNat (131072 : VAddr)) 128 =
      (((sA (hdr 0 0 1)).engineRead 30 131072 128).fst, sA (hdr 0 0 1))
    ∧ (sA (hdr 0 0 1)).tidy
    ∧ (∀ (i : Nat),
      i < 128 →
        pinned (bOp kA).wpins ((BitVec.toNat (131072 : VAddr) + i) % 2 ^ 52) =
          some (into_ (BitVec.toNat (131072 : VAddr) + i), 0))
    ∧ (xs 64).length = 32 * KvD.d64.regs
    ∧ (natOf (List.take 4 (List.drop 0 ((sA (hdr 0 0 1)).engineRead 30 131072 128).fst)) %
          4 ≠
        3 ∧
      natOf
                (List.take 4
                  (List.drop 0 ((sA (hdr 0 0 1)).engineRead 30 131072 128).fst)) /
              256 %
            4 ≠
          3 ∧
        64 *
              2 ^
                (natOf
                      (List.take 4
                        (List.drop 0 ((sA (hdr 0 0 1)).engineRead 30 131072 128).fst)) /
                    256 %
                  4) =
            (xs 64).length ∧
          natOf
                  (List.take 4
                    (List.drop 0 ((sA (hdr 0 0 1)).engineRead 30 131072 128).fst)) /
                65536 %
              32 <
            16)
    ∧ (sA (hdr 0 0 1)).engineOpen (bOp kA).id
        [(BitVec.toNat (131072 : VAddr) + 128,
            (if
                  natOf
                        (List.take 4
                          (List.drop 0 ((sA (hdr 0 0 1)).engineRead 30 131072 128).fst)) %
                      4 =
                    0 then
                4 *
                  (64 *
                    2 ^
                      (natOf
                            (List.take 4
                              (List.drop 0 ((sA (hdr 0 0 1)).engineRead 30 131072 128).fst)) /
                          256 %
                        4))
              else
                if
                    natOf
                          (List.take 4
                            (List.drop 0 ((sA (hdr 0 0 1)).engineRead 30 131072 128).fst)) %
                        4 =
                      1 then
                  2 *
                    (64 *
                      2 ^
                        (natOf
                              (List.take 4
                                (List.drop 0
                                  ((sA (hdr 0 0 1)).engineRead 30 131072 128).fst)) /
                            256 %
                          4))
                else
                  64 *
                      2 ^
                        (natOf
                              (List.take 4
                                (List.drop 0
                                  ((sA (hdr 0 0 1)).engineRead 30 131072 128).fst)) /
                            256 %
                          4) +
                    64 *
                        2 ^
                          (natOf
                                (List.take 4
                                  (List.drop 0
                                    ((sA (hdr 0 0 1)).engineRead 30 131072 128).fst)) /
                              256 %
                            4) /
                      8) *
              (natOf
                    (List.take 4
                      (List.drop 0 ((sA (hdr 0 0 1)).engineRead 30 131072 128).fst)) /
                  65536 %
                32),
            Access.read),
          (BitVec.toNat (131072 : VAddr) + 128 +
              (if
                    natOf
                          (List.take 4
                            (List.drop 0 ((sA (hdr 0 0 1)).engineRead 30 131072 128).fst)) %
                        4 =
                      0 then
                  4 *
                    (64 *
                      2 ^
                        (natOf
                              (List.take 4
                                (List.drop 0
                                  ((sA (hdr 0 0 1)).engineRead 30 131072 128).fst)) /
                            256 %
                          4))
                else
                  if
                      natOf
                            (List.take 4
                              (List.drop 0 ((sA (hdr 0 0 1)).engineRead 30 131072 128).fst)) %
                          4 =
                        1 then
                    2 *
                      (64 *
                        2 ^
                          (natOf
                                (List.take 4
                                  (List.drop 0
                                    ((sA (hdr 0 0 1)).engineRead 30 131072 128).fst)) /
                              256 %
                            4))
                  else
                    64 *
                        2 ^
                          (natOf
                                (List.take 4
                                  (List.drop 0
                                    ((sA (hdr 0 0 1)).engineRead 30 131072 128).fst)) /
                              256 %
                            4) +
                      64 *
                          2 ^
                            (natOf
                                  (List.take 4
                                    (List.drop 0
                                      ((sA (hdr 0 0 1)).engineRead 30 131072 128).fst)) /
                                256 %
                              4) /
                        8) *
                (natOf
                      (List.take 4
                        (List.drop 0 ((sA (hdr 0 0 1)).engineRead 30 131072 128).fst)) /
                    65536 %
                  32),
            if
                natOf
                      (List.take 4
                        (List.drop 0 ((sA (hdr 0 0 1)).engineRead 30 131072 128).fst)) %
                    4 =
                  0 then
              4 *
                (64 *
                  2 ^
                    (natOf
                          (List.take 4
                            (List.drop 0 ((sA (hdr 0 0 1)).engineRead 30 131072 128).fst)) /
                        256 %
                      4))
            else
              if
                  natOf
                        (List.take 4
                          (List.drop 0 ((sA (hdr 0 0 1)).engineRead 30 131072 128).fst)) %
                      4 =
                    1 then
                2 *
                  (64 *
                    2 ^
                      (natOf
                            (List.take 4
                              (List.drop 0 ((sA (hdr 0 0 1)).engineRead 30 131072 128).fst)) /
                          256 %
                        4))
              else
                64 *
                    2 ^
                      (natOf
                            (List.take 4
                              (List.drop 0 ((sA (hdr 0 0 1)).engineRead 30 131072 128).fst)) /
                          256 %
                        4) +
                  64 *
                      2 ^
                        (natOf
                              (List.take 4
                                (List.drop 0
                                  ((sA (hdr 0 0 1)).engineRead 30 131072 128).fst)) /
                            256 %
                          4) /
                    8,
            Access.write)] =
      (true, sA (hdr 0 0 1))
    ∧ (∀ (i : Nat),
      (i <
          if
              natOf
                    (List.take 4
                      (List.drop 0 ((sA (hdr 0 0 1)).engineRead 30 131072 128).fst)) %
                  4 =
                0 then
            4 *
              (64 *
                2 ^
                  (natOf
                        (List.take 4
                          (List.drop 0 ((sA (hdr 0 0 1)).engineRead 30 131072 128).fst)) /
                      256 %
                    4))
          else
            if
                natOf
                      (List.take 4
                        (List.drop 0 ((sA (hdr 0 0 1)).engineRead 30 131072 128).fst)) %
                    4 =
                  1 then
              2 *
                (64 *
                  2 ^
                    (natOf
                          (List.take 4
                            (List.drop 0 ((sA (hdr 0 0 1)).engineRead 30 131072 128).fst)) /
                        256 %
                      4))
            else
              64 *
                  2 ^
                    (natOf
                          (List.take 4
                            (List.drop 0 ((sA (hdr 0 0 1)).engineRead 30 131072 128).fst)) /
                        256 %
                      4) +
                64 *
                    2 ^
                      (natOf
                            (List.take 4
                              (List.drop 0 ((sA (hdr 0 0 1)).engineRead 30 131072 128).fst)) /
                          256 %
                        4) /
                  8) →
        pinned (bOp kA).wpins
            ((BitVec.toNat (131072 : VAddr) + 128 +
                  (if
                        natOf
                              (List.take 4
                                (List.drop 0
                                  ((sA (hdr 0 0 1)).engineRead 30 131072 128).fst)) %
                            4 =
                          0 then
                      4 *
                        (64 *
                          2 ^
                            (natOf
                                  (List.take 4
                                    (List.drop 0
                                      ((sA (hdr 0 0 1)).engineRead 30 131072 128).fst)) /
                                256 %
                              4))
                    else
                      if
                          natOf
                                (List.take 4
                                  (List.drop 0
                                    ((sA (hdr 0 0 1)).engineRead 30 131072 128).fst)) %
                              4 =
                            1 then
                        2 *
                          (64 *
                            2 ^
                              (natOf
                                    (List.take 4
                                      (List.drop 0
                                        ((sA (hdr 0 0 1)).engineRead 30 131072 128).fst)) /
                                  256 %
                                4))
                      else
                        64 *
                            2 ^
                              (natOf
                                    (List.take 4
                                      (List.drop 0
                                        ((sA (hdr 0 0 1)).engineRead 30 131072 128).fst)) /
                                  256 %
                                4) +
                          64 *
                              2 ^
                                (natOf
                                      (List.take 4
                                        (List.drop 0
                                          ((sA (hdr 0 0 1)).engineRead 30 131072 128).fst)) /
                                    256 %
                                  4) /
                            8) *
                    (natOf
                          (List.take 4
                            (List.drop 0 ((sA (hdr 0 0 1)).engineRead 30 131072 128).fst)) /
                        65536 %
                      32) +
                i) %
              2 ^ 52) =
          some
            (into_
                (BitVec.toNat (131072 : VAddr) + 128 +
                    (if
                          natOf
                                (List.take 4
                                  (List.drop 0
                                    ((sA (hdr 0 0 1)).engineRead 30 131072 128).fst)) %
                              4 =
                            0 then
                        4 *
                          (64 *
                            2 ^
                              (natOf
                                    (List.take 4
                                      (List.drop 0
                                        ((sA (hdr 0 0 1)).engineRead 30 131072 128).fst)) /
                                  256 %
                                4))
                      else
                        if
                            natOf
                                  (List.take 4
                                    (List.drop 0
                                      ((sA (hdr 0 0 1)).engineRead 30 131072 128).fst)) %
                                4 =
                              1 then
                          2 *
                            (64 *
                              2 ^
                                (natOf
                                      (List.take 4
                                        (List.drop 0
                                          ((sA (hdr 0 0 1)).engineRead 30 131072 128).fst)) /
                                    256 %
                                  4))
                        else
                          64 *
                              2 ^
                                (natOf
                                      (List.take 4
                                        (List.drop 0
                                          ((sA (hdr 0 0 1)).engineRead 30 131072 128).fst)) /
                                    256 %
                                  4) +
                            64 *
                                2 ^
                                  (natOf
                                        (List.take 4
                                          (List.drop 0
                                            ((sA (hdr 0 0 1)).engineRead 30 131072 128).fst)) /
                                      256 %
                                    4) /
                              8) *
                      (natOf
                            (List.take 4
                              (List.drop 0 ((sA (hdr 0 0 1)).engineRead 30 131072 128).fst)) /
                          65536 %
                        32) +
                  i),
              0))
    ∧ (sA (hdr 0 0 1)).engineRead (bOp kA).id (BitVec.toNat (131072 : VAddr) + 128)
        ((if
              natOf
                    (List.take 4
                      (List.drop 0 ((sA (hdr 0 0 1)).engineRead 30 131072 128).fst)) %
                  4 =
                0 then
            4 *
              (64 *
                2 ^
                  (natOf
                        (List.take 4
                          (List.drop 0 ((sA (hdr 0 0 1)).engineRead 30 131072 128).fst)) /
                      256 %
                    4))
          else
            if
                natOf
                      (List.take 4
                        (List.drop 0 ((sA (hdr 0 0 1)).engineRead 30 131072 128).fst)) %
                    4 =
                  1 then
              2 *
                (64 *
                  2 ^
                    (natOf
                          (List.take 4
                            (List.drop 0 ((sA (hdr 0 0 1)).engineRead 30 131072 128).fst)) /
                        256 %
                      4))
            else
              64 *
                  2 ^
                    (natOf
                          (List.take 4
                            (List.drop 0 ((sA (hdr 0 0 1)).engineRead 30 131072 128).fst)) /
                        256 %
                      4) +
                64 *
                    2 ^
                      (natOf
                            (List.take 4
                              (List.drop 0 ((sA (hdr 0 0 1)).engineRead 30 131072 128).fst)) /
                          256 %
                        4) /
                  8) *
          (natOf
                (List.take 4
                  (List.drop 0 ((sA (hdr 0 0 1)).engineRead 30 131072 128).fst)) /
              65536 %
            32)) =
      (oldB (sA (hdr 0 0 1)) 0 1, sA (hdr 0 0 1))
    ∧ (if
            natOf
                  (List.take 4
                    (List.drop 0 ((sA (hdr 0 0 1)).engineRead 30 131072 128).fst)) %
                4 =
              0 then
          List.flatMap (fun (x : Word) => bytesOf 2 (bf16.narrow Rnd.rne false 0 (BitVec.toNat x)).bits)
            (xs 64 ++ xs 64)
        else
          kvQuantise
            (natOf
                (List.take 4
                  (List.drop 0 ((sA (hdr 0 0 1)).engineRead 30 131072 128).fst)) %
              4)
            ((sA (hdr 0 0 1)).engineRead 30 131072 128).fst (xs 64) (xs 64)).length =
      if
          natOf
                (List.take 4
                  (List.drop 0 ((sA (hdr 0 0 1)).engineRead 30 131072 128).fst)) %
              4 =
            0 then
        4 *
          (64 *
            2 ^
              (natOf
                    (List.take 4
                      (List.drop 0 ((sA (hdr 0 0 1)).engineRead 30 131072 128).fst)) /
                  256 %
                4))
      else
        if
            natOf
                  (List.take 4
                    (List.drop 0 ((sA (hdr 0 0 1)).engineRead 30 131072 128).fst)) %
                4 =
              1 then
          2 *
            (64 *
              2 ^
                (natOf
                      (List.take 4
                        (List.drop 0 ((sA (hdr 0 0 1)).engineRead 30 131072 128).fst)) /
                    256 %
                  4))
        else
          64 *
              2 ^
                (natOf
                      (List.take 4
                        (List.drop 0 ((sA (hdr 0 0 1)).engineRead 30 131072 128).fst)) /
                    256 %
                  4) +
            64 *
                2 ^
                  (natOf
                        (List.take 4
                          (List.drop 0 ((sA (hdr 0 0 1)).engineRead 30 131072 128).fst)) /
                      256 %
                    4) /
              8 :=
  by
  refine @of_decide_eq_true _ (by letI := @decTidy; infer_instance) ?_
  decide +kernel
theorem witness_KvSteps_1e :
    (sA (hdr 1 0 2)).op? (bOp kA).id = some (bOp kA)
    ∧ (bOp kA).kind = OpKind.kvappend (9 : Word) (131072 : VAddr) (xs 64) (xs 64) KvD.d64
    ∧ (sA (hdr 1 0 2)).sent (bOp kA) = true
    ∧ (sA (hdr 1 0 2)).engineOpen (bOp kA).id
        [(BitVec.toNat (131072 : VAddr), 128, Access.read), (BitVec.toNat (131072 : VAddr), 128, Access.write)] =
      (true, sA (hdr 1 0 2))
    ∧ (sA (hdr 1 0 2)).engineRead (bOp kA).id (BitVec.toNat (131072 : VAddr)) 128 =
      (((sA (hdr 1 0 2)).engineRead 30 131072 128).fst, sA (hdr 1 0 2))
    ∧ (sA (hdr 1 0 2)).tidy
    ∧ (∀ (i : Nat),
      i < 128 →
        pinned (bOp kA).wpins ((BitVec.toNat (131072 : VAddr) + i) % 2 ^ 52) =
          some (into_ (BitVec.toNat (131072 : VAddr) + i), 0))
    ∧ (xs 64).length = 32 * KvD.d64.regs
    ∧ (natOf (List.take 4 (List.drop 0 ((sA (hdr 1 0 2)).engineRead 30 131072 128).fst)) %
          4 ≠
        3 ∧
      natOf
                (List.take 4
                  (List.drop 0 ((sA (hdr 1 0 2)).engineRead 30 131072 128).fst)) /
              256 %
            4 ≠
          3 ∧
        64 *
              2 ^
                (natOf
                      (List.take 4
                        (List.drop 0 ((sA (hdr 1 0 2)).engineRead 30 131072 128).fst)) /
                    256 %
                  4) =
            (xs 64).length ∧
          natOf
                  (List.take 4
                    (List.drop 0 ((sA (hdr 1 0 2)).engineRead 30 131072 128).fst)) /
                65536 %
              32 <
            16)
    ∧ (sA (hdr 1 0 2)).engineOpen (bOp kA).id
        [(BitVec.toNat (131072 : VAddr) + 128,
            (if
                  natOf
                        (List.take 4
                          (List.drop 0 ((sA (hdr 1 0 2)).engineRead 30 131072 128).fst)) %
                      4 =
                    0 then
                4 *
                  (64 *
                    2 ^
                      (natOf
                            (List.take 4
                              (List.drop 0 ((sA (hdr 1 0 2)).engineRead 30 131072 128).fst)) /
                          256 %
                        4))
              else
                if
                    natOf
                          (List.take 4
                            (List.drop 0 ((sA (hdr 1 0 2)).engineRead 30 131072 128).fst)) %
                        4 =
                      1 then
                  2 *
                    (64 *
                      2 ^
                        (natOf
                              (List.take 4
                                (List.drop 0
                                  ((sA (hdr 1 0 2)).engineRead 30 131072 128).fst)) /
                            256 %
                          4))
                else
                  64 *
                      2 ^
                        (natOf
                              (List.take 4
                                (List.drop 0
                                  ((sA (hdr 1 0 2)).engineRead 30 131072 128).fst)) /
                            256 %
                          4) +
                    64 *
                        2 ^
                          (natOf
                                (List.take 4
                                  (List.drop 0
                                    ((sA (hdr 1 0 2)).engineRead 30 131072 128).fst)) /
                              256 %
                            4) /
                      8) *
              (natOf
                    (List.take 4
                      (List.drop 0 ((sA (hdr 1 0 2)).engineRead 30 131072 128).fst)) /
                  65536 %
                32),
            Access.read),
          (BitVec.toNat (131072 : VAddr) + 128 +
              (if
                    natOf
                          (List.take 4
                            (List.drop 0 ((sA (hdr 1 0 2)).engineRead 30 131072 128).fst)) %
                        4 =
                      0 then
                  4 *
                    (64 *
                      2 ^
                        (natOf
                              (List.take 4
                                (List.drop 0
                                  ((sA (hdr 1 0 2)).engineRead 30 131072 128).fst)) /
                            256 %
                          4))
                else
                  if
                      natOf
                            (List.take 4
                              (List.drop 0 ((sA (hdr 1 0 2)).engineRead 30 131072 128).fst)) %
                          4 =
                        1 then
                    2 *
                      (64 *
                        2 ^
                          (natOf
                                (List.take 4
                                  (List.drop 0
                                    ((sA (hdr 1 0 2)).engineRead 30 131072 128).fst)) /
                              256 %
                            4))
                  else
                    64 *
                        2 ^
                          (natOf
                                (List.take 4
                                  (List.drop 0
                                    ((sA (hdr 1 0 2)).engineRead 30 131072 128).fst)) /
                              256 %
                            4) +
                      64 *
                          2 ^
                            (natOf
                                  (List.take 4
                                    (List.drop 0
                                      ((sA (hdr 1 0 2)).engineRead 30 131072 128).fst)) /
                                256 %
                              4) /
                        8) *
                (natOf
                      (List.take 4
                        (List.drop 0 ((sA (hdr 1 0 2)).engineRead 30 131072 128).fst)) /
                    65536 %
                  32),
            if
                natOf
                      (List.take 4
                        (List.drop 0 ((sA (hdr 1 0 2)).engineRead 30 131072 128).fst)) %
                    4 =
                  0 then
              4 *
                (64 *
                  2 ^
                    (natOf
                          (List.take 4
                            (List.drop 0 ((sA (hdr 1 0 2)).engineRead 30 131072 128).fst)) /
                        256 %
                      4))
            else
              if
                  natOf
                        (List.take 4
                          (List.drop 0 ((sA (hdr 1 0 2)).engineRead 30 131072 128).fst)) %
                      4 =
                    1 then
                2 *
                  (64 *
                    2 ^
                      (natOf
                            (List.take 4
                              (List.drop 0 ((sA (hdr 1 0 2)).engineRead 30 131072 128).fst)) /
                          256 %
                        4))
              else
                64 *
                    2 ^
                      (natOf
                            (List.take 4
                              (List.drop 0 ((sA (hdr 1 0 2)).engineRead 30 131072 128).fst)) /
                          256 %
                        4) +
                  64 *
                      2 ^
                        (natOf
                              (List.take 4
                                (List.drop 0
                                  ((sA (hdr 1 0 2)).engineRead 30 131072 128).fst)) /
                            256 %
                          4) /
                    8,
            Access.write)] =
      (true, sA (hdr 1 0 2))
    ∧ (∀ (i : Nat),
      (i <
          if
              natOf
                    (List.take 4
                      (List.drop 0 ((sA (hdr 1 0 2)).engineRead 30 131072 128).fst)) %
                  4 =
                0 then
            4 *
              (64 *
                2 ^
                  (natOf
                        (List.take 4
                          (List.drop 0 ((sA (hdr 1 0 2)).engineRead 30 131072 128).fst)) /
                      256 %
                    4))
          else
            if
                natOf
                      (List.take 4
                        (List.drop 0 ((sA (hdr 1 0 2)).engineRead 30 131072 128).fst)) %
                    4 =
                  1 then
              2 *
                (64 *
                  2 ^
                    (natOf
                          (List.take 4
                            (List.drop 0 ((sA (hdr 1 0 2)).engineRead 30 131072 128).fst)) /
                        256 %
                      4))
            else
              64 *
                  2 ^
                    (natOf
                          (List.take 4
                            (List.drop 0 ((sA (hdr 1 0 2)).engineRead 30 131072 128).fst)) /
                        256 %
                      4) +
                64 *
                    2 ^
                      (natOf
                            (List.take 4
                              (List.drop 0 ((sA (hdr 1 0 2)).engineRead 30 131072 128).fst)) /
                          256 %
                        4) /
                  8) →
        pinned (bOp kA).wpins
            ((BitVec.toNat (131072 : VAddr) + 128 +
                  (if
                        natOf
                              (List.take 4
                                (List.drop 0
                                  ((sA (hdr 1 0 2)).engineRead 30 131072 128).fst)) %
                            4 =
                          0 then
                      4 *
                        (64 *
                          2 ^
                            (natOf
                                  (List.take 4
                                    (List.drop 0
                                      ((sA (hdr 1 0 2)).engineRead 30 131072 128).fst)) /
                                256 %
                              4))
                    else
                      if
                          natOf
                                (List.take 4
                                  (List.drop 0
                                    ((sA (hdr 1 0 2)).engineRead 30 131072 128).fst)) %
                              4 =
                            1 then
                        2 *
                          (64 *
                            2 ^
                              (natOf
                                    (List.take 4
                                      (List.drop 0
                                        ((sA (hdr 1 0 2)).engineRead 30 131072 128).fst)) /
                                  256 %
                                4))
                      else
                        64 *
                            2 ^
                              (natOf
                                    (List.take 4
                                      (List.drop 0
                                        ((sA (hdr 1 0 2)).engineRead 30 131072 128).fst)) /
                                  256 %
                                4) +
                          64 *
                              2 ^
                                (natOf
                                      (List.take 4
                                        (List.drop 0
                                          ((sA (hdr 1 0 2)).engineRead 30 131072 128).fst)) /
                                    256 %
                                  4) /
                            8) *
                    (natOf
                          (List.take 4
                            (List.drop 0 ((sA (hdr 1 0 2)).engineRead 30 131072 128).fst)) /
                        65536 %
                      32) +
                i) %
              2 ^ 52) =
          some
            (into_
                (BitVec.toNat (131072 : VAddr) + 128 +
                    (if
                          natOf
                                (List.take 4
                                  (List.drop 0
                                    ((sA (hdr 1 0 2)).engineRead 30 131072 128).fst)) %
                              4 =
                            0 then
                        4 *
                          (64 *
                            2 ^
                              (natOf
                                    (List.take 4
                                      (List.drop 0
                                        ((sA (hdr 1 0 2)).engineRead 30 131072 128).fst)) /
                                  256 %
                                4))
                      else
                        if
                            natOf
                                  (List.take 4
                                    (List.drop 0
                                      ((sA (hdr 1 0 2)).engineRead 30 131072 128).fst)) %
                                4 =
                              1 then
                          2 *
                            (64 *
                              2 ^
                                (natOf
                                      (List.take 4
                                        (List.drop 0
                                          ((sA (hdr 1 0 2)).engineRead 30 131072 128).fst)) /
                                    256 %
                                  4))
                        else
                          64 *
                              2 ^
                                (natOf
                                      (List.take 4
                                        (List.drop 0
                                          ((sA (hdr 1 0 2)).engineRead 30 131072 128).fst)) /
                                    256 %
                                  4) +
                            64 *
                                2 ^
                                  (natOf
                                        (List.take 4
                                          (List.drop 0
                                            ((sA (hdr 1 0 2)).engineRead 30 131072 128).fst)) /
                                      256 %
                                    4) /
                              8) *
                      (natOf
                            (List.take 4
                              (List.drop 0 ((sA (hdr 1 0 2)).engineRead 30 131072 128).fst)) /
                          65536 %
                        32) +
                  i),
              0))
    ∧ (sA (hdr 1 0 2)).engineRead (bOp kA).id (BitVec.toNat (131072 : VAddr) + 128)
        ((if
              natOf
                    (List.take 4
                      (List.drop 0 ((sA (hdr 1 0 2)).engineRead 30 131072 128).fst)) %
                  4 =
                0 then
            4 *
              (64 *
                2 ^
                  (natOf
                        (List.take 4
                          (List.drop 0 ((sA (hdr 1 0 2)).engineRead 30 131072 128).fst)) /
                      256 %
                    4))
          else
            if
                natOf
                      (List.take 4
                        (List.drop 0 ((sA (hdr 1 0 2)).engineRead 30 131072 128).fst)) %
                    4 =
                  1 then
              2 *
                (64 *
                  2 ^
                    (natOf
                          (List.take 4
                            (List.drop 0 ((sA (hdr 1 0 2)).engineRead 30 131072 128).fst)) /
                        256 %
                      4))
            else
              64 *
                  2 ^
                    (natOf
                          (List.take 4
                            (List.drop 0 ((sA (hdr 1 0 2)).engineRead 30 131072 128).fst)) /
                        256 %
                      4) +
                64 *
                    2 ^
                      (natOf
                            (List.take 4
                              (List.drop 0 ((sA (hdr 1 0 2)).engineRead 30 131072 128).fst)) /
                          256 %
                        4) /
                  8) *
          (natOf
                (List.take 4
                  (List.drop 0 ((sA (hdr 1 0 2)).engineRead 30 131072 128).fst)) /
              65536 %
            32)) =
      (oldB (sA (hdr 1 0 2)) 1 2, sA (hdr 1 0 2))
    ∧ (if
            natOf
                  (List.take 4
                    (List.drop 0 ((sA (hdr 1 0 2)).engineRead 30 131072 128).fst)) %
                4 =
              0 then
          List.flatMap (fun (x : Word) => bytesOf 2 (bf16.narrow Rnd.rne false 0 (BitVec.toNat x)).bits)
            (xs 64 ++ xs 64)
        else
          kvQuantise
            (natOf
                (List.take 4
                  (List.drop 0 ((sA (hdr 1 0 2)).engineRead 30 131072 128).fst)) %
              4)
            ((sA (hdr 1 0 2)).engineRead 30 131072 128).fst (xs 64) (xs 64)).length =
      if
          natOf
                (List.take 4
                  (List.drop 0 ((sA (hdr 1 0 2)).engineRead 30 131072 128).fst)) %
              4 =
            0 then
        4 *
          (64 *
            2 ^
              (natOf
                    (List.take 4
                      (List.drop 0 ((sA (hdr 1 0 2)).engineRead 30 131072 128).fst)) /
                  256 %
                4))
      else
        if
            natOf
                  (List.take 4
                    (List.drop 0 ((sA (hdr 1 0 2)).engineRead 30 131072 128).fst)) %
                4 =
              1 then
          2 *
            (64 *
              2 ^
                (natOf
                      (List.take 4
                        (List.drop 0 ((sA (hdr 1 0 2)).engineRead 30 131072 128).fst)) /
                    256 %
                  4))
        else
          64 *
              2 ^
                (natOf
                      (List.take 4
                        (List.drop 0 ((sA (hdr 1 0 2)).engineRead 30 131072 128).fst)) /
                    256 %
                  4) +
            64 *
                2 ^
                  (natOf
                        (List.take 4
                          (List.drop 0 ((sA (hdr 1 0 2)).engineRead 30 131072 128).fst)) /
                      256 %
                    4) /
              8 :=
  by
  refine @of_decide_eq_true _ (by letI := @decTidy; infer_instance) ?_
  decide +kernel
theorem witness_KvSteps_1f :
    (sA (hdr 2 0 0)).op? (bOp kA).id = some (bOp kA)
    ∧ (bOp kA).kind = OpKind.kvappend (9 : Word) (131072 : VAddr) (xs 64) (xs 64) KvD.d64
    ∧ (sA (hdr 2 0 0)).sent (bOp kA) = true
    ∧ (sA (hdr 2 0 0)).engineOpen (bOp kA).id
        [(BitVec.toNat (131072 : VAddr), 128, Access.read), (BitVec.toNat (131072 : VAddr), 128, Access.write)] =
      (true, sA (hdr 2 0 0))
    ∧ (sA (hdr 2 0 0)).engineRead (bOp kA).id (BitVec.toNat (131072 : VAddr)) 128 =
      (((sA (hdr 2 0 0)).engineRead 30 131072 128).fst, sA (hdr 2 0 0))
    ∧ (sA (hdr 2 0 0)).tidy
    ∧ (∀ (i : Nat),
      i < 128 →
        pinned (bOp kA).wpins ((BitVec.toNat (131072 : VAddr) + i) % 2 ^ 52) =
          some (into_ (BitVec.toNat (131072 : VAddr) + i), 0))
    ∧ (xs 64).length = 32 * KvD.d64.regs
    ∧ (natOf (List.take 4 (List.drop 0 ((sA (hdr 2 0 0)).engineRead 30 131072 128).fst)) %
          4 ≠
        3 ∧
      natOf
                (List.take 4
                  (List.drop 0 ((sA (hdr 2 0 0)).engineRead 30 131072 128).fst)) /
              256 %
            4 ≠
          3 ∧
        64 *
              2 ^
                (natOf
                      (List.take 4
                        (List.drop 0 ((sA (hdr 2 0 0)).engineRead 30 131072 128).fst)) /
                    256 %
                  4) =
            (xs 64).length ∧
          natOf
                  (List.take 4
                    (List.drop 0 ((sA (hdr 2 0 0)).engineRead 30 131072 128).fst)) /
                65536 %
              32 <
            16)
    ∧ (sA (hdr 2 0 0)).engineOpen (bOp kA).id
        [(BitVec.toNat (131072 : VAddr) + 128,
            (if
                  natOf
                        (List.take 4
                          (List.drop 0 ((sA (hdr 2 0 0)).engineRead 30 131072 128).fst)) %
                      4 =
                    0 then
                4 *
                  (64 *
                    2 ^
                      (natOf
                            (List.take 4
                              (List.drop 0 ((sA (hdr 2 0 0)).engineRead 30 131072 128).fst)) /
                          256 %
                        4))
              else
                if
                    natOf
                          (List.take 4
                            (List.drop 0 ((sA (hdr 2 0 0)).engineRead 30 131072 128).fst)) %
                        4 =
                      1 then
                  2 *
                    (64 *
                      2 ^
                        (natOf
                              (List.take 4
                                (List.drop 0
                                  ((sA (hdr 2 0 0)).engineRead 30 131072 128).fst)) /
                            256 %
                          4))
                else
                  64 *
                      2 ^
                        (natOf
                              (List.take 4
                                (List.drop 0
                                  ((sA (hdr 2 0 0)).engineRead 30 131072 128).fst)) /
                            256 %
                          4) +
                    64 *
                        2 ^
                          (natOf
                                (List.take 4
                                  (List.drop 0
                                    ((sA (hdr 2 0 0)).engineRead 30 131072 128).fst)) /
                              256 %
                            4) /
                      8) *
              (natOf
                    (List.take 4
                      (List.drop 0 ((sA (hdr 2 0 0)).engineRead 30 131072 128).fst)) /
                  65536 %
                32),
            Access.read),
          (BitVec.toNat (131072 : VAddr) + 128 +
              (if
                    natOf
                          (List.take 4
                            (List.drop 0 ((sA (hdr 2 0 0)).engineRead 30 131072 128).fst)) %
                        4 =
                      0 then
                  4 *
                    (64 *
                      2 ^
                        (natOf
                              (List.take 4
                                (List.drop 0
                                  ((sA (hdr 2 0 0)).engineRead 30 131072 128).fst)) /
                            256 %
                          4))
                else
                  if
                      natOf
                            (List.take 4
                              (List.drop 0 ((sA (hdr 2 0 0)).engineRead 30 131072 128).fst)) %
                          4 =
                        1 then
                    2 *
                      (64 *
                        2 ^
                          (natOf
                                (List.take 4
                                  (List.drop 0
                                    ((sA (hdr 2 0 0)).engineRead 30 131072 128).fst)) /
                              256 %
                            4))
                  else
                    64 *
                        2 ^
                          (natOf
                                (List.take 4
                                  (List.drop 0
                                    ((sA (hdr 2 0 0)).engineRead 30 131072 128).fst)) /
                              256 %
                            4) +
                      64 *
                          2 ^
                            (natOf
                                  (List.take 4
                                    (List.drop 0
                                      ((sA (hdr 2 0 0)).engineRead 30 131072 128).fst)) /
                                256 %
                              4) /
                        8) *
                (natOf
                      (List.take 4
                        (List.drop 0 ((sA (hdr 2 0 0)).engineRead 30 131072 128).fst)) /
                    65536 %
                  32),
            if
                natOf
                      (List.take 4
                        (List.drop 0 ((sA (hdr 2 0 0)).engineRead 30 131072 128).fst)) %
                    4 =
                  0 then
              4 *
                (64 *
                  2 ^
                    (natOf
                          (List.take 4
                            (List.drop 0 ((sA (hdr 2 0 0)).engineRead 30 131072 128).fst)) /
                        256 %
                      4))
            else
              if
                  natOf
                        (List.take 4
                          (List.drop 0 ((sA (hdr 2 0 0)).engineRead 30 131072 128).fst)) %
                      4 =
                    1 then
                2 *
                  (64 *
                    2 ^
                      (natOf
                            (List.take 4
                              (List.drop 0 ((sA (hdr 2 0 0)).engineRead 30 131072 128).fst)) /
                          256 %
                        4))
              else
                64 *
                    2 ^
                      (natOf
                            (List.take 4
                              (List.drop 0 ((sA (hdr 2 0 0)).engineRead 30 131072 128).fst)) /
                          256 %
                        4) +
                  64 *
                      2 ^
                        (natOf
                              (List.take 4
                                (List.drop 0
                                  ((sA (hdr 2 0 0)).engineRead 30 131072 128).fst)) /
                            256 %
                          4) /
                    8,
            Access.write)] =
      (true, sA (hdr 2 0 0))
    ∧ (∀ (i : Nat),
      (i <
          if
              natOf
                    (List.take 4
                      (List.drop 0 ((sA (hdr 2 0 0)).engineRead 30 131072 128).fst)) %
                  4 =
                0 then
            4 *
              (64 *
                2 ^
                  (natOf
                        (List.take 4
                          (List.drop 0 ((sA (hdr 2 0 0)).engineRead 30 131072 128).fst)) /
                      256 %
                    4))
          else
            if
                natOf
                      (List.take 4
                        (List.drop 0 ((sA (hdr 2 0 0)).engineRead 30 131072 128).fst)) %
                    4 =
                  1 then
              2 *
                (64 *
                  2 ^
                    (natOf
                          (List.take 4
                            (List.drop 0 ((sA (hdr 2 0 0)).engineRead 30 131072 128).fst)) /
                        256 %
                      4))
            else
              64 *
                  2 ^
                    (natOf
                          (List.take 4
                            (List.drop 0 ((sA (hdr 2 0 0)).engineRead 30 131072 128).fst)) /
                        256 %
                      4) +
                64 *
                    2 ^
                      (natOf
                            (List.take 4
                              (List.drop 0 ((sA (hdr 2 0 0)).engineRead 30 131072 128).fst)) /
                          256 %
                        4) /
                  8) →
        pinned (bOp kA).wpins
            ((BitVec.toNat (131072 : VAddr) + 128 +
                  (if
                        natOf
                              (List.take 4
                                (List.drop 0
                                  ((sA (hdr 2 0 0)).engineRead 30 131072 128).fst)) %
                            4 =
                          0 then
                      4 *
                        (64 *
                          2 ^
                            (natOf
                                  (List.take 4
                                    (List.drop 0
                                      ((sA (hdr 2 0 0)).engineRead 30 131072 128).fst)) /
                                256 %
                              4))
                    else
                      if
                          natOf
                                (List.take 4
                                  (List.drop 0
                                    ((sA (hdr 2 0 0)).engineRead 30 131072 128).fst)) %
                              4 =
                            1 then
                        2 *
                          (64 *
                            2 ^
                              (natOf
                                    (List.take 4
                                      (List.drop 0
                                        ((sA (hdr 2 0 0)).engineRead 30 131072 128).fst)) /
                                  256 %
                                4))
                      else
                        64 *
                            2 ^
                              (natOf
                                    (List.take 4
                                      (List.drop 0
                                        ((sA (hdr 2 0 0)).engineRead 30 131072 128).fst)) /
                                  256 %
                                4) +
                          64 *
                              2 ^
                                (natOf
                                      (List.take 4
                                        (List.drop 0
                                          ((sA (hdr 2 0 0)).engineRead 30 131072 128).fst)) /
                                    256 %
                                  4) /
                            8) *
                    (natOf
                          (List.take 4
                            (List.drop 0 ((sA (hdr 2 0 0)).engineRead 30 131072 128).fst)) /
                        65536 %
                      32) +
                i) %
              2 ^ 52) =
          some
            (into_
                (BitVec.toNat (131072 : VAddr) + 128 +
                    (if
                          natOf
                                (List.take 4
                                  (List.drop 0
                                    ((sA (hdr 2 0 0)).engineRead 30 131072 128).fst)) %
                              4 =
                            0 then
                        4 *
                          (64 *
                            2 ^
                              (natOf
                                    (List.take 4
                                      (List.drop 0
                                        ((sA (hdr 2 0 0)).engineRead 30 131072 128).fst)) /
                                  256 %
                                4))
                      else
                        if
                            natOf
                                  (List.take 4
                                    (List.drop 0
                                      ((sA (hdr 2 0 0)).engineRead 30 131072 128).fst)) %
                                4 =
                              1 then
                          2 *
                            (64 *
                              2 ^
                                (natOf
                                      (List.take 4
                                        (List.drop 0
                                          ((sA (hdr 2 0 0)).engineRead 30 131072 128).fst)) /
                                    256 %
                                  4))
                        else
                          64 *
                              2 ^
                                (natOf
                                      (List.take 4
                                        (List.drop 0
                                          ((sA (hdr 2 0 0)).engineRead 30 131072 128).fst)) /
                                    256 %
                                  4) +
                            64 *
                                2 ^
                                  (natOf
                                        (List.take 4
                                          (List.drop 0
                                            ((sA (hdr 2 0 0)).engineRead 30 131072 128).fst)) /
                                      256 %
                                    4) /
                              8) *
                      (natOf
                            (List.take 4
                              (List.drop 0 ((sA (hdr 2 0 0)).engineRead 30 131072 128).fst)) /
                          65536 %
                        32) +
                  i),
              0))
    ∧ (sA (hdr 2 0 0)).engineRead (bOp kA).id (BitVec.toNat (131072 : VAddr) + 128)
        ((if
              natOf
                    (List.take 4
                      (List.drop 0 ((sA (hdr 2 0 0)).engineRead 30 131072 128).fst)) %
                  4 =
                0 then
            4 *
              (64 *
                2 ^
                  (natOf
                        (List.take 4
                          (List.drop 0 ((sA (hdr 2 0 0)).engineRead 30 131072 128).fst)) /
                      256 %
                    4))
          else
            if
                natOf
                      (List.take 4
                        (List.drop 0 ((sA (hdr 2 0 0)).engineRead 30 131072 128).fst)) %
                    4 =
                  1 then
              2 *
                (64 *
                  2 ^
                    (natOf
                          (List.take 4
                            (List.drop 0 ((sA (hdr 2 0 0)).engineRead 30 131072 128).fst)) /
                        256 %
                      4))
            else
              64 *
                  2 ^
                    (natOf
                          (List.take 4
                            (List.drop 0 ((sA (hdr 2 0 0)).engineRead 30 131072 128).fst)) /
                        256 %
                      4) +
                64 *
                    2 ^
                      (natOf
                            (List.take 4
                              (List.drop 0 ((sA (hdr 2 0 0)).engineRead 30 131072 128).fst)) /
                          256 %
                        4) /
                  8) *
          (natOf
                (List.take 4
                  (List.drop 0 ((sA (hdr 2 0 0)).engineRead 30 131072 128).fst)) /
              65536 %
            32)) =
      (oldB (sA (hdr 2 0 0)) 2 0, sA (hdr 2 0 0))
    ∧ (if
            natOf
                  (List.take 4
                    (List.drop 0 ((sA (hdr 2 0 0)).engineRead 30 131072 128).fst)) %
                4 =
              0 then
          List.flatMap (fun (x : Word) => bytesOf 2 (bf16.narrow Rnd.rne false 0 (BitVec.toNat x)).bits)
            (xs 64 ++ xs 64)
        else
          kvQuantise
            (natOf
                (List.take 4
                  (List.drop 0 ((sA (hdr 2 0 0)).engineRead 30 131072 128).fst)) %
              4)
            ((sA (hdr 2 0 0)).engineRead 30 131072 128).fst (xs 64) (xs 64)).length =
      if
          natOf
                (List.take 4
                  (List.drop 0 ((sA (hdr 2 0 0)).engineRead 30 131072 128).fst)) %
              4 =
            0 then
        4 *
          (64 *
            2 ^
              (natOf
                    (List.take 4
                      (List.drop 0 ((sA (hdr 2 0 0)).engineRead 30 131072 128).fst)) /
                  256 %
                4))
      else
        if
            natOf
                  (List.take 4
                    (List.drop 0 ((sA (hdr 2 0 0)).engineRead 30 131072 128).fst)) %
                4 =
              1 then
          2 *
            (64 *
              2 ^
                (natOf
                      (List.take 4
                        (List.drop 0 ((sA (hdr 2 0 0)).engineRead 30 131072 128).fst)) /
                    256 %
                  4))
        else
          64 *
              2 ^
                (natOf
                      (List.take 4
                        (List.drop 0 ((sA (hdr 2 0 0)).engineRead 30 131072 128).fst)) /
                    256 %
                  4) +
            64 *
                2 ^
                  (natOf
                        (List.take 4
                          (List.drop 0 ((sA (hdr 2 0 0)).engineRead 30 131072 128).fst)) /
                      256 %
                    4) /
              8 :=
  by
  refine @of_decide_eq_true _ (by letI := @decTidy; infer_instance) ?_
  decide +kernel
def kI : OpKind := .pfxins 0x700000005 0x60000 0x20000
def desc (n : Nat) : List Byte := bytesOf 8 0x30000 ++ bytesOf 4 n ++ bytesOf 4 41
def bucketOf (l : List (Nat × Nat)) : List Byte := l.flatMap (fun e => bytesOf 8 e.1 ++ bytesOf 8 e.2)
def sI (n : Nat) (l : List (Nat × Nat)) : State := step_ kI (bytesAt 0x90000 (bucketOf l) (bytesAt 0x70000 (desc n) (at_ .nopShort)))
def sI0 : State := asGroup1 (flg (inFlight [storeOp, { bOp kI with gid := 0 }] (at_ .nopShort)))
def full8 : List (Nat × Nat) := (List.range 8).map (fun i => (i, 0x10000 + 256 * i))
theorem witness_KvSteps_2_1 :
    sI0.op? (bOp kI).id = some (bOp kI)
    ∧ (bOp kI).kind = OpKind.pfxins (30064771077 : DWord) (393216 : VAddr) (131072 : VAddr)
    ∧ sI0.sent (bOp kI) = false :=
  by decide +kernel
theorem witness_KvSteps_2_1b :
    (sI 25 []).op? (bOp kI).id = some (bOp kI)
    ∧ (bOp kI).kind = OpKind.pfxins (30064771077 : DWord) (393216 : VAddr) (131072 : VAddr)
    ∧ (sI 25 []).sent (bOp kI) = true
    ∧ (∀ (a : Op), a ∈ (sI 25 []).ops → a.gid = (bOp kI).gid → a.id = (bOp kI).id ∨ ∀ (h : DWord) (b t : VAddr), a.kind ≠ OpKind.pfxins h b t)
    ∧ (sI 25 []).engineOpen (bOp kI).id [(BitVec.toNat (131072 : VAddr), 16, Access.read)] = (true, sI 25 [])
    ∧ (sI 25 []).engineRead (bOp kI).id (BitVec.toNat (131072 : VAddr)) 16 =
      (((sI 25 []).engineRead 30 131072 16).fst, sI 25 [])
    ∧ ((if
          natOf (List.take 4 (List.drop 8 ((sI 25 []).engineRead 30 131072 16).fst)) % 32 ≤
              24 ∧
            natOf (List.take 4 (List.drop 8 ((sI 25 []).engineRead 30 131072 16).fst)) / 32 =
                0 ∧
              natOf (List.take 8 (List.drop 0 ((sI 25 []).engineRead 30 131072 16).fst)) %
                  128 =
                0 then
        some
          (natOf (List.take 8 (List.drop 0 ((sI 25 []).engineRead 30 131072 16).fst)) %
              2 ^ 52,
            2 ^
              (natOf (List.take 4 (List.drop 8 ((sI 25 []).engineRead 30 131072 16).fst)) %
                32))
      else none) =
      none)
    ∧ (sI 25 []).dev.elog = (0 : DWord) :=
  ⟨@of_decide_eq_true _ (by letI := @decTidy; letI := @decAll; letI := @decSome; infer_instance) (by decide +kernel), @of_decide_eq_true _ (by letI := @decTidy; letI := @decAll; letI := @decSome; infer_instance) (by decide +kernel), @of_decide_eq_true _ (by letI := @decTidy; letI := @decAll; letI := @decSome; infer_instance) (by decide +kernel), fun a ha _ => .inl ((by decide +kernel : ∀ a ∈ (sI 25 []).ops, a.id = (bOp kI).id) a ha), @of_decide_eq_true _ (by letI := @decTidy; letI := @decAll; letI := @decSome; infer_instance) (by decide +kernel), @of_decide_eq_true _ (by letI := @decTidy; letI := @decAll; letI := @decSome; infer_instance) (by decide +kernel), @of_decide_eq_true _ (by letI := @decTidy; letI := @decAll; letI := @decSome; infer_instance) (by decide +kernel), @of_decide_eq_true _ (by letI := @decTidy; letI := @decAll; letI := @decSome; infer_instance) (by decide +kernel)⟩
theorem witness_KvSteps_2_1c :
    (sI 0 [(4, 65536), (5, 393216)]).op? (bOp kI).id = some (bOp kI)
    ∧ (bOp kI).kind = OpKind.pfxins (30064771077 : DWord) (393216 : VAddr) (131072 : VAddr)
    ∧ (sI 0 [(4, 65536), (5, 393216)]).sent (bOp kI) = true
    ∧ (∀ (a : Op),
      a ∈ (sI 0 [(4, 65536), (5, 393216)]).ops →
        a.gid = (bOp kI).gid → a.id = (bOp kI).id ∨ ∀ (h : DWord) (b t : VAddr), a.kind ≠ OpKind.pfxins h b t)
    ∧ (sI 0 [(4, 65536), (5, 393216)]).engineOpen (bOp kI).id
        [(BitVec.toNat (131072 : VAddr), 16, Access.read)] =
      (true, sI 0 [(4, 65536), (5, 393216)])
    ∧ (sI 0 [(4, 65536), (5, 393216)]).engineRead (bOp kI).id (BitVec.toNat (131072 : VAddr)) 16 =
      (((sI 0 [(4, 65536), (5, 393216)]).engineRead 30 131072 16).fst,
        sI 0 [(4, 65536), (5, 393216)])
    ∧ ((if
          natOf
                  (List.take 4
                    (List.drop 8
                      ((sI 0 [(4, 65536), (5, 393216)]).engineRead 30 131072
                          16).fst)) %
                32 ≤
              24 ∧
            natOf
                    (List.take 4
                      (List.drop 8
                        ((sI 0 [(4, 65536), (5, 393216)]).engineRead 30 131072
                            16).fst)) /
                  32 =
                0 ∧
              natOf
                    (List.take 8
                      (List.drop 0
                        ((sI 0 [(4, 65536), (5, 393216)]).engineRead 30 131072
                            16).fst)) %
                  128 =
                0 then
        some
          (natOf
                (List.take 8
                  (List.drop 0
                    ((sI 0 [(4, 65536), (5, 393216)]).engineRead 30 131072 16).fst)) %
              2 ^ 52,
            2 ^
              (natOf
                  (List.take 4
                    (List.drop 8
                      ((sI 0 [(4, 65536), (5, 393216)]).engineRead 30 131072
                          16).fst)) %
                32))
      else none) =
      some (196608, 1))
    ∧ (sI 0 [(4, 65536), (5, 393216)]).engineOpen (bOp kI).id
        [((196608 + 128 * (BitVec.toNat (30064771077 : DWord) % 2 ^ 32 % 1)) % 2 ^ 52,
            128, Access.read)] =
      (true, sI 0 [(4, 65536), (5, 393216)])
    ∧ (sI 0 [(4, 65536), (5, 393216)]).engineRead (bOp kI).id
        ((196608 + 128 * (BitVec.toNat (30064771077 : DWord) % 2 ^ 32 % 1)) % 2 ^ 52)
        128 =
      (((sI 0 [(4, 65536), (5, 393216)]).engineRead 30 196608 128).fst,
        sI 0 [(4, 65536), (5, 393216)])
    ∧ (∃ (k : Nat),
      k < 8 ∧
        natOf
              (List.take 8
                (List.drop (16 * k + 8)
                  ((sI 0 [(4, 65536), (5, 393216)]).engineRead 30 196608 128).fst)) %
            2 ^ 52 =
          BitVec.toNat (393216 : VAddr)) :=
  ⟨@of_decide_eq_true _ (by letI := @decTidy; letI := @decAll; letI := @decSome; infer_instance) (by decide +kernel), @of_decide_eq_true _ (by letI := @decTidy; letI := @decAll; letI := @decSome; infer_instance) (by decide +kernel), @of_decide_eq_true _ (by letI := @decTidy; letI := @decAll; letI := @decSome; infer_instance) (by decide +kernel), fun a ha _ => .inl ((by decide +kernel : ∀ a ∈ (sI 0 [(4, 0x10000), (5, 0x60000)]).ops, a.id = (bOp kI).id) a ha), @of_decide_eq_true _ (by letI := @decTidy; letI := @decAll; letI := @decSome; infer_instance) (by decide +kernel), @of_decide_eq_true _ (by letI := @decTidy; letI := @decAll; letI := @decSome; infer_instance) (by decide +kernel), @of_decide_eq_true _ (by letI := @decTidy; letI := @decAll; letI := @decSome; infer_instance) (by decide +kernel), @of_decide_eq_true _ (by letI := @decTidy; letI := @decAll; letI := @decSome; infer_instance) (by decide +kernel), @of_decide_eq_true _ (by letI := @decTidy; letI := @decAll; letI := @decSome; infer_instance) (by decide +kernel), @of_decide_eq_true _ (by letI := @decTidy; letI := @decAll; letI := @decSome; infer_instance) (by decide +kernel)⟩
theorem witness_KvSteps_2_1d :
    (sI 0 [(4, 65536)]).op? (bOp kI).id = some (bOp kI)
    ∧ (bOp kI).kind = OpKind.pfxins (30064771077 : DWord) (393216 : VAddr) (131072 : VAddr)
    ∧ (sI 0 [(4, 65536)]).sent (bOp kI) = true
    ∧ (∀ (a : Op),
      a ∈ (sI 0 [(4, 65536)]).ops →
        a.gid = (bOp kI).gid → a.id = (bOp kI).id ∨ ∀ (h : DWord) (b t : VAddr), a.kind ≠ OpKind.pfxins h b t)
    ∧ (sI 0 [(4, 65536)]).engineOpen (bOp kI).id [(BitVec.toNat (131072 : VAddr), 16, Access.read)] =
      (true, sI 0 [(4, 65536)])
    ∧ (sI 0 [(4, 65536)]).engineRead (bOp kI).id (BitVec.toNat (131072 : VAddr)) 16 =
      (((sI 0 [(4, 65536)]).engineRead 30 131072 16).fst, sI 0 [(4, 65536)])
    ∧ ((if
          natOf
                  (List.take 4
                    (List.drop 8 ((sI 0 [(4, 65536)]).engineRead 30 131072 16).fst)) %
                32 ≤
              24 ∧
            natOf
                    (List.take 4
                      (List.drop 8 ((sI 0 [(4, 65536)]).engineRead 30 131072 16).fst)) /
                  32 =
                0 ∧
              natOf
                    (List.take 8
                      (List.drop 0 ((sI 0 [(4, 65536)]).engineRead 30 131072 16).fst)) %
                  128 =
                0 then
        some
          (natOf
                (List.take 8
                  (List.drop 0 ((sI 0 [(4, 65536)]).engineRead 30 131072 16).fst)) %
              2 ^ 52,
            2 ^
              (natOf
                  (List.take 4
                    (List.drop 8 ((sI 0 [(4, 65536)]).engineRead 30 131072 16).fst)) %
                32))
      else none) =
      some (196608, 1))
    ∧ (sI 0 [(4, 65536)]).engineOpen (bOp kI).id
        [((196608 + 128 * (BitVec.toNat (30064771077 : DWord) % 2 ^ 32 % 1)) % 2 ^ 52,
            128, Access.read)] =
      (true, sI 0 [(4, 65536)])
    ∧ (sI 0 [(4, 65536)]).engineRead (bOp kI).id
        ((196608 + 128 * (BitVec.toNat (30064771077 : DWord) % 2 ^ 32 % 1)) % 2 ^ 52)
        128 =
      (((sI 0 [(4, 65536)]).engineRead 30 196608 128).fst, sI 0 [(4, 65536)]) :=
  ⟨@of_decide_eq_true _ (by letI := @decTidy; letI := @decAll; letI := @decSome; infer_instance) (by decide +kernel), @of_decide_eq_true _ (by letI := @decTidy; letI := @decAll; letI := @decSome; infer_instance) (by decide +kernel), @of_decide_eq_true _ (by letI := @decTidy; letI := @decAll; letI := @decSome; infer_instance) (by decide +kernel), fun a ha _ => .inl ((by decide +kernel : ∀ a ∈ (sI 0 [(4, 0x10000)]).ops, a.id = (bOp kI).id) a ha), @of_decide_eq_true _ (by letI := @decTidy; letI := @decAll; letI := @decSome; infer_instance) (by decide +kernel), @of_decide_eq_true _ (by letI := @decTidy; letI := @decAll; letI := @decSome; infer_instance) (by decide +kernel), @of_decide_eq_true _ (by letI := @decTidy; letI := @decAll; letI := @decSome; infer_instance) (by decide +kernel), @of_decide_eq_true _ (by letI := @decTidy; letI := @decAll; letI := @decSome; infer_instance) (by decide +kernel), @of_decide_eq_true _ (by letI := @decTidy; letI := @decAll; letI := @decSome; infer_instance) (by decide +kernel)⟩
theorem witness_KvSteps_2_1e :
    (sI 0 full8).op? (bOp kI).id = some (bOp kI)
    ∧ (bOp kI).kind = OpKind.pfxins (30064771077 : DWord) (393216 : VAddr) (131072 : VAddr)
    ∧ (sI 0 full8).sent (bOp kI) = true
    ∧ (∀ (a : Op), a ∈ (sI 0 full8).ops → a.gid = (bOp kI).gid → a.id = (bOp kI).id ∨ ∀ (h : DWord) (b t : VAddr), a.kind ≠ OpKind.pfxins h b t)
    ∧ (sI 0 full8).engineOpen (bOp kI).id [(BitVec.toNat (131072 : VAddr), 16, Access.read)] = (true, sI 0 full8)
    ∧ (sI 0 full8).engineRead (bOp kI).id (BitVec.toNat (131072 : VAddr)) 16 =
      (((sI 0 full8).engineRead 30 131072 16).fst, sI 0 full8)
    ∧ ((if
          natOf (List.take 4 (List.drop 8 ((sI 0 full8).engineRead 30 131072 16).fst)) % 32 ≤
              24 ∧
            natOf (List.take 4 (List.drop 8 ((sI 0 full8).engineRead 30 131072 16).fst)) /
                  32 =
                0 ∧
              natOf (List.take 8 (List.drop 0 ((sI 0 full8).engineRead 30 131072 16).fst)) %
                  128 =
                0 then
        some
          (natOf (List.take 8 (List.drop 0 ((sI 0 full8).engineRead 30 131072 16).fst)) %
              2 ^ 52,
            2 ^
              (natOf (List.take 4 (List.drop 8 ((sI 0 full8).engineRead 30 131072 16).fst)) %
                32))
      else none) =
      some (196608, 1))
    ∧ (sI 0 full8).engineOpen (bOp kI).id
        [((196608 + 128 * (BitVec.toNat (30064771077 : DWord) % 2 ^ 32 % 1)) % 2 ^ 52,
            128, Access.read)] =
      (true, sI 0 full8)
    ∧ (sI 0 full8).engineRead (bOp kI).id
        ((196608 + 128 * (BitVec.toNat (30064771077 : DWord) % 2 ^ 32 % 1)) % 2 ^ 52)
        128 =
      (((sI 0 full8).engineRead 30 196608 128).fst, sI 0 full8)
    ∧ (∀ (j : Nat),
      j < 8 →
        natOf
                (List.take 8
                  (List.drop (16 * j + 8) ((sI 0 full8).engineRead 30 196608 128).fst)) %
              2 ^ 52 ≠
            BitVec.toNat (393216 : VAddr) ∧
          natOf
                (List.take 8
                  (List.drop (16 * j + 8) ((sI 0 full8).engineRead 30 196608 128).fst)) %
              2 ^ 52 ≠
            0)
    ∧ (sI 0 full8).engineOpen (bOp kI).id [(BitVec.toNat (131072 : VAddr) + 12, 4, Access.write)] = (true, sI 0 full8)
    ∧ (sI 0 full8).tidy
    ∧ (∀ (i : Nat),
      i < 4 →
        pinned (bOp kI).wpins ((BitVec.toNat (131072 : VAddr) + 12 + i) % 2 ^ 52) =
          some (into_ (BitVec.toNat (131072 : VAddr) + 12 + i), 0)) :=
  ⟨@of_decide_eq_true _ (by letI := @decTidy; letI := @decAll; letI := @decSome; infer_instance) (by decide +kernel), @of_decide_eq_true _ (by letI := @decTidy; letI := @decAll; letI := @decSome; infer_instance) (by decide +kernel), @of_decide_eq_true _ (by letI := @decTidy; letI := @decAll; letI := @decSome; infer_instance) (by decide +kernel), fun a ha _ => .inl ((by decide +kernel : ∀ a ∈ (sI 0 full8).ops, a.id = (bOp kI).id) a ha), @of_decide_eq_true _ (by letI := @decTidy; letI := @decAll; letI := @decSome; infer_instance) (by decide +kernel), @of_decide_eq_true _ (by letI := @decTidy; letI := @decAll; letI := @decSome; infer_instance) (by decide +kernel), @of_decide_eq_true _ (by letI := @decTidy; letI := @decAll; letI := @decSome; infer_instance) (by decide +kernel), @of_decide_eq_true _ (by letI := @decTidy; letI := @decAll; letI := @decSome; infer_instance) (by decide +kernel), @of_decide_eq_true _ (by letI := @decTidy; letI := @decAll; letI := @decSome; infer_instance) (by decide +kernel), @of_decide_eq_true _ (by letI := @decTidy; letI := @decAll; letI := @decSome; infer_instance) (by decide +kernel), @of_decide_eq_true _ (by letI := @decTidy; letI := @decAll; letI := @decSome; infer_instance) (by decide +kernel), @of_decide_eq_true _ (by letI := @decTidy; letI := @decAll; letI := @decSome; infer_instance) (by decide +kernel), @of_decide_eq_true _ (by letI := @decTidy; letI := @decAll; letI := @decSome; infer_instance) (by decide +kernel)⟩
def mem_ (fid lane : Nat) (q p : Word) : KvMember := { fid := fid, lane := lane, vlane := lane, srcs := [0x20000, 0, q, p], dst := [20, 21, 22, 23], mcls := 1, mdl := 0xFFF }
def ms_ : List KvMember := [mem_ 0 0 0 17, mem_ 1 1 1 40]
def line (a : Nat) (l : List Byte) : L1Line := { core := 0, addr := a, key := 0, bytes := l }
def sX : State :=
  let k : OpKind := .kvxlate 0x20000 ms_
  let s := fourAt .nopShort (fun _ => [])
  asGroup1 (flg { s with ops := [{ bOp k with fids := [0, 1] }], l1 := [line 0x70000 (bytesOf 8 0x30000 ++ bytesOf 8 2 ++ bytesOf 8 0x30100 ++ bytesOf 8 2), line 0x90000 (bytesOf 8 0 ++ bytesOf 8 0x500060005)] })
def sX1 (m : KvMember) : State := { sX with ops := [{ bOp (.kvxlate 0x20000 [m]) with fids := [0] }] }
def oX : Op := sX.ops.headD default
def dbX (m : KvMember) : List Byte := (sX.engineLoad 30 (0x20000 + 16 * (m.srcs.getD 2 0).toNat) 16).1
def ebX (_ : KvMember) : List Byte := (sX.engineLoad 30 0x30008 8).1
theorem witness_KvSteps_2_2_1 :
    (sX1 (mem_ 0 0 (0 : Word) (17 : Word))).op? ((sX1 (mem_ 0 0 (0 : Word) (17 : Word))).ops.headD default).id =
      some ((sX1 (mem_ 0 0 (0 : Word) (17 : Word))).ops.headD default)
    ∧ ((sX1 (mem_ 0 0 (0 : Word) (17 : Word))).ops.headD default).kind =
      OpKind.kvxlate (131072 : VAddr) [mem_ 0 0 (0 : Word) (17 : Word)]
    ∧ [mem_ 0 0 (0 : Word) (17 : Word)] ≠ []
    ∧ ((sX1 (mem_ 0 0 (0 : Word) (17 : Word))).ops.headD default).fids =
      List.map KvMember.fid [mem_ 0 0 (0 : Word) (17 : Word)]
    ∧ ((sX1 (mem_ 0 0 (0 : Word) (17 : Word))).ops.headD default).fids.Nodup
    ∧ (∀ (m : KvMember),
      m ∈ [mem_ 0 0 (0 : Word) (17 : Word)] →
        m.vlane < 32 ∧
          ∃ (w : Warp),
            ∃ (f : Fibre),
              f.id = m.fid ∧
                (sX1 (mem_ 0 0 (0 : Word) (17 : Word))).fibreOf?
                      ((sX1 (mem_ 0 0 (0 : Word) (17 : Word))).ops.headD default).gid f.id =
                    some (w, f) ∧
                  (sX1 (mem_ 0 0 (0 : Word) (17 : Word))).warp? w.wid = some w ∧
                    w.fibre? f.lane = some f ∧
                      w.handler = none ∧
                        (sX1 (mem_ 0 0 (0 : Word) (17 : Word))).group? w.gid ≠ none ∧
                          ((sX1 (mem_ 0 0 (0 : Word) (17 : Word))).ops.headD default).spoil = [] ∧
                            (sX1 (mem_ 0 0 (0 : Word) (17 : Word))).sent
                                ((sX1 (mem_ 0 0 (0 : Word) (17 : Word))).ops.headD default) =
                              true)
    ∧ (∀ (m : KvMember),
      m ∈ [mem_ 0 0 (0 : Word) (17 : Word)] →
        (sX1 (mem_ 0 0 (0 : Word) (17 : Word))).engineOpen
              ((sX1 (mem_ 0 0 (0 : Word) (17 : Word))).ops.headD default).id
              [((BitVec.toNat (131072 : VAddr) + 16 * BitVec.toNat (m.srcs.getD 2 (0 : Word))) % 2 ^ 52, 16,
                  Access.read)] =
            (true, sX1 (mem_ 0 0 (0 : Word) (17 : Word))) ∧
          (BitVec.toNat (m.srcs.getD 3 (0 : Word)) / 16 < natOf (List.take 4 (List.drop 8 (dbX m))) →
            (sX1 (mem_ 0 0 (0 : Word) (17 : Word))).engineOpen
                ((sX1 (mem_ 0 0 (0 : Word) (17 : Word))).ops.headD default).id
                [((natOf (List.take 8 (List.drop 0 (dbX m))) % 2 ^ 52 +
                        8 * (BitVec.toNat (m.srcs.getD 3 (0 : Word)) / 16)) %
                      2 ^ 52,
                    8, Access.read)] =
              (true, sX1 (mem_ 0 0 (0 : Word) (17 : Word)))))
    ∧ (∀ (m : KvMember),
      m ∈ [mem_ 0 0 (0 : Word) (17 : Word)] →
        (sX1 (mem_ 0 0 (0 : Word) (17 : Word))).engineLoad
              ((sX1 (mem_ 0 0 (0 : Word) (17 : Word))).ops.headD default).id
              (BitVec.toNat (131072 : VAddr) + 16 * BitVec.toNat (m.srcs.getD 2 (0 : Word))) 16 =
            (dbX m, sX1 (mem_ 0 0 (0 : Word) (17 : Word))) ∧
          (BitVec.toNat (m.srcs.getD 3 (0 : Word)) / 16 < natOf (List.take 4 (List.drop 8 (dbX m))) →
            (sX1 (mem_ 0 0 (0 : Word) (17 : Word))).engineLoad
                ((sX1 (mem_ 0 0 (0 : Word) (17 : Word))).ops.headD default).id
                ((natOf (List.take 8 (List.drop 0 (dbX m))) % 2 ^ 52 +
                    8 * (BitVec.toNat (m.srcs.getD 3 (0 : Word)) / 16)) %
                  2 ^ 52)
                8 =
              (ebX m, sX1 (mem_ 0 0 (0 : Word) (17 : Word))))) :=
  ⟨@of_decide_eq_true _ (by letI := @decTidy; letI := @decAll; letI := @decSome; infer_instance) (by decide +kernel), @of_decide_eq_true _ (by letI := @decTidy; letI := @decAll; letI := @decSome; infer_instance) (by decide +kernel), @of_decide_eq_true _ (by letI := @decTidy; letI := @decAll; letI := @decSome; infer_instance) (by decide +kernel), @of_decide_eq_true _ (by letI := @decTidy; letI := @decAll; letI := @decSome; infer_instance) (by decide +kernel), @of_decide_eq_true _ (by letI := @decTidy; letI := @decAll; letI := @decSome; infer_instance) (by decide +kernel), by
    intro m hm
    cases List.mem_singleton.mp hm
    exact ⟨by decide +kernel, w0 (sX1 (mem_ 0 0 0 17)), f0 (sX1 (mem_ 0 0 0 17)), by decide +kernel⟩, @of_decide_eq_true _ (by letI := @decTidy; letI := @decAll; letI := @decSome; infer_instance) (by decide +kernel), @of_decide_eq_true _ (by letI := @decTidy; letI := @decAll; letI := @decSome; infer_instance) (by decide +kernel)⟩
theorem witness_KvSteps_2_2_1b :
    (sX1 (mem_ 0 0 (1 : Word) (40 : Word))).op? ((sX1 (mem_ 0 0 (1 : Word) (40 : Word))).ops.headD default).id =
      some ((sX1 (mem_ 0 0 (1 : Word) (40 : Word))).ops.headD default)
    ∧ ((sX1 (mem_ 0 0 (1 : Word) (40 : Word))).ops.headD default).kind =
      OpKind.kvxlate (131072 : VAddr) [mem_ 0 0 (1 : Word) (40 : Word)]
    ∧ [mem_ 0 0 (1 : Word) (40 : Word)] ≠ []
    ∧ ((sX1 (mem_ 0 0 (1 : Word) (40 : Word))).ops.headD default).fids =
      List.map KvMember.fid [mem_ 0 0 (1 : Word) (40 : Word)]
    ∧ ((sX1 (mem_ 0 0 (1 : Word) (40 : Word))).ops.headD default).fids.Nodup
    ∧ (∀ (m : KvMember),
      m ∈ [mem_ 0 0 (1 : Word) (40 : Word)] →
        m.vlane < 32 ∧
          ∃ (w : Warp),
            ∃ (f : Fibre),
              f.id = m.fid ∧
                (sX1 (mem_ 0 0 (1 : Word) (40 : Word))).fibreOf?
                      ((sX1 (mem_ 0 0 (1 : Word) (40 : Word))).ops.headD default).gid f.id =
                    some (w, f) ∧
                  (sX1 (mem_ 0 0 (1 : Word) (40 : Word))).warp? w.wid = some w ∧
                    w.fibre? f.lane = some f ∧
                      w.handler = none ∧
                        (sX1 (mem_ 0 0 (1 : Word) (40 : Word))).group? w.gid ≠ none ∧
                          ((sX1 (mem_ 0 0 (1 : Word) (40 : Word))).ops.headD default).spoil = [] ∧
                            (sX1 (mem_ 0 0 (1 : Word) (40 : Word))).sent
                                ((sX1 (mem_ 0 0 (1 : Word) (40 : Word))).ops.headD default) =
                              true)
    ∧ (∀ (m : KvMember),
      m ∈ [mem_ 0 0 (1 : Word) (40 : Word)] →
        (sX1 (mem_ 0 0 (1 : Word) (40 : Word))).engineOpen
              ((sX1 (mem_ 0 0 (1 : Word) (40 : Word))).ops.headD default).id
              [((BitVec.toNat (131072 : VAddr) + 16 * BitVec.toNat (m.srcs.getD 2 (0 : Word))) % 2 ^ 52, 16,
                  Access.read)] =
            (true, sX1 (mem_ 0 0 (1 : Word) (40 : Word))) ∧
          (BitVec.toNat (m.srcs.getD 3 (0 : Word)) / 16 < natOf (List.take 4 (List.drop 8 (dbX m))) →
            (sX1 (mem_ 0 0 (1 : Word) (40 : Word))).engineOpen
                ((sX1 (mem_ 0 0 (1 : Word) (40 : Word))).ops.headD default).id
                [((natOf (List.take 8 (List.drop 0 (dbX m))) % 2 ^ 52 +
                        8 * (BitVec.toNat (m.srcs.getD 3 (0 : Word)) / 16)) %
                      2 ^ 52,
                    8, Access.read)] =
              (true, sX1 (mem_ 0 0 (1 : Word) (40 : Word)))))
    ∧ (∀ (m : KvMember),
      m ∈ [mem_ 0 0 (1 : Word) (40 : Word)] →
        (sX1 (mem_ 0 0 (1 : Word) (40 : Word))).engineLoad
              ((sX1 (mem_ 0 0 (1 : Word) (40 : Word))).ops.headD default).id
              (BitVec.toNat (131072 : VAddr) + 16 * BitVec.toNat (m.srcs.getD 2 (0 : Word))) 16 =
            (dbX m, sX1 (mem_ 0 0 (1 : Word) (40 : Word))) ∧
          (BitVec.toNat (m.srcs.getD 3 (0 : Word)) / 16 < natOf (List.take 4 (List.drop 8 (dbX m))) →
            (sX1 (mem_ 0 0 (1 : Word) (40 : Word))).engineLoad
                ((sX1 (mem_ 0 0 (1 : Word) (40 : Word))).ops.headD default).id
                ((natOf (List.take 8 (List.drop 0 (dbX m))) % 2 ^ 52 +
                    8 * (BitVec.toNat (m.srcs.getD 3 (0 : Word)) / 16)) %
                  2 ^ 52)
                8 =
              (ebX m, sX1 (mem_ 0 0 (1 : Word) (40 : Word))))) :=
  ⟨@of_decide_eq_true _ (by letI := @decTidy; letI := @decAll; letI := @decSome; infer_instance) (by decide +kernel), @of_decide_eq_true _ (by letI := @decTidy; letI := @decAll; letI := @decSome; infer_instance) (by decide +kernel), @of_decide_eq_true _ (by letI := @decTidy; letI := @decAll; letI := @decSome; infer_instance) (by decide +kernel), @of_decide_eq_true _ (by letI := @decTidy; letI := @decAll; letI := @decSome; infer_instance) (by decide +kernel), @of_decide_eq_true _ (by letI := @decTidy; letI := @decAll; letI := @decSome; infer_instance) (by decide +kernel), by
    intro m hm
    cases List.mem_singleton.mp hm
    exact ⟨by decide +kernel, w0 (sX1 (mem_ 0 0 1 40)), f0 (sX1 (mem_ 0 0 1 40)), by decide +kernel⟩, @of_decide_eq_true _ (by letI := @decTidy; letI := @decAll; letI := @decSome; infer_instance) (by decide +kernel), @of_decide_eq_true _ (by letI := @decTidy; letI := @decAll; letI := @decSome; infer_instance) (by decide +kernel)⟩
def tokens_ : List Byte := (List.range 16).flatMap (fun i => bytesOf 4 (i + 1))
def kF (cn : Nat) : OpKind := .pfxfind [5, 7, 77, 0] 0 0x20000 [20, 21] cn true
def hd (u parent : Nat) : List Byte := bytesOf 4 (65536 * u) ++ bytesOf 4 0 ++ bytesOf 8 0 ++ bytesOf 8 parent ++ tokens_
def sF (n : Nat) (l : List (Nat × Nat)) (h1 h2 : List Byte) : State :=
  shared (step_ (kF 1) (bytesAt 0xA0100 h2 (bytesAt 0xA0000 h1 (bytesAt 0x90000 (bucketOf l) (bytesAt 0x70000 (desc n) (bytesAt (coreBase 0 + 2 * 8192) tokens_ (at_ .nopShort)))))))
theorem witness_KvSteps_2_2_2 :
    (sF 25 [] [] []).op? ((sF 25 [] [] []).ops.headD default).id = some ((sF 25 [] [] []).ops.headD default)
    ∧ ((sF 25 [] [] []).ops.headD default).fid = (f0 (sF 25 [] [] [])).id
    ∧ ((sF 25 [] [] []).fibreOf? ((sF 25 [] [] []).ops.headD default).gid (f0 (sF 25 [] [] [])).id =
        some (w0 (sF 25 [] [] []), f0 (sF 25 [] [] [])) ∧
      (sF 25 [] [] []).warp? (w0 (sF 25 [] [] [])).wid = some (w0 (sF 25 [] [] [])) ∧
        (w0 (sF 25 [] [] [])).fibre? (f0 (sF 25 [] [] [])).lane = some (f0 (sF 25 [] [] [])) ∧
          (w0 (sF 25 [] [] [])).handler = none ∧
            (sF 25 [] [] []).group? (w0 (sF 25 [] [] [])).gid ≠ none ∧
              ((sF 25 [] [] []).ops.headD default).spoil = [] ∧
                (sF 25 [] [] []).sent ((sF 25 [] [] []).ops.headD default) = true)
    ∧ (sF 25 [] [] []).group? ((sF 25 [] [] []).ops.headD default).gid = some (g0 (sF 25 [] [] []))
    ∧ ((sF 25 [] [] []).ops.headD default).kind =
      OpKind.pfxfind [(5 : Word), (7 : Word), (77 : Word), (0 : Word)] 0 (131072 : VAddr) [20, 21] 1 true
    ∧ [(5 : Word), (7 : Word), (77 : Word), (0 : Word)].length = 4
    ∧ (sF 25 [] [] []).engineOpen ((sF 25 [] [] []).ops.headD default).id [(BitVec.toNat (131072 : VAddr), 16, Access.read)] =
      (true, sF 25 [] [] [])
    ∧ (sF 25 [] [] []).engineRead ((sF 25 [] [] []).ops.headD default).id (BitVec.toNat (131072 : VAddr)) 16 =
      (((sF 25 [] [] []).engineRead 30 131072 16).fst, sF 25 [] [] [])
    ∧ ((if
          natOf (List.take 4 (List.drop 8 ((sF 25 [] [] []).engineRead 30 131072 16).fst)) %
                32 ≤
              24 ∧
            natOf (List.take 4 (List.drop 8 ((sF 25 [] [] []).engineRead 30 131072 16).fst)) /
                  32 =
                0 ∧
              natOf (List.take 8 (List.drop 0 ((sF 25 [] [] []).engineRead 30 131072 16).fst)) %
                  128 =
                0 then
        some
          (natOf (List.take 8 (List.drop 0 ((sF 25 [] [] []).engineRead 30 131072 16).fst)) %
              2 ^ 52,
            2 ^
              (natOf (List.take 4 (List.drop 8 ((sF 25 [] [] []).engineRead 30 131072 16).fst)) %
                32))
      else none) =
      none)
    ∧ (sF 25 [] [] []).dev.elog = (0 : DWord) :=
  by decide +kernel
theorem witness_KvSteps_2_2_2b :
    (sF 0 [(30064771077, 262144), (30064771077, 262400)] (hd 16 77)
            (hd 16 77)).op?
        ((sF 0 [(30064771077, 262144), (30064771077, 262400)] (hd 16 77)
                  (hd 16 77)).ops.headD
            default).id =
      some
        ((sF 0 [(30064771077, 262144), (30064771077, 262400)] (hd 16 77)
                (hd 16 77)).ops.headD
          default)
    ∧ ((sF 0 [(30064771077, 262144), (30064771077, 262400)] (hd 16 77)
                (hd 16 77)).ops.headD
          default).fid =
      (f0
          (sF 0 [(30064771077, 262144), (30064771077, 262400)] (hd 16 77)
            (hd 16 77))).id
    ∧ ((sF 0 [(30064771077, 262144), (30064771077, 262400)] (hd 16 77)
              (hd 16 77)).fibreOf?
          ((sF 0 [(30064771077, 262144), (30064771077, 262400)] (hd 16 77)
                    (hd 16 77)).ops.headD
              default).gid
          (f0
              (sF 0 [(30064771077, 262144), (30064771077, 262400)] (hd 16 77)
                (hd 16 77))).id =
        some
          (w0
              (sF 0 [(30064771077, 262144), (30064771077, 262400)] (hd 16 77)
                (hd 16 77)),
            f0
              (sF 0 [(30064771077, 262144), (30064771077, 262400)] (hd 16 77)
                (hd 16 77))) ∧
      (sF 0 [(30064771077, 262144), (30064771077, 262400)] (hd 16 77)
                (hd 16 77)).warp?
            (w0
                (sF 0 [(30064771077, 262144), (30064771077, 262400)] (hd 16 77)
                  (hd 16 77))).wid =
          some
            (w0
              (sF 0 [(30064771077, 262144), (30064771077, 262400)] (hd 16 77)
                (hd 16 77))) ∧
        (w0
                  (sF 0 [(30064771077, 262144), (30064771077, 262400)] (hd 16 77)
                    (hd 16 77))).fibre?
              (f0
                  (sF 0 [(30064771077, 262144), (30064771077, 262400)] (hd 16 77)
                    (hd 16 77))).lane =
            some
              (f0
                (sF 0 [(30064771077, 262144), (30064771077, 262400)] (hd 16 77)
                  (hd 16 77))) ∧
          (w0
                  (sF 0 [(30064771077, 262144), (30064771077, 262400)] (hd 16 77)
                    (hd 16 77))).handler =
              none ∧
            (sF 0 [(30064771077, 262144), (30064771077, 262400)] (hd 16 77)
                      (hd 16 77)).group?
                  (w0
                      (sF 0 [(30064771077, 262144), (30064771077, 262400)] (hd 16 77)
                        (hd 16 77))).gid ≠
                none ∧
              ((sF 0 [(30064771077, 262144), (30064771077, 262400)] (hd 16 77)
                            (hd 16 77)).ops.headD
                      default).spoil =
                  [] ∧
                (sF 0 [(30064771077, 262144), (30064771077, 262400)] (hd 16 77)
                        (hd 16 77)).sent
                    ((sF 0 [(30064771077, 262144), (30064771077, 262400)] (hd 16 77)
                            (hd 16 77)).ops.headD
                      default) =
                  true)
    ∧ (sF 0 [(30064771077, 262144), (30064771077, 262400)] (hd 16 77)
            (hd 16 77)).group?
        ((sF 0 [(30064771077, 262144), (30064771077, 262400)] (hd 16 77)
                  (hd 16 77)).ops.headD
            default).gid =
      some
        (g0
          (sF 0 [(30064771077, 262144), (30064771077, 262400)] (hd 16 77)
            (hd 16 77)))
    ∧ ((sF 0 [(30064771077, 262144), (30064771077, 262400)] (hd 16 77)
                (hd 16 77)).ops.headD
          default).kind =
      OpKind.pfxfind [(5 : Word), (7 : Word), (77 : Word), (0 : Word)] 0 (131072 : VAddr) [20, 21] 1 true
    ∧ [(5 : Word), (7 : Word), (77 : Word), (0 : Word)].length = 4
    ∧ (sF 0 [(30064771077, 262144), (30064771077, 262400)] (hd 16 77)
            (hd 16 77)).engineOpen
        ((sF 0 [(30064771077, 262144), (30064771077, 262400)] (hd 16 77)
                  (hd 16 77)).ops.headD
            default).id
        [(BitVec.toNat (131072 : VAddr), 16, Access.read)] =
      (true,
        sF 0 [(30064771077, 262144), (30064771077, 262400)] (hd 16 77)
          (hd 16 77))
    ∧ (sF 0 [(30064771077, 262144), (30064771077, 262400)] (hd 16 77)
            (hd 16 77)).engineRead
        ((sF 0 [(30064771077, 262144), (30064771077, 262400)] (hd 16 77)
                  (hd 16 77)).ops.headD
            default).id
        (BitVec.toNat (131072 : VAddr)) 16 =
      (((sF 0 [(30064771077, 262144), (30064771077, 262400)] (hd 16 77)
                (hd 16 77)).engineRead
            30 131072 16).fst,
        sF 0 [(30064771077, 262144), (30064771077, 262400)] (hd 16 77)
          (hd 16 77))
    ∧ ((if
          natOf
                  (List.take 4
                    (List.drop 8
                      ((sF 0 [(30064771077, 262144), (30064771077, 262400)] (hd 16 77)
                              (hd 16 77)).engineRead
                          30 131072 16).fst)) %
                32 ≤
              24 ∧
            natOf
                    (List.take 4
                      (List.drop 8
                        ((sF 0 [(30064771077, 262144), (30064771077, 262400)] (hd 16 77)
                                (hd 16 77)).engineRead
                            30 131072 16).fst)) /
                  32 =
                0 ∧
              natOf
                    (List.take 8
                      (List.drop 0
                        ((sF 0 [(30064771077, 262144), (30064771077, 262400)] (hd 16 77)
                                (hd 16 77)).engineRead
                            30 131072 16).fst)) %
                  128 =
                0 then
        some
          (natOf
                (List.take 8
                  (List.drop 0
                    ((sF 0 [(30064771077, 262144), (30064771077, 262400)] (hd 16 77)
                            (hd 16 77)).engineRead
                        30 131072 16).fst)) %
              2 ^ 52,
            2 ^
              (natOf
                  (List.take 4
                    (List.drop 8
                      ((sF 0 [(30064771077, 262144), (30064771077, 262400)] (hd 16 77)
                              (hd 16 77)).engineRead
                          30 131072 16).fst)) %
                32))
      else none) =
      some (196608, 1))
    ∧ (sF 0 [(30064771077, 262144), (30064771077, 262400)] (hd 16 77)
            (hd 16 77)).engineOpen
        ((sF 0 [(30064771077, 262144), (30064771077, 262400)] (hd 16 77)
                  (hd 16 77)).ops.headD
            default).id
        [((196608 +
                128 *
                  ((BitVec.toNat ([(5 : Word), (7 : Word), (77 : Word), (0 : Word)].getD 0 (0 : Word)) +
                        2 ^ 32 * BitVec.toNat ([(5 : Word), (7 : Word), (77 : Word), (0 : Word)].getD 1 (0 : Word))) %
                      2 ^ 32 %
                    1)) %
              2 ^ 52,
            128, Access.read)] =
      (true,
        sF 0 [(30064771077, 262144), (30064771077, 262400)] (hd 16 77)
          (hd 16 77))
    ∧ (sF 0 [(30064771077, 262144), (30064771077, 262400)] (hd 16 77)
            (hd 16 77)).engineRead
        ((sF 0 [(30064771077, 262144), (30064771077, 262400)] (hd 16 77)
                  (hd 16 77)).ops.headD
            default).id
        ((196608 +
            128 *
              ((BitVec.toNat ([(5 : Word), (7 : Word), (77 : Word), (0 : Word)].getD 0 (0 : Word)) +
                    2 ^ 32 * BitVec.toNat ([(5 : Word), (7 : Word), (77 : Word), (0 : Word)].getD 1 (0 : Word))) %
                  2 ^ 32 %
                1)) %
          2 ^ 52)
        128 =
      (((sF 0 [(30064771077, 262144), (30064771077, 262400)] (hd 16 77)
                (hd 16 77)).engineRead
            30 196608 128).fst,
        sF 0 [(30064771077, 262144), (30064771077, 262400)] (hd 16 77)
          (hd 16 77))
    ∧ (sF 0 [(30064771077, 262144), (30064771077, 262400)] (hd 16 77)
            (hd 16 77)).readScratch
        (g0
          (sF 0 [(30064771077, 262144), (30064771077, 262400)] (hd 16 77)
            (hd 16 77)))
        0 64 =
      (((sF 0 [(30064771077, 262144), (30064771077, 262400)] (hd 16 77)
                (hd 16 77)).readScratch
            (g0
              (sF 0 [(30064771077, 262144), (30064771077, 262400)] (hd 16 77)
                (hd 16 77)))
            0 64).fst,
        sF 0 [(30064771077, 262144), (30064771077, 262400)] (hd 16 77)
          (hd 16 77))
    ∧ (∀ (k : Nat),
      k < 8 →
        k < 8 ∧
            natOf
                    (List.take 8
                      (List.drop (16 * k + 8)
                        ((sF 0 [(30064771077, 262144), (30064771077, 262400)] (hd 16 77)
                                (hd 16 77)).engineRead
                            30 196608 128).fst)) %
                  2 ^ 52 ≠
                0 ∧
              natOf
                  (List.take 8
                    (List.drop (16 * k)
                      ((sF 0 [(30064771077, 262144), (30064771077, 262400)] (hd 16 77)
                              (hd 16 77)).engineRead
                          30 196608 128).fst)) =
                BitVec.toNat ([(5 : Word), (7 : Word), (77 : Word), (0 : Word)].getD 0 (0 : Word)) +
                  2 ^ 32 * BitVec.toNat ([(5 : Word), (7 : Word), (77 : Word), (0 : Word)].getD 1 (0 : Word)) →
          (∀ (j : Nat),
              j < k →
                ¬((j < 8 ∧
                      natOf
                              (List.take 8
                                (List.drop (16 * j + 8)
                                  ((sF 0 [(30064771077, 262144), (30064771077, 262400)]
                                          (hd 16 77) (hd 16 77)).engineRead
                                      30 196608 128).fst)) %
                            2 ^ 52 ≠
                          0 ∧
                        natOf
                            (List.take 8
                              (List.drop (16 * j)
                                ((sF 0 [(30064771077, 262144), (30064771077, 262400)]
                                        (hd 16 77) (hd 16 77)).engineRead
                                    30 196608 128).fst)) =
                          BitVec.toNat ([(5 : Word), (7 : Word), (77 : Word), (0 : Word)].getD 0 (0 : Word)) +
                            2 ^ 32 * BitVec.toNat ([(5 : Word), (7 : Word), (77 : Word), (0 : Word)].getD 1 (0 : Word))) ∧
                    ∃ (h : List Byte),
                      (sF 0 [(30064771077, 262144), (30064771077, 262400)] (hd 16 77)
                                (hd 16 77)).engineRead
                            ((sF 0 [(30064771077, 262144), (30064771077, 262400)] (hd 16 77)
                                      (hd 16 77)).ops.headD
                                default).id
                            (natOf
                                (List.take 8
                                  (List.drop (16 * j + 8)
                                    ((sF 0 [(30064771077, 262144), (30064771077, 262400)]
                                            (hd 16 77) (hd 16 77)).engineRead
                                        30 196608 128).fst)) %
                              2 ^ 52)
                            128 =
                          (h,
                            sF 0 [(30064771077, 262144), (30064771077, 262400)] (hd 16 77)
                              (hd 16 77)) ∧
                        natOf (List.take 4 (List.drop 0 h)) / 65536 % 32 = 16 ∧
                          natOf (List.take 8 (List.drop 16 h)) =
                              BitVec.toNat ([(5 : Word), (7 : Word), (77 : Word), (0 : Word)].getD 2 (0 : Word)) +
                                2 ^ 32 * BitVec.toNat ([(5 : Word), (7 : Word), (77 : Word), (0 : Word)].getD 3 (0 : Word)) ∧
                            List.take 64 (List.drop 24 h) =
                              ((sF 0 [(30064771077, 262144), (30064771077, 262400)] (hd 16 77)
                                      (hd 16 77)).readScratch
                                  (g0
                                    (sF 0 [(30064771077, 262144), (30064771077, 262400)]
                                      (hd 16 77) (hd 16 77)))
                                  0 64).fst)) →
            (sF 0 [(30064771077, 262144), (30064771077, 262400)] (hd 16 77)
                      (hd 16 77)).engineOpen
                  ((sF 0 [(30064771077, 262144), (30064771077, 262400)] (hd 16 77)
                            (hd 16 77)).ops.headD
                      default).id
                  [(natOf
                          (List.take 8
                            (List.drop (16 * k + 8)
                              ((sF 0 [(30064771077, 262144), (30064771077, 262400)] (hd 16 77)
                                      (hd 16 77)).engineRead
                                  30 196608 128).fst)) %
                        2 ^ 52,
                      128, Access.read)] =
                (true,
                  sF 0 [(30064771077, 262144), (30064771077, 262400)] (hd 16 77)
                    (hd 16 77)) ∧
              ∃ (h : List Byte),
                (sF 0 [(30064771077, 262144), (30064771077, 262400)] (hd 16 77)
                        (hd 16 77)).engineRead
                    ((sF 0 [(30064771077, 262144), (30064771077, 262400)] (hd 16 77)
                              (hd 16 77)).ops.headD
                        default).id
                    (natOf
                        (List.take 8
                          (List.drop (16 * k + 8)
                            ((sF 0 [(30064771077, 262144), (30064771077, 262400)] (hd 16 77)
                                    (hd 16 77)).engineRead
                                30 196608 128).fst)) %
                      2 ^ 52)
                    128 =
                  (h,
                    sF 0 [(30064771077, 262144), (30064771077, 262400)] (hd 16 77)
                      (hd 16 77))) :=
  by
  refine @of_decide_eq_true _ (by letI := @decRead; letI := @decReadAnd; infer_instance) ?_
  decide +kernel
theorem witness_KvSteps_2_2_2c :
    (sF 0 [(30064771077, 262144), (30064771077, 262400)] (hd 15 77)
            (hd 16 77)).op?
        ((sF 0 [(30064771077, 262144), (30064771077, 262400)] (hd 15 77)
                  (hd 16 77)).ops.headD
            default).id =
      some
        ((sF 0 [(30064771077, 262144), (30064771077, 262400)] (hd 15 77)
                (hd 16 77)).ops.headD
          default)
    ∧ ((sF 0 [(30064771077, 262144), (30064771077, 262400)] (hd 15 77)
                (hd 16 77)).ops.headD
          default).fid =
      (f0
          (sF 0 [(30064771077, 262144), (30064771077, 262400)] (hd 15 77)
            (hd 16 77))).id
    ∧ ((sF 0 [(30064771077, 262144), (30064771077, 262400)] (hd 15 77)
              (hd 16 77)).fibreOf?
          ((sF 0 [(30064771077, 262144), (30064771077, 262400)] (hd 15 77)
                    (hd 16 77)).ops.headD
              default).gid
          (f0
              (sF 0 [(30064771077, 262144), (30064771077, 262400)] (hd 15 77)
                (hd 16 77))).id =
        some
          (w0
              (sF 0 [(30064771077, 262144), (30064771077, 262400)] (hd 15 77)
                (hd 16 77)),
            f0
              (sF 0 [(30064771077, 262144), (30064771077, 262400)] (hd 15 77)
                (hd 16 77))) ∧
      (sF 0 [(30064771077, 262144), (30064771077, 262400)] (hd 15 77)
                (hd 16 77)).warp?
            (w0
                (sF 0 [(30064771077, 262144), (30064771077, 262400)] (hd 15 77)
                  (hd 16 77))).wid =
          some
            (w0
              (sF 0 [(30064771077, 262144), (30064771077, 262400)] (hd 15 77)
                (hd 16 77))) ∧
        (w0
                  (sF 0 [(30064771077, 262144), (30064771077, 262400)] (hd 15 77)
                    (hd 16 77))).fibre?
              (f0
                  (sF 0 [(30064771077, 262144), (30064771077, 262400)] (hd 15 77)
                    (hd 16 77))).lane =
            some
              (f0
                (sF 0 [(30064771077, 262144), (30064771077, 262400)] (hd 15 77)
                  (hd 16 77))) ∧
          (w0
                  (sF 0 [(30064771077, 262144), (30064771077, 262400)] (hd 15 77)
                    (hd 16 77))).handler =
              none ∧
            (sF 0 [(30064771077, 262144), (30064771077, 262400)] (hd 15 77)
                      (hd 16 77)).group?
                  (w0
                      (sF 0 [(30064771077, 262144), (30064771077, 262400)] (hd 15 77)
                        (hd 16 77))).gid ≠
                none ∧
              ((sF 0 [(30064771077, 262144), (30064771077, 262400)] (hd 15 77)
                            (hd 16 77)).ops.headD
                      default).spoil =
                  [] ∧
                (sF 0 [(30064771077, 262144), (30064771077, 262400)] (hd 15 77)
                        (hd 16 77)).sent
                    ((sF 0 [(30064771077, 262144), (30064771077, 262400)] (hd 15 77)
                            (hd 16 77)).ops.headD
                      default) =
                  true)
    ∧ (sF 0 [(30064771077, 262144), (30064771077, 262400)] (hd 15 77)
            (hd 16 77)).group?
        ((sF 0 [(30064771077, 262144), (30064771077, 262400)] (hd 15 77)
                  (hd 16 77)).ops.headD
            default).gid =
      some
        (g0
          (sF 0 [(30064771077, 262144), (30064771077, 262400)] (hd 15 77)
            (hd 16 77)))
    ∧ ((sF 0 [(30064771077, 262144), (30064771077, 262400)] (hd 15 77)
                (hd 16 77)).ops.headD
          default).kind =
      OpKind.pfxfind [(5 : Word), (7 : Word), (77 : Word), (0 : Word)] 0 (131072 : VAddr) [20, 21] 1 true
    ∧ [(5 : Word), (7 : Word), (77 : Word), (0 : Word)].length = 4
    ∧ (sF 0 [(30064771077, 262144), (30064771077, 262400)] (hd 15 77)
            (hd 16 77)).engineOpen
        ((sF 0 [(30064771077, 262144), (30064771077, 262400)] (hd 15 77)
                  (hd 16 77)).ops.headD
            default).id
        [(BitVec.toNat (131072 : VAddr), 16, Access.read)] =
      (true,
        sF 0 [(30064771077, 262144), (30064771077, 262400)] (hd 15 77)
          (hd 16 77))
    ∧ (sF 0 [(30064771077, 262144), (30064771077, 262400)] (hd 15 77)
            (hd 16 77)).engineRead
        ((sF 0 [(30064771077, 262144), (30064771077, 262400)] (hd 15 77)
                  (hd 16 77)).ops.headD
            default).id
        (BitVec.toNat (131072 : VAddr)) 16 =
      (((sF 0 [(30064771077, 262144), (30064771077, 262400)] (hd 15 77)
                (hd 16 77)).engineRead
            30 131072 16).fst,
        sF 0 [(30064771077, 262144), (30064771077, 262400)] (hd 15 77)
          (hd 16 77))
    ∧ ((if
          natOf
                  (List.take 4
                    (List.drop 8
                      ((sF 0 [(30064771077, 262144), (30064771077, 262400)] (hd 15 77)
                              (hd 16 77)).engineRead
                          30 131072 16).fst)) %
                32 ≤
              24 ∧
            natOf
                    (List.take 4
                      (List.drop 8
                        ((sF 0 [(30064771077, 262144), (30064771077, 262400)] (hd 15 77)
                                (hd 16 77)).engineRead
                            30 131072 16).fst)) /
                  32 =
                0 ∧
              natOf
                    (List.take 8
                      (List.drop 0
                        ((sF 0 [(30064771077, 262144), (30064771077, 262400)] (hd 15 77)
                                (hd 16 77)).engineRead
                            30 131072 16).fst)) %
                  128 =
                0 then
        some
          (natOf
                (List.take 8
                  (List.drop 0
                    ((sF 0 [(30064771077, 262144), (30064771077, 262400)] (hd 15 77)
                            (hd 16 77)).engineRead
                        30 131072 16).fst)) %
              2 ^ 52,
            2 ^
              (natOf
                  (List.take 4
                    (List.drop 8
                      ((sF 0 [(30064771077, 262144), (30064771077, 262400)] (hd 15 77)
                              (hd 16 77)).engineRead
                          30 131072 16).fst)) %
                32))
      else none) =
      some (196608, 1))
    ∧ (sF 0 [(30064771077, 262144), (30064771077, 262400)] (hd 15 77)
            (hd 16 77)).engineOpen
        ((sF 0 [(30064771077, 262144), (30064771077, 262400)] (hd 15 77)
                  (hd 16 77)).ops.headD
            default).id
        [((196608 +
                128 *
                  ((BitVec.toNat ([(5 : Word), (7 : Word), (77 : Word), (0 : Word)].getD 0 (0 : Word)) +
                        2 ^ 32 * BitVec.toNat ([(5 : Word), (7 : Word), (77 : Word), (0 : Word)].getD 1 (0 : Word))) %
                      2 ^ 32 %
                    1)) %
              2 ^ 52,
            128, Access.read)] =
      (true,
        sF 0 [(30064771077, 262144), (30064771077, 262400)] (hd 15 77)
          (hd 16 77))
    ∧ (sF 0 [(30064771077, 262144), (30064771077, 262400)] (hd 15 77)
            (hd 16 77)).engineRead
        ((sF 0 [(30064771077, 262144), (30064771077, 262400)] (hd 15 77)
                  (hd 16 77)).ops.headD
            default).id
        ((196608 +
            128 *
              ((BitVec.toNat ([(5 : Word), (7 : Word), (77 : Word), (0 : Word)].getD 0 (0 : Word)) +
                    2 ^ 32 * BitVec.toNat ([(5 : Word), (7 : Word), (77 : Word), (0 : Word)].getD 1 (0 : Word))) %
                  2 ^ 32 %
                1)) %
          2 ^ 52)
        128 =
      (((sF 0 [(30064771077, 262144), (30064771077, 262400)] (hd 15 77)
                (hd 16 77)).engineRead
            30 196608 128).fst,
        sF 0 [(30064771077, 262144), (30064771077, 262400)] (hd 15 77)
          (hd 16 77))
    ∧ (sF 0 [(30064771077, 262144), (30064771077, 262400)] (hd 15 77)
            (hd 16 77)).readScratch
        (g0
          (sF 0 [(30064771077, 262144), (30064771077, 262400)] (hd 15 77)
            (hd 16 77)))
        0 64 =
      (((sF 0 [(30064771077, 262144), (30064771077, 262400)] (hd 15 77)
                (hd 16 77)).readScratch
            (g0
              (sF 0 [(30064771077, 262144), (30064771077, 262400)] (hd 15 77)
                (hd 16 77)))
            0 64).fst,
        sF 0 [(30064771077, 262144), (30064771077, 262400)] (hd 15 77)
          (hd 16 77))
    ∧ (∀ (k : Nat),
      k < 8 →
        k < 8 ∧
            natOf
                    (List.take 8
                      (List.drop (16 * k + 8)
                        ((sF 0 [(30064771077, 262144), (30064771077, 262400)] (hd 15 77)
                                (hd 16 77)).engineRead
                            30 196608 128).fst)) %
                  2 ^ 52 ≠
                0 ∧
              natOf
                  (List.take 8
                    (List.drop (16 * k)
                      ((sF 0 [(30064771077, 262144), (30064771077, 262400)] (hd 15 77)
                              (hd 16 77)).engineRead
                          30 196608 128).fst)) =
                BitVec.toNat ([(5 : Word), (7 : Word), (77 : Word), (0 : Word)].getD 0 (0 : Word)) +
                  2 ^ 32 * BitVec.toNat ([(5 : Word), (7 : Word), (77 : Word), (0 : Word)].getD 1 (0 : Word)) →
          (∀ (j : Nat),
              j < k →
                ¬((j < 8 ∧
                      natOf
                              (List.take 8
                                (List.drop (16 * j + 8)
                                  ((sF 0 [(30064771077, 262144), (30064771077, 262400)]
                                          (hd 15 77) (hd 16 77)).engineRead
                                      30 196608 128).fst)) %
                            2 ^ 52 ≠
                          0 ∧
                        natOf
                            (List.take 8
                              (List.drop (16 * j)
                                ((sF 0 [(30064771077, 262144), (30064771077, 262400)]
                                        (hd 15 77) (hd 16 77)).engineRead
                                    30 196608 128).fst)) =
                          BitVec.toNat ([(5 : Word), (7 : Word), (77 : Word), (0 : Word)].getD 0 (0 : Word)) +
                            2 ^ 32 * BitVec.toNat ([(5 : Word), (7 : Word), (77 : Word), (0 : Word)].getD 1 (0 : Word))) ∧
                    ∃ (h : List Byte),
                      (sF 0 [(30064771077, 262144), (30064771077, 262400)] (hd 15 77)
                                (hd 16 77)).engineRead
                            ((sF 0 [(30064771077, 262144), (30064771077, 262400)] (hd 15 77)
                                      (hd 16 77)).ops.headD
                                default).id
                            (natOf
                                (List.take 8
                                  (List.drop (16 * j + 8)
                                    ((sF 0 [(30064771077, 262144), (30064771077, 262400)]
                                            (hd 15 77) (hd 16 77)).engineRead
                                        30 196608 128).fst)) %
                              2 ^ 52)
                            128 =
                          (h,
                            sF 0 [(30064771077, 262144), (30064771077, 262400)] (hd 15 77)
                              (hd 16 77)) ∧
                        natOf (List.take 4 (List.drop 0 h)) / 65536 % 32 = 16 ∧
                          natOf (List.take 8 (List.drop 16 h)) =
                              BitVec.toNat ([(5 : Word), (7 : Word), (77 : Word), (0 : Word)].getD 2 (0 : Word)) +
                                2 ^ 32 * BitVec.toNat ([(5 : Word), (7 : Word), (77 : Word), (0 : Word)].getD 3 (0 : Word)) ∧
                            List.take 64 (List.drop 24 h) =
                              ((sF 0 [(30064771077, 262144), (30064771077, 262400)] (hd 15 77)
                                      (hd 16 77)).readScratch
                                  (g0
                                    (sF 0 [(30064771077, 262144), (30064771077, 262400)]
                                      (hd 15 77) (hd 16 77)))
                                  0 64).fst)) →
            (sF 0 [(30064771077, 262144), (30064771077, 262400)] (hd 15 77)
                      (hd 16 77)).engineOpen
                  ((sF 0 [(30064771077, 262144), (30064771077, 262400)] (hd 15 77)
                            (hd 16 77)).ops.headD
                      default).id
                  [(natOf
                          (List.take 8
                            (List.drop (16 * k + 8)
                              ((sF 0 [(30064771077, 262144), (30064771077, 262400)] (hd 15 77)
                                      (hd 16 77)).engineRead
                                  30 196608 128).fst)) %
                        2 ^ 52,
                      128, Access.read)] =
                (true,
                  sF 0 [(30064771077, 262144), (30064771077, 262400)] (hd 15 77)
                    (hd 16 77)) ∧
              ∃ (h : List Byte),
                (sF 0 [(30064771077, 262144), (30064771077, 262400)] (hd 15 77)
                        (hd 16 77)).engineRead
                    ((sF 0 [(30064771077, 262144), (30064771077, 262400)] (hd 15 77)
                              (hd 16 77)).ops.headD
                        default).id
                    (natOf
                        (List.take 8
                          (List.drop (16 * k + 8)
                            ((sF 0 [(30064771077, 262144), (30064771077, 262400)] (hd 15 77)
                                    (hd 16 77)).engineRead
                                30 196608 128).fst)) %
                      2 ^ 52)
                    128 =
                  (h,
                    sF 0 [(30064771077, 262144), (30064771077, 262400)] (hd 15 77)
                      (hd 16 77))) :=
  by
  refine @of_decide_eq_true _ (by letI := @decRead; letI := @decReadAnd; infer_instance) ?_
  decide +kernel
theorem witness_KvSteps_2_2_2d :
    (sF 0 [(30064771077, 262144), (30064771076, 262400)] (hd 16 78)
            (hd 16 77)).op?
        ((sF 0 [(30064771077, 262144), (30064771076, 262400)] (hd 16 78)
                  (hd 16 77)).ops.headD
            default).id =
      some
        ((sF 0 [(30064771077, 262144), (30064771076, 262400)] (hd 16 78)
                (hd 16 77)).ops.headD
          default)
    ∧ ((sF 0 [(30064771077, 262144), (30064771076, 262400)] (hd 16 78)
                (hd 16 77)).ops.headD
          default).fid =
      (f0
          (sF 0 [(30064771077, 262144), (30064771076, 262400)] (hd 16 78)
            (hd 16 77))).id
    ∧ ((sF 0 [(30064771077, 262144), (30064771076, 262400)] (hd 16 78)
              (hd 16 77)).fibreOf?
          ((sF 0 [(30064771077, 262144), (30064771076, 262400)] (hd 16 78)
                    (hd 16 77)).ops.headD
              default).gid
          (f0
              (sF 0 [(30064771077, 262144), (30064771076, 262400)] (hd 16 78)
                (hd 16 77))).id =
        some
          (w0
              (sF 0 [(30064771077, 262144), (30064771076, 262400)] (hd 16 78)
                (hd 16 77)),
            f0
              (sF 0 [(30064771077, 262144), (30064771076, 262400)] (hd 16 78)
                (hd 16 77))) ∧
      (sF 0 [(30064771077, 262144), (30064771076, 262400)] (hd 16 78)
                (hd 16 77)).warp?
            (w0
                (sF 0 [(30064771077, 262144), (30064771076, 262400)] (hd 16 78)
                  (hd 16 77))).wid =
          some
            (w0
              (sF 0 [(30064771077, 262144), (30064771076, 262400)] (hd 16 78)
                (hd 16 77))) ∧
        (w0
                  (sF 0 [(30064771077, 262144), (30064771076, 262400)] (hd 16 78)
                    (hd 16 77))).fibre?
              (f0
                  (sF 0 [(30064771077, 262144), (30064771076, 262400)] (hd 16 78)
                    (hd 16 77))).lane =
            some
              (f0
                (sF 0 [(30064771077, 262144), (30064771076, 262400)] (hd 16 78)
                  (hd 16 77))) ∧
          (w0
                  (sF 0 [(30064771077, 262144), (30064771076, 262400)] (hd 16 78)
                    (hd 16 77))).handler =
              none ∧
            (sF 0 [(30064771077, 262144), (30064771076, 262400)] (hd 16 78)
                      (hd 16 77)).group?
                  (w0
                      (sF 0 [(30064771077, 262144), (30064771076, 262400)] (hd 16 78)
                        (hd 16 77))).gid ≠
                none ∧
              ((sF 0 [(30064771077, 262144), (30064771076, 262400)] (hd 16 78)
                            (hd 16 77)).ops.headD
                      default).spoil =
                  [] ∧
                (sF 0 [(30064771077, 262144), (30064771076, 262400)] (hd 16 78)
                        (hd 16 77)).sent
                    ((sF 0 [(30064771077, 262144), (30064771076, 262400)] (hd 16 78)
                            (hd 16 77)).ops.headD
                      default) =
                  true)
    ∧ (sF 0 [(30064771077, 262144), (30064771076, 262400)] (hd 16 78)
            (hd 16 77)).group?
        ((sF 0 [(30064771077, 262144), (30064771076, 262400)] (hd 16 78)
                  (hd 16 77)).ops.headD
            default).gid =
      some
        (g0
          (sF 0 [(30064771077, 262144), (30064771076, 262400)] (hd 16 78)
            (hd 16 77)))
    ∧ ((sF 0 [(30064771077, 262144), (30064771076, 262400)] (hd 16 78)
                (hd 16 77)).ops.headD
          default).kind =
      OpKind.pfxfind [(5 : Word), (7 : Word), (77 : Word), (0 : Word)] 0 (131072 : VAddr) [20, 21] 1 true
    ∧ [(5 : Word), (7 : Word), (77 : Word), (0 : Word)].length = 4
    ∧ (sF 0 [(30064771077, 262144), (30064771076, 262400)] (hd 16 78)
            (hd 16 77)).engineOpen
        ((sF 0 [(30064771077, 262144), (30064771076, 262400)] (hd 16 78)
                  (hd 16 77)).ops.headD
            default).id
        [(BitVec.toNat (131072 : VAddr), 16, Access.read)] =
      (true,
        sF 0 [(30064771077, 262144), (30064771076, 262400)] (hd 16 78)
          (hd 16 77))
    ∧ (sF 0 [(30064771077, 262144), (30064771076, 262400)] (hd 16 78)
            (hd 16 77)).engineRead
        ((sF 0 [(30064771077, 262144), (30064771076, 262400)] (hd 16 78)
                  (hd 16 77)).ops.headD
            default).id
        (BitVec.toNat (131072 : VAddr)) 16 =
      (((sF 0 [(30064771077, 262144), (30064771076, 262400)] (hd 16 78)
                (hd 16 77)).engineRead
            30 131072 16).fst,
        sF 0 [(30064771077, 262144), (30064771076, 262400)] (hd 16 78)
          (hd 16 77))
    ∧ ((if
          natOf
                  (List.take 4
                    (List.drop 8
                      ((sF 0 [(30064771077, 262144), (30064771076, 262400)] (hd 16 78)
                              (hd 16 77)).engineRead
                          30 131072 16).fst)) %
                32 ≤
              24 ∧
            natOf
                    (List.take 4
                      (List.drop 8
                        ((sF 0 [(30064771077, 262144), (30064771076, 262400)] (hd 16 78)
                                (hd 16 77)).engineRead
                            30 131072 16).fst)) /
                  32 =
                0 ∧
              natOf
                    (List.take 8
                      (List.drop 0
                        ((sF 0 [(30064771077, 262144), (30064771076, 262400)] (hd 16 78)
                                (hd 16 77)).engineRead
                            30 131072 16).fst)) %
                  128 =
                0 then
        some
          (natOf
                (List.take 8
                  (List.drop 0
                    ((sF 0 [(30064771077, 262144), (30064771076, 262400)] (hd 16 78)
                            (hd 16 77)).engineRead
                        30 131072 16).fst)) %
              2 ^ 52,
            2 ^
              (natOf
                  (List.take 4
                    (List.drop 8
                      ((sF 0 [(30064771077, 262144), (30064771076, 262400)] (hd 16 78)
                              (hd 16 77)).engineRead
                          30 131072 16).fst)) %
                32))
      else none) =
      some (196608, 1))
    ∧ (sF 0 [(30064771077, 262144), (30064771076, 262400)] (hd 16 78)
            (hd 16 77)).engineOpen
        ((sF 0 [(30064771077, 262144), (30064771076, 262400)] (hd 16 78)
                  (hd 16 77)).ops.headD
            default).id
        [((196608 +
                128 *
                  ((BitVec.toNat ([(5 : Word), (7 : Word), (77 : Word), (0 : Word)].getD 0 (0 : Word)) +
                        2 ^ 32 * BitVec.toNat ([(5 : Word), (7 : Word), (77 : Word), (0 : Word)].getD 1 (0 : Word))) %
                      2 ^ 32 %
                    1)) %
              2 ^ 52,
            128, Access.read)] =
      (true,
        sF 0 [(30064771077, 262144), (30064771076, 262400)] (hd 16 78)
          (hd 16 77))
    ∧ (sF 0 [(30064771077, 262144), (30064771076, 262400)] (hd 16 78)
            (hd 16 77)).engineRead
        ((sF 0 [(30064771077, 262144), (30064771076, 262400)] (hd 16 78)
                  (hd 16 77)).ops.headD
            default).id
        ((196608 +
            128 *
              ((BitVec.toNat ([(5 : Word), (7 : Word), (77 : Word), (0 : Word)].getD 0 (0 : Word)) +
                    2 ^ 32 * BitVec.toNat ([(5 : Word), (7 : Word), (77 : Word), (0 : Word)].getD 1 (0 : Word))) %
                  2 ^ 32 %
                1)) %
          2 ^ 52)
        128 =
      (((sF 0 [(30064771077, 262144), (30064771076, 262400)] (hd 16 78)
                (hd 16 77)).engineRead
            30 196608 128).fst,
        sF 0 [(30064771077, 262144), (30064771076, 262400)] (hd 16 78)
          (hd 16 77))
    ∧ (sF 0 [(30064771077, 262144), (30064771076, 262400)] (hd 16 78)
            (hd 16 77)).readScratch
        (g0
          (sF 0 [(30064771077, 262144), (30064771076, 262400)] (hd 16 78)
            (hd 16 77)))
        0 64 =
      (((sF 0 [(30064771077, 262144), (30064771076, 262400)] (hd 16 78)
                (hd 16 77)).readScratch
            (g0
              (sF 0 [(30064771077, 262144), (30064771076, 262400)] (hd 16 78)
                (hd 16 77)))
            0 64).fst,
        sF 0 [(30064771077, 262144), (30064771076, 262400)] (hd 16 78)
          (hd 16 77))
    ∧ (∀ (k : Nat),
      k < 8 →
        k < 8 ∧
            natOf
                    (List.take 8
                      (List.drop (16 * k + 8)
                        ((sF 0 [(30064771077, 262144), (30064771076, 262400)] (hd 16 78)
                                (hd 16 77)).engineRead
                            30 196608 128).fst)) %
                  2 ^ 52 ≠
                0 ∧
              natOf
                  (List.take 8
                    (List.drop (16 * k)
                      ((sF 0 [(30064771077, 262144), (30064771076, 262400)] (hd 16 78)
                              (hd 16 77)).engineRead
                          30 196608 128).fst)) =
                BitVec.toNat ([(5 : Word), (7 : Word), (77 : Word), (0 : Word)].getD 0 (0 : Word)) +
                  2 ^ 32 * BitVec.toNat ([(5 : Word), (7 : Word), (77 : Word), (0 : Word)].getD 1 (0 : Word)) →
          (∀ (j : Nat),
              j < k →
                ¬((j < 8 ∧
                      natOf
                              (List.take 8
                                (List.drop (16 * j + 8)
                                  ((sF 0 [(30064771077, 262144), (30064771076, 262400)]
                                          (hd 16 78) (hd 16 77)).engineRead
                                      30 196608 128).fst)) %
                            2 ^ 52 ≠
                          0 ∧
                        natOf
                            (List.take 8
                              (List.drop (16 * j)
                                ((sF 0 [(30064771077, 262144), (30064771076, 262400)]
                                        (hd 16 78) (hd 16 77)).engineRead
                                    30 196608 128).fst)) =
                          BitVec.toNat ([(5 : Word), (7 : Word), (77 : Word), (0 : Word)].getD 0 (0 : Word)) +
                            2 ^ 32 * BitVec.toNat ([(5 : Word), (7 : Word), (77 : Word), (0 : Word)].getD 1 (0 : Word))) ∧
                    ∃ (h : List Byte),
                      (sF 0 [(30064771077, 262144), (30064771076, 262400)] (hd 16 78)
                                (hd 16 77)).engineRead
                            ((sF 0 [(30064771077, 262144), (30064771076, 262400)] (hd 16 78)
                                      (hd 16 77)).ops.headD
                                default).id
                            (natOf
                                (List.take 8
                                  (List.drop (16 * j + 8)
                                    ((sF 0 [(30064771077, 262144), (30064771076, 262400)]
                                            (hd 16 78) (hd 16 77)).engineRead
                                        30 196608 128).fst)) %
                              2 ^ 52)
                            128 =
                          (h,
                            sF 0 [(30064771077, 262144), (30064771076, 262400)] (hd 16 78)
                              (hd 16 77)) ∧
                        natOf (List.take 4 (List.drop 0 h)) / 65536 % 32 = 16 ∧
                          natOf (List.take 8 (List.drop 16 h)) =
                              BitVec.toNat ([(5 : Word), (7 : Word), (77 : Word), (0 : Word)].getD 2 (0 : Word)) +
                                2 ^ 32 * BitVec.toNat ([(5 : Word), (7 : Word), (77 : Word), (0 : Word)].getD 3 (0 : Word)) ∧
                            List.take 64 (List.drop 24 h) =
                              ((sF 0 [(30064771077, 262144), (30064771076, 262400)] (hd 16 78)
                                      (hd 16 77)).readScratch
                                  (g0
                                    (sF 0 [(30064771077, 262144), (30064771076, 262400)]
                                      (hd 16 78) (hd 16 77)))
                                  0 64).fst)) →
            (sF 0 [(30064771077, 262144), (30064771076, 262400)] (hd 16 78)
                      (hd 16 77)).engineOpen
                  ((sF 0 [(30064771077, 262144), (30064771076, 262400)] (hd 16 78)
                            (hd 16 77)).ops.headD
                      default).id
                  [(natOf
                          (List.take 8
                            (List.drop (16 * k + 8)
                              ((sF 0 [(30064771077, 262144), (30064771076, 262400)] (hd 16 78)
                                      (hd 16 77)).engineRead
                                  30 196608 128).fst)) %
                        2 ^ 52,
                      128, Access.read)] =
                (true,
                  sF 0 [(30064771077, 262144), (30064771076, 262400)] (hd 16 78)
                    (hd 16 77)) ∧
              ∃ (h : List Byte),
                (sF 0 [(30064771077, 262144), (30064771076, 262400)] (hd 16 78)
                        (hd 16 77)).engineRead
                    ((sF 0 [(30064771077, 262144), (30064771076, 262400)] (hd 16 78)
                              (hd 16 77)).ops.headD
                        default).id
                    (natOf
                        (List.take 8
                          (List.drop (16 * k + 8)
                            ((sF 0 [(30064771077, 262144), (30064771076, 262400)] (hd 16 78)
                                    (hd 16 77)).engineRead
                                30 196608 128).fst)) %
                      2 ^ 52)
                    128 =
                  (h,
                    sF 0 [(30064771077, 262144), (30064771076, 262400)] (hd 16 78)
                      (hd 16 77))) :=
  by
  refine @of_decide_eq_true _ (by letI := @decRead; letI := @decReadAnd; infer_instance) ?_
  decide +kernel
theorem witness_KvSteps_2_2_2e :
    (sF 0 [(30064771078, 262144), (30064771076, 262400)] (hd 16 78)
            (hd 16 77)).op?
        ((sF 0 [(30064771078, 262144), (30064771076, 262400)] (hd 16 78)
                  (hd 16 77)).ops.headD
            default).id =
      some
        ((sF 0 [(30064771078, 262144), (30064771076, 262400)] (hd 16 78)
                (hd 16 77)).ops.headD
          default)
    ∧ ((sF 0 [(30064771078, 262144), (30064771076, 262400)] (hd 16 78)
                (hd 16 77)).ops.headD
          default).fid =
      (f0
          (sF 0 [(30064771078, 262144), (30064771076, 262400)] (hd 16 78)
            (hd 16 77))).id
    ∧ ((sF 0 [(30064771078, 262144), (30064771076, 262400)] (hd 16 78)
              (hd 16 77)).fibreOf?
          ((sF 0 [(30064771078, 262144), (30064771076, 262400)] (hd 16 78)
                    (hd 16 77)).ops.headD
              default).gid
          (f0
              (sF 0 [(30064771078, 262144), (30064771076, 262400)] (hd 16 78)
                (hd 16 77))).id =
        some
          (w0
              (sF 0 [(30064771078, 262144), (30064771076, 262400)] (hd 16 78)
                (hd 16 77)),
            f0
              (sF 0 [(30064771078, 262144), (30064771076, 262400)] (hd 16 78)
                (hd 16 77))) ∧
      (sF 0 [(30064771078, 262144), (30064771076, 262400)] (hd 16 78)
                (hd 16 77)).warp?
            (w0
                (sF 0 [(30064771078, 262144), (30064771076, 262400)] (hd 16 78)
                  (hd 16 77))).wid =
          some
            (w0
              (sF 0 [(30064771078, 262144), (30064771076, 262400)] (hd 16 78)
                (hd 16 77))) ∧
        (w0
                  (sF 0 [(30064771078, 262144), (30064771076, 262400)] (hd 16 78)
                    (hd 16 77))).fibre?
              (f0
                  (sF 0 [(30064771078, 262144), (30064771076, 262400)] (hd 16 78)
                    (hd 16 77))).lane =
            some
              (f0
                (sF 0 [(30064771078, 262144), (30064771076, 262400)] (hd 16 78)
                  (hd 16 77))) ∧
          (w0
                  (sF 0 [(30064771078, 262144), (30064771076, 262400)] (hd 16 78)
                    (hd 16 77))).handler =
              none ∧
            (sF 0 [(30064771078, 262144), (30064771076, 262400)] (hd 16 78)
                      (hd 16 77)).group?
                  (w0
                      (sF 0 [(30064771078, 262144), (30064771076, 262400)] (hd 16 78)
                        (hd 16 77))).gid ≠
                none ∧
              ((sF 0 [(30064771078, 262144), (30064771076, 262400)] (hd 16 78)
                            (hd 16 77)).ops.headD
                      default).spoil =
                  [] ∧
                (sF 0 [(30064771078, 262144), (30064771076, 262400)] (hd 16 78)
                        (hd 16 77)).sent
                    ((sF 0 [(30064771078, 262144), (30064771076, 262400)] (hd 16 78)
                            (hd 16 77)).ops.headD
                      default) =
                  true)
    ∧ (sF 0 [(30064771078, 262144), (30064771076, 262400)] (hd 16 78)
            (hd 16 77)).group?
        ((sF 0 [(30064771078, 262144), (30064771076, 262400)] (hd 16 78)
                  (hd 16 77)).ops.headD
            default).gid =
      some
        (g0
          (sF 0 [(30064771078, 262144), (30064771076, 262400)] (hd 16 78)
            (hd 16 77)))
    ∧ ((sF 0 [(30064771078, 262144), (30064771076, 262400)] (hd 16 78)
                (hd 16 77)).ops.headD
          default).kind =
      OpKind.pfxfind [(5 : Word), (7 : Word), (77 : Word), (0 : Word)] 0 (131072 : VAddr) [20, 21] 1 true
    ∧ [(5 : Word), (7 : Word), (77 : Word), (0 : Word)].length = 4
    ∧ (sF 0 [(30064771078, 262144), (30064771076, 262400)] (hd 16 78)
            (hd 16 77)).engineOpen
        ((sF 0 [(30064771078, 262144), (30064771076, 262400)] (hd 16 78)
                  (hd 16 77)).ops.headD
            default).id
        [(BitVec.toNat (131072 : VAddr), 16, Access.read)] =
      (true,
        sF 0 [(30064771078, 262144), (30064771076, 262400)] (hd 16 78)
          (hd 16 77))
    ∧ (sF 0 [(30064771078, 262144), (30064771076, 262400)] (hd 16 78)
            (hd 16 77)).engineRead
        ((sF 0 [(30064771078, 262144), (30064771076, 262400)] (hd 16 78)
                  (hd 16 77)).ops.headD
            default).id
        (BitVec.toNat (131072 : VAddr)) 16 =
      (((sF 0 [(30064771078, 262144), (30064771076, 262400)] (hd 16 78)
                (hd 16 77)).engineRead
            30 131072 16).fst,
        sF 0 [(30064771078, 262144), (30064771076, 262400)] (hd 16 78)
          (hd 16 77))
    ∧ ((if
          natOf
                  (List.take 4
                    (List.drop 8
                      ((sF 0 [(30064771078, 262144), (30064771076, 262400)] (hd 16 78)
                              (hd 16 77)).engineRead
                          30 131072 16).fst)) %
                32 ≤
              24 ∧
            natOf
                    (List.take 4
                      (List.drop 8
                        ((sF 0 [(30064771078, 262144), (30064771076, 262400)] (hd 16 78)
                                (hd 16 77)).engineRead
                            30 131072 16).fst)) /
                  32 =
                0 ∧
              natOf
                    (List.take 8
                      (List.drop 0
                        ((sF 0 [(30064771078, 262144), (30064771076, 262400)] (hd 16 78)
                                (hd 16 77)).engineRead
                            30 131072 16).fst)) %
                  128 =
                0 then
        some
          (natOf
                (List.take 8
                  (List.drop 0
                    ((sF 0 [(30064771078, 262144), (30064771076, 262400)] (hd 16 78)
                            (hd 16 77)).engineRead
                        30 131072 16).fst)) %
              2 ^ 52,
            2 ^
              (natOf
                  (List.take 4
                    (List.drop 8
                      ((sF 0 [(30064771078, 262144), (30064771076, 262400)] (hd 16 78)
                              (hd 16 77)).engineRead
                          30 131072 16).fst)) %
                32))
      else none) =
      some (196608, 1))
    ∧ (sF 0 [(30064771078, 262144), (30064771076, 262400)] (hd 16 78)
            (hd 16 77)).engineOpen
        ((sF 0 [(30064771078, 262144), (30064771076, 262400)] (hd 16 78)
                  (hd 16 77)).ops.headD
            default).id
        [((196608 +
                128 *
                  ((BitVec.toNat ([(5 : Word), (7 : Word), (77 : Word), (0 : Word)].getD 0 (0 : Word)) +
                        2 ^ 32 * BitVec.toNat ([(5 : Word), (7 : Word), (77 : Word), (0 : Word)].getD 1 (0 : Word))) %
                      2 ^ 32 %
                    1)) %
              2 ^ 52,
            128, Access.read)] =
      (true,
        sF 0 [(30064771078, 262144), (30064771076, 262400)] (hd 16 78)
          (hd 16 77))
    ∧ (sF 0 [(30064771078, 262144), (30064771076, 262400)] (hd 16 78)
            (hd 16 77)).engineRead
        ((sF 0 [(30064771078, 262144), (30064771076, 262400)] (hd 16 78)
                  (hd 16 77)).ops.headD
            default).id
        ((196608 +
            128 *
              ((BitVec.toNat ([(5 : Word), (7 : Word), (77 : Word), (0 : Word)].getD 0 (0 : Word)) +
                    2 ^ 32 * BitVec.toNat ([(5 : Word), (7 : Word), (77 : Word), (0 : Word)].getD 1 (0 : Word))) %
                  2 ^ 32 %
                1)) %
          2 ^ 52)
        128 =
      (((sF 0 [(30064771078, 262144), (30064771076, 262400)] (hd 16 78)
                (hd 16 77)).engineRead
            30 196608 128).fst,
        sF 0 [(30064771078, 262144), (30064771076, 262400)] (hd 16 78)
          (hd 16 77))
    ∧ (sF 0 [(30064771078, 262144), (30064771076, 262400)] (hd 16 78)
            (hd 16 77)).readScratch
        (g0
          (sF 0 [(30064771078, 262144), (30064771076, 262400)] (hd 16 78)
            (hd 16 77)))
        0 64 =
      (((sF 0 [(30064771078, 262144), (30064771076, 262400)] (hd 16 78)
                (hd 16 77)).readScratch
            (g0
              (sF 0 [(30064771078, 262144), (30064771076, 262400)] (hd 16 78)
                (hd 16 77)))
            0 64).fst,
        sF 0 [(30064771078, 262144), (30064771076, 262400)] (hd 16 78)
          (hd 16 77))
    ∧ (∀ (k : Nat),
      k < 8 →
        k < 8 ∧
            natOf
                    (List.take 8
                      (List.drop (16 * k + 8)
                        ((sF 0 [(30064771078, 262144), (30064771076, 262400)] (hd 16 78)
                                (hd 16 77)).engineRead
                            30 196608 128).fst)) %
                  2 ^ 52 ≠
                0 ∧
              natOf
                  (List.take 8
                    (List.drop (16 * k)
                      ((sF 0 [(30064771078, 262144), (30064771076, 262400)] (hd 16 78)
                              (hd 16 77)).engineRead
                          30 196608 128).fst)) =
                BitVec.toNat ([(5 : Word), (7 : Word), (77 : Word), (0 : Word)].getD 0 (0 : Word)) +
                  2 ^ 32 * BitVec.toNat ([(5 : Word), (7 : Word), (77 : Word), (0 : Word)].getD 1 (0 : Word)) →
          (∀ (j : Nat),
              j < k →
                ¬((j < 8 ∧
                      natOf
                              (List.take 8
                                (List.drop (16 * j + 8)
                                  ((sF 0 [(30064771078, 262144), (30064771076, 262400)]
                                          (hd 16 78) (hd 16 77)).engineRead
                                      30 196608 128).fst)) %
                            2 ^ 52 ≠
                          0 ∧
                        natOf
                            (List.take 8
                              (List.drop (16 * j)
                                ((sF 0 [(30064771078, 262144), (30064771076, 262400)]
                                        (hd 16 78) (hd 16 77)).engineRead
                                    30 196608 128).fst)) =
                          BitVec.toNat ([(5 : Word), (7 : Word), (77 : Word), (0 : Word)].getD 0 (0 : Word)) +
                            2 ^ 32 * BitVec.toNat ([(5 : Word), (7 : Word), (77 : Word), (0 : Word)].getD 1 (0 : Word))) ∧
                    ∃ (h : List Byte),
                      (sF 0 [(30064771078, 262144), (30064771076, 262400)] (hd 16 78)
                                (hd 16 77)).engineRead
                            ((sF 0 [(30064771078, 262144), (30064771076, 262400)] (hd 16 78)
                                      (hd 16 77)).ops.headD
                                default).id
                            (natOf
                                (List.take 8
                                  (List.drop (16 * j + 8)
                                    ((sF 0 [(30064771078, 262144), (30064771076, 262400)]
                                            (hd 16 78) (hd 16 77)).engineRead
                                        30 196608 128).fst)) %
                              2 ^ 52)
                            128 =
                          (h,
                            sF 0 [(30064771078, 262144), (30064771076, 262400)] (hd 16 78)
                              (hd 16 77)) ∧
                        natOf (List.take 4 (List.drop 0 h)) / 65536 % 32 = 16 ∧
                          natOf (List.take 8 (List.drop 16 h)) =
                              BitVec.toNat ([(5 : Word), (7 : Word), (77 : Word), (0 : Word)].getD 2 (0 : Word)) +
                                2 ^ 32 * BitVec.toNat ([(5 : Word), (7 : Word), (77 : Word), (0 : Word)].getD 3 (0 : Word)) ∧
                            List.take 64 (List.drop 24 h) =
                              ((sF 0 [(30064771078, 262144), (30064771076, 262400)] (hd 16 78)
                                      (hd 16 77)).readScratch
                                  (g0
                                    (sF 0 [(30064771078, 262144), (30064771076, 262400)]
                                      (hd 16 78) (hd 16 77)))
                                  0 64).fst)) →
            (sF 0 [(30064771078, 262144), (30064771076, 262400)] (hd 16 78)
                      (hd 16 77)).engineOpen
                  ((sF 0 [(30064771078, 262144), (30064771076, 262400)] (hd 16 78)
                            (hd 16 77)).ops.headD
                      default).id
                  [(natOf
                          (List.take 8
                            (List.drop (16 * k + 8)
                              ((sF 0 [(30064771078, 262144), (30064771076, 262400)] (hd 16 78)
                                      (hd 16 77)).engineRead
                                  30 196608 128).fst)) %
                        2 ^ 52,
                      128, Access.read)] =
                (true,
                  sF 0 [(30064771078, 262144), (30064771076, 262400)] (hd 16 78)
                    (hd 16 77)) ∧
              ∃ (h : List Byte),
                (sF 0 [(30064771078, 262144), (30064771076, 262400)] (hd 16 78)
                        (hd 16 77)).engineRead
                    ((sF 0 [(30064771078, 262144), (30064771076, 262400)] (hd 16 78)
                              (hd 16 77)).ops.headD
                        default).id
                    (natOf
                        (List.take 8
                          (List.drop (16 * k + 8)
                            ((sF 0 [(30064771078, 262144), (30064771076, 262400)] (hd 16 78)
                                    (hd 16 77)).engineRead
                                30 196608 128).fst)) %
                      2 ^ 52)
                    128 =
                  (h,
                    sF 0 [(30064771078, 262144), (30064771076, 262400)] (hd 16 78)
                      (hd 16 77))) :=
  by
  refine @of_decide_eq_true _ (by letI := @decRead; letI := @decReadAnd; infer_instance) ?_
  decide +kernel

end W23

/-! ## Premises met: `Obligations.AttentionEngine` -/

namespace W24

def flg (s : State) := byFibre (fun f => { f with flags := [(2, 2)] }) s
def P : List (Nat × Nat × Nat) := [(0x20000, 0x70000, 0), (0x30000, 0x90000, 0), (0x40000, 0xA0000, 0)]
def bOp (k : OpKind) (st : OpStage) : Op := { loadOp with id := 30, issue := 30, gid := 1, fids := [0], flag := some 2, kind := k, pins := P, wpins := P, stage := st }
def step_ (k : OpKind) (st : OpStage) (s : State) : State := asGroup1 (flg (inFlight [bOp k st] s))
/-- A request: q at 0x21000, table at 0x22000, out at 0x23000, lse at 0x24000, done at 0x25000. -/
def req (ctl l ntab : Nat) (lse : Nat := 0x24000) : List Byte := bytesOf 4 ctl ++ bytesOf 4 0 ++ bytesOf 4 l ++ bytesOf 4 0 ++ bytesOf 8 0x21000 ++ bytesOf 4 128 ++ bytesOf 4 0x3E000000 ++
  bytesOf 8 0x22000 ++ bytesOf 4 ntab ++ bytesOf 4 0 ++ bytesOf 8 0x23000 ++ bytesOf 4 256 ++ bytesOf 4 0 ++ bytesOf 8 lse ++ bytesOf 8 0 ++ bytesOf 8 0x25000 ++ List.replicate 168 0
def ready_ (s : State) : State := { s with scans := s.scans }
def wait_ : OpKind := .attn 0x20000 []
def sS (b : List Byte) : State := step_ wait_ .issued (bytesAt 0x70000 b (at_ .nopShort))
theorem witness_AttentionEngine_1 :
    (sS (req 0 2 1)).engineDie 0 = some 0
    ∧ List.find? (sS (req 0 2 1)).mayBegin (arrivalOrder ((sS (req 0 2 1)).attnQueue 0)) =
      some (bOp wait_ OpStage.issued)
    ∧ (sS (req 0 2 1)).op? (bOp wait_ OpStage.issued).id = some (bOp wait_ OpStage.issued)
    ∧ (bOp wait_ OpStage.issued).kind = OpKind.attn (131072 : VAddr) []
    ∧ (sS (req 0 2 1)).attnRunning 0 < 4
    ∧ (sS (req 0 2 1)).engineTakes 0 = true
    ∧ ((sS (req 0 2 1)).onOp (bOp wait_ OpStage.issued).id fun (q : Op) =>
            { id := q.id, issue := q.issue, entry := q.entry, gid := q.gid, fid := q.fid, wid := q.wid, lane := q.lane, vlane := q.vlane,
              core := q.core, ctx := q.ctx, node := q.node, flag := q.flag, scope := q.scope, mcls := q.mcls, mdl := q.mdl, pos := q.pos,
              base := q.base, instr := q.instr, words := q.words, srcs := q.srcs, since := q.since, clock := q.clock, stage := q.stage,
              record := q.record, parks := q.parks, deferring := q.deferring, pins := q.pins, wpins := q.wpins, fids := q.fids, spoil := q.spoil,
              arrived := q.arrived, drain := q.drain, kind := q.kind : Op }).engineOpen
        (bOp wait_ OpStage.issued).id [(BitVec.toNat (131072 : VAddr), 256, Access.read)] =
      (true,
        (sS (req 0 2 1)).onOp (bOp wait_ OpStage.issued).id fun (q : Op) =>
          { id := q.id, issue := q.issue, entry := q.entry, gid := q.gid, fid := q.fid, wid := q.wid, lane := q.lane, vlane := q.vlane,
            core := q.core, ctx := q.ctx, node := q.node, flag := q.flag, scope := q.scope, mcls := q.mcls, mdl := q.mdl, pos := q.pos,
            base := q.base, instr := q.instr, words := q.words, srcs := q.srcs, since := q.since, clock := q.clock, stage := q.stage,
            record := q.record, parks := q.parks, deferring := q.deferring, pins := q.pins, wpins := q.wpins, fids := q.fids, spoil := q.spoil,
            arrived := q.arrived, drain := q.drain, kind := q.kind : Op })
    ∧ ((sS (req 0 2 1)).onOp (bOp wait_ OpStage.issued).id fun (q : Op) =>
            { id := q.id, issue := q.issue, entry := q.entry, gid := q.gid, fid := q.fid, wid := q.wid, lane := q.lane, vlane := q.vlane,
              core := q.core, ctx := q.ctx, node := q.node, flag := q.flag, scope := q.scope, mcls := q.mcls, mdl := q.mdl, pos := q.pos,
              base := q.base, instr := q.instr, words := q.words, srcs := q.srcs, since := q.since, clock := q.clock, stage := q.stage,
              record := q.record, parks := q.parks, deferring := q.deferring, pins := q.pins, wpins := q.wpins, fids := q.fids, spoil := q.spoil,
              arrived := q.arrived, drain := q.drain, kind := q.kind : Op }).engineRead
        (bOp wait_ OpStage.issued).id (BitVec.toNat (131072 : VAddr)) 256 =
      ((((sS (req 0 2 1)).onOp 30 fun (q : Op) =>
                { id := q.id, issue := q.issue, entry := q.entry, gid := q.gid, fid := q.fid, wid := q.wid, lane := q.lane, vlane := q.vlane,
                  core := q.core, ctx := q.ctx, node := q.node, flag := q.flag, scope := q.scope, mcls := q.mcls, mdl := q.mdl, pos := q.pos,
                  base := q.base, instr := q.instr, words := q.words, srcs := q.srcs, since := q.since, clock := q.clock, stage := q.stage,
                  record := q.record, parks := q.parks, deferring := q.deferring, pins := q.pins, wpins := q.wpins, fids := q.fids, spoil := q.spoil,
                  arrived := q.arrived, drain := q.drain, kind := q.kind : Op }).engineRead
            30 131072 256).fst,
        (sS (req 0 2 1)).onOp (bOp wait_ OpStage.issued).id fun (q : Op) =>
          { id := q.id, issue := q.issue, entry := q.entry, gid := q.gid, fid := q.fid, wid := q.wid, lane := q.lane, vlane := q.vlane,
            core := q.core, ctx := q.ctx, node := q.node, flag := q.flag, scope := q.scope, mcls := q.mcls, mdl := q.mdl, pos := q.pos,
            base := q.base, instr := q.instr, words := q.words, srcs := q.srcs, since := q.since, clock := q.clock, stage := q.stage,
            record := q.record, parks := q.parks, deferring := q.deferring, pins := q.pins, wpins := q.wpins, fids := q.fids, spoil := q.spoil,
            arrived := q.arrived, drain := q.drain, kind := q.kind : Op }) :=
  by decide +kernel
def sSb : State := let s := sS (req 0 2 1)
  { s with ops := s.ops ++ (List.range 4).map (fun i => { bOp (.attn 0x20000 (req 0 2 1)) .started with id := 40 + i, issue := 40 + i }) }
theorem witness_AttentionEngine_1b :
    sSb.engineDie 0 = some 0
    ∧ List.find? sSb.mayBegin (arrivalOrder (sSb.attnQueue 0)) = some (bOp wait_ OpStage.issued)
    ∧ sSb.op? (bOp wait_ OpStage.issued).id = some (bOp wait_ OpStage.issued)
    ∧ (bOp wait_ OpStage.issued).kind = OpKind.attn (131072 : VAddr) []
    ∧ (4 ≤ sSb.attnRunning 0 ∨ sSb.engineTakes 0 = false) :=
  by decide +kernel
def on_ (b : List Byte) (s : State) : State := step_ (.attn 0x20000 b) .started s
def oO (b : List Byte) : Op := bOp (.attn 0x20000 b) .started
def sB : State := on_ (req 48 2 1) (at_ .nopShort)
theorem witness_AttentionEngine_2_1 :
    (sB.op? (oO (req 48 2 1)).id = some (oO (req 48 2 1)) ∧
      (oO (req 48 2 1)).kind = OpKind.attn (131072 : VAddr) (req 48 2 1) ∧
        (oO (req 48 2 1)).stage = OpStage.started ∧ (oO (req 48 2 1)).record = none)
    ∧ (¬(natOf (List.take 4 (List.drop 0 (req 48 2 1))) % 4 ≠ 3 ∧
        natOf (List.take 4 (List.drop 0 (req 48 2 1))) / 4 % 4 ≠ 3 ∧
          ¬(natOf (List.take 4 (List.drop 0 (req 48 2 1))) / 16 % 2 = 1 ∧
                natOf (List.take 4 (List.drop 0 (req 48 2 1))) / 32 % 2 = 1) ∧
            natOf (List.take 4 (List.drop 0 (req 48 2 1))) / 64 % 4 = 0 ∧
              natOf (List.take 4 (List.drop 0 (req 48 2 1))) / 2 ^ 14 = 0 ∧
                natOf (List.take 4 (List.drop 8 (req 48 2 1))) ≤
                    16 * natOf (List.take 4 (List.drop 40 (req 48 2 1))) ∧
                  natOf (List.take 4 (List.drop 12 (req 48 2 1))) ≤ 64 ∧
                    natOf (List.take 4 (List.drop 12 (req 48 2 1))) ≤
                        natOf (List.take 4 (List.drop 8 (req 48 2 1))) ∧
                      (¬natOf (List.take 4 (List.drop 0 (req 48 2 1))) / 32 % 2 = 1 →
                          natOf (List.take 4 (List.drop 12 (req 48 2 1))) = 0) ∧
                        natOf (List.take 8 (List.drop 16 (req 48 2 1))) % 2 ^ 52 %
                              16 =
                            0 ∧
                          natOf (List.take 4 (List.drop 24 (req 48 2 1))) % 16 = 0 ∧
                            2 *
                                  (64 *
                                    2 ^
                                      (natOf (List.take 4 (List.drop 0 (req 48 2 1))) / 4 %
                                        4)) ≤
                                natOf (List.take 4 (List.drop 24 (req 48 2 1))) ∧
                              natOf (List.take 4 (List.drop 28 (req 48 2 1))) / 2 ^ 23 %
                                    2 ^ 8 ≠
                                  255 ∧
                                natOf (List.take 8 (List.drop 48 (req 48 2 1))) % 2 ^ 52 %
                                      16 =
                                    0 ∧
                                  natOf (List.take 4 (List.drop 56 (req 48 2 1))) % 16 = 0 ∧
                                    4 *
                                          (64 *
                                            2 ^
                                              (natOf (List.take 4 (List.drop 0 (req 48 2 1))) / 4 %
                                                4)) ≤
                                        natOf (List.take 4 (List.drop 56 (req 48 2 1))) ∧
                                      natOf (List.take 4 (List.drop 60 (req 48 2 1))) = 0 ∧
                                        natOf (List.take 8 (List.drop 64 (req 48 2 1))) %
                                                2 ^ 52 %
                                              4 =
                                            0 ∧
                                          (natOf (List.take 4 (List.drop 0 (req 48 2 1))) / 32 %
                                                  2 =
                                                1 →
                                              natOf (List.take 8 (List.drop 72 (req 48 2 1))) %
                                                    2 ^ 52 %
                                                  8 =
                                                0) ∧
                                            natOf (List.take 8 (List.drop 80 (req 48 2 1))) %
                                                    2 ^ 52 %
                                                  4 =
                                                0 ∧
                                              ∀ (x : Byte), x ∈ List.drop 92 (req 48 2 1) → x = (0 : Byte)))
    ∧ sB.engineOpen (oO (req 48 2 1)).id
        ((BitVec.toNat (131072 : VAddr), 256, Access.write) ::
          if
              (if
                    natOf (List.take 8 (List.drop 80 (req 48 2 1))) % 2 ^ 52 % 4 =
                      0 then
                  natOf (List.take 8 (List.drop 80 (req 48 2 1))) % 2 ^ 52
                else 0) =
                0 then
            []
          else
            [(if
                    natOf (List.take 8 (List.drop 80 (req 48 2 1))) % 2 ^ 52 % 4 =
                      0 then
                  natOf (List.take 8 (List.drop 80 (req 48 2 1))) % 2 ^ 52
                else 0,
                4, Access.write)]) =
      (true, sB) :=
  by decide +kernel
def qrow : List Byte := (List.range 64).flatMap (fun i => bytesOf 2 (0x3F80 + i))
def blkHdr (fmt code u : Nat) : List Byte := bytesOf 4 (fmt + 256 * code + 65536 * u) ++ List.replicate 124 0
def recs (n : Nat) : List Byte := (List.range (128 * n)).flatMap (fun i => bytesOf 2 (0x3E00 + i % 97))
def sC (tab : Nat) (hdr : List Byte) : State := on_ (req 0 2 1) (bytesAt 0x90080 (recs 2) (bytesAt 0x90000 hdr (bytesAt 0x72000 (bytesOf 8 tab) (bytesAt 0x71000 qrow (at_ .nopShort)))))
theorem witness_AttentionEngine_2_2_1 :
    ((sC 0 []).op? (oO (req 0 2 1)).id = some (oO (req 0 2 1)) ∧
      (oO (req 0 2 1)).kind = OpKind.attn (131072 : VAddr) (req 0 2 1) ∧
        (oO (req 0 2 1)).stage = OpStage.started ∧ (oO (req 0 2 1)).record = none)
    ∧ ((natOf (List.take 4 (List.drop 0 (req 0 2 1))) % 4 ≠ 3 ∧
        natOf (List.take 4 (List.drop 0 (req 0 2 1))) / 4 % 4 ≠ 3 ∧
          ¬(natOf (List.take 4 (List.drop 0 (req 0 2 1))) / 16 % 2 = 1 ∧
                natOf (List.take 4 (List.drop 0 (req 0 2 1))) / 32 % 2 = 1) ∧
            natOf (List.take 4 (List.drop 0 (req 0 2 1))) / 64 % 4 = 0 ∧
              natOf (List.take 4 (List.drop 0 (req 0 2 1))) / 2 ^ 14 = 0 ∧
                natOf (List.take 4 (List.drop 8 (req 0 2 1))) ≤
                    16 * natOf (List.take 4 (List.drop 40 (req 0 2 1))) ∧
                  natOf (List.take 4 (List.drop 12 (req 0 2 1))) ≤ 64 ∧
                    natOf (List.take 4 (List.drop 12 (req 0 2 1))) ≤
                        natOf (List.take 4 (List.drop 8 (req 0 2 1))) ∧
                      (¬natOf (List.take 4 (List.drop 0 (req 0 2 1))) / 32 % 2 = 1 →
                          natOf (List.take 4 (List.drop 12 (req 0 2 1))) = 0) ∧
                        natOf (List.take 8 (List.drop 16 (req 0 2 1))) % 2 ^ 52 % 16 =
                            0 ∧
                          natOf (List.take 4 (List.drop 24 (req 0 2 1))) % 16 = 0 ∧
                            2 *
                                  (64 *
                                    2 ^
                                      (natOf (List.take 4 (List.drop 0 (req 0 2 1))) / 4 %
                                        4)) ≤
                                natOf (List.take 4 (List.drop 24 (req 0 2 1))) ∧
                              natOf (List.take 4 (List.drop 28 (req 0 2 1))) / 2 ^ 23 %
                                    2 ^ 8 ≠
                                  255 ∧
                                natOf (List.take 8 (List.drop 48 (req 0 2 1))) % 2 ^ 52 %
                                      16 =
                                    0 ∧
                                  natOf (List.take 4 (List.drop 56 (req 0 2 1))) % 16 = 0 ∧
                                    4 *
                                          (64 *
                                            2 ^
                                              (natOf (List.take 4 (List.drop 0 (req 0 2 1))) / 4 %
                                                4)) ≤
                                        natOf (List.take 4 (List.drop 56 (req 0 2 1))) ∧
                                      natOf (List.take 4 (List.drop 60 (req 0 2 1))) = 0 ∧
                                        natOf (List.take 8 (List.drop 64 (req 0 2 1))) %
                                                2 ^ 52 %
                                              4 =
                                            0 ∧
                                          (natOf (List.take 4 (List.drop 0 (req 0 2 1))) / 32 %
                                                  2 =
                                                1 →
                                              natOf (List.take 8 (List.drop 72 (req 0 2 1))) %
                                                    2 ^ 52 %
                                                  8 =
                                                0) ∧
                                            natOf (List.take 8 (List.drop 80 (req 0 2 1))) %
                                                    2 ^ 52 %
                                                  4 =
                                                0 ∧
                                              ∀ (x : Byte), x ∈ List.drop 92 (req 0 2 1) → x = (0 : Byte)) ∧
      ¬natOf (List.take 4 (List.drop 0 (req 0 2 1))) / 32 % 2 = 1 ∧
        (sC 0 []).engineOpen (oO (req 0 2 1)).id
              (((BitVec.toNat (131072 : VAddr), 256, Access.write) ::
                      if
                          (if
                                natOf (List.take 8 (List.drop 80 (req 0 2 1))) % 2 ^ 52 %
                                    4 =
                                  0 then
                              natOf (List.take 8 (List.drop 80 (req 0 2 1))) % 2 ^ 52
                            else 0) =
                            0 then
                        []
                      else
                        [(if
                                natOf (List.take 8 (List.drop 80 (req 0 2 1))) % 2 ^ 52 %
                                    4 =
                                  0 then
                              natOf (List.take 8 (List.drop 80 (req 0 2 1))) % 2 ^ 52
                            else 0,
                            4, Access.write)]) ++
                    List.map
                      (fun (i : Nat) =>
                        (natOf (List.take 8 (List.drop 16 (req 0 2 1))) % 2 ^ 52 +
                            i * natOf (List.take 4 (List.drop 24 (req 0 2 1))),
                          2 *
                            (64 *
                              2 ^
                                (natOf (List.take 4 (List.drop 0 (req 0 2 1))) / 4 % 4)),
                          Access.read))
                      (List.range
                        (natOf (List.take 4 (List.drop 0 (req 0 2 1))) / 256 % 64 +
                          1)) ++
                  List.map
                    (fun (i : Nat) =>
                      (natOf (List.take 8 (List.drop 48 (req 0 2 1))) % 2 ^ 52 +
                          i * natOf (List.take 4 (List.drop 56 (req 0 2 1))),
                        4 *
                          (64 *
                            2 ^
                              (natOf (List.take 4 (List.drop 0 (req 0 2 1))) / 4 % 4)),
                        Access.write))
                    (List.range
                      (natOf (List.take 4 (List.drop 0 (req 0 2 1))) / 256 % 64 +
                        1)) ++
                if natOf (List.take 8 (List.drop 64 (req 0 2 1))) % 2 ^ 52 = 0 then []
                else
                  [(natOf (List.take 8 (List.drop 64 (req 0 2 1))) % 2 ^ 52,
                      4 *
                        (natOf (List.take 4 (List.drop 0 (req 0 2 1))) / 256 % 64 +
                          1),
                      Access.write)]) =
            (true, sC 0 []) ∧
          (sC 0 []).engineOpen (oO (req 0 2 1)).id
                (List.map
                  (fun (j : Nat) =>
                    (natOf (List.take 8 (List.drop 32 (req 0 2 1))) % 2 ^ 52 + 8 * j,
                      8, Access.read))
                  (List.filter
                    (fun (j : Nat) =>
                      (List.range
                            (natOf (List.take 4 (List.drop 0 (req 0 2 1))) / 256 % 64 +
                              1)).any
                        fun (i : Nat) =>
                        !(List.filter
                              (fun (u : Nat) =>
                                decide (16 * j + u < natOf (List.take 4 (List.drop 8 (req 0 2 1)))) &&
                                  (decide
                                      (natOf (List.take 4 (List.drop 0 (req 0 2 1))) / 16 %
                                          2 =
                                        0) ||
                                    decide
                                      (16 * j + u ≤
                                        natOf (List.take 4 (List.drop 44 (req 0 2 1))) + i)))
                              (List.range 16)).isEmpty)
                    (List.range
                      ((natOf (List.take 4 (List.drop 8 (req 0 2 1))) + 15) / 16)))) =
              (true, sC 0 []) ∧
            ∀ (j : Nat),
              j ∈
                  List.filter
                    (fun (j : Nat) =>
                      (List.range
                            (natOf (List.take 4 (List.drop 0 (req 0 2 1))) / 256 % 64 +
                              1)).any
                        fun (i : Nat) =>
                        !(List.filter
                              (fun (u : Nat) =>
                                decide (16 * j + u < natOf (List.take 4 (List.drop 8 (req 0 2 1)))) &&
                                  (decide
                                      (natOf (List.take 4 (List.drop 0 (req 0 2 1))) / 16 %
                                          2 =
                                        0) ||
                                    decide
                                      (16 * j + u ≤
                                        natOf (List.take 4 (List.drop 44 (req 0 2 1))) + i)))
                              (List.range 16)).isEmpty)
                    (List.range ((natOf (List.take 4 (List.drop 8 (req 0 2 1))) + 15) / 16)) →
                ((sC 0 []).engineRead (oO (req 0 2 1)).id
                      (natOf (List.take 8 (List.drop 32 (req 0 2 1))) % 2 ^ 52 +
                        8 * j)
                      8).snd =
                  sC 0 [])
    ∧ List.filter
        (fun (j : Nat) =>
          (List.range
                (natOf (List.take 4 (List.drop 0 (req 0 2 1))) / 256 % 64 + 1)).any
            fun (i : Nat) =>
            !(List.filter
                  (fun (u : Nat) =>
                    decide (16 * j + u < natOf (List.take 4 (List.drop 8 (req 0 2 1)))) &&
                      (decide
                          (natOf (List.take 4 (List.drop 0 (req 0 2 1))) / 16 % 2 =
                            0) ||
                        decide (16 * j + u ≤ natOf (List.take 4 (List.drop 44 (req 0 2 1))) + i)))
                  (List.range 16)).isEmpty)
        (List.range ((natOf (List.take 4 (List.drop 8 (req 0 2 1))) + 15) / 16)) =
      [0]
    ∧ natOf
              (List.take 8
                (List.drop 0
                  ((sC 0 []).engineRead (oO (req 0 2 1)).id
                      (natOf (List.take 8 (List.drop 32 (req 0 2 1))) % 2 ^ 52 +
                        8 * 0)
                      8).fst)) %
            2 ^ 52 /
          256 *
        256 =
      0 :=
  by decide +kernel
def sP : State := { sC 0x30000 (blkHdr 0 0 2) with poison := [0x90000 / 256] }
theorem witness_AttentionEngine_2_2_1b :
    (sP.op? (oO (req 0 2 1)).id = some (oO (req 0 2 1)) ∧
      (oO (req 0 2 1)).kind = OpKind.attn (131072 : VAddr) (req 0 2 1) ∧
        (oO (req 0 2 1)).stage = OpStage.started ∧ (oO (req 0 2 1)).record = none)
    ∧ ((natOf (List.take 4 (List.drop 0 (req 0 2 1))) % 4 ≠ 3 ∧
        natOf (List.take 4 (List.drop 0 (req 0 2 1))) / 4 % 4 ≠ 3 ∧
          ¬(natOf (List.take 4 (List.drop 0 (req 0 2 1))) / 16 % 2 = 1 ∧
                natOf (List.take 4 (List.drop 0 (req 0 2 1))) / 32 % 2 = 1) ∧
            natOf (List.take 4 (List.drop 0 (req 0 2 1))) / 64 % 4 = 0 ∧
              natOf (List.take 4 (List.drop 0 (req 0 2 1))) / 2 ^ 14 = 0 ∧
                natOf (List.take 4 (List.drop 8 (req 0 2 1))) ≤
                    16 * natOf (List.take 4 (List.drop 40 (req 0 2 1))) ∧
                  natOf (List.take 4 (List.drop 12 (req 0 2 1))) ≤ 64 ∧
                    natOf (List.take 4 (List.drop 12 (req 0 2 1))) ≤
                        natOf (List.take 4 (List.drop 8 (req 0 2 1))) ∧
                      (¬natOf (List.take 4 (List.drop 0 (req 0 2 1))) / 32 % 2 = 1 →
                          natOf (List.take 4 (List.drop 12 (req 0 2 1))) = 0) ∧
                        natOf (List.take 8 (List.drop 16 (req 0 2 1))) % 2 ^ 52 % 16 =
                            0 ∧
                          natOf (List.take 4 (List.drop 24 (req 0 2 1))) % 16 = 0 ∧
                            2 *
                                  (64 *
                                    2 ^
                                      (natOf (List.take 4 (List.drop 0 (req 0 2 1))) / 4 %
                                        4)) ≤
                                natOf (List.take 4 (List.drop 24 (req 0 2 1))) ∧
                              natOf (List.take 4 (List.drop 28 (req 0 2 1))) / 2 ^ 23 %
                                    2 ^ 8 ≠
                                  255 ∧
                                natOf (List.take 8 (List.drop 48 (req 0 2 1))) % 2 ^ 52 %
                                      16 =
                                    0 ∧
                                  natOf (List.take 4 (List.drop 56 (req 0 2 1))) % 16 = 0 ∧
                                    4 *
                                          (64 *
                                            2 ^
                                              (natOf (List.take 4 (List.drop 0 (req 0 2 1))) / 4 %
                                                4)) ≤
                                        natOf (List.take 4 (List.drop 56 (req 0 2 1))) ∧
                                      natOf (List.take 4 (List.drop 60 (req 0 2 1))) = 0 ∧
                                        natOf (List.take 8 (List.drop 64 (req 0 2 1))) %
                                                2 ^ 52 %
                                              4 =
                                            0 ∧
                                          (natOf (List.take 4 (List.drop 0 (req 0 2 1))) / 32 %
                                                  2 =
                                                1 →
                                              natOf (List.take 8 (List.drop 72 (req 0 2 1))) %
                                                    2 ^ 52 %
                                                  8 =
                                                0) ∧
                                            natOf (List.take 8 (List.drop 80 (req 0 2 1))) %
                                                    2 ^ 52 %
                                                  4 =
                                                0 ∧
                                              ∀ (x : Byte), x ∈ List.drop 92 (req 0 2 1) → x = (0 : Byte)) ∧
      ¬natOf (List.take 4 (List.drop 0 (req 0 2 1))) / 32 % 2 = 1 ∧
        sP.engineOpen (oO (req 0 2 1)).id
              (((BitVec.toNat (131072 : VAddr), 256, Access.write) ::
                      if
                          (if
                                natOf (List.take 8 (List.drop 80 (req 0 2 1))) % 2 ^ 52 %
                                    4 =
                                  0 then
                              natOf (List.take 8 (List.drop 80 (req 0 2 1))) % 2 ^ 52
                            else 0) =
                            0 then
                        []
                      else
                        [(if
                                natOf (List.take 8 (List.drop 80 (req 0 2 1))) % 2 ^ 52 %
                                    4 =
                                  0 then
                              natOf (List.take 8 (List.drop 80 (req 0 2 1))) % 2 ^ 52
                            else 0,
                            4, Access.write)]) ++
                    List.map
                      (fun (i : Nat) =>
                        (natOf (List.take 8 (List.drop 16 (req 0 2 1))) % 2 ^ 52 +
                            i * natOf (List.take 4 (List.drop 24 (req 0 2 1))),
                          2 *
                            (64 *
                              2 ^
                                (natOf (List.take 4 (List.drop 0 (req 0 2 1))) / 4 % 4)),
                          Access.read))
                      (List.range
                        (natOf (List.take 4 (List.drop 0 (req 0 2 1))) / 256 % 64 +
                          1)) ++
                  List.map
                    (fun (i : Nat) =>
                      (natOf (List.take 8 (List.drop 48 (req 0 2 1))) % 2 ^ 52 +
                          i * natOf (List.take 4 (List.drop 56 (req 0 2 1))),
                        4 *
                          (64 *
                            2 ^
                              (natOf (List.take 4 (List.drop 0 (req 0 2 1))) / 4 % 4)),
                        Access.write))
                    (List.range
                      (natOf (List.take 4 (List.drop 0 (req 0 2 1))) / 256 % 64 +
                        1)) ++
                if natOf (List.take 8 (List.drop 64 (req 0 2 1))) % 2 ^ 52 = 0 then []
                else
                  [(natOf (List.take 8 (List.drop 64 (req 0 2 1))) % 2 ^ 52,
                      4 *
                        (natOf (List.take 4 (List.drop 0 (req 0 2 1))) / 256 % 64 +
                          1),
                      Access.write)]) =
            (true, sP) ∧
          sP.engineOpen (oO (req 0 2 1)).id
                (List.map
                  (fun (j : Nat) =>
                    (natOf (List.take 8 (List.drop 32 (req 0 2 1))) % 2 ^ 52 + 8 * j,
                      8, Access.read))
                  (List.filter
                    (fun (j : Nat) =>
                      (List.range
                            (natOf (List.take 4 (List.drop 0 (req 0 2 1))) / 256 % 64 +
                              1)).any
                        fun (i : Nat) =>
                        !(List.filter
                              (fun (u : Nat) =>
                                decide (16 * j + u < natOf (List.take 4 (List.drop 8 (req 0 2 1)))) &&
                                  (decide
                                      (natOf (List.take 4 (List.drop 0 (req 0 2 1))) / 16 %
                                          2 =
                                        0) ||
                                    decide
                                      (16 * j + u ≤
                                        natOf (List.take 4 (List.drop 44 (req 0 2 1))) + i)))
                              (List.range 16)).isEmpty)
                    (List.range
                      ((natOf (List.take 4 (List.drop 8 (req 0 2 1))) + 15) / 16)))) =
              (true, sP) ∧
            ∀ (j : Nat),
              j ∈
                  List.filter
                    (fun (j : Nat) =>
                      (List.range
                            (natOf (List.take 4 (List.drop 0 (req 0 2 1))) / 256 % 64 +
                              1)).any
                        fun (i : Nat) =>
                        !(List.filter
                              (fun (u : Nat) =>
                                decide (16 * j + u < natOf (List.take 4 (List.drop 8 (req 0 2 1)))) &&
                                  (decide
                                      (natOf (List.take 4 (List.drop 0 (req 0 2 1))) / 16 %
                                          2 =
                                        0) ||
                                    decide
                                      (16 * j + u ≤
                                        natOf (List.take 4 (List.drop 44 (req 0 2 1))) + i)))
                              (List.range 16)).isEmpty)
                    (List.range ((natOf (List.take 4 (List.drop 8 (req 0 2 1))) + 15) / 16)) →
                (sP.engineRead (oO (req 0 2 1)).id
                      (natOf (List.take 8 (List.drop 32 (req 0 2 1))) % 2 ^ 52 +
                        8 * j)
                      8).snd =
                  sP)
    ∧ List.filter
        (fun (j : Nat) =>
          (List.range
                (natOf (List.take 4 (List.drop 0 (req 0 2 1))) / 256 % 64 + 1)).any
            fun (i : Nat) =>
            !(List.filter
                  (fun (u : Nat) =>
                    decide (16 * j + u < natOf (List.take 4 (List.drop 8 (req 0 2 1)))) &&
                      (decide
                          (natOf (List.take 4 (List.drop 0 (req 0 2 1))) / 16 % 2 =
                            0) ||
                        decide (16 * j + u ≤ natOf (List.take 4 (List.drop 44 (req 0 2 1))) + i)))
                  (List.range 16)).isEmpty)
        (List.range ((natOf (List.take 4 (List.drop 8 (req 0 2 1))) + 15) / 16)) =
      [0]
    ∧ natOf
              (List.take 8
                (List.drop 0
                  (sP.engineRead (oO (req 0 2 1)).id
                      (natOf (List.take 8 (List.drop 32 (req 0 2 1))) % 2 ^ 52 +
                        8 * 0)
                      8).fst)) %
            2 ^ 52 /
          256 *
        256 ≠
      0
    ∧ sP.enginePins (oO (req 0 2 1)).id
        [(natOf
                    (List.take 8
                      (List.drop 0
                        (sP.engineRead (oO (req 0 2 1)).id
                            (natOf (List.take 8 (List.drop 32 (req 0 2 1))) % 2 ^ 52 +
                              8 * 0)
                            8).fst)) %
                  2 ^ 52 /
                256 *
              256,
            4, Access.read)] =
      sP
    ∧ sP.engineReady (oO (req 0 2 1)).id
        [(natOf
                    (List.take 8
                      (List.drop 0
                        (sP.engineRead (oO (req 0 2 1)).id
                            (natOf (List.take 8 (List.drop 32 (req 0 2 1))) % 2 ^ 52 +
                              8 * 0)
                            8).fst)) %
                  2 ^ 52 /
                256 *
              256,
            4, Access.read)] =
      true
    ∧ sP.poisonAt (oO (req 0 2 1)).pins
        (rangeBytes
          (natOf
                  (List.take 8
                    (List.drop 0
                      (sP.engineRead (oO (req 0 2 1)).id
                          (natOf (List.take 8 (List.drop 32 (req 0 2 1))) % 2 ^ 52 +
                            8 * 0)
                          8).fst)) %
                2 ^ 52 /
              256 *
            256)
          4) ≠
      none :=
  by decide +kernel
def kv_ (s : State) : List (Nat × List Byte) := [(0, (s.engineRead 30 0x30000 (128 + 512)).1)]
theorem witness_AttentionEngine_2_2_2 :
    ((sC 196608 (blkHdr 0 0 2)).op? (oO (req 0 2 1)).id =
        some (oO (req 0 2 1)) ∧
      (oO (req 0 2 1)).kind = OpKind.attn (131072 : VAddr) (req 0 2 1) ∧
        (oO (req 0 2 1)).stage = OpStage.started ∧ (oO (req 0 2 1)).record = none)
    ∧ ((natOf (List.take 4 (List.drop 0 (req 0 2 1))) % 4 ≠ 3 ∧
        natOf (List.take 4 (List.drop 0 (req 0 2 1))) / 4 % 4 ≠ 3 ∧
          ¬(natOf (List.take 4 (List.drop 0 (req 0 2 1))) / 16 % 2 = 1 ∧
                natOf (List.take 4 (List.drop 0 (req 0 2 1))) / 32 % 2 = 1) ∧
            natOf (List.take 4 (List.drop 0 (req 0 2 1))) / 64 % 4 = 0 ∧
              natOf (List.take 4 (List.drop 0 (req 0 2 1))) / 2 ^ 14 = 0 ∧
                natOf (List.take 4 (List.drop 8 (req 0 2 1))) ≤
                    16 * natOf (List.take 4 (List.drop 40 (req 0 2 1))) ∧
                  natOf (List.take 4 (List.drop 12 (req 0 2 1))) ≤ 64 ∧
                    natOf (List.take 4 (List.drop 12 (req 0 2 1))) ≤
                        natOf (List.take 4 (List.drop 8 (req 0 2 1))) ∧
                      (¬natOf (List.take 4 (List.drop 0 (req 0 2 1))) / 32 % 2 = 1 →
                          natOf (List.take 4 (List.drop 12 (req 0 2 1))) = 0) ∧
                        natOf (List.take 8 (List.drop 16 (req 0 2 1))) % 2 ^ 52 % 16 =
                            0 ∧
                          natOf (List.take 4 (List.drop 24 (req 0 2 1))) % 16 = 0 ∧
                            2 *
                                  (64 *
                                    2 ^
                                      (natOf (List.take 4 (List.drop 0 (req 0 2 1))) / 4 %
                                        4)) ≤
                                natOf (List.take 4 (List.drop 24 (req 0 2 1))) ∧
                              natOf (List.take 4 (List.drop 28 (req 0 2 1))) / 2 ^ 23 %
                                    2 ^ 8 ≠
                                  255 ∧
                                natOf (List.take 8 (List.drop 48 (req 0 2 1))) % 2 ^ 52 %
                                      16 =
                                    0 ∧
                                  natOf (List.take 4 (List.drop 56 (req 0 2 1))) % 16 = 0 ∧
                                    4 *
                                          (64 *
                                            2 ^
                                              (natOf (List.take 4 (List.drop 0 (req 0 2 1))) / 4 %
                                                4)) ≤
                                        natOf (List.take 4 (List.drop 56 (req 0 2 1))) ∧
                                      natOf (List.take 4 (List.drop 60 (req 0 2 1))) = 0 ∧
                                        natOf (List.take 8 (List.drop 64 (req 0 2 1))) %
                                                2 ^ 52 %
                                              4 =
                                            0 ∧
                                          (natOf (List.take 4 (List.drop 0 (req 0 2 1))) / 32 %
                                                  2 =
                                                1 →
                                              natOf (List.take 8 (List.drop 72 (req 0 2 1))) %
                                                    2 ^ 52 %
                                                  8 =
                                                0) ∧
                                            natOf (List.take 8 (List.drop 80 (req 0 2 1))) %
                                                    2 ^ 52 %
                                                  4 =
                                                0 ∧
                                              ∀ (x : Byte), x ∈ List.drop 92 (req 0 2 1) → x = (0 : Byte)) ∧
      ¬natOf (List.take 4 (List.drop 0 (req 0 2 1))) / 32 % 2 = 1 ∧
        (sC 196608 (blkHdr 0 0 2)).engineOpen (oO (req 0 2 1)).id
              (((BitVec.toNat (131072 : VAddr), 256, Access.write) ::
                      if
                          (if
                                natOf (List.take 8 (List.drop 80 (req 0 2 1))) % 2 ^ 52 %
                                    4 =
                                  0 then
                              natOf (List.take 8 (List.drop 80 (req 0 2 1))) % 2 ^ 52
                            else 0) =
                            0 then
                        []
                      else
                        [(if
                                natOf (List.take 8 (List.drop 80 (req 0 2 1))) % 2 ^ 52 %
                                    4 =
                                  0 then
                              natOf (List.take 8 (List.drop 80 (req 0 2 1))) % 2 ^ 52
                            else 0,
                            4, Access.write)]) ++
                    List.map
                      (fun (i : Nat) =>
                        (natOf (List.take 8 (List.drop 16 (req 0 2 1))) % 2 ^ 52 +
                            i * natOf (List.take 4 (List.drop 24 (req 0 2 1))),
                          2 *
                            (64 *
                              2 ^
                                (natOf (List.take 4 (List.drop 0 (req 0 2 1))) / 4 % 4)),
                          Access.read))
                      (List.range
                        (natOf (List.take 4 (List.drop 0 (req 0 2 1))) / 256 % 64 +
                          1)) ++
                  List.map
                    (fun (i : Nat) =>
                      (natOf (List.take 8 (List.drop 48 (req 0 2 1))) % 2 ^ 52 +
                          i * natOf (List.take 4 (List.drop 56 (req 0 2 1))),
                        4 *
                          (64 *
                            2 ^
                              (natOf (List.take 4 (List.drop 0 (req 0 2 1))) / 4 % 4)),
                        Access.write))
                    (List.range
                      (natOf (List.take 4 (List.drop 0 (req 0 2 1))) / 256 % 64 +
                        1)) ++
                if natOf (List.take 8 (List.drop 64 (req 0 2 1))) % 2 ^ 52 = 0 then []
                else
                  [(natOf (List.take 8 (List.drop 64 (req 0 2 1))) % 2 ^ 52,
                      4 *
                        (natOf (List.take 4 (List.drop 0 (req 0 2 1))) / 256 % 64 +
                          1),
                      Access.write)]) =
            (true, sC 196608 (blkHdr 0 0 2)) ∧
          (sC 196608 (blkHdr 0 0 2)).engineOpen (oO (req 0 2 1)).id
                (List.map
                  (fun (j : Nat) =>
                    (natOf (List.take 8 (List.drop 32 (req 0 2 1))) % 2 ^ 52 + 8 * j,
                      8, Access.read))
                  (List.filter
                    (fun (j : Nat) =>
                      (List.range
                            (natOf (List.take 4 (List.drop 0 (req 0 2 1))) / 256 % 64 +
                              1)).any
                        fun (i : Nat) =>
                        !(List.filter
                              (fun (u : Nat) =>
                                decide (16 * j + u < natOf (List.take 4 (List.drop 8 (req 0 2 1)))) &&
                                  (decide
                                      (natOf (List.take 4 (List.drop 0 (req 0 2 1))) / 16 %
                                          2 =
                                        0) ||
                                    decide
                                      (16 * j + u ≤
                                        natOf (List.take 4 (List.drop 44 (req 0 2 1))) + i)))
                              (List.range 16)).isEmpty)
                    (List.range
                      ((natOf (List.take 4 (List.drop 8 (req 0 2 1))) + 15) / 16)))) =
              (true, sC 196608 (blkHdr 0 0 2)) ∧
            ∀ (j : Nat),
              j ∈
                  List.filter
                    (fun (j : Nat) =>
                      (List.range
                            (natOf (List.take 4 (List.drop 0 (req 0 2 1))) / 256 % 64 +
                              1)).any
                        fun (i : Nat) =>
                        !(List.filter
                              (fun (u : Nat) =>
                                decide (16 * j + u < natOf (List.take 4 (List.drop 8 (req 0 2 1)))) &&
                                  (decide
                                      (natOf (List.take 4 (List.drop 0 (req 0 2 1))) / 16 %
                                          2 =
                                        0) ||
                                    decide
                                      (16 * j + u ≤
                                        natOf (List.take 4 (List.drop 44 (req 0 2 1))) + i)))
                              (List.range 16)).isEmpty)
                    (List.range ((natOf (List.take 4 (List.drop 8 (req 0 2 1))) + 15) / 16)) →
                ((sC 196608 (blkHdr 0 0 2)).engineRead (oO (req 0 2 1)).id
                      (natOf (List.take 8 (List.drop 32 (req 0 2 1))) % 2 ^ 52 +
                        8 * j)
                      8).snd =
                  sC 196608 (blkHdr 0 0 2))
    ∧ List.map Prod.fst (kv_ (sC 196608 (blkHdr 0 0 2))) =
      List.filter
        (fun (j : Nat) =>
          (List.range
                (natOf (List.take 4 (List.drop 0 (req 0 2 1))) / 256 % 64 + 1)).any
            fun (i : Nat) =>
            !(List.filter
                  (fun (u : Nat) =>
                    decide (16 * j + u < natOf (List.take 4 (List.drop 8 (req 0 2 1)))) &&
                      (decide
                          (natOf (List.take 4 (List.drop 0 (req 0 2 1))) / 16 % 2 =
                            0) ||
                        decide (16 * j + u ≤ natOf (List.take 4 (List.drop 44 (req 0 2 1))) + i)))
                  (List.range 16)).isEmpty)
        (List.range ((natOf (List.take 4 (List.drop 8 (req 0 2 1))) + 15) / 16))
    ∧ (∀ (x : Nat × List Byte),
      x ∈ kv_ (sC 196608 (blkHdr 0 0 2)) →
        have top :=
          (List.filter
                    (fun (u : Nat) =>
                      (List.range
                            (natOf (List.take 4 (List.drop 0 (req 0 2 1))) / 256 % 64 +
                              1)).any
                        fun (i : Nat) =>
                        decide (16 * x.fst + u < natOf (List.take 4 (List.drop 8 (req 0 2 1)))) &&
                          (decide
                              (natOf (List.take 4 (List.drop 0 (req 0 2 1))) / 16 % 2 =
                                0) ||
                            decide
                              (16 * x.fst + u ≤ natOf (List.take 4 (List.drop 44 (req 0 2 1))) + i)))
                    (List.range 16)).getLast?.getD
              0 +
            1;
        have len :=
          128 +
            (if natOf (List.take 4 (List.drop 0 (req 0 2 1))) % 4 = 0 then
                4 *
                  (64 *
                    2 ^ (natOf (List.take 4 (List.drop 0 (req 0 2 1))) / 4 % 4))
              else
                if natOf (List.take 4 (List.drop 0 (req 0 2 1))) % 4 = 1 then
                  2 *
                    (64 *
                      2 ^ (natOf (List.take 4 (List.drop 0 (req 0 2 1))) / 4 % 4))
                else
                  64 *
                      2 ^ (natOf (List.take 4 (List.drop 0 (req 0 2 1))) / 4 % 4) +
                    64 *
                        2 ^ (natOf (List.take 4 (List.drop 0 (req 0 2 1))) / 4 % 4) /
                      8) *
              top;
        natOf
                    (List.take 8
                      (List.drop 0
                        ((sC 196608 (blkHdr 0 0 2)).engineRead (oO (req 0 2 1)).id
                            (natOf (List.take 8 (List.drop 32 (req 0 2 1))) % 2 ^ 52 +
                              8 * x.fst)
                            8).fst)) %
                  2 ^ 52 /
                256 *
              256 ≠
            0 ∧
          (sC 196608 (blkHdr 0 0 2)).engineOpen (oO (req 0 2 1)).id
                [(natOf
                            (List.take 8
                              (List.drop 0
                                ((sC 196608 (blkHdr 0 0 2)).engineRead (oO (req 0 2 1)).id
                                    (natOf (List.take 8 (List.drop 32 (req 0 2 1))) % 2 ^ 52 +
                                      8 * x.fst)
                                    8).fst)) %
                          2 ^ 52 /
                        256 *
                      256,
                    len, Access.read)] =
              (true, sC 196608 (blkHdr 0 0 2)) ∧
            (sC 196608 (blkHdr 0 0 2)).engineRead (oO (req 0 2 1)).id
                  (natOf
                          (List.take 8
                            (List.drop 0
                              ((sC 196608 (blkHdr 0 0 2)).engineRead (oO (req 0 2 1)).id
                                  (natOf (List.take 8 (List.drop 32 (req 0 2 1))) % 2 ^ 52 +
                                    8 * x.fst)
                                  8).fst)) %
                        2 ^ 52 /
                      256 *
                    256)
                  len =
                (x.snd, sC 196608 (blkHdr 0 0 2)) ∧
              natOf (List.take 4 (List.drop 0 x.snd)) % 4 =
                  natOf (List.take 4 (List.drop 0 (req 0 2 1))) % 4 ∧
                64 * 2 ^ (natOf (List.take 4 (List.drop 0 x.snd)) / 256 % 4) =
                    64 *
                      2 ^ (natOf (List.take 4 (List.drop 0 (req 0 2 1))) / 4 % 4) ∧
                  top ≤ natOf (List.take 4 (List.drop 0 x.snd)) / 65536 % 32)
    ∧ (∀ (i : Nat),
      i < natOf (List.take 4 (List.drop 0 (req 0 2 1))) / 256 % 64 + 1 →
        ((sC 196608 (blkHdr 0 0 2)).engineRead (oO (req 0 2 1)).id
              (natOf (List.take 8 (List.drop 16 (req 0 2 1))) % 2 ^ 52 +
                i * natOf (List.take 4 (List.drop 24 (req 0 2 1))))
              (2 *
                (64 *
                  2 ^ (natOf (List.take 4 (List.drop 0 (req 0 2 1))) / 4 % 4)))).snd =
          sC 196608 (blkHdr 0 0 2)) :=
  by
  refine ⟨by decide +kernel, ⟨by decide +kernel, by decide +kernel, by decide +kernel, by decide +kernel, by decide +kernel⟩, ?_⟩
  refine ⟨by decide +kernel, ?_, by decide +kernel⟩
  intro x hx
  have e : x = (0, _) := List.mem_singleton.mp hx
  subst e
  refine ⟨?_, ?_, (congr (congrArg _ (?_ : _ = 0x30000)) (?_ : _ = 640)).trans (Prod.ext rfl ?_), ?_, ?_, ?_⟩
  all_goals decide +kernel

end W24

/-! ## Premises met: `Obligations.FaultService` -/

namespace W25

def fr (cause : Nat) (due : Bool) : FaultRec := { id := 50, ctx := 0, page := 2, cause := cause, access := 0, addr := 0x20000, engine := false, deferred := false, key := 0, place := 0, node := 256, waiters := 1, level := 3, since := 0, due := due, fetchers := [] }
def held_ (r : FaultRec) (s : State) : State := { s with faults := [r], ops := [{ loadOp with record := some 50 }] }
def sF (r : FaultRec) (t : Nat) : State := { held_ r (tabled [(2, 0, 7)] (at_ .nopShort)) with time := t }
theorem witness_FaultService_1 :
    List.find? (fun (x : FaultRec) => decide (x.id = (fr 1 true).id)) (sF (fr 1 true) 0).faults = some (fr 1 true)
    ∧ ((fr 1 true).cause ∈ [1, 3, 4] ∧ (fr 1 true).due = true ∨
      ∃ (c : Ctx),
        ∃ (e : DWord),
          ∃ (l : Nat),
            ∃ (a : Nat),
              (sF (fr 1 true) 0).ctx? (fr 1 true).ctx = some c ∧
                (sF (fr 1 true) 0).walk c ((fr 1 true).page * 65536) = Walk.leaf e l a ∧
                  ((fr 1 true).cause = 5 ∧ (sF (fr 1 true) 0).reachable (pteModule e) = true ∨
                    (fr 1 true).cause = 6 ∧ (if pteTier e = 0 then c.pool0 else c.pool1) ≠ [])) :=
  by
  refine @of_decide_eq_true _ (by letI := @decCtxLeaf; infer_instance) ?_
  decide +kernel
def pooled (s : State) : State := { s with ctxs := s.ctxs.map (fun (c : Ctx) => { c with pool0 := [77] }) }
theorem witness_FaultService_1b :
    List.find? (fun (x : FaultRec) => decide (x.id = (fr 6 false).id)) (pooled (sF (fr 6 false) 0)).faults =
      some (fr 6 false)
    ∧ ((fr 6 false).cause ∈ [1, 3, 4] ∧ (fr 6 false).due = true ∨
      ∃ (c : Ctx),
        ∃ (e : DWord),
          ∃ (l : Nat),
            ∃ (a : Nat),
              (pooled (sF (fr 6 false) 0)).ctx? (fr 6 false).ctx = some c ∧
                (pooled (sF (fr 6 false) 0)).walk c ((fr 6 false).page * 65536) = Walk.leaf e l a ∧
                  ((fr 6 false).cause = 5 ∧ (pooled (sF (fr 6 false) 0)).reachable (pteModule e) = true ∨
                    (fr 6 false).cause = 6 ∧ (if pteTier e = 0 then c.pool0 else c.pool1) ≠ [])) :=
  by
  refine @of_decide_eq_true _ (by letI := @decCtxLeaf; infer_instance) ?_
  decide +kernel
theorem witness_FaultService_2_1 :
    List.find? (fun (x : FaultRec) => decide (x.id = (fr 1 false).id)) (sF (fr 1 false) 0).faults = some (fr 1 false)
    ∧ (¬((fr 1 false).cause ∈ [1, 3, 4] ∧ (fr 1 false).due = true ∨
        ∃ (c : Ctx),
          ∃ (e : DWord),
            ∃ (l : Nat),
              ∃ (a : Nat),
                (sF (fr 1 false) 0).ctx? (fr 1 false).ctx = some c ∧
                  (sF (fr 1 false) 0).walk c ((fr 1 false).page * 65536) = Walk.leaf e l a ∧
                    ((fr 1 false).cause = 5 ∧ (sF (fr 1 false) 0).reachable (pteModule e) = true ∨
                      (fr 1 false).cause = 6 ∧ (if pteTier e = 0 then c.pool0 else c.pool1) ≠ []))) :=
  by
  refine @of_decide_eq_true _ (by letI := @decCtxLeaf; infer_instance) ?_
  decide +kernel
theorem witness_FaultService_2_1b :
    List.find? (fun (x : FaultRec) => decide (x.id = (fr 6 false).id)) (sF (fr 6 false) 0).faults = some (fr 6 false)
    ∧ (¬((fr 6 false).cause ∈ [1, 3, 4] ∧ (fr 6 false).due = true ∨
        ∃ (c : Ctx),
          ∃ (e : DWord),
            ∃ (l : Nat),
              ∃ (a : Nat),
                (sF (fr 6 false) 0).ctx? (fr 6 false).ctx = some c ∧
                  (sF (fr 6 false) 0).walk c ((fr 6 false).page * 65536) = Walk.leaf e l a ∧
                    ((fr 6 false).cause = 5 ∧ (sF (fr 6 false) 0).reachable (pteModule e) = true ∨
                      (fr 6 false).cause = 6 ∧ (if pteTier e = 0 then c.pool0 else c.pool1) ≠ []))) :=
  by
  refine @of_decide_eq_true _ (by letI := @decCtxLeaf; infer_instance) ?_
  decide +kernel
theorem witness_FaultService_2_2_1 :
    List.find? (fun (x : FaultRec) => decide (x.id = (fr 1 false).id)) (sF (fr 1 false) 5).faults = some (fr 1 false)
    ∧ ((sF (fr 1 false) 5).time < (fr 1 false).since + 10000000 * Config.ns ∨
      (fr 1 false).cause ∈ [1, 3, 4] ∧ (fr 1 false).due = true ∨
        ∃ (c : Ctx),
          ∃ (e : DWord),
            ∃ (l : Nat),
              ∃ (a : Nat),
                (sF (fr 1 false) 5).ctx? (fr 1 false).ctx = some c ∧
                  (sF (fr 1 false) 5).walk c ((fr 1 false).page * 65536) = Walk.leaf e l a ∧
                    ((fr 1 false).cause = 5 ∧ (sF (fr 1 false) 5).reachable (pteModule e) = true ∨
                      (fr 1 false).cause = 6 ∧ (if pteTier e = 0 then c.pool0 else c.pool1) ≠ [])) :=
  by
  refine @of_decide_eq_true _ (by letI := @decCtxLeaf; infer_instance) ?_
  decide +kernel
def late_ : Nat := 10000000 * Config.ns
theorem witness_FaultService_2_2_1b :
    List.find? (fun (x : FaultRec) => decide (x.id = (fr 6 false).id)) (pooled (sF (fr 6 false) late_)).faults = some (fr 6 false)
    ∧ ((pooled (sF (fr 6 false) late_)).time < (fr 6 false).since + 10000000 * Config.ns ∨
      (fr 6 false).cause ∈ [1, 3, 4] ∧ (fr 6 false).due = true ∨
        ∃ (c : Ctx),
          ∃ (e : DWord),
            ∃ (l : Nat),
              ∃ (a : Nat),
                (pooled (sF (fr 6 false) late_)).ctx? (fr 6 false).ctx = some c ∧
                  (pooled (sF (fr 6 false) late_)).walk c ((fr 6 false).page * 65536) = Walk.leaf e l a ∧
                    ((fr 6 false).cause = 5 ∧ (pooled (sF (fr 6 false) late_)).reachable (pteModule e) = true ∨
                      (fr 6 false).cause = 6 ∧ (if pteTier e = 0 then c.pool0 else c.pool1) ≠ [])) :=
  by
  refine @of_decide_eq_true _ (by letI := @decCtxLeaf; infer_instance) ?_
  decide +kernel
def nF (s : State) : Node := (s.node? 0 256).getD default
theorem witness_FaultService_2_2_2_1 :
    List.find? (fun (x : FaultRec) => decide (x.id = (fr 1 false).id)) (sF (fr 1 false) late_).faults = some (fr 1 false)
    ∧ (¬((fr 1 false).cause ∈ [1, 3, 4] ∧ (fr 1 false).due = true ∨
        ∃ (c : Ctx),
          ∃ (e : DWord),
            ∃ (l : Nat),
              ∃ (a : Nat),
                (sF (fr 1 false) late_).ctx? (fr 1 false).ctx = some c ∧
                  (sF (fr 1 false) late_).walk c ((fr 1 false).page * 65536) = Walk.leaf e l a ∧
                    ((fr 1 false).cause = 5 ∧ (sF (fr 1 false) late_).reachable (pteModule e) = true ∨
                      (fr 1 false).cause = 6 ∧ (if pteTier e = 0 then c.pool0 else c.pool1) ≠ [])))
    ∧ (fr 1 false).since + 10000000 * Config.ns ≤ (sF (fr 1 false) late_).time
    ∧ (fr 1 false).cause ∈ [1, 2, 3, 4, 5, 6]
    ∧ (sF (fr 1 false) late_).faultNodes (fr 1 false) = [(256 : VAddr)]
    ∧ ((sF (fr 1 false) late_).node? (fr 1 false).ctx (256 : VAddr) = some (nF (sF (fr 1 false) late_)) ∧
      (nF (sF (fr 1 false) late_)).ctx = (fr 1 false).ctx ∧
        (nF (sF (fr 1 false) late_)).addr = (256 : VAddr) ∧
          (nF (sF (fr 1 false) late_)).released = [] ∧
            (nF (sF (fr 1 false) late_)).parent = none ∧
              natOf (List.take 4 (List.drop 12 (nF (sF (fr 1 false) late_)).record)) = 0 ∧
                (sF (fr 1 false) late_).dev.elog = (0 : DWord) ∧
                  (∀ (k : Node), k ∈ (sF (fr 1 false) late_).nodes → k.ctx = (fr 1 false).ctx → k.parent ≠ some (256 : VAddr)) ∧
                    ∀ (c : Ctx),
                      (sF (fr 1 false) late_).ctx? (fr 1 false).ctx = some c → ∀ (g : Staged), g ∈ c.staged → g.node ≠ (256 : VAddr))
    ∧ (nF (sF (fr 1 false) late_)).state = NodeState.running :=
  by
  refine @of_decide_eq_true _ (by letI := @decAll; letI := @decCtxLeaf; infer_instance) ?_
  decide +kernel
theorem witness_FaultService_2_2_2_1b :
    List.find? (fun (x : FaultRec) => decide (x.id = (fr 6 false).id)) (sF (fr 6 false) late_).faults = some (fr 6 false)
    ∧ (¬((fr 6 false).cause ∈ [1, 3, 4] ∧ (fr 6 false).due = true ∨
        ∃ (c : Ctx),
          ∃ (e : DWord),
            ∃ (l : Nat),
              ∃ (a : Nat),
                (sF (fr 6 false) late_).ctx? (fr 6 false).ctx = some c ∧
                  (sF (fr 6 false) late_).walk c ((fr 6 false).page * 65536) = Walk.leaf e l a ∧
                    ((fr 6 false).cause = 5 ∧ (sF (fr 6 false) late_).reachable (pteModule e) = true ∨
                      (fr 6 false).cause = 6 ∧ (if pteTier e = 0 then c.pool0 else c.pool1) ≠ [])))
    ∧ (fr 6 false).since + 10000000 * Config.ns ≤ (sF (fr 6 false) late_).time
    ∧ (fr 6 false).cause ∈ [1, 2, 3, 4, 5, 6]
    ∧ (sF (fr 6 false) late_).faultNodes (fr 6 false) = [(256 : VAddr)]
    ∧ ((sF (fr 6 false) late_).node? (fr 6 false).ctx (256 : VAddr) = some (nF (sF (fr 6 false) late_)) ∧
      (nF (sF (fr 6 false) late_)).ctx = (fr 6 false).ctx ∧
        (nF (sF (fr 6 false) late_)).addr = (256 : VAddr) ∧
          (nF (sF (fr 6 false) late_)).released = [] ∧
            (nF (sF (fr 6 false) late_)).parent = none ∧
              natOf (List.take 4 (List.drop 12 (nF (sF (fr 6 false) late_)).record)) = 0 ∧
                (sF (fr 6 false) late_).dev.elog = (0 : DWord) ∧
                  (∀ (k : Node), k ∈ (sF (fr 6 false) late_).nodes → k.ctx = (fr 6 false).ctx → k.parent ≠ some (256 : VAddr)) ∧
                    ∀ (c : Ctx),
                      (sF (fr 6 false) late_).ctx? (fr 6 false).ctx = some c → ∀ (g : Staged), g ∈ c.staged → g.node ≠ (256 : VAddr))
    ∧ (nF (sF (fr 6 false) late_)).state = NodeState.running :=
  by
  refine @of_decide_eq_true _ (by letI := @decAll; letI := @decCtxLeaf; infer_instance) ?_
  decide +kernel
def poison_ (s : State) : State := { s with poison := [0x700, 0x701, 0x999] }
def img : Image := { addr := 0x70000, bytes := (List.range 65536).map (fun i => BitVec.ofNat 8 (i / 256 + i + 1)) }
theorem img_length : img.bytes.length = 65536 := by simp [img]
def imaged (i : Image) (s : State) : State := { s with ctxs := s.ctxs.map (fun (c : Ctx) => { c with images := [i] }) }
def readOnly (s : State) : State := { s with mem := s.mem.map (fun e => if e.1 = 0x4010 then (e.1, 45) else e) }
def sRof (i : Image) : State := readOnly (imaged i (poison_ (sF (fr 7 false) late_)))
theorem sR_image (i : Image) (a : Nat) (h : i.addr = a) : ((sRof i).ctxs.flatMap Ctx.images).find? (fun (x : Image) => decide (x.addr = a)) = some i := by
  have e : (sRof i).ctxs.flatMap Ctx.images = [i] := rfl
  rw [e, List.find?_cons_of_pos (by simp [h])]
def sR : State := sRof img
theorem witness_FaultService_2_2_2_2_1 :
    List.find? (fun (x : FaultRec) => decide (x.id = (fr 7 false).id)) sR.faults = some (fr 7 false)
    ∧ (fr 7 false).since + 10000000 * Config.ns ≤ sR.time
    ∧ (fr 7 false).cause = 7
    ∧ (fr 7 false).page < 2 ^ 36
    ∧ (∃ (t : Ctx), sR.ctx? (fr 7 false).ctx = some t)
    ∧ sR.poisonedEntry ((fr 7 false).page * 65536 % 2 ^ 52) [0, 1, 2, 3]
        ((sR.ctx? (fr 7 false).ctx).getD default).root =
      none
    ∧ sR.walk ((sR.ctx? (fr 7 false).ctx).getD default) ((fr 7 false).page * 65536) =
      Walk.leaf (BitVec.ofNat 64 (45 + 2 ^ 20 * 7)) 3 16400
    ∧ sR.devWritten.contains
        (leafAddr (BitVec.ofNat 64 (45 + 2 ^ 20 * 7)) 3 ((fr 7 false).page * 65536) /
          65536) =
      false
    ∧ sR.writable
        (leafAddr (BitVec.ofNat 64 (45 + 2 ^ 20 * 7)) 3 ((fr 7 false).page * 65536) /
            65536 *
          65536) =
      false
    ∧ List.find?
        (fun (x : Image) =>
          decide
            (x.addr =
              leafAddr (BitVec.ofNat 64 (45 + 2 ^ 20 * 7)) 3
                    ((fr 7 false).page * 65536) /
                  65536 *
                65536))
        (List.flatMap Ctx.images sR.ctxs) =
      some img
    ∧ img.bytes.length = 65536
    ∧ sR.tidy :=
  ⟨by decide +kernel, by decide +kernel, by decide +kernel, by decide +kernel, @of_decide_eq_true _ (by letI := @decIs; infer_instance) (by decide +kernel), by decide +kernel, by decide +kernel, by decide +kernel, by decide +kernel, sR_image img _ (by decide +kernel), img_length, @of_decide_eq_true _ (by letI := @decTidy; infer_instance) (by decide +kernel)⟩
theorem witness_FaultService_2_2_2_2_2_2 :
    List.find? (fun (x : FaultRec) => decide (x.id = (fr 7 false).id)) sR.faults = some (fr 7 false)
    ∧ (fr 7 false).cause = 7
    ∧ (fr 7 false).page < 2 ^ 36
    ∧ (∃ (t : Ctx), sR.ctx? (fr 7 false).ctx = some t)
    ∧ sR.poisonedEntry ((fr 7 false).page * 65536 % 2 ^ 52) [0, 1, 2, 3]
        ((sR.ctx? (fr 7 false).ctx).getD default).root =
      none
    ∧ sR.walk ((sR.ctx? (fr 7 false).ctx).getD default) ((fr 7 false).page * 65536) =
      Walk.leaf (BitVec.ofNat 64 (45 + 2 ^ 20 * 7)) 3 16400
    ∧ sR.devWritten.contains
        (leafAddr (BitVec.ofNat 64 (45 + 2 ^ 20 * 7)) 3 ((fr 7 false).page * 65536) /
          65536) =
      false
    ∧ sR.writable
        (leafAddr (BitVec.ofNat 64 (45 + 2 ^ 20 * 7)) 3 ((fr 7 false).page * 65536) /
            65536 *
          65536) =
      false
    ∧ List.find?
        (fun (x : Image) =>
          decide
            (x.addr =
              leafAddr (BitVec.ofNat 64 (45 + 2 ^ 20 * 7)) 3
                    ((fr 7 false).page * 65536) /
                  65536 *
                65536))
        (List.flatMap Ctx.images sR.ctxs) =
      some img
    ∧ img.bytes.length = 65536
    ∧ sR.tidy :=
  ⟨witness_FaultService_2_2_2_2_1.1, witness_FaultService_2_2_2_2_1.2.2⟩
theorem witness_FaultService_2_2_2_2_1b :
    List.find? (fun (x : FaultRec) => decide (x.id = (fr 7 false).id)) (poison_ (sF (fr 7 false) late_)).faults =
      some (fr 7 false)
    ∧ (fr 7 false).since + 10000000 * Config.ns ≤ (poison_ (sF (fr 7 false) late_)).time
    ∧ (fr 7 false).cause = 7
    ∧ (∃ (t : Ctx), (poison_ (sF (fr 7 false) late_)).ctx? (fr 7 false).ctx = some t)
    ∧ (poison_ (sF (fr 7 false) late_)).goodCopy (((poison_ (sF (fr 7 false) late_)).ctx? (fr 7 false).ctx).getD default)
        (fr 7 false) =
      none
    ∧ (poison_ (sF (fr 7 false) late_)).stagedBy (((poison_ (sF (fr 7 false) late_)).ctx? (fr 7 false).ctx).getD default)
        (fr 7 false).page =
      none
    ∧ (poison_ (sF (fr 7 false) late_)).faultNodes (fr 7 false) = [(256 : VAddr)]
    ∧ ((poison_ (sF (fr 7 false) late_)).node? (fr 7 false).ctx (256 : VAddr) = some (nF (poison_ (sF (fr 7 false) late_))) ∧
      (nF (poison_ (sF (fr 7 false) late_))).ctx = (fr 7 false).ctx ∧
        (nF (poison_ (sF (fr 7 false) late_))).addr = (256 : VAddr) ∧
          (nF (poison_ (sF (fr 7 false) late_))).released = [] ∧
            (nF (poison_ (sF (fr 7 false) late_))).parent = none ∧
              natOf (List.take 4 (List.drop 12 (nF (poison_ (sF (fr 7 false) late_))).record)) = 0 ∧
                (poison_ (sF (fr 7 false) late_)).dev.elog = (0 : DWord) ∧
                  (∀ (k : Node),
                      k ∈ (poison_ (sF (fr 7 false) late_)).nodes → k.ctx = (fr 7 false).ctx → k.parent ≠ some (256 : VAddr)) ∧
                    ∀ (c : Ctx),
                      (poison_ (sF (fr 7 false) late_)).ctx? (fr 7 false).ctx = some c →
                        ∀ (g : Staged), g ∈ c.staged → g.node ≠ (256 : VAddr))
    ∧ (nF (poison_ (sF (fr 7 false) late_))).state = NodeState.running :=
  by
  refine @of_decide_eq_true _ (by letI := @decAll; letI := @decIs; infer_instance) ?_
  decide +kernel
theorem witness_FaultService_2_2_2_2_2_2b :
    List.find? (fun (x : FaultRec) => decide (x.id = (fr 7 false).id)) (poison_ (sF (fr 7 false) late_)).faults =
      some (fr 7 false)
    ∧ (fr 7 false).cause = 7
    ∧ (∃ (t : Ctx), (poison_ (sF (fr 7 false) late_)).ctx? (fr 7 false).ctx = some t)
    ∧ (poison_ (sF (fr 7 false) late_)).goodCopy (((poison_ (sF (fr 7 false) late_)).ctx? (fr 7 false).ctx).getD default)
        (fr 7 false) =
      none
    ∧ (poison_ (sF (fr 7 false) late_)).stagedBy (((poison_ (sF (fr 7 false) late_)).ctx? (fr 7 false).ctx).getD default)
        (fr 7 false).page =
      none
    ∧ (poison_ (sF (fr 7 false) late_)).faultNodes (fr 7 false) = [(256 : VAddr)]
    ∧ ((poison_ (sF (fr 7 false) late_)).node? (fr 7 false).ctx (256 : VAddr) = some (nF (poison_ (sF (fr 7 false) late_))) ∧
      (nF (poison_ (sF (fr 7 false) late_))).ctx = (fr 7 false).ctx ∧
        (nF (poison_ (sF (fr 7 false) late_))).addr = (256 : VAddr) ∧
          (nF (poison_ (sF (fr 7 false) late_))).released = [] ∧
            (nF (poison_ (sF (fr 7 false) late_))).parent = none ∧
              natOf (List.take 4 (List.drop 12 (nF (poison_ (sF (fr 7 false) late_))).record)) = 0 ∧
                (poison_ (sF (fr 7 false) late_)).dev.elog = (0 : DWord) ∧
                  (∀ (k : Node),
                      k ∈ (poison_ (sF (fr 7 false) late_)).nodes → k.ctx = (fr 7 false).ctx → k.parent ≠ some (256 : VAddr)) ∧
                    ∀ (c : Ctx),
                      (poison_ (sF (fr 7 false) late_)).ctx? (fr 7 false).ctx = some c →
                        ∀ (g : Staged), g ∈ c.staged → g.node ≠ (256 : VAddr))
    ∧ (nF (poison_ (sF (fr 7 false) late_))).state = NodeState.running :=
  by
  refine @of_decide_eq_true _ (by letI := @decAll; letI := @decIs; infer_instance) ?_
  decide +kernel
theorem witness_FaultService_2_2_2_2_1c :
    List.find? (fun (x : FaultRec) => decide (x.id = (fr 7 false).id))
        (let __src := poison_ (sF (fr 7 false) late_);
          { agenda := __src.agenda, freeCtr := __src.freeCtr, cur := __src.cur, clock := __src.clock, time := __src.time, wall := __src.wall,
            nextId := __src.nextId, mem := __src.mem, unitKey := __src.unitKey, scrambled := __src.scrambled, owner := __src.owner,
            poison := __src.poison, devWritten := __src.devWritten, keyGen := __src.keyGen, l1 := __src.l1, icache := __src.icache, tlb := __src.tlb,
            ctxs := __src.ctxs, nodes := __src.nodes, groups := __src.groups, warps := __src.warps, ops := [], cores := __src.cores,
            wadi := __src.wadi, faults := __src.faults, saved := __src.saved, scans := __src.scans, memStacks := __src.memStacks, dev := __src.dev :
            State }).faults =
      some (fr 7 false)
    ∧ (fr 7 false).since + 10000000 * Config.ns ≤
      (let __src := poison_ (sF (fr 7 false) late_);
        { agenda := __src.agenda, freeCtr := __src.freeCtr, cur := __src.cur, clock := __src.clock, time := __src.time, wall := __src.wall,
          nextId := __src.nextId, mem := __src.mem, unitKey := __src.unitKey, scrambled := __src.scrambled, owner := __src.owner,
          poison := __src.poison, devWritten := __src.devWritten, keyGen := __src.keyGen, l1 := __src.l1, icache := __src.icache, tlb := __src.tlb,
          ctxs := __src.ctxs, nodes := __src.nodes, groups := __src.groups, warps := __src.warps, ops := [], cores := __src.cores, wadi := __src.wadi,
          faults := __src.faults, saved := __src.saved, scans := __src.scans, memStacks := __src.memStacks, dev := __src.dev : State }).time
    ∧ (fr 7 false).cause = 7
    ∧ (∃ (t : Ctx),
      (let __src := poison_ (sF (fr 7 false) late_);
            { agenda := __src.agenda, freeCtr := __src.freeCtr, cur := __src.cur, clock := __src.clock, time := __src.time, wall := __src.wall,
              nextId := __src.nextId, mem := __src.mem, unitKey := __src.unitKey, scrambled := __src.scrambled, owner := __src.owner,
              poison := __src.poison, devWritten := __src.devWritten, keyGen := __src.keyGen, l1 := __src.l1, icache := __src.icache,
              tlb := __src.tlb, ctxs := __src.ctxs, nodes := __src.nodes, groups := __src.groups, warps := __src.warps, ops := [],
              cores := __src.cores, wadi := __src.wadi, faults := __src.faults, saved := __src.saved, scans := __src.scans,
              memStacks := __src.memStacks, dev := __src.dev : State }).ctx?
          (fr 7 false).ctx =
        some t)
    ∧ (let __src := poison_ (sF (fr 7 false) late_);
          { agenda := __src.agenda, freeCtr := __src.freeCtr, cur := __src.cur, clock := __src.clock, time := __src.time, wall := __src.wall,
            nextId := __src.nextId, mem := __src.mem, unitKey := __src.unitKey, scrambled := __src.scrambled, owner := __src.owner,
            poison := __src.poison, devWritten := __src.devWritten, keyGen := __src.keyGen, l1 := __src.l1, icache := __src.icache, tlb := __src.tlb,
            ctxs := __src.ctxs, nodes := __src.nodes, groups := __src.groups, warps := __src.warps, ops := [], cores := __src.cores,
            wadi := __src.wadi, faults := __src.faults, saved := __src.saved, scans := __src.scans, memStacks := __src.memStacks, dev := __src.dev :
            State }).goodCopy
        (((let __src := poison_ (sF (fr 7 false) late_);
                { agenda := __src.agenda, freeCtr := __src.freeCtr, cur := __src.cur, clock := __src.clock, time := __src.time, wall := __src.wall,
                  nextId := __src.nextId, mem := __src.mem, unitKey := __src.unitKey, scrambled := __src.scrambled, owner := __src.owner,
                  poison := __src.poison, devWritten := __src.devWritten, keyGen := __src.keyGen, l1 := __src.l1, icache := __src.icache,
                  tlb := __src.tlb, ctxs := __src.ctxs, nodes := __src.nodes, groups := __src.groups, warps := __src.warps, ops := [],
                  cores := __src.cores, wadi := __src.wadi, faults := __src.faults, saved := __src.saved, scans := __src.scans,
                  memStacks := __src.memStacks, dev := __src.dev : State }).ctx?
              (fr 7 false).ctx).getD
          default)
        (fr 7 false) =
      none
    ∧ (let __src := poison_ (sF (fr 7 false) late_);
          { agenda := __src.agenda, freeCtr := __src.freeCtr, cur := __src.cur, clock := __src.clock, time := __src.time, wall := __src.wall,
            nextId := __src.nextId, mem := __src.mem, unitKey := __src.unitKey, scrambled := __src.scrambled, owner := __src.owner,
            poison := __src.poison, devWritten := __src.devWritten, keyGen := __src.keyGen, l1 := __src.l1, icache := __src.icache, tlb := __src.tlb,
            ctxs := __src.ctxs, nodes := __src.nodes, groups := __src.groups, warps := __src.warps, ops := [], cores := __src.cores,
            wadi := __src.wadi, faults := __src.faults, saved := __src.saved, scans := __src.scans, memStacks := __src.memStacks, dev := __src.dev :
            State }).stagedBy
        (((let __src := poison_ (sF (fr 7 false) late_);
                { agenda := __src.agenda, freeCtr := __src.freeCtr, cur := __src.cur, clock := __src.clock, time := __src.time, wall := __src.wall,
                  nextId := __src.nextId, mem := __src.mem, unitKey := __src.unitKey, scrambled := __src.scrambled, owner := __src.owner,
                  poison := __src.poison, devWritten := __src.devWritten, keyGen := __src.keyGen, l1 := __src.l1, icache := __src.icache,
                  tlb := __src.tlb, ctxs := __src.ctxs, nodes := __src.nodes, groups := __src.groups, warps := __src.warps, ops := [],
                  cores := __src.cores, wadi := __src.wadi, faults := __src.faults, saved := __src.saved, scans := __src.scans,
                  memStacks := __src.memStacks, dev := __src.dev : State }).ctx?
              (fr 7 false).ctx).getD
          default)
        (fr 7 false).page =
      none
    ∧ (let __src := poison_ (sF (fr 7 false) late_);
          { agenda := __src.agenda, freeCtr := __src.freeCtr, cur := __src.cur, clock := __src.clock, time := __src.time, wall := __src.wall,
            nextId := __src.nextId, mem := __src.mem, unitKey := __src.unitKey, scrambled := __src.scrambled, owner := __src.owner,
            poison := __src.poison, devWritten := __src.devWritten, keyGen := __src.keyGen, l1 := __src.l1, icache := __src.icache, tlb := __src.tlb,
            ctxs := __src.ctxs, nodes := __src.nodes, groups := __src.groups, warps := __src.warps, ops := [], cores := __src.cores,
            wadi := __src.wadi, faults := __src.faults, saved := __src.saved, scans := __src.scans, memStacks := __src.memStacks, dev := __src.dev :
            State }).faultNodes
        (fr 7 false) =
      [] :=
  by
  refine @of_decide_eq_true _ (by letI := @decIs; infer_instance) ?_
  decide +kernel
theorem witness_FaultService_2_2_2_2_2_2c :
    List.find? (fun (x : FaultRec) => decide (x.id = (fr 7 false).id))
        (let __src := poison_ (sF (fr 7 false) late_);
          { agenda := __src.agenda, freeCtr := __src.freeCtr, cur := __src.cur, clock := __src.clock, time := __src.time, wall := __src.wall,
            nextId := __src.nextId, mem := __src.mem, unitKey := __src.unitKey, scrambled := __src.scrambled, owner := __src.owner,
            poison := __src.poison, devWritten := __src.devWritten, keyGen := __src.keyGen, l1 := __src.l1, icache := __src.icache, tlb := __src.tlb,
            ctxs := __src.ctxs, nodes := __src.nodes, groups := __src.groups, warps := __src.warps, ops := [], cores := __src.cores,
            wadi := __src.wadi, faults := __src.faults, saved := __src.saved, scans := __src.scans, memStacks := __src.memStacks, dev := __src.dev :
            State }).faults =
      some (fr 7 false)
    ∧ (fr 7 false).cause = 7
    ∧ (∃ (t : Ctx),
      (let __src := poison_ (sF (fr 7 false) late_);
            { agenda := __src.agenda, freeCtr := __src.freeCtr, cur := __src.cur, clock := __src.clock, time := __src.time, wall := __src.wall,
              nextId := __src.nextId, mem := __src.mem, unitKey := __src.unitKey, scrambled := __src.scrambled, owner := __src.owner,
              poison := __src.poison, devWritten := __src.devWritten, keyGen := __src.keyGen, l1 := __src.l1, icache := __src.icache,
              tlb := __src.tlb, ctxs := __src.ctxs, nodes := __src.nodes, groups := __src.groups, warps := __src.warps, ops := [],
              cores := __src.cores, wadi := __src.wadi, faults := __src.faults, saved := __src.saved, scans := __src.scans,
              memStacks := __src.memStacks, dev := __src.dev : State }).ctx?
          (fr 7 false).ctx =
        some t)
    ∧ (let __src := poison_ (sF (fr 7 false) late_);
          { agenda := __src.agenda, freeCtr := __src.freeCtr, cur := __src.cur, clock := __src.clock, time := __src.time, wall := __src.wall,
            nextId := __src.nextId, mem := __src.mem, unitKey := __src.unitKey, scrambled := __src.scrambled, owner := __src.owner,
            poison := __src.poison, devWritten := __src.devWritten, keyGen := __src.keyGen, l1 := __src.l1, icache := __src.icache, tlb := __src.tlb,
            ctxs := __src.ctxs, nodes := __src.nodes, groups := __src.groups, warps := __src.warps, ops := [], cores := __src.cores,
            wadi := __src.wadi, faults := __src.faults, saved := __src.saved, scans := __src.scans, memStacks := __src.memStacks, dev := __src.dev :
            State }).goodCopy
        (((let __src := poison_ (sF (fr 7 false) late_);
                { agenda := __src.agenda, freeCtr := __src.freeCtr, cur := __src.cur, clock := __src.clock, time := __src.time, wall := __src.wall,
                  nextId := __src.nextId, mem := __src.mem, unitKey := __src.unitKey, scrambled := __src.scrambled, owner := __src.owner,
                  poison := __src.poison, devWritten := __src.devWritten, keyGen := __src.keyGen, l1 := __src.l1, icache := __src.icache,
                  tlb := __src.tlb, ctxs := __src.ctxs, nodes := __src.nodes, groups := __src.groups, warps := __src.warps, ops := [],
                  cores := __src.cores, wadi := __src.wadi, faults := __src.faults, saved := __src.saved, scans := __src.scans,
                  memStacks := __src.memStacks, dev := __src.dev : State }).ctx?
              (fr 7 false).ctx).getD
          default)
        (fr 7 false) =
      none
    ∧ (let __src := poison_ (sF (fr 7 false) late_);
          { agenda := __src.agenda, freeCtr := __src.freeCtr, cur := __src.cur, clock := __src.clock, time := __src.time, wall := __src.wall,
            nextId := __src.nextId, mem := __src.mem, unitKey := __src.unitKey, scrambled := __src.scrambled, owner := __src.owner,
            poison := __src.poison, devWritten := __src.devWritten, keyGen := __src.keyGen, l1 := __src.l1, icache := __src.icache, tlb := __src.tlb,
            ctxs := __src.ctxs, nodes := __src.nodes, groups := __src.groups, warps := __src.warps, ops := [], cores := __src.cores,
            wadi := __src.wadi, faults := __src.faults, saved := __src.saved, scans := __src.scans, memStacks := __src.memStacks, dev := __src.dev :
            State }).stagedBy
        (((let __src := poison_ (sF (fr 7 false) late_);
                { agenda := __src.agenda, freeCtr := __src.freeCtr, cur := __src.cur, clock := __src.clock, time := __src.time, wall := __src.wall,
                  nextId := __src.nextId, mem := __src.mem, unitKey := __src.unitKey, scrambled := __src.scrambled, owner := __src.owner,
                  poison := __src.poison, devWritten := __src.devWritten, keyGen := __src.keyGen, l1 := __src.l1, icache := __src.icache,
                  tlb := __src.tlb, ctxs := __src.ctxs, nodes := __src.nodes, groups := __src.groups, warps := __src.warps, ops := [],
                  cores := __src.cores, wadi := __src.wadi, faults := __src.faults, saved := __src.saved, scans := __src.scans,
                  memStacks := __src.memStacks, dev := __src.dev : State }).ctx?
              (fr 7 false).ctx).getD
          default)
        (fr 7 false).page =
      none
    ∧ (let __src := poison_ (sF (fr 7 false) late_);
          { agenda := __src.agenda, freeCtr := __src.freeCtr, cur := __src.cur, clock := __src.clock, time := __src.time, wall := __src.wall,
            nextId := __src.nextId, mem := __src.mem, unitKey := __src.unitKey, scrambled := __src.scrambled, owner := __src.owner,
            poison := __src.poison, devWritten := __src.devWritten, keyGen := __src.keyGen, l1 := __src.l1, icache := __src.icache, tlb := __src.tlb,
            ctxs := __src.ctxs, nodes := __src.nodes, groups := __src.groups, warps := __src.warps, ops := [], cores := __src.cores,
            wadi := __src.wadi, faults := __src.faults, saved := __src.saved, scans := __src.scans, memStacks := __src.memStacks, dev := __src.dev :
            State }).faultNodes
        (fr 7 false) =
      [] :=
  by
  refine @of_decide_eq_true _ (by letI := @decIs; infer_instance) ?_
  decide +kernel
theorem witness_FaultService_2_2_2_2_2_1 :
    List.find? (fun (x : FaultRec) => decide (x.id = (fr 1 false).id)) (sF (fr 1 false) late_).faults = some (fr 1 false)
    ∧ (fr 1 false).cause ≠ 7 :=
  by decide +kernel

end W25

/-! ## Premises met: `Obligations.StorageErrors` -/

namespace W26

def s0 : State := at_ .nopShort
theorem witness_StorageErrors_1 :
    s0.dev.elog = (0 : DWord)
    ∧ (storage 459043 = Storage.dram ∨ 2 ^ 56 ≤ 459043 ∧ 459043 < 2 ^ 56 + 2 ^ 30) :=
  by decide +kernel
theorem witness_StorageErrors_1b :
    s0.dev.elog = (0 : DWord)
    ∧ (storage (2 ^ 56 + 1365) = Storage.dram ∨
      2 ^ 56 ≤ 2 ^ 56 + 1365 ∧
        2 ^ 56 + 1365 < 2 ^ 56 + 2 ^ 30) :=
  by decide +kernel
theorem witness_StorageErrors_1c :
    (let __src := s0;
          { agenda := __src.agenda, freeCtr := __src.freeCtr, cur := __src.cur, clock := __src.clock, time := __src.time, wall := __src.wall,
            nextId := __src.nextId, mem := __src.mem, unitKey := __src.unitKey, scrambled := __src.scrambled, owner := __src.owner,
            poison := [1793, 2457], devWritten := __src.devWritten, keyGen := __src.keyGen, l1 := __src.l1, icache := __src.icache,
            tlb := __src.tlb, ctxs := __src.ctxs, nodes := __src.nodes, groups := __src.groups, warps := __src.warps, ops := __src.ops,
            cores := __src.cores, wadi := __src.wadi, faults := __src.faults, saved := __src.saved, scans := __src.scans,
            memStacks := __src.memStacks, dev := __src.dev : State }).dev.elog =
      (0 : DWord)
    ∧ (storage 459043 = Storage.dram ∨ 2 ^ 56 ≤ 459043 ∧ 459043 < 2 ^ 56 + 2 ^ 30) :=
  by decide +kernel
theorem witness_StorageErrors_2_1 :
    storage (2 ^ 60) ≠ Storage.dram
    ∧ (¬(2 ^ 56 ≤ 2 ^ 60 ∧ 2 ^ 60 < 2 ^ 56 + 2 ^ 30)) :=
  by decide +kernel
theorem witness_StorageErrors_2_2_1 :
    (storage 459043 ≠ Storage.dram ∨ stackOf 459043 ≠ 0 ∨ EccFinding.clean = EccFinding.clean) :=
  by decide +kernel
theorem witness_StorageErrors_2_2_1b :
    (storage 459043 ≠ Storage.dram ∨ stackOf 459043 ≠ stackOf 459043 + 1 ∨ EccFinding.correctable = EccFinding.clean) :=
  by decide +kernel
theorem witness_StorageErrors_2_2_1c :
    (storage (2 ^ 60) ≠ Storage.dram ∨ stackOf (2 ^ 60) ≠ 0 ∨ EccFinding.uncorrectable = EccFinding.clean) :=
  by decide +kernel
theorem witness_StorageErrors_2_2_2_1 :
    storage 459043 = Storage.dram
    ∧ s0.dev.elog = (0 : DWord)
    ∧ swf { : MemStack } s0.memStacks = true :=
  by decide +kernel
def stk (k : MemStack) (s : State) : State := { s with memStacks := [(stackOf 0x70123, k)] }
def c64 : MemStack := { need64 := [(3, 4)] }
def c32 : MemStack := { need32 := [(3, 4)] }
theorem witness_StorageErrors_2_2_2_1b :
    storage 459043 = Storage.dram
    ∧ (stk c64 s0).dev.elog = (0 : DWord)
    ∧ swf { : MemStack } (stk c64 s0).memStacks = true :=
  by decide +kernel
theorem witness_StorageErrors_2_2_2_1c :
    storage 459043 = Storage.dram
    ∧ (stk c32 s0).dev.elog = (0 : DWord)
    ∧ swf { : MemStack } (stk c32 s0).memStacks = true :=
  by decide +kernel
def win : Nat := 128 * 1000000 * Config.ns
def rf (l : List (Nat × Nat × Nat)) (h : Bool) (t : Nat) : State := { s0 with memStacks := [(2, { need64 := [(9, 9)], refreshed := l, hot := h })], wall := t }
theorem witness_StorageErrors_2_2_2_2_1 :
    swf { : MemStack } (rf [] false 77).memStacks = true
    ∧ 2 < 12
    ∧ (∀ (v : Nat),
      Option.map (fun (r : Nat × Nat × Nat) => r.snd.snd)
            (List.find? (fun (r : Nat × Nat × Nat) => decide (r.fst = 3) && decide (r.snd.fst = 4))
              (sget { : MemStack } (rf [] false 77).memStacks 2).refreshed) =
          some v →
        v /
            ((sget { : MemStack } (rf [] false 77).memStacks 2).classOf 3 4 * 1000000 * Config.ns /
              if (sget { : MemStack } (rf [] false 77).memStacks 2).hot = true then 2 else 1) <
          (rf [] false 77).wall /
            ((sget { : MemStack } (rf [] false 77).memStacks 2).classOf 3 4 * 1000000 * Config.ns /
              if (sget { : MemStack } (rf [] false 77).memStacks 2).hot = true then 2 else 1)) :=
  by
  refine @of_decide_eq_true _ (by letI := @decAll; infer_instance) ?_
  decide +kernel
theorem witness_StorageErrors_2_2_2_2_1b :
    swf { : MemStack } (rf [(3, 4, 5), (3, 5, 6)] false (win + 5)).memStacks = true
    ∧ 2 < 12
    ∧ (∀ (v : Nat),
      Option.map (fun (r : Nat × Nat × Nat) => r.snd.snd)
            (List.find? (fun (r : Nat × Nat × Nat) => decide (r.fst = 3) && decide (r.snd.fst = 4))
              (sget { : MemStack } (rf [(3, 4, 5), (3, 5, 6)] false (win + 5)).memStacks
                  2).refreshed) =
          some v →
        v /
            ((sget { : MemStack } (rf [(3, 4, 5), (3, 5, 6)] false (win + 5)).memStacks
                        2).classOf
                    3 4 *
                  1000000 *
                Config.ns /
              if
                  (sget { : MemStack } (rf [(3, 4, 5), (3, 5, 6)] false (win + 5)).memStacks
                        2).hot =
                    true then
                2
              else 1) <
          (rf [(3, 4, 5), (3, 5, 6)] false (win + 5)).wall /
            ((sget { : MemStack } (rf [(3, 4, 5), (3, 5, 6)] false (win + 5)).memStacks
                        2).classOf
                    3 4 *
                  1000000 *
                Config.ns /
              if
                  (sget { : MemStack } (rf [(3, 4, 5), (3, 5, 6)] false (win + 5)).memStacks
                        2).hot =
                    true then
                2
              else 1)) :=
  by
  refine @of_decide_eq_true _ (by letI := @decAll; infer_instance) ?_
  decide +kernel
theorem witness_StorageErrors_2_2_2_2_1c :
    swf { : MemStack } (rf [(3, 4, 5)] false (win - 1)).memStacks = true
    ∧ 2 < 12
    ∧ Option.map (fun (r : Nat × Nat × Nat) => r.snd.snd)
        (List.find? (fun (r : Nat × Nat × Nat) => decide (r.fst = 3) && decide (r.snd.fst = 4))
          (sget { : MemStack } (rf [(3, 4, 5)] false (win - 1)).memStacks 2).refreshed) =
      some 5
    ∧ (rf [(3, 4, 5)] false (win - 1)).wall /
        ((sget { : MemStack } (rf [(3, 4, 5)] false (win - 1)).memStacks 2).classOf 3 4 *
              1000000 *
            Config.ns /
          if (sget { : MemStack } (rf [(3, 4, 5)] false (win - 1)).memStacks 2).hot = true then 2
          else 1) ≤
      5 /
        ((sget { : MemStack } (rf [(3, 4, 5)] false (win - 1)).memStacks 2).classOf 3 4 *
              1000000 *
            Config.ns /
          if (sget { : MemStack } (rf [(3, 4, 5)] false (win - 1)).memStacks 2).hot = true then 2
          else 1) :=
  by decide +kernel
theorem witness_StorageErrors_2_2_2_2_1d :
    swf { : MemStack } (rf [(3, 4, 5), (3, 5, 6)] true (win / 2)).memStacks = true
    ∧ 2 < 12
    ∧ (∀ (v : Nat),
      Option.map (fun (r : Nat × Nat × Nat) => r.snd.snd)
            (List.find? (fun (r : Nat × Nat × Nat) => decide (r.fst = 3) && decide (r.snd.fst = 4))
              (sget { : MemStack } (rf [(3, 4, 5), (3, 5, 6)] true (win / 2)).memStacks
                  2).refreshed) =
          some v →
        v /
            ((sget { : MemStack } (rf [(3, 4, 5), (3, 5, 6)] true (win / 2)).memStacks
                        2).classOf
                    3 4 *
                  1000000 *
                Config.ns /
              if
                  (sget { : MemStack } (rf [(3, 4, 5), (3, 5, 6)] true (win / 2)).memStacks
                        2).hot =
                    true then
                2
              else 1) <
          (rf [(3, 4, 5), (3, 5, 6)] true (win / 2)).wall /
            ((sget { : MemStack } (rf [(3, 4, 5), (3, 5, 6)] true (win / 2)).memStacks
                        2).classOf
                    3 4 *
                  1000000 *
                Config.ns /
              if
                  (sget { : MemStack } (rf [(3, 4, 5), (3, 5, 6)] true (win / 2)).memStacks
                        2).hot =
                    true then
                2
              else 1)) :=
  by
  refine @of_decide_eq_true _ (by letI := @decAll; infer_instance) ?_
  decide +kernel
theorem witness_StorageErrors_2_2_2_2_2_1 :
    swf { : MemStack } (rf [] false 0).memStacks = true
    ∧ 2 < 12 :=
  by decide +kernel
theorem witness_StorageErrors_2_2_2_2_2_1b :
    swf { : MemStack } (rf [] true 0).memStacks = true
    ∧ 2 < 12 :=
  by decide +kernel
theorem witness_StorageErrors_2_2_2_2_2_1c :
    swf { : MemStack } (rf [] true 0).memStacks = true
    ∧ 2 < 12 :=
  by decide +kernel
theorem witness_StorageErrors_2_2_2_2_2_2_1 :
    s0.storageOwner 3 (CoreStorage.tile 3) = none :=
  by decide +kernel
def g_ (s : State) : Group := g0 s
def n_ (s : State) : Node := (s.node? 0 256).getD default
def sT : State := shared s0
theorem witness_StorageErrors_2_2_2_2_2_2_2_1 :
    sT.storageOwner 0 (CoreStorage.tile 5) = some (g_ sT)
    ∧ (sT.node? (g_ sT).ctx (g_ sT).node = some (n_ sT) ∧
      (n_ sT).ctx = (g_ sT).ctx ∧
        (n_ sT).addr = (g_ sT).node ∧
          (n_ sT).released = [] ∧
            (n_ sT).parent = none ∧
              natOf (List.take 4 (List.drop 12 (n_ sT).record)) = 0 ∧
                sT.dev.elog = (0 : DWord) ∧
                  (∀ (k : Node), k ∈ sT.nodes → k.ctx = (g_ sT).ctx → k.parent ≠ some (g_ sT).node) ∧
                    ∀ (c : Ctx), sT.ctx? (g_ sT).ctx = some c → ∀ (g : Staged), g ∈ c.staged → g.node ≠ (g_ sT).node)
    ∧ (n_ sT).state = NodeState.running
    ∧ swf { : Scan } sT.scans = true :=
  by
  refine @of_decide_eq_true _ (by letI := @decAll; infer_instance) ?_
  decide +kernel
def safe_ (s : State) : State := { s with nodes := s.nodes.map (fun (n : Node) => { n with record := bytesOf 4 256 ++ List.replicate 252 0 }) }
theorem witness_StorageErrors_2_2_2_2_2_2_2_1b :
    (safe_ sT).storageOwner 1 (CoreStorage.scratch (5 * 8192 + 3)) = some (g_ (safe_ sT))
    ∧ ((safe_ sT).node? (g_ (safe_ sT)).ctx (g_ (safe_ sT)).node = some (n_ (safe_ sT)) ∧
      (n_ (safe_ sT)).ctx = (g_ (safe_ sT)).ctx ∧
        (n_ (safe_ sT)).addr = (g_ (safe_ sT)).node ∧
          (n_ (safe_ sT)).released = [] ∧
            (n_ (safe_ sT)).parent = none ∧
              natOf (List.take 4 (List.drop 12 (n_ (safe_ sT)).record)) = 0 ∧
                (safe_ sT).dev.elog = (0 : DWord) ∧
                  (∀ (k : Node), k ∈ (safe_ sT).nodes → k.ctx = (g_ (safe_ sT)).ctx → k.parent ≠ some (g_ (safe_ sT)).node) ∧
                    ∀ (c : Ctx), (safe_ sT).ctx? (g_ (safe_ sT)).ctx = some c → ∀ (g : Staged), g ∈ c.staged → g.node ≠ (g_ (safe_ sT)).node)
    ∧ (n_ (safe_ sT)).state = NodeState.running
    ∧ swf { : Scan } (safe_ sT).scans = true :=
  by
  refine @of_decide_eq_true _ (by letI := @decAll; infer_instance) ?_
  decide +kernel
theorem witness_StorageErrors_2_2_2_2_2_2_2_2_1 :
    List.find?
        (fun (w : Warp) =>
          decide (w.wid / 48 = 0) && decide (w.wid % 48 / 12 = 0) && decide (w.run ≤ 3) &&
            decide (3 < w.run + 32 * (Option.map Group.a (sT.group? w.gid)).getD 0))
        sT.warps =
      some (w0 sT)
    ∧ sT.group? (w0 sT).gid = some (g_ sT) :=
  by decide +kernel
theorem witness_StorageErrors_2_2_2_2_2_2_2_2_2_2_2_1 :
    (sT.places = false ∨ (sT.scan 8).engInService = false ∨ 0 < sT.attnRunning 8 ∨ 8 ≤ 8) :=
  by decide +kernel
-- scrub check
def rdy (s : State) := { s with dev := { s.dev with boot := .ready } }
def listAt (b : Nat) (s : State) : State := bytesAt 0x80020 (bytesOf 8 0x100800 ++ bytesOf 4 1 ++ bytesOf 4 6) (bytesAt 0x80800 (bytesOf 8 b) s)
def area (s : State) : State := let t := tabled [(2, 0, 7), (3, 0, 12), (16, 0, 8)] s
  rdy { t with ctxs := t.ctxs.map (fun (c : Ctx) => { c with nodeBase := 0x100000, nodeSize := 0x10000 }) }
def c_ (s : State) : Ctx := (s.ctx? 0).getD default
def blk_ (fmt u : Nat) (good : Bool) : List Byte :=
  let z := if fmt = 0 then 256 else if fmt = 1 then 128 else 72
  let tail := (List.range (16 * z)).map (fun i => BitVec.ofNat 8 (i * 7 + 3))
  let crc := crc32c ((bytesOf 8 0x3F8000003F800000) ++ tail.take (u * z))
  bytesOf 4 (fmt + 65536 * u) ++ bytesOf 4 (if good then crc else crc + 1) ++ bytesOf 8 0x3F8000003F800000 ++ List.replicate 112 1 ++ tail
def sK (die fmt u : Nat) (good : Bool) : State := listAt 0x20000 (bytesAt 0x70000 (blk_ fmt u good) (area s0))
def sKs : State := listAt 0x20000 (area s0)
theorem witness_StorageErrors_2_2_2_2_2_2_2_2_2_2_2_2e :
    sKs.ctx? 0 = some (c_ sKs)
    ∧ (c_ sKs).num = 0
    ∧ sKs.places = true
    ∧ sKs.enginesIdle (((sKs.homeDie 0 131072).getD 9 + 1) % 8) = true
    ∧ sKs.walkerNat 0 ((c_ sKs).nodeBase + 32) 8 = (1050624, sKs)
    ∧ sKs.walkerNat 0 ((c_ sKs).nodeBase + 40) 4 = (1, sKs)
    ∧ 1050624 ≠ 0
    ∧ 1050624 % 8 = 0
    ∧ 0 < 1
    ∧ 1 ≤ 2 ^ 20
    ∧ swf 0 (c_ sKs).scrubAt = true
    ∧ sKs.walkerNat 0
        (1050624 % 2 ^ 52 +
          8 * (sget 0 (c_ sKs).scrubAt (((sKs.homeDie 0 131072).getD 9 + 1) % 8) % 1))
        8 =
      (131072, sKs) :=
  by decide +kernel

end W26

/-! ## Premises met: `Obligations.ScanRotation` -/

namespace W27

def s0 : State := at_ .nopShort
def rdy (s : State) := { s with dev := { s.dev with boot := .ready } }
theorem witness_ScanRotation_1 :
    (¬(0 < 8 ∧ s0.dev.boot = BootPhase.ready ∧ s0.places = true ∧ (s0.scan 0).phase = ScanPhase.idle)) :=
  by decide +kernel
theorem witness_ScanRotation_1b :
    (¬(8 < 8 ∧ (rdy s0).dev.boot = BootPhase.ready ∧ (rdy s0).places = true ∧ ((rdy s0).scan 8).phase = ScanPhase.idle)) :=
  by decide +kernel
def sc (c : Scan) (s : State) : State := { s with scans := [(0, c)] }
def nx1 : State := sc { slot := 5, next := some 7 } (rdy s0)
theorem witness_ScanRotation_2_1 :
    (0 < 8 ∧ nx1.dev.boot = BootPhase.ready ∧ nx1.places = true ∧ (nx1.scan 0).phase = ScanPhase.idle)
    ∧ (swf { : Scan } nx1.scans = true ∧ swf { : Core } nx1.cores = true)
    ∧ (nx1.scan 0).next = some 7
    ∧ (if 7 = 64 then (nx1.scan 0).engInService = true
    else (nx1.core (64 * 0 + 7)).present = true ∧ (nx1.core (64 * 0 + 7)).inService = true) :=
  by decide +kernel
theorem witness_ScanRotation_2_1b :
    (0 < 8 ∧
      (sc { slot := 5, next := some 64 : Scan } (rdy s0)).dev.boot = BootPhase.ready ∧
        (sc { slot := 5, next := some 64 : Scan } (rdy s0)).places = true ∧
          ((sc { slot := 5, next := some 64 : Scan } (rdy s0)).scan 0).phase = ScanPhase.idle)
    ∧ (swf { : Scan } (sc { slot := 5, next := some 64 : Scan } (rdy s0)).scans = true ∧
      swf { : Core } (sc { slot := 5, next := some 64 : Scan } (rdy s0)).cores = true)
    ∧ ((sc { slot := 5, next := some 64 : Scan } (rdy s0)).scan 0).next = some 64
    ∧ (if 64 = 64 then ((sc { slot := 5, next := some 64 : Scan } (rdy s0)).scan 0).engInService = true
    else
      ((sc { slot := 5, next := some 64 : Scan } (rdy s0)).core (64 * 0 + 64)).present = true ∧
        ((sc { slot := 5, next := some 64 : Scan } (rdy s0)).core (64 * 0 + 64)).inService = true) :=
  by decide +kernel
def skip5 (s : State) : State := { s with cores := [(5, { inService := false }), (6, { present := false })] }
theorem witness_ScanRotation_2_2_1 :
    (0 < 8 ∧
      (skip5 (sc { slot := 5 : Scan } (rdy s0))).dev.boot = BootPhase.ready ∧
        (skip5 (sc { slot := 5 : Scan } (rdy s0))).places = true ∧
          ((skip5 (sc { slot := 5 : Scan } (rdy s0))).scan 0).phase = ScanPhase.idle)
    ∧ (swf { : Scan } (skip5 (sc { slot := 5 : Scan } (rdy s0))).scans = true ∧
      swf { : Core } (skip5 (sc { slot := 5 : Scan } (rdy s0))).cores = true)
    ∧ ((skip5 (sc { slot := 5 : Scan } (rdy s0))).scan 0).next = none
    ∧ 2 < 65
    ∧ (if (((skip5 (sc { slot := 5 : Scan } (rdy s0))).scan 0).slot + 2) % 65 = 64 then
      ((skip5 (sc { slot := 5 : Scan } (rdy s0))).scan 0).engInService = true
    else
      ((skip5 (sc { slot := 5 : Scan } (rdy s0))).core
              (64 * 0 +
                (((skip5 (sc { slot := 5 : Scan } (rdy s0))).scan 0).slot + 2) % 65)).present =
          true ∧
        ((skip5 (sc { slot := 5 : Scan } (rdy s0))).core
              (64 * 0 +
                (((skip5 (sc { slot := 5 : Scan } (rdy s0))).scan 0).slot + 2) % 65)).inService =
          true)
    ∧ (∀ (j : Nat),
      j < 2 →
        ¬if (((skip5 (sc { slot := 5 : Scan } (rdy s0))).scan 0).slot + j) % 65 = 64 then
            ((skip5 (sc { slot := 5 : Scan } (rdy s0))).scan 0).engInService = true
          else
            ((skip5 (sc { slot := 5 : Scan } (rdy s0))).core
                    (64 * 0 + (((skip5 (sc { slot := 5 : Scan } (rdy s0))).scan 0).slot + j) % 65)).present =
                true ∧
              ((skip5 (sc { slot := 5 : Scan } (rdy s0))).core
                    (64 * 0 +
                      (((skip5 (sc { slot := 5 : Scan } (rdy s0))).scan 0).slot + j) % 65)).inService =
                true) :=
  by decide +kernel
theorem witness_ScanRotation_2_2_1b :
    (0 < 8 ∧
      (sc { slot := 64 : Scan } (rdy s0)).dev.boot = BootPhase.ready ∧
        (sc { slot := 64 : Scan } (rdy s0)).places = true ∧
          ((sc { slot := 64 : Scan } (rdy s0)).scan 0).phase = ScanPhase.idle)
    ∧ (swf { : Scan } (sc { slot := 64 : Scan } (rdy s0)).scans = true ∧ swf { : Core } (sc { slot := 64 : Scan } (rdy s0)).cores = true)
    ∧ ((sc { slot := 64 : Scan } (rdy s0)).scan 0).next = none
    ∧ 0 < 65
    ∧ (if (((sc { slot := 64 : Scan } (rdy s0)).scan 0).slot + 0) % 65 = 64 then
      ((sc { slot := 64 : Scan } (rdy s0)).scan 0).engInService = true
    else
      ((sc { slot := 64 : Scan } (rdy s0)).core
              (64 * 0 + (((sc { slot := 64 : Scan } (rdy s0)).scan 0).slot + 0) % 65)).present =
          true ∧
        ((sc { slot := 64 : Scan } (rdy s0)).core
              (64 * 0 + (((sc { slot := 64 : Scan } (rdy s0)).scan 0).slot + 0) % 65)).inService =
          true)
    ∧ (∀ (j : Nat),
      j < 0 →
        ¬if (((sc { slot := 64 : Scan } (rdy s0)).scan 0).slot + j) % 65 = 64 then
            ((sc { slot := 64 : Scan } (rdy s0)).scan 0).engInService = true
          else
            ((sc { slot := 64 : Scan } (rdy s0)).core
                    (64 * 0 + (((sc { slot := 64 : Scan } (rdy s0)).scan 0).slot + j) % 65)).present =
                true ∧
              ((sc { slot := 64 : Scan } (rdy s0)).core
                    (64 * 0 + (((sc { slot := 64 : Scan } (rdy s0)).scan 0).slot + j) % 65)).inService =
                true) :=
  by decide +kernel
theorem witness_ScanRotation_2_2_1c :
    (0 < 8 ∧
      (sc { slot := 64, engInService := false : Scan } (rdy s0)).dev.boot = BootPhase.ready ∧
        (sc { slot := 64, engInService := false : Scan } (rdy s0)).places = true ∧
          ((sc { slot := 64, engInService := false : Scan } (rdy s0)).scan 0).phase = ScanPhase.idle)
    ∧ (swf { : Scan } (sc { slot := 64, engInService := false : Scan } (rdy s0)).scans = true ∧
      swf { : Core } (sc { slot := 64, engInService := false : Scan } (rdy s0)).cores = true)
    ∧ ((sc { slot := 64, engInService := false : Scan } (rdy s0)).scan 0).next = none
    ∧ 1 < 65
    ∧ (if (((sc { slot := 64, engInService := false : Scan } (rdy s0)).scan 0).slot + 1) % 65 = 64 then
      ((sc { slot := 64, engInService := false : Scan } (rdy s0)).scan 0).engInService = true
    else
      ((sc { slot := 64, engInService := false : Scan } (rdy s0)).core
              (64 * 0 +
                (((sc { slot := 64, engInService := false : Scan } (rdy s0)).scan 0).slot + 1) % 65)).present =
          true ∧
        ((sc { slot := 64, engInService := false : Scan } (rdy s0)).core
              (64 * 0 +
                (((sc { slot := 64, engInService := false : Scan } (rdy s0)).scan 0).slot + 1) % 65)).inService =
          true)
    ∧ (∀ (j : Nat),
      j < 1 →
        ¬if (((sc { slot := 64, engInService := false : Scan } (rdy s0)).scan 0).slot + j) % 65 = 64 then
            ((sc { slot := 64, engInService := false : Scan } (rdy s0)).scan 0).engInService = true
          else
            ((sc { slot := 64, engInService := false : Scan } (rdy s0)).core
                    (64 * 0 +
                      (((sc { slot := 64, engInService := false : Scan } (rdy s0)).scan 0).slot + j) % 65)).present =
                true ∧
              ((sc { slot := 64, engInService := false : Scan } (rdy s0)).core
                    (64 * 0 +
                      (((sc { slot := 64, engInService := false : Scan } (rdy s0)).scan 0).slot + j) % 65)).inService =
                true) :=
  by decide +kernel
theorem witness_ScanRotation_2_2_2_1 :
    ((sc { phase := ScanPhase.draining 3 : Scan } (rdy s0)).scan 0).phase = ScanPhase.draining 3
    ∧ (swf { : Scan } (sc { phase := ScanPhase.draining 3 : Scan } (rdy s0)).scans = true ∧
      swf { : Core } (sc { phase := ScanPhase.draining 3 : Scan } (rdy s0)).cores = true) :=
  by decide +kernel
theorem witness_ScanRotation_2_2_2_1b :
    ((sc { slot := 9, phase := ScanPhase.draining 3 : Scan } (rdy s0)).scan 0).phase = ScanPhase.draining 3
    ∧ (swf { : Scan } (sc { slot := 9, phase := ScanPhase.draining 3 : Scan } (rdy s0)).scans = true ∧
      swf { : Core } (sc { slot := 9, phase := ScanPhase.draining 3 : Scan } (rdy s0)).cores = true) :=
  by decide +kernel
theorem witness_ScanRotation_2_2_2_1c :
    ((sc { slot := 64, phase := ScanPhase.draining 3 : Scan } (rdy s0)).scan 0).phase = ScanPhase.draining 3
    ∧ (swf { : Scan } (sc { slot := 64, phase := ScanPhase.draining 3 : Scan } (rdy s0)).scans = true ∧
      swf { : Core } (sc { slot := 64, phase := ScanPhase.draining 3 : Scan } (rdy s0)).cores = true) :=
  by decide +kernel
theorem witness_ScanRotation_2_2_2_2_1 :
    0 ≠ 64 :=
  by decide +kernel
theorem witness_ScanRotation_2_2_2_2_1b :
    1 ≠ 64 :=
  by decide +kernel
theorem witness_ScanRotation_2_2_2_2_2_1 :
    (∀ (a b : Nat), (s0.scan 0).phase ≠ ScanPhase.testing a b) :=
  fun _ _ h => ScanPhase.noConfusion h
def tst (k : Nat) (s : State) : State := sc { slot := k, phase := .testing 3 90 } (rdy s)
def at_t (t : Nat) (s : State) : State := { s with time := t }
theorem witness_ScanRotation_2_2_2_2_2_2_1 :
    ((tst 9 s0).scan 0).phase = ScanPhase.testing 3 90
    ∧ (swf { : Scan } (tst 9 s0).scans = true ∧ swf { : Core } (tst 9 s0).cores = true)
    ∧ (tst 9 s0).time < 90 :=
  by decide +kernel
theorem witness_ScanRotation_2_2_2_2_2_2_1b :
    ((at_t 90 (tst 9 s0)).scan 0).phase = ScanPhase.testing 3 90
    ∧ (swf { : Scan } (at_t 90 (tst 9 s0)).scans = true ∧ swf { : Core } (at_t 90 (tst 9 s0)).cores = true)
    ∧ 90 ≤ (at_t 90 (tst 9 s0)).time :=
  by decide +kernel
theorem witness_ScanRotation_2_2_2_2_2_2_1c :
    ((at_t 90 (tst 64 s0)).scan 0).phase = ScanPhase.testing 3 90
    ∧ (swf { : Scan } (at_t 90 (tst 64 s0)).scans = true ∧ swf { : Core } (at_t 90 (tst 64 s0)).cores = true)
    ∧ 90 ≤ (at_t 90 (tst 64 s0)).time :=
  by decide +kernel
def worked (k l : Nat) (s : State) : State := { s with nodes := s.nodes.map (fun (n : Node) => { n with works := [{ slot := k, first := 0, last := some l }] }), cores := [(9, { passedAt := 20 })] }
theorem witness_ScanRotation_2_2_2_2_2_2_1d :
    ((at_t 90 (tst 9 (worked 9 30 s0))).scan 0).phase = ScanPhase.testing 3 90
    ∧ (swf { : Scan } (at_t 90 (tst 9 (worked 9 30 s0))).scans = true ∧
      swf { : Core } (at_t 90 (tst 9 (worked 9 30 s0))).cores = true)
    ∧ 90 ≤ (at_t 90 (tst 9 (worked 9 30 s0))).time
    ∧ (at_t 90 (tst 9 (worked 9 30 s0))).dev.elog = (0 : DWord)
    ∧ (at_t 90 (tst 9 (worked 9 30 s0))).nodes =
      [] ++ (worked 9 30 s0).nodes.headD default :: (worked 9 30 s0).nodes.tail
    ∧ ((((worked 9 30 s0).nodes.headD default).state = NodeState.running ∨
        ((worked 9 30 s0).nodes.headD default).state = NodeState.complete) ∧
      ∃ (w : Work),
        w ∈ ((worked 9 30 s0).nodes.headD default).works ∧
          (w.slot =
              if ((at_t 90 (tst 9 (worked 9 30 s0))).scan 0).slot = 64 then 512 + 0
              else 64 * 0 + ((at_t 90 (tst 9 (worked 9 30 s0))).scan 0).slot) ∧
            ∀ (v : Nat),
              w.last = some v →
                (if ((at_t 90 (tst 9 (worked 9 30 s0))).scan 0).slot = 64 then
                    ((at_t 90 (tst 9 (worked 9 30 s0))).scan 0).engPassedAt
                  else
                    ((at_t 90 (tst 9 (worked 9 30 s0))).core
                        (64 * 0 +
                          ((at_t 90 (tst 9 (worked 9 30 s0))).scan 0).slot)).passedAt) ≤
                  v)
    ∧ (∀ (m : Node),
      m ∈ [] ++ (worked 9 30 s0).nodes.tail →
        ¬((m.state = NodeState.running ∨ m.state = NodeState.complete) ∧
            ∃ (w : Work),
              w ∈ m.works ∧
                (w.slot =
                    if ((at_t 90 (tst 9 (worked 9 30 s0))).scan 0).slot = 64 then
                      512 + 0
                    else 64 * 0 + ((at_t 90 (tst 9 (worked 9 30 s0))).scan 0).slot) ∧
                  ∀ (v : Nat),
                    w.last = some v →
                      (if ((at_t 90 (tst 9 (worked 9 30 s0))).scan 0).slot = 64 then
                          ((at_t 90 (tst 9 (worked 9 30 s0))).scan 0).engPassedAt
                        else
                          ((at_t 90 (tst 9 (worked 9 30 s0))).core
                              (64 * 0 +
                                ((at_t 90 (tst 9 (worked 9 30 s0))).scan 0).slot)).passedAt) ≤
                        v))
    ∧ ((at_t 90 (tst 9 (worked 9 30 s0))).node? ((worked 9 30 s0).nodes.headD default).ctx
          ((worked 9 30 s0).nodes.headD default).addr =
        some ((worked 9 30 s0).nodes.headD default) ∧
      ((worked 9 30 s0).nodes.headD default).ctx = ((worked 9 30 s0).nodes.headD default).ctx ∧
        ((worked 9 30 s0).nodes.headD default).addr = ((worked 9 30 s0).nodes.headD default).addr ∧
          ((worked 9 30 s0).nodes.headD default).released = [] ∧
            ((worked 9 30 s0).nodes.headD default).parent = none ∧
              natOf (List.take 4 (List.drop 12 ((worked 9 30 s0).nodes.headD default).record)) = 0 ∧
                (∀ (k : Node),
                    k ∈ (at_t 90 (tst 9 (worked 9 30 s0))).nodes →
                      k.ctx = ((worked 9 30 s0).nodes.headD default).ctx →
                        k.parent ≠ some ((worked 9 30 s0).nodes.headD default).addr) ∧
                  ∀ (c : Ctx),
                    (at_t 90 (tst 9 (worked 9 30 s0))).ctx?
                          ((worked 9 30 s0).nodes.headD default).ctx =
                        some c →
                      ∀ (g : Staged), g ∈ c.staged → g.node ≠ ((worked 9 30 s0).nodes.headD default).addr) :=
  by
  refine @of_decide_eq_true _ (by letI := @decAll; infer_instance) ?_
  decide +kernel
theorem witness_ScanRotation_2_2_2_2_2_2_1e :
    ((at_t 90 (tst 9 (worked 9 10 s0))).scan 0).phase = ScanPhase.testing 3 90
    ∧ (swf { : Scan } (at_t 90 (tst 9 (worked 9 10 s0))).scans = true ∧
      swf { : Core } (at_t 90 (tst 9 (worked 9 10 s0))).cores = true)
    ∧ 90 ≤ (at_t 90 (tst 9 (worked 9 10 s0))).time
    ∧ (at_t 90 (tst 9 (worked 9 10 s0))).dev.elog = (0 : DWord)
    ∧ (∀ (n : Node),
      n ∈ (at_t 90 (tst 9 (worked 9 10 s0))).nodes →
        ¬((n.state = NodeState.running ∨ n.state = NodeState.complete) ∧
            ∃ (w : Work),
              w ∈ n.works ∧
                (w.slot =
                    if ((at_t 90 (tst 9 (worked 9 10 s0))).scan 0).slot = 64 then
                      512 + 0
                    else 64 * 0 + ((at_t 90 (tst 9 (worked 9 10 s0))).scan 0).slot) ∧
                  ∀ (v : Nat),
                    w.last = some v →
                      (if ((at_t 90 (tst 9 (worked 9 10 s0))).scan 0).slot = 64 then
                          ((at_t 90 (tst 9 (worked 9 10 s0))).scan 0).engPassedAt
                        else
                          ((at_t 90 (tst 9 (worked 9 10 s0))).core
                              (64 * 0 +
                                ((at_t 90 (tst 9 (worked 9 10 s0))).scan 0).slot)).passedAt) ≤
                        v)) :=
  by
  refine @of_decide_eq_true _ (by letI := @decAll; infer_instance) ?_
  decide +kernel
def safe_ (s : State) : State := { s with nodes := s.nodes.map (fun (n : Node) => { n with record := bytesOf 4 256 ++ List.replicate 252 0 }) }
theorem witness_ScanRotation_2_2_2_2_2_2_1f :
    ((at_t 90 (tst 64 (worked 512 30 (safe_ s0)))).scan 0).phase = ScanPhase.testing 3 90
    ∧ (swf { : Scan } (at_t 90 (tst 64 (worked 512 30 (safe_ s0)))).scans = true ∧
      swf { : Core } (at_t 90 (tst 64 (worked 512 30 (safe_ s0)))).cores = true)
    ∧ 90 ≤ (at_t 90 (tst 64 (worked 512 30 (safe_ s0)))).time
    ∧ (at_t 90 (tst 64 (worked 512 30 (safe_ s0)))).dev.elog = (0 : DWord)
    ∧ (at_t 90 (tst 64 (worked 512 30 (safe_ s0)))).nodes =
      [] ++ (worked 512 30 (safe_ s0)).nodes.headD default :: (worked 512 30 (safe_ s0)).nodes.tail
    ∧ ((((worked 512 30 (safe_ s0)).nodes.headD default).state = NodeState.running ∨
        ((worked 512 30 (safe_ s0)).nodes.headD default).state = NodeState.complete) ∧
      ∃ (w : Work),
        w ∈ ((worked 512 30 (safe_ s0)).nodes.headD default).works ∧
          (w.slot =
              if ((at_t 90 (tst 64 (worked 512 30 (safe_ s0)))).scan 0).slot = 64 then
                512 + 0
              else 64 * 0 + ((at_t 90 (tst 64 (worked 512 30 (safe_ s0)))).scan 0).slot) ∧
            ∀ (v : Nat),
              w.last = some v →
                (if ((at_t 90 (tst 64 (worked 512 30 (safe_ s0)))).scan 0).slot = 64 then
                    ((at_t 90 (tst 64 (worked 512 30 (safe_ s0)))).scan 0).engPassedAt
                  else
                    ((at_t 90 (tst 64 (worked 512 30 (safe_ s0)))).core
                        (64 * 0 +
                          ((at_t 90 (tst 64 (worked 512 30 (safe_ s0)))).scan 0).slot)).passedAt) ≤
                  v)
    ∧ (∀ (m : Node),
      m ∈ [] ++ (worked 512 30 (safe_ s0)).nodes.tail →
        ¬((m.state = NodeState.running ∨ m.state = NodeState.complete) ∧
            ∃ (w : Work),
              w ∈ m.works ∧
                (w.slot =
                    if ((at_t 90 (tst 64 (worked 512 30 (safe_ s0)))).scan 0).slot = 64 then
                      512 + 0
                    else
                      64 * 0 + ((at_t 90 (tst 64 (worked 512 30 (safe_ s0)))).scan 0).slot) ∧
                  ∀ (v : Nat),
                    w.last = some v →
                      (if ((at_t 90 (tst 64 (worked 512 30 (safe_ s0)))).scan 0).slot = 64 then
                          ((at_t 90 (tst 64 (worked 512 30 (safe_ s0)))).scan 0).engPassedAt
                        else
                          ((at_t 90 (tst 64 (worked 512 30 (safe_ s0)))).core
                              (64 * 0 +
                                ((at_t 90 (tst 64 (worked 512 30 (safe_ s0)))).scan 0).slot)).passedAt) ≤
                        v))
    ∧ ((at_t 90 (tst 64 (worked 512 30 (safe_ s0)))).node?
          ((worked 512 30 (safe_ s0)).nodes.headD default).ctx ((worked 512 30 (safe_ s0)).nodes.headD default).addr =
        some ((worked 512 30 (safe_ s0)).nodes.headD default) ∧
      ((worked 512 30 (safe_ s0)).nodes.headD default).ctx = ((worked 512 30 (safe_ s0)).nodes.headD default).ctx ∧
        ((worked 512 30 (safe_ s0)).nodes.headD default).addr =
            ((worked 512 30 (safe_ s0)).nodes.headD default).addr ∧
          ((worked 512 30 (safe_ s0)).nodes.headD default).released = [] ∧
            ((worked 512 30 (safe_ s0)).nodes.headD default).parent = none ∧
              natOf (List.take 4 (List.drop 12 ((worked 512 30 (safe_ s0)).nodes.headD default).record)) = 0 ∧
                (∀ (k : Node),
                    k ∈ (at_t 90 (tst 64 (worked 512 30 (safe_ s0)))).nodes →
                      k.ctx = ((worked 512 30 (safe_ s0)).nodes.headD default).ctx →
                        k.parent ≠ some ((worked 512 30 (safe_ s0)).nodes.headD default).addr) ∧
                  ∀ (c : Ctx),
                    (at_t 90 (tst 64 (worked 512 30 (safe_ s0)))).ctx?
                          ((worked 512 30 (safe_ s0)).nodes.headD default).ctx =
                        some c →
                      ∀ (g : Staged), g ∈ c.staged → g.node ≠ ((worked 512 30 (safe_ s0)).nodes.headD default).addr) :=
  by
  refine @of_decide_eq_true _ (by letI := @decAll; infer_instance) ?_
  decide +kernel
theorem witness_ScanRotation_2_2_2_2_2_2_2 :
    ((at_t 5 (sc { phase := ScanPhase.draining 3 : Scan } (rdy s0))).scan 0).phase = ScanPhase.draining 3
    ∧ (swf { : Scan } (at_t 5 (sc { phase := ScanPhase.draining 3 : Scan } (rdy s0))).scans = true ∧
      swf { : Core } (at_t 5 (sc { phase := ScanPhase.draining 3 : Scan } (rdy s0))).cores = true)
    ∧ ((at_t 5 (sc { phase := ScanPhase.draining 3 : Scan } (rdy s0))).time < 3 + 2000000 * Config.ns ∨
      (at_t 5 (sc { phase := ScanPhase.draining 3 : Scan } (rdy s0))).slotEmpty 0
          ((at_t 5 (sc { phase := ScanPhase.draining 3 : Scan } (rdy s0))).scan 0).slot =
        true) :=
  by decide +kernel
theorem witness_ScanRotation_2_2_2_2_2_2_2b :
    ((at_t (3 + 2000000 * Config.ns) (sc { phase := ScanPhase.draining 3 : Scan } (rdy s0))).scan 0).phase =
      ScanPhase.draining 3
    ∧ (swf { : Scan } (at_t (3 + 2000000 * Config.ns) (sc { phase := ScanPhase.draining 3 : Scan } (rdy s0))).scans = true ∧
      swf { : Core } (at_t (3 + 2000000 * Config.ns) (sc { phase := ScanPhase.draining 3 : Scan } (rdy s0))).cores = true)
    ∧ 3 + 2000000 * Config.ns ≤
      (at_t (3 + 2000000 * Config.ns) (sc { phase := ScanPhase.draining 3 : Scan } (rdy s0))).time
    ∧ (at_t (3 + 2000000 * Config.ns) (sc { phase := ScanPhase.draining 3 : Scan } (rdy s0))).slotEmpty 0
        ((at_t (3 + 2000000 * Config.ns) (sc { phase := ScanPhase.draining 3 : Scan } (rdy s0))).scan 0).slot =
      false
    ∧ (at_t (3 + 2000000 * Config.ns) (sc { phase := ScanPhase.draining 3 : Scan } (rdy s0))).dev.elog = (0 : DWord) :=
  by decide +kernel

end W27

/-! ## Premises met: `Obligations.HostAccess` -/

namespace W28

def up (s : State) : State := { s with dev := { s.dev with opstate := 0, boot := .ready } }
def s0 : State := up (at_ .nopShort)
def off_ : State := { s0 with dev := { s0.dev with opstate := 11 } }
theorem witness_HostAccess_1 :
    (¬(2 < 2 ∧ s0.dev.opstate ≠ 11)) :=
  by decide +kernel
theorem witness_HostAccess_1b :
    (¬(0 < 2 ∧ off_.dev.opstate ≠ 11)) :=
  by decide +kernel
theorem witness_HostAccess_2_2_1 :
    (1 < 2 ∧ s0.dev.opstate ≠ 11)
    ∧ s0.mem.wf = true
    ∧ 4096 + [(1 : Byte), (2 : Byte), (3 : Byte)].length ≤ 2 ^ 48 :=
  by decide +kernel
def area (s : State) : State := let t := tabled [(2, 0, 7), (3, 0, 12), (16, 0, 8)] s
  { t with ctxs := t.ctxs.map (fun (c : Ctx) => { c with nodeBase := 0x100000, nodeSize := 0x10000, images := [{ addr := 0x70000, bytes := [1, 2, 3, 4] }], shadows := [{ addr := 0x4000, bytes := [1, 2, 3, 4] }] }) }
def sM : State := area s0
def c_ (s : State) : Ctx := (s.ctx? 0).getD default
theorem witness_HostAccess_2_2_2_1 :
    (0 < 2 ∧ sM.dev.opstate ≠ 11)
    ∧ sM.ctx? (c_ sM).num = some (c_ sM)
    ∧ sM.walkerByte? (c_ sM).num (BitVec.toNat (131074 : VAddr)) = some (458754, 0)
    ∧ sM.tidy :=
  by
  refine @of_decide_eq_true _ (by letI := @decTidy; infer_instance) ?_
  decide +kernel
theorem witness_HostAccess_2_2_2_2_1 :
    (0 < 2 ∧ sM.dev.opstate ≠ 11)
    ∧ sM.ctx? (c_ sM).num = some (c_ sM)
    ∧ sM.walkerByte? (c_ sM).num (BitVec.toNat (327682 : VAddr)) = none :=
  by decide +kernel
theorem witness_HostAccess_2_2_2_2_2_1 :
    (0 < 2 ∧ sM.dev.opstate ≠ 11)
    ∧ sM.ctx? (c_ sM).num = some (c_ sM)
    ∧ (c_ sM).requestIn (BitVec.toNat (131074 : VAddr)) ([(8 : Byte), (7 : Byte)].length + 1) = false
    ∧ (c_ sM).requestIn (BitVec.toNat ((131074 : VAddr) + (1 : VAddr))) [(8 : Byte), (7 : Byte)].length = false :=
  by decide +kernel
theorem witness_HostAccess_2_2_2_2_2_1b :
    (0 < 2 ∧ sM.dev.opstate ≠ 11)
    ∧ sM.ctx? (c_ sM).num = some (c_ sM)
    ∧ (c_ sM).requestIn (BitVec.toNat (196607 : VAddr)) ([(8 : Byte), (7 : Byte)].length + 1) = false
    ∧ (c_ sM).requestIn (BitVec.toNat ((196607 : VAddr) + (1 : VAddr))) [(8 : Byte), (7 : Byte)].length = false :=
  by decide +kernel
def page_ : List Byte := List.replicate 65536 0
theorem witness_HostAccess_2_2_2_2_2_2_1 :
    (0 < 2 ∧
      (let __src := sM;
            { agenda := __src.agenda, freeCtr := __src.freeCtr, cur := __src.cur, clock := __src.clock, time := __src.time, wall := __src.wall,
              nextId := __src.nextId, mem := __src.mem, unitKey := __src.unitKey, scrambled := __src.scrambled, owner := __src.owner,
              poison := __src.poison, devWritten := [7, 9], keyGen := __src.keyGen, l1 := __src.l1, icache := __src.icache,
              tlb := __src.tlb, ctxs := __src.ctxs, nodes := __src.nodes, groups := __src.groups, warps := __src.warps, ops := __src.ops,
              cores := __src.cores, wadi := __src.wadi, faults := __src.faults, saved := __src.saved, scans := __src.scans,
              memStacks := __src.memStacks, dev := __src.dev : State }).dev.opstate ≠
        11)
    ∧ (let __src := sM;
          { agenda := __src.agenda, freeCtr := __src.freeCtr, cur := __src.cur, clock := __src.clock, time := __src.time, wall := __src.wall,
            nextId := __src.nextId, mem := __src.mem, unitKey := __src.unitKey, scrambled := __src.scrambled, owner := __src.owner,
            poison := __src.poison, devWritten := [7, 9], keyGen := __src.keyGen, l1 := __src.l1, icache := __src.icache,
            tlb := __src.tlb, ctxs := __src.ctxs, nodes := __src.nodes, groups := __src.groups, warps := __src.warps, ops := __src.ops,
            cores := __src.cores, wadi := __src.wadi, faults := __src.faults, saved := __src.saved, scans := __src.scans,
            memStacks := __src.memStacks, dev := __src.dev : State }).ctx?
        (c_ sM).num =
      some (c_ sM)
    ∧ (c_ sM).requestIn (BitVec.toNat (131072 : VAddr)) 65536 = false
    ∧ page_.length = 65536
    ∧ BitVec.toNat (131072 : VAddr) % 65536 = 0 :=
  by decide +kernel
theorem witness_HostAccess_2_2_2_2_2_2_2_1 :
    (0 < 2 ∧ sM.dev.opstate ≠ 11)
    ∧ sM.ctx? (c_ sM).num = some (c_ sM)
    ∧ BitVec.toNat (1048576 : VAddr) = (c_ sM).nodeBase :=
  by decide +kernel
theorem witness_HostAccess_2_2_2_2_2_2_2_1b :
    (0 < 2 ∧ sM.dev.opstate ≠ 11)
    ∧ sM.ctx? (c_ sM).num = some (c_ sM)
    ∧ BitVec.toNat (1048576 : VAddr) = (c_ sM).nodeBase :=
  by decide +kernel
theorem witness_HostAccess_2_2_2_2_2_2_2_1c :
    (0 < 2 ∧ sM.dev.opstate ≠ 11)
    ∧ sM.ctx? (c_ sM).num = some (c_ sM)
    ∧ BitVec.toNat (1048576 : VAddr) = (c_ sM).nodeBase :=
  by decide +kernel
theorem witness_HostAccess_2_2_2_2_2_2_2_1d :
    (0 < 2 ∧ sM.dev.opstate ≠ 11)
    ∧ sM.ctx? (c_ sM).num = some (c_ sM)
    ∧ BitVec.toNat (1048576 : VAddr) = (c_ sM).nodeBase :=
  by decide +kernel
theorem witness_HostAccess_2_2_2_2_2_2_2_2_1 :
    (0 < 2 ∧ sM.dev.opstate ≠ 11)
    ∧ sM.dev.boot = BootPhase.ready
    ∧ 8 ≤ BitVec.toNat (1049096 : VAddr)
    ∧ sM.isRecord 0 ((1049096 : VAddr) - (8 : VAddr)) = true :=
  by decide +kernel
theorem witness_HostAccess_2_2_2_2_2_2_2_2_2_1 :
    (0 < 2 ∧ (bytesAt 458760 [(5 : Byte)] sM).dev.opstate ≠ 11)
    ∧ ((4294967294 : Word) ≠ (4294967295 : Word) ∨ (bytesAt 458760 [(5 : Byte)] sM).isRecord 0 ((131080 : VAddr) - (8 : VAddr)) = false)
    ∧ (bytesAt 458760 [(5 : Byte)] sM).walkerNat 0 (BitVec.toNat (131080 : VAddr)) 4 =
      (5, bytesAt 458760 [(5 : Byte)] sM) :=
  by decide +kernel
theorem witness_HostAccess_2_2_2_2_2_2_2_2_2_2_1 :
    (0 < 2 ∧ (bytesAt 458760 [(5 : Byte)] sM).dev.opstate ≠ 11)
    ∧ AtomOp.addB64 ≠ AtomOp.addB32 :=
  by decide +kernel
theorem witness_HostAccess_2_2_2_2_2_2_2_2_2_2_1b :
    (0 < 2 ∧ (bytesAt 458760 [(5 : Byte)] sM).dev.opstate ≠ 11)
    ∧ AtomOp.exchB32 ≠ AtomOp.addB32 :=
  by decide +kernel
theorem witness_HostAccess_2_2_2_2_2_2_2_2_2_2_1c :
    (0 < 2 ∧ (bytesAt 458760 [(5 : Byte)] sM).dev.opstate ≠ 11)
    ∧ AtomOp.exchB64 ≠ AtomOp.addB32 :=
  by decide +kernel
theorem witness_HostAccess_2_2_2_2_2_2_2_2_2_2_1d :
    (0 < 2 ∧ (bytesAt 458760 [(5 : Byte)] sM).dev.opstate ≠ 11)
    ∧ AtomOp.casB32 ≠ AtomOp.addB32 :=
  by decide +kernel
theorem witness_HostAccess_2_2_2_2_2_2_2_2_2_2_1e :
    (0 < 2 ∧ (bytesAt 458760 [(5 : Byte)] sM).dev.opstate ≠ 11)
    ∧ AtomOp.casB32 ≠ AtomOp.addB32 :=
  by decide +kernel
theorem witness_HostAccess_2_2_2_2_2_2_2_2_2_2_1f :
    (0 < 2 ∧ (bytesAt 458760 [(5 : Byte)] sM).dev.opstate ≠ 11)
    ∧ AtomOp.casB64 ≠ AtomOp.addB32 :=
  by decide +kernel
theorem witness_HostAccess_2_2_2_2_2_2_2_2_2_2_1g :
    (0 < 2 ∧ (bytesAt 458760 [(5 : Byte)] sM).dev.opstate ≠ 11)
    ∧ AtomOp.casB64 ≠ AtomOp.addB32 :=
  by decide +kernel
theorem witness_HostAccess_2_2_2_2_2_2_2_2_2_2_1h :
    (0 < 2 ∧ (bytesAt 458760 [(5 : Byte)] sM).dev.opstate ≠ 11)
    ∧ AtomOp.casB64 ≠ AtomOp.addB32 :=
  by decide +kernel
theorem witness_HostAccess_2_2_2_2_2_2_2_2_2_2_1i :
    (0 < 2 ∧ (bytesAt 458760 [(5 : Byte)] sM).dev.opstate ≠ 11)
    ∧ AtomOp.minS32 ≠ AtomOp.addB32 :=
  by decide +kernel
def pr (k : Nat) (page : Nat) : FaultRec := { id := k, ctx := 0, page := page, cause := 4, access := 0, addr := 0x20000, engine := false, deferred := false, key := 0, place := 0, node := 256, waiters := 1, level := 3, since := 0, due := false, fetchers := [] }
def sP : State := { tabled [(2, 0, 7), (3, 2, 12), (16, 2, 8)] s0 with faults := [pr 50 3, pr 51 16, { pr 52 3 with cause := 1 }], dev := { s0.dev with absent := [12, 8] } }
theorem witness_HostAccess_2_2_2_2_2_2_2_2_2_2_2_1 :
    (0 < 2 ∧ sP.dev.opstate ≠ 11) :=
  by decide +kernel
def hubE (f : Nat) (k : Nat) : TlbEntry := { place := .hub k, ctx := 0, page := 3, leaf := BitVec.ofNat 64 (61 + 128 + 2 ^ 20 * f), level := 3 }
def sQ : State := { sP with faults := [pr 51 16], tlb := [hubE 12 0, hubE 9 1, { hubE 12 0 with place := .core 0 }] }
theorem witness_HostAccess_2_2_2_2_2_2_2_2_2_2_2_2_1 :
    (0 < 2 ∧ sQ.dev.opstate ≠ 11)
    ∧ (∀ (r : FaultRec),
      r ∈ sQ.faults →
        ¬(r.cause = 4 ∧
            ∃ (c : Ctx),
              ∃ (e : DWord),
                ∃ (l : Nat),
                  ∃ (a : Nat),
                    sQ.ctx? r.ctx = some c ∧
                      sQ.walk c (r.page * 65536) = Walk.leaf e l a ∧
                        leafAddr e l (r.page * 65536) % 2 ^ 48 / 65536 = 12)) :=
  by
  refine @of_decide_eq_true _ (by letI := @decCtxLeaf; infer_instance) ?_
  decide +kernel
theorem witness_HostAccess_2_2_2_2_2_2_2_2_2_2_2_2_1b :
    (0 < 2 ∧ sQ.dev.opstate ≠ 11)
    ∧ (∀ (r : FaultRec),
      r ∈ sQ.faults →
        ¬(r.cause = 4 ∧
            ∃ (c : Ctx),
              ∃ (e : DWord),
                ∃ (l : Nat),
                  ∃ (a : Nat),
                    sQ.ctx? r.ctx = some c ∧
                      sQ.walk c (r.page * 65536) = Walk.leaf e l a ∧
                        leafAddr e l (r.page * 65536) % 2 ^ 48 / 65536 = 12)) :=
  by
  refine @of_decide_eq_true _ (by letI := @decCtxLeaf; infer_instance) ?_
  decide +kernel
def sW : State := { sP with faults := [pr 50 3], ops := [{ loadOp with record := some 50 }] }
theorem witness_HostAccess_2_2_2_2_2_2_2_2_2_2_2_2_2 :
    (0 < 2 ∧ sW.dev.opstate ≠ 11)
    ∧ sW.faults = [pr 50 3]
    ∧ ((pr 50 3).cause = 4 ∧
      ∃ (c : Ctx),
        ∃ (e : DWord),
          ∃ (l : Nat),
            ∃ (a : Nat),
              sW.ctx? (pr 50 3).ctx = some c ∧
                sW.walk c ((pr 50 3).page * 65536) = Walk.leaf e l a ∧
                  leafAddr e l ((pr 50 3).page * 65536) % 2 ^ 48 / 65536 = 12)
    ∧ sW.faultNodes (pr 50 3) = [(256 : VAddr)]
    ∧ (sW.node? (pr 50 3).ctx (256 : VAddr) = some ((sW.node? 0 (256 : VAddr)).getD default) ∧
      ((sW.node? 0 (256 : VAddr)).getD default).ctx = (pr 50 3).ctx ∧
        ((sW.node? 0 (256 : VAddr)).getD default).addr = (256 : VAddr) ∧
          ((sW.node? 0 (256 : VAddr)).getD default).released = [] ∧
            ((sW.node? 0 (256 : VAddr)).getD default).parent = none ∧
              natOf (List.take 4 (List.drop 12 ((sW.node? 0 (256 : VAddr)).getD default).record)) = 0 ∧
                sW.dev.elog = (0 : DWord) ∧
                  (∀ (k : Node), k ∈ sW.nodes → k.ctx = (pr 50 3).ctx → k.parent ≠ some (256 : VAddr)) ∧
                    ∀ (c : Ctx), sW.ctx? (pr 50 3).ctx = some c → ∀ (g : Staged), g ∈ c.staged → g.node ≠ (256 : VAddr))
    ∧ ((sW.node? 0 (256 : VAddr)).getD default).state = NodeState.running :=
  by
  refine @of_decide_eq_true _ (by letI := @decAll; letI := @decCtxLeaf; infer_instance) ?_
  decide +kernel

end W28

/-! ## Premises met: `Obligations.PeersAndDriver` -/

namespace W29

def s0 : State := at_ .nopShort
def two (g0 g1 : List (Nat × List Nat)) (s : State) : State :=
  { s with ctxs := s.ctxs.map (fun (c : Ctx) => { c with grants := g0 }) ++ [{ (s.ctxs.headD default) with num := 1, grants := g1, pool0 := [91], counts := [(92, 1)], staged := [] }] }
def idle (s : State) : State := { s with nodes := s.nodes.map (fun (n : Node) => { n with state := .committed }) }
def sD : State := idle (two [(0, [1, 4]), (2, [3])] [(0, [2, 6]), (1, [0])] s0)
def c_ (s : State) : Ctx := (s.ctx? 0).getD default
theorem witness_Driver_1 :
    (sD.ctx? 7 = none ∨
      8 ≤ 0 ∨
        7 <
            (List.flatMap (fun (c : Ctx) => List.flatMap Prod.snd (List.filter (fun (g : Nat × List Nat) => decide (g.fst = 0)) c.grants))
                  (List.filter (fun (c : Ctx) => decide (c.num ≠ 7)) sD.ctxs)).length +
              1 ∨
          ∃ (n : Node), n ∈ sD.nodes ∧ n.ctx = 7 ∧ n.state = NodeState.running) :=
  by decide +kernel
theorem witness_Driver_1b :
    (sD.ctx? 0 = none ∨
      8 ≤ 8 ∨
        7 <
            (List.flatMap (fun (c : Ctx) => List.flatMap Prod.snd (List.filter (fun (g : Nat × List Nat) => decide (g.fst = 8)) c.grants))
                  (List.filter (fun (c : Ctx) => decide (c.num ≠ 0)) sD.ctxs)).length +
              1 ∨
          ∃ (n : Node), n ∈ sD.nodes ∧ n.ctx = 0 ∧ n.state = NodeState.running) :=
  by decide +kernel
theorem witness_Driver_1c :
    (sD.ctx? 0 = none ∨
      8 ≤ 0 ∨
        7 <
            (List.flatMap (fun (c : Ctx) => List.flatMap Prod.snd (List.filter (fun (g : Nat × List Nat) => decide (g.fst = 0)) c.grants))
                  (List.filter (fun (c : Ctx) => decide (c.num ≠ 0)) sD.ctxs)).length +
              6 ∨
          ∃ (n : Node), n ∈ sD.nodes ∧ n.ctx = 0 ∧ n.state = NodeState.running) :=
  by decide +kernel
theorem witness_Driver_1d :
    ((let __src := sD;
            { agenda := __src.agenda, freeCtr := __src.freeCtr, cur := __src.cur, clock := __src.clock, time := __src.time, wall := __src.wall,
              nextId := __src.nextId, mem := __src.mem, unitKey := __src.unitKey, scrambled := __src.scrambled, owner := __src.owner,
              poison := __src.poison, devWritten := __src.devWritten, keyGen := __src.keyGen, l1 := __src.l1, icache := __src.icache,
              tlb := __src.tlb, ctxs := __src.ctxs, nodes := s0.nodes, groups := __src.groups, warps := __src.warps, ops := __src.ops,
              cores := __src.cores, wadi := __src.wadi, faults := __src.faults, saved := __src.saved, scans := __src.scans,
              memStacks := __src.memStacks, dev := __src.dev : State }).ctx?
          0 =
        none ∨
      8 ≤ 0 ∨
        7 <
            (List.flatMap (fun (c : Ctx) => List.flatMap Prod.snd (List.filter (fun (g : Nat × List Nat) => decide (g.fst = 0)) c.grants))
                  (List.filter (fun (c : Ctx) => decide (c.num ≠ 0))
                    (let __src := sD;
                      { agenda := __src.agenda, freeCtr := __src.freeCtr, cur := __src.cur, clock := __src.clock, time := __src.time,
                        wall := __src.wall, nextId := __src.nextId, mem := __src.mem, unitKey := __src.unitKey, scrambled := __src.scrambled,
                        owner := __src.owner, poison := __src.poison, devWritten := __src.devWritten, keyGen := __src.keyGen, l1 := __src.l1,
                        icache := __src.icache, tlb := __src.tlb, ctxs := __src.ctxs, nodes := s0.nodes, groups := __src.groups, warps := __src.warps,
                        ops := __src.ops, cores := __src.cores, wadi := __src.wadi, faults := __src.faults, saved := __src.saved,
                        scans := __src.scans, memStacks := __src.memStacks, dev := __src.dev : State }).ctxs)).length +
              1 ∨
          ∃ (n : Node),
            n ∈
                (let __src := sD;
                  { agenda := __src.agenda, freeCtr := __src.freeCtr, cur := __src.cur, clock := __src.clock, time := __src.time, wall := __src.wall,
                    nextId := __src.nextId, mem := __src.mem, unitKey := __src.unitKey, scrambled := __src.scrambled, owner := __src.owner,
                    poison := __src.poison, devWritten := __src.devWritten, keyGen := __src.keyGen, l1 := __src.l1, icache := __src.icache,
                    tlb := __src.tlb, ctxs := __src.ctxs, nodes := s0.nodes, groups := __src.groups, warps := __src.warps, ops := __src.ops,
                    cores := __src.cores, wadi := __src.wadi, faults := __src.faults, saved := __src.saved, scans := __src.scans,
                    memStacks := __src.memStacks, dev := __src.dev : State }).nodes ∧
              n.ctx = 0 ∧ n.state = NodeState.running) :=
  by decide +kernel
theorem witness_Driver_2_1 :
    sD.ctx? (c_ sD).num = some (c_ sD)
    ∧ 0 < 8
    ∧ (List.flatMap (fun (c : Ctx) => List.flatMap Prod.snd (List.filter (fun (g : Nat × List Nat) => decide (g.fst = 0)) c.grants))
            (List.filter (fun (c : Ctx) => decide (c.num ≠ (c_ sD).num)) sD.ctxs)).length +
        1 ≤
      7
    ∧ (¬∃ (n : Node), n ∈ sD.nodes ∧ n.ctx = (c_ sD).num ∧ n.state = NodeState.running) :=
  by decide +kernel
theorem witness_Driver_2_1b :
    sD.ctx? (c_ sD).num = some (c_ sD)
    ∧ 0 < 8
    ∧ (List.flatMap (fun (c : Ctx) => List.flatMap Prod.snd (List.filter (fun (g : Nat × List Nat) => decide (g.fst = 0)) c.grants))
            (List.filter (fun (c : Ctx) => decide (c.num ≠ (c_ sD).num)) sD.ctxs)).length +
        5 ≤
      7
    ∧ (¬∃ (n : Node), n ∈ sD.nodes ∧ n.ctx = (c_ sD).num ∧ n.state = NodeState.running) :=
  by decide +kernel
theorem witness_Driver_2_1c :
    sD.ctx? (c_ sD).num = some (c_ sD)
    ∧ 0 < 8
    ∧ (List.flatMap (fun (c : Ctx) => List.flatMap Prod.snd (List.filter (fun (g : Nat × List Nat) => decide (g.fst = 0)) c.grants))
            (List.filter (fun (c : Ctx) => decide (c.num ≠ (c_ sD).num)) sD.ctxs)).length +
        0 ≤
      7
    ∧ (¬∃ (n : Node), n ∈ sD.nodes ∧ n.ctx = (c_ sD).num ∧ n.state = NodeState.running) :=
  by decide +kernel
theorem witness_Driver_2_1d :
    sD.ctx? (c_ sD).num = some (c_ sD)
    ∧ 3 < 8
    ∧ (List.flatMap (fun (c : Ctx) => List.flatMap Prod.snd (List.filter (fun (g : Nat × List Nat) => decide (g.fst = 3)) c.grants))
            (List.filter (fun (c : Ctx) => decide (c.num ≠ (c_ sD).num)) sD.ctxs)).length +
        2 ≤
      7
    ∧ (¬∃ (n : Node), n ∈ sD.nodes ∧ n.ctx = (c_ sD).num ∧ n.state = NodeState.running) :=
  by decide +kernel
theorem witness_Driver_2_2_1 :
    2 ≤ 2 :=
  by decide +kernel
theorem witness_Driver_2_2_2_1 :
    sD.ctx? (c_ sD).num = some (c_ sD)
    ∧ 0 < 2 :=
  by decide +kernel
theorem witness_Driver_2_2_2_1b :
    sD.ctx? (c_ sD).num = some (c_ sD)
    ∧ 1 < 2 :=
  by decide +kernel
theorem witness_Driver_2_2_2_2_1 :
    sD.ctx? 4 = none :=
  by decide +kernel
theorem witness_Driver_2_2_2_2_2 :
    sD.ctx? (c_ sD).num = some (c_ sD) :=
  by decide +kernel
theorem witness_Driver_2_2_2_2_2b :
    s0.ctx? (c_ s0).num = some (c_ s0) :=
  by decide +kernel

end W29

/-! ## Premises met: `Obligations.Preemption` -/

namespace W30

def s0 : State := at_ .nopShort
def area (s : State) : State := let t := tabled [(2, 0, 7), (3, 0, 12), (16, 0, 8), (32, 0, 32), (33, 0, 33), (34, 0, 34), (35, 0, 35)] s
  { t with ctxs := t.ctxs.map (fun (c : Ctx) => { c with nodeBase := 0x100000, nodeSize := 0x10000, saveUsed := 48, evicted := 2, restored := 1 }) }
def st_ (k : Nat) (s : State) : State := { s with ctxs := s.ctxs.map (fun (c : Ctx) => { c with state := k }) }
def c_ (s : State) : Ctx := (s.ctx? 0).getD default
def sC (k : Nat) : State := st_ k (area s0)
theorem witness_Preemption_1 :
    (sC 0).ctx? (c_ (sC 0)).num = some (c_ (sC 0))
    ∧ (c_ (sC 0)).state = 0 :=
  by decide +kernel
theorem witness_Preemption_2_1 :
    (sC 3).ctx? (c_ (sC 3)).num = some (c_ (sC 3))
    ∧ (c_ (sC 3)).state = 3 :=
  by decide +kernel
theorem witness_Preemption_2_2_1 :
    (sC 2).ctx? (c_ (sC 2)).num = some (c_ (sC 2))
    ∧ (c_ (sC 2)).state ≠ 0
    ∧ (c_ (sC 2)).state ≠ 3 :=
  by decide +kernel
theorem witness_Preemption_2_2_2_1 :
    (sC 1).ctx? (c_ (sC 1)).num = some (c_ (sC 1))
    ∧ ((c_ (sC 1)).state = 1 ∨ (c_ (sC 1)).state = 2) :=
  by decide +kernel
theorem witness_Preemption_2_2_2_1b :
    (sC 2).ctx? (c_ (sC 2)).num = some (c_ (sC 2))
    ∧ ((c_ (sC 2)).state = 1 ∨ (c_ (sC 2)).state = 2) :=
  by decide +kernel
theorem witness_Preemption_2_2_2_2_1 :
    (sC 0).ctx? (c_ (sC 0)).num = some (c_ (sC 0))
    ∧ (c_ (sC 0)).state ≠ 1
    ∧ (c_ (sC 0)).state ≠ 2 :=
  by decide +kernel
theorem witness_Preemption_2_2_2_2_2_1 :
    (sC 4).ctx? (c_ (sC 4)).num = some (c_ (sC 4))
    ∧ (c_ (sC 4)).state = 4 :=
  by decide +kernel
def k_ (s : State) : Node := s.nodes.headD default
def chan0 : Chan :=
  { ch := 4, ctx := 0, op := 2, span := 0, top := 0, elems := 2, dieBudget := 5, devBudget := 6, fabBudget := 0, slots := 4, result := 0x30000,
    corr := 0x40000, cap := 2, word := 0x50000, map := [0, 0], block := [], nodes := [{ lvl := 0 }], transit := [], written := [] }
def sK : State := { sC 0 with wadi := [chan0], ops := [loadOp] }
theorem witness_Preemption_2_2_2_2_2_2_1 :
    sK.ctx? (c_ sK).num = some (c_ sK)
    ∧ (c_ sK).state ≠ 4
    ∧ sK.nodes = [] ++ k_ sK :: sK.nodes.tail
    ∧ (∀ (m : Node), m ∈ [] ++ sK.nodes.tail → m.ctx = (c_ sK).num → m.state ∈ [NodeState.committed, NodeState.failed, NodeState.killed])
    ∧ (sK.node? (c_ sK).num (k_ sK).addr = some (k_ sK) ∧
      (k_ sK).ctx = (c_ sK).num ∧
        (k_ sK).addr = (k_ sK).addr ∧
          (k_ sK).released = [] ∧
            (k_ sK).parent = none ∧
              natOf (List.take 4 (List.drop 12 (k_ sK).record)) = 0 ∧
                sK.dev.elog = (0 : DWord) ∧
                  (∀ (k : Node), k ∈ sK.nodes → k.ctx = (c_ sK).num → k.parent ≠ some (k_ sK).addr) ∧
                    ∀ (c : Ctx), sK.ctx? (c_ sK).num = some c → ∀ (g : Staged), g ∈ c.staged → g.node ≠ (k_ sK).addr)
    ∧ (k_ sK).state ∈ [NodeState.ready, NodeState.running, NodeState.complete] :=
  by
  refine @of_decide_eq_true _ (by letI := @decAll; infer_instance) ?_
  decide +kernel
theorem witness_Preemption_2_2_2_2_2_2_2_1 :
    (sC 1).group? (g0 (sC 1)).gid = some (g0 (sC 1))
    ∧ (sC 1).ctx? (g0 (sC 1)).ctx = some (c_ (sC 1))
    ∧ w0 (sC 1) ∈ (sC 1).warps
    ∧ (w0 (sC 1)).gid = (g0 (sC 1)).gid
    ∧ f0 (sC 1) ∈ (w0 (sC 1)).fibres
    ∧ (f0 (sC 1)).park = none :=
  by decide +kernel
theorem witness_Preemption_2_2_2_2_2_2_2_2_1 :
    (sC 0).group? (g0 (sC 0)).gid = some (g0 (sC 0))
    ∧ (sC 0).ctx? (g0 (sC 0)).ctx = some (c_ (sC 0))
    ∧ (c_ (sC 0)).state ≠ 1
    ∧ (∀ (h : Share), h ∈ (g0 (sC 0)).shares → ((sC 0).core h.core).draining = false) :=
  by decide +kernel
def parked_ (s : State) : State := byWarp (fun (w : Warp) => { w with active := none, holder := none, fibres := w.fibres.map (fun f => { f with park := some { wait := .barrier 1 0, at_ := { hdr := 4096, idx := 1, mid := true } } }) }) { s with cur := none }
def ctl (a n : Nat) (s : State) : State := bytesAt 0x80008 (bytesOf 8 a ++ bytesOf 8 n) s
def sE : State := ctl 0x200000 0x40000 (parked_ (sC 1))
theorem witness_Preemption_2_2_2_2_2_2_2_2_2_2_1 :
    ((ctl 2097152 131072 (parked_ (sC 1))).group? (g0 sE).gid = some (g0 sE) ∧
      (ctl 2097152 131072 (parked_ (sC 1))).ctx? (g0 sE).ctx = some (c_ sE) ∧
        (g0 sE).noRoom = false ∧
          ((∀ (o : Op), o ∈ (ctl 2097152 131072 (parked_ (sC 1))).ops → o.gid ≠ (g0 sE).gid) ∧
              ∀ (w : Warp),
                w ∈ (ctl 2097152 131072 (parked_ (sC 1))).warps →
                  w.gid = (g0 sE).gid →
                    w.handler = none ∧
                      w.active = none ∧
                        w.replayTrap = none ∧
                          ∀ (f : Fibre),
                            f ∈ w.fibres →
                              (∃ (p : Park), f.park = some p ∧ p.wait.blocking = true) ∧
                                (ctl 2097152 131072 (parked_ (sC 1))).serviceParked w f = false) ∧
            ((c_ sE).state = 1 ∨
              ∃ (h : Share), h ∈ (g0 sE).shares ∧ ((ctl 2097152 131072 (parked_ (sC 1))).core h.core).draining = true))
    ∧ (c_ sE).state = 1
    ∧ (ctl 2097152 131072 (parked_ (sC 1))).walkerNat (c_ sE).num ((c_ sE).nodeBase + 8) 8 =
      (2097152, ctl 2097152 131072 (parked_ (sC 1)))
    ∧ (ctl 2097152 131072 (parked_ (sC 1))).walkerNat (c_ sE).num ((c_ sE).nodeBase + 16) 8 =
      (131072, ctl 2097152 131072 (parked_ (sC 1)))
    ∧ (ctl 2097152 131072 (parked_ (sC 1))).dev.elog = (0 : DWord)
    ∧ (131072 < (c_ sE).saveUsed + recordLen (g0 sE) ∨
      ∃ (p : Nat × Nat),
        p ∈ pieces (2097152 % 2 ^ 52 + (c_ sE).saveUsed) (recordLen (g0 sE)) ∧
          ∀ (e : DWord) (l a : Nat),
            (ctl 2097152 131072 (parked_ (sC 1))).walk (c_ sE) p.fst = Walk.leaf e l a → pteW e = false) :=
  by
  refine @of_decide_eq_true _ (by letI := @decAllLeaf; letI := @decSome; infer_instance) ?_
  decide +kernel
theorem witness_Preemption_2_2_2_2_2_2_2_2_2_2_1b :
    ((ctl 5242880 262144 (parked_ (sC 1))).group? (g0 sE).gid = some (g0 sE) ∧
      (ctl 5242880 262144 (parked_ (sC 1))).ctx? (g0 sE).ctx = some (c_ sE) ∧
        (g0 sE).noRoom = false ∧
          ((∀ (o : Op), o ∈ (ctl 5242880 262144 (parked_ (sC 1))).ops → o.gid ≠ (g0 sE).gid) ∧
              ∀ (w : Warp),
                w ∈ (ctl 5242880 262144 (parked_ (sC 1))).warps →
                  w.gid = (g0 sE).gid →
                    w.handler = none ∧
                      w.active = none ∧
                        w.replayTrap = none ∧
                          ∀ (f : Fibre),
                            f ∈ w.fibres →
                              (∃ (p : Park), f.park = some p ∧ p.wait.blocking = true) ∧
                                (ctl 5242880 262144 (parked_ (sC 1))).serviceParked w f = false) ∧
            ((c_ sE).state = 1 ∨
              ∃ (h : Share), h ∈ (g0 sE).shares ∧ ((ctl 5242880 262144 (parked_ (sC 1))).core h.core).draining = true))
    ∧ (c_ sE).state = 1
    ∧ (ctl 5242880 262144 (parked_ (sC 1))).walkerNat (c_ sE).num ((c_ sE).nodeBase + 8) 8 =
      (5242880, ctl 5242880 262144 (parked_ (sC 1)))
    ∧ (ctl 5242880 262144 (parked_ (sC 1))).walkerNat (c_ sE).num ((c_ sE).nodeBase + 16) 8 =
      (262144, ctl 5242880 262144 (parked_ (sC 1)))
    ∧ (ctl 5242880 262144 (parked_ (sC 1))).dev.elog = (0 : DWord)
    ∧ (262144 < (c_ sE).saveUsed + recordLen (g0 sE) ∨
      ∃ (p : Nat × Nat),
        p ∈ pieces (5242880 % 2 ^ 52 + (c_ sE).saveUsed) (recordLen (g0 sE)) ∧
          ∀ (e : DWord) (l a : Nat),
            (ctl 5242880 262144 (parked_ (sC 1))).walk (c_ sE) p.fst = Walk.leaf e l a → pteW e = false) :=
  by
  refine @of_decide_eq_true _ (by letI := @decAllLeaf; letI := @decSome; infer_instance) ?_
  decide +kernel
theorem witness_Preemption_2_2_2_2_2_2_2_2_2_1 :
    (sE.group? (g0 sE).gid = some (g0 sE) ∧
      sE.ctx? (g0 sE).ctx = some (c_ sE) ∧
        (g0 sE).noRoom = false ∧
          ((∀ (o : Op), o ∈ sE.ops → o.gid ≠ (g0 sE).gid) ∧
              ∀ (w : Warp),
                w ∈ sE.warps →
                  w.gid = (g0 sE).gid →
                    w.handler = none ∧
                      w.active = none ∧
                        w.replayTrap = none ∧
                          ∀ (f : Fibre), f ∈ w.fibres → (∃ (p : Park), f.park = some p ∧ p.wait.blocking = true) ∧ sE.serviceParked w f = false) ∧
            ((c_ sE).state = 1 ∨ ∃ (h : Share), h ∈ (g0 sE).shares ∧ (sE.core h.core).draining = true))
    ∧ (c_ sE).state = 1
    ∧ (sE.walkerNat (c_ sE).num ((c_ sE).nodeBase + 8) 8 = (2097152, sE) ∧
      sE.walkerNat (c_ sE).num ((c_ sE).nodeBase + 16) 8 = (262144, sE) ∧
        (c_ sE).saveUsed + recordLen (g0 sE) ≤ 262144 ∧
          ∀ (p : Nat × Nat),
            p ∈ pieces (2097152 % 2 ^ 52 + (c_ sE).saveUsed) (recordLen (g0 sE)) →
              ∃ (e : DWord), ∃ (l : Nat), ∃ (a : Nat), sE.walk (c_ sE) p.fst = Walk.leaf e l a ∧ pteW e = true)
    ∧ ((sE.readScratch (g0 sE) 0 (g0 sE).scratch).snd = sE ∧ (sE.tilesOf (g0 sE)).snd = sE) :=
  by
  refine @of_decide_eq_true _ (by letI := @decSome; letI := @decSomeLeaf; infer_instance) ?_
  decide +kernel
def drn (s : State) : State := { s with cores := [(0, { draining := true })], scans := [(0, { saveBase := 0x4000000 })] }
def sD : State := drn (parked_ (sC 0))
theorem witness_Preemption_2_2_2_2_2_2_2_2_2_2_2_1 :
    (sD.group? (g0 sD).gid = some (g0 sD) ∧
      sD.ctx? (g0 sD).ctx = some (c_ sD) ∧
        (g0 sD).noRoom = false ∧
          ((∀ (o : Op), o ∈ sD.ops → o.gid ≠ (g0 sD).gid) ∧
              ∀ (w : Warp),
                w ∈ sD.warps →
                  w.gid = (g0 sD).gid →
                    w.handler = none ∧
                      w.active = none ∧
                        w.replayTrap = none ∧
                          ∀ (f : Fibre), f ∈ w.fibres → (∃ (p : Park), f.park = some p ∧ p.wait.blocking = true) ∧ sD.serviceParked w f = false) ∧
            ((c_ sD).state = 1 ∨ ∃ (h : Share), h ∈ (g0 sD).shares ∧ (sD.core h.core).draining = true))
    ∧ (c_ sD).state ≠ 1
    ∧ (c_ sD).state ≠ 2
    ∧ sD.scanSaveUsed ((Option.map Share.core (g0 sD).shares.head?).getD 0 / 64) + recordLen (g0 sD) ≤ 2 ^ 24
    ∧ ((sD.readScratch (g0 sD) 0 (g0 sD).scratch).snd = sD ∧ (sD.tilesOf (g0 sD)).snd = sD) :=
  by
  refine @of_decide_eq_true _ (by letI := @decSome; infer_instance) ?_
  decide +kernel
theorem witness_Preemption_2_2_2_2_2_2_2_2_2_2_2_2_1 :
    (sC 0).ctx? (c_ (sC 0)).num = some (c_ (sC 0))
    ∧ ((sC 0).places = false ∨ (sC 0).restorers (c_ (sC 0)) = []) :=
  by decide +kernel
def rdy (s : State) := { s with dev := { s.dev with boot := .ready } }
def sv (s : State) : SavedGroup := { ctx := 0, at_ := none, die := 0, addr := 0x4000000, len := 48, group := g0 s, warps := s.warps, scratch := [], tiles := [], drained := some 0 }
/-- The check word of the record that `sG true` holds: 40 bytes of zero, the check word, the layout tag. -/
def check_ : Nat := crc32c (List.replicate 44 0 ++ bytesOf 4 Config.layoutTag.toNat)
def sG (ok : Bool) : State := let s := parked_ (sC 0)
  rdy { s with saved := [sv s], groups := [], warps := [], nodes := s.nodes.map (fun (n : Node) => { n with record := List.replicate 32 0 ++ bytesOf 8 0xFF ++ bytesOf 8 1 ++ List.replicate 208 0 }),
               mem := s.mem ++ (if ok then (bytesOf 4 check_ ++ bytesOf 4 Config.layoutTag.toNat).zipIdx.map (fun e => (0x4000028 + e.2, e.1)) else []) }
def vG : SavedGroup := (sG true).saved.headD default
def coreG : Nat := ((sG true).chooseCores (k_ (sG true)).masks (vG.demand 0) 1).getD [] |>.headD 99
def noCore (s : State) : State := { s with cores := (List.range 8).map (fun i => (i, { present := false })) }
theorem witness_Preemption_2_2_2_2_2_2_2_2_2_2_2_2_2_1 :
    (noCore (sG true)).ctx? (c_ (sG true)).num = some (c_ (sG true))
    ∧ (noCore (sG true)).places = true
    ∧ (noCore (sG true)).restorers (c_ (sG true)) = [vG]
    ∧ vG.ctx = (c_ (sG true)).num
    ∧ ((noCore (sG true)).node? vG.ctx vG.group.node = some (k_ (sG true)) ∧
      (k_ (sG true)).ctx = vG.ctx ∧
        (k_ (sG true)).addr = vG.group.node ∧
          (k_ (sG true)).released = [] ∧
            (k_ (sG true)).parent = none ∧
              natOf (List.take 4 (List.drop 12 (k_ (sG true)).record)) = 0 ∧
                (noCore (sG true)).dev.elog = (0 : DWord) ∧
                  (∀ (k : Node), k ∈ (noCore (sG true)).nodes → k.ctx = vG.ctx → k.parent ≠ some vG.group.node) ∧
                    ∀ (c : Ctx), (noCore (sG true)).ctx? vG.ctx = some c → ∀ (g : Staged), g ∈ c.staged → g.node ≠ vG.group.node)
    ∧ (k_ (sG true)).state = NodeState.running
    ∧ (noCore (sG true)).couldPlace (k_ (sG true)) vG = false :=
  by
  refine @of_decide_eq_true _ (by letI := @decAll; infer_instance) ?_
  decide +kernel
theorem witness_Preemption_2_2_2_2_2_2_2_2_2_2_2_2_2_2 :
    (sG false).ctx? (c_ (sG false)).num = some (c_ (sG false))
    ∧ (sG false).places = true
    ∧ (sG false).restorers (c_ (sG false)) = [vG]
    ∧ vG.ctx = (c_ (sG false)).num
    ∧ vG.at_ = none
    ∧ (sG false).couldPlace (k_ (sG false)) vG = true
    ∧ (sG false).chooseCores (k_ (sG false)).masks (vG.demand 0) vG.group.shares.length = some [coreG]
    ∧ (sG false).poisoned vG.addr vG.len = false
    ∧ ((sG false).readBytes 0 vG.addr vG.len).snd = sG false
    ∧ (¬(natOf (List.take 4 (List.drop 40 ((sG false).readBytes 0 vG.addr vG.len).fst)) =
          crc32c
            (List.take 40 ((sG false).readBytes 0 vG.addr vG.len).fst ++ [(0 : Byte), (0 : Byte), (0 : Byte), (0 : Byte)] ++
              List.drop 44 ((sG false).readBytes 0 vG.addr vG.len).fst) ∧
        natOf (List.take 4 (List.drop 44 ((sG false).readBytes 0 vG.addr vG.len).fst)) = BitVec.toNat Config.layoutTag))
    ∧ ((sG false).node? vG.ctx vG.group.node = some (k_ (sG false)) ∧
      (k_ (sG false)).ctx = vG.ctx ∧
        (k_ (sG false)).addr = vG.group.node ∧
          (k_ (sG false)).released = [] ∧
            (k_ (sG false)).parent = none ∧
              natOf (List.take 4 (List.drop 12 (k_ (sG false)).record)) = 0 ∧
                (sG false).dev.elog = (0 : DWord) ∧
                  (∀ (k : Node), k ∈ (sG false).nodes → k.ctx = vG.ctx → k.parent ≠ some vG.group.node) ∧
                    ∀ (c : Ctx), (sG false).ctx? vG.ctx = some c → ∀ (g : Staged), g ∈ c.staged → g.node ≠ vG.group.node)
    ∧ (k_ (sG false)).state = NodeState.running :=
  by
  refine @of_decide_eq_true _ (by letI := @decAll; infer_instance) ?_
  decide +kernel
theorem crcBits_lt (n c : Nat) (h : c < 2 ^ 32) : crcBits n c < 2 ^ 32 := by
  induction n generalizing c with
  | zero => exact h
  | succ n ih =>
    refine ih _ ?_
    split
    · exact Nat.xor_lt_two_pow (by omega) (by decide)
    · omega
theorem crc_fold_lt (bs : List Byte) (c : Nat) (h : c < 2 ^ 32) : bs.foldl (fun c b => crcBits 8 (c ^^^ b.toNat)) c < 2 ^ 32 := by
  induction bs generalizing c with
  | nil => exact h
  | cons b bs ih => exact ih _ (crcBits_lt 8 _ (Nat.xor_lt_two_pow h (by have := b.isLt; omega)))
theorem crc32c_lt (bs : List Byte) : crc32c bs < 2 ^ 32 := Nat.xor_lt_two_pow (crc_fold_lt bs _ (by decide)) (by decide)
theorem natOf_bytesOf4 (x : Nat) (h : x < 2 ^ 32) : natOf (bytesOf 4 x) = x := by
  simp [bytesOf, natOf, BitVec.toNat_ofNat]; omega
theorem sG_bytes : ((sG true).readBytes 0 vG.addr vG.len).1 = List.replicate 40 0 ++ bytesOf 4 check_ ++ bytesOf 4 Config.layoutTag.toNat := rfl
theorem sG_whole : natOf (List.take 4 (List.drop 40 ((sG true).readBytes 0 vG.addr vG.len).1)) =
      crc32c (List.take 40 ((sG true).readBytes 0 vG.addr vG.len).1 ++ [(0 : Byte), (0 : Byte), (0 : Byte), (0 : Byte)] ++
          List.drop 44 ((sG true).readBytes 0 vG.addr vG.len).1) ∧
    natOf (List.take 4 (List.drop 44 ((sG true).readBytes 0 vG.addr vG.len).1)) = BitVec.toNat Config.layoutTag := by
  rw [sG_bytes]
  exact ⟨natOf_bytesOf4 check_ (crc32c_lt _), natOf_bytesOf4 _ Config.layoutTag.isLt⟩
theorem witness_Preemption_2_2_2_2_2_2_2_2_2_2_2_2_2_2b :
    (sG true).ctx? (c_ (sG true)).num = some (c_ (sG true))
    ∧ (sG true).places = true
    ∧ (sG true).restorers (c_ (sG true)) = [vG]
    ∧ vG.ctx = (c_ (sG true)).num
    ∧ vG.at_ = none
    ∧ (sG true).couldPlace (k_ (sG true)) vG = true
    ∧ (sG true).chooseCores (k_ (sG true)).masks (vG.demand 0) vG.group.shares.length = some [coreG]
    ∧ (sG true).poisoned vG.addr vG.len = false
    ∧ ((sG true).readBytes 0 vG.addr vG.len).snd = sG true
    ∧ (natOf (List.take 4 (List.drop 40 ((sG true).readBytes 0 vG.addr vG.len).fst)) =
        crc32c
          (List.take 40 ((sG true).readBytes 0 vG.addr vG.len).fst ++ [(0 : Byte), (0 : Byte), (0 : Byte), (0 : Byte)] ++
            List.drop 44 ((sG true).readBytes 0 vG.addr vG.len).fst) ∧
      natOf (List.take 4 (List.drop 44 ((sG true).readBytes 0 vG.addr vG.len).fst)) = BitVec.toNat Config.layoutTag)
    ∧ (sG true).node? vG.ctx vG.group.node = some (k_ (sG true))
    ∧ vG.group.shares.length = 1
    ∧ (sG true).seatShare coreG (vG.demand 0) =
      some
        ((((sG true).seatShare coreG (vG.demand 0)).getD ([], 0)).fst,
          (((sG true).seatShare coreG (vG.demand 0)).getD ([], 0)).snd)
    ∧ (List.map Seat.idx (((sG true).seatShare coreG (vG.demand 0)).getD ([], 0)).fst).Nodup
    ∧ (∀ (w : Warp),
      w ∈ vG.warps →
        w.gid = vG.group.gid ∧
          ∀ (f : Fibre),
            f ∈ w.fibres →
              ∃ (p : Park), f.park = some p ∧ ((∃ (b : Nat), ∃ (q : Nat), p.wait = Wait.barrier b q) ∨ ∃ (j : Nat), p.wait = Wait.rejoin j))
    ∧ (∀ (w : Warp), w ∈ (sG true).warps → w.gid ≠ vG.group.gid) :=
  ⟨by decide +kernel, by decide +kernel, by decide +kernel, by decide +kernel, by decide +kernel, by decide +kernel, by decide +kernel, by decide +kernel, rfl, sG_whole, by decide +kernel, by decide +kernel, by decide +kernel, by decide +kernel, @of_decide_eq_true _ (by letI := @decBarRejoin; letI := @decSome; infer_instance) (by decide +kernel), by decide +kernel⟩

end W30

/-! ## Premises met: `Obligations.OpenOperands` -/

namespace W31

def rg : Sparse Word := [(0, 0x7FFFFFFF), (1, 5), (2, 5)]
def used (s : State) : State := byGroup (fun g => { g with uses := [{ fid := 0, wid := 0, core := 0, cv := none, tiles := [4], regs := [2, 3] }] }) (shared s)
def iOpenOperands_1 : Instr := (.movShort (.v 2) (.v 1))
def sOpenOperands_1 : State := (used (at_ iOpenOperands_1 rg))
theorem witness_OpenOperands_1 :
    Issues sOpenOperands_1 (Instr.movShort (Reg.v (2 : Fin 608)) (Reg.v (1 : Fin 608))) (wOf sOpenOperands_1) (aOf sOpenOperands_1)
      (gOf sOpenOperands_1) (xOf sOpenOperands_1 iOpenOperands_1) (eOf sOpenOperands_1 iOpenOperands_1) (pOf sOpenOperands_1 iOpenOperands_1) :=
  by
  refine @of_decide_eq_true _ (by letI := @decIssues; infer_instance) ?_
  decide +kernel
def iOpenOperands_2_1 : Instr := (.iaddShort (.v 2) (.v 1))
def sOpenOperands_2_1 : State := (used (at_ iOpenOperands_2_1 rg))
theorem witness_OpenOperands_2_1 :
    Issues sOpenOperands_2_1 (Instr.iaddShort (Reg.v (2 : Fin 608)) (Reg.v (1 : Fin 608))) (wOf sOpenOperands_2_1) (aOf sOpenOperands_2_1)
      (gOf sOpenOperands_2_1) (xOf sOpenOperands_2_1 iOpenOperands_2_1) (eOf sOpenOperands_2_1 iOpenOperands_2_1)
      (pOf sOpenOperands_2_1 iOpenOperands_2_1) :=
  by
  refine @of_decide_eq_true _ (by letI := @decIssues; infer_instance) ?_
  decide +kernel
def iOpenOperands_2_2 : Instr := (.imulShort (.v 4) (.v 1))
def sOpenOperands_2_2 : State := (used (at_ iOpenOperands_2_2 rg))
theorem witness_OpenOperands_2_2 :
    Issues sOpenOperands_2_2 (Instr.imulShort (Reg.v (4 : Fin 608)) (Reg.v (1 : Fin 608))) (wOf sOpenOperands_2_2) (aOf sOpenOperands_2_2)
      (gOf sOpenOperands_2_2) (xOf sOpenOperands_2_2 iOpenOperands_2_2) (eOf sOpenOperands_2_2 iOpenOperands_2_2)
      (pOf sOpenOperands_2_2 iOpenOperands_2_2) :=
  by
  refine @of_decide_eq_true _ (by letI := @decIssues; infer_instance) ?_
  decide +kernel

end W31

/-! ## Premises met: `Obligations.DecodeUndoesEncode`, `Obligations.StepsKeepSettled` -/

theorem witness_DecodeUndoesEncode : (Instr.iadd always (.v 3) (.v 1) (.reg (.v 2)) false none).wf = true ∧
    encode (.iadd always (.v 3) (.v 1) (.reg (.v 2)) false none) ≠ [] := by decide

theorem witness_StepsKeepSettled_holds : (∀ c ∈ State.reset.ctxs, c.state = 1 → ∃ g ∈ State.reset.groups, g.ctx = c.num) ∧
    (∀ c ∈ State.reset.ctxs, c.state = 3 → ∃ v ∈ State.reset.saved, v.ctx = c.num) ∧ ∀ w ∈ State.reset.warps, w.passed ≤ 256 := by
  decide +kernel

theorem witness_StepsKeepSettled_steps : (match step State.reset with
    | .next _ => true
    | .fault _ => false
    | .refused _ => false) = true := by
  decide +kernel

end Sys2Proof.Tests
end

section
/-! What an issue makes of its warp: the executing fibres' changes and those of the warp's registers, said of the next state;
and an issue that waits, or whose operands no fibre may have. -/

namespace Sys2Proof.Machine

open Sys2Proof

/-! ## Changes by lane -/

/-- What changes `r` of some fibres, each by its own captured fibre, make of the fibre that stands in its lane. -/
def onLanes (x : List Fibre) (r : Fibre → Fibre → Fibre) (f : Fibre) : Fibre :=
  (x.find? (fun k => k.lane = f.lane)).elim f (fun k => r k f)

/-- The warp with changes `r` of the fibres in the lanes of `x`, and its registers changed by `u`. -/
def Warp.update (x : List Fibre) (r : Fibre → Fibre → Fibre) (u : Warp → Warp) (v : Warp) : Warp :=
  { u v with fibres := v.fibres.map (onLanes x r) }

theorem find?_own_lane {x : List Fibre} (hn : (x.map Fibre.lane).Nodup) {f : Fibre} (hf : f ∈ x) :
    x.find? (fun k => k.lane = f.lane) = some f := by
  induction x with
  | nil => exact (List.not_mem_nil hf).elim
  | cons k t ih =>
    rw [List.map_cons, List.nodup_cons] at hn
    rcases List.mem_cons.mp hf with rfl | ht
    · simp
    · have hne : k.lane ≠ f.lane := fun he => hn.1 (he ▸ List.mem_map_of_mem ht)
      rw [List.find?_cons, decide_eq_false hne]
      exact ih hn.2 ht

/-- An executing fibre takes its own change. -/
theorem onLanes_own {x : List Fibre} (hn : (x.map Fibre.lane).Nodup) (r : Fibre → Fibre → Fibre) {f : Fibre} (hf : f ∈ x) :
    onLanes x r f = r f f := by
  rw [onLanes, find?_own_lane hn hf]
  rfl

/-- A fibre in a lane of no executing fibre stays as it is. -/
theorem onLanes_other {x : List Fibre} (r : Fibre → Fibre → Fibre) {f : Fibre} (hf : ∀ k ∈ x, k.lane ≠ f.lane) :
    onLanes x r f = f := by
  rw [onLanes, List.find?_eq_none.mpr (by simpa using hf)]
  rfl

theorem onLanes_lane (x : List Fibre) {r : Fibre → Fibre → Fibre} (hr : ∀ k f, (r k f).lane = f.lane) (f : Fibre) :
    (onLanes x r f).lane = f.lane := by
  unfold onLanes
  cases x.find? (fun k => k.lane = f.lane) with
  | none => rfl
  | some k => exact hr k f

/-- Two changes by lane, one after the other. -/
theorem onLanes_onLanes (x : List Fibre) {r : Fibre → Fibre → Fibre} (r' : Fibre → Fibre → Fibre)
    (hr : ∀ k f, (r k f).lane = f.lane) (f : Fibre) :
    onLanes x r' (onLanes x r f) = onLanes x (fun k f => r' k (r k f)) f := by
  have hl := onLanes_lane x hr f
  unfold onLanes at hl ⊢
  rw [hl]
  cases x.find? (fun k => k.lane = f.lane) <;> rfl

/-- Changes of one fibre after another, in different lanes, are changes by lane. -/
theorem foldl_onFibre (wid : Nat) {x : List Fibre} (hn : (x.map Fibre.lane).Nodup) {r : Fibre → Fibre → Fibre}
    (hr : ∀ k f, (r k f).lane = f.lane) (s : State) :
    x.foldl (fun s k => s.onFibre wid k.lane (r k)) s = s.onWarp wid (Warp.update x r id) := by
  induction x generalizing s with
  | nil =>
    have hid : Warp.update [] r id = id := by
      funext v
      rw [Warp.update, show onLanes [] r = id from rfl, List.map_id]
      rfl
    simp [hid, State.onWarp]
  | cons k t ih =>
    rw [List.map_cons, List.nodup_cons] at hn
    rw [List.foldl_cons, ih hn.2, State.onFibre, State.onWarp_onWarp _ _ _ _ (by intro v; rfl)]
    congr 1
    funext v
    simp only [Warp.update, id, List.map_map]
    congr 2
    funext f
    simp only [Function.comp_apply]
    by_cases hk : f.lane = k.lane
    · have hother : ∀ j ∈ t, j.lane ≠ (r k f).lane := fun j hj he =>
        hn.1 (by rw [← hk, ← hr k f, ← he]; exact List.mem_map_of_mem hj)
      rw [if_pos hk, onLanes_other r hother, onLanes, List.find?_cons, decide_eq_true hk.symm]
      rfl
    · rw [if_neg hk, onLanes, onLanes, List.find?_cons, decide_eq_false (Ne.symm hk)]

/-- Two changes of a warp, one after the other, where the second change of its registers does not look at its fibres. -/
theorem Warp.update_update (x : List Fibre) {r : Fibre → Fibre → Fibre} (r' : Fibre → Fibre → Fibre) (u : Warp → Warp)
    {u' : Warp → Warp} (hr : ∀ k f, (r k f).lane = f.lane) (hu : ∀ v l, u' { v with fibres := l } = { u' v with fibres := l })
    (v : Warp) :
    Warp.update x r' u' (Warp.update x r u v) = Warp.update x (fun k f => r' k (r k f)) (fun v => u' (u v)) v := by
  have hmap : (Warp.update x r u v).fibres.map (onLanes x r') = v.fibres.map (onLanes x (fun k f => r' k (r k f))) := by
    rw [Warp.update, List.map_map]
    exact List.map_congr_left fun f _ => onLanes_onLanes x r' hr f
  rw [Warp.update, hmap, Warp.update, hu]
  rfl

/-! ## The state after an issue -/

/-- The warp with further entries in its queue. -/
def Warp.queued (v : Warp) (q : List Entry) : Warp := { v with queue := v.queue ++ q }

/-- The advance through the clause looks at neither the fibres nor the queue. -/
theorem Warp.advance_with (v : Warp) (l : List Fibre) (q : List Entry) :
    ({ v with fibres := l, queue := q } : Warp).advance = { v.advance with fibres := l, queue := q } := by
  unfold Warp.advance
  dsimp only
  split
  · rfl
  · split <;> rfl

theorem Warp.advance_update_queued (x : List Fibre) (r : Fibre → Fibre → Fibre) (u : Warp → Warp) (q : List Entry) (v : Warp) :
    ((Warp.update x r u v).queued q).advance
      = { (u v).advance with fibres := v.fibres.map (onLanes x r), queue := (u v).queue ++ q } :=
  Warp.advance_with (u v) _ _

/-- An instruction without a flag counts on none for the fibres that defer it. -/
theorem countedLate_of_noFlag (s : State) (w : Warp) {i : Instr} (g : Group) (e : List Fibre) (hf : i.shape.fs = none) :
    countedLate s w i g e = [] := by
  unfold countedLate State.counting countsFlag
  rw [hf]
  rfl

theorem State.onWarp_warps_congr {s t : State} (k : Nat) (u : Warp → Warp) (h : t.warps = s.warps) :
    (t.onWarp k u).warps = (s.onWarp k u).warps := by
  simp only [State.onWarp, h]

/-- What the state after an issue keeps of the state that the effect has left: memory and the units; and the warp advanced, its
queue longer. -/
theorem after_quiet {s s2 : State} {i : Instr} {w : Warp} {a : Active} {g : Group} {x e : List Fibre} (gp : List Fibre)
    (hf : i.shape.fs = none) (ho : NoOpenOperand i g x e) {U : Warp → Warp} (hU : ∀ v, (U v).wid = v.wid)
    (hw : s2.warps = (s.onWarp w.wid U).warps) :
    (∃ q, (s2.after w a g i e gp).warps
        = (s.onWarp w.wid (fun v => ((U v).queued q).advance)).warps) ∧
      SameMemory s2 (s2.after w a g i e gp) ∧ SameUnits s2 (s2.after w a g i e gp) := by
  obtain ⟨n, q, happ⟩ := append_quiet s2 w a g i e gp hf (fun f hfe => ho f (List.mem_append_right x hfe))
  have happ : s2.append w a g i e gp = State.onWarp { s2 with nextId := n } w.wid (fun v => v.queued q) := happ
  unfold State.after
  rw [happ]
  refine ⟨⟨q, ?_⟩, ?_, ?_⟩
  · calc (((State.onWarp { s2 with nextId := n } w.wid (fun v => v.queued q)).onWarp w.wid Warp.advance).advanceClock
            (portClocks i)).warps
        = (((s.onWarp w.wid U).onWarp w.wid (fun v => v.queued q)).onWarp w.wid Warp.advance).warps :=
          State.onWarp_warps_congr _ _ (State.onWarp_warps_congr _ _ hw)
      _ = (s.onWarp w.wid (fun v => ((U v).queued q).advance)).warps := by
          rw [State.onWarp_onWarp _ _ _ _ hU, State.onWarp_onWarp _ _ _ _ (by intro v; exact hU v)]
  · intro who p
    apply readByte_congr <;> rfl
  · constructor <;> rfl

theorem SameMemory.trans {s t q : State} (h : SameMemory s t) (h' : SameMemory t q) : SameMemory s q :=
  fun who p => (h' who p).trans (h who p)

theorem SameUnits.trans {s t q : State} (h : SameUnits s t) (h' : SameUnits t q) : SameUnits s q where
  groups := h'.groups.trans h.groups
  ctxs := h'.ctxs.trans h.ctxs
  nodes := h'.nodes.trans h.nodes
  ops := h'.ops.trans h.ops
  cores := h'.cores.trans h.cores
  wadi := h'.wadi.trans h.wadi
  faults := h'.faults.trans h.faults
  saved := h'.saved.trans h.saved
  scans := h'.scans.trans h.scans
  memStacks := h'.memStacks.trans h.memStacks
  dev := h'.dev.trans h.dev
  l1 := h'.l1.trans h.l1
  icache := h'.icache.trans h.icache
  tlb := h'.tlb.trans h.tlb

/-- One warp's changes, from what the warp has become. -/
theorem changes_of_update {s t : State} {w : Warp} {x : List Fibre} {r : Fibre → Fibre → Fibre} {u : Warp → Warp}
    {q : List Entry} {n : Option Nat} (hslot : s.warp? w.wid = some w) (hn : (x.map Fibre.lane).Nodup)
    (hx : ∀ f ∈ x, w.fibre? f.lane = some f) (hr : ∀ k f, (r k f).lane = f.lane) (hu : ∀ v, (u v).wid = v.wid)
    (ht : t.warps = (s.onWarp w.wid (fun v => ((Warp.update x r u v).queued q).advance)).warps) :
    Changes s t w x (fun f => r f f) u [] n := by
  have hwarp : ∀ k, t.warp? k = if k = w.wid then
      (s.warp? k).map (fun v => ((Warp.update x r u v).queued q).advance) else s.warp? k := by
    intro k
    rw [← State.warp?_onWarp s w.wid k _ (by intro v; exact (Warp.advance_wid _).trans (hu v))]
    unfold State.warp?
    rw [ht]
  have hfibre : ∀ l, t.fibre? w.wid l = (w.fibre? l).map (onLanes x r) := by
    intro l
    unfold State.fibre?
    rw [hwarp, if_pos rfl, hslot, Option.map_some, Option.bind_some]
    unfold Warp.fibre?
    rw [Warp.advance_fibres]
    exact find?_map_keep Fibre.lane _ _ _ (onLanes_lane x hr)
  refine ⟨?_, fun f hf => (List.not_mem_nil hf).elim, ?_, ⟨((Warp.update x r u w).queued q).advance, ?_, ?_⟩, ?_⟩
  · intro f hf
    rw [hfibre, hx f hf, Option.map_some, onLanes_own hn r hf]
  · intro l hl
    rw [hfibre]
    unfold State.fibre?
    rw [hslot, Option.bind_some]
    cases hfl : w.fibre? l with
    | none => rfl
    | some f =>
      rw [Option.map_some, onLanes_other]
      rw [Warp.fibre?_lane hfl]
      exact fun k hk => hl k (List.mem_append_left [] hk)
  · rw [hwarp, if_pos rfl, hslot]
    rfl
  · rw [Warp.advance_update_queued]
  · intro k hk
    rw [hwarp, if_neg hk]

/-- The outcome of an issue whose effect changes its executing fibres by `r` and the registers of its warp by `u`, and leaves
memory as it was and the units as they are in `q`. -/
theorem issue_changes {s s2 q : State} {i : Instr} {w : Warp} {a : Active} {g : Group} {x e gp : List Fibre} {m : Meaning}
    (h : Issues s i w a g x e gp) (ho : NoOpenOperand i g x e) (hx : x ≠ []) (hf : i.shape.fs = none)
    (hs : ∀ f ∈ w.bundle a, m.static w g f = none)
    (hc : ∀ l ∈ (s.issueExec w a g i x).lanes, m.check s.fresh.2 (s.issueExec w a g i x) l = none)
    (hroom : m.room s.fresh.2 (s.issueExec w a g i x) = none)
    (hp : m.perform (s.issueExec w a g i x) s.fresh.2 = some s2)
    {r : Fibre → Fibre → Fibre} {u : Warp → Warp} (hr : ∀ k f, (r k f).lane = f.lane) (hu : ∀ v, (u v).wid = v.wid)
    (hw : s2.warps = (s.onWarp w.wid (Warp.update x r u)).warps) (hmem : SameMemory s s2) (hunits : SameUnits q s2) :
    ∃ t, s.issue i m = .next t ∧ Changes s t w x (fun f => r f f) u (countedLate s w i g e) (flagOf i a) ∧
      SameMemory s t ∧ SameUnits q t := by
  have hp' : (if x.isEmpty then some s.fresh.2 else m.perform (s.issueExec w a g i x) s.fresh.2) = some s2 := by
    rw [if_neg (by simpa using hx), hp]
  obtain ⟨⟨n, hwarps⟩, hmem', hunits'⟩ := after_quiet (a := a) gp hf ho (U := Warp.update x r u) hu hw
  refine ⟨_, issue_next h hs hc hroom hp', ?_, hmem.trans hmem', hunits.trans hunits'⟩
  rw [countedLate_of_noFlag s w g e hf]
  exact changes_of_update h.slot h.nodup (fun f hfx => h.fibre hfx) hr hu hwarps

/-! ## An issue that traps or waits -/

/-- An instruction that may issue is checked for every fibre of its bundle, and its body runs where no check finds a cause. -/
theorem issue_decoded {s : State} {i : Instr} {w : Warp} {a : Active} {g : Group} {x e gp : List Fibre} (m : Meaning)
    (h : Issues s i w a g x e gp) :
    s.issue i m = .next ((firstCause (w.bundle a) (m.decode w g i.shape)).elim (s.issueBody w a g i m)
      (fun c => s.trapHere w a a.lanes c)) := by
  unfold State.issue
  rw [h.warp]
  simp only [h.clause, h.group]
  unfold State.issueAt
  simp only [h.unparked, h.unfaulted, h.role, Bool.false_eq_true, if_false, Bool.not_true]
  cases firstCause (w.bundle a) (m.decode w g i.shape) <;> rfl

/-- An instruction that finds the same cause in every fibre of its bundle traps with it. -/
theorem issue_illegal {s : State} {i : Instr} {w : Warp} {a : Active} {g : Group} {x e gp : List Fibre}
    {m : Meaning} {c : Cause} (h : Issues s i w a g x e gp) (hb : w.bundle a ≠ []) (hs : ∀ f ∈ w.bundle a, m.static w g f = some c) :
    s.issue i m = .next (s.trapHere w a a.lanes c) := by
  have hcause : firstCause (w.bundle a) (m.decode w g i.shape) = some c := by
    obtain ⟨f, t, hft⟩ := List.exists_cons_of_ne_nil hb
    have hf : f ∈ w.bundle a := hft ▸ List.mem_cons_self
    unfold firstCause
    rw [hft, List.findSome?_cons, Meaning.decode, if_pos (h.operands f hf), hs f hf]
  rw [issue_decoded m h, hcause]
  rfl

/-- An instruction whose checks find nothing and that does not perform yet holds the bundle for the clock. -/
theorem issue_waits {s : State} {i : Instr} {w : Warp} {a : Active} {g : Group} {x e gp : List Fibre} {m : Meaning}
    (h : Issues s i w a g x e gp) (hx : x ≠ []) (hs : ∀ f ∈ w.bundle a, m.static w g f = none)
    (hc : ∀ l ∈ (s.issueExec w a g i x).lanes, m.check s.fresh.2 (s.issueExec w a g i x) l = none)
    (hroom : m.room s.fresh.2 (s.issueExec w a g i x) = none)
    (hp : m.perform (s.issueExec w a g i x) s.fresh.2 = none) : s.issue i m = .next (s.advanceClock 1) := by
  have hdecode : firstCause (w.bundle a) (m.decode w g i.shape) = none := by
    unfold firstCause
    rw [List.findSome?_eq_none_iff]
    intro f hf
    rw [Meaning.decode, if_pos (h.operands f hf), hs f hf]
  have hcheck : firstCause (s.issueExec w a g i x).lanes (m.check s.fresh.2 (s.issueExec w a g i x)) = none := by
    unfold firstCause
    rw [List.findSome?_eq_none_iff]
    exact hc
  have hbody : s.issueBody w a g i m = s.advanceClock 1 := by
    unfold State.issueBody
    rw [h.fibres]
    dsimp only
    split
    · rfl
    · have htake : (x.map (w.laneIn g i.shape)).take x.length = x.map (w.laneIn g i.shape) :=
        List.take_of_length_le (by simp)
      simp only [State.issueExec] at hcheck hroom hp
      simp [State.fresh_fst, hcheck, hroom, hp, hx, htake]
  rw [issue_decoded m h, hdecode]
  exact congrArg _ hbody

end Sys2Proof.Machine
end

section
/-! The instructions on a warp's registers and on the special registers: YIELD, MODE, TMSET, PHASE, FWAIT, SREAD and SWRITE,
from what each makes of its executing fibres and of its warp. -/

namespace Sys2Proof.Machine

open Sys2Proof

/-! ## Operands and lanes of an issue -/

@[simp] theorem regPlus_zero (r : Reg) : regPlus r 0 = r := by
  cases r <;> simp [regPlus]

@[simp] theorem one_regs (r : Reg) : (one r).regs = [r] := by simp [one, Run.regs]

@[simp] theorem pairIf_false_regs (r : Reg) : (pairIf false r).regs = [r] := by simp [pairIf, evenRun, Run.regs]

@[simp] theorem pairIf_true_regs (r : Reg) : (pairIf true r).regs = [r, regPlus r 1] := by
  simp [pairIf, evenRun, Run.regs, List.range_succ]

/-- The executing fibre of the highest virtual lane. -/
theorem top_issueExec (s : State) (w : Warp) (a : Active) (g : Group) (i : Instr) (x : List Fibre) :
    (s.issueExec w a g i x).top = x.getLast?.map (w.laneIn g i.shape) := by
  rw [Exec.top, State.issueExec, List.getLast?_map]

/-- Changes of every executing fibre of an issue. -/
theorem each_issueExec {s : State} {w : Warp} {a : Active} {g : Group} {i : Instr} {x : List Fibre} (t : State)
    {u : LaneIn → Fibre → Fibre} (hn : (x.map Fibre.lane).Nodup) (hu : ∀ l f, (u l f).lane = f.lane) :
    (s.issueExec w a g i x).each t u = t.onWarp w.wid (Warp.update x (fun k => u (w.laneIn g i.shape k)) id) := by
  rw [← foldl_onFibre w.wid hn (fun k => hu _)]
  exact List.foldl_map

/-- An operand that a literal may supply, the first of the sources. -/
theorem laneIn_opt (w : Warp) (g : Group) {sh : Shape} {b : Src} {more : List Run}
    (hs : sh.srcs = srcRun b ++ more) (f : Fibre) :
    (w.laneIn g sh f).opt b 0 = f.operand g b := by
  cases b with
  | lit v => rfl
  | reg r => simp [LaneIn.opt, LaneIn.s, Warp.laneIn, Shape.srcRegs, hs, srcRun, Fibre.operand, Fibre.word]

/-- A register after an operand that a literal may supply. -/
theorem laneIn_afterOpt (w : Warp) (g : Group) {sh : Shape} {b : Src} {r : Reg} {more : List Run}
    (hs : sh.srcs = srcRun b ++ one r :: more) (f : Fibre) :
    (w.laneIn g sh f).s (afterOpt b 0) = f.word g r := by
  cases b <;> simp [afterOpt, LaneIn.s, Warp.laneIn, Shape.srcRegs, hs, srcRun, Fibre.word]

/-- A warp of which only the registers change. -/
theorem Warp.update_registers {x : List Fibre} {u : Warp → Warp} (hu : ∀ v, (u v).fibres = v.fibres) :
    Warp.update x (fun _ f => f) u = u := by
  funext v
  have hid : onLanes x (fun _ f => f) = id := by
    funext f
    unfold onLanes
    cases x.find? (fun k => k.lane = f.lane) <;> rfl
  rw [Warp.update, hid, List.map_id, ← hu]

/-- An instruction that issues with the meaning `m`, sets no flag, and checks nothing but its operands. -/
structure Plain (i : Instr) (m : Meaning) : Prop where
  means : ∀ s, exec i s = s.issue i m := by exact fun _ => rfl
  noFlag : i.shape.fs = none := by rfl
  unchecked : ∀ s x l, m.check s x l = none := by exact fun _ _ _ => rfl
  roomy : ∀ s x, m.room s x = none := by exact fun _ _ => rfl

/-- An instruction that changes its executing fibres and the registers of their warp, and nothing else. -/
theorem acts_of_update {i : Instr} {m : Meaning} {ok : State → Warp → Active → Group → List Fibre → Prop}
    {fibre : State → Warp → Active → Group → List Fibre → Fibre → Fibre}
    {u : State → Warp → Active → Group → List Fibre → Warp → Warp}
    (r : State → Warp → Active → Group → List Fibre → Fibre → Fibre → Fibre)
    (hfibre : ∀ s w a g x f, r s w a g x f f = fibre s w a g x f) (hi : Plain i m)
    (hs : ∀ s w a g x f, ok s w a g x → m.static w g f = none)
    (hr : ∀ s w a g x k f, (r s w a g x k f).lane = f.lane) (hu : ∀ s w a g x v, (u s w a g x v).wid = v.wid)
    (hp : ∀ (s : State) (w : Warp) (a : Active) (g : Group) (x e gp : List Fibre), Issues s i w a g x e gp →
      NoOpenOperand i g x e → x ≠ [] → ok s w a g x → m.perform (s.issueExec w a g i x) s.fresh.2
        = some (s.fresh.2.onWarp w.wid (Warp.update x (r s w a g x) (u s w a g x)))) :
    Acts i { ok := ok, fibre := fibre, warp := u } := by
  intro s w a g x e gp h ho hx hok
  dsimp only
  rw [hi.means, ← (funext (hfibre s w a g x) : (fun f => r s w a g x f f) = fibre s w a g x)]
  refine issue_changes (q := s) (r := r s w a g x) h ho hx hi.noFlag (fun f _ => hs s w a g x f hok)
    (fun l _ => hi.unchecked _ _ l) (hi.roomy _ _)
    (hp s w a g x e gp h ho hx hok) (hr s w a g x) (hu s w a g x) rfl ?_ ?_
  · intro who p
    apply readByte_congr <;> rfl
  · constructor <;> rfl

/-- An instruction that changes registers of its warp alone. -/
theorem acts_of_registers {i : Instr} {m : Meaning} {u : State → Warp → Active → Group → List Fibre → Warp → Warp}
    (hi : Plain i m) (hs : ∀ w g f, m.static w g f = none)
    (hu : ∀ s w a g x v, (u s w a g x v).wid = v.wid) (hv : ∀ s w a g x v, (u s w a g x v).fibres = v.fibres)
    (hp : ∀ (s : State) (w : Warp) (a : Active) (g : Group) (x : List Fibre), x ≠ [] →
      m.perform (s.issueExec w a g i x) s.fresh.2 = some (s.fresh.2.onWarp w.wid (u s w a g x))) : Acts i { warp := u } := by
  refine acts_of_update (fun _ _ _ _ _ _ f => f) (fun _ _ _ _ _ _ => rfl) hi
    (fun _ w _ g _ f _ => hs w g f) (fun _ _ _ _ _ _ _ => rfl) hu ?_
  intro s w a g x e gp _ _ hx _
  rw [hp s w a g x hx, Warp.update_registers (hv s w a g x)]

/-- An instruction that changes registers of its warp by the operands of its highest virtual lane (R118). -/
theorem acts_of_top {i : Instr} {m : Meaning} (u : State → Group → Fibre → Warp → Warp)
    (hi : Plain i m) (hs : ∀ w g f, m.static w g f = none)
    (hu : ∀ s g f v, (u s g f v).wid = v.wid) (hv : ∀ s g f v, (u s g f v).fibres = v.fibres)
    (hp : ∀ (s : State) (w : Warp) (a : Active) (g : Group) (x : List Fibre),
      m.perform (s.issueExec w a g i x) s.fresh.2
        = (s.issueExec w a g i x).top.map (fun l => s.fresh.2.onWarp w.wid (u s g l.f))) :
    Acts i { warp := fun s _ _ g x v => match x.getLast? with
      | some f => u s g f v
      | none => v } := by
  refine acts_of_registers hi hs ?_ ?_ ?_
  · intro s w a g x v
    cases x.getLast? <;> simp [hu]
  · intro s w a g x v
    cases x.getLast? <;> simp [hv]
  · intro s w a g x hx
    obtain ⟨f, hlast⟩ := Option.isSome_iff_exists.mp (List.getLast?_isSome.mpr hx)
    simp only [hp, top_issueExec, hlast, Option.map_some]
    rfl

/-- An effect under a stronger condition. -/
theorem Acts.weaken {i : Instr} {act : OwnEffect} (h : Acts i act)
    {ok : State → Warp → Active → Group → List Fibre → Prop}
    (himp : ∀ s w a g x, ok s w a g x → act.ok s w a g x) : Acts i { act with ok := ok } :=
  fun s w a g x e gp hi ho hx hok => h s w a g x e gp hi ho hx (himp s w a g x hok)

/-- Words of one fibre of an issue, without flags, exceptions and draws. -/
theorem landLane_words (s : State) {x : Exec} {l : LaneIn} {ws : List Word} (hx : x.entry = none)
    (hq : ∀ p ∈ x.writes l.base ws, p.1 ∉ x.g.openRegs l.f.id) :
    s.landLane x l { dst := ws } = s.onFibre x.w.wid l.f.lane (x.land l { dst := ws }) := by
  have hfp : ∀ v : Warp, v.fpst ||| 0 = v.fpst := fun v => BitVec.or_zero
  rw [landLane_issue s x l _ hx hq]
  simp only [hfp]
  rfl

/-- Words of one fibre after another, which depend on the state in its clock and the cores' counters: they are those of the
state `t` before the first lands. -/
theorem foldl_landLane_words {t : State} {x : Exec} {words : State → LaneIn → List Word} (hx : x.entry = none)
    (hwords : ∀ v l, v.clock = t.clock → v.cores = t.cores → words v l = words t l) (ls : List LaneIn)
    (hq : ∀ l ∈ ls, ∀ ws, ∀ p ∈ x.writes l.base ws, p.1 ∉ x.g.openRegs l.f.id) (v : State) (hclock : v.clock = t.clock)
    (hcores : v.cores = t.cores) :
    ls.foldl (fun v l => v.landLane x l { dst := words v l }) v
      = ls.foldl (fun v l => v.onFibre x.w.wid l.f.lane (x.land l { dst := words t l })) v := by
  induction ls generalizing v with
  | nil => rfl
  | cons l ls ih =>
    rw [List.foldl_cons, List.foldl_cons, landLane_words v hx (hq l List.mem_cons_self _), hwords v l hclock hcores]
    exact ih (fun k hk => hq k (List.mem_cons_of_mem l hk)) _ hclock hcores

/-- Words that each executing fibre lands by itself, which depend on the state in their clock and the cores' counters. -/
theorem landWords_issueExec {s : State} {w : Warp} {a : Active} {g : Group} {i : Instr} {x e gp : List Fibre}
    (h : Issues s i w a g x e gp) (ho : NoOpenOperand i g x e) (words : State → LaneIn → List Word)
    (hwords : ∀ t u l, t.clock = u.clock → t.cores = u.cores → words t l = words u l) (t : State) :
    (s.issueExec w a g i x).lanes.foldl (fun t l => t.landLane (s.issueExec w a g i x) l { dst := words t l }) t
      = t.onWarp w.wid (Warp.update x (fun k => (s.issueExec w a g i x).land (w.laneIn g i.shape k)
          { dst := words t (w.laneIn g i.shape k) }) id) := by
  rw [← each_issueExec t (u := fun l => (s.issueExec w a g i x).land l { dst := words t l }) h.nodup
    (fun l f => Fibre.result_lane _ _ _ _ _)]
  have hquiet : ∀ l ∈ (s.issueExec w a g i x).lanes, ∀ ws, ∀ p ∈ (s.issueExec w a g i x).writes l.base ws,
      p.1 ∉ (s.issueExec w a g i x).g.openRegs l.f.id := by
    intro l hl ws p hp
    obtain ⟨f, hf, rfl⟩ := List.mem_map.mp hl
    exact ho f (List.mem_append_left e hf) p.1 (Exec.writes_places _ _ _ hp)
  exact foldl_landLane_words rfl (t := t) (fun v l => hwords v t l) _ hquiet t rfl rfl

/-! ## YIELD, MODE, TMSET, PHASE (R68, R88, R117 to R121) -/

/-- The fibre parked at a place (R37, R122). -/
def Fibre.parked (f : Fibre) (wt : Wait) (p : Pos) : Fibre := { f with park := some { wait := wt, at_ := p } }

/-- All executing fibres of an issue parked at it. -/
theorem park_issueExec {s : State} {w : Warp} {a : Active} {g : Group} {i : Instr} {x : List Fibre} (t : State) (wt : Wait)
    (hn : (x.map Fibre.lane).Nodup) :
    (s.issueExec w a g i x).lanes.foldl (fun t l => (s.issueExec w a g i x).park t l wt) t
      = t.onWarp w.wid (Warp.update x (fun _ f => f.parked wt { hdr := a.hdr, idx := a.idx, mid := true }) id) :=
  each_issueExec (s := s) (a := a) (i := i) t (u := fun _ f => f.parked wt { hdr := a.hdr, idx := a.idx, mid := true }) hn
    (fun _ _ => rfl)

theorem yieldI_acts (gd : Guard) : Acts (.yieldI gd) {
    fibre := fun s w a g _ f => if (s.ctx? g.ctx).any (fun c => c.state = 1) && w.handler.isNone then
      f.parked .yielding { hdr := a.hdr, idx := a.idx, mid := true } else f
    warp := fun _ _ _ _ _ v => { v with offered := true } } := by
  refine acts_of_update (i := .yieldI gd) (m := meanYieldI)
    (fun s w a g _ _ f => if (s.ctx? g.ctx).any (fun c => c.state = 1) && w.handler.isNone then
      f.parked .yielding { hdr := a.hdr, idx := a.idx, mid := true } else f)
    (fun _ _ _ _ _ _ => rfl) {} (fun _ _ _ _ _ _ _ => rfl) ?_ (fun _ _ _ _ _ _ => rfl) ?_
  · intro s w a g x k f
    split <;> rfl
  · intro s w a g x e gp h ho hx _
    cases hpend : (s.ctx? g.ctx).any (fun c => c.state = 1) && w.handler.isNone with
    | false =>
      refine congrArg some ((if_neg (by rw [Bool.not_eq_true]; exact hpend)).trans ?_)
      simp only [Bool.false_eq_true, if_false]
      rw [Warp.update_registers (u := fun v => { v with offered := true }) (fun _ => rfl)]
      rfl
    | true =>
      refine congrArg some ((if_pos hpend).trans ((park_issueExec _ .yielding h.nodup).trans ?_))
      exact State.onWarp_onWarp _ _ _ _ (by intro v; rfl)

theorem ofNat_two_bits (p q : Bool) : BitVec.ofNat 2 (2 * p.toNat + q.toNat) = BitVec.ofBool p ++ BitVec.ofBool q := by
  cases p <;> cases q <;> rfl

theorem modeWith_bits (m : BitVec 2) (policy defer : Option Bool) :
    modeWith m policy defer = BitVec.ofBool (policy.getD (m.getLsbD 1)) ++ BitVec.ofBool (defer.getD (m.getLsbD 0)) := by
  have hhigh : decide (m.toNat / 2 = 1) = m.getLsbD 1 := by revert m; decide
  have hlow : decide (m.toNat % 2 = 1) = m.getLsbD 0 := by revert m; decide
  rw [modeWith, ofNat_two_bits, hhigh, hlow]

theorem mode_acts (gd : Guard) (policy defer : Option Bool) : Acts (.mode gd policy defer) {
    warp := fun _ _ _ _ _ v =>
      { v with modeNext := BitVec.ofBool (policy.getD (v.modeNext.getLsbD 1))
        ++ BitVec.ofBool (defer.getD (v.modeNext.getLsbD 0)) } } :=
  acts_of_registers (m := meanMode policy defer) {} (fun _ _ _ => rfl) (fun _ _ _ _ _ _ => rfl) (fun _ _ _ _ _ _ => rfl)
    (fun s w a g x _ => by simp only [meanMode, modeWith_bits, State.issueExec])

theorem cyc_low (s : State) (w : Warp) : (s.cyc w).setWidth 32 = BitVec.ofNat 32 (s.clock + w.cycOff) :=
  BitVec.setWidth_ofNat_of_le (by decide) _

theorem timerAt_cyc (s : State) (w : Warp) (delta : Word) :
    timerAt (s.cyc w) delta = if delta = 0 then 0 else if BitVec.ofNat 32 (s.clock + w.cycOff) + delta = 0 then 1
      else BitVec.ofNat 32 (s.clock + w.cycOff) + delta := by
  rw [timerAt, cyc_low]

theorem tmset_acts (gd : Guard) (delta : Src) : Acts (.tmset gd delta) {
    warp := fun s _ _ g x v => match x.getLast? with
      | some f => { v with tmcmp := timerAt (s.cyc v) (f.operand g delta) }
      | none => v } := by
  refine acts_of_top (m := meanTmset delta) (fun s g f v => { v with tmcmp := timerAt (s.cyc v) (f.operand g delta) })
    {} (fun _ _ _ => rfl) (fun _ _ _ _ => rfl) (fun _ _ _ _ => rfl) ?_
  intro s w a g x
  have hopt := laneIn_opt w g (sh := (Instr.tmset gd delta).shape) (b := delta) (more := []) (List.append_nil _).symm
  simp only [meanTmset, top_issueExec, Option.map_map, Function.comp_def, hopt]
  rfl

theorem phase_acts (gd : Guard) (count : Src) (margin : Reg) : Acts (.phase gd count margin) {
    warp := fun s _ _ g x v => match x.getLast? with
      | some f => { v with phlim := phaseLimit (f.operand g count) (f.word g margin), phHeld := 0, phFrom := s.clock }
      | none => v } := by
  refine acts_of_top (m := meanPhase count)
    (fun s g f v => { v with phlim := phaseLimit (f.operand g count) (f.word g margin), phHeld := 0, phFrom := s.clock })
    {} (fun _ _ _ => rfl) (fun _ _ _ _ => rfl) (fun _ _ _ _ => rfl) ?_
  intro s w a g x
  have hopt := laneIn_opt w g (sh := (Instr.phase gd count margin).shape) (b := count) (more := [one margin]) rfl
  have hafter := laneIn_afterOpt w g (sh := (Instr.phase gd count margin).shape) (b := count) (more := []) rfl
  simp only [meanPhase, top_issueExec, Option.map_map, Function.comp_def, hopt, hafter]
  rfl

theorem warpRegisters : Claims.WarpRegisters := by
  unfold Claims.WarpRegisters
  refine ⟨yieldI_acts, mode_acts, fun gd delta => ?_, phase_acts⟩
  simp only [← timerAt_cyc]
  exact tmset_acts gd delta

/-! ## FWAIT (R115, R235) -/

/-- The named flags of a fibre are all 0. -/
theorem flagsOf_all_iff (m : BitVec 12) (f : Fibre) :
    (flagsOf m).all (fun i => f.flag i = 0) = true ↔ ∀ n, n < 12 → m.getLsbD n = true → f.flag n = 0 := by
  simp only [flagsOf, List.all_filter, List.all_eq_true, List.mem_range, BitVec.getLsbD, Nat.testBit_eq_decide_div_mod_eq,
    decide_eq_true_eq, Bool.or_eq_true, Bool.not_eq_true', decide_eq_false_iff_not, Decidable.imp_iff_not_or]

/-- Whether FWAIT finds the named flags of every executing fibre 0. -/
theorem fwait_clear_iff (s : State) (w : Warp) (a : Active) (g : Group) (i : Instr) (x : List Fibre) (m : BitVec 12) :
    (s.issueExec w a g i x).lanes.all (fun l => (flagsOf m).all (fun n => l.f.flag n = 0)) = true
      ↔ ∀ f ∈ x, ∀ n, n < 12 → m.getLsbD n = true → f.flag n = 0 := by
  rw [State.issueExec, List.all_map, List.all_eq_true]
  exact forall₂_congr fun f _ => flagsOf_all_iff m f

theorem flagWait : Claims.FlagWait := by
  unfold Claims.FlagWait
  intro clear
  refine ⟨fun gd m s w a g x e gp h ho hx hclear => ?_, fun s w a g x e gp gd m h f hf hset => ?_⟩
  · have hp : (meanFwait m).perform (s.issueExec w a g (.fwait gd m) x) s.fresh.2
        = some (if m = 0 then s.fresh.2 else s.fresh.2.dropL1 (coreOf w.wid)) :=
      if_pos ((fwait_clear_iff s w a g _ x m).mpr hclear)
    refine issue_changes (m := meanFwait m) (r := fun _ f => f) (u := id) h ho hx rfl (fun _ _ => rfl) (fun _ _ => rfl) rfl
      hp (fun _ _ => rfl) (fun _ => rfl) ?_ ?_ ?_
    · rw [Warp.update_registers (u := id) (fun _ => rfl)]
      split <;> simp [State.onWarp, State.dropL1, State.fresh]
    · intro who p
      apply readByte_congr <;> (split <;> rfl)
    · dsimp only
      split <;> (constructor <;> rfl)
  · have hp : (meanFwait m).perform (s.issueExec w a g (.fwait gd m) x) s.fresh.2 = none :=
      if_neg (fun hall => hset ((fwait_clear_iff s w a g _ x m).mp hall f hf))
    exact issue_waits (m := meanFwait m) h (List.ne_nil_of_mem hf) (fun _ _ => rfl) (fun _ _ => rfl) rfl hp

/-! ## SREAD (R67, R124) -/

/-- Reads of a special register depend on the clock and the cores' counters, besides the warp, the group and the fibre. -/
theorem special_congr {s t : State} (hclock : t.clock = s.clock) (hcores : t.cores = s.cores) (w : Warp) (g : Group) (f : Fibre)
    (i : Nat) : t.special w g f i = s.special w g f i := by
  unfold State.special State.cyc State.phcnt State.core
  rw [hclock, hcores]

/-- The indices of the special registers (R67). -/
theorem srAccess_isSome_iff (i : Nat) : (srAccess i).isSome = true ↔
    (i ≤ 0x0C ∨ (0x10 ≤ i ∧ i ≤ 0x14) ∨ (0x18 ≤ i ∧ i ≤ 0x1C) ∨ (0x20 ≤ i ∧ i ≤ 0x24) ∨ (0x28 ≤ i ∧ i ≤ 0x2D)
      ∨ (0x30 ≤ i ∧ i ≤ 0x34)) := by
  unfold srAccess
  repeat' split
  all_goals simp_all
  all_goals omega

/-- Whether SREAD of an index is legal (R67, R124). -/
theorem srLegal_read_iff (two : Bool) (i : Nat) (w : Warp) : srLegal false two i w = true ↔
    (i ≤ 0x0C ∨ (0x10 ≤ i ∧ i ≤ 0x14) ∨ (0x18 ≤ i ∧ i ≤ 0x1C) ∨ (0x20 ≤ i ∧ i ≤ 0x24) ∨ (0x28 ≤ i ∧ i ≤ 0x2D)
      ∨ (0x30 ≤ i ∧ i ≤ 0x34)) ∧ (two = true → i = 0x0A ∨ i = 0x10 ∨ i = 0x20 ∨ i = 0x28 ∨ i = 0x2A ∨ i = 0x2C) := by
  rw [← srAccess_isSome_iff]
  unfold srLegal
  cases srAccess i <;> cases two <;> simp [srPairs]

/-- The special registers that a warp may write: five of them in a trap handler alone (R67). -/
theorem srAccess_writable_iff (i : Nat) (w : Warp) : (srAccess i).any (fun a => a.writable w) = true ↔
    ((0x18 ≤ i ∧ i ≤ 0x1C) ∨ i = 0x22 ∨ (0x28 ≤ i ∧ i ≤ 0x2D) ∨ (0x10 ≤ i ∧ i ≤ 0x14 ∧ w.handler ≠ none)) := by
  unfold srAccess SrAccess.writable
  cases w.handler
  all_goals
    repeat' split
    all_goals simp_all
    all_goals omega

/-- Whether SWRITE of an index is legal (R67, R124). -/
theorem srLegal_write_iff (two : Bool) (i : Nat) (w : Warp) : srLegal true two i w = true ↔
    ((0x18 ≤ i ∧ i ≤ 0x1C) ∨ i = 0x22 ∨ (0x28 ≤ i ∧ i ≤ 0x2D) ∨ (0x10 ≤ i ∧ i ≤ 0x14 ∧ w.handler ≠ none)) ∧
      (two = true → i = 0x10 ∨ i = 0x28 ∨ i = 0x2A ∨ i = 0x2C) := by
  rw [← srAccess_writable_iff]
  unfold srLegal
  cases srAccess i <;> cases two <;> simp [srPairs]

/-- The words that SREAD gives a fibre. -/
def State.specials (s : State) (two : Bool) (w : Warp) (g : Group) (f : Fibre) (i : Nat) : List Word :=
  if two then [s.special w g f i, s.special w g f (i + 1)] else [s.special w g f i]

theorem sread_acts (gd : Guard) (d : Reg) (idx : BitVec 8) (two : Bool) : Acts (.sread gd d idx two) {
    ok := fun _ w _ _ _ => srLegal false two idx.toNat w = true
    fibre := fun s w _ g _ f =>
      if two then (f.gets g d (s.special w g f idx.toNat)).gets g (regPlus d 1) (s.special w g f (idx.toNat + 1))
      else f.gets g d (s.special w g f idx.toNat) } := by
  refine acts_of_update (i := .sread gd d idx two) (m := meanSread idx two)
    (fun s w a g x k => (s.issueExec w a g (.sread gd d idx two) x).land (w.laneIn g (Instr.sread gd d idx two).shape k)
      { dst := s.specials two w g k idx.toNat })
    ?_ {} (fun _ _ _ _ _ _ hlegal => if_pos hlegal)
    (fun _ _ _ _ _ _ _ => Fibre.result_lane _ _ _ _ _) (fun _ _ _ _ _ _ => rfl) ?_
  · intro s w a g x f
    rw [land_issueExec]
    cases two
    · simpa [Shape.dstRegs, Instr.shape, State.specials, Warp.laneIn] using result_plain f g d _ none
    · simpa [Shape.dstRegs, Instr.shape, State.specials, Warp.laneIn] using result_pair_plain f g d (regPlus d 1) _ _ none
  · intro s w a g x e gp h ho _ _
    refine congrArg some (Eq.trans ?_ (landWords_issueExec h ho (fun t l => t.specials two w g l.f idx.toNat) ?_ s.fresh.2))
    · unfold State.specials
      rfl
    · intro t u l hclock hcores
      simp only [State.specials, special_congr hclock hcores]

theorem sread_illegal {s : State} {w : Warp} {a : Active} {g : Group} {x e gp : List Fibre} {gd : Guard} {d : Reg}
    {idx : BitVec 8} {two : Bool} (h : Issues s (.sread gd d idx two) w a g x e gp) (hb : w.bundle a ≠ [])
    (hi : ¬ srLegal false two idx.toNat w = true) :
    exec (.sread gd d idx two) s = .next (s.trapHere w a a.lanes { cls := 3 }) :=
  issue_illegal (m := meanSread idx two) h hb (fun _ _ => if_neg hi)

/-- A word of a wider register. -/
theorem setWidth_shiftRight {n : Nat} (v : BitVec n) (k : Nat) : (v >>> k).setWidth 32 = BitVec.ofNat 32 (v.toNat / 2 ^ k) := by
  apply BitVec.eq_of_toNat_eq
  simp [Nat.shiftRight_eq_div_pow]

/-- The high word of the cycle counter (R67). -/
theorem cyc_high (s : State) (w : Warp) :
    BitVec.ofNat 32 ((s.cyc w).toNat / 4294967296) = BitVec.ofNat 32 ((s.clock + w.cycOff) / 4294967296) := by
  apply BitVec.eq_of_toNat_eq
  simp only [State.cyc, BitVec.toNat_ofNat]
  omega

/-- A value looked up in a list of numbered values that a function gives. -/
theorem find?_getD_eq {l : Sparse Word} {value : Nat → Word} {i : Nat} (hl : ∀ e ∈ l, e.2 = value e.1)
    (hi : i ∈ l.map Prod.fst) : ((l.find? (fun e => e.1 = i)).map Prod.snd).getD 0 = value i := by
  cases hfind : l.find? (fun e => e.1 = i) with
  | none =>
    obtain ⟨e, he, rfl⟩ := List.mem_map.mp hi
    simpa using List.find?_eq_none.mp hfind e he
  | some e =>
    have hkey : e.1 = i := by simpa using List.find?_some hfind
    exact hkey ▸ hl e (List.mem_of_find?_eq_some hfind)

theorem specialRegisterReads : Claims.SpecialRegisterReads := by
  unfold Claims.SpecialRegisterReads
  intro low value listed
  have hvalue : ∀ s w g f i, listed i → value s w g f i = s.special w g f i := by
    intro s w g f i hi
    refine find?_getD_eq (value := s.special w g f) ?_ ?_
    · -- Every entry but the role's code (0x09) is the model's word, its shifts read as quotients.
      simp [low, State.special, State.phcnt, cyc_low, cyc_high, setWidth_shiftRight, Warp.vlane, coreOf, quadOf, dieOf,
        Nat.div_div_eq_div_mul]
      cases w.role <;> rfl
    · simp only [List.map_cons, List.map_nil, List.mem_cons, List.not_mem_nil, or_false]
      simp only [listed] at hi
      omega
  have hpair : ∀ i, (i = 0x0A ∨ i = 0x10 ∨ i = 0x20 ∨ i = 0x28 ∨ i = 0x2A ∨ i = 0x2C) → listed i ∧ listed (i + 1) := by
    intro i hi
    simp only [listed]
    omega
  refine ⟨fun gd d idx => ?_, fun gd d idx => ?_, fun s w a g x e gp gd d idx two h hb hi => ?_⟩
  · intro s w a g x e gp h ho hx hok
    have := sread_acts gd d idx false s w a g x e gp h ho hx ((srLegal_read_iff _ _ w).mpr ⟨hok, by simp⟩)
    dsimp only at hok
    simpa only [hvalue _ _ _ _ _ hok, Bool.false_eq_true, if_false] using this
  · intro s w a g x e gp h ho hx hok
    obtain ⟨h0, h1⟩ := hpair _ hok
    have := sread_acts gd d idx true s w a g x e gp h ho hx ((srLegal_read_iff _ _ w).mpr ⟨h0, fun _ => hok⟩)
    simpa only [hvalue _ _ _ _ _ h0, hvalue _ _ _ _ _ h1, if_true] using this
  · exact sread_illegal h hb (fun hl => hi ((srLegal_read_iff _ _ w).mp hl))

/-! ## SWRITE (R6, R67, R118, R124) -/

@[simp] theorem Fibre.setSpecial_lane (f : Fibre) (i : Nat) (v : Word) : (f.setSpecial i v).lane = f.lane := by
  unfold Fibre.setSpecial
  split <;> rfl

@[simp] theorem Warp.setSpecial_wid (w : Warp) (i : Nat) (v : Word) : (w.setSpecial i v).wid = w.wid := by
  unfold Warp.setSpecial
  split <;> rfl

theorem Warp.setSpecial_with (w : Warp) (i : Nat) (v : Word) (l : List Fibre) :
    ({ w with fibres := l } : Warp).setSpecial i v = { w.setSpecial i v with fibres := l } := by
  unfold Warp.setSpecial
  split <;> rfl

/-- One word written to a special register by the executing fibres of an issue, of which `top` has the highest virtual lane. -/
theorem setSpecials_issueExec {s : State} {w : Warp} {a : Active} {g : Group} {i : Instr} {x : List Fibre}
    {top : Fibre} (t : State) (hn : (x.map Fibre.lane).Nodup) (htop : x.getLast? = some top) (j k : Nat) :
    (s.issueExec w a g i x).setSpecials t j k
      = t.onWarp w.wid (Warp.update x (fun q f => f.setSpecial j ((w.laneIn g i.shape q).s k))
          (fun v => v.setSpecial j ((w.laneIn g i.shape top).s k))) := by
  unfold Exec.setSpecials
  rw [each_issueExec t hn (fun l f => Fibre.setSpecial_lane f j (l.s k)), top_issueExec, htop]
  refine (State.onWarp_onWarp _ _ _ _ (by intro v; rfl)).trans (congrArg (State.onWarp t w.wid) ?_)
  funext v
  exact Warp.setSpecial_with v j _ _

/-- Whether SWRITE of the generator's key or counter waits for draws of earlier entries (R80, R171). -/
theorem swrite_owed_iff (s : State) (w : Warp) (a : Active) (g : Group) (i : Instr) (x : List Fibre) (idx : BitVec 8) :
    (decide (0x28 ≤ idx.toNat) && (s.issueExec w a g i x).lanes.any (fun l => w.drawsOwed l.f)) = true
      ↔ 0x28 ≤ idx.toNat ∧ ∃ f ∈ x, w.drawsOwed f = true := by
  rw [Bool.and_eq_true, decide_eq_true_eq, State.issueExec, List.any_map, List.any_eq_true]
  rfl

theorem swrite_acts (gd : Guard) (ra : Reg) (idx : BitVec 8) (two : Bool) : Acts (.swrite gd ra idx two) {
    ok := fun _ w _ _ x => srLegal true two idx.toNat w = true ∧ (0x28 ≤ idx.toNat → ∀ f ∈ x, w.drawsOwed f = false)
    fibre := fun _ _ _ g _ f =>
      if two then (f.setSpecial idx.toNat (f.word g ra)).setSpecial (idx.toNat + 1) (f.word g (regPlus ra 1))
      else f.setSpecial idx.toNat (f.word g ra)
    warp := fun _ _ _ g x v => match x.getLast? with
      | some f => if two then (v.setSpecial idx.toNat (f.word g ra)).setSpecial (idx.toNat + 1) (f.word g (regPlus ra 1))
        else v.setSpecial idx.toNat (f.word g ra)
      | none => v } := by
  have h0 : ∀ (w : Warp) (g : Group) (f : Fibre), (w.laneIn g (Instr.swrite gd ra idx two).shape f).s 0 = f.word g ra := by
    intro w g f
    cases two <;> simp [LaneIn.s, Warp.laneIn, Shape.srcRegs, Instr.shape, Fibre.word]
  have h1 : ∀ (w : Warp) (g : Group) (f : Fibre), two = true →
      (w.laneIn g (Instr.swrite gd ra idx two).shape f).s 1 = f.word g (regPlus ra 1) := by
    intro w g f ht
    simp [ht, LaneIn.s, Warp.laneIn, Shape.srcRegs, Instr.shape, Fibre.word]
  refine acts_of_update (i := .swrite gd ra idx two) (m := meanSwrite idx two)
    (fun _ _ _ g _ k f =>
      if two then (f.setSpecial idx.toNat (k.word g ra)).setSpecial (idx.toNat + 1) (k.word g (regPlus ra 1))
      else f.setSpecial idx.toNat (k.word g ra))
    (fun _ _ _ _ _ _ => rfl) {} (fun _ _ _ _ _ _ hok => if_pos hok.1) ?_ ?_ ?_
  · intro s w a g x k f
    split <;> simp
  · intro s w a g x v
    cases x.getLast? <;> cases two <;> simp
  · intro s w a g x e gp h ho hx hok
    obtain ⟨top, htop⟩ := Option.isSome_iff_exists.mp (List.getLast?_isSome.mpr hx)
    refine (if_neg (mt (swrite_owed_iff s w a g _ x idx).mp ?_)).trans (congrArg some ?_)
    · rintro ⟨hidx, f, hf, howed⟩
      rw [hok.2 hidx f hf] at howed
      exact Bool.false_ne_true howed
    · rw [htop]
      have hfirst := setSpecials_issueExec (s := s) (w := w) (a := a) (g := g) (i := .swrite gd ra idx two) s.fresh.2
        h.nodup htop idx.toNat 0
      simp only [h0] at hfirst
      rw [hfirst]
      cases two with
      | false => rfl
      | true =>
        refine (setSpecials_issueExec _ h.nodup htop (idx.toNat + 1) 1).trans ?_
        simp only [h1 _ _ _ rfl]
        refine (State.onWarp_onWarp _ _ _ _ (by intro v; exact Warp.setSpecial_wid v _ _)).trans ?_
        congr 1
        funext v
        exact Warp.update_update x _ _ (fun k f => Fibre.setSpecial_lane f _ _) (fun v l => Warp.setSpecial_with v _ _ l) v

theorem swrite_illegal {s : State} {w : Warp} {a : Active} {g : Group} {x e gp : List Fibre} {gd : Guard} {ra : Reg}
    {idx : BitVec 8} {two : Bool} (h : Issues s (.swrite gd ra idx two) w a g x e gp) (hb : w.bundle a ≠ [])
    (hi : ¬ srLegal true two idx.toNat w = true) :
    exec (.swrite gd ra idx two) s = .next (s.trapHere w a a.lanes { cls := 3 }) :=
  issue_illegal (m := meanSwrite idx two) h hb (fun _ _ => if_neg hi)

theorem swrite_waits {s : State} {w : Warp} {a : Active} {g : Group} {x e gp : List Fibre} {gd : Guard} {ra : Reg}
    {idx : BitVec 8} {two : Bool} (h : Issues s (.swrite gd ra idx two) w a g x e gp) (hl : srLegal true two idx.toNat w = true)
    (hidx : 0x28 ≤ idx.toNat) {f : Fibre} (hf : f ∈ x) (howed : w.drawsOwed f = true) :
    exec (.swrite gd ra idx two) s = .next (s.advanceClock 1) :=
  issue_waits (m := meanSwrite idx two) h (List.ne_nil_of_mem hf) (fun _ _ => if_pos hl) (fun _ _ => rfl) rfl
    (if_pos ((swrite_owed_iff s w a g _ x idx).mpr ⟨hidx, f, hf, howed⟩))

/-- A digit of a number replaced: by quotient and remainder, or by taking the old digit away. -/
theorem replace_digit (v p d x : Nat) :
    v / (p * d) * (p * d) + x * p + v % p = v - v / p % d * p + x * p := by
  have hsplit : v = v / (p * d) * (p * d) + v / p % d * p + v % p := by
    calc v = p * (v / p) + v % p := (Nat.div_add_mod v p).symm
      _ = p * (d * (v / p / d) + v / p % d) + v % p := by rw [Nat.div_add_mod (v / p) d]
      _ = v / (p * d) * (p * d) + v / p % d * p + v % p := by rw [Nat.div_div_eq_div_mul, Nat.mul_add, ← Nat.mul_assoc,
          Nat.mul_comm (p * d), Nat.mul_comm p (v / p % d)]
  omega

/-- A word of a wide register replaced, by quotients and remainders. -/
theorem setWordOf_eq {n : Nat} (v : BitVec n) (k : Nat) (x : Word) :
    BitVec.ofNat n (v.toNat / 2 ^ (32 * (k + 1)) * 2 ^ (32 * (k + 1)) + x.toNat * 2 ^ (32 * k) + v.toNat % 2 ^ (32 * k))
      = setWordOf v k x := by
  rw [setWordOf, Nat.mul_succ, Nat.pow_add, replace_digit]

theorem fairOf_eq (v : Word) : fairOf v = if v.toNat = 0 then 1 else if 64 < v.toNat then 64 else v.toNat := by
  unfold fairOf
  split
  · rfl
  · split <;> omega

theorem specialRegisterWrites : Claims.SpecialRegisterWrites := by
  unfold Claims.SpecialRegisterWrites
  intro replace own shared permitted pair
  have hown : ∀ i v f, own i v f = f.setSpecial i v := by
    intro i v f
    simp only [own, replace, setWordOf_eq]
    refine Eq.symm ?_
    unfold Fibre.setSpecial
    split
    case h_11 =>
      simp only [imp_false] at *
      repeat rw [if_neg (by omega)]
    all_goals rfl
  have hshared : ∀ i v q, shared i v q = q.setSpecial i v := by
    intro i v q
    simp only [shared, replace, setWordOf_eq]
    refine Eq.symm ?_
    unfold Warp.setSpecial
    rw [fairOf_eq]
    split
    case h_8 => repeat rw [if_neg (by omega)]
    all_goals rfl
  refine ⟨fun gd ra idx => ?_, fun gd ra idx => ?_, fun s w a g x e gp gd ra idx two h hb hi => ?_,
    fun s w a g x e gp gd ra idx two h hl hidx f hf howed => ?_⟩
  · simp only [hown, hshared]
    exact (swrite_acts gd ra idx false).weaken fun s w a g x hok =>
      ⟨(srLegal_write_iff _ _ w).mpr ⟨hok.1, by simp⟩, hok.2⟩
  · simp only [hown, hshared]
    exact (swrite_acts gd ra idx true).weaken fun s w a g x hok =>
      ⟨(srLegal_write_iff _ _ w).mpr ⟨hok.1, fun _ => hok.2.1⟩, hok.2.2⟩
  · exact swrite_illegal h hb (fun hl => hi ((srLegal_write_iff _ _ w).mp hl))
  · exact swrite_waits h ((srLegal_write_iff _ _ w).mpr hl) hidx hf howed

/-- Settles O11, by what each of the instructions makes of its executing fibres and its warp, and by the legal indices. -/
theorem warpAndSpecialRegisters : Obligations.WarpAndSpecialRegisters :=
  ⟨warpRegisters, flagWait, specialRegisterReads, specialRegisterWrites⟩

end Sys2Proof.Machine
end

section
/-! The management map and attestation: what a write to a register does, links, and a report's bytes and where they go. -/

namespace Sys2Proof.Machine

open Sys2Proof

/-! ## Bytes of numbers -/

@[simp] theorem bytesOf_length (n v : Nat) : (bytesOf n v).length = n := by
  induction n generalizing v with
  | zero => rfl
  | succ n ih => exact congrArg Nat.succ (ih _)

theorem natOf_bytesOf (n v : Nat) : natOf (bytesOf n v) = v % 256 ^ n := by
  induction n generalizing v with
  | zero => rw [Nat.pow_zero, Nat.mod_one]; rfl
  | succ n ih =>
    rw [bytesOf, natOf, ih, BitVec.toNat_ofNat, Nat.pow_succ' (n := n)]
    exact (Nat.mod_mul (x := v) (a := 256) (b := 256 ^ n)).symm

/-- One byte of a number (R5). -/
theorem bytesOf_getElem? (n v k : Nat) (hk : k < n) : (bytesOf n v)[k]? = some (BitVec.ofNat 8 (v / 256 ^ k)) := by
  induction n generalizing v k with
  | zero => omega
  | succ n ih =>
    cases k with
    | zero => simp [bytesOf]
    | succ k => rw [bytesOf, List.getElem?_cons_succ, ih _ _ (by omega), Nat.div_div_eq_div_mul, Nat.pow_succ']

/-! ## Host memory -/

theorem State.setHosts_frame (s : State) (a : Nat) (bs : List Byte) :
    s.setHosts a bs = { s with mem := (s.setHosts a bs).mem } := by
  induction bs generalizing s a with
  | nil => rfl
  | cons b bs ih =>
    rw [State.setHosts, ih]
    rfl

/-- Bytes stored in host memory leave every other address as it was. -/
theorem State.rawByte_setHosts_ne (s : State) (a : Nat) (bs : List Byte) {p : Nat}
    (hp : ∀ i < bs.length, p ≠ hostAddr (a + i)) : (s.setHosts a bs).rawByte p = s.rawByte p := by
  induction bs generalizing s a with
  | nil => rfl
  | cons b bs ih =>
    rw [State.setHosts, ih, State.rawByte_setRaw_ne s b (by simpa using hp 0 (Nat.succ_pos _))]
    intro i hi
    simpa [Nat.add_assoc, Nat.add_comm 1] using hp (i + 1) (Nat.succ_lt_succ hi)

/-- Bytes stored in host memory are read where they were stored. -/
theorem State.rawByte_setHosts {s : State} (hwf : s.mem.wf = true) (a : Nat) (bs : List Byte) (ha : a + bs.length ≤ 2 ^ 48)
    {i : Nat} (hi : i < bs.length) : (s.setHosts a bs).rawByte (hostAddr (a + i)) = bs.getD i 0 := by
  induction bs generalizing s a i with
  | nil => exact (Nat.not_lt_zero _ hi).elim
  | cons b bs ih =>
    rw [List.length_cons] at ha hi
    rw [State.setHosts]
    cases i with
    | zero =>
      rw [State.rawByte_setHosts_ne]
      · exact State.rawByte_setRaw_same hwf _ b
      · intro j hj
        unfold hostAddr
        omega
    | succ i =>
      have := ih (State.setRaw_wf hwf (hostAddr a) b) (a + 1) (by omega) (i := i) (by omega)
      rwa [Nat.add_assoc, Nat.add_comm 1 i] at this

/-! ## Bytes at an offset -/

/-- The bytes `l` stand in `r` from offset `i` on. -/
def StandsAt (r : List Byte) (i : Nat) (l : List Byte) : Prop := ∃ a c, r = a ++ (l ++ c) ∧ a.length = i

theorem StandsAt.slice {r l : List Byte} {i : Nat} (h : StandsAt r i l) : (r.drop i).take l.length = l := by
  obtain ⟨a, c, rfl, rfl⟩ := h
  rw [List.drop_left, List.take_left]

theorem StandsAt.trans {r l m : List Byte} {i j : Nat} (h : StandsAt r i l) (h' : StandsAt l j m) : StandsAt r (i + j) m := by
  obtain ⟨a, c, rfl, rfl⟩ := h
  obtain ⟨a', c', rfl, rfl⟩ := h'
  exact ⟨a ++ a', c' ++ c, by simp, by simp⟩

theorem length_flatten_const {ls : List (List Byte)} {k : Nat} (h : ∀ l ∈ ls, l.length = k) :
    ls.flatten.length = k * ls.length := by
  rw [List.length_flatten, List.map_congr_left h, List.map_const', List.sum_replicate_nat, Nat.mul_comm]

/-- Each of the lists in a run stands behind those before it. -/
theorem standsAt_part (ls : List (List Byte)) {q : Nat} (hq : q < ls.length) :
    StandsAt ls.flatten (ls.take q).flatten.length ls[q] := by
  refine ⟨(ls.take q).flatten, (ls.drop (q + 1)).flatten, ?_, rfl⟩
  rw [← List.flatten_cons, List.getElem_cons_drop, ← List.flatten_append, List.take_append_drop]

/-- In a run of lists of one length, each stands at a multiple of it. -/
theorem standsAt_flatten {ls : List (List Byte)} {k : Nat} (h : ∀ l ∈ ls, l.length = k) {q : Nat} (hq : q < ls.length) :
    StandsAt ls.flatten (k * q) ls[q] := by
  have hlen : (ls.take q).flatten.length = k * q := by
    rw [length_flatten_const (fun l hl => h l (List.mem_of_mem_take hl)), List.length_take_of_le (Nat.le_of_lt hq)]
  exact hlen ▸ standsAt_part ls hq

theorem standsAt_byte {l : List Byte} {k : Nat} {b : Byte} (h : l[k]? = some b) : StandsAt l k [b] := by
  obtain ⟨hk, rfl⟩ := List.getElem?_eq_some_iff.mp h
  exact ⟨l.take k, l.drop (k + 1), by simp, List.length_take_of_le (Nat.le_of_lt hk)⟩

/-! ## Attestation reports (R349) -/

/-- Bits of a sum of distinct powers of 2. -/
theorem foldl_bits (b : Nat → Bool) (n : Nat) :
    (List.range n).foldl (fun m i => m + (b i).toNat * 2 ^ i) 0 < 2 ^ n ∧
      ∀ k < n, ((List.range n).foldl (fun m i => m + (b i).toNat * 2 ^ i) 0).testBit k = b k := by
  induction n with
  | zero => simp
  | succ n ih =>
    obtain ⟨hlt, hbits⟩ := ih
    rw [List.range_succ, List.foldl_append, List.foldl_cons, List.foldl_nil]
    generalize (List.range n).foldl (fun m i => m + (b i).toNat * 2 ^ i) 0 = m at hlt hbits
    have hb : (b n).toNat * 2 ^ n ≤ 2 ^ n := by cases b n <;> simp
    refine ⟨by rw [Nat.pow_succ]; omega, fun k hk => ?_⟩
    rw [Nat.add_comm, Nat.mul_comm, Nat.testBit_two_pow_mul_add _ hlt]
    split
    next hkn => exact hbits k hkn
    next hkn =>
      obtain rfl : k = n := by omega
      cases b k <;> simp

/-- The bits of a word of the presence map (R11, R352). -/
theorem presentWord_testBit (s : State) (c : Nat) {k : Nat} (hk : k < 32) :
    (s.presentWord c).toNat.testBit k = (s.core (c + k)).present := by
  obtain ⟨hlt, hbits⟩ := foldl_bits (fun i => (s.core (c + i)).present) 32
  rw [State.presentWord, BitVec.toNat_ofNat, Nat.mod_eq_of_lt hlt, hbits k hk]

/-- The bytes of the presence map in a report, word by word (R349). -/
def State.presence (s : State) : List (List Byte) := (List.range 16).map (fun i => bytesOf 4 (s.presentWord (32 * i)).toNat)

theorem presence_length (s : State) : s.presence.flatten.length = 64 := by
  rw [length_flatten_const (k := 4) (by simp [State.presence])]
  simp [State.presence]

/-- The bit of a core in the presence map (R11, R349). -/
theorem presence_bit (s : State) {c : Nat} (hc : c < 512) :
    ∃ b : Byte, StandsAt s.presence.flatten (c / 8) [b] ∧ b.toNat.testBit (c % 8) = (s.core c).present := by
  have hq : c / 32 < s.presence.length := by simp [State.presence]; omega
  have hword : StandsAt s.presence.flatten (4 * (c / 32)) (bytesOf 4 (s.presentWord (32 * (c / 32))).toNat) := by
    simpa [State.presence] using standsAt_flatten (k := 4) (by simp [State.presence]) hq
  have hbyte := hword.trans (standsAt_byte (bytesOf_getElem? 4 _ (c / 8 % 4) (Nat.mod_lt _ (by decide))))
  refine ⟨_, (by omega : 4 * (c / 32) + c / 8 % 4 = c / 8) ▸ hbyte, ?_⟩
  have hbit : c % 8 + 8 * (c / 8 % 4) < 32 := by omega
  have hcore : 32 * (c / 32) + (c % 8 + 8 * (c / 8 % 4)) = c := by omega
  rw [BitVec.toNat_ofNat, Nat.testBit_mod_two_pow, decide_eq_true (Nat.mod_lt c (by decide)), Bool.true_and,
    show 256 ^ (c / 8 % 4) = 2 ^ (8 * (c / 8 % 4)) from (Nat.pow_mul 2 8 _).symm, Nat.testBit_div_two_pow,
    presentWord_testBit s _ hbit, hcore]

/-- The device's public key at the length that a report has for it (R349). -/
def reportKey : List Byte := (Config.deviceKey ++ List.replicate 64 0).take 64

theorem reportKey_length : reportKey.length = 64 := by
  simp only [reportKey, List.length_take, List.length_append, List.length_replicate]
  omega

/-- The parts of a report's signed bytes, in order (R349). -/
def State.reportParts (s : State) : List (List Byte) :=
  [s.dev.attNonceIn, s.dev.measures.flatten, bytesOf 4 s.dev.modnum, bytesOf 4 s.dev.tiermode.toNat, bytesOf 24 0,
    s.presence.flatten, reportKey]

theorem reportBody_eq (s : State) : s.reportBody = s.reportParts.flatten := by
  simp only [State.reportBody, List.flatMap_def, State.reportParts, State.presence, reportKey, List.flatten_cons,
    List.flatten_nil, List.append_assoc, List.append_nil]

theorem reportParts_lengths {s : State} (hnonce : s.dev.attNonceIn.length = 32) (hregs : s.dev.measures.length = 16)
    (hreg : ∀ m ∈ s.dev.measures, m.length = 64) : s.reportParts.map List.length = [32, 1024, 4, 4, 24, 64, 64] := by
  simp only [State.reportParts, List.map_cons, List.map_nil, length_flatten_const hreg, hnonce, hregs, bytesOf_length,
    presence_length, reportKey_length]

theorem report_length {s : State} (hbody : s.reportBody.length = 0x4C0) : s.report.length = 0x4C0 + 29792 := by
  simp only [State.report, List.length_append, hbody, List.length_take, List.length_replicate]
  omega

/-- A padded list cut to a length that it already has. -/
theorem take_append_replicate {l : List Byte} {k : Nat} (h : l.length = k) (m : Nat) :
    (l ++ List.replicate m 0).take k = l := by
  rw [← h, List.take_left]

/-- Where the parts of a report stand (R349). -/
structure ReportLayout (s : State) : Prop where
  length : s.report.length = 0x4C0 + 29792
  nonce : StandsAt s.report 0 s.dev.attNonceIn
  measures : StandsAt s.report 0x20 s.dev.measures.flatten
  modnum : StandsAt s.report 0x420 (bytesOf 4 s.dev.modnum)
  tiermode : StandsAt s.report 0x424 (bytesOf 4 s.dev.tiermode.toNat)
  reserved : StandsAt s.report 0x428 (bytesOf 24 0)
  presence : StandsAt s.report 0x440 s.presence.flatten
  key : StandsAt s.report 0x480 reportKey
  body : s.report.take 0x4C0 = s.reportBody
  signature : s.report.drop 0x4C0 = (Config.slhSign s.reportBody ++ List.replicate 29792 0).take 29792

theorem reportLayout {s : State} (hnonce : s.dev.attNonceIn.length = 32) (hregs : s.dev.measures.length = 16)
    (hreg : ∀ m ∈ s.dev.measures, m.length = 64) : ReportLayout s := by
  have hlens := reportParts_lengths hnonce hregs hreg
  have hbody : s.reportBody.length = 0x4C0 := by rw [reportBody_eq, List.length_flatten, hlens]; rfl
  have hpart : ∀ q (hq : q < 7), StandsAt s.report (([32, 1024, 4, 4, 24, 64, 64] : List Nat).take q).sum s.reportParts[q] := by
    intro q hq
    have hbodyAt : StandsAt s.report 0 s.reportParts.flatten := ⟨[], _, by rw [← reportBody_eq]; rfl, rfl⟩
    have hat := hbodyAt.trans (standsAt_part s.reportParts hq)
    rwa [Nat.zero_add, List.length_flatten, List.map_take, hlens] at hat
  exact {
    length := report_length hbody
    nonce := hpart 0 (by decide)
    measures := hpart 1 (by decide)
    modnum := hpart 2 (by decide)
    tiermode := hpart 3 (by decide)
    reserved := hpart 4 (by decide)
    presence := hpart 5 (by decide)
    key := hpart 6 (by decide)
    body := List.take_left' hbody
    signature := List.drop_left' hbody }

theorem attestation : Claims.Attestation := by
  unfold Claims.Attestation
  intro n
  have hslice : ∀ {r l : List Byte} {i k : Nat}, StandsAt r i l → l.length = k → n r i k = l := fun h hk => hk ▸ h.slice
  refine ⟨fun s hbusy => ?_, fun s hbusy hbuf => ?_, fun s hbusy hne hmod => ?_, fun s hbusy => ?_,
    fun s hbusy hnonce hregs hreg hwf hroom => ?_⟩
  · exact congrArg Host.Outcome.next (if_pos hbusy)
  · refine congrArg Host.Outcome.next ((if_neg (by simp [hbusy])).trans (if_pos (by simpa using hbuf)))
  · refine congrArg Host.Outcome.next ((if_neg (by simp [hbusy])).trans (if_neg (by simpa using ⟨hne, hmod⟩)))
  · exact congrArg Host.Outcome.next (if_neg (by simp [hbusy]))
  · obtain ⟨hlen, nonce, measures, modnum, tiermode, reserved, presence, key, body, signature⟩ := reportLayout hnonce hregs hreg
    have haddr : ∀ i < s.report.length, hostAddr (s.dev.attBufIn.toNat + i) = 2 * 2 ^ 48 + s.dev.attBufIn.toNat + i := by
      intro i hi
      rw [hostAddr, Nat.mod_eq_of_lt (by omega)]
      exact (Nat.add_assoc _ _ _).symm
    refine ⟨(s.setHosts s.dev.attBufIn.toNat s.report).onDev (fun d => { d with attBusy := false }), s.report,
      congrArg Host.Outcome.next (if_pos hbusy), ?_, ?_, ?_, hlen, hslice nonce hnonce, ?_, ?_, ?_, ?_, ?_, ?_, ?_⟩
    · rw [State.setHosts_frame]
      rfl
    · intro i hi
      rw [← haddr i hi]
      exact State.rawByte_setHosts hwf _ _ (by omega) hi
    · intro p hp
      exact State.rawByte_setHosts_ne s _ _ (fun i hi => by rw [haddr i hi]; exact hp i hi)
    · intro k hk
      have hk' : k < s.dev.measures.length := by rw [hregs]; exact hk
      have hat := measures.trans (standsAt_flatten hreg hk')
      rw [hslice hat (hreg _ (List.getElem_mem hk')), List.getD_eq_getElem?_getD, List.getElem?_eq_getElem hk', Option.getD_some]
    · exact (congrArg natOf (hslice modnum (bytesOf_length 4 _))).trans (natOf_bytesOf 4 _)
    · rw [hslice tiermode (bytesOf_length 4 _), natOf_bytesOf]
      exact Nat.mod_eq_of_lt (Nat.lt_trans s.dev.tiermode.isLt (by decide))
    · rw [hslice reserved (bytesOf_length 24 _), natOf_bytesOf, Nat.zero_mod]
    · intro c hc
      obtain ⟨b, hb, hbit⟩ := presence_bit s hc
      have hbyte : n s.report (0x440 + c / 8) 1 = [b] := hslice (presence.trans hb) rfl
      rw [hbyte, natOf, natOf]
      simpa using hbit
    · intro hkey
      rw [reportKey, take_append_replicate hkey] at key
      exact hslice key hkey
    · intro hsig
      rw [body] at hsig ⊢
      rw [take_append_replicate hsig] at signature
      rw [← hsig] 
      simp only [n, signature, List.take_length]

/-! ## The management map (R352) -/

/-- A write to a register that the hold point fixes (R351). -/
theorem bootWrite_open {s : State} (h : ¬ (s.dev.boot = .released ∨ s.dev.boot = .ready)) (off : Nat) (v : Word)
    (u : Device → Device) : s.bootWrite off v u = s.onDev u := by
  rw [State.bootWrite, if_neg (by simpa using h)]

/-- A write to a register that the hold point has fixed is ignored; without an error log it leaves no record either. -/
theorem bootWrite_fixed {s : State} (h : s.dev.boot = .released ∨ s.dev.boot = .ready) (hlog : s.dev.elog = 0)
    (off : Nat) (v : Word) (u : Device → Device) : s.bootWrite off v u = s := by
  rw [State.bootWrite, if_pos (by simpa using h), State.log, if_pos (Or.inl (by rw [hlog]; rfl))]

/-- A write to a routing register (R352). -/
theorem registerWrite_route0 (s : State) (v : Word) {off : Nat} (hlo : 0x0100 ≤ off) (hhi : off < 0x0140) (hal : off % 4 = 0) :
    s.registerWrite off v = s.bootWrite off v (fun d => { d with route0 := setBytes4 d.route0 (off - 0x0100) v }) := by
  simp only [State.registerWrite, Bool.and_eq_true, decide_eq_true_eq]
  repeat rw [if_neg (by omega)]
  rw [if_pos (by omega)]

/-- See `registerWrite_route0`. -/
theorem registerWrite_route1 (s : State) (v : Word) {off : Nat} (hlo : 0x0140 ≤ off) (hhi : off < 0x0180) (hal : off % 4 = 0) :
    s.registerWrite off v = s.bootWrite off v (fun d => { d with route1 := setBytes4 d.route1 (off - 0x0140) v }) := by
  simp only [State.registerWrite, Bool.and_eq_true, decide_eq_true_eq]
  repeat rw [if_neg (by omega)]
  rw [if_pos (by omega)]

/-- A write to the nonce registers (R349, R352). -/
theorem registerWrite_nonce (s : State) (v : Word) {off : Nat} (hlo : 0x0500 ≤ off) (hhi : off < 0x0520) (hal : off % 4 = 0) :
    s.registerWrite off v = s.onDev (fun d => { d with nonce := setBytes4 d.nonce (off - 0x0500) v }) := by
  simp only [State.registerWrite, Bool.and_eq_true, decide_eq_true_eq]
  repeat rw [if_neg (by omega)]
  rw [if_pos (by omega)]

/-- A write to an offset of no register (R7). -/
theorem registerWrite_unlisted (s : State) (v : Word) {off : Nat} (h : off = 0 ∨ off = 0x14 ∨ (0x34 ≤ off ∧ off < 0x40)
    ∨ (0x48 ≤ off ∧ off < 0x100) ∨ (0x180 ≤ off ∧ off < 0x500) ∨ 0x52C ≤ off ∨ off % 4 ≠ 0) : s.registerWrite off v = s := by
  simp only [State.registerWrite, Bool.and_eq_true, decide_eq_true_eq]
  repeat rw [if_neg (by omega)]

theorem odd_iff_getLsbD (v : Word) : v.toNat % 2 = 1 ↔ v.getLsbD 0 = true := by
  rw [BitVec.getLsbD, Nat.testBit_zero, decide_eq_true_eq]

theorem mem_addNat (k p : Nat) (l : List Nat) : p ∈ addNat k l ↔ p = k ∨ p ∈ l := by
  induction l with
  | nil => simp [addNat]
  | cons h t ih =>
    unfold addNat
    split
    · simp
    · split
      · next _ hk => simp [hk]
      · simp only [List.mem_cons, ih]
        exact or_left_comm

theorem setHalf_low (d : DWord) (v : Word) : setHalf d false v = d.extractLsb' 32 32 ++ v := by
  apply BitVec.eq_of_toNat_eq
  have hd := d.isLt
  have hv := v.isLt
  simp only [setHalf, Bool.false_eq_true, if_false, BitVec.toNat_ofNat, BitVec.toNat_append, BitVec.extractLsb'_toNat,
    Nat.shiftRight_eq_div_pow]
  rw [← Nat.shiftLeft_add_eq_or_of_lt hv, Nat.shiftLeft_eq]
  omega

theorem setHalf_high (d : DWord) (v : Word) : setHalf d true v = v ++ d.extractLsb' 0 32 := by
  apply BitVec.eq_of_toNat_eq
  have hv := v.isLt
  simp only [setHalf, if_true, BitVec.toNat_ofNat, BitVec.toNat_append, BitVec.extractLsb'_toNat, Nat.shiftRight_zero]
  rw [← Nat.shiftLeft_add_eq_or_of_lt (Nat.mod_lt _ (by decide)), Nat.shiftLeft_eq]
  omega

theorem and_high_half (v : Word) : v &&& 0xFFFF0000 = BitVec.ofNat 32 (v.toNat / 65536 * 65536) := by
  have hmask : ∀ i < 32, (0xFFFF0000 : Word).getLsbD i = decide (16 ≤ i) := by decide
  apply BitVec.eq_of_getLsbD_eq
  intro i hi
  rw [BitVec.getLsbD_and, hmask i hi, BitVec.getLsbD_ofNat, decide_eq_true hi, Bool.true_and,
    show 65536 = 2 ^ 16 from rfl, Nat.testBit_mul_two_pow, Nat.testBit_div_two_pow, BitVec.getLsbD]
  by_cases h16 : 16 ≤ i <;> simp [h16]

theorem and_low_20 (v : Word) : v &&& 0x000FFFFF = BitVec.ofNat 32 (v.toNat % 2 ^ 20) := by
  apply BitVec.eq_of_toNat_eq
  rw [BitVec.toNat_and, BitVec.toNat_ofNat, Nat.mod_eq_of_lt (by omega)]
  exact Nat.and_two_pow_sub_one_eq_mod v.toNat 20

theorem not_getLsbD_zero (v : Word) : (!v.getLsbD 0) = decide (v.toNat % 2 = 0) := by
  rw [BitVec.getLsbD, Nat.testBit_zero, ← decide_not, decide_eq_decide, Nat.mod_two_not_eq_one]

/-! ### The registers of the map, one by one -/

section Registers

variable (s : State) (v : Word)

theorem registerWrite_bootctl : s.registerWrite 0x0004 v
    = if s.dev.boot = .hold && v.toNat % 2 = 1 then s.leaveHold [] else s.bootWrite 0x0004 v id := by
  rw [State.registerWrite, if_pos rfl]

theorem registerWrite_modnum :
    s.registerWrite 0x0008 v = s.bootWrite 0x0008 v (fun d => { d with modnum := v.toNat % 64 }) := by
  unfold State.registerWrite
  repeat rw [if_neg (by decide)]
  rw [if_pos rfl]

theorem registerWrite_tiermode :
    s.registerWrite 0x000C v = s.bootWrite 0x000C v (fun d => { d with tiermode := v.setWidth 12 }) := by
  unfold State.registerWrite
  repeat rw [if_neg (by decide)]
  rw [if_pos rfl]

theorem registerWrite_opcmd : s.registerWrite 0x0010 v = s.opCommand (v.toNat % 16) := by
  unfold State.registerWrite
  repeat rw [if_neg (by decide)]
  rw [if_pos rfl]

theorem registerWrite_mreview : s.registerWrite 0x0018 v = if v.toNat % 2 = 1 then s.reviewRequest
    else s.onDev (fun d => { d with mreview := false }) := by
  unfold State.registerWrite
  repeat rw [if_neg (by decide)]
  rw [if_pos rfl]

theorem registerWrite_keyret : s.registerWrite 0x001C v = s.retireKey (v.toNat % 1024) := by
  unfold State.registerWrite
  repeat rw [if_neg (by decide)]
  rw [if_pos rfl]

theorem registerWrite_invctx : s.registerWrite 0x0020 v = s.onDev (fun d => { d with invctx := v.toNat % 1024 }) := by
  unfold State.registerWrite
  repeat rw [if_neg (by decide)]
  rw [if_pos rfl]

theorem registerWrite_invva : s.registerWrite 0x0024 v = s.onDev (fun d => { d with invva := v &&& 0xFFFF0000 }) := by
  rw [and_high_half, State.registerWrite]
  repeat rw [if_neg (by decide)]
  rw [if_pos rfl]

theorem registerWrite_invvah : s.registerWrite 0x0028 v = s.onDev (fun d => { d with invvah := v &&& 0x000FFFFF }) := by
  rw [and_low_20, State.registerWrite]
  repeat rw [if_neg (by decide)]
  rw [if_pos rfl]

theorem registerWrite_invpages : s.registerWrite 0x002C v = s.invalidate v := by
  unfold State.registerWrite
  repeat rw [if_neg (by decide)]
  rw [if_pos rfl]

theorem registerWrite_invdone :
    s.registerWrite 0x0030 v = s.onDev (fun d => { d with invdone := d.invdone && !v.getLsbD 0 }) := by
  rw [not_getLsbD_zero, State.registerWrite]
  repeat rw [if_neg (by decide)]
  rw [if_pos rfl]

theorem registerWrite_elog_low :
    s.registerWrite 0x0040 v = s.onDev (fun d => { d with elog := d.elog.extractLsb' 32 32 ++ v }) := by
  simp only [← setHalf_low]
  unfold State.registerWrite
  repeat rw [if_neg (by decide)]
  rw [if_pos rfl]

theorem registerWrite_elog_high :
    s.registerWrite 0x0044 v = s.onDev (fun d => { d with elog := v ++ d.elog.extractLsb' 0 32 }) := by
  simp only [← setHalf_high]
  unfold State.registerWrite
  repeat rw [if_neg (by decide)]
  rw [if_pos rfl]

theorem registerWrite_attbuf_low :
    s.registerWrite 0x0520 v = s.onDev (fun d => { d with attbuf := d.attbuf.extractLsb' 32 32 ++ v }) := by
  simp only [← setHalf_low]
  unfold State.registerWrite
  repeat rw [if_neg (by decide)]
  rw [if_pos rfl]

theorem registerWrite_attbuf_high :
    s.registerWrite 0x0524 v = s.onDev (fun d => { d with attbuf := v ++ d.attbuf.extractLsb' 0 32 }) := by
  simp only [← setHalf_high]
  unfold State.registerWrite
  repeat rw [if_neg (by decide)]
  rw [if_pos rfl]

theorem registerWrite_attcmd : s.registerWrite 0x0528 v = if v.toNat % 2 = 1 then s.attestRequest
    else s.onDev (fun d => { d with attcmd := false }) := by
  unfold State.registerWrite
  repeat rw [if_neg (by decide)]
  rw [if_pos rfl]

end Registers

/-- A write to a register of the map that sets fields of the device's registers. -/
theorem exec_registerWrite_of {s : State} {off : Nat} {v : Word} {u : Device → Device} (h : s.registerWrite off v = s.onDev u) :
    exec (.registerWrite off v) s = .next { s with dev := u s.dev } :=
  congrArg Host.Outcome.next h

/-- A write to a register of the map that another step's meaning takes. -/
theorem exec_registerWrite_eq {s t : State} {off : Nat} {v : Word} (h : s.registerWrite off v = t) :
    exec (.registerWrite off v) s = .next t :=
  congrArg Host.Outcome.next h

/-- A write to OPCMD gives the command of its low four bits (R353). -/
theorem exec_opcmd {s : State} {v : Word} {c : Nat} (hc : v.toNat % 16 = c) :
    exec (.registerWrite 0x0010 v) s = .next (s.opCommand c) :=
  exec_registerWrite_eq ((registerWrite_opcmd s v).trans (congrArg s.opCommand hc))

/-- A command code that names no state is refused with result 3 (R353). -/
theorem opCommand_unlisted {s : State} {code : Nat} (hcode : 12 ≤ code) (hbusy : s.dev.busy = false)
    (hreview : s.dev.reviewBusy = false) (htrip : s.dev.trip = false) :
    s.opCommand code = s.onDev (fun d => { d with opcmd := code, result := 3 }) := by
  have hrefused : s.opRefusal code = some 3 := by simp [State.opRefusal, hbusy, hreview, htrip, hcode]
  rw [State.opCommand, hrefused]

/-- What stays of a fabric port's link once it comes up or goes down (R341). -/
theorem fabricLinkChange_links (port : Nat) (up : Bool) (l : List Nat) (p : Nat) :
    p ∈ (if up then addNat port l else l.filter (fun q => q ≠ port)) ↔ if p = port then up = true else p ∈ l := by
  cases up <;> by_cases hp : p = port <;> simp [mem_addNat, hp]

theorem managementMap : Claims.ManagementMap := by
  unfold Claims.ManagementMap
  intro fixed writes bytes low high
  refine ⟨fun s v hv hb => ?_, fun s v off hfix hlog hoff => ?_, fun s v hopen => ⟨?_, ?_, fun i hi => ⟨?_, ?_⟩⟩,
    fun s v c hc => ?_, fun s v => ⟨?_, ?_, ?_, ?_⟩, fun s v hv hbusy hreview htrip => ?_, fun s v hv => ⟨?_, ?_⟩,
    fun s v hv => ⟨?_, ?_⟩, fun s v => ⟨?_, ?_, ?_, ?_, ?_, ?_, ?_, ?_, ?_, ?_, fun i hi => ?_⟩,
    fun s v off hoff => exec_registerWrite_eq (registerWrite_unlisted s v hoff),
    fun s port up hport => ?_, fun s port up hport => ?_⟩
  · exact exec_registerWrite_eq ((registerWrite_bootctl s v).trans (if_pos (by simp [hb, odd_iff_getLsbD, hv])))
  · refine exec_registerWrite_eq ?_
    rcases hoff with hoff | ⟨hlo, hhi, hal⟩
    · simp only [List.mem_cons, List.not_mem_nil, or_false] at hoff
      rcases hoff with rfl | rfl | rfl
      · refine (registerWrite_bootctl s v).trans ((if_neg ?_).trans (bootWrite_fixed hfix hlog _ _ _))
        rcases hfix with hb | hb <;> simp [hb]
      · exact (registerWrite_modnum s v).trans (bootWrite_fixed hfix hlog _ _ _)
      · exact (registerWrite_tiermode s v).trans (bootWrite_fixed hfix hlog _ _ _)
    · by_cases hlt : off < 0x0140
      · exact (registerWrite_route0 s v hlo hlt hal).trans (bootWrite_fixed hfix hlog _ _ _)
      · exact (registerWrite_route1 s v (by omega) hhi hal).trans (bootWrite_fixed hfix hlog _ _ _)
  · exact exec_registerWrite_of ((registerWrite_modnum s v).trans (bootWrite_open hopen _ _ _))
  · exact exec_registerWrite_of ((registerWrite_tiermode s v).trans (bootWrite_open hopen _ _ _))
  · refine exec_registerWrite_eq ((registerWrite_route0 s v (off := 0x0100 + 4 * i) (by omega) (by omega) (by omega)).trans ?_)
    rw [bootWrite_open hopen, Nat.add_sub_cancel_left]
    rfl
  · refine exec_registerWrite_eq ((registerWrite_route1 s v (off := 0x0140 + 4 * i) (by omega) (by omega) (by omega)).trans ?_)
    rw [bootWrite_open hopen, Nat.add_sub_cancel_left]
    rfl
  · exact exec_opcmd hc
  · exact exec_opcmd
  · exact exec_opcmd
  · exact exec_opcmd
  · exact exec_opcmd
  · exact (exec_opcmd rfl).trans (congrArg Host.Outcome.next (opCommand_unlisted hv hbusy hreview htrip))
  · exact exec_registerWrite_eq ((registerWrite_mreview s v).trans (if_pos ((odd_iff_getLsbD v).mpr hv)))
  · exact exec_registerWrite_eq ((registerWrite_attcmd s v).trans (if_pos ((odd_iff_getLsbD v).mpr hv)))
  · exact exec_registerWrite_of ((registerWrite_mreview s v).trans (if_neg (by rw [odd_iff_getLsbD, hv]; decide)))
  · exact exec_registerWrite_of ((registerWrite_attcmd s v).trans (if_neg (by rw [odd_iff_getLsbD, hv]; decide)))
  · refine exec_registerWrite_eq ((registerWrite_keyret s v).trans (congrArg s.retireKey ?_))
    exact (BitVec.toNat_setWidth 10 v).symm
  · exact exec_registerWrite_eq (registerWrite_invpages s v)
  · exact exec_registerWrite_of (registerWrite_invctx s v)
  · exact exec_registerWrite_of (registerWrite_invva s v)
  · exact exec_registerWrite_of (registerWrite_invvah s v)
  · exact exec_registerWrite_of (registerWrite_invdone s v)
  · exact exec_registerWrite_of (registerWrite_elog_low s v)
  · exact exec_registerWrite_of (registerWrite_elog_high s v)
  · exact exec_registerWrite_of (registerWrite_attbuf_low s v)
  · exact exec_registerWrite_of (registerWrite_attbuf_high s v)
  · refine exec_registerWrite_eq ((registerWrite_nonce s v (off := 0x0500 + 4 * i) (by omega) (by omega) (by omega)).trans ?_)
    rw [Nat.add_sub_cancel_left]
    rfl
  · exact congrArg Host.Outcome.next (if_neg (by omega))
  · exact ⟨_, congrArg Host.Outcome.next (if_pos hport), fabricLinkChange_links port up s.dev.links⟩

/-- Settles O50, by where the parts of a report stand, and by an equation for each register of the map. -/
theorem managementAndAttestation : Obligations.ManagementAndAttestation := ⟨attestation, managementMap⟩

end Sys2Proof.Machine
end
